-- ==== Sys2Proof/Word.lean ====
section
/-! DEFINITION. The word types of the CN48 and the numbers of its units. -/

namespace Sys2Proof

/-- One byte (R2: device memory, ring entries, descriptors and bundle images are little-endian bytes). -/
abbrev Byte := BitVec 8
/-- A 32-bit word: loop counters, address bases, sliver registers, fp32 patterns. -/
abbrev Word := BitVec 32
/-- A 64-bit word: slot words, digests. -/
abbrev DWord := BitVec 64
/-- A string of bytes. -/
abbrev Bytes := List Byte

/-- Logical slice SL0 to SL5 (R9: software addresses slices only by logical number). -/
abbrev SliceId := Fin 6
/-- Queue Q00 to Q63. -/
abbrev QueueId := Fin 64
/-- Context CTX000 to CTX255. -/
abbrev CtxId := Fin 256
/-- Stream S00 to S47. -/
abbrev StreamId := Fin 48
/-- GDDR6 channel 0 (G0A) to 11 (G5B), R198. -/
abbrev ChanId := Fin 12
/-- Peer 0 to 31, R234. -/
abbrev PeerId := Fin 32
/-- CSI-2 port CSI0 to CSI3, R286. -/
abbrev CsiPort := Fin 4
/-- Data port D0 or D1, R311. -/
abbrev DataPort := Fin 2
/-- Firmware processor BTP, SFP, DXP, PWP, SCP, MDP by its number, R436. -/
abbrev ProcId := Fin 6

/-- A sliver thread by its logical slice, cluster, core and thread (R171). -/
structure HartId where
  slice   : SliceId
  cluster : Fin 16
  core    : Fin 16
  thread  : Fin 4
  deriving DecidableEq, Repr

/-- mhartid: slice × 1,024 + cluster × 64 + core × 4 + thread (R171). -/
def HartId.num (h : HartId) : Nat :=
  h.slice.val * 1024 + h.cluster.val * 64 + h.core.val * 4 + h.thread.val

end Sys2Proof
end

