-- ==== Sys2Proof/Syntax.lean ====
section
/-! DEFINITION. The commands and events of the CN48: one constructor of Instr for each row of
spec/opcode_table.json, with the operands that cross the device's boundary with the event. The table gives
no operand bits; each operand is what the row's rule names (notes/assumptions/2.md). -/

namespace Sys2Proof

/-- Where a host frame came from: IP address, UDP port and VLAN (R354 binds the lease to these). -/
structure Src where
  addr : Nat
  port : Nat
  vlan : Nat
  deriving DecidableEq, Repr

/-- The header fields of a Host Link Protocol request that decide whether and when it is executed (R335). -/
structure Req where
  src     : Src
  session : Word
  seq     : Word
  deriving DecidableEq, Repr

/-- A write of a scalar CMD or RW object: the request, the DEFER flag of R340 and the value written. -/
structure CmdW where
  req   : Req
  defer : Bool
  value : Nat
  deriving DecidableEq, Repr

/-- A write of a BLOB object. -/
structure BlobW where
  req   : Req
  defer : Bool
  bytes : Bytes
  deriving DecidableEq, Repr

/-- The opening of a bundle: its 32-bit header (R117) and the slice-clock cycle in which the sequencer tries
to issue it. A slot command without one belongs to the bundle already open. -/
structure Issue where
  hdr : Word
  cyc : Nat
  deriving DecidableEq, Repr

/-- A physical upset of the array: in one vector of the tile, one column sum is xor-ed with a pattern. -/
structure Upset where
  vec  : Nat
  col  : Nat
  flip : Word
  deriving DecidableEq, Repr

/-- A frozen cycle of the grid (R36, R39): the slice-clock cycle, and which of the three conditions held in it. -/
structure FrozenCycle where
  cyc   : Nat
  feedA : Bool
  feedB : Bool
  drain : Bool
  deriving DecidableEq, Repr

/-- What the ECC of an engine's reads finds in one 32-byte bank word of a row: a corrected single-bit error, or an
uncorrectable one (R95). -/
structure TsEcc where
  row  : Nat
  word : Fin 4
  bad  : Bool
  deriving DecidableEq, Repr

/-- A physical upset of the drain (R56): the stage whose result it changes, 0xFE for accumulation into the bank, the
output (the cell, for accumulation), and the pattern xor-ed on the result. -/
structure DrainUpset where
  stage : Byte
  out   : Nat
  flip  : DWord
  deriving DecidableEq, Repr

/-- The fetch of a program row: the slice, and the cycle of the DMA port's slot that it takes (R116). -/
structure RowFetch where
  slice : SliceId
  cyc   : Nat
  deriving DecidableEq, Repr

/-- The start of a weight load: the cycle in which Feeder B reads the first row, the frozen cycles that begin with it, and
what the ECC finds in the rows read (R36, R95). -/
structure LoadStart where
  cyc    : Nat
  frozen : List FrozenCycle
  ecc    : List TsEcc
  deriving DecidableEq, Repr

/-- What befalls a tile: upsets of its rows, and what the ECC finds in the rows that Feeder A reads (R48, R95). -/
structure TileFaults where
  upsets : List Upset
  ecc    : List TsEcc
  deriving DecidableEq, Repr

/-- What befalls the work of a transform unit: its two copies disagree (R163); the ECC of the rows read (R95). -/
structure XfmFaults where
  disagree : Bool
  ecc      : List TsEcc
  deriving DecidableEq, Repr

/-- A step of the drain: its cycle, upsets of its stages (R56), and the ECC of the residual rows read (R95). -/
structure DrainStep where
  cyc    : Nat
  upsets : List DrainUpset
  ecc    : List TsEcc
  deriving DecidableEq, Repr

/-- A request that a DMA engine sends: its direction, and the ECC of the rows that a request out reads (R95, R103). -/
structure DmaSend where
  out : Bool
  ecc : List TsEcc
  deriving DecidableEq, Repr

/-- What the ECC of a read finds (R95, R204). -/
inductive EccKind where
  | clean
  | correctable
  | uncorrectable
  deriving DecidableEq, Repr

/-- How many bytes of a 64-byte block and its code the memory delivers wrong: a code over 8-bit symbols corrects two and
detects up to four (R201); what it makes of more the spec does not state (notes/assumptions/57.md). -/
abbrev MemErr := Fin 5

/-- What the ECC of a local store finds in one 32-bit word of it, by its address: a corrected single-bit error, or an
uncorrectable one (R186). -/
structure LsEcc where
  addr : Nat
  bad  : Bool
  deriving DecidableEq, Repr

/-- The descriptor of an SL.DMAQ: the register with its address, and what the ECC finds in the local store it is read from
(R178, R186). -/
structure DmaqRead where
  rs1 : Fin 32
  ls  : List LsEcc
  deriving DecidableEq, Repr

/-- The cycles for which an instruction holds its core, stalls included: the first one and their number (R175, R195). -/
structure Cycles where
  first : Nat
  own   : Nat
  deriving DecidableEq, Repr

/-- A load from the tile-store window that has waited for its data: its cycles, and the ECC of the rows read (R95, R182). -/
structure WindowRead where
  cycles : Cycles
  ecc    : List TsEcc
  deriving DecidableEq, Repr

/-- Why a line is requested: the cycles for which the access waited for a miss register, and whether the line stands in
the cache and is bad (R185, R186). -/
structure MissCause where
  waited : Nat
  bad    : Bool
  deriving DecidableEq, Repr

/-- The arrival of a line or of a cluster DMA's data: the line fails its check; the ECC of device memory and of the local
store (R186, R204). -/
structure FillEnd where
  bad : Bool
  ecc : MemErr
  ls  : List LsEcc
  deriving DecidableEq, Repr

/-- The five ports of the tile store (R90). -/
inductive TsPort where
  | feederA
  | feederB
  | drain
  | dma
  | sliver
  deriving DecidableEq, Repr

/-- One access of a tile-store port: the row of the allocation it names, the bytes and byte mask of a write,
the cycle, and what its ECC finds in each of the row's four bank words (R90 to R95). -/
structure TsAccess where
  port  : TsPort
  write : Bool
  row   : Nat
  data  : Bytes
  mask  : List Bool
  cyc   : Nat
  ecc   : List EccKind
  deriving DecidableEq, Repr

/-- One thread of a sliver task as the package and the SCP place it (R183, R188). -/
structure TaskThread where
  cluster : Fin 16
  core    : Fin 16
  thread  : Fin 4
  entry   : Nat
  lsLo    : Nat
  lsLen   : Nat
  deriving DecidableEq, Repr

/-- Copy B of a safety-relevant task: its task number, and the start of its own output region (R191). -/
structure CopyB where
  id      : Nat
  outBase : Nat
  deriving DecidableEq, Repr

/-- A sliver task to start: its threads, images and budget, and what makes it run as two copies (R185 to R195). -/
structure TaskSpec where
  id        : Nat
  threads   : List TaskThread
  /-- the slivers into which its work is divided -/
  slivers   : Nat
  codeBase  : Nat
  codeLen   : Nat
  constBase : Nat
  constLen  : Nat
  budget    : Option Nat
  /-- the package marks the task safety-relevant: it runs as two copies -/
  dual      : Option CopyB
  /-- the output region: in the tile store (true) or in device memory, its start and length -/
  outTs     : Bool
  outBase   : Nat
  outLen    : Nat
  deriving DecidableEq, Repr

/-- The source of a memory request (R221). -/
inductive ReqSource where
  | slice (sl : SliceId)
  | cluster (sl : SliceId) (cl : Fin 16)
  | media
  deriving DecidableEq, Repr

/-- A 64-byte request to a sorter: its source, its device address, and for a write the bytes with their mask. -/
structure MemReq where
  source : ReqSource
  addr   : Nat
  write  : Bool
  data   : Bytes
  mask   : List Bool
  deriving DecidableEq, Repr

/-- How a GDDR6 burst ended: link check passed, and what the ECC found (R200, R204). -/
structure BurstEnd where
  edcOk : Bool
  ecc   : MemErr
  deriving DecidableEq, Repr

/-- A split in K of a layer: the K-chunks at which its parts end, the program of each part's pass, and the programs of the
final pass by the order in which they add the parts' partial-sum tensors (R77, R273). -/
structure KSplit where
  layer  : Nat
  bounds : List Nat
  parts  : List Nat
  final  : List (List Nat × Nat)
  deriving DecidableEq, Repr

/-- One graph of a package (R235, R238). splits: the splits of the layer that a program of the list runs unsplit, by its
place in the list. -/
structure Graph where
  programs : List Nat
  splits   : List (Nat × KSplit)
  estUs    : Nat
  segments : Nat
  perFrameUs : Nat
  deriving DecidableEq, Repr

/-- A layer of a package as statistics need it: output scale and calibration baseline, fp32 (R84). -/
structure LayerInfo where
  id       : Nat
  outScale : Word
  baseline : Word
  deriving DecidableEq, Repr

/-- A trainable layer of an adaptation graph (R167). -/
structure TrainedLayer where
  pointwise : Bool
  bf16      : Bool
  deriving DecidableEq, Repr

/-- A region that sliver cores write, and the flag that guards it (R136, FENCE). -/
structure SliverRegion where
  row  : Nat
  rows : Nat
  flag : Nat
  deriving DecidableEq, Repr

/-- A use of an element format in a role (R62): format code of Table — Element type codes, 0x8 int32, 0x9 fp32;
role 0 weight, 1 activation, 2 SCALE output, 3 bias, 4 scale, 5 partial sum or accumulator. -/
structure FormatUse where
  format  : Nat
  role    : Nat
  intLayer : Bool
  deriving DecidableEq, Repr

/-- The content of a Yesar package. The spec gives the tables' formats and not the package's own layout, so LOAD
carries the content (notes/assumptions/5.md). -/
structure Package where
  headerOk    : Bool
  geometry    : List (Nat × Nat)
  programs    : List Bytes
  descriptors : List Bytes
  windows     : List Bytes
  transforms  : List Bytes
  chains      : List Bytes
  actTabs     : List Bytes
  origins     : List (List Bytes)
  scales      : List Word
  formats     : List FormatUse
  /-- the bytes of its group-scaled int4 weight tiles (R70), and of its complex weight tiles (R157) -/
  group4Tiles : List Bytes
  complexTiles : List Bytes
  /-- the GATHER and BOX lists that it holds, by descriptor index (R98, R99) -/
  lists       : List (Nat × List Bytes)
  tsAlloc     : Nat
  bankVecs    : Nat
  flagsDeclared : List Nat
  flagsSet    : List Nat
  sliverRegions : List SliverRegion
  kElements   : List (Nat × Nat)
  filters     : List (Nat × Nat × Nat × Bool)
  trained     : List TrainedLayer
  pool        : Nat
  resultBytes : Nat
  bufBytes    : Nat
  imagePages  : Nat
  graphs      : List Graph
  layers      : List LayerInfo
  /-- the fixed split plan: layer and part count (R273) -/
  splitParts  : List (Nat × Nat)
  /-- where its image holds each weight set: set and byte offset (R267; notes/assumptions/21.md) -/
  weightSets  : List (Nat × Nat)
  /-- it is a language head, whose decode steps are batched (R45) -/
  languageHead : Bool
  deriving DecidableEq, Repr

/-- How a LOAD's reading of the package went (R239). -/
inductive LoadRead where
  | ok
  | poisoned
  deriving DecidableEq, Repr

/-- A peer frame as its header gives it (R230), with the data of a DATA frame. -/
structure PeerFrame where
  last     : Bool
  getReply : Bool
  xfer     : Word
  seq      : Nat
  ack      : Nat
  addr     : Nat
  total    : Nat
  status   : Nat
  data     : Bytes
  deriving DecidableEq, Repr

/-- A doorbell entry: the QUEUE byte, the two bytes that must be zero, and VALUE (R346). -/
structure Doorbell where
  queue : Nat
  pad   : Nat
  value : Word
  deriving DecidableEq, Repr

/-- What a CSI-2 long packet's checks found (R286, R287). -/
inductive PktCheck where
  | clean
  | headerCorrected
  | headerBad
  | checksumBad
  | vcx
  | overflow
  deriving DecidableEq, Repr

/-- The end of a job as the slice reports it: bytes of result in the buffer and energy in µJ (R249, R431). -/
structure JobOut where
  len      : Nat
  energyUj : Nat
  deriving DecidableEq, Repr

/-- Which MACsec state a received host-port frame is in (R332, R333). -/
inductive Protection where
  | unprotected
  /-- protected under association number an, with packet number pn, verified or not -/
  | macsec (an : Fin 4) (pn : Nat) (verified : Bool)
  deriving DecidableEq, Repr

/-- What a received Ethernet frame carries. -/
inductive Payload where
  | arp (target : Nat)
  | neighbour (target : Nat)
  | echo (target : Nat)
  /-- a membership query of IGMPv3 or MLDv2 (R312) -/
  | groupQuery
  | gptp
  | udp (dst : Nat) (dstPort : Nat) (body : Bytes)
  | other
  deriving DecidableEq, Repr

/-- A received Ethernet frame, after its physical checks (R311, R330, R393). -/
structure EthFrame where
  bytes    : Nat
  fcsOk    : Bool
  ipOk     : Bool
  udpOk    : Bool
  fragment : Bool
  toUs     : Bool
  onLink   : Bool
  src      : Src
  prot     : Protection
  payload  : Payload
  deriving DecidableEq, Repr

/-- An RTP packet on a session's address, port and VLAN (R314). -/
structure RtpPacket where
  version : Nat
  pt      : Nat
  ssrc    : Word
  seq     : BitVec 16
  ts      : Word
  marker  : Bool
  supported : Bool
  /-- the packet carries data of a picture that others refer to -/
  refPic  : Bool
  irap    : Bool
  body    : Bytes
  deriving DecidableEq, Repr

/-- The end of a decode (R316, R319, R320, R323). -/
structure DecodeEnd where
  error    : Bool
  conforms : Bool
  width    : Nat
  height   : Nat
  timecode : Nat
  deriving DecidableEq, Repr

/-- The meters of one evaluation of chip power (R415, R431): chip power in mW over the preceding 1 ms, and the energy in
mJ that each total has gained: chip, attributed to no job, twilight work, and each slice's domains. -/
structure MeterRead where
  milliW   : Nat
  totalMj  : Nat
  noJobMj  : Nat
  twilightMj : Nat
  sliceMj  : List Nat
  deriving DecidableEq, Repr

/-- One regulator's answer to a PMBus read (R426, R428). -/
structure RegRead where
  idx      : Fin 16
  ok       : Bool
  overCurrent : Bool
  underVolt   : Bool
  overTemp    : Bool
  deriving DecidableEq, Repr

/-- One temperature sensor's reading in thousandths of a degree, none when it did not update (R422). -/
structure TempRead where
  sensor : Fin 24
  milliC : Option Int
  deriving DecidableEq, Repr

/-- The state of the board and of production test that Chrysalis meets at t0 (R471, R483). -/
structure BootEnv where
  bootsel   : BitVec 2
  failSlices : List SliceId
  failChannels : List ChanId
  copyBadA  : Bool
  copyBadB  : Bool
  /-- the boot flash's SFDP tables declare 8D-8D-8D (R504) -/
  octal     : Bool
  /-- power failed while a record of the persistent area was being appended: its CRC fails (R380) -/
  torn      : Bool
  deriving DecidableEq, Repr

/-- What an unfinished wait belongs to (R260). -/
inductive WaitRef where
  | head (q : QueueId)
  | sequencer (sl : SliceId)
  | thread (h : HartId)
  | deferred (k : Nat)
  deriving DecidableEq, Repr

/-- A generic dictionary write: object, segment offset, LAST flag and bytes as they travel (R340). -/
structure DictW where
  req   : Req
  index : BitVec 16
  sub   : Byte
  defer : Bool
  last  : Bool
  offset : Nat
  bytes : Bytes
  /-- the flash programs and reads back what a PERS-class write appends (R381) -/
  flashOk : Bool
  deriving DecidableEq, Repr

/-- The commands and events of the CN48, in the order of spec/opcode_table.json, those of the power chapter last. -/
inductive Instr where
  | pwronNDeassert (env : BootEnv)
  | railMonitorLow (rail : Fin 3)
  | coreRailLow (sl : Option SliceId)
  | refclkLoss
  | warmNAssert
  | warmCmd (w : CmdW)
  | crossingRequest (req tgt : Nat) (chan : Option ChanId) (acked : Bool)
  | islandHandshakeTimeout (id : Nat) (both : Bool)
  | lateAcknowledge (id : Nat)
  | programFetch (f : RowFetch)
  | lcSet (sl : SliceId) (b : Option Issue) (w : DWord)
  | lcAdd (sl : SliceId) (b : Option Issue) (w : DWord)
  | abSet (sl : SliceId) (b : Option Issue) (w : DWord)
  | abAdd (sl : SliceId) (b : Option Issue) (w : DWord)
  | cmp (sl : SliceId) (b : Option Issue) (w : DWord)
  | br (sl : SliceId) (b : Option Issue) (w : DWord)
  | brn (sl : SliceId) (b : Option Issue) (w : DWord)
  | loop (sl : SliceId) (b : Option Issue) (w : DWord)
  | sclFlagWait (sl : SliceId) (b : Option Issue) (w : DWord)
  | sclFlagSet (sl : SliceId) (b : Option Issue) (w : DWord)
  | sclFlagClr (sl : SliceId) (b : Option Issue) (w : DWord) (setToo : Bool)
  | layer (sl : SliceId) (b : Option Issue) (w : DWord)
  | halt (sl : SliceId) (b : Option Issue) (w : DWord)
  | dinIssue (sl : SliceId) (b : Option Issue) (w : DWord)
  | doutIssue (sl : SliceId) (b : Option Issue) (w : DWord)
  | faVec (sl : SliceId) (b : Option Issue) (w : DWord)
  | faWin (sl : SliceId) (b : Option Issue) (w : DWord)
  | faXfm (sl : SliceId) (b : Option Issue) (w : DWord)
  | fbDense (sl : SliceId) (b : Option Issue) (w : DWord)
  | fbGroup4 (sl : SliceId) (b : Option Issue) (w : DWord)
  | weightLoadStart (sl : SliceId) (l : LoadStart)
  | arrTile (sl : SliceId) (b : Option Issue) (w : DWord)
  | arrCont (sl : SliceId) (b : Option Issue) (w : DWord)
  | arrClearSlot (sl : SliceId) (b : Option Issue) (w : DWord)
  | tileStart (sl : SliceId) (cyc : Nat) (fr : List FrozenCycle) (f : TileFaults)
  | transform (sl : SliceId) (b : Option Issue) (w : DWord) (f : XfmFaults)
  | issue (sl : SliceId) (b : Option Issue) (w : DWord) (f : XfmFaults)
  | inverse (sl : SliceId) (b : Option Issue) (w : DWord) (f : XfmFaults)
  | drnWrite (sl : SliceId) (b : Option Issue) (w : DWord)
  | drnAdd (sl : SliceId) (b : Option Issue) (w : DWord)
  | drnAddOut (sl : SliceId) (b : Option Issue) (w : DWord)
  | drnWriteOut (sl : SliceId) (b : Option Issue) (w : DWord)
  | drainRow (sl : SliceId) (d : DrainStep)
  | rowVerdict (sl : SliceId)
  | arrClear (sl : SliceId) (w : CmdW)
  | breakpointMatch (sl : SliceId) (tag : BitVec 16)
  | breakpointStop (sl : SliceId)
  | brkResume (sl : SliceId) (w : CmdW)
  | brkSingleStep (sl : SliceId) (w : CmdW)
  | tileStoreAccess (sl : SliceId) (a : TsAccess)
  | descriptorStart (sl : SliceId) (out : Bool)
  | dmaRequestSend (sl : SliceId) (r : DmaSend)
  | dmaRequestDone (sl : SliceId) (tag : Nat) (ecc : MemErr)
  | descriptorComplete (sl : SliceId) (out : Bool)
  | tagExpiry (sl : SliceId) (tag : Nat)
  | tsClear (sl : SliceId) (w : CmdW)
  | sliverTaskStart (sl : SliceId) (t : TaskSpec)
  | sliverInstruction (h : HartId) (cyc : Cycles) (ls : List LsEcc)
  | csrAccess (h : HartId) (cyc : Cycles) (w : Word)
  | fence (h : HartId) (cyc : Cycles)
  | fenceI (h : HartId) (cyc : Cycles)
  | wfi (h : HartId) (cyc : Cycles)
  | slDmaq (h : HartId) (cyc : Cycles) (rd : Fin 32) (r : DmaqRead)
  | slDmaw (h : HartId) (cyc : Cycles) (rs1 : Fin 32)
  | slFwait (h : HartId) (cyc : Cycles) (rs1 : Fin 32)
  | slFset (h : HartId) (cyc : Cycles) (rs1 : Fin 32)
  | slFclr (h : HartId) (cyc : Cycles) (rs1 : Fin 32) (setToo : Bool)
  | slYield (h : HartId) (cyc : Cycles)
  | slExit (h : HartId) (cyc : Cycles)
  | slTimel (h : HartId) (cyc : Cycles) (rd : Fin 32)
  | slTimeh (h : HartId) (cyc : Cycles) (rd : Fin 32)
  | slDig (h : HartId) (cyc : Cycles) (rs1 rs2 : Fin 32)
  | slTsw (h : HartId) (cyc : Cycles) (rs1 rs2 : Fin 32)
  | slVtsw (h : HartId) (cyc : Cycles) (rs1 vs3 : Fin 32)
  | windowLoad (h : HartId) (r : WindowRead)
  | cacheMiss (h : HartId) (instr : Bool) (addr : Nat) (m : MissCause)
  | cacheLineFill (sl : SliceId) (cl : Fin 16) (slot : Fin 32) (f : FillEnd)
  | missRegisterExpiry (sl : SliceId) (cl : Fin 16) (slot : Fin 32)
  | cycleBudgetExhausted (sl : SliceId) (task : Nat)
  | dualCompare (sl : SliceId) (task : Nat)
  | clusterModeChange (sl : SliceId) (cl : Fin 16) (direct : Bool) (by' : ProcId) (base : BitVec 3) (entry : Word)
  | slvClear (sl : SliceId) (w : CmdW)
  | sorterEnqueue (r : MemReq)
  | requestAdmit (ch : ChanId) (bank : Fin 16)
  | sorterIssue (ch : ChanId)
  | requestAgeOver (ch : ChanId) (id : Nat)
  | burstComplete (ch : ChanId) (id : Nat) (e : BurstEnd)
  | retrainDone (ch : ChanId) (ok : Bool)
  | mirrorReplace (page : Nat)
  | scrubRead (ch : ChanId) (slot : Nat) (block : Fin 256) (ecc : MemErr)
  | heatDecay
  | migrationCheck (busy : List ChanId)
  | migrationCopyDone (page : Nat) (errs : List (Fin 256 × MemErr))
  | migrationUpdate (page : Nat)
  | slotZeroDone (ch : ChanId) (slot : Nat)
  | chClear (ch : ChanId) (w : CmdW)
  | peerEnable (p : PeerId) (w : CmdW)
  | peerDataRx (p : PeerId) (f : PeerFrame)
  | peerSegmentWritten (p : PeerId) (xfer : Word) (mine : Bool)
  | peerAckRx (p : PeerId) (f : PeerFrame)
  | peerGetRx (p : PeerId) (f : PeerFrame)
  | peerAbortRx (p : PeerId) (f : PeerFrame)
  | peerAckTimer (p : PeerId) (xfer : Word) (mine : Bool)
  | peerResendTimer (p : PeerId) (xfer : Word) (mine : Bool)
  | peerXferIdExpiry (p : PeerId) (xfer : Word) (mine : Bool)
  | sqTail (r : Req) (d : Doorbell)
  | cqHead (r : Req) (d : Doorbell)
  | evtHead (r : Req) (d : Doorbell)
  | logHead (r : Req) (d : Doorbell)
  | traceHead (r : Req) (d : Doorbell)
  | submissionRead (q : QueueId)
  | itemAccept (q : QueueId)
  | streamJobAccept (st : StreamId)
  | run (q : QueueId)
  | load (q : QueueId) (pkg : Package)
  | loadComplete (c : CtxId) (rd : LoadRead)
  | unload (q : QueueId)
  | attach (q : QueueId)
  | detach (q : QueueId)
  | flagSet (q : QueueId)
  | flagClr (q : QueueId) (setToo : Bool)
  | flagWait (q : QueueId)
  | put (q : QueueId)
  | get (q : QueueId)
  | alloc (q : QueueId)
  | free (q : QueueId)
  | adopt (q : QueueId)
  | marker (q : QueueId)
  | jobDispatch (sl : SliceId)
  | beSegmentBoundary (sl : SliceId)
  | jobEnd (sl : SliceId) (o : JobOut)
  | completionPost (q : QueueId)
  | journalReplay (lost : List Nat)
  | waitTimeoutExpiry (w : WaitRef)
  | waitGraphBuild
  | qAbortHead (w : CmdW)
  | deferredExecute (k : Nat)
  | flagSetCmd (w : CmdW)
  | flagClrCmd (w : CmdW) (setToo : Bool)
  | epochOpen (w : CmdW)
  | epochCommit (w : CmdW)
  | epochDiscard (w : CmdW)
  | merWrite (w : DictW)
  | epochStreamSilent (st : StreamId)
  | idleWrite (w : DictW)
  | idlePoint
  | qEnable (q : QueueId) (w : CmdW)
  | qDepth (q : QueueId) (w : CmdW)
  | decodeBatchClose (c : CtxId) (going : Bool)
  | statWindowEval
  | csiFrameStart (p : CsiPort) (vc : Nat) (fn : BitVec 16)
  | csiLinePacket (p : CsiPort) (vc : Nat) (dt : Byte) (samples : List Nat) (chk : PktCheck)
  | csiFrameEnd (p : CsiPort) (vc : Nat)
  | frameTimeout (st : StreamId)
  | ispFrameDone (pipe : Fin 2)
  | spillStart (pipe : Fin 2)
  | rawEnable (st : StreamId) (w : CmdW)
  | expoReq (st : StreamId) (w : CmdW)
  | sensorRetry (st : StreamId) (w : CmdW)
  | generationWriteStart (st : StreamId) (estUs : Nat) (untilFrameUs : Nat)
  | i2cTransaction (bus : Fin 8) (acked : Bool) (stretchUs : Nat) (tookUs : Nat)
  | fsyncPulse (k : Fin 8)
  | dpFrameRx (p : DataPort) (f : EthFrame)
  | dpMode (p : DataPort) (w : CmdW)
  | rtpPacketRx (st : StreamId) (pkt : RtpPacket)
  | rtpRelease (st : StreamId)
  | decodeStart (core : Fin 4)
  | decodeDone (core : Fin 4) (e : DecodeEnd)
  | conversionDone (st : StreamId)
  | ssrcTimeout (st : StreamId)
  | streamStallTimeout (st : StreamId)
  | srcEnable (st : StreamId) (w : CmdW)
  | encClip (w : BlobW)
  | encSnapshot (w : BlobW)
  | clipDone (st : StreamId)
  | snapDone (st : StreamId)
  | hlFrameRx (f : EthFrame)
  | claim (r : Req) (hostId : Bytes) (periodMs : Nat)
  | release (r : Req)
  | renew (r : Req)
  | dictRead (r : Req) (index : BitVec 16) (sub : Byte) (offset maxLen : Nat)
  | dictWrite (w : DictW)
  | dictStageTimeout
  | memRead (r : Req) (addr len : Nat)
  | memWrite (r : Req) (addr : Nat) (bytes : Bytes)
  | resultRead (r : Req) (handle : Word) (offset len : Nat)
  | resultRelease (r : Req) (handles : List Word)
  | sync (r : Req)
  | hlpHoldTimeout (seq : Word)
  | eventFrameSend
  | evtHeartbeat
  | macsecSak (w : BlobW)
  | leaseExpiry
  | orphanResume (w : CmdW)
  | gptpSyncRx (time : Nat)
  | gptpHoldover
  | ident (r : Req)
  | syncPart (r : Req)
  | mbWarmReset (r : Req)
  | imageBegin (r : Req)
  | imageData (r : Req)
  | imageEnd (r : Req)
  | persErase (w : CmdW) (flashOk : Bool)
  | safeForceEnter (w : CmdW)
  | safeForceEnd (w : CmdW)
  | deadlineExpiry (st : StreamId)
  | staleExpiry (st : StreamId)
  | safetyHeartbeat
  | cause0Release
  | lockstepMismatch
  | watchdogExpiry (p : ProcId)
  | goldenTestDue (sl : SliceId)
  | goldenTestOverdue (sl : SliceId)
  | goldenTestEnd (sl : SliceId) (pass : Bool)
  | coverageLapse (sl : SliceId)
  | fwRestart (p : ProcId) (w : CmdW)
  | fwMemoryError (p : ProcId)
  | processorReady (p : ProcId)
  | restartTimeout (p : ProcId)
  | logEntry (p : ProcId) (level : Nat) (code : BitVec 16) (args : List Word)
  | traceHit (p : ProcId) (point : Nat) (value : Word)
  | stagingBufferDrain
  | updStage (w : BlobW)
  | stagingDone (flashOk : Bool)
  | updCancel (w : CmdW)
  | updActivateProcessor (w : CmdW)
  | updActivateBundle (w : CmdW)
  | activationSettle
  | activationAbandon
  | updCommit (w : CmdW) (verified : Nat)
  | keyRevoke (w : BlobW) (readBackOk : Bool)
  | attNonce (w : BlobW)
  | sliceResetCmd (w : CmdW)
  | sliceResetTimeout (sl : SliceId)
  | pwronNAssert
  | warmNDeassert
  | railMonitorReturn (env : BootEnv)
  | droopRecovery (sl : SliceId)
  | portLinkChange (port : Fin 4) (up : Bool)
  | spFrameRx (f : EthFrame)
  | peerDelayMeasurement
  | powerCapEval (m : MeterRead)
  | thermalLoopStep
  | sensorRead (rs : List TempRead)
  | thermalClamp
  | thermalEmergencyEnd
  | thermalTrip
  | governorStep (demandUa : List Nat) (otherUa : Nat)
  | droopOnset (sl : SliceId)
  | domainWake (d : Fin 219)
  | domainOff (d : Fin 219)
  | voltageSettled (sl : SliceId)
  | vrHotNAssert (rs : List RegRead)
  | vrHotNDeassert
  | pmbAlertN (rs : List RegRead)
  | pmbusPoll (rs : List RegRead)
  | powerEmergencyEnd
  deriving DecidableEq, Repr

end Sys2Proof
end

