-- ==== Sys2Proof/Decode.lean ====
section
/-! DEFINITION. The host's view of the opcode table: its rows give no bits, so no word spells a command. -/

namespace Sys2Proof

/-- No row of spec/opcode_table.json gives bits (each row says: it has no opcode, its name is its key). -/
def decodeTableWord (_nbits _w : Nat) : Option Instr := none

end Sys2Proof
end

