-- ==== Sys2Proof/Config.lean ====
section
/-! DEFINITION. What the spec leaves open, or names by an external standard, as constants without a body: a claim
holds whatever they are (notes/assumptions/3.md and 4.md). -/

namespace Sys2Proof

/-- A value the spec leaves open, fresh for each number of State.freeCtr. -/
opaque Config.freeNat : Nat → Nat

/-! ## Layouts the spec does not give -/

/-- The sizes of the full output, the inference output and the thumbnail that a parameter BLOB (ISP_PARAMS or SRC_CONVERT)
other than the Zalkai defaults gives for an image of the given width and height, none where it does not enable the output:
the BLOB's layout is not given (R299, R300, R322). -/
opaque Config.fullSize : Bytes → Nat → Nat → Option (Nat × Nat)
opaque Config.inferenceSize : Bytes → Nat → Nat → Option (Nat × Nat)
opaque Config.thumbSize : Bytes → Nat → Nat → Option (Nat × Nat)
/-- The factors a and b of a colour that such a BLOB holds, fp32 (R300). -/
opaque Config.colourFactors : Bytes → Nat → Word × Word
/-- What the filters and tables of the image pipeline, which the spec does not give, make of a picture's samples: the full
output, the gamma values R, G and B of the inference output's pixels row by row, and the thumbnail. The parameter BLOB, width,
height and what the model holds of the samples decide them, and a fresh number for what it does not hold (R299, R300). -/
opaque Config.fullPicture : Bytes → Nat → Nat → List Nat → Nat → Bytes
opaque Config.gammaPixels : Bytes → Nat → Nat → List Nat → Nat → List Nat
opaque Config.thumbPicture : Bytes → Nat → Nat → List Nat → Nat → Bytes
/-- The inference code of a colour whose factors give no number. -/
opaque Config.noNumberCode : Nat
/-- The samples of a decoded access unit: its bytes, its size, and a fresh number for the references and parameter sets that
the model does not hold (R319, R322). -/
opaque Config.decodedSamples : Bytes → Nat → Nat → Nat → List Nat
/-- The white-balance gains, histogram and grid of a statistics record (R297, R299): bytes 48 to 53 and 64 to 9,279. -/
opaque Config.statistics : Bytes → Nat → Nat → DWord → Nat → Bytes
/-- The encoded bytes of one frame for an encode request (R325, R326). -/
opaque Config.encode : Bytes → Nat → Bytes

/-- How IDENT arranges the values of the identity objects, given in order, in MB_DATA (R361). -/
opaque Config.identLayout : List Bytes → Bytes

/-- Pages of a session's reference pictures: codec, profile, level, width, height (R313, R322). -/
opaque Config.refPages : Nat → Nat → Nat → Nat → Nat → Nat

/-! ## Choices of the vector extension that the spec leaves open

Every enabled unit computes the same function bit for bit (R276), so each is a function of what the instruction reads. -/

/-- The new vl for an AVL between VLMAX and twice that: AVL and VLMAX decide it. -/
opaque Config.vecLength : Nat → Nat → Nat
/-- VFREDUSUM of two or more elements: the start value and the active elements decide it. -/
opaque Config.redSum : Word → List Word → Word
/-- Which agnostic elements become all ones, as bits: the instruction, vl, vstart, vtype and the vector registers decide it. -/
opaque Config.agnostic : Nat → Nat → Nat → Nat → List (BitVec 256) → Nat

/-! ## The JTAG port (R509) -/

/-- The manufacturer field of the IDCODE, which the spec does not give. -/
opaque Config.jtagMaker : BitVec 11
/-- The instruction that a bit pattern of the instruction register selects: codes and length are not given. -/
opaque Config.jtagDecode : List Bool → Nat
/-- The instruction register's captured bits, as long as the register. -/
opaque Config.jtagIrCapture : List Bool
/-- The boundary-scan cells' sample of the 1.8 V balls, by the levels the model holds: their order is not given. -/
opaque Config.jtagSample : List Bool → List Bool

/-! ## Functions of external standards -/

/-- SHA-512 (FIPS 180-4). -/
opaque Config.sha512 : Bytes → Bytes
/-- HMAC-SHA-512 (RFC 2104) of a key over a message. -/
opaque Config.hmacSha512 : Bytes → Bytes → Bytes
/-- HKDF-SHA-512 (RFC 5869) with an empty salt and 64 bytes of output: input keying material and info. -/
opaque Config.hkdfSha512 : Bytes → Bytes → Bytes
/-- Ed25519 (RFC 8032): a public key's check of a signature over a message. -/
opaque Config.ed25519Verify : Bytes → Bytes → Bytes → Bool
/-- Ed25519: the signature by a seed over a message. -/
opaque Config.ed25519Sign : Bytes → Bytes → Bytes
/-- Ed25519: the public key of a seed. -/
opaque Config.ed25519Pub : Bytes → Bytes
/-- X25519 (RFC 7748): the shared secret of a private key, clamped, and a public key. -/
opaque Config.x25519 : Bytes → Bytes → Bytes
/-- X25519: the public key of a private key, clamped. -/
opaque Config.x25519Pub : Bytes → Bytes
/-- The AES-256 key unwrap of RFC 3394: none when the integrity check fails. -/
opaque Config.aesKeyUnwrap : Bytes → Bytes → Option Bytes

end Sys2Proof
end

