-- ==== Sys2Proof/Machine/State.lean ====
section
/-! DEFINITION. The state of the CN48 as plain data, its faults and refusals, and the state after reset.

Registers that the object dictionary names live in ONE register file, State.objs, keyed by object number and
instance (Machine/Objects.lean gives each object's row with its default); everything else the spec gives the
device stands in the structures below, chapter by chapter. A table of instances (slices, queues, streams, ...)
is a sparse map: an instance not listed stands as its chapter leaves it after reset. -/

namespace Sys2Proof.Machine

/-- A fault of the model: the machine stops. -/
inductive Fault where
  /-- The operands of a command fall outside what WellFormed admits. Raised by no meaning: commands whose operands
  are out of range are discarded or refused with a status by the spec's own rules. Safe. -/
  | illFormed
  deriving DecidableEq, Repr

/-- A refusal of the model. -/
inductive Refusal where
  /-- the command has no meaning yet. Safe. -/
  | notModelled (mnemonic : String)
  deriving DecidableEq, Repr

/-- A value of the object dictionary (R366): a scalar, or the bytes of a BLOB, STR or ARRAY. -/
inductive Val where
  | num (n : Nat)
  | blob (b : Bytes)
  deriving DecidableEq, Repr

/-! ## Time, pins and start-up -/

/-- Times of the device (R351 to R353). -/
structure Clock where
  /-- the monotonic count of REFCLK25, in ns -/
  now      : Nat
  /-- Lodestar time in ns -/
  lode     : Nat
  /-- offset still to be slewed at up to 100 ppm (R352) -/
  slew     : Int
  /-- monotonic time of the last valid Sync -/
  lastSync : Nat
  /-- peer delay requests sent (R351) -/
  pdelay   : Nat
  deriving DecidableEq, Repr

/-- Where the device stands between power and service (R471 to R474, R486, R497). -/
inductive Phase where
  /-- held in power-on reset -/
  | powerReset
  /-- Chrysalis and the processors start: cause 0 has not ended -/
  | starting
  /-- in service -/
  | running
  /-- a warm reset held at step 4 while WARM_N is low -/
  | warmHeld
  /-- recovery mode -/
  | recovery
  deriving DecidableEq, Repr

/-- How Chrysalis drives the boot flash (R504). -/
inductive XspiMode where
  /-- 1S-1S-1S at 25 MHz -/
  | single
  /-- 8D-8D-8D with DQS and 4-byte addressing, at 200 MHz -/
  | octal
  deriving DecidableEq, Repr

/-- The boot flash's interface (R504). -/
structure Xspi where
  mode    : XspiMode
  /-- when the last XSPI_RESET_N pulse started and ended, monotonic ns -/
  pulse   : Option (Nat × Nat)
  /-- what the SFDP tables declared, none before they have been read: 8D-8D-8D or not -/
  sfdp    : Option Bool
  deriving DecidableEq, Repr

/-- The states of the IEEE 1149.1 controller (R509). -/
inductive TapState where
  | testLogicReset | runTestIdle
  | selectDr | captureDr | shiftDr | exit1Dr | pauseDr | exit2Dr | updateDr
  | selectIr | captureIr | shiftIr | exit1Ir | pauseIr | exit2Ir | updateIr
  deriving DecidableEq, Repr

/-- The instructions of the JTAG port (R509). -/
inductive TapInstr where
  | bypass | samplePreload | extest | idcode
  deriving DecidableEq, Repr

/-- The JTAG port (R509): its controller, current instruction, the register being shifted (its first bit out first) and the
boundary-scan cells' update stage. -/
structure Tap where
  /-- TRST_N: its internal pull-down holds an unconnected port's TAP in reset -/
  trstN   : Bool
  state   : TapState
  instr   : TapInstr
  shift   : List Bool
  cells   : List Bool
  deriving DecidableEq, Repr


/-- Pins and supplies (R389, R489, R497, R507). -/
structure Pins where
  xspi      : Xspi
  tap       : Tap
  pwronN    : Bool
  warmN     : Bool
  vrHotN    : Bool
  thermTripN : Bool
  /-- each of VDD_IO, VDD_SOC and VDD_SRAM at or above 92 % of nominal -/
  railsOk   : List Bool
  refclkOk  : Bool
  safeA     : Bool
  safeB     : Bool
  /-- the level of FSYNC0 to FSYNC7's last pulse start, monotonic ns, none before the first -/
  fsyncLast : List (Nat × Nat)
  /-- the level that FSYNCk drives: true while its pulse is active -/
  fsyncPulses : List (Nat × Nat)
  /-- the polarity of FSYNCk since its last pulse: a change applies from the next pulse (R307) -/
  fsyncPols : List (Nat × Nat)
  deriving DecidableEq, Repr

/-- Reset bookkeeping: when the running start-up or warm reset was triggered, and its boot sample. -/
structure ResetState where
  phase     : Phase
  t0        : Nat
  bootsel   : BitVec 2
  /-- slices that failed start-up self-test, reported by the boot sample -/
  failSlices : List Nat
  failChannels : List Nat
  /-- the bundle activation that a warm reset in progress serves: the slot -/
  bundleSlot : Option Nat
  /-- GDDR6 is not up or in self-refresh: no ring entry is written (R444, R486) -/
  memHeld   : Bool
  /-- the DXP is still to load the persistent area (R380) -/
  loadDue   : Bool
  /-- the MDP is to admit the enabled streams again at its first ready after a reset -/
  admitDue  : Bool
  /-- Chrysalis's map: the physical slice of each logical slice SL0 to SL5, empty before it has been made (R8) -/
  sliceMap  : List Nat
  /-- Chrysalis's map: the physical core that is left out of each enabled cluster, by slice × 16 + cluster, where it is
  not core 16 (R170) -/
  coreMap   : List (Nat × Nat)
  deriving DecidableEq, Repr

/-! ## Islands and the safety fault collector -/

/-- A crossing between two islands (R12, R13). -/
structure Crossing where
  id        : Nat
  req       : Nat
  tgt       : Nat
  chan      : Option Nat
  start     : Nat
  abandoned : Bool
  deriving DecidableEq, Repr

/-- A fault record of the safety fault collector (R7, R360, R520). -/
structure FaultRec where
  time   : Nat
  status : Nat
  scope  : Nat
  unit   : Nat
  detail : Bytes
  deriving DecidableEq, Repr

structure Islands where
  crossings : List Crossing
  nextId    : Nat
  /-- what the requester of the last refused or abandoned crossing received: island and status -/
  lastError : Option (Nat × Nat)
  /-- late-acknowledge counter of each requesting island (R13) -/
  lateAcks  : List (Nat × Nat)
  /-- records in arrival order -/
  records   : List FaultRec
  deriving DecidableEq, Repr

/-! ## A slice: sequencer, array, drain, tile store, DMA -/

/-- The scalar registers of a sequencer (R121, R126). -/
structure SeqRegs where
  lc    : Vector Word 8
  ab    : Vector Word 8
  cmp   : Vector Bool 4
  layer : BitVec 16
  deriving DecidableEq, Repr

/-- SEQ_STATE (R131). -/
inductive SeqMode where
  | idle
  | issuing
  | held
  | draining
  | stopped
  | faulted
  deriving DecidableEq, Repr

/-- An FA slot's command, its row resolved with the address base (R124, R125). -/
structure FaCmd where
  mode  : Nat
  count : Nat
  win   : Nat
  step  : Nat
  row   : Int
  deriving DecidableEq, Repr

/-- An FB slot's command. -/
structure FbCmd where
  /-- its number among the FB slots of the program, from 1 (R122) -/
  num    : Nat
  group4 : Bool
  wtype  : Nat
  rows   : Nat
  row    : Int
  tag    : BitVec 16
  deriving DecidableEq, Repr

/-- An ARR TILE or CONT slot's command. -/
structure ArrCmd where
  cont  : Bool
  atype : Nat
  xpose : Bool
  deriving DecidableEq, Repr

/-- A DRN slot's command. -/
structure DrnCmd where
  op      : Nat
  chain   : Nat
  chunk   : Nat
  bankVec : Nat
  outRow  : Int
  deriving DecidableEq, Repr

/-- An XFM slot's command. -/
structure XfmCmd where
  inv    : Bool
  size   : Nat
  xtab   : Nat
  srcRow : Int
  dstRow : Int
  tag    : BitVec 16
  layer  : BitVec 16
  origin : Nat
  /-- the two copies of the unit disagree in this command (R163) -/
  bad    : Bool
  /-- what the ECC of its reads finds (R95) -/
  ecc    : List TsEcc
  deriving DecidableEq, Repr

/-- One tile command: FA, ARR and DRN of one bundle (R120, R122). -/
structure TileCmd where
  fa    : FaCmd
  arr   : ArrCmd
  drn   : DrnCmd
  layer : BitVec 16
  tag   : BitVec 16
  /-- entry of the digest origin list, for ADD_OUT and WRITE_OUT (R280) -/
  origin : Nat
  /-- the most recent FB slot when it was issued (R122) -/
  fbNum  : Nat
  /-- its drain-chain entry, read when the tile starts and kept (R141) -/
  entry  : Bytes
  deriving DecidableEq, Repr

/-- The organisations of the array (R27, R157). -/
inductive Org where
  | bit8
  | int4
  | bit16
  | complex
  deriving DecidableEq, Repr

/-- A weight tile in the PEs, with the types and the expanded weights (R27, R48, R69, R157). -/
structure WTile where
  /-- the number of its FB slot (R122) -/
  num   : Nat
  /-- TAG of the bundle of its FB slot (R112) -/
  tag   : BitVec 16
  wtype : Nat
  org   : Org
  rows  : List (List (BitVec 16))
  /-- the cycle in which Feeder B read its first row (R31) -/
  start : Nat
  deriving DecidableEq, Repr

/-- A row on its way from the grid into the drain. Each output is its column sums: one, or the four component
sums of int16 (R29). -/
structure ArrRow where
  tile   : Nat
  cmd    : TileCmd
  org    : Org
  float  : Bool
  vec    : Nat
  outs   : List (List Word)
  sChk   : Word
  base   : Word
  exp    : Int
  /-- the cycle in which the vector entered PE(0, 0) (R28) -/
  enter  : Nat
  deriving DecidableEq, Repr

/-- Statistics totals of a layer (R79). -/
structure StatTotals where
  outputs   : Nat
  saturated : Nat
  nonfinite : Nat
  sse       : Word
  deriving DecidableEq, Repr

/-- The digest of a layer as far as terms have come: sum and which sources contributed (R278, R284). -/
structure LayerSum where
  sum    : DWord
  drain  : Bool
  sliver : Bool
  deriving DecidableEq, Repr

/-- A bundle that has issued: its byte offset in the program, its header and the slots that have taken effect, as a
mask of SLOTS bits. -/
structure OpenBundle where
  off  : Nat
  hdr  : Nat
  done : Nat
  deriving DecidableEq, Repr

/-- The sequencer of a slice (R116 to R133). -/
structure Seq where
  mode      : SeqMode
  hold      : Nat
  regs      : SeqRegs
  /-- the registers as they stood before the open bundle (R121) -/
  before    : SeqRegs
  tag       : BitVec 16
  pc        : Nat
  issued    : Nat
  fetched   : Nat
  notBefore : Nat
  /-- the bundle that has issued and whose slots take effect -/
  bundle    : Option OpenBundle
  /-- the held bundle has already been tested (R133) -/
  tested    : Bool
  /-- stop before the next bundle, whatever BRK_CTRL holds (R133) -/
  stepOne   : Bool
  asmFa     : Option FaCmd
  asmArr    : Option ArrCmd
  /-- flag the open FLAG_WAIT bundle waits for, and when the wait limit expires (R129, R260) -/
  waitFlag  : Option (Nat × Nat)
  /-- the wait of the held FLAG_WAIT bundle has ended: the flag was seen set (R258, R259) -/
  flagSeen  : Bool
  halted    : Bool
  deriving DecidableEq, Repr

/-- A pixel row of the INV unit that waits for the drain (R162): chain table entry, pixel row and column of the
output transform, its values, tag, layer and the row its write goes to. -/
structure InvRow where
  chain : Nat
  py    : Nat
  px    : Nat
  vals  : List Word
  tag   : BitVec 16
  layer : BitVec 16
  row0  : Int
  origin : Nat
  /-- the number of its INVERSE among the tiles (R53) -/
  tile  : Nat
  /-- the drain-chain entry, read when the INVERSE started and kept (R141) -/
  entry : Bytes
  deriving DecidableEq, Repr

/-- The vectors of an FWD ISSUE that Feeder A takes in place of tile-store reads, and their exponents (R161). -/
structure FwdIssue where
  vecs : List (List (BitVec 16))
  exps : List Int
  deriving DecidableEq, Repr

/-- Partial results of one vector: its index and its values (POOL of R156, XPOSE of R154). -/
structure VecVals where
  vec  : Nat
  vals : List Int
  deriving DecidableEq, Repr

/-- The tile whose vectors Feeder A reads and enters (R37): its command, number, weights and start cycle, the upsets and
ECC findings told with it, its window entry (R141), how many vectors it has, for how many the reads have been sent and
how many have entered, and the vectors read and not yet entered, at most 8. -/
structure Feed where
  cmd     : TileCmd
  tile    : Nat
  wt      : WTile
  start   : Nat
  ups     : List Upset
  ecc     : List TsEcc
  win     : Bytes
  count   : Nat
  sent    : Nat
  entered : Nat
  buffer  : List (List (BitVec 16) × Int)
  deriving DecidableEq, Repr

/-- The array, the drain and the transform units of a slice. -/
structure Arr where
  /-- Feeder A's tile and buffer (R37) -/
  feed      : Option Feed
  /-- frozen cycles, rising, of the work in flight (R36) -/
  frozen    : List Nat
  /-- FB slots issued by the program (R122) -/
  fbCount   : Nat
  active    : Option WTile
  shadow    : Option WTile
  waitLoad  : Option FbCmd
  waitTiles : List TileCmd
  /-- rows in the grid, the deskew buffer and the drain's input, oldest first -/
  rows      : List ArrRow
  /-- rows accumulated whose verdict is still to be given -/
  unjudged  : List ArrRow
  /-- rows of the INV unit waiting for the drain: chain, pixel row and column, values, tag, layer, first row -/
  invRows   : List InvRow
  nextTile  : Nat
  /-- tiles that have failed, the one of the last mismatch record first (R53) -/
  failTiles : List Nat
  lastLoad  : Option Nat
  lastEnter : Option Nat
  /-- cycles by which Feeder B has read its last weight row and Feeder A has entered its last vector -/
  loadEnd   : Nat
  enterEnd  : Nat
  /-- cycle by which all work counted in ARR_ACTIVE has left -/
  activeTo  : Nat
  /-- an FWD ISSUE whose vectors Feeder A has not taken: vectors and exponent sums (R161) -/
  fwdIssue  : Option FwdIssue
  fwdWait   : Option XfmCmd
  invWait   : Option XfmCmd
  /-- windows that the current scan row of POOL has begun: pooled vector index and partial results; those between scan
  rows stand in the bank (R156) -/
  pool      : List VecVals
  /-- outputs of the tile command held for XPOSE (R154) -/
  xpose     : List VecVals
  stats     : List (Nat × StatTotals)
  digests   : List (Nat × LayerSum)
  /-- index of the next entry of the digest origin list (R280) -/
  origin    : Nat
  deriving DecidableEq, Repr

/-- A descriptor of a DMA engine (R96 to R106). -/
structure Desc where
  uid   : Nat
  idx   : Nat
  out   : Bool
  raw   : Bytes
  tag   : BitVec 16
  /-- the extent check has passed -/
  started : Bool
  /-- bytes (STRIDED, GATHER) or blocks (BOX) requested -/
  pos   : Nat
  total : Nat
  /-- the hazard wait has been counted (R105) -/
  hazard : Bool
  deriving DecidableEq, Repr

/-- A held tag: its request (R103). -/
structure TagEntry where
  tag   : Nat
  uid   : Nat
  out   : Bool
  pos   : Nat
  len   : Nat
  addr  : Nat
  since : Nat
  /-- its request in the sorter of its channel (R221) -/
  ch    : Nat
  req   : Nat
  /-- the bytes of a write, taken from the tile store when the request was sent -/
  data  : Bytes
  deriving DecidableEq, Repr

/-- A write of a port on its way into the bank array (R93): its port, row, array cycle and the row before it. -/
structure TsWrite where
  port : Nat
  row  : Nat
  cyc  : Nat
  old  : Bytes
  deriving DecidableEq, Repr

/-- A read of a port on its way to its engine (R91, R95): port, row, the cycle of its delivery, the row as read, and
whether a word of it is poisoned. -/
structure TsRead where
  port   : Nat
  row    : Nat
  cyc    : Nat
  data   : Bytes
  poison : Bool
  deriving DecidableEq, Repr

/-- An access that waits at its port (R92): the slot cycle in which it will be issued, and the cycle in which a read of
it is delivered. -/
structure TsPend where
  acc     : TsAccess
  issue   : Nat
  deliver : Nat
  deriving DecidableEq, Repr

/-- The allocation the SCP gives a context on the slice (R89, R114, R140). -/
structure Alloc where
  ctx      : Nat
  base     : Nat
  len      : Nat
  descs    : Nat
  progRow  : Nat
  progLen  : Nat
  winRow   : Nat
  xfmRow   : Nat
  chainRow : Nat
  actRow   : Nat
  originRow : Nat
  dataRow  : Nat
  bankVecs : Nat
  deriving DecidableEq, Repr

/-- Tile store and DMA of a slice. -/
structure Store where
  /-- bytes by tile-store address, canonical; an unlisted byte reads zero -/
  bytes   : List Host.Cell
  /-- the accumulator bank by cell number, 64 bits each (R58); a cell not listed is zero from reset on, and to a program
  undefined (R126): cell k then holds the free value bankFrom + k -/
  bank    : List (Nat × DWord)
  bankFrom : Option Nat
  descs   : List Desc
  tags    : List TagEntry
  nextUid : Nat
  /-- descriptors of discarded work whose requests already sent are still to complete, each with its allocation (R111) -/
  gone    : List (Alloc × Desc)
  /-- accesses waiting at the ports, in request order (R92) -/
  pend    : List TsPend
  /-- the last slot cycle taken in each group by each port, under 8 × port + group (R90) -/
  slots   : List (Nat × Nat)
  /-- reads delivered or on their way (R91) -/
  reads   : List TsRead
  /-- writes of the ports of the last cycles (R93) -/
  writes  : List TsWrite
  /-- array cycles of reads: row and cycle, of the current window (R93, R94) -/
  readAt  : List (Nat × Nat)
  deriving DecidableEq, Repr

/-- The failed check of a run (R400): its kind code for MISMATCH and 16 bytes of the record. -/
structure RunFail where
  kind   : Nat
  detail : Bytes
  /-- outcome decided: 0 recompute, 1 suspect, 3 unresolved -/
  outcome : Nat
  deriving DecidableEq, Repr

/-- What runs on a slice: a job's run. -/
structure Run where
  queue   : Nat
  seq     : Nat
  /-- the other rows of a decode batch that run with it: queue and sequence number (R45) -/
  rows    : List (Nat × Nat)
  ctx     : Nat
  job     : Nat
  stream  : Option Nat
  klass   : Nat
  start   : Nat
  estEnd  : Nat
  index   : Nat
  segment : Nat
  segments : Nat
  programs : List Nat
  /-- the weight sets adopted in the job's epoch, where the image holds them: device address and bytes (R267) -/
  weights : List (Nat × Bytes)
  /-- a best-effort item that runs at twilight priority to fill the current floor (R236, R420) -/
  twilight : Bool
  /-- REPRO_ACTIVE when the job was dispatched (R273, R274) -/
  repro   : Bool
  /-- this run is a recompute: the slice and run index of the failing run (R400) -/
  recompute : Option (Nat × Nat)
  fail    : Option RunFail
  /-- the first fault that ends the job: status and record (R194, R249) -/
  fault   : Option (Nat × Option Bytes)
  deriving DecidableEq, Repr

/-! ## Slivers -/

/-- Why a thread does not run. -/
inductive ThreadWait where
  | ready
  | flag (f : Nat) (due : Nat)
  | dma (atMost : Nat)
  | dmaq
  | window
  /-- a line of device memory, by its number -/
  | miss (line : Nat)
  | exited
  | faulted
  | unreleased
  deriving DecidableEq, Repr

/-- A sliver thread (R171 to R177). -/
structure Hart where
  x        : Vector Word 32
  f        : Vector Word 32
  v        : Vector (BitVec 256) 32
  pc       : Word
  vl       : Nat
  vtype    : Word
  vstart   : Nat
  vxrm     : BitVec 2
  vxsat    : Bool
  mcycle   : DWord
  minstret : DWord
  digLayer : BitVec 16
  timeHi   : Word
  wait     : ThreadWait
  task     : Option Nat
  lsLo     : Nat
  lsLen    : Nat
  /-- the last sliver-clock cycle for which it held its core -/
  last     : Nat
  /-- lines that have arrived for the instruction at its PC: line number and bytes -/
  got      : List (Nat × Bytes)
  deriving DecidableEq, Repr

/-- A descriptor of a cluster DMA, with the thread that queued it (R178). -/
structure CDesc where
  hart  : Nat
  /-- address of its SL.DMAQ -/
  pc    : Word
  d     : Desc
  deriving DecidableEq, Repr

/-- What a miss register is held for: a line of the instruction or of the constant cache, or a request of the cluster
DMA with its descriptor, position, length and the bytes of a write (R178, R185). -/
inductive MissFor where
  | code
  | const
  | dma (uid pos len : Nat) (data : Bytes)
  deriving DecidableEq, Repr

/-- A miss register of a cluster (R185). -/
structure Miss where
  slot  : Nat
  what  : MissFor
  addr  : Nat
  since : Nat
  /-- its request in the sorter of its channel (R221) -/
  ch    : Nat
  req   : Nat
  deriving DecidableEq, Repr

/-- A sliver cluster (R169, R185, R189, R190). -/
structure Cluster where
  direct : Bool
  base   : BitVec 3
  /-- valid lines of the instruction cache and of the constant cache: line number in device memory and bytes -/
  ilines : List (Nat × Bytes)
  clines : List (Nat × Bytes)
  misses : List Miss
  /-- the current thread of each core -/
  current : List (Nat × Nat)
  cdescs : List CDesc
  /-- local stores of the cores: core × 24,576 + address, canonical; an unlisted byte reads zero -/
  ls     : List Host.Cell
  deriving DecidableEq, Repr

/-- How a task ended: cause, PC, status and DETAIL of its fault with its record, or cause 0 and the PC of its last
SL.EXIT (R192, R193). -/
structure TaskEnd where
  cause  : Nat
  pc     : Nat
  status : Nat
  record : Bytes
  deriving DecidableEq, Repr

/-- A sliver task on a slice (R185, R191 to R195). -/
structure Task where
  spec     : TaskSpec
  /-- logical thread of each sliver, in sliver order (R273) -/
  bind     : List Nat
  /-- copy B of a dual-executed task: the number of its copy A -/
  copyOf   : Option Nat
  /-- cycles in which a thread of it has held a core, and the cycle up to which they are counted (R195) -/
  used     : Nat
  till     : Nat
  exited   : List Nat
  ended    : Option TaskEnd
  judged   : Bool
  /-- digest terms of its threads (R181) -/
  digests  : List (Nat × DWord)
  deriving DecidableEq, Repr

/-- The threads and tasks that the fault which ended a job stopped, with its run and the cycle of the fault: a check that
fails in the same cycle takes precedence (R194). -/
structure Cut where
  cycle : Nat
  run   : Run
  harts : List (Nat × Hart)
  tasks : List (Nat × Task)
  deriving DecidableEq, Repr

/-- A golden test on a slice (R404, R405). -/
structure Golden where
  due      : Option Nat
  overdue  : Bool
  running  : Bool
  variant  : Nat
  repeated : Bool
  lastEnd  : Nat
  completed : Bool
  lapsed   : Bool
  deriving DecidableEq, Repr

structure Slice where
  /-- a single slice reset is in progress since: start and whether a command asked (R485) -/
  resetting : Option Nat
  /-- a slice reset of this slice is due once the one in progress ends (R16) -/
  resetDue  : Bool
  off       : Bool
  /-- a dummy array pass runs on it since (R420) -/
  dummy     : Option Nat
  cycle     : Nat
  seq       : Seq
  arr       : Arr
  store     : Store
  alloc     : Option Alloc
  run       : Option Run
  runs      : Nat
  strikes   : List Nat
  golden    : Golden
  stopped   : Option Cut
  deriving DecidableEq, Repr

/-! ## Memory -/

/-- A placement-table entry (R208). -/
structure Entry where
  backed  : Bool
  sys     : Bool
  owner   : Nat
  rd      : Bool
  wr      : Bool
  hrd     : Bool
  hwr     : Bool
  mirror  : Bool
  lost    : Bool
  channel : Nat
  slot    : Nat
  seed    : Nat
  mig     : Nat
  heat    : Nat
  deriving DecidableEq, Repr

/-- Whose request it is beside its source (R221): a slice's DMA descriptor and position with the request's length, a
thread's line of the instruction or of the constant cache, a cluster DMA's descriptor and position with its length. -/
inductive ReqLink where
  | other
  | dma (uid pos len : Nat)
  | line (code : Bool)
  | cdma (uid pos len : Nat)
  deriving DecidableEq, Repr

/-- A request in a channel's sorter (R222 to R224). -/
structure SortReq where
  id       : Nat
  source   : ReqSource
  link     : ReqLink
  addr     : Nat
  write    : Bool
  data     : Bytes
  mask     : List Bool
  bank     : Nat
  row      : Nat
  admitted : Option Nat
  issued   : Bool
  aged     : Bool
  tries    : Nat
  retrained : Bool
  deriving DecidableEq, Repr

/-- A migration in progress (R216, R217). -/
structure Migration where
  page : Nat
  chan : Nat
  slot : Nat
  seed : Nat
  deriving DecidableEq, Repr

structure Channel where
  sorter   : List SortReq
  /-- requests waiting at their source (R222) -/
  waiting  : List (MemReq × ReqLink)
  openRows : List (Nat × Nat)
  /-- check blocks that the controller caches, 64 at most (R202) -/
  checks   : List Nat
  retraining : Bool
  /-- it admits nothing until its retraining after a warm reset has ended (R211) -/
  waking   : Bool
  /-- monotonic times of the last retrainings and uncorrectable errors (R200, R219) -/
  retrains : List Nat
  uncorr   : List Nat
  /-- page slots neither free nor backed: being zeroed (R213) -/
  zeroing  : List Nat
  /-- page slots in use, mirror copies and migration destinations included -/
  used     : List Nat
  deriving DecidableEq, Repr

structure Memory where
  /-- bytes by physical place: (channel × 61,440 + slot) × 16,384 + offset, canonical; an unlisted byte reads zero -/
  bytes    : List Host.Cell
  /-- physical 64-byte blocks that are uncorrectable -/
  badBlocks : List Nat
  table    : List (Nat × Entry)
  /-- mirror table: page to channel and slot of the second copy (R210) -/
  mirrors  : List (Nat × Nat × Nat)
  lastChan : Nat
  seedCtr  : Nat
  chans    : List (Nat × Channel)
  migs     : List Migration
  /-- monotonic times of pages migrated in the past second (R216) -/
  migTimes : List Nat
  /-- requests admitted to each page since its HEAT last rose (R215) -/
  admits   : List (Nat × Nat)
  nextReq  : Nat
  /-- pages whose mirror copy must be placed anew (R220) -/
  remirror : List (Nat × Nat)
  deriving DecidableEq, Repr

/-! ## Peers -/

/-- A transfer in flight with a peer (R228 to R233). -/
structure Xfer where
  xfer     : Word
  /-- the queue and sequence number of the command, none for a transfer the peer began -/
  item     : Option (Nat × Nat)
  /-- this device sends the DATA -/
  sending  : Bool
  get      : Bool
  loc  : Nat
  remote   : Nat
  total    : Nat
  /-- sender: oldest unacknowledged segment and next to send; receiver: next expected and written -/
  acked    : Nat
  next     : Nat
  unacked  : Nat
  /-- receiver: when each segment was accepted that no ACK covers yet (R231) -/
  accepted : List Nat
  since    : Nat
  resends  : Nat
  deriving DecidableEq, Repr

/-- A peer frame sent, as its header says it (R230); VER is 1 and LENGTH the length of data. -/
structure PeerTx where
  type     : Nat
  last     : Bool
  getReply : Bool
  xfer     : Word
  seq      : Nat
  ack      : Nat
  addr     : Nat
  total    : Nat
  status   : Nat
  data     : Bytes
  deriving DecidableEq, Repr

structure Peer where
  xfers    : List Xfer
  /-- completed transfers: identifier, begun by this device, time of completion (R233) -/
  done     : List (Word × Bool × Nat)
  nextXfer : Word
  tx       : List PeerTx
  deriving DecidableEq, Repr

/-! ## Work -/

/-- Journal states of an item (R247). -/
inductive ItemState where
  | accepted
  | dispatched
  | done
  | posted
  deriving DecidableEq, Repr

/-- An item: its journal record (R254) with what the SCP keeps of it. -/
structure Item where
  seq      : Nat
  job      : Nat
  entry    : Bytes
  state    : ItemState
  slice    : Option Nat
  attempt  : Nat
  runs     : Nat
  handle   : Nat
  epoch    : Nat
  status   : Nat
  rflags   : Nat
  sof      : Nat
  sofMono  : Nat
  doneTime : Nat
  energy   : Nat
  /-- energy of its runs since the last warm reset that did not count (R431) -/
  spent    : Nat
  stream   : Option Nat
  prio     : Nat
  acceptAt : Nat
  deadline : Option Nat
  /-- 32-byte record that a completion with DETAIL carries (R251) -/
  detail   : Option Bytes
  bufLen   : Nat
  digest   : DWord
  /-- the item waits since, and is deferred, has begun executing, waited for a pool buffer -/
  waitFrom : Option Nat
  deferred : Bool
  executing : Bool
  poolWait : Bool
  replayed : Bool
  /-- dispatch goes ahead of the undispatched items of its class (R256, R400) -/
  ahead    : Bool
  /-- the recompute's slice, and the failing run's slice and index (R400) -/
  recompute : Option (Nat × Nat × Nat)
  /-- programs of its run that have ended, and those still to run when it gave way at a segment boundary (R238) -/
  segment  : Nat
  left     : Option (List Nat)
  /-- bundles that the segments before it issued (R131) -/
  bundles  : Nat
  /-- a RUN that may be dispatched: its command has run, or its decode batch has closed (R46, R237) -/
  ready    : Bool
  /-- the job is a pending row of a decode batch (R45) -/
  batched  : Bool
  /-- the number of its closed decode batch, whose rows run together (R45) -/
  batch    : Option Nat
  /-- when its wait began (waitFrom) and when its limit expires (R260) -/
  waitEnd  : Nat
  set      : Option Nat
  deriving DecidableEq, Repr

/-- A queue. Q_STATE is computed from these (R269). -/
structure Queue where
  items    : List Item
  jslots   : List Nat
  /-- an entry that passed R243 and whose journal record is being written, with deferred mark -/
  accepting : Option (Bytes × Bool)
  halted   : Bool
  blockedSince : Option Nat
  /-- pages of the submission ring and of the completion ring: first page and count -/
  sqPages  : Option (Nat × Nat)
  cqPages  : Option (Nat × Nat)
  deriving DecidableEq, Repr

/-- A result buffer (R347). -/
inductive BufState where
  | pending
  | ready
  | released
  deriving DecidableEq, Repr

structure Buf where
  state : BufState
  gen   : Nat
  len   : Nat
  /-- readable bytes: BUF_LEN rounded up to 64 plus the digest trailer (R348) -/
  readable : Nat
  deriving DecidableEq, Repr

/-- CTX_STATE (R239). -/
inductive CtxState where
  | empty
  | loading
  | ready
  | unloading
  | lost
  deriving DecidableEq, Repr

/-- A pending decode row: its job, its arrival and the wait bound of its batch in ms. -/
structure DecodeRow where
  queue   : Nat
  seq     : Nat
  arrival : Nat
  bound   : Nat
  deriving DecidableEq, Repr

structure Ctx where
  state   : CtxState
  pkg     : Option Package
  /-- pages of the image and of the result pool: first page and count -/
  image   : Option (Nat × Nat)
  poolAt  : Option (Nat × Nat)
  allocs  : List (Nat × Nat)
  bufs    : List (Nat × Buf)
  /-- the LOAD or UNLOAD under way: queue and sequence number -/
  byItem  : Option (Nat × Nat)
  /-- slots of the pages that an UNLOAD has freed and that are still to be zeroed: channel and slot (R213, R239) -/
  zeroing : List (Nat × Nat)
  /-- pending decode rows, oldest first (R45, R46) -/
  decode  : List DecodeRow
  deriving DecidableEq, Repr

/-- A record of statistics of one run and layer, held until its completion is posted (R80). -/
structure HeldStat where
  queue : Nat
  seq   : Nat
  layer : Nat
  totals : StatTotals
  deriving DecidableEq, Repr

/-- The window totals and the history of one context and layer (R82 to R85). -/
structure StatPair where
  totals   : StatTotals
  /-- records counted after the window in evaluation has ended (R82) -/
  later    : StatTotals
  inSat    : Bool
  inDrift  : Bool
  satCount : Nat
  driftCount : Nat
  last     : Option Bytes
  deriving DecidableEq, Repr

/-- A committed epoch: number, Lodestar time of the commit, the changes and the streams yet to adopt it (R267, R519). -/
structure Epoch where
  num     : Nat
  time    : Nat
  mono    : Nat
  changes : List (Nat × Val)
  waiting : List Nat
  complete : Bool
  deriving DecidableEq, Repr

/-- A deferred dictionary command (R265, R377). -/
structure Deferred where
  key   : Nat
  index : Nat
  sub   : Nat
  value : Val
  /-- monotonic time at which its wait limit expires -/
  due   : Nat
  deriving DecidableEq, Repr

structure Work where
  queues   : List (Nat × Queue)
  ctxs     : List (Nat × Ctx)
  /-- event flags that are set (R258) -/
  flags    : List Nat
  /-- BOOT_EPOCH: drawn anew at every boot -/
  bootEpoch : Nat
  frameCounts : List (Nat × Nat)
  openSet  : Option (List (Nat × Val))
  epochs   : List Epoch
  deferred : List Deferred
  /-- pending IDLE values and WARM values by object key (R268, R372) -/
  idlePend : List (Nat × Val)
  warmPend : List (Nat × Val)
  /-- halted wait cycles: member queues and their flags (R262) -/
  cycles   : List (List Nat)
  /-- journal slots taken by enabled queues (R245) -/
  jtaken   : List Nat
  /-- pages of the journal's records: first page and count (R254) -/
  journalAt : Option (Nat × Nat)
  heldStats : List HeldStat
  runSums  : List (Nat × Nat × Nat × LayerSum)
  pairs    : List ((Nat × Nat) × StatPair)
  statEnd  : Nat
  replayDone : Bool
  shedding : Bool
  noAccept : Bool
  /-- decode batches closed since reset, which number them (R45) -/
  batches  : Nat
  deriving DecidableEq, Repr

/-! ## Streams, cameras and ingest -/

/-- A frame in reception or processing (R291, R297, R305). -/
structure Frame where
  number  : Nat
  csiFn   : Nat
  sof     : Nat
  sofMono : Nat
  epoch   : Nat
  gen     : Nat
  /-- lines received of each exposure -/
  lines   : List (Nat × Nat)
  ended   : List Nat
  digest  : DWord
  spilled : Bool
  dropped : Bool
  set     : Option Nat
  tcause  : Nat
  feTime  : Nat
  feMono  : Nat
  /-- it became complete while acceptance was paused (R523) -/
  held    : Bool
  deriving DecidableEq, Repr

/-- A settings generation (R292). -/
structure Gen where
  num    : Nat
  expoUs : Nat
  gain   : Nat
  effective : Option Nat
  deriving DecidableEq, Repr

structure Raw where
  cur      : Option Frame
  /-- the frame that the inline slot still processes: pipe and frame -/
  pipe     : Option Nat
  spill    : List Frame
  gens     : List Gen
  /-- the request waiting for a blanking, the generation being written and its failed attempts -/
  request  : Option (Nat × Nat)
  writing  : Option Gen
  attempts : Nat
  sensorFault : Bool
  /-- transactions left of the initialisation list and of the generation being written (R290, R292) -/
  initLeft : Nat
  writeLeft : Nat
  frozenRun : Nat
  fnRun    : Nat
  lastDigest : Option DWord
  lastFn   : Nat
  /-- ns between the last two frame starts, 0 before the second (R296) -/
  period   : Nat
  /-- the initialisation list's next write waits for the delay of the one before it, monotonic ns (R290) -/
  initAt   : Nat
  /-- frame starts when the last attempt at a generation failed: it waits for the next blanking (R294) -/
  failedFs : Option Nat
  /-- frame starts since admission (R291) -/
  lastFs   : Nat
  /-- spill buffer pages (R303) -/
  spillAt  : Option (Nat × Nat)
  deriving DecidableEq, Repr

/-- A held RTP packet: extended sequence number and arrival (R314, R315). -/
structure Held where
  ext  : Nat
  pkt  : RtpPacket
  arrived : Nat
  lode : Nat
  /-- the epoch in force at its arrival (R23) -/
  epoch : Nat
  deriving DecidableEq, Repr

/-- An access unit (R315, R316). -/
structure AccessUnit where
  ts     : Word
  sof    : Nat
  sofMono : Nat
  /-- the epoch fixed at its start of frame (R23) -/
  epoch  : Nat
  packets : Nat
  lost   : Nat
  irap   : Bool
  refPic : Bool
  ssrc   : Word
  body   : Bytes
  number : Nat
  done   : Nat
  set    : Option Nat
  /-- its result carries TRUNCATED_INPUT (R316); the decoded size -/
  concealed : Bool
  width  : Nat
  height : Nat
  deriving DecidableEq, Repr

structure Ingest where
  held     : List Held
  ssrc     : Option Word
  /-- the SSRC from which the stream unlocked (R318) -/
  oldSsrc  : Option Word
  lastPkt  : Nat
  /-- first and last released sequence numbers, and those lost between them -/
  first    : Nat
  released : Option Nat
  lost     : List Nat
  maxSeq   : Option Nat
  /-- the unit being collected -/
  au       : Option AccessUnit
  lostSince : Nat
  lastTs   : Option Word
  units    : List AccessUnit
  unitCount : Nat
  converting : List AccessUnit
  concealing : Bool
  /-- waiting for an IRAP unit, stalled, and in FAULT (R316 to R320) -/
  waitIrap : Bool
  stalled  : Bool
  fault    : Bool
  lastAu   : Nat
  lastAuLode : Nat
  lastTc   : Nat
  tcRun    : Nat
  refAt    : Option (Nat × Nat)
  deriving DecidableEq, Repr

/-- A running evidence clip (R325): its request and monotonic time, frames and bitstream bytes written, the first SOF,
and the status it ends with. -/
structure Clip where
  since  : Nat
  req    : Bytes
  frames : Nat
  used   : Nat
  sof    : Nat
  ending : Option Nat
  /-- the encoder core -/
  core   : Nat
  deriving DecidableEq, Repr

/-- A waiting snapshot (R326): its request and monotonic time, and the SOF of the frame it takes. -/
structure Snap where
  stream : Nat
  since  : Nat
  req    : Bytes
  sof    : Option Nat
  deriving DecidableEq, Repr

/-- A stream slot S00 to S47. -/
structure Stream where
  /-- queue, context and graph of the attachment (R242) -/
  attach   : Option (Nat × Nat × Nat)
  /-- the queue it was attached to when its context was lost (R240) -/
  lostFrom : Option Nat
  /-- first page, pages per set, sets, and the sets in use (R301) -/
  sets     : Option (Nat × Nat × Nat)
  setsUsed : List Nat
  /-- a session enabled on the attached stream asks for sets of its own shape -/
  setsDue  : Bool
  affinity : Option Nat
  /-- the nominal slice for which that slice was given (R226) -/
  givenFor : Nat
  epoch    : Nat
  raw      : Raw
  ing      : Ingest
  /-- a complete frame that awaits acceptance (R24, R523): its frames in start-of-frame order -/
  complete : List Frame
  trunc    : Bool
  lastSof  : Nat
  lastSofMono : Nat
  lastFrame : Nat
  frozen   : Bool
  /-- the report of R386: reason, the frame it refers to, the last frame that made it valid -/
  reason   : Nat
  refSof   : Option Nat
  validSof : Option Nat
  /-- when the last frame was decided, monotonic -/
  decidedAt : Option Nat
  /-- accepted frames not yet decided: start of frame (monotonic and Lodestar), deadline, epoch -/
  undecided : List (Nat × Nat × Nat × Nat)
  clip     : Option Clip
  deriving DecidableEq, Repr

structure Media where
  streams  : List (Nat × Stream)
  /-- the stream in the inline slot of each pipe -/
  inline   : List (Nat × Nat)
  /-- frames that a pipe still processes after their frame end: pipe, stream and frame -/
  m2m      : List (Nat × Nat × Frame)
  /-- what each decoder core decodes: stream and unit -/
  decoding : List (Nat × Nat × AccessUnit)
  /-- the I²C transaction under way or queued on a bus: stream -/
  i2c      : List (Nat × Nat)
  /-- register writes that targets acknowledged: bus, address, register, value -/
  i2cTx    : List (Nat × Nat × Nat × Nat)
  /-- replies and reports sent on D0 and D1 other than peer frames: port and requester (R312) -/
  tx       : List (Nat × Src)
  /-- snapshots in request order -/
  snaps    : List Snap
  deriving DecidableEq, Repr

/-! ## Host link -/

/-- LEASE_STATE (R354). -/
inductive Lease where
  | free
  | held
  | lapsed
  deriving DecidableEq, Repr

/-- A response sent to a request: type, SEQ, status and body (R335, R338). -/
structure Resp where
  type   : Nat
  dst    : Src
  session : Word
  seq    : Word
  status : Nat
  body   : Bytes
  /-- the AN of the transmit SA that protects the frame (R332), none for an unprotected one -/
  sa     : Option Nat
  deriving DecidableEq, Repr

/-- A MACsec secure association (R334). -/
structure Sa where
  an    : Nat
  suite : Nat
  ssci  : Word
  salt  : Bytes
  key   : Bytes
  deriving DecidableEq, Repr

structure Link where
  up        : Bool
  lease     : Lease
  session   : Word
  hostId    : Bytes
  bound     : Src
  periodMs  : Nat
  renewed   : Nat
  /-- the lease timer is held during a DXP restart with this remaining time (R358) -/
  heldFor   : Option Nat
  expected  : Option Word
  /-- requests held ahead of a gap (R338) -/
  held      : List (Word × Instr × Nat)
  /-- the last 64 responses of the session -/
  stored    : List Resp
  /-- every response and frame sent on the host port, oldest first -/
  tx        : List Resp
  /-- answers of R331 (ARP, neighbour discovery, echo) sent on the host port: the requester -/
  replies   : List Src
  staged    : Option (Nat × Bytes × Nat)
  snapshot  : Option (Nat × Bytes × Nat)
  orphan    : Nat
  policyAtLapse : Nat
  rxSas     : List Sa
  txSas     : List Sa
  rxEver    : Bool
  /-- the next packet number expected under each receive AN -/
  rxPn      : List (Nat × Nat)
  /-- events waiting on chip: number of events dropped, and the queue -/
  evWait    : List (Nat × Nat × Bytes × Nat)
  evDropped : Nat
  evBase    : Option (Nat × Nat)
  evDepth   : Nat
  syncAt    : Option (Nat × Nat)
  /-- changes since the last EVENT frame: queues changed, count, start of the timer -/
  changed   : List Nat
  changes   : Nat
  timer     : Option Nat
  /-- monotonic time of the last EVENT frame, or of the claim, and the frames sent in the session (R349) -/
  lastEvent : Nat
  frames    : Nat
  /-- the request under execution is one that R333 excepts: it is answered unprotected -/
  plain     : Bool
  /-- the snapshot of the mailbox's SYNC_PART (R361) -/
  part      : Bytes
  deriving DecidableEq, Repr

/-! ## Safety, power, firmware, trust -/

/-- A safety frame as sent (R394): its payload, and the source, destination and destination MAC address of its datagram
(R393). -/
structure SafetyFrame where
  type    : Nat
  seq     : Nat
  bytes   : Bytes
  source  : Src
  dest    : Src
  mac     : Bytes
  deriving DecidableEq, Repr

structure Safety where
  causes   : BitVec 8
  nextSeq  : Nat
  lastSent : Nat
  tx       : List SafetyFrame
  replies  : List Src
  /-- when the device-level safe state in force began -/
  since    : Nat
  /-- the network block has failed: no safety frame is sent any more (R16, R396) -/
  netDown  : Bool
  deriving DecidableEq, Repr

/-- A temperature sensor (R422). -/
structure Temp where
  milliC  : Int
  failed  : Bool
  updated : Nat
  deriving DecidableEq, Repr

/-- A slice island's clock and limits (R412 to R428). -/
structure PowerSlice where
  mhz      : Nat
  /-- the sliver clock in sixths of a MHz: five for each MHz of the slice clock (R11) -/
  sliver6  : Nat
  mv       : Nat
  /-- a raised ceiling waits for VDD_CORE to settle (R413): the clock to come and since when -/
  settling : Option (Nat × Nat)
  stretched : Bool
  /-- core current granted by the governor, in µA (R418) -/
  ua       : Nat
  deriving DecidableEq, Repr

/-- A regulator as the PWP last read it (R426, R428). -/
structure Reg where
  fails : Nat
  highV : Bool
  under : Bool
  hot   : Bool
  deriving DecidableEq, Repr

structure Power where
  /-- the domains whose on state work and idle periods decide (R409, R410) -/
  domains  : List (Nat × Bool)
  slices   : List (Nat × PowerSlice)
  temps    : List (Nat × Temp)
  regs     : List (Nat × Reg)
  /-- evaluations in a row with chip power at least 1 W below POWER_CAP (R416) -/
  calm     : Nat
  /-- monotonic times of the last evaluation of chip power, step of the thermal loop and reading of the sensors -/
  lastEval : Nat
  lastStep : Nat
  lastRead : Nat
  /-- Tj below THROTTLE_C − 2 since; the thermal ceilings' last rise (R423) -/
  coolFrom : Option Nat
  lastRise : Nat
  /-- ceiling of a power emergency in MHz, and its last rise (R428) -/
  emCeil   : Nat
  emRise   : Nat
  /-- Tj below 105 °C since (R424) -/
  below105 : Option Nat
  /-- the clamp of R424 is in force -/
  clamp110 : Bool
  /-- a power emergency is in force; its alarms clear since (R428) -/
  powerEm  : Bool
  powerClear : Option Nat
  /-- the VR_HOT_N clamp is in force -/
  vrHot    : Bool
  /-- the thermal trip is latched (R425) -/
  tripped  : Bool
  /-- mW by which chip power exceeded POWER_CAP at the last evaluation (R415 to R417) -/
  overMw   : Nat
  /-- estimate of core current in µA, and what twilight work fills (R418 to R420) -/
  estUa    : Nat
  fillUa   : Nat
  deriving DecidableEq, Repr

/-- A firmware processor (R436 to R441). -/
structure Proc where
  restarting : Option Nat
  start    : Nat
  /-- the release waits for the BTP (R439) -/
  waitBtp  : Bool
  /-- its component, or the recovery program, has been released since the last reset -/
  released : Bool
  retry    : Bool
  slot     : Nat
  prevSlot : Nat
  activating : Bool
  deriving DecidableEq, Repr

/-- A staged log or trace entry (R442, R447). -/
inductive Staged where
  | log (bytes : Bytes)
  | trace (bytes : Bytes)
  deriving DecidableEq, Repr

/-- What a host request starts once its response has been sent (R454, R486): a restart of a processor with its cause, an
activation of a target on a slot, or a warm reset with its RESET_CAUSE. -/
inductive Due where
  | restart (p cause : Nat)
  | activate (target slot : Nat)
  | warm (cause : Nat)
  deriving DecidableEq, Repr

structure Firmware where
  procs    : List (Nat × Proc)
  buffer   : List Staged
  gapDue   : Nat
  logBase  : Option (Nat × Nat)
  traceBase : Option (Nat × Nat)
  logTail  : Nat
  traceTail : Nat
  logHead  : Nat
  traceHead : Nat
  /-- entries in the trace output's buffer (R510) -/
  traceOut : List Bytes
  /-- a staging in progress: the request, the slot it writes and its start (R448) -/
  staging  : Option (Bytes × Nat × Nat)
  /-- a pending activation: target, slot, since, calm since (R453) -/
  pending  : Option (Nat × Nat × Nat × Option Nat)
  /-- due once the response of the request under execution has been sent -/
  due      : Option Due
  deriving DecidableEq, Repr

/-- OTP, boot flash and what Chrysalis keeps (R459 to R480). -/
structure Trust where
  serial    : Nat
  /-- ROOT_KEY: 32 bytes that no output of the device carries (R461) -/
  rootKey   : Bytes
  hlMac     : Bytes
  spMac     : Bytes
  dpMacs    : List Bytes
  /-- the fuse of the physical slice disabled at production test (R8) -/
  sliceFuse : Nat
  /-- fuses of the disabled core of each physical cluster, by physical slice × 16 + cluster; 16 where none is listed (R170) -/
  coreFuses : List (Nat × Nat)
  keyHash   : List Bytes
  revoked   : BitVec 4
  instar    : BitVec 64
  /-- xSPI flash bytes by offset, canonical; an erased byte reads 0xFF and is not listed (R378, R464) -/
  flash     : List Host.Cell
  runInstar : Nat
  /-- image transfer of the mailbox: slot, length, next offset (R475) -/
  image     : Option (Nat × Nat × Nat)
  /-- PMBus addresses of the board configuration's regulators (R426, R499) -/
  regAddrs  : List Nat
  deriving DecidableEq, Repr

/-- The persistent dictionary area as records (R378 to R382). -/
structure PersRec where
  index : Nat
  sub   : Nat
  otype : Nat
  wseq  : Nat
  value : Bytes
  deriving DecidableEq, Repr

/-- The persistent dictionary area (R378): the bank in force, its generation and its records. -/
structure Pers where
  bank   : Nat
  bankSeq : Nat
  recs   : List PersRec
  /-- a record that power loss tore ends the bank's history: the next commit compacts (R380) -/
  torn   : Bool
  deriving DecidableEq, Repr

/-! ## The whole -/

structure State where
  pending  : List Instr
  clk      : Clock
  pins     : Pins
  rst      : ResetState
  objs     : List (Nat × Val)
  isl      : Islands
  slices   : List (Nat × Slice)
  harts    : List (Nat × Hart)
  clusters : List (Nat × Cluster)
  tasks    : List (Nat × Task)
  mem      : Memory
  peers    : List (Nat × Peer)
  work     : Work
  media    : Media
  link     : Link
  safety   : Safety
  power    : Power
  fw       : Firmware
  trust    : Trust
  pers     : Pers
  /-- the model's own counter: how many free values have been drawn (notes/assumptions/3.md) -/
  freeCtr  : Nat
  deriving DecidableEq, Repr

/-! ## The state after reset

The device is powered and held in power-on reset: PWRON_N is low (R483, R497). Every object stands at its
default, no slice, queue, context, stream or channel has been touched, and memory lists nothing. The first
command that starts the device is PWRON_N_DEASSERT. Times, OTP contents and the like that the spec does not give
stand at zero (notes/assumptions/6.md). -/

def Clock.reset : Clock := { now := 0, lode := 0, slew := 0, lastSync := 0, pdelay := 0 }

def Xspi.reset : Xspi := { mode := .single, pulse := none, sfdp := none }

/-- R509: an unconnected TRST_N holds the TAP in reset. -/
def Tap.reset : Tap := { trstN := false, state := .testLogicReset, instr := .idcode, shift := [], cells := [] }

/-- R389 and R507: before cause 0 ends the lines give the safe state, SAFE_A low and SAFE_B high. -/
def Pins.reset : Pins :=
  { xspi := Xspi.reset, tap := Tap.reset, pwronN := false, warmN := true, vrHotN := true, thermTripN := true, railsOk := [true, true, true]
    refclkOk := true, safeA := false, safeB := true, fsyncLast := [], fsyncPulses := [], fsyncPols := [] }

def ResetState.reset : ResetState :=
  { phase := .powerReset, t0 := 0, bootsel := 0, failSlices := [], failChannels := [], bundleSlot := none
    memHeld := true, loadDue := true, admitDue := false, sliceMap := [], coreMap := [] }

def Islands.reset : Islands := { crossings := [], nextId := 0, lastError := none, lateAcks := [], records := [] }

def Memory.reset : Memory :=
  { bytes := [], badBlocks := [], table := [], mirrors := [], lastChan := 0, seedCtr := 0, chans := [], migs := []
    migTimes := [], admits := [], nextReq := 0, remirror := [] }

def Work.reset : Work :=
  { queues := [], ctxs := [], flags := [], bootEpoch := 0, frameCounts := [], openSet := none, epochs := []
    deferred := [], idlePend := [], warmPend := [], cycles := [], jtaken := [], journalAt := none, heldStats := [], runSums := []
    pairs := [], statEnd := 0, replayDone := false, shedding := false, noAccept := false, batches := 0 }

def Media.reset : Media :=
  { streams := [], inline := [], m2m := [], decoding := [], i2c := [], i2cTx := [], tx := [], snaps := [] }

def Src.zero : Src := { addr := 0, port := 0, vlan := 0 }

def Link.reset : Link :=
  { up := false, lease := .free, session := 0, hostId := [], bound := Src.zero, periodMs := 2000, renewed := 0
    heldFor := none, expected := none, held := [], stored := [], tx := [], replies := [], staged := none
    snapshot := none, orphan := 0, policyAtLapse := 0, rxSas := [], txSas := [], rxEver := false, rxPn := []
    evWait := [], evDropped := 0, evBase := none, evDepth := 1024, syncAt := none, changed := [], changes := 0
    timer := none, lastEvent := 0, frames := 0, plain := false, part := [] }

/-- Cause 0 (start-up) is active from power-on (R388). -/
def Safety.reset : Safety :=
  { causes := 1, nextSeq := 0, lastSent := 0, tx := [], replies := [], since := 0, netDown := false }

def Power.reset : Power :=
  { domains := [], slices := [], temps := [], regs := [], calm := 0, lastEval := 0, lastStep := 0, lastRead := 0
    coolFrom := none, lastRise := 0, emCeil := 1200, emRise := 0, below105 := none, clamp110 := false, powerEm := false
    powerClear := none, vrHot := false, tripped := false, overMw := 0, estUa := 0, fillUa := 0 }

def Firmware.reset : Firmware :=
  { procs := [], buffer := [], gapDue := 0, logBase := none, traceBase := none, logTail := 0, traceTail := 0
    logHead := 0, traceHead := 0, traceOut := [], staging := none, pending := none, due := none }

def Trust.reset : Trust :=
  { serial := 0, rootKey := [], hlMac := [], spMac := [], dpMacs := [], sliceFuse := 6, coreFuses := [], keyHash := [], revoked := 0, instar := 0
    flash := [], runInstar := 0, image := none, regAddrs := [] }

def Pers.reset : Pers := { bank := 0, bankSeq := 1, recs := [], torn := false }

def State.reset : State :=
  { pending := [], clk := Clock.reset, pins := Pins.reset, rst := ResetState.reset, objs := [], isl := Islands.reset
    slices := [], harts := [], clusters := [], tasks := [], mem := Memory.reset, peers := [], work := Work.reset
    media := Media.reset, link := Link.reset, safety := Safety.reset, power := Power.reset, fw := Firmware.reset
    trust := Trust.reset, pers := Pers.reset, freeCtr := 0 }

end Sys2Proof.Machine
end

