-- ==== Sys2Proof/Machine/Objects.lean ====
section
/-! DEFINITION. The object dictionary's rows: every object the chapters' object tables give, with its type,
access, class, owner and range (R364 to R369, R383 to R385). State.objs holds the values that differ from the
row's default; the objects whose value is computed from the rest of the state are listed in Machine/Dict.lean. -/

namespace Sys2Proof.Machine

/-- A row of the dictionary: its instances lie at index base + stride × k, subindex sub + subStep × k, for k below
count. otype and access are the codes of R340; aclass is ACLASS of R383; owner numbers the processor (R384). -/
structure ObjRow where
  name    : String
  base    : Nat
  stride  : Nat
  count   : Nat
  sub     : Nat
  subStep : Nat
  otype   : Nat
  access  : Nat
  aclass  : Nat
  owner   : Nat
  maxLen  : Nat
  fixed   : Bool
  dflt    : Val
  min     : Nat
  max     : Nat
  /-- where a counter stops (R234, R309, R327, R362, R385, R407, R456) -/
  sat     : Nat
  deriving DecidableEq, Repr

/-- The key of an object's instance in State.objs: index × 256 + subindex. -/
def ObjRow.key (r : ObjRow) (k : Nat) : Nat := (r.base + r.stride * k) * 256 + r.sub + r.subStep * k

end Sys2Proof.Machine

namespace Sys2Proof.Machine.Obj


/-- 0x1000:01 VENDOR -/
def vendor : ObjRow := ⟨"VENDOR", 0x1000, 0, 1, 1, 0, 9, 1, 0, 2, 6, true, .blob [0x5A, 0x61, 0x6C, 0x6B, 0x61, 0x69], 0, 0, 4294967295⟩
/-- 0x1000:02 PART -/
def partName : ObjRow := ⟨"PART", 0x1000, 0, 1, 2, 0, 9, 1, 0, 2, 4, true, .blob [0x43, 0x4E, 0x34, 0x38], 0, 0, 4294967295⟩
/-- 0x1000:03 STEPPING -/
def stepping : ObjRow := ⟨"STEPPING", 0x1000, 0, 1, 3, 0, 9, 1, 0, 2, 2, true, .blob [0x41, 0x31], 0, 0, 4294967295⟩
/-- 0x1000:04 SERIAL -/
def serial : ObjRow := ⟨"SERIAL", 0x1000, 0, 1, 4, 0, 5, 1, 8, 2, 8, true, .num 0, 0, 18446744073709551615, 4294967295⟩
/-- 0x1000:05 DICT_VERSION -/
def dictVersion : ObjRow := ⟨"DICT_VERSION", 0x1000, 0, 1, 5, 0, 3, 1, 0, 2, 2, true, .num 1, 0, 65535, 65535⟩
/-- 0x1000:06 DEV_MODE -/
def devMode : ObjRow := ⟨"DEV_MODE", 0x1000, 0, 1, 6, 0, 2, 1, 0, 2, 1, true, .num 0, 0, 255, 255⟩
/-- 0x1100:01 SLICES -/
def slicesObj : ObjRow := ⟨"SLICES", 0x1100, 0, 1, 1, 0, 2, 1, 0, 2, 1, true, .num 6, 0, 255, 255⟩
/-- 0x1100:02 SLIVERS_PER_SLICE -/
def sliversPerSlice : ObjRow := ⟨"SLIVERS_PER_SLICE", 0x1100, 0, 1, 2, 0, 3, 1, 0, 2, 2, true, .num 256, 0, 65535, 65535⟩
/-- 0x1100:03 ARRAY_ROWS -/
def arrayRows : ObjRow := ⟨"ARRAY_ROWS", 0x1100, 0, 1, 3, 0, 3, 1, 0, 2, 2, true, .num 128, 0, 65535, 65535⟩
/-- 0x1100:04 ARRAY_COLS -/
def arrayCols : ObjRow := ⟨"ARRAY_COLS", 0x1100, 0, 1, 4, 0, 3, 1, 0, 2, 2, true, .num 128, 0, 65535, 65535⟩
/-- 0x1100:05 TILE_STORE_BYTES -/
def tileStoreBytes : ObjRow := ⟨"TILE_STORE_BYTES", 0x1100, 0, 1, 5, 0, 4, 1, 0, 2, 4, true, .num 2097152, 0, 4294967295, 4294967295⟩
/-- 0x1100:06 ACC_BANK_BYTES -/
def accBankBytes : ObjRow := ⟨"ACC_BANK_BYTES", 0x1100, 0, 1, 6, 0, 4, 1, 0, 2, 4, true, .num 262144, 0, 4294967295, 4294967295⟩
/-- 0x1100:07 PAGE_BYTES -/
def pageBytes : ObjRow := ⟨"PAGE_BYTES", 0x1100, 0, 1, 7, 0, 4, 1, 0, 2, 4, true, .num 16384, 0, 4294967295, 4294967295⟩
/-- 0x1100:08 BACKED_PAGES -/
def backedPages : ObjRow := ⟨"BACKED_PAGES", 0x1100, 0, 1, 8, 0, 4, 1, 0, 2, 4, true, .num 737280, 0, 4294967295, 4294967295⟩
/-- 0x1100:09 STREAMS -/
def streamsObj : ObjRow := ⟨"STREAMS", 0x1100, 0, 1, 9, 0, 2, 1, 0, 2, 1, true, .num 48, 0, 255, 255⟩
/-- 0x1100:0A QUEUES -/
def queuesObj : ObjRow := ⟨"QUEUES", 0x1100, 0, 1, 10, 0, 2, 1, 0, 2, 1, true, .num 64, 0, 255, 255⟩
/-- 0x1100:0B CONTEXTS -/
def contextsObj : ObjRow := ⟨"CONTEXTS", 0x1100, 0, 1, 11, 0, 3, 1, 0, 2, 2, true, .num 256, 0, 65535, 65535⟩
/-- 0x1100:0C FLAGS -/
def flagsObj : ObjRow := ⟨"FLAGS", 0x1100, 0, 1, 12, 0, 3, 1, 0, 2, 2, true, .num 1024, 0, 65535, 65535⟩
/-- 0x1100:0D DMA_TAGS_PER_SLICE -/
def dmaTagsPerSlice : ObjRow := ⟨"DMA_TAGS_PER_SLICE", 0x1100, 0, 1, 13, 0, 3, 1, 0, 2, 2, true, .num 2048, 0, 65535, 65535⟩
/-- 0x1200:01 DESC_INDEX -/
def descIndex : ObjRow := ⟨"DESC_INDEX", 0x1200, 0, 1, 1, 0, 3, 2, 0, 2, 2, true, .num 0, 0, 65535, 65535⟩
/-- 0x1200:02 DESC_SUB -/
def descSub : ObjRow := ⟨"DESC_SUB", 0x1200, 0, 1, 2, 0, 2, 2, 0, 2, 1, true, .num 0, 0, 255, 255⟩
/-- 0x1200:03 DESC_RECORD -/
def descRecord : ObjRow := ⟨"DESC_RECORD", 0x1200, 0, 1, 3, 0, 10, 1, 8, 2, 64, true, .blob (List.replicate 64 0), 0, 0, 4294967295⟩
/-- 0x1210:01 PERS_WRITES -/
def persWrites : ObjRow := ⟨"PERS_WRITES", 0x1210, 0, 1, 1, 0, 4, 1, 0, 2, 4, true, .num 0, 0, 4294967295, 4294967295⟩
/-- 0x1210:02 PERS_IGNORED -/
def persIgnored : ObjRow := ⟨"PERS_IGNORED", 0x1210, 0, 1, 2, 0, 4, 1, 0, 2, 4, true, .num 0, 0, 4294967295, 4294967295⟩
/-- 0x1210:03 PERS_FAIL -/
def persFail : ObjRow := ⟨"PERS_FAIL", 0x1210, 0, 1, 3, 0, 4, 1, 0, 2, 4, true, .num 0, 0, 4294967295, 4294967295⟩
/-- 0x1210:04 PERS_COMPACT -/
def persCompact : ObjRow := ⟨"PERS_COMPACT", 0x1210, 0, 1, 4, 0, 4, 1, 0, 2, 4, true, .num 0, 0, 4294967295, 4294967295⟩
/-- 0x1210:05 PERS_ERASE -/
def persErase : ObjRow := ⟨"PERS_ERASE", 0x1210, 0, 1, 5, 0, 2, 5, 0, 2, 1, true, .num 0, 1, 1, 255⟩
/-- 0x1300:01 WARM_CMD -/
def warmCmd : ObjRow := ⟨"WARM_CMD", 0x1300, 0, 1, 1, 0, 2, 5, 0, 2, 1, true, .num 0, 1, 1, 255⟩
/-- 0x1300:02 SLICE_RESET_CMD -/
def sliceResetCmd : ObjRow := ⟨"SLICE_RESET_CMD", 0x1300, 0, 1, 2, 0, 2, 5, 0, 2, 1, true, .num 0, 0, 5, 255⟩
/-- 0x1300:03 RESET_CAUSE -/
def resetCause : ObjRow := ⟨"RESET_CAUSE", 0x1300, 0, 1, 3, 0, 2, 1, 0, 2, 1, true, .num 0, 0, 255, 255⟩
/-- 0x1300:04 WARM_RESETS -/
def warmResets : ObjRow := ⟨"WARM_RESETS", 0x1300, 0, 1, 4, 0, 4, 1, 0, 2, 4, true, .num 0, 0, 4294967295, 4294967295⟩
/-- 0x1300:05 STARTUP_MS -/
def startupMs : ObjRow := ⟨"STARTUP_MS", 0x1300, 0, 1, 5, 0, 4, 1, 0, 2, 4, true, .num 0, 0, 4294967295, 4294967295⟩
/-- 0x2000:01 HL_T1_ROLE -/
def hlT1Role : ObjRow := ⟨"HL_T1_ROLE", 0x2000, 0, 1, 1, 0, 2, 2, 4, 2, 1, true, .num 0, 0, 1, 255⟩
/-- 0x2000:02 HL_MAC -/
def hlMac : ObjRow := ⟨"HL_MAC", 0x2000, 0, 1, 2, 0, 10, 1, 8, 2, 6, true, .blob (List.replicate 6 0), 0, 0, 4294967295⟩
/-- 0x2000:03 HL_IP4 -/
def hlIp4 : ObjRow := ⟨"HL_IP4", 0x2000, 0, 1, 3, 0, 4, 2, 4, 2, 4, true, .num 0, 0, 4294967295, 4294967295⟩
/-- 0x2000:04 HL_IP6 -/
def hlIp6 : ObjRow := ⟨"HL_IP6", 0x2000, 0, 1, 4, 0, 10, 2, 4, 2, 16, true, .blob (List.replicate 16 0), 0, 0, 4294967295⟩
/-- 0x2000:05 HL_VLAN -/
def hlVlan : ObjRow := ⟨"HL_VLAN", 0x2000, 0, 1, 5, 0, 3, 2, 4, 2, 2, true, .num 0, 0, 4094, 65535⟩
/-- 0x2000:06 HL_UDP -/
def hlUdp : ObjRow := ⟨"HL_UDP", 0x2000, 0, 1, 6, 0, 3, 2, 4, 2, 2, true, .num 40700, 1024, 65535, 65535⟩
/-- 0x2000:07 HL_RX_DISCARD -/
def hlRxDiscard : ObjRow := ⟨"HL_RX_DISCARD", 0x2000, 0, 1, 7, 0, 4, 1, 0, 2, 4, true, .num 0, 0, 4294967295, 4294967295⟩
/-- 0x2000:08 HL_SEQ_DISCARD -/
def hlSeqDiscard : ObjRow := ⟨"HL_SEQ_DISCARD", 0x2000, 0, 1, 8, 0, 4, 1, 0, 2, 4, true, .num 0, 0, 4294967295, 4294967295⟩
/-- 0x2010:01 LEASE_PERIOD -/
def leasePeriod : ObjRow := ⟨"LEASE_PERIOD", 0x2010, 0, 1, 1, 0, 4, 2, 0, 2, 4, true, .num 2000, 100, 60000, 4294967295⟩
/-- 0x2010:02 ORPHAN_POLICY -/
def orphanPolicy : ObjRow := ⟨"ORPHAN_POLICY", 0x2010, 0, 1, 2, 0, 2, 2, 4, 2, 1, true, .num 0, 0, 2, 255⟩
/-- 0x2010:03 LEASE_STATE -/
def leaseState : ObjRow := ⟨"LEASE_STATE", 0x2010, 0, 1, 3, 0, 2, 1, 0, 2, 1, true, .num 0, 0, 255, 255⟩
/-- 0x2010:04 LEASE_HOST -/
def leaseHost : ObjRow := ⟨"LEASE_HOST", 0x2010, 0, 1, 4, 0, 10, 1, 0, 2, 16, true, .blob (List.replicate 16 0), 0, 0, 4294967295⟩
/-- 0x2010:05 LEASE_REMAIN -/
def leaseRemain : ObjRow := ⟨"LEASE_REMAIN", 0x2010, 0, 1, 5, 0, 4, 1, 0, 2, 4, true, .num 0, 0, 4294967295, 4294967295⟩
/-- 0x2010:06 ORPHAN_RESUME -/
def orphanResume : ObjRow := ⟨"ORPHAN_RESUME", 0x2010, 0, 1, 6, 0, 2, 5, 0, 2, 1, true, .num 0, 1, 1, 255⟩
/-- 0x2020:01 COALESCE_US -/
def coalesceUs : ObjRow := ⟨"COALESCE_US", 0x2020, 0, 1, 1, 0, 3, 2, 0, 2, 2, true, .num 150, 0, 10000, 65535⟩
/-- 0x2020:02 COALESCE_COUNT -/
def coalesceCount : ObjRow := ⟨"COALESCE_COUNT", 0x2020, 0, 1, 2, 0, 3, 2, 0, 2, 2, true, .num 16, 1, 256, 65535⟩
/-- 0x2020:03 EVT_HEARTBEAT_MS -/
def evtHeartbeatMs : ObjRow := ⟨"EVT_HEARTBEAT_MS", 0x2020, 0, 1, 3, 0, 3, 2, 0, 2, 2, true, .num 100, 10, 1000, 65535⟩
/-- 0x2020:04 EVT_DEPTH -/
def evtDepth : ObjRow := ⟨"EVT_DEPTH", 0x2020, 0, 1, 4, 0, 3, 2, 7, 2, 2, true, .num 1024, 256, 16384, 65535⟩
/-- 0x2020:05 EVT_BASE -/
def evtBase : ObjRow := ⟨"EVT_BASE", 0x2020, 0, 1, 5, 0, 5, 1, 8, 2, 8, true, .num 0, 0, 18446744073709551615, 4294967295⟩
/-- 0x2020:06 EVT_HEAD -/
def evtHead : ObjRow := ⟨"EVT_HEAD", 0x2020, 0, 1, 6, 0, 4, 1, 0, 2, 4, true, .num 1, 0, 4294967295, 4294967295⟩
/-- 0x2020:07 EVT_TAIL -/
def evtTail : ObjRow := ⟨"EVT_TAIL", 0x2020, 0, 1, 7, 0, 4, 1, 0, 2, 4, true, .num 0, 0, 4294967295, 4294967295⟩
/-- 0x2020:08 EVT_LOST -/
def evtLost : ObjRow := ⟨"EVT_LOST", 0x2020, 0, 1, 8, 0, 4, 1, 0, 2, 4, true, .num 0, 0, 4294967295, 4294967295⟩
/-- 0x2020:09 LOG_BASE -/
def logBase : ObjRow := ⟨"LOG_BASE", 0x2020, 0, 1, 9, 0, 5, 1, 8, 2, 8, true, .num 0, 0, 18446744073709551615, 4294967295⟩
/-- 0x2020:0A TRACE_BASE -/
def traceBase : ObjRow := ⟨"TRACE_BASE", 0x2020, 0, 1, 10, 0, 5, 1, 8, 2, 8, true, .num 0, 0, 18446744073709551615, 4294967295⟩
/-- 0x2030:01 GPTP_DOMAIN -/
def gptpDomain : ObjRow := ⟨"GPTP_DOMAIN", 0x2030, 0, 1, 1, 0, 2, 2, 4, 2, 1, true, .num 0, 0, 127, 255⟩
/-- 0x2030:02 LT_STATE -/
def ltState : ObjRow := ⟨"LT_STATE", 0x2030, 0, 1, 2, 0, 2, 1, 0, 2, 1, true, .num 0, 0, 255, 255⟩
/-- 0x2030:03 LT_NOW -/
def ltNow : ObjRow := ⟨"LT_NOW", 0x2030, 0, 1, 3, 0, 8, 1, 8, 2, 8, true, .num 0, 0, 18446744073709551615, 4294967295⟩
/-- 0x2030:04 LT_OFFSET -/
def ltOffset : ObjRow := ⟨"LT_OFFSET", 0x2030, 0, 1, 4, 0, 6, 1, 0, 2, 4, true, .num 0, 0, 4294967295, 4294967295⟩
/-- 0x2030:05 LT_STEPS -/
def ltSteps : ObjRow := ⟨"LT_STEPS", 0x2030, 0, 1, 5, 0, 4, 1, 0, 2, 4, true, .num 0, 0, 4294967295, 4294967295⟩
/-- 0x2030:06 LT_STEP_NS -/
def ltStepNs : ObjRow := ⟨"LT_STEP_NS", 0x2030, 0, 1, 6, 0, 4, 2, 0, 2, 4, true, .num 100000, 1000, 10000000, 4294967295⟩
/-- 0x2040:01 MACSEC_MODE -/
def macsecMode : ObjRow := ⟨"MACSEC_MODE", 0x2040, 0, 1, 1, 0, 2, 2, 4, 2, 1, true, .num 0, 0, 2, 255⟩
/-- 0x2040:02 MACSEC_RX_SCI -/
def macsecRxSci : ObjRow := ⟨"MACSEC_RX_SCI", 0x2040, 0, 1, 2, 0, 5, 2, 4, 2, 8, true, .num 0, 0, 18446744073709551615, 4294967295⟩
/-- 0x2040:03 MACSEC_REPLAY -/
def macsecReplay : ObjRow := ⟨"MACSEC_REPLAY", 0x2040, 0, 1, 3, 0, 4, 2, 0, 2, 4, true, .num 0, 0, 65535, 4294967295⟩
/-- 0x2040:04 MACSEC_SAK -/
def macsecSak : ObjRow := ⟨"MACSEC_SAK", 0x2040, 0, 1, 4, 0, 10, 5, 0, 2, 92, true, .blob [], 0, 0, 4294967295⟩
/-- 0x2040:05 MACSEC_UNPROT -/
def macsecUnprot : ObjRow := ⟨"MACSEC_UNPROT", 0x2040, 0, 1, 5, 0, 4, 1, 0, 2, 4, true, .num 0, 0, 4294967295, 4294967295⟩
/-- 0x2040:06 MACSEC_ICV_FAIL -/
def macsecIcvFail : ObjRow := ⟨"MACSEC_ICV_FAIL", 0x2040, 0, 1, 6, 0, 4, 1, 0, 2, 4, true, .num 0, 0, 4294967295, 4294967295⟩
/-- 0x2100:01 SQ_BASE -/
def sqBase : ObjRow := ⟨"SQ_BASE", 0x2100, 16, 64, 1, 0, 5, 1, 0, 2, 8, true, .num 0, 0, 18446744073709551615, 4294967295⟩
/-- 0x2100:02 CQ_BASE -/
def cqBase : ObjRow := ⟨"CQ_BASE", 0x2100, 16, 64, 2, 0, 5, 1, 0, 2, 8, true, .num 0, 0, 18446744073709551615, 4294967295⟩
/-- 0x2100:03 SQ_HEAD -/
def sqHead : ObjRow := ⟨"SQ_HEAD", 0x2100, 16, 64, 3, 0, 4, 1, 0, 2, 4, true, .num 0, 0, 4294967295, 4294967295⟩
/-- 0x2100:04 SQ_TAIL -/
def sqTail : ObjRow := ⟨"SQ_TAIL", 0x2100, 16, 64, 4, 0, 4, 1, 0, 2, 4, true, .num 0, 0, 4294967295, 4294967295⟩
/-- 0x2100:05 CQ_HEAD -/
def cqHead : ObjRow := ⟨"CQ_HEAD", 0x2100, 16, 64, 5, 0, 5, 1, 0, 2, 8, true, .num 1, 0, 18446744073709551615, 4294967295⟩
/-- 0x2100:06 DB_BAD -/
def dbBad : ObjRow := ⟨"DB_BAD", 0x2100, 16, 64, 6, 0, 4, 1, 0, 2, 4, true, .num 0, 0, 4294967295, 4294967295⟩
/-- 0x3000:01 SRC_ENABLE -/
def srcEnable : ObjRow := ⟨"SRC_ENABLE", 0x3000, 32, 48, 1, 0, 1, 2, 0, 5, 1, true, .num 0, 0, 1, 4294967295⟩
/-- 0x3000:02 SRC_PORT -/
def srcPort : ObjRow := ⟨"SRC_PORT", 0x3000, 32, 48, 2, 0, 2, 2, 0, 5, 1, true, .num 0, 0, 1, 255⟩
/-- 0x3000:03 SRC_ADDR -/
def srcAddr : ObjRow := ⟨"SRC_ADDR", 0x3000, 32, 48, 3, 0, 10, 2, 0, 5, 16, true, .blob (List.replicate 16 0), 0, 0, 4294967295⟩
/-- 0x3000:04 SRC_UDP -/
def srcUdp : ObjRow := ⟨"SRC_UDP", 0x3000, 32, 48, 4, 0, 3, 2, 0, 5, 2, true, .num 0, 1024, 65535, 65535⟩
/-- 0x3000:05 SRC_VLAN -/
def srcVlan : ObjRow := ⟨"SRC_VLAN", 0x3000, 32, 48, 5, 0, 3, 2, 0, 5, 2, true, .num 0, 0, 4094, 65535⟩
/-- 0x3000:06 SRC_PT -/
def srcPt : ObjRow := ⟨"SRC_PT", 0x3000, 32, 48, 6, 0, 2, 2, 0, 5, 1, true, .num 96, 96, 127, 255⟩
/-- 0x3000:07 SRC_SSRC -/
def srcSsrc : ObjRow := ⟨"SRC_SSRC", 0x3000, 32, 48, 7, 0, 4, 2, 0, 5, 4, true, .num 0, 0, 4294967295, 4294967295⟩
/-- 0x3000:08 SRC_CODEC -/
def srcCodec : ObjRow := ⟨"SRC_CODEC", 0x3000, 32, 48, 8, 0, 2, 2, 0, 5, 1, true, .num 2, 1, 2, 255⟩
/-- 0x3000:09 SRC_PROFILE -/
def srcProfile : ObjRow := ⟨"SRC_PROFILE", 0x3000, 32, 48, 9, 0, 2, 2, 0, 5, 1, true, .num 1, 0, 255, 255⟩
/-- 0x3000:0A SRC_LEVEL -/
def srcLevel : ObjRow := ⟨"SRC_LEVEL", 0x3000, 32, 48, 10, 0, 2, 2, 0, 5, 1, true, .num 123, 0, 255, 255⟩
/-- 0x3000:0B SRC_WIDTH -/
def srcWidth : ObjRow := ⟨"SRC_WIDTH", 0x3000, 32, 48, 11, 0, 3, 2, 0, 5, 2, true, .num 1920, 64, 3840, 65535⟩
/-- 0x3000:0C SRC_HEIGHT -/
def srcHeight : ObjRow := ⟨"SRC_HEIGHT", 0x3000, 32, 48, 12, 0, 3, 2, 0, 5, 2, true, .num 1080, 64, 2160, 65535⟩
/-- 0x3000:0D SRC_FPS_MAX -/
def srcFpsMax : ObjRow := ⟨"SRC_FPS_MAX", 0x3000, 32, 48, 13, 0, 2, 2, 0, 5, 1, true, .num 50, 1, 60, 255⟩
/-- 0x3000:0E SRC_MBPS -/
def srcMbps : ObjRow := ⟨"SRC_MBPS", 0x3000, 32, 48, 14, 0, 3, 2, 0, 5, 2, true, .num 16, 1, 500, 65535⟩
/-- 0x3000:0F SRC_PARAMSETS -/
def srcParamsets : ObjRow := ⟨"SRC_PARAMSETS", 0x3000, 32, 48, 15, 0, 10, 2, 0, 5, 1024, false, .blob [], 0, 0, 4294967295⟩
/-- 0x3000:10 SRC_JITTER -/
def srcJitter : ObjRow := ⟨"SRC_JITTER", 0x3000, 32, 48, 16, 0, 2, 2, 0, 5, 1, true, .num 20, 0, 200, 255⟩
/-- 0x3000:11 SRC_CONCEAL -/
def srcConceal : ObjRow := ⟨"SRC_CONCEAL", 0x3000, 32, 48, 17, 0, 2, 2, 0, 5, 1, true, .num 0, 0, 1, 255⟩
/-- 0x3000:12 SRC_TIMEOUT -/
def srcTimeout : ObjRow := ⟨"SRC_TIMEOUT", 0x3000, 32, 48, 18, 0, 3, 2, 0, 5, 2, true, .num 200, 50, 5000, 65535⟩
/-- 0x3000:13 SRC_SETS -/
def srcSets : ObjRow := ⟨"SRC_SETS", 0x3000, 32, 48, 19, 0, 2, 2, 0, 5, 1, true, .num 4, 2, 16, 255⟩
/-- 0x3000:14 SRC_CONVERT -/
def srcConvert : ObjRow := ⟨"SRC_CONVERT", 0x3000, 32, 48, 20, 0, 10, 2, 9, 5, 256, true, .blob (List.replicate 256 0), 0, 0, 4294967295⟩
/-- 0x3000:15 SRC_STATE -/
def srcState : ObjRow := ⟨"SRC_STATE", 0x3000, 32, 48, 21, 0, 2, 1, 0, 5, 1, true, .num 0, 0, 255, 255⟩
/-- 0x3000:16 DEC_CORE -/
def decCore : ObjRow := ⟨"DEC_CORE", 0x3000, 32, 48, 22, 0, 2, 1, 0, 5, 1, true, .num 0, 0, 255, 255⟩
/-- 0x3000:17 DEC_LAST -/
def decLast : ObjRow := ⟨"DEC_LAST", 0x3000, 32, 48, 23, 0, 10, 1, 0, 5, 64, true, .blob (List.replicate 64 0), 0, 0, 4294967295⟩
/-- 0x3001:01 RTP_PKTS -/
def rtpPkts : ObjRow := ⟨"RTP_PKTS", 0x3001, 32, 48, 1, 0, 5, 1, 0, 5, 8, true, .num 0, 0, 18446744073709551615, 4294967295⟩
/-- 0x3001:02 RTP_LOST -/
def rtpLost : ObjRow := ⟨"RTP_LOST", 0x3001, 32, 48, 2, 0, 4, 1, 0, 5, 4, true, .num 0, 0, 4294967295, 4294967295⟩
/-- 0x3001:03 RTP_DUP -/
def rtpDup : ObjRow := ⟨"RTP_DUP", 0x3001, 32, 48, 3, 0, 4, 1, 0, 5, 4, true, .num 0, 0, 4294967295, 4294967295⟩
/-- 0x3001:04 RTP_LATE -/
def rtpLate : ObjRow := ⟨"RTP_LATE", 0x3001, 32, 48, 4, 0, 4, 1, 0, 5, 4, true, .num 0, 0, 4294967295, 4294967295⟩
/-- 0x3001:05 RTP_DISCARD -/
def rtpDiscard : ObjRow := ⟨"RTP_DISCARD", 0x3001, 32, 48, 5, 0, 4, 1, 0, 5, 4, true, .num 0, 0, 4294967295, 4294967295⟩
/-- 0x3001:06 TS_REGRESS -/
def tsRegress : ObjRow := ⟨"TS_REGRESS", 0x3001, 32, 48, 6, 0, 4, 1, 0, 5, 4, true, .num 0, 0, 4294967295, 4294967295⟩
/-- 0x3001:07 AU_INCOMPLETE -/
def auIncomplete : ObjRow := ⟨"AU_INCOMPLETE", 0x3001, 32, 48, 7, 0, 4, 1, 0, 5, 4, true, .num 0, 0, 4294967295, 4294967295⟩
/-- 0x3001:08 AU_CONCEALED -/
def auConcealed : ObjRow := ⟨"AU_CONCEALED", 0x3001, 32, 48, 8, 0, 4, 1, 0, 5, 4, true, .num 0, 0, 4294967295, 4294967295⟩
/-- 0x3001:09 SSRC_CHANGES -/
def ssrcChanges : ObjRow := ⟨"SSRC_CHANGES", 0x3001, 32, 48, 9, 0, 4, 1, 0, 5, 4, true, .num 0, 0, 4294967295, 4294967295⟩
/-- 0x3800:01 DP_MODE -/
def dpMode : ObjRow := ⟨"DP_MODE", 0x3800, 1, 2, 1, 0, 2, 2, 0, 5, 1, true, .num 0, 0, 2, 255⟩
/-- 0x3800:02 DP_MAC -/
def dpMac : ObjRow := ⟨"DP_MAC", 0x3800, 1, 2, 2, 0, 10, 1, 8, 5, 6, true, .blob (List.replicate 6 0), 0, 0, 4294967295⟩
/-- 0x3800:03 DP_IP4 -/
def dpIp4 : ObjRow := ⟨"DP_IP4", 0x3800, 1, 2, 3, 0, 4, 2, 0, 5, 4, true, .num 0, 0, 4294967295, 4294967295⟩
/-- 0x3800:04 DP_IP6 -/
def dpIp6 : ObjRow := ⟨"DP_IP6", 0x3800, 1, 2, 4, 0, 10, 2, 0, 5, 16, true, .blob (List.replicate 16 0), 0, 0, 4294967295⟩
/-- 0x3800:05 DP_LINK -/
def dpLink : ObjRow := ⟨"DP_LINK", 0x3800, 1, 2, 5, 0, 2, 1, 0, 5, 1, true, .num 0, 0, 255, 255⟩
/-- 0x3800:06 DP_RX_DISCARD -/
def dpRxDiscard : ObjRow := ⟨"DP_RX_DISCARD", 0x3800, 1, 2, 6, 0, 4, 1, 0, 5, 4, true, .num 0, 0, 4294967295, 4294967295⟩
/-- 0x3900:01 ENC_REQ -/
def encReq : ObjRow := ⟨"ENC_REQ", 0x3900, 0, 1, 1, 0, 10, 5, 0, 5, 32, true, .blob [], 0, 0, 4294967295⟩
/-- 0x4000:01 BOOT_EPOCH -/
def bootEpoch : ObjRow := ⟨"BOOT_EPOCH", 0x4000, 0, 1, 1, 0, 5, 1, 8, 4, 8, true, .num 0, 0, 18446744073709551615, 18446744073709551615⟩
/-- 0x4000:02 WAIT_TIMEOUT -/
def waitTimeout : ObjRow := ⟨"WAIT_TIMEOUT", 0x4000, 0, 1, 2, 0, 4, 2, 0, 4, 4, true, .num 5000, 100, 60000, 4294967295⟩
/-- 0x4000:03 REPLAYED_ITEMS -/
def replayedItems : ObjRow := ⟨"REPLAYED_ITEMS", 0x4000, 0, 1, 3, 0, 5, 1, 0, 4, 8, true, .num 0, 0, 18446744073709551615, 18446744073709551615⟩
/-- 0x4000:04 Q_ABORT_HEAD -/
def qAbortHead : ObjRow := ⟨"Q_ABORT_HEAD", 0x4000, 0, 1, 4, 0, 2, 5, 0, 4, 1, true, .num 0, 0, 63, 255⟩
/-- 0x4010:01 FLAG_STATE -/
def flagState : ObjRow := ⟨"FLAG_STATE", 0x4010, 0, 1, 1, 0, 10, 1, 0, 4, 128, true, .blob (List.replicate 128 0), 0, 0, 0⟩
/-- 0x4010:02 FLAG_SET_CMD -/
def flagSetCmd : ObjRow := ⟨"FLAG_SET_CMD", 0x4010, 0, 1, 2, 0, 3, 5, 0, 4, 2, true, .num 0, 0, 1023, 65535⟩
/-- 0x4010:03 FLAG_CLR_CMD -/
def flagClrCmd : ObjRow := ⟨"FLAG_CLR_CMD", 0x4010, 0, 1, 3, 0, 3, 5, 0, 4, 2, true, .num 0, 0, 1023, 65535⟩
/-- 0x4020:01 EPOCH_LAST -/
def epochLast : ObjRow := ⟨"EPOCH_LAST", 0x4020, 0, 1, 1, 0, 4, 1, 0, 4, 4, true, .num 0, 0, 4294967295, 4294967295⟩
/-- 0x4020:02 EPOCH_OPEN -/
def epochOpen : ObjRow := ⟨"EPOCH_OPEN", 0x4020, 0, 1, 2, 0, 2, 5, 0, 4, 1, true, .num 0, 1, 1, 255⟩
/-- 0x4020:03 EPOCH_COMMIT -/
def epochCommit : ObjRow := ⟨"EPOCH_COMMIT", 0x4020, 0, 1, 3, 0, 2, 5, 0, 4, 1, true, .num 0, 1, 1, 255⟩
/-- 0x4020:04 EPOCH_DISCARD -/
def epochDiscard : ObjRow := ⟨"EPOCH_DISCARD", 0x4020, 0, 1, 4, 0, 2, 5, 0, 4, 1, true, .num 0, 1, 1, 255⟩
/-- 0x4020:05 EPOCH_STAGED -/
def epochStaged : ObjRow := ⟨"EPOCH_STAGED", 0x4020, 0, 1, 5, 0, 3, 1, 0, 4, 2, true, .num 0, 0, 65535, 65535⟩
/-- 0x4030:01 REPRO_MODE -/
def reproMode : ObjRow := ⟨"REPRO_MODE", 0x4030, 0, 1, 1, 0, 1, 2, 2, 4, 1, true, .num 0, 0, 1, 1⟩
/-- 0x4030:02 REPRO_ACTIVE -/
def reproActive : ObjRow := ⟨"REPRO_ACTIVE", 0x4030, 0, 1, 2, 0, 1, 1, 0, 4, 1, true, .num 0, 0, 1, 1⟩
/-- 0x4030:03 REPRO_CHANGES -/
def reproChanges : ObjRow := ⟨"REPRO_CHANGES", 0x4030, 0, 1, 3, 0, 4, 1, 0, 4, 4, true, .num 0, 0, 4294967295, 4294967295⟩
/-- 0x4080:01 DECODE_WAIT -/
def decodeWait : ObjRow := ⟨"DECODE_WAIT", 0x4080, 0, 1, 1, 0, 3, 2, 0, 4, 2, true, .num 8, 1, 50, 65535⟩
/-- 0x4080:02 DECODE_BATCHES -/
def decodeBatches : ObjRow := ⟨"DECODE_BATCHES", 0x4080, 0, 1, 2, 0, 5, 1, 0, 4, 8, true, .num 0, 0, 18446744073709551615, 18446744073709551615⟩
/-- 0x4080:03 DECODE_ROWS -/
def decodeRows : ObjRow := ⟨"DECODE_ROWS", 0x4080, 0, 1, 3, 0, 5, 1, 0, 4, 8, true, .num 0, 0, 18446744073709551615, 18446744073709551615⟩
/-- 0x4080:04 DECODE_FULL -/
def decodeFull : ObjRow := ⟨"DECODE_FULL", 0x4080, 0, 1, 4, 0, 5, 1, 0, 4, 8, true, .num 0, 0, 18446744073709551615, 18446744073709551615⟩
/-- 0x4090:01 SAT_RATIO -/
def satRatio : ObjRow := ⟨"SAT_RATIO", 0x4090, 0, 1, 1, 0, 4, 2, 0, 4, 4, true, .num 4096, 16, 1048576, 4294967295⟩
/-- 0x4090:02 DRIFT_RATIO -/
def driftRatio : ObjRow := ⟨"DRIFT_RATIO", 0x4090, 0, 1, 2, 0, 7, 2, 0, 4, 4, true, .num 1082130432, 1067450368, 1149239296, 4294967295⟩
/-- 0x4090:03 STAT_WINDOW -/
def statWindow : ObjRow := ⟨"STAT_WINDOW", 0x4090, 0, 1, 3, 0, 3, 2, 2, 4, 2, true, .num 1000, 100, 10000, 65535⟩
/-- 0x4090:04 SAT_EVENTS -/
def satEvents : ObjRow := ⟨"SAT_EVENTS", 0x4090, 0, 1, 4, 0, 5, 1, 0, 4, 8, true, .num 0, 0, 18446744073709551615, 18446744073709551615⟩
/-- 0x4090:05 DRIFT_EVENTS -/
def driftEvents : ObjRow := ⟨"DRIFT_EVENTS", 0x4090, 0, 1, 5, 0, 5, 1, 0, 4, 8, true, .num 0, 0, 18446744073709551615, 18446744073709551615⟩
/-- 0x4090:06 STAT_CTX -/
def statCtx : ObjRow := ⟨"STAT_CTX", 0x4090, 0, 1, 6, 0, 3, 2, 0, 4, 2, true, .num 0, 0, 255, 65535⟩
/-- 0x4090:07 STAT_LAYER -/
def statLayer : ObjRow := ⟨"STAT_LAYER", 0x4090, 0, 1, 7, 0, 3, 2, 0, 4, 2, true, .num 0, 0, 65535, 65535⟩
/-- 0x4090:08 STAT_LAST -/
def statLast : ObjRow := ⟨"STAT_LAST", 0x4090, 0, 1, 8, 0, 10, 1, 0, 4, 40, true, .blob (List.replicate 40 0), 0, 0, 0⟩
/-- 0x40A0:01 VERIFY_LAST -/
def verifyLast : ObjRow := ⟨"VERIFY_LAST", 0x40A0, 0, 1, 1, 0, 10, 1, 0, 4, 32, true, .blob (List.replicate 32 0), 0, 0, 0⟩
/-- 0x40A0:02 VERIFY_REJECTS -/
def verifyRejects : ObjRow := ⟨"VERIFY_REJECTS", 0x40A0, 0, 1, 2, 0, 4, 1, 0, 4, 4, true, .num 0, 0, 4294967295, 4294967295⟩
/-- 0x4100:01 Q_ENABLE -/
def qEnable : ObjRow := ⟨"Q_ENABLE", 0x4100, 16, 64, 1, 0, 1, 2, 0, 4, 1, true, .num 0, 0, 1, 1⟩
/-- 0x4100:02 Q_DEPTH -/
def qDepth : ObjRow := ⟨"Q_DEPTH", 0x4100, 16, 64, 2, 0, 3, 2, 0, 4, 2, true, .num 64, 16, 4096, 65535⟩
/-- 0x4100:03 Q_PRIO -/
def qPrio : ObjRow := ⟨"Q_PRIO", 0x4100, 16, 64, 3, 0, 2, 2, 0, 4, 1, true, .num 1, 0, 2, 255⟩
/-- 0x4100:04 Q_STATE -/
def qState : ObjRow := ⟨"Q_STATE", 0x4100, 16, 64, 4, 0, 2, 1, 0, 4, 1, true, .num 0, 0, 255, 255⟩
/-- 0x4100:05 Q_LAST_ACCEPTED -/
def qLastAccepted : ObjRow := ⟨"Q_LAST_ACCEPTED", 0x4100, 16, 64, 5, 0, 5, 1, 0, 4, 8, true, .num 0, 0, 18446744073709551615, 18446744073709551615⟩
/-- 0x4100:06 Q_LAST_POSTED -/
def qLastPosted : ObjRow := ⟨"Q_LAST_POSTED", 0x4100, 16, 64, 6, 0, 5, 1, 0, 4, 8, true, .num 0, 0, 18446744073709551615, 18446744073709551615⟩
/-- 0x4100:07 Q_INFLIGHT -/
def qInflight : ObjRow := ⟨"Q_INFLIGHT", 0x4100, 16, 64, 7, 0, 3, 1, 0, 4, 2, true, .num 0, 0, 65535, 65535⟩
/-- 0x4100:08 Q_REFUSED -/
def qRefused : ObjRow := ⟨"Q_REFUSED", 0x4100, 16, 64, 8, 0, 4, 1, 0, 4, 4, true, .num 0, 0, 4294967295, 4294967295⟩
/-- 0x4100:09 Q_DROPPED -/
def qDropped : ObjRow := ⟨"Q_DROPPED", 0x4100, 16, 64, 9, 0, 4, 1, 0, 4, 4, true, .num 0, 0, 4294967295, 4294967295⟩
/-- 0x4800:01 CTX_STATE -/
def ctxState : ObjRow := ⟨"CTX_STATE", 0x4800, 8, 256, 1, 0, 2, 1, 0, 4, 1, true, .num 0, 0, 255, 255⟩
/-- 0x4800:02 CTX_DIGEST -/
def ctxDigest : ObjRow := ⟨"CTX_DIGEST", 0x4800, 8, 256, 2, 0, 10, 1, 0, 4, 64, true, .blob (List.replicate 64 0), 0, 0, 0⟩
/-- 0x4800:03 CTX_PAGES -/
def ctxPages : ObjRow := ⟨"CTX_PAGES", 0x4800, 8, 256, 3, 0, 4, 1, 0, 4, 4, true, .num 0, 0, 4294967295, 4294967295⟩
/-- 0x4800:04 CTX_POOL -/
def ctxPool : ObjRow := ⟨"CTX_POOL", 0x4800, 8, 256, 4, 0, 3, 1, 0, 4, 2, true, .num 0, 0, 65535, 65535⟩
/-- 0x4800:05 CTX_POOL_WAIT -/
def ctxPoolWait : ObjRow := ⟨"CTX_POOL_WAIT", 0x4800, 8, 256, 5, 0, 4, 1, 0, 4, 4, true, .num 0, 0, 4294967295, 4294967295⟩
/-- 0x4800:06 CTX_JOBS -/
def ctxJobs : ObjRow := ⟨"CTX_JOBS", 0x4800, 8, 256, 6, 0, 5, 1, 0, 4, 8, true, .num 0, 0, 18446744073709551615, 18446744073709551615⟩
/-- 0x5000:01 SAFE_STATE -/
def safeState : ObjRow := ⟨"SAFE_STATE", 0x5000, 0, 1, 1, 0, 2, 1, 0, 1, 1, true, .num 0, 0, 255, 255⟩
/-- 0x5000:02 DIAG_INTERVAL -/
def diagInterval : ObjRow := ⟨"DIAG_INTERVAL", 0x5000, 0, 1, 2, 0, 3, 2, 0, 1, 2, true, .num 100, 10, 1000, 65535⟩
/-- 0x5000:03 FROZEN_K -/
def frozenK : ObjRow := ⟨"FROZEN_K", 0x5000, 0, 1, 3, 0, 2, 2, 0, 1, 1, true, .num 3, 2, 16, 255⟩
/-- 0x5000:04 SAFE_CAUSES -/
def safeCauses : ObjRow := ⟨"SAFE_CAUSES", 0x5000, 0, 1, 4, 0, 2, 1, 0, 1, 1, true, .num 1, 0, 255, 255⟩
/-- 0x5000:05 SAFE_FORCE -/
def safeForce : ObjRow := ⟨"SAFE_FORCE", 0x5000, 0, 1, 5, 0, 2, 5, 0, 1, 1, true, .num 0, 1, 2, 255⟩
/-- 0x5000:06 STALE_MS -/
def staleMs : ObjRow := ⟨"STALE_MS", 0x5000, 0, 1, 6, 0, 3, 2, 0, 1, 2, true, .num 60, 20, 1000, 65535⟩
/-- 0x5000:07 STREAM_VALID -/
def streamValid : ObjRow := ⟨"STREAM_VALID", 0x5000, 0, 1, 7, 0, 5, 1, 0, 1, 8, true, .num 0, 0, 18446744073709551615, 4294967295⟩
/-- 0x5000:08 STREAM_REASON -/
def streamReason : ObjRow := ⟨"STREAM_REASON", 0x5000, 0, 1, 8, 0, 10, 1, 0, 1, 48, true, .blob (List.replicate 48 1), 0, 0, 4294967295⟩
/-- 0x5000:09 UNRESOLVED -/
def unresolved : ObjRow := ⟨"UNRESOLVED", 0x5000, 0, 1, 9, 0, 4, 1, 0, 1, 4, true, .num 0, 0, 4294967295, 4294967295⟩
/-- 0x5000:0A SUSPECT_RESULTS -/
def suspectResults : ObjRow := ⟨"SUSPECT_RESULTS", 0x5000, 0, 1, 10, 0, 4, 1, 0, 1, 4, true, .num 0, 0, 4294967295, 4294967295⟩
/-- 0x5000:0B RECOMPUTES -/
def recomputes : ObjRow := ⟨"RECOMPUTES", 0x5000, 0, 1, 11, 0, 4, 1, 0, 1, 4, true, .num 0, 0, 4294967295, 4294967295⟩
/-- 0x5000:0C WATCHDOG_EXPIRIES -/
def watchdogExpiries : ObjRow := ⟨"WATCHDOG_EXPIRIES", 0x5000, 0, 1, 12, 0, 4, 1, 0, 1, 4, true, .num 0, 0, 4294967295, 4294967295⟩
/-- 0x5000:0D FROZEN_EVENTS -/
def frozenEvents : ObjRow := ⟨"FROZEN_EVENTS", 0x5000, 0, 1, 13, 0, 4, 1, 0, 1, 4, true, .num 0, 0, 4294967295, 4294967295⟩
/-- 0x5010:01 SP_MAC -/
def spMac : ObjRow := ⟨"SP_MAC", 0x5010, 0, 1, 1, 0, 10, 1, 8, 1, 6, true, .blob (List.replicate 6 0), 0, 0, 4294967295⟩
/-- 0x5010:02 SP_IP -/
def spIp : ObjRow := ⟨"SP_IP", 0x5010, 0, 1, 2, 0, 10, 2, 7, 1, 16, true, .blob (List.replicate 16 0), 0, 0, 4294967295⟩
/-- 0x5010:03 SP_VLAN -/
def spVlan : ObjRow := ⟨"SP_VLAN", 0x5010, 0, 1, 3, 0, 3, 2, 7, 1, 2, true, .num 0, 0, 4094, 65535⟩
/-- 0x5010:04 SP_UDP_SRC -/
def spUdpSrc : ObjRow := ⟨"SP_UDP_SRC", 0x5010, 0, 1, 4, 0, 3, 2, 7, 1, 2, true, .num 40900, 1024, 65535, 65535⟩
/-- 0x5010:05 SP_DEST_MAC -/
def spDestMac : ObjRow := ⟨"SP_DEST_MAC", 0x5010, 0, 1, 5, 0, 10, 2, 7, 1, 6, true, .blob (List.replicate 6 0), 0, 0, 4294967295⟩
/-- 0x5010:06 SP_DEST_IP -/
def spDestIp : ObjRow := ⟨"SP_DEST_IP", 0x5010, 0, 1, 6, 0, 10, 2, 7, 1, 16, true, .blob (List.replicate 16 0), 0, 0, 4294967295⟩
/-- 0x5010:07 SP_DEST_UDP -/
def spDestUdp : ObjRow := ⟨"SP_DEST_UDP", 0x5010, 0, 1, 7, 0, 3, 2, 7, 1, 2, true, .num 40900, 1024, 65535, 65535⟩
/-- 0x5010:08 SP_LINK -/
def spLink : ObjRow := ⟨"SP_LINK", 0x5010, 0, 1, 8, 0, 2, 1, 0, 1, 1, true, .num 0, 0, 255, 255⟩
/-- 0x5010:09 SP_FRAMES -/
def spFrames : ObjRow := ⟨"SP_FRAMES", 0x5010, 0, 1, 9, 0, 5, 1, 0, 1, 8, true, .num 0, 0, 18446744073709551615, 4294967295⟩
/-- 0x5100:01 DEADLINE_MS -/
def deadlineMs : ObjRow := ⟨"DEADLINE_MS", 0x5100, 0, 48, 1, 1, 3, 2, 1, 1, 2, true, .num 40, 10, 200, 65535⟩
/-- 0x5200:01 SLICE_STATE -/
def sliceState : ObjRow := ⟨"SLICE_STATE", 0x5200, 16, 6, 1, 0, 2, 1, 0, 1, 1, true, .num 0, 0, 255, 255⟩
/-- 0x5200:02 STRIKES -/
def strikes : ObjRow := ⟨"STRIKES", 0x5200, 16, 6, 2, 0, 2, 1, 0, 1, 1, true, .num 0, 0, 255, 255⟩
/-- 0x5200:03 TRANSIENTS -/
def transients : ObjRow := ⟨"TRANSIENTS", 0x5200, 16, 6, 3, 0, 4, 1, 0, 1, 4, true, .num 0, 0, 4294967295, 4294967295⟩
/-- 0x5200:04 GOLDEN_PASS -/
def goldenPass : ObjRow := ⟨"GOLDEN_PASS", 0x5200, 16, 6, 4, 0, 5, 1, 0, 1, 8, true, .num 0, 0, 18446744073709551615, 4294967295⟩
/-- 0x5200:05 GOLDEN_FAIL -/
def goldenFail : ObjRow := ⟨"GOLDEN_FAIL", 0x5200, 16, 6, 5, 0, 4, 1, 0, 1, 4, true, .num 0, 0, 4294967295, 4294967295⟩
/-- 0x5200:06 GOLDEN_AGE_MS -/
def goldenAgeMs : ObjRow := ⟨"GOLDEN_AGE_MS", 0x5200, 16, 6, 6, 0, 4, 1, 0, 1, 4, true, .num 0, 0, 4294967295, 4294967295⟩
/-- 0x5200:07 LAPSES -/
def lapses : ObjRow := ⟨"LAPSES", 0x5200, 16, 6, 7, 0, 4, 1, 0, 1, 4, true, .num 0, 0, 4294967295, 4294967295⟩
/-- 0x6000:01 POWER_CAP -/
def powerCap : ObjRow := ⟨"POWER_CAP", 0x6000, 0, 1, 1, 0, 2, 2, 4, 3, 1, true, .num 60, 25, 75, 255⟩
/-- 0x6000:02 THROTTLE_C -/
def throttleC : ObjRow := ⟨"THROTTLE_C", 0x6000, 0, 1, 2, 0, 2, 2, 4, 3, 1, true, .num 100, 85, 105, 255⟩
/-- 0x6000:03 SLEW_LIMIT -/
def slewLimit : ObjRow := ⟨"SLEW_LIMIT", 0x6000, 0, 1, 3, 0, 7, 2, 4, 3, 4, true, .num 1073741824, 1056964608, 1092616192, 4294967295⟩
/-- 0x6000:04 POWER_STATE -/
def powerState : ObjRow := ⟨"POWER_STATE", 0x6000, 0, 1, 4, 0, 2, 1, 0, 3, 1, true, .num 0, 0, 255, 255⟩
/-- 0x6000:05 POWER_NOW -/
def powerNow : ObjRow := ⟨"POWER_NOW", 0x6000, 0, 1, 5, 0, 7, 1, 0, 3, 4, true, .num 0, 0, 4294967295, 4294967295⟩
/-- 0x6000:06 TJ_NOW -/
def tjNow : ObjRow := ⟨"TJ_NOW", 0x6000, 0, 1, 6, 0, 7, 1, 8, 3, 4, true, .num 0, 0, 4294967295, 4294967295⟩
/-- 0x6000:07 CURRENT_FLOOR -/
def currentFloor : ObjRow := ⟨"CURRENT_FLOOR", 0x6000, 0, 1, 7, 0, 7, 2, 4, 3, 4, true, .num 0, 0, 1114636288, 4294967295⟩
/-- 0x6000:08 VRHOT_CLOCK -/
def vrhotClock : ObjRow := ⟨"VRHOT_CLOCK", 0x6000, 0, 1, 8, 0, 3, 2, 4, 3, 2, true, .num 600, 400, 1200, 65535⟩
/-- 0x6000:09 ENERGY_TOTAL -/
def energyTotal : ObjRow := ⟨"ENERGY_TOTAL", 0x6000, 0, 1, 9, 0, 5, 1, 0, 3, 8, true, .num 0, 0, 18446744073709551615, 18446744073709551615⟩
/-- 0x6000:0A ENERGY_UNATTRIB -/
def energyUnattrib : ObjRow := ⟨"ENERGY_UNATTRIB", 0x6000, 0, 1, 10, 0, 5, 1, 0, 3, 8, true, .num 0, 0, 18446744073709551615, 18446744073709551615⟩
/-- 0x6000:0B ENERGY_TWILIGHT -/
def energyTwilight : ObjRow := ⟨"ENERGY_TWILIGHT", 0x6000, 0, 1, 11, 0, 5, 1, 0, 3, 8, true, .num 0, 0, 18446744073709551615, 18446744073709551615⟩
/-- 0x6000:0C THROTTLE_EVENTS -/
def throttleEvents : ObjRow := ⟨"THROTTLE_EVENTS", 0x6000, 0, 1, 12, 0, 4, 1, 0, 3, 4, true, .num 0, 0, 4294967295, 4294967295⟩
/-- 0x6000:0D THERM_EMERGENCIES -/
def thermEmergencies : ObjRow := ⟨"THERM_EMERGENCIES", 0x6000, 0, 1, 13, 0, 4, 1, 0, 3, 4, true, .num 0, 0, 4294967295, 4294967295⟩
/-- 0x6000:0E POWER_EMERGENCIES -/
def powerEmergencies : ObjRow := ⟨"POWER_EMERGENCIES", 0x6000, 0, 1, 14, 0, 4, 1, 0, 3, 4, true, .num 0, 0, 4294967295, 4294967295⟩
/-- 0x6000:0F VRHOT_ASSERTS -/
def vrhotAsserts : ObjRow := ⟨"VRHOT_ASSERTS", 0x6000, 0, 1, 15, 0, 4, 1, 0, 3, 4, true, .num 0, 0, 4294967295, 4294967295⟩
/-- 0x6000:10 SENSOR_FAILED -/
def sensorFailed : ObjRow := ⟨"SENSOR_FAILED", 0x6000, 0, 1, 16, 0, 4, 1, 0, 3, 4, true, .num 0, 0, 4294967295, 4294967295⟩
/-- 0x6100:01 SLICE_MHZ -/
def sliceMhz : ObjRow := ⟨"SLICE_MHZ", 0x6100, 16, 6, 1, 0, 3, 1, 8, 3, 2, true, .num 0, 0, 65535, 65535⟩
/-- 0x6100:02 SLICE_MV -/
def sliceMv : ObjRow := ⟨"SLICE_MV", 0x6100, 16, 6, 2, 0, 3, 1, 8, 3, 2, true, .num 0, 0, 65535, 65535⟩
/-- 0x6100:03 CAP_CEIL -/
def capCeil : ObjRow := ⟨"CAP_CEIL", 0x6100, 16, 6, 3, 0, 3, 1, 0, 3, 2, true, .num 1200, 0, 65535, 65535⟩
/-- 0x6100:04 THERM_CEIL -/
def thermCeil : ObjRow := ⟨"THERM_CEIL", 0x6100, 16, 6, 4, 0, 3, 1, 0, 3, 2, true, .num 1200, 0, 65535, 65535⟩
/-- 0x6100:05 GOV_HOLD -/
def govHold : ObjRow := ⟨"GOV_HOLD", 0x6100, 16, 6, 5, 0, 5, 1, 0, 3, 8, true, .num 0, 0, 18446744073709551615, 18446744073709551615⟩
/-- 0x6100:06 DROOP_EVENTS -/
def droopEvents : ObjRow := ⟨"DROOP_EVENTS", 0x6100, 16, 6, 6, 0, 4, 1, 0, 3, 4, true, .num 0, 0, 4294967295, 4294967295⟩
/-- 0x6100:07 SLICE_ENERGY -/
def sliceEnergy : ObjRow := ⟨"SLICE_ENERGY", 0x6100, 16, 6, 7, 0, 5, 1, 0, 3, 8, true, .num 0, 0, 18446744073709551615, 18446744073709551615⟩
/-- 0x6200:01 TEMP -/
def temp : ObjRow := ⟨"TEMP", 0x6200, 0, 24, 1, 1, 7, 1, 8, 3, 4, true, .num 0, 0, 4294967295, 4294967295⟩
/-- 0x6300:01 DOMAIN_ON -/
def domainOn : ObjRow := ⟨"DOMAIN_ON", 0x6300, 0, 1, 1, 0, 10, 1, 8, 3, 28, true, .blob (List.replicate 28 0), 0, 0, 0⟩
/-- 0x7000:01 INSTAR_FLOOR -/
def instarFloor : ObjRow := ⟨"INSTAR_FLOOR", 0x7000, 0, 1, 1, 0, 2, 1, 8, 0, 1, true, .num 0, 0, 255, 255⟩
/-- 0x7000:02 BOOT_SLOT -/
def bootSlot : ObjRow := ⟨"BOOT_SLOT", 0x7000, 0, 1, 2, 0, 2, 1, 8, 0, 1, true, .num 0, 0, 255, 255⟩
/-- 0x7000:03 BOOT_ANOMALY -/
def bootAnomaly : ObjRow := ⟨"BOOT_ANOMALY", 0x7000, 0, 1, 3, 0, 1, 1, 0, 0, 1, true, .num 0, 0, 1, 4294967295⟩
/-- 0x7000:04 SLOT_A_STATUS -/
def slotAStatus : ObjRow := ⟨"SLOT_A_STATUS", 0x7000, 0, 1, 4, 0, 3, 1, 8, 0, 2, true, .num 0, 0, 65535, 65535⟩
/-- 0x7000:05 SLOT_B_STATUS -/
def slotBStatus : ObjRow := ⟨"SLOT_B_STATUS", 0x7000, 0, 1, 5, 0, 3, 1, 8, 0, 2, true, .num 0, 0, 65535, 65535⟩
/-- 0x7000:06 SLOT_A_SEQ -/
def slotASeq : ObjRow := ⟨"SLOT_A_SEQ", 0x7000, 0, 1, 6, 0, 5, 1, 0, 0, 8, true, .num 0, 0, 18446744073709551615, 4294967295⟩
/-- 0x7000:07 SLOT_B_SEQ -/
def slotBSeq : ObjRow := ⟨"SLOT_B_SEQ", 0x7000, 0, 1, 7, 0, 5, 1, 0, 0, 8, true, .num 0, 0, 18446744073709551615, 4294967295⟩
/-- 0x7000:08 SLOT_A_INSTAR -/
def slotAInstar : ObjRow := ⟨"SLOT_A_INSTAR", 0x7000, 0, 1, 8, 0, 2, 1, 0, 0, 1, true, .num 255, 0, 255, 255⟩
/-- 0x7000:09 SLOT_B_INSTAR -/
def slotBInstar : ObjRow := ⟨"SLOT_B_INSTAR", 0x7000, 0, 1, 9, 0, 2, 1, 0, 0, 1, true, .num 255, 0, 255, 255⟩
/-- 0x7000:0A KEY_STATE -/
def keyState : ObjRow := ⟨"KEY_STATE", 0x7000, 0, 1, 10, 0, 2, 1, 8, 0, 1, true, .num 0, 0, 255, 255⟩
/-- 0x7000:0B KEY_REVOKE -/
def keyRevoke : ObjRow := ⟨"KEY_REVOKE", 0x7000, 0, 1, 11, 0, 10, 5, 0, 0, 100, true, .blob [], 0, 0, 4294967295⟩
/-- 0x7000:0C RUN_INSTAR -/
def runInstar : ObjRow := ⟨"RUN_INSTAR", 0x7000, 0, 1, 12, 0, 2, 1, 8, 0, 1, true, .num 0, 0, 255, 255⟩
/-- 0x7000:0D BOOTSEL -/
def bootsel : ObjRow := ⟨"BOOTSEL", 0x7000, 0, 1, 13, 0, 2, 1, 8, 0, 1, true, .num 0, 0, 255, 255⟩
/-- 0x7100:01 FW_STATE -/
def fwState : ObjRow := ⟨"FW_STATE", 0x7100, 16, 6, 1, 0, 2, 1, 0, 0, 1, true, .num 2, 0, 255, 255⟩
/-- 0x7100:02 FW_VERSION -/
def fwVersion : ObjRow := ⟨"FW_VERSION", 0x7100, 16, 6, 2, 0, 4, 1, 8, 0, 4, true, .num 0, 0, 4294967295, 4294967295⟩
/-- 0x7100:03 FW_INSTAR -/
def fwInstar : ObjRow := ⟨"FW_INSTAR", 0x7100, 16, 6, 3, 0, 2, 1, 8, 0, 1, true, .num 0, 0, 255, 255⟩
/-- 0x7100:04 FW_SLOT -/
def fwSlot : ObjRow := ⟨"FW_SLOT", 0x7100, 16, 6, 4, 0, 2, 1, 8, 0, 1, true, .num 0, 0, 255, 255⟩
/-- 0x7100:05 FW_RESTARTS -/
def fwRestarts : ObjRow := ⟨"FW_RESTARTS", 0x7100, 16, 6, 5, 0, 4, 1, 0, 0, 4, true, .num 0, 0, 4294967295, 4294967295⟩
/-- 0x7100:06 FW_LAST_CAUSE -/
def fwLastCause : ObjRow := ⟨"FW_LAST_CAUSE", 0x7100, 16, 6, 6, 0, 2, 1, 0, 0, 1, true, .num 0, 0, 255, 255⟩
/-- 0x7100:07 FW_RESTART -/
def fwRestart : ObjRow := ⟨"FW_RESTART", 0x7100, 16, 6, 7, 0, 2, 5, 0, 0, 1, true, .num 0, 1, 1, 255⟩
/-- 0x7200:01 UPD_STAGE -/
def updStage : ObjRow := ⟨"UPD_STAGE", 0x7200, 0, 1, 1, 0, 10, 5, 0, 0, 16, true, .blob [], 0, 0, 4294967295⟩
/-- 0x7200:02 UPD_STATE -/
def updState : ObjRow := ⟨"UPD_STATE", 0x7200, 0, 1, 2, 0, 2, 1, 0, 0, 1, true, .num 0, 0, 255, 255⟩
/-- 0x7200:03 UPD_STATUS -/
def updStatus : ObjRow := ⟨"UPD_STATUS", 0x7200, 0, 1, 3, 0, 3, 1, 0, 0, 2, true, .num 0, 0, 65535, 65535⟩
/-- 0x7200:04 UPD_SLOT -/
def updSlot : ObjRow := ⟨"UPD_SLOT", 0x7200, 0, 1, 4, 0, 2, 1, 0, 0, 1, true, .num 255, 0, 255, 255⟩
/-- 0x7200:05 UPD_ACTIVATE -/
def updActivate : ObjRow := ⟨"UPD_ACTIVATE", 0x7200, 0, 1, 5, 0, 3, 5, 0, 0, 2, true, .num 0, 0, 65535, 65535⟩
/-- 0x7200:06 ACT_PENDING -/
def actPending : ObjRow := ⟨"ACT_PENDING", 0x7200, 0, 1, 6, 0, 2, 1, 0, 0, 1, true, .num 0, 0, 255, 255⟩
/-- 0x7200:07 UPD_COMMIT -/
def updCommit : ObjRow := ⟨"UPD_COMMIT", 0x7200, 0, 1, 7, 0, 2, 5, 0, 0, 1, true, .num 0, 1, 1, 255⟩
/-- 0x7200:08 UPD_CANCEL -/
def updCancel : ObjRow := ⟨"UPD_CANCEL", 0x7200, 0, 1, 8, 0, 2, 5, 0, 0, 1, true, .num 0, 1, 1, 255⟩
/-- 0x7300:01 ATT_NONCE -/
def attNonce : ObjRow := ⟨"ATT_NONCE", 0x7300, 0, 1, 1, 0, 10, 5, 0, 0, 32, true, .blob [], 0, 0, 4294967295⟩
/-- 0x7300:02 ATT_REPORT -/
def attReport : ObjRow := ⟨"ATT_REPORT", 0x7300, 0, 1, 2, 0, 10, 1, 0, 0, 696, true, .blob (List.replicate 696 0), 0, 0, 4294967295⟩
/-- 0x7300:03 ATT_CERT_SEL -/
def attCertSel : ObjRow := ⟨"ATT_CERT_SEL", 0x7300, 0, 1, 3, 0, 2, 2, 0, 0, 1, true, .num 0, 0, 64, 255⟩
/-- 0x7300:04 ATT_CERT -/
def attCert : ObjRow := ⟨"ATT_CERT", 0x7300, 0, 1, 4, 0, 10, 1, 8, 0, 1022, false, .blob (List.replicate 1022 0), 0, 0, 4294967295⟩
/-- 0x7300:05 ATT_REPORTS -/
def attReports : ObjRow := ⟨"ATT_REPORTS", 0x7300, 0, 1, 5, 0, 4, 1, 0, 0, 4, true, .num 0, 0, 4294967295, 4294967295⟩
/-- 0x8000:01 RAW_ENABLE -/
def rawEnable : ObjRow := ⟨"RAW_ENABLE", 0x8000, 16, 48, 1, 0, 1, 2, 0, 5, 1, true, .num 0, 0, 1, 4294967295⟩
/-- 0x8000:02 RAW_PORT -/
def rawPort : ObjRow := ⟨"RAW_PORT", 0x8000, 16, 48, 2, 0, 2, 2, 0, 5, 1, true, .num 0, 0, 3, 255⟩
/-- 0x8000:03 RAW_VC -/
def rawVc : ObjRow := ⟨"RAW_VC", 0x8000, 16, 48, 3, 0, 2, 2, 0, 5, 1, true, .num 4, 0, 15, 255⟩
/-- 0x8000:04 RAW_DT -/
def rawDt : ObjRow := ⟨"RAW_DT", 0x8000, 16, 48, 4, 0, 2, 2, 0, 5, 1, true, .num 44, 0, 255, 255⟩
/-- 0x8000:05 RAW_WIDTH -/
def rawWidth : ObjRow := ⟨"RAW_WIDTH", 0x8000, 16, 48, 5, 0, 3, 2, 0, 5, 2, true, .num 1920, 16, 3840, 65535⟩
/-- 0x8000:06 RAW_HEIGHT -/
def rawHeight : ObjRow := ⟨"RAW_HEIGHT", 0x8000, 16, 48, 6, 0, 3, 2, 0, 5, 2, true, .num 1080, 16, 2160, 65535⟩
/-- 0x8000:07 RAW_FPS_MAX -/
def rawFpsMax : ObjRow := ⟨"RAW_FPS_MAX", 0x8000, 16, 48, 7, 0, 2, 2, 0, 5, 1, true, .num 50, 1, 60, 255⟩
/-- 0x8000:08 SENSOR_PROFILE -/
def sensorProfile : ObjRow := ⟨"SENSOR_PROFILE", 0x8000, 16, 48, 8, 0, 10, 2, 0, 5, 1024, false, .blob [], 0, 0, 4294967295⟩
/-- 0x8000:09 ISP_PIPE -/
def ispPipe : ObjRow := ⟨"ISP_PIPE", 0x8000, 16, 48, 9, 0, 2, 2, 0, 5, 1, true, .num 255, 0, 255, 255⟩
/-- 0x8000:0A FRAME_TIMEOUT -/
def frameTimeout : ObjRow := ⟨"FRAME_TIMEOUT", 0x8000, 16, 48, 10, 0, 3, 2, 0, 5, 2, true, .num 100, 10, 2000, 65535⟩
/-- 0x8000:0B FRAME_SETS -/
def frameSets : ObjRow := ⟨"FRAME_SETS", 0x8000, 16, 48, 11, 0, 2, 2, 0, 5, 1, true, .num 4, 2, 16, 255⟩
/-- 0x8000:0C ISP_PARAMS -/
def ispParams : ObjRow := ⟨"ISP_PARAMS", 0x8000, 16, 48, 12, 0, 10, 2, 9, 5, 4096, true, .blob (List.replicate 4096 0), 0, 0, 4294967295⟩
/-- 0x8001:01 AE_MODE -/
def aeMode : ObjRow := ⟨"AE_MODE", 0x8001, 16, 48, 1, 0, 2, 2, 0, 5, 1, true, .num 0, 0, 1, 255⟩
/-- 0x8001:02 AE_TARGET -/
def aeTarget : ObjRow := ⟨"AE_TARGET", 0x8001, 16, 48, 2, 0, 2, 2, 0, 5, 1, true, .num 118, 16, 240, 255⟩
/-- 0x8001:03 EXPO_REQ -/
def expoReq : ObjRow := ⟨"EXPO_REQ", 0x8001, 16, 48, 3, 0, 5, 5, 0, 5, 8, true, .num 0, 0, 18446744073709551615, 4294967295⟩
/-- 0x8001:04 GEN_COMMITTED -/
def genCommitted : ObjRow := ⟨"GEN_COMMITTED", 0x8001, 16, 48, 4, 0, 4, 1, 0, 5, 4, true, .num 0, 0, 4294967295, 4294967295⟩
/-- 0x8001:05 GEN_FRAME -/
def genFrame : ObjRow := ⟨"GEN_FRAME", 0x8001, 16, 48, 5, 0, 4, 1, 0, 5, 4, true, .num 0, 0, 4294967295, 4294967295⟩
/-- 0x8001:06 SENSOR_RETRY -/
def sensorRetry : ObjRow := ⟨"SENSOR_RETRY", 0x8001, 16, 48, 6, 0, 2, 5, 0, 5, 1, true, .num 0, 1, 1, 255⟩
/-- 0x8001:07 STATS_LAST -/
def statsLast : ObjRow := ⟨"STATS_LAST", 0x8001, 16, 48, 7, 0, 10, 1, 0, 5, 9280, true, .blob (List.replicate 9280 0), 0, 0, 4294967295⟩
/-- 0x8001:08 FRAMES -/
def frames : ObjRow := ⟨"FRAMES", 0x8001, 16, 48, 8, 0, 4, 1, 0, 5, 4, true, .num 0, 0, 4294967295, 4294967295⟩
/-- 0x8001:09 SPILLED -/
def spilled : ObjRow := ⟨"SPILLED", 0x8001, 16, 48, 9, 0, 4, 1, 0, 5, 4, true, .num 0, 0, 4294967295, 4294967295⟩
/-- 0x8001:0A TRUNCATED -/
def truncated : ObjRow := ⟨"TRUNCATED", 0x8001, 16, 48, 10, 0, 4, 1, 0, 5, 4, true, .num 0, 0, 4294967295, 4294967295⟩
/-- 0x8001:0B DROPPED -/
def dropped : ObjRow := ⟨"DROPPED", 0x8001, 16, 48, 11, 0, 4, 1, 0, 5, 4, true, .num 0, 0, 4294967295, 4294967295⟩
/-- 0x8001:0C WARMUP_FRAMES -/
def warmupFrames : ObjRow := ⟨"WARMUP_FRAMES", 0x8001, 16, 48, 12, 0, 4, 1, 0, 5, 4, true, .num 0, 0, 4294967295, 4294967295⟩
/-- 0x8001:0D I2C_FAIL -/
def i2cFail : ObjRow := ⟨"I2C_FAIL", 0x8001, 16, 48, 13, 0, 4, 1, 0, 5, 4, true, .num 0, 0, 4294967295, 4294967295⟩
/-- 0x8001:0E EXPO_SUPERSEDED -/
def expoSuperseded : ObjRow := ⟨"EXPO_SUPERSEDED", 0x8001, 16, 48, 14, 0, 4, 1, 0, 5, 4, true, .num 0, 0, 4294967295, 4294967295⟩
/-- 0x8400:01 CSI_LANES -/
def csiLanes : ObjRow := ⟨"CSI_LANES", 0x8400, 1, 4, 1, 0, 2, 2, 0, 5, 1, true, .num 4, 1, 4, 255⟩
/-- 0x8400:02 CSI_RATE -/
def csiRate : ObjRow := ⟨"CSI_RATE", 0x8400, 1, 4, 2, 0, 3, 2, 0, 5, 2, true, .num 4500, 80, 4500, 65535⟩
/-- 0x8400:03 CSI_BAD_PKT -/
def csiBadPkt : ObjRow := ⟨"CSI_BAD_PKT", 0x8400, 1, 4, 3, 0, 4, 1, 0, 5, 4, true, .num 0, 0, 4294967295, 4294967295⟩
/-- 0x8500:01 FS_ENABLE -/
def fsEnable : ObjRow := ⟨"FS_ENABLE", 0x8500, 1, 8, 1, 0, 1, 2, 0, 5, 1, true, .num 0, 0, 1, 4294967295⟩
/-- 0x8500:02 FS_PERIOD -/
def fsPeriod : ObjRow := ⟨"FS_PERIOD", 0x8500, 1, 8, 2, 0, 4, 2, 0, 5, 4, true, .num 20000000, 16666666, 1000000000, 4294967295⟩
/-- 0x8500:03 FS_PHASE -/
def fsPhase : ObjRow := ⟨"FS_PHASE", 0x8500, 1, 8, 3, 0, 4, 2, 0, 5, 4, true, .num 0, 0, 999999999, 4294967295⟩
/-- 0x8500:04 FS_WIDTH -/
def fsWidth : ObjRow := ⟨"FS_WIDTH", 0x8500, 1, 8, 4, 0, 3, 2, 0, 5, 2, true, .num 100, 1, 1000, 65535⟩
/-- 0x8500:05 FS_POL -/
def fsPol : ObjRow := ⟨"FS_POL", 0x8500, 1, 8, 5, 0, 2, 2, 0, 5, 1, true, .num 0, 0, 1, 255⟩
/-- 0x8500:06 FS_SUPPRESSED -/
def fsSuppressed : ObjRow := ⟨"FS_SUPPRESSED", 0x8500, 1, 8, 6, 0, 4, 1, 0, 5, 4, true, .num 0, 0, 4294967295, 4294967295⟩
/-- 0x9000:01 MEM_RATE -/
def memRate : ObjRow := ⟨"MEM_RATE", 0x9000, 0, 1, 1, 0, 2, 1, 8, 4, 1, true, .num 0, 0, 255, 255⟩
/-- 0x9000:02 CH_IN_SERVICE -/
def chInService : ObjRow := ⟨"CH_IN_SERVICE", 0x9000, 0, 1, 2, 0, 3, 1, 0, 4, 2, true, .num 4095, 0, 65535, 65535⟩
/-- 0x9000:03 PAGES_FREE -/
def pagesFree : ObjRow := ⟨"PAGES_FREE", 0x9000, 0, 1, 3, 0, 4, 1, 8, 4, 4, true, .num 0, 0, 4294967295, 4294967295⟩
/-- 0x9000:04 PAGES_LOST -/
def pagesLost : ObjRow := ⟨"PAGES_LOST", 0x9000, 0, 1, 4, 0, 4, 1, 0, 4, 4, true, .num 0, 0, 4294967295, 4294967295⟩
/-- 0x9000:05 MIG_RATE -/
def migRate : ObjRow := ⟨"MIG_RATE", 0x9000, 0, 1, 5, 0, 3, 2, 0, 4, 2, true, .num 256, 0, 4096, 65535⟩
/-- 0x9000:06 MIG_SKEW -/
def migSkew : ObjRow := ⟨"MIG_SKEW", 0x9000, 0, 1, 6, 0, 7, 2, 0, 4, 4, true, .num 1069547520, 1066192077, 1090519040, 4294967295⟩
/-- 0x9000:07 MIGRATIONS -/
def migrations : ObjRow := ⟨"MIGRATIONS", 0x9000, 0, 1, 7, 0, 5, 1, 0, 4, 8, true, .num 0, 0, 18446744073709551615, 18446744073709551615⟩
/-- 0x9000:08 MIG_ABANDONED -/
def migAbandoned : ObjRow := ⟨"MIG_ABANDONED", 0x9000, 0, 1, 8, 0, 4, 1, 0, 4, 4, true, .num 0, 0, 4294967295, 4294967295⟩
/-- 0x9000:09 PT_INDEX -/
def ptIndex : ObjRow := ⟨"PT_INDEX", 0x9000, 0, 1, 9, 0, 4, 2, 0, 4, 4, true, .num 0, 0, 1048575, 4294967295⟩
/-- 0x9000:0A PT_ENTRY -/
def ptEntry : ObjRow := ⟨"PT_ENTRY", 0x9000, 0, 1, 10, 0, 5, 1, 0, 4, 8, true, .num 0, 0, 18446744073709551615, 18446744073709551615⟩
/-- 0x9000:0B PEER_UDP_LOCAL -/
def peerUdpLocal : ObjRow := ⟨"PEER_UDP_LOCAL", 0x9000, 0, 1, 11, 0, 3, 2, 7, 4, 2, true, .num 40800, 1024, 65535, 65535⟩
/-- 0x9000:0C SCRUB_HOURS -/
def scrubHours : ObjRow := ⟨"SCRUB_HOURS", 0x9000, 0, 1, 12, 0, 2, 2, 0, 4, 1, true, .num 12, 1, 72, 255⟩
/-- 0x9010:01 CH_STATE -/
def chState : ObjRow := ⟨"CH_STATE", 0x9010, 16, 12, 1, 0, 2, 1, 0, 4, 1, true, .num 0, 0, 255, 255⟩
/-- 0x9010:02 CH_BYTES_RD -/
def chBytesRd : ObjRow := ⟨"CH_BYTES_RD", 0x9010, 16, 12, 2, 0, 5, 1, 0, 4, 8, true, .num 0, 0, 18446744073709551615, 18446744073709551615⟩
/-- 0x9010:03 CH_BYTES_WR -/
def chBytesWr : ObjRow := ⟨"CH_BYTES_WR", 0x9010, 16, 12, 3, 0, 5, 1, 0, 4, 8, true, .num 0, 0, 18446744073709551615, 18446744073709551615⟩
/-- 0x9010:04 CH_EDC_RETRY -/
def chEdcRetry : ObjRow := ⟨"CH_EDC_RETRY", 0x9010, 16, 12, 4, 0, 5, 1, 0, 4, 8, true, .num 0, 0, 18446744073709551615, 18446744073709551615⟩
/-- 0x9010:05 CH_RETRAIN -/
def chRetrain : ObjRow := ⟨"CH_RETRAIN", 0x9010, 16, 12, 5, 0, 4, 1, 0, 4, 4, true, .num 0, 0, 4294967295, 4294967295⟩
/-- 0x9010:06 CH_ECC_CORR -/
def chEccCorr : ObjRow := ⟨"CH_ECC_CORR", 0x9010, 16, 12, 6, 0, 4, 1, 0, 4, 4, true, .num 0, 0, 4294967295, 4294967295⟩
/-- 0x9010:07 CH_ECC_UNCORR -/
def chEccUncorr : ObjRow := ⟨"CH_ECC_UNCORR", 0x9010, 16, 12, 7, 0, 4, 1, 0, 4, 4, true, .num 0, 0, 4294967295, 4294967295⟩
/-- 0x9010:08 CH_SORT_PEAK -/
def chSortPeak : ObjRow := ⟨"CH_SORT_PEAK", 0x9010, 16, 12, 8, 0, 3, 1, 0, 4, 2, true, .num 0, 0, 65535, 65535⟩
/-- 0x9010:09 CH_PARKED -/
def chParked : ObjRow := ⟨"CH_PARKED", 0x9010, 16, 12, 9, 0, 5, 1, 0, 4, 8, true, .num 0, 0, 18446744073709551615, 18446744073709551615⟩
/-- 0x9010:0A CH_AGE_OVER -/
def chAgeOver : ObjRow := ⟨"CH_AGE_OVER", 0x9010, 16, 12, 10, 0, 4, 1, 0, 4, 4, true, .num 0, 0, 4294967295, 4294967295⟩
/-- 0x9010:0B CH_PAGES -/
def chPages : ObjRow := ⟨"CH_PAGES", 0x9010, 16, 12, 11, 0, 4, 1, 0, 4, 4, true, .num 0, 0, 4294967295, 4294967295⟩
/-- 0x9010:0C CH_CLEAR -/
def chClear : ObjRow := ⟨"CH_CLEAR", 0x9010, 16, 12, 12, 0, 2, 5, 0, 4, 1, true, .num 0, 1, 1, 255⟩
/-- 0x9100:01 STREAM_AFFINITY -/
def streamAffinity : ObjRow := ⟨"STREAM_AFFINITY", 0x9100, 0, 48, 1, 1, 2, 2, 1, 4, 1, true, .num 255, 0, 255, 255⟩
/-- 0x9200:01 PEER_ENABLE -/
def peerEnable : ObjRow := ⟨"PEER_ENABLE", 0x9200, 1, 32, 1, 0, 1, 2, 0, 4, 1, true, .num 0, 0, 1, 1⟩
/-- 0x9200:02 PEER_PORT -/
def peerPort : ObjRow := ⟨"PEER_PORT", 0x9200, 1, 32, 2, 0, 2, 2, 0, 4, 1, true, .num 0, 0, 1, 255⟩
/-- 0x9200:03 PEER_ADDR -/
def peerAddr : ObjRow := ⟨"PEER_ADDR", 0x9200, 1, 32, 3, 0, 10, 2, 0, 4, 16, true, .blob (List.replicate 16 0), 0, 0, 0⟩
/-- 0x9200:04 PEER_UDP -/
def peerUdp : ObjRow := ⟨"PEER_UDP", 0x9200, 1, 32, 4, 0, 3, 2, 0, 4, 2, true, .num 40800, 0, 65535, 65535⟩
/-- 0x9200:05 PEER_VLAN -/
def peerVlan : ObjRow := ⟨"PEER_VLAN", 0x9200, 1, 32, 5, 0, 3, 2, 0, 4, 2, true, .num 0, 0, 4094, 65535⟩
/-- 0x9200:06 PEER_SEG -/
def peerSeg : ObjRow := ⟨"PEER_SEG", 0x9200, 1, 32, 6, 0, 3, 2, 0, 4, 2, true, .num 1024, 1024, 8192, 65535⟩
/-- 0x9200:07 WIN_BASE -/
def winBase : ObjRow := ⟨"WIN_BASE", 0x9200, 1, 32, 7, 0, 5, 2, 0, 4, 8, true, .num 0, 0, 18446744073709551615, 18446744073709551615⟩
/-- 0x9200:08 WIN_PAGES -/
def winPages : ObjRow := ⟨"WIN_PAGES", 0x9200, 1, 32, 8, 0, 4, 2, 0, 4, 4, true, .num 0, 0, 65536, 4294967295⟩
/-- 0x9200:09 WIN_RIGHTS -/
def winRights : ObjRow := ⟨"WIN_RIGHTS", 0x9200, 1, 32, 9, 0, 2, 2, 0, 4, 1, true, .num 0, 0, 3, 255⟩
/-- 0x9200:0A WIN_FLAG -/
def winFlag : ObjRow := ⟨"WIN_FLAG", 0x9200, 1, 32, 10, 0, 3, 2, 0, 4, 2, true, .num 65535, 0, 65535, 65535⟩
/-- 0x9200:0B PEER_STATE -/
def peerState : ObjRow := ⟨"PEER_STATE", 0x9200, 1, 32, 11, 0, 2, 1, 0, 4, 1, true, .num 0, 0, 255, 255⟩
/-- 0x9200:0C PEER_RETX -/
def peerRetx : ObjRow := ⟨"PEER_RETX", 0x9200, 1, 32, 12, 0, 4, 1, 0, 4, 4, true, .num 0, 0, 4294967295, 4294967295⟩
/-- 0x9200:0D PEER_CRC_FAIL -/
def peerCrcFail : ObjRow := ⟨"PEER_CRC_FAIL", 0x9200, 1, 32, 13, 0, 4, 1, 0, 4, 4, true, .num 0, 0, 4294967295, 4294967295⟩
/-- 0x9200:0E PEER_BYTES -/
def peerBytes : ObjRow := ⟨"PEER_BYTES", 0x9200, 1, 32, 14, 0, 5, 1, 0, 4, 8, true, .num 0, 0, 18446744073709551615, 18446744073709551615⟩
/-- 0xA000:01 LOG_LEVEL -/
def logLevel : ObjRow := ⟨"LOG_LEVEL", 0xA000, 0, 1, 1, 0, 2, 2, 0, 2, 1, true, .num 2, 0, 4, 255⟩
/-- 0xA000:02 TRACE_MASK -/
def traceMask : ObjRow := ⟨"TRACE_MASK", 0xA000, 0, 1, 2, 0, 10, 2, 0, 2, 128, true, .blob (List.replicate 128 0), 0, 0, 4294967295⟩
/-- 0xA000:03 LOG_DROPPED -/
def logDropped : ObjRow := ⟨"LOG_DROPPED", 0xA000, 0, 1, 3, 0, 4, 1, 0, 2, 4, true, .num 0, 0, 4294967295, 4294967295⟩
/-- 0xA000:04 TRACE_DROPPED -/
def traceDropped : ObjRow := ⟨"TRACE_DROPPED", 0xA000, 0, 1, 4, 0, 4, 1, 0, 2, 4, true, .num 0, 0, 4294967295, 4294967295⟩
/-- 0xA000:05 LOG_OVERRUN -/
def logOverrun : ObjRow := ⟨"LOG_OVERRUN", 0xA000, 0, 1, 5, 0, 4, 1, 0, 2, 4, true, .num 0, 0, 4294967295, 4294967295⟩
/-- 0xA000:06 TRACE_OVERRUN -/
def traceOverrun : ObjRow := ⟨"TRACE_OVERRUN", 0xA000, 0, 1, 6, 0, 4, 1, 0, 2, 4, true, .num 0, 0, 4294967295, 4294967295⟩
/-- 0xA000:07 TRACE_OUT -/
def traceOut : ObjRow := ⟨"TRACE_OUT", 0xA000, 0, 1, 7, 0, 1, 2, 0, 2, 1, true, .num 0, 0, 1, 1⟩
/-- 0xA000:08 TRACE_OUT_DROP -/
def traceOutDrop : ObjRow := ⟨"TRACE_OUT_DROP", 0xA000, 0, 1, 8, 0, 4, 1, 0, 2, 4, true, .num 0, 0, 4294967295, 4294967295⟩
/-- 0xA200:01 ARR_ACTIVE -/
def arrActive : ObjRow := ⟨"ARR_ACTIVE", 0xA200, 16, 6, 1, 0, 5, 1, 0, 4, 8, true, .num 0, 0, 18446744073709551615, 18446744073709551615⟩
/-- 0xA200:02 ARR_FROZEN -/
def arrFrozen : ObjRow := ⟨"ARR_FROZEN", 0xA200, 16, 6, 2, 0, 5, 1, 0, 4, 8, true, .num 0, 0, 18446744073709551615, 18446744073709551615⟩
/-- 0xA200:03 FEED_A_STALL -/
def feedAStall : ObjRow := ⟨"FEED_A_STALL", 0xA200, 16, 6, 3, 0, 5, 1, 0, 4, 8, true, .num 0, 0, 18446744073709551615, 18446744073709551615⟩
/-- 0xA200:04 FEED_B_STALL -/
def feedBStall : ObjRow := ⟨"FEED_B_STALL", 0xA200, 16, 6, 4, 0, 5, 1, 0, 4, 8, true, .num 0, 0, 18446744073709551615, 18446744073709551615⟩
/-- 0xA200:05 DRAIN_STALL -/
def drainStall : ObjRow := ⟨"DRAIN_STALL", 0xA200, 16, 6, 5, 0, 5, 1, 0, 4, 8, true, .num 0, 0, 18446744073709551615, 18446744073709551615⟩
/-- 0xA200:06 ARR_VECTORS -/
def arrVectors : ObjRow := ⟨"ARR_VECTORS", 0xA200, 16, 6, 6, 0, 5, 1, 0, 4, 8, true, .num 0, 0, 18446744073709551615, 18446744073709551615⟩
/-- 0xA200:07 ARR_VECTORS_T -/
def arrVectorsT : ObjRow := ⟨"ARR_VECTORS_T", 0xA200, 16, 6, 7, 0, 5, 1, 0, 4, 8, true, .num 0, 0, 18446744073709551615, 18446744073709551615⟩
/-- 0xA200:08 ARR_TILES -/
def arrTiles : ObjRow := ⟨"ARR_TILES", 0xA200, 16, 6, 8, 0, 5, 1, 0, 4, 8, true, .num 0, 0, 18446744073709551615, 18446744073709551615⟩
/-- 0xA200:09 CHECK_ROWS -/
def checkRows : ObjRow := ⟨"CHECK_ROWS", 0xA200, 16, 6, 9, 0, 5, 1, 0, 4, 8, true, .num 0, 0, 18446744073709551615, 18446744073709551615⟩
/-- 0xA200:0A CHECK_FAIL_TILES -/
def checkFailTiles : ObjRow := ⟨"CHECK_FAIL_TILES", 0xA200, 16, 6, 10, 0, 4, 1, 0, 4, 4, true, .num 0, 0, 4294967295, 4294967295⟩
/-- 0xA200:0B CHECK_NONFINITE -/
def checkNonfinite : ObjRow := ⟨"CHECK_NONFINITE", 0xA200, 16, 6, 11, 0, 4, 1, 0, 4, 4, true, .num 0, 0, 4294967295, 4294967295⟩
/-- 0xA200:0C RESIDUE_FAIL -/
def residueFail : ObjRow := ⟨"RESIDUE_FAIL", 0xA200, 16, 6, 12, 0, 4, 1, 0, 4, 4, true, .num 0, 0, 4294967295, 4294967295⟩
/-- 0xA200:0D LAST_MISMATCH -/
def lastMismatch : ObjRow := ⟨"LAST_MISMATCH", 0xA200, 16, 6, 13, 0, 10, 1, 0, 4, 32, true, .blob (List.replicate 32 0), 0, 0, 0⟩
/-- 0xA200:0E ARR_CLEAR -/
def arrClear : ObjRow := ⟨"ARR_CLEAR", 0xA200, 16, 6, 14, 0, 2, 5, 0, 4, 1, true, .num 0, 1, 1, 255⟩
/-- 0xA300:01 TS_COLLIDE -/
def tsCollide : ObjRow := ⟨"TS_COLLIDE", 0xA300, 16, 6, 1, 0, 5, 1, 0, 4, 8, true, .num 0, 0, 18446744073709551615, 18446744073709551615⟩
/-- 0xA300:02 TS_ECC_CORR -/
def tsEccCorr : ObjRow := ⟨"TS_ECC_CORR", 0xA300, 16, 6, 2, 0, 4, 1, 0, 4, 4, true, .num 0, 0, 4294967295, 4294967295⟩
/-- 0xA300:03 TS_ECC_UNCORR -/
def tsEccUncorr : ObjRow := ⟨"TS_ECC_UNCORR", 0xA300, 16, 6, 3, 0, 4, 1, 0, 4, 4, true, .num 0, 0, 4294967295, 4294967295⟩
/-- 0xA300:04 DMA_DESC_IN -/
def dmaDescIn : ObjRow := ⟨"DMA_DESC_IN", 0xA300, 16, 6, 4, 0, 5, 1, 0, 4, 8, true, .num 0, 0, 18446744073709551615, 18446744073709551615⟩
/-- 0xA300:05 DMA_DESC_OUT -/
def dmaDescOut : ObjRow := ⟨"DMA_DESC_OUT", 0xA300, 16, 6, 5, 0, 5, 1, 0, 4, 8, true, .num 0, 0, 18446744073709551615, 18446744073709551615⟩
/-- 0xA300:06 DMA_BYTES_IN -/
def dmaBytesIn : ObjRow := ⟨"DMA_BYTES_IN", 0xA300, 16, 6, 6, 0, 5, 1, 0, 4, 8, true, .num 0, 0, 18446744073709551615, 18446744073709551615⟩
/-- 0xA300:07 DMA_BYTES_OUT -/
def dmaBytesOut : ObjRow := ⟨"DMA_BYTES_OUT", 0xA300, 16, 6, 7, 0, 5, 1, 0, 4, 8, true, .num 0, 0, 18446744073709551615, 18446744073709551615⟩
/-- 0xA300:08 DMA_TAGS_BUSY -/
def dmaTagsBusy : ObjRow := ⟨"DMA_TAGS_BUSY", 0xA300, 16, 6, 8, 0, 3, 1, 0, 4, 2, true, .num 0, 0, 65535, 65535⟩
/-- 0xA300:09 DMA_TAGS_PEAK -/
def dmaTagsPeak : ObjRow := ⟨"DMA_TAGS_PEAK", 0xA300, 16, 6, 9, 0, 3, 1, 0, 4, 2, true, .num 0, 0, 65535, 65535⟩
/-- 0xA300:0A DMA_TAG_FULL -/
def dmaTagFull : ObjRow := ⟨"DMA_TAG_FULL", 0xA300, 16, 6, 10, 0, 5, 1, 0, 4, 8, true, .num 0, 0, 18446744073709551615, 18446744073709551615⟩
/-- 0xA300:0B DMA_HAZARD -/
def dmaHazard : ObjRow := ⟨"DMA_HAZARD", 0xA300, 16, 6, 11, 0, 5, 1, 0, 4, 8, true, .num 0, 0, 18446744073709551615, 18446744073709551615⟩
/-- 0xA300:0C DMA_FAULTS -/
def dmaFaults : ObjRow := ⟨"DMA_FAULTS", 0xA300, 16, 6, 12, 0, 4, 1, 0, 4, 4, true, .num 0, 0, 4294967295, 4294967295⟩
/-- 0xA300:0D BOX_EMPTY -/
def boxEmpty : ObjRow := ⟨"BOX_EMPTY", 0xA300, 16, 6, 13, 0, 5, 1, 0, 4, 8, true, .num 0, 0, 18446744073709551615, 18446744073709551615⟩
/-- 0xA300:0E DMA_LAST_FAULT -/
def dmaLastFault : ObjRow := ⟨"DMA_LAST_FAULT", 0xA300, 16, 6, 14, 0, 10, 1, 0, 4, 32, true, .blob (List.replicate 32 0), 0, 0, 0⟩
/-- 0xA300:0F TS_CLEAR -/
def tsClear : ObjRow := ⟨"TS_CLEAR", 0xA300, 16, 6, 15, 0, 2, 5, 0, 4, 1, true, .num 0, 1, 1, 255⟩
/-- 0xA400:01 BRK_CTRL -/
def brkCtrl : ObjRow := ⟨"BRK_CTRL", 0xA400, 16, 6, 1, 0, 2, 2, 0, 4, 1, true, .num 0, 0, 3, 255⟩
/-- 0xA400:02 BRK_COUNT -/
def brkCount : ObjRow := ⟨"BRK_COUNT", 0xA400, 16, 6, 2, 0, 5, 2, 0, 4, 8, true, .num 0, 0, 18446744073709551615, 18446744073709551615⟩
/-- 0xA400:03 BRK_TAG -/
def brkTag : ObjRow := ⟨"BRK_TAG", 0xA400, 16, 6, 3, 0, 3, 2, 0, 4, 2, true, .num 0, 0, 65535, 65535⟩
/-- 0xA400:04 BRK_MASK -/
def brkMask : ObjRow := ⟨"BRK_MASK", 0xA400, 16, 6, 4, 0, 3, 2, 0, 4, 2, true, .num 65535, 0, 65535, 65535⟩
/-- 0xA400:05 SEQ_STATE -/
def seqState : ObjRow := ⟨"SEQ_STATE", 0xA400, 16, 6, 5, 0, 2, 1, 0, 4, 1, true, .num 0, 0, 255, 255⟩
/-- 0xA400:06 SEQ_HOLD -/
def seqHold : ObjRow := ⟨"SEQ_HOLD", 0xA400, 16, 6, 6, 0, 2, 1, 0, 4, 1, true, .num 0, 0, 255, 255⟩
/-- 0xA400:07 SEQ_ISSUED -/
def seqIssued : ObjRow := ⟨"SEQ_ISSUED", 0xA400, 16, 6, 7, 0, 5, 1, 0, 4, 8, true, .num 0, 0, 18446744073709551615, 18446744073709551615⟩
/-- 0xA400:08 SEQ_PC -/
def seqPc : ObjRow := ⟨"SEQ_PC", 0xA400, 16, 6, 8, 0, 4, 1, 0, 4, 4, true, .num 0, 0, 4294967295, 4294967295⟩
/-- 0xA400:09 SEQ_REGS -/
def seqRegs : ObjRow := ⟨"SEQ_REGS", 0xA400, 16, 6, 9, 0, 10, 1, 0, 4, 68, true, .blob (List.replicate 68 0), 0, 0, 0⟩
/-- 0xA400:0A BRK_HITS -/
def brkHits : ObjRow := ⟨"BRK_HITS", 0xA400, 16, 6, 10, 0, 4, 1, 0, 4, 4, true, .num 0, 0, 4294967295, 4294967295⟩
/-- 0xA400:0B BRK_RESUME -/
def brkResume : ObjRow := ⟨"BRK_RESUME", 0xA400, 16, 6, 11, 0, 2, 5, 0, 4, 1, true, .num 0, 1, 2, 255⟩
/-- 0xA500:01 SLV_TASKS -/
def slvTasks : ObjRow := ⟨"SLV_TASKS", 0xA500, 16, 6, 1, 0, 5, 1, 0, 4, 8, true, .num 0, 0, 18446744073709551615, 18446744073709551615⟩
/-- 0xA500:02 SLV_FAULTS -/
def slvFaults : ObjRow := ⟨"SLV_FAULTS", 0xA500, 16, 6, 2, 0, 4, 1, 0, 4, 4, true, .num 0, 0, 4294967295, 4294967295⟩
/-- 0xA500:03 SLV_DUAL -/
def slvDual : ObjRow := ⟨"SLV_DUAL", 0xA500, 16, 6, 3, 0, 5, 1, 0, 4, 8, true, .num 0, 0, 18446744073709551615, 18446744073709551615⟩
/-- 0xA500:04 SLV_DUAL_FAIL -/
def slvDualFail : ObjRow := ⟨"SLV_DUAL_FAIL", 0xA500, 16, 6, 4, 0, 4, 1, 0, 4, 4, true, .num 0, 0, 4294967295, 4294967295⟩
/-- 0xA500:05 SLV_LS_CORR -/
def slvLsCorr : ObjRow := ⟨"SLV_LS_CORR", 0xA500, 16, 6, 5, 0, 4, 1, 0, 4, 4, true, .num 0, 0, 4294967295, 4294967295⟩
/-- 0xA500:06 SLV_LS_UNCORR -/
def slvLsUncorr : ObjRow := ⟨"SLV_LS_UNCORR", 0xA500, 16, 6, 6, 0, 4, 1, 0, 4, 4, true, .num 0, 0, 4294967295, 4294967295⟩
/-- 0xA500:07 SLV_CACHE_REFETCH -/
def slvCacheRefetch : ObjRow := ⟨"SLV_CACHE_REFETCH", 0xA500, 16, 6, 7, 0, 4, 1, 0, 4, 4, true, .num 0, 0, 4294967295, 4294967295⟩
/-- 0xA500:08 SLV_IC_MISS -/
def slvIcMiss : ObjRow := ⟨"SLV_IC_MISS", 0xA500, 16, 6, 8, 0, 5, 1, 0, 4, 8, true, .num 0, 0, 18446744073709551615, 18446744073709551615⟩
/-- 0xA500:09 SLV_CC_MISS -/
def slvCcMiss : ObjRow := ⟨"SLV_CC_MISS", 0xA500, 16, 6, 9, 0, 5, 1, 0, 4, 8, true, .num 0, 0, 18446744073709551615, 18446744073709551615⟩
/-- 0xA500:0A SLV_MISS_FULL -/
def slvMissFull : ObjRow := ⟨"SLV_MISS_FULL", 0xA500, 16, 6, 10, 0, 5, 1, 0, 4, 8, true, .num 0, 0, 18446744073709551615, 18446744073709551615⟩
/-- 0xA500:0B SLV_LAST_FAULT -/
def slvLastFault : ObjRow := ⟨"SLV_LAST_FAULT", 0xA500, 16, 6, 11, 0, 10, 1, 0, 4, 32, true, .blob (List.replicate 32 0), 0, 0, 0⟩
/-- 0xA500:0C SLV_CLEAR -/
def slvClear : ObjRow := ⟨"SLV_CLEAR", 0xA500, 16, 6, 12, 0, 2, 5, 0, 4, 1, true, .num 0, 1, 1, 255⟩
/-- 0xF000:01 MB_CMD -/
def mbCmd : ObjRow := ⟨"MB_CMD", 0xF000, 0, 1, 1, 0, 2, 5, 0, 2, 1, true, .num 0, 0, 255, 255⟩
/-- 0xF000:02 MB_ARG -/
def mbArg : ObjRow := ⟨"MB_ARG", 0xF000, 0, 1, 2, 0, 10, 2, 0, 2, 64, true, .blob (List.replicate 64 0), 0, 0, 4294967295⟩
/-- 0xF000:03 MB_STATUS -/
def mbStatus : ObjRow := ⟨"MB_STATUS", 0xF000, 0, 1, 3, 0, 3, 1, 0, 2, 2, true, .num 0, 0, 65535, 65535⟩
/-- 0xF000:04 MB_DATA -/
def mbData : ObjRow := ⟨"MB_DATA", 0xF000, 0, 1, 4, 0, 10, 2, 0, 2, 1024, true, .blob (List.replicate 1024 0), 0, 0, 4294967295⟩
/-- 0xF000:05 MB_LEN -/
def mbLen : ObjRow := ⟨"MB_LEN", 0xF000, 0, 1, 5, 0, 3, 1, 0, 2, 2, true, .num 0, 0, 65535, 65535⟩
/-- 0xF000:06 MB_SEQ -/
def mbSeq : ObjRow := ⟨"MB_SEQ", 0xF000, 0, 1, 6, 0, 4, 1, 0, 2, 4, true, .num 0, 0, 4294967295, 4294967295⟩

/-- Every object of the dictionary, in the order of index and subindex (R383, R384). -/
def rows0 : List ObjRow :=
  [vendor, partName, stepping, serial, dictVersion, devMode, slicesObj, sliversPerSlice,
   arrayRows, arrayCols, tileStoreBytes, accBankBytes, pageBytes, backedPages, streamsObj, queuesObj,
   contextsObj, flagsObj, dmaTagsPerSlice, descIndex, descSub, descRecord, persWrites, persIgnored,
   persFail, persCompact, persErase, warmCmd, sliceResetCmd, resetCause, warmResets, startupMs,
   hlT1Role, hlMac, hlIp4, hlIp6, hlVlan, hlUdp, hlRxDiscard, hlSeqDiscard]
def rows1 : List ObjRow :=
  [leasePeriod, orphanPolicy, leaseState, leaseHost, leaseRemain, orphanResume, coalesceUs, coalesceCount,
   evtHeartbeatMs, evtDepth, evtBase, evtHead, evtTail, evtLost, logBase, traceBase,
   gptpDomain, ltState, ltNow, ltOffset, ltSteps, ltStepNs, macsecMode, macsecRxSci,
   macsecReplay, macsecSak, macsecUnprot, macsecIcvFail, sqBase, cqBase, sqHead, sqTail,
   cqHead, dbBad, srcEnable, srcPort, srcAddr, srcUdp, srcVlan, srcPt]
def rows2 : List ObjRow :=
  [srcSsrc, srcCodec, srcProfile, srcLevel, srcWidth, srcHeight, srcFpsMax, srcMbps,
   srcParamsets, srcJitter, srcConceal, srcTimeout, srcSets, srcConvert, srcState, decCore,
   decLast, rtpPkts, rtpLost, rtpDup, rtpLate, rtpDiscard, tsRegress, auIncomplete,
   auConcealed, ssrcChanges, dpMode, dpMac, dpIp4, dpIp6, dpLink, dpRxDiscard,
   encReq, bootEpoch, waitTimeout, replayedItems, qAbortHead, flagState, flagSetCmd, flagClrCmd]
def rows3 : List ObjRow :=
  [epochLast, epochOpen, epochCommit, epochDiscard, epochStaged, reproMode, reproActive, reproChanges,
   decodeWait, decodeBatches, decodeRows, decodeFull, satRatio, driftRatio, statWindow, satEvents,
   driftEvents, statCtx, statLayer, statLast, verifyLast, verifyRejects, qEnable, qDepth,
   qPrio, qState, qLastAccepted, qLastPosted, qInflight, qRefused, qDropped, ctxState,
   ctxDigest, ctxPages, ctxPool, ctxPoolWait, ctxJobs, safeState, diagInterval, frozenK]
def rows4 : List ObjRow :=
  [safeCauses, safeForce, staleMs, streamValid, streamReason, unresolved, suspectResults, recomputes,
   watchdogExpiries, frozenEvents, spMac, spIp, spVlan, spUdpSrc, spDestMac, spDestIp,
   spDestUdp, spLink, spFrames, deadlineMs, sliceState, strikes, transients, goldenPass,
   goldenFail, goldenAgeMs, lapses, powerCap, throttleC, slewLimit, powerState, powerNow,
   tjNow, currentFloor, vrhotClock, energyTotal, energyUnattrib, energyTwilight, throttleEvents, thermEmergencies]
def rows5 : List ObjRow :=
  [powerEmergencies, vrhotAsserts, sensorFailed, sliceMhz, sliceMv, capCeil, thermCeil, govHold,
   droopEvents, sliceEnergy, temp, domainOn, instarFloor, bootSlot, bootAnomaly, slotAStatus,
   slotBStatus, slotASeq, slotBSeq, slotAInstar, slotBInstar, keyState, keyRevoke, runInstar,
   bootsel, fwState, fwVersion, fwInstar, fwSlot, fwRestarts, fwLastCause, fwRestart,
   updStage, updState, updStatus, updSlot, updActivate, actPending, updCommit, updCancel]
def rows6 : List ObjRow :=
  [attNonce, attReport, attCertSel, attCert, attReports, rawEnable, rawPort, rawVc,
   rawDt, rawWidth, rawHeight, rawFpsMax, sensorProfile, ispPipe, frameTimeout, frameSets,
   ispParams, aeMode, aeTarget, expoReq, genCommitted, genFrame, sensorRetry, statsLast,
   frames, spilled, truncated, dropped, warmupFrames, i2cFail, expoSuperseded, csiLanes,
   csiRate, csiBadPkt, fsEnable, fsPeriod, fsPhase, fsWidth, fsPol, fsSuppressed]
def rows7 : List ObjRow :=
  [memRate, chInService, pagesFree, pagesLost, migRate, migSkew, migrations, migAbandoned,
   ptIndex, ptEntry, peerUdpLocal, scrubHours, chState, chBytesRd, chBytesWr, chEdcRetry,
   chRetrain, chEccCorr, chEccUncorr, chSortPeak, chParked, chAgeOver, chPages, chClear,
   streamAffinity, peerEnable, peerPort, peerAddr, peerUdp, peerVlan, peerSeg, winBase,
   winPages, winRights, winFlag, peerState, peerRetx, peerCrcFail, peerBytes, logLevel]
def rows8 : List ObjRow :=
  [traceMask, logDropped, traceDropped, logOverrun, traceOverrun, traceOut, traceOutDrop, arrActive,
   arrFrozen, feedAStall, feedBStall, drainStall, arrVectors, arrVectorsT, arrTiles, checkRows,
   checkFailTiles, checkNonfinite, residueFail, lastMismatch, arrClear, tsCollide, tsEccCorr, tsEccUncorr,
   dmaDescIn, dmaDescOut, dmaBytesIn, dmaBytesOut, dmaTagsBusy, dmaTagsPeak, dmaTagFull, dmaHazard,
   dmaFaults, boxEmpty, dmaLastFault, tsClear, brkCtrl, brkCount, brkTag, brkMask]
def rows9 : List ObjRow :=
  [seqState, seqHold, seqIssued, seqPc, seqRegs, brkHits, brkResume, slvTasks,
   slvFaults, slvDual, slvDualFail, slvLsCorr, slvLsUncorr, slvCacheRefetch, slvIcMiss, slvCcMiss,
   slvMissFull, slvLastFault, slvClear, mbCmd, mbArg, mbStatus, mbData, mbLen,
   mbSeq]
def rows : List ObjRow := rows0 ++ rows1 ++ rows2 ++ rows3 ++ rows4 ++ rows5 ++ rows6 ++ rows7 ++ rows8 ++ rows9

end Sys2Proof.Machine.Obj
end

