-- ==== Sys2Proof/Machine/Ops.lean ====
section
/-! DEFINITION. Operations that every family shares: sparse tables, bytes, checks, objects and counters, time,
device memory through the placement table, the event ring, the safety fault collector. -/

namespace Sys2Proof.Machine

/-! ## Sparse tables: lists with rising keys -/

def tfind {α : Type} : List (Nat × α) → Nat → Option α
  | [], _ => none
  | (k, v) :: r, n => if k = n then some v else tfind r n

def tget {α : Type} (d : α) (m : List (Nat × α)) (n : Nat) : α := (tfind m n).getD d

def tput {α : Type} : List (Nat × α) → Nat → α → List (Nat × α)
  | [], n, v => [(n, v)]
  | (k, w) :: r, n, v =>
    if n < k then (n, v) :: (k, w) :: r else if n = k then (n, v) :: r else (k, w) :: tput r n v

def tdel {α : Type} : List (Nat × α) → Nat → List (Nat × α)
  | [], _ => []
  | (k, w) :: r, n => if k = n then tdel r n else (k, w) :: tdel r n

/-- Insert a number into a rising list without repeats. -/
def ins : List Nat → Nat → List Nat
  | [], n => [n]
  | k :: r, n => if n < k then n :: k :: r else if n = k then k :: r else k :: ins r n

/-- The numbers 0 to n − 1 with p. -/
def upTo (n : Nat) (p : Nat → Bool) : List Nat := (List.range n).filter p

/-- The sum of f over a list. -/
def sumOf {α : Type} (f : α → Nat) (l : List α) : Nat := l.foldl (fun a x => a + f x) 0

/-- The element with the least key, the first on a tie. -/
def minBy {α : Type} (f : α → Nat) : List α → Option α
  | [] => none
  | x :: r => match minBy f r with
    | none => some x
    | some y => if f y < f x then some y else some x

/-! ## Bytes, R2: device memory is little-endian, network frames big-endian -/

def le : Nat → Nat → Bytes
  | 0, _ => []
  | k + 1, n => BitVec.ofNat 8 n :: le k (n / 256)

def ofLe : Bytes → Nat
  | [] => 0
  | b :: r => b.toNat + 256 * ofLe r

def be (k n : Nat) : Bytes := (le k n).reverse
def ofBe (b : Bytes) : Nat := ofLe b.reverse

/-- Bytes o to o + n − 1. -/
def cut (b : Bytes) (o n : Nat) : Bytes := (b.drop o).take n
/-- The little-endian field of n bytes at o. -/
def fld (b : Bytes) (o n : Nat) : Nat := ofLe (cut b o n)
def zeros (n : Nat) : Bytes := List.replicate n 0
/-- b padded with zero bytes to n. -/
def pad (n : Nat) (b : Bytes) : Bytes := b ++ zeros (n - b.length)
/-- b with the bytes v written at o. -/
def patch (b : Bytes) (o : Nat) (v : Bytes) : Bytes := b.take o ++ v ++ b.drop (o + v.length)
/-- Bits msb to lsb of n. -/
def bits (n msb lsb : Nat) : Nat := (n >>> lsb) % 2 ^ (msb + 1 - lsb)
/-- n as a two's complement number of w bits. -/
def signed (w n : Nat) : Int := if n % 2 ^ w < 2 ^ (w - 1) then (n % 2 ^ w : Nat) else ((n % 2 ^ w : Nat) : Int) - 2 ^ w
/-- An integer as w bits. -/
def wrap (w : Nat) (i : Int) : Nat := (i % (2 ^ w : Nat)).toNat

def crcStep : Nat → Nat → Nat
  | 0, c => c
  | k + 1, c => crcStep k (if c % 2 = 1 then (c / 2) ^^^ 0xEDB88320 else c / 2)

/-- The IEEE 802.3 CRC-32. -/
def crc32 (b : Bytes) : Nat :=
  (b.foldl (fun c x => crcStep 8 (c ^^^ x.toNat)) 0xFFFFFFFF) ^^^ 0xFFFFFFFF

/-- The bytes of a bit mask of n bytes whose bit f is p f. -/
def maskBytes (n : Nat) (p : Nat → Bool) : Bytes :=
  (List.range n).map (fun i => BitVec.ofNat 8 (sumOf (fun j => if p (8 * i + j) then 2 ^ j else 0) (List.range 8)))

def maskNat (n : Nat) (p : Nat → Bool) : Nat := sumOf (fun j => if p j then 2 ^ j else 0) (List.range n)

/-! ## Status codes (R490) -/

namespace St
def ok := 0x0000
def notReady := 0x0001
def released := 0x0002
def deferred := 0x0003
def stateConflict := 0x0100
def range := 0x0101
def access := 0x0102
def unknownObject := 0x0103
def leaseHeld := 0x0104
def leaseExpired := 0x0105
def busy := 0x0106
def verifyReject := 0x0200
def pageRights := 0x0201
def resourceOverflow := 0x0202
def waitTimeout := 0x0203
def waitCycle := 0x0204
def aborted := 0x0205
def checkMismatch := 0x0300
def coverageLapse := 0x0301
def inputFrozen := 0x0302
def inputTruncated := 0x0303
def deadlineMissed := 0x0304
def imageInvalid := 0x0400
def keyRevoked := 0x0401
def rollback := 0x0402
def activationDeferred := 0x0403
def activationAbandoned := 0x0404
def unavailable := 0x0500
end St

/-! ## Objects: one accessor pair for every register of the dictionary -/

def State.val (s : State) (r : ObjRow) (k : Nat) : Val := (tfind s.objs (r.key k)).getD r.dflt

def State.num (s : State) (r : ObjRow) (k : Nat := 0) : Nat :=
  match s.val r k with
  | .num n => n
  | .blob _ => 0

def State.blob (s : State) (r : ObjRow) (k : Nat := 0) : Bytes :=
  match s.val r k with
  | .num _ => []
  | .blob b => b

def State.setVal (s : State) (r : ObjRow) (k : Nat) (v : Val) : State := { s with objs := tput s.objs (r.key k) v }
def State.setNum (s : State) (r : ObjRow) (k n : Nat) : State := s.setVal r k (.num n)
def State.setBlob (s : State) (r : ObjRow) (k : Nat) (b : Bytes) : State := s.setVal r k (.blob b)
/-- A register back at its default. -/
def State.clearObj (s : State) (r : ObjRow) (k : Nat) : State := { s with objs := tdel s.objs (r.key k) }
/-- A counter raised by n: it stops at the row's limit. -/
def State.count (s : State) (r : ObjRow) (k : Nat := 0) (n : Nat := 1) : State :=
  s.setNum r k (min r.sat (s.num r k + n))
/-- A peak register. -/
def State.peak (s : State) (r : ObjRow) (k n : Nat) : State := if s.num r k < n then s.setNum r k n else s

/-! ## Times (R353): durations on the monotonic count, records in Lodestar time -/

def ms : Nat := 1000000
def us : Nat := 1000

/-- The correction of Lodestar time in an interval: at most 100 ppm of it (R352). -/
def slewStep (d : Nat) (slew : Int) : Int :=
  let m : Int := (d / 10000 : Nat)
  if slew < -m then -m else if m < slew then m else slew

/-- The monotonic count reaches t, if it has not passed it; Lodestar time moves with it and is slewed. -/
def State.advanceTo (s : State) (t : Nat) : State :=
  if t ≤ s.clk.now then s else
  let d := t - s.clk.now
  let a := slewStep d s.clk.slew
  { s with clk := { s.clk with now := t, lode := (s.clk.lode + d + a : Int).toNat, slew := s.clk.slew - a } }

/-! ## Free values (notes/assumptions/3.md) -/

/-- Draw a value the spec leaves open. -/
def State.draw (s : State) : Nat × State := (Config.freeNat s.freeCtr, { s with freeCtr := s.freeCtr + 1 })

/-! ## Memory cells: rising addresses, a byte that reads zero is not listed -/

def cget : List Host.Cell → Nat → Byte
  | [], _ => 0
  | (k, b) :: r, a => if k = a then b else cget r a

def cput : List Host.Cell → Nat → Byte → List Host.Cell
  | [], a, b => if b = 0 then [] else [(a, b)]
  | (k, c) :: r, a, b =>
    if a < k then (if b = 0 then (k, c) :: r else (a, b) :: (k, c) :: r)
    else if a = k then (if b = 0 then r else (a, b) :: r)
    else (k, c) :: cput r a b

/-- The canonical form of a list of cells. -/
def Memory.wfFrom : Nat → List Host.Cell → Bool
  | _, [] => true
  | n, (k, b) :: r => decide (n ≤ k) && decide (b ≠ 0) && Memory.wfFrom (k + 1) r

def Memory.wf (m : List Host.Cell) : Bool := Memory.wfFrom 0 m

def cputs : List Host.Cell → Nat → Bytes → List Host.Cell
  | m, _, [] => m
  | m, a, b :: r => cputs (cput m a b) (a + 1) r

def cgets (m : List Host.Cell) (a n : Nat) : Bytes := (List.range n).map (fun i => cget m (a + i))

/-- The cells outside addresses a to a + n − 1. -/
def cdrop (m : List Host.Cell) (a n : Nat) : List Host.Cell := m.filter (fun c => c.1 < a || a + n ≤ c.1)

/-! ## Instances -/

def SeqRegs.init : SeqRegs :=
  { lc := Vector.replicate 8 0, ab := Vector.replicate 8 0, cmp := Vector.replicate 4 false, layer := 0 }

def Seq.init : Seq :=
  { mode := .idle, hold := 0, regs := SeqRegs.init, before := SeqRegs.init, tag := 0, pc := 0, issued := 0
    fetched := 0, notBefore := 0, bundle := none, tested := false, stepOne := false, asmFa := none
    asmArr := none, waitFlag := none, flagSeen := false, halted := false }

def Arr.init : Arr :=
  { feed := none, frozen := [], fbCount := 0, active := none, shadow := none, waitLoad := none, waitTiles := [], rows := []
    unjudged := [], invRows := []
    nextTile := 0, failTiles := [], lastLoad := none, lastEnter := none, loadEnd := 0, enterEnd := 0, activeTo := 0, fwdIssue := none
    fwdWait := none, invWait := none, pool := [], xpose := [], stats := [], digests := [], origin := 0 }

def Store.init : Store :=
  { bytes := [], bank := [], bankFrom := none, descs := [], tags := [], nextUid := 0, gone := [], pend := [], slots := [], reads := [], writes := []
    readAt := [] }

def Golden.init : Golden :=
  { due := none, overdue := false, running := false, variant := 0, repeated := false, lastEnd := 0, completed := false
    lapsed := false }

/-- A slice as power-on leaves it; it is off until Chrysalis has mapped it (R8). -/
def Slice.init : Slice :=
  { resetting := none, resetDue := false, off := true, dummy := none, cycle := 0, seq := Seq.init, arr := Arr.init, store := Store.init, alloc := none
    run := none, runs := 0, strikes := [], golden := Golden.init, stopped := none }

def Hart.init : Hart :=
  { x := Vector.replicate 32 0, f := Vector.replicate 32 0, v := Vector.replicate 32 0, pc := 0, vl := 0
    vtype := 0x80000000, vstart := 0, vxrm := 0, vxsat := false, mcycle := 0, minstret := 0, digLayer := 0, timeHi := 0
    wait := .unreleased, task := none, lsLo := 0, lsLen := 0, last := 0, got := [] }

def Cluster.init : Cluster :=
  { direct := false, base := 0, ilines := [], clines := [], misses := [], current := [], cdescs := []
    ls := [] }

def Entry.zero : Entry :=
  { backed := false, sys := false, owner := 0, rd := false, wr := false, hrd := false, hwr := false, mirror := false
    lost := false, channel := 0, slot := 0, seed := 0, mig := 0, heat := 0 }

def Channel.init : Channel :=
  { sorter := [], waiting := [], openRows := [], checks := [], retraining := false, waking := false, retrains := [], uncorr := [], zeroing := []
    used := [] }

def Peer.init : Peer := { xfers := [], done := [], nextXfer := 1, tx := [] }

def Queue.init : Queue :=
  { items := [], jslots := [], accepting := none, halted := false
    blockedSince := none, sqPages := none, cqPages := none }

def Ctx.init : Ctx :=
  { state := .empty, pkg := none, image := none, poolAt := none, allocs := [], bufs := [], byItem := none, zeroing := [], decode := [] }

def Raw.init : Raw :=
  { cur := none, pipe := none, spill := [], gens := [], request := none, writing := none, attempts := 0
    sensorFault := false, initLeft := 0, writeLeft := 0, frozenRun := 0, fnRun := 0, lastDigest := none, lastFn := 0, period := 0, initAt := 0
    failedFs := none
    lastFs := 0, spillAt := none }

def Ingest.init : Ingest :=
  { held := [], ssrc := none, oldSsrc := none, lastPkt := 0, first := 0, released := none, lost := [], maxSeq := none
    au := none, lostSince := 0, lastTs := none, units := [], unitCount := 0, converting := [], concealing := false
    waitIrap := false, stalled := false, fault := false, lastAu := 0, lastAuLode := 0, lastTc := 0, tcRun := 0
    refAt := none }

def Stream.init : Stream :=
  { attach := none, lostFrom := none, sets := none, setsUsed := [], setsDue := false, affinity := none, givenFor := 0, epoch := 0, raw := Raw.init, ing := Ingest.init
    complete := [], trunc := false, lastSof := 0, lastSofMono := 0, lastFrame := 0, frozen := false, reason := 1
    refSof := none, validSof := none, decidedAt := none, undecided := [], clip := none }

def Proc.init : Proc :=
  { restarting := none, start := 0, waitBtp := false, released := false, retry := false, slot := 0, prevSlot := 0, activating := false }

/-- R496: the core rails start at 0.75 V; before the PWP sets clocks a slice runs at the lowest operating point
(notes/assumptions/6.md). -/
def PowerSlice.init : PowerSlice := { mhz := 400, sliver6 := 2000, mv := 750, settling := none, stretched := false, ua := 0 }

/-- The one clock generator of a slice island: the slice clock in MHz, and the sliver clock in the fixed ratio of 6 to 5
(R11). -/
def PowerSlice.clocked (p : PowerSlice) (f : Nat) : PowerSlice := { p with mhz := f, sliver6 := 5 * f }

def StatTotals.zero : StatTotals := { outputs := 0, saturated := 0, nonfinite := 0, sse := 0 }

def State.slice (s : State) (n : Nat) : Slice := tget Slice.init s.slices n
def State.setSlice (s : State) (n : Nat) (x : Slice) : State := { s with slices := tput s.slices n x }
def State.modSlice (s : State) (n : Nat) (f : Slice → Slice) : State := s.setSlice n (f (s.slice n))
def State.modSeq (s : State) (n : Nat) (f : Seq → Seq) : State := s.modSlice n (fun x => { x with seq := f x.seq })
def State.modArr (s : State) (n : Nat) (f : Arr → Arr) : State := s.modSlice n (fun x => { x with arr := f x.arr })
def State.modStore (s : State) (n : Nat) (f : Store → Store) : State :=
  s.modSlice n (fun x => { x with store := f x.store })

def State.hart (s : State) (n : Nat) : Hart := tget Hart.init s.harts n
def State.setHart (s : State) (n : Nat) (x : Hart) : State := { s with harts := tput s.harts n x }
def State.cluster (s : State) (n : Nat) : Cluster := tget Cluster.init s.clusters n
def State.setCluster (s : State) (n : Nat) (x : Cluster) : State := { s with clusters := tput s.clusters n x }

def State.modHart (s : State) (n : Nat) (f : Hart → Hart) : State := s.setHart n (f (s.hart n))
def State.modCluster (s : State) (n : Nat) (f : Cluster → Cluster) : State := s.setCluster n (f (s.cluster n))

def State.queue (s : State) (n : Nat) : Queue := tget Queue.init s.work.queues n
def State.setQueue (s : State) (n : Nat) (x : Queue) : State :=
  { s with work := { s.work with queues := tput s.work.queues n x } }
def State.modQueue (s : State) (n : Nat) (f : Queue → Queue) : State := s.setQueue n (f (s.queue n))

def State.ctx (s : State) (n : Nat) : Ctx := tget Ctx.init s.work.ctxs n
def State.setCtx (s : State) (n : Nat) (x : Ctx) : State :=
  { s with work := { s.work with ctxs := tput s.work.ctxs n x } }
def State.modCtx (s : State) (n : Nat) (f : Ctx → Ctx) : State := s.setCtx n (f (s.ctx n))

def State.stream (s : State) (n : Nat) : Stream := tget Stream.init s.media.streams n
def State.setStream (s : State) (n : Nat) (x : Stream) : State :=
  { s with media := { s.media with streams := tput s.media.streams n x } }
def State.modStream (s : State) (n : Nat) (f : Stream → Stream) : State := s.setStream n (f (s.stream n))
def State.modRaw (s : State) (n : Nat) (f : Raw → Raw) : State := s.modStream n (fun x => { x with raw := f x.raw })
def State.modIng (s : State) (n : Nat) (f : Ingest → Ingest) : State :=
  s.modStream n (fun x => { x with ing := f x.ing })

def State.chan (s : State) (n : Nat) : Channel := tget Channel.init s.mem.chans n
def State.setChan (s : State) (n : Nat) (x : Channel) : State :=
  { s with mem := { s.mem with chans := tput s.mem.chans n x } }
def State.modChan (s : State) (n : Nat) (f : Channel → Channel) : State := s.setChan n (f (s.chan n))

def State.peer (s : State) (n : Nat) : Peer := tget Peer.init s.peers n
def State.setPeer (s : State) (n : Nat) (x : Peer) : State := { s with peers := tput s.peers n x }
def State.modPeer (s : State) (n : Nat) (f : Peer → Peer) : State := s.setPeer n (f (s.peer n))

def State.proc (s : State) (n : Nat) : Proc := tget Proc.init s.fw.procs n
def State.setProc (s : State) (n : Nat) (x : Proc) : State :=
  { s with fw := { s.fw with procs := tput s.fw.procs n x } }
def State.modProc (s : State) (n : Nat) (f : Proc → Proc) : State := s.setProc n (f (s.proc n))

def State.pslice (s : State) (n : Nat) : PowerSlice := tget PowerSlice.init s.power.slices n
def State.modPslice (s : State) (n : Nat) (f : PowerSlice → PowerSlice) : State :=
  { s with power := { s.power with slices := tput s.power.slices n (f (s.pslice n)) } }

/-! ## Firmware processors (R436): 0 BTP, 1 SFP, 2 DXP, 3 PWP, 4 SCP, 5 MDP -/

namespace P
def btp := 0
def sfp := 1
def dxp := 2
def pwp := 3
def scp := 4
def mdp := 5
end P

/-- FW_STATE reads 0: the processor runs. -/
def State.runs (s : State) (p : Nat) : Bool := s.num Obj.fwState p == 0

/-- Slice n takes part in work: not retired, not off, not in a single slice reset or waiting for its own (R10, R14,
R16). -/
def State.inService (s : State) (n : Nat) : Bool :=
  s.num Obj.sliceState n == 0 && !(s.slice n).off && (s.slice n).resetting.isNone && !(s.slice n).resetDue

def State.chInService (s : State) (c : Nat) : Bool := s.num Obj.chState c == 0

/-- The device runs DEGRADED: a slice or a channel is out of service (R10, R220, R483). -/
def State.degraded (s : State) : Bool :=
  (List.range 6).any (fun n => s.num Obj.sliceState n != 0) || (List.range 12).any (fun c => !s.chInService c)

/-! ## Device memory through the placement table (R206 to R212) -/

def pageBytes : Nat := 16384
def pageCount : Nat := 1048576
def slotCount : Nat := 61440

def State.entry (s : State) (n : Nat) : Entry := tget Entry.zero s.mem.table n

/-- An all-zero entry is not listed. -/
def State.setEntry (s : State) (n : Nat) (e : Entry) : State :=
  { s with mem := { s.mem with table := if e = Entry.zero then tdel s.mem.table n else tput s.mem.table n e } }

def phys (chan slot off : Nat) : Nat := (chan * slotCount + slot) * pageBytes + off
def Entry.at (e : Entry) (off : Nat) : Nat := phys e.channel e.slot off

/-- Every copy of page n that a write reaches: the page's slot, its mirror copy (R210), a migration's destination
(R217). -/
def State.places (s : State) (n : Nat) : List (Nat × Nat) :=
  let e := s.entry n
  if !e.backed then [] else
  (e.channel, e.slot) :: (match tfind s.mem.mirrors n with | some p => [p] | none => [])
    ++ ((s.mem.migs.filter (fun m => m.page == n)).map (fun m => (m.chan, m.slot)))

def State.readByte (s : State) (a : Nat) : Byte :=
  let e := s.entry (a / pageBytes)
  if e.backed then cget s.mem.bytes (e.at (a % pageBytes)) else 0

def State.readBytes (s : State) (a n : Nat) : Bytes := (List.range n).map (fun i => s.readByte (a + i))

/-- Bytes read at device address a, with runs of other bytes laid over the memory's (R267). -/
def overlay (l : List (Nat × Bytes)) (a : Nat) (b : Bytes) : Bytes :=
  if l.isEmpty then b else
  b.zipIdx.map (fun x => match l.find? (fun w => decide (w.1 ≤ a + x.2 ∧ a + x.2 < w.1 + w.2.length)) with
    | some w => (w.2[a + x.2 - w.1]?).getD x.1
    | none => x.1)

/-- The weight sets that the run on slice n uses in place of its image's bytes (R267). -/
def State.runWeights (s : State) (n : Nat) : List (Nat × Bytes) :=
  match (s.slice n).run with | some r => r.weights | none => []

/-- Device memory as the job on slice n reads it. -/
def State.readRun (s : State) (n a len : Nat) : Bytes := overlay (s.runWeights n) a (s.readBytes a len)

def State.writeByte (s : State) (a : Nat) (b : Byte) : State :=
  { s with mem := { s.mem with bytes :=
    (s.places (a / pageBytes)).foldl (fun m p => cput m (phys p.1 p.2 (a % pageBytes)) b) s.mem.bytes } }

def State.writeBytes : State → Nat → Bytes → State
  | s, _, [] => s
  | s, a, b :: r => State.writeBytes (s.writeByte a b) (a + 1) r

/-- The pages of a region. -/
def pagesOf (a n : Nat) : List Nat :=
  if n = 0 then [] else (List.range ((a + n - 1) / pageBytes - a / pageBytes + 1)).map (fun i => a / pageBytes + i)

/-- Every page of the region exists, is backed and satisfies p. -/
def State.pagesOk (s : State) (p : Entry → Bool) (a n : Nat) : Bool :=
  (pagesOf a n).all (fun k => decide (k < pageCount) && (s.entry k).backed && p (s.entry k))

/-- The page steps of R107 for context c. -/
def State.ctxRights (s : State) (c : Nat) (write : Bool) (a n : Nat) : Bool :=
  s.pagesOk (fun e => !e.sys && e.owner == c && (if write then e.wr else e.rd)) a n

/-- The physical number of the 64-byte block that holds device address a. -/
def State.blockAt (s : State) (a : Nat) : Nat := (s.entry (a / pageBytes)).at (a % pageBytes) / 64

/-- Some block of the region is uncorrectable in its first copy and has no mirror copy to restore it (R204). -/
def State.regionBad (s : State) (a n : Nat) : Bool :=
  n != 0 && (List.range ((a + n - 1) / 64 - a / 64 + 1)).any (fun i =>
    s.mem.badBlocks.contains (s.blockAt ((a / 64 + i) * 64)) && !(s.entry ((a / 64 + i) * 64 / pageBytes)).mirror)

/-- The block at device address a is uncorrectable in every copy (R204, R243). -/
def State.blockLost (s : State) (a : Nat) : Bool :=
  s.mem.badBlocks.contains (s.blockAt a) &&
    (match tfind s.mem.mirrors (a / pageBytes) with
     | some (d, k) => s.mem.badBlocks.contains (phys d k (a % pageBytes) / 64)
     | none => true)

/-- Free zeroed slots of a channel. -/
def State.freeSlots (s : State) (c : Nat) : Nat := if s.chInService c then slotCount - (s.chan c).used.length else 0

/-- PAGES_FREE. -/
def State.pagesFree (s : State) : Nat := sumOf s.freeSlots (List.range 12)

def lowestFree : Nat → List Nat → Nat
  | n, [] => n
  | n, k :: r => if n < k then n else lowestFree (k + 1) r

/-- The lowest run of n page numbers whose entries are all zero, from c on, past the listed keys (R206). -/
def lowestRun (n : Nat) : Nat → List Nat → Option Nat
  | c, [] => if c + n ≤ pageCount then some c else none
  | c, k :: r => if c + n ≤ k then some c else lowestRun n (max c (k + 1)) r

/-- The next channel after c, in rising order with wrap, that satisfies p. -/
def nextChan (p : Nat → Bool) (c : Nat) : Option Nat :=
  ((List.range 12).map (fun i => (c + 1 + i) % 12)).find? p

def State.takeSlot (s : State) (c : Nat) : Nat × State :=
  let k := lowestFree 0 (s.chan c).used
  (k, s.modChan c (fun x => { x with used := ins x.used k }))

/-- One page of R212: its slot on the next channel, and its mirror copy on another device; none where one of them has
no free slot. -/
def State.placePage (s : State) (n : Nat) (e : Entry) : Option State :=
  match nextChan (fun c => s.freeSlots c != 0) s.mem.lastChan with
  | none => none
  | some c =>
    let (k, s) := s.takeSlot c
    let s := s.setEntry n { e with backed := true, channel := c, slot := k, seed := s.mem.seedCtr % 16 }
    let s := { s with mem := { s.mem with seedCtr := s.mem.seedCtr + 1, lastChan := c } }
    if !e.mirror then some s else
    match nextChan (fun d => s.freeSlots d != 0 && d / 2 != c / 2) c with
    | none => none
    | some d =>
      let (k, s) := s.takeSlot d
      some { s with mem := { s.mem with mirrors := tput s.mem.mirrors n (d, k) } }

def State.placePages (s : State) (e : Entry) : Nat → Nat → Option State
  | _, 0 => some s
  | n, k + 1 => match s.placePage n e with
    | none => none
    | some t => State.placePages t e (n + 1) k

/-- R206 and R212: the first page of the run, and the state with all of it placed; none changes nothing. -/
def State.alloc (s : State) (n : Nat) (e : Entry) : Option (Nat × State) :=
  if s.pagesFree < n * (if e.mirror then 2 else 1) || (e.mirror && decide (4096 < s.mem.mirrors.length + n)) then none
  else match lowestRun n 0 (s.mem.table.map (·.1)) with
    | none => none
    | some p => (s.placePages e p n).map (fun t => (p, t))

def sysEntry (owner : Nat) (hrd hwr mirror : Bool) : Entry :=
  { Entry.zero with sys := true, owner := owner, rd := true, wr := true, hrd := hrd, hwr := hwr, mirror := mirror }

def ctxEntry (c : Nat) (rd wr hrd hwr : Bool) : Entry :=
  { Entry.zero with owner := c, rd := rd, wr := wr, hrd := hrd, hwr := hwr }

/-- A slot that leaves use is zeroed before it returns to the pool (R213); slots of retired channels do not return. -/
def State.retireSlot (s : State) (c k : Nat) : State := s.modChan c (fun x => { x with zeroing := ins x.zeroing k })

/-- A migration of page n is abandoned: its destination slot is freed (R218). -/
def State.abandonMig (s : State) (n : Nat) : State :=
  match s.mem.migs.find? (fun m => m.page == n) with
  | none => s
  | some m =>
    let s := s.retireSlot m.chan m.slot
    let s := { s with mem := { s.mem with migs := s.mem.migs.filter (fun x => x.page != n) } }
    let s := if (s.entry n).backed then s.setEntry n { s.entry n with mig := 0 } else s
    s.count Obj.migAbandoned

/-- R213: freeing a page clears its entry; its slots are zeroed before they return. -/
def State.freePage (s : State) (n : Nat) : State :=
  let s := s.abandonMig n
  let e := s.entry n
  let s := if e.backed then s.retireSlot e.channel e.slot else s
  let s := match tfind s.mem.mirrors n with
    | some (c, k) =>
      let s := s.retireSlot c k
      { s with mem := { s.mem with mirrors := tdel s.mem.mirrors n } }
    | none => s
  let s := s.setEntry n Entry.zero
  { s with mem := { s.mem with admits := tdel s.mem.admits n } }

def State.freePages : State → Nat → Nat → State
  | s, _, 0 => s
  | s, n, k + 1 => State.freePages (s.freePage n) (n + 1) k

def State.freeRun (s : State) : Option (Nat × Nat) → State
  | none => s
  | some (p, k) => s.freePages p k

/-! ## The event ring (R253, R344, R345, R349) -/

/-- A change for the EVENT frames: of queue q, or of the event ring (R349). -/
def State.noteChange (s : State) (q : Option Nat) : State :=
  { s with link := { s.link with
    changed := (match q with | some q => ins s.link.changed q | none => s.link.changed)
    changes := s.link.changes + 1
    timer := (match s.link.timer with | none => some s.clk.now | some t => some t) } }

/-- PHASE of entry n of a ring of the given depth, n counted from 1 (R344). -/
def phase (depth n : Nat) : Nat := 1 - ((n - 1) / depth) % 2

/-- An entry of R253. -/
def eventEntry (time code count source : Nat) (payload : Bytes) (ph : Nat) : Bytes :=
  le 8 time ++ le 2 code ++ le 4 count ++ le 2 source ++ pad 40 payload ++ zeros 7 ++ le 1 ph

/-- Event number EVT_TAIL + 1 is written at its slot. -/
def State.writeEvent (s : State) (time code source : Nat) (payload : Bytes) : State :=
  match s.link.evBase with
  | none => s
  | some (p, _) =>
    let e := s.num Obj.evtTail + 1
    let d := s.link.evDepth
    let s := s.writeBytes (p * pageBytes + 64 * ((e - 1) % d)) (eventEntry time code e source payload (phase d e))
    (s.setNum Obj.evtTail 0 e).noteChange none

def State.evSpace (s : State) : Bool :=
  s.link.evBase.isSome && !s.rst.memHeld && decide (s.num Obj.evtTail + 1 < s.num Obj.evtHead + s.link.evDepth)

/-- Space returned: EVENTS_LOST first if any event was dropped, then the waiting events while they fit (R345). -/
def State.drainEvents : Nat → State → State
  | 0, s => s
  | k + 1, s =>
    if !s.evSpace then s
    else if s.link.evDropped != 0 then
      State.drainEvents k ({ s with link := { s.link with evDropped := 0 } }.writeEvent s.clk.lode 0x0201 0xFFFF
        (le 4 s.link.evDropped))
    else match s.link.evWait with
      | [] => s
      | (t, c, b, src) :: r =>
        State.drainEvents k ({ s with link := { s.link with evWait := r } }.writeEvent t c src b)

/-- An event is posted: written, or waiting on chip, or dropped and counted (R345). -/
def State.postEvent (s : State) (code source : Nat) (payload : Bytes) : State :=
  if s.link.evWait = [] && s.link.evDropped == 0 && s.evSpace then s.writeEvent s.clk.lode code source payload
  else if s.link.evWait.length < 256 then
    { s with link := { s.link with evWait := s.link.evWait ++ [(s.clk.lode, code, payload, source)] } }
  else { s.count Obj.evtLost with link := { s.link with evDropped := s.link.evDropped + 1 } }

/-! ## The safety fault collector (R7, R520) -/

/-- A fault record: SCOPE 0 device, 1 slice, 2 channel, 3 stream, 4 processor. -/
def State.postFault (s : State) (status scope unit : Nat) (detail : Bytes) : State :=
  { s with isl := { s.isl with records := s.isl.records ++
      [{ time := s.clk.lode, status := status, scope := scope, unit := unit, detail := pad 16 detail }] } }

end Sys2Proof.Machine
end

