-- ==== Sys2Proof/Machine/Numerics.lean ====
section
/-! DEFINITION. Number formats: exact values, rounding to nearest with ties to even, fp32 arithmetic, narrow formats
and the SCALE conversion (chapter "Number formats, scaling and quantisation statistics", R62 to R77, R518). -/

namespace Sys2Proof.Machine

/-- A floating format: precision with the hidden bit, exponent of the smallest subnormal, width, pattern of the
largest finite magnitude, canonical NaN, pattern of infinity (Table — Floating formats, R65). -/
structure Fmt where
  p    : Nat
  emin : Int
  w    : Nat
  top  : Nat
  nan  : Nat
  inf  : Option Nat
  deriving DecidableEq, Repr

namespace Fmt
def e4m3 : Fmt := { p := 4, emin := -9, w := 8, top := 0x7E, nan := 0x7F, inf := none }
def e5m2 : Fmt := { p := 3, emin := -16, w := 8, top := 0x7B, nan := 0x7E, inf := some 0x7C }
def bf16 : Fmt := { p := 8, emin := -133, w := 16, top := 0x7F7F, nan := 0x7FC0, inf := some 0x7F80 }
def f32 : Fmt := { p := 24, emin := -149, w := 32, top := 0x7F7FFFFF, nan := 0x7FC00000, inf := some 0x7F800000 }
end Fmt

/-- A floating value: (−1)^neg × m × 2^e when finite. -/
inductive FNum where
  | nan
  | inf (neg : Bool)
  | fin (neg : Bool) (m : Nat) (e : Int)
  deriving DecidableEq, Repr

/-- The value of a pattern. -/
def Fmt.unpack (f : Fmt) (n : Nat) : FNum :=
  let neg := n.testBit (f.w - 1)
  let mag := n % 2 ^ (f.w - 1)
  if f.top < mag then (if f.inf = some mag then .inf neg else .nan)
  else
    let e := mag / 2 ^ (f.p - 1)
    let q := mag % 2 ^ (f.p - 1)
    if e == 0 then .fin neg q f.emin else .fin neg (q + 2 ^ (f.p - 1)) (f.emin + e - 1)

/-- m × 2^(−k) rounded to an integer, ties to even. -/
def rne (m : Nat) (k : Int) : Nat :=
  if k ≤ 0 then m * 2 ^ (-k).toNat
  else
    let d := 2 ^ k.toNat
    let q := m / d
    let r := m % d
    if d < 2 * r || (2 * r == d && q % 2 == 1) then q + 1 else q

/-- Bits of a number. -/
def bitLen (n : Nat) : Nat := if n == 0 then 0 else Nat.log2 n + 1

/-- The magnitude pattern of m × 2^e rounded to the format, with its exponent range unbounded above. -/
def Fmt.roundMag (f : Fmt) (m : Nat) (e : Int) : Nat :=
  if m == 0 then 0 else
  let q : Int := max f.emin (e + bitLen m - f.p)
  (q - f.emin).toNat * 2 ^ (f.p - 1) + rne m (q - e)

def Fmt.withSign (f : Fmt) (neg : Bool) (mag : Nat) : Nat := if neg then mag + 2 ^ (f.w - 1) else mag

/-- Rounding to a format as arithmetic does: a magnitude beyond the largest finite one becomes an infinity. -/
def Fmt.pack (f : Fmt) : FNum → Nat
  | .nan => f.nan
  | .inf neg => f.withSign neg (f.inf.getD f.top)
  | .fin neg m e =>
    let g := f.roundMag m e
    f.withSign neg (if f.top < g then f.inf.getD f.top else g)

/-- Rounding to a narrow format outside SCALE (R518): a magnitude beyond the largest finite one becomes it. -/
def Fmt.narrow (f : Fmt) : FNum → Nat
  | .nan => f.nan
  | .inf neg => f.withSign neg (f.inf.getD f.top)
  | .fin neg m e => f.withSign neg (min f.top (f.roundMag m e))

/-! ## Exact operations -/

def FNum.neg : FNum → FNum
  | .nan => .nan
  | .inf n => .inf !n
  | .fin n m e => .fin (!n) m e

/-- A signed mantissa at exponent q ≤ e. -/
def FNum.scaled (n : Bool) (m : Nat) (e q : Int) : Int :=
  let k : Int := (m * 2 ^ (e - q).toNat : Nat)
  if n then -k else k

/-- Exact sum; an exact zero of operands of different sign is +0. -/
def FNum.add : FNum → FNum → FNum
  | .nan, _ => .nan
  | _, .nan => .nan
  | .inf a, .inf b => if a == b then .inf a else .nan
  | .inf a, .fin _ _ _ => .inf a
  | .fin _ _ _, .inf b => .inf b
  | .fin na ma ea, .fin nb mb eb =>
    let q := min ea eb
    let t := FNum.scaled na ma ea q + FNum.scaled nb mb eb q
    if t == 0 then .fin (na && nb) 0 q else .fin (decide (t < 0)) t.natAbs q

/-- Exact product. -/
def FNum.mul : FNum → FNum → FNum
  | .nan, _ => .nan
  | _, .nan => .nan
  | .inf a, .inf b => .inf (a != b)
  | .inf a, .fin b m _ => if m == 0 then .nan else .inf (a != b)
  | .fin a m _, .inf b => if m == 0 then .nan else .inf (a != b)
  | .fin a ma ea, .fin b mb eb => .fin (a != b) (ma * mb) (ea + eb)

/-- Quotient to 64 bits and a sticky bit, exact for one rounding to at most 60 bits. -/
def FNum.div : FNum → FNum → FNum
  | .nan, _ => .nan
  | _, .nan => .nan
  | .inf _, .inf _ => .nan
  | .inf a, .fin b _ _ => .inf (a != b)
  | .fin a _ _, .inf b => .fin (a != b) 0 0
  | .fin a ma ea, .fin b mb eb =>
    if mb == 0 then (if ma == 0 then .nan else .inf (a != b))
    else
      let n := ma * 2 ^ 96
      .fin (a != b) (2 * (n / mb) + (if n % mb == 0 then 0 else 1)) (ea - eb - 97)

/-- Square root by bits, from bit k down. -/
def sqrtBits (n : Nat) : Nat → Nat → Nat
  | 0, r => r
  | k + 1, r =>
    let c := r + 2 ^ k
    sqrtBits n k (if c * c ≤ n then c else r)

def FNum.sqrt : FNum → FNum
  | .nan => .nan
  | .inf neg => if neg then .nan else .inf false
  | .fin neg m e =>
    if m == 0 then .fin neg 0 e
    else if neg then .nan
    else
      let k : Nat := if e % 2 == 0 then 80 else 81
      let n := m * 2 ^ k
      let r := sqrtBits n 64 0
      .fin false (2 * r + (if r * r == n then 0 else 1)) ((e - k) / 2 - 1)

def FNum.ofInt (i : Int) : FNum := .fin (decide (i < 0)) i.natAbs 0

/-- Order of two values that are not NaN: a < b. -/
def FNum.lt : FNum → FNum → Bool
  | .nan, _ => false
  | _, .nan => false
  | .inf a, .inf b => a && !b
  | .inf a, .fin _ _ _ => a
  | .fin _ _ _, .inf b => !b
  | .fin na ma ea, .fin nb mb eb => decide (FNum.scaled na ma ea (min ea eb) < FNum.scaled nb mb eb (min ea eb))

def FNum.eq : FNum → FNum → Bool
  | .nan, _ => false
  | _, .nan => false
  | .inf a, .inf b => a == b
  | .inf _, .fin _ _ _ => false
  | .fin _ _ _, .inf _ => false
  | .fin na ma ea, .fin nb mb eb => decide (FNum.scaled na ma ea (min ea eb) = FNum.scaled nb mb eb (min ea eb))

def FNum.le (a b : FNum) : Bool := a.lt b || a.eq b
def FNum.isNan : FNum → Bool
  | .nan => true
  | _ => false
def FNum.isFinite : FNum → Bool
  | .fin _ _ _ => true
  | _ => false

/-- Rounding modes of conversions to integers (R174): 0 nearest even, 1 toward zero, 2 down, 3 up, 4 nearest away. -/
def roundInt (mode : Nat) (neg : Bool) (m : Nat) (e : Int) : Int :=
  let k := -e
  let d := 2 ^ k.toNat
  let q := if k ≤ 0 then m * 2 ^ (-k).toNat else m / d
  let r := if k ≤ 0 then 0 else m % d
  let up := match mode with
    | 1 => false
    | 2 => neg && r != 0
    | 3 => !neg && r != 0
    | 4 => decide (d ≤ 2 * r) && r != 0
    | _ => decide (d < 2 * r) || (2 * r == d && r != 0 && q % 2 == 1)
  let v : Int := (if up then q + 1 else q : Nat)
  if neg then -v else v

/-! ## fp32 words -/

def f32 (w : Word) : FNum := Fmt.f32.unpack w.toNat
def toF32 (x : FNum) : Word := BitVec.ofNat 32 (Fmt.f32.pack x)
def fadd (a b : Word) : Word := toF32 ((f32 a).add (f32 b))
def fsub (a b : Word) : Word := toF32 ((f32 a).add (f32 b).neg)
def fmul (a b : Word) : Word := toF32 ((f32 a).mul (f32 b))
def fdiv (a b : Word) : Word := toF32 ((f32 a).div (f32 b))
def fsqrt (a : Word) : Word := toF32 (f32 a).sqrt
/-- a × b + c with one rounding. -/
def fma (a b c : Word) : Word := toF32 (((f32 a).mul (f32 b)).add (f32 c))
def fOfInt (i : Int) : Word := toF32 (FNum.ofInt i)
/-- The larger of two, a NaN only if both are. -/
def fmax (a b : Word) : Word :=
  if (f32 a).isNan then (if (f32 b).isNan then 0x7FC00000 else b)
  else if (f32 b).isNan then a
  else if (f32 a).lt (f32 b) || ((f32 a).eq (f32 b) && a.toNat ≥ 2 ^ 31) then b else a
def fmin (a b : Word) : Word :=
  if (f32 a).isNan then (if (f32 b).isNan then 0x7FC00000 else b)
  else if (f32 b).isNan then a
  else if (f32 b).lt (f32 a) || ((f32 a).eq (f32 b) && b.toNat ≥ 2 ^ 31) then b else a

/-! ## Element types (Table — Element type codes) -/

/-- The format of a floating element type code. -/
def elemFmt : Nat → Option Fmt
  | 3 => some Fmt.e4m3
  | 4 => some Fmt.e5m2
  | 5 => some Fmt.bf16
  | 9 => some Fmt.f32
  | _ => none

/-- Bytes of an element of SCALE's output type. -/
def elemBytes : Nat → Nat
  | 2 => 2
  | 5 => 2
  | 8 => 4
  | 9 => 4
  | _ => 1

/-- A narrow code as an fp32 word: every FP8 and bf16 value is an fp32 value. -/
def widen (code : Nat) (etype : Nat) : Word :=
  match elemFmt etype with
  | some f => toF32 (f.unpack code)
  | none => fOfInt (signed (8 * elemBytes etype) code)

/-- R518: an fp32 word rounded to an element type outside SCALE. -/
def narrowTo (etype : Nat) (w : Word) : Nat :=
  match elemFmt etype with
  | some f => f.narrow (f32 w)
  | none => w.toNat

/-! ## SCALE (R72 to R76) -/

/-- An accumulated total entering SCALE. -/
inductive Acc where
  | int (i : Int)
  | float (w : Word)
  deriving DecidableEq, Repr

def Acc.val : Acc → FNum
  | .int i => FNum.ofInt i
  | .float w => f32 w

/-- What SCALE gives: the code, and its marks. -/
structure Scaled where
  code      : Nat
  saturated : Bool
  nonfinite : Bool
  deriving DecidableEq, Repr

/-- The symmetric limit of an integer output (Table — Saturation limits). -/
def intLimit (etype : Nat) : Nat := if etype == 2 then 32767 else 127

/-- SCALE: the exact product, rounded once to the output type, saturated and marked. -/
def scale (acc : Acc) (eff : Word) (otype : Nat) : Scaled :=
  match elemFmt otype with
  | some f =>
    match acc.val with
    | .nan => { code := f.nan, saturated := false, nonfinite := true }
    | .inf n => { code := f.withSign n f.top, saturated := true, nonfinite := false }
    | .fin n m e => match (FNum.fin n m e).mul (f32 eff) with
      | .fin n m e =>
        let g := f.roundMag m e
        { code := f.withSign n (min f.top g), saturated := decide (f.top < g), nonfinite := false }
      | .inf n => { code := f.withSign n f.top, saturated := true, nonfinite := false }
      | .nan => { code := f.nan, saturated := false, nonfinite := true }
  | none =>
    let l : Int := intLimit otype
    let w := 8 * elemBytes otype
    match acc.val with
    | .nan => { code := 0, saturated := false, nonfinite := true }
    | .inf n => { code := wrap w (if n then -l else l), saturated := true, nonfinite := false }
    | .fin n m e => match (FNum.fin n m e).mul (f32 eff) with
      | .fin n m e =>
        let i := roundInt 0 n m e
        { code := wrap w (max (-l) (min l i)), saturated := decide (l < i) || decide (i < -l), nonfinite := false }
      | .inf n => { code := wrap w (if n then -l else l), saturated := true, nonfinite := false }
      | .nan => { code := 0, saturated := false, nonfinite := true }

/-- d := fp32(acc × effective_scale) − code, in fp32 (R79). -/
def scaleErr (acc : Acc) (eff : Word) (otype code : Nat) : Word :=
  fsub (toF32 (acc.val.mul (f32 eff))) (widen code otype)

/-! ## Statistics totals (R79) -/

def StatTotals.add (a b : StatTotals) : StatTotals :=
  { outputs := a.outputs + b.outputs, saturated := a.saturated + b.saturated
    nonfinite := a.nonfinite + b.nonfinite, sse := fadd a.sse b.sse }

/-- One output seen by STAT. -/
def StatTotals.see (t : StatTotals) (acc : Acc) (eff : Word) (otype : Nat) (o : Scaled) : StatTotals :=
  if o.nonfinite then { t with nonfinite := t.nonfinite + 1 }
  else
    let d := scaleErr acc eff otype o.code
    { t with outputs := t.outputs + 1, saturated := t.saturated + (if o.saturated then 1 else 0)
             sse := fadd t.sse (fmul d d) }

/-! ## The mix function (R278) -/

def mix (z : DWord) : DWord :=
  let z := (z ^^^ (z >>> 32)) * 0xD6E8FEB86659FD93
  let z := (z ^^^ (z >>> 29)) * 0xA5CB92430DF62F37
  z ^^^ (z >>> 32)

def mixG : DWord := 0x9E3779B97F4A7C15

/-- The term of element i with code bits v. -/
def digTerm (i v : DWord) : DWord := mix (i * mixG + v)

end Sys2Proof.Machine
end

