-- ==== Sys2Proof/Machine/Picture.lean ====
section
/-! DEFINITION. The scaled outputs of a picture (R300, R322): which are enabled, their sizes, the bytes they take, and the
inference output's codes. The filters before them are constants of Config. -/

namespace Sys2Proof.Machine

/-- The all-zero BLOB stands for the Zalkai defaults (notes/assumptions/6.md). -/
def zalkai (params : Bytes) : Bool := params.all (fun b => b == 0)

/-- Full: up to the crop window, at most 3840 × 2160; 0 × 0 where it is not enabled. -/
def fullOut (params : Bytes) (w h : Nat) : Nat × Nat :=
  match if zalkai params then some (w, h) else Config.fullSize params w h with
  | some (a, b) => (min a (min w 3840), min b (min h 2160))
  | none => (0, 0)

/-- Inference: from 16 × 16 to 4,095 × 4,095, at most the crop window; 1280 × 736 by default. -/
def inferenceOut (params : Bytes) (w h : Nat) : Nat × Nat :=
  match if zalkai params then some (1280, 736) else Config.inferenceSize params w h with
  | some (a, b) => (max 16 (min a (min w 4095)), max 16 (min b (min h 4095)))
  | none => (0, 0)

/-- Thumbnail: at most 640 × 360. -/
def thumbOut (params : Bytes) (w h : Nat) : Nat × Nat :=
  match if zalkai params then some (640, 360) else Config.thumbSize params w h with
  | some (a, b) => (min a (min w 640), min b (min h 360))
  | none => (0, 0)

/-- Bytes of a full output: the luma plane, then the interleaved chroma plane. -/
def fullBytes (d : Nat × Nat) : Nat := d.1 * d.2 + 2 * ((d.1 + 1) / 2) * ((d.2 + 1) / 2)

/-- Bytes of the outputs that a parameter BLOB enables: full YUV 4:2:0, inference C16, thumbnail RGB. -/
def outputBytes (params : Bytes) (w h : Nat) : Nat :=
  fullBytes (fullOut params w h) + 16 * (inferenceOut params w h).1 * (inferenceOut params w h).2
    + 3 * (thumbOut params w h).1 * (thumbOut params w h).2

/-- The inference code of gamma value v in colour c: saturate(round_half_to_even(a_c × v + b_c)), limited to −127 to +127
(R300). The Zalkai factors are 1.0 and −128.0. -/
def inferenceCode (params : Bytes) (c v : Nat) : Nat :=
  let (a, b) := if zalkai params then ((0x3F800000, 0xC3000000) : Word × Word) else Config.colourFactors params c
  match ((f32 a).mul (FNum.ofInt v)).add (f32 b) with
  | .fin neg m e => (BitVec.ofInt 8 (max (-127) (min 127 (roundInt 0 neg m e)))).toNat
  | .inf neg => if neg then 0x81 else 0x7F
  | .nan => Config.noNumberCode % 256

/-- One pixel of the inference output: R, G and B in channels 0 to 2 of C16, zero in the others (R139, R300). -/
def inferencePixel (params : Bytes) (px : List Nat) : Bytes :=
  (List.range 3).map (fun c => BitVec.ofNat 8 (inferenceCode params c (px.getD c 0))) ++ zeros 13

/-- The outputs of a picture in the order of Table — Scaled outputs; src is what the model holds of its samples. -/
def pictureBytes (params : Bytes) (w h : Nat) (src : List Nat) (fresh : Nat) : Bytes :=
  let i := inferenceOut params w h
  let t := thumbOut params w h
  let full := fullBytes (fullOut params w h)
  let px := Config.gammaPixels params w h src fresh
  pad full ((Config.fullPicture params w h src fresh).take full)
    ++ (List.range (i.1 * i.2)).flatMap (fun k => inferencePixel params ((px.drop (3 * k)).take 3))
    ++ pad (3 * t.1 * t.2) ((Config.thumbPicture params w h src fresh).take (3 * t.1 * t.2))

/-- A 10-bit sample of a Main 10 picture, rounded half to even to 8 bits (R322), where rounding past 255 stays at 255. -/
def roundTen (v : Nat) : Nat := min 255 (rne v 2)

end Sys2Proof.Machine
end

