-- ==== Sys2Proof/Machine/Safe.lean ====
section
/-! DEFINITION. The safety report: stream reasons, device-level causes, the discrete lines and safety frames
(chapter "Safe state, the safety port and diagnostic coverage", R386 to R396). -/

namespace Sys2Proof.Machine

/-- RAW_ENABLE or SRC_ENABLE of stream n. -/
def State.enabled (s : State) (n : Nat) : Bool := s.num Obj.rawEnable n == 1 || s.num Obj.srcEnable n == 1
/-- Enabled and attached (CONFIG_MASK of R394). -/
def State.configured (s : State) (n : Nat) : Bool := s.enabled n && (s.stream n).attach.isSome

/-- REASON of stream n (R388, R390, R396). -/
def State.reasonOf (s : State) (n : Nat) : Nat :=
  if !s.configured n then 1
  else if s.safety.causes != 0 then 0x0A
  else if (s.stream n).reason == 1 then 2 else (s.stream n).reason

/-- STATE of R394: 0 all valid, 1 some invalid, 2 device-level safe state. -/
def State.safeStateNow (s : State) : Nat :=
  if s.safety.causes != 0 then 2
  else if (List.range 48).all (fun n => !s.configured n || s.reasonOf n == 0) then 0 else 1

def State.validMask (s : State) : Nat := maskNat 48 (fun n => s.reasonOf n == 0)
def State.configMask (s : State) : Nat := maskNat 48 s.configured
def State.reasons (s : State) : List Nat := (List.range 48).map s.reasonOf

/-- COVERAGE_LAPSE of a slice in service (R406). -/
def State.lapsed (s : State) (n : Nat) : Bool := s.inService n && (s.slice n).golden.lapsed

/-- DFLAGS of R394. -/
def State.dflags (s : State) : Nat :=
  (if s.degraded then 1 else 0) + (if (List.range 6).any s.lapsed then 2 else 0)
    + (if s.num Obj.ltState == 1 then 0 else 4)

/-- What a CHANGE frame reports (R395). -/
structure SafeView where
  state   : Nat
  dflags  : Nat
  config  : Nat
  reasons : List Nat
  deriving DecidableEq, Repr

def State.safeView (s : State) : SafeView :=
  { state := s.safeStateNow, dflags := s.dflags, config := s.configMask, reasons := s.reasons }

/-- The payload of a safety frame (R394). -/
def State.safetyPayload (s : State) (type stream status sof epoch : Nat) : Bytes :=
  let b := [1, BitVec.ofNat 8 type, BitVec.ofNat 8 s.safeStateNow, BitVec.ofNat 8 s.dflags]
    ++ be 4 s.safety.nextSeq ++ be 8 s.work.bootEpoch ++ be 8 s.clk.lode ++ be 8 s.validMask ++ be 8 s.configMask
    ++ [BitVec.ofNat 8 stream, 0] ++ be 2 status ++ be 8 sof ++ be 4 epoch
    ++ s.reasons.map (BitVec.ofNat 8)
  b ++ be 4 (crc32 b)

/-- SP_DEST_MAC in force is not all zero, and the network block lives. A pending value of an SP_ object waits in
Work.warmPend (R371, R407). -/
def State.safetySends (s : State) : Bool :=
  !s.safety.netDown && decide (s.blob Obj.spDestMac ≠ zeros 6)

/-- An end of the safety port's datagrams: an address and UDP port, on SP_VLAN (R393). -/
def State.spEnd (s : State) (ip udp : ObjRow) : Src :=
  { addr := ofBe (s.blob ip), port := s.num udp, vlan := s.num Obj.spVlan }

/-- A safety frame is built and sent (R393 to R396). -/
def State.sendSafety (s : State) (type stream status sof epoch : Nat) : State :=
  if !s.safetySends then s else
  let b := s.safetyPayload type stream status sof epoch
  { (s.count Obj.spFrames) with safety := { s.safety with
      tx := s.safety.tx ++ [{ type := type, seq := s.safety.nextSeq, bytes := b, source := s.spEnd Obj.spIp Obj.spUdpSrc
                              dest := s.spEnd Obj.spDestIp Obj.spDestUdp, mac := s.blob Obj.spDestMac }]
      nextSeq := (s.safety.nextSeq + 1) % 2 ^ 32, lastSent := s.clk.now } }

/-- The reason a stream keeps while a condition of R388 other than its frames holds: frozen, stalled. -/
def State.standing (s : State) (n : Nat) : Nat :=
  max (if (s.stream n).frozen then 8 else 0)
    (if s.num Obj.srcEnable n == 1 && (s.num Obj.srcState n == 3 || s.num Obj.srcState n == 4) then 9 else 0)

/-- A frame of stream n is decided with the reason code its outcome gives, 0 for a DONE with VALID set and LATE clear
(R386 to R388); a RESULT frame follows for a configured stream (R395). A frame decided by its deadline is not decided
again. -/
def State.decideFrame (s : State) (n sofMono sof epoch status reason : Nat) : State :=
  let x := s.stream n
  if !x.undecided.any (fun u => u.1 == sofMono) then s else
  let r := max reason (s.standing n)
  let older := match x.refSof with | some t => decide (sofMono < t) | none => false
  let x := { x with undecided := x.undecided.filter (fun u => u.1 != sofMono), decidedAt := some s.clk.now }
  let x := if older then x else
    { x with refSof := some sofMono, reason := r
             validSof := if r == 0 then some sofMono else x.validSof }
  let s := s.setStream n x
  if s.configured n && s.runs P.sfp then s.sendSafety 1 n status sof epoch else s

/-- A condition of R388 makes stream n INVALID with a reason; of two at one instant the higher code is reported. -/
def State.invalidate (s : State) (n reason : Nat) : State := s.modStream n (fun x => { x with reason := reason })

/-- The discrete lines follow the causes (R389). -/
def State.driveLines (s : State) : State :=
  { s with pins := { s.pins with safeA := s.safety.causes == 0, safeB := s.safety.causes != 0 } }

/-- A device-level cause becomes active (R390, R391). -/
def State.enterCause (s : State) (bit : Nat) : State :=
  let c := s.safety.causes ||| BitVec.ofNat 8 (2 ^ bit)
  { s with safety := { s.safety with
      causes := c, since := if s.safety.causes == 0 then s.clk.now else s.safety.since } }.driveLines

/-- After the last cause has ended a stream whose last decided frame lies before the safe state reports NO_RESULT
(R392). -/
def State.resetReason (s : State) (n : Nat) : State :=
  s.modStream n (fun x =>
    let before := match x.decidedAt with | some t => decide (t < s.safety.since) | none => true
    { x with reason := if before then max 2 (s.standing n) else x.reason })

/-- A device-level cause ends; with the last one the lines return and each report is set from its conditions (R392). -/
def State.leaveCause (s : State) (bit : Nat) : State :=
  let c := s.safety.causes &&& ~~~ BitVec.ofNat 8 (2 ^ bit)
  let t := { s with safety := { s.safety with causes := c } }.driveLines
  if s.safety.causes != 0 && c == 0 then
    (t.media.streams.map (·.1)).foldl (fun u n => u.resetReason n) t
  else t

/-- What follows any change of the reported state: the SAFE_STATE event (R408) and a CHANGE frame within 1 ms (R395),
unless a frame was already sent in the command. A change of the causes is reported while the SFP does not run too: the
frame generator builds the frame (R395, R396). -/
def settle (old new : State) : State :=
  let n := if old.safeStateNow != new.safeStateNow || old.safety.causes != new.safety.causes then
      new.postEvent 0x0501 0xFFFF [BitVec.ofNat 8 new.safeStateNow, new.safety.causes]
    else new
  if old.safeView ≠ new.safeView ∧ old.safety.nextSeq = new.safety.nextSeq
      ∧ (new.runs P.sfp = true ∨ old.safety.causes ≠ new.safety.causes ∧ new.rst.phase ≠ .powerReset) then
    n.sendSafety 3 0xFF 0 0 0
  else n

/-- The answer of a command that may change the reported state. -/
def done (old new : State) : Host.Outcome State Fault Refusal := .next (settle old new)

end Sys2Proof.Machine
end

