-- ==== Sys2Proof/Machine/WorkOps.lean ====
section
/-! DEFINITION. The work model's shared operations: items of a queue, their completion, result buffers, streams'
attachments and epochs (chapter "Work model", R235 to R269, R519; result buffers R347). -/

namespace Sys2Proof.Machine

/-! ## Items -/

def Item.opcode (i : Item) : Nat := fld i.entry 0 1
def Item.cflags (i : Item) : Nat := fld i.entry 1 1
/-- CONTEXT of the entry: 0xFFFF for a command that names none. -/
def Item.context (i : Item) : Nat := fld i.entry 2 2
def Item.isJob (i : Item) : Bool := i.opcode == 1
def Item.barrier (i : Item) : Bool := i.cflags.testBit 1
def Item.isDone (i : Item) : Bool := i.state == .done || i.state == .posted
/-- The item has neither been dispatched nor begun executing. -/
def Item.undispatched (i : Item) : Bool := i.state == .accepted && !i.executing

def State.item (s : State) (q n : Nat) : Option Item := (s.queue q).items.find? (fun i => i.seq == n)

/-! The journal (R245, R247, R254) -/

def ItemState.code : ItemState → Nat
  | .accepted => 1
  | .dispatched => 2
  | .done => 3
  | .posted => 4

/-- Bytes 0 to 59 of block 0 of an item's journal record. -/
def Item.record (i : Item) (boot q : Nat) : Bytes :=
  le 8 boot ++ le 8 i.seq ++ le 8 i.job ++ le 1 q ++ le 1 i.state.code ++ le 1 (i.slice.getD 0xFF) ++ le 1 i.attempt
    ++ le 4 i.handle ++ le 4 i.epoch ++ le 2 i.status ++ le 2 i.rflags ++ le 8 i.sof ++ le 8 i.doneTime ++ le 4 i.energy

/-- Block 0 with its CRC. -/
def sealed (b : Bytes) : Bytes := b ++ le 4 (crc32 b)

/-- Device address of the journal record of sequence number n of queue q: n uses the queue's slot n mod Q_DEPTH. -/
def State.recordAt (s : State) (q n : Nat) : Option Nat :=
  match s.work.journalAt, (s.queue q).jslots[n % s.num Obj.qDepth q]? with
  | some (p, _), some k => some (p * pageBytes + 128 * k)
  | _, _ => none

/-- One aligned 64-byte write, to every copy of its page. -/
def State.writeBlock (s : State) (a : Nat) (b : Bytes) : State :=
  let t := s.writeBytes a b
  { t with mem := { t.mem with badBlocks := t.mem.badBlocks.filter (fun k =>
      !(s.places (a / pageBytes)).any (fun p => k == phys p.1 p.2 (a % pageBytes) / 64)) } }

/-- Block 0 of a record is written. -/
def State.journal (s : State) (q n : Nat) (b : Bytes) : State :=
  match s.recordAt q n with | some a => s.writeBlock a (sealed b) | none => s

/-- The item of queue q with sequence number n changes; a change of its journal record is written to the journal. -/
def State.modItem (s : State) (q n : Nat) (f : Item → Item) : State :=
  let t := s.modQueue q (fun x => { x with items := x.items.map (fun i => if i.seq == n then f i else i) })
  match s.item q n with
  | none => t
  | some i =>
    let b := (f i).record s.work.bootEpoch q
    if b == i.record s.work.bootEpoch q then t else t.journal q n b

/-- The next item of queue q to dispatch: the first not yet dispatched (R237, R260). -/
def State.nextItem (s : State) (q : Nat) : Option Item := (s.queue q).items.find? Item.undispatched

/-- Every item of queue q before sequence number n is DONE (BARRIER, MARKER). -/
def State.earlierDone (s : State) (q n : Nat) : Bool :=
  (s.queue q).items.all (fun i => decide (n ≤ i.seq) || i.isDone)

/-- Items of queue q short of FREE. -/
def State.qBusy (s : State) (q : Nat) : Bool :=
  !(s.queue q).items.isEmpty || (s.queue q).accepting.isSome

/-- Acceptance runs: not in start-up or a warm reset, before replay has ended, or after a second channel is lost. -/
def State.accepts (s : State) : Bool :=
  s.runs P.scp && s.work.replayDone && !s.work.noAccept && (s.rst.phase == .running || s.rst.phase == .starting)

/-! ## Result buffers (R248, R347) -/

def bufHandle (ctx gen idx : Nat) : Nat := ctx * 2 ^ 24 + gen * 2 ^ 16 + idx
def handleCtx (h : Nat) : Nat := h / 2 ^ 24 % 256
def handleGen (h : Nat) : Nat := h / 2 ^ 16 % 256
def handleIdx (h : Nat) : Nat := h % 2 ^ 16

def Buf.free : Buf := { state := .released, gen := 0, len := 0, readable := 0 }

def State.modBuf (s : State) (h : Nat) (f : Buf → Buf) : State :=
  s.modCtx (handleCtx h) (fun c => { c with bufs := tput c.bufs (handleIdx h) (f (tget Buf.free c.bufs (handleIdx h))) })

/-- The lowest free buffer of the pool, with its next generation. -/
def State.takeBuf (s : State) (ctx : Nat) : Option (Nat × State) :=
  let c := s.ctx ctx
  match (List.range (s.num Obj.ctxPool ctx)).find? (fun i => (tget Buf.free c.bufs i).state == .released) with
  | none => none
  | some i =>
    let g := (tget Buf.free c.bufs i).gen % 255 + 1
    let h := bufHandle ctx g i
    some (h, s.modBuf h (fun _ => { state := .pending, gen := g, len := 0, readable := 0 }))

/-- A PENDING buffer is released unseen (R248). -/
def State.dropBuf (s : State) (h : Nat) : State :=
  if h == 0 then s else s.modBuf h (fun b => if b.state == .pending then { b with state := .released } else b)

/-! ## Wait cycles (R262) -/

/-- Queues as a 64-bit mask. -/
def queueMask (l : List Nat) : Bytes := le 8 (maskNat 64 (fun q => l.contains q))

/-- The halted cycle that holds queue q ends with a cause; its members return to OPEN or BLOCKED (R262). -/
def State.endCycle (s : State) (q cause : Nat) : State :=
  match s.work.cycles.find? (fun c => c.contains q) with
  | none => s
  | some c =>
    let s := { s with work := { s.work with cycles := s.work.cycles.filter (fun d => d != c) } }
    let s := c.foldl (fun s m => s.modQueue m (fun x => { x with halted := false })) s
    s.postEvent 0x0003 0xFFFF (queueMask c ++ le 1 cause)

/-! ## Epochs (R266, R267, R519) -/

/-- EPOCH_COMPLETE is posted once for each epoch that no running stream still has to adopt (R519). -/
def State.completeEpochs (s : State) : State :=
  let due := s.work.epochs.filter (fun e => !e.complete && e.waiting.isEmpty)
  let s := { s with work := { s.work with
    epochs := s.work.epochs.map (fun (e : Epoch) => if e.waiting.isEmpty then { e with complete := true } else e) } }
  due.foldl (fun s e => s.postEvent 0x000B 0xFFFF (le 4 e.num)) s

/-- Stream n no longer counts for epochs it has not adopted (R519). -/
def State.epochForget (s : State) (n : Nat) : State :=
  { s with work := { s.work with
    epochs := s.work.epochs.map (fun (e : Epoch) => { e with waiting := e.waiting.filter (· != n) }) } }.completeEpochs

/-- The streams that run: enabled and attached. -/
def State.runningStreams (s : State) : List Nat := upTo 48 s.configured

/-- A weight set of a context as a change of an epoch: its key lies above every object's. -/
def weightKey (ctx wset : Nat) : Nat := 2 ^ 24 + ctx * 256 + wset

/-- Commit a list of changes as the next epoch at this instant (R266, R267). -/
def State.commitEpoch (s : State) (changes : List (Nat × Val)) : State :=
  let n := s.num Obj.epochLast + 1
  let s := s.setNum Obj.epochLast 0 n
  let s := (changes.filter (fun c => c.1 < 2 ^ 24)).foldl (fun s c => { s with objs := tput s.objs c.1 c.2 }) s
  let e : Epoch := { num := n, time := s.clk.lode, mono := s.clk.now, changes := changes
                     waiting := s.runningStreams, complete := false }
  { s with work := { s.work with epochs := s.work.epochs ++ [e] } }.completeEpochs

/-- The highest epoch committed strictly before a Lodestar time. -/
def State.epochBefore (s : State) (t : Nat) : Nat :=
  s.work.epochs.foldl (fun a e => if e.time < t && decide (a < e.num) then e.num else a) 0

/-- A MER object's value under an epoch: the last change of that epoch or an earlier one (R267). -/
def State.epochVal (s : State) (n key : Nat) (dflt : Val) : Val :=
  s.work.epochs.foldl (fun v e => if decide (e.num ≤ n) then (match tfind e.changes key with | some w => w | none => v) else v) dflt

/-- DEADLINE_MS of stream n under an epoch (R267, R385). -/
def State.deadlineOf (s : State) (n epoch : Nat) : Nat :=
  match s.epochVal epoch (Obj.deadlineMs.key n) Obj.deadlineMs.dflt with
  | .num d => d
  | .blob _ => 0

/-- Stream n adopts epoch e and every change before it (R267). -/
def State.adopt (s : State) (n e : Nat) : State :=
  let s := s.modStream n (fun x => { x with epoch := e })
  { s with work := { s.work with
    epochs := s.work.epochs.map (fun (c : Epoch) =>
      if c.num ≤ e then { c with waiting := c.waiting.filter (· != n) } else c) } }.completeEpochs

/-- At its meridian stream n adopts the highest epoch committed strictly before its start of frame (R23, R267). -/
def State.meridian (s : State) (n sof : Nat) : State := s.adopt n (s.epochBefore sof)

/-! ## Affinity and load (R226, R227, R522) -/

/-- The nominal slice of stream n under a STREAM_AFFINITY: one that names a slice out of service counts as 0xFF (R227). -/
def State.nominalFor (s : State) (n : Nat) : Val → Nat
  | .num a => if a < 6 && s.num Obj.sliceState a == 0 then a else (n / 2) % 6
  | .blob _ => (n / 2) % 6

/-- The nominal slice of stream n under its epoch's STREAM_AFFINITY. -/
def State.nominal (s : State) (n : Nat) : Nat :=
  s.nominalFor n (s.epochVal (s.stream n).epoch (Obj.streamAffinity.key n) (.num 0xFF))

/-- The slice of stream n: what it was given when its nominal slice was out of service, or its nominal slice. -/
def State.affinityOf (s : State) (n : Nat) : Nat := (s.stream n).affinity.getD (s.nominal n)

def State.graphOf (s : State) (c g : Nat) : Option Graph := ((s.ctx c).pkg.map (·.graphs)).bind (·[g]?)

/-- Stream load of a slice in µs of estimated run time per second (R522). -/
def State.streamLoad (s : State) (n : Nat) : Nat :=
  sumOf (fun m =>
    match (s.stream m).attach with
    | none => 0
    | some (_, c, g) =>
      if s.affinityOf m != n then 0 else
      (match s.graphOf c g with | some x => x.perFrameUs | none => 0)
        * (if s.num Obj.rawEnable m == 1 then s.num Obj.rawFpsMax m else s.num Obj.srcFpsMax m)) (List.range 48)

/-- Dispatch load of a slice in ns: the estimate of its job less the time already run; twilight work counts zero (R522). -/
def State.dispatchLoad (s : State) (n : Nat) : Nat :=
  match (s.slice n).run with | none => 0 | some r => if r.twilight then 0 else r.estEnd - s.clk.now

def State.slicesInService (s : State) : List Nat := upTo 6 s.inService

/-- A stream is given the slice in service with the least stream load, the lowest on a tie (R227). -/
def State.moveStream (s : State) (n : Nat) : State :=
  match minBy s.streamLoad s.slicesInService with
  | none => s
  | some m => s.modStream n (fun x => { x with affinity := some m, givenFor := s.nominal n })

/-- The streams of slice n: enabled and attached, with that affinity. Any other stream is given a slice at its meridian
(R226). -/
def State.streamsOf (s : State) (n : Nat) : List Nat := s.runningStreams.filter (fun m => s.affinityOf m == n)

/-- The streams of a slice taken out of service are moved one at a time, lowest number first (R227). -/
def State.moveStreams (s : State) (n : Nat) : State :=
  (s.streamsOf n).foldl (fun s m => s.moveStream m) s

/-- R226 at a meridian: the nominal slice while it is in service, otherwise a slice given by R227's rule, kept until the
nominal slice changes or that slice is lost. -/
def State.settleAffinity (s : State) (n : Nat) : State :=
  if s.inService (s.nominal n) then s.modStream n (fun x => { x with affinity := none })
  else match (s.stream n).affinity with
    | some a => if s.inService a && (s.stream n).givenFor == s.nominal n then s else s.moveStream n
    | none => s.moveStream n

/-! ## Streams' attachment and output sets (R301, R388) -/

/-- The owner of a stream's output sets: the context of their pages. -/
def State.setsOwner (s : State) (p : Nat) : Nat := (s.entry p).owner

/-- No job of context c is dispatched on a slice (R109). -/
def State.ctxStill (s : State) (c : Nat) : Bool :=
  (List.range 6).all (fun n => match (s.slice n).run with | some r => r.ctx != c | none => true)

/-- Every accepted job of stream n is DONE. -/
def State.streamDone (s : State) (n : Nat) : Bool :=
  s.work.queues.all (fun x => x.2.items.all (fun i => i.stream != some n || i.isDone))

/-- Output sets that the journal's items of stream n hold. -/
def State.heldSets (s : State) (n : Nat) : List Nat :=
  s.work.queues.flatMap (fun x => (x.2.items.filter (fun i => i.stream == some n && i.state != .posted)).filterMap (fun i => i.set))

def Val.bytes : Val → Bytes
  | .blob b => b
  | .num _ => []

/-- Values of a MER object that stream n may still meet: the one in force, those committed and not yet in force, the
one staged in an open set (R301). -/
def State.merValues (s : State) (n : Nat) (r : ObjRow) : List Val :=
  let e := (s.stream n).epoch
  s.epochVal e (r.key n) r.dflt ::
    ((s.work.epochs.filter (fun x => decide (e < x.num))).filterMap (fun x => tfind x.changes (r.key n)))
    ++ (match s.work.openSet with | some l => (tfind l (r.key n)).toList | none => [])

/-- The parameter object, image size, record bytes and sets of stream n. -/
structure SetShape where
  params : ObjRow
  width  : Nat
  height : Nat
  record : Nat
  sets   : Nat

def State.setShape (s : State) (n : Nat) (src : Bool) : SetShape :=
  if src then { params := Obj.srcConvert, width := s.num Obj.srcWidth n, height := s.num Obj.srcHeight n, record := 64
                sets := s.num Obj.srcSets n }
  else { params := Obj.ispParams, width := s.num Obj.rawWidth n, height := s.num Obj.rawHeight n, record := 9280
         sets := s.num Obj.frameSets n }

def SetShape.bytes (h : SetShape) (v : Val) : Nat := h.record + outputBytes v.bytes h.width h.height

/-- Pages of one output set of stream n. -/
def State.setPages (s : State) (n : Nat) (src : Bool) : Nat :=
  let h := s.setShape n src
  ((s.merValues n h.params).foldl (fun a v => max a (h.bytes v)) 0 + pageBytes - 1) / pageBytes

/-- Output sets of stream n in the pages of context c, RD and HRD set; none where the pages cannot be allocated. -/
def State.takeSets (s : State) (n c : Nat) (src : Bool) : Option State :=
  let per := s.setPages n src
  let k := (s.setShape n src).sets
  match s.alloc (per * k) (ctxEntry c true false true false) with
  | none => none
  | some (p, t) => some (t.modStream n (fun x => { x with sets := some (p, per, k), setsUsed := [] }))

/-- The output sets of stream n return to the pool. -/
def State.dropSets (s : State) (n : Nat) : State :=
  match (s.stream n).sets with
  | some (p, per, k) => (s.freePages p (per * k)).modStream n (fun x => { x with sets := none, setsUsed := [] })
  | none => s

/-- Output sets that are out of use return to the pool once no item holds one, the stream's accepted jobs are DONE and
no job of their context is dispatched (R109, R301): those of a stream that is no longer attached, and those of an attached
stream whose session asks for sets of another shape, which are then taken anew (R301 with SRC_SETS in place of
FRAME_SETS; notes/assumptions/55.md). -/
def State.reclaimSets (s : State) (n : Nat) : State :=
  let st := s.stream n
  match st.sets with
  | none => s
  | some (p, _, _) =>
    if !(st.attach.isNone || st.setsDue) || !st.setsUsed.isEmpty || !s.streamDone n || !s.ctxStill (s.setsOwner p) then s
    else match st.attach with
      | none => s.dropSets n
      | some (_, c, _) => (((s.dropSets n).takeSets n c true).getD s).modStream n (fun x => { x with setsDue := false })

def State.reclaimAll (s : State) : State := (s.media.streams.map (·.1)).foldl (fun s n => s.reclaimSets n) s

/-- A frame of stream n that is not accepted counts as a drop on the stream's queue, or on the queue it was attached to when
its context was lost (R24, R240; notes/assumptions/58.md). -/
def State.noteDrop (s : State) (n : Nat) : State :=
  match (s.stream n).attach, (s.stream n).lostFrom with
  | some (q, _, _), _ => s.count Obj.qDropped q
  | none, some q => s.count Obj.qDropped q
  | none, none => s

/-- A frame that no longer has an output set. -/
def Frame.unset (f : Frame) : Frame := { f with set := none }
def AccessUnit.unset (u : AccessUnit) : AccessUnit := { u with set := none }

/-- A stream is detached: frames in reception lose their sets, epochs no longer wait for it, and its report says so
(R388). -/
def State.detachStream (s : State) (n : Nat) : State :=
  let s := (s.stream n).complete.foldl (fun s _ => s.noteDrop n) s
  let s := s.modStream n (fun x => { x with
    attach := none, complete := [], reason := 1, setsDue := false, setsUsed := s.heldSets n
    raw := { x.raw with cur := x.raw.cur.map Frame.unset, spill := x.raw.spill.map Frame.unset }
    ing := { x.ing with units := x.ing.units.map AccessUnit.unset, converting := x.ing.converting.map AccessUnit.unset } })
  let s := { s with media := { s.media with
    m2m := s.media.m2m.map (fun (m : Nat × Nat × Frame) => if m.2.1 == n then (m.1, n, m.2.2.unset) else m)
    decoding := s.media.decoding.map (fun (m : Nat × Nat × AccessUnit) => if m.2.1 == n then (m.1, n, m.2.2.unset) else m) } }
  (s.epochForget n).reclaimSets n

/-! ## Completion of an item (R248 to R252) -/

/-- How an item ends. -/
structure Finish where
  status     : Nat
  /-- its run failed a check and no recompute released the result -/
  suspect    : Bool
  recomputed : Bool
  /-- the run reached its end: its buffer is delivered -/
  deliver    : Bool
  detail     : Option Bytes
  /-- cause of WAIT_CYCLE_END if its queue is halted -/
  cycle      : Nat
  deriving DecidableEq, Repr

def Finish.plain (status : Nat) : Finish :=
  { status := status, suspect := false, recomputed := false, deliver := false, detail := none, cycle := 4 }

/-- The reason a stream's frame gives when its job is DONE (Table — Stream reason codes). -/
def doneReason (status rflags : Nat) : Nat :=
  if status == St.inputFrozen then 8
  else if rflags.testBit 2 then 7
  else if rflags.testBit 4 then 6
  else if status != St.ok && status != St.checkMismatch then 5
  else if rflags.testBit 1 then 4
  else if rflags.testBit 0 then 0 else 2

/-- The energy of a run of an item that does not count is kept with the item: the meters tell it, a free value (R431). -/
def State.spendRun (s : State) (q n : Nat) : State :=
  let (v, s) := s.draw
  s.modItem q n (fun i => { i with spent := i.spent + v % 2 ^ 32 })

/-- The item of queue q with sequence number n becomes DONE. -/
def State.finishOne (s : State) (q n : Nat) (fin : Finish) : State :=
  match s.item q n with
  | none => s
  | some i =>
    if i.isDone then s else
    let frozen := match i.stream with | some m => (s.stream m).frozen | none => false
    let status := if fin.status == St.ok && frozen then St.inputFrozen else fin.status
    let late := match i.deadline with | some d => decide (d < s.clk.now) | none => false
    let trunc := i.rflags.testBit 4
    let degr := s.degraded || (match i.slice with | some m => s.lapsed m | none => false)
    let valid := status == St.ok && !fin.suspect && !trunc && s.safety.causes == 0
    let rf := (if valid then 1 else 0) + (if late then 2 else 0) + (if fin.suspect then 4 else 0)
      + (if degr then 8 else 0) + (if trunc then 16 else 0) + (if fin.recomputed then 32 else 0)
      + (if i.replayed then 64 else 0) + (if fin.detail.isSome then 128 else 0)
    let keep := fin.deliver && i.handle != 0
    let s := if keep then
        s.modBuf i.handle (fun b => { b with state := .ready, len := i.bufLen })
      else s.dropBuf i.handle
    let s := s.modItem q n (fun i => { i with
      state := .done, status := status, rflags := rf, doneTime := s.clk.lode, detail := fin.detail, slice := i.slice
      handle := if keep then i.handle else 0, bufLen := if keep then i.bufLen else 0
      digest := if keep || i.opcode == 0x0B then i.digest else 0, waitFrom := none, executing := false })
    -- the energy of runs that do not end at a HALT is the meters' (R431): a free value
    let s := if i.isJob && i.runs != 0 then
        let (v, s) := s.draw
        s.modItem q n (fun i => { i with energy := min 0xFFFFFFFF (i.spent + v % 2 ^ 32) })
      else s
    let s := if i.isJob then s.count Obj.ctxJobs i.context else s
    let s := if fin.suspect then s.count Obj.suspectResults else s
    let s := if i.waitFrom.isSome || i.state == .dispatched then s.endCycle q fin.cycle else s
    match i.stream with
    | none => s
    | some m => s.decideFrame m i.sofMono i.sof i.epoch status (doneReason status rf)

/-- DETACH commands under way whose stream's accepted jobs are DONE: queue and sequence number. -/
def State.detachDue (s : State) : List (Nat × Nat) :=
  s.work.queues.flatMap (fun x => (x.2.items.filter (fun i =>
    i.opcode == 5 && i.executing && s.streamDone (fld i.entry 16 1))).map (fun i => (x.1, i.seq)))

/-- An item becomes DONE, and with it a DETACH that waited for its stream's last job (R242); output sets out of use
are freed. -/
def State.finish (s : State) (q n : Nat) (fin : Finish) : State :=
  let s := s.finishOne q n fin
  (s.detachDue.foldl (fun s x => s.finishOne x.1 x.2 (Finish.plain St.ok)) s).reclaimAll

/-! ## The end of an UNLOAD (R213, R239) -/

/-- The context of an ended LOAD or UNLOAD is EMPTY; the generations of its buffers go on (R248). -/
def State.emptyCtx (s : State) (c : Nat) : State :=
  let s := s.modCtx c (fun x => { Ctx.init with bufs := x.bufs.map (fun b => (b.1, { b.2 with state := .released })) })
  -- the weight sets adopted for the context's package go with it (notes/assumptions/21.md)
  let s := { s with work := { s.work with epochs := s.work.epochs.map (fun (e : Epoch) =>
    { e with changes := e.changes.filter (fun x => decide (x.1 < weightKey c 0 ∨ weightKey c 255 < x.1)) }) } }
  ((s.clearObj Obj.ctxPool c).clearObj Obj.ctxDigest c)

/-- A freed slot is still to be zeroed; a slot of a retired channel never returns. -/
def State.awaits (s : State) (x : Nat × Nat) : Bool := s.chInService x.1 && (s.chan x.1).zeroing.contains x.2

/-- An UNLOAD under way ends when every page it freed has been zeroed: its context is EMPTY. -/
def State.endUnload (s : State) (c : Nat) : State :=
  let x := s.ctx c
  match x.state, x.byItem with
  | .unloading, some (q, n) =>
    if (match s.item q n with | some i => i.executing | none => false) && s.runs P.scp && !x.zeroing.any s.awaits then
      (s.emptyCtx c).finish q n (Finish.plain St.ok)
    else s
  | _, _ => s

def State.endUnloads (s : State) : State := (s.work.ctxs.map (·.1)).foldl (fun s c => s.endUnload c) s

end Sys2Proof.Machine
end

