-- ==== Sys2Proof/Machine/Flags.lean ====
section
/-! DEFINITION. The 1,024 event flags: sets and clears, the waits they end, and the wait-for graph (R258 to R262). -/

namespace Sys2Proof.Machine

/-- FLAG and CONSUME of a FLAG_WAIT, FLAG_SET or FLAG_CLR entry (R242). -/
def Item.flag (i : Item) : Nat := fld i.entry 16 2
def Item.consumes (i : Item) : Bool := (fld i.entry 18 1).testBit 0

def State.flagOn (s : State) (f : Nat) : Bool := s.work.flags.contains f

/-- Threads of slice n: hart numbers. -/
def hartsOf (s : State) (n : Nat) : List Nat := (s.harts.map (·.1)).filter (fun h => h / 1024 == n)

/-- The flags a slice's job waits for: its sequencer's and those of its waiting threads (R180, R261). -/
def State.sliceWaits (s : State) (n : Nat) : List Nat :=
  (match (s.slice n).seq.waitFlag with | some (f, _) => [f] | none => []) ++
    (hartsOf s n).filterMap (fun h => match (s.hart h).wait with | .flag f _ => some f | _ => none)

/-- The flags that the oldest item of queue q that is not DONE waits for (R261). -/
def State.blockedOn (s : State) (q : Nat) : List Nat :=
  match (s.queue q).items.find? (fun i => !i.isDone) with
  | none => []
  | some i =>
    if i.opcode == 0x08 && i.waitFrom.isSome && !i.deferred then [i.flag]
    else match i.state, i.slice with
      | .dispatched, some m => s.sliceWaits m
      | _, _ => []

/-- Each queue's time of becoming blocked (R261). -/
def State.refreshBlocked (s : State) : State :=
  { s with work := { s.work with queues := s.work.queues.map (fun (k, x) =>
      (k, { x with blockedSince := if s.blockedOn k != [] then some (x.blockedSince.getD s.clk.now) else none })) } }

def State.queueNums (s : State) : List Nat := s.work.queues.map (·.1)

/-- Queue b holds, behind its blocked head, an undispatched setter of flag f (R261). -/
def State.hasSetter (s : State) (b f : Nat) : Bool :=
  match (s.queue b).items.find? (fun i => !i.isDone) with
  | none => false
  | some h => (s.queue b).items.any (fun i =>
      decide (h.seq < i.seq) && i.undispatched &&
        ((i.opcode == 0x06 && i.flag == f) ||
         (i.isJob && (match (s.ctx i.context).pkg with | some p => p.flagsSet.contains f | none => false))))

/-- Queues reachable from a list in at most k further edges. -/
def reach (edge : Nat → Nat → Bool) (qs : List Nat) : Nat → List Nat → List Nat
  | 0, l => l
  | k + 1, l => reach edge qs k ((qs.filter (fun b => l.any (fun a => edge a b))).foldl ins l)

/-- The cycles of the wait-for graph: its strongly connected parts with at least one edge (R262). -/
def State.graphCycles (s : State) : List (List Nat) :=
  let qs := s.queueNums.filter (fun q => s.blockedOn q != [])
  let edge := fun a b => (s.blockedOn a).any (fun f => s.hasSetter b f)
  let from' := fun a => reach edge qs 64 (qs.filter (edge a))
  let parts := (qs.filter (fun a => (from' a).contains a)).map (fun a =>
    qs.filter (fun b => (from' a).contains b && (from' b).contains a))
  parts.foldl (fun l c => if l.contains c then l else l ++ [c]) []

/-- One cycle of a build: posted once and its members halted; halted cycles within it end with cause 5 (R262). -/
def State.haltCycle (s : State) (c : List Nat) : State :=
  if s.work.cycles.contains c then s else
  let inner := s.work.cycles.filter (fun d => d.all c.contains)
  let s := inner.foldl (fun s d => match d with | [] => s | q :: _ => s.endCycle q 5) s
  let flags := ((c.flatMap (fun a => (s.blockedOn a).filter (fun f => c.any (fun b => s.hasSetter b f)))).take 16).foldl (fun b f => b ++ le 2 f) []
  let s := s.postEvent 0x0002 0xFFFF (queueMask c ++ flags)
  let s := c.foldl (fun s m => s.modQueue m (fun x => { x with halted := true })) s
  { s with work := { s.work with cycles := s.work.cycles ++ [c] } }

/-- Some queue has been blocked for 50 ms (R261). -/
def State.blockedLong (s : State) : Bool :=
  s.work.queues.any (fun x => match x.2.blockedSince with | some t => decide (t + 50 * ms ≤ s.clk.now) | none => false)

/-- The graph is built while any queue has been blocked for 50 ms or more (R261, R262). -/
def State.buildGraph (s : State) : State :=
  let s := s.refreshBlocked
  if s.blockedLong then s.graphCycles.foldl (fun s c => s.haltCycle c) s else s

/-- FLAG_WAIT commands that wait on f, oldest first, the lowest queue on a tie: (queue, item). -/
def State.flagWaiters (s : State) (f : Nat) : List (Nat × Item) :=
  s.work.queues.flatMap (fun x => (x.2.items.filter (fun i =>
    i.opcode == 0x08 && !i.isDone && i.waitFrom.isSome && !i.deferred && i.flag == f
      && (!i.barrier || s.earlierDone x.1 i.seq))).map (fun i => (x.1, i)))

/-- A FLAG_WAIT command ends seen set. -/
def State.endFlagWait (s : State) (x : Nat × Item) : State :=
  s.finish x.1 x.2.seq { Finish.plain St.ok with cycle := 1 }

/-! Threads of a core (R187, R189) -/

/-- The current thread of the core of hart k. -/
def State.curThread (s : State) (k : Nat) : Nat := tget 0 (s.cluster (k / 64)).current (k / 4 % 16)

def State.setCurrent (s : State) (k : Nat) : State :=
  s.modCluster (k / 64) (fun c => { c with current := tput c.current (k / 4 % 16) (k % 4) })

/-- A thread in this state keeps its core: it runs, or its stall holds the core (R187); in direct mode a core changes
threads on a cache miss (R189). -/
def ThreadWait.holds (direct : Bool) : ThreadWait → Bool
  | .ready => true
  | .window => true
  | .dmaq => true
  | .miss _ => !direct
  | .flag _ _ => false
  | .dma _ => false
  | .exited => false
  | .faulted => false
  | .unreleased => false

/-- Some thread holds the core of hart k. -/
def State.coreHeld (s : State) (k : Nat) : Bool :=
  (s.hart (k / 4 * 4 + s.curThread k)).wait.holds (s.cluster (k / 64)).direct

/-- The core of hart k passes to the next ready thread in round-robin order from it, itself last. -/
def State.passOn (s : State) (k : Nat) : State :=
  match [(k + 1) % 4, (k + 2) % 4, (k + 3) % 4, k % 4].find? (fun t => (s.hart (k / 4 * 4 + t)).wait == .ready) with
  | some t => s.setCurrent (k / 4 * 4 + t)
  | none => s

/-- Harts become ready, each changed by f; a core that was idle passes to the next of them in round-robin order from
its current thread (R187). -/
def State.wakeAll (s : State) (l : List Nat) (f : Hart → Hart) : State :=
  let idle := ((l.filter (fun k => !s.coreHeld k)).map (· / 4)).foldl ins []
  let s := l.foldl (fun s k => s.modHart k (fun h => { f h with wait := .ready })) s
  idle.foldl (fun s c => s.passOn (c * 4 + s.curThread (c * 4))) s

/-- One hart becomes ready. -/
def State.wakeHart (s : State) (k : Nat) (f : Hart → Hart) : State := s.wakeAll [k] f

/-- An instruction of n bytes retires. -/
def Hart.retire (n : Nat) (h : Hart) : Hart :=
  { h with pc := h.pc + BitVec.ofNat 32 n, minstret := h.minstret + 1, got := [] }

/-- The items of a run: its own, and the other rows of a decode batch (R45). -/
def Run.items (r : Run) : List (Nat × Nat) := (r.queue, r.seq) :: r.rows

/-- The queues of the run on slice n begin a step of a wait cycle's end (R261). -/
def State.endRunCycle (s : State) (n c : Nat) : State :=
  match (s.slice n).run with
  | some r => r.items.foldl (fun s i => s.endCycle i.1 c) s
  | none => s

/-- The waits of sequencers and threads on f end: the held bundle has seen the flag, a thread passes its SL.FWAIT. -/
def State.endEngineWaits (s : State) (f : Nat) : State :=
  let s := (s.slices.map (·.1)).foldl (fun s n =>
    match (s.slice n).seq.waitFlag with
    | some (g, _) =>
      if g == f then
        let s := s.modSeq n (fun x => { x with waitFlag := none, flagSeen := true })
        s.endRunCycle n 1
      else s
    | none => s) s
  let l := (s.harts.map (·.1)).filter (fun h => match (s.hart h).wait with | .flag g _ => g == f | _ => false)
  l.foldl (fun s h => s.endRunCycle (h / 1024) 1) (s.wakeAll l (Hart.retire 4))

/-- Flag f is set: every non-consuming wait on it ends, and the consuming FLAG_WAIT that waits longest ends and clears
it in the same cycle (R258, R259). -/
def State.setFlag (s : State) (f : Nat) : State :=
  let ws := s.flagWaiters f
  let s := { s with work := { s.work with flags := ins s.work.flags f } }
  let s := s.endEngineWaits f
  let s := (ws.filter (fun x => !x.2.consumes)).foldl (fun s x => s.endFlagWait x) s
  let s := match minBy (fun x => x.2.waitFrom.getD 0) (ws.filter (fun x => x.2.consumes)) with
    | none => s
    | some x =>
      let s := s.endFlagWait x
      { s with work := { s.work with flags := s.work.flags.filter (· != f) } }
  s.buildGraph

/-- Flag f is cleared; a set in the same cycle leaves it set (R258). -/
def State.clearFlag (s : State) (f : Nat) (setToo : Bool) : State :=
  if setToo then s.setFlag f else { s with work := { s.work with flags := s.work.flags.filter (· != f) } }

/-- The wait limit of an item: TIMEOUT of its entry, or WAIT_TIMEOUT (R260), in ns. -/
def State.itemLimit (s : State) (i : Item) : Nat :=
  (if fld i.entry 4 4 != 0 then fld i.entry 4 4 else s.num Obj.waitTimeout) * ms

/-- The limit of a wait inside a job. -/
def State.jobLimit (s : State) : Nat := s.num Obj.waitTimeout * ms

end Sys2Proof.Machine
end

