-- ==== Sys2Proof/Machine/Faults.lean ====
section
/-! DEFINITION. What failures do: ends of runs, the disagreement policy, strikes and retirement of slices, the slice
reset, the loss of a channel, lost contexts and island faults (R10, R16, R111, R112, R219, R220, R227, R240, R256,
R400, R401, R485, R519 to R522). -/

namespace Sys2Proof.Machine

/-! ## Ends of a run -/

/-- The counters and sequencer objects that a slice reset clears (R41, R113, R131, R197). -/
def sliceRows : List ObjRow :=
  [Obj.arrActive, Obj.arrFrozen, Obj.feedAStall, Obj.feedBStall, Obj.drainStall, Obj.arrVectors, Obj.arrVectorsT,
   Obj.arrTiles, Obj.checkRows, Obj.checkFailTiles, Obj.checkNonfinite, Obj.residueFail, Obj.lastMismatch] ++
  [Obj.tsCollide, Obj.tsEccCorr, Obj.tsEccUncorr, Obj.dmaDescIn, Obj.dmaDescOut, Obj.dmaBytesIn, Obj.dmaBytesOut,
   Obj.dmaTagsPeak, Obj.dmaTagFull, Obj.dmaHazard, Obj.dmaFaults, Obj.boxEmpty, Obj.dmaLastFault] ++
  [Obj.brkCtrl, Obj.brkCount, Obj.brkTag, Obj.brkMask, Obj.brkHits] ++
  [Obj.slvTasks, Obj.slvFaults, Obj.slvDual, Obj.slvDualFail, Obj.slvLsCorr, Obj.slvLsUncorr, Obj.slvCacheRefetch,
   Obj.slvIcMiss, Obj.slvCcMiss, Obj.slvMissFull, Obj.slvLastFault]

def State.clearRows (s : State) (rows : List ObjRow) (k : Nat) : State := rows.foldl (fun s r => s.clearObj r k) s

/-- The threads and tasks of slice n are released. -/
def State.dropTasks (s : State) (n : Nat) : State :=
  { s with tasks := s.tasks.filter (fun t => t.1 / 65536 != n)
           harts := s.harts.map (fun h =>
             if h.1 / 1024 == n && h.2.task.isSome then (h.1, { h.2 with wait := .unreleased, task := none }) else h)
           clusters := s.clusters.map (fun (c : Nat × Cluster) =>
             if c.1 / 16 == n then (c.1, { c.2 with cdescs := [] }) else c) }

/-- The descriptors with requests already sent, which complete after the work is discarded (R111). -/
def Slice.sentOf (x : Slice) : List (Alloc × Desc) :=
  x.store.gone ++ (match x.alloc with
    | none => []
    | some a => (x.store.descs.filter (fun d => x.store.tags.any (fun t => t.uid == d.uid))).map (fun d => (a, d)))

/-- The slice whose run a request belongs to. -/
def reqSlice : ReqSource → Option Nat
  | .slice n => some n
  | .cluster n _ => some n
  | .media => none

/-- A request of a descriptor, which ends with the work it belongs to unless it has been sent. -/
def ReqLink.engine : ReqLink → Bool
  | .dma _ _ _ => true
  | .cdma _ _ _ => true
  | _ => false

/-- The requests of slice n's descriptors that are not admitted leave a channel (R111, R222). -/
def Channel.dropParked (n : Nat) (c : Channel) : Channel :=
  { c with sorter := c.sorter.filter (fun r => r.admitted.isSome || !r.link.engine || reqSlice r.source != some n)
           waiting := c.waiting.filter (fun w => !w.2.engine || reqSlice w.1.source != some n) }

def State.dropParked (s : State) (n : Nat) : State :=
  { s with mem := { s.mem with chans := s.mem.chans.map (fun c => (c.1, c.2.dropParked n)) } }

/-- The job's remaining work on slice n is discarded: queued descriptors, vectors in the grid, rows in the drain,
threads of its tasks; requests already sent keep their tags and complete. The sequencer is left in the given state (R111, R134). -/
def State.discard (s : State) (n : Nat) (mode : SeqMode) : State :=
  ((s.dropTasks n).dropParked n).modSlice n (fun x => { x with
    seq := { x.seq with mode := mode, hold := 0, bundle := none, waitFlag := none, flagSeen := false, asmFa := none, asmArr := none
                        stepOne := false, tested := false, halted := false }
    arr := { Arr.init with nextTile := x.arr.nextTile }
    store := { x.store with descs := [], gone := x.sentOf, pend := [], reads := [], writes := [], readAt := [] }
    alloc := none, run := none })

/-- Statistics and digests flushed by a run that does not count are discarded (R81). -/
def State.dropStats (s : State) (q n : Nat) : State :=
  { s with work := { s.work with
      heldStats := s.work.heldStats.filter (fun h => !(h.queue == q && h.seq == n))
      runSums := s.work.runSums.filter (fun h => !(h.1 == q && h.2.1 == n)) } }

/-- An item's run is lost: it runs again from its start ahead of the undispatched items of its class, or, with its
third run lost, completes UNAVAILABLE; one lost while the SCP restarts carries REPLAYED (R256). -/
def State.loseRun (s : State) (q n : Nat) : State :=
  match s.item q n with
  | none => s
  | some i =>
    if i.isDone then s else
    let s := s.dropStats q n
    if 3 ≤ i.runs then s.finish q n (Finish.plain St.unavailable) else
    let s := (s.dropBuf i.handle).spendRun q n
    let s := s.modItem q n (fun i => { i with
      state := .accepted, attempt := i.attempt + 1, slice := none, handle := 0, ahead := true, executing := true
      segment := 0, left := none, bundles := 0, replayed := i.replayed || !s.runs P.scp })
    s.endCycle q 4

/-- The work in flight of slice n is discarded and re-run (R256). -/
def State.loseSliceWork (s : State) (n : Nat) : State :=
  match (s.slice n).run with
  | none => s.discard n .idle
  | some r => r.items.foldl (fun s i => s.loseRun i.1 i.2) (s.discard n .idle)

/-- The job that runs on slice n ends with a fault (R111, R130, R193, R194): its first failed check or fault decides;
a run that had failed a check completes CHECK_MISMATCH with SUSPECT and no result (R400). -/
def State.endJobFault (s : State) (n status : Nat) (detail : Option Bytes) (mode : SeqMode) (cycle : Nat) : State :=
  match (s.slice n).run with
  | none => s.discard n mode
  | some r =>
    r.items.foldl (fun s i => (s.dropStats i.1 i.2).finish i.1 i.2
      { status := if r.fail.isSome then St.checkMismatch else status, suspect := r.fail.isSome, recomputed := false
        deliver := false, detail := detail, cycle := cycle }) (s.discard n mode)

/-- JOB and CONTEXT of the job on slice n. -/
def State.runJob (s : State) (n : Nat) : Nat × Nat :=
  match (s.slice n).run with | some r => (r.job, r.ctx) | none => (0, 0)

/-- The transfer fault record is written to DMA_LAST_FAULT and counted (R111, R112). SOURCE codes: 1 DMA in, 2 DMA out,
3 Feeder A, 4 Feeder B, 5 drain, 6 accumulator bank, 7 descriptor table, 8 sliver window. -/
def State.transferRec (s : State) (n status source tag desc id detail : Nat) : Bytes × State :=
  let (job, ctx) := s.runJob n
  let rec' := le 8 s.clk.lode ++ le 8 job ++ le 2 ctx ++ le 2 status ++ le 1 n ++ le 1 source ++ le 2 tag ++ le 2 desc
    ++ le 2 id ++ le 4 detail
  (rec', (s.setBlob Obj.dmaLastFault n rec').count Obj.dmaFaults n)

/-- A transfer fault: the record, and the job ends with the fault's status (R111). -/
def State.transferFault (s : State) (n status source tag desc id detail : Nat) : State :=
  let (rec', s) := s.transferRec n status source tag desc id detail
  s.endJobFault n status (some rec') .faulted 4

/-- A transfer fault of an engine access (R110, R112). -/
def State.engineFault (s : State) (n source tag : Nat) (detail : Int) : State :=
  s.transferFault n St.resourceOverflow source tag 0xFFFF 0 (wrap 32 detail)

/-! ## Golden tests and slices out of service -/

def State.modGolden (s : State) (n : Nat) (f : Golden → Golden) : State :=
  s.modSlice n (fun x => { x with golden := f x.golden })

/-- A golden test of slice n becomes overdue (R404). -/
def State.overdue (s : State) (n : Nat) : State :=
  s.modGolden n (fun g => { g with due := some (g.due.getD s.clk.now), overdue := true })

/-- The single slice reset of slice n begins (R485): its work is re-run elsewhere, its counters are cleared, and it
passes a golden test before it returns. -/
def State.beginReset (s : State) (n : Nat) : State :=
  let s := s.loseSliceWork n
  let s := s.clearRows sliceRows n
  let s := s.modSlice n (fun x => { Slice.init with
    resetting := some s.clk.now, off := false, runs := x.runs, strikes := x.strikes
    golden := { x.golden with running := true, due := some s.clk.now, overdue := true, repeated := false } })
  s.moveStreams n

/-- The next slice reset that is due begins once none is in progress (R16, R485). Which of two slices that wait is reset
first is the model's choice, because R16 gives no order: the lowest slice number (notes/assumptions/49.md). -/
def State.nextReset (s : State) : State :=
  if (List.range 6).any (fun n => (s.slice n).resetting.isSome) then s else
  match (List.range 6).find? (fun n => (s.slice n).resetDue && s.num Obj.sliceState n == 0) with
  | none => s
  | some n => (s.modSlice n (fun x => { x with resetDue := false })).beginReset n

/-- A logical slice is taken out of service: it is UNAVAILABLE, its work is re-run elsewhere, its streams move,
SLICE_RETIRED is posted (R10, R227, R256, R401). -/
def State.retireSlice (s : State) (n cause : Nat) : State :=
  if s.num Obj.sliceState n != 0 then s else
  let moved := s.streamsOf n
  let s := s.loseSliceWork n
  let s := s.setNum Obj.sliceState n 1
  let s := s.modSlice n (fun x => { x with resetting := none, resetDue := false, dummy := none, golden := { x.golden with
    running := false, due := none, overdue := false, lapsed := false } })
  let s := moved.foldl (fun s m => s.moveStream m) s
  (s.postEvent 0x0503 0xFFFF (le 1 n ++ le 1 cause)).nextReset

/-- Slice n is charged a strike with a run index; the third whose first lies among the 999 runs before it retires the
slice (R401). -/
def State.strike (s : State) (n idx cause : Nat) : State :=
  let l := ((s.slice n).strikes ++ [idx])
  let l := l.drop (l.length - 3)
  let s := s.modSlice n (fun x => { x with strikes := l })
  match l with
  | [a, _, c] => if c - a ≤ 999 then s.retireSlice n cause else s
  | _ => s

/-- STRIKES: strikes among the slice's last 1,000 runs (R407). -/
def State.strikesNow (s : State) (n : Nat) : Nat :=
  ((s.slice n).strikes.filter (fun i => decide ((s.slice n).runs < i + 1000))).length

/-! ## The disagreement policy (R400) -/

/-- The run-time estimate of an item's job in ns. -/
def State.estimate (s : State) (i : Item) : Nat :=
  match s.graphOf i.context (fld i.entry 28 2) with | some g => g.estUs * us | none => 0

def State.mismatchEvent (s : State) (n : Nat) (stream : Option Nat) (outcome kind job other : Nat) : State :=
  s.postEvent 0x0502 0xFFFF
    (le 1 n ++ le 1 (stream.getD 0xFF) ++ le 1 outcome ++ le 1 kind ++ zeros 4 ++ le 8 job ++ le 1 other)

/-- An item is to be recomputed on a slice, from its start, with a fresh buffer (R400). -/
def State.recomputeItem (s : State) (q n : Nat) (r : Nat × Nat × Nat) : State :=
  match s.item q n with
  | none => s
  | some i =>
    let s := ((s.dropStats q n).dropBuf i.handle).spendRun q n
    let s := s.modItem q n (fun i => { i with
      state := .accepted, attempt := i.attempt + 1, slice := none, handle := 0, ahead := true
      executing := true, recompute := some r, segment := 0, left := none, bundles := 0 })
    s.endCycle q 4

/-- The first failure record of the run on slice n reaches the SCP, which decides at once (R400). -/
def State.failRun (s : State) (n kind : Nat) : State :=
  match (s.slice n).run with
  | none => s
  | some r =>
    if r.fail.isSome then s else
    let mark (s : State) (o : Nat) : State :=
      s.modSlice n (fun x => { x with run := x.run.map (fun r =>
        { r with fail := some { kind := kind, detail := [], outcome := o } }) })
    match r.recompute with
    | some (m, _) =>
      let s := (mark s 3).count Obj.unresolved
      ((s.overdue n).overdue m).mismatchEvent n r.stream 3 kind r.job 0xFF
    | none =>
      match s.item r.queue r.seq with
      | none => s
      | some i =>
        let cands := s.slicesInService.filter (· != n)
        let endOn := fun m => s.clk.now + s.dispatchLoad m + s.estimate i
        match minBy endOn cands with
        | some m =>
          if (match i.deadline with | none => true | some d => decide (endOn m ≤ d)) then
            let s := r.items.foldl (fun s j => s.recomputeItem j.1 j.2 (m, n, r.index)) (s.discard n .idle)
            s.mismatchEvent n r.stream 0 kind r.job m
          else ((mark s 1).overdue n).mismatchEvent n r.stream 1 kind r.job 0xFF
        | none => ((mark s 1).overdue n).mismatchEvent n r.stream 1 kind r.job 0xFF

/-! ## Lost contexts and channels (R219, R220, R240, R256) -/

/-- The slice on which an item runs. -/
def State.sliceOf (s : State) (q n : Nat) : Option Nat :=
  (List.range 6).find? (fun m => match (s.slice m).run with | some r => r.items.contains (q, n) | none => false)

/-- An item leaves the run on slice m: the run is discarded, or goes on with the other rows of its batch. -/
def State.leaveRun (s : State) (m q n : Nat) : State :=
  match (s.slice m).run with
  | none => s.discard m .idle
  | some r => match r.items.filter (fun i => i != (q, n)) with
    | [] => s.discard m .idle
    | (p, k) :: rest => s.modSlice m (fun x => { x with run := some { r with queue := p, seq := k, rows := rest } })

/-- An item ends with a status; it leaves the run on its slice first. -/
def State.abortItem (s : State) (q n status cycle : Nat) : State :=
  let s := match s.sliceOf q n with | some m => s.leaveRun m q n | none => s
  (s.dropStats q n).finish q n { Finish.plain status with cycle := cycle }

/-- Items of context c that are not DONE: queue and sequence number. -/
def State.ctxItems (s : State) (c : Nat) : List (Nat × Nat) :=
  s.work.queues.flatMap (fun x => (x.2.items.filter (fun i => i.context == c && !i.isDone)).map (fun i => (x.1, i.seq)))

/-- Context c enters LOST (R240). -/
def State.loseContext (s : State) (c : Nat) : State :=
  if (s.ctx c).state != .ready then s else
  let s := s.modCtx c (fun x => { x with state := .lost })
  let s := (s.ctxItems c).foldl (fun s i => s.abortItem i.1 i.2 St.unavailable 4) s
  let s := (upTo 48 (fun n => match (s.stream n).attach with | some (_, d, _) => d == c | none => false)).foldl
    (fun s n => (s.modStream n (fun x => { x with lostFrom := x.attach.map (·.1) })).detachStream n) s
  s.postEvent 0x0006 c (le 2 c)

/-- Bytes between the starts of a context's result buffers in its pool: whole pages. -/
def State.bufStride (s : State) (c : Nat) : Nat :=
  match (s.ctx c).pkg with | some p => (p.bufBytes + pageBytes - 1) / pageBytes * pageBytes | none => pageBytes

/-- Device address of pool buffer i of context c. -/
def State.bufAddr (s : State) (c i : Nat) : Nat :=
  match (s.ctx c).poolAt with | some (p, _) => p * pageBytes + i * s.bufStride c | none => 0

def inRun (r : Option (Nat × Nat)) (n : Nat) : Bool :=
  match r with | some (p, k) => decide (p ≤ n ∧ n < p + k) | none => false

/-- READY buffers of context c that hold page n are released, with BUFFER_LOST (R256). -/
def State.loseBuffers (s : State) (c n : Nat) : State :=
  (s.ctx c).bufs.foldl (fun s (i, b) =>
    let a := s.bufAddr c i
    if b.state == .ready && decide (a / pageBytes ≤ n ∧ n < (a + s.bufStride c) / pageBytes) then
      let h := bufHandle c b.gen i
      (s.modBuf h (fun b => { b with state := .released })).postEvent 0x0007 c (le 4 h)
    else s) s

/-- What the loss of page n of a context does: image pages lose the context, buffers are lost, items whose input
lay there complete UNAVAILABLE, running jobs of the owner run again (R256). -/
def State.loseCtxPage (s : State) (c n : Nat) : State :=
  let x := s.ctx c
  if inRun x.image n then s.loseContext c else
  let s := s.loseBuffers c n
  let input := (s.ctxItems c).filter (fun i => match s.item i.1 i.2 with
    | some it => it.isJob && (pagesOf (fld it.entry 16 8) (fld it.entry 24 4)).contains n
    | none => false)
  let s := input.foldl (fun s i => s.abortItem i.1 i.2 St.unavailable 4) s
  if !(x.allocs.any (fun a => inRun (some a) n) || inRun x.poolAt n) then s else
  let s := (List.range 6).foldl (fun s m => match (s.slice m).run with
    | some r => if r.ctx == c then s.loseSliceWork m else s
    | none => s) s
  -- a best-effort job between its segments has its intermediate data in the context's pages too
  ((s.ctxItems c).filter (fun i => match s.item i.1 i.2 with
    | some it => it.state == .dispatched && it.slice.isNone
    | none => false)).foldl (fun s i => s.loseRun i.1 i.2) s

/-- A page loses the copy on a retired channel: a mirrored page continues on its other copy, any other is LOST
(R220). -/
def State.losePage (s : State) (c n : Nat) : State :=
  let e := s.entry n
  match tfind s.mem.mirrors n with
  | some (d, k) =>
    let s := { s with mem := { s.mem with
      mirrors := tdel s.mem.mirrors n, remirror := s.mem.remirror ++ [(n, s.clk.now)] } }
    if e.backed && e.channel == c then s.setEntry n { e with channel := d, slot := k } else s
  | none =>
    if !(e.backed && e.channel == c) then s else
    let s := match s.mem.migs.find? (fun m => m.page == n) with
      | some m => { (s.retireSlot m.chan m.slot) with mem := { (s.retireSlot m.chan m.slot).mem with
          migs := s.mem.migs.filter (fun x => x.page != n) } }
      | none => s
    let s := s.setEntry n { e with backed := false, lost := true, mig := 0 }
    let s := s.count Obj.pagesLost
    if e.sys then s else s.loseCtxPage e.owner n

/-- Slices whose job has a request in flight on channel c. -/
def State.slicesOn (s : State) (c : Nat) : List Nat :=
  upTo 6 (fun n =>
    (s.slice n).store.tags.any (fun t => t.ch == c) ||
    s.clusters.any (fun k => k.1 / 16 == n && k.2.misses.any (fun m => m.ch == c)) ||
    (s.chan c).sorter.any (fun r => r.admitted.isSome && reqSlice r.source == some n))

/-- The tags and miss registers of requests on channel c are free: the requests have ended with an error (R220). -/
def State.dropHeld (s : State) (c : Nat) : State :=
  { s with
    slices := s.slices.map (fun x =>
      let l := x.2.store.tags.filter (fun t => t.ch != c)
      (x.1, { x.2 with store := { x.2.store with
        tags := l, gone := x.2.store.gone.filter (fun g => l.any (fun t => t.uid == g.2.uid)) } }))
    clusters := s.clusters.map (fun k => (k.1, { k.2 with misses := k.2.misses.filter (fun m => m.ch != c) })) }

/-- Channel c is retired until the next cold reset (R219, R220); the second loss is a device-scope fault (R16). -/
def State.retireChannel (s : State) (c : Nat) : State :=
  if !s.chInService c then s else
  let hit := s.slicesOn c
  let pages := (s.mem.table.filter (fun e => (e.2.backed && e.2.channel == c))).map (·.1)
  let mirr := (s.mem.mirrors.filter (fun m => m.2.1 == c)).map (·.1)
  let dests := (s.mem.migs.filter (fun m => m.chan == c)).map (·.page)
  let s := s.setNum Obj.chState c 1
  let s := s.setNum Obj.chInService 0 (maskNat 12 s.chInService)
  let s := (s.modChan c (fun x => { x with
    sorter := [], waiting := [], openRows := [], checks := [], retraining := false, waking := false })).dropHeld c
  let s := dests.foldl (fun s n => s.abandonMig n) s
  let s := hit.foldl (fun s n => s.loseSliceWork n) s
  let s := ((pages ++ mirr).foldl (fun s n => s.losePage c n) s).endUnloads
  if decide (2 ≤ (upTo 12 (fun d => !s.chInService d)).length) then
    { (s.enterCause 1) with work := { (s.enterCause 1).work with noAccept := true } }
  else s

/-! ## Island faults (R12, R16, R520, R521) -/

/-- The scope of the reaction to the loss of an island, wider for a larger number (R16). -/
def islandScope (code : Nat) : Nat := if code < 6 then 0 else if 0x10 ≤ code ∧ code < 0x16 then 1 else 2

/-- The reaction to an island that failed to acknowledge (Table — Island fault reactions): a slice's work is re-run on
another slice, its streams move, and it waits for its reset. A fault that names a GDDR6 controller without a channel
retires the controller's first channel: the model's choice, because R16 speaks of the channel named in the fault
(notes/assumptions/49.md). -/
def State.islandReaction (s : State) (code : Nat) (chan : Option Nat) : State :=
  if code < 6 then
    if s.num Obj.sliceState code != 0 then s
    else if (s.slice code).resetting.isSome then s.modSlice code (fun x => { x with resetDue := true })
    else (((s.modSlice code (fun x => { x with resetDue := true })).loseSliceWork code).moveStreams code).nextReset
  else if 0x10 ≤ code ∧ code < 0x16 then s.retireChannel (chan.getD ((code - 0x10) * 2))
  else
    let s := s.enterCause 1
    if code == 0x22 then { s with safety := { s.safety with netDown := true } } else s

/-- The fault record of an abandoned crossing (Table — Hardware fault records). -/
def State.islandFault (s : State) (failed requester : Nat) (chan : Option Nat) : State :=
  let ch := if 0x10 ≤ failed ∧ failed < 0x16 then some (chan.getD ((failed - 0x10) * 2)) else none
  let (scope, unit) := if failed < 6 then (1, failed) else match ch with | some c => (2, c) | none => (0, failed)
  let s := s.postFault St.unavailable scope unit (le 1 4 ++ le 1 failed ++ le 1 requester ++ le 1 (ch.getD 0xFF))
  s.islandReaction failed chan

/-- A tag or miss register held for 100 µs: a channel memory fault, the channel is retired, and the job of the
requesting slice is aborted and re-run (R104, R185, R219). -/
def State.tagFault (s : State) (slice : Option Nat) (addr : Nat) : State :=
  let c := (s.entry (addr / pageBytes)).channel
  let s := s.postFault St.unavailable 2 c (le 1 3 ++ le 1 (slice.getD 0xFF) ++ zeros 6 ++ le 8 addr)
  let s := match slice with | some n => s.loseSliceWork n | none => s
  s.retireChannel c

/-- An uncorrectable error on channel c: with 16 within 1 s the channel is retired (R219). -/
def State.uncorrErr (s : State) (c : Nat) : State :=
  let l := ((s.chan c).uncorr.filter (fun t => decide (s.clk.now < t + 1000 * ms))) ++ [s.clk.now]
  let s := s.modChan c (fun x => { x with uncorr := l })
  if 16 ≤ l.length then s.retireChannel c else s

/-- An uncorrectable GDDR6 block in a page without a mirror: the memory fault of R204. -/
def State.memFault (s : State) (c addr : Nat) : State :=
  ((s.count Obj.chEccUncorr c).postFault St.unavailable 2 c (le 1 2 ++ zeros 7 ++ le 8 addr)).uncorrErr c

end Sys2Proof.Machine
end

