-- ==== Sys2Proof/Machine/Host.lean ====
section
/-! DEFINITION. Host Link Protocol requests: session, order and lease checks (R338, R354, R355), responses, and the
checks and apply classes of a dictionary write (R265, R369, R371 to R377, R381). -/

namespace Sys2Proof.Machine

/-- The DXP answers on the host port: its link is up and the DXP runs (R481, R335). -/
def State.hostUp (s : State) : Bool := s.link.up && s.runs P.dxp && s.rst.phase != .powerReset && s.rst.phase != .warmHeld

def State.recovering (s : State) : Bool := s.rst.phase == .recovery

/-- The SA that protects a frame sent now: the newest transmit SA, in MACSEC_MODE 1 and 2 (R332, R334). The spec gives no
other way to send a frame where none is installed: it goes unprotected. -/
def State.txSa (s : State) : Option Nat :=
  if s.num Obj.macsecMode == 0 || s.link.plain then none else s.link.txSas.getLast?.map (fun x => x.an)

/-- A response is sent to its request's source; those of the session are kept for the last 64 (R335, R338). -/
def State.respond (s : State) (r : Req) (type status : Nat) (body : Bytes) (keep : Bool) : State :=
  let x : Resp := { type := type + 0x80, dst := r.src, session := r.session, seq := r.seq, status := status
                    body := body, sa := s.txSa }
  let kept := if keep then s.link.stored ++ [x] else s.link.stored
  { s with link := { s.link with tx := s.link.tx ++ [x], stored := kept.drop (kept.length - 64) } }

/-- The lease is HELD and the request carries its session from its bound source (R354, R355). -/
def State.holder (s : State) (r : Req) : Bool :=
  s.link.lease == .held && decide (r.session = s.link.session) && decide (r.src = s.link.bound)

/-- How far a request's SEQ lies ahead of the expected one, modulo 2³². -/
def ahead (expected seq : Word) : Nat := (seq - expected).toNat

/-- A request of the session is executed in SEQ order; an earlier one is answered from the store; one up to 64 ahead is
held; any other is discarded and counted (R338). A request from elsewhere fails (R355). -/
def State.hostReq (s : State) (r : Req) (type : Nat) (cmd : Instr) (body : State → Nat × Bytes × State) : State :=
  if !s.hostUp then s
  else if s.recovering && type != 0x10 && type != 0x11 && type != 0x03 && type != 0x02 then
    s.respond r type St.unavailable [] false
  else if !s.holder r then
    s.respond r type (if s.link.lease == .held then St.leaseHeld else St.leaseExpired) [] false
  else
    let e := s.link.expected.getD r.seq
    if ahead e r.seq == 0 then
      let s := { s with link := { s.link with expected := some (e + 1), renewed := s.clk.now } }
      let (st, b, s) := body s
      s.respond r type st b true
    else match s.link.stored.find? (fun x => x.seq == r.seq) with
      | some x => { s with link := { s.link with tx := s.link.tx ++ [{ x with sa := s.txSa }] } }
      | none =>
        if ahead e r.seq ≤ 64 then
          if s.link.held.any (fun h => h.1 == r.seq) then s
          else { s with link := { s.link with held := s.link.held ++ [(r.seq, cmd, s.clk.now)] } }
        else s.count Obj.hlSeqDiscard

/-! ## Persistence (R378 to R382) -/

/-- Bytes of a record in flash, padded to a multiple of 8. -/
def recBytes (vlen : Nat) : Nat := (16 + vlen + 7) / 8 * 8

/-- A record as it stands in flash (Table — Persisted record). -/
def PersRec.image (r : PersRec) : Bytes :=
  let b := le 2 0xA55A ++ le 2 r.index ++ le 1 r.sub ++ le 1 r.otype ++ le 2 r.value.length ++ le 4 r.wseq ++ r.value
  pad (recBytes r.value.length) (b ++ le 4 (crc32 b))

/-- The bytes of the bank in force: its header, then its records; erased flash reads 0xFF (R378). -/
def Pers.image (p : Pers) : Bytes :=
  let h := [0x5A, 0x44, 0x50, 0x41] ++ le 4 p.bankSeq ++ le 2 1 ++ zeros 18
  h ++ le 4 (crc32 h) ++ p.recs.flatMap PersRec.image
def bankBytes : Nat := 262144

/-- The records after the last erase record. -/
def liveRecs (l : List PersRec) : List PersRec :=
  l.foldl (fun a r => if r.index == 0xFFFF then [] else a ++ [r]) []

/-- The latest record of each object. -/
def lastRecs (l : List PersRec) : List PersRec :=
  (liveRecs l).foldl (fun a r => a.filter (fun x => !(x.index == r.index && x.sub == r.sub)) ++ [r]) []

def renumber : Nat → List PersRec → List PersRec
  | _, [] => []
  | n, r :: l => { r with wseq := n } :: renumber (n + 1) l

/-- A record is committed: appended and read back, after a compaction where it does not fit or the bank is torn (R381);
none when the flash fails. -/
def State.commitRec (s : State) (r : PersRec) (flashOk : Bool) : Option State :=
  if !flashOk then none else
  let wseq := match s.pers.recs.getLast? with | some x => x.wseq + 1 | none => 1
  let size := recBytes r.value.length
  let used := 32 + sumOf (fun x => recBytes x.value.length) s.pers.recs
  if used + size ≤ bankBytes && !s.pers.torn then
    some ({ s with pers := { s.pers with recs := s.pers.recs ++ [{ r with wseq := wseq }] } }.count Obj.persWrites)
  else
    let kept := renumber wseq (lastRecs s.pers.recs)
    let l := kept ++ [{ r with wseq := wseq + kept.length }]
    some (({ s with pers := { s.pers with recs := l, bank := 1 - s.pers.bank, bankSeq := s.pers.bankSeq + 1, torn := false }
      }.count Obj.persWrites).count Obj.persCompact)

/-! ## Writes of objects (R369) -/

/-- What an object's chapter adds to R369: further conditions on the value (step 4), the precondition with its status
(step 6; 0 when it holds), the effect, and the status answered with it. A precondition that DEFER does not wait for gives
its status with 2¹⁶ added. -/
structure WriteRule where
  check : State → Val → Bool
  pre   : State → Val → Nat
  apply : State → Val → State
  answer : State → Val → Nat := fun _ _ => 0

/-- A write with no further condition. -/
def WriteRule.plain (r : ObjRow) (k : Nat) : WriteRule :=
  { check := fun _ _ => true, pre := fun _ _ => 0, apply := fun s v => s.setVal r k v }

/-- F32 order of two finite patterns as integers. -/
def f32Key (n : Nat) : Int := if n < 2 ^ 31 then (n : Int) else -((n - 2 ^ 31 : Nat) : Int)

/-- The value passes Table — Object types and the row's range (R366). -/
def ObjRow.inRange (r : ObjRow) : Val → Bool
  | .num n =>
    if r.otype == 7 then
      decide (n / 2 ^ 23 % 256 ≠ 255) && decide (f32Key r.min ≤ f32Key n) && decide (f32Key n ≤ f32Key r.max)
    else r.otype ≤ 8 && decide (r.min ≤ n) && decide (n ≤ r.max)
  | .blob b => decide (9 ≤ r.otype) && (if r.fixed then b.length == r.maxLen else decide (b.length ≤ r.maxLen))

/-- Index and subindex of instance k. -/
def ObjRow.index (r : ObjRow) (k : Nat) : Nat := r.base + r.stride * k
def ObjRow.subAt (r : ObjRow) (k : Nat) : Nat := r.sub + r.subStep * k

/-- A value as stored in a persisted record. -/
def ObjRow.stored (r : ObjRow) : Val → Bytes
  | .num n => le r.maxLen n
  | .blob b => b

/-- Objects that answer in recovery mode (R376). -/
def recoveryIndex (i : Nat) : Bool :=
  decide (0x1000 ≤ i ∧ i ≤ 0x2FFF) || decide (0x7000 ≤ i ∧ i ≤ 0x7FFF) || decide (0xF000 ≤ i ∧ i ≤ 0xF0FF)

/-- A pending IDLE or WARM value takes the last write; a write of the value in force cancels it (R372). -/
def setPend (pend : List (Nat × Val)) (key : Nat) (inForce v : Val) : List (Nat × Val) :=
  if v = inForce then tdel pend key else tput pend key v

/-- The moment of effect of a write that has passed its checks (R371): IMM applies, MER is staged or committed, IDLE
and WARM wait. -/
def State.moment (s : State) (r : ObjRow) (k : Nat) (w : WriteRule) (v : Val) : State :=
  match r.aclass % 4 with
  | 0 => w.apply s v
  | 1 => match s.work.openSet with
    | none => s.commitEpoch [(r.key k, v)]
    | some l => { s with work := { s.work with openSet := some (tput l (r.key k) v) } }
  | 2 => { s with work := { s.work with idlePend := setPend s.work.idlePend (r.key k) (s.val r k) v } }
  | _ => { s with work := { s.work with warmPend := setPend s.work.warmPend (r.key k) (s.val r k) v } }

/-- The 257th change of an open set is rejected (R266). -/
def State.setFull (s : State) (key : Nat) : Bool :=
  match s.work.openSet with
  | none => false
  | some l => decide (256 ≤ l.length) && (tfind l key).isNone

/-- A write held until its precondition holds; a 17th is rejected (R265). -/
def State.hold (s : State) (r : ObjRow) (k : Nat) (v : Val) : Nat × State :=
  if 16 ≤ s.work.deferred.length then (St.busy, s) else
  (St.deferred, { s with work := { s.work with deferred := s.work.deferred ++
    [{ key := r.key k, index := r.index k, sub := r.subAt k, value := v, due := s.clk.now + s.jobLimit }] } })

/-- Steps 2 to 7 of R369 for a complete value of an existing object, and its effect. -/
def State.writeObj (s : State) (r : ObjRow) (k : Nat) (w : WriteRule) (v : Val) (defer flashOk : Bool) : Nat × State :=
  if s.recovering && !recoveryIndex (r.index k) then (St.unavailable, s)
  else if r.access == 1 then (St.access, s)
  else if !(r.inRange v && w.check s v) then (St.range, s)
  else if s.work.deferred.any (fun d => d.key == r.key k) then (St.busy, s)
  else if !s.runs r.owner || (4 ≤ r.aclass % 8 && !s.runs P.btp) then (if defer then s.hold r k v else (St.busy, s))
  else
    let p := if r.access == 4 && (List.range 6).any (fun n => (s.slice n).run.isSome) then St.stateConflict else w.pre s v
    if p == St.stateConflict && defer then s.hold r k v
    else if p != 0 then (p % 2 ^ 16, s)
    else if r.aclass % 4 == 1 && s.setFull (r.key k) then (St.busy, s)
    else if 4 ≤ r.aclass % 8 then
      match s.commitRec { index := r.index k, sub := r.subAt k, otype := r.otype, wseq := 0, value := r.stored v } flashOk with
      | none => (St.unavailable, s.count Obj.persFail)
      | some t => (w.answer s v, t.moment r k w v)
    else (w.answer s v, s.moment r k w v)

/-- A request for the object at a key ends the snapshot of another object, a write also the staged segments of one
(R340, R370). -/
def State.touch (s : State) (key : Nat) (write : Bool) : State :=
  { s with link := { s.link with
      snapshot := s.link.snapshot.filter (fun x => x.1 == key)
      staged := s.link.staged.filter (fun x => !write || x.1 == key) } }

/-- A DICT_WRITE request of a scalar object with a row of its own in the table of commands. -/
def State.hostWrite (s : State) (cmd : Instr) (w : CmdW) (r : ObjRow) (k : Nat) (rule : WriteRule) : State :=
  s.hostReq w.req 0x11 cmd (fun s =>
    let (st, s) := (s.touch (r.key k) true).writeObj r k rule (.num w.value) w.defer true
    (st, [], s))

/-- A DICT_WRITE request of a BLOB object with a row of its own. -/
def State.hostBlob (s : State) (cmd : Instr) (w : BlobW) (r : ObjRow) (k : Nat) (rule : WriteRule) : State :=
  s.hostReq w.req 0x11 cmd (fun s =>
    let (st, s) := (s.touch (r.key k) true).writeObj r k rule (.blob w.bytes) w.defer true
    (st, [], s))

/-- A command object's rule: a precondition and an effect on the number written. -/
def WriteRule.cmd (pre : State → Nat → Nat) (apply : State → Nat → State) : WriteRule :=
  { check := fun _ _ => true
    pre := fun s v => match v with | .num n => pre s n | .blob _ => 0
    apply := fun s v => match v with | .num n => apply s n | .blob _ => s }

/-- A command object that clears counters of instance k. -/
def clearRule (rows : List ObjRow) (k : Nat) : WriteRule := WriteRule.cmd (fun _ _ => 0) (fun s _ => s.clearRows rows k)

end Sys2Proof.Machine
end

