-- ==== Sys2Proof/Machine/Layout.lean ====
section
/-! DEFINITION. The allocation of a job in the tile store: control region and tables, and the placement of a program
(R89, R114, R115, R140, R280). -/

namespace Sys2Proof.Machine

/-! ## The allocation of a job: control region and tables (R89, R114, R115, R140, R280) -/

/-- Rows that n bytes take. -/
def rowsOf (n : Nat) : Nat := (n + 127) / 128

def flat (l : List Bytes) : Bytes := l.flatten

/-- The allocation of context c for one program of its package: descriptor table, program, window, transform and chain
tables, activation tables and the program's digest origin list, each on a row boundary. -/
def makeAlloc (c : Nat) (p : Package) (prog : Nat) : Alloc :=
  let pb := (p.programs[prog]?).getD []
  let progRow := rowsOf (64 * p.descriptors.length)
  let win := progRow + rowsOf pb.length
  let xfm := win + rowsOf (48 * p.windows.length)
  let chain := xfm + rowsOf (32 * p.transforms.length)
  let act := chain + rowsOf (64 * p.chains.length)
  let origin := act + rowsOf (2048 * p.actTabs.length)
  { ctx := c, base := 0, len := rowsOf p.tsAlloc * 128, descs := p.descriptors.length, progRow := progRow, progLen := pb.length
    winRow := win, xfmRow := xfm, chainRow := chain, actRow := act, originRow := origin
    dataRow := origin + rowsOf (16 * ((p.origins[prog]?).getD []).length), bankVecs := p.bankVecs }

/-- Rows of the control region: to the last row of the program. -/
def Alloc.ctrlRows (a : Alloc) : Nat := a.progRow + rowsOf a.progLen

/-- Bytes of the tile store at an offset of the allocation. -/
def Slice.ts (x : Slice) (off n : Nat) : Bytes :=
  match x.alloc with
  | none => zeros n
  | some a => cgets x.store.bytes (a.base * 128 + off) n

def Slice.tsPut (x : Slice) (off : Nat) (b : Bytes) : Slice :=
  match x.alloc with
  | none => x
  | some a => { x with store := { x.store with bytes := cputs x.store.bytes (a.base * 128 + off) b } }

/-- The rows of program prog and its tables are placed and the engines stand as at the start of a job (R114, R126).
SEQ_ISSUED goes on counting within the job (R131). -/
def State.placeProgram (s : State) (n c prog : Nat) (p : Package) : State :=
  let a := makeAlloc c p prog
  let pb := (p.programs[prog]?).getD []
  { s with freeCtr := s.freeCtr + 32768 }.modSlice n (fun x =>
    let x := { x with alloc := some a }
    let x := x.tsPut 0 (flat p.descriptors)
    let x := x.tsPut (a.progRow * 128) pb
    let x := x.tsPut (a.winRow * 128) (flat p.windows)
    let x := x.tsPut (a.xfmRow * 128) (flat p.transforms)
    let x := x.tsPut (a.chainRow * 128) (flat p.chains)
    let x := x.tsPut (a.actRow * 128) (flat p.actTabs)
    let x := x.tsPut (a.originRow * 128) (flat ((p.origins[prog]?).getD []))
    { x with
      seq := { Seq.init with mode := .issuing, issued := x.seq.issued }
      arr := { Arr.init with nextTile := x.arr.nextTile, activeTo := x.arr.activeTo
                             stats := x.arr.stats, digests := x.arr.digests }
      store := { x.store with bank := [], bankFrom := some s.freeCtr, descs := [], pend := [], reads := [], writes := [], readAt := [] } })

end Sys2Proof.Machine
end

