-- ==== Sys2Proof/Machine/Checks.lean ====
section
/-! DEFINITION. Failing verdicts: the mismatch record and what follows it (R52 to R57, R163, R520), and the tile-store
accesses of the engines (R110, R115). -/

namespace Sys2Proof.Machine

/-- Where a failing check stands: tile, KIND, STAGE, layer, TAG, chunk and vector. -/
structure FailAt where
  tile  : Nat
  kind  : Nat
  stage : Nat
  layer : Nat
  tag   : Nat
  chunk : Nat
  vec   : Nat
  deriving DecidableEq, Repr

/-- The mismatch record (R55). -/
def State.mismatchRec (s : State) (n : Nat) (f : FailAt) : Bytes :=
  let (job, ctx) := s.runJob n
  le 8 s.clk.lode ++ le 8 job ++ le 2 ctx ++ le 2 f.layer ++ le 2 f.tag ++ le 1 n ++ le 1 f.kind ++ le 2 f.chunk
    ++ le 2 f.vec ++ le 2 1 ++ le 1 f.stage ++ le 1 0

/-- A failing row or stage of a tile (R53): the first writes the record, counts the tile and posts it; later ones raise
COUNT. -/
def State.failTile (s : State) (n : Nat) (f : FailAt) : State :=
  let l := (s.slice n).arr.failTiles
  if l.contains f.tile then
    if l.head? != some f.tile then s else
    let b := pad 32 (s.blob Obj.lastMismatch n)
    s.setBlob Obj.lastMismatch n (patch b 28 (le 2 (min 0xFFFF (fld b 28 2 + 1))))
  else
    let b := s.mismatchRec n f
    let s := (s.setBlob Obj.lastMismatch n b).count Obj.checkFailTiles n
    let s := s.modArr n (fun a => { a with failTiles := f.tile :: a.failTiles.take 15 })
    (s.postFault St.checkMismatch 1 n (cut b 8 16)).failRun n f.kind

/-! ## Engine accesses (R110, R115, R140) -/

/-- Row r of the allocation exists. -/
def Slice.rowOk (x : Slice) (r : Int) : Bool :=
  match x.alloc with
  | none => false
  | some a => decide (0 ≤ r) && decide (r.toNat * 128 + 128 ≤ a.len)

/-- Row r lies in the control region. -/
def Slice.rowCtrl (x : Slice) (r : Int) : Bool :=
  match x.alloc with | none => false | some a => decide (0 ≤ r) && decide (r.toNat < a.ctrlRows)

/-- Bytes of row r. -/
def Slice.row (x : Slice) (r : Int) : Bytes := x.ts (r.toNat * 128) 128

/-- The first of a list of rows that an engine may not read. -/
def Slice.badRead (x : Slice) (rows : List Int) : Option Int := rows.find? (fun r => !x.rowOk r)

/-- The rows of n bytes from an offset on. -/
def rowsIn (o n : Nat) : List Int :=
  if n == 0 then [] else (List.range ((o + n - 1) / 128 + 1 - o / 128)).map (fun (i : Nat) => ((o / 128 + i : Nat) : Int))

/-- What the ECC of an engine's reads of some rows finds (R95): a corrected word is counted; an uncorrectable one is
delivered poisoned, counted and posted, and the run fails. -/
def State.eccReads (s : State) (n : Nat) (rows : List Int) (l : List TsEcc) : State :=
  (l.filter (fun e => rows.contains (e.row : Int))).foldl (fun s e =>
    if e.bad then
      ((s.count Obj.tsEccUncorr n).postFault St.unavailable 1 n
        (le 1 1 ++ zeros 1 ++ le 2 e.row ++ zeros 4 ++ le 8 (s.runJob n).1)).failRun n 0x11
    else s.count Obj.tsEccCorr n) s

/-- One write of an engine: row, byte in the row, data. -/
structure RowWrite where
  row  : Int
  byte : Nat
  data : Bytes
  deriving DecidableEq, Repr

/-- The first write that faults: outside the allocation or into the control region. -/
def Slice.badWrite (x : Slice) (ws : List RowWrite) : Option RowWrite :=
  ws.find? (fun w => !x.rowOk w.row || x.rowCtrl w.row)

/-- The writes of an engine take effect one after another; the first that leaves its resource faults, and every access
before it has taken effect. False when one faulted. -/
def State.engineWrites (s : State) (n source tag : Nat) (ws : List RowWrite) : Bool × State :=
  let x := s.slice n
  let good := ws.takeWhile (fun w => x.rowOk w.row && !x.rowCtrl w.row)
  let t := s.setSlice n (good.foldl (fun x w => x.tsPut (w.row.toNat * 128 + w.byte) w.data) x)
  match x.badWrite ws with
  | none => (true, t)
  | some w => (false, t.engineFault n source tag (w.row * 128 + w.byte))

end Sys2Proof.Machine
end

