-- ==== Sys2Proof/Machine/Ports.lean ====
section
/-! DEFINITION. The ports of the tile store: the port-slot schedule, pending accesses, delivery and collisions (R90 to
R95). -/

namespace Sys2Proof.Machine

def tsPortNum : TsPort → Nat
  | .feederA => 0
  | .feederB => 1
  | .drain => 2
  | .dma => 3
  | .sliver => 4

/-- Groups that a port owns in phase p (Table — Port-slot schedule). -/
def tsPortGroups (t : TsPort) (p : Nat) : List Nat :=
  match t with
  | .feederA => [p % 8]
  | .feederB => [(p + 4) % 8]
  | .drain => [(p + 1) % 8, (p + 5) % 8]
  | .dma => [(p + 2) % 8, (p + 6) % 8]
  | .sliver => [(p + 3) % 8, (p + 7) % 8]

/-- SOURCE of a transfer fault for an access of a port. -/
def tsPortSource (t : TsPort) (write : Bool) : Nat :=
  match t with
  | .feederA => 3
  | .feederB => 4
  | .drain => 5
  | .dma => if write then 1 else 2
  | .sliver => 8

/-- TAG of the bundle whose work a port does: that of the tile, load, row or descriptor in hand; a sliver core's access
belongs to no bundle and takes the TAG of the last one issued. -/
def Slice.portTag (x : Slice) (t : TsPort) (write : Bool) : Nat :=
  let o : Option (BitVec 16) := match t with
    | .feederA => match x.arr.feed with | some f => some f.cmd.tag | none => (x.arr.rows.getLast?).map (fun r => r.cmd.tag)
    | .feederB => (x.arr.shadow.orElse (fun _ => x.arr.active)).map (fun w => w.tag)
    | .drain => match x.arr.rows with | r :: _ => some r.cmd.tag | [] => (x.arr.invRows.head?).map (fun r => r.tag)
    | .dma => (x.store.descs.find? (fun d => d.started && d.out == !write)).map (fun d => d.tag)
    | .sliver => none
  (o.getD x.seq.tag).toNat

/-- A row under a byte mask. -/
def maskRow : Bytes → Bytes → List Bool → Bytes
  | o :: os, d :: ds, m :: ms => (if m then d else o) :: maskRow os ds ms
  | os, _, _ => os

/-- The first slot of a port in a group from cycle c on: one comes in any 8 cycles (R90). -/
def slotFrom (p : TsPort) (g c : Nat) : Nat :=
  match (List.range 8).find? (fun k => (tsPortGroups p ((c + k) % 8)).contains g) with
  | some k => c + k
  | none => c

def slotKey (p : TsPort) (g : Nat) : Nat := 8 * tsPortNum p + g

/-- The slot that an access of a port in a group takes from cycle c on: in each slot goes the oldest access of its
group, one row a slot (R90, R92). -/
def Store.nextSlot (t : Store) (p : TsPort) (g c : Nat) : Nat :=
  slotFrom p g (match tfind t.slots (slotKey p g) with | some l => max c (l + 1) | none => c)

/-- Reads are delivered in the order requested (R92): not before any read requested earlier at the port. -/
def Store.lastDelivery (t : Store) (p : TsPort) : Nat :=
  (((t.reads.filter (fun r => r.port == tsPortNum p)).map (fun r => r.cyc))
    ++ ((t.pend.filter (fun q => q.acc.port == p && !q.acc.write)).map (fun q => q.deliver))).foldl max 0

/-- The read of a row at a port in its slot: collision, ECC of the four bank words, and delivery (R91, R93 to R95). -/
def State.portRead (s : State) (n : Nat) (a : TsAccess) (cyc deliver : Nat) : State :=
  let x := s.slice n
  let hit := x.store.writes.find? (fun w => w.row == a.row && w.cyc == cyc)
  let data := match hit with | some w => w.old | none => x.row a.row
  let bad := a.ecc.any (fun e => e == .uncorrectable)
  let s := s.modStore n (fun t => { t with
    reads := t.reads.filter (fun r => decide (cyc ≤ r.cyc + 128))
      ++ [{ port := tsPortNum a.port, row := a.row, cyc := deliver, data := data, poison := bad }]
    readAt := t.readAt.filter (fun r => decide (cyc ≤ r.2 + 8)) ++ [(a.row, cyc)] })
  let s := if hit.isSome then s.count Obj.tsCollide n else s
  let s := s.count Obj.tsEccCorr n (a.ecc.filter (fun e => e == .correctable)).length
  if !bad then s else
  let s := s.count Obj.tsEccUncorr n (a.ecc.filter (fun e => e == .uncorrectable)).length
  (s.postFault St.unavailable 1 n (le 1 1 ++ zeros 1 ++ le 2 a.row ++ zeros 4 ++ le 8 (s.runJob n).1)).failRun n 0x11

/-- The write of a row by a port in its slot: it takes effect in the array one cycle later (R93, R94). -/
def State.portWrite (s : State) (n : Nat) (a : TsAccess) (cyc : Nat) : State :=
  let x := s.slice n
  let old := x.row a.row
  let s := s.setSlice n (x.tsPut (a.row * 128) (maskRow old a.data a.mask))
  let w : TsWrite := { port := tsPortNum a.port, row := a.row, cyc := cyc + 1, old := old }
  let s := s.modStore n (fun t => { t with writes := t.writes.filter (fun v => decide (cyc ≤ v.cyc + 8)) ++ [w] })
  if x.store.readAt.contains (a.row, cyc + 1) then s.count Obj.tsCollide n else s

/-- The pending access with the earliest slot. -/
def firstPend : List TsPend → Option TsPend
  | [] => none
  | p :: l => match firstPend l with | some q => if q.issue < p.issue then some q else some p | none => some p

/-- The pending accesses whose slots come before cycle c are made, in the order of their slots. -/
def State.portsTo (n c : Nat) : Nat → State → State
  | 0, s => s
  | k + 1, s =>
    match firstPend (s.slice n).store.pend with
    | none => s
    | some p =>
      if c ≤ p.issue then s else
      let s := s.modStore n (fun t => { t with pend := t.pend.erase p })
      State.portsTo n c k (if p.acc.write then s.portWrite n p.acc p.issue else s.portRead n p.acc p.issue p.deliver)

/-- An access of at most 16 that wait at its port (R92): it takes its slot, and is made at once when that is this
cycle's. -/
def State.portAccess (s : State) (n : Nat) (a : TsAccess) (g : Nat) : State :=
  let s := State.portsTo n a.cyc (s.slice n).store.pend.length s
  let t := (s.slice n).store
  if 16 ≤ (t.pend.filter (fun q => q.acc.port == a.port)).length then s else
  let c := t.nextSlot a.port g a.cyc
  let d := max (c + 6) (t.lastDelivery a.port)
  let s := s.modStore n (fun t => { t with slots := tput t.slots (slotKey a.port g) c })
  if c == a.cyc then (if a.write then s.portWrite n a c else s.portRead n a c d)
  else s.modStore n (fun t => { t with pend := t.pend ++ [{ acc := a, issue := c, deliver := d }] })

/-- The first offset that a write names under its byte mask. -/
def accessFirst (a : TsAccess) : Nat := a.row * 128 + (if a.write then a.mask.findIdx id % 128 else 0)

end Sys2Proof.Machine
end

