-- ==== Sys2Proof/Machine/Xfm.lean ====
section
/-! DEFINITION. The transform units of the frequency-domain path: TRANSFORM and ISSUE in the feeder-side unit, INVERSE in
the drain-side unit (R157 to R164). -/

namespace Sys2Proof.Machine

/-! ## Twiddles (R160) -/

/-- cos(2πk/64) × 2²³ rounded to an integer, k from 0 to 16. -/
def cosQuarter : List Nat :=
  [8388608, 8348215, 8227423, 8027397, 7750063, 7398092, 6974873, 6484482, 5931642, 5321677, 4660461, 3954362,
   3210181, 2435084, 1636536, 822227, 0]

def cos64 (k : Nat) : Int :=
  let k := k % 64
  if k ≤ 16 then ((cosQuarter[k]?).getD 0 : Nat)
  else if k ≤ 32 then -((cosQuarter[32 - k]?).getD 0 : Nat)
  else if k ≤ 48 then -((cosQuarter[k - 32]?).getD 0 : Nat)
  else ((cosQuarter[64 - k]?).getD 0 : Nat)

/-- A complex integer. -/
abbrev CInt := Int × Int

def cmul (a b : CInt) : CInt := (a.1 * b.1 - a.2 * b.2, a.1 * b.2 + a.2 * b.1)
def cadd (a b : CInt) : CInt := (a.1 + b.1, a.2 + b.2)
def conj (a : CInt) : CInt := (a.1, -a.2)
def csum (l : List CInt) : CInt := l.foldl cadd (0, 0)

/-- t(n) = e^(−2πi·n/T) in multiples of 2⁻²³, T 32 or 64. -/
def twiddle (T n : Nat) : CInt := (cos64 (n * (64 / T)), -cos64 (n * (64 / T) + 48))

/-! ## Block exponents (R158) -/

/-- The smallest I8 exponent for which every value m × 2^q rounds into −32,767 to 32,767. All values zero give −128. -/
def blockExp (q : Int) (vals : List Int) : Int :=
  let top := vals.foldl (fun a v => max a v.natAbs) 0
  match (List.range 256).find? (fun (i : Nat) => roundInt 0 false top (q - ((i : Int) - 128)) ≤ 32767) with
  | some i => (i : Int) - 128
  | none => 127

def codeOf (q e v : Int) : Int := roundInt 0 (decide (v < 0)) v.natAbs (q - e)

def le16 (v : Int) : Bytes := le 2 (wrap 16 v)

/-! ## The transform table (R159) -/

/-- Entry k of the drain-chain table. -/
def Slice.chainEntry (x : Slice) (k : Nat) : Bytes :=
  match x.alloc with | some a => x.ts (a.chainRow * 128 + 64 * k) 64 | none => zeros 64

def Slice.xfmEntry (x : Slice) (k : Nat) : Bytes :=
  match x.alloc with | some a => x.ts (a.xfmRow * 128 + 32 * k) 32 | none => zeros 32

def xtOp (e : Bytes) : Nat := fld e 0 1
def xtCh (e : Bytes) : Nat := fld e 2 1
def xtTiles (e : Bytes) : Nat := fld e 3 1
def xtTilesX (e : Bytes) : Nat := max 1 (fld e 6 2)
/-- Q_H and Q_W. -/
def xtQ (e : Bytes) (T : Nat) : Nat × Nat := (T + 1 - fld e 4 1, T + 1 - fld e 5 1)
/-- Channels of a block of the spatial layout, and bytes of its element. -/
def xtBc (e : Bytes) : Nat := if (fld e 1 1).testBit 0 then 32 else 16
def xtEsize (e : Bytes) : Nat := if bits (fld e 1 1) 3 1 == 2 then 2 else 1

/-- Row and byte of channel c at strip position (iy, ix), none outside the strip (R143, R160). -/
def xtPlace (e : Bytes) (src : Int) (c : Nat) (iy ix : Int) : Option (Int × Nat) :=
  if iy < 0 || ix < 0 || (fld e 10 2 : Int) ≤ iy || (fld e 8 2 : Int) ≤ ix then none
  else
    let seg := xtBc e * xtEsize e
    let p := 128 / seg
    let blk := fld e 29 1 + c / xtBc e
    some (src + (blk * fld e 18 2 + iy.toNat * fld e 16 2 + ix.toNat / p : Nat),
      ix.toNat % p * seg + c % xtBc e * xtEsize e)

/-- Strip position of pixel (y, x) of input tile m. -/
def xtInput (e : Bytes) (T m y x : Nat) : Int × Int :=
  (signed 16 (fld e 14 2) + (m / xtTilesX e * (xtQ e T).1 + y : Nat),
   signed 16 (fld e 12 2) + (m % xtTilesX e * (xtQ e T).2 + x : Nat))

/-- Rows that TRANSFORM reads. -/
def xtRows (e : Bytes) (src : Int) (T : Nat) : List Int :=
  (List.range (xtTiles e)).flatMap (fun m => (List.range T).flatMap (fun y => (List.range T).flatMap (fun x =>
    (List.range (xtCh e)).filterMap (fun c => (xtPlace e src c (xtInput e T m y x).1 (xtInput e T m y x).2).map (·.1)))))

def Slice.xtElem (x : Slice) (e : Bytes) (src : Int) (T m c y i : Nat) : Int :=
  match xtPlace e src c (xtInput e T m y i).1 (xtInput e T m y i).2 with
  | none => 0
  | some (r, b) => signed (8 * xtEsize e) (ofLe (cut (x.row r) b (xtEsize e)))

/-- X[f, c] of tile m in multiples of 2⁻⁴⁶, f = u × (T ÷ 2 + 1) + v. -/
def Slice.xtBin (x : Slice) (e : Bytes) (src : Int) (T m c f : Nat) : CInt :=
  let u := f / (T / 2 + 1)
  let v := f % (T / 2 + 1)
  csum ((List.range T).map (fun y =>
    cmul (twiddle T (v * y)) (csum ((List.range T).map (fun i =>
      cmul (twiddle T (u * i)) (x.xtElem e src T m c y i, 0))))))

def bins (T : Nat) : Nat := T * (T / 2 + 1)

/-- Byte k of a packed list of bytes from a row on. -/
def byteAt (row k : Nat) (b : Bytes) : RowWrite := { row := (row + k / 128 : Nat), byte := k % 128, data := b }

/-- The writes of TRANSFORM for tile m: its slab rows and its exponent. -/
def Slice.xtWrites (x : Slice) (e : Bytes) (src : Int) (T m : Nat) : List RowWrite :=
  let xs := (List.range (bins T)).map (fun f => (List.range (xtCh e)).map (fun c => x.xtBin e src T m c f))
  let ex := blockExp (-46) ((xs.flatten).flatMap (fun z => [z.1, z.2]))
  (List.range (bins T)).map (fun f =>
    ({ row := (fld e 20 2 + f * xtTiles e + m : Nat), byte := 0
       data := (pad 128 (((xs[f]?).getD []).flatMap (fun z => le16 (codeOf (-46) ex z.1) ++ le16 (codeOf (-46) ex z.2))))
     } : RowWrite)) ++ [byteAt (fld e 22 2) m (le 1 (wrap 8 ex))]

/-- A disagreement of a unit's two copies (R163). -/
def State.xfmFail (s : State) (n : Nat) (c : XfmCmd) : State :=
  if !c.bad then s else
  let k := (s.slice n).arr.nextTile
  let s := s.modArr n (fun a => { a with nextTile := k + 1 })
  s.failTile n { tile := k, kind := 4, stage := if c.inv then 0x0B else 0x0A, layer := c.layer.toNat
                 tag := c.tag.toNat, chunk := 0, vec := 0 }

def XfmCmd.points (c : XfmCmd) : Nat := if c.size == 0 then 32 else 64

/-- TRANSFORM (R160). -/
def State.runTransform (s : State) (n : Nat) (c : XfmCmd) (e : Bytes) : State :=
  let x := s.slice n
  let T := c.points
  match x.badRead (xtRows e c.srcRow T) with
  | some r => s.engineFault n 3 c.tag.toNat (r * 128)
  | none =>
    let s := s.eccReads n (xtRows e c.srcRow T) c.ecc
    let (ok, t) := s.engineWrites n 3 c.tag.toNat ((List.range (xtTiles e)).flatMap (fun m => x.xtWrites e c.srcRow T m))
    if ok then t.xfmFail n c else t

/-- ISSUE (R161): the slab rows of one bin with their exponent sums, held for Feeder A. -/
def State.runIssue (s : State) (n : Nat) (c : XfmCmd) (e : Bytes) : State :=
  let x := s.slice n
  let k := xtTiles e
  let f := (c.srcRow.toNat - fld e 20 2) / max 1 k
  let exAt (row i : Nat) : Int := signed 8 (ofLe (cut (x.row (row + i / 128 : Nat)) (i % 128) 1))
  let rows := (List.range k).map (fun (m : Nat) => c.srcRow + (m : Int))
  let need := rows ++ (List.range k).map (fun (m : Nat) => ((fld e 22 2 + m / 128 : Nat) : Int))
    ++ [((fld e 24 2 + f / 128 : Nat) : Int)]
  match x.badRead need with
  | some r => s.engineFault n 3 c.tag.toNat (r * 128)
  | none =>
    let vecs := rows.map (fun r => (List.range 64).map (fun i => BitVec.ofNat 16 (fld (x.row r) (2 * i) 2)))
    let exps := (List.range k).map (fun m => exAt (fld e 22 2) m + exAt (fld e 24 2) f)
    let i : FwdIssue := { vecs := vecs, exps := exps }
    ((s.eccReads n need c.ecc).modArr n (fun a => { a with fwdIssue := some i })).xfmFail n c

/-- Y[f, c] of tile m with f's exponent, for any of the T × T bins: the missing ones by conjugate symmetry. -/
def Slice.ivBin (x : Slice) (e : Bytes) (T m c u v : Nat) : CInt × Int :=
  let flip := decide (T / 2 < v)
  let f := if flip then (T - u) % T * (T / 2 + 1) + (T - v) else u * (T / 2 + 1) + v
  let k := f * xtTiles e + m
  let b := cut (x.row ((fld e 20 2 + k : Nat) : Int)) (4 * c) 4
  let ex := signed 8 (ofLe (cut (x.row ((fld e 26 2 + k / 128 : Nat) : Int)) (k % 128) 1))
  let y : CInt := (signed 16 (fld b 0 2), signed 16 (fld b 2 2))
  (if flip then conj y else y, ex)

/-- The value at (y, i) of channel c of tile m: the real part of the exact sum, rounded once to fp32. -/
def Slice.ivAt (x : Slice) (e : Bytes) (T m c y i : Nat) : Word :=
  let t := (List.range T).foldl (fun (a : Int) u => (List.range T).foldl (fun (a : Int) v =>
    let (z, ex) := x.ivBin e T m c u v
    a + (cmul z (cmul (conj (twiddle T (v * y))) (conj (twiddle T (u * i))))).1 * 2 ^ (ex + 128).toNat) a) 0
  toF32 (.fin (decide (t < 0)) t.natAbs (-174 - (if T == 32 then 10 else 12)))

/-- INVERSE (R162): the pixel rows that enter the drain. -/
def State.runInverse (s : State) (n : Nat) (c : XfmCmd) (e : Bytes) : State :=
  let x := s.slice n
  let T := c.points
  let (qh, qw) := xtQ e T
  let k := bins T * xtTiles e
  let need := (List.range k).map (fun i => ((fld e 20 2 + i : Nat) : Int))
    ++ (List.range ((k + 127) / 128)).map (fun i => ((fld e 26 2 + i : Nat) : Int))
  match x.badRead need with
  | some r => s.engineFault n 5 c.tag.toNat (r * 128)
  | none =>
    let rows := (List.range (xtTiles e)).flatMap (fun m => (List.range qh).flatMap (fun y => (List.range qw).filterMap (fun i =>
      let py := m / xtTilesX e * qh + y
      let px := m % xtTilesX e * qw + i
      if fld e 10 2 ≤ py || fld e 8 2 ≤ px then none else
      some ({ chain := fld e 28 1, py := py, px := px
              vals := (List.range (xtCh e)).map (fun ch => x.ivAt e T m ch (y + fld e 4 1 - 1) (i + fld e 5 1 - 1))
              tag := c.tag, layer := c.layer, row0 := c.dstRow, origin := c.origin, tile := x.arr.nextTile
              entry := x.chainEntry (fld e 28 1) } : InvRow))))
    ((s.eccReads n need c.ecc).modArr n (fun a => { a with
      nextTile := if c.bad then a.nextTile else a.nextTile + 1, invRows := a.invRows ++ rows })).xfmFail n c

/-- A command starts in its unit. -/
def State.runXfm (s : State) (n : Nat) (c : XfmCmd) : State :=
  let e := (s.slice n).xfmEntry c.xtab
  if c.inv then s.runInverse n c e else if xtOp e == 1 then s.runTransform n c e else s.runIssue n c e

/-- The unit that a command names is free. -/
def Arr.xfmFree (a : Arr) (inv : Bool) : Bool := if inv then a.invRows.isEmpty else a.fwdIssue.isNone

/-- Waiting commands start once their units are free (R120). -/
def State.startXfm (s : State) (n : Nat) : State :=
  let a := (s.slice n).arr
  let s := match a.fwdWait with
    | some c => if a.xfmFree false then (s.modArr n (fun a => { a with fwdWait := none })).runXfm n c else s
    | none => s
  match (s.slice n).arr.invWait with
  | some c => if (s.slice n).arr.xfmFree true then (s.modArr n (fun a => { a with invWait := none })).runXfm n c else s
  | none => s

end Sys2Proof.Machine
end

