-- ==== Sys2Proof/Machine/Array.lean ====
section
/-! DEFINITION. The checked matrix array: weight loads, vectors, column sums and check sums (R26 to R48, R66, R69, R70,
R143, R147, R157, R525). -/

namespace Sys2Proof.Machine

/-! ## Weight tiles (R27, R31, R63, R69, R70, R157) -/

/-- The organisation of a weight load. -/
def FbCmd.org (c : FbCmd) : Org :=
  if c.group4 then .bit8
  else match c.wtype with
    | 1 => .int4
    | 2 => .bit16
    | 5 => .bit16
    | 6 => .complex
    | _ => .bit8

/-- The type with which the grid multiplies: expanded int4 is int8 (R69). -/
def FbCmd.gridType (c : FbCmd) : Nat := if c.group4 then 0 else c.wtype

def Org.wide : Org → Bool
  | .bit8 => false
  | .int4 => false
  | .bit16 => true
  | .complex => true

/-- Load time, and logical rows of a tile (Table — Array organisations). -/
def Org.rows (o : Org) : Nat := if o.wide then 64 else 128
/-- Outputs per vector. -/
def Org.outs : Org → Nat
  | .int4 => 256
  | .bit8 => 128
  | _ => 64

def isFloat (etype : Nat) : Bool := 3 ≤ etype && etype ≤ 5

/-- An integer as a 16-bit code. -/
def code16 (i : Int) : BitVec 16 := BitVec.ofNat 16 (wrap 16 i)
def nibble (b : Bytes) (j : Nat) : Nat := if j % 2 == 0 then fld b (j / 2) 1 % 16 else fld b (j / 2) 1 / 16

/-- The elements of a 128-byte vector or weight row: integers sign-extended, floats as their codes. -/
def elements (etype : Nat) (b : Bytes) : List (BitVec 16) :=
  match etype with
  | 0 => b.map (fun x => code16 (signed 8 x.toNat))
  | 1 => (List.range (2 * b.length)).map (fun j => code16 (signed 4 (nibble b j)))
  | 3 => b.map (fun x => x.setWidth 16)
  | 4 => b.map (fun x => x.setWidth 16)
  | _ => (List.range (b.length / 2)).map (fun i => BitVec.ofNat 16 (fld b (2 * i) 2))

/-- Stored rows that Feeder B reads. -/
def FbCmd.reads (c : FbCmd) : List Int :=
  (List.range (if c.group4 then 68 else if c.wtype == 6 then min 32 c.rows else min c.org.rows c.rows)).map (fun (i : Nat) => c.row + i)

/-- Row r of a group-scaled tile, each weight times its multiplier. -/
def Slice.group4Row (x : Slice) (row : Int) (r : Nat) : List (BitVec 16) :=
  let at' (o n : Nat) : Bytes :=
    let a := r / 32 * 2176 + o
    cut (x.row (row + (a / 128 : Nat))) (a % 128) n
  let m := at' 0 64
  let w := at' (64 + 64 * (r % 32)) 64
  (List.range 128).map (fun j => code16 (signed 4 (nibble w j) * (nibble m j + 1 : Nat)))

/-- The two logical rows of a stored complex row. -/
def complexRows (l : List (BitVec 16)) : List (List (BitVec 16)) :=
  let a (j : Nat) : BitVec 16 := (l[2 * j]?).getD 0
  let b (j : Nat) : BitVec 16 := (l[2 * j + 1]?).getD 0
  [(List.range 32).flatMap (fun j => [a j, b j]), (List.range 32).flatMap (fun j => [-(b j), a j])]

/-- The weights of a load, its unread rows zero. -/
def Slice.weights (x : Slice) (c : FbCmd) : List (List (BitVec 16)) :=
  let n := c.org.rows
  let rows :=
    if c.group4 then (List.range 128).map (fun r => x.group4Row c.row r)
    else
      let l := c.reads.map (fun r => elements c.wtype (x.row r))
      if c.wtype == 6 then l.flatMap complexRows else l
  rows ++ List.replicate (n - rows.length) (List.replicate c.org.outs 0)

/-! ## Vectors (R143, R147, R161) -/

/-- A piece of a vector: bytes of a row, or zeros. -/
structure Piece where
  at'  : Option (Int × Nat)
  len  : Nat
  deriving DecidableEq, Repr

/-- Window entry fields. -/
def winField (e : Bytes) (hi lo : Nat) : Nat := bits (fld e 0 2) hi lo

/-- The place of strip position (iy, ix) of block blk, with segments of seg bytes. -/
def winPlace (e : Bytes) (row : Int) (blk seg : Nat) (iy ix : Int) : Piece :=
  if iy < 0 || (fld e 8 2 : Int) ≤ iy || ix < 0 || (fld e 6 2 : Int) ≤ ix then { at' := none, len := seg }
  else
    let p := 128 / seg
    { at' := some (row + (blk * fld e 16 2 + iy.toNat * fld e 14 2 + ix.toNat / p : Nat), ix.toNat % p * seg), len := seg }

/-- Q of a banded pass and its strips per scan row (R147). -/
def bandQ (e : Bytes) : Nat := (16 - (fld e 20 2 % 16 * (winField e 8 7 + 1) + 1)) / (winField e 4 3 + 1) + 1

/-- Vector m in WIN mode. -/
def winVector (e : Bytes) (row : Int) (m : Nat) : List Piece :=
  let sx := winField e 4 3 + 1
  let sy := winField e 6 5 + 1
  let dx := winField e 8 7 + 1
  let dy := winField e 10 9 + 1
  let ox0 := signed 16 (fld e 10 2)
  let oy0 := signed 16 (fld e 12 2)
  let outW := max 1 (fld e 2 2)
  if winField e 1 0 == 2 then
    let g := fld e 20 2
    let q := bandQ e
    let strips := (outW + q - 1) / q
    (List.range 16).map (fun (p : Nat) =>
      winPlace e row (g / 256) 8 (oy0 + (m / strips * sy + g / 16 % 16 * dy : Nat)) (ox0 + (m % strips * q * sx + p : Nat)))
  else
    let seg := (if winField e 1 0 == 1 then 32 else 16) * (if winField e 2 2 == 1 then 2 else 1)
    let n := winField e 13 11 + 1
    (List.range n).map (fun i =>
      let g := fld e (20 + 2 * i) 2
      winPlace e row (g / 256) seg (oy0 + (m / outW * sy + g / 16 % 16 * dy : Nat)) (ox0 + (m % outW * sx + g % 16 * dx : Nat)))

def Slice.winEntry (x : Slice) (k : Nat) : Bytes :=
  match x.alloc with | some a => x.ts (a.winRow * 128 + 48 * k) 48 | none => zeros 48

/-- The pieces of vector m of an FA command in VEC or WIN mode, with its window entry. -/
def FaCmd.pieces (c : FaCmd) (win : Bytes) (m : Nat) : List Piece :=
  if c.mode == 0 then [{ at' := some (c.row + (m * c.step : Nat), 0), len := 128 }] else winVector win c.row m

def Slice.pieceBytes (x : Slice) (p : Piece) : Bytes :=
  match p.at' with | none => zeros p.len | some (r, b) => cut (x.row r) b p.len

/-- Vector m of Feeder A's tile, with its exponent sum. -/
def Slice.vector (x : Slice) (f : Feed) (m : Nat) : List (BitVec 16) × Int :=
  if f.cmd.fa.mode == 2 then
    match x.arr.fwdIssue with | some i => ((i.vecs[m]?).getD [], (i.exps[m]?).getD 0) | none => ([], 0)
  else (elements f.cmd.arr.atype ((pad 128 ((f.cmd.fa.pieces f.win m).flatMap x.pieceBytes)).take 128), 0)

/-- The rows that Feeder A reads for vector m. -/
def Feed.rows (f : Feed) (m : Nat) : List Int :=
  if f.cmd.fa.mode == 2 then [] else (f.cmd.fa.pieces f.win m).filterMap (fun p => p.at'.map (·.1))

/-! ## Sums (R28, R29, R42, R48, R66, R525) -/

def intOf (c : BitVec 16) : Int := c.toInt
def wordOf (i : Int) : Word := BitVec.ofInt 32 i
def fabs (w : Word) : Word := w &&& 0x7FFFFFFF

def sumI (l : List Int) : Int := l.foldl (· + ·) 0
/-- fp32 additions in order, from zero. -/
def sumF (l : List Word) : Word := l.foldl fadd 0

/-- High byte, signed, and low byte of an int16. -/
def hi8 (c : BitVec 16) : Int := (c.toInt - (c.toNat % 256 : Nat)) / 256
def lo8 (c : BitVec 16) : Int := (c.toNat % 256 : Nat)

/-- One output: the sum of products of a column of weights with the vector; int16 gives the components hh, hl, lh, ll. -/
def dot (float : Bool) (wide : Bool) (wt at' : Nat) (w x : List (BitVec 16)) : List Word :=
  let z := w.zip x
  if float then [sumF (z.map (fun p => fmul (widen p.1.toNat wt) (widen p.2.toNat at')))]
  else if wide then
    [wordOf (sumI (z.map (fun p => hi8 p.1 * hi8 p.2))), wordOf (sumI (z.map (fun p => hi8 p.1 * lo8 p.2))),
     wordOf (sumI (z.map (fun p => lo8 p.1 * hi8 p.2))), wordOf (sumI (z.map (fun p => lo8 p.1 * lo8 p.2)))]
  else [wordOf (sumI (z.map (fun p => intOf p.1 * intOf p.2)))]

def transpose (l : List (List (BitVec 16))) (n : Nat) : List (List (BitVec 16)) :=
  (List.range n).map (fun j => l.map (fun r => (r[j]?).getD 0))

/-- The lines of weights that the vector's elements meet: rows in normal mode, columns in transposed mode. -/
def WTile.lines (w : WTile) (xpose : Bool) : List (List (BitVec 16)) := if xpose then transpose w.rows w.org.outs else w.rows

/-- The check sum and the bound base of one vector. -/
def checkSums (float : Bool) (wt at' : Nat) (lines : List (List (BitVec 16))) (x : List (BitVec 16)) : Word × Word :=
  let z := lines.zip x
  if float then
    (sumF (z.map (fun p => fmul (sumF (p.1.map (fun c => widen c.toNat wt))) (widen p.2.toNat at'))),
     sumF (z.map (fun p => fmul (sumF (p.1.map (fun c => fabs (widen c.toNat wt)))) (fabs (widen p.2.toNat at')))))
  else (wordOf (sumI (z.map (fun p => (wordOf (sumI (p.1.map intOf))).toInt * intOf p.2))), 0)

/-- Upsets of vector m of a row. -/
def upsetRow (ups : List Upset) (m : Nat) (r : ArrRow) : ArrRow :=
  (ups.filter (fun u => u.vec == m)).foldl (fun r u =>
    match r.outs[u.col]? with
    | some (w :: ws) => { r with outs := r.outs.set u.col ((w ^^^ u.flip) :: ws) }
    | _ => { r with sChk := r.sChk ^^^ u.flip }) r

/-- The row of vector m with value v, which entered in cycle c. -/
def Feed.row (f : Feed) (m : Nat) (v : List (BitVec 16) × Int) (c : Nat) : ArrRow :=
  let w := f.wt
  let at' := f.cmd.arr.atype
  let float := isFloat w.wtype
  let sums := if f.cmd.arr.xpose then w.rows else transpose w.rows w.org.outs
  let (chk, base) := checkSums float w.wtype at' (w.lines f.cmd.arr.xpose) v.1
  upsetRow f.ups m { tile := f.tile, cmd := f.cmd, org := w.org, float := float, vec := m
                     outs := sums.map (fun l => dot float w.org.wide w.wtype at' l v.1)
                     sChk := chk, base := base, exp := v.2, enter := c }

/-! ## The freeze (R36 to R39) -/

/-- The cycle that lies k array cycles after cycle f: a frozen cycle delays by one cycle what is due in it or after it. -/
def thaw (frozen : List Nat) (f k : Nat) : Nat :=
  frozen.foldl (fun t c => if f < c && c ≤ t then t + 1 else t) (f + k)

/-- A cycle in rising order into a list. -/
def insCycle (c : Nat) : List Nat → List Nat
  | [] => [c]
  | d :: l => if c < d then c :: d :: l else d :: insCycle c l

/-- A frozen cycle delays what is scheduled at t for work that began in cycle b. -/
def delayed (b c t : Nat) : Nat := if b < c && c < t then t + 1 else t

/-- A frozen cycle after cycle since, with work in flight, that has not been told before: it delays the load and the
tile under way, each of its conditions is counted, and FROZEN once. -/
def State.freezeCycle (s : State) (n since : Nat) (c : FrozenCycle) : State :=
  let a := (s.slice n).arr
  if c.cyc ≤ since || a.activeTo ≤ c.cyc || a.frozen.contains c.cyc then s else
  let s := s.modArr n (fun a => { a with
    frozen := insCycle c.cyc a.frozen, activeTo := a.activeTo + 1
    loadEnd := delayed (a.lastLoad.getD 0) c.cyc a.loadEnd, enterEnd := delayed (a.lastEnter.getD 0) c.cyc a.enterEnd })
  let s := s.count Obj.arrFrozen n
  let s := if c.feedA then s.count Obj.feedAStall n else s
  let s := if c.feedB then s.count Obj.feedBStall n else s
  if c.drain then s.count Obj.drainStall n else s

def State.freeze (s : State) (n since : Nat) (fr : List FrozenCycle) : State := fr.foldl (fun s c => s.freezeCycle n since c) s

/-- Frozen cycles before cycle c delay nothing more once no vector is in flight. -/
def Arr.forget (a : Arr) (c : Nat) : Arr :=
  if a.feed.isNone && a.rows.isEmpty then { a with frozen := a.frozen.filter (fun d => decide (c ≤ d)) } else a

/-- ARR_ACTIVE: the cycles of k array cycles of work from cycle c on that no earlier work has counted. -/
def State.countActive (s : State) (n c k : Nat) : State :=
  let a := (s.slice n).arr
  let z := thaw a.frozen c k
  let f := max c a.activeTo
  (s.count Obj.arrActive n (z - f - (a.frozen.filter (fun d => decide (f ≤ d) && decide (d < z))).length)).modArr n
    (fun a => { a with activeTo := max a.activeTo z })

/-! ## Feeder A (R28, R37) -/

/-- The next vector of the buffer enters the grid in cycle c. When the last has entered, an ISSUE whose vectors these
were is done and its unit free. -/
def State.feedEnter (s : State) (n : Nat) (f : Feed) (c : Nat) : State :=
  match f.buffer with
  | [] => s
  | v :: rest =>
    let g := { f with entered := f.entered + 1, buffer := rest }
    let final := decide (f.count ≤ g.entered)
    let s := s.modArr n (fun a => { a with
      feed := if final then none else some g, rows := a.rows ++ [f.row f.entered v c]
      fwdIssue := if final && f.cmd.fa.mode == 2 then none else a.fwdIssue })
    let s := s.count (if f.cmd.arr.xpose then Obj.arrVectorsT else Obj.arrVectors) n
    if final then s.startXfm n else s

/-- The next vector is read from the tile store into the buffer. -/
def State.feedRead (s : State) (n : Nat) (f : Feed) : State :=
  let x := s.slice n
  match x.badRead (f.rows f.sent) with
  | some r => s.engineFault n 3 f.cmd.tag.toNat (r * 128)
  | none =>
    let s := s.modArr n (fun a => { a with
      feed := some { f with sent := f.sent + 1, buffer := f.buffer ++ [x.vector f f.sent] } })
    s.eccReads n (f.rows f.sent) f.ecc

/-- Feeder A up to cycle c, one vector: the next one due enters; while fewer than 8 vectors are read and not entered,
the next one is read. -/
def State.feedStep (s : State) (n c : Nat) : State :=
  match (s.slice n).arr.feed with
  | none => s
  | some f =>
    let e := thaw (s.slice n).arr.frozen f.start f.entered
    if !f.buffer.isEmpty && e ≤ c then s.feedEnter n f e
    else if f.sent < f.count && f.buffer.length < 8 then s.feedRead n f else s

def State.feedSteps (n c : Nat) : Nat → State → State
  | 0, s => s
  | k + 1, s => State.feedSteps n c k (s.feedStep n c)

/-- What the ports and Feeder A have done by cycle c. -/
def State.feedTo (s : State) (n c : Nat) : State :=
  let s := State.portsTo n c (s.slice n).store.pend.length s
  match (s.slice n).arr.feed with | none => s | some f => State.feedSteps n c (2 * f.count) s

/-! ## Commands -/

/-- The shadow registers may be loaded: they are free, or hold weights of an FB slot that no waiting tile command takes,
because a later FB slot came before it (R122). -/
def Arr.shadowFree (a : Arr) (num : Nat) : Bool :=
  match a.shadow with
  | none => true
  | some w => w.num < num && !a.waitTiles.any (fun c => !c.arr.cont && c.fbNum == w.num)

/-- WEIGHT_LOAD_START (R31, R33, R36): Feeder B reads the first row in cycle cyc. -/
def execWeightLoadStart (sl : SliceId) (l : LoadStart) (s : State) : Host.Outcome State Fault Refusal :=
  let u := s.feedTo sl l.cyc
  let x := u.slice sl
  match x.arr.waitLoad with
  | none => done s u
  | some c =>
    if !x.arr.shadowFree c.num || decide (l.cyc < x.arr.loadEnd) || decide (l.cyc < x.arr.lastEnter.getD 0)
        || x.arr.frozen.contains l.cyc then done s u
    else match x.badRead c.reads with
      | some r => done s (u.engineFault sl 4 c.tag.toNat (r * 128))
      | none =>
        let w : WTile := { num := c.num, tag := c.tag, wtype := c.gridType, org := c.org, rows := x.weights c, start := l.cyc }
        let t := u.modArr sl (fun a => { a.forget l.cyc with
          waitLoad := none, shadow := some w, lastLoad := some l.cyc, loadEnd := thaw a.frozen l.cyc c.org.rows })
        let t := ((t.count Obj.arrTiles sl).countActive sl l.cyc (c.org.rows + 128)).freeze sl l.cyc l.frozen
        done s (t.eccReads sl c.reads l.ecc)

/-- The weights with which a waiting tile command would start in cycle cyc: those of the most recent FB slot before it
(R32, R33, R122). -/
def Arr.tileWeights (a : Arr) (c : TileCmd) (cyc : Nat) : Option WTile :=
  if c.arr.cont then a.active
  else match a.shadow with
    | some w => if w.num == c.fbNum && w.start + 1 ≤ cyc then some w else none
    | none => none

/-- A change between the 8-bit or int4 organisations and the 16-bit one, or of the mode, waits for the grid and the deskew
buffer to empty (R35). -/
def Arr.changes (a : Arr) (w : WTile) (c : TileCmd) : Bool :=
  a.rows.any (fun r => r.org.wide != w.org.wide || r.cmd.arr.xpose != c.arr.xpose)

/-- TILE_START (R32 to R39, R42): the first vector enters in cycle cyc. Marked in log entry 50: a CONT is a tile of its
own (R52). -/
def execTileStart (sl : SliceId) (cyc : Nat) (fr : List FrozenCycle) (y : TileFaults) (s : State) :
    Host.Outcome State Fault Refusal :=
  let u := s.feedTo sl cyc
  let x := u.slice sl
  match x.arr.waitTiles with
  | [] => done s u
  | c :: rest =>
    match x.arr.tileWeights c cyc with
    | none => done s u
    | some w =>
      if decide (cyc < x.arr.enterEnd) || x.arr.feed.isSome || x.arr.changes w c || x.arr.frozen.contains cyc
          || (c.fa.mode == 2 && x.arr.fwdIssue.isNone) then done s u
      else
        let k := if c.fa.mode == 2 then min c.fa.count ((x.arr.fwdIssue.map (fun i => i.vecs.length)).getD 0) else c.fa.count
        let c := { c with entry := x.chainEntry c.drn.chain }
        let f : Feed := { cmd := c, tile := x.arr.nextTile, wt := w, start := cyc, ups := y.upsets, ecc := y.ecc
                          win := x.winEntry c.fa.win, count := k, sent := 0, entered := 0, buffer := [] }
        let t := u.modArr sl (fun a => { a.forget cyc with
          waitTiles := rest, nextTile := a.nextTile + 1, lastEnter := some cyc, enterEnd := thaw a.frozen cyc k
          active := some w, shadow := if c.arr.cont then a.shadow else none, feed := some f })
        done s (((t.countActive sl cyc (k + 256)).freeze sl cyc fr).feedTo sl cyc)

end Sys2Proof.Machine
end

