-- ==== Sys2Proof/Machine/Memory.lean ====
section
/-! DEFINITION. GDDR6: request sorters, check blocks, scrub, heat and migration (R198 to R225). -/

namespace Sys2Proof.Machine

/-! ## Places (R202, R207) -/

/-- A place in a channel: bank, row and byte of the row. -/
structure Place where
  bank : Nat
  row  : Nat
  byte : Nat
  deriving DecidableEq, Repr

/-- Where a device address lies in its channel (R207). -/
def State.placeOf (s : State) (a : Nat) : Place :=
  let e := s.entry (a / pageBytes)
  let i := a % pageBytes / 64
  { bank := (i / 16) ^^^ e.seed, row := e.slot / 2, byte := 1024 * (e.slot % 2) + 64 * (i % 16) + a % 64 }

/-- Data block of its channel: slot × 256 + block within the page (R202). -/
def State.dataBlock (s : State) (a : Nat) : Nat := (s.entry (a / pageBytes)).slot * 256 + a % pageBytes / 64

/-- The check block that holds the code of data block d, and the byte of the code in it (R201, R202). -/
def checkBlock (d : Nat) : Nat := d / 16
def codeByte (d : Nat) : Nat := 4 * (d % 16)
def checkPlace (k : Nat) : Place := { bank := k % 16, row := 30720 + k / 16 / 32, byte := 64 * (k / 16 % 32) }

/-- What the code of a block makes of the bytes it finds wrong (R201). -/
def eccKind (e : MemErr) : EccKind := if e = 0 then .clean else if e ≤ 2 then .correctable else .uncorrectable

/-! ## Sorters -/

def SortReq.block (r : SortReq) : Nat := r.addr / 64

def Channel.parkedIn (c : Channel) (b : Nat) : Nat := (c.sorter.filter (fun r => r.bank == b && r.admitted.isNone)).length
def Channel.admittedIn (c : Channel) (b : Nat) : Nat := (c.sorter.filter (fun r => r.bank == b && r.admitted.isSome)).length
/-- Requests not yet issued to the device. -/
def Channel.unissued (c : Channel) : Nat := (c.sorter.filter (fun r => !r.issued)).length

/-- Admitted requests of a source whose resource is not one of an engine's tags or miss registers. -/
def State.holding (s : State) (src : ReqSource) : Nat :=
  sumOf (fun c => (c.2.sorter.filter (fun r => r.admitted.isSome && decide (r.source = src ∧ r.link = .other))).length)
    s.mem.chans

/-- A source has a free resource (Table — Requests in flight). -/
def State.hasResource (s : State) (src : ReqSource) : Bool :=
  match src with
  | .slice n => decide (s.holding src + (s.slice n).store.tags.length < 2048)
  | .cluster n k => decide (s.holding src + (s.cluster (n.val * 16 + k.val)).misses.length < 32)
  | .media => decide (s.holding src < 1024)

/-- Bank and sorter have room for a parked request (R222). -/
def Channel.room (c : Channel) (b : Nat) : Bool := decide (c.parkedIn b < 64) && decide (c.unissued < 512)

/-- A request of bank b may be admitted now: channels retrain before they admit any request after a warm reset
(R211). -/
def State.admits (s : State) (c b : Nat) (src : ReqSource) : Bool :=
  decide ((s.chan c).admittedIn b < 128) && s.hasResource src && !s.rst.memHeld && !(s.chan c).waking

/-- A request enters its channel's sorter parked. -/
def State.park (s : State) (c : Nat) (r : MemReq) (l : ReqLink) : State :=
  let p := s.placeOf r.addr
  let waits := !(s.admits c p.bank r.source && (s.chan c).parkedIn p.bank == 0)
  let q : SortReq := { id := s.mem.nextReq, source := r.source, link := l, addr := r.addr, write := r.write, data := r.data
                       mask := r.mask, bank := p.bank, row := p.row, admitted := none, issued := false
                       aged := false, tries := 0, retrained := false }
  let s := s.modChan c (fun x => { x with sorter := x.sorter ++ [q] })
  let s := { s with mem := { s.mem with nextReq := s.mem.nextReq + 1 } }
  let s := s.peak Obj.chSortPeak c (s.chan c).unissued
  if waits then s.count Obj.chParked c else s

/-- Requests waiting at their source enter while there is room; one that cannot blocks the later ones of its source
(R222). -/
def State.pull (c : Nat) : List (MemReq × ReqLink) → List ReqSource → State → State
  | [], _, s => s
  | r :: l, blocked, s =>
    if blocked.contains r.1.source || !(s.chan c).room (s.placeOf r.1.addr).bank then
      State.pull c l (r.1.source :: blocked) (s.modChan c (fun x => { x with waiting := x.waiting ++ [r] }))
    else State.pull c l blocked (s.park c r.1 r.2)

def State.pullAll (s : State) (c : Nat) : State :=
  let l := (s.chan c).waiting
  State.pull c l [] (s.modChan c (fun x => { x with waiting := [] }))

/-- A channel takes a request: parked in its sorter, or waiting at its source (R222). -/
def State.enqueue (s : State) (c : Nat) (r : MemReq) (l : ReqLink) : State :=
  if (s.chan c).waiting.any (fun w => decide (w.1.source = r.source)) || !(s.chan c).room (s.placeOf r.addr).bank then
    s.modChan c (fun x => { x with waiting := x.waiting ++ [(r, l)] })
  else s.park c r l

/-- A request reaches a channel: its page is backed by one in service. -/
def State.served (s : State) (a : Nat) : Bool :=
  (s.entry (a / pageBytes)).backed && s.chInService (s.entry (a / pageBytes)).channel

/-- SORTER_ENQUEUE (R222). A request to a retired channel or an unbacked page ends with an error at its source. -/
def execSorterEnqueue (r : MemReq) (s : State) : Host.Outcome State Fault Refusal :=
  .next (if s.served r.addr then s.enqueue (s.entry (r.addr / pageBytes)).channel r .other else s)

/-- One more request admitted to a page: HEAT rises for every 64 (R215). -/
def State.heatUp (s : State) (page : Nat) : State :=
  let e := s.entry page
  if !e.backed then s else
  let n := tget 0 s.mem.admits page + 1
  if n < 64 then { s with mem := { s.mem with admits := tput s.mem.admits page n } }
  else ({ s with mem := { s.mem with admits := tdel s.mem.admits page } }).setEntry page { e with heat := min 255 (e.heat + 1) }

/-- An admitted request of an engine takes its tag or miss register (R103, R185, R221). -/
def State.takeRes (s : State) (ch : Nat) (q : SortReq) : State :=
  match q.link, q.source with
  | .dma uid pos len, .slice n =>
    let l := (s.slice n).store.tags
    let e : TagEntry := { tag := lowestFree 0 ((l.map (·.tag)).foldl ins []), uid := uid, out := q.write, pos := pos, len := len
                          addr := q.addr, since := s.clk.now, ch := ch, req := q.id, data := q.data }
    (s.modStore n (fun t => { t with tags := t.tags ++ [e] })).peak Obj.dmaTagsPeak n (l.length + 1)
  | link, .cluster n k =>
    let what : Option MissFor := match link with
      | .line true => some .code
      | .line false => some .const
      | .cdma uid pos len => some (.dma uid pos len q.data)
      | _ => none
    match what with
    | none => s
    | some w => s.modCluster (n.val * 16 + k.val) (fun c => { c with misses := c.misses ++ [
        { slot := lowestFree 0 ((c.misses.map (·.slot)).foldl ins []), what := w, addr := q.addr, since := s.clk.now
          ch := ch, req := q.id }] })
  | _, _ => s

/-- The bank's first parked request is admitted, if it may be (R222, R223). -/
def State.admitFirst (s : State) (ch bank : Nat) : State :=
  match (s.chan ch).sorter.find? (fun r => r.bank == bank && r.admitted.isNone) with
  | none => s
  | some r =>
    if s.admits ch bank r.source then
      let s := s.modChan ch (fun x => { x with sorter := x.sorter.map (fun q =>
        if q.id == r.id then { q with admitted := some s.clk.now } else q) })
      ((s.takeRes ch r).heatUp (r.addr / pageBytes)).pullAll ch
    else s

/-- REQUEST_ADMIT (R222, R223): the bank's first parked request is admitted while the bank has fewer than 128 and its
source a free resource. -/
def execRequestAdmit (ch : ChanId) (bank : Fin 16) (s : State) : Host.Outcome State Fault Refusal :=
  .next (s.admitFirst ch bank)

/-- An engine sends a request: it enters its channel's sorter and is admitted in this cycle if it may be (R222). -/
def State.send (s : State) (r : MemReq) (l : ReqLink) : State :=
  let c := (s.entry (r.addr / pageBytes)).channel
  let first := (s.chan c).parkedIn (s.placeOf r.addr).bank == 0
  let t := s.enqueue c r l
  if first then t.admitFirst c (s.placeOf r.addr).bank else t

/-- A request may issue: admitted, not issued, no earlier request to its block before it, no partial write of the block
under way (R203, R224). -/
def Channel.mayIssue (c : Channel) (r : SortReq) : Bool :=
  r.admitted.isSome && !r.issued &&
    c.sorter.all (fun q => q.id == r.id || q.block != r.block || q.admitted.isNone ||
      (if q.issued then !(q.write && q.mask.contains false)
       else decide (r.admitted.getD 0 < q.admitted.getD 0) || (r.admitted == q.admitted && decide (r.id < q.id))
         || (!q.write && !r.write)))

/-- The choice of R224: age, open row, then oldest. -/
def Channel.choose (c : Channel) (now : Nat) : Option SortReq :=
  let cand := c.sorter.filter c.mayIssue
  let oldest := minBy (fun r : SortReq => r.admitted.getD 0)
  match oldest (cand.filter (fun r => r.aged || decide (r.admitted.getD 0 + 4 * us ≤ now))) with
  | some r => some r
  | none => match oldest (cand.filter (fun r => tfind c.openRows r.bank == some r.row)) with
    | some r => some r
    | none => oldest cand

/-- The check block of a block that is read is read first, unless the controller caches it; with 64 cached one that the
spec does not name leaves (R202). -/
def State.readCheck (s : State) (ch a : Nat) : State :=
  let k := checkBlock (s.dataBlock a)
  if (s.chan ch).checks.contains k then s else
  let p := checkPlace k
  let (v, s) := s.draw
  s.modChan ch (fun x => { x with
    openRows := tput x.openRows p.bank p.row
    checks := (if x.checks.length < 64 then x.checks else x.checks.eraseIdx (v % 64)) ++ [k] })

/-- SORTER_ISSUE (R224): reads of one block waiting at once are served by one access. A retraining channel issues
nothing (R200). -/
def execSorterIssue (ch : ChanId) (s : State) : Host.Outcome State Fault Refusal :=
  let c := s.chan ch
  .next (
    if c.retraining || !s.chInService ch || s.rst.memHeld then s else
    match c.choose s.clk.now with
    | none => s
    | some r =>
      let s := if !r.write || r.mask.contains false then s.readCheck ch r.addr else s
      let s := s.modChan ch (fun x => { x with
        openRows := tput x.openRows r.bank r.row
        sorter := x.sorter.map (fun q =>
          if q.id == r.id || (!r.write && !q.write && q.block == r.block && c.mayIssue q) then { q with issued := true }
          else q) })
      s.pullAll ch)

/-- REQUEST_AGE_OVER (R224, R225): 4 µs after admission a request is counted and goes first. -/
def execRequestAgeOver (ch : ChanId) (id : Nat) (s : State) : Host.Outcome State Fault Refusal :=
  .next (
    match (s.chan ch).sorter.find? (fun r => r.id == id && !r.issued && !r.aged) with
    | none => s
    | some r => match r.admitted with
      | none => s
      | some t =>
        let s := s.advanceTo (t + 4 * us)
        (s.modChan ch (fun x => { x with sorter := x.sorter.map (fun q =>
          if q.id == id then { q with aged := true } else q) })).count Obj.chAgeOver ch)

/-! ## Bursts and ECC -/

def State.markBad (s : State) (a : Nat) : State :=
  { s with mem := { s.mem with badBlocks := ins s.mem.badBlocks (s.blockAt a) } }
def State.unmarkBad (s : State) (a : Nat) : State :=
  { s with mem := { s.mem with badBlocks := s.mem.badBlocks.filter (· != s.blockAt a) } }

/-- The block at device address a is rewritten from the mirror copy (R204). -/
def State.restore (s : State) (a : Nat) : State :=
  match tfind s.mem.mirrors (a / pageBytes) with
  | none => s
  | some (d, k) =>
    let off := a % pageBytes / 64 * 64
    let m := cputs s.mem.bytes ((s.entry (a / pageBytes)).at off) (cgets s.mem.bytes (phys d k off) 64)
    ({ s with mem := { s.mem with bytes := m } }).unmarkBad a

/-- What a read of the block at address a finds (R204): whether good data was delivered, and the state after it. A block
found uncorrectable stays so until it is written anew (R203). -/
def State.eccRead (s : State) (c a : Nat) (ecc : MemErr) : Bool × State :=
  match if s.mem.badBlocks.contains (s.blockAt a) then .uncorrectable else eccKind ecc with
  | .clean => (true, s)
  | .correctable => (true, s.count Obj.chEccCorr c)
  | .uncorrectable =>
    let s := s.markBad a
    if (tfind s.mem.mirrors (a / pageBytes)).isSome && !s.blockLost a then
      (true, ((s.restore a).count Obj.chEccCorr c).uncorrErr c)
    else (false, s.memFault c (a / 64 * 64))

/-- The block at address a as a read finds it (R204): whether it can be read, after its restoration from the mirror copy
or the memory fault. -/
def State.hostBlock (s : State) (a : Nat) : Bool × State :=
  let c := (s.entry (a / pageBytes)).channel
  if !s.mem.badBlocks.contains (s.blockAt a) then (true, s)
  else if s.blockLost a then (false, s.memFault c (a / 64 * 64))
  else (true, ((s.restore a).count Obj.chEccCorr c).uncorrErr c)

/-- Blocks of a region, by block number. -/
def blocksOf (a n : Nat) : List Nat := if n == 0 then [] else (List.range ((a + n - 1) / 64 - a / 64 + 1)).map (fun i => a / 64 + i)

/-- The poisoned read of a run is a failed check of it (R398). -/
def State.poison (s : State) (src : ReqSource) : State :=
  match reqSlice src with | some n => s.failRun n 0x11 | none => s

/-- Bytes of a block under the byte mask of a write. -/
def mergeBlock : Bytes → Bytes → List Bool → Bytes
  | o :: os, d :: ds, m :: ms => (if m then d else o) :: mergeBlock os ds ms
  | os, _, _ => os

/-- The byte mask of n bytes from offset o of a block on. -/
def blockMask (o n : Nat) : List Bool := (List.range 64).map (fun i => decide (o ≤ i ∧ i < o + n))

/-- The request leaves the sorter; its bank's admitted count falls (R223). -/
def State.retireReq (s : State) (ch : Nat) (ids : List Nat) : State :=
  (s.modChan ch (fun x => { x with sorter := x.sorter.filter (fun q => !ids.contains q.id) })).pullAll ch

/-- Requests of one block that are not both reads complete in their admission order: r is not behind another (R224). -/
def Channel.inOrder (c : Channel) (r : SortReq) : Bool :=
  c.sorter.all (fun q => q.id == r.id || q.block != r.block || (!q.write && !r.write) || q.admitted.isNone ||
    decide (r.admitted.getD 0 < q.admitted.getD 0) || (r.admitted == q.admitted && decide (r.id < q.id)))

/-- The access of an engine's request to its block (R203, R204): whether it succeeded, and the state after it. Its engine
moves the bytes. -/
def State.access (s : State) (ch : Nat) (r : SortReq) (ecc : MemErr) : Bool × State :=
  if r.write && !r.mask.contains false then (true, (s.unmarkBad r.addr).count Obj.chBytesWr ch 64)
  else
    let (good, s) := s.eccRead ch r.addr ecc
    (good, if !r.write then s.count Obj.chBytesRd ch 64 else if good then s.count Obj.chBytesWr ch 64 else s)

/-- Whether request number id of channel ch may complete its access now: it has been issued or may be, its channel is in
command, and no earlier request of its block is in the way. -/
def State.mayFinish (s : State) (ch id : Nat) : Option SortReq :=
  let c := s.chan ch
  if c.retraining || s.rst.memHeld then none
  else c.sorter.find? (fun r => r.id == id && (r.issued || c.mayIssue r) && c.inOrder r)

/-- Requests of slice n's descriptor uid that are not admitted yet: their positions. -/
def State.parkedPos (s : State) (n uid : Nat) : List Nat :=
  let pos (src : ReqSource) (l : ReqLink) : Option Nat := if reqSlice src != some n then none else match l with
    | .dma u p _ => if u == uid then some p else none
    | .cdma u p _ => if u == uid then some p else none
    | _ => none
  s.mem.chans.flatMap (fun c =>
    (c.2.sorter.filter (fun r => r.admitted.isNone)).filterMap (fun r => pos r.source r.link)
      ++ c.2.waiting.filterMap (fun w => pos w.1.source w.2))

def State.modReq (s : State) (ch id : Nat) (f : SortReq → SortReq) : State :=
  s.modChan ch (fun x => { x with sorter := x.sorter.map (fun q => if q.id == id then f q else q) })

/-- The link of a channel is retrained; 16 retrainings within 1 s retire the channel (R200). -/
def State.retrain (s : State) (ch : Nat) : State :=
  let l := ((s.chan ch).retrains.filter (fun t => decide (s.clk.now < t + 1000 * ms))) ++ [s.clk.now]
  let s := (s.modChan ch (fun x => { x with retraining := true, retrains := l })).count Obj.chRetrain ch
  if 16 ≤ l.length then s.retireChannel ch else s

/-- RETRAIN_DONE (R200): the burst is retried once more, or the failed retraining retires the channel. -/
def execRetrainDone (ch : ChanId) (ok : Bool) (s : State) : Host.Outcome State Fault Refusal :=
  if !(s.chan ch).retraining || s.rst.memHeld then .next s
  else if !ok then done s (s.retireChannel ch)
  else
    let n := ((s.chan ch).sorter.filter (fun r => r.tries == 4 && !r.retrained)).length
    .next ((s.modChan ch (fun x => { x with retraining := false, waking := false, sorter := x.sorter.map (fun q =>
      if q.tries == 4 then { q with retrained := true } else q) })).count Obj.chEdcRetry ch n)

/-- MIRROR_REPLACE (R220): a new mirror copy on another device than the copy that is left. -/
def execMirrorReplace (page : Nat) (s : State) : Host.Outcome State Fault Refusal :=
  let e := s.entry page
  .next (
    if !(s.mem.remirror.any (fun m => m.1 == page)) then s
    else if !(e.backed && e.mirror) then
      { s with mem := { s.mem with remirror := s.mem.remirror.filter (fun m => m.1 != page) } }
    else match nextChan (fun d => s.freeSlots d != 0 && d / 2 != e.channel / 2) e.channel with
      | none => s
      | some d =>
        let (k, s) := s.takeSlot d
        let m := cputs s.mem.bytes (phys d k 0) (cgets s.mem.bytes (e.at 0) pageBytes)
        { s with mem := { s.mem with
          bytes := m, mirrors := tput s.mem.mirrors page (d, k)
          remirror := s.mem.remirror.filter (fun m => m.1 != page) } })

/-- The page that a slot of a channel backs, as first copy. -/
def State.pageAt (s : State) (c k : Nat) : Option Nat :=
  (s.mem.table.find? (fun e => e.2.backed && e.2.channel == c && e.2.slot == k)).map (·.1)

/-- The page whose mirror copy a slot of a channel holds. -/
def State.mirrorAt (s : State) (c k : Nat) : Option Nat :=
  (s.mem.mirrors.find? (fun m => m.2.1 == c && m.2.2 == k)).map (·.1)

/-- A block of a mirror copy is rewritten from the page's first copy. -/
def State.restoreMirror (s : State) (c k a : Nat) : State :=
  let off := a % pageBytes / 64 * 64
  { s with mem := { s.mem with
      bytes := cputs s.mem.bytes (phys c k off) (cgets s.mem.bytes ((s.entry (a / pageBytes)).at off) 64)
      badBlocks := s.mem.badBlocks.filter (· != phys c k off / 64) } }

/-- What a scrub of the block of a mirror copy in slot k of channel c finds: it is corrected from the first copy, unless
that is uncorrectable too (R204, R205). -/
def State.eccMirror (s : State) (c k a : Nat) (ecc : MemErr) : State :=
  let b := phys c k (a % pageBytes) / 64
  match if s.mem.badBlocks.contains b then .uncorrectable else eccKind ecc with
  | .clean => s
  | .correctable => s.count Obj.chEccCorr c
  | .uncorrectable =>
    if s.mem.badBlocks.contains (s.blockAt a) then
      ({ s with mem := { s.mem with badBlocks := ins s.mem.badBlocks b } }).memFault c (a / 64 * 64)
    else ((s.restoreMirror c k a).count Obj.chEccCorr c).uncorrErr c

/-- SCRUB_READ (R205): one block of a backed slot, in a cycle in which no admitted request of that bank waits; a channel
that retrains issues nothing (R200). -/
def execScrubRead (ch : ChanId) (slot : Nat) (block : Fin 256) (ecc : MemErr) (s : State) :
    Host.Outcome State Fault Refusal :=
  let page := (s.pageAt ch slot).or (s.mirrorAt ch slot)
  match page with
  | none => .next s
  | some p =>
    let a := p * pageBytes + 64 * block.val
    if !s.chInService ch || (s.chan ch).retraining || s.rst.memHeld ||
        (s.chan ch).sorter.any (fun r => r.admitted.isSome && !r.issued && r.bank == (s.placeOf a).bank) then .next s
    else if (s.pageAt ch slot).isSome then done s (s.eccRead ch a ecc).2
    else done s (s.eccMirror ch slot a ecc)

/-! ## Heat and migration (R214 to R218) -/

/-- HEAT_DECAY (R215). -/
def execHeatDecay (s : State) : Host.Outcome State Fault Refusal :=
  .next { s with mem := { s.mem with
    table := s.mem.table.map (fun e => (e.1, { e.2 with heat := e.2.heat / 2 })) } }

def State.chanHeat (s : State) (c : Nat) : Nat :=
  sumOf (fun e => if e.2.backed && e.2.channel == c then e.2.heat else 0) s.mem.table

/-- A positive binary32 as mantissa and exponent: value = m × 2^(e − 150). -/
def f32Parts (n : Nat) : Nat × Nat :=
  let e := n / 2 ^ 23 % 256
  if e == 0 then (n % 2 ^ 23, 1) else (n % 2 ^ 23 + 2 ^ 23, e)

/-- a × 1 > f × b for a positive binary32 f. -/
def exceeds (a f b : Nat) : Bool :=
  let (m, e) := f32Parts f
  if 150 ≤ e then decide (m * 2 ^ (e - 150) * b < a) else decide (m * b < a * 2 ^ (150 - e))

/-- MIGRATION_CHECK (R216): the hottest STABLE unmirrored page of the hottest channel moves to the coolest. busy lists
the channels that carried at least half their raw rate over the previous 1 ms. -/
def execMigrationCheck (busy : List ChanId) (s : State) : Host.Outcome State Fault Refusal :=
  let chans := upTo 12 s.chInService
  let total := sumOf s.chanHeat chans
  let times := s.mem.migTimes.filter (fun t => decide (s.clk.now < t + 1000 * ms))
  let s := { s with mem := { s.mem with migTimes := times } }
  .next (
    match minBy (fun c => 2 ^ 32 - s.chanHeat c) chans, minBy s.chanHeat chans with
    | some h, some l =>
      let fit := exceeds (s.chanHeat h * chans.length) (s.num Obj.migSkew) total
        && !(busy.any (fun b => b.val == h || b.val == l)) && decide (times.length < s.num Obj.migRate)
        && decide (s.mem.migs.length < 4) && s.freeSlots l != 0
      let pages := s.mem.table.filter (fun e =>
        e.2.backed && e.2.channel == h && e.2.mig == 0 && !e.2.mirror)
      match minBy (fun e : Nat × Entry => 255 - e.2.heat) pages with
      | some (p, e) =>
        if !fit then s else
        let (k, s) := s.takeSlot l
        let (v, s) := s.draw
        let s := s.setEntry p { e with mig := 1 }
        { s with mem := { s.mem with migs := s.mem.migs ++ [{ page := p, chan := l, slot := k, seed := v % 16 }] } }
      | none => s
    | _, _ => s)

/-- What the copy of a page finds in its blocks: the state after it, and whether every block was good. -/
def State.copyBlocks (s : State) (page : Nat) (errs : List (Fin 256 × MemErr)) : Bool × State :=
  (List.range 256).foldl (fun (x : Bool × State) b =>
    let err := match errs.find? (fun e => e.1.val == b) with | some e => e.2 | none => 0
    if !x.1 then x else x.2.eccRead (x.2.entry page).channel (page * pageBytes + 64 * b) err) (true, s)

/-- MIGRATION_COPY_DONE (R217, R218): COPY moves to COMMIT; an uncorrectable block abandons the migration and stays as
found in the source. -/
def execMigrationCopyDone (page : Nat) (errs : List (Fin 256 × MemErr)) (s : State) : Host.Outcome State Fault Refusal :=
  match s.mem.migs.find? (fun m => m.page == page) with
  | none => .next s
  | some m =>
    let e := s.entry page
    let (good, t) := s.copyBlocks page errs
    if e.mig != 1 then .next s
    else if !good then done s (t.abandonMig page)
    else
      let s := t
      let b := cputs s.mem.bytes (phys m.chan m.slot 0) (cgets s.mem.bytes (e.at 0) pageBytes)
      .next (({ s with mem := { s.mem with bytes := b } }).setEntry page { e with mig := 2 })

/-- Requests to a page that are not admitted leave the sorter of its old channel, and then use its new one (R217). -/
def State.movePending (s : State) (old page : Nat) : State :=
  let mine (a : Nat) : Bool := a / pageBytes == page
  let c := s.chan old
  let parked := (c.sorter.filter (fun r => r.admitted.isNone && mine r.addr)).map (fun r =>
    (({ source := r.source, addr := r.addr, write := r.write, data := r.data, mask := r.mask } : MemReq), r.link))
  let s := s.modChan old (fun x => { x with
    sorter := x.sorter.filter (fun r => r.admitted.isSome || !mine r.addr)
    waiting := x.waiting.filter (fun w => !mine w.1.addr) })
  (parked ++ c.waiting.filter (fun w => mine w.1.addr)).foldl (fun s w =>
    s.enqueue (s.entry page).channel w.1 w.2) s

/-- MIGRATION_UPDATE (R217): once every request admitted to the source slot has completed, the entry changes in one
update, and the source slot is zeroed and freed. -/
def execMigrationUpdate (page : Nat) (s : State) : Host.Outcome State Fault Refusal :=
  .next (
    match s.mem.migs.find? (fun m => m.page == page) with
    | none => s
    | some m =>
      let e := s.entry page
      if e.mig != 2 || (s.chan e.channel).sorter.any (fun r => r.admitted.isSome && r.addr / pageBytes == page) then s
      else
        let s := s.setEntry page { e with channel := m.chan, slot := m.slot, seed := m.seed, mig := 0 }
        let s := (s.retireSlot e.channel e.slot).movePending e.channel page
        { s with mem := { s.mem with
            migs := s.mem.migs.filter (fun x => x.page != page), migTimes := s.mem.migTimes ++ [s.clk.now] }
          }.count Obj.migrations)

/-- SLOT_ZERO_DONE (R213): the slot, written with zeros and their codes, returns to the free pool; the last one of an
UNLOAD ends it (R239). -/
def execSlotZeroDone (ch : ChanId) (slot : Nat) (s : State) : Host.Outcome State Fault Refusal :=
  done s (
    if !(s.chan ch).zeroing.contains slot then s else
    let s := s.modChan ch (fun x => { x with
      zeroing := x.zeroing.filter (· != slot), used := x.used.filter (· != slot) })
    { s with
      mem := { s.mem with
        bytes := cdrop s.mem.bytes (phys ch slot 0) pageBytes
        badBlocks := s.mem.badBlocks.filter (fun b => b / 256 != ch.val * slotCount + slot) }
      work := { s.work with ctxs := s.work.ctxs.map (fun (x : Nat × Ctx) =>
        (x.1, { x.2 with zeroing := x.2.zeroing.filter (fun z => z != (ch.val, slot)) })) } }.endUnloads)

/-- CH_CLEAR (R234): subindexes 02 to 0A of the channel. -/
def chRows : List ObjRow :=
  [Obj.chBytesRd, Obj.chBytesWr, Obj.chEdcRetry, Obj.chRetrain, Obj.chEccCorr, Obj.chEccUncorr,
   Obj.chSortPeak, Obj.chParked, Obj.chAgeOver]

/-- CH_CLEAR. -/
def execChClear (ch : ChanId) (w : CmdW) (s : State) : Host.Outcome State Fault Refusal :=
  done s (s.hostWrite (.chClear ch w) w Obj.chClear ch (clearRule chRows ch))

end Sys2Proof.Machine
end

