-- ==== Sys2Proof/Machine/Peers.lean ====
section
/-! DEFINITION. Peer transfers: PUT and GET frames between CN48 devices (R228 to R234). -/

namespace Sys2Proof.Machine

/-- TYPE codes of Table — Peer frame header. -/
def peerData := 1
def peerAck := 2
def peerGet := 3
def peerAbort := 4

/-- This device began the transfer. -/
def xferMine (t : Xfer) : Bool := t.item.isSome

/-- ADDR of a transfer's frames: its region at the device that is not the initiator (R230). -/
def xferAddr (t : Xfer) : Nat := if xferMine t then t.remote else t.loc

def xferIs (x : Word) (mine : Bool) (t : Xfer) : Bool := t.xfer == x && xferMine t == mine

def State.peerSend (s : State) (p : Nat) (f : PeerTx) : State := s.modPeer p (fun q => { q with tx := q.tx ++ [f] })

/-- A frame of transfer t that carries neither a segment nor data. -/
def plainTx (type : Nat) (t : Xfer) (ack status : Nat) : PeerTx :=
  { type := type, last := false, getReply := false, xfer := t.xfer, seq := 0, ack := ack
    addr := xferAddr t, total := t.total, status := status, data := [] }

/-- ABORT of a frame whose region is not served (R229). -/
def refuseTx (f : PeerFrame) : PeerTx :=
  { type := peerAbort, last := false, getReply := false, xfer := f.xfer, seq := 0, ack := 0
    addr := f.addr, total := f.total, status := St.pageRights, data := [] }

def State.modXfer (s : State) (p : Nat) (x : Word) (mine : Bool) (f : Xfer → Xfer) : State :=
  s.modPeer p (fun q => { q with xfers := q.xfers.map (fun t => if xferIs x mine t then f t else t) })

def State.dropXfer (s : State) (p : Nat) (x : Word) (mine : Bool) : State :=
  s.modPeer p (fun q => { q with xfers := q.xfers.filter (fun t => !xferIs x mine t) })

/-- A transfer ends: its identifier is kept for 100 ms (R233). -/
def State.closeXfer (s : State) (p : Nat) (x : Word) (mine : Bool) : State :=
  (s.dropXfer p x mine).modPeer p (fun q => { q with done := q.done ++ [(x, mine, s.clk.now)] })

def State.xfer (s : State) (p : Nat) (x : Word) (mine : Bool) : Option Xfer :=
  (s.peer p).xfers.find? (xferIs x mine)

/-- The transfer that an ACK or ABORT names. Each device chooses its own identifiers, so one that both chose is told
apart by its region (R230). -/
def State.xferOf (s : State) (p : Nat) (f : PeerFrame) : Option Xfer :=
  let l := (s.peer p).xfers.filter (fun t => t.xfer == f.xfer)
  match l.find? (fun t => xferAddr t == f.addr) with | some t => some t | none => l.head?

def State.wasXfer (s : State) (p : Nat) (x : Word) (mine : Bool) : Bool :=
  (s.peer p).done.any (fun d => d.1 == x && d.2.1 == mine)

/-- Segments of a transfer of n bytes with PEER_SEG of peer p. -/
def State.segments (s : State) (p n : Nat) : Nat := (n + s.num Obj.peerSeg p - 1) / s.num Obj.peerSeg p

/-- Bytes of segment q. -/
def State.segLen (s : State) (p total q : Nat) : Nat := min (s.num Obj.peerSeg p) (total - q * s.num Obj.peerSeg p)

/-- The blocks of a region that a device function reads or merges into: whether all can be read, after restorations and
memory faults (R203, R204). -/
def State.blocksRead (s : State) (l : List Nat) : Bool × State :=
  l.foldl (fun (x : Bool × State) b => ((x.2.hostBlock (b * 64)).1 && x.1, (x.2.hostBlock (b * 64)).2)) (true, s)

/-- DATA of segment q of a transfer this device sends. One that meets an uncorrectable block is not sent, so that the
transfer ends by its resends (R232; notes/assumptions/57.md). -/
def State.sendSegment (s : State) (p : Nat) (t : Xfer) (q : Nat) : State :=
  let n := s.segLen p t.total q
  let (good, s) := s.blocksRead (blocksOf (t.loc + q * s.num Obj.peerSeg p) n)
  if !good then s else
  let f : PeerTx :=
    { type := peerData, last := q + 1 == s.segments p t.total, getReply := t.get, xfer := t.xfer, seq := q, ack := 0
      addr := xferAddr t, total := t.total, status := 0
      data := s.readBytes (t.loc + q * s.num Obj.peerSeg p) n }
  (s.peerSend p f).count Obj.peerBytes p n

/-- At most 64 segments are unacknowledged (R231). -/
def State.fillWindow (s : State) (p : Nat) (x : Word) (mine : Bool) : State :=
  match s.xfer p x mine with
  | none => s
  | some t =>
    let top := min (s.segments p t.total) (t.acked + 64)
    let s := ((List.range top).filter (fun q => decide (t.next ≤ q))).foldl (fun s q => s.sendSegment p t q) s
    s.modXfer p x mine (fun t => { t with next := max t.next top })

/-- Peer p is in use. -/
def State.peerOn (s : State) (p : Nat) : Bool := s.num Obj.peerEnable p == 1

/-- Transfers in flight with every peer (R228). -/
def State.inFlight (s : State) : Nat := sumOf (fun q => q.2.xfers.length) s.peers

/-- A transfer region inside peer p's inbound window, every page backed with the right (R229); no system page, which only
device functions and the host reach (R209). -/
def State.windowOk (s : State) (p addr total : Nat) (put : Bool) : Bool :=
  let base := s.num Obj.winBase p
  decide (base ≤ addr) && decide (addr + total ≤ base + s.num Obj.winPages p * pageBytes) && decide (0 < total)
    && (s.num Obj.winRights p).testBit (if put then 0 else 1)
    && s.pagesOk (fun e => !e.sys && (if put then e.wr else e.rd)) addr total

/-- The command that began a transfer completes. -/
def State.endXferItem (s : State) (t : Xfer) (status : Nat) : State :=
  match t.item with | none => s | some (q, n) => s.finish q n (Finish.plain status)

/-- A DATA frame for a transfer under way: the next segment is written to memory, any other is answered with an ACK
(R231). A segment whose write meets an uncorrectable block is not accepted and not acknowledged (R203), and one whose length is not the
segment's is not accepted. -/
def State.takeData (s : State) (p : Nat) (t : Xfer) (f : PeerFrame) : State :=
  if f.seq != t.next then s.peerSend p (plainTx peerAck t t.acked 0)
  else
    let a := t.loc + f.seq * s.num Obj.peerSeg p
    let z := a + f.data.length
    let edges := ((if a % 64 != 0 then [a / 64] else []) ++ (if z % 64 != 0 then [z / 64] else [])).foldl ins []
    if f.data.length != s.segLen p t.total f.seq || f.data.isEmpty then s
    else
      let (good, s) := s.blocksRead edges
      if !good then s else
      ((s.writeBytes a f.data).modXfer p t.xfer (xferMine t) (fun t => { t with
        next := t.next + 1, accepted := t.accepted ++ [s.clk.now] })).count Obj.peerBytes p f.data.length

/-- PEER_DATA_RX (R229, R231, R233). -/
def execPeerDataRx (p : PeerId) (f : PeerFrame) (s : State) : Host.Outcome State Fault Refusal :=
  .next (
    if !s.peerOn p || s.wasXfer p f.xfer f.getReply then s
    else match s.xfer p f.xfer f.getReply with
      | some t => if t.sending then s else s.takeData p t f
      | none =>
        if f.getReply then s
        else if !s.windowOk p f.addr f.total true then s.peerSend p (refuseTx f)
        else
          let t : Xfer := { xfer := f.xfer, item := none, sending := false, get := false, loc := f.addr
                            remote := 0, total := f.total, acked := 0, next := 0, unacked := 0, accepted := [], since := s.clk.now
                            resends := 0 }
          (s.modPeer p (fun q => { q with xfers := q.xfers ++ [t] })).takeData p t f)

/-- The receiver acknowledges what the memory controller has acknowledged. -/
def State.sendAck (s : State) (p : Nat) (x : Word) (mine : Bool) : State :=
  match s.xfer p x mine with
  | none => s
  | some t => (s.peerSend p (plainTx peerAck t t.acked 0)).modXfer p x mine (fun t => { t with
    unacked := 0, accepted := t.accepted.drop t.unacked })

/-- PEER_SEGMENT_WRITTEN (R231, R233): an ACK after every 8 segments and after the LAST; the last one ends the transfer,
sets WIN_FLAG after an inbound PUT and completes a GET. -/
def execPeerSegmentWritten (p : PeerId) (x : Word) (mine : Bool) (s : State) : Host.Outcome State Fault Refusal :=
  match s.xfer p x mine with
  | none => .next s
  | some t =>
    if t.sending || decide (t.next ≤ t.acked) then .next s
    else
      let s' := s.modXfer p x mine (fun t => { t with
        acked := t.acked + 1, unacked := t.unacked + 1 })
      let last := t.acked + 1 == s.segments p t.total
      let s' := if last || 8 ≤ t.unacked + 1 then s'.sendAck p x mine else s'
      if !last then .next s'
      else
        let s' := s'.closeXfer p x mine
        if t.get then done s (s'.endXferItem t St.ok)
        else if s.num Obj.winFlag p == 0xFFFF then .next s'
        else done s (s'.setFlag (s.num Obj.winFlag p))

/-- PEER_ACK_RX (R231, R233). -/
def execPeerAckRx (p : PeerId) (f : PeerFrame) (s : State) : Host.Outcome State Fault Refusal :=
  match s.xferOf p f with
  | none => .next s
  | some t =>
    if !s.peerOn p || !t.sending || decide (f.ack ≤ t.acked) || decide (s.segments p t.total < f.ack) then .next s
    else
      let mine := xferMine t
      let s' := s.modXfer p f.xfer mine (fun t => { t with acked := f.ack, since := s.clk.now, resends := 0
                                                           next := max t.next f.ack })
      if f.ack == s.segments p t.total then done s ((s'.closeXfer p f.xfer mine).endXferItem t St.ok)
      else .next (s'.fillWindow p f.xfer mine)

/-- PEER_GET_RX (R229): checked against the window and answered with DATA. -/
def execPeerGetRx (p : PeerId) (f : PeerFrame) (s : State) : Host.Outcome State Fault Refusal :=
  .next (
    if !s.peerOn p || s.wasXfer p f.xfer false || (s.xfer p f.xfer false).isSome then s
    else if !s.windowOk p f.addr f.total false then s.peerSend p (refuseTx f)
    else
      let t : Xfer := { xfer := f.xfer, item := none, sending := true, get := true, loc := f.addr, remote := 0
                        total := f.total, acked := 0, next := 0, unacked := 0, accepted := [], since := s.clk.now, resends := 0 }
      (s.modPeer p (fun q => { q with xfers := q.xfers ++ [t] })).fillWindow p f.xfer false)

/-- PEER_ABORT_RX (R229, R233): the transfer ends and its command completes without VALID. -/
def execPeerAbortRx (p : PeerId) (f : PeerFrame) (s : State) : Host.Outcome State Fault Refusal :=
  match s.xferOf p f with
  | none => .next s
  | some t =>
    if !s.peerOn p then .next s
    else
      done s ((s.dropXfer p f.xfer (xferMine t)).endXferItem t (if f.status == 0 then St.unavailable else f.status))

/-- PEER_ACK_TIMER (R231): 50 µs after an accepted segment that is not yet acknowledged. -/
def execPeerAckTimer (p : PeerId) (x : Word) (mine : Bool) (s : State) : Host.Outcome State Fault Refusal :=
  .next (
    match s.xfer p x mine with
    | none => s
    | some t => match t.accepted with
      | [] => s
      | a :: _ => if t.sending then s else (s.advanceTo (a + 50 * us)).sendAck p x mine)

/-- The initiator gives up: ABORT, the command completes UNAVAILABLE, the peer is DOWN (R232). -/
def State.giveUp (s : State) (p : Nat) (t : Xfer) : State :=
  let s := s.dropXfer p t.xfer (xferMine t)
  if t.item.isNone then s else
  let s := (s.peerSend p (plainTx peerAbort t 0 St.unavailable)).setNum Obj.peerState p 2
  s.endXferItem t St.unavailable

/-- PEER_RESEND_TIMER (R232): 1 ms without an advance. -/
def execPeerResendTimer (p : PeerId) (x : Word) (mine : Bool) (s : State) : Host.Outcome State Fault Refusal :=
  match s.xfer p x mine with
  | none => .next s
  | some t =>
    let waits := if t.sending then decide (t.acked < t.next) else t.get && t.next == 0 && t.item.isSome
    if !waits then .next s
    else
      let s' := s.advanceTo (t.since + ms)
      if 8 ≤ t.resends then done s (s'.giveUp p t)
      else
        let s' := s'.modXfer p x mine (fun t => { t with resends := t.resends + 1, since := s'.clk.now })
        if t.sending then
          .next (((List.range t.next).filter (fun q => decide (t.acked ≤ q))).foldl
            (fun s q => (s.sendSegment p t q).count Obj.peerRetx p) s')
        else .next ((s'.peerSend p (plainTx peerGet t 0 0)).count Obj.peerRetx p)

/-- PEER_XFER_ID_EXPIRY (R233): 100 ms after completion. -/
def execPeerXferIdExpiry (p : PeerId) (x : Word) (mine : Bool) (s : State) : Host.Outcome State Fault Refusal :=
  .next (
    match (s.peer p).done.find? (fun d => d.1 == x && d.2.1 == mine) with
    | none => s
    | some d => (s.advanceTo (d.2.2 + 100 * ms)).modPeer p (fun q =>
        { q with done := q.done.filter (fun d => !(d.1 == x && d.2.1 == mine)) }))

def peerEnableRule (p : Nat) : WriteRule :=
  WriteRule.cmd (fun _ _ => 0) (fun s v => (s.setNum Obj.peerEnable p v).setNum Obj.peerState p v)

/-- PEER_ENABLE (R232, R234): each write of 1 sets PEER_STATE to UP; a write of 0 makes it DISABLED. -/
def execPeerEnable (p : PeerId) (w : CmdW) (s : State) : Host.Outcome State Fault Refusal :=
  done s (s.hostWrite (.peerEnable p w) w Obj.peerEnable p (peerEnableRule p))

/-- A PUT or GET begins (R228): the transfer is numbered and its first frames are sent. -/
def State.beginXfer (s : State) (p q n loc remote total : Nat) (get : Bool) : State :=
  let x := (s.peer p).nextXfer
  let t : Xfer := { xfer := x, item := some (q, n), sending := !get, get := get, loc := loc, remote := remote
                    total := total, acked := 0, next := 0, unacked := 0, accepted := [], since := s.clk.now, resends := 0 }
  let s := s.modPeer p (fun r => { r with xfers := r.xfers ++ [t], nextXfer := x + 1 })
  if get then s.peerSend p (plainTx peerGet t 0 0) else s.fillWindow p x true

end Sys2Proof.Machine
end

