-- ==== Sys2Proof/Machine/Submit.lean ====
section
/-! DEFINITION. Doorbells and acceptance: ring heads and tails, the four checks of a submission entry, the acceptance
of host items and of stream frames (R241 to R246, R265, R343 to R346, R523). -/

namespace Sys2Proof.Machine

/-! ## Doorbells (R346) -/

/-- a − b modulo 2³². -/
def sub32 (a b : Nat) : Nat := (a % 2 ^ 32 + 2 ^ 32 - b % 2 ^ 32) % 2 ^ 32

/-- The checks that entries of KIND 0 and 1 share. -/
def State.ringCheck (s : State) (d : Doorbell) : Nat :=
  if d.pad != 0 || decide (63 < d.queue) then St.range
  else if s.num Obj.qEnable d.queue == 0 then St.stateConflict else 0

/-- An entry that fails posts DOORBELL_BAD, and counts in DB_BAD when it names an existing queue. -/
def State.badDoorbell (s : State) (kind : Nat) (d : Doorbell) (status : Nat) : State :=
  let names := decide (kind ≤ 1) && decide (d.queue ≤ 63)
  let s := if names then s.count Obj.dbBad d.queue else s
  s.postEvent 0x0205 (if names then d.queue else 0xFFFF) (le 1 kind ++ zeros 3 ++ le 4 d.value.toNat ++ le 2 status)

/-- The items that the host has consumed become FREE (R245, R344). -/
def State.consume (s : State) (q head : Nat) : State :=
  let gone := (s.queue q).items.filter (fun i => decide (i.seq < head))
  let t := s.modQueue q (fun x => { x with items := x.items.filter (fun i => decide (head ≤ i.seq)) })
  gone.foldl (fun s i => let b := i.record s.work.bootEpoch q; s.journal q i.seq (b.take 25 ++ [0] ++ b.drop 26)) t

/-- SQ_TAIL: not past the ring, not behind the latched tail. -/
def State.sqCheck (s : State) (d : Doorbell) : Nat :=
  let q := d.queue
  let c := s.ringCheck d
  if c != 0 then c
  else
    let n := sub32 d.value.toNat (s.num Obj.sqHead q)
    if s.num Obj.qDepth q < n || decide (n < sub32 (s.num Obj.sqTail q) (s.num Obj.sqHead q)) then St.range else 0

/-- CQ_HEAD: the low 32 bits, extended against the current head, neither move back nor pass the last item posted. -/
def State.cqCheck (s : State) (d : Doorbell) : Nat :=
  let q := d.queue
  let c := s.ringCheck d
  if c != 0 then c
  else if s.num Obj.qLastPosted q + 1 - s.num Obj.cqHead q < sub32 d.value.toNat (s.num Obj.cqHead q) then St.range
  else 0

def State.cqApply (s : State) (d : Doorbell) : State :=
  let q := d.queue
  let h := s.num Obj.cqHead q + sub32 d.value.toNat (s.num Obj.cqHead q)
  (s.setNum Obj.cqHead q h).consume q h

def State.evtCheck (s : State) (d : Doorbell) : Nat :=
  if d.pad != 0 then St.range
  else if d.value.toNat < s.num Obj.evtHead || decide (s.num Obj.evtTail + 1 < d.value.toNat) then St.range else 0

/-- What Table — Doorbell entries and R346 check of an entry of a kind. -/
def State.bellCheck (s : State) (kind : Nat) (d : Doorbell) : Nat :=
  if kind == 0 then s.sqCheck d
  else if kind == 1 then s.cqCheck d
  else if kind == 2 then s.evtCheck d
  else if kind ≤ 4 && d.pad == 0 then 0 else St.range

/-- What an entry does: the tail is latched, the last one wins; items consumed become FREE; waiting events are written
as space returns; log and trace entries read are noted, modulo 2³². -/
def State.bellApply (s : State) (kind : Nat) (d : Doorbell) : State :=
  if kind == 0 then s.setNum Obj.sqTail d.queue d.value.toNat
  else if kind == 1 then s.cqApply d
  else if kind == 2 then (s.setNum Obj.evtHead 0 d.value.toNat).drainEvents 257
  else if kind == 3 then { s with fw := { s.fw with logHead := d.value.toNat } }
  else { s with fw := { s.fw with traceHead := d.value.toNat } }

/-- One entry of a DOORBELL frame: its status and what it leaves. -/
def State.bell (s : State) (kind : Nat) (d : Doorbell) : Nat × State :=
  let st := s.bellCheck kind d
  (st, if st == 0 then s.bellApply kind d else s.badDoorbell kind d st)

/-- A DOORBELL request of one entry: its status is returned in the response's body. -/
def State.doorbell (s : State) (r : Req) (cmd : Instr) (kind : Nat) (d : Doorbell) : State :=
  s.hostReq r 0x30 cmd (fun s =>
    let (st, t) := s.bell kind d
    (St.ok, be 2 st, t))

/-- SQ_TAIL. -/
def execSqTail (r : Req) (d : Doorbell) (s : State) : Host.Outcome State Fault Refusal :=
  .next (s.doorbell r (.sqTail r d) 0 d)

/-- CQ_HEAD. -/
def execCqHead (r : Req) (d : Doorbell) (s : State) : Host.Outcome State Fault Refusal :=
  .next (s.doorbell r (.cqHead r d) 1 d)

/-- EVT_HEAD. -/
def execEvtHead (r : Req) (d : Doorbell) (s : State) : Host.Outcome State Fault Refusal :=
  .next (s.doorbell r (.evtHead r d) 2 d)

/-- LOG_HEAD. -/
def execLogHead (r : Req) (d : Doorbell) (s : State) : Host.Outcome State Fault Refusal :=
  .next (s.doorbell r (.logHead r d) 3 d)

/-- TRACE_HEAD. -/
def execTraceHead (r : Req) (d : Doorbell) (s : State) : Host.Outcome State Fault Refusal :=
  .next (s.doorbell r (.traceHead r d) 4 d)

/-! ## The checks of an entry (R243) -/

/-- The orphan state of PAUSE or SAFE is in force (R356, R357). -/
def State.orphaned (s : State) : Bool := s.link.orphan != 0

/-- Bytes of ARGS that an opcode uses, from entry byte 16. -/
def argBytes : Nat → List (Nat × Nat)
  | 0x01 => [(16, 8), (24, 4), (28, 2), (32, 4)]
  | 0x02 => [(16, 8), (24, 4)]
  | 0x04 => [(16, 1), (18, 2)]
  | 0x05 => [(16, 1)]
  | 0x06 => [(16, 2)]
  | 0x07 => [(16, 2)]
  | 0x08 => [(16, 2), (18, 1)]
  | 0x09 => [(16, 1), (24, 8), (32, 8), (40, 4)]
  | 0x0A => [(16, 1), (24, 8), (32, 8), (40, 4)]
  | 0x0B => [(16, 4), (20, 1)]
  | 0x0C => [(16, 4), (24, 8)]
  | 0x0D => [(16, 4), (20, 1), (24, 8)]
  | _ => []

/-- The command names no context: DETACH, FLAG_SET, FLAG_CLR, FLAG_WAIT, MARKER. -/
def namesNone (op : Nat) : Bool := op == 5 || op == 6 || op == 7 || op == 8 || op == 14

/-- ARGS within their ranges (R242). -/
def argsOk (b : Bytes) : Nat → Bool
  | 0x02 => decide (fld b 24 4 ≤ 2 ^ 28)
  | 0x04 => decide (fld b 16 1 < 48)
  | 0x05 => decide (fld b 16 1 < 48)
  | 0x06 => decide (fld b 16 2 < 1024)
  | 0x07 => decide (fld b 16 2 < 1024)
  | 0x08 => decide (fld b 16 2 < 1024) && decide (fld b 18 1 < 2)
  | 0x09 => decide (fld b 16 1 < 32) && decide (0 < fld b 40 4 ∧ fld b 40 4 ≤ 2 ^ 30)
  | 0x0A => decide (fld b 16 1 < 32) && decide (0 < fld b 40 4 ∧ fld b 40 4 ≤ 2 ^ 30)
  | 0x0B => decide (0 < fld b 16 4 ∧ fld b 16 4 ≤ pageCount) && decide (fld b 20 1 < 16)
  | 0x0C => decide (0 < fld b 16 4 ∧ fld b 16 4 ≤ pageCount) && fld b 24 8 % pageBytes == 0
  | _ => true

/-- Field check: reserved bits, opcode, ranges, JOB bit 63. -/
def fieldsOk (b : Bytes) : Bool :=
  let op := fld b 0 1
  decide (1 ≤ op ∧ op ≤ 14) && decide (fld b 1 1 < 4)
    && (if namesNone op then fld b 2 2 == 0xFFFF else decide (fld b 2 2 < 256))
    && decide (fld b 8 8 < 2 ^ 63)
    && (List.range 48).all (fun i =>
      fld b (16 + i) 1 == 0 || (argBytes op).any (fun a => decide (a.1 ≤ 16 + i ∧ 16 + i < a.1 + a.2)))
    && argsOk b op

/-- Rights check (R242): regions that the table says must be readable. -/
def State.rightsOk (s : State) (b : Bytes) : Bool :=
  match fld b 0 1 with
  | 0x01 => s.ctxRights (fld b 2 2) false (fld b 16 8) (fld b 24 4)
  | 0x02 => s.pagesOk (fun e => e.hrd) (fld b 16 8) (fld b 24 4)
  | 0x0D => s.ctxRights (fld b 2 2) false (fld b 24 8) (fld b 16 4)
  | _ => true

/-- Items of context c short of DONE, apart from item n of queue q. -/
def State.ctxIdle (s : State) (c q n : Nat) : Bool := (s.ctxItems c).all (fun i => i.1 == q && i.2 == n)

/-- Every page of the run lies in a region that ALLOC gave the context. -/
def allocated (l : List (Nat × Nat)) (p n : Nat) : Bool :=
  (List.range n).all (fun i => l.any (fun a => decide (a.1 ≤ p + i ∧ p + i < a.1 + a.2)))

/-- The precondition of Table — Commands for an entry of queue q that holds, or would take, sequence number n. -/
def State.precond (s : State) (q n : Nat) (b : Bytes) : Bool :=
  let c := fld b 2 2
  let x := s.ctx c
  match fld b 0 1 with
  | 0x01 => x.state == .ready && (s.graphOf c (fld b 28 2)).isSome
  | 0x02 => x.state == .empty
  | 0x03 => (x.state == .ready || x.state == .lost)
      && (List.range 48).all (fun m => match (s.stream m).attach with | some (_, d, _) => d != c | none => true)
      && s.ctxIdle c q n
  | 0x04 => x.state == .ready && (s.stream (fld b 16 1)).attach.isNone
  | 0x05 => match (s.stream (fld b 16 1)).attach with | some (p, _, _) => p == q | none => false
  | 0x09 => x.state != .lost
  | 0x0A => x.state != .lost
  | 0x0B => x.state == .ready
  | 0x0C => x.state != .lost && allocated x.allocs (fld b 24 8 / pageBytes) (fld b 16 4)
  | 0x0D => x.state == .ready
  | _ => true

/-- R240: while a context is LOST every command that names it except UNLOAD is refused. -/
def State.lostRefused (s : State) (b : Bytes) : Bool :=
  !namesNone (fld b 0 1) && fld b 0 1 != 3 && (s.ctx (fld b 2 2)).state == .lost

/-- SUBMIT_NOTICE (R243, R265): the ring index is the free-running count of the entry. -/
def State.notice (s : State) (q idx status job : Nat) : State :=
  s.postEvent 0x0001 q (le 4 idx ++ le 2 status ++ zeros 2 ++ le 8 job)

/-- The journal slot of the next sequence number is FREE (R245). -/
def State.slotFree (s : State) (q : Nat) : Bool :=
  let n := s.num Obj.qLastAccepted q + 1
  (s.queue q).items.all (fun i => i.seq % s.num Obj.qDepth q != n % s.num Obj.qDepth q)

/-- The frames of the streams attached to queue q that became complete while acceptance was paused (R523). -/
def State.heldFrames (s : State) (q : Nat) : List Frame :=
  (List.range 48).flatMap (fun m => match (s.stream m).attach with
    | some (p, _, _) => if p == q then (s.stream m).complete.filter (fun f => f.held) else []
    | none => [])

/-- Held frames of queue q go ahead of its host entries (R523). -/
def State.frameHeld (s : State) (q : Nat) : Bool := !(s.heldFrames q).isEmpty

/-- A held frame of queue q goes ahead of frame f: held frames are accepted in start-of-frame order, before any other. -/
def State.frameAhead (s : State) (q : Nat) (f : Frame) : Bool :=
  (s.heldFrames q).any (fun g => !f.held || decide (g.sofMono < f.sofMono))

/-- A queue can take another item. -/
def State.mayAccept (s : State) (q : Nat) : Bool :=
  s.accepts && s.num Obj.qEnable q == 1 && !s.orphaned && (s.queue q).accepting.isNone && s.slotFree q

def State.refuse (s : State) (q idx status job : Nat) : State := (s.count Obj.qRefused q).notice q idx status job

/-- SUBMISSION_READ (R243): the next entry is read once and checked; a refused entry is consumed. -/
def execSubmissionRead (q : QueueId) (s : State) : Host.Outcome State Fault Refusal :=
  let h := s.num Obj.sqHead q
  .next (
    if !s.mayAccept q || s.frameHeld q || h == s.num Obj.sqTail q then s else
    match (s.queue q).sqPages with
    | none => s
    | some (p, _) =>
      let a := p * pageBytes + 64 * (h % s.num Obj.qDepth q)
      let t := (s.setNum Obj.sqHead q ((h + 1) % 2 ^ 32)).noteChange (some q)
      let b := if s.mem.badBlocks.contains (s.blockAt a) then
          (match tfind s.mem.mirrors p with | some (d, k) => cgets s.mem.bytes (phys d k (a % pageBytes)) 64 | none => [])
        else s.readBytes a 64
      if s.blockLost a then t.refuse q h St.unavailable 0
      else if !fieldsOk b then t.refuse q h St.range (fld b 8 8)
      else if !s.rightsOk b then t.refuse q h St.pageRights (fld b 8 8)
      else if s.precond q (s.num Obj.qLastAccepted q + 1) b then t.modQueue q (fun x => { x with accepting := some (b, false) })
      else if (fld b 1 1).testBit 0 && !s.lostRefused b then t.modQueue q (fun x => { x with accepting := some (b, true) })
      else t.refuse q h St.stateConflict (fld b 8 8))

/-! ## Acceptance (R244) -/

/-- A fresh item. -/
def Item.new (seq job : Nat) (entry : Bytes) (epoch sof sofMono now prio : Nat) (deadline : Option Nat) : Item :=
  { seq := seq, job := job, entry := entry, state := .accepted, slice := none, attempt := 0, runs := 0, handle := 0
    epoch := epoch, status := 0, rflags := 0, sof := sof, sofMono := sofMono, doneTime := 0, energy := 0, spent := 0
    stream := none, prio := prio, acceptAt := now, deadline := deadline, detail := none, bufLen := 0, digest := 0
    waitFrom := none, deferred := false, executing := false, poolWait := false, replayed := false, ahead := false
    recompute := none, segment := 0, left := none, bundles := 0, ready := false, batched := false, batch := none, waitEnd := 0, set := none }

/-- An item is accepted: both blocks of its journal record are written (R244, R254). -/
def State.addItem (s : State) (q : Nat) (i : Item) : State :=
  let s := match s.recordAt q i.seq with
    | some a => (s.writeBlock a (sealed (i.record s.work.bootEpoch q))).writeBlock (a + 64) (pad 64 i.entry)
    | none => s
  (s.modQueue q (fun x => { x with items := x.items ++ [i], accepting := none })).setNum Obj.qLastAccepted q i.seq

/-- An item's wait begins. -/
def State.beginWait (s : State) (q n : Nat) : State :=
  s.modItem q n (fun j => { j with waitFrom := some s.clk.now, waitEnd := s.clk.now + s.itemLimit j })

/-- A FLAG_WAIT sees its flag set and ends; a consuming one clears the flag (R258, R259). -/
def State.seenSet (s : State) (q : Nat) (i : Item) : State :=
  let s := s.finish q i.seq (Finish.plain St.ok)
  if i.consumes then s.clearFlag i.flag false else s

/-- The wait of a FLAG_WAIT command or of a deferred item begins when it becomes the next item of its queue to dispatch;
a FLAG_WAIT whose flag is already set ends at once (R259, R260). k bounds the items that end so. -/
def State.headWaits (q : Nat) : Nat → State → State
  | 0, s => s
  | k + 1, s =>
    match s.nextItem q with
    | none => s
    | some i =>
      if i.waitFrom.isSome || !(i.deferred || i.opcode == 8) then s
      else if i.opcode == 8 && s.flagOn i.flag && s.runs P.scp && s.work.replayDone && !(s.queue q).halted
          && (!i.barrier || s.earlierDone q i.seq) then State.headWaits q k (s.seenSet q i)
      else s.beginWait q i.seq

def State.headWait (s : State) (q : Nat) : State := State.headWaits q (s.queue q).items.length s

/-- ITEM_ACCEPT (R244): both copies of the journal record have been acknowledged. A LOAD takes its context to LOADING
and an UNLOAD to UNLOADING (R239); a deferred entry posts SUBMIT_NOTICE with DEFERRED (R265). -/
def execItemAccept (q : QueueId) (s : State) : Host.Outcome State Fault Refusal :=
  match (s.queue q).accepting with
  | none => .next s
  | some (b, d) =>
    if !s.accepts || s.frameHeld q || !s.slotFree q then .next s else
    let n := s.num Obj.qLastAccepted q + 1
    let us' := fld b 32 4
    let i := Item.new n (fld b 8 8) b (s.epochBefore s.clk.lode) s.clk.lode s.clk.now s.clk.now (s.num Obj.qPrio q)
      (if fld b 0 1 == 1 && us' != 0 then some (s.clk.now + us' * us) else none)
    let c := fld b 2 2
    let t := s.addItem q { i with deferred := d }
    let t := if d then t.notice q (sub32 (s.num Obj.sqHead q) 1) St.deferred (fld b 8 8)
      else if fld b 0 1 == 2 then t.modCtx c (fun x => { x with state := .loading, byItem := some (q.val, n) })
      else if fld b 0 1 == 3 then t.modCtx c (fun x => { x with state := .unloading, byItem := some (q.val, n) })
      else t
    .next ((t.headWait q).buildGraph)

/-- An output set of stream n is free again (R301); the last one may let the pages go. -/
def State.freeSet (s : State) (n : Nat) (set : Option Nat) : State :=
  match set with
  | none => s
  | some k => (s.modStream n (fun x => { x with setsUsed := x.setsUsed.filter (· != k) })).reclaimSets n

/-- A frame is dropped before acceptance (R304). -/
def State.dropFrame (s : State) (n : Nat) (f : Frame) (cause : Nat) : State :=
  let s := ((s.freeSet n f.set).count Obj.dropped n).noteDrop n
  s.postEvent 0x0303 n (le 4 f.number ++ le 1 cause)

/-- The journal's RUN entry of a stream job, from the frame's buffers and deadline (R254). -/
def State.streamEntry (s : State) (n c g job : Nat) (f : Frame) : Bytes :=
  let (a, len) := match (s.stream n).sets, f.set with
    | some (p, per, _), some k => ((p + per * k) * pageBytes, per * pageBytes)
    | _, _ => (0, 0)
  le 1 1 ++ le 1 0 ++ le 2 c ++ le 4 0 ++ le 8 job ++ le 8 a ++ le 4 len ++ le 2 g ++ zeros 2
    ++ le 4 (s.deadlineOf n f.epoch * 1000) ++ zeros 28

/-- A job of a language-head context becomes a pending row of its context's decode batch (R45). -/
def State.pendRow (s : State) (q n c : Nat) : State :=
  let s := s.modItem q n (fun i => { i with batched := true })
  s.modCtx c (fun x => { x with decode := x.decode ++
    [{ queue := q, seq := n, arrival := s.clk.now
       bound := match x.decode with | r :: _ => r.bound | [] => s.num Obj.decodeWait }] })

/-- The context serves a language head: its jobs are decode steps (R45). -/
def State.isHead (s : State) (c : Nat) : Bool :=
  match (s.ctx c).pkg with | some p => p.languageHead | none => false

/-- A stream job is accepted (R24, R246). -/
def State.acceptFrame (s : State) (n q c g : Nat) (f : Frame) : State :=
  let seq := s.num Obj.qLastAccepted q + 1
  let k := tget 0 s.work.frameCounts n
  let job := 2 ^ 63 + n * 2 ^ 40 + k % 2 ^ 40
  let dl := f.sofMono + s.deadlineOf n f.epoch * ms
  let i := Item.new seq job (s.streamEntry n c g job f) f.epoch f.sof f.sofMono s.clk.now (s.num Obj.qPrio q) (some dl)
  let i := { i with stream := some n, ready := !s.isHead c, set := f.set, rflags := if f.tcause != 0 then 16 else 0 }
  let s := s.addItem q i
  let s := { s with work := { s.work with frameCounts := tput s.work.frameCounts n (k + 1) } }
  let s := s.modStream n (fun x => { x with undecided := x.undecided ++ [(f.sofMono, f.sof, dl, f.epoch)] })
  if s.isHead c then s.pendRow q seq c else s

/-- STREAM_JOB_ACCEPT (R24, R245, R246, R304, R356, R523): the stream's oldest complete frame. Frames held while
acceptance was paused go first, in start-of-frame order over the streams of the queue. -/
def execStreamJobAccept (st : StreamId) (s : State) : Host.Outcome State Fault Refusal :=
  let n := st.val
  match (s.stream n).complete with
  | [] => .next s
  | f :: rest =>
    let t := s.modStream n (fun x => { x with complete := rest })
    match (s.stream n).attach with
    | none => .next (t.freeSet n f.set)
    | some (q, c, g) =>
      if !s.accepts then .next s
      else if s.orphaned then .next ((t.freeSet n f.set).count Obj.qDropped q)
      else if s.frameAhead q f || ((s.queue q).accepting.isSome && !f.held) then .next s
      else if !s.slotFree q then .next (t.dropFrame n f 4)
      else .next ((t.acceptFrame n q c g f).buildGraph)

end Sys2Proof.Machine
end

