-- ==== Sys2Proof/Machine/Seq.lean ====
section
/-! DEFINITION. The sequencer: program rows, bundles, fences, acceptance, and scalar operations
(R114 to R134, chapter "Matrix-core programs"). -/

namespace Sys2Proof.Machine

/-! ## Bundles (R117) -/

/-- The header of the bundle at a byte offset of the program. -/
def Slice.hdrAt (x : Slice) (off : Nat) : Nat :=
  match x.alloc with | some a => ofLe (x.ts (a.progRow * 128 + off) 4) | none => 0

/-- Slots named by a header below bit k. -/
def slotsBelow (hdr k : Nat) : Nat := ((List.range 8).filter (fun i => hdr.testBit (24 + i) && decide (24 + i < k))).length
def bundleLen (hdr : Nat) : Nat := 4 + 8 * slotsBelow hdr 32

/-- The slot word of bit k of the bundle at off. -/
def Slice.wordAt (x : Slice) (off k : Nat) : Nat :=
  match x.alloc with
  | some a => ofLe (x.ts (a.progRow * 128 + off + 4 + 8 * slotsBelow (x.hdrAt off) k) 8)
  | none => 0

/-- OP of an SCL word. -/
def sclOp (w : Nat) : Nat := bits w 63 58
/-- BR, BRN, LOOP and HALT: nothing beyond the bundle is fetched until it has issued (R116). -/
def isBranch (op : Nat) : Bool := op == 6 || op == 7 || op == 8 || op == 0x3F

def Slice.sclOpAt (x : Slice) (off : Nat) : Option Nat :=
  if (x.hdrAt off).testBit 24 then some (sclOp (x.wordAt off 24)) else none

/-- How far the sequencer may fetch: to 256 bytes beyond the next bundle's start, not beyond the first bundle whose SCL
slot holds a branch or HALT, not beyond the program. -/
def Slice.fetchLimit (x : Slice) : Nat → Nat → Nat → Nat
  | 0, _, cap => cap
  | k + 1, off, cap =>
    if cap ≤ off then cap
    else
      let e := off + bundleLen (x.hdrAt off)
      match x.sclOpAt off with
      | some op => if isBranch op then min cap e else x.fetchLimit k e cap
      | none => x.fetchLimit k e cap

/-! ## Engines' conditions (Table — Fence conditions, Table — Slot acceptance) -/

/-- Descriptors of a direction that have not completed. -/
def Slice.inFlight (x : Slice) (out : Bool) : Nat := (x.store.descs.filter (fun d => d.out == out)).length

def Slice.fbDone (x : Slice) (cyc : Nat) : Bool := x.arr.waitLoad.isNone && decide (x.arr.loadEnd ≤ cyc)
def Slice.faDone (x : Slice) (cyc : Nat) : Bool := x.arr.waitTiles.isEmpty && x.arr.feed.isNone && decide (x.arr.enterEnd ≤ cyc)
def Slice.drnDone (x : Slice) : Bool := x.arr.waitTiles.isEmpty && x.arr.feed.isNone && x.arr.rows.isEmpty
def Slice.xfmDone (x : Slice) : Bool :=
  x.arr.fwdIssue.isNone && x.arr.fwdWait.isNone && x.arr.invWait.isNone && x.arr.invRows.isEmpty

/-- The fence conditions of a header hold. -/
def Slice.fences (x : Slice) (hdr cyc : Nat) : Bool :=
  let w := bits hdr 23 22
  (!hdr.testBit 16 || decide (x.inFlight false ≤ w)) && (!hdr.testBit 17 || decide (x.inFlight true ≤ w))
    && (!hdr.testBit 18 || x.fbDone cyc) && (!hdr.testBit 19 || x.faDone cyc)
    && (!hdr.testBit 20 || x.drnDone) && (!hdr.testBit 21 || x.xfmDone)

/-- Every descriptor has completed and every engine has drained (R128, R132). -/
def Slice.drained (x : Slice) (cyc : Nat) : Bool :=
  x.store.descs.isEmpty && x.fbDone cyc && x.drnDone && x.xfmDone

/-- SEQ_HOLD of the first slot of the bundle at off that its engine does not accept; 0 when all are accepted. -/
def State.accepted (s : State) (n off cyc : Nat) : Nat :=
  let x := s.slice n
  let hdr := x.hdrAt off
  let has := fun k => hdr.testBit k
  let scl := x.wordAt off 24
  let arr := x.wordAt off 29
  let xfm := x.wordAt off 30
  if has 24 && sclOp scl == 0x10 && !x.seq.flagSeen && !s.flagOn (scl % 1024) then 7
  else if has 24 && sclOp scl == 0x3F && !x.drained cyc then 8
  else if has 25 && decide (32 ≤ x.inFlight false) then 2
  else if has 26 && decide (32 ≤ x.inFlight true) then 3
  else if has 29 && (bits arr 63 60 == 1 || bits arr 63 60 == 2) && decide (2 ≤ x.arr.waitTiles.length) then 4
  else if has 29 && bits arr 63 60 == 3 && !x.drnDone then 4
  else if has 28 && x.arr.waitLoad.isSome then 5
  else if has 30 && (if bits xfm 63 62 == 0 then x.arr.fwdWait.isSome else x.arr.invWait.isSome) then 6
  else 0

/-! ## Breakpoints (R132) -/

/-- The next bundle of slice n matches a breakpoint. -/
def State.brkMatch (s : State) (n : Nat) : Bool :=
  let x := s.slice n
  let c := s.num Obj.brkCtrl n
  let tag := bits (x.hdrAt x.seq.pc) 15 0
  !x.seq.tested && (x.seq.stepOne || (c.testBit 0 && x.seq.issued == s.num Obj.brkCount n)
    || (c.testBit 1 && (tag &&& s.num Obj.brkMask n) == (s.num Obj.brkTag n &&& s.num Obj.brkMask n)))

/-! ## Issue (R119) -/

/-- All slots of the previous bundle have taken effect. -/
def Seq.bundleDone (q : Seq) : Bool :=
  match q.bundle with
  | none => true
  | some b => (List.range 8).all (fun i => !b.hdr.testBit (24 + i) || b.done.testBit (24 + i))

/-- The next bundle is held with a cause: it has been tested. A FLAG_WAIT starts its wait when its bundle first holds
on it (R129, R260). -/
def State.holdSeq (s : State) (n cause : Nat) : State :=
  let q := (s.slice n).seq
  let s := s.modSeq n (fun q => { q with mode := .held, hold := cause, tested := true })
  if cause == 7 && q.waitFlag.isNone then
    (s.modSeq n (fun q => { q with
      waitFlag := some ((s.slice n).wordAt q.pc 24 % 1024, s.clk.now + s.jobLimit) })).buildGraph
  else s

/-- Why the next bundle cannot issue in a cycle: SEQ_HOLD, 0 when it can. -/
def State.issueHold (s : State) (n cyc : Nat) : Nat :=
  let x := s.slice n
  let pc := x.seq.pc
  let hdr := x.hdrAt pc
  if x.seq.fetched < pc + bundleLen hdr then 9
  else if !x.fences hdr cyc then 1
  else s.accepted n pc cyc

/-- The next bundle issues: its slots see the registers as they stand now (R119, R121). -/
def State.issueNow (s : State) (n cyc : Nat) : State :=
  let x := s.slice n
  let pc := x.seq.pc
  let hdr := x.hdrAt pc
  let br := match x.sclOpAt pc with | some op => isBranch op | none => false
  s.modSlice n (fun x => { x with cycle := max x.cycle cyc, seq := { x.seq with
    mode := .issuing, hold := 0, before := x.seq.regs, tag := BitVec.ofNat 16 hdr, pc := pc + bundleLen hdr
    issued := x.seq.issued + 1, notBefore := cyc + (if br then 8 else 1), bundle := some { off := pc, hdr := hdr, done := 0 }
    tested := false, stepOne := if x.seq.tested then x.seq.stepOne else false
    asmFa := none, asmArr := none, waitFlag := none, flagSeen := false } })

/-- The sequencer may issue its next bundle in cycle cyc, as far as its state goes: it runs a program, the previous bundle
has taken effect, a branch was 8 cycles ago, and no breakpoint stops it (R116, R119). -/
def State.mayAdvance (s : State) (n cyc : Nat) : Bool :=
  let x := s.slice n
  (x.seq.mode == .issuing || x.seq.mode == .held) && !x.seq.halted && x.alloc.isSome && x.seq.bundleDone
    && decide (x.seq.notBefore ≤ cyc) && !s.brkMatch n

/-- The first cycle in which the next bundle's FB and FA conditions can hold. -/
def Slice.readyFrom (x : Slice) : Nat :=
  let hdr := x.hdrAt x.seq.pc
  max x.seq.notBefore (max (if hdr.testBit 18 then x.arr.loadEnd else 0) (if hdr.testBit 19 then x.arr.enterEnd else 0))

/-- Bundles with an empty slot mask issue as soon as their fence conditions hold, one in a cycle, up to cycle cyc (R119). -/
def State.issueEmpty (n cyc : Nat) : Nat → State → State
  | 0, s => s
  | k + 1, s =>
    let x := s.slice n
    let c := min cyc x.readyFrom
    if !s.mayAdvance n c || slotsBelow (x.hdrAt x.seq.pc) 32 != 0 then s
    else
      let h := s.issueHold n c
      if h == 0 then State.issueEmpty n cyc k (s.issueNow n c) else s.holdSeq n h

/-- The bundles with an empty slot mask before the next other bundle that can issue by cycle cyc have issued. -/
def State.passEmpty (s : State) (n cyc : Nat) : State :=
  State.issueEmpty n cyc (match (s.slice n).alloc with | some a => a.progLen / 4 | none => 0) s

/-- An attempt to issue the next bundle: true and the state after it when it issues. -/
def State.tryIssue (s : State) (n : Nat) (i : Issue) : Bool × State :=
  let s := (s.feedTo n i.cyc).passEmpty n i.cyc
  let x := s.slice n
  if !s.mayAdvance n i.cyc || x.hdrAt x.seq.pc != i.hdr.toNat then (false, s)
  else
    let h := s.issueHold n i.cyc
    if h == 0 then (true, s.issueNow n i.cyc) else (false, s.holdSeq n h)

/-- A slot of bit k with word w takes effect: its bundle is issued first where the command opens it, and the program
holds that word there. -/
def State.slot (s : State) (n : Nat) (b : Option Issue) (k : Nat) (w : DWord) : Bool × State :=
  let (ok, s) := match b with | none => (true, s) | some i => s.tryIssue n i
  if !ok then (false, s) else
  match (s.slice n).seq.bundle with
  | none => (false, s)
  | some o =>
    if o.hdr.testBit k && !o.done.testBit k && (s.slice n).wordAt o.off k == w.toNat then
      (true, s.modSeq n (fun q => { q with bundle := some { o with done := o.done + 2 ^ k } }))
    else (false, s)

/-- A scalar operation: f acts on the state after issue when the word's OP is op. -/
def State.scl (s : State) (n : Nat) (b : Option Issue) (w : DWord) (op : Nat) (f : State → State) : State :=
  if sclOp w.toNat != op then s else
  let (ok, t) := s.slot n b 24 w
  if ok then f t else t

def sclA (w : DWord) : Fin 8 := Fin.ofNat 8 (bits w.toNat 57 55)
def sclC (w : DWord) : Fin 4 := Fin.ofNat 4 (bits w.toNat 54 53)
def sclImm (w : DWord) : Word := w.setWidth 32

def State.modRegs (s : State) (n : Nat) (f : SeqRegs → SeqRegs) : State := s.modSeq n (fun q => { q with regs := f q.regs })

/-- The next bundle is at byte offset IMM[19:0]. -/
def State.branchTo (s : State) (n : Nat) (w : DWord) : State :=
  let t := w.toNat % 2 ^ 20
  s.modSeq n (fun q => { q with pc := t, fetched := t })

/-! ## SCL operations (Table — SCL operations) -/

/-- LC_SET: LCa := IMM. -/
def execLcSet (sl : SliceId) (b : Option Issue) (w : DWord) (s : State) : Host.Outcome State Fault Refusal :=
  .next (s.scl sl b w 1 (fun s => s.modRegs sl (fun r => { r with lc := r.lc.set (sclA w) (sclImm w) })))

/-- LC_ADD: LCa := LCa + IMM modulo 2³². -/
def execLcAdd (sl : SliceId) (b : Option Issue) (w : DWord) (s : State) : Host.Outcome State Fault Refusal :=
  .next (s.scl sl b w 2 (fun s =>
    s.modRegs sl (fun r => { r with lc := r.lc.set (sclA w) (r.lc[sclA w] + sclImm w) })))

/-- AB_SET: ABa := IMM. -/
def execAbSet (sl : SliceId) (b : Option Issue) (w : DWord) (s : State) : Host.Outcome State Fault Refusal :=
  .next (s.scl sl b w 3 (fun s => s.modRegs sl (fun r => { r with ab := r.ab.set (sclA w) (sclImm w) })))

/-- AB_ADD: ABa := ABa + IMM modulo 2³². -/
def execAbAdd (sl : SliceId) (b : Option Issue) (w : DWord) (s : State) : Host.Outcome State Fault Refusal :=
  .next (s.scl sl b w 4 (fun s =>
    s.modRegs sl (fun r => { r with ab := r.ab.set (sclA w) (r.ab[sclA w] + sclImm w) })))

/-- COND of a CMP: 0 EQ, 1 NE, 2 LT, 3 GE, unsigned. -/
def condHolds (c : Nat) (a b : Word) : Bool :=
  match c with
  | 0 => a == b
  | 1 => a != b
  | 2 => decide (a.toNat < b.toNat)
  | _ => decide (b.toNat ≤ a.toNat)

/-- CMP: CMPc := (LCa COND IMM). -/
def execCmp (sl : SliceId) (b : Option Issue) (w : DWord) (s : State) : Host.Outcome State Fault Refusal :=
  .next (s.scl sl b w 5 (fun s => s.modRegs sl (fun r =>
    { r with cmp := r.cmp.set (sclC w) (condHolds (bits w.toNat 52 51) r.lc[sclA w] (sclImm w)) })))

/-- BR: if CMPc, the next bundle is at IMM. -/
def execBr (sl : SliceId) (b : Option Issue) (w : DWord) (s : State) : Host.Outcome State Fault Refusal :=
  .next (s.scl sl b w 6 (fun s => if (s.slice sl).seq.before.cmp[sclC w] then s.branchTo sl w else s))

/-- BRN: if not CMPc, the next bundle is at IMM. -/
def execBrn (sl : SliceId) (b : Option Issue) (w : DWord) (s : State) : Host.Outcome State Fault Refusal :=
  .next (s.scl sl b w 7 (fun s => if (s.slice sl).seq.before.cmp[sclC w] then s else s.branchTo sl w))

/-- LOOP: LCa := LCa − 1, CMPc := (LCa ≠ 0), and if CMPc the next bundle is at IMM. -/
def execLoop (sl : SliceId) (b : Option Issue) (w : DWord) (s : State) : Host.Outcome State Fault Refusal :=
  .next (s.scl sl b w 8 (fun s =>
    let v := (s.slice sl).seq.before.lc[sclA w] - 1
    let s := s.modRegs sl (fun r => { r with lc := r.lc.set (sclA w) v, cmp := r.cmp.set (sclC w) (v != 0) })
    if v != 0 then s.branchTo sl w else s))

/-- FLAG_WAIT (R129): its bundle has issued, so the flag has been seen set; the flag is left as it is. -/
def execSclFlagWait (sl : SliceId) (b : Option Issue) (w : DWord) (s : State) : Host.Outcome State Fault Refusal :=
  .next (s.scl sl b w 0x10 (fun s => s))

/-- FLAG_SET (R129, R259). -/
def execSclFlagSet (sl : SliceId) (b : Option Issue) (w : DWord) (s : State) : Host.Outcome State Fault Refusal :=
  done s (s.scl sl b w 0x11 (fun s => s.setFlag (w.toNat % 1024)))

/-- FLAG_CLR (R129): a set of the flag from any source in the same cycle leaves it set. -/
def execSclFlagClr (sl : SliceId) (b : Option Issue) (w : DWord) (setToo : Bool) (s : State) :
    Host.Outcome State Fault Refusal :=
  done s (s.scl sl b w 0x12 (fun s => s.clearFlag (w.toNat % 1024) setToo))

/-! ## Flushes of statistics and digests (R80, R282) -/

/-- A layer's terms join those of the run (R282). -/
def addSum (l : List (Nat × Nat × Nat × LayerSum)) (q n layer : Nat) (t : LayerSum) : List (Nat × Nat × Nat × LayerSum) :=
  if l.any (fun e => e.1 == q && e.2.1 == n && e.2.2.1 == layer) then
    l.map (fun e => if e.1 == q && e.2.1 == n && e.2.2.1 == layer then
      (q, n, layer, { sum := e.2.2.2.sum + t.sum, drain := e.2.2.2.drain || t.drain
                      sliver := e.2.2.2.sliver || t.sliver }) else e)
  else l ++ [(q, n, layer, t)]

/-- The drain's totals of slice m go to the SCP, which keeps them with the job, also while the SCP restarts:
notes/assumptions/52.md. -/
def State.flush (s : State) (m : Nat) : State :=
  let x := s.slice m
  match x.run with
  | none => s
  | some r =>
    let held := x.arr.stats.map (fun e => ({ queue := r.queue, seq := r.seq, layer := e.1, totals := e.2 } : HeldStat))
    let sums := x.arr.digests.foldl (fun l e => addSum l r.queue r.seq e.1 e.2) s.work.runSums
    let s := { s with work := { s.work with heldStats := s.work.heldStats ++ held, runSums := sums } }
    s.modArr m (fun a => { a with stats := [], digests := [] })

/-- LAYER: the layer identifier for tiles issued after this bundle; a new one flushes the drain's totals as they stand at
issue, and later rows of the old layer make a record of their own (R80): notes/assumptions/52.md. -/
def execLayer (sl : SliceId) (b : Option Issue) (w : DWord) (s : State) : Host.Outcome State Fault Refusal :=
  .next (s.scl sl b w 0x18 (fun s =>
    let l : BitVec 16 := w.setWidth 16
    let s := if (s.slice sl).seq.before.layer == l then s else s.flush sl
    s.modRegs sl (fun r => { r with layer := l })))

/-- The next program of the run is placed, none when the last has halted. -/
def State.nextProgram (s : State) (n : Nat) : State :=
  match (s.slice n).run with
  | none => s
  | some r => match r.programs, (s.ctx r.ctx).pkg with
    | p :: rest, some pkg =>
      (s.placeProgram n r.ctx p pkg).modSlice n (fun x => { x with run := some { r with programs := rest } })
    | _, _ => s

/-- A job of slice n whose program has halted goes on with its next one, a best-effort job at its segment boundary (R238),
and no job while the SCP restarts (R256). -/
def State.nextStage (s : State) (n : Nat) : State :=
  match (s.slice n).run with
  | some r => if r.klass != 2 && !r.programs.isEmpty && (s.slice n).seq.halted && s.runs P.scp then s.nextProgram n else s
  | none => s

/-- HALT (R128): the program ends; the totals are flushed; the job goes on with its next program. -/
def execHalt (sl : SliceId) (b : Option Issue) (w : DWord) (s : State) : Host.Outcome State Fault Refusal :=
  .next (s.scl sl b w 0x3F (fun s =>
    let s := s.flush sl
    (s.modSeq sl (fun q => { q with halted := true, mode := .idle })).nextStage sl))

/-! ## Slots of the engines -/

/-- A row field with its address base, bits [6:0] of the base taken as zero, divided by 128 (R125). -/
def rowBase (ab : Vector Word 8) (w : Nat) (en k row : Nat) : Int :=
  if w.testBit en then row + (ab[Fin.ofNat 8 k].toNat / 128 : Nat) else row

def Slice.rowWith (x : Slice) (w : DWord) (en ab : Nat) (row : Nat) : Int := rowBase x.seq.before.ab w.toNat en ab row

/-- The descriptor of a DIN or DOUT slot as it stands after the address bases (R125). Sums do not wrap: one that leaves
its field makes the descriptor malformed. -/
def descBases (ab : Vector Word 8) (raw : Bytes) (n : Nat) : Bytes :=
  let ea := signed 32 ab[Fin.ofNat 8 (bits n 52 50)].toNat
  let ta := ab[Fin.ofNat 8 (bits n 48 46)].toNat
  let raw := if n.testBit 53 then patch raw 4 (le 8 (wrap 64 ((fld raw 4 8 : Int) + ea))) else raw
  if n.testBit 49 then
    let raw := patch raw 12 (le 4 (min (2 ^ 32 - 1) (fld raw 12 4 + ta)))
    if bits (fld raw 0 4) 31 28 == 0 then raw else patch raw 16 (le 4 (min (2 ^ 32 - 1) (fld raw 16 4 + ta)))
  else raw

def Slice.descWith (x : Slice) (raw : Bytes) (w : DWord) : Bytes := descBases x.seq.before.ab raw w.toNat

/-- A descriptor of one direction is issued (R102, R110). -/
def State.issueDesc (s : State) (n : Nat) (w : DWord) (out : Bool) : State :=
  let x := s.slice n
  let i := bits w.toNat 63 54
  match x.alloc with
  | none => s
  | some a =>
    if a.descs ≤ i then s.transferFault n St.resourceOverflow 7 x.seq.tag.toNat i 0 i
    else
      let raw := x.descWith (x.ts (64 * i) 64) w
      s.modStore n (fun t => { t with
        nextUid := t.nextUid + 1
        descs := t.descs ++ [{ uid := t.nextUid, idx := i, out := out, raw := raw, tag := x.seq.tag, started := false
                               pos := 0, total := 0, hazard := false }] })

def execDinIssue (sl : SliceId) (b : Option Issue) (w : DWord) (s : State) : Host.Outcome State Fault Refusal :=
  let (ok, t) := s.slot sl b 25 w
  done s (if ok then t.issueDesc sl w false else t)

def execDoutIssue (sl : SliceId) (b : Option Issue) (w : DWord) (s : State) : Host.Outcome State Fault Refusal :=
  let (ok, t) := s.slot sl b 26 w
  done s (if ok then t.issueDesc sl w true else t)

/-- An FA slot of a mode: its command waits for the tile command of its bundle. -/
def State.faSlot (s : State) (n : Nat) (b : Option Issue) (w : DWord) (mode : Nat) : State :=
  if bits w.toNat 63 62 != mode then s else
  let (ok, t) := s.slot n b 27 w
  if !ok then t else
  let c : FaCmd := { mode := mode, count := bits w.toNat 61 48 + 1, win := bits w.toNat 47 40, step := bits w.toNat 27 14
                     row := (t.slice n).rowWith w 39 (bits w.toNat 38 36) (bits w.toNat 13 0) }
  t.modSeq n (fun q => { q with asmFa := some c })

def execFaVec (sl : SliceId) (b : Option Issue) (w : DWord) (s : State) : Host.Outcome State Fault Refusal :=
  .next (s.faSlot sl b w 0)
def execFaWin (sl : SliceId) (b : Option Issue) (w : DWord) (s : State) : Host.Outcome State Fault Refusal :=
  .next (s.faSlot sl b w 1)
def execFaXfm (sl : SliceId) (b : Option Issue) (w : DWord) (s : State) : Host.Outcome State Fault Refusal :=
  .next (s.faSlot sl b w 2)

/-- An FB slot: the load waits to start (R33). -/
def State.fbSlot (s : State) (n : Nat) (b : Option Issue) (w : DWord) (group4 : Bool) : State :=
  if bits w.toNat 63 62 != (if group4 then 1 else 0) then s else
  let (ok, t) := s.slot n b 28 w
  if !ok then t else
  let x := t.slice n
  let c : FbCmd := { num := x.arr.fbCount + 1, group4 := group4, wtype := bits w.toNat 61 59, rows := bits w.toNat 58 52 + 1
                     row := x.rowWith w 51 (bits w.toNat 50 48) (bits w.toNat 13 0), tag := x.seq.tag }
  t.modArr n (fun a => { a with waitLoad := some c, fbCount := a.fbCount + 1 })

def execFbDense (sl : SliceId) (b : Option Issue) (w : DWord) (s : State) : Host.Outcome State Fault Refusal :=
  .next (s.fbSlot sl b w false)
def execFbGroup4 (sl : SliceId) (b : Option Issue) (w : DWord) (s : State) : Host.Outcome State Fault Refusal :=
  .next (s.fbSlot sl b w true)

/-- An ARR TILE or CONT slot. -/
def State.arrSlot (s : State) (n : Nat) (b : Option Issue) (w : DWord) (cont : Bool) : State :=
  if bits w.toNat 63 60 != (if cont then 2 else 1) then s else
  let (ok, t) := s.slot n b 29 w
  if !ok then t else
  let c : ArrCmd := { cont := cont, atype := bits w.toNat 59 57, xpose := w.toNat.testBit 56 }
  t.modSeq n (fun q => { q with asmArr := some c })

def execArrTile (sl : SliceId) (b : Option Issue) (w : DWord) (s : State) : Host.Outcome State Fault Refusal :=
  .next (s.arrSlot sl b w false)
def execArrCont (sl : SliceId) (b : Option Issue) (w : DWord) (s : State) : Host.Outcome State Fault Refusal :=
  .next (s.arrSlot sl b w true)

/-- ARR CLEAR: both weight registers of every PE become invalid. -/
def execArrClearSlot (sl : SliceId) (b : Option Issue) (w : DWord) (s : State) : Host.Outcome State Fault Refusal :=
  .next (
    if bits w.toNat 63 60 != 3 then s else
    let (ok, t) := s.slot sl b 29 w
    if ok then t.modArr sl (fun a => { a with active := none, shadow := none }) else t)

/-- A DRN slot: with the FA and ARR slots of its bundle it makes one tile command (R120). -/
def State.drnSlot (s : State) (n : Nat) (b : Option Issue) (w : DWord) (op : Nat) : State :=
  if bits w.toNat 63 60 != op then s else
  let (ok, t) := s.slot n b 31 w
  if !ok then t else
  let x := t.slice n
  let c : DrnCmd := { op := op, chain := bits w.toNat 59 52, chunk := bits w.toNat 51 38, bankVec := bits w.toNat 28 20
                      outRow := x.rowWith w 37 (bits w.toNat 36 34) (bits w.toNat 13 0) }
  match x.seq.asmFa, x.seq.asmArr with
  | some f, some a =>
    let tile : TileCmd := { fa := f, arr := a, drn := c, layer := x.seq.before.layer, tag := x.seq.tag
                            origin := x.arr.origin, fbNum := x.arr.fbCount, entry := [] }
    t.modArr n (fun r => { r with
      waitTiles := r.waitTiles ++ [tile]
      origin := if op == 3 || op == 4 then r.origin + 1 else r.origin })
  | _, _ => t

def execDrnWrite (sl : SliceId) (b : Option Issue) (w : DWord) (s : State) : Host.Outcome State Fault Refusal :=
  .next (s.drnSlot sl b w 1)
def execDrnAdd (sl : SliceId) (b : Option Issue) (w : DWord) (s : State) : Host.Outcome State Fault Refusal :=
  .next (s.drnSlot sl b w 2)
def execDrnAddOut (sl : SliceId) (b : Option Issue) (w : DWord) (s : State) : Host.Outcome State Fault Refusal :=
  .next (s.drnSlot sl b w 3)
def execDrnWriteOut (sl : SliceId) (b : Option Issue) (w : DWord) (s : State) : Host.Outcome State Fault Refusal :=
  .next (s.drnSlot sl b w 4)

/-! ## XFM slots (R120, R160 to R163) -/

/-- An XFM slot whose unit is inv and whose table entry has operation op: the command starts, or waits for its unit. -/
def State.xfmSlot (s : State) (n : Nat) (b : Option Issue) (w : DWord) (inv : Bool) (op : Nat) (bad : Bool)
    (ecc : List TsEcc) : State :=
  if bits w.toNat 63 62 != (if inv then 1 else 0) || xtOp ((s.slice n).xfmEntry (bits w.toNat 60 53)) != op then s else
  let (ok, t) := s.slot n b 30 w
  if !ok then t else
  let x := t.slice n
  let row (base : Nat) : Int := x.rowWith w 52 (bits w.toNat 51 49) base
  let c : XfmCmd := { inv := inv, size := bits w.toNat 61 61, xtab := bits w.toNat 60 53
                      srcRow := if inv then 0 else row (bits w.toNat 13 0)
                      dstRow := if inv then row (bits w.toNat 27 14) else 0
                      tag := x.seq.tag, layer := x.seq.before.layer, origin := x.arr.origin - 1, bad := bad, ecc := ecc }
  (t.modArr n (fun a => if inv then { a with invWait := some c } else { a with fwdWait := some c })).startXfm n

def execTransform (sl : SliceId) (b : Option Issue) (w : DWord) (f : XfmFaults) (s : State) :
    Host.Outcome State Fault Refusal := done s (s.xfmSlot sl b w false 1 f.disagree f.ecc)
def execIssue (sl : SliceId) (b : Option Issue) (w : DWord) (f : XfmFaults) (s : State) :
    Host.Outcome State Fault Refusal := done s (s.xfmSlot sl b w false 2 f.disagree f.ecc)
def execInverse (sl : SliceId) (b : Option Issue) (w : DWord) (f : XfmFaults) (s : State) :
    Host.Outcome State Fault Refusal := done s (s.xfmSlot sl b w true 3 f.disagree f.ecc)

/-! ## Breakpoints (R131 to R134) -/

/-- BREAKPOINT_MATCH (R132): the bundle that has become the next to issue, with this TAG, matches; the sequencer drains. -/
def execBreakpointMatch (sl : SliceId) (tag : BitVec 16) (s : State) : Host.Outcome State Fault Refusal :=
  let t := s.passEmpty sl (s.slice sl).readyFrom
  let x := t.slice sl
  done s (
    if x.seq.mode == .issuing && !x.seq.halted && x.alloc.isSome && x.seq.bundleDone
        && bits (x.hdrAt x.seq.pc) 15 0 == tag.toNat && t.brkMatch sl then
      t.modSeq sl (fun q => { q with mode := .draining, hold := 0 })
    else t)

/-- BREAKPOINT_STOP (R132): everything has drained. -/
def execBreakpointStop (sl : SliceId) (s : State) : Host.Outcome State Fault Refusal :=
  let x := s.slice sl
  .next (
    if x.seq.mode == .draining && x.drained (max x.cycle (max x.arr.loadEnd x.arr.enterEnd)) then
      (s.modSeq sl (fun q => { q with mode := .stopped, stepOne := false })).count Obj.brkHits sl
    else s)

/-- BRK_RESUME in STOPPED: the held bundle is not tested again; with 2 the sequencer stops before the one after it. -/
def brkRule (n : Nat) (v : Nat) : WriteRule :=
  { check := fun _ w => w == .num v
    pre := fun s _ => if (s.slice n).seq.mode == .stopped then 0 else St.stateConflict
    apply := fun s _ => s.modSeq n (fun q => { q with mode := .issuing, tested := true, stepOne := v == 2 }) }

/-- BRK_RESUME with 1 (R133). -/
def execBrkResume (sl : SliceId) (w : CmdW) (s : State) : Host.Outcome State Fault Refusal :=
  done s (s.hostWrite (.brkResume sl w) w Obj.brkResume sl (brkRule sl 1))

/-- BRK_RESUME with 2 (R133). -/
def execBrkSingleStep (sl : SliceId) (w : CmdW) (s : State) : Host.Outcome State Fault Refusal :=
  done s (s.hostWrite (.brkSingleStep sl w) w Obj.brkResume sl (brkRule sl 2))

/-- A write of 1 to ARR_CLEAR clears subindexes 01 to 0D of the slice (R41). -/
def arrRows : List ObjRow :=
  [Obj.arrActive, Obj.arrFrozen, Obj.feedAStall, Obj.feedBStall, Obj.drainStall, Obj.arrVectors,
   Obj.arrVectorsT, Obj.arrTiles, Obj.checkRows, Obj.checkFailTiles, Obj.checkNonfinite, Obj.residueFail,
   Obj.lastMismatch]

/-- ARR_CLEAR. -/
def execArrClear (sl : SliceId) (w : CmdW) (s : State) : Host.Outcome State Fault Refusal :=
  done s (s.hostWrite (.arrClear sl w) w Obj.arrClear sl (clearRule arrRows sl))

end Sys2Proof.Machine
end

