-- ==== Sys2Proof/Machine/Dma.lean ====
section
/-! DEFINITION. The DMA engines: the extent check, requests and their tags, completion, box resampling; port accesses and
program fetch (R88 to R113, R116, R166). -/

namespace Sys2Proof.Machine

/-! ## Descriptor fields (R96 to R99) -/

def dMode (b : Bytes) : Nat := bits (fld b 0 4) 31 28
def dDir (b : Bytes) : Bool := (fld b 0 4).testBit 27
def dFlagEn (b : Bytes) : Bool := (fld b 0 4).testBit 26
def dFlag (b : Bytes) : Nat := bits (fld b 0 4) 25 16
def dId (b : Bytes) : Nat := fld b 0 2
def dExt (b : Bytes) : Nat := fld b 4 8
def dTs (b : Bytes) : Nat := fld b 12 4

/-- Offset and size of the lists and ranges that R101 checks: field offset, width, least and greatest value. -/
def zeroFrom (b : Bytes) (o n : Nat) : Bool := (cut b o n).all (fun x => x == 0)

/-- Element bytes and type code of a BOX ETYPE (R99). -/
def boxType : Nat → Nat
  | 0 => 0
  | 1 => 2
  | 2 => 5
  | 3 => 3
  | _ => 4

/-- The first malformed field of a descriptor, list entries excepted (R101). -/
def malformed (b : Bytes) : Option Nat :=
  let within (o n lo hi : Nat) : Bool := decide (lo ≤ fld b o n ∧ fld b o n ≤ hi)
  let head : List (Nat × Bool) :=
    [(0, decide (dMode b ≤ 2) && !(dMode b == 2 && dDir b) && (dFlagEn b || dFlag b == 0)),
     (4, decide (dExt b < 2 ^ 34)), (12, decide (dTs b < 2 ^ 21))]
  let tail : List (Nat × Bool) := match dMode b with
    | 0 => [(16, within 16 4 1 2097152), (20, within 20 2 1 65535), (22, within 22 2 1 65535), (24, within 24 2 1 65535),
            (26, zeroFrom b 26 2), (52, zeroFrom b 52 12)]
    | 1 => [(16, fld b 16 4 % 8 == 0), (20, within 20 2 1 4096), (22, zeroFrom b 22 2), (24, within 24 4 1 16384),
            (28, zeroFrom b 28 36)]
    | _ => [(16, fld b 16 4 % 8 == 0), (20, within 20 2 1 4096), (22, within 22 2 1 4095), (24, within 24 2 1 4095),
            (26, within 26 1 1 64), (27, within 27 1 1 64), (28, decide (fld b 22 2 * fld b 38 1 ≤ fld b 28 4)),
            (36, within 36 2 1 64),
            (38, within 38 1 1 64 && fld b 38 1 % elemBytes (boxType (fld b 39 1)) == 0), (39, decide (fld b 39 1 ≤ 4)),
            (40, decide (fld b 26 1 * fld b 27 1 * fld b 36 2 * fld b 38 1 ≤ fld b 40 4)), (44, zeroFrom b 44 20)]
  ((head ++ tail).find? (fun f => !f.2)).map (·.1)

/-! ## Ranges (R105, R107, R108) -/

/-- A closed range of integers. -/
structure Range where
  lo : Int
  hi : Int
  deriving DecidableEq, Repr

def Range.join (a b : Range) : Range := { lo := min a.lo b.lo, hi := max a.hi b.hi }
def Range.meets (a b : Range) : Bool := decide (a.lo ≤ b.hi) && decide (b.lo ≤ a.hi)
/-- A range taken to whole units of n bytes. -/
def Range.units (a : Range) (n : Nat) : Range := { lo := a.lo / n, hi := a.hi / n }

/-- The byte range of a STRIDED region with strides at field offset o. -/
def strided (b : Bytes) (base : Int) (o : Nat) : Range :=
  let reach (k : Nat) : Int := signed 32 (fld b (o + 4 * k) 4) * ((fld b (20 + 2 * k) 2 : Int) - 1)
  let l := [reach 0, reach 1, reach 2]
  { lo := base + (l.map (min 0)).foldl (· + ·) 0
    hi := base + (l.map (max 0)).foldl (· + ·) 0 + (fld b 16 4 : Int) - 1 }

/-- Entry i of a descriptor's list. -/
def Slice.listEntry (x : Slice) (b : Bytes) (i : Nat) : Bytes := x.ts (fld b 16 4 + 8 * i) 8

/-- Bytes that a GATHER moves. -/
def Slice.gatherLen (x : Slice) (b : Bytes) : Nat := sumOf (fun i => fld (x.listEntry b i) 4 2) (List.range (fld b 20 2))

/-- Bytes of one crop. -/
def cropBytes (b : Bytes) : Nat := fld b 26 1 * fld b 27 1 * fld b 36 2 * fld b 38 1

/-- The tile-store data that a descriptor moves. -/
def Slice.tsData (x : Slice) (b : Bytes) : Range :=
  match dMode b with
  | 0 => strided b (dTs b) 40
  | 1 => { lo := dTs b, hi := (dTs b : Int) + x.gatherLen b - 1 }
  | _ => { lo := dTs b, hi := (dTs b : Int) + (fld b 20 2 - 1) * fld b 40 4 + cropBytes b - 1 }

def listRange (b : Bytes) : Range := { lo := fld b 16 4, hi := (fld b 16 4 : Int) + 8 * fld b 20 2 - 1 }

/-- The external extent (R108). -/
def extent (b : Bytes) : Range :=
  match dMode b with
  | 0 => strided b (dExt b) 28
  | 1 => { lo := dExt b, hi := (dExt b : Int) + fld b 24 4 * pageBytes - 1 }
  | _ => { lo := dExt b
           hi := (dExt b : Int) + (fld b 36 2 - 1) * (if fld b 36 2 == 1 then 0 else fld b 32 4)
             + (fld b 24 2 - 1) * fld b 28 4 + fld b 22 2 * fld b 38 1 - 1 }

/-- Two descriptors reach a page that one of them writes (R105). -/
def Desc.meets (new old : Desc) : Bool :=
  ((extent new.raw).units pageBytes).meets ((extent old.raw).units pageBytes) && (new.out || old.out)

/-- The descriptors of the cluster DMAs of slice n (R178). -/
def State.clusterDescs (s : State) (n : Nat) : List CDesc :=
  (s.clusters.filter (fun c => c.1 / 16 == n)).flatMap (fun c => c.2.cdescs)

/-- The new descriptor must wait for an earlier one in flight (R105). A list is read. -/
def Slice.overlaps (x : Slice) (new old : Desc) : Bool :=
  let ext := new.meets old
  let lists (d : Desc) : List Range := if dMode d.raw == 0 then [] else [listRange d.raw]
  let rows (r : Range) := r.units 128
  let nd := rows (x.tsData new.raw)
  let od := rows (x.tsData old.raw)
  ext || (nd.meets od && (!new.out || !old.out))
    || (!old.out && (lists new).any (fun r => (rows r).meets od))
    || (!new.out && (lists old).any (fun r => (rows r).meets nd))

/-! ## The extent check (R107) -/

/-- The lowest offset outside n bytes from o on in a range that begins at lo. -/
def outside (o n : Nat) (lo : Int) : Nat := wrap 32 (if lo < o then lo else max lo (o + n : Nat))

/-- The first list entry that R101 rejects. -/
def Slice.badEntry (x : Slice) (b : Bytes) : Option Nat :=
  if dMode b != 1 then none else
  (List.range (fld b 20 2)).find? (fun i =>
    let e := x.listEntry b i
    fld e 4 2 == 0 || fld e 6 2 != 0 || decide (fld b 24 4 * pageBytes < fld e 0 4 + fld e 4 2))

/-- Whose local addresses and pages a descriptor may use: n bytes from o on of a tile store or local store, of which
the first ctrl may not be written, and the pages that pass. -/
structure DmaOwner where
  o    : Nat
  n    : Nat
  ctrl : Nat
  ctx  : Option Nat
  deriving DecidableEq, Repr

/-- The page rights of R107: those of the context; firmware in direct mode reaches every backed page (R189). -/
def DmaOwner.page (w : DmaOwner) (write : Bool) (e : Entry) : Bool :=
  e.backed && (match w.ctx with
    | some c => !e.sys && e.owner == c && (if write then e.wr else e.rd)
    | none => true)

/-- The fault of a descriptor: status and detail. -/
def State.descCheck (s : State) (x : Slice) (w : DmaOwner) (b : Bytes) : Option (Nat × Nat) :=
  match malformed b with
  | some o => some (St.range, o)
  | none =>
    let fixed : Range := match dMode b with
      | 0 => x.tsData b
      | 1 => listRange b
      | _ => (listRange b).join (x.tsData b)
    let top : Int := (w.o + w.n : Nat)
    if fixed.lo < w.o || top ≤ fixed.hi then some (St.resourceOverflow, outside w.o w.n fixed.lo)
    else match x.badEntry b with
      | some i => some (St.range, i)
      | none =>
        let d := x.tsData b
        if d.lo < w.o || top ≤ d.hi then some (St.resourceOverflow, outside w.o w.n d.lo)
        else if !dDir b && decide (d.lo < w.ctrl) then some (St.resourceOverflow, d.lo.toNat)
        else
          let e := (extent b).units pageBytes
          if 16384 < e.hi - e.lo + 1 then some (St.range, 4)
          else
            let pages := (List.range (e.hi - e.lo + 1).toNat).map (fun (i : Nat) => e.lo + (i : Int))
            (pages.find? (fun p =>
              p < 0 || (pageCount : Int) ≤ p || !w.page (dDir b) (s.entry p.toNat))).map (fun p => (St.pageRights, wrap 32 p))

/-- The fault of a descriptor of the job on slice n. -/
def State.extentCheck (s : State) (n : Nat) (b : Bytes) : Option (Nat × Nat) :=
  match (s.slice n).alloc with
  | none => none
  | some a => s.descCheck (s.slice n) { o := 0, n := a.len, ctrl := a.ctrlRows * 128, ctx := some a.ctx } b

/-! ## Box resampling (R99, R100) -/

/-- One axis of a sample: index, next index and fraction. -/
def boxAxis (lo hi size out i : Nat) : Nat × Nat × Nat :=
  let f (k : Nat) : Word := fOfInt (k : Nat)
  let half : Word := 0x3F000000
  let v := fsub (fadd (fdiv (f lo) (f 16)) (fdiv (fmul (fadd (f i) half) (f (hi - lo))) (f (16 * out)))) half
  let v := fmin (fmax v 0) (f (size - 1))
  let ix := match f32 v with | .fin n m e => (roundInt 2 n m e).toNat | _ => 0
  let fx := match f32 (fmul (fsub v (f ix)) (f 256)) with | .fin n m e => (roundInt 0 n m e).toNat | _ => 0
  let (ix, fx) := if fx == 256 then (ix + 1, 0) else (ix, fx)
  (ix, min (ix + 1) (size - 1), fx)

/-- A box of the list, clamped to the image: x0, y0, x1, y1. -/
def Slice.box (x : Slice) (b : Bytes) (k : Nat) : Nat × Nat × Nat × Nat :=
  let e := x.listEntry b k
  let w := 16 * fld b 22 2
  let h := 16 * fld b 24 2
  (min (fld e 0 2) w, min (fld e 2 2) h, min (fld e 4 2) w, min (fld e 6 2) h)

def Slice.boxEmpty (x : Slice) (b : Bytes) (k : Nat) : Bool :=
  let (x0, y0, x1, y1) := x.box b k
  decide (x1 ≤ x0) || decide (y1 ≤ y0)

/-- Device address of pixel (y, x) of plane p. -/
def pixelAt (b : Bytes) (p y i : Nat) : Nat := dExt b + p * fld b 32 4 + y * fld b 28 4 + i * fld b 38 1

/-- Columns and rows of output row v of box k. -/
def Slice.boxCols (x : Slice) (b : Bytes) (k : Nat) : List (Nat × Nat × Nat) :=
  let (x0, _, x1, _) := x.box b k
  (List.range (fld b 26 1)).map (fun u => boxAxis x0 x1 (fld b 22 2) (fld b 26 1) u)

def Slice.boxRow (x : Slice) (b : Bytes) (k v : Nat) : Nat × Nat × Nat :=
  let (_, y0, _, y1) := x.box b k
  boxAxis y0 y1 (fld b 24 2) (fld b 27 1) v

/-- The 64-byte blocks that output row v of box k reads, once each. -/
def Slice.boxBlocks (x : Slice) (b : Bytes) (k v : Nat) : List Nat :=
  if x.boxEmpty b k then [] else
  let (iy, iy1, _) := x.boxRow b k v
  let addrs := (List.range (fld b 36 2)).flatMap (fun p => (x.boxCols b k).flatMap (fun c =>
    [pixelAt b p iy c.1, pixelAt b p iy c.2.1, pixelAt b p iy1 c.1, pixelAt b p iy1 c.2.1]))
  (addrs.flatMap (fun a => [a / 64, (a + fld b 38 1 - 1) / 64])).foldl ins []

/-- The output rows of a descriptor, in box and row order. -/
def boxGroups (b : Bytes) : List (Nat × Nat) :=
  (List.range (fld b 20 2)).flatMap (fun k => (List.range (fld b 27 1)).map (fun v => (k, v)))

/-- Every block request of a BOX: its group's index and the block. -/
def Slice.boxRequests (x : Slice) (b : Bytes) : List (Nat × Nat) :=
  ((boxGroups b).zipIdx).flatMap (fun (g, i) => (x.boxBlocks b g.1 g.2).map (fun a => (i, a)))

/-- One output element from its four input codes. -/
def boxElem (t fx fy : Nat) (p00 p01 p10 p11 : Nat) : Nat :=
  let n := elemBytes t
  let ws := [(256 - fx) * (256 - fy), fx * (256 - fy), (256 - fx) * fy, fx * fy]
  let ps := [p00, p01, p10, p11]
  match elemFmt t with
  | none =>
    let s : Int := ((ws.zip ps).map (fun (w, p) => (w : Int) * signed (8 * n) p)).foldl (· + ·) 0
    wrap (8 * n) (roundInt 0 (decide (s < 0)) s.natAbs (-16))
  | some f =>
    let ts := (ws.zip ps).map (fun (w, p) => fmul (fOfInt (w : Nat)) (widen p t))
    let s := match ts with | a :: r => r.foldl fadd a | [] => 0
    f.narrow (match f32 s with | .fin g m e => .fin g m (e - 16) | y => y)

/-- The bytes of output row v of box k in plane p. -/
def State.boxBytes (s : State) (n : Nat) (b : Bytes) (k v p : Nat) : Bytes :=
  let x := s.slice n
  let t := boxType (fld b 39 1)
  let z := elemBytes t
  let (iy, iy1, fy) := x.boxRow b k v
  (x.boxCols b k).flatMap (fun (ix, ix1, fx) =>
    (List.range (fld b 38 1 / z)).flatMap (fun e =>
      let code (y i : Nat) : Nat := ofLe (s.readRun n (pixelAt b p y i + e * z) z)
      le z (boxElem t fx fy (code iy ix) (code iy ix1) (code iy1 ix) (code iy1 ix1))))

/-- Tile-store offset of output row v of box k in plane p. -/
def cropAt (b : Bytes) (k v p : Nat) : Nat :=
  dTs b + k * fld b 40 4 + (p * fld b 27 1 + v) * fld b 26 1 * fld b 38 1

/-- Output row i of a BOX is written. -/
def State.boxWrite (s : State) (n : Nat) (b : Bytes) (i : Nat) : State :=
  match (boxGroups b)[i]? with
  | none => s
  | some (k, v) =>
    (List.range (fld b 36 2)).foldl (fun s p =>
      let d := s.boxBytes n b k v p
      (s.modSlice n (fun x => x.tsPut (cropAt b k v p) d)).count Obj.dmaBytesIn n d.length) s

/-- The crops of empty boxes are zero (R100). -/
def State.boxZero (s : State) (n : Nat) (b : Bytes) : State :=
  (List.range (fld b 20 2)).foldl (fun s k =>
    if (s.slice n).boxEmpty b k then
      let len := fld b 26 1 * fld b 27 1 * fld b 36 2 * fld b 38 1
      ((s.modSlice n (fun x => x.tsPut (dTs b + k * fld b 40 4) (zeros len))).count Obj.boxEmpty n).count Obj.dmaBytesIn n len
    else s) s

/-! ## Commands -/

/-- What a descriptor has to move: bytes, or the block requests of a BOX. -/
def Slice.work (x : Slice) (b : Bytes) : Nat :=
  match dMode b with
  | 0 => fld b 16 4 * fld b 20 2 * fld b 22 2 * fld b 24 2
  | 1 => x.gatherLen b
  | _ => (x.boxRequests b).length

def State.modDesc (s : State) (n uid : Nat) (f : Desc → Desc) : State :=
  s.modStore n (fun t => { t with descs := t.descs.map (fun d => if d.uid == uid then f d else d) })

/-- DESCRIPTOR_START (R102, R105, R107): the next descriptor of a direction, after its hazard wait. -/
def execDescriptorStart (sl : SliceId) (out : Bool) (s : State) : Host.Outcome State Fault Refusal :=
  let x := s.slice sl
  match x.store.descs.find? (fun d => d.out == out && !d.started) with
  | none => .next s
  | some d =>
    if x.store.descs.any (fun o => decide (o.uid < d.uid) && x.overlaps d o)
        || (s.clusterDescs sl).any (fun o => decide (o.d.uid < d.uid) && d.meets o.d) then
      .next (if d.hazard then s else (s.modDesc sl d.uid (fun d => { d with hazard := true })).count Obj.dmaHazard sl)
    else match s.extentCheck sl d.raw with
      | some (st, detail) =>
        done s (s.transferFault sl st (if out then 2 else 1) d.tag.toNat d.idx (dId d.raw) detail)
      | none =>
        let s := s.modDesc sl d.uid (fun d => { d with started := true, total := x.work d.raw })
        .next (if dMode d.raw == 2 then s.boxZero sl d.raw else s)

/-- The run of a GATHER that holds byte pos of the whole: its offset in the window and the bytes left in it. The list is
read again at each request: notes/assumptions/51.md. -/
def Slice.gatherRun (x : Slice) (b : Bytes) (pos : Nat) : List Nat → Option (Nat × Nat)
  | [] => none
  | i :: r =>
    let e := x.listEntry b i
    if pos < fld e 4 2 then some (fld e 0 4 + pos, fld e 4 2 - pos) else x.gatherRun b (pos - fld e 4 2) r

/-- Device address, tile-store offset and length of the request at position pos (R97, R98, R103). -/
def Slice.request (x : Slice) (b : Bytes) (pos : Nat) : Nat × Nat × Nat :=
  match dMode b with
  | 0 =>
    let s0 := max 1 (fld b 16 4)
    let i0 := pos % s0
    let k := pos / s0
    let i1 := k % max 1 (fld b 20 2)
    let i2 := k / max 1 (fld b 20 2) % max 1 (fld b 22 2)
    let i3 := k / (max 1 (fld b 20 2) * max 1 (fld b 22 2))
    let at' (base : Nat) (o : Nat) : Nat := ((base : Int) + (i1 : Int) * signed 32 (fld b o 4) + (i2 : Int) * signed 32 (fld b (o + 4) 4)
      + (i3 : Int) * signed 32 (fld b (o + 8) 4) + (i0 : Int)).toNat
    let a := at' (dExt b) 28
    (a, at' (dTs b) 40, min (s0 - i0) (64 - a % 64))
  | 1 => match x.gatherRun b pos (List.range (fld b 20 2)) with
    | some (o, left) => (dExt b + o, dTs b + pos, min left (64 - (dExt b + o) % 64))
    | none => (0, 0, 0)
  | _ => match (x.boxRequests b)[pos]? with
    | some (_, a) => (a * 64, 0, 1)
    | none => (0, 0, 0)

/-- DMA_REQUEST_SEND (R103, R221 to R223): one request of the first started descriptor of a direction that has bytes left
goes to its channel, and holds a tag once it is admitted. One whose channel has been lost ends with an error: the job runs
again (R220). -/
def execDmaRequestSend (sl : SliceId) (m : DmaSend) (s : State) : Host.Outcome State Fault Refusal :=
  let x := s.slice sl
  match x.store.descs.find? (fun d => d.out == m.out && d.started && decide (d.pos < d.total)) with
  | none => .next s
  | some d =>
    if 2048 ≤ x.store.tags.length then .next (s.count Obj.dmaTagFull sl)
    else
      let (a, o, k) := x.request d.raw d.pos
      if !s.served a then done s (s.loseSliceWork sl) else
      let r : MemReq := { source := .slice sl, addr := a, write := m.out, data := if m.out then x.ts o k else []
                          mask := if m.out then blockMask (a % 64) k else [] }
      let t := (s.modDesc sl d.uid (fun d => { d with pos := d.pos + k })).send r (.dma d.uid d.pos k)
      done s (if m.out then t.eccReads sl (rowsIn o k) m.ecc else t)

/-- A tag is freed with its request; a discarded descriptor is forgotten with its last one. -/
def State.freeTag (s : State) (n : Nat) (t : TagEntry) : State :=
  (s.modStore n (fun x =>
    let l := x.tags.filter (fun e => e.tag != t.tag)
    { x with tags := l, gone := x.gone.filter (fun g => l.any (fun e => e.uid == g.2.uid)) })).retireReq t.ch [t.req]

/-- The requests of a descriptor that have been sent from position pos on: position, destination and length. -/
def Slice.sentFrom (x : Slice) (d : Desc) : Nat → Nat → List (Nat × Nat × Nat)
  | 0, _ => []
  | k + 1, pos =>
    if d.pos ≤ pos then []
    else
      let (a, o, n) := x.request d.raw pos
      (pos, if d.out then a else o, n) :: x.sentFrom d k (pos + max 1 n)

/-- The bytes of request t at its destination: a byte that a request later in index order has written stays (R105).
parked lists the positions of requests that are not admitted. -/
def Slice.orderedBytes (x : Slice) (d : Desc) (parked : List Nat) (t : TagEntry) (dst : Nat) (old new : Bytes) : Bytes :=
  let later := ((x.sentFrom d d.total t.pos).filter (fun r => t.pos < r.1)).filter (fun r =>
    !parked.contains r.1 && !x.store.tags.any (fun e => e.uid == d.uid && e.pos == r.1))
  ((old.zip new).zipIdx).map (fun (b, i) =>
    if later.any (fun r => decide (r.2.1 ≤ dst + i) && decide (dst + i < r.2.1 + r.2.2)) then b.1 else b.2)

/-- The descriptor of a request, with its allocation: of the job on slice n, or of discarded work (R111). -/
def Slice.descOf (x : Slice) (uid : Nat) : Option (Option Alloc × Desc) :=
  match x.store.descs.find? (fun d => d.uid == uid) with
  | some d => some (x.alloc, d)
  | none => (x.store.gone.find? (fun g => g.2.uid == uid)).map (fun g => (some g.1, g.2))

/-- A request of a descriptor out: the memory controller has written its bytes, or not (R203, R398). -/
def State.dmaWritten (s : State) (n : Nat) (t : TagEntry) (good : Bool) : State :=
  if !good then s.failRun n 0x11 else
  let x := s.slice n
  let b := match x.descOf t.uid with
    | some (a, d) =>
      ({ x with alloc := a }).orderedBytes d (s.parkedPos n t.uid) t t.addr (s.readBytes t.addr t.len) t.data
    | none => t.data
  (s.writeBytes t.addr b).count Obj.dmaBytesOut n t.len

/-- The data of a request of descriptor d enters the tile store (R91, R100). -/
def State.dmaFill (s : State) (n : Nat) (d : Desc) (t : TagEntry) : State :=
  let x := s.slice n
  let parked := s.parkedPos n t.uid
  if dMode d.raw == 2 then
    let crop (p : Nat) : Option Nat := ((x.boxRequests d.raw)[p]?).map (·.1)
    let more := x.store.tags.any (fun e => e.uid == t.uid && crop e.pos == crop t.pos) || parked.any (fun p => crop p == crop t.pos)
    let unsent := decide (d.pos < d.total) && crop d.pos == crop t.pos
    if more || unsent then s else match crop t.pos with | some i => s.boxWrite n d.raw i | none => s
  else
    let (_, o, _) := x.request d.raw t.pos
    let b := x.orderedBytes d parked t o (x.ts o t.len) (s.readRun n t.addr t.len)
    (s.modSlice n (fun x => x.tsPut o b)).count Obj.dmaBytesIn n t.len

/-- A request of a descriptor in (R91, R204, R398): its data goes where the allocation of its job lay. -/
def State.dmaRead (s : State) (n : Nat) (o : Option (Option Alloc × Desc)) (t : TagEntry) (good : Bool) : State :=
  match o with
  | none => s
  | some (a, d) =>
    let now := (s.slice n).alloc
    let s := ((s.modSlice n (fun x => { x with alloc := a })).dmaFill n d t).modSlice n (fun x => { x with alloc := now })
    if good then s else s.failRun n 0x11

/-- A request of slice n's engine has completed: its tag is free, its bytes move. -/
def State.dmaDone (s : State) (n : Nat) (t : TagEntry) (good : Bool) : State :=
  let o := (s.slice n).descOf t.uid
  let u := s.freeTag n t
  if t.out then u.dmaWritten n t good else u.dmaRead n o t good

/-- DMA_REQUEST_DONE (R103, R223): the request's read data has been delivered or its write acknowledged, once no earlier
request of its block is in the way (R224); its tag is freed. -/
def execDmaRequestDone (sl : SliceId) (tag : Nat) (ecc : MemErr) (s : State) : Host.Outcome State Fault Refusal :=
  match (s.slice sl).store.tags.find? (fun e => e.tag == tag) with
  | none => .next s
  | some t => match s.mayFinish t.ch t.req with
    | none => .next s
    | some r =>
      let (good, u) := s.access t.ch r ecc
      done s (u.dmaDone sl t good)

/-- TAG_EXPIRY (R104): 100 µs after its request was sent. -/
def execTagExpiry (sl : SliceId) (tag : Nat) (s : State) : Host.Outcome State Fault Refusal :=
  match (s.slice sl).store.tags.find? (fun e => e.tag == tag) with
  | none => .next s
  | some t => done s (((s.advanceTo (t.since + 100 * us)).freeTag sl t).tagFault (some sl.val) t.addr)

/-! ## Port accesses (R90 to R95) -/

/-- TILE_STORE_ACCESS (R90 to R95, R110, R115): a port's engine asks for a row; an access that leaves the allocation, or a
write into the control region, faults before it is made. -/
def execTileStoreAccess (sl : SliceId) (a : TsAccess) (s : State) : Host.Outcome State Fault Refusal :=
  let x := s.slice sl
  match x.alloc with
  | none => .next s
  | some al =>
    if a.write && (a.port == .feederA || a.port == .feederB || !a.mask.contains true) then .next s
    else if !x.rowOk a.row || (a.write && x.rowCtrl a.row) then
      done s (s.engineFault sl (tsPortSource a.port a.write) (x.portTag a.port a.write) (accessFirst a : Nat))
    else done s (s.portAccess sl a ((al.base + a.row) % 8))

/-! ## Program fetch (R116) -/

/-- The pending accesses of the DMA port in a group from cycle c on move to later slots, in order. -/
def delayPend (g base : Nat) : Nat → List TsPend → List TsPend
  | _, [] => []
  | c, p :: l =>
    if p.acc.port == .dma && (base + p.acc.row) % 8 == g && decide (p.issue ≤ c) then
      let i := slotFrom .dma g (c + 1)
      { p with issue := i, deliver := max p.deliver (i + 6) } :: delayPend g base i l
    else p :: delayPend g base c l

/-- PROGRAM_FETCH (R116): one further row along the program's path, in a slot of the DMA port in cycle cyc, before any
DMA data of that slot. -/
def execProgramFetch (f : RowFetch) (s : State) : Host.Outcome State Fault Refusal :=
  let s' := State.portsTo f.slice f.cyc (s.slice f.slice).store.pend.length s
  let x := s'.slice f.slice
  match x.alloc with
  | none => done s s'
  | some a =>
    if x.seq.mode == .idle || x.seq.mode == .faulted then done s s' else
    let lim := x.fetchLimit 64 x.seq.pc (min a.progLen (x.seq.pc + 256))
    let cur := max x.seq.fetched x.seq.pc
    let g := (a.base + a.progRow + cur / 128) % 8
    let busy := match tfind x.store.slots (slotKey .dma g) with
      | some l => decide (f.cyc ≤ l) && !x.store.pend.any (fun p => p.acc.port == .dma && p.issue == f.cyc)
      | none => false
    if lim ≤ cur || slotFrom .dma g f.cyc != f.cyc || busy then done s s'
    else
      let t := s'.modSeq f.slice (fun q => { q with fetched := min lim ((cur / 128 + 1) * 128) })
      let pend := delayPend g a.base f.cyc x.store.pend
      let last := ((pend.filter (fun p => p.acc.port == .dma && (a.base + p.acc.row) % 8 == g)).map (fun p => p.issue)).foldl max
        (max f.cyc ((tfind x.store.slots (slotKey .dma g)).getD 0))
      done s (t.modStore f.slice (fun t => { t with pend := pend, slots := tput t.slots (slotKey .dma g) last }))

/-- TS_CLEAR (R113): subindexes 01 to 0E but 08. -/
def tsRows : List ObjRow :=
  [Obj.tsCollide, Obj.tsEccCorr, Obj.tsEccUncorr, Obj.dmaDescIn, Obj.dmaDescOut, Obj.dmaBytesIn, Obj.dmaBytesOut,
   Obj.dmaTagsPeak, Obj.dmaTagFull, Obj.dmaHazard, Obj.dmaFaults, Obj.boxEmpty, Obj.dmaLastFault]

/-- TS_CLEAR. -/
def execTsClear (sl : SliceId) (w : CmdW) (s : State) : Host.Outcome State Fault Refusal :=
  done s (s.hostWrite (.tsClear sl w) w Obj.tsClear sl (clearRule tsRows sl))

end Sys2Proof.Machine
end

