-- ==== Sys2Proof/Machine/Drain.lean ====
section
/-! DEFINITION. The drain: the accumulator bank, the drain chain, write-out, layer digests, and the verdict of each row
(R49 to R60, R72 to R79, R138 to R158, R278 to R282). -/

namespace Sys2Proof.Machine

/-! ## The accumulator bank (R58, R60) -/

/-- Cells of a vector slot (Table — Bank capacity). -/
def Org.cells : Org → Nat
  | .bit8 => 128
  | .int4 => 256
  | .bit16 => 64
  | .complex => 64

def ArrRow.cells (r : ArrRow) : Nat := if r.org.wide && !r.float && r.org != .complex then 256 else r.org.cells

/-- hh × 2¹⁶ + (hl + lh) × 2⁸ + ll (R49). -/
def combine (c : List Int) : Int :=
  match c with
  | [hh, hl, lh, ll] => hh * 65536 + (hl + lh) * 256 + ll
  | [i] => i
  | _ => 0

/-- What a row brings to its cells: fp32 values, or integers (four to an int16 output). -/
def ArrRow.cellVals (r : ArrRow) : List Acc :=
  if r.float then r.outs.map (fun o => .float ((o[0]?).getD 0))
  else if r.org = .complex then
    r.outs.map (fun o =>
      let i := combine (o.map BitVec.toInt)
      .float (toF32 (.fin (decide (i < 0)) i.natAbs r.exp)))
  else r.outs.flatMap (fun o => o.map (fun w => .int w.toInt))

/-- The fields of a cell: an integer total and its residue modulo 7, or an fp32 total. -/
def cellInt (w : DWord) : Int := signed 40 (w.toNat % 2 ^ 40)
def cellRes (w : DWord) : Nat := bits w.toNat 42 40
def cellFloat (w : DWord) : Word := w.setWidth 32
/-- The residue modulo 7 of an integer. -/
def res7 (i : Int) : Nat := (i % 7).toNat

/-- Cell k of the bank. -/
def Slice.cell (x : Slice) (k : Nat) : DWord :=
  match tfind x.store.bank k with
  | some w => w
  | none => match x.store.bankFrom with | some f => BitVec.ofNat 64 (Config.freeNat (f + k)) | none => 0

/-- The bits that upsets flip in the result of a stage at output j. -/
def flips (ups : List DrainUpset) (stage j : Nat) : DWord :=
  (ups.filter (fun u => u.stage.toNat == stage && u.out == j)).foldl (fun a u => a ^^^ u.flip) 0

/-- A cell after a column sum is written to it or added, and whether the check of R56 sees an upset: the residue
predicted for the total differs from that of the total produced, or the duplicate adder disagrees. -/
def bankCell (add : Bool) (old : DWord) (v : Acc) (flip : DWord) : DWord × Bool :=
  match v with
  | .int i =>
    let p := ((if add then cellRes old else 0) + res7 i) % 7
    let t := signed 40 (wrap 40 (if add then cellInt old + i else i) ^^^ flip.toNat % 2 ^ 40)
    (BitVec.ofNat 64 (wrap 40 t + p * 2 ^ 40), res7 t != p)
  | .float w =>
    let t := if add then fadd (cellFloat old) w else w
    ((t ^^^ flip.setWidth 32).setWidth 64, flip.setWidth 32 != (0 : Word))

/-- The bank after values are written or added from cell base on, and how many of them failed their check. -/
def Slice.bankAfter (x : Slice) (base : Nat) (vals : List Acc) (add : Bool) (ups : List DrainUpset) : Slice × Nat :=
  (vals.zipIdx).foldl (fun b (v, i) =>
    let (w, bad) := bankCell add (b.1.cell (base + i)) v (flips ups 0xFE i)
    ({ b.1 with store := { b.1.store with bank := tput b.1.store.bank (base + i) w } }, b.2 + (if bad then 1 else 0))) (x, 0)

/-- The values that the cells of a row give at read-out. -/
def Slice.readOut (x : Slice) (r : ArrRow) (base : Nat) : List Acc :=
  let int (k : Nat) : Int := cellInt (x.cell (base + k))
  if r.float || r.org == .complex then (List.range r.outs.length).map (fun j => .float (cellFloat (x.cell (base + j))))
  else if r.org.wide then
    (List.range r.outs.length).map (fun j => .int (combine [int (4 * j), int (4 * j + 1), int (4 * j + 2), int (4 * j + 3)]))
  else (List.range r.outs.length).map (fun j => .int (int j))

/-! ## Drain-chain entries (R150 to R155) -/

/-- An output on its way through the chain, with what the nearest SCALE took and gave, and the first stage whose check
saw an upset (R56). -/
structure DOut where
  val   : Acc
  scale : Option (Acc × Word × Scaled)
  bad   : Option Nat
  deriving DecidableEq, Repr

/-- The place of a vector: its index and its pixel. -/
structure Pos where
  m  : Nat
  oy : Nat
  ox : Nat
  deriving DecidableEq, Repr

def chStages (e : Bytes) : List Nat := (((e.take 8).map (fun b => b.toNat)).takeWhile (fun b => b != 0))
def chForm (e : Bytes) : Nat := fld e 8 1
def chOtype (e : Bytes) : Nat := fld e 9 1
def chValid (e : Bytes) : Nat := fld e 10 1
def chOutW (e : Bytes) : Nat := max 1 (fld e 14 2)
def chPool (e : Bytes) (hi lo : Nat) : Nat := bits (fld e 29 1) hi lo
/-- Block width of a form (R153). -/
def chBc (e : Bytes) (outs : Nat) : Nat := match chForm e with | 0 => outs | 2 => 32 | _ => 16
def chHalf (e : Bytes) : Nat := chPool e 6 6
/-- Strips per scan row of HALF16. -/
def chStrips (e : Bytes) : Nat := (chOutW e + max 1 (fld e 52 1) - 1) / max 1 (fld e 52 1)

/-- The channel of output j (R153). -/
def chChannel (e : Bytes) (outs : Nat) (outRow : Int) (j : Nat) : Nat :=
  let bp := fld e 18 2
  let base := if bp == 0 then 0 else ((outRow - (fld e 20 2 : Int)) / (bp : Int)).toNat * chBc e outs
  if chForm e == 4 then base + 8 * chHalf e + j % 8 else base + j

/-- The pixel of output j: HALF16 takes it from its strip. -/
def chPixel (e : Bytes) (p : Pos) (j : Nat) : Nat × Nat :=
  if chForm e == 4 then (p.m / chStrips e, p.m % chStrips e * fld e 52 1 + j / 8) else (p.oy, p.ox)

/-- Where output j of a vector is written, with elements of es bytes; none where it is not written (R155). -/
def chPlace (e : Bytes) (outs es : Nat) (outRow : Int) (p : Pos) (j : Nat) : Option (Int × Nat) :=
  let rp := fld e 16 2
  let bp := fld e 18 2
  let blocked (bc : Nat) : Option (Int × Nat) :=
    let seg := bc * es
    let per := max 1 (128 / seg)
    some (outRow + (j / bc * bp + p.oy * rp + p.ox / per : Nat), p.ox % per * seg + j % bc * es)
  match chForm e with
  | 0 => some (outRow + (p.m * ((outs * es + 127) / 128) + j * es / 128 : Nat), j * es % 128)
  | 1 => blocked 16
  | 2 => blocked 32
  | 3 => some (outRow + (j / 8 * bp + p.oy * rp + p.ox / 16 : Nat), p.ox % 16 * 8 + j % 8)
  | 4 =>
    let (oy, ox) := chPixel e p j
    if j / 8 < fld e 52 1 && ox < chOutW e then
      some (outRow + (oy * rp + ox / 8 : Nat), ox % 8 * 16 + 8 * chHalf e + j % 8)
    else none
  | _ => none

/-! ## Stages (R154) -/

/-- The range of an integer result before SCALE. -/
def hold40 (i : Int) : Int := max (-(2 ^ 39)) (min (2 ^ 39 - 1) i)

/-- A stage's result is held to its limits: after SCALE to those of OTYPE, before it to 40 bits. -/
def DOut.hold (o : DOut) (otype : Nat) (a : Acc) : DOut :=
  let l : Int := intLimit otype
  match o.scale, a with
  | some _, .int i => { o with val := .int (max (-l) (min l i)) }
  | some _, .float w => { o with val := .float (widen (narrowTo otype w) otype) }
  | none, .int i => { o with val := .int (hold40 i) }
  | none, .float w => { o with val := .float w }

/-- A value as SCALE's code reads. -/
def codeVal (otype code : Nat) : Acc :=
  match elemFmt otype with
  | some _ => .float (widen code otype)
  | none => .int (signed (8 * elemBytes otype) code)

/-- The float segment: floor of an fp32 product, clamped (R154). -/
def segOf (w : Word) : Nat :=
  match f32 w with
  | .nan => 0
  | .inf neg => if neg then 0 else 255
  | .fin n m e => (max 0 (min 255 (roundInt 2 n m e + 128))).toNat

/-- r × RES_SCALE rounded half to even to an integer; a NaN or infinity has no stated result. -/
def resInt (r : FNum) (f : Word) (free : Nat) : Int :=
  match r.mul (f32 f) with
  | .fin n m e => roundInt 0 n m e
  | _ => signed 40 free

/-- One stage on one output. ch: its channel; res: the residual read for it; free: a free value. -/
def Slice.stage (x : Slice) (e : Bytes) (ch : Nat) (res : Nat) (free : Nat) (o : DOut) (code : Nat) : DOut :=
  let otype := chOtype e
  let word (row k : Nat) : Nat := ofLe (cut (x.row ((row + k / 32 : Nat) : Int)) (k % 32 * 4) 4)
  match code, o.val with
  | 1, .int i =>
    let i := i + signed 32 (word (fld e 22 2) ch)
    if o.scale.isSome then o.hold otype (.int i) else { o with val := .int i }
  | 1, .float w => o.hold otype (.float (fadd w (BitVec.ofNat 32 (word (fld e 22 2) ch))))
  | 2, a =>
    let eff := BitVec.ofNat 32 (word (fld e 24 2) (if chPool e 5 5 == 1 then 0 else ch))
    let r := scale a eff otype
    { val := codeVal otype r.code, scale := some (a, eff, r), bad := o.bad }
  | 3, .int i =>
    let k := (max 0 (min 255 (i / 2 ^ fld e 12 1 + 128))).toNat
    let t := match x.alloc with | some a => x.ts (a.actRow * 128 + 2048 * fld e 11 1 + 8 * k) 8 | none => zeros 8
    let v := signed 16 (fld t 0 2) * i + signed 48 (fld t 2 6)
    o.hold otype (.int (roundInt 0 (decide (v < 0)) v.natAbs (-(fld e 13 1 : Int))))
  | 3, .float w =>
    let k := segOf (fmul w (BitVec.ofNat 32 (fld e 36 4)))
    let t := match x.alloc with | some a => x.ts (a.actRow * 128 + 2048 * fld e 11 1 + 8 * k) 8 | none => zeros 8
    o.hold otype (.float (if (f32 w).isNan then 0x7FC00000
      else fma (BitVec.ofNat 32 (fld t 0 4)) w (BitVec.ofNat 32 (fld t 4 4))))
  | 4, a =>
    let rt := fld e 28 1
    if 8 ≤ rt then o else
    let f := BitVec.ofNat 32 (fld e 32 4)
    match a with
    | .int i => o.hold otype (.int (i + resInt (match elemFmt rt with
        | some g => g.unpack res
        | none => FNum.ofInt (signed (8 * elemBytes rt) res)) f free))
    | .float w => o.hold otype (.float (fadd w (fmul (widen res rt) f)))
  | 6, .int i => o.hold otype (.int (min (max i (signed 32 (fld e 40 4))) (signed 32 (fld e 44 4))))
  | 6, .float w =>
    o.hold otype (.float (if (f32 w).isNan then BitVec.ofNat 32 free
      else fmin (fmax w (BitVec.ofNat 32 (fld e 40 4))) (BitVec.ofNat 32 (fld e 44 4))))
  | _, _ => o

/-- An upset of a stage's result (R56): the value changes, and the check sees it, by the residue modulo 7 on the integer
path, by the duplicate elsewhere. The counters of STAT and the copy of XPOSE are duplicated. -/
def DOut.upset (o : DOut) (code : Nat) (flip : DWord) : DOut :=
  if flip == 0 then o
  else if code == 7 || code == 8 then { o with bad := o.bad.orElse (fun _ => some code) }
  else match o.val with
    | .int i =>
      let g := signed 64 (wrap 64 i ^^^ flip.toNat)
      { o with val := .int g, bad := if code == 2 || res7 g != res7 i then o.bad.orElse (fun _ => some code) else o.bad }
    | .float w =>
      { o with val := .float (w ^^^ flip.setWidth 32)
               bad := if flip.setWidth 32 != (0 : Word) then o.bad.orElse (fun _ => some code) else o.bad }

/-! ## POOL (R156) -/

def Acc.raw : Acc → Int
  | .int i => i
  | .float w => (w.toNat : Int)

def Acc.ofRaw (float : Bool) (i : Int) : Acc := if float then .float (BitVec.ofNat 32 i.toNat) else .int i
def Acc.isFloat : Acc → Bool
  | .int _ => false
  | .float _ => true

/-- One more value in a window's partial result: the sum in row-major order, or the largest. -/
def poolAdd (avg : Bool) (acc v : Acc) : Acc :=
  match acc, v with
  | .int a, .int b => .int (if avg then a + b else max a b)
  | .float a, .float b =>
    .float (if avg then fadd a b else if (f32 a).isNan || (f32 b).isNan then 0x7FC00000 else fmax a b)
  | _, v => v

/-- A window's result from its last partial result. -/
def poolEnd (avg : Bool) (k : Nat) (acc : Acc) : Acc :=
  if !avg then acc else
  match acc with
  | .int t =>
    let d := k * k
    let q := t.natAbs / d
    let m := t.natAbs % d
    let q := if d < 2 * m || (2 * m == d && q % 2 == 1) then q + 1 else q
    .int (if t < 0 then -(q : Int) else q)
  | .float w => .float (fdiv w (fOfInt (k * k : Nat)))

def poolPw (e : Bytes) : Nat := (max 1 (fld e 30 2) - chPool e 1 0) / max 1 (chPool e 3 2) + 1

/-- A window that holds vector m: its row and column among the pooled pixels, and the vector's row and column in it. -/
structure Window where
  py : Nat
  px : Nat
  a  : Nat
  b  : Nat
  deriving DecidableEq, Repr

def poolWindows (e : Bytes) (m : Nat) : List Window :=
  let k := chPool e 1 0
  let st := max 1 (chPool e 3 2)
  let w := max 1 (fld e 30 2)
  let sy := m / w
  let sx := m % w
  if w < k then [] else
  (List.range k).flatMap (fun a => (List.range k).filterMap (fun b =>
    if a ≤ sy && b ≤ sx && (sy - a) % st == 0 && (sx - b) % st == 0 && (sx - b) / st < poolPw e then
      some { py := (sy - a) / st, px := (sx - b) / st, a := a, b := b } else none))

/-- The bank cell of output j in the slot that keeps the partial results of a window between scan rows. -/
def poolCell (e : Bytes) (cells : Nat) (w : Window) (j : Nat) : Nat :=
  (fld e 48 2 + w.py % max 1 (chPool e 1 0 - 1) * poolPw e + w.px) * cells + j

/-- Partial results of window w before its next vector: in the bank at the start of a scan row, else in POOL. -/
def Slice.poolHeld (x : Slice) (e : Bytes) (cells : Nat) (w : Window) (outs : List DOut) : List Acc :=
  let kind := (outs.zipIdx).map (fun (o, j) => (o.val.isFloat, j))
  if w.b == 0 then
    kind.map (fun (f, j) =>
      let c := x.cell (poolCell e cells w j)
      if f then .float (cellFloat c) else .int c.toInt)
  else
    let l := ((x.arr.pool.find? (fun h => h.vec == w.py * poolPw e + w.px)).map (fun h => h.vals)).getD []
    kind.map (fun (f, j) => Acc.ofRaw f ((l[j]?).getD 0))

/-- POOL takes a vector into window w: its partial results go on in POOL, or at the end of a scan row into the bank; the
last vector of the window gives its outputs. Statistics that follow see what the last vector's outputs had at SCALE:
notes/assumptions/52.md. -/
def Slice.poolInto (x : Slice) (e : Bytes) (cells : Nat) (outs : List DOut) (w : Window) : Slice × Option (List DOut) :=
  let k := chPool e 1 0
  let avg := chPool e 4 4 == 1
  let vals := outs.map (fun o => o.val)
  let acc := if w.a == 0 && w.b == 0 then vals else ((x.poolHeld e cells w outs).zip vals).map (fun (p, v) => poolAdd avg p v)
  let i := w.py * poolPw e + w.px
  let rest := x.arr.pool.filter (fun h => h.vec != i)
  if w.b + 1 < k then ({ x with arr := { x.arr with pool := rest ++ [{ vec := i, vals := acc.map Acc.raw }] } }, none)
  else
    let x := { x with arr := { x.arr with pool := rest } }
    if w.a + 1 < k then
      let bank := (acc.zipIdx).foldl (fun b (v, j) => tput b (poolCell e cells w j) (BitVec.ofInt 64 v.raw)) x.store.bank
      ({ x with store := { x.store with bank := bank } }, none)
    else (x, some ((outs.zip acc).map (fun (o, v) => o.hold (chOtype e) (poolEnd avg k v))))

/-- POOL takes vector m: the outputs of the window that it completes, with the window's index. -/
def Slice.poolStep (x : Slice) (e : Bytes) (cells m : Nat) (outs : List DOut) : Slice × Option (Nat × List DOut) :=
  (poolWindows e m).foldl (fun p w =>
    let (y, r) := p.1.poolInto e cells outs w
    (y, match r with | some o => some (w.py * poolPw e + w.px, o) | none => p.2)) (x, none)

/-! ## Write-out (R139, R155) -/

/-- The bytes of an output's code; a value that OTYPE does not hold has no stated code. -/
def codeBytes (otype : Nat) (a : Acc) (free : Nat) : Bytes :=
  let n := elemBytes otype
  match a with
  | .int i =>
    if (elemFmt otype).isNone && (otype != 8 || (decide (-(2 ^ 31) ≤ i) && decide (i < 2 ^ 31))) then le n (wrap (8 * n) i)
    else le n free
  | .float w => if (elemFmt otype).isSome then le n (narrowTo otype w) else le n free

/-- Outputs of a vector with the padding that its last block needs (R139). -/
def chPadded (e : Bytes) (outs : Nat) : Nat :=
  let up (bc : Nat) : Nat := (outs + bc - 1) / bc * bc
  match chForm e with | 1 => up 16 | 2 => up 32 | 3 => up 8 | _ => outs

/-- The write of a vector's outputs in its form; outputs beyond OUT_VALID, and padding channels, are zero. -/
def chWrites (e : Bytes) (outs : Nat) (outRow : Int) (p : Pos) (codes : List Bytes) : List RowWrite :=
  let es := elemBytes (chOtype e)
  (List.range (chPadded e outs)).filterMap (fun j =>
    (chPlace e outs es outRow p j).map (fun (r, b) => { row := r, byte := b, data := (codes[j]?).getD (zeros es) }))

/-- The digest term of output j (R279 to R281), none for padding. -/
def chTerm (o : Bytes) (e : Bytes) (outs : Nat) (outRow : Int) (p : Pos) (j : Nat) (code : Bytes) : DWord :=
  let (n, c, y, x) := if chForm e == 0 then (fld o 0 2 + p.m, fld o 2 2 + j, 0, 0)
    else
      let (oy, ox) := chPixel e p j
      (fld o 0 2, fld o 2 2 + chChannel e outs outRow j, fld o 4 2 + oy, fld o 6 2 + ox)
  if chForm e != 0 && fld o 8 2 ≤ c then 0
  else digTerm (BitVec.ofNat 64 (((n * fld o 8 2 + c) * fld o 10 2 + y) * fld o 12 2 + x)) (BitVec.ofNat 64 (ofLe code))

def Slice.originEntry (x : Slice) (k : Nat) : Bytes :=
  match x.alloc with | some a => x.ts (a.originRow * 128 + 16 * k) 16 | none => zeros 16

/-- A layer's digest sum raised by a term of the drain. -/
def addTerm (l : List (Nat × LayerSum)) (layer : Nat) (t : DWord) : List (Nat × LayerSum) :=
  let o := tget { sum := 0, drain := false, sliver := false } l layer
  tput l layer { o with sum := o.sum + t, drain := true }

/-! ## One vector through a chain -/

/-- A vector that leaves the bank or the INV unit: its values, the bank cells of its slot, where it goes and what it
belongs to, its chain entry, the upsets and ECC findings told with it, and how many of its cells failed their check. -/
structure DrainVec where
  vals   : List Acc
  cells  : Nat
  outRow : Int
  pos    : Pos
  tile   : Nat
  layer  : Nat
  tag    : Nat
  chunk  : Nat
  vec    : Nat
  origin : Nat
  last   : Bool
  entry  : Bytes
  ups    : List DrainUpset
  ecc    : List TsEcc
  bad    : Nat
  deriving DecidableEq, Repr

def statOuts (stages : List Nat) (otype : Nat) (t : StatTotals) (outs : List DOut) : StatTotals :=
  if !stages.contains 7 then t else
  outs.foldl (fun t o => match o.scale with | some (a, eff, r) => t.see a eff otype r | none => t) t

/-- The residual code read for output j. -/
def chResidual (e : Bytes) (v : DrainVec) (p : Pos) (j : Nat) : Option (Int × Nat) :=
  chPlace e v.vals.length (elemBytes (fld e 28 1)) (v.outRow - (fld e 20 2 : Int) + (fld e 26 2 : Int)) p j

def Slice.residual (x : Slice) (e : Bytes) (v : DrainVec) (p : Pos) (j : Nat) : Nat :=
  match chResidual e v p j with
  | some (r, b) => if x.rowOk r then ofLe (cut (x.row r) b (elemBytes (fld e 28 1))) else 0
  | none => 0

/-- The stages of a list on the outputs of a vector at a position. -/
def Slice.stages (x : Slice) (e : Bytes) (v : DrainVec) (p : Pos) (free : Nat) (stages : List Nat) (outs : List DOut) : List DOut :=
  (outs.zipIdx).map (fun (o, j) =>
    stages.foldl (fun o c =>
      (x.stage e (chChannel e v.vals.length v.outRow j) (x.residual e v p j) (Config.freeNat (free + j)) o c).upset c
        (flips v.ups c j)) o)

/-- The residual rows of n outputs. -/
def resRows (e : Bytes) (v : DrainVec) (p : Pos) (stages : List Nat) (n : Nat) : List Int :=
  if stages.contains 4 then (List.range n).filterMap (fun j => (chResidual e v p j).map (·.1)) else []

/-- XPOSE: the codes held, and the writes after the last vector (R154). -/
def xposeWrites (e : Bytes) (outs : Nat) (held : List VecVals) : List RowWrite :=
  let es := elemBytes (chOtype e)
  (List.range outs).map (fun j =>
    { row := ((fld e 50 2 + j : Nat) : Int), byte := 0
      data := (held.flatMap (fun h => le es (((h.vals[j]?).getD 0).toNat))).take 128 })

/-- Residue mismatches and duplicate disagreements of a vector (R57): each is counted, and the row fails its tile, with
the first stage. A disagreement of several outputs is one failing row. -/
def State.residueFail (s : State) (n : Nat) (v : DrainVec) (outs : List DOut) : State :=
  let bads := List.replicate v.bad 0xFE ++ outs.filterMap (fun o => o.bad)
  match bads with
  | [] => s
  | st :: _ => (s.count Obj.residueFail n bads.length).failTile n
      { tile := v.tile, kind := 4, stage := st, layer := v.layer, tag := v.tag, chunk := v.chunk, vec := v.vec }

/-- The work on slice n goes on: no fault or recompute has ended its run since. -/
def State.goesOn (old new : State) (n : Nat) : Bool := (new.slice n).run.isSome || (old.slice n).run.isNone

/-- A BIN vector: 64 codes with one exponent (R158); outputs beyond OUT_VALID are zero. -/
def State.drainBin (s : State) (n : Nat) (v : DrainVec) : State :=
  let e := v.entry
  let nums := (v.vals.zipIdx).map (fun (a, j) => if j < chValid e then a.val else (Acc.float 0).val)
  let ok := nums.all FNum.isFinite
  let ints := nums.map (fun f => match f with | .fin g m q => FNum.scaled g m q (-149) | _ => 0)
  let free := s.freeCtr
  let ex := if ok then blockExp (-149) ints else signed 8 (Config.freeNat free)
  let codes := (ints.zipIdx).map (fun (i, j) =>
    if ok then codeOf (-149) ex i else signed 16 (Config.freeNat (free + 1 + j)))
  let t := { s with freeCtr := free + (if ok then 0 else 65) }
  let k := (v.outRow - (fld e 20 2 : Int) + (v.pos.m : Int)).toNat
  let t := t.residueFail n v []
  if !s.goesOn t n then t else
  (t.engineWrites n 5 v.tag
    [{ row := v.outRow + v.pos.m, byte := 0, data := codes.flatMap le16 }, byteAt (fld e 53 2) k (le 1 (wrap 8 ex))]).2

/-- The residual reads of some stages: their ECC, or the fault of the first row outside the allocation; none when the
run has ended. -/
def State.readRes (s : State) (n : Nat) (v : DrainVec) (p : Pos) (stages : List Nat) (outs : Nat) : Bool × State :=
  let rows := resRows v.entry v p stages outs
  match (s.slice n).badRead rows with
  | some r => (false, s.engineFault n 5 v.tag (r * 128))
  | none =>
    let t := s.eccReads n rows v.ecc
    (s.goesOn t n, t)

/-- Stages after POOL, statistics, write-out and digest of a vector at its position. Outputs that HALF16 does not write
count in the statistics: notes/assumptions/52.md. -/
def State.writeOut (s : State) (n : Nat) (v : DrainVec) (p : Pos) (post : List Nat) (outs : List DOut) : State :=
  let e := v.entry
  let (ok, s) := s.readRes n v p post outs.length
  if !ok then s else
  let x := s.slice n
  let free := s.freeCtr
  let outs := x.stages e v p free post outs
  let s := { s with freeCtr := free + outs.length }
  let codes := (outs.zipIdx).map (fun (o, j) => codeBytes (chOtype e) o.val (Config.freeNat (free + j)))
  let width := v.vals.length
  let xp := post.contains 8
  let held := x.arr.xpose ++ (if xp then [{ vec := p.m, vals := codes.map (fun b => (ofLe b : Int)) }] else [])
  let ws := chWrites e width v.outRow p codes ++ (if xp && v.last then xposeWrites e width held else [])
  let o := x.originEntry v.origin
  let terms := if 5 < chOtype e then [] else
    ((codes.zipIdx).filter (fun (_, j) => (chPlace e width 1 v.outRow p j).isSome)).map (fun (b, j) =>
      chTerm o e width v.outRow p j b)
  let s := s.modArr n (fun a => { a with
    stats := if post.contains 7 then tput a.stats v.layer (statOuts post (chOtype e) (tget StatTotals.zero a.stats v.layer) outs)
             else a.stats
    digests := if terms.isEmpty then a.digests else addTerm a.digests v.layer (terms.foldl (· + ·) 0)
    xpose := if v.last then [] else held })
  let t := s.residueFail n v outs
  if s.goesOn t n then (t.engineWrites n 5 v.tag ws).2 else t

/-- POOL and what comes after it. -/
def State.pool (s : State) (n : Nat) (v : DrainVec) (post : List Nat) (outs : List DOut) : State :=
  let e := v.entry
  let room := match (s.slice n).alloc with | some a => a.bankVecs * 128 | none => 0
  let need := (fld e 48 2 + (chPool e 1 0 - 1) * poolPw e) * v.cells
  if room < need then s.engineFault n 6 v.tag (max (fld e 48 2 * v.cells) room : Nat) else
  let (x, res) := (s.slice n).poolStep e v.cells v.pos.m outs
  let s := s.setSlice n { x with arr := { x.arr with pool := if v.last then [] else x.arr.pool } }
  match res with
  | some (i, outs) =>
    let outs := (outs.zipIdx).map (fun (o, j) => o.upset 5 (flips v.ups 5 j))
    s.writeOut n v { m := i, oy := i / chOutW e, ox := i % chOutW e } post outs
  | none =>
    let t := s.residueFail n v outs
    if !v.last || !s.goesOn t n then t else
    let ws := if post.contains 8 then xposeWrites e v.vals.length (t.slice n).arr.xpose else []
    ((t.modArr n (fun a => { a with xpose := [] })).engineWrites n 5 v.tag ws).2

/-- A vector passes through its chain. -/
def State.drainVec (s : State) (n : Nat) (v : DrainVec) : State :=
  let e := v.entry
  if chForm e == 5 then s.drainBin n v else
  let stages := chStages e
  let valid := min (chValid e) v.vals.length
  let outs := (v.vals.take valid).map (fun a => ({ val := a, scale := none, bad := none } : DOut))
  if !stages.contains 5 then s.writeOut n v v.pos stages outs else
  let pre := stages.takeWhile (fun c => c != 5)
  let post := (stages.dropWhile (fun c => c != 5)).drop 1
  let (ok, s) := s.readRes n v v.pos pre valid
  if !ok then s else
  let outs := (s.slice n).stages e v v.pos s.freeCtr pre outs
  let s := { s with freeCtr := s.freeCtr + valid }
  let s := if pre.contains 7 then s.modArr n (fun a => { a with
      stats := tput a.stats v.layer (statOuts pre (chOtype e) (tget StatTotals.zero a.stats v.layer) outs) }) else s
  s.pool n v post outs

/-! ## DRAIN_ROW and ROW_VERDICT -/

/-- The chain adds a partial-sum tensor: RES before SCALE on an unscaled type (R77). -/
def addsPartial (e : Bytes) : Bool := ((chStages e).takeWhile (fun c => c != 2)).contains 4 && decide (8 ≤ fld e 28 1)

/-- The partial sums of a pass of the same layer are added into the cells before read-out (R77): notes/assumptions/53.md.
An int16 output takes its sum in the component ll. -/
def Slice.addPartials (x : Slice) (r : ArrRow) (v : DrainVec) (base : Nat) : Slice × Nat :=
  if !addsPartial v.entry then (x, 0) else
  let float := r.float || r.org == .complex
  (List.range r.outs.length).foldl (fun b j =>
    let k := base + (if r.org.wide && !float then 4 * j + 3 else j)
    let c := x.residual v.entry v v.pos j
    let (w, bad) := bankCell true (b.1.cell k) (if float then .float (BitVec.ofNat 32 c) else .int (signed 32 c)) 0
    ({ b.1 with store := { b.1.store with bank := tput b.1.store.bank k w } }, b.2 + (if bad then 1 else 0))) (x, 0)

/-- An array row enters the drain: its bank operation, and its read-out through the chain. -/
def State.drainArrRow (s : State) (n : Nat) (r : ArrRow) (ups : List DrainUpset) (ecc : List TsEcc) : State :=
  let d := r.cmd.drn
  let base := (d.bankVec + r.vec) * r.cells
  let room := match (s.slice n).alloc with | some a => a.bankVecs * 128 | none => 0
  if room < base + r.cells then s.engineFault n 6 r.cmd.tag.toNat (max base room : Nat) else
  let (x, bad) := (s.slice n).bankAfter base r.cellVals (d.op == 2 || d.op == 3) ups
  let s := s.setSlice n x
  let w := chOutW r.cmd.entry
  let v : DrainVec := { vals := x.readOut r base, cells := r.cells, outRow := d.outRow
                        pos := { m := r.vec, oy := r.vec / w, ox := r.vec % w }, tile := r.tile
                        layer := r.cmd.layer.toNat, tag := r.cmd.tag.toNat, chunk := d.chunk, vec := r.vec
                        origin := r.cmd.origin, last := r.vec + 1 == r.cmd.fa.count, entry := r.cmd.entry
                        ups := ups, ecc := ecc, bad := bad }
  if d.op == 1 || d.op == 2 then s.residueFail n v [] else
  let (ok, t) := if addsPartial v.entry then s.readRes n v v.pos [4] r.outs.length else (true, s)
  if !ok then t else
  let (y, more) := (t.slice n).addPartials r v base
  (t.setSlice n y).drainVec n { v with vals := y.readOut r base, bad := bad + more }

/-- A pixel row of the INV unit enters its chain (R162). -/
def State.drainInvRow (s : State) (n : Nat) (r : InvRow) (last : Bool) (ups : List DrainUpset) (ecc : List TsEcc) : State :=
  let w := chOutW r.entry
  s.drainVec n { vals := r.vals.map Acc.float, cells := 64, outRow := r.row0
                 pos := { m := r.py * w + r.px, oy := r.py, ox := r.px }, tile := r.tile, layer := r.layer.toNat
                 tag := r.tag.toNat, chunk := 0, vec := r.py * w + r.px, origin := r.origin, last := last
                 entry := r.entry, ups := ups, ecc := ecc, bad := 0 }

/-- DRAIN_ROW (R30, R58, R122, R154, R162): in cycle cyc, not a frozen one, the oldest row of the grid enters the drain
once its check sum has come; when no array row is due, a row of the INV unit. -/
def execDrainRow (sl : SliceId) (d : DrainStep) (s : State) : Host.Outcome State Fault Refusal :=
  let u := s.feedTo sl d.cyc
  let a := (u.slice sl).arr
  let due := match a.rows with
    | r :: _ => decide (thaw a.frozen r.enter 257 ≤ d.cyc)
    | [] => false
  if due && a.frozen.contains d.cyc then done s u else
  match a.rows, a.invRows, due with
  | r :: rest, _, true =>
    let t := u.modArr sl (fun a => { a with rows := rest, unjudged := a.unjudged ++ [r] })
    done s (t.drainArrRow sl r d.upsets d.ecc)
  | _, r :: rest, false =>
    let t := (u.modArr sl (fun a => { a with invRows := rest })).drainInvRow sl r rest.isEmpty d.upsets d.ecc
    done s (t.startXfm sl)
  | _, _, _ => done s u

/-- A balanced pairwise sum (R525). -/
def treeSum (add : Word → Word → Word) : Nat → List Word → Word
  | 0, l => (l[0]?).getD 0
  | k + 1, l =>
    treeSum add k ((List.range (l.length / 2)).map (fun i => add ((l[2 * i]?).getD 0) ((l[2 * i + 1]?).getD 0)))

/-- KIND of a failing row, none when it passes (R49 to R51). -/
def ArrRow.verdict (r : ArrRow) : Option Nat :=
  let outs := r.outs.map (fun o => if o.length == 4 then wordOf (combine (o.map BitVec.toInt)) else (o[0]?).getD 0)
  let levels := Nat.log2 r.outs.length
  if !r.float then
    if treeSum (· + ·) levels outs == r.sChk then none else some 1
  else
    let so := treeSum fadd levels outs
    let d := fsub r.sChk so
    if !((f32 r.sChk).isFinite && (f32 so).isFinite && (f32 r.base).isFinite && (f32 d).isFinite) then some 3
    else
      let bound := match f32 r.base with | .fin _ m e => FNum.fin false m (e - 10) | x => x
      if (f32 (fabs d)).le bound then none else some 2

/-- ROW_VERDICT (R49 to R54): the oldest drained row is judged; a failing one is recorded and posted. -/
def execRowVerdict (sl : SliceId) (s : State) : Host.Outcome State Fault Refusal :=
  match (s.slice sl).arr.unjudged with
  | [] => .next s
  | r :: rest =>
    let t := (s.modArr sl (fun a => { a with unjudged := rest })).count Obj.checkRows sl
    match r.verdict with
    | none => .next t
    | some k =>
      let t := if k == 3 then t.count Obj.checkNonfinite sl else t
      done s (t.failTile sl { tile := r.tile, kind := if r.cmd.arr.xpose then 5 else k, stage := 0xFF
                              layer := r.cmd.layer.toNat, tag := r.cmd.tag.toNat, chunk := r.cmd.drn.chunk, vec := r.vec })

end Sys2Proof.Machine
end

