-- ==== Sys2Proof/Machine/Verify.lean ====
section
/-! DEFINITION. The loader's verifier (R20, R43, R59, R62, R67, R70, R78, R94, R115, R127, R135 to R137, R140, R152, R153,
R164, R165, R167, R168, R280, R284).

The checks run in order of code; within one check program by program, and within a program along its path, which is
followed exactly. -/

namespace Sys2Proof.Machine

/-- Where a rejection lies (Table — Rejection record). -/
structure Reject where
  slot   : Nat
  prog   : Nat
  offset : Nat
  detail : Nat
  deriving DecidableEq, Repr

def Reject.package (detail : Nat) : Reject := { slot := 0xFF, prog := 0xFFFF, offset := 0xFFFFFFFF, detail := detail }

/-- What a path point finds wrong: slot and detail. -/
abbrev Flaw := Option (Nat × Nat)

def flawIf (c : Bool) (slot : Nat) (detail : Nat := 0) : Flaw := if c then some (slot, detail) else none
def Flaw.or (a b : Flaw) : Flaw := match a with | some _ => a | none => b
def flaws (l : List Flaw) : Flaw := l.findSome? id

/-! ## The path -/

/-- An operation under way at a point of the path: the rows it touches and the bundle that issued it. -/
inductive OpKind where
  | dinWrite
  | doutRead
  | faRead
  | fbRead
  | drnRead
  | drnWrite
  | xfmRead
  | xfmWrite
  deriving DecidableEq, Repr

structure PathOp where
  kind : OpKind
  rows : List Range
  off  : Nat
  /-- the bundle it belongs to, counted along the path, to drop the oldest -/
  num  : Nat
  /-- an XFM or DRN fence has come since (R164) -/
  past : Bool
  deriving DecidableEq, Repr

/-- Where the path stands. -/
inductive PathEnd where
  | running
  | halted
  /-- ran past the image -/
  | off
  /-- took a branch that R127 forbids -/
  | bad
  deriving DecidableEq, Repr

/-- A bank vector slot: the chunk last brought to it, and whether its cells hold a total not yet read out. -/
structure BankSlot where
  chunk : Nat
  holds : Bool
  deriving DecidableEq, Repr

structure Path where
  pc     : Nat
  count  : Nat
  stop   : PathEnd
  regs   : SeqRegs
  /-- counters that LC_SET has set and no finished LOOP has used up -/
  lcSet  : List Nat
  /-- weights of the most recent FB slot not yet swapped in, and the active ones: type and GROUP4 -/
  fresh  : Option (Nat × Bool)
  active : Option (Nat × Bool)
  last   : Option ArrCmd
  /-- FWD commands and the tile counts of ISSUEs since the previous FA MODE XFM -/
  fwd    : Nat
  issues : List Nat
  ops    : List PathOp
  bank   : List (Nat × BankSlot)
  /-- entries of the digest origin list used so far -/
  outs   : Nat
  /-- flags waited for so far -/
  waited : List Nat
  deriving DecidableEq, Repr

def Path.start : Path :=
  { pc := 0, count := 0, stop := .running, regs := SeqRegs.init, lcSet := [], fresh := none, active := none, last := none
    fwd := 0, issues := [], ops := [], bank := [], outs := 0, waited := [] }

/-- A program of a package under the verifier. -/
structure Prog where
  idx  : Nat
  img  : Bytes
  pkg  : Package
  al   : Alloc
  deriving DecidableEq, Repr

def Prog.hdr (g : Prog) (off : Nat) : Nat := fld g.img off 4
def Prog.has (g : Prog) (off k : Nat) : Bool := (g.hdr off).testBit k
def Prog.word (g : Prog) (off k : Nat) : Nat := fld g.img (off + 4 + 8 * slotsBelow (g.hdr off) k) 8

/-- Starts of the bundles of an image. -/
def Prog.starts (g : Prog) : Nat → Nat → List Nat
  | 0, _ => []
  | k + 1, off =>
    if g.img.length ≤ off then [] else off :: g.starts k (off + bundleLen (g.hdr off))

def Prog.bundles (g : Prog) : List Nat := g.starts (g.img.length / 4 + 1) 0

/-! ## What the slots of a bundle do -/

def Prog.window (g : Prog) (k : Nat) : Bytes := (g.pkg.windows[k]?).getD (zeros 48)
def Prog.xfm (g : Prog) (k : Nat) : Bytes := (g.pkg.transforms[k]?).getD (zeros 32)
def Prog.chain (g : Prog) (k : Nat) : Bytes := (g.pkg.chains[k]?).getD (zeros 64)

def oneRow (r : Int) : Range := { lo := r, hi := r }

/-- Rows that an FA slot reads. -/
def Prog.faRows (g : Prog) (p : Path) (w : Nat) : List Range :=
  let row := rowBase p.regs.ab w 39 (bits w 38 36) (bits w 13 0)
  let n := bits w 61 48 + 1
  match bits w 63 62 with
  | 0 =>
    let st := bits w 27 14
    if st ≤ 1 then [{ lo := row, hi := row + (st * (n - 1) : Nat) }] else (List.range n).map (fun m => oneRow (row + (m * st : Nat)))
  | 1 => (List.range n).flatMap (fun m =>
      (winVector (g.window (bits w 47 40)) row m).filterMap (fun c => c.at'.map (fun a => oneRow a.1)))
  | _ => []

/-- Rows that an FB slot reads. -/
def fbRows (p : Path) (w : Nat) : List Range :=
  let row := rowBase p.regs.ab w 51 (bits w 50 48) (bits w 13 0)
  let n := if bits w 63 62 == 1 then 68 else if bits w 61 59 == 6 then min 32 (bits w 58 52 + 1) else bits w 58 52 + 1
  [{ lo := row, hi := row + (n - 1 : Nat) }]

/-- The organisation that a pair of types selects (Table — Type pairs). -/
def pairOrg (wt : Nat) (group4 : Bool) (at' : Nat) : Option Org :=
  match wt, at' with
  | 0, 0 => if group4 then none else some .bit8
  | 1, 0 => some (if group4 then .bit8 else .int4)
  | 2, 2 => if group4 then none else some .bit16
  | 5, 5 => if group4 then none else some .bit16
  | 6, 6 => if group4 then none else some .complex
  | a, b => if !group4 && (a == 3 || a == 4) && (b == 3 || b == 4) then some .bit8 else none

/-- The weights that an ARR slot of the bundle at off applies. -/
def Prog.weightsAt (g : Prog) (p : Path) (off : Nat) (cont : Bool) : Option (Nat × Bool) :=
  if cont then p.active
  else if g.has off 28 then some (bits (g.word off 28) 61 59, bits (g.word off 28) 63 62 == 1) else p.fresh

def Prog.orgAt (g : Prog) (p : Path) (off : Nat) : Org :=
  let w := g.word off 29
  match g.weightsAt p off (bits w 63 60 == 2) with
  | some (t, q) => (pairOrg t q (bits w 59 57)).getD .bit8
  | none => .bit8

/-- Rows written by a DRN slot that reads out, and rows of its residual. -/
def Prog.drnRows (g : Prog) (p : Path) (off : Nat) : List Range × List Range :=
  let w := g.word off 31
  if bits w 63 60 != 3 && bits w 63 60 != 4 then ([], []) else
  let e := g.chain (bits w 59 52)
  let row := rowBase p.regs.ab w 37 (bits w 36 34) (bits w 13 0)
  let n := bits (g.word off 27) 61 48 + 1
  let outs := (g.orgAt p off).outs
  let es := elemBytes (chOtype e)
  let rows (base : Int) (es : Nat) : List Range :=
    if chForm e == 0 then [{ lo := base, hi := base + (n * ((outs * es + 127) / 128) - 1 : Nat) }]
    else (List.range n).flatMap (fun m => (List.range outs).filterMap (fun j =>
      (chPlace e outs es base { m := m, oy := m / chOutW e, ox := m % chOutW e } j).map (fun a => oneRow a.1)))
  if chForm e == 5 then
    let k := (row - (fld e 20 2 : Int)).toNat
    ([{ lo := row, hi := row + (n - 1 : Nat) },
      { lo := (fld e 53 2 + k / 128 : Nat), hi := (fld e 53 2 + (k + n - 1) / 128 : Nat) }], [])
  else
    let xp := if (chStages e).contains 8 then [({ lo := (fld e 50 2 : Nat), hi := (fld e 50 2 + outs - 1 : Nat) } : Range)] else []
    (rows row es ++ xp,
      if (chStages e).contains 4 then rows (row - (fld e 20 2 : Int) + (fld e 26 2 : Int)) (elemBytes (fld e 28 1)) else [])

def rowsUpTo (lo n : Nat) : Range := { lo := lo, hi := (lo : Int) + n - 1 }

/-- Rows read and written by an XFM slot. -/
def Prog.xfmRows (g : Prog) (p : Path) (off : Nat) : List Range × List Range :=
  let w := g.word off 30
  let e := g.xfm (bits w 60 53)
  let T := if w.testBit 61 then 64 else 32
  let slab := rowsUpTo (fld e 20 2) (bins T * xtTiles e)
  let row (b : Nat) : Int := rowBase p.regs.ab w 52 (bits w 51 49) b
  if bits w 63 62 == 1 then
    let c := g.chain (fld e 28 1)
    let writes := (List.range (fld e 10 2)).flatMap (fun y => (List.range (fld e 8 2)).flatMap (fun x =>
      (List.range (xtCh e)).filterMap (fun j =>
        (chPlace c (xtCh e) (elemBytes (chOtype c)) (row (bits w 27 14)) { m := y * chOutW c + x, oy := y, ox := x } j).map
          (fun a => oneRow a.1))))
    let xp := if (chStages c).contains 8 then [rowsUpTo (fld c 50 2) (xtCh e)] else []
    ([slab, rowsUpTo (fld e 26 2) ((bins T * xtTiles e + 127) / 128)], writes ++ xp)
  else if xtOp e == 1 then
    ((xtRows e (row (bits w 13 0)) T).map oneRow, [slab, rowsUpTo (fld e 22 2) 1])
  else
    ([{ lo := row (bits w 13 0), hi := row (bits w 13 0) + (xtTiles e : Int) - 1 }, rowsUpTo (fld e 22 2) 1,
      rowsUpTo (fld e 24 2) ((bins T + 127) / 128)], [])

/-- The descriptor of a DIN or DOUT slot with its bases. -/
def Prog.desc (g : Prog) (p : Path) (w : Nat) : Bytes :=
  descBases p.regs.ab ((g.pkg.descriptors[bits w 63 54]?).getD (zeros 64)) w

/-- The list entries that the package holds for descriptor i. -/
def pkgList (k : Package) (i : Nat) : Option (List Bytes) := (k.lists.find? (fun l => l.1 == i)).map (·.2)

/-- Rows of the list of a GATHER or BOX. -/
def listRows (b : Bytes) : List Range := if dMode b == 1 || dMode b == 2 then [(listRange b).units 128] else []

/-- Rows of the tile store that descriptor i moves. A GATHER whose list the package does not hold reaches no further than
the longest runs, and the allocation, allow: its list is checked when it is read (R107). -/
def Prog.descRows (g : Prog) (i : Nat) (b : Bytes) : List Range :=
  match dMode b with
  | 0 =>
    (List.range (fld b 24 2)).flatMap (fun (i3 : Nat) => (List.range (fld b 22 2)).flatMap (fun (i2 : Nat) => (List.range (fld b 20 2)).map (fun (i1 : Nat) =>
      let lo := (dTs b : Int) + (i1 : Int) * signed 32 (fld b 40 4) + (i2 : Int) * signed 32 (fld b 44 4)
        + (i3 : Int) * signed 32 (fld b 48 4)
      ({ lo := lo, hi := lo + (fld b 16 4 : Int) - 1 } : Range).units 128)))
  | 1 =>
    let hi : Int := match pkgList g.pkg i with
      | some l => (dTs b + sumOf (fun e => fld e 4 2) (l.take (fld b 20 2)) : Nat) - 1
      | none => max (dTs b : Int) (min ((g.al.len : Int) - 1) (dTs b + 65535 * fld b 20 2 - 1 : Nat))
    [({ lo := (dTs b : Int), hi := hi } : Range).units 128]
  | _ => (List.range (fld b 20 2)).map (fun k =>
      ({ lo := (dTs b + k * fld b 40 4 : Nat), hi := (dTs b + k * fld b 40 4 : Nat) + (cropBytes b : Int) - 1 } : Range).units 128)

/-- The operations that the bundle at the path's point starts, with the rows they touch. -/
def Prog.opsAt (g : Prog) (p : Path) : List PathOp :=
  let o := p.pc
  let op (k : OpKind) (r : List Range) : List PathOp := if r.isEmpty then [] else [{ kind := k, rows := r, off := o, num := p.count, past := false }]
  (if g.has o 25 then op .dinWrite (g.descRows (bits (g.word o 25) 63 54) (g.desc p (g.word o 25))) else []) ++
  (if g.has o 26 then op .doutRead (g.descRows (bits (g.word o 26) 63 54) (g.desc p (g.word o 26))) else []) ++
  (if g.has o 27 then op .faRead (g.faRows p (g.word o 27)) else []) ++
  (if g.has o 28 then op .fbRead (fbRows p (g.word o 28)) else []) ++
  (if g.has o 31 then op .drnWrite (g.drnRows p o).1 ++ op .drnRead (g.drnRows p o).2 else []) ++
  (if g.has o 30 then op .xfmRead (g.xfmRows p o).1 ++ op .xfmWrite (g.xfmRows p o).2 else [])

/-- The operations of a kind but for the last n issued are over. -/
def dropOps (k : OpKind) (n : Nat) (l : List PathOp) : List PathOp :=
  let keep := (l.filter (fun o => o.kind == k)).reverse.take n
  l.filter (fun o => o.kind != k || keep.contains o)

/-- What the fences of a header have ordered (Table — Fence conditions). -/
def fenceOps (hdr : Nat) (l : List PathOp) : List PathOp :=
  let w := bits hdr 23 22
  let l := if hdr.testBit 16 then dropOps .dinWrite w l else l
  let l := if hdr.testBit 17 then dropOps .doutRead w l else l
  let l := if hdr.testBit 18 then dropOps .fbRead 0 l else l
  let l := if hdr.testBit 19 then dropOps .faRead 0 l else l
  let l := if hdr.testBit 20 then dropOps .drnWrite 0 (dropOps .drnRead 0 (dropOps .faRead 0 l)) else l
  let l := if hdr.testBit 21 then dropOps .xfmRead 0 (dropOps .xfmWrite 0 l) else l
  if hdr.testBit 20 || hdr.testBit 21 then l.map (fun o => { o with past := true }) else l

/-- The bank slots after a DRN slot. -/
def bankSlots (w n : Nat) (bank : List (Nat × BankSlot)) : List (Nat × BankSlot) :=
  (List.range n).foldl (fun b m => tput b (bits w 28 20 + m) { chunk := bits w 51 38, holds := decide (bits w 63 60 ≤ 2) }) bank

/-- The scalar slot's effect on the path. -/
def Prog.sclStep (g : Prog) (p q : Path) : Path :=
  if !g.has p.pc 24 then q else
  let w := g.word p.pc 24
  let a := Fin.ofNat 8 (bits w 57 55)
  let c := Fin.ofNat 4 (bits w 54 53)
  let imm := BitVec.ofNat 32 w
  let target := w % 2 ^ 20
  let jump (q : Path) (back : Bool) : Path :=
    if !g.bundles.contains target || (back && decide (target ≤ p.pc)) || (!back && decide (p.pc < target)) then
      { q with stop := .bad } else { q with pc := target }
  match sclOp w with
  | 1 => { q with regs := { q.regs with lc := q.regs.lc.set a imm }
                  lcSet := if imm == 0 then q.lcSet.filter (· != a.val) else ins q.lcSet a.val }
  | 2 => { q with regs := { q.regs with lc := q.regs.lc.set a (q.regs.lc[a] + imm) } }
  | 3 => { q with regs := { q.regs with ab := q.regs.ab.set a imm } }
  | 4 => { q with regs := { q.regs with ab := q.regs.ab.set a (q.regs.ab[a] + imm) } }
  | 5 => { q with regs := { q.regs with cmp := q.regs.cmp.set c (condHolds (bits w 52 51) p.regs.lc[a] imm) } }
  | 6 => if p.regs.cmp[c] then jump q true else q
  | 7 => if p.regs.cmp[c] then q else jump q true
  | 8 =>
    let v := p.regs.lc[a] - 1
    let q := { q with regs := { q.regs with lc := q.regs.lc.set a v, cmp := q.regs.cmp.set c (v != 0) } }
    if !p.lcSet.contains a.val then { q with stop := .bad }
    else if v != 0 then jump q false else { q with lcSet := q.lcSet.filter (· != a.val) }
  | 0x10 => { q with waited := ins q.waited (w % 1024) }
  | 0x3F => { q with stop := .halted }
  | _ => q

/-- One bundle along the path. -/
def Prog.step (g : Prog) (p : Path) : Path :=
  let o := p.pc
  let hdr := g.hdr o
  let len := bundleLen hdr
  if g.img.length < o + len then { p with stop := .off } else
  let arr := g.word o 29
  let hasArr := g.has o 29 && (bits arr 63 60 == 1 || bits arr 63 60 == 2)
  let count := bits (g.word o 27) 61 48 + 1
  let fb := if g.has o 28 then some (bits (g.word o 28) 61 59, bits (g.word o 28) 63 62 == 1) else p.fresh
  let xw := g.word o 30
  let isFwd := g.has o 30 && bits xw 63 62 == 0
  let e := g.xfm (bits xw 60 53)
  let xfmTile := g.has o 27 && bits (g.word o 27) 63 62 == 2
  let q : Path := { p with
    pc := o + len, count := p.count + 1
    fresh := if hasArr && bits arr 63 60 == 1 then none else fb
    active := if !g.has o 29 then p.active
      else if bits arr 63 60 == 3 then none else if bits arr 63 60 == 1 then fb else p.active
    last := if hasArr then some { cont := bits arr 63 60 == 2, atype := bits arr 59 57, xpose := arr.testBit 56 } else p.last
    fwd := (if xfmTile then 0 else p.fwd) + (if isFwd then 1 else 0)
    issues := (if xfmTile then [] else p.issues) ++ (if isFwd && xtOp e == 2 then [xtTiles e] else [])
    ops := fenceOps hdr p.ops ++ g.opsAt p
    bank := if g.has o 31 then bankSlots (g.word o 31) count p.bank else p.bank
    outs := if g.has o 31 && (bits (g.word o 31) 63 60 == 3 || bits (g.word o 31) 63 60 == 4) then p.outs + 1 else p.outs }
  g.sclStep p q

/-- The first flaw that a check finds along the path. -/
def Prog.walk (g : Prog) (chk : Path → Flaw) : Nat → Path → Option Reject
  | 0, _ => none
  | k + 1, p =>
    match p.stop with
    | .running =>
      match chk p with
      | some (slot, detail) => some { slot := slot, prog := g.idx, offset := p.pc, detail := detail }
      | none => g.walk chk k (g.step p)
    | _ => none

/-- Where the path ends. -/
def Prog.finish (g : Prog) : Nat → Path → Path
  | 0, p => p
  | k + 1, p => match p.stop with
    | .running => g.finish k (g.step p)
    | _ => p

def pathLimit : Nat := 4294967296

/-! ## Checks 0x03 to 0x05 -/

/-- 0x03 PROGRAM. -/
def Prog.badProgram (g : Prog) : Option Reject :=
  let bad (o : Nat) : Reject := { slot := 0, prog := g.idx, offset := o, detail := 0 }
  if 2 ^ 20 < g.img.length then some { slot := 0xFF, prog := g.idx, offset := 0xFFFFFFFF, detail := 0 }
  else match g.bundles.find? (fun o => decide (g.img.length < o + bundleLen (g.hdr o))) with
    | some o => some (bad o)
    | none =>
      let e := g.finish (pathLimit + 1) Path.start
      if e.stop == .off then some (bad e.pc) else none

/-- Bits hi to lo of w hold something. -/
def anyBit (w hi lo : Nat) : Bool := bits w hi lo != 0

/-- Fields that an SCL operation does not use. -/
def sclUnused (w : Nat) : Bool :=
  anyBit w 50 32 || (match sclOp w with
    | 1 => anyBit w 54 51
    | 2 => anyBit w 54 51
    | 3 => anyBit w 54 51
    | 4 => anyBit w 54 51
    | 5 => false
    | 6 => anyBit w 57 55 || anyBit w 52 51 || anyBit w 31 20
    | 7 => anyBit w 57 55 || anyBit w 52 51 || anyBit w 31 20
    | 8 => anyBit w 52 51 || anyBit w 31 20
    | 0x10 => anyBit w 57 51 || anyBit w 31 10
    | 0x11 => anyBit w 57 51 || anyBit w 31 10
    | 0x12 => anyBit w 57 51 || anyBit w 31 10
    | 0x18 => anyBit w 57 51 || anyBit w 31 16
    | 0x3F => anyBit w 57 0
    | _ => false)

/-- 0x04 RESERVED_BIT in a bundle. -/
def Prog.reservedBit (g : Prog) (p : Path) : Flaw :=
  let o := p.pc
  let w := g.word o
  flaws [flawIf (g.has o 24 && sclUnused (w 24)) 24, flawIf (g.has o 25 && anyBit (w 25) 45 0) 25,
    flawIf (g.has o 26 && anyBit (w 26) 45 0) 26,
    flawIf (g.has o 27 && (anyBit (w 27) 35 28 || (match bits (w 27) 63 62 with
      | 0 => anyBit (w 27) 47 40
      | 1 => anyBit (w 27) 27 14
      | _ => anyBit (w 27) 47 0))) 27,
    flawIf (g.has o 28 && anyBit (w 28) 47 14) 28,
    flawIf (g.has o 29 && (anyBit (w 29) 55 0 || (bits (w 29) 63 60 == 3 && anyBit (w 29) 59 56))) 29,
    flawIf (g.has o 30 && (anyBit (w 30) 48 28 || (if bits (w 30) 63 62 == 1 then anyBit (w 30) 13 0 else anyBit (w 30) 27 14))) 30,
    flawIf (g.has o 31 && (anyBit (w 31) 33 29 || anyBit (w 31) 19 14
      || (decide (bits (w 31) 63 60 ≤ 2) && (anyBit (w 31) 59 52 || anyBit (w 31) 37 34 || anyBit (w 31) 13 0)))) 31]

/-- 0x05 RESERVED_CODE in a bundle. -/
def Prog.reservedCode (g : Prog) (p : Path) : Flaw :=
  let o := p.pc
  let w := g.word o
  let ops := [1, 2, 3, 4, 5, 6, 7, 8, 0x10, 0x11, 0x12, 0x18, 0x3F]
  flaws [flawIf (g.has o 24 && !ops.contains (sclOp (w 24))) 24, flawIf (g.has o 27 && bits (w 27) 63 62 == 3) 27,
    flawIf (g.has o 28 && (decide (2 ≤ bits (w 28) 63 62) || bits (w 28) 61 59 == 7)) 28,
    flawIf (g.has o 29 && (bits (w 29) 63 60 == 0 || decide (3 < bits (w 29) 63 60) || bits (w 29) 59 57 == 7)) 29,
    flawIf (g.has o 30 && decide (2 ≤ bits (w 30) 63 62)) 30,
    flawIf (g.has o 31 && (bits (w 31) 63 60 == 0 || decide (4 < bits (w 31) 63 60))) 31]

/-- Reserved bits of a descriptor (R4, R96 to R99). -/
def descReserved (b : Bytes) : Bool :=
  decide (2 ^ 34 ≤ dExt b) || decide (2 ^ 21 ≤ dTs b) ||
    (match dMode b with
     | 0 => !(zeroFrom b 26 2 && zeroFrom b 52 12)
     | 1 => !(zeroFrom b 22 2 && zeroFrom b 28 36)
     | 2 => !(zeroFrom b 44 20)
     | _ => false)

def descCode (b : Bytes) : Bool := decide (2 < dMode b) || (dMode b == 2 && decide (4 < fld b 39 1))

def windowReserved (e : Bytes) : Bool :=
  anyBit (fld e 0 2) 15 14 || !zeroFrom e 18 2 || !zeroFrom e 36 12
    || !zeroFrom e (20 + 2 * (winField e 13 11 + 1)) (16 - 2 * (winField e 13 11 + 1))

def chainReserved (e : Bytes) : Bool := (fld e 29 1).testBit 7 || !zeroFrom e 55 9 || !zeroFrom e (chStages e).length (8 - (chStages e).length)
def chainCode (e : Bytes) : Bool :=
  (chStages e).any (fun c => decide (8 < c)) || decide (5 < chForm e) || !([0, 1, 2, 3, 4, 5, 8, 9].contains (chOtype e))

/-! ## Checks 0x06 to 0x09 -/

/-- 0x06 SLOT_PAIRING. -/
def Prog.pairing (g : Prog) (p : Path) : Flaw :=
  let o := p.pc
  let w := g.word o
  let op := if g.has o 29 then bits (w 29) 63 60 else 0
  let tile := op == 1 || op == 2
  flaws [flawIf (bits (g.hdr o) 17 16 == 0 && bits (g.hdr o) 23 22 != 0) 0,
    flawIf (g.has o 25 && dDir ((g.pkg.descriptors[bits (w 25) 63 54]?).getD (zeros 64))) 25,
    flawIf (g.has o 26 && decide (bits (w 26) 63 54 < g.pkg.descriptors.length)
      && !dDir ((g.pkg.descriptors[bits (w 26) 63 54]?).getD (zeros 64))) 26,
    flawIf (g.has o 27 && (!tile || (bits (w 27) 63 62 == 2 && p.fwd == 0))) 27,
    flawIf (g.has o 29 && ((tile && !(g.has o 27 && g.has o 31)) || (op == 3 && (g.has o 27 || g.has o 31)))) 29,
    flawIf (op == 1 && (g.weightsAt p o false).isNone) 29,
    flawIf (op == 2 && (p.active.isNone || (match p.last with
      | some a => a.atype != bits (w 29) 59 57 || a.xpose != (w 29).testBit 56
      | none => true))) 29,
    flawIf (g.has o 31 && !tile) 31]

/-- 0x07 TYPE in a bundle. -/
def Prog.typeFlaw (g : Prog) (p : Path) : Flaw :=
  let o := p.pc
  let w := g.word o
  let op := if g.has o 29 then bits (w 29) 63 60 else 0
  let fb := w 28
  let rows := bits fb 58 52
  flaws [flawIf (g.has o 28 && (if bits fb 63 62 == 1 then rows != 127 || bits fb 61 59 != 1
      else [2, 5, 6].contains (bits fb 61 59) && decide (63 < rows))) 28,
    (if op == 1 || op == 2 then
      match g.weightsAt p o (op == 2) with
      | some (t, q) =>
        flawIf ((pairOrg t q (bits (w 29) 59 57)).isNone || ((w 29).testBit 56 && (t == 1 || t == 6))) 29
      | none => none
     else none)]

/-- A format in a role that Table — Element formats lists (R62). -/
def formatOk (u : FormatUse) : Bool :=
  match u.format with
  | 1 => u.role == 0
  | 0 => decide (u.role ≤ 2)
  | 2 => decide (u.role ≤ 2)
  | 3 => decide (u.role ≤ 2)
  | 4 => decide (u.role ≤ 2)
  | 5 => decide (u.role ≤ 2)
  | 8 => (u.role == 3 && u.intLayer) || u.role == 5
  | 9 => u.role == 4 || (u.role == 3 && !u.intLayer) || u.role == 5
  | _ => false

/-- A chain writes and reads only formats in their roles (R62): no int4 output or residual, no complex residual, and an
unscaled partial-sum tensor is read only before SCALE, with a factor of 1.0 (R77). -/
def chainTypes (e : Bytes) : Bool :=
  let rt := fld e 28 1
  let early := !((chStages e).takeWhile (fun c => c != 4)).contains 2
  chOtype e != 1 && (!(chStages e).contains 4 || [0, 2, 3, 4, 5].contains rt
    || ((rt == 8 || rt == 9) && early && fld e 32 4 == 0x3F800000))

/-- A group-scaled tile is laid out as four blocks of 2,176 bytes, the last 64 of each zero (R70). -/
def group4Ok (b : Bytes) : Bool := b.length == 8704 && (List.range 4).all (fun i => zeroFrom b (2176 * i + 2112) 64)

/-- No component of a complex tile is −32,768 (R157). -/
def complexOk (b : Bytes) : Bool := (List.range (b.length / 2)).all (fun i => fld b (2 * i) 2 != 0x8000)

/-- 0x08 BRANCH: targets of every branch on the path. -/
def Prog.branchFlaw (g : Prog) (p : Path) : Flaw :=
  if !g.has p.pc 24 then none else
  let w := g.word p.pc 24
  let t := w % 2 ^ 20
  match sclOp w with
  | 6 => flawIf (!g.bundles.contains t || decide (t ≤ p.pc)) 24
  | 7 => flawIf (!g.bundles.contains t || decide (t ≤ p.pc)) 24
  | 8 => flawIf (!g.bundles.contains t || decide (p.pc < t)) 24
  | _ => none

/-- The LOOPs of an image: target and place. -/
def Prog.loops (g : Prog) : List (Nat × Nat) :=
  g.bundles.filterMap (fun o => if g.has o 24 && sclOp (g.word o 24) == 8 then some (g.word o 24 % 2 ^ 20, o) else none)

/-- 0x09 LOOP: the counter is set before the loop and written only by it, loops nest at most eight deep, the path issues at
most 2³² bundles. -/
def Prog.loopFlaw (g : Prog) (p : Path) : Flaw :=
  if decide (pathLimit ≤ p.count) then some (0, 0)
  else if !(g.has p.pc 24 && sclOp (g.word p.pc 24) == 8) then none
  else
    let w := g.word p.pc 24
    let a := bits w 57 55
    let t := w % 2 ^ 20
    let inside := g.bundles.filter (fun o => decide (t ≤ o) && decide (o < p.pc))
    let writes (o : Nat) : Bool := g.has o 24 && bits (g.word o 24) 57 55 == a && [1, 2, 8].contains (sclOp (g.word o 24))
    let depth := (g.loops.filter (fun l => decide (l.1 ≤ p.pc) && decide (p.pc ≤ l.2))).length
    flawIf (!p.lcSet.contains a || inside.any writes || decide (8 < depth)) 24

/-! ## Checks 0x0A to 0x0D -/

def Range.inside (r : Range) (n : Nat) : Bool := decide (0 ≤ r.lo) && decide (r.hi < n)

/-- 0x0A STATIC_RANGE in a bundle: rows, bank slots, table and descriptor indices, writes below the data area, flags. -/
def Prog.rangeFlaw (g : Prog) (p : Path) : Flaw :=
  let o := p.pc
  let w := g.word o
  let rows := g.al.len / 128
  let out (l : List Range) : Bool := l.any (fun r => !r.inside rows)
  let low (l : List Range) : Bool := l.any (fun r => decide (r.lo < g.al.dataRow))
  let flag (k : Nat) : Bool := g.has o 24 && [0x10, 0x11, 0x12].contains (sclOp (w k)) && !g.pkg.flagsDeclared.contains (w k % 1024)
  let dflag (b : Bytes) : Bool := dFlagEn b && !g.pkg.flagsDeclared.contains (dFlag b)
  let din := g.desc p (w 25)
  let dout := g.desc p (w 26)
  let op := bits (w 31) 63 60
  let isOut := op == 3 || op == 4
  let dr := g.drnRows p o
  let xr := g.xfmRows p o
  let noEntry (k : Nat) : Bool := decide (g.pkg.chains.length ≤ k)
    || ((chStages (g.chain k)).contains 3 && decide (g.pkg.actTabs.length ≤ fld (g.chain k) 11 1))
  let cells := (g.orgAt p o).outs * (if (g.orgAt p o) == .bit16 && (g.weightsAt p o (bits (w 29) 63 60 == 2)).map (·.1) == some 2 then 4 else 1)
  let count := bits (w 27) 61 48 + 1
  flaws [flawIf (flag 24) 24,
    flawIf (g.has o 25 && (decide (g.pkg.descriptors.length ≤ bits (w 25) 63 54) || dflag din || out (listRows din)
      || out (g.descRows (bits (w 25) 63 54) din) || low (g.descRows (bits (w 25) 63 54) din))) 25,
    flawIf (g.has o 26 && (decide (g.pkg.descriptors.length ≤ bits (w 26) 63 54) || dflag dout || out (listRows dout)
      || out (g.descRows (bits (w 26) 63 54) dout))) 26,
    flawIf (g.has o 27 && ((bits (w 27) 63 62 == 1 && decide (g.pkg.windows.length ≤ bits (w 27) 47 40)) || out (g.faRows p (w 27)))) 27,
    flawIf (g.has o 28 && out (fbRows p (w 28))) 28,
    flawIf (g.has o 30 && (decide (g.pkg.transforms.length ≤ bits (w 30) 60 53) || out xr.1 || out xr.2 || low xr.2
      || (bits (w 30) 63 62 == 1 && noEntry (fld (g.xfm (bits (w 30) 60 53)) 28 1)))) 30,
    flawIf (g.has o 31 && (decide (g.pkg.bankVecs * 128 < (bits (w 31) 28 20 + count) * cells)
      || (isOut && (noEntry (bits (w 31) 59 52) || out dr.1 || out dr.2 || low dr.1)))) 31]

def rowsMeet (a b : List Range) : Bool := a.any (fun x => b.any x.meets)

/-- The pairs of an earlier and a later operation that a fence must order (R94, R164, check 0x0C). -/
def mustOrder (a b : OpKind) : Bool :=
  match a, b with
  | .dinWrite, k => k == .faRead || k == .fbRead || k == .drnRead || k == .xfmRead || k == .doutRead
  | .drnWrite, k => k == .faRead || k == .fbRead || k == .doutRead || k == .xfmWrite
  | .xfmWrite, k => k == .faRead || k == .fbRead || k == .doutRead
  | .faRead, k => k == .dinWrite || k == .drnWrite || k == .xfmWrite
  | .fbRead, k => k == .dinWrite || k == .drnWrite || k == .xfmWrite
  | .drnRead, k => k == .dinWrite
  | .doutRead, k => k == .dinWrite || k == .drnWrite || k == .xfmWrite
  | .xfmRead, k => k == .dinWrite || k == .xfmWrite

def opSlot : OpKind → Nat
  | .dinWrite => 25
  | .doutRead => 26
  | .faRead => 27
  | .fbRead => 28
  | .drnRead => 31
  | .drnWrite => 31
  | .xfmRead => 30
  | .xfmWrite => 30

/-- An earlier operation, or another of the same bundle, that a fence must still order before b (R94, R118): an XFM or a DRN
fence orders a TRANSFORM's writes after ISSUE, INVERSE and drain writes (R164). -/
def unordered (a b : PathOp) : Bool :=
  mustOrder a.kind b.kind && rowsMeet a.rows b.rows
    && !(b.kind == .xfmWrite && a.past && (a.kind == .xfmRead || a.kind == .drnWrite))

def isRead (k : OpKind) : Bool := k == .doutRead || k == .faRead || k == .fbRead || k == .drnRead || k == .xfmRead

/-- 0x0C FENCE. -/
def Prog.fenceFlaw (g : Prog) (p : Path) : Flaw :=
  let old := fenceOps (g.hdr p.pc) p.ops
  let new := g.opsAt p
  flaws (new.map (fun b =>
    match (old.find? (fun a => unordered a b)).orElse (fun _ => new.find? (fun a => unordered a b || (unordered b a && isRead b.kind))) with
    | some a => some (opSlot b.kind, a.off)
    | none => flawIf (isRead b.kind && g.pkg.sliverRegions.any (fun r =>
        rowsMeet [rowsUpTo r.row r.rows] b.rows && !p.waited.contains r.flag
          && !(g.has p.pc 24 && sclOp (g.word p.pc 24) == 0x10 && g.word p.pc 24 % 1024 == r.flag))) (opSlot b.kind)))

/-- Chunks that one pass, and one accumulation, may bring to a cell (R59): 4,096 and 1,048,576 K-elements of 128, or 64
in the 16-bit organisations, a chunk. -/
def passChunks (o : Org) : Nat := if o.wide then 64 else 32
def accChunks (o : Org) : Nat := if o.wide then 16384 else 8192

/-- 0x0D ACCUMULATION in a bundle; the detail is the bank vector slot. What leaves the bank unscaled is the result of one
pass (R59, R77). -/
def Prog.accFlaw (g : Prog) (p : Path) : Flaw :=
  if !g.has p.pc 31 then none else
  let w := g.word p.pc 31
  let op := bits w 63 60
  let chunk := bits w 51 38
  let slot := bits w 28 20
  let org := g.orgAt p p.pc
  let unscaled := (op == 3 || op == 4) && decide (8 ≤ chOtype (g.chain (bits w 59 52)))
  if accChunks org ≤ chunk || (unscaled && passChunks org ≤ chunk) then some (31, slot)
  else if op == 1 || op == 4 then flawIf (chunk != 0) 31 slot
  else
    let count := bits (g.word p.pc 27) 61 48 + 1
    match (List.range count).find? (fun m => match tfind p.bank (slot + m) with
      | some b => !b.holds || b.chunk + 1 != chunk
      | none => true) with
    | some m => some (31, slot + m)
    | none => none

/-! ## Checks 0x0E to 0x11 -/

/-- 0x0E BUDGET. -/
def pkgOverBudget (k : Package) : Bool :=
  decide (2 ^ 21 < k.tsAlloc) || decide (32768 < k.bankVecs * 128) || decide (1024 < k.descriptors.length)
    || decide (256 < k.windows.length) || decide (256 < k.transforms.length) || decide (256 < k.chains.length)
    || decide (64 < k.actTabs.length) || decide (k.bufBytes < (k.resultBytes + 63) / 64 * 64 + 16 + 16 * k.layers.length)

/-- R67: a positive normal finite fp32 value. -/
def scaleOk (w : Word) : Bool := decide (0x00800000 ≤ w.toNat) && decide (w.toNat < 0x7F800000)

/-- Limits of a window entry (Table — Window entry, Table — Operator limits). -/
def windowOk (e : Bytes) : Bool :=
  let within (o lo hi : Nat) : Bool := decide (lo ≤ fld e o 2) && decide (fld e o 2 ≤ hi)
  let esz := winField e 2 2
  let lay := winField e 1 0
  let seg := if lay == 2 then 8 else (if lay == 1 then 32 else 16) * (if esz == 1 then 2 else 1)
  let per := 128 / seg
  decide (lay ≤ 2) && within 2 1 4095 && within 4 1 4095 && within 6 1 4095 && within 8 1 4095
    && decide ((fld e 6 2 + per - 1) / per ≤ fld e 14 2) && decide (fld e 8 2 * fld e 14 2 ≤ fld e 16 2)
    && (if lay == 2 then esz == 0 && winField e 13 11 == 0 && decide (fld e 20 2 % 16 * (winField e 8 7 + 1) + 1 ≤ 16)
        else decide (winField e 13 11 + 1 ≤ per)
          && (List.range (winField e 13 11 + 1)).all (fun i =>
            decide (fld e (20 + 2 * i) 2 % 16 ≤ 10) && decide (fld e (20 + 2 * i) 2 / 16 % 16 ≤ 10)))

/-- Limits of a transform entry. -/
def xfmOk (e : Bytes) : Bool :=
  let k (o : Nat) : Bool := decide (1 ≤ fld e o 1 ∧ fld e o 1 ≤ 31)
  decide (1 ≤ xtOp e ∧ xtOp e ≤ 3) && decide (1 ≤ xtCh e ∧ xtCh e ≤ 32) && decide (1 ≤ xtTiles e ∧ xtTiles e ≤ 64) && k 4 && k 5
    && (xtOp e != 1 || bits (fld e 1 1) 3 1 == 0 || bits (fld e 1 1) 3 1 == 2)

/-- Limits of a drain-chain entry (R150, R152, R154, R156). -/
def chainOk (e : Bytes) : Bool :=
  let st := chStages e
  let raw := decide (8 ≤ chOtype e)
  st.all (fun c => (st.filter (· == c)).length == 1) && (!st.contains 8 || st.getLast? == some 8)
    && (if chForm e == 5 then st.isEmpty else if raw then !st.contains 2 else st.contains 2)
    && ((chForm e != 3 && chForm e != 4) || elemBytes (chOtype e) == 1)
    && decide (1 ≤ chValid e) && decide (fld e 11 1 ≤ 63) && decide (fld e 12 1 ≤ 39) && decide (fld e 13 1 ≤ 47)
    && (chForm e != 4 || decide (1 ≤ fld e 52 1 ∧ fld e 52 1 ≤ 16))
    && (!st.contains 5 || (decide (2 ≤ chPool e 1 0) && decide (1 ≤ chPool e 3 2) && chForm e != 4 && chForm e != 5
        && decide (chPool e 1 0 ≤ fld e 30 2) && chOutW e == (fld e 30 2 - chPool e 1 0) / max 1 (chPool e 3 2) + 1))

/-- CLIP_LO is not above CLIP_HI (R154): on the path CLIP stands on, that of the tile before SCALE, that of OTYPE after
it. -/
def clipOk (e : Bytes) (float : Bool) : Bool :=
  let st := chStages e
  let onFloat := if (st.takeWhile (fun c => c != 6)).contains 2 then (elemFmt (chOtype e)).isSome else float
  !st.contains 6 || (if onFloat then FNum.le (Fmt.f32.unpack (fld e 40 4)) (Fmt.f32.unpack (fld e 44 4))
    else decide (signed 32 (fld e 40 4) ≤ signed 32 (fld e 44 4)))

/-- The outputs of a chain stay within the C, H and W of their digest origin entry (R280): outs outputs a vector at outRow,
of which OUT_VALID carry data, and the pixels of the vectors. -/
def originOk (o e : Bytes) (outs : Nat) (outRow : Int) (pixels : List Pos) : Bool :=
  let js := List.range (min (chValid e) outs)
  if chForm e == 5 then true
  else if chForm e == 0 then js.all (fun j => decide (fld o 2 2 + j < fld o 8 2))
  else js.all (fun j => decide (fld o 2 2 + chChannel e outs outRow j < fld o 8 2))
    && pixels.all (fun p => js.all (fun j => match chPlace e outs 1 outRow p j with
      | none => true
      | some _ =>
        let (y, x) := chPixel e p j
        decide (fld o 4 2 + y < fld o 10 2) && decide (fld o 6 2 + x < fld o 12 2)))

/-- The pixels that n vectors give after POOL, or as they are. -/
def chPixels (e : Bytes) (n : Nat) : List Pos :=
  let at' (m : Nat) : Pos := { m := m, oy := m / chOutW e, ox := m % chOutW e }
  if (chStages e).contains 5 then
    let rows := n / max 1 (fld e 30 2)
    let k := chPool e 1 0
    if rows < k then [] else (List.range (((rows - k) / max 1 (chPool e 3 2) + 1) * poolPw e)).map at'
  else (List.range n).map at'

def Prog.origin (g : Prog) (k : Nat) : Bytes := (((g.pkg.origins[g.idx]?).getD [])[k]?).getD (zeros 16)

/-- 0x11 OPERATOR in a bundle. -/
def Prog.operatorFlaw (g : Prog) (p : Path) : Flaw :=
  let o := p.pc
  let w := g.word o
  let fa := w 27
  let n := bits fa 61 48 + 1
  let win := g.window (bits fa 47 40)
  let wide := (g.orgAt p o).wide
  let q := bandQ win
  let scan := if winField win 1 0 == 2 then (fld win 2 2 + q - 1) / q * fld win 4 2 else fld win 2 2 * fld win 4 2
  let x := w 30
  let e := g.xfm (bits x 60 53)
  let T := if x.testBit 61 then 64 else 32
  let d := w 31
  let c := g.chain (bits d 59 52)
  let isOut := g.has o 31 && (bits d 63 60 == 3 || bits d 63 60 == 4)
  let row := rowBase p.regs.ab d 37 (bits d 36 34) (bits d 13 0) - (fld c 20 2 : Int)
  let pool := (chStages c).contains 5
  let inv := g.chain (fld e 28 1)
  let org := g.orgAt p o
  let outRow := rowBase p.regs.ab d 37 (bits d 36 34) (bits d 13 0)
  let wt := (g.weightsAt p o (bits (w 29) 63 60 == 2)).map (·.1)
  let float := org == .complex || (match wt with | some t => isFloat t | none => false)
  let src := rowBase p.regs.ab x 52 (bits x 51 49) (bits x 13 0) - (fld e 20 2 : Int)
  let dst := rowBase p.regs.ab x 52 (bits x 51 49) (bits x 27 14)
  let pixels := (List.range (fld e 10 2)).flatMap (fun y => (List.range (fld e 8 2)).map (fun i =>
    ({ m := y * chOutW inv + i, oy := y, ox := i } : Pos)))
  let most (h : Bytes) : Nat := if elemBytes (chOtype h) == 1 then 128 else 64
  flaws [flawIf (g.has o 27 && bits fa 63 62 == 1 && (n != scan || (winField win 2 2 == 1) != wide || (winField win 1 0 == 2 && org != .bit8))) 27,
    flawIf (g.has o 27 && bits fa 63 62 == 2 && p.issues != [n]) 27,
    flawIf (g.has o 30 && (decide (T < fld e 4 1) || decide (T < fld e 5 1) || (bits x 63 62 == 1) != (xtOp e == 3)
      || (xtOp e == 2 && (src % (max 1 (xtTiles e) : Nat) != 0 || decide (src < 0) || decide ((bins T * xtTiles e : Nat) ≤ src)))
      || (xtOp e == 3 && ((chStages inv).contains 5 || !clipOk inv true || decide (xtCh e < chValid inv)
        || ((chStages inv).contains 8 && decide (most inv < fld e 8 2 * fld e 10 2))
        || !originOk (g.origin (p.outs - 1)) inv (xtCh e) dst pixels)))) 30,
    flawIf (isOut && (decide ((g.orgAt p o).outs < chValid c)
      || (fld c 18 2 != 0 && row % (fld c 18 2 : Int) != 0)
      || ((chStages c).contains 8 && decide (most c < n)) || !clipOk c float
      || !originOk (g.origin p.outs) c (g.orgAt p o).outs outRow (chPixels c n)
      || (pool && decide (g.pkg.bankVecs < fld c 48 2 + (chPool c 1 0 - 1) * chOutW c)))) 31]

/-- The digest origin list of a program matches its path (R280). -/
def Prog.badOrigins (g : Prog) : Bool :=
  ((g.pkg.origins[g.idx]?).getD []).length != (g.finish (pathLimit + 1) Path.start).outs

/-! ## The verifier -/

/-- The geometry value of a subindex, GEO_COUNT first (R20, R21). -/
def geometryVal (sub : Nat) : Option Nat :=
  [13, 6, 256, 128, 128, 2097152, 262144, 16384, 737280, 48, 64, 256, 1024, 2048][sub]?

def pkgProgs (k : Package) (c : Nat) : List Prog :=
  (k.programs.zipIdx).map (fun (b, i) => { idx := i, img := b, pkg := k, al := makeAlloc c k i })

/-- The first rejection of a check along the paths of all programs. -/
def pkgOnPaths (k : Package) (c : Nat) (chk : Prog → Path → Flaw) : Option Reject :=
  (pkgProgs k c).findSome? (fun g => g.walk (chk g) (pathLimit + 1) Path.start)

/-- The first rejection of a check that looks at a bundle's words alone: along the path of each program, then in the bundles
that its path does not reach, in order of offset. -/
def pkgOnAll (k : Package) (c : Nat) (chk : Prog → Path → Flaw) : Option Reject :=
  (pkgProgs k c).findSome? (fun g =>
    (g.walk (chk g) (pathLimit + 1) Path.start).orElse (fun _ => g.bundles.findSome? (fun o =>
      (chk g { Path.start with pc := o }).map (fun f => { slot := f.1, prog := g.idx, offset := o, detail := f.2 }))))

/-- The first descriptor with a list entry that is bad. -/
def onLists (k : Package) (bad : Bytes → Bytes → Bool) : Option Reject :=
  ((k.descriptors.zipIdx).find? (fun d => dMode d.1 == 1 && ((pkgList k d.2).getD []).any (bad d.1))).map
    (fun d => Reject.package d.2)

def onDescs (k : Package) (bad : Bytes → Bool) : Option Reject :=
  ((k.descriptors.zipIdx).find? (fun d => bad d.1)).map (fun d => Reject.package d.2)

def plainIf (c : Bool) : Option Reject := if c then some (Reject.package 0) else none

def firstOf (l : List (Option Reject)) : Option Reject := l.findSome? id

/-- Check number code on package k for context c. -/
def pkgCheck (k : Package) (c : Nat) : Nat → Option Reject
  | 0x01 => plainIf (!k.headerOk)
  | 0x02 => (k.geometry.find? (fun g => geometryVal g.1 != some g.2)).map (fun g => Reject.package g.1)
  | 0x03 => (pkgProgs k c).findSome? Prog.badProgram
  | 0x04 => firstOf [pkgOnAll k c Prog.reservedBit, onDescs k descReserved, onLists k (fun _ e => fld e 6 2 != 0),
      plainIf (k.windows.any windowReserved || k.transforms.any (fun e => anyBit (fld e 1 1) 7 4 || !zeroFrom e 30 2)
        || k.chains.any chainReserved || k.origins.any (fun l => l.any (fun e => !zeroFrom e 14 2)))]
  | 0x05 => firstOf [pkgOnAll k c Prog.reservedCode, onDescs k descCode,
      plainIf (k.windows.any (fun e => winField e 1 0 == 3) || k.transforms.any (fun e => xtOp e == 0 || decide (3 < xtOp e))
        || k.chains.any chainCode)]
  | 0x06 => pkgOnPaths k c Prog.pairing
  | 0x07 => firstOf [pkgOnPaths k c Prog.typeFlaw, plainIf (k.group4Tiles.any (fun b => !group4Ok b) || k.formats.any (fun u => !formatOk u)
        || k.chains.any (fun e => !chainTypes e))]
  | 0x08 => pkgOnAll k c Prog.branchFlaw
  | 0x09 => pkgOnPaths k c Prog.loopFlaw
  | 0x0A => pkgOnPaths k c Prog.rangeFlaw
  | 0x0B => firstOf [onDescs k (fun b => (malformed b).isSome),
      onLists k (fun b e => fld e 4 2 == 0 || decide (fld b 24 4 * pageBytes < fld e 0 4 + fld e 4 2))]
  | 0x0C => pkgOnPaths k c Prog.fenceFlaw
  | 0x0D => firstOf [pkgOnPaths k c Prog.accFlaw,
      plainIf (k.kElements.any (fun e => decide (4096 < e.1) || decide (1048576 < e.2)))]
  | 0x0E => plainIf (pkgOverBudget k)
  | 0x0F => plainIf (k.scales.any (fun w => !scaleOk w) || k.layers.any (fun l => !scaleOk l.outScale))
  | 0x10 => plainIf (k.chains.any (fun e =>
      (chStages e).contains 7 && !((chStages e).takeWhile (fun s => s != 7)).contains 2))
  | 0x11 => firstOf [pkgOnPaths k c Prog.operatorFlaw,
      plainIf (k.windows.any (fun e => !windowOk e) || k.transforms.any (fun e => !xfmOk e) || k.chains.any (fun e => !chainOk e)
        || k.complexTiles.any (fun b => !complexOk b) || (pkgProgs k c).any Prog.badOrigins
        || k.filters.any (fun (h, w, st, freq) => decide (31 < max h w) || (decide (11 < max h w) && (decide (1 < st) || !freq)))
        || decide (8 < k.trained.length) || k.trained.any (fun t => !(t.pointwise && t.bf16)))]
  | _ => none

/-- The first failing check of package k in context c (R136). -/
def pkgVerify (k : Package) (c : Nat) : Option (Nat × Reject) :=
  (List.range 17).findSome? (fun i => (pkgCheck k c (i + 1)).map (fun r => (i + 1, r)))

/-- The rejection record (R137). -/
def State.rejectRecord (s : State) (c code : Nat) (r : Reject) : Bytes :=
  le 8 s.clk.lode ++ le 2 c ++ le 1 code ++ le 1 r.slot ++ le 2 r.prog ++ zeros 2 ++ le 4 r.offset ++ le 4 r.detail ++ zeros 8

end Sys2Proof.Machine
end

