-- ==== Sys2Proof/Machine/Items.lean ====
section
/-! DEFINITION. The execution of accepted commands, opcode by opcode (Table — Commands, R228, R235, R239, R242,
R258 to R260, R265, R266, R301). -/

namespace Sys2Proof.Machine

/-! ## Which command a queue executes next -/

/-- The precondition at execution: a LOAD or UNLOAD that was accepted holds its context itself (R239). -/
def State.holdsFor (s : State) (q : Nat) (i : Item) : Bool :=
  s.precond q i.seq i.entry ||
    ((i.opcode == 2 || i.opcode == 3) && (s.ctx i.context).byItem == some (q, i.seq))

/-- The item that queue q may execute now, when it has this opcode: the next in order, not held by BARRIER or by a
halted queue (R237, R241, R262). -/
def State.itemFor (s : State) (q op : Nat) : Option Item :=
  if !s.runs P.scp || !s.work.replayDone || (s.queue q).halted then none else
  match s.nextItem q with
  | none => none
  | some i => if i.opcode != op || (i.barrier && !s.earlierDone q i.seq) then none else some i

/-- A command executes: a deferred one only when its precondition holds (R265); one whose precondition no longer holds
is a state conflict. Afterwards the next item may begin its wait and the wait-for graph is built (R260, R261). -/
def State.command (s : State) (q op : Nat) (body : State → Item → State) : State :=
  match s.itemFor q op with
  | none => s
  | some i =>
    let t := if s.holdsFor q i then body s i
      else if i.deferred then s
      else s.finish q i.seq (Finish.plain St.stateConflict)
    (t.headWait q).buildGraph

/-- The item is under way: it no longer holds back the items behind it. -/
def State.begin (s : State) (q n : Nat) : State := s.modItem q n (fun i => { i with executing := true })

/-! ## RUN (R45, R237) -/

/-- The first job of queue q that is not dispatched, when every job before it that is not dispatched is already a
pending row of a decode batch. -/
def State.nextRow (s : State) (q : Nat) : Option Item :=
  match (s.queue q).items.find? (fun i => i.undispatched && !i.batched) with
  | some i => if i.isJob && s.isHead i.context then some i else none
  | none => none

/-- RUN: the job becomes ready for dispatch; a job of a language-head context becomes a row of its context's decode
batch. -/
def execRun (q : QueueId) (s : State) : Host.Outcome State Fault Refusal :=
  done s (
    match s.nextRow q with
    | some i =>
      if !s.runs P.scp || !s.work.replayDone || (s.queue q).halted || (i.deferred && !s.holdsFor q i) then s
      else if s.holdsFor q i then s.pendRow q i.seq i.context
      else s.finish q i.seq (Finish.plain St.stateConflict)
    | none => s.command q 1 (fun s i => if i.batched then s else s.modItem q i.seq (fun i => { i with ready := true })))

/-! ## LOAD and UNLOAD (R136, R137, R206, R239) -/

/-- A LOAD fails: its context is EMPTY again. -/
def State.failLoad (s : State) (q n c status : Nat) (detail : Option Bytes) : State :=
  let s := (s.freeRun (s.ctx c).image).freeRun (s.ctx c).poolAt
  (s.emptyCtx c).finish q n { Finish.plain status with detail := detail }

/-- Pages of a context's result pool. -/
def poolPages (k : Package) : Nat := k.pool * ((k.bufBytes + pageBytes - 1) / pageBytes)

/-- A verified package's pages are allocated: its image, and its result pool (R212). -/
def State.placePackage (s : State) (q n c : Nat) (k : Package) : State :=
  let e := ctxEntry c true true false false
  match s.alloc k.imagePages e with
  | none => s.failLoad q n c St.resourceOverflow none
  | some (a, t) =>
    match t.alloc (poolPages k) e with
    | none => s.failLoad q n c St.resourceOverflow none
    | some (b, t) =>
      let t := t.modCtx c (fun x => { x with
        state := .loading, byItem := some (q, n), pkg := some k, image := some (a, k.imagePages)
        poolAt := some (b, poolPages k) })
      t.begin q n

/-- LOAD: the verifier checks the package; a rejection leaves its record (R137). -/
def execLoad (q : QueueId) (pkg : Package) (s : State) : Host.Outcome State Fault Refusal :=
  done s (s.command q 2 (fun s i =>
    match pkgVerify pkg i.context with
    | some (code, r) =>
      let rec' := s.rejectRecord i.context code r
      ((s.setBlob Obj.verifyLast 0 rec').count Obj.verifyRejects).failLoad q i.seq i.context St.verifyReject (some rec')
    | none => s.placePackage q i.seq i.context pkg))

/-- LOAD_COMPLETE: the image has been read and placed, or its reading met an uncorrectable block (R239). -/
def execLoadComplete (c : CtxId) (rd : LoadRead) (s : State) : Host.Outcome State Fault Refusal :=
  let x := s.ctx c
  done s (
    match x.state, x.byItem, x.pkg with
    | .loading, some (q, n), some k =>
      match s.item q n with
      | none => s
      | some i =>
        if !s.runs P.scp then s else
        match rd with
        | .poisoned => s.failLoad q n c St.unavailable none
        | .ok =>
          let s := s.modCtx c (fun x => { x with state := .ready, byItem := none })
          let s := s.setNum Obj.ctxPool c k.pool
          let s := s.setBlob Obj.ctxDigest c
            (pad 64 (Config.sha512 (s.readBytes (fld i.entry 16 8) (fld i.entry 24 4))))
          s.finish q n (Finish.plain St.ok)
    | _, _, _ => s)

/-- Pages that context c owns, LOST ones included. -/
def State.ownedBy (s : State) (c : Nat) : List Nat :=
  (s.mem.table.filter (fun e => !e.2.sys && e.2.owner == c)).map (·.1)

/-- The statistics history of context c, and the records held with its jobs, are discarded (R87). -/
def State.dropHistory (s : State) (c : Nat) : State :=
  { s with work := { s.work with
      pairs := s.work.pairs.filter (fun x => x.1.1 != c)
      heldStats := s.work.heldStats.filter (fun h => match s.item h.queue h.seq with
        | some i => i.context != c
        | none => true) } }

/-- Slots that await zeroing in t and not in s: channel and slot. -/
def State.newZeroing (s t : State) : List (Nat × Nat) :=
  (List.range 12).flatMap (fun c => ((t.chan c).zeroing.filter (fun k => !(s.chan c).zeroing.contains k)).map (fun k => (c, k)))

/-- UNLOAD: every page is freed and the statistics history is discarded; the context stays UNLOADING until the pages are
zeroed, and is then EMPTY (R87, R213, R239). A replayed UNLOAD frees what is left and waits for the rest. -/
def execUnload (q : QueueId) (s : State) : Host.Outcome State Fault Refusal :=
  done s (s.command q 3 (fun s i =>
    let c := i.context
    let t := (s.ownedBy c).foldl (fun s p => s.freePage p) s
    let t := (t.dropHistory c).modCtx c (fun x => { x with
      state := .unloading, byItem := some (q.val, i.seq), zeroing := x.zeroing ++ s.newZeroing t })
    (t.begin q i.seq).endUnload c))

/-! ## ATTACH and DETACH (R301) -/

/-- ATTACH: the output sets are allocated, which waits until no job of the context is dispatched (R109) and the sets of
an earlier attachment have been freed. -/
def execAttach (q : QueueId) (s : State) : Host.Outcome State Fault Refusal :=
  done s (s.command q 4 (fun s i =>
    let n := fld i.entry 16 1
    if (s.stream n).sets.isSome || !s.ctxStill i.context then s else
    match s.takeSets n i.context (s.num Obj.srcEnable n == 1) with
    | none => s.finish q i.seq (Finish.plain St.resourceOverflow)
    | some t =>
      (t.modStream n (fun x => { x with
        attach := some (q.val, i.context, fld i.entry 18 2), lostFrom := none, reason := 2 })).finish q i.seq
        (Finish.plain St.ok)))

/-- DETACH: the stream is taken off at once; the command completes when its accepted jobs are DONE. -/
def execDetach (q : QueueId) (s : State) : Host.Outcome State Fault Refusal :=
  done s (s.command q 5 (fun s i =>
    let n := fld i.entry 16 1
    let s := s.detachStream n
    if s.streamDone n then s.finish q i.seq (Finish.plain St.ok) else s.begin q i.seq))

/-! ## Flags -/

/-- FLAG_SET (R259). -/
def execFlagSet (q : QueueId) (s : State) : Host.Outcome State Fault Refusal :=
  done s (s.command q 6 (fun s i => (s.setFlag i.flag).finish q i.seq (Finish.plain St.ok)))

/-- FLAG_CLR (R258). -/
def execFlagClr (q : QueueId) (setToo : Bool) (s : State) : Host.Outcome State Fault Refusal :=
  done s (s.command q 7 (fun s i => (s.clearFlag i.flag setToo).finish q i.seq (Finish.plain St.ok)))

/-- FLAG_WAIT (R259, R260): a flag already set ends the wait at once; otherwise the wait begins. -/
def execFlagWait (q : QueueId) (s : State) : Host.Outcome State Fault Refusal :=
  done s (s.command q 8 (fun s i =>
    if s.flagOn i.flag then s.seenSet q i
    else if i.waitFrom.isSome then s
    else s.beginWait q i.seq))

/-! ## PUT and GET (R228) -/

/-- A peer command: the rights of its local region, then its peer; it waits while 16 transfers of the peer or 64 in all
are in flight. -/
def State.peerCommand (s : State) (q : Nat) (i : Item) (get : Bool) : State :=
  let p := fld i.entry 16 1
  let a := fld i.entry 24 8
  let len := fld i.entry 40 4
  if !s.ctxRights i.context get a len then s.finish q i.seq (Finish.plain St.pageRights)
  else if !s.peerOn p || s.num Obj.peerState p == 2 then s.finish q i.seq (Finish.plain St.unavailable)
  else if decide (16 ≤ (s.peer p).xfers.length) || decide (64 ≤ s.inFlight) then s
  else (s.begin q i.seq).beginXfer p q i.seq a (fld i.entry 32 8) len get

/-- PUT. -/
def execPut (q : QueueId) (s : State) : Host.Outcome State Fault Refusal :=
  done s (s.command q 9 (fun s i => s.peerCommand q i false))

/-- GET. -/
def execGet (q : QueueId) (s : State) : Host.Outcome State Fault Refusal :=
  done s (s.command q 10 (fun s i => s.peerCommand q i true))

/-! ## ALLOC and FREE (R109, R212, R213, R242) -/

/-- ALLOC: the pages are allocated while no job of the context is dispatched; the base address stands in the
completion. -/
def execAlloc (q : QueueId) (s : State) : Host.Outcome State Fault Refusal :=
  done s (s.command q 11 (fun s i =>
    let c := i.context
    let k := fld i.entry 16 4
    let r := fld i.entry 20 1
    if !s.ctxStill c then s else
    match s.alloc k (ctxEntry c (r.testBit 0) (r.testBit 1) (r.testBit 2) (r.testBit 3)) with
    | none => s.finish q i.seq (Finish.plain St.resourceOverflow)
    | some (p, t) =>
      let t := t.modCtx c (fun x => { x with allocs := x.allocs ++ [(p, k)] })
      (t.modItem q i.seq (fun j => { j with digest := BitVec.ofNat 64 (p * pageBytes) })).finish q i.seq
        (Finish.plain St.ok)))

/-- The runs of pages that remain of a list of runs when k pages from p are taken out. -/
def cutRuns (l : List (Nat × Nat)) (p k : Nat) : List (Nat × Nat) :=
  l.flatMap (fun a =>
    (if a.1 < min p (a.1 + a.2) then [(a.1, min p (a.1 + a.2) - a.1)] else [])
      ++ (if max a.1 (p + k) < a.1 + a.2 then [(max a.1 (p + k), a.1 + a.2 - max a.1 (p + k))] else []))

/-- FREE. -/
def execFree (q : QueueId) (s : State) : Host.Outcome State Fault Refusal :=
  done s (s.command q 12 (fun s i =>
    let c := i.context
    let p := fld i.entry 24 8 / pageBytes
    let k := fld i.entry 16 4
    if !s.ctxStill c then s else
    let s := s.freePages p k
    (s.modCtx c (fun x => { x with allocs := cutRuns x.allocs p k })).finish q i.seq (Finish.plain St.ok)))

/-! ## ADOPT and MARKER -/

/-- ADOPT: the weight set joins the open set, or forms an epoch by itself (R266). -/
def execAdopt (q : QueueId) (s : State) : Host.Outcome State Fault Refusal :=
  done s (s.command q 13 (fun s i =>
    let key := weightKey i.context (fld i.entry 20 1)
    let v := Val.blob (s.readBytes (fld i.entry 24 8) (fld i.entry 16 4))
    if s.setFull key then s.finish q i.seq (Finish.plain St.busy) else
    let s := match s.work.openSet with
      | none => s.commitEpoch [(key, v)]
      | some l => { s with work := { s.work with openSet := some (tput l key v) } }
    s.finish q i.seq (Finish.plain St.ok)))

/-- MARKER: DONE when every earlier item of the queue is. -/
def execMarker (q : QueueId) (s : State) : Host.Outcome State Fault Refusal :=
  done s (s.command q 14 (fun s i =>
    if s.earlierDone q i.seq then s.finish q i.seq (Finish.plain St.ok) else s))

end Sys2Proof.Machine
end

