-- ==== Sys2Proof/Machine/Jobs.lean ====
section
/-! DEFINITION. Dispatch of jobs, their segments and ends, completions, replay, decode batches, the wait-for graph and
statistics windows (R45 to R47, R80 to R87, R237 to R257, R261 to R264, R283, R284). -/

namespace Sys2Proof.Machine

/-! ## Which job a slice takes (R237, R238, R256, R400, R404, R522) -/

/-- A ready job with what orders it. -/
structure Cand where
  queue : Nat
  item  : Item

/-- Lexicographic order. -/
def lexLt : List Nat → List Nat → Bool
  | [], _ => false
  | _ :: _, [] => false
  | a :: r, b :: t => decide (a < b) || (a == b && lexLt r t)

/-- Class, then jobs that go ahead of their class, then deadline with none last, acceptance time, queue number. -/
def Cand.key (c : Cand) : List Nat :=
  let i := c.item
  [i.prio, if i.ahead then 0 else 1, if i.deadline.isSome then 0 else 1, i.deadline.getD 0, i.acceptAt, c.queue, i.seq]

/-- The best of a list of candidates. -/
def best : List Cand → Option Cand
  | [] => none
  | c :: r => match best r with
    | none => some c
    | some d => if lexLt d.key c.key then some d else some c

/-- Slice for a stream's job: where the stream was moved, or its nominal slice under the job's epoch (R226). -/
def State.streamSlice (s : State) (n epoch : Nat) : Nat :=
  let nom := s.nominalFor n (s.epochVal epoch (Obj.streamAffinity.key n) (.num 0xFF))
  let a := (s.stream n).affinity.getD nom
  if s.inService a then a else s.affinityOf n

/-- The slice in service with the least dispatch load, other than a given one. -/
def State.leastSlice (s : State) (not' : Option Nat) : Option Nat :=
  minBy s.dispatchLoad (s.slicesInService.filter (fun n => some n != not'))

/-- The slice that a ready job goes to. -/
def State.targetOf (s : State) (i : Item) : Option Nat :=
  match i.recompute with
  | some (m, n, _) => if s.inService m then some m else s.leastSlice (some n)
  | none => match i.stream with
    | some m => some (s.streamSlice m i.epoch)
    | none => s.leastSlice none

/-- Ready jobs of a queue: its next item when that is a ready job, jobs to run again, best-effort jobs between
segments. -/
def State.readyOf (s : State) (q : Nat) : List Cand :=
  if (s.queue q).halted then [] else
  let next := match s.itemFor q 1 with
    | some i => if i.ready && s.holdsFor q i then [i] else []
    | none => []
  let again := (s.queue q).items.filter (fun i => i.isJob &&
    ((i.state == .accepted && i.executing) || (i.state == .dispatched && i.slice.isNone)))
  (next ++ again).map (fun i => { queue := q, item := i })

/-- Ready jobs for slice n, before the golden tests' precedence. -/
def State.readyFor (s : State) (n : Nat) : List Cand :=
  if !s.runs P.scp || !s.work.replayDone then [] else
  (s.queueNums.flatMap s.readyOf).filter (fun c =>
    s.targetOf c.item == some n && !(s.work.shedding && c.item.prio == 2))

/-- A golden test that is overdue goes before best-effort work (R404). -/
def Golden.outranks (g : Golden) (prio : Nat) : Bool := g.overdue && (g.due.isSome || g.running) && prio == 2

/-- Jobs that slice n may take now: an IDLE change holds all (R268), and the slice takes none while requests of discarded
work are still to complete (R111; notes/assumptions/51.md). -/
def State.candidates (s : State) (n : Nat) : List Cand :=
  if !s.work.idlePend.isEmpty || !(s.slice n).store.gone.isEmpty then [] else
  (s.readyFor n).filter (fun c => !(s.slice n).golden.outranks c.item.prio)

/-! ## Dispatch -/

/-- The job's graph. -/
def State.jobGraph (s : State) (i : Item) : Option Graph := s.graphOf i.context (fld i.entry 28 2)

/-! Splits in K (R270, R271, R273) -/

/-- The k-th arrangement of a list. -/
def arrange : Nat → Nat → List Nat → List Nat
  | 0, _, _ => []
  | n + 1, k, l => match l[k % max 1 l.length]? with
    | none => []
    | some x => x :: arrange n (k / max 1 l.length) (l.filter (fun y => y != x))

/-- The program of the final pass that adds the parts' tensors in an order; the one that adds them in part order where the
package has none for it. -/
def splitFinal (k : KSplit) (order : List Nat) : Option Nat :=
  match k.final.find? (fun f => f.1 == order) with
  | some f => some f.2
  | none => (k.final.find? (fun f => f.1 == List.range k.parts.length)).map (·.2)

/-- The passes of a split layer: each part's in the given order, then the final one, which adds them in that order. -/
def splitPasses (k : KSplit) (order : List Nat) : List Nat :=
  order.filterMap (fun p => k.parts[p]?) ++ (splitFinal k order).toList

/-- The programs for one place of a graph's list: in reproducible mode the package's fixed split in part order; otherwise
the SCP chooses the split by load, and its parts complete in any order: free values (R270, R273). -/
def State.splitStep (s : State) (k : Package) (repro : Bool) (l : List KSplit) (p : Nat) : List Nat × State :=
  if l.isEmpty then ([p], s)
  else if repro then
    (match l.find? (fun x => k.splitParts.contains (x.layer, x.parts.length)) with
      | some x => splitPasses x (List.range x.parts.length)
      | none => [p], s)
  else
    let (v, s) := s.draw
    match l[v % (l.length + 1)]? with
    | none => ([p], s)
    | some x =>
      let (w, s) := s.draw
      (splitPasses x (arrange x.parts.length w (List.range x.parts.length)), s)

def State.splitSteps (k : Package) (g : Graph) (repro : Bool) : Nat → List Nat → State → List Nat × State
  | _, [], s => ([], s)
  | j, p :: r, s =>
    let (a, s) := s.splitStep k repro ((g.splits.filter (fun x => x.1 == j)).map (·.2)) p
    let (b, s) := State.splitSteps k g repro (j + 1) r s
    (a ++ b, s)

/-- The programs of a job's run: those left of it at a segment boundary, or those of its graph with the splits of its
layers. -/
def State.jobPrograms (s : State) (i : Item) : List Nat × State :=
  match i.left, (s.ctx i.context).pkg, s.jobGraph i with
  | some l, _, _ => (l, s)
  | none, some k, some g => State.splitSteps k g (s.num Obj.reproActive == 1) 0 g.programs s
  | _, _, _ => ([], s)

/-- The estimate of what remains of a job in ns, with so many programs to run. -/
def State.remaining (s : State) (i : Item) (left : Nat) : Nat :=
  match s.jobGraph i with
  | some g => g.estUs * us * left / max 1 (i.segment + left)
  | none => 0

/-- The weight sets of the item's context adopted in its epoch or an earlier one, where the image holds them (R267;
notes/assumptions/21.md). -/
def State.weightsFor (s : State) (i : Item) : List (Nat × Bytes) :=
  match (s.ctx i.context).pkg, (s.ctx i.context).image with
  | some k, some (p, _) => k.weightSets.filterMap (fun w =>
      match s.epochVal i.epoch (weightKey i.context w.1) (.num 0) with
      | .blob b => some (p * pageBytes + w.2, b)
      | .num _ => none)
  | _, _ => []

/-- The run of item i on slice n, and its first program. -/
def State.startRun (s : State) (n q : Nat) (i : Item) : State :=
  let (ps, s) := s.jobPrograms i
  let r : Run := { queue := q, seq := i.seq, rows := [], ctx := i.context, job := i.job, stream := i.stream, klass := i.prio
                   start := s.clk.now, estEnd := s.clk.now + s.remaining i ps.length, index := (s.slice n).runs + 1
                   segment := i.segment, segments := i.segment + ps.length, programs := ps
                   weights := s.weightsFor i, twilight := false, repro := s.num Obj.reproActive == 1
                   recompute := i.recompute.map (fun x => (x.2.1, x.2.2)), fail := none, fault := none }
  let s := s.modSlice n (fun x => { x with run := some r, runs := x.runs + 1, stopped := none, golden := { x.golden with running := false } })
  let s := s.modSeq n (fun q => { q with issued := i.bundles })
  match ps with
  | [] => s.modSeq n (fun q => { q with halted := true })
  | _ :: _ => s.nextProgram n

/-- A job whose pool has no free buffer waits ready, counted once (R248). -/
def State.waitPool (s : State) (c : Cand) : State :=
  if c.item.poolWait then s else
  (s.modItem c.queue c.item.seq (fun i => { i with poolWait := true })).count Obj.ctxPoolWait c.item.context

/-- A candidate becomes DISPATCHED to slice n with its buffer; none where no buffer is free. -/
def State.takeJob (s : State) (n : Nat) (c : Cand) : Option State :=
  let i := c.item
  let got := if i.state == .dispatched then some (i.handle, s) else s.takeBuf i.context
  got.map (fun (h, t) =>
    let again := i.state == .dispatched
    t.modItem c.queue i.seq (fun i => { i with
      state := .dispatched, slice := some n, handle := h, executing := false, ahead := false, waitFrom := none
      runs := if again then i.runs else i.runs + 1 }))

/-- The other rows of decode batch b that are ready join the run on slice n (R45). -/
def State.joinRows (n b : Nat) : Nat → State → State
  | 0, s => s
  | k + 1, s =>
    match (s.queueNums.flatMap s.readyOf).find? (fun c => c.item.batch == some b) with
    | none => s
    | some c => match s.takeJob n c with
      | none => s.waitPool c
      | some t => State.joinRows n b k ((t.modSlice n (fun x => { x with
          run := x.run.map (fun r => { r with rows := r.rows ++ [(c.queue, c.item.seq)] }) })).headWait c.queue)

/-- A candidate is dispatched to slice n with its buffer, and with it the other rows of its decode batch; none where no
buffer is free. -/
def State.dispatch (s : State) (n : Nat) (c : Cand) : Option State :=
  let i := c.item
  (s.takeJob n c).map (fun t =>
    let t := if i.recompute.isSome && i.state != .dispatched then t.count Obj.recomputes else t
    let t := (t.startRun n c.queue i).headWait c.queue
    match i.batch with | some b => State.joinRows n b 128 t | none => t)

/-- The first candidate in order that has a buffer; those before it wait. -/
def State.tryDispatch (n : Nat) : Nat → List Cand → State → State
  | 0, _, s => s
  | k + 1, l, s =>
    match best l with
    | none => s
    | some c =>
      match s.dispatch n c with
      | some t => t
      | none => State.tryDispatch n k (l.filter (fun d => !(d.queue == c.queue && d.item.seq == c.item.seq))) (s.waitPool c)

/-- A dummy pass on slice n stops at the end of its tile, within 2 µs of its start; when that is, is open (R420). -/
def State.endDummy (s : State) (n : Nat) : State :=
  match (s.slice n).dummy with
  | none => s
  | some t0 =>
    let (v, s) := s.draw
    (s.advanceTo (t0 + v % (2 * us + 1))).modSlice n (fun x => { x with dummy := none })

/-- JOB_DISPATCH (R237, R248): slice sl takes a job; twilight work on it makes way. -/
def execJobDispatch (sl : SliceId) (s : State) : Host.Outcome State Fault Refusal :=
  let n := sl.val
  done s (
    if !s.inService n || (s.slice n).run.isSome then s else
    let l := s.candidates n
    let s := if l.isEmpty then s else s.endDummy n
    (State.tryDispatch n l.length l s).buildGraph)

/-- Segments of the job that have ended: its programs before those still to run. -/
def segmentsDone (r : Run) : Nat := r.segments - r.programs.length

/-- BE_SEGMENT_BOUNDARY (R238, R427): a best-effort job yields to a job of a higher class, to shedding and to an IDLE
change; otherwise it goes on with its next segment. -/
def execBeSegmentBoundary (sl : SliceId) (s : State) : Host.Outcome State Fault Refusal :=
  let n := sl.val
  match (s.slice n).run with
  | none => .next s
  | some r =>
    if r.klass != 2 || !(s.slice n).seq.halted || r.programs.isEmpty || !s.runs P.scp then .next s else
    match s.item r.queue r.seq with
    | none => .next s
    | some i =>
      let higher := (s.readyFor n).any (fun c => decide (c.item.prio < 2))
      if higher || s.work.shedding || !s.work.idlePend.isEmpty then
        let k := segmentsDone r
        let t := s.discard n .idle
        done s (r.items.foldl (fun t j => t.modItem j.1 j.2 (fun i => { i with
          slice := none, segment := k, left := some r.programs, bundles := (s.slice n).seq.issued })) t)
      else .next (s.nextProgram n)

/-! ## The end of a job (R249, R283, R284, R400) -/

def taskSlice (k : Nat) : Nat := k / 65536

/-- Every sliver task of slice n has exited and been judged. -/
def State.tasksOver (s : State) (n : Nat) : Bool :=
  s.tasks.all (fun t => taskSlice t.1 != n || (t.2.ended.isSome && t.2.judged))

/-- Layer digests of item n of queue q, rising. -/
def State.layersOf (s : State) (q n : Nat) : List (Nat × LayerSum) :=
  (s.work.runSums.filter (fun e => e.1 == q && e.2.1 == n)).foldl (fun l e => tput l e.2.2.1 e.2.2.2) []

/-- The job digest (R283). -/
def jobDigest (l : List (Nat × LayerSum)) : DWord :=
  l.foldl (fun a e => a + mix (BitVec.ofNat 64 e.1 * mixG + e.2.sum)) 0

/-- The digest trailer (R284). -/
def trailer (l : List (Nat × LayerSum)) : Bytes :=
  le 4 l.length ++ zeros 4 ++ le 8 (jobDigest l).toNat ++
    l.flatMap (fun e => le 2 e.1 ++ le 1 ((if e.2.drain then 1 else 0) + (if e.2.sliver then 2 else 0)) ++ zeros 5
      ++ le 8 e.2.sum.toNat)

def round64 (n : Nat) : Nat := (n + 63) / 64 * 64

/-- The result buffer of an item is completed: length, digest and trailer, from the layer sums of its run. -/
def State.fillBuffer (s : State) (l : List (Nat × LayerSum)) (q n len : Nat) : State :=
  match s.item q n with
  | none => s
  | some i =>
    let b := trailer l
    let s := if i.handle == 0 then s else
      (s.writeBytes (s.bufAddr (handleCtx i.handle) (handleIdx i.handle) + round64 len) b).modBuf i.handle
        (fun x => { x with readable := round64 len + b.length })
    s.modItem q n (fun j => { j with bufLen := len, digest := jobDigest l })

/-- What the disagreement policy and the first fault make of a run that reached its end. -/
def Run.outcome (r : Run) : Finish :=
  match r.fail, r.fault with
  | some _, _ => { Finish.plain St.checkMismatch with suspect := true, deliver := true }
  | none, some (st, _) => { Finish.plain st with deliver := true }
  | none, none => { Finish.plain St.ok with deliver := true, recomputed := r.recompute.isSome }

/-- Nothing of the last bundle is left: every descriptor has completed, every row has drained and been judged. -/
def Slice.quiet (x : Slice) : Bool := x.store.descs.isEmpty && x.drnDone && x.xfmDone && x.arr.unjudged.isEmpty

/-- JOB_END (R249): the job's last program has halted, its tasks have exited and every comparison has finished. -/
def execJobEnd (sl : SliceId) (o : JobOut) (s : State) : Host.Outcome State Fault Refusal :=
  let n := sl.val
  match (s.slice n).run with
  | none => .next s
  | some r =>
    if !(s.slice n).seq.halted || !r.programs.isEmpty || !s.tasksOver n || !(s.slice n).quiet || !s.runs P.scp then .next s
    else match s.item r.queue r.seq with
    | none => .next s
    | some i =>
      let t := s.flush n
      let l := t.layersOf r.queue i.seq
      let t := r.items.foldl (fun t j => t.fillBuffer l j.1 j.2 o.len) t
      let t := t.discard n .idle
      let t := r.items.foldl (fun t j => t.finish j.1 j.2 r.outcome) t
      let t := r.items.foldl (fun t j => t.modItem j.1 j.2 (fun x => { x with
        energy := min 0xFFFFFFFF (x.spent + o.energyUj / r.items.length) })) t
      let t := if r.fail.isSome then
          { t with work := { t.work with heldStats := t.work.heldStats.filter (fun h => !(h.queue == r.queue && h.seq == r.seq)) } }
        else t
      let t := match r.recompute, r.fail with
        | some (m, k), none => ((t.count Obj.transients m).mismatchEvent m r.stream 2 0 r.job n).strike m k 1
        | _, _ => t
      done s t.buildGraph

/-! ## Completions (R250, R251, R80) -/

/-- The completion entry of an item (R251). -/
def Item.completion (i : Item) (ph : Nat) : Bytes :=
  le 8 i.seq ++ le 8 i.job ++ le 2 i.status ++ le 2 i.rflags ++ le 4 i.epoch
    ++ (match i.detail with
        | some d => pad 32 (d.take 32)
        | none => le 4 i.handle ++ le 4 i.bufLen ++ le 8 i.sof ++ le 8 i.doneTime ++ le 8 i.digest.toNat)
    ++ le 4 i.energy ++ le 2 i.context ++ le 1 (i.stream.getD 0xFF) ++ le 1 ph

def StatPair.init : StatPair :=
  { totals := StatTotals.zero, later := StatTotals.zero, inSat := false, inDrift := false, satCount := 0, driftCount := 0, last := none }

def pairKey (c l : Nat) : Nat × Nat := (c, l)

/-- The pair of a context and layer, changed. -/
def modPair (f : StatPair → StatPair) (k : Nat × Nat) : List ((Nat × Nat) × StatPair) → List ((Nat × Nat) × StatPair)
  | [] => [(k, f StatPair.init)]
  | (j, p) :: r => if j = k then (j, f p) :: r else (j, p) :: modPair f k r

def State.statLen (s : State) : Nat := s.num Obj.statWindow * ms

/-- Held records of an item count in the window in which its completion is posted, if the window is a whole one
(R80, R82, R87): in the next one when the last has ended and is not yet evaluated. -/
def State.countStats (s : State) (q : Nat) (i : Item) : State :=
  let mine := s.work.heldStats.filter (fun h => h.queue == q && h.seq == i.seq)
  let use := !i.rflags.testBit 2 && decide (s.work.statEnd ≤ s.clk.lode + s.statLen)
  { s with work := { s.work with
      heldStats := s.work.heldStats.filter (fun h => !(h.queue == q && h.seq == i.seq))
      runSums := s.work.runSums.filter (fun e => !(e.1 == q && e.2.1 == i.seq))
      pairs := if use then mine.foldl (fun l h =>
          modPair (fun p => if s.work.statEnd ≤ s.clk.lode then { p with later := p.later.add h.totals }
              else { p with totals := p.totals.add h.totals }) (pairKey i.context h.layer) l) s.work.pairs
        else s.work.pairs } }

/-- The item becomes POSTED: its output set is free, its statistics count. -/
def State.markPosted (s : State) (q : Nat) (i : Item) : State :=
  let s := s.modItem q i.seq (fun j => { j with state := .posted })
  let s := s.setNum Obj.qLastPosted q (max i.seq (s.num Obj.qLastPosted q))
  let s := match i.stream with | some m => s.freeSet m i.set | none => s
  s.countStats q i

/-- Device address of the completion slot of sequence number n. -/
def State.cqSlot (s : State) (q n : Nat) : Option Nat :=
  (s.queue q).cqPages.map (fun p => p.1 * pageBytes + 64 * ((n - 1) % s.num Obj.qDepth q))

/-- The oldest item that is not POSTED is posted, if it is DONE. -/
def State.postHead (s : State) (q : Nat) : State :=
  match (s.queue q).items.find? (fun i => i.state != .posted), (s.queue q).cqPages with
  | some i, some _ =>
    if i.state != .done then s else
    match s.cqSlot q i.seq with
    | none => s
    | some a =>
      ((s.writeBytes a (i.completion (phase (s.num Obj.qDepth q) i.seq))).markPosted q i).noteChange (some q)
  | _, _ => s

/-- COMPLETION_POST (R250): completions appear in sequence order. -/
def execCompletionPost (q : QueueId) (s : State) : Host.Outcome State Fault Refusal :=
  .next (if !s.runs P.scp || !s.work.replayDone then s else s.postHead q)

/-! ## Replay (R239, R257) -/

/-- Work opens: statistics resume with the first whole window (R87). -/
def State.openWork (s : State) : State :=
  let w := s.statLen
  { s with work := { s.work with replayDone := true, statEnd := (s.clk.lode / w + 2) * w } }

/-- The completion ring holds SEQ of an item at its slot. -/
def State.inRing (s : State) (q : Nat) (i : Item) : Bool :=
  match s.cqSlot q i.seq with | some a => ofLe (s.readBytes a 8) == i.seq | none => false

/-- The context of a replayed LOAD is EMPTY again (R239). -/
def State.unload (s : State) (i : Item) : State :=
  if i.opcode == 2 && (s.ctx i.context).state == .loading then
    ((s.freeRun (s.ctx i.context).image).freeRun (s.ctx i.context).poolAt).emptyCtx i.context
  else s

/-- An ACCEPTED or DISPATCHED item runs again from its start; one that has lost its third run completes UNAVAILABLE (R256,
R257). A wait for a pool buffer counts once for each job (R248). -/
def State.replayItem (s : State) (q : Nat) (i : Item) : State :=
  let s := s.unload i
  if i.state == .dispatched && decide (3 ≤ i.runs) then s.finish q i.seq (Finish.plain St.unavailable) else
  let s := s.dropBuf i.handle
  let s := (s.dropStats q i.seq).modItem q i.seq (fun i => { i with
    state := .accepted, attempt := i.attempt + 1, replayed := true, slice := none, handle := 0, waitFrom := none
    executing := false, ahead := false, spent := 0, recompute := none, segment := 0, left := none, bundles := 0, batched := false, batch := none
    ready := i.stream.isSome && !s.isHead i.context })
  let s := s.count Obj.replayedItems
  if i.stream.isSome && s.isHead i.context then s.pendRow q i.seq i.context else s

/-- One record of queue q; the counts are items posted, run again, and marked from the ring. -/
def State.replayRec (q : Nat) (a : Nat × Nat × Nat × State) (i : Item) : Nat × Nat × Nat × State :=
  let (p, r, m, s) := a
  match i.state with
  | .posted => a
  | .done => if s.inRing q i then (p, r, m + 1, s.markPosted q i) else (p + 1, r, m, s)
  | _ =>
    let t := s.replayItem q i
    if (match t.item q i.seq with | some j => j.isDone | none => false) then (p + 1, r, m, t) else (p, r + 1, m, t)

/-- DONE records at the front of a queue are posted. -/
def State.postAll (q : Nat) : Nat → State → State
  | 0, s => s
  | k + 1, s => State.postAll q k (s.postHead q)

/-- Block 0 as it stands at a physical address, if its code is good, its CRC passes and it is of this boot epoch (R255,
R257); lost: blocks in which the read finds the CRC wrong. -/
def State.goodCopy (s : State) (lost : List Nat) (p : Nat) : Option Bytes :=
  let b := cgets s.mem.bytes p 64
  if lost.contains (p / 64) || s.mem.badBlocks.contains (p / 64) || fld b 60 4 != crc32 (b.take 60) || fld b 0 8 != s.work.bootEpoch then none else some b

/-- The record of sequence number n of queue q: of two good copies the one with the higher STATE; none where neither is
good or the slot holds another record (R257). -/
def State.readRecord (s : State) (lost : List Nat) (q n : Nat) : Option Bytes :=
  match s.recordAt q n with
  | none => none
  | some a =>
    let e := s.entry (a / pageBytes)
    let l := (if e.backed then [phys e.channel e.slot (a % pageBytes)] else []) ++
      (match tfind s.mem.mirrors (a / pageBytes) with | some (d, k) => [phys d k (a % pageBytes)] | none => [])
    match (l.filterMap (s.goodCopy lost)).filter (fun b => fld b 8 8 == n && fld b 24 1 == q && fld b 25 1 != 0) with
    | [] => none
    | b :: r => some (r.foldl (fun b c => if fld b 25 1 < fld c 25 1 then c else b) b)

def stateOf : Nat → ItemState
  | 2 => .dispatched
  | 3 => .done
  | 4 => .posted
  | _ => .accepted

/-- An item as its journal record gives it. -/
def Item.restored (i : Item) (b : Bytes) : Item :=
  { i with
    job := fld b 16 8, state := stateOf (fld b 25 1), slice := if fld b 26 1 == 0xFF then none else some (fld b 26 1)
    attempt := fld b 27 1, handle := fld b 28 4, epoch := fld b 32 4, status := fld b 36 2, rflags := fld b 38 2
    sof := fld b 40 8, doneTime := fld b 48 8, energy := fld b 56 4 }

/-- The items of queue q as the journal's records give them; a slot without a good copy is FREE (R257). -/
def State.readJournal (s : State) (lost : List Nat) (q : Nat) : State :=
  s.modQueue q (fun x => { x with
    accepting := none
    items := x.items.filterMap (fun i => (s.readRecord lost q i.seq).map i.restored) })

/-- JOURNAL_REPLAY (R257): the records are read and every one of them is settled; the queues open. lost: the 64-byte blocks
in which the read finds the CRC wrong, numbered as State.mem.badBlocks numbers them. -/
def execJournalReplay (lost : List Nat) (s : State) : Host.Outcome State Fault Refusal :=
  if s.work.replayDone || !s.runs P.scp || !(s.rst.phase == .running || s.rst.phase == .starting) then .next s else
  let t := s.queueNums.foldl (fun s q => s.readJournal lost q) s
  let (p, r, m, t) := t.queueNums.foldl (fun a q =>
    ((a.2.2.2.queue q).items).foldl (State.replayRec q) a) (0, 0, 0, t)
  let t := t.openWork
  let t := t.queueNums.foldl (fun s q => State.postAll q (s.queue q).items.length s) t
  let t := t.queueNums.foldl (fun s q => s.headWait q) t
  done s (t.postEvent 0x0005 0xFFFF (le 4 p ++ le 4 r ++ le 4 m))

/-! ## The wait-for graph and aborts (R261, R262, R264) -/

/-- WAIT_GRAPH_BUILD: a queue has been blocked for 50 ms. -/
def execWaitGraphBuild (s : State) : Host.Outcome State Fault Refusal :=
  let s' := s.refreshBlocked
  match minBy id (s'.work.queues.filterMap (fun x => x.2.blockedSince)) with
  | none => .next s
  | some t => done s (s'.advanceTo (t + 50 * ms)).buildGraph

/-- Q_STATE (R269). -/
def State.qStateNow (s : State) (q : Nat) : Nat :=
  if s.num Obj.qEnable q == 0 then 0
  else if !s.work.replayDone then 5
  else if s.orphaned then 4
  else if (s.queue q).halted then 3
  else if s.blockedOn q != [] then 2 else 1

def qAbortRule : WriteRule :=
  WriteRule.cmd (fun s q => if s.qStateNow q == 2 || s.qStateNow q == 3 then 0 else St.stateConflict)
    (fun s q => match (s.queue q).items.find? (fun i => !i.isDone) with
      | none => s
      | some i => ((s.abortItem q i.seq St.aborted 2).headWait q).buildGraph)

/-- Q_ABORT_HEAD (R264). -/
def execQAbortHead (w : CmdW) (s : State) : Host.Outcome State Fault Refusal :=
  done s (s.hostWrite (.qAbortHead w) w Obj.qAbortHead 0 qAbortRule)

/-! ## Decode batches (R45 to R47) -/

/-- The target of a language head's batches: the load time of the organisation of its weight tiles (R45). -/
def pkgTarget (k : Package) : Nat :=
  let wide (b : Bytes) : Bool :=
    let g : Prog := { idx := 0, img := b, pkg := k, al := makeAlloc 0 k 0 }
    g.bundles.any (fun o => g.has o 28 && [2, 5, 6].contains (bits (g.word o 28) 61 59))
  if k.programs.any wide then 64 else 128

/-- When waiting any longer would make a row miss its deadline, on the package's estimate (R46). -/
def State.lastClose (s : State) (r : DecodeRow) : Option Nat :=
  (s.item r.queue r.seq).bind (fun i => i.deadline.map (fun d => d - s.estimate i))

/-- DECODE_BATCH_CLOSE: the batch of a language-head context closes at its target, with a step of a sequence in
progress, before a miss, or at the decode wait bound; its rows run together, and rows beyond the target wait on. going: the rows
include a step of a sequence that has taken its first step, which their entries do not tell. The event truncates the fill in percent and the wait in µs: notes/assumptions/54.md. -/
def execDecodeBatchClose (c : CtxId) (going : Bool) (s : State) : Host.Outcome State Fault Refusal :=
  match (s.ctx c).decode, (s.ctx c).pkg with
  | r :: rest, some k =>
    let rows := r :: rest
    let target := pkgTarget k
    let full := decide (target ≤ rows.length)
    let t := if full || going then s
      else s.advanceTo ((rows.filterMap s.lastClose).foldl min (r.arrival + r.bound * ms))
    let n := min rows.length target
    let b := s.work.batches
    let left := (rows.drop n).map (fun x => { x with bound := s.num Obj.decodeWait })
    let t := t.modCtx c (fun x => { x with decode := left })
    let t := (rows.take n).foldl (fun s x => s.modItem x.queue x.seq (fun i => { i with ready := true, batch := some b })) t
    let t := { t with work := { t.work with batches := b + 1 } }
    let t := (t.count Obj.decodeBatches).count Obj.decodeRows 0 n
    let t := if full then t.count Obj.decodeFull else t
    .next (t.postEvent 0x0008 c (le 2 c.val ++ le 2 n ++ le 1 (n * 100 / target) ++ zeros 3
      ++ le 4 ((t.clk.now - r.arrival) / us)))
  | _, _ => .next s

/-! ## Statistics windows (R82 to R85) -/

/-- The layer of a context's package. -/
def State.layerOf (s : State) (c l : Nat) : Option LayerInfo :=
  (s.ctx c).pkg.bind (fun p => p.layers.find? (fun x => x.id == l))

/-- The window error (R84): s_y² × SSE ÷ OUTPUTS in fp32. -/
def windowMse (t : StatTotals) (sy : Word) : Word := fdiv (fmul (fmul sy sy) t.sse) (fOfInt t.outputs)

/-- An event is due at a window in its condition: the first such, or the 60th since the last event (R83). -/
def eventDue (now before : Bool) (count : Nat) : Bool := now && (!before || 60 ≤ count + 1)

/-- A pair's window is evaluated at its end; one without outputs is not, and its totals end with it. -/
def State.evalPair (s : State) (x : (Nat × Nat) × StatPair) : State :=
  let (c, l) := x.1
  let p := x.2
  if p.totals.outputs == 0 then
    { s with work := { s.work with
        pairs := modPair (fun p => { p with totals := p.later, later := StatTotals.zero }) x.1 s.work.pairs } }
  else
  let info := s.layerOf c l
  let base := (info.map (fun i => i.baseline)).getD 0
  let mse := windowMse p.totals ((info.map (fun i => i.outScale)).getD 0)
  let sat := decide (p.totals.outputs < p.totals.saturated * s.num Obj.satRatio)
  let zero := base &&& 0x7FFFFFFF == 0
  let drift := !zero && (f32 (fmul (BitVec.ofNat 32 (s.num Obj.driftRatio)) base)).lt (f32 mse)
  let es := eventDue sat p.inSat p.satCount
  let ed := eventDue drift p.inDrift p.driftCount
  let again := (es && p.inSat) || (ed && p.inDrift)
  let rec' := le 8 s.work.statEnd ++ le 8 p.totals.outputs ++ le 4 (min 0xFFFFFFFF p.totals.saturated)
    ++ le 4 (min 0xFFFFFFFF p.totals.nonfinite) ++ le 4 mse.toNat ++ le 4 base.toNat ++ le 2 c ++ le 2 l
    ++ le 1 ((if sat then 1 else 0) + (if drift then 2 else 0) + (if again then 4 else 0)) ++ zeros 3
  let s := if es then (s.count Obj.satEvents).postEvent 0x0009 c rec' else s
  let s := if ed then (s.count Obj.driftEvents).postEvent 0x000A c rec' else s
  let q : StatPair := { totals := p.later, later := StatTotals.zero, inSat := sat, inDrift := drift
                        satCount := if es || !sat then 0 else p.satCount + 1
                        driftCount := if ed || !drift then 0 else p.driftCount + 1, last := some rec' }
  { s with work := { s.work with pairs := modPair (fun _ => q) x.1 s.work.pairs } }

/-- STAT_WINDOW_EVAL: the statistics window ends and every pair with a record in it is evaluated. -/
def execStatWindowEval (s : State) : Host.Outcome State Fault Refusal :=
  if !s.runs P.scp || !s.work.replayDone then .next s else
  let t := s.advanceTo (s.clk.now + (s.work.statEnd - s.clk.lode))
  let t := t.work.pairs.foldl (fun s x => s.evalPair x) t
  let w := t.statLen
  .next { t with work := { t.work with statEnd := (max t.work.statEnd t.clk.lode / w + 1) * w } }

end Sys2Proof.Machine
end

