-- ==== Sys2Proof/Machine/Thread.lean ====
section
/-! DEFINITION. Sliver threads and tasks: cores, faults, the address map, caches, CSRs and the cluster DMA (R169 to
R171, R175, R176, R178, R182 to R197). -/

namespace Sys2Proof.Machine

/-! ## Numbers: hart k of slice k / 1,024, cluster key k / 64, core k / 4 mod 16, thread k mod 4 (R171) -/

def hartSlice (k : Nat) : Nat := k / 1024
def hartCore (k : Nat) : Nat := k / 4 % 16
def taskKey (sl id : Nat) : Nat := sl * 65536 + id

def State.clusterOf (s : State) (k : Nat) : Cluster := s.cluster (k / 64)
def State.isDirect (s : State) (k : Nat) : Bool := (s.clusterOf k).direct

/-- The task of hart k, with its key. -/
def State.taskOf (s : State) (k : Nat) : Option (Nat × Task) :=
  match (s.hart k).task with
  | none => none
  | some key => (tfind s.tasks key).map (fun t => (key, t))

def State.modTask (s : State) (key : Nat) (f : Task → Task) : State :=
  match tfind s.tasks key with
  | none => s
  | some t => { s with tasks := tput s.tasks key (f t) }

/-- Harts of a task. -/
def specHarts (t : TaskSpec) (sl : Nat) : List Nat :=
  t.threads.map (fun x => sl * 1024 + x.cluster.val * 64 + x.core.val * 4 + x.thread.val)

/-- Hart k may issue: its thread is ready and the current one of its core (R187). -/
def State.mayIssue (s : State) (k : Nat) : Bool := (s.hart k).wait == .ready && s.curThread k == k % 4

/-! ## Faults (R192 to R196) -/

/-- STATUS of a cause; cause 0x07 has its own. -/
def causeStatus (cause : Nat) : Nat :=
  match cause with
  | 3 => St.resourceOverflow
  | 8 => St.checkMismatch
  | 9 => St.checkMismatch
  | 0x0A => St.waitTimeout
  | _ => St.aborted

/-- A fault of hart k: cause, status and DETAIL, its PC, and the cause with which a halted wait cycle ends. -/
structure SlvFault where
  hart   : Nat
  cause  : Nat
  status : Nat
  detail : Nat
  pc     : Nat
  cycle  : Nat
  deriving DecidableEq, Repr

/-- The sliver fault record. -/
def State.sliverRec (s : State) (f : SlvFault) : Bytes :=
  let (job, ctx) := s.runJob (hartSlice f.hart)
  le 8 s.clk.lode ++ le 8 job ++ le 2 ctx ++ le 2 f.status ++ le 1 f.cause ++ le 1 (hartSlice f.hart)
    ++ le 1 (f.hart / 64 % 16) ++ le 1 ((if s.isDirect f.hart then 128 else 0) + f.hart % 64) ++ le 4 f.pc ++ le 4 f.detail

/-- The task's digest terms go to the SCP with its end, those of copy A only (R181, R281, R282). -/
def State.flushTask (s : State) (key : Nat) (t : Task) : State :=
  match t.copyOf, (s.slice (key / 65536)).run with
  | none, some r => { s with work := { s.work with runSums := t.digests.foldl (fun l (e : Nat × DWord) =>
      addSum l r.queue r.seq e.1 { sum := e.2, drain := false, sliver := true }) s.work.runSums } }
  | _, _ => s

/-- A task ends: its threads that still run stop. -/
def State.endTask (s : State) (key : Nat) (t : Task) (e : TaskEnd) (judged : Bool) : State :=
  let s := (specHarts t.spec (key / 65536)).foldl (fun s k =>
    s.modHart k (fun h => if h.task == some key && h.wait != .exited then { h with wait := .faulted } else h)) s
  (s.flushTask key t).modTask key (fun t => { t with ended := some e, judged := judged })

/-- A failed check of the run: it is posted to the safety fault collector and the disagreement policy decides (R196). -/
def State.sliverCheck (s : State) (n kind : Nat) (rec' : Bytes) : State :=
  (s.postFault St.checkMismatch 1 n (cut rec' 8 16)).failRun n kind

/-- The end of slice n's job keeps what ran in the cycle of the fault (R194). -/
def State.noteStopped (s old : State) (n cycle : Nat) : State :=
  match (old.slice n).run with
  | none => s
  | some r =>
    let c : Cut := { cycle := cycle, run := r, harts := old.harts.filter (fun (h : Nat × Hart) => hartSlice h.1 == n)
                     tasks := old.tasks.filter (fun (t : Nat × Task) => t.1 / 65536 == n) }
    s.modSlice n (fun x => { x with stopped := some c })

/-- A fault of a sliver thread (R193). -/
def State.sliverFault (s : State) (f : SlvFault) : State :=
  let n := hartSlice f.hart
  let rec' := s.sliverRec f
  let e : TaskEnd := { cause := f.cause, pc := f.pc, status := f.status, record := rec' }
  let s := (s.setBlob Obj.slvLastFault n rec').count Obj.slvFaults n
  match s.taskOf f.hart with
  | none =>
    let s := (s.modHart f.hart (fun h => { h with wait := .faulted })).passOn f.hart
    if f.cause == 8 then s.postFault St.checkMismatch 1 n (cut rec' 8 16) else s
  | some (key, t) =>
    let old := s
    let s := s.endTask key t e t.spec.dual.isNone
    if f.cause == 8 then s.sliverCheck n 0x11 rec'
    else if t.spec.dual.isSome then s
    else (s.endJobFault n f.status (some rec') .faulted f.cycle).noteStopped old n (old.hart f.hart).last

def State.faultAt (s : State) (k cause detail : Nat) : State :=
  s.sliverFault { hart := k, cause := cause, status := causeStatus cause, detail := detail, pc := (s.hart k).pc.toNat, cycle := 4 }

/-- An access to the tile-store window that leaves the allocation also writes DMA_LAST_FAULT (R193). -/
def State.windowFault (s : State) (k addr : Nat) : State :=
  let n := hartSlice k
  let tag := (s.slice n).seq.tag.toNat
  ((s.transferRec n St.resourceOverflow 8 tag 0xFFFF 0 (addr - 0x40000000)).2).faultAt k 3 addr

/-- The cycle budget of hart k's task runs out (R195). -/
def State.budgetFault (s : State) (k : Nat) (budget : Nat) : State := s.faultAt k 6 (budget % 2 ^ 32)

/-! ## Cycles and stalls -/

/-- Cycles for which an instruction holds its core: at least one. -/
def cycNum (c : Cycles) : Nat := max 1 c.own
/-- The cycle after the last one, and the last one. -/
def cycStop (c : Cycles) : Nat := c.first + cycNum c
def cycLast (c : Cycles) : Nat := cycStop c - 1

/-- A thread holds its core for some cycles (R175, R195). Its task's budget counts each cycle in which any of its threads
holds a core, once. False when the budget is spent before they end. -/
def State.charge (s : State) (k : Nat) (cyc : Cycles) : Bool × State :=
  let s := s.modHart k (fun h => { h with mcycle := h.mcycle + BitVec.ofNat 64 (cycNum cyc), last := cycLast cyc })
  match s.taskOf k with
  | none => (true, s)
  | some (key, t) =>
    let used := t.used + (cycStop cyc - max cyc.first t.till)
    let go := s.modTask key (fun t => { t with used := used, till := max t.till (cycStop cyc) })
    match t.spec.budget with
    | none => (true, go)
    | some b =>
      if b < used then (false, (s.modTask key (fun t => { t with used := b })).budgetFault k b) else (true, go)

/-- The state in which the job of slice n still runs in the cycle of the fault that ended it. -/
def State.unstopped (s : State) (n : Nat) (c : Cut) : State :=
  ({ s with tasks := s.tasks.filter (fun (t : Nat × Task) => t.1 / 65536 != n) ++ c.tasks
            harts := s.harts.map (fun (h : Nat × Hart) => (h.1, (tfind c.harts h.1).getD h.2)) }).modSlice n (fun x => { x with run := some c.run })

/-- An instruction in the same cycle as the fault that ended its job: only an uncorrectable local-store error that it
meets counts, and CHECK_MISMATCH takes precedence in the job's completion (R194). -/
def State.sameCycle (s : State) (k : Nat) (cyc : Cycles) (f : State → State) : State :=
  let n := hartSlice k
  match (s.slice n).stopped with
  | none => s
  | some c =>
    let u := s.unstopped n c
    if c.cycle != cycLast cyc || (tfind c.harts k).isNone || !u.mayIssue k then s else
    let t := f (u.setNum Obj.slvLsUncorr n 0)
    if t.num Obj.slvLsUncorr n == 0 then s else
    let rec' := t.blob Obj.slvLastFault n
    let s := (((s.setBlob Obj.slvLastFault n rec').count Obj.slvFaults n).count Obj.slvLsUncorr n
      (t.num Obj.slvLsUncorr n)).postFault St.checkMismatch 1 n (cut rec' 8 16)
    c.run.items.foldl (fun s i => s.modItem i.1 i.2 (fun j =>
      if j.state != .done then j else { j with status := St.checkMismatch, rflags := j.rflags ||| 4 })) s

/-- One instruction of hart k, of cyc cycles, stalls included. -/
def State.thread (s : State) (k : Nat) (cyc : Cycles) (f : State → State) : State :=
  if !s.mayIssue k then s.sameCycle k cyc f else
  match s.charge k cyc with
  | (true, s) => f s
  | (false, s) => s

/-- The current thread of a core gives it up (R187). -/
def State.leaveCore (s : State) (k : Nat) (w : ThreadWait) : State := (s.modHart k (fun h => { h with wait := w })).passOn k

def State.retire (s : State) (k n : Nat) : State := s.modHart k (Hart.retire n)

/-! ## Registers -/

def Hart.getX (h : Hart) (i : Nat) : Word := if i == 0 then 0 else h.x[i]?.getD 0
/-- x0 reads as zero and discards writes. -/
def Hart.setX (h : Hart) (i : Nat) (v : Word) : Hart := if i == 0 then h else { h with x := h.x.setIfInBounds i v }
def Hart.getF (h : Hart) (i : Nat) : Word := h.f[i]?.getD 0
def Hart.setF (h : Hart) (i : Nat) (v : Word) : Hart := { h with f := h.f.setIfInBounds i v }
def Hart.getV (h : Hart) (i : Nat) : BitVec 256 := h.v[i]?.getD 0
def Hart.setV (h : Hart) (i : Nat) (v : BitVec 256) : Hart := { h with v := h.v.setIfInBounds i v }

/-! ## The address map (R182) -/

/-- Bytes of one core's local store (R183). -/
def lsBytes : Nat := 24576

def State.lsGet (s : State) (k a n : Nat) : Bytes := cgets (s.clusterOf k).ls (hartCore k * lsBytes + a) n
def State.lsPut (s : State) (k a : Nat) (b : Bytes) : State :=
  s.modCluster (k / 64) (fun c => { c with ls := cputs c.ls (hartCore k * lsBytes + a) b })

/-- What an access of a thread reaches. -/
inductive Reach where
  /-- the local store at an offset -/
  | loc
  /-- device memory at an address, through the constant cache -/
  | dev (a : Nat)
  /-- the tile-store window at an offset of the allocation -/
  | win (off : Nat)
  /-- an access fault; in the window it writes DMA_LAST_FAULT too -/
  | bad
  | badWin
  deriving DecidableEq, Repr

/-- Bytes a to a + n − 1 lie from o on for len. -/
def inside (o len a n : Nat) : Bool := decide (o ≤ a ∧ a + n ≤ o + len)

/-- The region of an access of n bytes at a by hart k (Table — Sliver address map). -/
def State.reach (s : State) (k a n : Nat) (store : Bool) : Reach :=
  let h := s.hart k
  if a < 0x6000 then (if inside h.lsLo h.lsLen a n then .loc else .bad)
  else if 0x40000000 ≤ a ∧ a ≤ 0x401FFFFF then
    if store then .bad
    else if inside 0x40000000 (match (s.slice (hartSlice k)).alloc with | some al => al.len | none => 0) a n then
      .win (a - 0x40000000)
    else .badWin
  else if s.isDirect k then
    if 0x80000000 ≤ a then .dev ((s.clusterOf k).base.toNat * 2 ^ 31 + (a - 0x80000000)) else .bad
  else if 0x30000000 ≤ a ∧ a ≤ 0x30FFFFFF ∧ store = false then
    match s.taskOf k with
    | some (_, t) => if inside 0x30000000 t.spec.constLen a n then .dev (t.spec.constBase + (a - 0x30000000)) else .bad
    | none => .bad
  else .bad

/-- The device address of n code bytes at pc, none outside the code the thread may fetch. -/
def State.codeAt (s : State) (k pc n : Nat) : Option Nat :=
  if s.isDirect k then
    (if 0x80000000 ≤ pc ∧ pc + n ≤ 2 ^ 32 then some ((s.clusterOf k).base.toNat * 2 ^ 31 + (pc - 0x80000000)) else none)
  else match s.taskOf k with
    | some (_, t) => if inside 0x20000000 (min t.spec.codeLen 0x100000) pc n then some (t.spec.codeBase + (pc - 0x20000000)) else none
    | none => none

/-! ## Caches (R185, R186, R189) -/

/-- The bytes of a cached line, none on a miss. -/
def cachedBytes (lines : List (Nat × Bytes)) (a n : Nat) : Option Bytes :=
  (tfind lines (a / 64)).map (fun b => cut b (a % 64) n)

/-- Bytes of a line of the cache, or of one that has arrived for the thread's instruction, none on a miss. -/
def State.lineBytes (s : State) (k : Nat) (lines : List (Nat × Bytes)) (a n : Nat) : Option Bytes :=
  (cachedBytes lines a n).or (cachedBytes (s.hart k).got a n)

/-- Two bytes of code. -/
def State.codeBytes (s : State) (k a : Nat) : Option Bytes := s.lineBytes k (s.clusterOf k).ilines a 2

/-- A store of firmware in direct mode writes memory and a line that is present; a miss allocates none (R189). -/
def State.devStore (s : State) (k a : Nat) (b : Bytes) : State :=
  let put (l : Nat × Bytes) (i : Nat) (x : Byte) : Nat × Bytes :=
    if (a + i) / 64 == l.1 then (l.1, patch l.2 ((a + i) % 64) [x]) else l
  (s.writeBytes a b).modCluster (k / 64) (fun c => { c with
    clines := c.clines.map (fun l => (b.zipIdx).foldl (fun l (x, i) => put l i x) l) })

/-- Sets of a 4-way cache of 64 KiB with lines of 64 bytes. -/
def cacheSet (line : Nat) : Nat := line % 256

/-- A line enters a cache; in a full set it takes the place of one that the spec does not name: v is a free value. -/
def fillLine (lines : List (Nat × Bytes)) (line : Nat) (b : Bytes) (v : Nat) : List (Nat × Bytes) :=
  let set := (lines.filter (fun l => cacheSet l.1 == cacheSet line && l.1 != line)).map (·.1)
  let lines := if set.length < 4 then lines else tdel lines (set.getD (v % 4) 0)
  tput lines line b

/-! ## The cluster DMA (R178) -/

/-- The local store of hart k's core as the descriptor functions see a tile store. -/
def State.lsView (s : State) (k : Nat) : Slice :=
  let o := hartCore k * lsBytes
  let own := (s.clusterOf k).ls.filter (fun c => decide (o ≤ c.1 ∧ c.1 < o + lsBytes))
  { Slice.init with
    store := { Store.init with bytes := own.map (fun (c : Host.Cell) => (c.1 - o, c.2)) }
    alloc := some { ctx := 0, base := 0, len := lsBytes, descs := 0, progRow := 0, progLen := 0, winRow := 0, xfmRow := 0
                    chainRow := 0, actRow := 0, originRow := 0, dataRow := 0, bankVecs := 0 } }

/-- Fields of a descriptor whose tile-store side is the local store: R101 with MODE BOX malformed. -/
def State.clusterCheck (s : State) (k : Nat) (b : Bytes) : Option (Nat × Nat) :=
  let h := s.hart k
  if dMode b == 2 then some (St.range, 0) else
  s.descCheck (s.lsView k) { o := h.lsLo, n := h.lsLen, ctrl := 0
                             ctx := (s.taskOf k).map (fun _ => (s.runJob (hartSlice k)).2) } b

/-- The new descriptor waits for an earlier one in flight on the slice (R105, R178): local stores are compared within a
core. -/
def State.clusterHazard (s : State) (new : CDesc) : Bool :=
  let n := hartSlice new.hart
  (s.clusterDescs n).any (fun o => decide (o.d.uid < new.d.uid) &&
      (if new.hart / 4 == o.hart / 4 then (s.lsView new.hart).overlaps new.d o.d else new.d.meets o.d))
    || (s.slice n).store.descs.any (fun o => decide (o.uid < new.d.uid) && new.d.meets o)

/-- Descriptors of hart k that are not complete. -/
def Cluster.inFlight (c : Cluster) (k : Nat) : Nat := (c.cdescs.filter (fun d => d.hart == k)).length

def State.modCDesc (s : State) (ck uid : Nat) (f : Desc → Desc) : State :=
  s.modCluster ck (fun c => { c with cdescs := c.cdescs.map (fun x => if x.d.uid == uid then { x with d := f x.d } else x) })

/-- The next descriptor of a direction, if no earlier one must complete first, is checked and started, or faults. -/
def State.startCluster (s : State) (ck : Nat) (out : Bool) : State :=
  let c := s.cluster ck
  match c.cdescs.find? (fun x => x.d.out == out && !x.d.started) with
  | none => s
  | some x =>
    if s.clusterHazard x then
      (if x.d.hazard then s else (s.modCDesc ck x.d.uid (fun d => { d with hazard := true })).count Obj.dmaHazard (ck / 16))
    else
    match s.clusterCheck x.hart x.d.raw with
    | none => s.modCDesc ck x.d.uid (fun d => { d with started := true, total := (s.lsView x.hart).work d.raw })
    | some (st, detail) =>
      let s := s.modCluster ck (fun c => { c with cdescs := c.cdescs.filter (fun y => y.d.uid != x.d.uid) })
      s.sliverFault { hart := x.hart, cause := 7, status := st, detail := detail, pc := x.pc.toNat, cycle := 4 }

/-- The request source of cluster ck. -/
def clusterSource (ck : Nat) : ReqSource := .cluster (Fin.ofNat 6 (ck / 16)) (Fin.ofNat 16 ck)

/-- One request of the cluster DMA goes to its channel, and holds a miss register once it is admitted (R178, R221). One
whose channel has been lost ends with an error: the job runs again (R220). -/
def State.sendCluster (s : State) (ck : Nat) : State :=
  let c := s.cluster ck
  if 32 ≤ c.misses.length then s else
  match c.cdescs.find? (fun x => x.d.started && decide (x.d.pos < x.d.total)) with
  | none => s
  | some x =>
    let (a, o, n) := (s.lsView x.hart).request x.d.raw x.d.pos
    if !s.served a then s.loseSliceWork (ck / 16) else
    let r : MemReq := { source := clusterSource ck, addr := a, write := x.d.out
                        data := if x.d.out then s.lsGet x.hart o n else []
                        mask := if x.d.out then blockMask (a % 64) n else [] }
    (s.modCDesc ck x.d.uid (fun d => { d with pos := d.pos + n })).send r (.cdma x.d.uid x.d.pos n)

/-- A thread stalled by a full cluster DMA, or waiting in SL.DMAW, goes on when its condition has ended. -/
def State.wakeDma (s : State) (ck : Nat) : State :=
  (List.range 64).foldl (fun s i =>
    let k := ck * 64 + i
    match (tfind s.harts k).map (fun (h : Hart) => h.wait) with
    | some (.dma n) => if (s.cluster ck).inFlight k ≤ n then s.wakeHart k (Hart.retire 4) else s
    | some .dmaq => s.wakeHart k id
    | _ => s) s

/-- The oldest descriptor of a direction has moved all of its bytes: it completes, with its flag (R106). -/
def State.completeCluster (s : State) (ck : Nat) (out : Bool) : State :=
  let c := s.cluster ck
  match c.cdescs.find? (fun x => x.d.out == out) with
  | none => s
  | some x =>
    let busy := c.misses.any (fun m => match m.what with | .dma u _ _ _ => u == x.d.uid | _ => false)
    if !x.d.started || decide (x.d.pos < x.d.total) || busy || !(s.parkedPos (ck / 16) x.d.uid).isEmpty then s else
    let s := s.modCluster ck (fun c => { c with cdescs := c.cdescs.filter (fun y => y.d.uid != x.d.uid) })
    let s := s.wakeDma ck
    if dFlagEn x.d.raw then s.setFlag (dFlag x.d.raw) else s

/-- The cluster DMA goes on as far as it can: completions, starts and requests. -/
def State.pumpCluster (ck : Nat) : Nat → State → State
  | 0, s => s
  | n + 1, s =>
    let s := (s.completeCluster ck false).completeCluster ck true
    let s := (s.startCluster ck false).startCluster ck true
    State.pumpCluster ck n (s.sendCluster ck)

/-- Enough rounds for 32 descriptors and 32 registers. -/
def State.runCluster (s : State) (ck : Nat) : State := State.pumpCluster ck 80 s

/-- Every cluster DMA of slice n that has a descriptor goes on: one may have waited for another's (R105). -/
def State.runClusters (s : State) (n : Nat) : State :=
  ((s.clusters.filter (fun c => c.1 / 16 == n && !c.2.cdescs.isEmpty)).map (·.1)).foldl (fun s ck => s.runCluster ck) s

/-! ## CSRs (R175) -/

/-- SLBUDGET. -/
def State.budgetLeft (s : State) (k : Nat) : Word :=
  match s.taskOf k with
  | none => 0xFFFFFFFF
  | some (_, t) => match t.spec.budget with
    | none => 0xFFFFFFFF
    | some b => BitVec.ofNat 32 (min 0xFFFFFFFF (b - t.used))

/-- The value of a CSR before an instruction that has cost its cycles, none where it is not implemented. -/
def State.csrRead (s : State) (k : Nat) (cyc : Cycles) (n : Nat) : Option Word :=
  let h := s.hart k
  let cycles := h.mcycle - BitVec.ofNat 64 (cycNum cyc)
  match n with
  | 0x001 => some 0
  | 0x002 => some 0
  | 0x003 => some 0
  | 0x008 => some (BitVec.ofNat 32 h.vstart)
  | 0x009 => some (if h.vxsat then 1 else 0)
  | 0x00A => some (h.vxrm.setWidth 32)
  | 0x00F => some (h.vxrm.setWidth 32 * 2 + (if h.vxsat then 1 else 0))
  | 0xC20 => some (BitVec.ofNat 32 h.vl)
  | 0xC21 => some h.vtype
  | 0xC22 => some 32
  | 0x300 => some 0x00006600
  | 0x301 => some 0x40801124
  | 0xB00 => some (cycles.setWidth 32)
  | 0xC00 => some (cycles.setWidth 32)
  | 0xB80 => some ((cycles >>> 32).setWidth 32)
  | 0xC80 => some ((cycles >>> 32).setWidth 32)
  | 0xB02 => some (h.minstret.setWidth 32)
  | 0xC02 => some (h.minstret.setWidth 32)
  | 0xB82 => some ((h.minstret >>> 32).setWidth 32)
  | 0xC82 => some ((h.minstret >>> 32).setWidth 32)
  | 0xF14 => some (BitVec.ofNat 32 k)
  | 0x7C0 => some (h.digLayer.setWidth 32)
  | 0x7C1 => some (if s.isDirect k then 1 else 0)
  | 0x7C2 => some ((s.clusterOf k).base.setWidth 32)
  | 0x7C3 => some (s.budgetLeft k)
  | _ => none

/-- A CSR that no write reaches: a read-only address, and SLMODE, SLAPBASE and SLBUDGET. -/
def csrReadOnly (n : Nat) : Bool := n / 0x400 == 3 || n == 0x7C1 || n == 0x7C2 || n == 0x7C3

/-- The low or high half of a counter is written: the value that the next instruction reads. -/
def setLo (old : DWord) (v : Word) : DWord := (old >>> 32) <<< 32 ||| v.setWidth 64
def setHi (old : DWord) (v : Word) : DWord := (v.setWidth 64 : DWord) <<< 32 ||| (old.setWidth 32).setWidth 64

/-- A CSR is written; minstret loses the count that the retiring instruction adds. -/
def Hart.csrWrite (h : Hart) (n : Nat) (v : Word) : Hart :=
  match n with
  | 0x008 => { h with vstart := v.toNat % 256 }
  | 0x009 => { h with vxsat := v.toNat.testBit 0 }
  | 0x00A => { h with vxrm := v.setWidth 2 }
  | 0x00F => { h with vxrm := (v >>> 1).setWidth 2, vxsat := v.toNat.testBit 0 }
  | 0xB00 => { h with mcycle := setLo h.mcycle v }
  | 0xB80 => { h with mcycle := setHi h.mcycle v }
  | 0xB02 => { h with minstret := setLo h.minstret v - 1 }
  | 0xB82 => { h with minstret := setHi h.minstret v - 1 }
  | 0x7C0 => { h with digLayer := v.setWidth 16 }
  | _ => h

/-- A CSR instruction w of hart k. -/
def State.csrOp (s : State) (k : Nat) (cyc : Cycles) (w : Word) : State :=
  let i := w.toNat
  let n := bits i 31 20
  let f3 := bits i 14 12
  let rs := bits i 19 15
  let arg := if f3 ≥ 4 then BitVec.ofNat 32 rs else (s.hart k).getX rs
  let writes := f3 % 4 == 1 || rs != 0
  match s.csrRead k cyc n with
  | none => s.faultAt k 1 i
  | some old =>
    if f3 % 4 == 0 || bits i 6 0 != 0x73 || (writes && csrReadOnly n) then s.faultAt k 1 i else
    let v := match f3 % 4 with
      | 1 => arg
      | 2 => old ||| arg
      | _ => old &&& ~~~ arg
    (s.modHart k (fun h =>
      let h := if writes then h.csrWrite n v else h
      h.setX (bits i 11 7) old)).retire k 4

end Sys2Proof.Machine
end

