-- ==== Sys2Proof/Machine/Rv.lean ====
section
/-! DEFINITION. The scalar instructions of a sliver core: RV32I, M, F and C (R172, R174, R176). The encodings and
the integer results are those of the RISC-V unprivileged specification that R172 names (notes/assumptions/60.md). -/

namespace Sys2Proof.Machine

/-! ## Memory accesses of an instruction -/

/-- Why an instruction does not retire: a fault, a window fault, a window load to be served (R184), a cache miss. -/
inductive Stop where
  | fault (cause detail : Nat)
  | badWin (addr : Nat)
  | needWin
  | miss
  deriving DecidableEq, Repr

/-- An instruction under way: the state, its hart, whether its window loads are served, and the local-store accesses it
has made, by address and length (R186). -/
structure Tv where
  s   : State
  k   : Nat
  win : Bool
  ls  : List (Nat × Nat)
  deriving DecidableEq, Repr

/-- How an instruction ends. -/
inductive Ex where
  | ok (v : Tv)
  | stop (v : Tv) (w : Stop)
  deriving DecidableEq, Repr

def Tv.h (v : Tv) : Hart := v.s.hart v.k
def Tv.mod (v : Tv) (f : Hart → Hart) : Tv := { v with s := v.s.modHart v.k f }

/-- A load of n bytes at a, a multiple of the access size (R176, R182), through the constant cache where it reads device
memory (R185). -/
def Tv.read (v : Tv) (a n : Nat) : Except Stop (Bytes × Tv) :=
  if a % n != 0 then .error (.fault 2 a) else
  match v.s.reach v.k a n false with
  | .loc => .ok (v.s.lsGet v.k a n, { v with ls := v.ls ++ [(a, n)] })
  | .dev d => match v.s.lineBytes v.k (v.s.clusterOf v.k).clines d n with
    | some b => .ok (overlay (v.s.runWeights (hartSlice v.k)) d b, v)
    | none => .error .miss
  | .win off => if v.win then .ok ((v.s.slice (hartSlice v.k)).ts off n, v) else .error .needWin
  | .bad => .error (.fault 3 a)
  | .badWin => .error (.badWin a)

/-- A store of bytes at a, a multiple of their number. -/
def Tv.write (v : Tv) (a : Nat) (b : Bytes) : Except Stop Tv :=
  if a % b.length != 0 then .error (.fault 2 a) else
  match v.s.reach v.k a b.length true with
  | .loc => .ok { v with s := v.s.lsPut v.k a b, ls := v.ls ++ [(a, b.length)] }
  | .dev d => .ok { v with s := v.s.devStore v.k d b }
  | _ => .error (.fault 3 a)

/-- The instruction of n bytes retires with a change of the hart. -/
def Tv.fin (v : Tv) (n : Nat) (f : Hart → Hart) : Ex := .ok (v.mod (fun h => (f h).retire n))

/-- A jump to a target. -/
def Tv.jump (v : Tv) (target : Word) (f : Hart → Hart) : Ex :=
  .ok (v.mod (fun h => { f h with pc := target, minstret := h.minstret + 1, got := [] }))

def Tv.illegal (v : Tv) (i : Nat) : Ex := .stop v (.fault 1 i)

/-! ## Integer results -/

def w32 (i : Int) : Word := BitVec.ofInt 32 i

def bool32 (b : Bool) : Word := if b then 1 else 0

/-- Arithmetic of OP and OP-IMM; alt is bit 30. -/
def alu (f3 : Nat) (alt : Bool) (a b : Word) : Word :=
  let sh := b.toNat % 32
  match f3 with
  | 0 => if alt then a - b else a + b
  | 1 => a <<< sh
  | 2 => bool32 (a.slt b)
  | 3 => bool32 (a.ult b)
  | 4 => a ^^^ b
  | 5 => if alt then a.sshiftRight sh else a >>> sh
  | 6 => a ||| b
  | _ => a &&& b

/-- The M extension. -/
def mulDiv (f3 : Nat) (a b : Word) : Word :=
  match f3 with
  | 0 => a * b
  | 1 => w32 (a.toInt * b.toInt / 2 ^ 32)
  | 2 => w32 (a.toInt * b.toNat / 2 ^ 32)
  | 3 => BitVec.ofNat 32 (a.toNat * b.toNat / 2 ^ 32)
  | 4 => if b = 0 then 0xFFFFFFFF else w32 (Int.tdiv a.toInt b.toInt)
  | 5 => if b = 0 then 0xFFFFFFFF else BitVec.ofNat 32 (a.toNat / b.toNat)
  | 6 => if b = 0 then a else w32 (Int.tmod a.toInt b.toInt)
  | _ => if b = 0 then a else BitVec.ofNat 32 (a.toNat % b.toNat)

def branchTaken (f3 : Nat) (a b : Word) : Bool :=
  match f3 with
  | 0 => a == b
  | 1 => a != b
  | 4 => a.slt b
  | 5 => !a.slt b
  | 6 => a.ult b
  | _ => !a.ult b

/-! ## Floating results (R174) -/

/-- A conversion to a 32-bit integer with a rounding mode: saturated; a NaN gives the largest value. -/
def fToInt (mode : Nat) (sgn : Bool) (a : Word) : Word :=
  let lo : Int := if sgn then -(2 ^ 31) else 0
  let hi : Int := if sgn then 2 ^ 31 - 1 else 2 ^ 32 - 1
  match f32 a with
  | .nan => w32 hi
  | .inf n => w32 (if n then lo else hi)
  | .fin n m e => w32 (max lo (min hi (roundInt mode n m e)))

/-- The rounding mode of a conversion: dynamic is ties to even, as frm reads 0. -/
def rmMode (rm : Nat) : Nat := if rm == 7 then 0 else rm

/-- FCLASS. -/
def fClass (a : Word) : Word :=
  let neg := a.toNat.testBit 31
  match f32 a with
  | .nan => if a.toNat.testBit 22 then 512 else 256
  | .inf n => if n then 1 else 128
  | .fin _ m _ =>
    if m == 0 then (if neg then 8 else 16)
    else if m < 2 ^ 23 then (if neg then 4 else 32)
    else if neg then 2 else 64

/-- FSGNJ, FSGNJN and FSGNJX. -/
def fSign (f3 : Nat) (a b : Word) : Word :=
  let sb := b &&& 0x80000000
  match f3 with
  | 0 => (a &&& 0x7FFFFFFF) ||| sb
  | 1 => (a &&& 0x7FFFFFFF) ||| (sb ^^^ 0x80000000)
  | _ => a ^^^ sb

/-- FMADD, FMSUB, FNMSUB and FNMADD by bits 3 and 2 of the opcode. -/
def fFused (op : Nat) (a b c : Word) : Word :=
  let p := (f32 a).mul (f32 b)
  let x := f32 c
  toF32 (match op with
    | 0 => p.add x
    | 1 => p.add x.neg
    | 2 => p.neg.add x
    | _ => p.neg.add x.neg)

def fCmp (f3 : Nat) (a b : Word) : Bool :=
  match f3 with
  | 0 => (f32 a).le (f32 b)
  | 1 => (f32 a).lt (f32 b)
  | _ => (f32 a).eq (f32 b)

/-- OP-FP, none where the encoding is not defined: an f register's new value, or an x register's. -/
def opFp (i : Nat) (a b x : Word) : Option (Sum Word Word) :=
  let f7 := bits i 31 25
  let rm := bits i 14 12
  let r2 := bits i 24 20
  let rounded := rm != 5 && rm != 6
  match f7 with
  | 0x00 => if rounded then some (.inl (fadd a b)) else none
  | 0x04 => if rounded then some (.inl (fsub a b)) else none
  | 0x08 => if rounded then some (.inl (fmul a b)) else none
  | 0x0C => if rounded then some (.inl (fdiv a b)) else none
  | 0x2C => if rounded && r2 == 0 then some (.inl (fsqrt a)) else none
  | 0x10 => if rm ≤ 2 then some (.inl (fSign rm a b)) else none
  | 0x14 => if rm == 0 then some (.inl (fmin a b)) else if rm == 1 then some (.inl (fmax a b)) else none
  | 0x50 => if rm ≤ 2 then some (.inr (bool32 (fCmp rm a b))) else none
  | 0x60 => if rounded && decide (r2 ≤ 1) then some (.inr (fToInt (rmMode rm) (r2 == 0) a)) else none
  | 0x68 =>
    if rounded && decide (r2 ≤ 1) then some (.inl (fOfInt (if r2 == 0 then x.toInt else x.toNat))) else none
  | 0x70 =>
    if r2 != 0 then none else if rm == 0 then some (.inr a) else if rm == 1 then some (.inr (fClass a)) else none
  | 0x78 => if r2 == 0 && rm == 0 then some (.inl x) else none
  | _ => none

/-! ## Compressed instructions: the 32-bit instruction that each stands for -/

def encI (imm rs1 f3 rd op : Nat) : Nat := imm % 4096 * 2 ^ 20 + rs1 * 2 ^ 15 + f3 * 2 ^ 12 + rd * 2 ^ 7 + op
def encR (f7 rs2 rs1 f3 rd op : Nat) : Nat := f7 * 2 ^ 25 + rs2 * 2 ^ 20 + rs1 * 2 ^ 15 + f3 * 2 ^ 12 + rd * 2 ^ 7 + op
def encS (imm rs2 rs1 f3 op : Nat) : Nat := encR (imm / 32 % 128) rs2 rs1 f3 (imm % 32) op
def encB (imm rs1 f3 : Nat) : Nat :=
  (imm.testBit 12).toNat * 2 ^ 31 + bits imm 10 5 * 2 ^ 25 + rs1 * 2 ^ 15 + f3 * 2 ^ 12 + bits imm 4 1 * 2 ^ 8
    + (imm.testBit 11).toNat * 2 ^ 7 + 0x63
def encJ (imm rd : Nat) : Nat :=
  (imm.testBit 20).toNat * 2 ^ 31 + bits imm 10 1 * 2 ^ 21 + (imm.testBit 11).toNat * 2 ^ 20 + bits imm 19 12 * 2 ^ 12
    + rd * 2 ^ 7 + 0x6F

/-- A 6-bit immediate with its sign, as n bits. -/
def sx (w n v : Nat) : Nat := wrap n (signed w v)

/-- A 16-bit instruction, none where the encoding is not defined. -/
def expandC (c : Nat) : Option Nat :=
  let f (hi lo : Nat) : Nat := bits c hi lo
  let rd := f 11 7
  let r2 := f 6 2
  let rdC := f 4 2 + 8
  let r1C := f 9 7 + 8
  let imm6 := f 12 12 * 32 + f 6 2
  let lwImm := f 12 10 * 8 + f 6 6 * 4 + f 5 5 * 64
  let lwsp := f 12 12 * 32 + f 6 4 * 4 + f 3 2 * 64
  let swsp := f 12 9 * 4 + f 8 7 * 64
  let jImm := sx 12 21 (f 12 12 * 2048 + f 11 11 * 16 + f 10 9 * 256 + f 8 8 * 1024 + f 7 7 * 64 + f 6 6 * 128
    + f 5 3 * 2 + f 2 2 * 32)
  let bImm := sx 9 13 (f 12 12 * 256 + f 11 10 * 8 + f 6 5 * 64 + f 4 3 * 2 + f 2 2 * 32)
  match f 1 0, f 15 13 with
  | 0, 0 =>
    let n := f 12 11 * 16 + f 10 7 * 64 + f 6 6 * 4 + f 5 5 * 8
    if n == 0 then none else some (encI n 2 0 rdC 0x13)
  | 0, 2 => some (encI lwImm r1C 2 rdC 0x03)
  | 0, 3 => some (encI lwImm r1C 2 rdC 0x07)
  | 0, 6 => some (encS lwImm rdC r1C 2 0x23)
  | 0, 7 => some (encS lwImm rdC r1C 2 0x27)
  | 1, 0 => some (encI (sx 6 12 imm6) rd 0 rd 0x13)
  | 1, 1 => some (encJ jImm 1)
  | 1, 2 => some (encI (sx 6 12 imm6) 0 0 rd 0x13)
  | 1, 3 =>
    if rd == 2 then
      let n := sx 10 12 (f 12 12 * 512 + f 6 6 * 16 + f 5 5 * 64 + f 4 3 * 128 + f 2 2 * 32)
      if n == 0 then none else some (encI n 2 0 2 0x13)
    else if imm6 == 0 then none else some (sx 6 20 imm6 * 2 ^ 12 + rd * 2 ^ 7 + 0x37)
  | 1, 4 =>
    match f 11 10 with
    | 0 => if f 12 12 == 1 then none else some (encR 0 r2 r1C 5 r1C 0x13)
    | 1 => if f 12 12 == 1 then none else some (encR 0x20 r2 r1C 5 r1C 0x13)
    | 2 => some (encI (sx 6 12 imm6) r1C 7 r1C 0x13)
    | _ =>
      if f 12 12 == 1 then none else
      match f 6 5 with
      | 0 => some (encR 0x20 rdC r1C 0 r1C 0x33)
      | 1 => some (encR 0 rdC r1C 4 r1C 0x33)
      | 2 => some (encR 0 rdC r1C 6 r1C 0x33)
      | _ => some (encR 0 rdC r1C 7 r1C 0x33)
  | 1, 5 => some (encJ jImm 0)
  | 1, 6 => some (encB bImm r1C 0)
  | 1, 7 => some (encB bImm r1C 1)
  | 2, 0 => if f 12 12 == 1 then none else some (encR 0 r2 rd 1 rd 0x13)
  | 2, 2 => if rd == 0 then none else some (encI lwsp 2 2 rd 0x03)
  | 2, 3 => some (encI lwsp 2 2 rd 0x07)
  | 2, 4 =>
    if f 12 12 == 0 then
      if r2 == 0 then (if rd == 0 then none else some (encI 0 rd 0 0 0x67)) else some (encR 0 r2 0 0 rd 0x33)
    else if r2 == 0 then (if rd == 0 then some 0x00100073 else some (encI 0 rd 0 1 0x67))
    else some (encR 0 r2 rd 0 rd 0x33)
  | 2, 6 => some (encS swsp r2 2 2 0x23)
  | 2, 7 => some (encS swsp r2 2 2 0x27)
  | _, _ => none

/-! ## Execution -/

def immI (i : Nat) : Word := w32 (signed 12 (bits i 31 20))
def immS (i : Nat) : Word := w32 (signed 12 (bits i 31 25 * 32 + bits i 11 7))
def immB (i : Nat) : Word :=
  w32 (signed 13 (bits i 31 31 * 4096 + bits i 7 7 * 2048 + bits i 30 25 * 32 + bits i 11 8 * 2))
def immJ (i : Nat) : Word :=
  w32 (signed 21 (bits i 31 31 * 2 ^ 20 + bits i 19 12 * 4096 + bits i 20 20 * 2048 + bits i 30 21 * 2))

/-- A scalar load of n bytes at an address, its value given to a register. -/
def Tv.loadTo (v : Tv) (len : Nat) (a : Word) (n : Nat) (f : Nat → Hart → Hart) : Ex :=
  match v.read a.toNat n with
  | .error e => .stop v e
  | .ok (b, v) => v.fin len (f (ofLe b))

def Tv.storeFrom (v : Tv) (len : Nat) (a : Word) (n : Nat) (x : Word) : Ex :=
  match v.write a.toNat (le n x.toNat) with
  | .error e => .stop v e
  | .ok v => v.fin len id

/-- LOAD. -/
def Tv.exLoad (v : Tv) (i bitsSeen len : Nat) : Ex :=
  let a := v.h.getX (bits i 19 15) + immI i
  let rd := bits i 11 7
  match bits i 14 12 with
  | 0 => v.loadTo len a 1 (fun x h => h.setX rd (w32 (signed 8 x)))
  | 1 => v.loadTo len a 2 (fun x h => h.setX rd (w32 (signed 16 x)))
  | 2 => v.loadTo len a 4 (fun x h => h.setX rd (BitVec.ofNat 32 x))
  | 4 => v.loadTo len a 1 (fun x h => h.setX rd (BitVec.ofNat 32 x))
  | 5 => v.loadTo len a 2 (fun x h => h.setX rd (BitVec.ofNat 32 x))
  | _ => v.illegal bitsSeen

/-- STORE. -/
def Tv.exStore (v : Tv) (i bitsSeen len : Nat) : Ex :=
  let a := v.h.getX (bits i 19 15) + immS i
  let x := v.h.getX (bits i 24 20)
  match bits i 14 12 with
  | 0 => v.storeFrom len a 1 x
  | 1 => v.storeFrom len a 2 x
  | 2 => v.storeFrom len a 4 x
  | _ => v.illegal bitsSeen

/-- OP-IMM: shifts have the upper seven bits 0, or 0x20 for SRAI. -/
def Tv.exOpImm (v : Tv) (i bitsSeen len : Nat) : Ex :=
  let f3 := bits i 14 12
  let f7 := bits i 31 25
  let a := v.h.getX (bits i 19 15)
  let rd := bits i 11 7
  if f3 == 1 && f7 != 0 then v.illegal bitsSeen
  else if f3 == 5 then
    if f7 == 0 || f7 == 0x20 then
      v.fin len (fun h => h.setX rd (alu 5 (f7 == 0x20) a (BitVec.ofNat 32 (bits i 24 20))))
    else v.illegal bitsSeen
  else v.fin len (fun h => h.setX rd (alu f3 false a (immI i)))

/-- OP, the M extension among it. -/
def Tv.exOp (v : Tv) (i bitsSeen len : Nat) : Ex :=
  let f3 := bits i 14 12
  let f7 := bits i 31 25
  let a := v.h.getX (bits i 19 15)
  let b := v.h.getX (bits i 24 20)
  let rd := bits i 11 7
  if f7 == 1 then v.fin len (fun h => h.setX rd (mulDiv f3 a b))
  else if f7 == 0 || (f7 == 0x20 && (f3 == 0 || f3 == 5)) then
    v.fin len (fun h => h.setX rd (alu f3 (f7 == 0x20) a b))
  else v.illegal bitsSeen

/-- BRANCH. -/
def Tv.exBranch (v : Tv) (i bitsSeen len : Nat) : Ex :=
  let f3 := bits i 14 12
  if f3 == 2 || f3 == 3 then v.illegal bitsSeen
  else if branchTaken f3 (v.h.getX (bits i 19 15)) (v.h.getX (bits i 24 20)) then v.jump (v.h.pc + immB i) id
  else v.fin len id

/-- The fused multiply-adds. -/
def Tv.exFused (v : Tv) (i bitsSeen len : Nat) : Ex :=
  let rm := bits i 14 12
  if bits i 26 25 != 0 || rm == 5 || rm == 6 then v.illegal bitsSeen
  else v.fin len (fun h => h.setF (bits i 11 7)
    (fFused (bits i 3 2) (h.getF (bits i 19 15)) (h.getF (bits i 24 20)) (h.getF (bits i 31 27))))

/-- OP-FP. -/
def Tv.exOpFp (v : Tv) (i bitsSeen len : Nat) : Ex :=
  let h := v.h
  let rd := bits i 11 7
  match opFp i (h.getF (bits i 19 15)) (h.getF (bits i 24 20)) (h.getX (bits i 19 15)) with
  | none => v.illegal bitsSeen
  | some (.inl f) => v.fin len (fun h => h.setF rd f)
  | some (.inr x) => v.fin len (fun h => h.setX rd x)

/-- One scalar instruction i of len bytes; bitsSeen are the instruction bits that a fault reports. -/
def Tv.exScalar (v : Tv) (i bitsSeen len : Nat) : Ex :=
  let rd := bits i 11 7
  let pc := v.h.pc
  let next := pc + BitVec.ofNat 32 len
  match bits i 6 0 with
  | 0x03 => v.exLoad i bitsSeen len
  | 0x07 =>
    if bits i 14 12 == 2 then
      v.loadTo len (v.h.getX (bits i 19 15) + immI i) 4 (fun x h => h.setF rd (BitVec.ofNat 32 x))
    else v.illegal bitsSeen
  | 0x13 => v.exOpImm i bitsSeen len
  | 0x17 => v.fin len (fun h => h.setX rd (pc + BitVec.ofNat 32 (bits i 31 12 * 4096)))
  | 0x23 => v.exStore i bitsSeen len
  | 0x27 =>
    if bits i 14 12 == 2 then v.storeFrom len (v.h.getX (bits i 19 15) + immS i) 4 (v.h.getF (bits i 24 20))
    else v.illegal bitsSeen
  | 0x33 => v.exOp i bitsSeen len
  | 0x37 => v.fin len (fun h => h.setX rd (BitVec.ofNat 32 (bits i 31 12 * 4096)))
  | 0x43 => v.exFused i bitsSeen len
  | 0x47 => v.exFused i bitsSeen len
  | 0x4B => v.exFused i bitsSeen len
  | 0x4F => v.exFused i bitsSeen len
  | 0x53 => v.exOpFp i bitsSeen len
  | 0x63 => v.exBranch i bitsSeen len
  | 0x67 =>
    if bits i 14 12 == 0 then
      v.jump ((v.h.getX (bits i 19 15) + immI i) &&& 0xFFFFFFFE) (fun h => h.setX rd next)
    else v.illegal bitsSeen
  | 0x6F => v.jump (pc + immJ i) (fun h => h.setX rd next)
  | 0x73 =>
    if i == 0x00000073 then .stop v (.fault 4 0)
    else if i == 0x00100073 then .stop v (.fault 5 0)
    else v.illegal bitsSeen
  | _ => v.illegal bitsSeen

end Sys2Proof.Machine
end

