-- ==== Sys2Proof/Machine/Rvv.lean ====
section
/-! DEFINITION. The vector instructions of a sliver core: Zve32f with VLEN 256 and ELEN 32 (R172 to R174, R176). The
encodings and results are those of the RISC-V vector specification that R172 names; a register combination or encoding
that it reserves is not defined, and faults as illegal (notes/assumptions/61.md). -/

namespace Sys2Proof.Machine

/-! ## Configuration -/

/-- LMUL in eighths of vlmul, none where it is not supported (R173). -/
def lmul8 : Nat → Option Nat
  | 0 => some 8
  | 1 => some 16
  | 2 => some 32
  | 3 => some 64
  | 6 => some 2
  | 7 => some 4
  | _ => none

/-- SEW and LMUL in eighths of a vtype value, none for vill. -/
def vtypeOf (t : Nat) : Option (Nat × Nat) :=
  if t / 256 != 0 || 2 < bits t 5 3 then none else
  match lmul8 (bits t 2 0) with
  | none => none
  | some l => let sew := 8 * 2 ^ bits t 5 3
    if 4 * l < sew then none else some (sew, l)

/-- VLMAX. -/
def vlMax (sew l : Nat) : Nat := 256 * l / (8 * sew)

/-- The configuration that a vector instruction runs under. -/
structure VCfg where
  sew   : Nat
  l     : Nat
  vl    : Nat
  start : Nat
  ta    : Bool
  ma    : Bool
  /-- the instruction is masked by v0 -/
  masked : Bool
  /-- the free choices of agnostic elements -/
  free  : Nat
  deriving DecidableEq, Repr

def VCfg.max (c : VCfg) : Nat := vlMax c.sew c.l

/-- Registers of a group of EMUL in eighths. -/
def groupRegs (l : Nat) : Nat := max 1 (l / 8)

/-- A group starts at a multiple of its registers and ends within the file. -/
def groupOk (r l : Nat) : Bool := r % groupRegs l == 0 && decide (r + groupRegs l ≤ 32)

/-- Two groups share a register. -/
def groupsMeet (a la b lb : Nat) : Bool := decide (a < b + groupRegs lb) && decide (b < a + groupRegs la)

/-- A destination group may overlap a source group of the given element widths (RISC-V vector, 5.2). -/
def overlapOk (d ld ed s ls es : Nat) : Bool :=
  !groupsMeet d ld s ls || ed == es
    || (decide (ed < es) && d == s)
    || (decide (es < ed) && decide (8 ≤ ls) && s + groupRegs ls == d + groupRegs ld)

/-! ## Elements -/

/-- Element i of width e of the group that begins at register r. -/
def Hart.elem (h : Hart) (r e i : Nat) : Nat := ((h.getV (r + i * e / 256)).toNat >>> (i * e % 256)) % 2 ^ e

def Hart.setElem (h : Hart) (r e i x : Nat) : Hart :=
  let k := r + i * e / 256
  let o := i * e % 256
  let w := (h.getV k).toNat
  h.setV k (BitVec.ofNat 256 (w - (w >>> o) % 2 ^ e * 2 ^ o + x % 2 ^ e * 2 ^ o))

/-- Bit i of a mask register. -/
def Hart.maskBit (h : Hart) (r i : Nat) : Bool := (h.getV r).toNat.testBit i

/-- Body element i is active. -/
def VCfg.active (c : VCfg) (h : Hart) (i : Nat) : Bool := !c.masked || h.maskBit 0 i

/-- An agnostic element keeps its value or becomes all ones. -/
def VCfg.agnostic (c : VCfg) (h : Hart) (r e i : Nat) : Hart :=
  if c.free.testBit i then h.setElem r e i (2 ^ e - 1) else h

/-- Elements of width e of the group of EMUL l that begins at r: the body's active ones from vstart on take f, the
others follow the mask and tail policies. Sources are read before any is written. -/
def VCfg.fill (c : VCfg) (h : Hart) (r e l : Nat) (f : Nat → Nat) : Hart :=
  if c.vl ≤ c.start then h else
  (List.range (groupRegs l * 256 / e)).foldl (fun x i =>
    if i < c.start then x
    else if i < c.vl then
      if c.active h i then x.setElem r e i (f i)
      else if c.ma then c.agnostic x r e i else x
    else if c.ta then c.agnostic x r e i else x) h

/-- A mask result: tail bits are agnostic, whatever vta holds. -/
def VCfg.fillMask (c : VCfg) (h : Hart) (r : Nat) (f : Nat → Bool) : Hart :=
  if c.vl ≤ c.start then h else
  let old := (h.getV r).toNat
  let bit (i : Nat) : Bool :=
    if i < c.start then old.testBit i
    else if i < c.vl then
      if c.active h i then f i else if c.ma && c.free.testBit i then true else old.testBit i
    else c.free.testBit i
  h.setV r (BitVec.ofNat 256 (maskNat 256 bit))

/-- A result in element 0 only; the rest of its register is tail. -/
def VCfg.scalar (c : VCfg) (h : Hart) (r e x : Nat) : Hart :=
  if c.vl == 0 then h else
  (List.range (256 / e)).foldl (fun y i =>
    if i == 0 then y.setElem r e 0 x else if c.ta then c.agnostic y r e i else y) h

/-! ## Integer results on elements of n bits -/

/-- Bits of rounding of v by d places under vxrm: 0 nearest up, 1 nearest even, 2 down, 3 to odd. -/
def roundOff (vxrm : Nat) (v : Int) (d : Nat) : Int :=
  if d == 0 then v else
  let q := v / (2 ^ d : Nat)
  let r := (v % (2 ^ d : Nat)).toNat
  let half := 2 ^ (d - 1)
  let up := match vxrm with
    | 0 => decide (half ≤ r)
    | 1 => decide (half < r) || (r == half && q % 2 != 0)
    | 2 => false
    | _ => q % 2 == 0 && r != 0
  if up then q + 1 else q

def sMax (n : Nat) : Int := 2 ^ (n - 1) - 1
def sMin (n : Nat) : Int := -(2 ^ (n - 1))
/-- Saturated to n signed or unsigned bits, with vxsat. -/
def satS (n : Nat) (v : Int) : Nat × Bool := (wrap n (max (sMin n) (min (sMax n) v)), decide (v < sMin n) || decide (sMax n < v))
def satU (n : Nat) (v : Int) : Nat × Bool :=
  (wrap n (max 0 (min (2 ^ n - 1) v)), decide (v < 0) || decide ((2 ^ n - 1 : Int) < v))

/-- OPIVV, OPIVX and OPIVI of one width: a of vs2, b of vs1, rs1 or the immediate. -/
def vInt (f6 n rm a b : Nat) : Option (Nat × Bool) :=
  let sa := signed n a
  let sb := signed n b
  let sh := b % n
  let ok (v : Int) : Option (Nat × Bool) := some (wrap n v, false)
  match f6 with
  | 0x00 => ok (a + b : Nat)
  | 0x02 => ok ((a : Int) - b)
  | 0x03 => ok ((b : Int) - a)
  | 0x04 => ok (min a b : Nat)
  | 0x05 => ok (min sa sb)
  | 0x06 => ok (max a b : Nat)
  | 0x07 => ok (max sa sb)
  | 0x09 => ok (a &&& b : Nat)
  | 0x0A => ok (a ||| b : Nat)
  | 0x0B => ok (a ^^^ b : Nat)
  | 0x20 => some (satU n (a + b : Nat))
  | 0x21 => some (satS n (sa + sb))
  | 0x22 => some (satU n ((a : Int) - b))
  | 0x23 => some (satS n (sa - sb))
  | 0x25 => ok (a <<< sh : Nat)
  | 0x27 => some (satS n (roundOff rm (sa * sb) (n - 1)))
  | 0x28 => ok (a >>> sh : Nat)
  | 0x29 => ok (sa / (2 ^ sh : Nat))
  | 0x2A => ok (roundOff rm a sh)
  | 0x2B => ok (roundOff rm sa sh)
  | _ => none

/-- Comparisons. -/
def vCmp (f6 n a b : Nat) : Option Bool :=
  match f6 with
  | 0x18 => some (a == b)
  | 0x19 => some (a != b)
  | 0x1A => some (decide (a < b))
  | 0x1B => some (decide (signed n a < signed n b))
  | 0x1C => some (decide (a ≤ b))
  | 0x1D => some (decide (signed n a ≤ signed n b))
  | 0x1E => some (decide (b < a))
  | 0x1F => some (decide (signed n b < signed n a))
  | _ => none

/-- Narrowing operations: a of 2n bits. -/
def vNarrow (f6 n rm a b : Nat) : Option (Nat × Bool) :=
  let sh := b % (2 * n)
  match f6 with
  | 0x2C => some ((a >>> sh) % 2 ^ n, false)
  | 0x2D => some (wrap n (signed (2 * n) a / (2 ^ sh : Nat)), false)
  | 0x2E => some (satU n (roundOff rm a sh))
  | 0x2F => some (satS n (roundOff rm (signed (2 * n) a) sh))
  | _ => none

/-- OPMVV and OPMVX of one width; d is the old element of vd. -/
def vMul (f6 n rm a b d : Nat) : Option Nat :=
  let sa := signed n a
  let sb := signed n b
  let ok (v : Int) : Option Nat := some (wrap n v)
  match f6 with
  | 0x08 => ok (roundOff rm (a + b : Nat) 1)
  | 0x09 => ok (roundOff rm (sa + sb) 1)
  | 0x0A => ok (roundOff rm ((a : Int) - b) 1)
  | 0x0B => ok (roundOff rm (sa - sb) 1)
  | 0x20 => some (if b == 0 then 2 ^ n - 1 else a / b : Nat)
  | 0x21 => if b == 0 then some (2 ^ n - 1) else ok (Int.tdiv sa sb)
  | 0x22 => some (if b == 0 then a else a % b : Nat)
  | 0x23 => if b == 0 then some a else ok (Int.tmod sa sb)
  | 0x24 => ok (a * b / 2 ^ n : Nat)
  | 0x25 => ok (a * b : Nat)
  | 0x26 => ok (sa * b / (2 ^ n : Nat))
  | 0x27 => ok (sa * sb / (2 ^ n : Nat))
  | 0x29 => ok (b * d + a : Nat)
  | 0x2B => ok (-((b * d : Nat) : Int) + a)
  | 0x2D => ok (b * a + d : Nat)
  | 0x2F => ok (-((b * a : Nat) : Int) + d)
  | _ => none

/-- Widening operations to 2n bits: a of vs2 (already 2n bits for the .w forms), b, and the old element of vd. -/
def vWide (f6 n a b d : Nat) : Option Nat :=
  let w := 2 * n
  let sa := signed n a
  let sb := signed n b
  let ok (v : Int) : Option Nat := some (wrap w v)
  match f6 with
  | 0x30 => ok (a + b : Nat)
  | 0x31 => ok (sa + sb)
  | 0x32 => ok ((a : Int) - b)
  | 0x33 => ok (sa - sb)
  | 0x34 => ok (a + b : Nat)
  | 0x35 => ok ((a : Int) + sb)
  | 0x36 => ok ((a : Int) - b)
  | 0x37 => ok ((a : Int) - sb)
  | 0x38 => ok (a * b : Nat)
  | 0x3A => ok (sa * b)
  | 0x3B => ok (sa * sb)
  | 0x3C => ok (a * b + d : Nat)
  | 0x3D => ok (sa * sb + d)
  | 0x3E => ok (sa * b + d)
  | 0x3F => ok ((a : Int) * sb + d)
  | _ => none

/-- Integer reductions: one step. -/
def vRed (f6 n acc x : Nat) : Option Nat :=
  match f6 with
  | 0 => some ((acc + x) % 2 ^ n)
  | 1 => some (acc &&& x)
  | 2 => some (acc ||| x)
  | 3 => some (acc ^^^ x)
  | 4 => some (min acc x)
  | 5 => some (wrap n (min (signed n acc) (signed n x)))
  | 6 => some (max acc x)
  | 7 => some (wrap n (max (signed n acc) (signed n x)))
  | _ => none

/-- Mask logic of vs2 bit a and vs1 bit b. -/
def vLogic (f6 : Nat) (a b : Bool) : Option Bool :=
  match f6 with
  | 0x18 => some (a && !b)
  | 0x19 => some (a && b)
  | 0x1A => some (a || b)
  | 0x1B => some (a != b)
  | 0x1C => some (a || !b)
  | 0x1D => some (!(a && b))
  | 0x1E => some (!(a || b))
  | 0x1F => some (a == b)
  | _ => none

/-! ## Floating results -/

/-- The 7-bit estimate of 1/x: the significand of the quotient at the middle of its interval. -/
def recip7 (i : Nat) : Nat := (2 * 65536 / (257 + 2 * i) + 1) / 2 - 128

/-- VFREC7 (RISC-V vector, 13.10). -/
def vfRec7 (w : Nat) : Nat :=
  let neg := w / 2 ^ 31
  let e : Nat := w / 2 ^ 23 % 256
  let m := w % 2 ^ 23
  if e == 255 then (if m == 0 then neg * 2 ^ 31 else 0x7FC00000)
  else if e == 0 && m == 0 then neg * 2 ^ 31 + 0x7F800000
  else
    -- normalised significand and exponent of a subnormal
    let lz := if e == 0 then 23 - bitLen m else 0
    let m' := if e == 0 then m * 2 ^ (lz + 1) % 2 ^ 23 else m
    let e' : Int := if e == 0 then -(lz : Int) else e
    if e == 0 && decide (2 ≤ lz) then neg * 2 ^ 31 + 0x7F800000
    else
      let r := recip7 (m' / 2 ^ 16) * 2 ^ 16
      let x : Int := 253 - e'
      if x == 0 then neg * 2 ^ 31 + (r + 2 ^ 23) / 2
      else if x < 0 then neg * 2 ^ 31 + (r + 2 ^ 23) / 4
      else neg * 2 ^ 31 + x.toNat * 2 ^ 23 + r

/-- The 7-bit estimate of 1/√x at the middle of its interval: j the six leading bits, even the exponent's low bit 0. -/
def rsqrt7 (even : Bool) (j : Nat) : Nat :=
  (sqrtBits ((if even then 2 else 4) * 65536 * 128 / (129 + 2 * j)) 14 0 + 1) / 2 - 128

/-- VFRSQRT7 (RISC-V vector, 13.9). -/
def vfRsqrt7 (w : Nat) : Nat :=
  let neg := w / 2 ^ 31 == 1
  let e : Nat := w / 2 ^ 23 % 256
  let m := w % 2 ^ 23
  if e == 255 && m != 0 then 0x7FC00000
  else if e == 0 && m == 0 then (if neg then 0xFF800000 else 0x7F800000)
  else if neg then 0x7FC00000
  else if e == 255 then 0
  else
    let lz := if e == 0 then 23 - bitLen m else 0
    let m' := if e == 0 then m * 2 ^ (lz + 1) % 2 ^ 23 else m
    let e' : Int := if e == 0 then -(lz : Int) else e
    ((380 - e') / 2).toNat * 2 ^ 23 + rsqrt7 (e' % 2 == 0) (m' / 2 ^ 17) * 2 ^ 16

/-- OPFVV and OPFVF of one width, a of vs2, b of vs1 or rs1, d the old element of vd. -/
def vFloat (f6 : Nat) (a b d : Word) : Option Word :=
  match f6 with
  | 0x00 => some (fadd a b)
  | 0x02 => some (fsub a b)
  | 0x04 => some (fmin a b)
  | 0x06 => some (fmax a b)
  | 0x08 => some (fSign 0 a b)
  | 0x09 => some (fSign 1 a b)
  | 0x0A => some (fSign 2 a b)
  | 0x20 => some (fdiv a b)
  | 0x21 => some (fdiv b a)
  | 0x24 => some (fmul a b)
  | 0x27 => some (fsub b a)
  | 0x28 => some (fFused 0 b d a)
  | 0x29 => some (fFused 3 b d a)
  | 0x2A => some (fFused 1 b d a)
  | 0x2B => some (fFused 2 b d a)
  | 0x2C => some (fFused 0 b a d)
  | 0x2D => some (fFused 3 b a d)
  | 0x2E => some (fFused 1 b a d)
  | 0x2F => some (fFused 2 b a d)
  | _ => none

def vfCmp (f6 : Nat) (a b : Word) : Option Bool :=
  match f6 with
  | 0x18 => some (fCmp 2 a b)
  | 0x19 => some (fCmp 0 a b)
  | 0x1B => some (fCmp 1 a b)
  | 0x1C => some (!fCmp 2 a b)
  | 0x1D => some (fCmp 1 b a)
  | 0x1F => some (fCmp 0 b a)
  | _ => none

/-- VFUNARY0 of one width and VFUNARY1. -/
def vfUnary (f6 n : Nat) (a : Word) : Option Word :=
  match f6, n with
  | 0x12, 0 => some (fToInt 0 false a)
  | 0x12, 1 => some (fToInt 0 true a)
  | 0x12, 2 => some (fOfInt a.toNat)
  | 0x12, 3 => some (fOfInt a.toInt)
  | 0x12, 6 => some (fToInt 1 false a)
  | 0x12, 7 => some (fToInt 1 true a)
  | 0x13, 0 => some (fsqrt a)
  | 0x13, 4 => some (BitVec.ofNat 32 (vfRsqrt7 a.toNat))
  | 0x13, 5 => some (BitVec.ofNat 32 (vfRec7 a.toNat))
  | 0x13, 16 => some (fClass a)
  | _, _ => none

/-! ## One vector arithmetic instruction -/

/-- Fields of an OP-V instruction. -/
structure VOp where
  f6   : Nat
  f3   : Nat
  vd   : Nat
  vs1  : Nat
  vs2  : Nat
  deriving DecidableEq, Repr

/-- The second operand of element i: vs1, an x or f register, or the immediate, signed or not, taken to e bits. -/
def VOp.rhs (o : VOp) (h : Hart) (unsImm : Bool) (e : Nat) (i : Nat) : Nat :=
  match o.f3 with
  | 3 => if unsImm then o.vs1 else wrap e (signed 5 o.vs1)
  | 4 => (h.getX o.vs1).toNat % 2 ^ e
  | 6 => (h.getX o.vs1).toNat % 2 ^ e
  | 5 => (h.getF o.vs1).toNat % 2 ^ e
  | _ => h.elem o.vs1 e i

/-- The second operand is a vector group. -/
def VOp.isVV (o : VOp) : Bool := decide (o.f3 ≤ 2)

/-- Which forms an OPI function has: bit 0 VV, bit 1 VX, bit 2 VI. -/
def opiForms : Nat → Nat
  | 0x00 => 7 | 0x02 => 3 | 0x03 => 6 | 0x04 => 3 | 0x05 => 3 | 0x06 => 3 | 0x07 => 3
  | 0x09 => 7 | 0x0A => 7 | 0x0B => 7 | 0x0C => 7 | 0x0E => 7 | 0x0F => 6 | 0x10 => 7 | 0x11 => 7
  | 0x12 => 3 | 0x13 => 3 | 0x17 => 7 | 0x18 => 7 | 0x19 => 7 | 0x1A => 3 | 0x1B => 3 | 0x1C => 7 | 0x1D => 7
  | 0x1E => 6 | 0x1F => 6 | 0x20 => 7 | 0x21 => 7 | 0x22 => 3 | 0x23 => 3 | 0x25 => 7 | 0x27 => 7
  | 0x28 => 7 | 0x29 => 7 | 0x2A => 7 | 0x2B => 7 | 0x2C => 7 | 0x2D => 7 | 0x2E => 7 | 0x2F => 7
  | 0x30 => 1 | 0x31 => 1
  | _ => 0

/-- The form bit of funct3. -/
def formBit : Nat → Nat
  | 0 => 1 | 1 => 1 | 2 => 1 | 3 => 4 | _ => 2

/-- Register constraints of an operation whose destination has width de and EMUL dl, and sources of their own. -/
def regsOk (c : VCfg) (d dl de : Nat) (srcs : List (Nat × Nat × Nat)) : Bool :=
  groupOk d dl && srcs.all (fun (r, l, e) => groupOk r l && overlapOk d dl de r l e)
    && !(c.masked && d == 0)

/-- Register constraints of a mask result. -/
def maskOk (c : VCfg) (d : Nat) (srcs : List Nat) : Bool :=
  srcs.all (fun r => groupOk r c.l && overlapOk d 1 1 r c.l c.sew)

/-- Sources of one width. -/
def VOp.srcs (o : VOp) (c : VCfg) : List (Nat × Nat × Nat) :=
  (o.vs2, c.l, c.sew) :: (if o.isVV then [(o.vs1, c.l, c.sew)] else [])

/-- The active body elements from vstart on. -/
def VCfg.body (c : VCfg) (h : Hart) : List Nat :=
  (List.range c.vl).filter (fun i => decide (c.start ≤ i) && c.active h i)

/-- Element results with vxsat. -/
def VCfg.fillSat (c : VCfg) (h : Hart) (r e l : Nat) (f : Nat → Nat × Bool) : Hart :=
  let x := c.fill h r e l (fun i => (f i).1)
  { x with vxsat := x.vxsat || (c.body h).any (fun i => (f i).2) }

/-- Gathers and slides (vs2 shifted by off, or indexed); none where the registers are reserved. -/
def VOp.permute (o : VOp) (c : VCfg) (h : Hart) : Option Hart :=
  let a (i : Nat) : Nat := h.elem o.vs2 c.sew i
  let at' (i : Nat) : Nat := if i < c.max then a i else 0
  let n := match o.f3 with
    | 3 => o.vs1
    | _ => (h.getX o.vs1).toNat
  let apart := groupOk o.vd c.l && groupOk o.vs2 c.l && !groupsMeet o.vd c.l o.vs2 c.l && !(c.masked && o.vd == 0)
  if o.f6 == 0x0C then
    if o.f3 == 0 then
      if apart && groupOk o.vs1 c.l && !groupsMeet o.vd c.l o.vs1 c.l then
        some (c.fill h o.vd c.sew c.l (fun i => at' (h.elem o.vs1 c.sew i)))
      else none
    else if apart then some (c.fill h o.vd c.sew c.l (fun _ => at' n)) else none
  else if o.f6 == 0x0E && o.f3 == 0 then
    let l1 := c.l * 16 / c.sew
    if apart && decide (1 ≤ l1 ∧ l1 ≤ 64) && groupOk o.vs1 l1 && !groupsMeet o.vd c.l o.vs1 l1 then
      some (c.fill h o.vd c.sew c.l (fun i => at' (h.elem o.vs1 16 i)))
    else none
  else if o.f6 == 0x0E then
    if apart then some ({ c with start := max c.start (min n c.vl) }.fill h o.vd c.sew c.l (fun i => a (i - n))) else none
  else if regsOk c o.vd c.l c.sew [(o.vs2, c.l, c.sew)] then some (c.fill h o.vd c.sew c.l (fun i => at' (i + n)))
  else none

/-- OPIVV, OPIVX and OPIVI. -/
def VOp.opi (o : VOp) (c : VCfg) (h : Hart) : Option Hart :=
  let e := c.sew
  let a (i : Nat) : Nat := h.elem o.vs2 e i
  let b (i : Nat) : Nat := o.rhs h false e i
  let bu (i : Nat) : Nat := o.rhs h true e i
  let rm := h.vxrm.toNat
  let v0 (i : Nat) : Nat := if h.maskBit 0 i then 1 else 0
  let all := { c with masked := false }
  let same := regsOk c o.vd c.l e (o.srcs c)
  if opiForms o.f6 &&& formBit o.f3 == 0 then none
  else if o.f6 == 0x0C || o.f6 == 0x0E || o.f6 == 0x0F then o.permute c h
  else if o.f6 == 0x27 && o.f3 == 3 then
    -- whole register moves
    let n := o.vs1 + 1
    if c.masked || !(n == 1 || n == 2 || n == 4 || n == 8) || o.vd % n != 0 || o.vs2 % n != 0 then none
    else
      let whole := { c with vl := n * 256 / e }
      some (whole.fill h o.vd e (8 * n) a)
  else if o.f6 == 0x10 || o.f6 == 0x12 then
    -- add with carry and subtract with borrow from v0
    if !c.masked || !same then none
    else some (all.fill h o.vd e c.l (fun i =>
      if o.f6 == 0x10 then (a i + b i + v0 i) % 2 ^ e else wrap e ((a i : Int) - b i - v0 i)))
  else if o.f6 == 0x11 || o.f6 == 0x13 then
    let cin (i : Nat) : Nat := if c.masked then v0 i else 0
    if !maskOk c o.vd ((o.srcs c).map (·.1)) then none
    else some (all.fillMask h o.vd (fun i =>
      if o.f6 == 0x11 then decide (2 ^ e ≤ a i + b i + cin i) else decide (a i < b i + cin i)))
  else if o.f6 == 0x17 then
    if c.masked then (if same then some (all.fill h o.vd e c.l (fun i => if h.maskBit 0 i then b i else a i)) else none)
    else if o.vs2 != 0 || !(regsOk c o.vd c.l e ((o.srcs c).drop 1)) then none
    else some (c.fill h o.vd e c.l b)
  else if 0x18 ≤ o.f6 ∧ o.f6 ≤ 0x1F then
    if maskOk c o.vd ((o.srcs c).map (·.1)) then
      some (c.fillMask h o.vd (fun i => (vCmp o.f6 e (a i) (b i)).getD false))
    else none
  else if 0x2C ≤ o.f6 ∧ o.f6 ≤ 0x2F then
    if e == 32 || 32 < c.l || !regsOk c o.vd c.l e [(o.vs2, 2 * c.l, 2 * e)] || !(!o.isVV || groupOk o.vs1 c.l) then none
    else some (c.fillSat h o.vd e c.l (fun i => (vNarrow o.f6 e rm (h.elem o.vs2 (2 * e) i) (bu i)).getD (0, false)))
  else if o.f6 == 0x30 || o.f6 == 0x31 then
    -- widening sums
    if e == 32 || c.start != 0 || !groupOk o.vs2 c.l then none
    else
      let x := (c.body h).foldl (fun acc i =>
        wrap (2 * e) (acc + (if o.f6 == 0x30 then (a i : Int) else signed e (a i)))) (h.elem o.vs1 (2 * e) 0)
      some (c.scalar h o.vd (2 * e) x)
  else if !same then none
  else
    let shift := 0x25 ≤ o.f6 && o.f6 != 0x27
    some (c.fillSat h o.vd e c.l (fun i => (vInt o.f6 e rm (a i) (if shift then bu i else b i)).getD (0, false)))

/-- The single-bit functions of VMUNARY0: vmsbf, vmsof, vmsif. -/
def firstSet (n : Nat) (first : Option Nat) (i : Nat) : Bool :=
  match n, first with
  | 1, some f => decide (i < f)
  | 2, some f => i == f
  | _, some f => decide (i ≤ f)
  | 2, none => false
  | _, none => true

/-- VXUNARY0: the factor of a zero or sign extension, by vs1. -/
def extFactor : Nat → Option (Nat × Bool)
  | 4 => some (4, false)
  | 5 => some (4, true)
  | 6 => some (2, false)
  | 7 => some (2, true)
  | _ => none

/-- Packed elements of VCOMPRESS. -/
def VOp.packed (o : VOp) (c : VCfg) (h : Hart) : List Nat :=
  ((List.range c.vl).filter (fun i => h.maskBit o.vs1 i)).map (fun i => h.elem o.vs2 c.sew i)

/-- Mask instructions and other unary forms of OPMVV. -/
def VOp.unary (o : VOp) (c : VCfg) (h : Hart) : Option Hart :=
  let e := c.sew
  match o.f6 with
  | 0x10 =>
    if o.vs1 == 0 then (if c.masked then none else some (h.setX o.vd (w32 (signed e (h.elem o.vs2 e 0)))))
    else if c.start != 0 then none
    else
      let on := (List.range c.vl).filter (fun i => c.active h i && h.maskBit o.vs2 i)
      if o.vs1 == 16 then some (h.setX o.vd (BitVec.ofNat 32 on.length))
      else if o.vs1 == 17 then some (h.setX o.vd (match on with | [] => 0xFFFFFFFF | i :: _ => BitVec.ofNat 32 i))
      else none
  | 0x12 => match extFactor o.vs1 with
    | none => none
    | some (k, sg) =>
      let se := e / k
      if se < 8 || c.l < k || !regsOk c o.vd c.l e [(o.vs2, c.l / k, se)] then none
      else some (c.fill h o.vd e c.l (fun i =>
        let x := h.elem o.vs2 se i
        if sg then wrap e (signed se x) else x))
  | 0x14 =>
    let on := (List.range c.vl).filter (fun i => c.active h i && h.maskBit o.vs2 i)
    if o.vs1 == 1 || o.vs1 == 2 || o.vs1 == 3 then
      if c.start != 0 || o.vd == o.vs2 || (c.masked && o.vd == 0) then none
      else some (c.fillMask h o.vd (firstSet o.vs1 on.head?))
    else if o.vs1 == 16 then
      if c.start != 0 || !groupOk o.vd c.l || groupsMeet o.vd c.l o.vs2 1 || (c.masked && o.vd == 0) then none
      else some (c.fill h o.vd e c.l (fun i => (on.filter (fun j => decide (j < i))).length))
    else if o.vs1 == 17 then
      if o.vs2 == 0 && groupOk o.vd c.l && !(c.masked && o.vd == 0) then some (c.fill h o.vd e c.l (fun i => i)) else none
    else none
  | _ =>
    -- vcompress
    let l := o.packed c h
    if c.masked || c.start != 0 || !groupOk o.vd c.l || !groupOk o.vs2 c.l || groupsMeet o.vd c.l o.vs2 c.l
        || groupsMeet o.vd c.l o.vs1 1 then none
    else if c.vl == 0 then some h
    else some ((List.range (groupRegs c.l * 256 / e)).foldl (fun x i =>
      match l[i]? with
      | some y => x.setElem o.vd e i y
      | none => if c.ta then c.agnostic x o.vd e i else x) h)

/-- OPMVV and OPMVX. -/
def VOp.opm (o : VOp) (c : VCfg) (h : Hart) : Option Hart :=
  let e := c.sew
  let a (i : Nat) : Nat := h.elem o.vs2 e i
  let b (i : Nat) : Nat := o.rhs h false e i
  let d (w i : Nat) : Nat := h.elem o.vd w i
  let vv := o.f3 == 2
  let rm := h.vxrm.toNat
  if o.f6 ≤ 7 then
    if !vv || c.start != 0 || !groupOk o.vs2 c.l then none
    else some (c.scalar h o.vd e ((c.body h).foldl (fun acc i => (vRed o.f6 e acc (a i)).getD acc) (h.elem o.vs1 e 0)))
  else if o.f6 == 0x0E || o.f6 == 0x0F then
    let up := o.f6 == 0x0E
    if vv || !groupOk o.vd c.l || !groupOk o.vs2 c.l || (up && groupsMeet o.vd c.l o.vs2 c.l) || (c.masked && o.vd == 0) then none
    else some (c.fill h o.vd e c.l (fun i =>
      if up then (if i == 0 then b 0 else a (i - 1)) else (if i + 1 == c.vl then b 0 else a (i + 1))))
  else if o.f6 == 0x10 && !vv then
    if o.vs2 != 0 || c.masked then none else some (if c.start < c.vl then c.scalar h o.vd e (b 0) else h)
  else if o.f6 == 0x10 || o.f6 == 0x12 || o.f6 == 0x14 || o.f6 == 0x17 then (if vv then o.unary c h else none)
  else if 0x18 ≤ o.f6 ∧ o.f6 ≤ 0x1F then
    if !vv || c.masked then none
    else some (c.fillMask h o.vd (fun i => (vLogic o.f6 (h.maskBit o.vs2 i) (h.maskBit o.vs1 i)).getD false))
  else if 0x30 ≤ o.f6 then
    let wideA := 0x34 ≤ o.f6 && o.f6 ≤ 0x37
    let srcs := (if wideA then (o.vs2, 2 * c.l, 2 * e) else (o.vs2, c.l, e)) :: (if vv then [(o.vs1, c.l, e)] else [])
    if e == 32 || 32 < c.l || (o.f6 == 0x3E && vv) || (vWide o.f6 e 0 0 0).isNone || !regsOk c o.vd (2 * c.l) (2 * e) srcs then none
    else some (c.fill h o.vd (2 * e) (2 * c.l) (fun i =>
      (vWide o.f6 e (h.elem o.vs2 (if wideA then 2 * e else e) i) (b i) (d (2 * e) i)).getD 0))
  else if (vMul o.f6 e rm 0 0 0).isNone || !regsOk c o.vd c.l e (o.srcs c) then none
  else some (c.fill h o.vd e c.l (fun i => (vMul o.f6 e rm (a i) (b i) (d e i)).getD 0))

/-- Which forms an OPF function has: bit 0 VV, bit 1 VF. -/
def opfForms : Nat → Nat
  | 0x00 => 3 | 0x01 => 1 | 0x02 => 3 | 0x03 => 1 | 0x04 => 3 | 0x05 => 1 | 0x06 => 3 | 0x07 => 1
  | 0x08 => 3 | 0x09 => 3 | 0x0A => 3 | 0x0E => 2 | 0x0F => 2 | 0x10 => 3 | 0x12 => 1 | 0x13 => 1 | 0x17 => 2
  | 0x18 => 3 | 0x19 => 3 | 0x1B => 3 | 0x1C => 3 | 0x1D => 2 | 0x1F => 2 | 0x20 => 3 | 0x21 => 2 | 0x24 => 3 | 0x27 => 2
  | 0x28 => 3 | 0x29 => 3 | 0x2A => 3 | 0x2B => 3 | 0x2C => 3 | 0x2D => 3 | 0x2E => 3 | 0x2F => 3
  | _ => 0

/-- Floating reductions: the sum of VFREDUSUM takes an order that is not given, and with two or more elements it is a
free value. -/
def vfRed (f6 : Nat) (start : Word) (l : List Word) : Word :=
  match f6 with
  | 0x01 => if l.length ≤ 1 then l.foldl fadd start else Config.redSum start l
  | 0x03 => l.foldl fadd start
  | 0x05 => l.foldl fmin start
  | _ => l.foldl fmax start

/-- OPFVV and OPFVF: SEW 32 only (R173). -/
def VOp.opf (o : VOp) (c : VCfg) (h : Hart) : Option Hart :=
  let a (i : Nat) : Word := BitVec.ofNat 32 (h.elem o.vs2 32 i)
  let b (i : Nat) : Word := BitVec.ofNat 32 (o.rhs h false 32 i)
  let d (i : Nat) : Word := BitVec.ofNat 32 (h.elem o.vd 32 i)
  let vv := o.f3 == 1
  if c.sew != 32 || opfForms o.f6 &&& formBit o.f3 == 0 then none
  else if o.f6 == 1 || o.f6 == 3 || o.f6 == 5 || o.f6 == 7 then
    if c.start != 0 || !groupOk o.vs2 c.l then none
    else some (c.scalar h o.vd 32
      (vfRed o.f6 (BitVec.ofNat 32 (h.elem o.vs1 32 0)) ((c.body h).map a)).toNat)
  else if o.f6 == 0x0E || o.f6 == 0x0F then
    let up := o.f6 == 0x0E
    if !groupOk o.vd c.l || !groupOk o.vs2 c.l || (up && groupsMeet o.vd c.l o.vs2 c.l) || (c.masked && o.vd == 0) then none
    else some (c.fill h o.vd 32 c.l (fun i =>
      (if up then (if i == 0 then b 0 else a (i - 1)) else (if i + 1 == c.vl then b 0 else a (i + 1))).toNat))
  else if o.f6 == 0x10 then
    if c.masked then none
    else if vv then (if o.vs1 == 0 then some (h.setF o.vd (a 0)) else none)
    else if o.vs2 == 0 then some (if c.start < c.vl then c.scalar h o.vd 32 (b 0).toNat else h) else none
  else if o.f6 == 0x12 || o.f6 == 0x13 then
    if (vfUnary o.f6 o.vs1 0).isNone || !regsOk c o.vd c.l 32 [(o.vs2, c.l, 32)] then none
    else some (c.fill h o.vd 32 c.l (fun i => ((vfUnary o.f6 o.vs1 (a i)).getD 0).toNat))
  else if o.f6 == 0x17 then
    if c.masked then
      if regsOk c o.vd c.l 32 [(o.vs2, c.l, 32)] then
        some ({ c with masked := false }.fill h o.vd 32 c.l (fun i => (if h.maskBit 0 i then b i else a i).toNat))
      else none
    else if o.vs2 == 0 && groupOk o.vd c.l then some (c.fill h o.vd 32 c.l (fun i => (b i).toNat)) else none
  else if 0x18 ≤ o.f6 ∧ o.f6 ≤ 0x1F then
    if maskOk c o.vd ((o.srcs c).map (·.1)) then
      some (c.fillMask h o.vd (fun i => (vfCmp o.f6 (a i) (b i)).getD false))
    else none
  else if !regsOk c o.vd c.l 32 (o.srcs c) then none
  else some (c.fill h o.vd 32 c.l (fun i => ((vFloat o.f6 (a i) (b i) (d i)).getD 0).toNat))

/-! ## vset -/

/-- The new vl: the request, or VLMAX; between VLMAX and twice that any value from the half of it up is allowed. -/
def newVl (avl mx : Nat) : Nat :=
  if avl ≤ mx then avl
  else if avl < 2 * mx then (avl + 1) / 2 + Config.vecLength avl mx % (mx - (avl + 1) / 2 + 1)
  else mx

/-- vl and vtype for a requested AVL (none keeps vl) under a vtype value. -/
def Tv.setVl (v : Tv) (len rd : Nat) (avl : Option Nat) (t : Nat) : Ex :=
  let h := v.h
  let vill (h : Hart) : Hart := { h with vl := 0, vtype := 0x80000000, vstart := 0 }.setX rd 0
  match vtypeOf t with
  | none => v.fin len vill
  | some (sew, l) =>
    match avl with
    | some n =>
      let x := newVl n (vlMax sew l)
      v.fin len (fun h => { h with vl := x, vtype := BitVec.ofNat 32 t, vstart := 0 }.setX rd (BitVec.ofNat 32 x))
    | none =>
      -- vl is kept: VLMAX must not change
      match vtypeOf h.vtype.toNat with
      | some (sew0, l0) =>
        if vlMax sew0 l0 == vlMax sew l then
          v.fin len (fun h => { h with vtype := BitVec.ofNat 32 t, vstart := 0 }.setX rd (BitVec.ofNat 32 h.vl))
        else v.fin len vill
      | none => v.fin len vill

/-- OPCFG. -/
def Tv.exVset (v : Tv) (i len : Nat) : Ex :=
  let rd := bits i 11 7
  let rs1 := bits i 19 15
  let avl := if rs1 != 0 then some (v.h.getX rs1).toNat else if rd != 0 then some (2 ^ 32 - 1) else none
  if bits i 31 31 == 0 then v.setVl len rd avl (bits i 30 20)
  else if bits i 31 30 == 3 then v.setVl len rd (some rs1) (bits i 29 20)
  else if bits i 30 25 == 0 then v.setVl len rd avl (v.h.getX (bits i 24 20)).toNat
  else v.illegal i

/-- The configuration of an instruction, none for vill. -/
def Tv.cfg (v : Tv) (i : Nat) : Option (VCfg × Tv) :=
  let h := v.h
  match vtypeOf h.vtype.toNat with
  | none => none
  | some (sew, l) =>
    some ({ sew := sew, l := l, vl := h.vl, start := h.vstart, ta := h.vtype.toNat.testBit 6
            ma := h.vtype.toNat.testBit 7, masked := bits i 25 25 == 0
            free := Config.agnostic i h.vl h.vstart h.vtype.toNat ((List.range 32).map h.getV) }, v)

/-- OP-V. -/
def Tv.exOpV (v : Tv) (i len : Nat) : Ex :=
  let o : VOp := { f6 := bits i 31 26, f3 := bits i 14 12, vd := bits i 11 7, vs1 := bits i 19 15, vs2 := bits i 24 20 }
  if o.f3 == 7 then v.exVset i len else
  match v.cfg i with
  | none => v.illegal i
  | some (c, w) =>
    let r := match o.f3 with
      | 1 => o.opf c w.h
      | 5 => o.opf c w.h
      | 2 => o.opm c w.h
      | 6 => o.opm c w.h
      | _ => o.opi c w.h
    match r with
    | none => v.illegal i
    | some h => w.fin len (fun _ => { h with vstart := 0 })

/-! ## Vector loads and stores -/

/-- Element width of a vector access, none for 64 bits. -/
def memWidth : Nat → Option Nat
  | 0 => some 8
  | 5 => some 16
  | 6 => some 32
  | _ => none

/-- One element access: where, the register group and index of its data, the element's width. -/
structure VAcc where
  addr : Nat
  reg  : Nat
  idx  : Nat
  deriving DecidableEq, Repr

/-- The accesses take effect in order; the first that fails ends them. Loads give registers, stores memory. The number
of accesses that have taken effect comes with the result. -/
def Tv.vAccess (store : Bool) (e : Nat) : Tv → Nat → List VAcc → Nat × Tv × Option Stop
  | v, n, [] => (n, v, none)
  | v, n, a :: r =>
    if store then
      match v.write (a.addr % 2 ^ 32) (le (e / 8) (v.h.elem a.reg e a.idx)) with
      | .error w => (n, v, some w)
      | .ok v => Tv.vAccess store e v (n + 1) r
    else
      match v.read (a.addr % 2 ^ 32) (e / 8) with
      | .error w => (n, v, some w)
      | .ok (b, v) => Tv.vAccess store e (v.mod (fun h => h.setElem a.reg e a.idx (ofLe b))) (n + 1) r

/-- A vector access ends: with its accesses done the policies of the destination hold and it retires. -/
def Tv.vDone (r : Nat × Tv × Option Stop) (len : Nat) (f : Hart → Hart) : Ex :=
  match r with
  | (_, v, some w) => .stop v w
  | (_, v, none) => v.fin len (fun h => { f h with vstart := 0 })

/-- Masked and tail elements of the fields of a load. -/
def VCfg.loadPolicy (c : VCfg) (vd e l nf : Nat) (mask : Nat → Bool) (h : Hart) : Hart :=
  (List.range nf).foldl (fun h f => (List.range (groupRegs l * 256 / e)).foldl (fun x i =>
    if c.vl ≤ c.start || i < c.start then x
    else if i < c.vl then (if mask i then x else if c.ma then c.agnostic x (vd + f * groupRegs l) e i else x)
    else if c.ta then c.agnostic x (vd + f * groupRegs l) e i else x) h) h

/-- A vector load or store of width w (R173, R176). -/
def Tv.exVMem (v : Tv) (i len : Nat) (store : Bool) : Ex :=
  let vd := bits i 11 7
  let nf := bits i 31 29 + 1
  let mop := bits i 27 26
  let lum := bits i 24 20
  let base := (v.h.getX (bits i 19 15)).toNat
  match memWidth (bits i 14 12) with
  | none => v.illegal i
  | some w =>
    if bits i 28 28 == 1 then v.illegal i
    else if mop == 0 && lum == 8 then
      -- whole registers
      let n := nf * 256 / w
      if bits i 25 25 == 0 || !(nf == 1 || nf == 2 || nf == 4 || nf == 8) || vd % nf != 0 || (store && w != 8) then v.illegal i
      else
        let l := ((List.range n).filter (fun j => decide (v.h.vstart ≤ j))).map (fun j =>
          ({ addr := base + j * (w / 8), reg := vd, idx := j } : VAcc))
        Tv.vDone (Tv.vAccess store w v 0 l) len id
    else match v.cfg i with
    | none => v.illegal i
    | some (c, u) =>
      let h := u.h
      if mop == 0 && lum == 11 then
        -- masks
        let n := (c.vl + 7) / 8
        if nf != 1 || w != 8 || c.masked then v.illegal i
        else
          let l := ((List.range n).filter (fun j => decide (c.start ≤ j))).map (fun j =>
            ({ addr := base + j, reg := vd, idx := j } : VAcc))
          let cm := { c with vl := n, ta := true }
          Tv.vDone (Tv.vAccess store 8 u 0 l) len (if store then id else cm.loadPolicy vd 8 8 1 (fun _ => true))
      else
        let indexed := mop == 1 || mop == 3
        let fof := mop == 0 && lum == 16
        let e := if indexed then c.sew else w
        let lm := if indexed then c.l else c.l * w / c.sew
        let li := c.l * w / c.sew
        let xs := c.l * w % c.sew
        let ok := xs == 0 && decide (1 ≤ li ∧ li ≤ 64) && decide (groupRegs lm * nf ≤ 8) && vd % groupRegs lm == 0
          && decide (vd + groupRegs lm * nf ≤ 32) && !(c.masked && vd == 0 && !store)
          && (mop != 0 || lum == 0 || (fof && !store))
          && (!indexed || (groupOk lum li && (store || (if nf == 1 then overlapOk vd lm e lum li w
              else !groupsMeet vd (8 * groupRegs lm * nf) lum li))))
        if !ok then v.illegal i
        else
          let stride : Int := (v.h.getX lum).toInt
          let elAddr (j : Nat) : Nat :=
            if indexed then base + h.elem lum w j
            else if mop == 2 then wrap 32 (base + j * stride)
            else base + j * nf * (e / 8)
          let body := (List.range c.vl).filter (fun j => decide (c.start ≤ j) && c.active h j)
          let l := body.flatMap (fun j => (List.range nf).map (fun f =>
            ({ addr := elAddr j + f * (e / 8), reg := vd + f * groupRegs lm, idx := j } : VAcc)))
          let act (j : Nat) : Bool := c.active h j
          match Tv.vAccess store e u 0 l, fof with
          | (n, t, some (.fault k d)), true =>
            -- only element 0 faults; otherwise vl becomes the number of the element that would
            let j := body.getD (n / nf) 0
            if j == 0 then .stop t (.fault k d)
            else
              let cm := { c with vl := j, ta := true }
              t.fin len (fun h => { cm.loadPolicy vd e lm nf act h with vl := j, vstart := 0 })
          | (n, t, some (.badWin d)), true =>
            let j := body.getD (n / nf) 0
            if j == 0 then .stop t (.badWin d)
            else
              let cm := { c with vl := j, ta := true }
              t.fin len (fun h => { cm.loadPolicy vd e lm nf act h with vl := j, vstart := 0 })
          | r, _ => Tv.vDone r len (if store then id else c.loadPolicy vd e lm nf act)

/-- A vector instruction: OP-V, or a load or store of a vector width. -/
def isVector (i : Nat) : Bool :=
  let op := bits i 6 0
  op == 0x57 || ((op == 0x07 || op == 0x27) && (bits i 14 12 == 0 || decide (5 ≤ bits i 14 12)))

def Tv.exVector (v : Tv) (i len : Nat) : Ex :=
  match bits i 6 0 with
  | 0x07 => v.exVMem i len false
  | 0x27 => v.exVMem i len true
  | _ => v.exOpV i len

end Sys2Proof.Machine
end

