-- ==== Sys2Proof/Machine/Sliver.lean ====
section
/-! DEFINITION. The sliver commands: tasks, instructions of a thread, caches, dual execution, modes (R169 to R197). -/

namespace Sys2Proof.Machine

/-! ## The Zalkai extension (Table — Zalkai extension) -/

/-- What the local store's ECC finds in the words of some accesses, by address and length (R186): the address of the first
uncorrectable word, and the state with its counts. -/
def State.lsOutcome (s : State) (n : Nat) (acc : List (Nat × Nat)) (ls : List LsEcc) : Option Nat × State :=
  let hits := ls.filter (fun e => acc.any (fun x => decide (x.1 / 4 ≤ e.addr / 4 ∧ e.addr / 4 ≤ (x.1 + x.2 - 1) / 4)))
  let bad := hits.filter (fun e => e.bad)
  let fix := hits.length - bad.length
  let s := if fix == 0 then s else s.count Obj.slvLsCorr n fix
  (bad.head?.map (fun e => e.addr / 4 * 4), if bad.isEmpty then s else s.count Obj.slvLsUncorr n bad.length)

/-- SL.DMAQ (R178): while the cluster DMA holds 16 descriptors of the direction the thread stalls. -/
def State.slDmaq (s : State) (k rd rs1 : Nat) (ls : List LsEcc) : State :=
  let h := s.hart k
  let a := (h.getX rs1).toNat
  if !(decide (a < 0x6000) && inside h.lsLo h.lsLen a 64) then s.faultAt k 3 a else
  match s.lsOutcome (hartSlice k) [(a, 64)] ls with
  | (some w, s) => s.faultAt k 8 w
  | (none, s) =>
  let b := s.lsGet k a 64
  let out := dDir b
  let c := s.clusterOf k
  if 16 ≤ (c.cdescs.filter (fun x => x.d.out == out)).length then s.modHart k (fun h => { h with wait := .dmaq }) else
  let d : Desc := { uid := (s.slice (hartSlice k)).store.nextUid, idx := 0, out := out, raw := b, tag := 0, started := false, pos := 0, total := 0, hazard := false }
  let s := (s.modCluster (k / 64) (fun c => { c with cdescs := c.cdescs ++ [{ hart := k, pc := h.pc, d := d }] })).modStore (hartSlice k)
    (fun t => { t with nextUid := t.nextUid + 1 })
  let n := (s.clusterOf k).inFlight k
  ((s.modHart k (fun h => h.setX rd (BitVec.ofNat 32 n))).retire k 4).runCluster (k / 64)

/-- SL.DMAW. -/
def State.slDmaw (s : State) (k rs1 : Nat) : State :=
  let n := ((s.hart k).getX rs1).toNat
  if (s.clusterOf k).inFlight k ≤ n then s.retire k 4 else s.leaveCore k (.dma n)

/-- The flag that rs1 names. -/
def State.slFlag (s : State) (k rs1 : Nat) : Nat := ((s.hart k).getX rs1).toNat % 1024

/-- SL.FWAIT (R129, R180): a set flag stays set; a clear one makes the thread give up its core. -/
def State.slFwait (s : State) (k rs1 : Nat) : State :=
  let f := s.slFlag k rs1
  if s.flagOn f then s.retire k 4 else (s.leaveCore k (.flag f (s.clk.now + s.jobLimit))).buildGraph

/-- SL.FSET. -/
def State.slFset (s : State) (k rs1 : Nat) : State :=
  let f := s.slFlag k rs1
  (s.retire k 4).setFlag f

/-- SL.FCLR; a set in the same cycle leaves the flag set (R180). -/
def State.slFclr (s : State) (k rs1 : Nat) (setToo : Bool) : State :=
  let f := s.slFlag k rs1
  (s.retire k 4).clearFlag f setToo

/-- SL.YIELD, and WFI (R176, R187). -/
def State.slYield (s : State) (k : Nat) : State := (s.retire k 4).passOn k

/-- SL.EXIT: the thread ends; with its last thread the task has ended. -/
def State.slExit (s : State) (k : Nat) : State :=
  let pc := (s.hart k).pc.toNat
  let s := (s.modHart k (Hart.retire 4)).leaveCore k .exited
  match s.taskOf k with
  | none => s
  | some (key, t) =>
    let done := ins t.exited k
    let all := (specHarts t.spec (key / 65536)).all done.contains
    (if all then s.flushTask key t else s).modTask key (fun t => { t with
      exited := done
      ended := if all then some { cause := 0, pc := pc, status := St.ok, record := [] } else t.ended
      judged := if all then t.spec.dual.isNone else t.judged })

/-- SL.TIMEL: Lodestar time, its upper half latched. -/
def State.slTimel (s : State) (k rd : Nat) : State :=
  let t := s.clk.lode
  (s.modHart k (fun h => { h with timeHi := BitVec.ofNat 32 (t / 2 ^ 32) }.setX rd (BitVec.ofNat 32 t))).retire k 4

/-- SL.TIMEH. -/
def State.slTimeh (s : State) (k rd : Nat) : State := (s.modHart k (fun h => h.setX rd h.timeHi)).retire k 4

/-- Digest terms of a task: one sum a layer. -/
def addSlvTerm (l : List (Nat × DWord)) (layer : Nat) (t : DWord) : List (Nat × DWord) := tput l layer (tget 0 l layer + t)

/-- SL.DIG (R181, R278). -/
def State.slDig (s : State) (k rs1 rs2 : Nat) : State :=
  let h := s.hart k
  let term := digTerm ((h.getX rs1).setWidth 64) ((h.getX rs2).setWidth 64)
  let s := match h.task with
    | none => s
    | some key => s.modTask key (fun t => { t with digests := addSlvTerm t.digests h.digLayer.toNat term })
  s.retire k 4

/-- A fenced write of bytes at a window address: it retires once it has reached the bank array (R93, R110, R115,
R179). -/
def State.windowWrite (s : State) (k a : Nat) (b : Bytes) : State :=
  let n := hartSlice k
  if a % b.length != 0 then s.faultAt k 2 a
  else if !(decide (0x40000000 ≤ a ∧ a ≤ 0x401FFFFF)) then s.faultAt k 3 a
  else match (s.slice n).alloc with
    | none => s.windowFault k a
    | some al =>
      let o := a - 0x40000000
      if al.len < o + b.length || decide (o < al.ctrlRows * 128) then s.windowFault k a
      else (s.modSlice n (fun x => x.tsPut o b)).retire k 4

/-- SL.TSW. -/
def State.slTsw (s : State) (k rs1 rs2 : Nat) : State :=
  let h := s.hart k
  s.windowWrite k (h.getX rs1).toNat (le 4 (h.getX rs2).toNat)

/-- SL.VTSW. -/
def State.slVtsw (s : State) (k rs1 vs3 : Nat) : State :=
  let h := s.hart k
  s.windowWrite k (h.getX rs1).toNat (le 32 (h.getV vs3).toNat)

/-- FENCE.I in direct mode invalidates the cluster's instruction cache (R189). -/
def State.fenceI (s : State) (k : Nat) : State :=
  let s := if s.isDirect k then s.modCluster (k / 64) (fun c => { c with ilines := [] }) else s
  s.retire k 4

/-- An instruction of custom-0; a field it does not use must be zero (R177). -/
def State.zalkai (s : State) (k i : Nat) (ls : List LsEcc) : State :=
  let f7 := bits i 31 25
  let rs2 := bits i 24 20
  let rs1 := bits i 19 15
  let rd := bits i 11 7
  let ok (used : Bool) (op : State) : State := if used then op else s.faultAt k 1 i
  match bits i 14 12, f7 with
  | 0, 0 => ok (rs2 == 0) (s.slDmaq k rd rs1 ls)
  | 1, 0 => ok (rs2 == 0 && rd == 0) (s.slDmaw k rs1)
  | 2, 0 => ok (rs2 == 0 && rd == 0) (s.slFwait k rs1)
  | 2, 1 => ok (rs2 == 0 && rd == 0) (s.slFset k rs1)
  | 2, 2 => ok (rs2 == 0 && rd == 0) (s.slFclr k rs1 false)
  | 3, 0 => ok (rs2 == 0 && rs1 == 0 && rd == 0) (s.slYield k)
  | 3, 1 => ok (rs2 == 0 && rs1 == 0 && rd == 0) (s.slExit k)
  | 4, 0 => ok (rs2 == 0 && rs1 == 0) (s.slTimel k rd)
  | 4, 1 => ok (rs2 == 0 && rs1 == 0) (s.slTimeh k rd)
  | 5, 0 => ok (rd == 0) (s.slDig k rs1 rs2)
  | 6, 0 => ok (rd == 0) (s.slTsw k rs1 rs2)
  | 7, 0 => ok (rs2 == 0) (s.slVtsw k rs1 rd)
  | _, _ => s.faultAt k 1 i

/-! ## One instruction -/

/-- What a fetch at the thread's PC gives. -/
inductive Fetch where
  | ok (i len : Nat)
  | miss
  | bad (addr : Nat)
  deriving DecidableEq, Repr

/-- The instruction at the PC, from the instruction cache (R182, R185). -/
def State.fetch (s : State) (k : Nat) : Fetch :=
  let pc := (s.hart k).pc.toNat
  match s.codeAt k pc 2 with
  | none => .bad pc
  | some a => match s.codeBytes k a with
    | none => .miss
    | some lo =>
      if ofLe lo % 4 != 3 then .ok (ofLe lo) 2 else
      match s.codeAt k (pc + 2) 2 with
      | none => .bad (pc + 2)
      | some a => match s.codeBytes k a with
        | none => .miss
        | some hi => .ok (ofLe (lo ++ hi)) 4

/-- The end of a RISC-V instruction: it retires, faults, waits for the window, or waits for a line; what the local
store's ECC found in the word it accessed counts first (R186, R193). -/
def State.settleEx (s : State) (k : Nat) (ls : List LsEcc) (x : Ex) : State :=
  let n := hartSlice k
  match x with
  | .ok v => match s.lsOutcome n v.ls ls with
    | (some a, t) => t.faultAt k 8 a
    | (none, _) => (v.s.lsOutcome n v.ls ls).2
  | .stop v w => match w with
    | .fault c d => v.s.faultAt k c d
    | .badWin a => v.s.windowFault k a
    | .needWin => s.modHart k (fun h => { h with wait := .window })
    | .miss => s

/-- One instruction i of len bytes on hart k. -/
def State.instr (s : State) (k : Nat) (cyc : Cycles) (ls : List LsEcc) (win : Bool) (i len : Nat) : State :=
  let v : Tv := { s := s, k := k, win := win, ls := [] }
  if len == 2 then
    match expandC i with
    | none => s.faultAt k 1 i
    | some j => s.settleEx k ls (v.exScalar j i 2)
  else if bits i 6 0 == 0x0B then s.zalkai k i ls
  else if bits i 6 0 == 0x0F then
    match bits i 14 12 with
    | 0 => s.retire k 4
    | 1 => s.fenceI k
    | _ => s.faultAt k 1 i
  else if bits i 6 0 == 0x73 && bits i 14 12 != 0 then s.csrOp k cyc (BitVec.ofNat 32 i)
  else if i == 0x10500073 then s.slYield k
  else if isVector i then s.settleEx k ls (v.exVector i 4)
  else s.settleEx k ls (v.exScalar i i 4)

/-- SLIVER_INSTRUCTION (R172 to R177): the instruction at the thread's PC; cyc cycles hold the core, stalls included.
On a miss of its line nothing issues. -/
def execSliverInstruction (h : HartId) (cyc : Cycles) (ls : List LsEcc) (s : State) : Host.Outcome State Fault Refusal :=
  match s.fetch h.num with
  | .miss => .next s
  | .bad a => done s (s.thread h.num cyc (fun s => s.faultAt h.num 3 a))
  | .ok i len => done s (s.thread h.num cyc (fun s => s.instr h.num cyc ls false i len))

/-- CSR_ACCESS (R175): the CSR instruction w at the thread's PC. -/
def execCsrAccess (h : HartId) (cyc : Cycles) (w : Word) (s : State) : Host.Outcome State Fault Refusal :=
  done s (s.thread h.num cyc (fun s => s.csrOp h.num cyc w))

/-- FENCE (R189): stores have reached device memory when they retire. -/
def execFence (h : HartId) (cyc : Cycles) (s : State) : Host.Outcome State Fault Refusal :=
  done s (s.thread h.num cyc (fun s => s.retire h.num 4))

/-- FENCE_I (R189). -/
def execFenceI (h : HartId) (cyc : Cycles) (s : State) : Host.Outcome State Fault Refusal :=
  done s (s.thread h.num cyc (fun s => s.fenceI h.num))

/-- WFI executes as SL.YIELD (R176). -/
def execWfi (h : HartId) (cyc : Cycles) (s : State) : Host.Outcome State Fault Refusal :=
  done s (s.thread h.num cyc (fun s => s.slYield h.num))

/-- SL_DMAQ (R178). -/
def execSlDmaq (h : HartId) (cyc : Cycles) (rd : Fin 32) (r : DmaqRead) (s : State) : Host.Outcome State Fault Refusal :=
  done s (s.thread h.num cyc (fun s => s.slDmaq h.num rd r.rs1 r.ls))

/-- SL_DMAW (R177). -/
def execSlDmaw (h : HartId) (cyc : Cycles) (rs1 : Fin 32) (s : State) : Host.Outcome State Fault Refusal :=
  done s (s.thread h.num cyc (fun s => s.slDmaw h.num rs1))

/-- SL_FWAIT (R180). -/
def execSlFwait (h : HartId) (cyc : Cycles) (rs1 : Fin 32) (s : State) : Host.Outcome State Fault Refusal :=
  done s (s.thread h.num cyc (fun s => s.slFwait h.num rs1))

/-- SL_FSET (R180). -/
def execSlFset (h : HartId) (cyc : Cycles) (rs1 : Fin 32) (s : State) : Host.Outcome State Fault Refusal :=
  done s (s.thread h.num cyc (fun s => s.slFset h.num rs1))

/-- SL_FCLR (R180). -/
def execSlFclr (h : HartId) (cyc : Cycles) (rs1 : Fin 32) (setToo : Bool) (s : State) : Host.Outcome State Fault Refusal :=
  done s (s.thread h.num cyc (fun s => s.slFclr h.num rs1 setToo))

/-- SL_YIELD (R187). -/
def execSlYield (h : HartId) (cyc : Cycles) (s : State) : Host.Outcome State Fault Refusal :=
  done s (s.thread h.num cyc (fun s => s.slYield h.num))

/-- SL_EXIT (R177). -/
def execSlExit (h : HartId) (cyc : Cycles) (s : State) : Host.Outcome State Fault Refusal :=
  done s (s.thread h.num cyc (fun s => s.slExit h.num))

/-- SL_TIMEL (R177). -/
def execSlTimel (h : HartId) (cyc : Cycles) (rd : Fin 32) (s : State) : Host.Outcome State Fault Refusal :=
  done s (s.thread h.num cyc (fun s => s.slTimel h.num rd))

/-- SL_TIMEH (R177). -/
def execSlTimeh (h : HartId) (cyc : Cycles) (rd : Fin 32) (s : State) : Host.Outcome State Fault Refusal :=
  done s (s.thread h.num cyc (fun s => s.slTimeh h.num rd))

/-- SL_DIG (R181). -/
def execSlDig (h : HartId) (cyc : Cycles) (rs1 rs2 : Fin 32) (s : State) : Host.Outcome State Fault Refusal :=
  done s (s.thread h.num cyc (fun s => s.slDig h.num rs1 rs2))

/-- SL_TSW (R179). -/
def execSlTsw (h : HartId) (cyc : Cycles) (rs1 rs2 : Fin 32) (s : State) : Host.Outcome State Fault Refusal :=
  done s (s.thread h.num cyc (fun s => s.slTsw h.num rs1 rs2))

/-- SL_VTSW (R179). -/
def execSlVtsw (h : HartId) (cyc : Cycles) (rs1 vs3 : Fin 32) (s : State) : Host.Outcome State Fault Refusal :=
  done s (s.thread h.num cyc (fun s => s.slVtsw h.num rs1 vs3))

/-- WINDOW_LOAD (R95, R184): the load for which the core is stalled takes the bytes that the window holds now. -/
def execWindowLoad (h : HartId) (r : WindowRead) (s : State) : Host.Outcome State Fault Refusal :=
  let k := h.num
  if (s.hart k).wait != .window then .next s else
  match s.fetch k with
  | .ok i len =>
    let t := s.modHart k (fun h => { h with wait := .ready })
    let t := t.thread k r.cycles (fun t => t.instr k r.cycles [] true i len)
    done s (t.eccReads (hartSlice k) (r.ecc.map (fun e => (e.row : Int))) r.ecc)
  | _ => .next s

/-! ## Tasks -/

/-- Threads of a core that have not ended. -/
def State.coreBusy (s : State) (k : Nat) : Bool :=
  (List.range 4).any (fun t => match (s.hart (k / 4 * 4 + t)).wait with
    | .exited => false
    | .faulted => false
    | .unreleased => false
    | _ => true)

/-- Copy B of a task (R191): the same threads in clusters (c + 8) mod 16, with an output region of its own. -/
def copySpec (t : TaskSpec) : Option TaskSpec :=
  t.dual.map (fun b => { t with id := b.id, outBase := b.outBase
                                threads := t.threads.map (fun x => { x with cluster := x.cluster + 8 }) })

/-- Ranges of two threads of one core lie apart (R183). -/
def apart (x y : TaskThread) : Bool :=
  x.cluster != y.cluster || x.core != y.core || x.lsLo + x.lsLen ≤ y.lsLo || y.lsLo + y.lsLen ≤ x.lsLo

/-- No two thread ranges of a list meet. -/
def rangesApart : List TaskThread → Bool
  | [] => true
  | x :: r => r.all (apart x) && rangesApart r

/-- The SCP may start the task: its slice runs a job or a golden test, its clusters are in service mode, no thread runs on
its cores, its local-store ranges lie within the core and apart (R183, R188, R190). -/
def State.mayStart (s : State) (n : Nat) (t : TaskSpec) : Bool :=
  ((s.slice n).run.isSome || (s.slice n).golden.running) && decide (t.threads ≠ [])
    && (match tfind s.tasks (taskKey n t.id) with | some u => u.ended.isSome | none => true)
    && (specHarts t n).all (fun k => !s.isDirect k && !s.coreBusy k)
    && t.threads.all (fun x => x.lsLo % 64 == 0 && x.lsLen % 64 == 0 && decide (x.lsLo + x.lsLen ≤ lsBytes))
    && rangesApart t.threads

/-- The images pass the page steps of R107 for the job's context; a golden test has none. -/
def State.imagesOk (s : State) (n : Nat) (t : TaskSpec) : Bool :=
  match (s.slice n).run with
  | none => true
  | some r => s.ctxRights r.ctx false t.codeBase t.codeLen && s.ctxRights r.ctx false t.constBase t.constLen

/-- A thread of a task, released at its entry with its registers zero (notes/assumptions/62.md). -/
def threadHart (n : Nat) (t : TaskSpec) (x : TaskThread) : Hart :=
  { Hart.init with pc := BitVec.ofNat 32 x.entry, task := some (taskKey n t.id), lsLo := x.lsLo, lsLen := x.lsLen }

/-- A thread of a task is released, its local-store range zero (notes/assumptions/62.md); of the threads of one core the
first in the task's list runs first (notes/assumptions/56.md). -/
def State.releaseThread (s : State) (n : Nat) (t : TaskSpec) (x : TaskThread) : State :=
  let k := n * 1024 + x.cluster.val * 64 + x.core.val * 4 + x.thread.val
  (s.lsPut k x.lsLo (zeros x.lsLen)).wakeHart k (fun _ => threadHart n t x)

/-- REPRO_ACTIVE as it was when the job on slice n was dispatched; a golden test takes it as it stands (R274). -/
def State.reproOn (s : State) (n : Nat) : Bool :=
  match (s.slice n).run with | some r => r.repro | none => s.num Obj.reproActive == 1

/-- The logical thread on which each sliver of a task runs: sliver i on thread i mod T where no thread steals, that is in
reproducible mode and for a task of two copies. Otherwise an idle thread takes slivers queued for another: free values (R191, R270, R273). -/
def State.bindSlivers (s : State) (n : Nat) (t : TaskSpec) : Nat → State × List Nat
  | 0 => (s, [])
  | i + 1 =>
    let (s, l) := State.bindSlivers s n t i
    if s.reproOn n || t.dual.isSome then (s, l ++ [i % t.threads.length])
    else
      let (v, s) := s.draw
      (s, l ++ [v % t.threads.length])

/-- A task begins: its slivers are bound to its threads, and the threads are released. -/
def State.beginTask (s : State) (n : Nat) (t : TaskSpec) (copyOf : Option Nat) : State :=
  let (s, bind) := s.bindSlivers n t t.slivers
  let task : Task := { spec := t, bind := bind, copyOf := copyOf, used := 0, till := 0, exited := [], ended := none, judged := false, digests := [] }
  t.threads.foldl (fun s x => s.releaseThread n t x) { s with tasks := tput s.tasks (taskKey n t.id) task }

/-- SLIVER_TASK_START (R185, R188, R190, R191): a safety-relevant task starts as two copies. -/
def execSliverTaskStart (sl : SliceId) (t : TaskSpec) (s : State) : Host.Outcome State Fault Refusal :=
  let n := sl.val
  let b := copySpec t
  if !s.mayStart n t || !(match b with | some c => s.mayStart n c && c.id != t.id && (specHarts c n).all (fun k =>
      !(specHarts t n).any (fun j => j / 4 == k / 4)) | none => true) then .next s
  else if !s.imagesOk n t then done s (s.endJobFault n St.pageRights none .faulted 4)
  else
    let s := (s.count Obj.slvTasks n).beginTask n t none
    .next (match b with | some c => s.beginTask n c (some t.id) | none => s)

/-- CYCLE_BUDGET_EXHAUSTED (R195): the last cycle of a running task's budget passes. -/
def execCycleBudgetExhausted (sl : SliceId) (task : Nat) (s : State) : Host.Outcome State Fault Refusal :=
  let key := taskKey sl task
  match tfind s.tasks key with
  | none => .next s
  | some t => match t.ended, t.spec.budget with
    | none, some b =>
      match (specHarts t.spec sl).find? (fun k => (s.hart k).task == some key && (s.hart k).wait.holds false && s.curThread k == k % 4) with
      | none => .next s
      | some k => done s ((s.modTask key (fun t => { t with used := b })).budgetFault k b)
    | _, _ => .next s

/-! ## Dual execution (R191, R192) -/

/-- The bytes of a task's output region from o on. -/
def State.outBytes (s : State) (n : Nat) (t : TaskSpec) (o len : Nat) : Bytes :=
  if t.outTs then (s.slice n).ts (t.outBase + o) len else s.readBytes (t.outBase + o) len

/-- Byte offset of the first 32-byte word that differs. -/
def State.firstDiff (s : State) (n : Nat) (a b : TaskSpec) : Option Nat :=
  ((List.range ((a.outLen + 31) / 32)).find? (fun i =>
    let len := min 32 (a.outLen - 32 * i)
    s.outBytes n a (32 * i) len != s.outBytes n b (32 * i) len)).map (· * 32)

/-- A dual-execution mismatch (cause 0x09): the record names copy B's first thread and its end. -/
def State.dualMismatch (s : State) (n : Nat) (b : Task) (pc detail : Nat) : State :=
  let k := (specHarts b.spec n).headD (n * 1024)
  let f : SlvFault := { hart := k, cause := 9, status := St.checkMismatch, detail := detail, pc := pc, cycle := 4 }
  let rec' := s.sliverRec f
  ((s.setBlob Obj.slvLastFault n rec').count Obj.slvFaults n).sliverCheck n 0x10 rec'

/-- Both copies are judged. -/
def State.judge (s : State) (a b : Nat) : State :=
  (s.modTask a (fun t => { t with judged := true })).modTask b (fun t => { t with judged := true })

/-- DUAL_COMPARE (R192): task is copy A. -/
def execDualCompare (sl : SliceId) (task : Nat) (s : State) : Host.Outcome State Fault Refusal :=
  let n := sl.val
  let ka := taskKey n task
  match tfind s.tasks ka, s.tasks.find? (fun x => taskSlice x.1 == n && x.2.copyOf == some task) with
  | some a, some (kb, b) =>
    match a.ended, b.ended with
    | some ea, some eb =>
      if a.judged then .next s else
      let t := s.judge ka kb
      if ea.cause == 8 || eb.cause == 8 then done s t
      else if ea.cause == 0 && eb.cause == 0 then
        let t := t.count Obj.slvDual n
        match s.firstDiff n a.spec b.spec with
        | none => done s t
        | some o => done s ((t.count Obj.slvDualFail n).dualMismatch n b eb.pc o)
      else if ea.cause == eb.cause && ea.pc == eb.pc then done s (t.endJobFault n ea.status (some ea.record) .faulted 4)
      else done s (t.dualMismatch n b eb.pc 0xFFFFFFFF)
    | _, _ => .next s
  | _, _ => .next s

/-! ## Caches (R185, R186, R189) -/

/-- CACHE_MISS (R185, R186): the access of h's thread misses the line of device address addr, or finds the line bad: that
one is invalidated, counted, and fetched again. The request takes a miss register once one is free, after waiting cycles
that SLV_MISS_FULL counts. The miss stalls the core; in direct mode the core passes to the next ready thread. A line
whose channel has been lost ends the job's run (R220). -/
def execCacheMiss (h : HartId) (instr : Bool) (addr : Nat) (m : MissCause) (s : State) : Host.Outcome State Fault Refusal :=
  let k := h.num
  let n := hartSlice k
  let c := s.clusterOf k
  let line := addr / 64
  let here := (tfind (if instr then c.ilines else c.clines) line).isSome
  if !s.mayIssue k || (here && !m.bad) then .next s
  else if !s.served addr then (if s.isDirect k then .next s else done s (s.loseSliceWork n)) else
  let s := if m.waited == 0 then s else s.count Obj.slvMissFull n m.waited
  let s := if here then
      (s.modCluster (k / 64) (fun c =>
        if instr then { c with ilines := tdel c.ilines line } else { c with clines := tdel c.clines line })).count Obj.slvCacheRefetch n
    else s.count (if instr then Obj.slvIcMiss else Obj.slvCcMiss) n
  let r : MemReq := { source := clusterSource (k / 64), addr := line * 64, write := false, data := [], mask := [] }
  let s := s.send r (.line instr)
  .next (if s.isDirect k then s.leaveCore k (.miss line) else s.modHart k (fun h => { h with wait := .miss line }))

/-- A line has arrived: the threads of the cluster that wait for it go on. -/
def State.wakeLine (s : State) (ck line : Nat) (b : Bytes) : State :=
  let l := ((List.range 64).map (fun i => ck * 64 + i)).filter (fun k =>
    (tfind s.harts k).map (fun (h : Hart) => h.wait) == some (.miss line))
  s.wakeAll l (fun h => { h with got := h.got ++ [(line, b)] })

/-- A miss register is freed with its request. -/
def State.freeMiss (s : State) (ck : Nat) (m : Miss) : State :=
  (s.modCluster ck (fun c => { c with misses := c.misses.filter (fun x => x.slot != m.slot) })).retireReq m.ch [m.req]

/-- A line of device memory enters a cache; a poisoned one fails the run (R204, R398). -/
def State.lineArrives (s : State) (ck : Nat) (m : Miss) (code good : Bool) : State :=
  let (v, t) := (s.freeMiss ck m).draw
  let b := t.readBytes m.addr 64
  let t := t.modCluster ck (fun c =>
    if code then { c with ilines := fillLine c.ilines (m.addr / 64) b v } else { c with clines := fillLine c.clines (m.addr / 64) b v })
  let t := t.wakeLine ck (m.addr / 64) b
  if good then t else t.failRun (ck / 16) 0x11

/-- A request of the cluster DMA has completed: its bytes move (R178, R186, R203, R204). ls: what the ECC found in the
local-store words that a write took. -/
def State.clusterMoved (s : State) (ck : Nat) (m : Miss) (uid pos len : Nat) (data : Bytes) (good : Bool) (ls : List LsEcc) :
    State :=
  let n := ck / 16
  match (s.cluster ck).cdescs.find? (fun x => x.d.uid == uid) with
  | none => if data = [] || !good then s else s.writeBytes m.addr data
  | some x =>
    let (_, o, _) := (s.lsView x.hart).request x.d.raw pos
    if x.d.out then
      match s.lsOutcome n [(o, len)] ls with
      | (some a, s) => s.sliverFault { hart := x.hart, cause := 8, status := St.checkMismatch, detail := a, pc := x.pc.toNat, cycle := 4 }
      | (none, s) => if good then s.writeBytes m.addr data else s.failRun n 0x11
    else
      let s := s.lsPut x.hart o (s.readRun n m.addr len)
      if good then s else s.failRun n 0x11

/-- The request of a miss register has completed: its data arrives. -/
def State.missDone (s : State) (ck : Nat) (m : Miss) (good : Bool) (ls : List LsEcc) : State :=
  (match m.what with
    | .code => s.lineArrives ck m true good
    | .const => s.lineArrives ck m false good
    | .dma uid pos len data => (s.freeMiss ck m).clusterMoved ck m uid pos len data good ls).runClusters (ck / 16)

/-- CACHE_LINE_FILL (R185, R186, R204): the line arrives and its register is free, once no earlier request of its block is
in the way; a line that the cache's own code finds uncorrectable (bad) is invalidated, counted and fetched again. For a
request of the cluster DMA its data arrives. ecc: what the memory's ECC found. -/
def execCacheLineFill (sl : SliceId) (cl : Fin 16) (slot : Fin 32) (f : FillEnd) (s : State) :
    Host.Outcome State Fault Refusal :=
  let ck := sl.val * 16 + cl.val
  match (s.cluster ck).misses.find? (fun m => m.slot == slot.val) with
  | none => .next s
  | some m => match s.mayFinish m.ch m.req with
    | none => .next s
    | some r =>
      let line := m.what = .code || m.what = .const
      if line && f.bad then
        .next ((s.modCluster ck (fun c => { c with misses := c.misses.map (fun (x : Miss) =>
          if x.slot == slot.val then { x with since := s.clk.now } else x) })).count Obj.slvCacheRefetch sl)
      else
        let (good, t) := s.access m.ch r f.ecc
        done s (t.missDone ck m good f.ls)

/-- MISS_REGISTER_EXPIRY (R104, R185): 100 µs after the miss. -/
def execMissRegisterExpiry (sl : SliceId) (cl : Fin 16) (slot : Fin 32) (s : State) : Host.Outcome State Fault Refusal :=
  let ck := sl.val * 16 + cl.val
  match (s.cluster ck).misses.find? (fun m => m.slot == slot.val) with
  | none => .next s
  | some m => done s (((s.advanceTo (m.since + 100 * us)).freeMiss ck m).tagFault (some sl.val) m.addr)

/-! ## Modes (R189, R190) -/

/-- No thread of a cluster runs. -/
def State.clusterStill (s : State) (ck : Nat) : Bool := (List.range 16).all (fun c => !s.coreBusy (ck * 64 + c * 4))

/-- CLUSTER_MODE_CHANGE (R190, R437): by the BTP during Chrysalis and start-up, or by the SCP, while no thread of the
cluster runs. Both caches are invalidated. In direct mode the processor releases the cores at the reset vector of its
image, the SCP for start-up self-test and recovery only. -/
def execClusterModeChange (sl : SliceId) (cl : Fin 16) (direct : Bool) (by' : ProcId) (base : BitVec 3) (entry : Word)
    (s : State) : Host.Outcome State Fault Refusal :=
  let ck := sl.val * 16 + cl.val
  let early := s.rst.phase == .starting || s.rst.phase == .recovery
  let may := (by'.val == P.btp && early) || (by'.val == P.scp && (s.runs P.scp || early))
  if !may || !s.clusterStill ck then .next s else
  let t := s.modCluster ck (fun c => { c with
    direct := direct, base := if direct then base else c.base, ilines := [], clines := [] })
  .next (if direct && early then
      (List.range 64).foldl (fun t i => t.wakeHart (ck * 64 + i) (fun _ => { Hart.init with
        pc := entry, lsLo := 0, lsLen := lsBytes })) t
    else t)

/-- SLV_CLEAR (R197): subindexes 01 to 0B of the slice. -/
def slvRows : List ObjRow :=
  [Obj.slvTasks, Obj.slvFaults, Obj.slvDual, Obj.slvDualFail, Obj.slvLsCorr, Obj.slvLsUncorr,
   Obj.slvCacheRefetch, Obj.slvIcMiss, Obj.slvCcMiss, Obj.slvMissFull, Obj.slvLastFault]

/-- SLV_CLEAR. -/
def execSlvClear (sl : SliceId) (w : CmdW) (s : State) : Host.Outcome State Fault Refusal :=
  done s (s.hostWrite (.slvClear sl w) w Obj.slvClear sl (clearRule slvRows sl))

end Sys2Proof.Machine
end

