-- ==== Sys2Proof/Machine/Bursts.lean ====
section
/-! DEFINITION. The end of a request's burst: EDC retries, the data phase, and what its source makes of it (R200 to R204,
R221, R224). -/

namespace Sys2Proof.Machine

/-- A request has completed: an engine's bytes move and its tag or miss register is free; a poisoned read of any other
request fails the run it belongs to (R203, R398). -/
def State.finishReq (s : State) (ch : Nat) (good : Bool) (q : SortReq) : State :=
  match q.source with
  | .slice n => match (s.slice n).store.tags.find? (fun t => t.ch == ch && t.req == q.id) with
    | some t => s.dmaDone n t good
    | none => let s := s.retireReq ch [q.id]; if good then s else s.poison q.source
  | .cluster n k =>
    let ck := n.val * 16 + k.val
    match (s.cluster ck).misses.find? (fun m => m.ch == ch && m.req == q.id) with
    | some m => s.missDone ck m good []
    | none => let s := s.retireReq ch [q.id]; if good then s else s.poison q.source
  | .media => s.retireReq ch [q.id]

/-- The data phase of a request whose burst passed EDC (R203, R204, R210, R217): two reads of a block that wait at once are
served by one access, and a write of fewer than 64 bytes merges under its byte mask. -/
def State.burstData (s : State) (ch : Nat) (r : SortReq) (ecc : MemErr) : State :=
  let a := r.addr / 64 * 64
  let (good, s) := s.access ch r ecc
  if !r.write then
    ((s.chan ch).sorter.filter (fun q => q.issued && !q.write && q.block == r.block)).foldl (fun s q => s.finishReq ch good q) s
  else
    let s := if r.link = .other && good then s.writeBytes a (mergeBlock (s.readBytes a 64) r.data r.mask) else s
    s.finishReq ch good r

/-- BURST_COMPLETE (R200): a failed burst is retried up to three times, the fourth failure retrains the link, a failure
after that retires the channel; a good burst goes through the ECC, and completes once no earlier request of its block is
in the way (R224). -/
def execBurstComplete (ch : ChanId) (id : Nat) (e : BurstEnd) (s : State) : Host.Outcome State Fault Refusal :=
  match (s.chan ch).sorter.find? (fun r => r.id == id && r.issued) with
  | none => .next s
  | some r =>
    if (s.chan ch).retraining || s.rst.memHeld then .next s
    else if e.edcOk then (if (s.chan ch).inOrder r then done s (s.burstData ch r e.ecc) else .next s)
    else if r.retrained then done s (s.retireChannel ch)
    else if r.tries < 3 then
      .next ((s.modReq ch id (fun q => { q with tries := q.tries + 1 })).count Obj.chEdcRetry ch)
    else done s ((s.modReq ch id (fun q => { q with tries := 4 })).retrain ch)

/-- DESCRIPTOR_COMPLETE (R106): the oldest descriptor of a direction has moved all of its bytes; descriptors of
the cluster DMAs that waited for it go on (R105, R178). -/
def execDescriptorComplete (sl : SliceId) (out : Bool) (s : State) : Host.Outcome State Fault Refusal :=
  let x := s.slice sl
  match x.store.descs.find? (fun d => d.out == out) with
  | none => .next s
  | some d =>
    if !d.started || decide (d.pos < d.total) || x.store.tags.any (fun t => t.uid == d.uid) || !(s.parkedPos sl d.uid).isEmpty then .next s
    else
      let t := s.modStore sl (fun t => { t with descs := t.descs.filter (fun e => e.uid != d.uid) })
      let t := t.count (if out then Obj.dmaDescOut else Obj.dmaDescIn) sl
      let t := if dFlagEn d.raw then t.setFlag (dFlag d.raw) else t
      done s (t.runClusters sl)

end Sys2Proof.Machine
end

