-- ==== Sys2Proof/Machine/Epochs.lean ====
section
/-! DEFINITION. Command objects of the work model: flags, epochs, queues (R245, R258, R266 to R269, R342, R519). -/

namespace Sys2Proof.Machine

/-! ## Flags by the host (R258) -/

def flagSetRule : WriteRule := WriteRule.cmd (fun _ _ => 0) (fun s f => s.setFlag f)
def flagClrRule (setToo : Bool) : WriteRule := WriteRule.cmd (fun _ _ => 0) (fun s f => s.clearFlag f setToo)

/-- FLAG_SET_CMD. -/
def execFlagSetCmd (w : CmdW) (s : State) : Host.Outcome State Fault Refusal :=
  done s (s.hostWrite (.flagSetCmd w) w Obj.flagSetCmd 0 flagSetRule)

/-- FLAG_CLR_CMD. -/
def execFlagClrCmd (w : CmdW) (setToo : Bool) (s : State) : Host.Outcome State Fault Refusal :=
  done s (s.hostWrite (.flagClrCmd w setToo) w Obj.flagClrCmd 0 (flagClrRule setToo))

/-! ## Epoch sets (R266) -/

def State.setOpen (s : State) (l : Option (List (Nat × Val))) : State := { s with work := { s.work with openSet := l } }

def epochOpenRule : WriteRule :=
  WriteRule.cmd (fun s _ => if s.work.openSet.isSome then St.stateConflict else 0) (fun s _ => s.setOpen (some []))

def epochCommitRule : WriteRule :=
  WriteRule.cmd (fun s _ => if s.work.openSet.isNone then St.stateConflict else 0)
    (fun s _ => match s.work.openSet with
      | none => s
      | some l => (s.setOpen none).commitEpoch l)

def epochDiscardRule : WriteRule :=
  WriteRule.cmd (fun s _ => if s.work.openSet.isNone then St.stateConflict else 0) (fun s _ => s.setOpen none)

/-- EPOCH_OPEN. -/
def execEpochOpen (w : CmdW) (s : State) : Host.Outcome State Fault Refusal :=
  .next (s.hostWrite (.epochOpen w) w Obj.epochOpen 0 epochOpenRule)

/-- EPOCH_COMMIT (R267): the set becomes the next epoch at the Lodestar time of this instant. -/
def execEpochCommit (w : CmdW) (s : State) : Host.Outcome State Fault Refusal :=
  .next (s.hostWrite (.epochCommit w) w Obj.epochCommit 0 epochCommitRule)

/-- EPOCH_DISCARD. -/
def execEpochDiscard (w : CmdW) (s : State) : Host.Outcome State Fault Refusal :=
  .next (s.hostWrite (.epochDiscard w) w Obj.epochDiscard 0 epochDiscardRule)

/-- EPOCH_STREAM_SILENT (R519): 1 s without a start of frame since the stream's last one, or since the commit. -/
def execEpochStreamSilent (st : StreamId) (s : State) : Host.Outcome State Fault Refusal :=
  match s.work.epochs.find? (fun e => e.waiting.contains st.val) with
  | none => .next s
  | some e =>
    let x := s.stream st
    let t := if x.lastSof == 0 && x.lastSofMono == 0 then e.mono else x.lastSofMono
    .next ((s.advanceTo (t + 1000 * ms)).epochForget st)

/-! ## Queues (R245, R269, R342) -/

/-- Q_DEPTH summed over the enabled queues. -/
def State.depthSum (s : State) : Nat := sumOf (fun q => if s.num Obj.qEnable q == 1 then s.num Obj.qDepth q else 0) (List.range 64)

/-- A stream is attached to queue q. -/
def State.attachedTo (s : State) (q : Nat) : Bool :=
  (List.range 48).any (fun n => match (s.stream n).attach with | some (p, _, _) => p == q | none => false)

def ringPages (d : Nat) : Nat := (64 * d + pageBytes - 1) / pageBytes

/-- The rings of queue q with its journal slots, the lowest free ones; none where they cannot be allocated. -/
def State.openRings (s : State) (q : Nat) : Option State :=
  let d := s.num Obj.qDepth q
  match s.alloc (ringPages d) (sysEntry 2 true true true) with
  | none => none
  | some (a, t) =>
    match t.alloc (ringPages d) (sysEntry 2 true false true) with
    | none => none
    | some (b, t) =>
      let js := (upTo 16384 (fun k => !s.work.jtaken.contains k)).take d
      let t := t.modQueue q (fun x => { x with sqPages := some (a, ringPages d), cqPages := some (b, ringPages d), jslots := js })
      let t := { t with work := { t.work with jtaken := js.foldl ins t.work.jtaken } }
      -- byte 63 of each completion slot carries the phase opposite to that of the next entry it will hold
      let n := t.num Obj.qLastAccepted q
      let t := (List.range d).foldl (fun s j =>
        let next := n + 1 + (j + d - n % d) % d
        s.writeByte (b * pageBytes + 64 * j + 63) (BitVec.ofNat 8 (1 - phase d next))) t
      let t := ((t.setNum Obj.sqBase q (a * pageBytes)).setNum Obj.cqBase q (b * pageBytes)).setNum Obj.qEnable q 1
      some ((t.setNum Obj.sqHead q 0).setNum Obj.sqTail q 0)

/-- The rings are freed and the journal slots return. -/
def State.closeRings (s : State) (q : Nat) : State :=
  let x := s.queue q
  let s := (s.freeRun x.sqPages).freeRun x.cqPages
  let s := { s with work := { s.work with jtaken := s.work.jtaken.filter (fun k => !x.jslots.contains k) } }
  let s := s.modQueue q (fun x => { x with sqPages := none, cqPages := none, jslots := [] })
  ((s.setNum Obj.sqBase q 0).setNum Obj.cqBase q 0).setNum Obj.qEnable q 0

def qEnableRule (q : Nat) : WriteRule :=
  WriteRule.cmd
    (fun s v =>
      if v == s.num Obj.qEnable q then 0
      else if v == 1 then
        if 16384 < s.depthSum + s.num Obj.qDepth q || (s.openRings q).isNone then St.resourceOverflow else 0
      else if s.qBusy q || s.attachedTo q then St.stateConflict else 0)
    (fun s v =>
      if v == s.num Obj.qEnable q then s
      else if v == 1 then (s.openRings q).getD s else s.closeRings q)

/-- Q_ENABLE. -/
def execQEnable (q : QueueId) (w : CmdW) (s : State) : Host.Outcome State Fault Refusal :=
  .next (s.hostWrite (.qEnable q w) w Obj.qEnable q (qEnableRule q))

def isPow2 (n : Nat) : Bool := (List.range 64).any (fun k => n == 2 ^ k)

def qDepthRule (q : Nat) : WriteRule :=
  { check := fun s v => match v with
      | .num n => isPow2 n && decide (s.depthSum + n ≤ 16384)
      | .blob _ => false
    pre := fun s _ => if s.num Obj.qEnable q == 1 then St.stateConflict else 0
    apply := fun s v => s.setVal Obj.qDepth q v }

/-- Q_DEPTH. -/
def execQDepth (q : QueueId) (w : CmdW) (s : State) : Host.Outcome State Fault Refusal :=
  .next (s.hostWrite (.qDepth q w) w Obj.qDepth q (qDepthRule q))

end Sys2Proof.Machine
end

