-- ==== Sys2Proof/Machine/Camera.lean ====
section
/-! DEFINITION. Raw camera streams: the CSI-2 receivers, frame numbers and settings generations, the image pipeline's
frames, truncation, frame sync and I²C (chapter "Raw camera ports and the image pipeline", R286 to R310; the frozen-input
detector, R402 and R403; what encodes take from written frames, R325 and R326). -/

namespace Sys2Proof.Machine

/-! ## Bindings and admission (R288 to R290, R303) -/

/-- Bits of a sample on the wire, stored bytes, samples per pixel of an accepted data type (Table — Accepted data
types). -/
def dataType : Nat → Option (Nat × Nat × Nat)
  | 0x1E => some (16, 1, 2)
  | 0x2A => some (8, 1, 1)
  | 0x2B => some (10, 2, 1)
  | 0x2C => some (12, 2, 1)
  | 0x2D => some (14, 2, 1)
  | 0x2E => some (16, 2, 1)
  | _ => none

def State.firstVc (s : State) (n : Nat) : Nat := s.num Obj.rawVc n % 4
def State.exposures (s : State) (n : Nat) : Nat := s.num Obj.rawVc n / 4 % 4
/-- Samples per line of stream n. -/
def State.lineSamples (s : State) (n : Nat) : Nat :=
  s.num Obj.rawWidth n * (match dataType (s.num Obj.rawDt n) with | some (_, _, k) => k | none => 1)
/-- Pixels of a frame with all its exposures. -/
def State.rawPixels (s : State) (n : Nat) : Nat := s.num Obj.rawWidth n * s.num Obj.rawHeight n * s.exposures n
def State.rawOn (s : State) (n : Nat) : Bool := s.num Obj.rawEnable n == 1
/-- Enabled and admitted: its spill buffer is allocated. -/
def State.admitted (s : State) (n : Nat) : Bool := s.rawOn n && (s.stream n).raw.spillAt.isSome

/-- The reserved bytes that a sensor profile of any length holds are zero (R4, R290). -/
def profileReserved (b : Bytes) : Bool :=
  b.zipIdx.all (fun x => x.1 == 0 || !((13 ≤ x.2 && x.2 < 16) || x.2 == 23 || (40 ≤ x.2 && x.2 < 64)))

/-- The sensor profile's fields lie in their ranges (R290). -/
def profileOk (b : Bytes) : Bool :=
  decide (64 ≤ b.length) && fld b 0 1 == 1 && decide (1 ≤ fld b 1 1 ∧ fld b 1 1 ≤ 7) && decide (fld b 2 1 ≤ 7)
    && decide (0x08 ≤ fld b 3 1 ∧ fld b 3 1 ≤ 0x77) && decide (1 ≤ fld b 4 1 ∧ fld b 4 1 ≤ 2) && decide (fld b 5 1 ≤ 2)
    && decide (1 ≤ fld b 12 1 ∧ fld b 12 1 ≤ 4) && fld b 13 3 == 0 && decide (1 ≤ fld b 16 4 ∧ fld b 16 4 ≤ 1000000)
    && decide (1 ≤ fld b 22 1 ∧ fld b 22 1 ≤ 4) && fld b 23 1 == 0 && decide (fld b 28 4 ≤ fld b 32 4)
    && decide (fld b 32 4 ≤ 1000000) && decide (256 ≤ fld b 36 2) && decide (fld b 38 2 ≤ 240)
    && (cut b 40 24).all (fun x => x == 0) && decide (64 + 4 * fld b 38 2 ≤ b.length)

def State.profile (s : State) (n : Nat) : Bytes := s.blob Obj.sensorProfile n

/-- Virtual channels of a stream. -/
def State.vcs (s : State) (n : Nat) : List Nat := (List.range (s.exposures n)).map (fun e => s.firstVc n + e)

/-- Streams other than n whose RAW_ENABLE is 1. -/
def State.otherRaw (s : State) (n : Nat) : List Nat := upTo 48 (fun m => m != n && s.rawOn m)

def State.portBits (s : State) (n : Nat) : Nat :=
  s.rawPixels n * s.num Obj.rawFpsMax n * (match dataType (s.num Obj.rawDt n) with | some (b, _, _) => b | none => 0)

/-- Pages of stream n's spill buffer: two slots. -/
def State.spillPages (s : State) (n : Nat) : Nat :=
  let bytes := s.rawPixels n * (match dataType (s.num Obj.rawDt n) with | some (_, b, k) => b * k | none => 0)
  (2 * bytes + pageBytes - 1) / pageBytes

/-- The first check of R289: fields, virtual channels, profile. -/
def State.rawFields (s : State) (n : Nat) : Bool :=
  decide (s.num Obj.rawPort n ≤ 3) && decide (1 ≤ s.exposures n) && decide (s.num Obj.rawVc n < 16)
    && decide (s.firstVc n + s.exposures n ≤ 4) && (dataType (s.num Obj.rawDt n)).isSome
    && s.num Obj.rawWidth n % 2 == 0 && s.num Obj.rawHeight n % 2 == 0
    && profileOk (s.profile n)

/-- The remaining checks of R289, in order; 0 when all pass. -/
def State.rawAdmission (s : State) (n : Nat) : Nat :=
  let others := s.otherRaw n
  let all := n :: others
  let port := s.num Obj.rawPort n
  let here := all.filter (fun m => s.num Obj.rawPort m == port)
  let rate := fun l => sumOf (fun m => s.rawPixels m * s.num Obj.rawFpsMax m) l
  let pipe := fun p => all.filter (fun m => s.num Obj.ispPipe m == p)
  if s.num Obj.srcEnable n == 1 then St.stateConflict
  else if others.any (fun m => s.num Obj.rawPort m == port && (s.vcs m).any (s.vcs n).contains) then St.stateConflict
  else if 16 < all.length then St.resourceOverflow
  else if 9 * s.num Obj.csiLanes port * s.num Obj.csiRate port * 1000000 < 10 * sumOf s.portBits here then St.resourceOverflow
  else if 2400000000 < rate all || 1200000000 < rate (pipe 0) || 1200000000 < rate (pipe 1) then St.resourceOverflow
  else if (s.alloc (s.spillPages n) (sysEntry 4 false false false)).isNone then St.resourceOverflow
  else 0

/-- The stream is admitted: its spill buffer, frame numbers from 0, the initialisation list to write (R289, R291). -/
def State.startRaw (s : State) (n : Nat) : State :=
  match s.alloc (s.spillPages n) (sysEntry 4 false false false) with
  | none => s
  | some (p, t) =>
    let t := t.modStream n (fun x => { x with
      frozen := false, trunc := false
      raw := { Raw.init with spillAt := some (p, s.spillPages n), initLeft := fld (s.profile n) 38 2 } })
    let t := if fld (s.profile n) 38 2 == 0 then t else
      { t with media := { t.media with i2c := t.media.i2c ++ [(fld (s.profile n) 2 1, n)] } }
    (t.clearObj Obj.genCommitted n).clearObj Obj.genFrame n

/-! ## Encodes of written frames (R325, R326) -/

/-- A clip ends with a status; CLIP_DONE is still to be posted. -/
def State.endClip (s : State) (n status : Nat) : State :=
  s.modStream n (fun x => { x with clip := x.clip.map (fun c => { c with ending := some (c.ending.getD status) }) })

def encDest (r : Bytes) : Nat := fld r 16 8
def encLen (r : Bytes) : Nat := fld r 24 4
def encFrames (r : Bytes) : Nat := fld r 8 4

/-- A frame of stream n has been written: a running clip encodes it, or ends where its unit does not fit. -/
def State.clipFrame (s : State) (n sof sofMono : Nat) : State :=
  match (s.stream n).clip with
  | none => s
  | some c =>
    if c.ending.isSome || decide (sofMono ≤ c.since) then s else
    let (v, s) := s.draw
    let u := Config.encode c.req v
    let off := 16 * encFrames c.req + c.used
    if encLen c.req < off + u.length then s.endClip n St.resourceOverflow
    else
      let s := s.writeBytes (encDest c.req + off) u
      let s := s.writeBytes (encDest c.req + 16 * c.frames) (le 8 sof ++ le 4 off ++ le 4 u.length)
      let s := s.modStream n (fun x => { x with clip := some { c with
        frames := c.frames + 1, used := c.used + u.length, sof := if c.frames == 0 then sof else c.sof } })
      if c.frames + 1 == encFrames c.req then s.endClip n St.ok else s

/-- What encodes take from a written frame: clips its unit, waiting snapshots the frame. -/
def State.written (s : State) (n sof sofMono : Nat) : State :=
  let s := s.clipFrame n sof sofMono
  { s with media := { s.media with snaps := s.media.snaps.map (fun (x : Snap) =>
      if x.stream == n && x.sof.isNone && decide (x.since < sofMono) then { x with sof := some sof } else x) } }

/-! ## Stopping a stream -/

/-- Frames that hold a slot of stream n's spill buffer. -/
def State.spillHeld (s : State) (n : Nat) : Nat :=
  (match (s.stream n).raw.cur with | some f => if f.spilled && !f.dropped then 1 else 0 | none => 0)
    + (s.stream n).raw.spill.length + (s.media.m2m.filter (fun m => m.2.1 == n && m.2.2.spilled)).length

/-- The spill buffer of a disabled stream is freed once no pipe reads it. -/
def State.freeSpill (s : State) (n : Nat) : State :=
  if s.rawOn n || s.spillHeld n != 0 then s else
  let s := s.freeRun (s.stream n).raw.spillAt
  s.modRaw n (fun r => { r with spillAt := none })

/-- RAW_ENABLE 0: submission stops, the frame in reception is discarded without a drop count. -/
def State.stopRaw (s : State) (n : Nat) : State :=
  let x := s.stream n
  let s := s.endClip n St.aborted
  let s := ((x.raw.cur.toList ++ x.raw.spill ++ x.complete).foldl (fun s f => s.freeSet n f.set) s).setNum Obj.rawEnable n 0
  let s := { s with media := { s.media with
    inline := s.media.inline.filter (fun i => i.2 != n), i2c := s.media.i2c.filter (fun i => i.2 != n) } }
  let s := s.modStream n (fun x => { x with
    complete := [], lostFrom := none, frozen := false, reason := 1, raw := { Raw.init with spillAt := x.raw.spillAt } })
  (s.epochForget n).freeSpill n

def rawEnableRule (n : Nat) : WriteRule :=
  { check := fun s v => match v with
      | .num 1 => s.rawOn n || s.rawFields n
      | _ => true
    pre := fun s v => match v with
      | .num 1 => if s.rawOn n then 0 else s.rawAdmission n
      | _ => 0
    apply := fun s v => match v with
      | .num 1 => if s.rawOn n then s else (s.setNum Obj.rawEnable n 1).startRaw n
      | _ => if s.rawOn n then s.stopRaw n else s }

/-- RAW_ENABLE. -/
def execRawEnable (st : StreamId) (w : CmdW) (s : State) : Host.Outcome State Fault Refusal :=
  done s (s.hostWrite (.rawEnable st w) w Obj.rawEnable st (rawEnableRule st))

/-! ## Truncation (R305) -/

/-- The settings generation a frame was exposed under. -/
def State.genOf (s : State) (n : Nat) (f : Frame) : Option Gen := (s.stream n).raw.gens.find? (fun g => g.num == f.gen)

/-- The parameters in force for a frame. -/
def State.frameParams (s : State) (n : Nat) (f : Frame) : Bytes := (s.epochVal f.epoch (Obj.ispParams.key n) Obj.ispParams.dflt).bytes

/-- The statistics record of a frame (R297): its gains, histogram and grid are the pipeline's. -/
def State.statsRecord (s : State) (n : Nat) (f : Frame) (valid : Bool) (fresh : Nat) : Bytes :=
  let g := s.genOf n f
  let st := pad 9222 ((Config.statistics (s.frameParams n f) (s.num Obj.rawWidth n) (s.num Obj.rawHeight n) f.digest fresh).take 9222)
  le 1 n ++ le 1 ((if valid then 1 else 0) + (if 1 < s.exposures n && s.num Obj.rawDt n != 0x1E then 2 else 0) + (if f.spilled then 4 else 0))
    ++ le 2 f.csiFn ++ le 4 f.number ++ le 4 f.gen ++ le 1 f.tcause ++ zeros 3 ++ le 8 f.sof ++ le 8 f.feTime
    ++ le 8 (if valid then f.digest.toNat else 0) ++ le 4 ((g.map (fun g => g.expoUs)).getD 0)
    ++ le 2 ((g.map (fun g => g.gain)).getD 0) ++ zeros 2 ++ st.take 6 ++ zeros 10 ++ st.drop 6

/-- The frame in reception ends early: its slots and its set are free, its record goes to STATS_LAST. -/
def State.truncate (s : State) (n cause : Nat) : State :=
  match (s.stream n).raw.cur with
  | none => s
  | some f =>
    let s := s.freeSet n f.set
    let s := { s with media := { s.media with inline := s.media.inline.filter (fun i => i.2 != n) } }
    let s := s.modStream n (fun x => { x with trunc := true, raw := { x.raw with cur := none, pipe := none } })
    let (v, s) := s.draw
    let s := s.setBlob Obj.statsLast n (s.statsRecord n { f with tcause := cause, feTime := s.clk.lode } false v)
    let s := if f.gen == 0 || f.dropped then s else s.noteDrop n
    (s.count Obj.truncated n).postEvent 0x0302 n (le 4 f.number ++ le 2 St.inputTruncated ++ le 1 cause)

/-! ## Frame starts (R291, R302 to R304) -/

/-- The raw stream of a virtual channel, and the exposure. -/
def State.rawStream (s : State) (p vc : Nat) : Option (Nat × Nat) :=
  ((List.range 48).find? (fun n => s.admitted n && s.num Obj.rawPort n == p && (s.vcs n).contains vc)).map
    (fun n => (n, vc - s.firstVc n))

/-- The stream of a higher number whose frame took pipe p's slot with a frame start of this very instant (R302). -/
def State.contender (s : State) (n p : Nat) : Option Nat :=
  (s.media.inline.find? (fun (i : Nat × Nat) => i.1 == p && decide (n < i.2) && (match (s.stream i.2).raw.cur with
    | some g => g.sofMono == s.clk.now && g.lines.all (fun l => l.2 == 0)
    | none => false))).map (·.2)

/-- The inline slot a frame of stream n would take: a free one, or one that it contends for with a higher stream. -/
def State.freePipe (s : State) (n : Nat) : Option Nat :=
  let open' := fun (p : Nat) => s.media.inline.all (fun i => i.1 != p) || (s.contender n p).isSome
  let w := s.num Obj.ispPipe n
  if w ≤ 1 then (if open' w then some w else none) else if open' 0 then some 0 else if open' 1 then some 1 else none

/-- The frame of stream n takes its slot, or a spill slot; a stream that it turns out of a slot looks for another. The
first operand bounds how often that can happen: there are two slots. -/
def State.seat : Nat → Nat → State → State
  | 0, _, s => s
  | k + 1, n, s =>
    match (s.stream n).raw.cur with
    | none => s
    | some f =>
      match s.freePipe n with
      | some p =>
        let out := s.contender n p
        let s := { s with media := { s.media with inline := s.media.inline.filter (fun (i : Nat × Nat) => i.1 != p) ++ [(p, n)] } }
        let s := s.modRaw n (fun r => { r with pipe := some p })
        (match out with
          | some m => State.seat k m (s.modRaw m (fun r => { r with pipe := none }))
          | none => s)
      | none =>
        if 2 ≤ s.spillHeld n then
          (s.dropFrame n f 1).modRaw n (fun r => { r with cur := some { f with dropped := true, set := none } })
        else (s.count Obj.spilled n).modRaw n (fun r => { r with cur := some { f with spilled := true } })

/-- The lowest free output set; some none for a stream without an attachment, which needs none. -/
def State.takeSet (s : State) (n : Nat) : Option (Option Nat) :=
  match (s.stream n).attach, (s.stream n).sets with
  | some _, some (_, _, k) => if (s.stream n).setsDue then none else ((List.range k).find? (fun i => !(s.stream n).setsUsed.contains i)).map some
  | _, _ => some none

/-- The generation in effect for frame number m: the highest whose effective frame is at or before it (R292). -/
def genAt (gens : List Gen) (m : Nat) : Nat :=
  gens.foldl (fun a g => match g.effective with | some e => if e ≤ m then max a g.num else a | none => a) 0

/-- A frame of stream n starts. -/
def State.startFrame (s : State) (n fn : Nat) : State :=
  let s := (s.meridian n s.clk.lode).settleAffinity n
  let x := s.stream n
  let m := x.raw.lastFs % 2 ^ 32
  let f : Frame := { number := m, csiFn := fn, sof := s.clk.lode, sofMono := s.clk.now, epoch := x.epoch
                     gen := genAt x.raw.gens x.raw.lastFs, lines := [(0, 0)], ended := [], digest := 0, spilled := false
                     dropped := false, set := none, tcause := 0, feTime := 0, feMono := 0, held := false }
  let s := s.modStream n (fun x => { x with
    trunc := false, lastSof := s.clk.lode, lastSofMono := s.clk.now, lastFrame := m
    raw := { x.raw with
      lastFs := x.raw.lastFs + 1, pipe := none, period := if x.raw.lastFs == 0 then 0 else s.clk.now - x.lastSofMono } })
  let s := s.count Obj.frames n
  let s := if f.gen == 0 then s.count Obj.warmupFrames n else s
  let keep := fun (s : State) (f : Frame) => s.modRaw n (fun r => { r with cur := some f })
  let pipe := s.freePipe n
  if pipe.isNone && decide (2 ≤ s.spillHeld n) then keep (s.dropFrame n f 1) { f with dropped := true }
  else match s.takeSet n with
    | none => keep (s.dropFrame n f 2) { f with dropped := true }
    | some set =>
      let s := match set with | some k => s.modStream n (fun x => { x with setsUsed := ins x.setsUsed k }) | none => s
      State.seat 3 n (keep s { f with set := set })

/-- A packet is discarded and counted (R286, R287). -/
def badPkt (s : State) (p : Nat) : State := s.count Obj.csiBadPkt p

/-- CSI_FRAME_START. A packet of the VCX extension is discarded and counted (R286). A frame start before the frame end
truncates the frame and begins the next (cause 0x05); an exposure that never came ends it with cause 0x0A. -/
def execCsiFrameStart (p : CsiPort) (vc : Nat) (fn : BitVec 16) (s : State) : Host.Outcome State Fault Refusal :=
  if s.power.tripped then .next s else
  if 3 < vc then .next (badPkt s p) else
  match s.rawStream p vc with
  | none => .next s
  | some (n, 0) =>
    let t := match (s.stream n).raw.cur with
      | none => s
      | some f => s.truncate n (if f.ended.contains 0 then 0x0A else 0x05)
    done s (t.startFrame n fn.toNat)
  | some (n, e) =>
    .next (match (s.stream n).raw.cur with
      | none => s
      | some f =>
        if f.lines.any (fun l => l.1 == e) then s.truncate n 0x05
        else s.modRaw n (fun r => { r with cur := some { f with lines := tput f.lines e 0 } }))

/-! ## Lines (R287, R306) -/

/-- The digest terms of one line of exposure 0. -/
def lineDigest (y S : Nat) (samples : List Nat) : DWord :=
  (samples.zipIdx.foldl (fun a x => a + digTerm (BitVec.ofNat 64 (y * S + x.2)) (BitVec.ofNat 64 x.1)) 0)

/-- A line of exposure e of the frame in reception. -/
def State.takeLine (s : State) (n e : Nat) (f : Frame) (samples : List Nat) : State :=
  let S := s.lineSamples n
  let y := tget 0 f.lines e
  if S < samples.length then s.truncate n 1
  else if samples.length < S then s.truncate n 2
  else if s.num Obj.rawHeight n ≤ y then s.truncate n 3
  else
    let f := { f with lines := tput f.lines e (y + 1)
                      digest := if e == 0 then f.digest + lineDigest y S samples else f.digest }
    let l0 := tget 0 f.lines 0
    if (List.range (s.exposures n)).any (fun k => k != 0 && tget 0 f.lines k + 65 < l0) then s.truncate n 0x0A
    else s.modRaw n (fun r => { r with cur := some f })

/-- CSI_LINE_PACKET. -/
def execCsiLinePacket (p : CsiPort) (vc : Nat) (dt : Byte) (samples : List Nat) (chk : PktCheck) (s : State) :
    Host.Outcome State Fault Refusal :=
  if s.power.tripped then .next s else
  let d := dt.toNat
  .next (
    if chk == .vcx || decide (3 < vc) then badPkt s p
    else if d < 0x10 then s
    else match s.rawStream p vc with
      | none => if d == 0x12 then s else badPkt s p
      | some (n, e) =>
        match (s.stream n).raw.cur with
        | none => if (s.stream n).trunc || d == 0x12 then s else badPkt s p
        | some f =>
          if chk == .overflow then s.truncate n 6
          else if chk == .headerBad then s.truncate n 7
          else if d == 0x12 then s
          else if d != s.num Obj.rawDt n then badPkt s p
          else if !f.lines.any (fun l => l.1 == e) then badPkt s p
          else if chk == .checksumBad then s.truncate n 8
          else s.takeLine n e f samples)

/-! ## Frame ends and the frozen-input detector (R297, R402, R403) -/

/-- The stream is declared frozen by a detector: 1 digest, 2 CSI-2 frame number, 3 timecode. -/
def State.declareFrozen (s : State) (n number det : Nat) : State :=
  let s := (s.modStream n (fun x => { x with frozen := true })).invalidate n (max 8 ((s.standing n)))
  (s.count Obj.frozenEvents).postEvent 0x0506 n (le 4 number ++ le 1 det)

/-- A digested frame against the one before it. -/
def State.detectRaw (s : State) (n : Nat) (f : Frame) : State :=
  let r := (s.stream n).raw
  let same := r.lastDigest == some f.digest
  let sameFn := f.csiFn != 0 && f.csiFn == r.lastFn
  let dr := if same then r.frozenRun + 1 else 1
  let fr := if sameFn then r.fnRun + 1 else if f.csiFn == 0 then 0 else 1
  let s := s.modRaw n (fun r => { r with frozenRun := dr, fnRun := fr, lastDigest := some f.digest, lastFn := f.csiFn })
  let k := s.num Obj.frozenK
  if (s.stream n).frozen then
    (if !same && !sameFn then s.modStream n (fun x => { x with frozen := false }) else s)
  else if k ≤ dr then s.declareFrozen n f.number 1
  else if k ≤ fr then s.declareFrozen n f.number 2
  else s

/-- Every exposure has ended: the digest is final, the inline slot is free, a spilled frame is eligible (R302, R303). -/
def State.endFrame (s : State) (n : Nat) (f : Frame) : State :=
  let f := { f with feTime := s.clk.lode, feMono := s.clk.now }
  let pipe := (s.stream n).raw.pipe
  let s := s.modRaw n (fun r => { r with cur := none, pipe := none })
  let s := { s with media := { s.media with inline := s.media.inline.filter (fun i => i.2 != n) } }
  let s := s.detectRaw n f
  if f.dropped then s else
  let (f, s) := if s.runs P.mdp then (f, s) else
    let s := s.dropFrame n f 3
    ({ f with dropped := true, set := none }, s)
  match pipe with
  | some p => { s with media := { s.media with m2m := s.media.m2m ++ [(p, n, f)] } }
  | none => s.modRaw n (fun r => { r with spill := r.spill ++ [f] })

/-- CSI_FRAME_END. -/
def execCsiFrameEnd (p : CsiPort) (vc : Nat) (s : State) : Host.Outcome State Fault Refusal :=
  if s.power.tripped then .next s else
  if 3 < vc then .next (badPkt s p) else
  match s.rawStream p vc with
  | none => .next s
  | some (n, e) =>
    match (s.stream n).raw.cur with
    | none => .next s
    | some f =>
      done s (
        if !f.lines.any (fun l => l.1 == e) then s
        else if tget 0 f.lines e < s.num Obj.rawHeight n then s.truncate n 4
        else
          let f := { f with ended := ins f.ended e }
          if (List.range (s.exposures n)).all f.ended.contains then s.endFrame n f
          else s.modRaw n (fun r => { r with cur := some f }))

/-- FRAME_TIMEOUT: no frame end within FRAME_TIMEOUT of the frame start. -/
def execFrameTimeout (st : StreamId) (s : State) : Host.Outcome State Fault Refusal :=
  if s.power.tripped then .next s else
  .next (match (s.stream st).raw.cur with
    | none => s
    | some f => (s.advanceTo (f.sofMono + s.num Obj.frameTimeout st * ms)).truncate st 9)

/-- SPILL_START (R303): a pipe takes the eligible frame with the earliest start of frame, the lowest stream on a tie. -/
def execSpillStart (pipe : Fin 2) (s : State) : Host.Outcome State Fault Refusal :=
  if s.power.tripped then .next s else
  .next (
    if s.media.m2m.any (fun m => m.1 == pipe.val && m.2.2.spilled) then s else
    let l := (List.range 48).flatMap (fun n =>
      if s.num Obj.ispPipe n == pipe.val || s.num Obj.ispPipe n == 0xFF then (s.stream n).raw.spill.map (fun f => (n, f)) else [])
    match minBy (fun x => x.2.sofMono) l with
    | none => s
    | some (n, f) =>
      let s := s.modRaw n (fun r => { r with spill := r.spill.filter (fun g => g.number != f.number) })
      { s with media := { s.media with m2m := s.media.m2m ++ [(pipe.val, n, f)] } })

/-! ## The pipe's end of a frame (R296, R298, R301) -/

/-- The mean of a record's histogram, in units of its 256 bins. -/
def histMean (r : Bytes) : Nat :=
  let total := sumOf (fun i => fld r (64 + 4 * i) 4) (List.range 256)
  sumOf (fun i => i * fld r (64 + 4 * i) 4) (List.range 256) / max 1 total

/-- An exposure request: the last one before the next generation write is kept (R295). -/
def State.requestExposure (s : State) (n expo gain : Nat) : State :=
  let s := if (s.stream n).raw.request.isSome then s.count Obj.expoSuperseded n else s
  s.modRaw n (fun r => { r with request := some (expo, gain) })

/-- The longest exposure that the loop sets: EXPO_MAX_US, or the frame period less 1 ms where that is smaller. -/
def State.expoCap (s : State) (n : Nat) : Nat :=
  let b := s.profile n
  let p := (s.stream n).raw.period
  max (fld b 28 4) (if p == 0 then fld b 32 4 else min (fld b 32 4) (p / us - 1000))

/-- The loop's steps of brightness: each exposure up to the cap at a gain of 1, then each gain beyond it (R296). -/
def stepOf (lo cap expo gain : Nat) : Nat := (min expo cap - lo) + (gain - 256)
def ofStep (lo cap k : Nat) : Nat × Nat := (min (lo + k) cap, 256 + (k - (cap - lo)))

/-- The exposure loop (R296): at most one request per valid frame of the committed generation, within the profile's limits.
It steers the mean toward the target: a darker frame is answered by a brighter step, a brighter frame by a darker one; how
far it goes, and whether it acts, are open. -/
def State.exposureLoop (s : State) (n : Nat) (f : Frame) (rec' : Bytes) : State :=
  let r := (s.stream n).raw
  let b := s.profile n
  if s.num Obj.aeMode n != 0 || !s.runs P.mdp || f.gen == 0 || f.gen != s.num Obj.genCommitted n
      || histMean rec' == s.num Obj.aeTarget n || r.sensorFault then s
  else
    let (v, s) := s.draw
    let (act, s) := s.draw
    let lo := fld b 28 4
    let cap := s.expoCap n
    let last := cap - lo + (fld b 36 2 - 256)
    let now := min last (match s.genOf n f with | some g => stepOf lo cap g.expoUs g.gain | none => 0)
    let room := if histMean rec' < s.num Obj.aeTarget n then last - now else now
    if act % 2 == 0 || room == 0 then s else
    let k := if histMean rec' < s.num Obj.aeTarget n then now + 1 + v % room else v % room
    s.requestExposure n (ofStep lo cap k).1 (ofStep lo cap k).2

/-- Outputs and record of a frame go to its output set, the record at its end (R298, R301). -/
def State.writeSet (s : State) (n : Nat) (f : Frame) (rec' : Bytes) : State :=
  match (s.stream n).sets, f.set with
  | some (p, per, _), some k =>
    let (v, s) := s.draw
    let a := (p + per * k) * pageBytes
    let w := s.num Obj.rawWidth n
    let h := s.num Obj.rawHeight n
    let out := pictureBytes (s.frameParams n f) w h [f.digest.toNat] v
    ((s.writeBytes a out).writeBytes (a + per * pageBytes - 9280) rec').written n f.sof f.sofMono
  | _, _ => s

/-- ISP_FRAME_DONE: the pipe has written the frame's last line and its record; the frame is complete. -/
def execIspFrameDone (pipe : Fin 2) (s : State) : Host.Outcome State Fault Refusal :=
  if s.power.tripped then .next s else
  match s.media.m2m.find? (fun m => m.1 == pipe.val) with
  | none => .next s
  | some m =>
    let n := m.2.1
    let f := m.2.2
    let t := { s with media := { s.media with m2m := s.media.m2m.filter (fun x => x != m) } }
    .next (
      if !t.rawOn n then (t.freeSet n f.set).freeSpill n else
      let (v, t) := t.draw
      let rec' := t.statsRecord n f true v
      let t := t.setBlob Obj.statsLast n rec'
      let t := if f.dropped then t else t.writeSet n f rec'
      let t := t.exposureLoop n f rec'
      if f.dropped then t
      else if f.gen != 0 && f.set.isSome && (t.stream n).attach.isSome then
        t.modStream n (fun x => { x with complete := x.complete ++ [{ f with held := !t.accepts }] })
      else (if f.gen != 0 && (t.stream n).lostFrom.isSome then t.noteDrop n else t).freeSet n f.set)

/-! ## Settings generations and I²C (R292 to R295, R308) -/

/-- Bytes of a value, most significant first, at rising registers. -/
def regWrites (reg k v : Nat) : List (Nat × Nat) :=
  (List.range k).map (fun i => (reg + i, v / 256 ^ (k - 1 - i) % 256))

/-- The gain code (R290): round_half_to_even(gain × GAIN_SCALE). -/
def gainCode (b : Bytes) (gain : Nat) : Nat :=
  match (FNum.fin false gain (-8)).mul (f32 (BitVec.ofNat 32 (fld b 24 4))) with
  | .fin neg m e => (roundInt 0 neg m e).toNat
  | _ => 0

/-- The writes of a generation in order: HOLD_ON, exposure, gain, HOLD_OFF. -/
def genWrites (b : Bytes) (g : Gen) : List (Nat × Nat) :=
  let hold := fun o => if fld b 6 2 == 0xFFFF then [] else [(fld b 6 2, fld b o 1)]
  hold 8 ++ regWrites (fld b 10 2) (fld b 12 1) (g.expoUs * 1000 / fld b 16 4) ++
    regWrites (fld b 20 2) (fld b 22 1) (gainCode b g.gain) ++ hold 9

/-- The initialisation list's writes. -/
def initWrites (b : Bytes) : List (Nat × Nat) :=
  (List.range (fld b 38 2)).map (fun i => (fld b (64 + 4 * i) 2, fld b (66 + 4 * i) 1))

/-- The delay in ms after the write of the list that leaves so many to go, itself included. -/
def initDelay (b : Bytes) (left : Nat) : Nat := fld b (67 + 4 * (fld b 38 2 - left)) 1

/-- Exposure 0 is in vertical blanking. -/
def Raw.blanking (r : Raw) : Bool := match r.cur with | some f => f.ended.contains 0 | none => true

/-- The next generation: the one being rewritten, or that of the request; the first after admission takes open values
where no request waits. -/
def State.nextGen (s : State) (n : Nat) : Option (Gen × State) :=
  let r := (s.stream n).raw
  match r.writing, r.request with
  | some g, _ => some (g, s)
  | none, some (e, a) =>
    some ({ num := s.num Obj.genCommitted n + 1, expoUs := e, gain := a, effective := none },
      s.modRaw n (fun r => { r with request := none }))
  | none, none =>
    if s.num Obj.genCommitted n != 0 then none else
    let b := s.profile n
    let (v, s) := s.draw
    let (w, s) := s.draw
    some ({ num := 1, expoUs := fld b 28 4 + v % (fld b 32 4 - fld b 28 4 + 1), gain := w % (fld b 36 2 + 1)
            effective := none }, s)

/-- GENERATION_WRITE_START (R293): the writes are estimated to take estUs and start only when they end at least 100 µs
before the predicted next start of frame. -/
def execGenerationWriteStart (st : StreamId) (estUs untilFrameUs : Nat) (s : State) : Host.Outcome State Fault Refusal :=
  if s.power.tripped then .next s else
  let n := st.val
  let r := (s.stream n).raw
  .next (
    if !s.admitted n || !s.runs P.mdp || r.initLeft != 0 || r.writeLeft != 0 || r.sensorFault || !r.blanking || (s.stream n).trunc
        || r.failedFs == some r.lastFs || decide (s.clk.now < r.initAt)
        || decide (untilFrameUs < estUs + 100) then s
    else match s.nextGen n with
      | none => s
      | some (g, t) =>
        let b := s.profile n
        let t := t.modRaw n (fun r => { r with writing := some g, writeLeft := (genWrites b g).length })
        { t with media := { t.media with i2c := t.media.i2c ++ [(fld b 2 1, n)] } })

/-- A generation is committed at the end of its last write, in the period of the last frame started (R292). -/
def State.commitGen (s : State) (n : Nat) : State :=
  match (s.stream n).raw.writing with
  | none => s
  | some g =>
    let eff := (s.stream n).raw.lastFs + fld (s.profile n) 1 1 - 1
    let s := s.modRaw n (fun r => { r with
      writing := none, attempts := 0, failedFs := none, gens := r.gens ++ [{ g with effective := some eff }] })
    let s := (s.setNum Obj.genCommitted n g.num).setNum Obj.genFrame n (eff % 2 ^ 32)
    s.postEvent 0x0301 n (le 4 g.num ++ le 4 eff ++ le 4 g.expoUs ++ le 2 g.gain)

def State.leaveBus (s : State) (bus n : Nat) : State :=
  { s with media := { s.media with i2c := s.media.i2c.filter (fun i => !(i.1 == bus && i.2 == n)) } }

/-- A transaction fails: a generation is abandoned and rewritten from HOLD_ON, or after 3 attempts SENSOR_FAULT. -/
def State.failI2c (s : State) (bus n : Nat) : State :=
  let s := s.count Obj.i2cFail n
  let r := (s.stream n).raw
  if r.initLeft != 0 then s else
  let k := r.attempts + 1
  let s := (s.leaveBus bus n).modRaw n (fun r => { r with writeLeft := 0, attempts := k, failedFs := some r.lastFs, sensorFault := decide (3 ≤ k) })
  if 3 ≤ k then
    s.postEvent 0x0304 n (le 4 ((r.writing.map (fun g => g.num)).getD 0) ++ le 1 k)
  else s

/-- A transaction succeeds: the register is written; the last one of a generation commits it. -/
def State.endI2c (s : State) (bus n : Nat) : State :=
  let b := s.profile n
  let r := (s.stream n).raw
  let ws := if r.initLeft != 0 then initWrites b else match r.writing with | some g => genWrites b g | none => []
  let left := if r.initLeft != 0 then r.initLeft else r.writeLeft
  let s := match ws[ws.length - left]? with
    | some (a, v) => { s with media := { s.media with i2cTx := s.media.i2cTx ++ [(bus, fld b 3 1, a, v)] } }
    | none => s
  let s := if r.initLeft != 0 then s.modRaw n (fun r => { r with
      initLeft := r.initLeft - 1, initAt := s.clk.now + initDelay b r.initLeft * ms })
    else s.modRaw n (fun r => { r with writeLeft := r.writeLeft - 1 })
  if left != 1 then s
  else
    let s := s.leaveBus bus n
    if r.initLeft != 0 then s else s.commitGen n

/-- I2C_TRANSACTION (R294, R308): the bus's first writer whose initialisation delay is over, in order of the start of frame that opened its blanking, then
stream number. -/
def execI2cTransaction (bus : Fin 8) (acked : Bool) (stretchUs tookUs : Nat) (s : State) : Host.Outcome State Fault Refusal :=
  if s.power.tripped then .next s else
  let l := s.media.i2c.filter (fun i => i.1 == bus.val
    && ((s.stream i.2).raw.initLeft == 0 || decide ((s.stream i.2).raw.initAt ≤ s.clk.now)))
  .next (
    if !s.runs P.mdp then s else
    match minBy (fun i => (s.stream i.2).lastSofMono * 64 + i.2) l with
    | none => s
    | some (_, n) =>
      if !acked || decide (1000 < stretchUs) || decide (5000 < tookUs) then s.failI2c bus n else s.endI2c bus n)

def expoReqRule (n : Nat) : WriteRule :=
  { check := fun s v => match v with
      | .num v =>
        let b := s.profile n
        v / 2 ^ 48 == 0 && decide (fld b 28 4 ≤ v % 2 ^ 32 ∧ v % 2 ^ 32 ≤ fld b 32 4) && decide (v / 2 ^ 32 ≤ fld b 36 2)
      | .blob _ => false
    pre := fun s _ => if s.num Obj.aeMode n == 0 then St.stateConflict else 0
    apply := fun s v => match v with
      | .num v => if s.admitted n then s.requestExposure n (v % 2 ^ 32) (v / 2 ^ 32 % 2 ^ 16) else s
      | .blob _ => s }

/-- EXPO_REQ (R295). -/
def execExpoReq (st : StreamId) (w : CmdW) (s : State) : Host.Outcome State Fault Refusal :=
  .next (s.hostWrite (.expoReq st w) w Obj.expoReq st (expoReqRule st))

def sensorRetryRule (n : Nat) : WriteRule :=
  WriteRule.cmd (fun _ _ => 0) (fun s _ => s.modRaw n (fun r =>
    if r.sensorFault then { r with sensorFault := false, attempts := 0 } else r))

/-- SENSOR_RETRY (R294). -/
def execSensorRetry (st : StreamId) (w : CmdW) (s : State) : Host.Outcome State Fault Refusal :=
  .next (s.hostWrite (.sensorRetry st w) w Obj.sensorRetry st (sensorRetryRule st))

/-! ## Frame sync (R307) -/

/-- FSYNC_PULSE: the next Lodestar time congruent to FS_PHASE modulo FS_PERIOD; one less than half a period after the
previous pulse is suppressed. -/
def execFsyncPulse (k : Fin 8) (s : State) : Host.Outcome State Fault Refusal :=
  if s.power.tripped then .next s else
  if s.num Obj.fsEnable k == 0 then .next s else
  let p := s.num Obj.fsPeriod k
  let d := (s.num Obj.fsPhase k % p + p - s.clk.lode % p) % p
  let last := tfind s.pins.fsyncLast k
  let d := if d == 0 && last == some s.clk.now then p else d
  let t := s.advanceTo (s.clk.now + d)
  .next (
    if (match last with | some l => decide (2 * (t.clk.now - l) < p) | none => false) then t.count Obj.fsSuppressed k
    else { t with pins := { t.pins with
      fsyncLast := tput t.pins.fsyncLast k t.clk.now
      fsyncPulses := tput t.pins.fsyncPulses k (t.clk.now + s.num Obj.fsWidth k * us)
      fsyncPols := tput t.pins.fsyncPols k (s.num Obj.fsPol k) } })

/-- The level that FSYNCk drives, high or low: active during a pulse of an enabled output, with the polarity in force since
its last pulse (R307). -/
def State.fsyncLevel (s : State) (k : Fin 8) : Bool :=
  let low := (tfind s.pins.fsyncPols k).getD (s.num Obj.fsPol k) == 1
  (s.num Obj.fsEnable k == 1 && decide (s.clk.now < tget 0 s.pins.fsyncPulses k)) != low

end Sys2Proof.Machine
end

