-- ==== Sys2Proof/Machine/Ingest.lean ====
section
/-! DEFINITION. Compressed streams: data ports, RTP packets, access units, decoding, conversion, encode requests (chapter
"Compressed stream ingest and codecs", R311 to R328; R402 for timecodes). -/

namespace Sys2Proof.Machine

/-! ## Data ports (R230, R311, R312) -/

def State.srcOn (s : State) (n : Nat) : Bool := s.num Obj.srcEnable n == 1

/-- An address of an object as a number: 16 bytes, IPv4 as ::ffff:a.b.c.d. -/
def State.ipOf (s : State) (r : ObjRow) (k : Nat) : Nat := ofBe (s.blob r k)

/-- The session that a datagram on data port p belongs to. -/
def State.sessionOf (s : State) (p dst port vlan : Nat) : Option Nat :=
  (List.range 48).find? (fun n => s.srcOn n && s.num Obj.srcPort n == p && s.ipOf Obj.srcAddr n == dst
    && s.num Obj.srcUdp n == port && s.num Obj.srcVlan n == vlan)

/-- The enabled peer that a datagram comes from. -/
def State.peerOf (s : State) (p port : Nat) (src : Src) : Option Nat :=
  if port != s.num Obj.peerUdpLocal then none else
  (List.range 32).find? (fun k => s.peerOn k && s.num Obj.peerPort k == p && s.ipOf Obj.peerAddr k == src.addr
    && s.num Obj.peerUdp k == src.port && s.num Obj.peerVlan k == src.vlan)

def discardDp (s : State) (p : Nat) : State := s.count Obj.dpRxDiscard p

/-- The fields of a peer frame's header, in network byte order, and its data (Table — Peer frame header). -/
def peerFields (b : Bytes) : PeerFrame :=
  let flags := ofBe (cut b 2 2)
  { last := flags.testBit 0, getReply := flags.testBit 1, xfer := BitVec.ofNat 32 (ofBe (cut b 4 4)), seq := ofBe (cut b 8 4)
    ack := ofBe (cut b 12 4), addr := ofBe (cut b 16 8), total := ofBe (cut b 24 4), status := ofBe (cut b 30 2)
    data := cut b 32 (b.length - 36) }

/-- A datagram of enabled peer k on data port p (R230): its CRC, version, type and LENGTH are checked; a good one has the
effect of its type. -/
def State.peerFrame (s : State) (p : Nat) (k : PeerId) (b : Bytes) : Host.Outcome State Fault Refusal :=
  let n := b.length - 4
  let f := peerFields b
  if b.length < 36 || ofBe (b.drop n) != crc32 (b.take n) then .next (s.count Obj.peerCrcFail k)
  else if fld b 0 1 != 1 || ofBe (cut b 28 2) != f.data.length then .next (discardDp s p)
  else match fld b 1 1 with
    | 1 => execPeerDataRx k f s
    | 2 => execPeerAckRx k f s
    | 3 => execPeerGetRx k f s
    | 4 => execPeerAbortRx k f s
    | _ => .next (discardDp s p)

/-- The addresses that data port p answers for. -/
def State.dpOwn (s : State) (p target : Nat) : Bool :=
  target != 0 && (target == s.num Obj.dpIp4 p || target == s.ipOf Obj.dpIp6 p)

def State.dpReply (s : State) (p : Nat) (src : Src) : State :=
  { s with media := { s.media with tx := s.media.tx ++ [(p, src)] } }

/-- A request that the port answers, or a frame that matches nothing (R311, R312). -/
def State.dpAnswer (s : State) (p target : Nat) (f : EthFrame) : State :=
  if f.onLink && s.dpOwn p target then s.dpReply p f.src else discardDp s p

/-- A multicast group: 224.0.0.0/4 as ::ffff:a.b.c.d, or ff00::/8. -/
def multicast (a : Nat) : Bool := a / 2 ^ 28 == 0xFFFF * 16 + 0xE || a / 2 ^ 120 == 0xFF

/-- The IGMPv3 or MLDv2 report for the group of session n, if it has one, on the session's port and VLAN (R312). -/
def State.groupReport (s : State) (n : Nat) : State :=
  let a := s.ipOf Obj.srcAddr n
  if multicast a then s.dpReply (s.num Obj.srcPort n) { addr := a, port := 0, vlan := s.num Obj.srcVlan n } else s

/-- The reports for the groups of port p's enabled sessions. -/
def State.dpReport (s : State) (p : Nat) : State :=
  (upTo 48 (fun n => s.srcOn n && s.num Obj.srcPort n == p)).foldl State.groupReport s

/-- DP_FRAME_RX: a frame's checks, the replies of R312, the discards of R311, and a peer's datagram. Datagrams of sessions
are the matter of their own row. -/
def execDpFrameRx (p : DataPort) (f : EthFrame) (s : State) : Host.Outcome State Fault Refusal :=
  if s.power.tripped then .next s else
  if s.num Obj.dpMode p == 0 || s.num Obj.dpLink p == 0 then .next s
  else if 9216 < f.bytes || !f.fcsOk || !f.ipOk || !f.udpOk || f.fragment then .next (discardDp s p)
  else match f.payload with
    | .arp t => .next (s.dpAnswer p t f)
    | .neighbour t => .next (s.dpAnswer p t f)
    | .echo t => .next (s.dpAnswer p t f)
    | .groupQuery => .next (if f.onLink then s.dpReport p else discardDp s p)
    | .udp dst port body =>
      match s.sessionOf p dst port f.src.vlan, s.peerOf p port f.src with
      | some _, _ => .next s
      | none, some k => if h : k < 32 then s.peerFrame p ⟨k, h⟩ body else .next s
      | none, none => .next (discardDp s p)
    | .gptp => .next (discardDp s p)
    | .other => .next (discardDp s p)

/-- An enabled session or peer uses data port p. -/
def State.portUsed (s : State) (p : Nat) : Bool :=
  (List.range 48).any (fun n => s.srcOn n && s.num Obj.srcPort n == p)
    || (List.range 32).any (fun k => s.peerOn k && s.num Obj.peerPort k == p)

def dpModeRule (p : Nat) : WriteRule :=
  { check := fun _ _ => true
    pre := fun s _ => if s.portUsed p then St.stateConflict else 0
    apply := fun s v => s.setVal Obj.dpMode p v }

/-- DP_MODE. -/
def execDpMode (p : DataPort) (w : CmdW) (s : State) : Host.Outcome State Fault Refusal :=
  .next (s.hostWrite (.dpMode p w) w Obj.dpMode p (dpModeRule p))

/-! ## SRC_STATE -/

/-- SRC_STATE as the session stands; entering STALLED or FAULT ends its part in epochs and its validity (R388, R519). -/
def State.syncSrc (s : State) (n : Nat) : State :=
  let g := (s.stream n).ing
  let v := if !s.srcOn n then 0 else if g.stalled then 3 else if g.fault then 4 else if g.waitIrap then 1 else 2
  let old := s.num Obj.srcState n
  let s := s.setNum Obj.srcState n v
  if 3 ≤ v && old < 3 then (s.epochForget n).invalidate n 9 else s

/-- The stream waits for an IRAP unit. -/
def State.awaitIrap (s : State) (n : Nat) : State := (s.modIng n (fun g => { g with waitIrap := true })).syncSrc n

/-! ## Admission (R313) -/

/-- Profile and level form a pair of Table — Decode support. -/
def decodable (codec profile level : Nat) : Bool :=
  if codec == 1 then (profile == 66 || profile == 77 || profile == 100) && decide (10 ≤ level ∧ level ≤ 51)
  else codec == 2 && (profile == 1 || profile == 2) && decide (30 ≤ level ∧ level ≤ 153)

def State.srcRate (s : State) (n : Nat) : Nat := s.num Obj.srcWidth n * s.num Obj.srcHeight n * s.num Obj.srcFpsMax n
def State.otherSrc (s : State) (n : Nat) : List Nat := upTo 48 (fun m => m != n && s.srcOn m)

def State.srcFields (s : State) (n : Nat) : Bool :=
  decodable (s.num Obj.srcCodec n) (s.num Obj.srcProfile n) (s.num Obj.srcLevel n) && decide (1024 ≤ s.num Obj.srcUdp n)

/-- The lowest decoder core with room for stream n. -/
def State.coreFor (s : State) (n : Nat) : Option Nat :=
  (List.range 4).find? (fun c =>
    decide (sumOf s.srcRate ((s.otherSrc n).filter (fun m => s.num Obj.decCore m == c)) + s.srcRate n ≤ 1250000000))

def State.refPages (s : State) (n : Nat) : Nat :=
  Config.refPages (s.num Obj.srcCodec n) (s.num Obj.srcProfile n) (s.num Obj.srcLevel n) (s.num Obj.srcWidth n)
    (s.num Obj.srcHeight n)

/-- Reference pictures are allocated, and the output sets can be: an attached stream's sets take the session's shape as
soon as no job of its context is dispatched (State.reclaimSets). -/
def State.srcPages (s : State) (n : Nat) : Option State :=
  match s.alloc (s.refPages n) (sysEntry 5 false false false) with
  | none => none
  | some (p, t) =>
    let t := t.modIng n (fun g => { g with refAt := some (p, s.refPages n) })
    let held := match (s.stream n).attach, (s.stream n).sets with
      | some _, some (_, per, k) => per * k
      | _, _ => 0
    if s.setPages n true * (s.setShape n true).sets ≤ t.pagesFree + held then some t else none

def State.srcAdmission (s : State) (n : Nat) : Nat :=
  let others := s.otherSrc n
  let port := s.num Obj.srcPort n
  let line := if s.num Obj.dpMode port == 1 then 10000 else 1000
  if s.rawOn n then St.stateConflict
  else if others.any (fun m => s.num Obj.srcPort m == port && s.blob Obj.srcAddr m == s.blob Obj.srcAddr n
      && s.num Obj.srcUdp m == s.num Obj.srcUdp n && s.num Obj.srcVlan m == s.num Obj.srcVlan n) then St.stateConflict
  else if s.num Obj.srcUdp n == s.num Obj.peerUdpLocal || s.num Obj.dpMode port == 0 then St.stateConflict
  else if 9 * line < 10 * sumOf (fun m => s.num Obj.srcMbps m) ((n :: others).filter (fun m => s.num Obj.srcPort m == port)) then
    St.resourceOverflow
  else if 5000000000 < sumOf s.srcRate (n :: others) || (s.coreFor n).isNone then St.resourceOverflow
  else if (s.srcPages n).isNone then St.resourceOverflow
  else 0

/-- The session is admitted: its decoder core, its pages, WAIT_IRAP. -/
def State.startSrc (s : State) (n : Nat) : State :=
  let core := (s.coreFor n).getD 0
  let s := ((s.setNum Obj.decCore n core).modIng n (fun _ => { Ingest.init with
    ssrc := if s.num Obj.srcSsrc n == 0 then none else some (BitVec.ofNat 32 (s.num Obj.srcSsrc n))
    lastPkt := s.clk.now, lastAu := s.clk.now, lastAuLode := s.clk.lode, waitIrap := true })).modStream n
      (fun x => { x with frozen := false })
  (((((s.srcPages n).getD s).modStream n (fun x => { x with setsDue := x.attach.isSome })).reclaimSets n).syncSrc n).groupReport n

/-- The reference pages of a disabled session are freed once the decoder has released them. -/
def State.freeRefs (s : State) (n : Nat) : State :=
  if s.srcOn n || s.media.decoding.any (fun d => d.2.1 == n) then s else
  let s := s.freeRun (s.stream n).ing.refAt
  s.modIng n (fun g => { g with refAt := none })

/-- SRC_ENABLE 0: acceptance stops, every access unit not yet decoded is discarded. -/
def State.stopSrc (s : State) (n : Nat) : State :=
  let x := s.stream n
  let s := s.endClip n St.aborted
  let s := (x.ing.units ++ x.ing.converting).foldl (fun s u => s.freeSet n u.set) s
  let s := x.complete.foldl (fun s f => s.freeSet n f.set) s
  let s := s.setNum Obj.srcEnable n 0
  let s := s.modStream n (fun x => { x with
    complete := [], lostFrom := none, frozen := false, reason := 1, ing := { Ingest.init with refAt := x.ing.refAt } })
  (((s.epochForget n).freeRefs n).syncSrc n).groupReport n

def srcEnableRule (n : Nat) : WriteRule :=
  { check := fun s v => match v with
      | .num 1 => s.srcOn n || s.srcFields n
      | _ => true
    pre := fun s v => match v with
      | .num 1 => if s.srcOn n then 0 else s.srcAdmission n
      | _ => 0
    apply := fun s v => match v with
      | .num 1 => if s.srcOn n then s else (s.setNum Obj.srcEnable n 1).startSrc n
      | _ => if s.srcOn n then s.stopSrc n else s }

/-- SRC_ENABLE. -/
def execSrcEnable (st : StreamId) (w : CmdW) (s : State) : Host.Outcome State Fault Refusal :=
  done s (s.hostWrite (.srcEnable st w) w Obj.srcEnable st (srcEnableRule st))

/-! ## Packets (R314, R318) -/

/-- The extended sequence number nearest the highest so far (RFC 3550, Appendix A.1). -/
def extSeq (maxSeq : Option Nat) (q : BitVec 16) : Nat :=
  match maxSeq with
  | none => 65536 + q.toNat
  | some m =>
    let d := (q - BitVec.ofNat 16 m).toInt
    ((m : Int) + d).toNat

/-- Insert into the held packets in sequence order. -/
def insHeld : List Held → Held → List Held
  | [], h => [h]
  | a :: r, h => if h.ext < a.ext then h :: a :: r else a :: insHeld r h

/-- The SSRC to which an unlocked stream locks with a packet. -/
def State.lockSsrc (s : State) (n : Nat) (x : Word) : State :=
  match (s.stream n).ing.oldSsrc with
  | none => s.modIng n (fun g => { g with ssrc := some x })
  | some o =>
    let s := s.modIng n (fun g => { g with ssrc := some x, oldSsrc := none, held := [], released := none, lost := []
                                           maxSeq := none, au := none, lostSince := 0, lastTs := none })
    ((s.count Obj.ssrcChanges n).postEvent 0x0306 n (le 4 o.toNat ++ le 4 x.toNat)).awaitIrap n

/-- RTP_PACKET_RX. -/
def execRtpPacketRx (st : StreamId) (pkt : RtpPacket) (s : State) : Host.Outcome State Fault Refusal :=
  if s.power.tripped then .next s else
  let n := st.val
  let drop := s.count Obj.rtpDiscard n
  .next (
    if !s.srcOn n || s.num Obj.dpLink (s.num Obj.srcPort n) == 0 then s
    else if pkt.version != 2 || pkt.pt != s.num Obj.srcPt n then drop
    else
      let g := (s.stream n).ing
      if g.ssrc.isNone && g.oldSsrc.isSome && !pkt.supported then drop
      else if (match g.ssrc with | some x => x != pkt.ssrc | none => false) then drop
      else
        let s := if g.ssrc.isNone then s.lockSsrc n pkt.ssrc else s
        let s := s.modIng n (fun g => { g with lastPkt := s.clk.now })
        if !pkt.supported then s.count Obj.rtpDiscard n
        else
          let g := (s.stream n).ing
          let e := extSeq g.maxSeq pkt.seq
          let below := match g.released with | some r => decide (e ≤ r) | none => false
          if g.held.any (fun h => h.ext == e) || (below && decide (g.first ≤ e) && !g.lost.contains e) then s.count Obj.rtpDup n
          else if below then s.count Obj.rtpLate n
          else s.modIng n (fun g => { g with
            maxSeq := some (max e (g.maxSeq.getD 0))
            held := insHeld g.held { ext := e, pkt := pkt, arrived := s.clk.now, lode := s.clk.lode,
                                       epoch := s.epochBefore s.clk.lode } }))

/-- SSRC_TIMEOUT: no packet of the locked SSRC for 2 s. -/
def execSsrcTimeout (st : StreamId) (s : State) : Host.Outcome State Fault Refusal :=
  let g := (s.stream st).ing
  .next (
    if !s.srcOn st || s.num Obj.srcSsrc st != 0 || g.ssrc.isNone then s
    else (s.advanceTo (g.lastPkt + 2000 * ms)).modIng st (fun g => { g with ssrc := none, oldSsrc := g.ssrc }))

/-- STREAM_STALL_TIMEOUT: no access unit completes for SRC_TIMEOUT ms. -/
def execStreamStallTimeout (st : StreamId) (s : State) : Host.Outcome State Fault Refusal :=
  let g := (s.stream st).ing
  if !s.srcOn st || g.stalled then .next s else
  let t := s.advanceTo (g.lastAu + s.num Obj.srcTimeout st * ms)
  let t := (t.modIng st (fun g => { g with stalled := true })).syncSrc st
  done s (t.postEvent 0x0307 st (le 8 g.lastAuLode))

/-! ## Access units (R315 to R317, R321, R322) -/

/-- A unit is dropped before acceptance. -/
def State.dropUnit (s : State) (n : Nat) (u : AccessUnit) (cause : Nat) : State :=
  ((s.freeSet n u.set).noteDrop n).postEvent 0x0303 n (le 4 u.number ++ le 1 cause)

/-- An incomplete unit in DROP mode. -/
def State.truncUnit (s : State) (n : Nat) (u : AccessUnit) : State :=
  (((s.freeSet n u.set).noteDrop n).postEvent 0x0302 n (le 4 u.number ++ le 2 St.inputTruncated ++ le 1 0x10)).awaitIrap n

/-- Complete units of stream n that the decoder holds. -/
def State.unitsHeld (s : State) (n : Nat) : Nat :=
  (s.stream n).ing.units.length + (s.media.decoding.filter (fun d => d.2.1 == n)).length

/-- A unit goes to the decoder with an output set, if one is free. -/
def State.queueUnit (s : State) (n : Nat) (u : AccessUnit) : State :=
  if 4 ≤ s.unitsHeld n then
    let s := s.dropUnit n u 0x14
    if u.refPic then s.awaitIrap n else s
  else
    let s := s.modIng n (fun g => { g with lastTs := some u.ts, waitIrap := if u.irap then false else g.waitIrap
                                           concealing := if u.irap && !u.concealed then false else g.concealing || u.concealed })
    let conc := u.concealed || (s.stream n).ing.concealing
    let s := if conc then s.count Obj.auConcealed n else s
    let s := s.syncSrc n
    let u := { u with concealed := conc }
    match s.takeSet n with
    | none => (s.dropUnit n u 0x13).modIng n (fun g => { g with units := g.units ++ [u] })
    | some set =>
      let s := match set with | some k => s.modStream n (fun x => { x with setsUsed := ins x.setsUsed k }) | none => s
      s.modIng n (fun g => { g with units := g.units ++ [{ u with set := set }] })

/-- An access unit is complete. -/
def State.completeUnit (s : State) (n : Nat) (u : AccessUnit) : State :=
  let k := (s.stream n).ing.unitCount + 1
  let u := { u with number := k % 2 ^ 32, done := s.clk.now }
  let s := (s.modIng n (fun g => { g with unitCount := k, lastAu := s.clk.now, lastAuLode := s.clk.lode, stalled := false })).syncSrc n
  let s := (s.modStream n (fun x => { x with lastSof := u.sof, lastSofMono := u.sofMono, lastFrame := u.number }))
  let s := (s.adopt n u.epoch).settleAffinity n
  let g := (s.stream n).ing
  let conceal := s.num Obj.srcConceal n == 1
  let s := if u.lost != 0 then s.count Obj.auIncomplete n else s
  if u.lost != 0 && !conceal then s.truncUnit n u
  else if (match g.lastTs with | some t => decide ((u.ts - t).toInt ≤ 0) | none => false) then
    ((s.count Obj.tsRegress n).dropUnit n u 0x12).awaitIrap n
  else if (g.waitIrap || g.fault) && !u.irap then s.dropUnit n u 0x11
  else s.queueUnit n { u with concealed := u.lost != 0 }

/-- One packet is released: the unit before it may end at its timestamp, and its own ends at its marker. -/
def State.releasePacket (s : State) (n : Nat) (h : Held) : State :=
  let g := (s.stream n).ing
  let gap := match g.released with | some r => (List.range (h.ext - r - 1)).map (fun i => r + 1 + i) | none => []
  let s := (s.count Obj.rtpPkts n).count Obj.rtpLost n gap.length
  let s := match g.au with
    | some a => if a.ts != h.pkt.ts then (s.modIng n (fun g => { g with au := none })).completeUnit n a else s
    | none => s
  let s := s.modIng n (fun g => { g with
    first := if g.released.isNone then h.ext else g.first, released := some h.ext, lost := g.lost ++ gap })
  let a : AccessUnit := match (s.stream n).ing.au with
    | some a => a
    | none => { ts := h.pkt.ts, sof := h.lode, sofMono := h.arrived, epoch := h.epoch, packets := 0, lost := 0, irap := false, refPic := false
                ssrc := h.pkt.ssrc, body := [], number := 0, done := 0, set := none, concealed := false, width := 0
                height := 0 }
  let earlier := decide (h.arrived < a.sofMono)
  let a := { a with packets := a.packets + 1, lost := a.lost + gap.length, irap := a.irap || h.pkt.irap
                    refPic := a.refPic || h.pkt.refPic, body := a.body ++ h.pkt.body
                    sof := if earlier then h.lode else a.sof, sofMono := if earlier then h.arrived else a.sofMono
                    epoch := if earlier then h.epoch else a.epoch }
  if h.pkt.marker then (s.modIng n (fun g => { g with au := none })).completeUnit n a
  else s.modIng n (fun g => { g with au := some a })

/-- RTP_RELEASE: the hold of the longest-held packet ends; it and every packet before it are released in order, and the
numbers missing between them are lost. -/
def execRtpRelease (st : StreamId) (s : State) : Host.Outcome State Fault Refusal :=
  if s.power.tripped then .next s else
  let n := st.val
  let g := (s.stream n).ing
  if !s.srcOn n then .next s else
  match minBy (fun h => h.arrived) g.held with
  | none => .next s
  | some h =>
    let t := s.advanceTo (h.arrived + s.num Obj.srcJitter n * ms)
    let t := t.modIng n (fun g => { g with held := g.held.filter (fun x => decide (h.ext < x.ext)) })
    done s ((g.held.filter (fun x => decide (x.ext ≤ h.ext))).foldl (fun s x => s.releasePacket n x) t)

/-! ## Decoding and conversion (R316, R319 to R323, R402) -/

/-- DECODE_START (R321): the core's oldest complete unit, the lowest stream on a tie. -/
def execDecodeStart (core : Fin 4) (s : State) : Host.Outcome State Fault Refusal :=
  if s.power.tripped then .next s else
  let l := (List.range 48).flatMap (fun n =>
    if s.srcOn n && s.num Obj.decCore n == core.val then ((s.stream n).ing.units.take 1).map (fun u => (n, u)) else [])
  .next (
    if s.media.decoding.any (fun d => d.1 == core.val) then s else
    match minBy (fun x => x.2.done) l with
    | none => s
    | some (n, u) =>
      let s := s.modIng n (fun g => { g with units := g.units.drop 1 })
      { s with media := { s.media with decoding := s.media.decoding ++ [(core.val, n, u)] } })

/-- TIMECODE of the record: bit 63, hours, minutes, seconds and frame count; the other bits are zero, all of them where the
unit carries none (R323). -/
def timecodeField (t : Nat) : Nat := if t.testBit 63 then t &&& 0x80FFFFFFFFFF0000 else 0

/-- The frame record (R323). -/
def State.frameRecord (s : State) (n : Nat) (u : AccessUnit) (e : DecodeEnd) : Bytes :=
  le 1 n ++ le 1 ((if u.lost == 0 && !e.error then 1 else 0) + (if u.concealed then 2 else 0) + (if u.irap then 4 else 0))
    ++ le 1 (s.num Obj.srcCodec n) ++ zeros 1 ++ le 4 u.number ++ le 4 u.ts.toNat ++ le 4 u.ssrc.toNat ++ le 8 u.sof
    ++ le 8 s.clk.lode ++ le 8 (timecodeField e.timecode) ++ le 2 e.width ++ le 2 e.height ++ le 2 u.packets ++ le 2 u.lost ++ zeros 16

/-- The timecode of a frame that will be accepted, against the one before it (R402, R403). -/
def State.detectTimecode (s : State) (n number tc : Nat) : State :=
  let g := (s.stream n).ing
  let present := tc.testBit 63
  let same := present && tc == g.lastTc
  let run := if same then g.tcRun + 1 else if present then 1 else 0
  let s := s.modIng n (fun g => { g with tcRun := run, lastTc := tc })
  if (s.stream n).frozen then
    (if present && !same then s.modStream n (fun x => { x with frozen := false }) else s)
  else if s.num Obj.frozenK ≤ run then s.declareFrozen n number 3
  else s

/-- Device address of output set k of stream n. -/
def State.setAddr (s : State) (n : Nat) (set : Option Nat) : Option Nat :=
  match (s.stream n).sets, set with
  | some (p, per, _), some k => some ((p + per * k) * pageBytes)
  | _, _ => none

/-- The record of a unit that has reached the decoder goes to DEC_LAST and to the head of its set (R323). -/
def State.recorded (s : State) (n : Nat) (u : AccessUnit) (e : DecodeEnd) : State :=
  let rec' := s.frameRecord n u e
  let s := s.setBlob Obj.decLast n rec'
  match s.setAddr n u.set with
  | none => s
  | some a => s.writeBytes a rec'

/-- A decoded unit: its conversion is due. -/
def State.decoded (s : State) (n : Nat) (u : AccessUnit) (e : DecodeEnd) : State :=
  match s.setAddr n u.set with
  | none => s
  | some _ =>
    let s := s.detectTimecode n u.number (timecodeField e.timecode)
    s.modIng n (fun g => { g with converting := g.converting ++ [{ u with width := e.width, height := e.height }] })

/-- Decoding of stream n goes on at its next IRAP unit: units before it that wait for the decoder are dropped, and where none
of them is one, or arrivals waited already, the stream waits for it (R320). -/
def State.decodeFromIrap (s : State) (n : Nat) (was : Bool) : State :=
  let l := (s.stream n).ing.units
  let lost := l.takeWhile (fun u => !u.irap)
  let s := s.modIng n (fun g => { g with units := l.drop lost.length, waitIrap := was || lost.length == l.length })
  (lost.foldl (fun s u => s.dropUnit n u 0x11) s).syncSrc n

/-- DECODE_DONE: parameter sets beyond the admitted profile, level or size put the stream in FAULT; an error makes the
unit incomplete. -/
def execDecodeDone (core : Fin 4) (e : DecodeEnd) (s : State) : Host.Outcome State Fault Refusal :=
  if s.power.tripped then .next s else
  match s.media.decoding.find? (fun d => d.1 == core.val) with
  | none => .next s
  | some d =>
    let n := d.2.1
    let u := d.2.2
    let t := { s with media := { s.media with decoding := s.media.decoding.filter (fun x => x.1 != core.val) } }
    done s (
      if !t.srcOn n then (t.freeSet n u.set).freeRefs n
      else if !e.conforms || decide (t.num Obj.srcWidth n < e.width) || decide (t.num Obj.srcHeight n < e.height) then
        let t := (t.recorded n u { e with error := true }).dropUnit n u 0x11
        if (t.stream n).ing.fault then t else
        ((t.modIng n (fun g => { g with fault := true })).postEvent 0x0305 n (le 4 u.number)).syncSrc n
      else if (t.stream n).ing.fault && !u.irap then (t.recorded n u e).dropUnit n u 0x11
      else
        let t := (t.modIng n (fun g => { g with fault := false })).syncSrc n
        if !e.error then (t.recorded n u e).decoded n u e
        else
          let t := if u.lost == 0 then t.count Obj.auIncomplete n else t
          if t.num Obj.srcConceal n == 0 then ((t.recorded n u e).truncUnit n u).decodeFromIrap n (t.stream n).ing.waitIrap
          else
            let t := if u.concealed then t else t.count Obj.auConcealed n
            let u := { u with concealed := true }
            ((t.modIng n (fun g => { g with concealing := true })).recorded n u e).decoded n u e)

/-- CONVERSION_DONE: the conversion task has written the outputs; the frame is complete. -/
def execConversionDone (st : StreamId) (s : State) : Host.Outcome State Fault Refusal :=
  if s.power.tripped then .next s else
  let n := st.val
  match (s.stream n).ing.converting with
  | [] => .next s
  | u :: rest =>
    if !s.runs P.scp || !s.runs P.mdp || !s.work.replayDone then .next s else
    let t := s.modIng n (fun g => { g with converting := rest })
    .next (match t.setAddr n u.set with
      | none => t
      | some a =>
        let e := u.epoch
        let ps := (t.epochVal e (Obj.srcConvert.key n) Obj.srcConvert.dflt).bytes
        let (v, t) := t.draw
        let x := Config.decodedSamples u.body u.width u.height v
        let x := if t.num Obj.srcCodec n == 2 && t.num Obj.srcProfile n == 2 then x.map roundTen else x
        let t := t.writeBytes (a + 64) (pictureBytes ps (t.num Obj.srcWidth n) (t.num Obj.srcHeight n) x v)
        let t := t.written n u.sof u.sofMono
        let f : Frame := { number := u.number, csiFn := 0, sof := u.sof, sofMono := u.sofMono, epoch := e, gen := 0
                           lines := [], ended := [], digest := 0, spilled := false, dropped := false, set := u.set
                           tcause := if u.concealed then 0x10 else 0, feTime := t.clk.lode, feMono := t.clk.now, held := !t.accepts }
        if (t.stream n).attach.isSome then t.modStream n (fun x => { x with complete := x.complete ++ [f] })
        else (t.noteDrop n).freeSet n u.set)

/-! ## Encode requests (R324 to R326) -/

def encStream (r : Bytes) : Nat := fld r 1 1

/-- Table — Encode request's field ranges. -/
def encFields (r : Bytes) : Bool :=
  let t := fld r 0 1
  r.length == 32 && (t == 1 || t == 2) && decide (encStream r < 48) && decide (fld r 2 1 ≤ 1)
    && (if t == 2 then decide (1 ≤ fld r 3 1 ∧ fld r 3 1 ≤ 100)
        else fld r 3 1 == 0 && decide (1 ≤ fld r 6 2 ∧ fld r 6 2 ≤ 300) && decide (1 ≤ encFrames r ∧ encFrames r ≤ 1800)
          && decide (500 ≤ fld r 12 4 ∧ fld r 12 4 ≤ 50000))
    && encDest r % 64 == 0 && decide (4096 ≤ encLen r ∧ encLen r ≤ 2 ^ 30) && fld r 28 4 == 0

/-- Pixel rate of a stream: width, height and maximum frame rate. -/
def State.streamRate (s : State) (n : Nat) : Nat :=
  if s.rawOn n then s.num Obj.rawWidth n * s.num Obj.rawHeight n * s.num Obj.rawFpsMax n else s.srcRate n

def State.clipStreams (s : State) : List Nat := upTo 48 (fun n => (s.stream n).clip.isSome)

/-- The lowest H.265 encoder core with room for stream n. -/
def State.encCore (s : State) (n : Nat) : Option Nat :=
  (List.range 2).find? (fun c =>
    decide (sumOf s.streamRate (s.clipStreams.filter (fun m => match (s.stream m).clip with | some x => x.core == c | none => false))
      + s.streamRate n ≤ 500000000))

def encRule : WriteRule :=
  { check := fun _ v => match v with | .blob r => encFields r | .num _ => false
    pre := fun s v => match v with
      | .num _ => 0
      | .blob r =>
        let n := encStream r
        if !s.pagesOk (fun e => !e.sys && e.wr && e.hrd) (encDest r) (encLen r) then St.pageRights
        else if !s.enabled n || (s.stream n).clip.isSome then St.stateConflict
        else if fld r 0 1 == 1 then (if 16 ≤ s.clipStreams.length || (s.encCore n).isNone then St.busy else 0)
        else if 16 ≤ s.media.snaps.length then St.busy else 0
    apply := fun s v => match v with
      | .num _ => s
      | .blob r =>
        let n := encStream r
        if fld r 0 1 == 1 then
          s.modStream n (fun x => { x with clip := some { since := s.clk.now, req := r, frames := 0, used := 0, sof := 0
                                                          ending := none, core := (s.encCore n).getD 0 } })
        else { s with media := { s.media with snaps := s.media.snaps ++
          [{ stream := n, since := s.clk.now, req := r, sof := none }] } } }

/-- ENC_REQ with TYPE CLIP. -/
def execEncClip (w : BlobW) (s : State) : Host.Outcome State Fault Refusal :=
  .next (s.hostBlob (.encClip w) w Obj.encReq 0 encRule)

/-- ENC_REQ with TYPE SNAPSHOT. -/
def execEncSnapshot (w : BlobW) (s : State) : Host.Outcome State Fault Refusal :=
  .next (s.hostBlob (.encSnapshot w) w Obj.encReq 0 encRule)

/-- CLIP_DONE: a clip has ended. -/
def execClipDone (st : StreamId) (s : State) : Host.Outcome State Fault Refusal :=
  if s.power.tripped then .next s else
  .next (match (s.stream st).clip with
    | none => s
    | some c =>
      match c.ending with
      | none => s
      | some x =>
        (s.modStream st (fun x => { x with clip := none })).postEvent 0x0308 st
          (cut c.req 4 2 ++ le 2 x ++ le 4 c.frames ++ le 4 c.used ++ zeros 4 ++ le 8 c.sof))

/-- SNAP_DONE: the JPEG encoder serves snapshots in request order. -/
def execSnapDone (st : StreamId) (s : State) : Host.Outcome State Fault Refusal :=
  if s.power.tripped then .next s else
  .next (match s.media.snaps with
    | [] => s
    | x :: rest =>
      match x.sof with
      | none => s
      | some sof =>
        if x.stream != st.val then s else
        let s := { s with media := { s.media with snaps := rest } }
        let (v, s) := s.draw
        let b := Config.encode x.req v
        let fits := decide (b.length ≤ encLen x.req)
        let s := s.writeBytes (encDest x.req) (b.take (encLen x.req))
        s.postEvent 0x0309 st (cut x.req 4 2 ++ le 2 (if fits then St.ok else St.resourceOverflow) ++ le 4 b.length
          ++ zeros 4 ++ le 8 sof))

end Sys2Proof.Machine
end

