-- ==== Sys2Proof/Machine/SafeRows.lean ====
section
/-! DEFINITION. Safe state, safety heartbeats, report timers and golden tests (chapter "Safe state, the safety port and
diagnostic coverage", R386 to R408). -/

namespace Sys2Proof.Machine

/-! ## SAFE_FORCE (R391) -/

def safeForceRule : WriteRule :=
  WriteRule.cmd
    (fun s v => if v == 2 && !(s.safety.causes.getLsbD 5) then St.stateConflict else 0)
    (fun s v => if v == 1 then s.enterCause 5 else s.leaveCause 5)

/-- SAFE_FORCE_ENTER. -/
def execSafeForceEnter (w : CmdW) (s : State) : Host.Outcome State Fault Refusal :=
  done s (s.hostWrite (.safeForceEnter w) w Obj.safeForce 0 safeForceRule)

/-- SAFE_FORCE_END. -/
def execSafeForceEnd (w : CmdW) (s : State) : Host.Outcome State Fault Refusal :=
  done s (s.hostWrite (.safeForceEnd w) w Obj.safeForce 0 safeForceRule)

/-! ## Timers of a stream's report (R388) -/

/-- DEADLINE_EXPIRY: an accepted frame is decided by its deadline. -/
def execDeadlineExpiry (st : StreamId) (s : State) : Host.Outcome State Fault Refusal :=
  match minBy (fun u : Nat × Nat × Nat × Nat => u.2.2.1) (s.stream st).undecided with
  | none => .next s
  | some (mono, sof, dl, epoch) =>
    let t := s.advanceTo dl
    done s (t.decideFrame st mono sof epoch St.deadlineMissed 4)

/-- The freshness limit of stream n in ns. -/
def State.freshLimit (s : State) (n : Nat) : Nat :=
  max (s.num Obj.staleMs) (s.deadlineOf n (s.stream n).epoch) * ms

/-- STALE_EXPIRY: no later frame has made the report VALID again. -/
def execStaleExpiry (st : StreamId) (s : State) : Host.Outcome State Fault Refusal :=
  let x := s.stream st
  match x.validSof with
  | none => .next s
  | some t =>
    if x.reason != 0 then .next s
    else done s ((s.advanceTo (t + s.freshLimit st)).invalidate st (max 3 (s.standing st)))

/-! ## Safety frames (R395, R396) -/

/-- SAFETY_HEARTBEAT: 10 ms since the previous frame; the frame generator sends it while the SFP restarts too. -/
def execSafetyHeartbeat (s : State) : Host.Outcome State Fault Refusal :=
  .next (
    if s.rst.phase == .powerReset || !s.safetySends then s
    else (s.advanceTo (s.safety.lastSent + 10 * ms)).sendSafety 2 0xFF 0 0 0)

/-! ## Device-level causes -/

/-- A fault record whose STATUS and DETAIL no chapter states. -/
def State.postOpen (s : State) (scope unit : Nat) : State :=
  let (a, s) := s.draw
  let (b, s) := s.draw
  s.postFault (a % 2 ^ 16) scope unit (le 16 b)

/-- LOCKSTEP_MISMATCH (R390, R391). -/
def execLockstepMismatch (s : State) : Host.Outcome State Fault Refusal :=
  if !s.runs P.sfp then .next s else done s ((s.postOpen 0 0x23).enterCause 2)

/-- Cause 0 may end (R392). -/
def State.startDone (s : State) : Bool :=
  s.safety.causes.getLsbD 0 && s.rst.phase == .starting && s.runs P.sfp && s.runs P.scp && s.work.replayDone
    && s.slicesInService.all (fun n => (s.slice n).golden.completed)

/-- CAUSE0_RELEASE (R392, R491): start-up or the warm reset has ended. -/
def execCause0Release (s : State) : Host.Outcome State Fault Refusal :=
  if !s.startDone then .next s else
  let t := s.setNum Obj.startupMs 0 ((s.clk.now - s.rst.t0) / ms)
  let t := { t with rst := { t.rst with phase := .running } }
  let t := t.leaveCause 0
  done s (t.postEvent 0x0101 0xFFFF
    (le 1 (s.num Obj.resetCause) ++ zeros 3 ++ le 4 (min 0xFFFFFFFF ((s.clk.now - s.rst.t0) / us))))

/-! ## Golden tests (R404 to R406) -/

/-- GOLDEN_TEST_DUE: DIAG_INTERVAL after the slice's last completed test. A slice without a job begins it at once, as
twilight work. -/
def execGoldenTestDue (sl : SliceId) (s : State) : Host.Outcome State Fault Refusal :=
  let n := sl.val
  let g := (s.slice n).golden
  if !s.inService n || !s.runs P.scp || g.due.isSome || g.running then .next s else
  let t := s.advanceTo (g.lastEnd + s.num Obj.diagInterval * ms)
  .next (t.modGolden n (fun g => { g with due := some t.clk.now, running := (s.slice n).run.isNone && !s.work.shedding }))

/-- GOLDEN_TEST_OVERDUE: due for 500 ms. -/
def execGoldenTestOverdue (sl : SliceId) (s : State) : Host.Outcome State Fault Refusal :=
  let n := sl.val
  match (s.slice n).golden.due with
  | none => .next s
  | some d =>
    if !s.inService n || (s.slice n).golden.overdue then .next s
    else .next ((s.advanceTo (d + 500 * ms)).modGolden n (fun g => { g with overdue := true }))

/-- A golden test can be running on slice n: no job runs there, its sequencer is not stopped (R406), shedding spares it
(R427), the SCP dispatched it and the SFP judges it. -/
def State.testing (s : State) (n : Nat) : Bool :=
  let x := s.slice n
  (x.golden.due.isSome || x.golden.running) && x.run.isNone && x.seq.mode != .stopped && s.runs P.scp && s.runs P.sfp
    && (s.inService n || x.resetting.isSome) && (x.golden.overdue || !s.work.shedding)

/-- The single slice reset of slice n completes (R485). -/
def State.endReset (s : State) (n : Nat) : State :=
  match (s.slice n).resetting with
  | none => s
  | some t0 =>
    let s := s.modSlice n (fun x => { x with resetting := none })
    (s.postEvent 0x0102 0xFFFF (le 1 n ++ zeros 3 ++ le 4 ((s.clk.now - t0) / us))).nextReset

/-- A golden test on slice n has passed. -/
def State.passTest (s : State) (n : Nat) : State :=
  let g := (s.slice n).golden
  let s := s.count Obj.goldenPass n
  let s := s.modGolden n (fun g => { g with
    due := none, overdue := false, running := false, variant := (g.variant + 1) % 16, repeated := false
    lastEnd := s.clk.now, completed := true, lapsed := false })
  let s := if g.lapsed then s.postEvent 0x0505 0xFFFF (le 1 n) else s
  let s := s.endReset n
  if g.repeated then s.strike n (s.slice n).runs 1 else s

/-- A golden test on slice n has failed: it is repeated at once with the same variant; the failed repeat, the first test
of a cold start and the test of a slice reset retire the slice (R405, R483, R485). -/
def State.failTest (s : State) (n : Nat) : State :=
  let g := (s.slice n).golden
  let s := s.count Obj.goldenFail n
  if (s.slice n).resetting.isSome then s.retireSlice n 3
  else if g.repeated || (!g.completed && s.rst.phase == .starting && s.num Obj.resetCause == 0) then s.retireSlice n 2
  else s.modGolden n (fun g => { g with
    due := some s.clk.now, overdue := true, running := true, repeated := true })

/-- GOLDEN_TEST_END. -/
def execGoldenTestEnd (sl : SliceId) (pass : Bool) (s : State) : Host.Outcome State Fault Refusal :=
  let n := sl.val
  if !s.testing n then .next s
  else done s (if pass then s.passTest n else s.failTest n)

/-- COVERAGE_LAPSE: a slice in service has gone 1 s without completing a test. -/
def execCoverageLapse (sl : SliceId) (s : State) : Host.Outcome State Fault Refusal :=
  let n := sl.val
  let g := (s.slice n).golden
  if !s.inService n || !s.runs P.sfp || g.lapsed then .next s else
  let t := s.advanceTo (g.lastEnd + 1000 * ms)
  let t := (t.modGolden n (fun g => { g with lapsed := true })).count Obj.lapses n
  done s (t.postEvent 0x0504 0xFFFF (le 1 n ++ zeros 3 ++ le 4 ((t.clk.now - g.lastEnd) / ms)))

end Sys2Proof.Machine
end

