-- ==== Sys2Proof/Machine/Power.lean ====
section
/-! DEFINITION. Power domains, clocks and ceilings, the cap, the current governor, temperatures and regulator alarms
(chapter "Power domains, caps, current shaping and energy accounting", R409 to R435; the thermal trip, R425). -/

namespace Sys2Proof.Machine

/-! ## Operating points (R412, R413) -/

/-- VDD_CORE in mV for a slice clock in MHz: linear between the points of Table — Slice operating points, rounded up to a
multiple of 5 mV. -/
def mvFor (f : Nat) : Nat :=
  let exact10 := if f ≤ 800 then 6500 + (f - 400) * 2 else if f ≤ 1000 then 7300 + (f - 800) * 3 else 7900 + (f - 1000) * 3
  (exact10 + 49) / 50 * 5

/-- More than four failed sensors (R422). -/
def State.sensorsLost (s : State) : Bool :=
  decide (4 < (upTo 32 (fun k => (s.num Obj.sensorFailed).testBit k)).length)

/-- A thermal emergency is in force (R422, R424). -/
def State.thermalEm (s : State) : Bool := s.power.clamp110 || s.sensorsLost

/-- The cap ceilings have reached 0.4 GHz and chip power still exceeds POWER_CAP (R417). -/
def State.capShort (s : State) : Bool :=
  decide (0 < s.power.overMw) && s.slicesInService.all (fun n => s.num Obj.capCeil n ≤ 400)

/-- The ceiling of slice n without hardware clamps. -/
def State.softCeil (s : State) (n : Nat) : Nat :=
  min (min 1200 (s.num Obj.capCeil n)) (min (s.num Obj.thermCeil n) s.power.emCeil)

/-- The ceiling of slice n (R413, R424, R428). -/
def State.ceiling (s : State) (n : Nat) : Nat :=
  let c := if s.power.clamp110 then min 400 (s.softCeil n) else s.softCeil n
  if s.power.vrHot then min c (s.num Obj.vrhotClock) else c

/-- A slice's clock follows its ceiling: down at once with the voltage after it, a clamp leaving the voltage; up by way
of the voltage, with the clock to follow when it has settled (R413). -/
def State.followCeil (s : State) (n : Nat) : State :=
  let c := s.ceiling n
  let soft := s.softCeil n
  s.modPslice n (fun p =>
    if c < p.mhz then { p.clocked c with mv := max (mvFor c) (min p.mv (mvFor soft)), settling := none }
    else if p.mhz < c then
      if (p.settling.map (·.1)) == some c then p
      else { p with mv := max p.mv (mvFor c), settling := some (c, s.clk.now) }
    else { p with mv := min p.mv (mvFor soft), settling := none })

def State.followAll (s : State) : State := if s.power.tripped then s else (List.range 6).foldl (fun s n => s.followCeil n) s

/-- The PWP sets the clocks at its start. -/
def State.setClocks (s : State) : State :=
  (List.range 6).foldl (fun s n => s.modPslice n (fun p => { p.clocked (s.ceiling n) with mv := mvFor (s.softCeil n), settling := none })) s

/-! ## POWER_STATE (R429) -/

/-- The highest of the states in force. -/
def State.powerStateNow (s : State) : Nat :=
  if s.power.powerEm then 4
  else if s.thermalEm then 3
  else if (List.range 6).any (fun n => s.num Obj.thermCeil n < 1200) || s.power.vrHot || s.power.regs.any (fun r => r.2.hot) then 2
  else if (List.range 6).any (fun n => s.num Obj.capCeil n < 1200) then 1 else 0

/-- Tj in thousandths of a degree, when a sensor that is not failed has been read (R422). -/
def State.tj (s : State) : Option Int :=
  (s.power.temps.filter (fun t => !t.2.failed)).foldl (fun a t => match a with
    | none => some t.2.milliC
    | some b => some (max b t.2.milliC)) none

def milliF (i : Int) : Word := fdiv (fOfInt i) (fOfInt 1000)

/-- TJ_NOW as F32 bits. -/
def State.tjBits (s : State) : Nat := (milliF (s.tj.getD 0)).toNat

/-- The activation that waits for a calm device counts its 10 s from the last return below 3 (R453). -/
def State.noteCalm (s : State) (p : Nat) : State :=
  { s with fw := { s.fw with pending := s.fw.pending.map (fun (x : Nat × Nat × Nat × Option Nat) =>
      (x.1, x.2.1, x.2.2.1, if 3 ≤ p then none else some (x.2.2.2.getD s.clk.now))) } }

/-- What the PWP makes of the conditions in force: POWER_STATE with its counters and its event, shedding (R427), clocks.
cause is that of POWER_EVENT. While the PWP restarts only the hardware acts (R430). -/
def State.refreshPower (s : State) (cause : Nat) : State :=
  if !s.runs P.pwp then s.followAll else
  let old := s.num Obj.powerState
  let new := s.powerStateNow
  let s := { s with work := { s.work with shedding := s.power.powerEm || s.thermalEm || s.capShort } }
  let s := s.followAll.noteCalm new
  if old == new then s else
  let s := s.setNum Obj.powerState 0 new
  let s := if new == 2 then s.count Obj.throttleEvents else s
  s.postEvent 0x0601 0xFFFF
    (le 1 old ++ le 1 new ++ le 1 cause ++ zeros 1 ++ le 4 s.tjBits ++ le 4 (s.num Obj.powerNow))

/-- Slice n's ceiling r one step down, not below 0.4 GHz; one step up, not above 1.2 GHz. -/
def State.stepDown (s : State) (r : ObjRow) (n : Nat) : State := s.setNum r n (max 400 (s.num r n - 25))
def State.stepUp (s : State) (r : ObjRow) (n : Nat) : State := s.setNum r n (min 1200 (s.num r n + 25))

/-- Totals of energy in mJ (R431, R434). -/
def State.addEnergy (s : State) (m : MeterRead) : State :=
  let s := ((s.count Obj.energyTotal 0 m.totalMj).count Obj.energyUnattrib 0 m.noJobMj).count Obj.energyTwilight 0 m.twilightMj
  (List.range 6).foldl (fun s n => s.count Obj.sliceEnergy n (m.sliceMj.getD n 0)) s

/-- Chip power lies above the cap, or a regulator warns of its temperature (R416, R428). -/
def State.capAbove (s : State) (milliW : Nat) : Bool :=
  decide (s.num Obj.powerCap * 1000 < milliW) || s.power.regs.any (fun r => r.2.hot)

/-- Evaluations in a row with chip power at least 1 W below the cap, this one included (R416). -/
def State.capCalm (s : State) (milliW : Nat) : Nat :=
  if !s.capAbove milliW && decide (milliW + 1000 ≤ s.num Obj.powerCap * 1000) then s.power.calm + 1 else 0

/-- One evaluation's step of the cap ceilings (R416). -/
def State.capStep (s : State) (above : Bool) (calm : Nat) : State :=
  if above then s.slicesInService.foldl (fun s n => s.stepDown Obj.capCeil n) s
  else if 10 ≤ calm then s.slicesInService.foldl (fun s n => s.stepUp Obj.capCeil n) s else s

/-- The time and the energy of one evaluation. -/
def State.metered (s : State) (m : MeterRead) : State :=
  let t := (s.advanceTo (s.power.lastEval + ms)).addEnergy m
  { t with power := { t.power with lastEval := t.clk.now } }

/-- What one evaluation keeps of chip power. -/
def State.noteChip (s : State) (milliW excess calm : Nat) : State :=
  let t := s.setNum Obj.powerNow 0 (milliF milliW).toNat
  { t with power := { t.power with overMw := excess, calm := calm } }

/-- POWER_CAP_EVAL (R415 to R417): every 1 ms. -/
def execPowerCapEval (m : MeterRead) (s : State) : Host.Outcome State Fault Refusal :=
  if s.rst.phase == .powerReset then .next s else
  if !s.runs P.pwp then .next (s.metered m) else
  let t := (s.metered m).noteChip m.milliW (m.milliW - s.num Obj.powerCap * 1000) (s.capCalm m.milliW)
  done s ((t.capStep (s.capAbove m.milliW) (s.capCalm m.milliW)).refreshPower 1)

/-- The ceilings that a power emergency lowered rise one step every 10 ms after it (R428). -/
def State.riseEm (s : State) : State :=
  if s.power.powerEm || 1200 ≤ s.power.emCeil || decide (s.clk.now < s.power.emRise + 10 * ms) then s
  else { s with power := { s.power with emCeil := min 1200 (s.power.emCeil + 25), emRise := s.clk.now } }

/-- The thermal loop's step for a temperature in thousandths of a degree (R423). -/
def State.thermStep (s : State) (tj : Int) : State :=
  let limit : Int := (s.num Obj.throttleC * 1000 : Nat)
  let all (s : State) (f : State → Nat → State) : State := (List.range 6).foldl f s
  if limit < tj then
    all { s with power := { s.power with coolFrom := none } } (fun s n => s.stepDown Obj.thermCeil n)
  else if limit - 2000 ≤ tj then { s with power := { s.power with coolFrom := none } }
  else match s.power.coolFrom with
    | none => { s with power := { s.power with coolFrom := some s.clk.now } }
    | some c =>
      if s.power.clamp110 || decide (s.clk.now < c + 100 * ms) || decide (s.clk.now < s.power.lastRise + 10 * ms) then s
      else all { s with power := { s.power with lastRise := s.clk.now } } (fun s n => s.stepUp Obj.thermCeil n)

/-- A step of the loop is 1 ms after the one before. -/
def State.thermTime (s : State) : State :=
  let t := s.advanceTo (s.power.lastStep + ms)
  { t with power := { t.power with lastStep := t.clk.now } }

/-- The loop acts on the junction temperature where a sensor has given one. -/
def State.thermTj (s : State) : State := match s.tj with | some j => s.thermStep j | none => s

/-- THERMAL_LOOP_STEP (R423): every 1 ms. -/
def execThermalLoopStep (s : State) : Host.Outcome State Fault Refusal :=
  if !s.runs P.pwp then .next s else
  done s ((s.thermTime.thermTj.riseEm).refreshPower 2)

/-! ## Temperatures (R422 to R425) -/

def Temp.init : Temp := { milliC := 0, failed := false, updated := 0 }

/-- Sensor k fails: it is excluded from Tj from then on. -/
def State.failSensor (s : State) (k : Nat) : State :=
  let x := tget Temp.init s.power.temps k
  let s := { s with power := { s.power with temps := tput s.power.temps k { x with failed := true } } }
  let lost := s.sensorsLost
  let s := s.setNum Obj.sensorFailed 0 (s.num Obj.sensorFailed ||| 2 ^ k)
  let s := if !lost && s.sensorsLost && !s.power.clamp110 then s.count Obj.thermEmergencies else s
  s.postEvent 0x0602 0xFFFF (le 1 k ++ zeros 3 ++ le 4 (milliF x.milliC).toNat)

/-- One sensor's reading. -/
def State.readSensor (s : State) (r : TempRead) : State :=
  let k := r.sensor.val
  let x := tget { Temp.init with updated := s.clk.now } s.power.temps k
  if x.failed then s else
  match r.milliC with
  | some t =>
    let s := { s with power := { s.power with temps := tput s.power.temps k { x with milliC := t, updated := s.clk.now } } }
    if t < -55000 || 150000 < t then s.failSensor k else s
  | none =>
    let s := { s with power := { s.power with temps := tput s.power.temps k x } }
    if x.updated + ms ≤ s.clk.now then s.failSensor k else s

/-- SENSOR_READ (R422): every 100 µs. -/
def execSensorRead (rs : List TempRead) (s : State) : Host.Outcome State Fault Refusal :=
  if s.rst.phase == .powerReset then .next s else
  let t := s.advanceTo (s.power.lastRead + 100 * us)
  let t := { t with power := { t.power with lastRead := t.clk.now } }
  let t := rs.foldl (fun s r => s.readSensor r) t
  let cool := match t.tj with | some j => decide (j < 105000) | none => false
  let t := { t with power := { t.power with
    below105 := if cool then some (t.power.below105.getD t.clk.now) else none } }
  let cause := if s.num Obj.sensorFailed == t.num Obj.sensorFailed then 2 else 5
  done s (t.refreshPower cause)

/-- THERMAL_CLAMP (R424): Tj has reached 110 °C. -/
def execThermalClamp (s : State) : Host.Outcome State Fault Refusal :=
  match s.tj with
  | none => .next s
  | some j =>
    if j < 110000 || s.power.clamp110 then .next s else
    let t := if s.thermalEm then s else s.count Obj.thermEmergencies
    done s ({ t with power := { t.power with clamp110 := true } }.refreshPower 2)

/-- THERMAL_EMERGENCY_END (R424): Tj has stayed below 105 °C for 1 s; the thermal ceilings start at 0.4 GHz. -/
def execThermalEmergencyEnd (s : State) : Host.Outcome State Fault Refusal :=
  match s.power.clamp110, s.power.below105 with
  | true, some t0 =>
    let t := s.advanceTo (t0 + 1000 * ms)
    let t := { t with power := { t.power with clamp110 := false, lastRise := t.clk.now } }
    let t := (List.range 6).foldl (fun s n => s.setNum Obj.thermCeil n 400) t
    done s (t.refreshPower 2)
  | _, _ => .next s

/-- The clocks of every slice island stop: nothing of a slice goes on until the next cold reset. -/
def State.stopSlices (s : State) : State :=
  (List.range 6).foldl (fun s n =>
    ((s.discard n .idle).modSlice n (fun x => { x with off := true, dummy := none })).modPslice n (fun p => { p.clocked 0 with settling := none })) s

/-- THERMAL_TRIP (R425): a sensor that is not failed reads 120 °C or more. -/
def execThermalTrip (s : State) : Host.Outcome State Fault Refusal :=
  if s.power.tripped || !(s.power.temps.any (fun t => !t.2.failed && decide (120000 ≤ t.2.milliC))) then .next s else
  let t := s.stopSlices
  let t := { t with power := { t.power with tripped := true }, pins := { t.pins with thermTripN := false } }
  done s ((t.postOpen 0 0xFF).enterCause 1)

/-! ## The governor (R418 to R421) -/

/-- ⌊f × k⌋ for a positive binary32 f. -/
def f32Scaled (f k : Nat) : Nat :=
  let (m, e) := f32Parts f
  if 150 ≤ e then m * 2 ^ (e - 150) * k else m * k / 2 ^ (150 - e)

/-- SLEW_LIMIT × 0.1 µs in µA. -/
def State.slewUa (s : State) : Nat := f32Scaled (s.num Obj.slewLimit) 100000

/-- An emergency is in force or R417 applies: the floor is 0 A, and twilight work is not started to fill a shortfall
(R417, R419, R428). -/
def State.noFill (s : State) : Bool := s.power.powerEm || s.thermalEm || s.capShort

/-- The floor in force in µA (R417, R419, R428). -/
def State.floorUa (s : State) : Nat :=
  if s.noFill || !(List.range 48).any s.enabled then 0
  else f32Scaled (s.num Obj.currentFloor) 1000000

/-- The estimate after a step with demand d: rises and falls at most by the slew limit, no lower than the floor; a
hardware clamp lowers it at once. -/
def State.nextEstimate (s : State) (d : Nat) : Nat :=
  let want := max d s.floorUa
  let e := s.power.estUa
  if e ≤ want then min want (e + s.slewUa)
  else if s.power.clamp110 || s.power.vrHot || s.power.tripped then want
  else max want (e - s.slewUa)

/-- Class of the work dispatched on slice n: none after every class. -/
def State.sliceClass (s : State) (n : Nat) : Nat := match (s.slice n).run with | some r => r.klass | none => 3

/-- Slices in the order in which increases are granted. -/
def State.grantOrder (s : State) : List Nat :=
  [0, 1, 2, 3].flatMap (fun k => (List.range 6).filter (fun n => s.sliceClass n == k))

/-- Slice n asks for demand d with budget b left: its new current, and the cycles in which it is held. -/
def State.grantOne (a : Nat × State) (x : Nat × Nat) : Nat × State :=
  let (b, s) := a
  let (n, d) := x
  let ua := (s.pslice n).ua
  let need := d - ua
  let g := min need b
  let cycles := (s.pslice n).mhz / 10
  let s := s.modPslice n (fun p => { p with ua := min d ua + g })
  if g == need then (b - g, s)
  else if g == 0 then (b, s.count Obj.govHold n cycles)
  else
    let (v, s) := s.draw
    (b - g, s.count Obj.govHold n (v % (cycles + 1)))

/-- Slices in service that have nothing to do. -/
def State.idleSlices (s : State) : List Nat :=
  s.slicesInService.filter (fun n =>
    let x := s.slice n
    x.run.isNone && !x.golden.running && x.dummy.isNone && x.seq.mode != .stopped && !x.resetDue)

/-- A best-effort item that is ready for an idle slice is dispatched at twilight priority; none where there is none or its pool has
no buffer (R236, R420). -/
def State.twilightItem (s : State) (n : Nat) : Option State :=
  (best ((s.candidates n).filter (fun c => c.item.prio == 2))).bind (fun c =>
    (s.dispatch n c).map (fun t => t.modSlice n (fun x => { x with run := x.run.map (fun r => { r with twilight := true }) })))

/-- Twilight work that a shortfall starts, in the order of preference: a golden test that is due, a ready best-effort item,
a dummy pass (R420). One piece starts in each step, on the idle slice with the lowest number: notes/assumptions/58.md. -/
def State.startTwilight (s : State) : State :=
  let l := if s.runs P.scp && s.work.replayDone then s.idleSlices else []
  match l.find? (fun n => (s.slice n).golden.due.isSome) with
  | some n => s.modGolden n (fun g => { g with running := true })
  | none => match l.findSome? s.twilightItem with
    | some t => t
    | none => match l with
      | [] => s
      | n :: _ => s.modSlice n (fun x => { x with dummy := some s.clk.now })

/-- Dummy passes that began 2 µs ago have ended. -/
def State.endDummies (s : State) : State :=
  (List.range 6).foldl (fun s n => match (s.slice n).dummy with
    | some t0 => if t0 + 2 * us ≤ s.clk.now then s.modSlice n (fun x => { x with dummy := none }) else s
    | none => s) s

/-- GOVERNOR_STEP (R418): every 100 ns, with the current that each slice's activity and all other domains demand. The
difference between the estimate and the demand is filled with twilight work (R419, R420). -/
def execGovernorStep (demandUa : List Nat) (otherUa : Nat) (s : State) : Host.Outcome State Fault Refusal :=
  if s.rst.phase == .powerReset then .next s else
  let d := fun n => demandUa.getD n 0
  let total := otherUa + sumOf d (List.range 6)
  let t := s.advanceTo (s.clk.now + 100)
  let e := t.nextEstimate total
  let base := otherUa + sumOf (fun n => min (d n) (t.pslice n).ua) (List.range 6)
  let (_, t) := (t.grantOrder.map (fun n => (n, d n))).foldl State.grantOne (e - base, t)
  let t := { t with power := { t.power with estUa := e, fillUa := e - total } }.endDummies
  .next (if total < e && !t.noFill then t.startTwilight else t)

/-! ## Droop (R414) -/

/-- DROOP_ONSET: the island's cycles are stretched. -/
def execDroopOnset (sl : SliceId) (s : State) : Host.Outcome State Fault Refusal :=
  .next ((s.modPslice sl (fun p => { p with stretched := true })).count Obj.droopEvents sl)

/-- DROOP_RECOVERY: 20 ns after the supply has recovered. -/
def execDroopRecovery (sl : SliceId) (s : State) : Host.Outcome State Fault Refusal :=
  .next (s.modPslice sl (fun p => { p with stretched := false }))

/-- VOLTAGE_SETTLED (R413): 200 µs after VDD_CORE was raised. -/
def execVoltageSettled (sl : SliceId) (s : State) : Host.Outcome State Fault Refusal :=
  match (s.pslice sl).settling with
  | none => .next s
  | some (f, t0) =>
    .next ((s.advanceTo (t0 + 200 * us)).modPslice sl (fun p => { p.clocked f with settling := none }))

/-! ## Domains (R409, R410) -/

/-- Wake time of a domain in ns (Table — Power domains). -/
def wakeNs (d : Nat) : Nat :=
  if d < 162 then
    let k := d % 27
    if k < 4 || k == 8 then 2 * us else if k < 8 then us else if 10 ≤ k && decide (k ≤ 25) then 5 * us else 0
  else if 189 ≤ d ∧ d ≤ 201 then 20 * us else if d == 216 || d == 217 then 50 * us else 0

/-- A domain that work and idle periods switch: array, drain and transform, sliver clusters, media. -/
def switched (d : Nat) : Bool :=
  (decide (d < 162) && (decide (d % 27 < 4) || d % 27 == 8 || (decide (10 ≤ d % 27) && decide (d % 27 ≤ 25))))
    || (decide (189 ≤ d) && decide (d ≤ 201))

/-- A domain of a tile store, which is held at retention voltage when it is idle: its contents are kept, and it counts as
on (R409). -/
def retains (d : Nat) : Bool := decide (d < 162) && decide (4 ≤ d % 27) && decide (d % 27 < 8)

/-- Slice n is powered: in service or being reset. -/
def State.slicePowered (s : State) (n : Nat) : Bool := s.num Obj.sliceState n == 0 && !(s.slice n).off

/-- Domain d is on (DOMAIN_ON). -/
def State.domainOn (s : State) (d : Nat) : Bool :=
  if s.rst.phase == .powerReset then false
  else if switched d then tget false s.power.domains d && (decide (162 ≤ d) || s.slicePowered (d / 27))
  else if d < 162 then s.slicePowered (d / 27)
  else if d < 189 then false
  else if 202 ≤ d ∧ d ≤ 213 then
    s.rst.phase != .recovery && (s.chInService ((d - 202) % 6 * 2) || s.chInService ((d - 202) % 6 * 2 + 1))
  else if d == 216 || d == 217 then s.num Obj.dpMode (d - 216) != 0
  else true

/-- Some stream, session or request in use needs media domain d (R409): CSI0 to CSI3, ISP pipes, decoder cores, H.265
cores, the JPEG encoder. -/
def State.mediaNeeds (s : State) (d : Nat) : Bool :=
  let raw := upTo 48 (fun n => s.num Obj.rawEnable n == 1)
  if d < 193 then raw.any (fun n => s.num Obj.rawPort n == d - 189)
  else if d < 195 then raw.any (fun n => s.num Obj.ispPipe n == d - 193 || decide (1 < s.num Obj.ispPipe n))
  else if d < 199 then (List.range 48).any (fun n => s.num Obj.srcEnable n == 1 && s.num Obj.decCore n == d - 195)
  else if d < 201 then
    s.media.streams.any (fun x => match x.2.clip with | some c => c.core == d - 199 | none => false)
  else !s.media.snaps.isEmpty

/-- Domain d is in use. -/
def State.domainBusy (s : State) (d : Nat) : Bool :=
  if d < 162 then
    let n := d / 27
    let k := d % 27
    if retains d then (s.slice n).run.isSome || (s.slice n).golden.running || !(s.slice n).store.tags.isEmpty
    else if 10 ≤ k then s.harts.any (fun h => h.1 / 64 == n * 16 + (k - 10) && h.2.task.isSome && h.2.wait != .exited)
    else
      let a := (s.slice n).arr
      (s.slice n).dummy.isSome || !(a.waitTiles.isEmpty && a.rows.isEmpty && a.unjudged.isEmpty && a.waitLoad.isNone && a.fwdWait.isNone
        && a.invWait.isNone && a.invRows.isEmpty)
  else s.mediaNeeds d

/-- Domain d is off, or at retention (R410). -/
def State.asleep (s : State) (d : Nat) : Bool :=
  if retains d then !tget false s.power.domains d else switched d && !s.domainOn d

/-- DOMAIN_WAKE (R410): the work that was issued waits for the wake time. -/
def execDomainWake (d : Fin 219) (s : State) : Host.Outcome State Fault Refusal :=
  if !s.asleep d || s.rst.phase == .powerReset || s.rst.phase == .recovery
      || (decide (d.val < 162) && !s.slicePowered (d / 27)) then .next s
  else
    let t := s.advanceTo (s.clk.now + wakeNs d)
    .next { t with power := { t.power with domains := tput t.power.domains d true } }

/-- DOMAIN_OFF (R409): the domain has been idle for its period; that of a tile store goes to retention. -/
def execDomainOff (d : Fin 219) (s : State) : Host.Outcome State Fault Refusal :=
  if !(switched d || retains d) || s.asleep d || s.domainBusy d then .next s
  else .next { s with power := { s.power with domains := tdel s.power.domains d } }

/-! ## Regulators (R426, R428) -/

def Reg.init : Reg := { fails := 0, highV := false, under := false, hot := false }

/-- One transaction with a regulator of the board configuration: three failures in a row post PMBUS_FAIL. -/
def State.readReg (s : State) (r : RegRead) : State :=
  let k := r.idx.val
  match s.trust.regAddrs[k]? with
  | none => s
  | some addr =>
    let x := tget Reg.init s.power.regs k
    let y := if r.ok then { fails := 0, highV := r.overCurrent, under := r.underVolt, hot := r.overTemp }
      else { x with fails := min 3 (x.fails + 1) }
    let s := { s with power := { s.power with regs := tput s.power.regs k y } }
    if !r.ok && x.fails == 2 then s.postEvent 0x0603 0xFFFF (le 1 k ++ le 1 addr) else s

/-- What the PWP makes of STATUS_WORDs: a power emergency begins, or its alarms are clear. -/
def State.judgeRegs (s : State) : State :=
  let alarm := s.power.regs.any (fun r => r.2.highV || r.2.under)
  let clear := !s.power.regs.any (fun r => r.2.highV || r.2.under || r.2.hot) && s.pins.vrHotN
  let s := if alarm && !s.power.powerEm then
      (({ s with power := { s.power with powerEm := true, emCeil := 400 } }).count Obj.powerEmergencies)
    else s
  { s with power := { s.power with powerClear := if clear then some (s.power.powerClear.getD s.clk.now) else none } }

/-- STATUS_WORDs as the PWP reads them; none while it restarts (R430). -/
def State.readRegs (s : State) (rs : List RegRead) (cause : Nat) : State :=
  if !s.runs P.pwp then s else ((rs.foldl (fun s r => s.readReg r) s).judgeRegs).refreshPower cause

/-- VR_HOT_N_ASSERT (R428): the clamp is in force at once; the PWP reads every STATUS_WORD. -/
def execVrHotNAssert (rs : List RegRead) (s : State) : Host.Outcome State Fault Refusal :=
  if s.rst.phase == .powerReset || !s.pins.vrHotN then .next s else
  let t := { s with pins := { s.pins with vrHotN := false }, power := { s.power with vrHot := true, powerClear := none } }
  let t := (t.count Obj.vrhotAsserts).refreshPower 3
  done s (t.readRegs rs 4)

/-- VR_HOT_N_DEASSERT (R428). -/
def execVrHotNDeassert (s : State) : Host.Outcome State Fault Refusal :=
  if s.rst.phase == .powerReset || s.pins.vrHotN then .next s else
  let t := { s with pins := { s.pins with vrHotN := true }, power := { s.power with vrHot := false } }
  done s ((if s.runs P.pwp then t.judgeRegs else t).refreshPower 3)

/-- PMB_ALERT_N (R426): every STATUS_WORD is read within 1 ms. -/
def execPmbAlertN (rs : List RegRead) (s : State) : Host.Outcome State Fault Refusal :=
  if s.rst.phase == .powerReset then .next s else done s (s.readRegs rs 4)

/-- PMBUS_POLL (R426): every regulator, every 100 ms. -/
def execPmbusPoll (rs : List RegRead) (s : State) : Host.Outcome State Fault Refusal :=
  if s.rst.phase == .powerReset then .next s else done s (s.readRegs rs 4)

/-- POWER_EMERGENCY_END (R428): every status bit and VR_HOT_N clear for 1 s. -/
def execPowerEmergencyEnd (s : State) : Host.Outcome State Fault Refusal :=
  match s.power.powerEm, s.power.powerClear with
  | true, some t0 =>
    if !s.runs P.pwp then .next s else
    let t := s.advanceTo (t0 + 1000 * ms)
    done s ({ t with power := { t.power with powerEm := false, emCeil := 400, emRise := t.clk.now } }.refreshPower 4)
  | _, _ => .next s

end Sys2Proof.Machine
end

