-- ==== Sys2Proof/Machine/Trust.lean ====
section
/-! DEFINITION. Fuses, derived keys, image slots and attestation (chapter "Secure start, image slots and attestation",
R458 to R480; board configuration R499, R500). -/

namespace Sys2Proof.Machine

/-! ## Flash (R464): an erased byte reads 0xFF -/

def State.flashGet (s : State) (a n : Nat) : Bytes := (cgets s.trust.flash a n).map (fun b => ~~~b)

def State.flashPut (s : State) (a : Nat) (b : Bytes) : State :=
  { s with trust := { s.trust with flash := cputs s.trust.flash a (b.map (fun x => ~~~x)) } }

def State.flashErase (s : State) (a n : Nat) : State :=
  { s with trust := { s.trust with flash := cdrop s.trust.flash a n } }

def slotBytes : Nat := 0x2000000
def slotBase (k : Nat) : Nat := k * slotBytes
/-- The seal block's offset in a slot. -/
def sealAt : Nat := 0x1FFF000

/-- Header and seal block of slot k. -/
def State.hdr (s : State) (k : Nat) : Bytes := s.flashGet (slotBase k) 1024
def State.sealBlock (s : State) (k : Nat) : Bytes := s.flashGet (slotBase k + sealAt) 208
/-- n bytes of slot k's body at offset o. -/
def State.bodyAt (s : State) (k o n : Nat) : Bytes := s.flashGet (slotBase k + 1024 + o) n
def State.body (s : State) (k : Nat) : Bytes := s.bodyAt k 0 (fld (s.hdr k) 12 4)

def State.eraseSlot (s : State) (k : Nat) : State := s.flashErase (slotBase k) slotBytes

/-! ## Fuses (R459, R460) -/

/-- The instar floor: the highest INSTAR bit that reads 1. -/
def State.floor (s : State) : Nat := ((List.range 64).filter (fun i => s.trust.instar.getLsbD i)).foldl max 0

def State.keyProgrammed (s : State) (k : Nat) : Bool :=
  match s.trust.keyHash[k]? with | some h => decide (h ≠ zeros 64) && h.length == 64 | none => false

def State.keyRevoked (s : State) (k : Nat) : Bool := s.trust.revoked.getLsbD k

/-- The public key's hash is that of key slot k. -/
def State.keyMatches (s : State) (k : Nat) (pub : Bytes) : Bool :=
  s.keyProgrammed k && s.trust.keyHash[k]? == some (Config.sha512 pub)

/-- KEY_STATE. -/
def State.keyStateNow (s : State) : Nat :=
  sumOf (fun k => (if s.keyProgrammed k then 2 ^ k else 0) + (if s.keyRevoked k then 2 ^ (4 + k) else 0)) (List.range 4)

/-- A raise of the floor to n: bits are blown in rising order while they verify (R460). verified is the mask of bits
whose read-back succeeds. -/
def raiseFloor (verified : Nat) : Nat → Nat → BitVec 64 → BitVec 64
  | 0, _, w => w
  | k + 1, b, w => if verified.testBit b then raiseFloor verified k (b + 1) (w ||| BitVec.ofNat 64 (2 ^ b)) else w

/-! ## Derived keys (R462) -/

def kSeal (root : Bytes) (i : Nat) : Bytes := Config.hkdfSha512 root ([0x73, 0x65, 0x61, 0x6C] ++ le 1 i)
def kIdent (root : Bytes) (r : Nat) : Bytes := (Config.hkdfSha512 root ([0x69, 0x64, 0x65, 0x6E, 0x74] ++ le 1 r)).take 32
def kWrap (root : Bytes) (r : Nat) : Bytes := (Config.hkdfSha512 root ([0x6B, 0x77, 0x72, 0x61, 0x70] ++ le 1 r)).take 32

/-! ## The bundle (R465 to R467, R499) -/

/-- KiB of a processor's memory (R436). -/
def memKiB (p : Nat) : Nat := ([512, 512, 768, 256, 1536, 512] : List Nat).getD p 0

/-- Component entry of processor p. -/
def compEntry (h : Bytes) (p : Nat) : Bytes := cut h (64 + 88 * p) 88

def allZero (b : Bytes) : Bool := b.all (· == 0)

/-- The entry of component p is well formed and lies inside the body; it fits the memory from LOAD. -/
def compOk (h : Bytes) (p : Nat) : Bool :=
  let e := compEntry h p
  fld e 0 1 == p && decide (fld e 1 1 < 2) && allZero (cut e 2 2) && fld e 8 4 % 64 == 0
    && decide (fld e 8 4 + fld e 12 4 ≤ fld h 12 4) && decide (fld e 16 4 + fld e 12 4 ≤ memKiB p * 1024)

/-- The header of a bundle is well formed (R465, R468). -/
def hdrOk (h : Bytes) : Bool :=
  cut h 0 4 == [0x5A, 0x43, 0x42, 0x44] && fld h 4 2 == 1 && decide (fld h 6 1 < 64) && decide (fld h 7 1 < 4)
    && fld h 16 1 == 6 && allZero (cut h 17 3) && allZero (cut h 52 12) && allZero (cut h 664 296)
    && decide (1024 + fld h 12 4 ≤ 33550336)
    && (List.range 6).all (compOk h)
    && fld h 592 4 % 64 == 0 && decide (64 ≤ fld h 596 4 ∧ fld h 596 4 ≤ 65536) && decide (fld h 592 4 + fld h 596 4 ≤ fld h 12 4)

/-- Component p of slot k has the digest of its header. -/
def State.digestOk (s : State) (k p : Nat) : Bool :=
  let e := compEntry (s.hdr k) p
  Config.sha512 (s.bodyAt k (fld e 8 4) (fld e 12 4)) == cut e 24 64

/-- The board configuration of slot k. -/
def State.board (s : State) (k : Nat) : Bytes := s.bodyAt k (fld (s.hdr k) 592 4) (fld (s.hdr k) 596 4)

def boardEntry (c : Bytes) (k : Nat) : Bytes := cut c (64 + 16 * k) 16

/-- The rails that have exactly one entry each. -/
def boardRails : List Nat := [0, 1, 2, 3, 4, 5, 6, 0x10, 0x11, 0x12, 0x13, 0x14]

/-- The check of R500. -/
def boardOk (c : Bytes) : Bool :=
  let n := fld c 7 1
  let es := (List.range n).map (boardEntry c)
  cut c 0 4 == [0x5A, 0x42, 0x43, 0x46] && fld c 4 2 == 1 && decide (12 ≤ fld c 6 1 ∧ fld c 6 1 ≤ 20)
    && decide (12 ≤ n ∧ n ≤ 16) && decide (fld c 8 1 < 16) && allZero (cut c 9 55) && c.length == 64 + 16 * n
    && es.all (fun e => decide (8 ≤ fld e 0 1 ∧ fld e 0 1 ≤ 0x77) && (decide (fld e 1 1 < 32) || fld e 1 1 == 0xFF)
      && (boardRails.contains (fld e 2 1) || fld e 2 1 == 0x20) && decide (fld e 3 1 < 2)
      && decide (1 ≤ fld e 4 2 ∧ fld e 4 2 ≤ 200) && allZero (cut e 6 10))
    && es.all (fun e => (es.filter (fun f => cut f 0 2 == cut e 0 2)).length == 1)
    && boardRails.all (fun r => (es.filter (fun e => fld e 2 1 == r)).length == 1)

/-! ## Seals and the check of a slot (R467 to R470) -/

/-- HDR_MAC of slot k's seal block passes. -/
def State.hdrMacOk (s : State) (k : Nat) : Bool :=
  let h := s.hdr k
  let b := s.sealBlock k
  cut b 80 64 == Config.hmacSha512 (kSeal s.trust.rootKey (fld h 6 1)) (h ++ b.take 80)

def State.bundleMacOk (s : State) (k : Nat) : Bool :=
  let h := s.hdr k
  let b := s.sealBlock k
  cut b 144 64 == Config.hmacSha512 (kSeal s.trust.rootKey (fld h 6 1)) (h ++ s.body k ++ b.take 80)

def State.unsealed (s : State) (k : Nat) : Bool := cut (s.sealBlock k) 0 4 == [0xFF, 0xFF, 0xFF, 0xFF]

/-- R469. -/
def State.nextInstall (s : State) : Nat :=
  1 + ((List.range 2).filter s.hdrMacOk).foldl (fun a k => max a (fld (s.sealBlock k) 8 8)) 0

/-- The seal block that installation writes. -/
def State.seal (s : State) (k : Nat) : State :=
  let h := s.hdr k
  let key := kSeal s.trust.rootKey (fld h 6 1)
  let b := [0x5A, 0x53, 0x45, 0x4C] ++ le 1 (fld h 7 1) ++ le 1 (fld h 6 1) ++ zeros 2 ++ le 8 s.nextInstall
    ++ Config.sha512 (h ++ s.body k)
  s.flashPut (slotBase k + sealAt) (b ++ Config.hmacSha512 key (h ++ b) ++ Config.hmacSha512 key (h ++ s.body k ++ b))

/-- R468: the outcome of the check of slot k, and the state with the seal it may write. -/
def State.checkSlot (s : State) (k : Nat) : Nat × State :=
  let h := s.hdr k
  if !hdrOk h || !s.keyMatches (fld h 7 1) (cut h 20 32) then (St.imageInvalid, s)
  else if s.keyRevoked (fld h 7 1) then (St.keyRevoked, s)
  else if fld h 6 1 < s.floor then (St.rollback, s)
  else if !((List.range 6).all (s.digestOk k) && Config.sha512 (s.board k) == cut h 600 64) then (St.imageInvalid, s)
  else if s.unsealed k then
    if Config.ed25519Verify (cut h 20 32) (h.take 960 ++ s.body k) (cut h 960 64) then (St.ok, s.seal k)
    else (St.imageInvalid, s)
  else
    let b := s.sealBlock k
    if fld b 4 1 == fld h 7 1 && fld b 5 1 == fld h 6 1 && s.hdrMacOk k && s.bundleMacOk k then (St.ok, s)
    else (St.imageInvalid, s)

def statusRow (k : Nat) : ObjRow := if k == 0 then Obj.slotAStatus else Obj.slotBStatus
def seqRow (k : Nat) : ObjRow := if k == 0 then Obj.slotASeq else Obj.slotBSeq
def instarRow (k : Nat) : ObjRow := if k == 0 then Obj.slotAInstar else Obj.slotBInstar

/-- The status and sequence objects of slot k (R480). -/
def State.recordSlot (s : State) (k status : Nat) : State :=
  let s := s.setNum (statusRow k) 0 status
  let s := s.setNum (seqRow k) 0 (if status == St.ok then fld (s.sealBlock k) 8 8 else 0)
  s.setNum (instarRow k) 0 (if hdrOk (s.hdr k) then fld (s.hdr k) 6 1 else 0xFF)

/-- Slot k is checked and its outcome recorded. -/
def State.checkRecord (s : State) (k : Nat) : Nat × State :=
  let (st, t) := s.checkSlot k
  (st, t.recordSlot k st)

/-- The seal check of an activation (R451): the HDR_MAC, the revocation of its key slot, and the floor. -/
def State.activationStatus (s : State) (k : Nat) : Nat :=
  if s.unsealed k || !s.hdrMacOk k then St.imageInvalid
  else if s.keyRevoked (fld (s.sealBlock k) 4 1) then St.keyRevoked
  else if fld (s.hdr k) 6 1 < s.floor then St.rollback else St.ok

/-- R470: what Chrysalis checks when it loads component p of slot k. -/
def State.componentOk (s : State) (k p : Nat) : Bool :=
  !s.unsealed k && s.hdrMacOk k && !s.keyRevoked (fld (s.sealBlock k) 4 1) && s.digestOk k p

/-! ## Slot selection (R471, R472, R500) -/

/-- The better of two slots that passed, A and B, and whether their equality is anomalous. -/
def State.prefer (s : State) : Nat × Bool :=
  let a := (fld (s.hdr 0) 6 1, fld (s.sealBlock 0) 8 8)
  let b := (fld (s.hdr 1) 6 1, fld (s.sealBlock 1) 8 8)
  if a.1 < b.1 || (a.1 == b.1 && decide (a.2 < b.2)) then (1, false)
  else if a == b && cut (s.sealBlock 0) 16 64 != cut (s.sealBlock 1) 16 64 then (0, true) else (0, false)

/-- One choice among the slots left. -/
def State.choose (s : State) : List Nat → Option (Nat × Bool)
  | [] => none
  | [k] => some (k, false)
  | _ => some s.prefer

/-- Selection among the slots that passed: a slot whose copy fails twice, or whose board configuration fails, is left
out with IMAGE_INVALID and selection runs again. -/
def State.selectFrom (bad : Nat → Bool) : Nat → List Nat → State → Option Nat × State
  | 0, _, s => (none, s)
  | f + 1, l, s =>
    match s.choose l with
    | none => (none, s)
    | some (k, odd) =>
      if bad k || !boardOk (s.board k) then
        State.selectFrom bad f (l.filter (· != k)) (s.recordSlot k St.imageInvalid)
      else (some k, s.setNum Obj.bootAnomaly 0 (if odd then 1 else 0))

/-- R472: every candidate is checked, and one is chosen; none enters recovery mode. -/
def State.select (s : State) (cands : List Nat) (bad : Nat → Bool) : Option Nat × State :=
  let (passed, s) := cands.foldl (fun (a : List Nat × State) k =>
    let (st, t) := a.2.checkRecord k
    (if st == St.ok then a.1 ++ [k] else a.1, t)) (([] : List Nat), s.setNum Obj.bootAnomaly 0 0)
  State.selectFrom bad 3 passed s

/-- Candidates of a boot sample: BOOTSEL1, BOOTSEL0. -/
def bootSlots (bootsel : BitVec 2) : List Nat :=
  match bootsel.toNat with
  | 0 => [0, 1]
  | 2 => [0]
  | 3 => [1]
  | _ => []

/-! ## Processor images -/

/-- The objects of a processor that is released with its component of slot k; r follows the BTP (R463). -/
def State.loadComponent (s : State) (p k : Nat) : State :=
  let h := s.hdr k
  let s := ((s.setNum Obj.fwVersion p (fld (compEntry h p) 4 4)).setNum Obj.fwInstar p (fld h 6 1)).setNum Obj.fwSlot p k
  let s := s.modProc p (fun x => { x with slot := k, released := true })
  if p == P.btp then { s with trust := { s.trust with runInstar := fld h 6 1 } } else s

/-- Processor p runs a component of slot k. -/
def State.usesSlot (s : State) (p k : Nat) : Bool :=
  (s.proc p).released && s.num Obj.devMode == 0 && (s.proc p).slot == k

/-- Some processor runs a component of slot k. -/
def State.slotUsed (s : State) (k : Nat) : Bool := (List.range 6).any (fun p => s.usesSlot p k)

/-! ## Revocation (R476) -/

/-- The check of the authorisation, then of the state. -/
def State.revokePre (s : State) (b : Bytes) : Nat :=
  let target := fld b 0 1
  let signer := fld b 1 1
  let msg := [0x72, 0x65, 0x76, 0x6F, 0x6B, 0x65] ++ le 8 s.trust.serial ++ le 1 target
  if s.keyRevoked signer || !s.keyMatches signer (cut b 4 32) || !Config.ed25519Verify (cut b 4 32) msg (cut b 36 64) then
    St.access
  else if s.keyRevoked target || !s.keyProgrammed target
      || (List.range 2).any (fun k => s.slotUsed k && fld (s.hdr k) 7 1 == target)
      || (s.num Obj.updState == 3 && fld (s.hdr (s.num Obj.updSlot)) 7 1 == target)
      || !(List.range 4).any (fun k => k != target && s.keyProgrammed k && !s.keyRevoked k) then St.stateConflict
  else 0

def keyRevokeRule (readBackOk : Bool) : WriteRule :=
  { check := fun _ v => match v with
      | .blob b => decide (fld b 0 1 < 4) && decide (fld b 1 1 < 4) && allZero (cut b 2 2) && fld b 0 1 != fld b 1 1
      | .num _ => false
    pre := fun s v => match v with | .blob b => s.revokePre b | .num _ => 0
    apply := fun s v => match v with
      | .blob b => if !readBackOk then s else
          { s with trust := { s.trust with revoked := s.trust.revoked ||| BitVec.ofNat 4 (2 ^ fld b 0 1) } }
      | .num _ => s
    answer := fun _ _ => if readBackOk then St.ok else St.unavailable }

/-- KEY_REVOKE. -/
def execKeyRevoke (w : BlobW) (readBackOk : Bool) (s : State) : Host.Outcome State Fault Refusal :=
  .next (s.hostBlob (.keyRevoke w readBackOk) w Obj.keyRevoke 0 (keyRevokeRule readBackOk))

/-! ## Attestation (R477 to R479) -/

/-- Every PERS-class object in order of index and subindex, with its instance. -/
def persObjects : List (Nat × ObjRow × Nat) :=
  ((Obj.rows.filter (fun r => r.aclass / 4 % 2 == 1)).flatMap (fun r => (List.range r.count).map (fun k => (r, k)))).foldl
    (fun m x => tput m (x.1.key x.2) x) []

/-- CONFIG_DIGEST. State.val is the value in force: pending IDLE and WARM values wait in Work. -/
def State.configDigest (s : State) : Bytes :=
  let objs := persObjects.flatMap (fun x =>
    let r := x.2.1
    let v := r.stored (s.val r x.2.2)
    le 2 (r.index x.2.2) ++ le 1 (r.subAt x.2.2) ++ le 1 r.otype ++ le 2 v.length ++ v)
  let ctxs := (List.range 256).flatMap (fun c =>
    match (s.ctx c).state with
    | .ready => s.blob Obj.ctxDigest c
    | .unloading => s.blob Obj.ctxDigest c
    | .lost => s.blob Obj.ctxDigest c
    | .empty => zeros 64
    | .loading => zeros 64)
  Config.sha512 (objs ++ ctxs)

/-- STATE of a firmware record: 0 running, 1 restarting, 2 not released. -/
def State.fwStateNow (s : State) (p : Nat) : Nat := s.num Obj.fwState p

/-- Processor record p of a report. KEY_SLOT of a processor that runs no slot is not told by the spec: a free value. -/
def State.procRecord (s : State) (p : Nat) : Bytes × State :=
  let x := s.proc p
  if x.released && s.num Obj.devMode == 0 then
    let h := s.hdr x.slot
    (le 1 x.slot ++ le 1 (s.num Obj.fwInstar p) ++ le 1 (fld h 7 1) ++ le 1 (s.fwStateNow p) ++ le 4 (s.num Obj.fwVersion p)
      ++ cut (compEntry h p) 24 64, s)
  else
    let (v, s) := s.draw
    (le 1 0xFF ++ le 1 (s.num Obj.fwInstar p) ++ le 1 v ++ le 1 (s.fwStateNow p) ++ le 4 (s.num Obj.fwVersion p) ++ zeros 64, s)

/-- The report of R478 for a nonce. -/
def State.report (s : State) (nonce : Bytes) : Bytes × State :=
  let r := s.trust.runInstar
  let seed := kIdent s.trust.rootKey r
  let head := le 2 1 ++ le 2 696 ++ zeros 4 ++ le 8 s.trust.serial ++ le 8 s.work.bootEpoch ++ le 8 s.clk.lode ++ nonce
    ++ le 1 s.floor ++ le 1 s.keyStateNow ++ le 1 (s.num Obj.devMode)
    ++ le 1 (s.num Obj.bootAnomaly + (if s.num Obj.ltState == 1 then 2 else 0))
    ++ Config.ed25519Pub seed ++ Config.x25519Pub (kWrap s.trust.rootKey r) ++ s.configDigest
  let (recs, s) := (List.range 6).foldl (fun (a : Bytes × State) p =>
    let (b, t) := a.2.procRecord p
    (a.1 ++ b, t)) (([] : Bytes), s)
  let m := head ++ recs ++ zeros 4
  (m ++ Config.ed25519Sign seed m, s)

def attNonceRule : WriteRule :=
  { check := fun _ _ => true
    pre := fun _ _ => 0
    apply := fun s v => match v with
      | .blob nonce =>
        let (b, s) := s.report nonce
        (s.setBlob Obj.attReport 0 b).count Obj.attReports
      | .num _ => s }

/-- ATT_NONCE. -/
def execAttNonce (w : BlobW) (s : State) : Host.Outcome State Fault Refusal :=
  .next (s.hostBlob (.attNonce w) w Obj.attNonce 0 attNonceRule)

/-- ATT_CERT: the stored bytes of certificate ATT_CERT_SEL (R477). An unwritten length reads 0xFFFF: the 1,022 bytes
that a certificate may hold are returned. -/
def State.certNow (s : State) : Bytes :=
  let a := 0x4100000 + 1024 * s.num Obj.attCertSel
  s.flashGet (a + 2) (min 1022 (ofLe (s.flashGet a 2)))

/-! ## Images in recovery mode (R475) -/

/-- IMAGE_BEGIN with its arguments: its outcome. -/
def State.imageBegin (s : State) (arg : Bytes) : Nat × State :=
  if !s.recovering then (St.stateConflict, s)
  else if 1 < fld arg 0 1 || fld arg 4 4 < 4096 || decide (33550336 < fld arg 4 4) then (St.range, s)
  else
    let s := s.eraseSlot (fld arg 0 1)
    (St.ok, { s with trust := { s.trust with image := some (fld arg 0 1, fld arg 4 4, 0) } })

/-- IMAGE_DATA. -/
def State.imageData (s : State) (arg data : Bytes) : Nat × State :=
  if !s.recovering then (St.stateConflict, s) else
  match s.trust.image with
  | none => (St.stateConflict, s)
  | some (k, len, next) =>
    if fld arg 0 4 != next then (St.range, s) else
    let n := min 1024 (len - next)
    let s := s.flashPut (slotBase k + next) (data.take n)
    (St.ok, { s with trust := { s.trust with image := some (k, len, next + n) } })

/-- IMAGE_END. -/
def State.imageEnd (s : State) : Nat × State :=
  if !s.recovering then (St.stateConflict, s) else
  match s.trust.image with
  | none => (St.stateConflict, s)
  | some (k, len, next) =>
    if next < len then (St.range, s) else
    let (st, t) := s.checkSlot k
    (st, { t with trust := { t.trust with image := none } })

end Sys2Proof.Machine
end

