-- ==== Sys2Proof/Machine/Firmware.lean ====
section
/-! DEFINITION. Firmware processors: logs and trace, restarts and cocoon holds (chapter "Firmware processors, logs, trace
and live update", R436 to R447, R457; watchdogs R399; trace output R510). -/

namespace Sys2Proof.Machine

/-! ## Log entries (R442 to R444) -/

def stagingDepth : Nat := 4096

def logBytes (time p level code : Nat) (args : List Nat) : Bytes :=
  le 8 time ++ le 1 p ++ le 1 level ++ le 2 code ++ pad 20 ((args.take 5).flatMap (le 4))

/-- An entry goes into the staging buffer, after the LOG_GAP that a drop left due; one that finds no room is dropped. The
LEVEL of a LOG_GAP is not told by the spec: a free value of Table — Log entry. -/
def State.stageLog (s : State) (p level code : Nat) (args : List Nat) : State :=
  let n := s.fw.buffer.length
  let e := Staged.log (logBytes s.clk.lode p level code args)
  if s.fw.gapDue == 0 && n < stagingDepth then { s with fw := { s.fw with buffer := s.fw.buffer ++ [e] } }
  else if s.fw.gapDue != 0 && n + 1 < stagingDepth then
    let (v, s) := s.draw
    let g := Staged.log (logBytes s.clk.lode p (v % 5) 1 [s.fw.gapDue])
    { s with fw := { s.fw with buffer := s.fw.buffer ++ [g, e], gapDue := 0 } }
  else { s.count Obj.logDropped with fw := { s.fw with gapDue := s.fw.gapDue + 1 } }

/-- A processor makes an entry: below LOG_LEVEL it is not recorded, level 4 always is (R443). -/
def State.makeLog (s : State) (p level code : Nat) (args : List Nat) : State :=
  if level < s.num Obj.logLevel && level != 4 then s else s.stageLog p level code args

/-- A common entry whose LEVEL the spec does not give: a free value. -/
def State.logCommon (s : State) (p code : Nat) (args : List Nat) : State :=
  let (v, s) := s.draw
  s.makeLog p (v % 5) code args

/-- LOG_ENTRY. -/
def execLogEntry (p : ProcId) (level : Nat) (code : BitVec 16) (args : List Word) (s : State) :
    Host.Outcome State Fault Refusal :=
  if !s.runs p || 4 < level then .next s
  else .next (s.makeLog p level code.toNat (args.map (·.toNat)))

/-! ## Trace points (R446, R447) -/

/-- The processor of a trace point. -/
def pointProc (n : Nat) : Nat :=
  if n < 64 then 0 else if n < 192 then 1 else if n < 320 then 2 else if n < 448 then 3 else if n < 768 then 4 else 5

/-- TRACE_HIT. -/
def execTraceHit (p : ProcId) (point : Nat) (value : Word) (s : State) : Host.Outcome State Fault Refusal :=
  if !s.runs p || 1024 ≤ point || pointProc point != p.val
      || !(fld (s.blob Obj.traceMask) (point / 8) 1).testBit (point % 8) then .next s
  else if stagingDepth ≤ s.fw.buffer.length then .next (s.count Obj.traceDropped)
  else
    let e := Staged.trace (le 8 s.clk.lode ++ le 2 point ++ le 1 p ++ zeros 1 ++ le 4 value.toNat)
    .next { s with fw := { s.fw with buffer := s.fw.buffer ++ [e] } }

/-! ## The rings (R442, R444, R445, R447, R510) -/

def logSlots : Nat := 32768
def traceSlots : Nat := 262144

/-- A log entry reaches its ring. -/
def State.writeLog (s : State) (base : Nat) (b : Bytes) : State :=
  let n := s.fw.logTail
  let s := s.writeBytes (base + 32 * (n % logSlots)) b
  let s := { s with fw := { s.fw with logTail := n + 1 } }
  if logSlots < sub32 (n + 1) s.fw.logHead then s.count Obj.logOverrun else s

/-- A copy of a trace entry for the trace output, whose buffer holds 64. -/
def State.copyTrace (s : State) (b : Bytes) : State :=
  if s.num Obj.traceOut == 0 then s
  else if 64 ≤ s.fw.traceOut.length then s.count Obj.traceOutDrop
  else { s with fw := { s.fw with traceOut := s.fw.traceOut ++ [b] } }

def State.writeTrace (s : State) (base : Nat) (b : Bytes) : State :=
  let n := s.fw.traceTail
  let s := s.writeBytes (base + 16 * (n % traceSlots)) b
  let s := { s with fw := { s.fw with traceTail := n + 1 } }
  (if traceSlots < sub32 (n + 1) s.fw.traceHead then s.count Obj.traceOverrun else s).copyTrace b

def State.writeStaged (s : State) : Staged → State
  | .log b => match s.fw.logBase with | some (p, _) => s.writeLog (p * pageBytes) b | none => s
  | .trace b => match s.fw.traceBase with | some (p, _) => s.writeTrace (p * pageBytes) b | none => s

/-- STAGING_BUFFER_DRAIN: the entries reach their rings in the order in which they entered the buffer. -/
def execStagingBufferDrain (s : State) : Host.Outcome State Fault Refusal :=
  if s.rst.memHeld || s.fw.logBase.isNone || s.fw.traceBase.isNone then .next s else
  let t := s.fw.buffer.foldl State.writeStaged s
  .next { t with fw := { t.fw with buffer := [] } }

/-! ## Cocoon holds (R439) -/

/-- DEFER_DONE of a deferred command (R265). -/
def State.deferDone (s : State) (d : Deferred) (status : Nat) : State :=
  s.postEvent 0x0004 0xFFFF (le 2 d.index ++ le 1 d.sub ++ zeros 1 ++ le 2 status)

/-- Every deferred dictionary command is discarded (R358). -/
def State.abortDeferred (s : State) : State :=
  s.work.deferred.foldl (fun s d => s.deferDone d St.aborted) { s with work := { s.work with deferred := [] } }

/-- Time left on the lease in ns. -/
def State.leaseLeft (s : State) : Nat :=
  match s.link.heldFor with
  | some n => n
  | none => s.link.renewed + s.link.periodMs * ms - s.clk.now

def mailboxRows : List ObjRow := [Obj.mbArg, Obj.mbStatus, Obj.mbData, Obj.mbLen, Obj.mbSeq]

/-- What a DXP restart holds and discards (R266, R358, R384). -/
def State.holdDxp (s : State) : State :=
  let s := { s with
    link := { s.link with heldFor := some s.leaseLeft, expected := none, held := [], stored := [], staged := none
                          snapshot := none }
    trust := { s.trust with image := none } }
  ((s.clearRows mailboxRows 0).abortDeferred).setOpen none

/-- What an SCP restart discards (R87, R266). -/
def State.holdScp (s : State) : State :=
  let s := s.setOpen none
  -- frames that are complete and not yet accepted wait for its return (R523)
  let s := { s with media := { s.media with streams := s.media.streams.map (fun (x : Nat × Stream) =>
    (x.1, { x.2 with complete := x.2.complete.map (fun (f : Frame) => { f with held := true }) })) } }
  { s with work := { s.work with
      heldStats := []
      pairs := s.work.pairs.map (fun (x : (Nat × Nat) × StatPair) => (x.1, { x.2 with totals := StatTotals.zero, later := StatTotals.zero })) } }

/-- UPD_STATE changes (R457). -/
def State.setUpd (s : State) (state status slot : Nat) : State :=
  let s := ((s.setNum Obj.updState 0 state).setNum Obj.updStatus 0 status).setNum Obj.updSlot 0 (if state == 3 then slot else 0xFF)
  s.postEvent 0x0703 0xFFFF (le 1 state ++ zeros 1 ++ le 2 status ++ le 1 slot)

/-- The slot that no processor runs (R448); none when each slot has one that runs it. -/
def State.inactive (s : State) : Option Nat :=
  if !s.slotUsed 1 then some 1 else if !s.slotUsed 0 then some 0 else none

/-- A staging in progress fails and leaves the inactive slot erased (R448, R449, R486). -/
def State.failStaging (s : State) : State :=
  match s.fw.staging with
  | none => s
  | some (_, slot, _) =>
    let s := { s with fw := { s.fw with staging := none } }
    (s.eraseSlot slot).setUpd 4 St.imageInvalid slot

/-- What holds or is lost while processor p restarts. -/
def State.holdFor (s : State) (p : Nat) : State :=
  if p == P.btp then s.failStaging
  else if p == P.sfp then s.enterCause 3
  else if p == P.dxp then s.holdDxp
  else if p == P.scp then s.holdScp else s

/-! ## Restarts (R438 to R441) -/

/-- A restart, or a start, is in progress. -/
def State.restarting (s : State) : Bool := (List.range 6).any (fun p => s.num Obj.fwState p == 1)

/-- Processor p restarts. Its release waits for a BTP that does not run; in recovery mode the BTP runs Chrysalis. -/
def State.beginRestart (s : State) (p cause : Nat) : State :=
  let s := s.holdFor p
  let s := ((s.setNum Obj.fwState p 1).count Obj.fwRestarts p).setNum Obj.fwLastCause p cause
  let s := s.modProc p (fun x => { x with
    restarting := some cause, start := s.clk.now, retry := cause == 5, waitBtp := p != P.btp && !s.runs P.btp })
  s.logCommon p 2 [cause]

/-- FW_RESTARTED. -/
def State.postRestarted (s : State) (p outcome : Nat) : State :=
  let x := s.proc p
  s.postEvent 0x0701 0xFFFF (le 1 p ++ le 1 (x.restarting.getD 0) ++ le 1 outcome ++ zeros 1 ++ le 4 ((s.clk.now - x.start) / us))

/-- FW_ACTIVATION. -/
def State.postActivation (s : State) (target slot status : Nat) : State :=
  s.postEvent 0x0702 0xFFFF (le 1 target ++ le 1 slot ++ le 2 status)

/-- The processors whose release waited for the BTP start their 150 ms (R439). -/
def State.releaseWaiting (s : State) : State :=
  (List.range 6).foldl (fun s p => if (s.proc p).waitBtp then s.modProc p (fun x => { x with waitBtp := false, start := s.clk.now }) else s) s

/-- Cause of the POWER_EVENT when the PWP returns. -/
def State.powerCause (s : State) : Nat :=
  let n := s.powerStateNow
  if n == 4 then 4 else if n == 1 then 1 else 2

/-- DISPATCHED items whose stage no slice runs any more. -/
def State.lostStages (s : State) : List (Nat × Nat) :=
  s.work.queues.flatMap (fun x => (x.2.items.filter (fun i => i.state == .dispatched && (match i.slice with
    | some m => s.sliceOf x.1 i.seq != some m
    | none => false))).map (fun i => (x.1, i.seq)))

/-- A job whose stage was lost in an SCP restart runs again with REPLAYED (R256). -/
def State.stageLost (s : State) (q n : Nat) : State := (s.loseRun q n).modItem q n (fun i => { i with replayed := true })

/-- The jobs whose program halted while the SCP restarted go on with their next one (R256). -/
def State.resumeRuns (s : State) : State := (List.range 6).foldl (fun s n => s.nextStage n) s

/-- A hold ends: the processor continues from the held state (R358, R439). -/
def State.endHold (s : State) (p : Nat) : State :=
  if p == P.btp then s.releaseWaiting
  else if p == P.sfp then s.leaveCause 3
  else if p == P.dxp then
    match s.link.heldFor with
    | some n => { s with link := { s.link with heldFor := none, renewed := s.clk.now + n - s.link.periodMs * ms } }
    | none => s
  else if p == P.pwp then s.refreshPower s.powerCause
  else if p == P.scp then
    let w := s.statLen
    let s := { s with work := { s.work with statEnd := (s.clk.lode / w + 2) * w } }
    (((s.lostStages.foldl (fun s i => s.stageLost i.1 i.2) s).resumeRuns).endUnloads).buildGraph
  else s

/-- RESTART_TIMEOUT: 150 ms have passed since the release (R440). -/
def execRestartTimeout (p : ProcId) (s : State) : Host.Outcome State Fault Refusal :=
  let x := s.proc p
  if s.num Obj.fwState p != 1 || x.waitBtp then .next s else
  let t := s.advanceTo (x.start + 150 * ms)
  if x.retry then done s ((t.postRestarted p 2).setNum Obj.fwState p 2)
  else
    let t := t.postRestarted p 1
    let t := if x.activating then
        (t.modProc p (fun x => { x with slot := x.prevSlot, activating := false })).postActivation p x.slot St.imageInvalid
      else t
    done s (t.beginRestart p 5)

/-- WATCHDOG_EXPIRY (R399). -/
def execWatchdogExpiry (p : ProcId) (s : State) : Host.Outcome State Fault Refusal :=
  if !s.runs p then .next s else
  let t := (s.count Obj.watchdogExpiries).postFault St.unavailable 4 p [5, 1]
  done s (t.beginRestart p 1)

/-- FW_MEMORY_ERROR. -/
def execFwMemoryError (p : ProcId) (s : State) : Host.Outcome State Fault Refusal :=
  if !s.runs p then .next s else done s (s.beginRestart p 4)

/-- FW_RESTART of processor p: it starts once the response has been sent. -/
def fwRestartRule (p : Nat) : WriteRule :=
  WriteRule.cmd
    (fun s _ =>
      if s.restarting || s.num Obj.fwState p != 0 || (p == P.btp && s.fw.staging.isSome) || (s.recovering && p != P.dxp) then
        St.stateConflict
      else 0)
    (fun s _ => { s with fw := { s.fw with due := some (.restart p 2) } })

end Sys2Proof.Machine
end

