-- ==== Sys2Proof/Machine/Update.lean ====
section
/-! DEFINITION. Staging, activation and commit of firmware bundles (R448 to R455, R457, R460). -/

namespace Sys2Proof.Machine

/-! ## Staging (R448, R449) -/

def stageAddr (b : Bytes) : Nat := fld b 0 8
def stageLen (b : Bytes) : Nat := fld b 8 4

/-- UPD_STAGE: the region's pages, then the state. -/
def updStageRule : WriteRule :=
  { check := fun _ v => match v with
      | .blob b => decide (4096 ≤ stageLen b ∧ stageLen b ≤ 33550336) && allZero (cut b 12 4)
      | .num _ => false
    pre := fun s v => match v with
      | .blob b =>
        if !s.pagesOk (fun e => e.hwr) (stageAddr b) (stageLen b) then St.pageRights
        else if s.num Obj.updState == 1 || s.num Obj.updState == 2 || s.fw.pending.isSome || s.inactive.isNone then
          St.stateConflict
        else 0
      | .num _ => 0
    apply := fun s v => match v, s.inactive with
      | .blob b, some k =>
        let s := { s with fw := { s.fw with staging := some (b, k, s.clk.now) } }
        (s.eraseSlot k).setUpd 1 (s.num Obj.updStatus) k
      | _, _ => s }

/-- UPD_STAGE. -/
def execUpdStage (w : BlobW) (s : State) : Host.Outcome State Fault Refusal :=
  .next (s.hostBlob (.updStage w) w Obj.updStage 0 updStageRule)

/-- A staging ends without a seal: the slot is left erased. -/
def State.rejectStaging (s : State) (k status : Nat) : State := (s.eraseSlot k).setUpd 4 status k

/-- STAGING_DONE: the region has been programmed into the inactive slot and is verified as an installation; a staging
completes within 120 s. -/
def execStagingDone (flashOk : Bool) (s : State) : Host.Outcome State Fault Refusal :=
  match s.fw.staging with
  | none => .next s
  | some (b, k, t0) =>
    if !s.runs P.btp then .next s else
    let t := { s with fw := { s.fw with staging := none } }
    if t0 + 120000 * ms ≤ s.clk.now || s.regionBad (stageAddr b) (stageLen b) || !flashOk then
      .next (t.rejectStaging k St.imageInvalid)
    else
      let t := t.setUpd 2 (s.num Obj.updStatus) k
      let t := t.flashPut (slotBase k) (s.readBytes (stageAddr b) (stageLen b))
      let (st, t) := t.checkRecord k
      .next (if st == St.ok then t.setUpd 3 St.ok k else t.rejectStaging k st)

/-- UPD_CANCEL (R450): the staged slot is erased. -/
def updCancelRule : WriteRule :=
  WriteRule.cmd
    (fun s _ =>
      if s.fw.pending.isSome || s.num Obj.updState == 1 || s.num Obj.updState == 2
          || (s.num Obj.updState == 3 && s.slotUsed (s.num Obj.updSlot)) then St.stateConflict
      else 0)
    (fun s _ =>
      let k := s.num Obj.updSlot
      if s.num Obj.updState == 3 then (s.eraseSlot k).setUpd 0 (s.num Obj.updStatus) k
      else if s.num Obj.updState == 0 then s else s.setUpd 0 (s.num Obj.updStatus) 0xFF)

/-- UPD_CANCEL. -/
def execUpdCancel (w : CmdW) (s : State) : Host.Outcome State Fault Refusal :=
  .next (s.hostWrite (.updCancel w) w Obj.updCancel 0 updCancelRule)

/-! ## Activation (R451 to R454) -/

def actTarget (n : Nat) : Nat := n % 256
def actSlot (n : Nat) : Nat := n / 256 % 2

/-- The component may be activated alone. -/
def State.bundleOnly (s : State) (k p : Nat) : Bool := (fld (compEntry (s.hdr k) p) 1 1).testBit 0

/-- POWER_STATE 3 or 4 holds an activation back. -/
def State.emergency (s : State) : Bool := decide (3 ≤ s.num Obj.powerState)

/-- A restart of a target is refused while another is in progress (R441); in recovery mode no processor has a slot to
run. -/
def State.activationHeld (s : State) (target : Nat) : Bool := target != 0xFF && (s.restarting || s.recovering)

def State.activatePre (s : State) (n : Nat) : Nat :=
  let target := actTarget n
  let st := s.activationStatus (actSlot n)
  if s.fw.pending.isSome then St.busy
  else if st != St.ok then st
  else if target != 0xFF && s.bundleOnly (actSlot n) target then St.stateConflict
  else if !s.emergency && s.activationHeld target then St.stateConflict
  else 0

/-- UPD_ACTIVATE. An activation that starts does so once its response has been sent (R454). -/
def updActivateRule : WriteRule :=
  { check := fun _ v => match v with
      | .num n => decide (n < 512) && (decide (actTarget n < 6) || actTarget n == 0xFF)
      | .blob _ => false
    pre := fun s v => match v with | .num n => s.activatePre n | .blob _ => 0
    apply := fun s v => match v with
      | .num n =>
        if s.emergency then
          let s := { s with fw := { s.fw with pending := some (actTarget n, actSlot n, s.clk.now, none) } }
          let s := s.setNum Obj.actPending 0 (if actTarget n == 0xFF then 128 else 2 ^ actTarget n)
          s.postActivation (actTarget n) (actSlot n) St.activationDeferred
        else { s with fw := { s.fw with due := some (.activate (actTarget n) (actSlot n)) } }
      | .blob _ => s
    answer := fun s _ => if s.emergency then St.activationDeferred else St.ok }

/-- No activation is pending any more. -/
def State.clearPending (s : State) : State :=
  ({ s with fw := { s.fw with pending := none } }).setNum Obj.actPending 0 0

/-- ACTIVATION_ABANDON: 60 s after its write. -/
def execActivationAbandon (s : State) : Host.Outcome State Fault Refusal :=
  match s.fw.pending with
  | none => .next s
  | some (target, k, t0, _) =>
    .next (((s.advanceTo (t0 + 60000 * ms)).clearPending).postActivation target k St.activationAbandoned)

/-! ## Commit (R455, R460) -/

/-- Every processor runs the same slot. -/
def State.oneSlot (s : State) : Bool :=
  (List.range 6).all (fun p => s.runs p && (s.proc p).released && (s.proc p).slot == (s.proc 0).slot) && !s.recovering

/-- The instar number that a commit raises the floor to. -/
def State.commitTo (s : State) : Nat := fld (s.hdr (s.proc 0).slot) 6 1

/-- The fuses after a commit whose programmed bits verify as the mask tells. -/
def State.raised (s : State) (verified : Nat) : State :=
  { s with trust := { s.trust with
      instar := raiseFloor verified (s.commitTo - s.floor) (s.floor + 1) s.trust.instar } }

def updCommitRule (verified : Nat) : WriteRule :=
  { check := fun _ _ => true
    pre := fun s _ => if !s.oneSlot || s.fw.pending.isSome || s.restarting then St.stateConflict else 0
    apply := fun s _ => s.raised verified
    answer := fun s _ => if (s.raised verified).floor < s.commitTo then St.unavailable else St.ok }

/-- UPD_COMMIT. -/
def execUpdCommit (w : CmdW) (verified : Nat) (s : State) : Host.Outcome State Fault Refusal :=
  .next (s.hostWrite (.updCommit w verified) w Obj.updCommit 0 (updCommitRule verified))

end Sys2Proof.Machine
end

