-- ==== Sys2Proof/Machine/Rules.lean ====
section
/-! DEFINITION. The write rule of every object: what its chapter adds to R369 (further conditions on the value,
preconditions, effect), in one table that generic dictionary writes, deferred writes and the load of persisted values
share. -/

namespace Sys2Proof.Machine

/-! ## Shapes of rules -/

/-- A stored value with a further condition on the number. -/
def numRule (r : ObjRow) (k : Nat) (check : State → Nat → Bool) : WriteRule :=
  { WriteRule.plain r k with check := fun s v => match v with | .num n => check s n | .blob _ => false }

/-- A stored value with a precondition on the state alone. -/
def preRule (r : ObjRow) (k : Nat) (pre : State → Nat) : WriteRule :=
  { WriteRule.plain r k with pre := fun s _ => pre s }

/-- A stored value with a condition on the number and a precondition on the state. -/
def bothRule (r : ObjRow) (k : Nat) (check : Nat → Bool) (pre : State → Nat) : WriteRule :=
  { numRule r k (fun _ n => check n) with pre := fun s _ => pre s }

/-! ## Rules of chapter "Host link" -/

/-- The fields of MACSEC_SAK lie in their ranges and the wrapped key unwraps (R334). -/
def State.sakOf (s : State) (b : Bytes) : Option Bytes :=
  let shared := Config.x25519 (kWrap s.trust.rootKey s.trust.runInstar) (cut b 20 32)
  let kek := (Config.hkdfSha512 shared [0x73, 0x61, 0x6B, 0x2D, 0x77, 0x72, 0x61, 0x70]).take 32
  Config.aesKeyUnwrap kek (cut b 52 40)

def sakFields (b : Bytes) : Bool :=
  decide (fld b 0 1 < 4) && decide (fld b 1 1 < 4) && (fld b 2 1 == 1 || fld b 2 1 == 2) && fld b 3 1 == 0

/-- An SA enters its direction: one with the same AN is replaced, and at most two stay, the newer ones. -/
def addSa (l : List Sa) (x : Sa) : List Sa :=
  let l := l.filter (fun y => y.an != x.an) ++ [x]
  l.drop (l.length - 2)

/-- MACSEC_SAK (R333, R334). -/
def macsecSakRule : WriteRule :=
  { check := fun s v => match v with
      | .blob b => sakFields b && (s.sakOf b).isSome
      | .num _ => false
    pre := fun _ _ => 0
    apply := fun s v => match v with
      | .blob b => match s.sakOf b with
        | some k =>
          let x : Sa := { an := fld b 0 1, suite := fld b 2 1, ssci := BitVec.ofNat 32 (ofBe (cut b 4 4)), salt := cut b 8 12
                          key := if fld b 2 1 == 1 then k.take 16 else k }
          let rx := (fld b 1 1).testBit 0
          let tx := (fld b 1 1).testBit 1
          { s with link := { s.link with
              rxSas := if rx then addSa s.link.rxSas x else s.link.rxSas
              txSas := if tx then addSa s.link.txSas x else s.link.txSas
              rxEver := s.link.rxEver || rx
              rxPn := if rx then tput s.link.rxPn x.an 0 else s.link.rxPn } }
        | none => s
      | .num _ => s }

/-- ORPHAN_RESUME (R357). -/
def orphanResumeRule : WriteRule :=
  WriteRule.cmd (fun s _ => if s.orphaned then 0 else St.stateConflict)
    (fun s _ => { s with link := { s.link with orphan := 0 } }.leaveCause 4)

/-! ## Rules of chapter "The object dictionary" -/

/-- PERS_ERASE (R382): the erase record is committed as any record; PERS commits answer BUSY while the BTP restarts
(R439). -/
def persEraseRule (flashOk : Bool) : WriteRule :=
  { check := fun _ _ => true
    pre := fun s _ => if s.runs P.btp then 0 else St.busy
    apply := fun s _ =>
      match s.commitRec { index := 0xFFFF, sub := 0, otype := 0, wseq := 0, value := [] } flashOk with
      | none => s.count Obj.persFail
      | some t => t
    answer := fun _ _ => if flashOk then St.ok else St.unavailable }

/-! ## Rules of chapter "Start-up, resets" -/

/-- WARM_CMD (R486, R492): the warm reset starts when the response has been sent. -/
def warmCmdRule : WriteRule :=
  WriteRule.cmd (fun _ _ => 0) (fun s _ => { s with fw := { s.fw with due := some (.warm 2) } })

/-- SLICE_RESET_CMD (R485): DEFER holds it only for another reset to end. -/
def sliceResetRule : WriteRule :=
  WriteRule.cmd
    (fun s n =>
      if s.num Obj.sliceState n != 0 || (s.slice n).off then St.stateConflict + 2 ^ 16
      else if (List.range 6).any (fun m => (s.slice m).resetting.isSome) then St.stateConflict else 0)
    (fun s n => s.beginReset n)

/-! ## Rules of the media chapters -/

/-- Binding fields and SENSOR_PROFILE while RAW_ENABLE is 1 (R289). -/
def State.rawBound (s : State) (k : Nat) : Nat := if s.num Obj.rawEnable k == 1 then St.stateConflict else 0
/-- Session objects while SRC_ENABLE is 1 (R313). -/
def State.srcBound (s : State) (k : Nat) : Nat := if s.num Obj.srcEnable k == 1 then St.stateConflict else 0
/-- CSI_LANES and CSI_RATE while a stream of the port is enabled (R309). -/
def State.csiBound (s : State) (k : Nat) : Nat :=
  if (List.range 48).any (fun n => s.rawOn n && s.num Obj.rawPort n == k) then St.stateConflict else 0

/-- Outputs that an attached stream's sets cannot hold (R301, R322). -/
def State.setsShort (s : State) (n : Nat) (src : Bool) (v : Val) : Nat :=
  match (s.stream n).attach, (s.stream n).sets with
  | some _, some (_, per, _) =>
    if (s.num Obj.srcEnable n == 1) == src && decide (per * pageBytes < (s.setShape n src).bytes v) then St.resourceOverflow
    else 0
  | _, _ => 0

def setRule (r : ObjRow) (n : Nat) (src : Bool) : WriteRule :=
  { WriteRule.plain r n with pre := fun s v => s.setsShort n src v }

/-! ## Rules of the other chapters -/

/-- STREAM_AFFINITY (R226). -/
def affinityRule (n : Nat) : WriteRule :=
  { numRule Obj.streamAffinity n (fun _ v => decide (v < 6) || v == 0xFF) with
    pre := fun s v => match v with
      | .num a => if decide (a < 6) && s.num Obj.sliceState a != 0 then St.stateConflict else 0
      | .blob _ => 0 }

/-- Peer objects 02 to 0A while a transfer with the peer is in flight (R234). -/
def State.peerBound (s : State) (k : Nat) : Nat := if (s.peer k).xfers.isEmpty then 0 else St.stateConflict

/-- VRHOT_CLOCK (R428): the clamp follows at once. -/
def vrhotRule : WriteRule :=
  { numRule Obj.vrhotClock 0 (fun _ n => n % 25 == 0) with
    apply := fun s v => (s.setVal Obj.vrhotClock 0 v).refreshPower s.powerCause }

/-! ## The table -/

/-- A rule by instance, outcome of the flash and value. -/
abbrev RuleOf := Nat → Bool → Val → WriteRule

def hostRules : List (ObjRow × RuleOf) :=
  [(Obj.persErase, fun _ ok _ => persEraseRule ok), (Obj.warmCmd, fun _ _ _ => warmCmdRule),
   (Obj.sliceResetCmd, fun _ _ _ => sliceResetRule), (Obj.orphanResume, fun _ _ _ => orphanResumeRule),
   (Obj.evtDepth, fun k _ _ => numRule Obj.evtDepth k (fun _ n => isPow2 n)), (Obj.macsecSak, fun _ _ _ => macsecSakRule)]

def srcPlain : List ObjRow :=
  [Obj.srcPort, Obj.srcAddr, Obj.srcUdp, Obj.srcVlan, Obj.srcPt, Obj.srcSsrc, Obj.srcCodec, Obj.srcProfile, Obj.srcLevel,
   Obj.srcWidth, Obj.srcHeight, Obj.srcFpsMax, Obj.srcMbps, Obj.srcParamsets, Obj.srcJitter, Obj.srcConceal,
   Obj.srcTimeout, Obj.srcSets]

def mediaRules : List (ObjRow × RuleOf) :=
  srcPlain.map (fun r => (r, fun k _ _ => preRule r k (fun s => s.srcBound k))) ++
  [(Obj.srcEnable, fun k _ _ => srcEnableRule k), (Obj.srcConvert, fun k _ _ => setRule Obj.srcConvert k true),
   (Obj.dpMode, fun k _ _ => dpModeRule k), (Obj.encReq, fun _ _ _ => encRule),
   (Obj.rawEnable, fun k _ _ => rawEnableRule k), (Obj.rawPort, fun k _ _ => preRule Obj.rawPort k (fun s => s.rawBound k)),
   (Obj.rawVc, fun k _ _ => bothRule Obj.rawVc k (fun n => decide (n < 16) && decide (4 ≤ n)) (fun s => s.rawBound k)),
   (Obj.rawDt, fun k _ _ => bothRule Obj.rawDt k (fun n => (dataType n).isSome) (fun s => s.rawBound k)),
   (Obj.rawWidth, fun k _ _ => bothRule Obj.rawWidth k (fun n => n % 2 == 0) (fun s => s.rawBound k)),
   (Obj.rawHeight, fun k _ _ => bothRule Obj.rawHeight k (fun n => n % 2 == 0) (fun s => s.rawBound k)),
   (Obj.sensorProfile, fun k _ _ => { preRule Obj.sensorProfile k (fun s => s.rawBound k) with
      check := fun _ v => profileReserved v.bytes }),
   (Obj.ispPipe, fun k _ _ => numRule Obj.ispPipe k (fun _ n => decide (n < 2) || n == 0xFF)),
   (Obj.ispParams, fun k _ _ => setRule Obj.ispParams k false),
   (Obj.expoReq, fun k _ _ => expoReqRule k), (Obj.sensorRetry, fun k _ _ => sensorRetryRule k),
   (Obj.csiLanes, fun k _ _ => bothRule Obj.csiLanes k (fun n => n == 1 || n == 2 || n == 4) (fun s => s.csiBound k)),
   (Obj.csiRate, fun k _ _ => preRule Obj.csiRate k (fun s => s.csiBound k)),
   (Obj.fsPhase, fun k _ _ => numRule Obj.fsPhase k (fun s n => decide (n < s.num Obj.fsPeriod k)))]

def peerPlain : List ObjRow := [Obj.peerPort, Obj.peerAddr, Obj.peerUdp, Obj.peerVlan, Obj.winPages, Obj.winRights]

def workRules : List (ObjRow × RuleOf) :=
  peerPlain.map (fun r => (r, fun k _ _ => preRule r k (fun s => s.peerBound k))) ++
  [(Obj.qAbortHead, fun _ _ _ => qAbortRule), (Obj.flagSetCmd, fun _ _ _ => flagSetRule),
   (Obj.flagClrCmd, fun _ _ _ => flagClrRule false), (Obj.epochOpen, fun _ _ _ => epochOpenRule),
   (Obj.epochCommit, fun _ _ _ => epochCommitRule), (Obj.epochDiscard, fun _ _ _ => epochDiscardRule),
   (Obj.qEnable, fun k _ _ => qEnableRule k), (Obj.qDepth, fun k _ _ => qDepthRule k),
   (Obj.chClear, fun k _ _ => clearRule chRows k), (Obj.arrClear, fun k _ _ => clearRule arrRows k),
   (Obj.tsClear, fun k _ _ => clearRule tsRows k), (Obj.slvClear, fun k _ _ => clearRule slvRows k),
   (Obj.brkResume, fun k _ v => brkRule k (if v = .num 2 then 2 else 1)),
   (Obj.streamAffinity, fun k _ _ => affinityRule k), (Obj.peerEnable, fun k _ _ => peerEnableRule k),
   (Obj.peerSeg, fun k _ _ => bothRule Obj.peerSeg k (fun n => n == 1024 || n == 8192) (fun s => s.peerBound k)),
   (Obj.winBase, fun k _ _ => bothRule Obj.winBase k (fun n => n % pageBytes == 0) (fun s => s.peerBound k)),
   (Obj.winFlag, fun k _ _ => bothRule Obj.winFlag k (fun n => decide (n < 1024) || n == 0xFFFF) (fun s => s.peerBound k))]

def trustRules : List (ObjRow × RuleOf) :=
  [(Obj.safeForce, fun _ _ _ => safeForceRule), (Obj.vrhotClock, fun _ _ _ => vrhotRule),
   (Obj.keyRevoke, fun _ ok _ => keyRevokeRule ok), (Obj.attNonce, fun _ _ _ => attNonceRule),
   (Obj.fwRestart, fun k _ _ => fwRestartRule k), (Obj.updStage, fun _ _ _ => updStageRule),
   (Obj.updActivate, fun _ _ _ => updActivateRule), (Obj.updCancel, fun _ _ _ => updCancelRule),
   (Obj.updCommit, fun _ ok _ => updCommitRule (if ok then 2 ^ 64 - 1 else 0))]

def ruleTable : List (ObjRow × RuleOf) := hostRules ++ mediaRules ++ workRules ++ trustRules

/-- The rule of instance k of row r for a value. Objects without an entry are stored as written. -/
def ruleFor (r : ObjRow) (k : Nat) (flashOk : Bool) (v : Val) : WriteRule :=
  match ruleTable.find? (fun x => x.1.key 0 == r.key 0) with
  | some x => x.2 k flashOk v
  | none => WriteRule.plain r k

/-! ## Looking objects up -/

/-- The row and instance of index:subindex (R365). -/
def instanceOf (r : ObjRow) (index sub : Nat) : Option (ObjRow × Nat) :=
  ((List.range r.count).find? (fun k => r.index k == index && r.subAt k == sub)).map (fun k => (r, k))

def findObj (index sub : Nat) : Option (ObjRow × Nat) := Obj.rows.findSome? (fun r => instanceOf r index sub)

/-! ## Command objects whose effect nothing else waits for -/

/-- PERS_ERASE. -/
def execPersErase (w : CmdW) (flashOk : Bool) (s : State) : Host.Outcome State Fault Refusal :=
  .next (s.hostWrite (.persErase w flashOk) w Obj.persErase 0 (persEraseRule flashOk))

/-- ORPHAN_RESUME. -/
def execOrphanResume (w : CmdW) (s : State) : Host.Outcome State Fault Refusal :=
  done s (s.hostWrite (.orphanResume w) w Obj.orphanResume 0 orphanResumeRule)

/-- MACSEC_SAK written by the lease holder; an unprotected write that R333 excepts arrives as a frame. -/
def execMacsecSak (w : BlobW) (s : State) : Host.Outcome State Fault Refusal :=
  .next (s.hostBlob (.macsecSak w) w Obj.macsecSak 0 macsecSakRule)

/-- SLICE_RESET_CMD. -/
def execSliceResetCmd (w : CmdW) (s : State) : Host.Outcome State Fault Refusal :=
  done s (s.hostWrite (.sliceResetCmd w) w Obj.sliceResetCmd 0 sliceResetRule)

end Sys2Proof.Machine
end

