-- ==== Sys2Proof/Machine/Tap.lean ====
section
/-! DEFINITION. The JTAG port of spec/20_electrical_package.md R509: an IEEE 1149.1 controller with BYPASS, SAMPLE/PRELOAD,
EXTEST and IDCODE. No row of the opcode table drives its balls, so TRST_N's pull-down holds it in reset on every run
(notes/assumptions/59.md); the operations say what the port does when it is driven. -/

namespace Sys2Proof.Machine
open Sys2Proof

/-- The controller's next state at a rising edge of TCK, by TMS (IEEE 1149.1). -/
def TapState.next (tms : Bool) : TapState → TapState
  | .testLogicReset => if tms then .testLogicReset else .runTestIdle
  | .runTestIdle => if tms then .selectDr else .runTestIdle
  | .selectDr => if tms then .selectIr else .captureDr
  | .captureDr | .shiftDr => if tms then .exit1Dr else .shiftDr
  | .exit1Dr => if tms then .updateDr else .pauseDr
  | .pauseDr => if tms then .exit2Dr else .pauseDr
  | .exit2Dr => if tms then .updateDr else .shiftDr
  | .updateDr | .updateIr => if tms then .selectDr else .runTestIdle
  | .selectIr => if tms then .testLogicReset else .captureIr
  | .captureIr | .shiftIr => if tms then .exit1Ir else .shiftIr
  | .exit1Ir => if tms then .updateIr else .pauseIr
  | .pauseIr => if tms then .exit2Ir else .pauseIr
  | .exit2Ir => if tms then .updateIr else .shiftIr

/-- The IDCODE: version 0x1 (stepping A1), part number 0xC048, the manufacturer, and the standard's 1 in bit 0 (R509). -/
def idcode : BitVec 32 := (0x1 : BitVec 4) ++ (0xC048 : BitVec 16) ++ Config.jtagMaker ++ (1 : BitVec 1)

/-- The levels that the model holds of the balls in the chain: the serial, D-PHY and GDDR6 balls are not in it (R509). -/
def Pins.chain (p : Pins) : List Bool := [p.pwronN, p.warmN, p.vrHotN, p.thermTripN, p.safeA, p.safeB]

/-- What CAPTURE loads into the selected data register: one 0 for BYPASS, the device's code for IDCODE, the sampled balls for
the boundary-scan register. -/
def Tap.capture (t : Tap) (p : Pins) : List Bool :=
  match t.instr with
  | .bypass => [false]
  | .idcode => (List.range 32).map (fun i => idcode.getLsbD i)
  | .samplePreload | .extest => Config.jtagSample p.chain

/-- The instruction that the shifted bits select; a code of none of the four selects BYPASS, as the standard has it. -/
def tapInstr (bits : List Bool) : TapInstr :=
  match Config.jtagDecode bits with
  | 1 => .samplePreload
  | 2 => .extest
  | 3 => .idcode
  | _ => .bypass

/-- One period of TCK with TMS and TDI: TRST_N low keeps the controller in Test-Logic-Reset with IDCODE selected. The port
reaches no processor, memory or fuse: it reads the pins' levels and writes its own registers alone. -/
def Tap.clock (p : Pins) (tms tdi : Bool) (t : Tap) : Tap :=
  if !t.trstN then { t with state := .testLogicReset, instr := .idcode } else
  let t := match t.state with
    | .testLogicReset => { t with instr := .idcode }
    | .captureDr => { t with shift := t.capture p }
    | .captureIr => { t with shift := Config.jtagIrCapture }
    | .shiftDr | .shiftIr => { t with shift := t.shift.drop 1 ++ [tdi] }
    | .updateDr => { t with cells := match t.instr with
                                      | .samplePreload | .extest => t.shift
                                      | .bypass | .idcode => t.cells }
    | .updateIr => { t with instr := tapInstr t.shift }
    | _ => t
  { t with state := t.state.next tms }

/-- TDO: the first bit of the register being shifted, undriven elsewhere. -/
def Tap.tdo (t : Tap) : Option Bool :=
  match t.state with
  | .shiftDr | .shiftIr => t.shift.head?
  | _ => none

/-- EXTEST drives the balls of the chain from the update stage; otherwise the core drives them. -/
def Tap.drives (t : Tap) : Bool := t.instr == .extest && t.trstN

end Sys2Proof.Machine
end

