-- ==== Sys2Proof/Machine/Start.lean ====
section
/-! DEFINITION. Power-on reset, Chrysalis, the release of the processors, bring-up, warm resets and recovery mode
(R211, R309, R327, R345, R358, R380, R392, R436, R452, R471 to R474, R481 to R486, R497). -/

namespace Sys2Proof.Machine

/-! ## Release of processors (R436) -/

/-- Processor p leaves reset with its component, or with the recovery program. -/
def State.release (s : State) (p : Nat) : State :=
  let s := if s.recovering then s.modProc p (fun x => { x with released := true }) else s.loadComponent p (s.proc p).slot
  (s.setNum Obj.fwState p 1).modProc p (fun x => { x with
    start := s.clk.now, restarting := none, retry := false, waitBtp := false })

def State.releaseOnce (s : State) (p : Nat) : State := if (s.proc p).released then s else s.release p

/-! ## Power-on reset (R411, R484, R497) -/

/-- Everything but OTP, flash and pins is lost. -/
def State.powerOnReset (s : State) : State :=
  { State.reset with
    pending := s.pending, freeCtr := s.freeCtr, clk := { Clock.reset with now := s.clk.now }
    pins := { s.pins with xspi := Xspi.reset, tap := Tap.reset, safeA := false, safeB := true, thermTripN := true, fsyncLast := [], fsyncPulses := [], fsyncPols := [] }
    trust := { s.trust with runInstar := 0, image := none, regAddrs := [] }, pers := s.pers
    safety := { Safety.reset with since := s.clk.now } }

/-! ## Chrysalis (R471 to R474) -/

/-- Recovery mode: the BTP stays in Chrysalis, the DXP runs the recovery program. -/
def State.enterRecovery (s : State) : State :=
  let s := { s with rst := { s.rst with phase := .recovery }, trust := { s.trust with runInstar := s.floor } }
  let s := (s.setNum Obj.devMode 0 1).setNum Obj.bootSlot 0 0xFF
  (s.setNum Obj.fwState P.btp 0).release P.dxp

/-- Every processor is to run slot k: its board configuration applies and the BTP's component starts. The data rate of the
memory is set at a cold reset only (R199), or when the full procedure runs in recovery mode (R473). -/
def State.bootFrom (s : State) (k : Nat) (rate : Bool) : State :=
  let c := s.board k
  let s := (s.setNum Obj.devMode 0 0).setNum Obj.bootSlot 0 k
  let s := if rate then s.setNum Obj.memRate 0 (fld c 6 1) else s
  let s := { s with trust := { s.trust with regAddrs := (List.range (fld c 7 1)).map (fun (i : Nat) => fld (boardEntry c i) 0 1) } }
  let s := (List.range 6).foldl (fun s p => s.modProc p (fun x => { x with slot := k })) s
  s.release P.btp

/-- Slot selection, then the start or recovery mode. -/
def State.selectBoot (s : State) (cands : List Nat) (bad : Nat → Bool) (rate : Bool) : State :=
  match s.select cands bad with
  | (none, t) => t.enterRecovery
  | (some k, t) => t.bootFrom k rate

/-- Chrysalis's map of the six enabled physical slices onto SL0 to SL5, in rising order: R8 gives no order, which is the
model's choice (notes/assumptions/49.md). -/
def Trust.mapSlices (t : Trust) : List Nat := (List.range 7).filter (· != t.sliceFuse)

/-- Chrysalis's map of the cores: the physical core left out of each enabled cluster (R170). -/
def Trust.mapCores (t : Trust) : List (Nat × Nat) :=
  (List.range 6).flatMap (fun n => (List.range 16).filterMap (fun k =>
    match t.mapSlices[n]?, tfind t.coreFuses (t.mapSlices.getD n 0 * 16 + k) with
    | some _, some c => some (n * 16 + k, c)
    | _, _ => none))

/-- R504: XSPI_RESET_N is pulsed low for 10 µs, the SFDP tables are read in 1S-1S-1S at 25 MHz, and the flash is switched to
8D-8D-8D where they declare it. -/
def Xspi.start (now : Nat) (octal : Bool) : Xspi :=
  { mode := if octal then .octal else .single, pulse := some (now, now + 10 * us), sfdp := some octal }

/-- The interface's clock in MHz (R504). -/
def XspiMode.mhz : XspiMode → Nat
  | .single => 25
  | .octal => 200

/-- The bytes of an address on the interface: R504 tells the 4 bytes of 8D-8D-8D; the 3 bytes of 1S-1S-1S are the standard's
(PRESUMED, notes/assumptions/59.md). -/
def XspiMode.addressBytes : XspiMode → Nat
  | .single => 3
  | .octal => 4

/-- t0: the boot flash is opened, slices and cores are mapped, Lodestar time counts from 0, the boot epoch is drawn, BOOTSEL sampled, a slot
selected. -/
def State.coldStart (s : State) (env : BootEnv) : State :=
  let (v, s) := s.draw
  let s := { s with
    rst := { ResetState.reset with
      sliceMap := s.trust.mapSlices, coreMap := s.trust.mapCores
      phase := .starting, t0 := s.clk.now, bootsel := env.bootsel, failSlices := env.failSlices.map (fun (x : SliceId) => x.val)
      failChannels := env.failChannels.map (fun (x : ChanId) => x.val) }
    pins := { s.pins with refclkOk := true, xspi := Xspi.start s.clk.now env.octal }, clk := { s.clk with lode := 0, slew := 0 }
    pers := { s.pers with torn := s.pers.torn || env.torn }
    work := { s.work with bootEpoch := v % (2 ^ 64 - 1) + 1 } }
  s.selectBoot (bootSlots env.bootsel) (fun k => if k == 0 then env.copyBadA else env.copyBadB) true

/-- PWRON_N and the monitored rails allow the start. -/
def State.powered (s : State) : Bool := s.pins.pwronN && s.pins.railsOk.all id

/-- PWRON_N_DEASSERT (R481). -/
def execPwronNDeassert (env : BootEnv) (s : State) : Host.Outcome State Fault Refusal :=
  if s.pins.pwronN then .next s else
  let t := { s with pins := { s.pins with pwronN := true } }
  .next (if t.powered then t.coldStart env else t)

/-- PWRON_N_ASSERT (R484). -/
def execPwronNAssert (s : State) : Host.Outcome State Fault Refusal :=
  if !s.pins.pwronN then .next s
  else .next { s with pins := { s.pins with pwronN := false } }.powerOnReset

/-- RAIL_MONITOR_LOW (R497). -/
def execRailMonitorLow (rail : Fin 3) (s : State) : Host.Outcome State Fault Refusal :=
  .next { s with pins := { s.pins with railsOk := s.pins.railsOk.set rail.val false } }.powerOnReset

/-- RAIL_MONITOR_RETURN (R497): 10 ms after the last monitored rail returned. -/
def execRailMonitorReturn (env : BootEnv) (s : State) : Host.Outcome State Fault Refusal :=
  if s.pins.railsOk.all id then .next s else
  let t := { s with pins := { s.pins with railsOk := [true, true, true] } }
  let t := t.advanceTo (t.clk.now + 10 * ms)
  .next (if t.powered then t.coldStart env else t)

/-- CORE_RAIL_LOW (R497): an island fault of a slice in service; no effect on the disabled slice's rail. STATUS and
DETAIL of its record are not told. -/
def execCoreRailLow (sl : Option SliceId) (s : State) : Host.Outcome State Fault Refusal :=
  match sl with
  | none => .next s
  | some n =>
    if s.rst.phase == .powerReset || s.num Obj.sliceState n != 0 || (s.slice n).off then .next s
    else done s ((s.postOpen 1 n).islandReaction n none)

/-- REFCLK_LOSS (R501): cause 1 until a cold reset. -/
def execRefclkLoss (s : State) : Host.Outcome State Fault Refusal :=
  if s.rst.phase == .powerReset || !s.pins.refclkOk then .next s
  else done s (({ s with pins := { s.pins with refclkOk := false } }.postOpen 0 0xFF).enterCause 1)

/-! ## Bring-up by the SCP (R342, R345, R483) -/

/-- The first page of n fresh system pages. -/
def State.reserve (s : State) (n : Nat) (e : Entry) : Option (Nat × Nat) × State :=
  match s.alloc n e with
  | some (p, t) => (some (p, n), t)
  | none => (none, s)

/-- The first golden test of a start is due at once on each slice that Chrysalis has mapped (R8). -/
def State.firstTests (s : State) : State :=
  (List.range 6).foldl (fun s n =>
    if s.num Obj.sliceState n != 0 || (s.rst.sliceMap[n]?).isNone then s else
    s.modSlice n (fun x => { x with
      off := false
      golden := { x.golden with due := some s.clk.now, overdue := false, running := true, repeated := false
                                lastEnd := s.clk.now, completed := false, lapsed := false } })) s

/-- The rings of the device: journal, events, log and trace; the region of the SYNC summary (R359). -/
def State.makeRings (s : State) : State :=
  let (j, s) := s.reserve 128 (sysEntry 1 false false true)
  let d := s.num Obj.evtDepth
  let (e, s) := s.reserve (ringPages d) (sysEntry 2 true false false)
  let (l, s) := s.reserve 64 (sysEntry 3 true false false)
  let (t, s) := s.reserve 256 (sysEntry 3 true false false)
  let (y, s) := s.reserve 1 (sysEntry 2 true false false)
  { s with link := { s.link with evBase := e, evDepth := d, syncAt := y }
           work := { s.work with journalAt := j }, fw := { s.fw with logBase := l, traceBase := t } }

/-- Cold: channels and slices that failed stay out of service, memory and rings are made, the journal is void. -/
def State.bringUpCold (s : State) : State :=
  let s := s.rst.failChannels.foldl (fun s c => s.retireChannel c) s
  let s := s.rst.failSlices.foldl (fun s n => s.setNum Obj.sliceState n 1) s
  s.makeRings.openWork

/-- Event e of the old ring, copied to its slot of a ring of depth d. -/
def State.copyEvent (s : State) (old new d e : Nat) : State :=
  let b := s.readBytes (old * pageBytes + 64 * ((e - 1) % s.link.evDepth)) 63
  s.writeBytes (new * pageBytes + 64 * ((e - 1) % d)) (b ++ le 1 (phase d e))

/-- A new EVT_DEPTH (R345): it stays pending where the unread events do not fit or no ring can be allocated. -/
def State.resizeEvents (s : State) (d : Nat) : State :=
  let head := s.num Obj.evtHead
  let tail := s.num Obj.evtTail
  match s.link.evBase, s.alloc (ringPages d) (sysEntry 2 true false false) with
  | some (old, k), some (new, t) =>
    if d < tail + 1 - head then s else
    let t := (List.range d).foldl (fun s j =>
      let next := tail + 1 + (j + d - tail % d) % d
      s.writeByte (new * pageBytes + 64 * j + 63) (BitVec.ofNat 8 (1 - phase d next))) t
    let t := (List.range (tail + 1 - head)).foldl (fun s i => s.copyEvent old new d (head + i)) t
    let t := (t.freePages old k).setNum Obj.evtDepth 0 d
    { t with link := { t.link with evBase := some (new, ringPages d), evDepth := d }
             work := { t.work with warmPend := tdel t.work.warmPend (Obj.evtDepth.key 0) } }
  | _, _ => s

/-- The bundle activation that the warm reset served has ended (R453, R454). -/
def State.bundleDone (s : State) : State :=
  match s.rst.bundleSlot with
  | none => s
  | some k =>
    let st := if (s.proc P.scp).slot == k then St.ok else St.imageInvalid
    { s with rst := { s.rst with bundleSlot := none } }.postActivation 0xFF k st

/-- Warm: GDDR6 leaves self-refresh, every channel in service is retrained before it admits a request, migrations are
undone (R211), the event ring takes a pending depth. -/
def State.bringUpWarm (s : State) : State :=
  let s := (upTo 12 s.chInService).foldl (fun s c => s.modChan c (fun x => { x with retraining := true, waking := true })) s
  let s := s.mem.migs.foldl (fun s m => s.abandonMig m.page) s
  match tfind s.work.warmPend (Obj.evtDepth.key 0) with
  | some (.num d) => s.resizeEvents d
  | _ => s

/-- The SCP has come up. -/
def State.bringUp (s : State) : State :=
  let s := if s.link.evBase.isNone then s.bringUpCold else s.bringUpWarm
  let s := { s with rst := { s.rst with memHeld := false } }
  (s.firstTests.drainEvents 257).bundleDone

/-! ## Loading the persistent area (R380) -/

/-- The value of stored bytes; none where their length is not that of the type. -/
def ObjRow.parse (r : ObjRow) (b : Bytes) : Option Val :=
  if r.otype ≤ 8 then (if b.length == r.maxLen then some (.num (ofLe b)) else none) else some (.blob b)

def State.applyPers (s : State) (x : PersRec) : State :=
  match findObj x.index x.sub with
  | none => s.count Obj.persIgnored
  | some (r, k) =>
    match r.parse x.value with
    | none => s.count Obj.persIgnored
    | some v =>
      if r.aclass / 4 % 2 == 1 && r.otype == x.otype && r.inRange v && (ruleFor r k true v).check s v then s.setVal r k v
      else s.count Obj.persIgnored

def State.loadPers (s : State) : State :=
  let s := { s with rst := { s.rst with loadDue := false } }
  let s := (lastRecs s.pers.recs).foldl State.applyPers s
  { s with link := { s.link with evDepth := s.num Obj.evtDepth } }

/-! ## Streams after a warm reset (R309, R327) -/

def State.admitAgain (s : State) (n : Nat) : State :=
  if s.rawOn n then (if s.rawFields n && s.rawAdmission n == 0 then s.startRaw n else s)
  else if s.srcOn n then
    let (p, s) := s.reserve (s.refPages n) (sysEntry 5 false false false)
    let s := s.modIng n (fun _ => { Ingest.init with
      ssrc := if s.num Obj.srcSsrc n == 0 then none else some (BitVec.ofNat 32 (s.num Obj.srcSsrc n))
      lastPkt := s.clk.now, lastAu := s.clk.now, lastAuLode := s.clk.lode, waitIrap := true, refAt := p })
    s.syncSrc n
  else s

/-! ## A processor reports ready (R438 to R440) -/

/-- The end of a restart. -/
def State.endRestart (s : State) (p : Nat) : State :=
  let x := s.proc p
  match x.restarting with
  | none => s
  | some c =>
    let s := if s.recovering then s else s.loadComponent p x.slot
    let s := (s.logCommon p 3 [c, (s.clk.now - x.start) / us]).postRestarted p 0
    let s := if x.activating then s.postActivation p x.slot St.ok else s
    (s.modProc p (fun x => { x with restarting := none, retry := false, activating := false })).endHold p

/-- What a processor's readiness lets go on at a start (R436, R481, R486). -/
def State.goOn (s : State) (p : Nat) : State :=
  if p == P.dxp then (if s.rst.loadDue then s.loadPers else s)
  else if s.recovering then s
  else if p == P.btp then (s.releaseOnce P.sfp).releaseOnce P.pwp
  else if p == P.sfp then s.releaseOnce P.dxp
  else if p == P.pwp then (if (s.proc P.scp).released then s else (s.setClocks.refreshPower s.powerCause).release P.scp)
  else if p == P.scp then (if s.rst.memHeld then s.bringUp else s).releaseOnce P.mdp
  else if s.rst.admitDue then
    (List.range 48).foldl (fun s n => s.admitAgain n) { s with rst := { s.rst with admitDue := false } }
  else s

/-- PROCESSOR_READY: a component that fails R470 never reports ready. -/
def execProcessorReady (p : ProcId) (s : State) : Host.Outcome State Fault Refusal :=
  let x := s.proc p
  if s.rst.phase == .powerReset || s.rst.phase == .warmHeld || s.num Obj.fwState p != 1 || x.waitBtp
      || !(s.recovering || s.componentOk x.slot p) then .next s
  else
    let t := (s.setNum Obj.fwState p 0).endRestart p
    let t := if p.val == P.sfp then t.leaveCause 3 else t
    done s (t.goOn p)

/-! ## Warm reset (R373, R473, R486) -/

/-- Counters of every instance of a row back at their defaults. -/
def State.clearAll (s : State) (rows : List ObjRow) : State :=
  rows.foldl (fun s r => (List.range r.count).foldl (fun s k => s.clearObj r k) s) s

/-- What a warm reset clears (R41, R47, R113, R131, R137, R197, R234, R309, R327, R384). -/
def warmRows : List ObjRow :=
  sliceRows ++ mailboxRows ++
  [Obj.decodeBatches, Obj.decodeRows, Obj.decodeFull, Obj.satEvents, Obj.driftEvents, Obj.verifyLast, Obj.verifyRejects] ++
  [Obj.migrations, Obj.migAbandoned, Obj.pagesLost, Obj.peerRetx, Obj.peerCrcFail, Obj.peerBytes] ++ chRows ++
  [Obj.frames, Obj.spilled, Obj.truncated, Obj.dropped, Obj.warmupFrames, Obj.i2cFail, Obj.expoSuperseded, Obj.csiBadPkt,
   Obj.fsSuppressed, Obj.genCommitted, Obj.genFrame] ++
  [Obj.rtpPkts, Obj.rtpLost, Obj.rtpDup, Obj.rtpLate, Obj.rtpDiscard, Obj.tsRegress, Obj.auIncomplete, Obj.auConcealed,
   Obj.ssrcChanges, Obj.dpRxDiscard]

/-- A slice after a warm reset. -/
def Slice.warm (x : Slice) : Slice :=
  { Slice.init with off := x.off, runs := x.runs, strikes := x.strikes, golden := { Golden.init with variant := x.golden.variant } }

/-- A stream after a warm reset: its attachment, output sets and report stay. -/
def Stream.warm (x : Stream) (used : List Nat) : Stream :=
  { Stream.init with
    attach := x.attach, lostFrom := x.lostFrom, sets := x.sets, setsUsed := used, setsDue := x.setsDue, affinity := x.affinity, givenFor := x.givenFor, epoch := x.epoch
    lastSof := x.lastSof, lastSofMono := x.lastSofMono, lastFrame := x.lastFrame
    reason := x.reason, refSof := x.refSof, validSof := x.validSof, decidedAt := x.decidedAt, undecided := x.undecided }

/-- The media block loses its frames; spill buffers and reference pictures are freed. -/
def State.warmMedia (s : State) : State :=
  let s := s.media.streams.foldl (fun (s : State) (x : Nat × Stream) => (s.freeRun x.2.raw.spillAt).freeRun x.2.ing.refAt) s
  let m := s.media
  { s with media := { m with
      streams := m.streams.map (fun (x : Nat × Stream) => (x.1, x.2.warm (s.heldSets x.1)))
      inline := [], m2m := [], decoding := [], i2c := [], snaps := [] } }

/-- Pending WARM values but a new EVT_DEPTH take effect (R371, R373). -/
def State.warmApply (s : State) : State :=
  let k := Obj.evtDepth.key 0
  let s := (s.work.warmPend.filter (fun x => x.1 != k)).foldl (fun (s : State) (x : Nat × Val) =>
    { s with objs := tput s.objs x.1 x.2 }) s
  { s with work := { s.work with warmPend := s.work.warmPend.filter (fun x => x.1 == k) } }

/-- Work after a warm reset: items, contexts and epochs stay (R256, R263, R266). -/
def State.warmWork (s : State) : State :=
  let w := s.work
  { s with work := { w with
      queues := w.queues.map (fun (x : Nat × Queue) => (x.1, { x.2 with accepting := none, halted := false, blockedSince := none }))
      ctxs := w.ctxs.map (fun (x : Nat × Ctx) => (x.1, { x.2 with decode := [] }))
      flags := [], openSet := none, deferred := [], cycles := [], heldStats := [], runSums := [], pairs := []
      replayDone := false } }

/-- The host link after a warm reset (R345, R358): the events that waited are lost, then the discarded deferred commands
wait to be reported. -/
def State.warmLink (s : State) : State :=
  let l := s.link
  let s := { s.count Obj.evtLost 0 l.evWait.length with link := { l with
    lease := .free, heldFor := none, expected := none, held := [], stored := [], staged := none, snapshot := none
    evWait := [], evDropped := l.evDropped + l.evWait.length, changed := [], changes := 0, timer := none } }
  s.abortDeferred

def Channel.warm (c : Channel) : Channel :=
  { c with sorter := [], waiting := [], openRows := [], checks := [], retraining := false, waking := false }

/-- Every processor is held in reset. -/
def Proc.warm (x : Proc) : Proc :=
  { Proc.init with slot := if x.activating then x.prevSlot else x.slot }

/-- Every slice after a warm reset. -/
def State.warmSlices (s : State) : State := (List.range 6).foldl (fun s n => s.modSlice n Slice.warm) s

/-- What the parts other than objects and slices hold after a warm reset. Crossings that wait for their acknowledge or
were abandoned are forgotten, so that a later acknowledge is not counted: the model's choice, because the spec is silent
(notes/assumptions/49.md). -/
def State.warmParts (s : State) : State :=
  { s with
    harts := [], clusters := [], tasks := []
    mem := { s.mem with chans := s.mem.chans.map (fun (c : Nat × Channel) => (c.1, c.2.warm)), admits := [] }
    peers := s.peers.map (fun (p : Nat × Peer) => (p.1, { p.2 with xfers := [], done := [] }))
    isl := { s.isl with crossings := [] }
    power := { s.power with domains := [] }
    safety := { s.safety with netDown := false }
    trust := { s.trust with image := none }
    fw := { s.fw with procs := s.fw.procs.map (fun (p : Nat × Proc) => (p.1, p.2.warm)), due := none } }

/-- Every processor starts again. -/
def State.warmProcs (s : State) : State := (List.range 6).foldl (fun s p => s.setNum Obj.fwState p 2) s

/-- The hardware below: slices, slivers, memory requests, peers, causes. -/
def State.warmHardware (s : State) : State :=
  let s := (s.clearAll warmRows).warmSlices.warmParts.warmProcs
  let s := if s.pins.refclkOk then s.leaveCause 1 else s
  (s.leaveCause 2).leaveCause 3

/-- Chrysalis reloads the processors (R473). In recovery mode the full procedure runs. -/
def State.reload (s : State) : State :=
  let was := s.num Obj.devMode == 1
  let s := { s with rst := { s.rst with phase := .starting } }
  let good := fun (_ : Nat) => false
  if was then s.selectBoot (bootSlots s.rst.bootsel) good true
  else match s.rst.bundleSlot with
    | some k =>
      if (List.range 6).all (s.componentOk k) && boardOk (s.board k) then s.bootFrom k false
      else s.selectBoot (bootSlots s.rst.bootsel) good false
    | none =>
      if (List.range 6).all (fun p => s.componentOk (s.proc p).slot p) then s.release P.btp
      else s.selectBoot (bootSlots s.rst.bootsel) good false

/-- A warm reset is triggered with its RESET_CAUSE, for a bundle activation with its slot. A trigger while THERM_TRIP_N is
latched is ignored (R425). -/
def State.warmReset (s : State) (cause : Nat) (bundle : Option Nat) : State :=
  if s.power.tripped || s.rst.phase == .powerReset then s else
  let s := s.failStaging.enterCause 0
  let s := (s.setNum Obj.resetCause 0 cause).count Obj.warmResets
  let s := { s with rst := { s.rst with
    t0 := s.clk.now, memHeld := true, admitDue := true, bundleSlot := bundle.or s.rst.bundleSlot } }
  let s := s.warmLink.warmHardware.warmMedia.warmApply.warmWork
  if s.pins.warmN then s.reload else { s with rst := { s.rst with phase := .warmHeld } }

/-- WARM_N_ASSERT: the device is held at step 4 while the level is low. -/
def execWarmNAssert (s : State) : Host.Outcome State Fault Refusal :=
  if !s.pins.warmN then .next s
  else done s ({ s with pins := { s.pins with warmN := false } }.warmReset 1 none)

/-- WARM_N_DEASSERT. -/
def execWarmNDeassert (s : State) : Host.Outcome State Fault Refusal :=
  if s.pins.warmN then .next s else
  let t := { s with pins := { s.pins with warmN := true } }
  .next (if t.rst.phase == .warmHeld then t.reload else t)

/-! ## What a host request starts (R441, R451, R454, R486) -/

/-- An activation starts. -/
def State.beginActivation (s : State) (target k : Nat) : State :=
  if target == 0xFF then s.warmReset 4 (some k) else
  (s.modProc target (fun x => { x with prevSlot := x.slot, slot := k, activating := true })).beginRestart target 3

/-- What the request under execution has left due, once its response has been sent. -/
def State.runDue (s : State) : State :=
  match s.fw.due with
  | none => s
  | some d =>
    let s := { s with fw := { s.fw with due := none } }
    match d with
    | .restart p c => s.beginRestart p c
    | .activate t k => s.beginActivation t k
    | .warm c => s.warmReset c none

/-- FW_RESTART. -/
def execFwRestart (p : ProcId) (w : CmdW) (s : State) : Host.Outcome State Fault Refusal :=
  done s (s.hostWrite (.fwRestart p w) w Obj.fwRestart p (fwRestartRule p)).runDue

/-- UPD_ACTIVATE of a processor. -/
def execUpdActivateProcessor (w : CmdW) (s : State) : Host.Outcome State Fault Refusal :=
  done s (s.hostWrite (.updActivateProcessor w) w Obj.updActivate 0 updActivateRule).runDue

/-- UPD_ACTIVATE of a whole bundle. -/
def execUpdActivateBundle (w : CmdW) (s : State) : Host.Outcome State Fault Refusal :=
  done s (s.hostWrite (.updActivateBundle w) w Obj.updActivate 0 updActivateRule).runDue

/-- WARM_CMD. -/
def execWarmCmd (w : CmdW) (s : State) : Host.Outcome State Fault Refusal :=
  done s (s.hostWrite (.warmCmd w) w Obj.warmCmd 0 warmCmdRule).runDue

/-- ACTIVATION_SETTLE (R453): POWER_STATE has been below 3 for 10 s, before the 60 s of its pendency have passed; it waits
while a restart is in progress. -/
def execActivationSettle (s : State) : Host.Outcome State Fault Refusal :=
  match s.fw.pending with
  | some (target, k, t0, some c) =>
    if s.emergency || s.activationHeld target || decide (t0 + 60000 * ms < c + 10000 * ms) then .next s
    else done s (((s.advanceTo (c + 10000 * ms)).clearPending).beginActivation target k)
  | _ => .next s

/-! ## Slice reset (R485) -/

/-- SLICE_RESET_TIMEOUT. -/
def execSliceResetTimeout (sl : SliceId) (s : State) : Host.Outcome State Fault Refusal :=
  match (s.slice sl).resetting with
  | none => .next s
  | some t => done s ((s.advanceTo (t + 50 * ms)).retireSlice sl 3)

/-! ## Crossings between islands (R12 to R16) -/

/-- The island is powered off, held in reset or unknown (R14): a slice out of service, being reset, or held with GDDR6
before the SCP has brought it up; a GDDR6 controller in the same hold, or both of whose channels are retired (its domains
are off, R409); the media block in recovery mode (R474). -/
def State.islandOff (s : State) (code : Nat) : Bool :=
  if code < 6 then s.num Obj.sliceState code != 0 || (s.slice code).off || (s.slice code).resetting.isSome || s.rst.memHeld
  else if 0x10 ≤ code ∧ code < 0x16 then s.rst.memHeld || !s.domainOn (202 + (code - 0x10))
  else if code == 0x20 then s.recovering
  else !(decide (0x21 ≤ code) && decide (code < 0x24))

/-- CROSSING_REQUEST: refused at once by an island that is off; acknowledged in time, it leaves nothing behind. A transfer
inside one island, between the two clocks of a slice, is no crossing (R11, R12). -/
def execCrossingRequest (req tgt : Nat) (chan : Option ChanId) (acked : Bool) (s : State) : Host.Outcome State Fault Refusal :=
  if s.rst.phase == .powerReset || req == tgt then .next s
  else if s.islandOff tgt then .next { s with isl := { s.isl with lastError := some (req, St.unavailable) } }
  else if acked then .next s
  else
    let c : Crossing := { id := s.isl.nextId, req := req, tgt := tgt, chan := chan.map (·.val), start := s.clk.now, abandoned := false }
    .next { s with isl := { s.isl with crossings := s.isl.crossings ++ [c], nextId := s.isl.nextId + 1 } }

/-- ISLAND_HANDSHAKE_TIMEOUT: 2 µs after the request the crossing is abandoned. R13 does not say which error the
requester receives: UNAVAILABLE is the model's choice (notes/assumptions/49.md). Where both islands fail to acknowledge
each other the one with the wider scope counts. -/
def execIslandHandshakeTimeout (id : Nat) (both : Bool) (s : State) : Host.Outcome State Fault Refusal :=
  match s.isl.crossings.find? (fun c => c.id == id && !c.abandoned) with
  | none => .next s
  | some c =>
    let t := s.advanceTo (c.start + 2 * us)
    let t := { t with isl := { t.isl with
      crossings := t.isl.crossings.map (fun (d : Crossing) => if d.id == id then { d with abandoned := true } else d)
      lastError := some (c.req, St.unavailable) } }
    let swap := both && decide (islandScope c.tgt < islandScope c.req)
    done s (if swap then t.islandFault c.req c.tgt c.chan else t.islandFault c.tgt c.req c.chan)

/-- LATE_ACKNOWLEDGE: discarded and counted. -/
def execLateAcknowledge (id : Nat) (s : State) : Host.Outcome State Fault Refusal :=
  match s.isl.crossings.find? (fun c => c.id == id) with
  | none => .next s
  | some c =>
    let i := { s.isl with crossings := s.isl.crossings.filter (fun d => d.id != id) }
    .next { s with isl := if c.abandoned then
        { i with lateAcks := tput i.lateAcks c.req (tget 0 i.lateAcks c.req + 1) } else i }

end Sys2Proof.Machine
end

