-- ==== Sys2Proof/Machine/Live.lean ====
section
/-! DEFINITION. What a read of the dictionary returns: objects computed from the state, pending values, subindex 0,
description records (R364, R368, R371, R376, R383). -/

namespace Sys2Proof.Machine

def flagBit (b : Bool) (k : Nat) : Nat := if b then 2 ^ k else 0

/-- The placement-table entry as 64 bits (R208). -/
def Entry.word (e : Entry) : Nat :=
  flagBit e.backed 63 + flagBit e.sys 62 + e.owner * 2 ^ 54 + flagBit e.rd 53 + flagBit e.wr 52 + flagBit e.hrd 51
    + flagBit e.hwr 50 + flagBit e.mirror 49 + flagBit e.lost 48 + e.channel * 2 ^ 44 + e.slot * 2 ^ 28 + e.seed * 2 ^ 24
    + e.mig * 2 ^ 22 + e.heat * 2 ^ 14

def SeqMode.code : SeqMode → Nat
  | .idle => 0
  | .issuing => 1
  | .held => 2
  | .draining => 3
  | .stopped => 4
  | .faulted => 5

def CtxState.code : CtxState → Nat
  | .empty => 0
  | .loading => 1
  | .ready => 2
  | .unloading => 3
  | .lost => 4

def Lease.code : Lease → Nat
  | .free => 0
  | .held => 1
  | .lapsed => 2

/-- SEQ_REGS (R131). -/
def SeqRegs.bytes (r : SeqRegs) : Bytes :=
  r.lc.toList.flatMap (fun w => le 4 w.toNat) ++ r.ab.toList.flatMap (fun w => le 4 w.toNat)
    ++ [BitVec.ofNat 8 (maskNat 4 (fun i => r.cmp.toList.getD i false))] ++ zeros 3

/-- Items of queue q ACCEPTED or DISPATCHED. -/
def State.inflight (s : State) (q : Nat) : Nat := ((s.queue q).items.filter (fun i => !i.isDone)).length

/-- Pages owned by context c. -/
def State.ctxPagesNow (s : State) (c : Nat) : Nat := (s.mem.table.filter (fun e => !e.2.sys && e.2.owner == c)).length

/-- Pages backed by channel c, mirror copies included. -/
def State.chPagesNow (s : State) (c : Nat) : Nat :=
  (s.mem.table.filter (fun e => e.2.backed && e.2.channel == c)).length + (s.mem.mirrors.filter (fun m => m.2.1 == c)).length

/-- STAT_LAST: the selected pair's last window record (R85). -/
def State.statLastNow (s : State) : Bytes :=
  if (s.ctx (s.num Obj.statCtx)).pkg.isNone then zeros 40 else
  match s.work.pairs.find? (fun x => x.1 == pairKey (s.num Obj.statCtx) (s.num Obj.statLayer)) with
  | some x => x.2.last.getD (zeros 40)
  | none => zeros 40

/-- Milliseconds left on the lease: 0 unless it is HELD. -/
def State.leaseRemainMs (s : State) : Nat := if s.link.lease == .held then s.leaseLeft / ms else 0

def pageAddr : Option (Nat × Nat) → Nat
  | some (p, _) => p * pageBytes
  | none => 0

/-- Sensor k in °C as F32 bits. -/
def State.tempBits (s : State) (k : Nat) : Nat := (milliF (tget Temp.init s.power.temps k).milliC).toNat

/-- The boot strap as sampled (R471). -/
def State.strap (s : State) : Nat := s.rst.bootsel.toNat

/-! ## Objects computed from the state -/

/-- Objects of the device as a whole, by instance. -/
def liveHost : List (ObjRow × (State → Nat → Val)) :=
  [(Obj.serial, fun s _ => .num s.trust.serial), (Obj.hlMac, fun s _ => .blob s.trust.hlMac),
   (Obj.leaseState, fun s _ => .num s.link.lease.code), (Obj.leaseHost, fun s _ => .blob (pad 16 s.link.hostId)),
   (Obj.leaseRemain, fun s _ => .num s.leaseRemainMs), (Obj.evtBase, fun s _ => .num (pageAddr s.link.evBase)),
   (Obj.logBase, fun s _ => .num (pageAddr s.fw.logBase)), (Obj.traceBase, fun s _ => .num (pageAddr s.fw.traceBase)),
   (Obj.ltNow, fun s _ => .num s.clk.lode), (Obj.dpMac, fun s k => .blob (s.trust.dpMacs.getD k [])),
   (Obj.spMac, fun s _ => .blob s.trust.spMac), (Obj.instarFloor, fun s _ => .num s.floor),
   (Obj.keyState, fun s _ => .num s.keyStateNow), (Obj.runInstar, fun s _ => .num s.trust.runInstar),
   (Obj.bootsel, fun s _ => .num s.strap), (Obj.attCert, fun s _ => .blob s.certNow)]

/-- Objects of work, safety and power. -/
def liveWork : List (ObjRow × (State → Nat → Val)) :=
  [(Obj.bootEpoch, fun s _ => .num s.work.bootEpoch),
   (Obj.flagState, fun s _ => .blob (maskBytes 128 (fun f => s.work.flags.contains f))),
   (Obj.epochStaged, fun s _ => .num ((s.work.openSet.getD []).length)), (Obj.statLast, fun s _ => .blob s.statLastNow),
   (Obj.qState, fun s q => .num (s.qStateNow q)), (Obj.qInflight, fun s q => .num (s.inflight q)),
   (Obj.ctxState, fun s c => .num (s.ctx c).state.code), (Obj.ctxPages, fun s c => .num (s.ctxPagesNow c)),
   (Obj.safeState, fun s _ => .num s.safeStateNow), (Obj.safeCauses, fun s _ => .num s.safety.causes.toNat),
   (Obj.streamValid, fun s _ => .num s.validMask),
   (Obj.streamReason, fun s _ => .blob (s.reasons.map (BitVec.ofNat 8))),
   (Obj.strikes, fun s n => .num (s.strikesNow n)),
   (Obj.goldenAgeMs, fun s n => .num (min 0xFFFFFFFF ((s.clk.now - (s.slice n).golden.lastEnd) / ms))),
   (Obj.tjNow, fun s _ => .num s.tjBits), (Obj.sliceMhz, fun s n => .num (s.pslice n).mhz),
   (Obj.sliceMv, fun s n => .num (s.pslice n).mv), (Obj.temp, fun s k => .num (s.tempBits k)),
   (Obj.domainOn, fun s _ => .blob (maskBytes 28 (fun d => decide (d < 219) && s.domainOn d)))]

/-- Objects of memory and slices. -/
def liveSlice : List (ObjRow × (State → Nat → Val)) :=
  [(Obj.pagesFree, fun s _ => .num s.pagesFree), (Obj.ptEntry, fun s _ => .num (s.entry (s.num Obj.ptIndex)).word),
   (Obj.chPages, fun s c => .num (s.chPagesNow c)), (Obj.dmaTagsBusy, fun s n => .num (s.slice n).store.tags.length),
   (Obj.seqState, fun s n => .num (s.slice n).seq.mode.code), (Obj.seqHold, fun s n => .num (s.slice n).seq.hold),
   (Obj.seqIssued, fun s n => .num (s.slice n).seq.issued), (Obj.seqPc, fun s n => .num (s.slice n).seq.pc),
   (Obj.seqRegs, fun s n => .blob (s.slice n).seq.regs.bytes)]

def liveTable : List (ObjRow × (State → Nat → Val)) := liveHost ++ liveWork ++ liveSlice

/-! ## Subindex 0 and description records (R364, R383) -/

/-- Keys of every object: its own and subindex 0 of its index. -/
def objKeys : List Nat :=
  Obj.rows.flatMap (fun r => (List.range r.count).flatMap (fun k => [r.index k * 256, r.key k]))

/-- The highest subindex at an index; none where it holds no object. -/
def topSub (index : Nat) : Option Nat :=
  match objKeys.filter (fun x => x / 256 == index) with
  | [] => none
  | l => some (l.foldl (fun a x => max a (x % 256)) 0)

/-- The first object at or after a key. -/
def nextKey (recovery : Bool) (key : Nat) : Option Nat :=
  minBy id (objKeys.filter (fun x => decide (key ≤ x) && (!recovery || recoveryIndex (x / 256))))

def ascii (t : String) : Bytes := t.toList.map (fun c => BitVec.ofNat 8 c.toNat)

def subName (index : Nat) : String :=
  if index == 0x1100 then "GEO_COUNT" else if index == 0x9100 then "AFF_COUNT" else "SUB_COUNT"

/-- Bytes 3 to 35 and the name of a description record. -/
def describe (key : Nat) : Bytes × Bytes :=
  match findObj (key / 256) (key % 256) with
  | some (r, _) =>
    let scalar := decide (r.otype ≤ 8)
    let d := match r.dflt with | .num n => if r.aclass / 8 % 2 == 1 then 0 else n | .blob _ => 0
    (le 1 r.otype ++ le 1 r.access ++ le 1 r.aclass ++ zeros 2 ++ le 4 r.maxLen ++ le 8 (if scalar then d else 0)
      ++ le 8 (if scalar then r.min else 0) ++ le 8 (if scalar then r.max else 0), ascii r.name)
  | none => (le 1 2 ++ le 1 1 ++ zeros 3 ++ le 4 1 ++ le 8 ((topSub (key / 256)).getD 0) ++ zeros 8 ++ le 8 255, ascii (subName (key / 256)))

/-- DESC_RECORD. -/
def State.descNow (s : State) : Bytes :=
  match nextKey s.recovering (s.num Obj.descIndex * 256 + s.num Obj.descSub) with
  | none => zeros 36 ++ [0xFF, 0xFF, 0xFF] ++ zeros 25
  | some k =>
    let n := match nextKey s.recovering (k + 1) with | some n => le 2 (n / 256) ++ le 1 n | none => [0xFF, 0xFF, 0xFF]
    let (b, name) := describe k
    le 2 (k / 256) ++ le 1 k ++ b ++ n ++ zeros 1 ++ pad 24 (name.take 24)

/-! ## A read -/

/-- The value last requested of an IDLE or WARM object, the value of the highest committed epoch of a MER object, the
default of a CMD object, the value in force of any other (R368, R371). -/
def State.readVal (s : State) (r : ObjRow) (k : Nat) : Val :=
  if r.access == 5 then r.dflt
  else match liveTable.find? (fun x => x.1.key 0 == r.key 0) with
    | some x => x.2 s k
    | none =>
      if r.key 0 == Obj.descRecord.key 0 then .blob s.descNow
      else match tfind s.work.idlePend (r.key k), tfind s.work.warmPend (r.key k) with
        | some v, _ => v
        | none, some v => v
        | none, none => s.val r k

/-- What a read finds: type, access and value. -/
structure Found where
  otype  : Nat
  access : Nat
  /-- the value as it travels -/
  bytes  : Bytes

/-- A value as it travels in a frame: a scalar in network byte order (R367). -/
def ObjRow.wire (r : ObjRow) : Val → Bytes
  | .num n => be r.maxLen n
  | .blob b => b

/-- The value that a frame carries; none where a scalar's length is not that of its type. -/
def ObjRow.unwire (r : ObjRow) (b : Bytes) : Option Val :=
  if r.otype ≤ 8 then (if b.length == r.maxLen then some (.num (ofBe b)) else none) else some (.blob b)

/-- An object by its name: index:subindex. -/
def State.lookup (s : State) (index sub : Nat) : Option Found :=
  if sub == 0 then
    (topSub index).map (fun n => { otype := 2, access := 1, bytes := le 1 n })
  else (findObj index sub).map (fun x => { otype := x.1.otype, access := x.1.access, bytes := x.1.wire (s.readVal x.1 x.2) })

end Sys2Proof.Machine
end

