-- ==== Sys2Proof/Machine/Sync.lean ====
section
/-! DEFINITION. The summary of SYNC (R359, R360). -/

namespace Sys2Proof.Machine

/-! ## Active faults (R359) -/

/-- The unit of a fault record is still out: a device cause in force, a slice or a channel out of service, a processor that
does not run. -/
def State.faultActive (s : State) (f : FaultRec) : Bool :=
  if f.scope == 0 then s.safety.causes.getLsbD 1 || s.safety.causes.getLsbD 2
  else if f.scope == 1 then s.num Obj.sliceState f.unit != 0
  else if f.scope == 2 then !s.chInService f.unit
  else if f.scope == 4 then !s.runs f.unit else false

/-- The active faults in time order, the last 64. -/
def State.activeFaults (s : State) : List FaultRec :=
  let l := s.isl.records.filter s.faultActive
  l.drop (l.length - 64)

def FaultRec.bytes (f : FaultRec) : Bytes :=
  le 8 f.time ++ le 2 f.status ++ le 1 f.scope ++ le 1 f.unit ++ zeros 4 ++ pad 16 (f.detail.take 16)

/-! ## Records -/

/-- A firmware record. SLOT, INSTALL_SEQ and digest of a processor that runs no slot are not told: free values. -/
def State.syncProc (s : State) (p : Nat) : Bytes × State :=
  let k := (s.proc p).slot
  let head := le 4 (s.num Obj.fwVersion p) ++ le 1 (s.num Obj.fwInstar p)
  if s.num Obj.devMode == 0 then
    (head ++ le 1 k ++ le 1 (s.fwStateNow p) ++ zeros 1 ++ le 8 (fld (s.sealBlock k) 8 8) ++ cut (s.sealBlock k) 16 16, s)
  else
    let (v, s) := s.draw
    (head ++ le 1 v ++ le 1 (s.fwStateNow p) ++ zeros 1 ++ le 24 (v / 256), s)

def State.syncQueue (s : State) (q : Nat) : Bytes :=
  le 1 (s.qStateNow q) ++ le 1 (s.num Obj.qPrio q) ++ le 2 (s.num Obj.qDepth q) ++ le 2 (s.inflight q) ++ zeros 2
    ++ le 4 (s.num Obj.sqHead q) ++ le 4 (s.num Obj.sqTail q) ++ le 8 (s.num Obj.cqHead q)
    ++ le 8 (s.num Obj.qLastAccepted q) ++ le 8 (s.num Obj.qLastPosted q) ++ le 8 (s.num Obj.sqBase q)
    ++ le 8 (s.num Obj.cqBase q) ++ le 4 (s.num Obj.qDropped q) ++ le 4 (s.num Obj.qRefused q)

def State.syncStream (s : State) (n : Nat) : Bytes :=
  let x := s.stream n
  let raw := s.num Obj.rawEnable n == 1
  let src := s.num Obj.srcEnable n == 1
  le 1 (if raw then 1 else if src then 2 else 0) ++ le 1 (if raw then 1 else if src then s.num Obj.srcState n else 0)
    ++ le 1 (if s.reasonOf n == 0 then 1 else 0) ++ le 1 ((x.attach.map (·.1)).getD 0xFF) ++ le 1 (s.affinityOf n) ++ zeros 3
    ++ le 4 x.epoch ++ le 4 x.lastFrame ++ le 8 x.lastSof ++ le 2 ((x.attach.map (·.2.1)).getD 0xFFFF) ++ zeros 6

/-! ## The summary -/

def State.deviceBits (s : State) : Nat :=
  flagBit s.degraded 0 + flagBit (s.num Obj.reproActive == 1) 1 + flagBit s.orphaned 2 + flagBit (!s.runs P.scp) 3

/-- Bytes 8 to 63. -/
def State.syncHead (s : State) (faults : Nat) : Bytes :=
  le 8 s.clk.lode ++ le 8 s.work.bootEpoch ++ le 4 s.link.session.toNat ++ le 4 s.leaseRemainMs ++ le 1 s.link.lease.code
    ++ le 1 (s.num Obj.ltState) ++ le 1 s.safeStateNow ++ le 1 (s.num Obj.powerState) ++ le 1 s.deviceBits ++ zeros 1
    ++ le 2 (maskNat 6 s.inService) ++ le 2 (maskNat 12 s.chInService) ++ le 2 faults ++ le 4 (s.num Obj.epochLast)
    ++ le 4 (s.num Obj.evtTail) ++ le 4 (s.num Obj.evtHead) ++ le 4 s.fw.logTail ++ le 4 s.fw.traceTail

/-- The summary from its bytes 8 on: VER, LENGTH and CRC before them. -/
def sealSummary (b : Bytes) : Bytes := le 2 1 ++ le 2 (b.length + 8) ++ le 4 (crc32 b) ++ b

/-- The summary at this instant; in recovery mode it ends at byte 255 (R361). -/
def State.summary (s : State) : Bytes × State :=
  let faults := s.activeFaults
  let (procs, t) := (List.range 6).foldl (fun (a : Bytes × State) p =>
    let (b, t) := a.2.syncProc p
    (a.1 ++ b, t)) (([] : Bytes), s)
  let front := s.syncHead faults.length ++ procs
  if s.recovering then (sealSummary front, t)
  else
    (sealSummary (front ++ zeros 64 ++ (List.range 64).flatMap s.syncQueue ++ (List.range 48).flatMap s.syncStream
      ++ faults.flatMap FaultRec.bytes), t)

/-- SYNC: the summary lies in the region, and the response gives its address and length. -/
def syncBody (s : State) : Nat × Bytes × State :=
  if !s.runs P.scp then (St.busy, [], s) else
  match s.link.syncAt with
  | none => (St.unavailable, [], s)
  | some (p, _) =>
    let (b, t) := s.summary
    (St.ok, be 8 (p * pageBytes) ++ be 4 b.length, t.writeBytes (p * pageBytes) b)

/-- SYNC. -/
def execSync (r : Req) (s : State) : Host.Outcome State Fault Refusal := .next (s.hostReq r 0x40 (.sync r) syncBody)

end Sys2Proof.Machine
end

