-- ==== Sys2Proof/Machine/Link.lean ====
section
/-! DEFINITION. The lease, event frames, Lodestar time, and device memory and result buffers over the host link (R338,
R341, R347 to R358). -/

namespace Sys2Proof.Machine

/-! ## CLAIM (R354) -/

/-- A random non-zero session other than the previous one. -/
def pickSession (v prev : Nat) : Nat :=
  if prev == 0 then v % (2 ^ 32 - 1) + 1
  else if v % (2 ^ 32 - 2) + 1 < prev then v % (2 ^ 32 - 2) + 1 else v % (2 ^ 32 - 2) + 2

/-- A grant: a new session bound to the request's source. -/
def State.grant (s : State) (r : Req) (hostId : Bytes) (periodMs : Nat) : State :=
  let (v, s) := s.draw
  let sess := BitVec.ofNat 32 (pickSession v s.link.session.toNat)
  let s := { s with link := { s.link with
    lease := .held, session := sess, hostId := hostId, bound := r.src, periodMs := periodMs, renewed := s.clk.now
    heldFor := none, expected := some (r.seq + 1), held := [], stored := [], changed := [], changes := 0, timer := none
    lastEvent := s.clk.now, frames := 0 } }
  s.postEvent 0x0203 0xFFFF (le 4 sess.toNat ++ hostId)

/-- A claim's outcome: the grant condition, then PERIOD_MS. -/
def State.claim (s : State) (r : Req) (hostId : Bytes) (periodMs : Nat) : State :=
  if !s.hostUp then s
  else if s.link.lease == .held && decide (hostId ≠ s.link.hostId) then s.respond r 1 St.leaseHeld [] false
  else if periodMs != 0 && (periodMs < 100 || decide (60000 < periodMs)) then s.respond r 1 St.range [] false
  else
    let n := if periodMs == 0 then s.num Obj.leasePeriod else periodMs
    let t := s.grant r hostId n
    t.respond { r with session := t.link.session } 1 St.ok (be 4 n ++ be 8 s.work.bootEpoch) false

/-- CLAIM. -/
def execClaim (r : Req) (hostId : Bytes) (periodMs : Nat) (s : State) : Host.Outcome State Fault Refusal :=
  .next (s.claim r hostId periodMs)

/-! ## RENEW, RELEASE, expiry (R355, R356) -/

/-- RENEW does nothing else than renew. -/
def renewBody (s : State) : Nat × Bytes × State := (St.ok, be 4 s.leaseRemainMs, s)

/-- RENEW. -/
def execRenew (r : Req) (s : State) : Host.Outcome State Fault Refusal := .next (s.hostReq r 0x03 (.renew r) renewBody)

/-- The lease lapses, by expiry (0) or by RELEASE (1): LEASE_LAPSED, then the orphan policy. -/
def State.lapse (s : State) (how : Nat) : State :=
  let policy := s.num Obj.orphanPolicy
  let s := { s with link := { s.link with lease := .lapsed } }
  let s := s.postEvent 0x0202 0xFFFF (le 4 s.link.session.toNat ++ le 1 policy ++ le 1 how)
  let s := { s with link := { s.link with orphan := max s.link.orphan policy, policyAtLapse := policy } }
  if policy == 2 then s.enterCause 4 else s

def releaseBody (s : State) : Nat × Bytes × State := (St.ok, [], s.lapse 1)

/-- RELEASE. -/
def execRelease (r : Req) (s : State) : Host.Outcome State Fault Refusal :=
  done s (s.hostReq r 0x02 (.release r) releaseBody)

/-- LEASE_EXPIRY: one period after the last renewal; a DXP restart holds the timer (R358). -/
def execLeaseExpiry (s : State) : Host.Outcome State Fault Refusal :=
  if s.link.lease != .held || s.link.heldFor.isSome then .next s
  else done s ((s.advanceTo (s.link.renewed + s.link.periodMs * ms)).lapse 0)

/-- HLP_HOLD_TIMEOUT (R338): a held request whose gap has not filled within 20 ms is discarded and counted. -/
def execHlpHoldTimeout (seq : Word) (s : State) : Host.Outcome State Fault Refusal :=
  match s.link.held.find? (fun h => h.1 == seq) with
  | none => .next s
  | some h =>
    let t := (s.advanceTo (h.2.2 + 20 * ms)).count Obj.hlSeqDiscard
    .next { t with link := { t.link with held := t.link.held.filter (fun x => x.1 != seq) } }

/-! ## EVENT frames (R349, R350) -/

def State.enabledQueues (s : State) : List Nat := upTo 64 (fun q => s.num Obj.qEnable q == 1)

def State.eventRecord (s : State) (q : Nat) : Bytes :=
  le 1 q ++ zeros 3 ++ be 4 (s.num Obj.sqHead q) ++ be 8 (s.num Obj.qLastPosted q)

/-- The body of an EVENT frame. -/
def State.eventBody (s : State) (heartbeat : Bool) : Bytes :=
  let qs := s.enabledQueues.filter (fun q => heartbeat || s.link.changed.contains q)
  be 4 (s.num Obj.evtTail) ++ be 4 s.fw.logTail ++ be 4 s.fw.traceTail ++ be 8 s.clk.lode ++ be 4 s.leaseRemainMs
    ++ le 1 qs.length
    ++ le 1 (flagBit heartbeat 0 + flagBit (s.safety.causes != 0) 1 + flagBit s.orphaned 2) ++ zeros 2
    ++ qs.flatMap s.eventRecord

/-- A frame goes to the bound address; SEQ counts the frames of the session, this one included. -/
def State.sendEvent (s : State) (heartbeat : Bool) : State :=
  let x : Resp := { type := 0x50, dst := s.link.bound, session := s.link.session
                    seq := BitVec.ofNat 32 (s.link.frames + 1), status := 0, body := s.eventBody heartbeat, sa := s.txSa }
  { s with link := { s.link with
      tx := s.link.tx ++ [x], frames := s.link.frames + 1, lastEvent := s.clk.now, changed := [], changes := 0, timer := none } }

/-- The instant at which the changes since the last frame are due to be sent. -/
def State.eventDueAt (s : State) (start : Nat) : Nat :=
  if s.num Obj.coalesceUs == 0 then s.link.lastEvent + 10 * us
  else if s.num Obj.coalesceCount ≤ s.link.changes then s.clk.now
  else start + s.num Obj.coalesceUs * us

/-- EVENT_FRAME_SEND. -/
def execEventFrameSend (s : State) : Host.Outcome State Fault Refusal :=
  match s.link.timer with
  | none => .next s
  | some t0 =>
    if !s.hostUp || s.link.lease != .held then .next s else .next ((s.advanceTo (s.eventDueAt t0)).sendEvent false)

/-- EVT_HEARTBEAT. -/
def execEvtHeartbeat (s : State) : Host.Outcome State Fault Refusal :=
  if !s.hostUp || s.link.lease != .held then .next s
  else .next ((s.advanceTo (s.link.lastEvent + s.num Obj.evtHeartbeatMs * ms)).sendEvent true)

/-! ## Lodestar time (R351, R352) -/

/-- An integer saturated to 32 bits, as I32. -/
def satI32 (i : Int) : Nat := wrap 32 (if i < -(2 ^ 31) then -(2 ^ 31) else if 2 ^ 31 ≤ i then 2 ^ 31 - 1 else i)

/-- TIME_STATE with the step in ns. -/
def State.timeState (s : State) (step : Int) : State :=
  s.postEvent 0x0204 0xFFFF (le 1 (s.num Obj.ltState) ++ zeros 7 ++ le 8 (wrap 64 step))

/-- GPTP_SYNC_RX: a valid Sync gives the grandmaster's time of this instant. The first lock steps; later an offset of at
most LT_STEP_NS is slewed, a larger one stepped. -/
def execGptpSyncRx (time : Nat) (s : State) : Host.Outcome State Fault Refusal :=
  if !s.link.up then .next s else
  let off : Int := (time : Int) - (s.clk.lode : Int)
  let was := s.num Obj.ltState
  let stepped := was == 0 || decide (s.num Obj.ltStepNs < off.natAbs)
  let t := (s.setNum Obj.ltState 0 1).setNum Obj.ltOffset 0 (satI32 off)
  let t := if stepped then { t.count Obj.ltSteps with clk := { t.clk with lode := time, slew := 0, lastSync := t.clk.now } }
    else { t with clk := { t.clk with slew := off, lastSync := t.clk.now } }
  done s (if stepped then t.timeState off else if was != 1 then t.timeState 0 else t)

/-- GPTP_HOLDOVER: 3 s without a valid Sync while LOCKED. -/
def execGptpHoldover (s : State) : Host.Outcome State Fault Refusal :=
  if s.num Obj.ltState != 1 then .next s
  else done s (((s.advanceTo (s.clk.lastSync + 3000 * ms)).setNum Obj.ltState 0 2).timeState 0)

/-- PEER_DELAY_MEASUREMENT: the peer delay exchange of IEEE 802.1AS is sent on the host port. -/
def execPeerDelayMeasurement (s : State) : Host.Outcome State Fault Refusal :=
  .next (if s.link.up then { s with clk := { s.clk with pdelay := s.clk.pdelay + 1 } } else s)

/-! ## Ports -/

/-- PORT_LINK_CHANGE of the host port (0), the safety port (1), D0 and D1 (2, 3). -/
def execPortLinkChange (port : Fin 4) (up : Bool) (s : State) : Host.Outcome State Fault Refusal :=
  let n := if up then 1 else 0
  .next (
    if s.rst.phase == .powerReset then s
    else if port == 0 then { s with link := { s.link with up := up } }
    else if port == 1 then s.setNum Obj.spLink 0 n
    else s.setNum Obj.dpLink (port.val - 2) n)

/-- The target of a neighbour discovery or ARP request is the safety port's address; an IPv4 address is mapped into
IPv6. -/
def State.isSpIp (s : State) (v4 : Bool) (target : Nat) : Bool :=
  target != 0 && ofBe (s.blob Obj.spIp) == (if v4 then 0xFFFF * 2 ^ 32 + target else target)

/-- SP_FRAME_RX (R393): only ARP and neighbour discovery for the port's own address are answered. -/
def execSpFrameRx (f : EthFrame) (s : State) : Host.Outcome State Fault Refusal :=
  let answer := match f.payload with
    | .arp t => s.isSpIp true t
    | .neighbour t => s.isSpIp false t
    | _ => false
  .next (
    if s.rst.phase == .powerReset || !f.fcsOk || !answer then s
    else { s with safety := { s.safety with replies := s.safety.replies ++ [f.src] } })

/-! ## Device memory (R339, R341) -/

/-- The bytes of a region, unless a block of it is uncorrectable. -/
def State.hostRead (s : State) (a n : Nat) : Nat × Bytes × State :=
  let (good, t) := (blocksOf a n).foldl (fun (x : Bool × State) b =>
    if x.1 then x.2.hostBlock (b * 64) else x) (true, s)
  if good then (St.ok, t.readBytes a n, t) else (St.unavailable, [], t)

/-- The blocks of a write in order: a partial block is merged, and an uncorrectable one ends the write. -/
def State.hostWriteBlocks (a : Nat) (data : Bytes) : List Nat → State → Nat × State
  | [], s => (St.ok, s)
  | b :: r, s =>
    let lo := max a (b * 64)
    let hi := min (a + data.length) (b * 64 + 64)
    let whole := hi - lo == 64
    let (good, t) := if whole then (true, s.unmarkBad (b * 64)) else s.hostBlock (b * 64)
    if !good then (St.unavailable, t)
    else State.hostWriteBlocks a data r (t.writeBytes lo (cut data (lo - a) (hi - lo)))

/-- A length of 1 to 1,408 bytes, and GDDR6 out of self-refresh. -/
def State.memPre (s : State) (len : Nat) : Nat :=
  if len == 0 || decide (1408 < len) then St.range else if s.rst.memHeld then St.unavailable else St.ok

def memReadBody (addr len : Nat) (s : State) : Nat × Bytes × State :=
  let st := s.memPre len
  if st != St.ok then (st, [], s)
  else if !s.pagesOk (fun e => e.hrd) addr len then (St.pageRights, [], s)
  else s.hostRead addr len

/-- MEM_READ. -/
def execMemRead (r : Req) (addr len : Nat) (s : State) : Host.Outcome State Fault Refusal :=
  done s (s.hostReq r 0x20 (.memRead r addr len) (memReadBody addr len))

def memWriteBody (addr : Nat) (bytes : Bytes) (s : State) : Nat × Bytes × State :=
  let st := s.memPre bytes.length
  if st != St.ok then (st, [], s)
  else if !s.pagesOk (fun e => e.hwr) addr bytes.length then (St.pageRights, [], s)
  else
    let (st, t) := State.hostWriteBlocks addr bytes (blocksOf addr bytes.length) s
    (st, [], t)

/-- MEM_WRITE. -/
def execMemWrite (r : Req) (addr : Nat) (bytes : Bytes) (s : State) : Host.Outcome State Fault Refusal :=
  done s (s.hostReq r 0x21 (.memWrite r addr bytes) (memWriteBody addr bytes))

/-! ## Result buffers (R347, R348) -/

/-- What a handle finds: 0 a PENDING buffer, 1 a READY one, 2 none of its generation, 3 no context or no such index. -/
def State.handleFinds (s : State) (h : Nat) : Nat :=
  let c := handleCtx h
  let x := s.ctx c
  let loaded := x.state == .ready || x.state == .unloading || x.state == .lost
  if !loaded || s.num Obj.ctxPool c ≤ handleIdx h then 3
  else
    let b := tget Buf.free x.bufs (handleIdx h)
    if b.gen != handleGen h then 2
    else match b.state with
      | .pending => 0
      | .ready => 1
      | .released => 2

def resultReadBody (h offset len : Nat) (s : State) : Nat × Bytes × State :=
  let st := s.memPre len
  let found := s.handleFinds h
  if st != St.ok then (st, [], s)
  else if found == 3 then (St.range, [], s)
  else if found == 2 then (St.released, [], s)
  else if found == 0 then (St.notReady, [], s)
  else if (tget Buf.free (s.ctx (handleCtx h)).bufs (handleIdx h)).readable < offset + len then (St.range, [], s)
  else s.hostRead (s.bufAddr (handleCtx h) (handleIdx h) + offset) len

/-- RESULT_READ. -/
def execResultRead (r : Req) (handle : Word) (offset len : Nat) (s : State) : Host.Outcome State Fault Refusal :=
  done s (s.hostReq r 0x22 (.resultRead r handle offset len) (resultReadBody handle.toNat offset len))

/-- One handle of a RESULT_RELEASE. -/
def State.releaseBuf (s : State) (h : Nat) : Nat × State :=
  match s.handleFinds h with
  | 0 => (St.stateConflict, s)
  | 1 => (St.ok, s.modBuf h (fun b => { b with state := .released }))
  | 2 => (St.released, s)
  | _ => (St.range, s)

def State.releaseBufs : List Word → State → Bytes × State
  | [], s => ([], s)
  | h :: r, s =>
    let (st, s) := s.releaseBuf h.toNat
    let (b, s) := State.releaseBufs r s
    (be 2 st ++ b, s)

def resultReleaseBody (hs : List Word) (s : State) : Nat × Bytes × State :=
  if hs.isEmpty || decide (64 < hs.length) then (St.range, [], s)
  else
    let (b, t) := State.releaseBufs hs s
    (St.ok, b, t)

/-- RESULT_RELEASE. -/
def execResultRelease (r : Req) (handles : List Word) (s : State) : Host.Outcome State Fault Refusal :=
  .next (s.hostReq r 0x23 (.resultRelease r handles) (resultReleaseBody handles))

end Sys2Proof.Machine
end

