-- ==== Sys2Proof/Machine/Dict.lean ====
section
/-! DEFINITION. Dictionary requests with their segments and snapshots, and the mailbox (R340, R355, R361, R369, R370,
R376). -/

namespace Sys2Proof.Machine

/-! ## The mailbox (R361, R475) -/

def mbCodes : List Nat := [1, 2, 3, 0x10, 0x11, 0x12]

/-- The identity objects' values as stored, in order of subindex. -/
def State.identity (s : State) : List Bytes :=
  [Obj.vendor, Obj.partName, Obj.stepping, Obj.serial, Obj.dictVersion, Obj.devMode].map (fun r => r.stored (s.readVal r 0))

/-- Bytes are put into the data window; those behind them keep what they held. -/
def State.mbPut (s : State) (b : Bytes) : State :=
  let b := b.take 1024
  (s.setBlob Obj.mbData 0 (patch (s.blob Obj.mbData) 0 b)).setNum Obj.mbLen 0 b.length

/-- SYNC_PART: offset 0 takes a new snapshot of the summary. -/
def State.mbPart (s : State) : Nat × State :=
  let off := fld (s.blob Obj.mbArg) 0 4
  let s := if off == 0 then
      let (b, t) := s.summary
      { t with link := { t.link with part := b } }
    else s
  if s.link.part.length ≤ off then (St.range, s) else (St.ok, s.mbPut (cut s.link.part off 1024))

/-- A mailbox command: its outcome. -/
def State.mbRun (s : State) (code : Nat) : Nat × State :=
  if code == 1 then (St.ok, s.mbPut (Config.identLayout s.identity))
  else if code == 2 then s.mbPart
  else if code == 3 then (St.ok, { s with fw := { s.fw with due := some (.warm 3) } })
  else if code == 0x10 then s.imageBegin (s.blob Obj.mbArg)
  else if code == 0x11 then s.imageData (s.blob Obj.mbArg) (s.blob Obj.mbData)
  else s.imageEnd

/-- MB_CMD: the command ends before its write is answered, so MB_STATUS never reads BUSY after an answer. -/
def mbCmdRule : WriteRule :=
  { check := fun _ v => match v with | .num n => mbCodes.contains n | .blob _ => false
    pre := fun _ _ => 0
    apply := fun s v => match v with
      | .num n =>
        let (st, s) := s.mbRun n
        (s.setNum Obj.mbStatus 0 st).count Obj.mbSeq
      | .blob _ => s }

/-- The rule of any object's write. -/
def writeRule (r : ObjRow) (k : Nat) (flashOk : Bool) (v : Val) : WriteRule :=
  if r.key 0 == Obj.mbCmd.key 0 then mbCmdRule else ruleFor r k flashOk v

/-! ## DICT_READ (R340, R355, R370) -/

/-- The value that a read at an offset is taken from: the snapshot while it is the object's and within 1 s of its last
read, a new one otherwise. -/
def State.snapshotFor (s : State) (key offset : Nat) (now' : Bytes) : Bytes :=
  match s.link.snapshot with
  | some (k, b, t) => if offset != 0 && k == key && decide (s.clk.now ≤ t + 1000 * ms) then b else now'
  | none => now'

/-- A read of an existing object. -/
def State.readFound (s : State) (f : Found) (key offset maxLen : Nat) : Nat × Bytes × State :=
  let b := s.snapshotFor key offset f.bytes
  let t := { s with link := { s.link with snapshot := some (key, b, s.clk.now) } }
  let v := cut b offset maxLen
  if f.otype ≤ 8 && (offset != 0 || decide (maxLen < b.length)) then (St.range, [], t)
  else if b.length != 0 && decide (b.length ≤ offset) then (St.range, [], t)
  else (St.ok, le 1 f.otype ++ le 1 f.access ++ be 4 b.length ++ be 2 v.length ++ v, t)

def dictReadBody (index sub offset maxLen : Nat) (s : State) : Nat × Bytes × State :=
  if s.recovering && !recoveryIndex index then (St.unavailable, [], s)
  else if maxLen == 0 || decide (1024 < maxLen) then (St.range, [], s)
  else match s.lookup index sub with
    | none => (St.unknownObject, [], s)
    | some f =>
      let t := s.touch (index * 256 + sub) false
      if f.access == 3 then (St.access, [], t) else t.readFound f (index * 256 + sub) offset maxLen

/-- Objects that anyone may read with SESSION 0 (R355). -/
def openObject (index sub : Nat) : Bool := decide (0x1000 ≤ index ∧ index ≤ 0x1FFF) || (index == 0x2010 && sub == 3)

/-- A request executed as it arrives, outside the order of the session (R338). -/
def State.freeReq (s : State) (r : Req) (type : Nat) (body : State → Nat × Bytes × State) : State :=
  if !s.hostUp then s else
  let (st, b, t) := body s
  t.respond r type st b false

def State.dictRead (s : State) (r : Req) (cmd : Instr) (index sub offset maxLen : Nat) : State :=
  if r.session == 0 && openObject index sub then s.freeReq r 0x10 (dictReadBody index sub offset maxLen)
  else s.hostReq r 0x10 cmd (dictReadBody index sub offset maxLen)

/-- DICT_READ. -/
def execDictRead (r : Req) (index : BitVec 16) (sub : Byte) (offset maxLen : Nat) (s : State) :
    Host.Outcome State Fault Refusal :=
  .next (s.dictRead r (.dictRead r index sub offset maxLen) index.toNat sub.toNat offset maxLen)

/-! ## DICT_WRITE (R340, R369) -/

/-- What a segment makes of the staged bytes of the object at a key. -/
inductive Segment where
  /-- the segment does not run on: nothing stays staged -/
  | bad
  | more (staged : Bytes)
  | complete (value : Bytes)

def State.segment (s : State) (key : Nat) (offset : Nat) (last : Bool) (b : Bytes) : Segment :=
  let before := if offset == 0 then some [] else
    match s.link.staged with
    | some (k, x, t) =>
      if k == key && x.length == offset && decide (s.clk.now ≤ t + 1000 * ms) then some x else none
    | none => none
  match before with
  | none => .bad
  | some x => if last then .complete (x ++ b) else .more (x ++ b)

def State.setStaged (s : State) (x : Option (Nat × Bytes × Nat)) : State := { s with link := { s.link with staged := x } }

/-- Steps 2 to 7 of R369 for a segment of an existing object. -/
def State.writeFound (s : State) (r : ObjRow) (k : Nat) (w : DictW) : Nat × State :=
  if r.access == 1 then (St.access, s)
  else if 1024 < w.bytes.length then (St.range, s.setStaged none)
  else if r.otype ≤ 8 && !w.last then (St.range, s.setStaged none)
  else match s.segment (r.key k) w.offset w.last w.bytes with
    | .bad => (St.range, s.setStaged none)
    | .more x => (St.ok, s.setStaged (some (r.key k, x, s.clk.now)))
    | .complete x =>
      match r.unwire x with
      | none => (St.range, s.setStaged none)
      | some v => (s.setStaged none).writeObj r k (writeRule r k w.flashOk v) v w.defer w.flashOk

def dictWriteBody (w : DictW) (s : State) : Nat × Bytes × State :=
  let index := w.index.toNat
  let sub := w.sub.toNat
  if s.recovering && !recoveryIndex index then (St.unavailable, [], s)
  else match findObj index sub with
    | none => (if sub == 0 && (topSub index).isSome then St.access else St.unknownObject, [], s)
    | some (r, k) =>
      let (st, t) := (s.touch (r.key k) true).writeFound r k w
      (st, [], t)

/-- IDENT needs no lease (R361). -/
def isIdent (w : DictW) : Bool := w.index == 0xF000 && w.sub == 1 && w.last && w.offset == 0 && decide (w.bytes = [1])

def State.dictWrite (s : State) (w : DictW) (cmd : Instr) : State :=
  if isIdent w && !s.holder w.req then s.freeReq w.req 0x11 (dictWriteBody w)
  else s.hostReq w.req 0x11 cmd (dictWriteBody w)

/-- DICT_WRITE. -/
def execDictWrite (w : DictW) (s : State) : Host.Outcome State Fault Refusal :=
  done s (s.dictWrite w (.dictWrite w)).runDue

/-- MER_WRITE (R266, R267, R371): a DICT_WRITE of a MER-class object, staged in the open set or an epoch by itself. -/
def execMerWrite (w : DictW) (s : State) : Host.Outcome State Fault Refusal :=
  done s (s.dictWrite w (.merWrite w)).runDue

/-- IDLE_WRITE (R268, R371): a DICT_WRITE of an IDLE-class object waits for the next idle point. -/
def execIdleWrite (w : DictW) (s : State) : Host.Outcome State Fault Refusal :=
  done s (s.dictWrite w (.idleWrite w)).runDue

/-- DICT_STAGE_TIMEOUT: 1 s without a segment discards the staged bytes. -/
def execDictStageTimeout (s : State) : Host.Outcome State Fault Refusal :=
  match s.link.staged with
  | none => .next s
  | some (_, _, t) => .next ((s.advanceTo (t + 1000 * ms)).setStaged none)

/-! ## Mailbox commands -/

/-- A write of a code to MB_CMD. -/
def mbWrite (r : Req) (code : Nat) : DictW :=
  { req := r, index := 0xF000, sub := 1, defer := false, last := true, offset := 0, bytes := le 1 code, flashOk := true }

/-- IDENT. -/
def execIdent (r : Req) (s : State) : Host.Outcome State Fault Refusal := .next (s.dictWrite (mbWrite r 1) (.ident r))

/-- SYNC_PART. -/
def execSyncPart (r : Req) (s : State) : Host.Outcome State Fault Refusal := .next (s.dictWrite (mbWrite r 2) (.syncPart r))

/-- WARM_RESET: the warm reset starts when the write has been answered. -/
def execMbWarmReset (r : Req) (s : State) : Host.Outcome State Fault Refusal :=
  done s (s.dictWrite (mbWrite r 3) (.mbWarmReset r)).runDue

/-- IMAGE_BEGIN. -/
def execImageBegin (r : Req) (s : State) : Host.Outcome State Fault Refusal :=
  .next (s.dictWrite (mbWrite r 0x10) (.imageBegin r))

/-- IMAGE_DATA. -/
def execImageData (r : Req) (s : State) : Host.Outcome State Fault Refusal :=
  .next (s.dictWrite (mbWrite r 0x11) (.imageData r))

/-- IMAGE_END. -/
def execImageEnd (r : Req) (s : State) : Host.Outcome State Fault Refusal :=
  .next (s.dictWrite (mbWrite r 0x12) (.imageEnd r))

end Sys2Proof.Machine
end

