-- ==== Sys2Proof/Machine/Waits.lean ====
section
/-! DEFINITION. Ends of waits by their limits, deferred commands, idle points (R260, R265, R268, R274, R376, R377). -/

namespace Sys2Proof.Machine

/-! ## Wait limits (R130, R193, R260, R265) -/

/-- The wait of the next item of queue q ends: it completes WAIT_TIMEOUT. A deferred item whose precondition holds waits no
longer. -/
def State.headTimeout (s : State) (q : Nat) : State :=
  match s.nextItem q with
  | none => s
  | some i =>
    if i.waitFrom.isNone || !s.runs P.scp || (i.deferred && s.holdsFor q i) then s else
    let t := (s.advanceTo i.waitEnd).finish q i.seq { Finish.plain St.waitTimeout with cycle := 3 }
    (t.headWait q).buildGraph

/-- A sequencer's wait ends its job. -/
def State.seqTimeout (s : State) (n : Nat) : State :=
  match (s.slice n).seq.waitFlag with
  | none => s
  | some (_, e) => ((s.advanceTo e).endJobFault n St.waitTimeout none .faulted 3).buildGraph

/-- A sliver thread's wait ends under cause 0x0A. -/
def State.threadTimeout (s : State) (k : Nat) : State :=
  match (s.hart k).wait with
  | .flag f e =>
    let t := s.advanceTo e
    (t.sliverFault { hart := k, cause := 0x0A, status := St.waitTimeout, detail := f, pc := (t.hart k).pc.toNat, cycle := 3 }).buildGraph
  | _ => s

/-- Deferred dictionary command number k is held no longer. -/
def State.dropDeferred (s : State) (k : Nat) : State :=
  { s with work := { s.work with deferred := s.work.deferred.eraseIdx k } }

/-- A held dictionary command expires. -/
def State.deferredTimeout (s : State) (k : Nat) : State :=
  match s.work.deferred[k]? with
  | none => s
  | some d => if !s.runs P.dxp then s else ((s.advanceTo d.due).dropDeferred k).deferDone d St.waitTimeout

/-- WAIT_TIMEOUT_EXPIRY. -/
def execWaitTimeoutExpiry (w : WaitRef) (s : State) : Host.Outcome State Fault Refusal :=
  done s (match w with
    | .head q => s.headTimeout q
    | .sequencer n => s.seqTimeout n
    | .thread h => s.threadTimeout h.num
    | .deferred k => s.deferredTimeout k)

/-! ## Deferred commands (R265) -/

/-- The status with which a held write executes now; none while it is still held. -/
def State.deferredReady (s : State) (r : ObjRow) (k : Nat) (w : WriteRule) (v : Val) : Option Nat :=
  let p := w.pre s v
  if !s.runs r.owner || (4 ≤ r.aclass % 8 && !s.runs P.btp) || (r.access == 4 && (List.range 6).any (fun n => (s.slice n).run.isSome))
      || p % 2 ^ 16 == St.stateConflict then none
  else if p != 0 then some p
  else if r.aclass % 4 == 1 && s.setFull (r.key k) then some St.busy else some St.ok

/-- The effect of a held write whose precondition holds: its outcome. -/
def State.applyDeferred (s : State) (r : ObjRow) (k : Nat) (w : WriteRule) (v : Val) : Nat × State :=
  if 4 ≤ r.aclass % 8 then
    match s.commitRec { index := r.index k, sub := r.subAt k, otype := r.otype, wseq := 0, value := r.stored v } true with
    | none => (St.unavailable, s.count Obj.persFail)
    | some t => (w.answer s v, t.moment r k w v)
  else (w.answer s v, s.moment r k w v)

/-- Deferred dictionary command number k executes when its precondition holds, and DEFER_DONE carries its outcome. -/
def State.runDeferred (s : State) (k : Nat) : State :=
  match s.work.deferred[k]? with
  | none => s
  | some d =>
    match findObj d.index d.sub with
    | none => s
    | some (r, n) =>
      if !s.runs P.dxp then s else
      let w := writeRule r n true d.value
      match s.deferredReady r n w d.value with
      | none => s
      | some st =>
        let t := s.dropDeferred k
        if st != St.ok then t.deferDone d st
        else
          let (st, t) := t.applyDeferred r n w d.value
          (t.deferDone d st).runDue

def nextOf (s : State) : Host.Outcome State Fault Refusal → State
  | .next t => t
  | _ => s

/-- The command of a queue's next item, by its opcode. The content of a package comes with LOAD, so a deferred LOAD only
takes its context here, and waits no longer. -/
def State.runItem (s : State) (q : QueueId) (i : Item) : State :=
  let op := i.opcode
  if op == 1 then nextOf s (execRun q s)
  else if op == 2 then
    (s.modItem q i.seq (fun j => { j with deferred := false, waitFrom := none })).modCtx i.context
      (fun x => { x with state := .loading, byItem := some (q.val, i.seq) })
  else if op == 3 then nextOf s (execUnload q s)
  else if op == 4 then nextOf s (execAttach q s)
  else if op == 5 then nextOf s (execDetach q s)
  else if op == 9 then nextOf s (execPut q s)
  else if op == 10 then nextOf s (execGet q s)
  else if op == 11 then nextOf s (execAlloc q s)
  else if op == 12 then nextOf s (execFree q s)
  else if op == 13 then nextOf s (execAdopt q s)
  else s

/-- The deferred item at the head of queue q executes when its precondition holds. -/
def State.runDeferredItem (s : State) (q : QueueId) : State :=
  match s.nextItem q with
  | none => s
  | some i => if i.deferred && s.runs P.scp && s.holdsFor q i then s.runItem q i else s

/-- DEFERRED_EXECUTE: numbers below 64 name the queue of a submission entry, the rest a held dictionary command. -/
def execDeferredExecute (k : Nat) (s : State) : Host.Outcome State Fault Refusal :=
  done s (if h : k < 64 then s.runDeferredItem ⟨k, h⟩ else s.runDeferred (k - 64))

/-! ## Idle points (R268, R274) -/

/-- A pending IDLE value takes effect. REPRO_ACTIVE follows REPRO_MODE; a new STAT_WINDOW begins a window grid of its
own, and what the window in progress has counted goes on into the first window of it: notes/assumptions/52.md. -/
def State.applyIdle (s : State) (x : Nat × Val) : State :=
  let s := { s with objs := tput s.objs x.1 x.2 }
  if x.1 == Obj.reproMode.key 0 then (s.setVal Obj.reproActive 0 x.2).count Obj.reproChanges
  else if x.1 == Obj.statWindow.key 0 then
    { s with work := { s.work with statEnd := (s.clk.lode / s.statLen + 1) * s.statLen } }
  else s

/-- IDLE_POINT: no job is dispatched on any slice and no replay runs. -/
def execIdlePoint (s : State) : Host.Outcome State Fault Refusal :=
  if !s.runs P.scp || !s.work.replayDone || (List.range 6).any (fun n => (s.slice n).run.isSome) then .next s
  else .next (s.work.idlePend.foldl (fun s x => s.applyIdle x) { s with work := { s.work with idlePend := [] } })

end Sys2Proof.Machine
end

