-- ==== Sys2Proof/Machine/Frame.lean ====
section
/-! DEFINITION. Frames received on the host port: their checks, MACsec, and the Host Link Protocol requests they carry
(R330 to R337, R346). -/

namespace Sys2Proof.Machine

/-! ## Request bodies (Table — Message types): network byte order -/

def fieldBe (b : Bytes) (o n : Nat) : Nat := ofBe (cut b o n)

/-- A body of another length than its type requires, or with a field that must be zero and is not. -/
def rangeBody (s : State) : Nat × Bytes × State := (St.range, [], s)

def dictReadOk (b : Bytes) : Bool := b.length == 12 && fieldBe b 3 1 == 0 && fieldBe b 10 2 == 0

def dictWriteOk (b : Bytes) : Bool :=
  decide (12 ≤ b.length) && b.length == 12 + fieldBe b 8 2 && decide (fieldBe b 3 1 < 4) && fieldBe b 10 2 == 0

def dictWriteOf (r : Req) (b : Bytes) : DictW :=
  { req := r, index := BitVec.ofNat 16 (fieldBe b 0 2), sub := BitVec.ofNat 8 (fieldBe b 2 1)
    defer := (fieldBe b 3 1).testBit 0, last := (fieldBe b 3 1).testBit 1, offset := fieldBe b 4 4, bytes := b.drop 12
    flashOk := true }

/-- The entries of a DOORBELL apply in order. -/
def State.bells : List Bytes → State → Bytes × State
  | [], s => ([], s)
  | e :: r, s =>
    let d : Doorbell := { queue := fieldBe e 1 1, pad := fieldBe e 2 2, value := BitVec.ofNat 32 (fieldBe e 4 4) }
    let (st, s) := s.bell (fieldBe e 0 1) d
    let (b, s) := State.bells r s
    (be 2 st ++ b, s)

def doorbellBody (b : Bytes) (s : State) : Nat × Bytes × State :=
  let n := fieldBe b 0 1
  if n == 0 || decide (16 < n) || fieldBe b 1 3 != 0 || b.length != 4 + 8 * n then rangeBody s
  else
    let (st, t) := State.bells ((List.range n).map (fun (k : Nat) => cut b (4 + 8 * k) 8)) s
    (St.ok, st, t)

def releaseBodyOf (b : Bytes) (s : State) : Nat × Bytes × State :=
  let n := fieldBe b 0 2
  if fieldBe b 2 2 != 0 || b.length != 4 + 4 * n then rangeBody s
  else resultReleaseBody ((List.range n).map (fun (k : Nat) => BitVec.ofNat 32 (fieldBe b (4 + 4 * k) 4))) s

/-- The body of a request of the session other than a dictionary request. -/
def requestBody (type : Nat) (b : Bytes) (s : State) : Nat × Bytes × State :=
  if type == 0x02 then (if b.isEmpty then releaseBody s else rangeBody s)
  else if type == 0x03 then (if b.isEmpty then renewBody s else rangeBody s)
  else if type == 0x20 then (if b.length == 12 then memReadBody (fieldBe b 0 8) (fieldBe b 8 4) s else rangeBody s)
  else if type == 0x21 then
    (if b.length == 12 + fieldBe b 8 4 then memWriteBody (fieldBe b 0 8) (b.drop 12) s else rangeBody s)
  else if type == 0x22 then
    (if b.length == 12 then resultReadBody (fieldBe b 0 4) (fieldBe b 4 4) (fieldBe b 8 4) s else rangeBody s)
  else if type == 0x23 then releaseBodyOf b s
  else if type == 0x30 then doorbellBody b s
  else (if b.isEmpty then syncBody s else rangeBody s)

/-- A request of a type with its body. -/
def State.request (s : State) (r : Req) (type : Nat) (b : Bytes) (cmd : Instr) : State :=
  if type == 0x01 then
    if b.length == 20 then s.claim r (b.take 16) (fieldBe b 16 4) else s.freeReq r 1 rangeBody
  else if type == 0x10 then
    if dictReadOk b then s.dictRead r cmd (fieldBe b 0 2) (fieldBe b 2 1) (fieldBe b 4 4) (fieldBe b 8 2)
    else if r.session == 0 && openObject (fieldBe b 0 2) (fieldBe b 2 1) then s.freeReq r 0x10 rangeBody
    else s.hostReq r 0x10 cmd rangeBody
  else if type == 0x11 then
    if dictWriteOk b then s.dictWrite (dictWriteOf r b) cmd else s.hostReq r 0x11 cmd rangeBody
  else s.hostReq r type cmd (requestBody type b)

/-! ## Frames (R335) -/

def requestTypes : List Nat := [0x01, 0x02, 0x03, 0x10, 0x11, 0x20, 0x21, 0x22, 0x23, 0x30, 0x40]

/-- The payload is a request: its VER, TYPE, LENGTH and CRC pass. -/
def hlpOk (p : Bytes) : Bool :=
  let n := fieldBe p 14 2
  decide (p.length ≤ 1452) && p.length == 20 + n && fieldBe p 0 1 == 1 && requestTypes.contains (fieldBe p 1 1)
    && crc32 (p.take (16 + n)) == fieldBe p (16 + n) 4

def frameReq (f : EthFrame) (p : Bytes) : Req :=
  { src := f.src, session := BitVec.ofNat 32 (fieldBe p 4 4), seq := BitVec.ofNat 32 (fieldBe p 8 4) }

def inClear (f : EthFrame) : Bool := match f.prot with | .unprotected => true | .macsec _ _ _ => false

/-- The request that an accepted frame carries; one that R333 excepts is answered unprotected. -/
def State.requestOf (s : State) (f : EthFrame) : State :=
  match f.payload with
  | .udp _ _ p =>
    let t := { s with link := { s.link with plain := inClear f && s.num Obj.macsecMode == 2 } }
    let t := t.request (frameReq f p) (fieldBe p 1 1) (cut p 16 (fieldBe p 14 2)) (.hlFrameRx f)
    ({ t with link := { t.link with plain := false } }).runDue
  | _ => s

/-! ## MACsec (R332, R333) -/

/-- The object that a dictionary request names. -/
def namedObject (p : Bytes) : Nat × Nat := (fieldBe p 16 2, fieldBe p 18 1)

/-- R333: an unprotected frame that mode 2 accepts. -/
def State.excepted (s : State) (f : EthFrame) : Bool :=
  match f.payload with
  | .arp _ => true
  | .neighbour _ => true
  | .gptp => true
  | .echo _ => false
  | .groupQuery => false
  | .other => false
  | .udp _ _ p =>
    let type := fieldBe p 1 1
    let (i, j) := namedObject p
    (type == 0x10 && (decide (0x1000 ≤ i ∧ i ≤ 0x1FFF) || decide (0x7000 ≤ i ∧ i ≤ 0x7FFF)))
      || (type == 0x11 && (i * 256 + j == Obj.macsecSak.key 0))
      || (!s.link.rxEver && (type == 1 || type == 2 || type == 3
          || (type == 0x11 && (i * 256 + j == Obj.attNonce.key 0 || i * 256 + j == Obj.attCertSel.key 0))))

/-- Whether MACsec lets a frame pass, and what it counts. The lowest packet number accepted lies MACSEC_REPLAY below the
next one expected. -/
def State.macsecRx (s : State) (f : EthFrame) : Bool × State :=
  let mode := s.num Obj.macsecMode
  match f.prot with
  | .unprotected => if mode == 2 && !s.excepted f then (false, s.count Obj.macsecUnprot) else (true, s)
  | .macsec an pn verified =>
    let next := tget 0 s.link.rxPn an
    if mode == 0 then (false, s)
    else if !verified || !s.link.rxSas.any (fun x => x.an == an.val) || decide (pn + s.num Obj.macsecReplay < next) then
      (false, s.count Obj.macsecIcvFail)
    else (true, { s with link := { s.link with rxPn := tput s.link.rxPn an (max next (pn + 1)) } })

/-! ## Reception (R330, R331) -/

/-- One of the host port's own addresses. -/
def State.isHlIp (s : State) (a : Nat) : Bool :=
  a != 0 && (a == s.num Obj.hlIp4 || a == ofBe (s.blob Obj.hlIp6))

/-- A reply of R331 goes to an on-link sender. -/
def State.answer (s : State) (f : EthFrame) (ours : Bool) : State :=
  if ours && f.onLink then { s with link := { s.link with replies := s.link.replies ++ [f.src] } } else s

/-- What an accepted frame does. -/
def State.acceptHl (s : State) (f : EthFrame) : State :=
  match f.payload with
  | .arp t => s.answer f (t != 0 && t == s.num Obj.hlIp4)
  | .neighbour t => s.answer f (t != 0 && t == ofBe (s.blob Obj.hlIp6))
  | .echo t => s.answer f (s.isHlIp t)
  | .groupQuery => s
  | .gptp => s
  | .other => s
  | .udp dst port p =>
    if !f.onLink || !s.isHlIp dst || port != s.num Obj.hlUdp || (f.src.vlan != 0 && f.src.vlan != s.num Obj.hlVlan) then s
    else if !hlpOk p then s.count Obj.hlRxDiscard
    else s.requestOf f

def carriesUdp (f : EthFrame) : Bool := match f.payload with | .udp _ _ _ => true | _ => false

/-- HL_FRAME_RX. A frame longer than 1,554 bytes is not accepted. -/
def execHlFrameRx (f : EthFrame) (s : State) : Host.Outcome State Fault Refusal :=
  if !s.hostUp || 1554 < f.bytes then .next s
  else if !f.fcsOk || !f.toUs then .next (s.count Obj.hlRxDiscard)
  else
    let (pass, t) := s.macsecRx f
    if !pass then .next t
    else if !f.ipOk || (carriesUdp f && !f.udpOk) || f.fragment then .next (t.count Obj.hlRxDiscard)
    else done s (t.acceptHl f)

end Sys2Proof.Machine
end

