-- ==== Sys2Proof/Machine/Dispatch.lean ====
section
/-! DEFINITION. Dispatch: one direct call of a meaning for each command. -/

namespace Sys2Proof.Machine

def exec (i : Instr) (s : State) : Host.Outcome State Fault Refusal :=
  match i with
  | .pwronNDeassert env => Sys2Proof.Machine.execPwronNDeassert env s
  | .railMonitorLow rail => Sys2Proof.Machine.execRailMonitorLow rail s
  | .coreRailLow sl => Sys2Proof.Machine.execCoreRailLow sl s
  | .refclkLoss => Sys2Proof.Machine.execRefclkLoss s
  | .warmNAssert => Sys2Proof.Machine.execWarmNAssert s
  | .warmCmd w => Sys2Proof.Machine.execWarmCmd w s
  | .crossingRequest req tgt chan acked => Sys2Proof.Machine.execCrossingRequest req tgt chan acked s
  | .islandHandshakeTimeout id both => Sys2Proof.Machine.execIslandHandshakeTimeout id both s
  | .lateAcknowledge id => Sys2Proof.Machine.execLateAcknowledge id s
  | .programFetch f => Sys2Proof.Machine.execProgramFetch f s
  | .lcSet sl b w => Sys2Proof.Machine.execLcSet sl b w s
  | .lcAdd sl b w => Sys2Proof.Machine.execLcAdd sl b w s
  | .abSet sl b w => Sys2Proof.Machine.execAbSet sl b w s
  | .abAdd sl b w => Sys2Proof.Machine.execAbAdd sl b w s
  | .cmp sl b w => Sys2Proof.Machine.execCmp sl b w s
  | .br sl b w => Sys2Proof.Machine.execBr sl b w s
  | .brn sl b w => Sys2Proof.Machine.execBrn sl b w s
  | .loop sl b w => Sys2Proof.Machine.execLoop sl b w s
  | .sclFlagWait sl b w => Sys2Proof.Machine.execSclFlagWait sl b w s
  | .sclFlagSet sl b w => Sys2Proof.Machine.execSclFlagSet sl b w s
  | .sclFlagClr sl b w setToo => Sys2Proof.Machine.execSclFlagClr sl b w setToo s
  | .layer sl b w => Sys2Proof.Machine.execLayer sl b w s
  | .halt sl b w => Sys2Proof.Machine.execHalt sl b w s
  | .dinIssue sl b w => Sys2Proof.Machine.execDinIssue sl b w s
  | .doutIssue sl b w => Sys2Proof.Machine.execDoutIssue sl b w s
  | .faVec sl b w => Sys2Proof.Machine.execFaVec sl b w s
  | .faWin sl b w => Sys2Proof.Machine.execFaWin sl b w s
  | .faXfm sl b w => Sys2Proof.Machine.execFaXfm sl b w s
  | .fbDense sl b w => Sys2Proof.Machine.execFbDense sl b w s
  | .fbGroup4 sl b w => Sys2Proof.Machine.execFbGroup4 sl b w s
  | .weightLoadStart sl l => Sys2Proof.Machine.execWeightLoadStart sl l s
  | .arrTile sl b w => Sys2Proof.Machine.execArrTile sl b w s
  | .arrCont sl b w => Sys2Proof.Machine.execArrCont sl b w s
  | .arrClearSlot sl b w => Sys2Proof.Machine.execArrClearSlot sl b w s
  | .tileStart sl cyc fr f => Sys2Proof.Machine.execTileStart sl cyc fr f s
  | .transform sl b w f => Sys2Proof.Machine.execTransform sl b w f s
  | .issue sl b w f => Sys2Proof.Machine.execIssue sl b w f s
  | .inverse sl b w f => Sys2Proof.Machine.execInverse sl b w f s
  | .drnWrite sl b w => Sys2Proof.Machine.execDrnWrite sl b w s
  | .drnAdd sl b w => Sys2Proof.Machine.execDrnAdd sl b w s
  | .drnAddOut sl b w => Sys2Proof.Machine.execDrnAddOut sl b w s
  | .drnWriteOut sl b w => Sys2Proof.Machine.execDrnWriteOut sl b w s
  | .drainRow sl d => Sys2Proof.Machine.execDrainRow sl d s
  | .rowVerdict sl => Sys2Proof.Machine.execRowVerdict sl s
  | .arrClear sl w => Sys2Proof.Machine.execArrClear sl w s
  | .breakpointMatch sl tag => Sys2Proof.Machine.execBreakpointMatch sl tag s
  | .breakpointStop sl => Sys2Proof.Machine.execBreakpointStop sl s
  | .brkResume sl w => Sys2Proof.Machine.execBrkResume sl w s
  | .brkSingleStep sl w => Sys2Proof.Machine.execBrkSingleStep sl w s
  | .tileStoreAccess sl a => Sys2Proof.Machine.execTileStoreAccess sl a s
  | .descriptorStart sl out => Sys2Proof.Machine.execDescriptorStart sl out s
  | .dmaRequestSend sl r => Sys2Proof.Machine.execDmaRequestSend sl r s
  | .dmaRequestDone sl tag ecc => Sys2Proof.Machine.execDmaRequestDone sl tag ecc s
  | .descriptorComplete sl out => Sys2Proof.Machine.execDescriptorComplete sl out s
  | .tagExpiry sl tag => Sys2Proof.Machine.execTagExpiry sl tag s
  | .tsClear sl w => Sys2Proof.Machine.execTsClear sl w s
  | .sliverTaskStart sl t => Sys2Proof.Machine.execSliverTaskStart sl t s
  | .sliverInstruction h cyc ls => Sys2Proof.Machine.execSliverInstruction h cyc ls s
  | .csrAccess h cyc w => Sys2Proof.Machine.execCsrAccess h cyc w s
  | .fence h cyc => Sys2Proof.Machine.execFence h cyc s
  | .fenceI h cyc => Sys2Proof.Machine.execFenceI h cyc s
  | .wfi h cyc => Sys2Proof.Machine.execWfi h cyc s
  | .slDmaq h cyc rd r => Sys2Proof.Machine.execSlDmaq h cyc rd r s
  | .slDmaw h cyc rs1 => Sys2Proof.Machine.execSlDmaw h cyc rs1 s
  | .slFwait h cyc rs1 => Sys2Proof.Machine.execSlFwait h cyc rs1 s
  | .slFset h cyc rs1 => Sys2Proof.Machine.execSlFset h cyc rs1 s
  | .slFclr h cyc rs1 setToo => Sys2Proof.Machine.execSlFclr h cyc rs1 setToo s
  | .slYield h cyc => Sys2Proof.Machine.execSlYield h cyc s
  | .slExit h cyc => Sys2Proof.Machine.execSlExit h cyc s
  | .slTimel h cyc rd => Sys2Proof.Machine.execSlTimel h cyc rd s
  | .slTimeh h cyc rd => Sys2Proof.Machine.execSlTimeh h cyc rd s
  | .slDig h cyc rs1 rs2 => Sys2Proof.Machine.execSlDig h cyc rs1 rs2 s
  | .slTsw h cyc rs1 rs2 => Sys2Proof.Machine.execSlTsw h cyc rs1 rs2 s
  | .slVtsw h cyc rs1 vs3 => Sys2Proof.Machine.execSlVtsw h cyc rs1 vs3 s
  | .windowLoad h r => Sys2Proof.Machine.execWindowLoad h r s
  | .cacheMiss h instr addr m => Sys2Proof.Machine.execCacheMiss h instr addr m s
  | .cacheLineFill sl cl slot f => Sys2Proof.Machine.execCacheLineFill sl cl slot f s
  | .missRegisterExpiry sl cl slot => Sys2Proof.Machine.execMissRegisterExpiry sl cl slot s
  | .cycleBudgetExhausted sl task => Sys2Proof.Machine.execCycleBudgetExhausted sl task s
  | .dualCompare sl task => Sys2Proof.Machine.execDualCompare sl task s
  | .clusterModeChange sl cl direct by' base entry => Sys2Proof.Machine.execClusterModeChange sl cl direct by' base entry s
  | .slvClear sl w => Sys2Proof.Machine.execSlvClear sl w s
  | .sorterEnqueue r => Sys2Proof.Machine.execSorterEnqueue r s
  | .requestAdmit ch bank => Sys2Proof.Machine.execRequestAdmit ch bank s
  | .sorterIssue ch => Sys2Proof.Machine.execSorterIssue ch s
  | .requestAgeOver ch id => Sys2Proof.Machine.execRequestAgeOver ch id s
  | .burstComplete ch id e => Sys2Proof.Machine.execBurstComplete ch id e s
  | .retrainDone ch ok => Sys2Proof.Machine.execRetrainDone ch ok s
  | .mirrorReplace page => Sys2Proof.Machine.execMirrorReplace page s
  | .scrubRead ch slot block ecc => Sys2Proof.Machine.execScrubRead ch slot block ecc s
  | .heatDecay => Sys2Proof.Machine.execHeatDecay s
  | .migrationCheck busy => Sys2Proof.Machine.execMigrationCheck busy s
  | .migrationCopyDone page errs => Sys2Proof.Machine.execMigrationCopyDone page errs s
  | .migrationUpdate page => Sys2Proof.Machine.execMigrationUpdate page s
  | .slotZeroDone ch slot => Sys2Proof.Machine.execSlotZeroDone ch slot s
  | .chClear ch w => Sys2Proof.Machine.execChClear ch w s
  | .peerEnable p w => Sys2Proof.Machine.execPeerEnable p w s
  | .peerDataRx p f => Sys2Proof.Machine.execPeerDataRx p f s
  | .peerSegmentWritten p xfer mine => Sys2Proof.Machine.execPeerSegmentWritten p xfer mine s
  | .peerAckRx p f => Sys2Proof.Machine.execPeerAckRx p f s
  | .peerGetRx p f => Sys2Proof.Machine.execPeerGetRx p f s
  | .peerAbortRx p f => Sys2Proof.Machine.execPeerAbortRx p f s
  | .peerAckTimer p xfer mine => Sys2Proof.Machine.execPeerAckTimer p xfer mine s
  | .peerResendTimer p xfer mine => Sys2Proof.Machine.execPeerResendTimer p xfer mine s
  | .peerXferIdExpiry p xfer mine => Sys2Proof.Machine.execPeerXferIdExpiry p xfer mine s
  | .sqTail r d => Sys2Proof.Machine.execSqTail r d s
  | .cqHead r d => Sys2Proof.Machine.execCqHead r d s
  | .evtHead r d => Sys2Proof.Machine.execEvtHead r d s
  | .logHead r d => Sys2Proof.Machine.execLogHead r d s
  | .traceHead r d => Sys2Proof.Machine.execTraceHead r d s
  | .submissionRead q => Sys2Proof.Machine.execSubmissionRead q s
  | .itemAccept q => Sys2Proof.Machine.execItemAccept q s
  | .streamJobAccept st => Sys2Proof.Machine.execStreamJobAccept st s
  | .run q => Sys2Proof.Machine.execRun q s
  | .load q pkg => Sys2Proof.Machine.execLoad q pkg s
  | .loadComplete c rd => Sys2Proof.Machine.execLoadComplete c rd s
  | .unload q => Sys2Proof.Machine.execUnload q s
  | .attach q => Sys2Proof.Machine.execAttach q s
  | .detach q => Sys2Proof.Machine.execDetach q s
  | .flagSet q => Sys2Proof.Machine.execFlagSet q s
  | .flagClr q setToo => Sys2Proof.Machine.execFlagClr q setToo s
  | .flagWait q => Sys2Proof.Machine.execFlagWait q s
  | .put q => Sys2Proof.Machine.execPut q s
  | .get q => Sys2Proof.Machine.execGet q s
  | .alloc q => Sys2Proof.Machine.execAlloc q s
  | .free q => Sys2Proof.Machine.execFree q s
  | .adopt q => Sys2Proof.Machine.execAdopt q s
  | .marker q => Sys2Proof.Machine.execMarker q s
  | .jobDispatch sl => Sys2Proof.Machine.execJobDispatch sl s
  | .beSegmentBoundary sl => Sys2Proof.Machine.execBeSegmentBoundary sl s
  | .jobEnd sl o => Sys2Proof.Machine.execJobEnd sl o s
  | .completionPost q => Sys2Proof.Machine.execCompletionPost q s
  | .journalReplay lost => Sys2Proof.Machine.execJournalReplay lost s
  | .waitTimeoutExpiry w => Sys2Proof.Machine.execWaitTimeoutExpiry w s
  | .waitGraphBuild => Sys2Proof.Machine.execWaitGraphBuild s
  | .qAbortHead w => Sys2Proof.Machine.execQAbortHead w s
  | .deferredExecute k => Sys2Proof.Machine.execDeferredExecute k s
  | .flagSetCmd w => Sys2Proof.Machine.execFlagSetCmd w s
  | .flagClrCmd w setToo => Sys2Proof.Machine.execFlagClrCmd w setToo s
  | .epochOpen w => Sys2Proof.Machine.execEpochOpen w s
  | .epochCommit w => Sys2Proof.Machine.execEpochCommit w s
  | .epochDiscard w => Sys2Proof.Machine.execEpochDiscard w s
  | .merWrite w => Sys2Proof.Machine.execMerWrite w s
  | .epochStreamSilent st => Sys2Proof.Machine.execEpochStreamSilent st s
  | .idleWrite w => Sys2Proof.Machine.execIdleWrite w s
  | .idlePoint => Sys2Proof.Machine.execIdlePoint s
  | .qEnable q w => Sys2Proof.Machine.execQEnable q w s
  | .qDepth q w => Sys2Proof.Machine.execQDepth q w s
  | .decodeBatchClose c going => Sys2Proof.Machine.execDecodeBatchClose c going s
  | .statWindowEval => Sys2Proof.Machine.execStatWindowEval s
  | .csiFrameStart p vc fn => Sys2Proof.Machine.execCsiFrameStart p vc fn s
  | .csiLinePacket p vc dt samples chk => Sys2Proof.Machine.execCsiLinePacket p vc dt samples chk s
  | .csiFrameEnd p vc => Sys2Proof.Machine.execCsiFrameEnd p vc s
  | .frameTimeout st => Sys2Proof.Machine.execFrameTimeout st s
  | .ispFrameDone pipe => Sys2Proof.Machine.execIspFrameDone pipe s
  | .spillStart pipe => Sys2Proof.Machine.execSpillStart pipe s
  | .rawEnable st w => Sys2Proof.Machine.execRawEnable st w s
  | .expoReq st w => Sys2Proof.Machine.execExpoReq st w s
  | .sensorRetry st w => Sys2Proof.Machine.execSensorRetry st w s
  | .generationWriteStart st estUs untilFrameUs => Sys2Proof.Machine.execGenerationWriteStart st estUs untilFrameUs s
  | .i2cTransaction bus acked stretchUs tookUs => Sys2Proof.Machine.execI2cTransaction bus acked stretchUs tookUs s
  | .fsyncPulse k => Sys2Proof.Machine.execFsyncPulse k s
  | .dpFrameRx p f => Sys2Proof.Machine.execDpFrameRx p f s
  | .dpMode p w => Sys2Proof.Machine.execDpMode p w s
  | .rtpPacketRx st pkt => Sys2Proof.Machine.execRtpPacketRx st pkt s
  | .rtpRelease st => Sys2Proof.Machine.execRtpRelease st s
  | .decodeStart core => Sys2Proof.Machine.execDecodeStart core s
  | .decodeDone core e => Sys2Proof.Machine.execDecodeDone core e s
  | .conversionDone st => Sys2Proof.Machine.execConversionDone st s
  | .ssrcTimeout st => Sys2Proof.Machine.execSsrcTimeout st s
  | .streamStallTimeout st => Sys2Proof.Machine.execStreamStallTimeout st s
  | .srcEnable st w => Sys2Proof.Machine.execSrcEnable st w s
  | .encClip w => Sys2Proof.Machine.execEncClip w s
  | .encSnapshot w => Sys2Proof.Machine.execEncSnapshot w s
  | .clipDone st => Sys2Proof.Machine.execClipDone st s
  | .snapDone st => Sys2Proof.Machine.execSnapDone st s
  | .hlFrameRx f => Sys2Proof.Machine.execHlFrameRx f s
  | .claim r hostId periodMs => Sys2Proof.Machine.execClaim r hostId periodMs s
  | .release r => Sys2Proof.Machine.execRelease r s
  | .renew r => Sys2Proof.Machine.execRenew r s
  | .dictRead r index sub offset maxLen => Sys2Proof.Machine.execDictRead r index sub offset maxLen s
  | .dictWrite w => Sys2Proof.Machine.execDictWrite w s
  | .dictStageTimeout => Sys2Proof.Machine.execDictStageTimeout s
  | .memRead r addr len => Sys2Proof.Machine.execMemRead r addr len s
  | .memWrite r addr bytes => Sys2Proof.Machine.execMemWrite r addr bytes s
  | .resultRead r handle offset len => Sys2Proof.Machine.execResultRead r handle offset len s
  | .resultRelease r handles => Sys2Proof.Machine.execResultRelease r handles s
  | .sync r => Sys2Proof.Machine.execSync r s
  | .hlpHoldTimeout seq => Sys2Proof.Machine.execHlpHoldTimeout seq s
  | .eventFrameSend => Sys2Proof.Machine.execEventFrameSend s
  | .evtHeartbeat => Sys2Proof.Machine.execEvtHeartbeat s
  | .macsecSak w => Sys2Proof.Machine.execMacsecSak w s
  | .leaseExpiry => Sys2Proof.Machine.execLeaseExpiry s
  | .orphanResume w => Sys2Proof.Machine.execOrphanResume w s
  | .gptpSyncRx time => Sys2Proof.Machine.execGptpSyncRx time s
  | .gptpHoldover => Sys2Proof.Machine.execGptpHoldover s
  | .ident r => Sys2Proof.Machine.execIdent r s
  | .syncPart r => Sys2Proof.Machine.execSyncPart r s
  | .mbWarmReset r => Sys2Proof.Machine.execMbWarmReset r s
  | .imageBegin r => Sys2Proof.Machine.execImageBegin r s
  | .imageData r => Sys2Proof.Machine.execImageData r s
  | .imageEnd r => Sys2Proof.Machine.execImageEnd r s
  | .persErase w flashOk => Sys2Proof.Machine.execPersErase w flashOk s
  | .safeForceEnter w => Sys2Proof.Machine.execSafeForceEnter w s
  | .safeForceEnd w => Sys2Proof.Machine.execSafeForceEnd w s
  | .deadlineExpiry st => Sys2Proof.Machine.execDeadlineExpiry st s
  | .staleExpiry st => Sys2Proof.Machine.execStaleExpiry st s
  | .safetyHeartbeat => Sys2Proof.Machine.execSafetyHeartbeat s
  | .cause0Release => Sys2Proof.Machine.execCause0Release s
  | .lockstepMismatch => Sys2Proof.Machine.execLockstepMismatch s
  | .watchdogExpiry p => Sys2Proof.Machine.execWatchdogExpiry p s
  | .goldenTestDue sl => Sys2Proof.Machine.execGoldenTestDue sl s
  | .goldenTestOverdue sl => Sys2Proof.Machine.execGoldenTestOverdue sl s
  | .goldenTestEnd sl pass => Sys2Proof.Machine.execGoldenTestEnd sl pass s
  | .coverageLapse sl => Sys2Proof.Machine.execCoverageLapse sl s
  | .fwRestart p w => Sys2Proof.Machine.execFwRestart p w s
  | .fwMemoryError p => Sys2Proof.Machine.execFwMemoryError p s
  | .processorReady p => Sys2Proof.Machine.execProcessorReady p s
  | .restartTimeout p => Sys2Proof.Machine.execRestartTimeout p s
  | .logEntry p level code args => Sys2Proof.Machine.execLogEntry p level code args s
  | .traceHit p point value => Sys2Proof.Machine.execTraceHit p point value s
  | .stagingBufferDrain => Sys2Proof.Machine.execStagingBufferDrain s
  | .updStage w => Sys2Proof.Machine.execUpdStage w s
  | .stagingDone flashOk => Sys2Proof.Machine.execStagingDone flashOk s
  | .updCancel w => Sys2Proof.Machine.execUpdCancel w s
  | .updActivateProcessor w => Sys2Proof.Machine.execUpdActivateProcessor w s
  | .updActivateBundle w => Sys2Proof.Machine.execUpdActivateBundle w s
  | .activationSettle => Sys2Proof.Machine.execActivationSettle s
  | .activationAbandon => Sys2Proof.Machine.execActivationAbandon s
  | .updCommit w verified => Sys2Proof.Machine.execUpdCommit w verified s
  | .keyRevoke w readBackOk => Sys2Proof.Machine.execKeyRevoke w readBackOk s
  | .attNonce w => Sys2Proof.Machine.execAttNonce w s
  | .sliceResetCmd w => Sys2Proof.Machine.execSliceResetCmd w s
  | .sliceResetTimeout sl => Sys2Proof.Machine.execSliceResetTimeout sl s
  | .pwronNAssert => Sys2Proof.Machine.execPwronNAssert s
  | .warmNDeassert => Sys2Proof.Machine.execWarmNDeassert s
  | .railMonitorReturn env => Sys2Proof.Machine.execRailMonitorReturn env s
  | .droopRecovery sl => Sys2Proof.Machine.execDroopRecovery sl s
  | .portLinkChange port up => Sys2Proof.Machine.execPortLinkChange port up s
  | .spFrameRx f => Sys2Proof.Machine.execSpFrameRx f s
  | .peerDelayMeasurement => Sys2Proof.Machine.execPeerDelayMeasurement s
  | .powerCapEval m => Sys2Proof.Machine.execPowerCapEval m s
  | .thermalLoopStep => Sys2Proof.Machine.execThermalLoopStep s
  | .sensorRead rs => Sys2Proof.Machine.execSensorRead rs s
  | .thermalClamp => Sys2Proof.Machine.execThermalClamp s
  | .thermalEmergencyEnd => Sys2Proof.Machine.execThermalEmergencyEnd s
  | .thermalTrip => Sys2Proof.Machine.execThermalTrip s
  | .governorStep demandUa otherUa => Sys2Proof.Machine.execGovernorStep demandUa otherUa s
  | .droopOnset sl => Sys2Proof.Machine.execDroopOnset sl s
  | .domainWake d => Sys2Proof.Machine.execDomainWake d s
  | .domainOff d => Sys2Proof.Machine.execDomainOff d s
  | .voltageSettled sl => Sys2Proof.Machine.execVoltageSettled sl s
  | .vrHotNAssert rs => Sys2Proof.Machine.execVrHotNAssert rs s
  | .vrHotNDeassert => Sys2Proof.Machine.execVrHotNDeassert s
  | .pmbAlertN rs => Sys2Proof.Machine.execPmbAlertN rs s
  | .pmbusPoll rs => Sys2Proof.Machine.execPmbusPoll rs s
  | .powerEmergencyEnd => Sys2Proof.Machine.execPowerEmergencyEnd s

end Sys2Proof.Machine
end

