-- ==== Sys2Proof/Machine/Idle.lean ====
section
/-! DEFINITION. What the device does when no command waits: a held request whose turn has come is executed (R338), the
trace output sends (R510), time passes (R353). -/

namespace Sys2Proof.Machine

/-- The held request that is next in the order of the session, and the state that no longer holds it. -/
def State.nextHeld (s : State) : Option (Instr × State) :=
  if !s.hostUp then none else
  match s.link.expected with
  | none => none
  | some e =>
    (s.link.held.find? (fun h => h.1 == e)).map (fun h =>
      (h.2.1, { s with link := { s.link with held := s.link.held.filter (fun x => x.1 != e) } }))

/-- A held request is executed. A frame has passed its checks on arrival. -/
def runHeld (c : Instr) (s : State) : Host.Outcome State Fault Refusal :=
  match c with
  | .hlFrameRx f => done s (s.requestOf f)
  | c => exec c s

/-- One entry leaves the trace output's buffer. -/
def State.traceSend (s : State) : State := { s with fw := { s.fw with traceOut := s.fw.traceOut.drop 1 } }

/-- One period of REFCLK25: 40 ns. -/
def refclkNs : Nat := 40

/-- An idle step. -/
def State.idle (s : State) : Host.Outcome State Fault Refusal :=
  match s.nextHeld with
  | some (c, t) => runHeld c t
  | none => .next (s.traceSend.advanceTo (s.clk.now + refclkNs))

end Sys2Proof.Machine
end

