-- ==== Sys2Proof/Laws/Tables.lean ====
section
/-! SUPPORT. The sparse tables and rising lists: what a table reads after a write. -/

namespace Sys2Proof.Machine

@[simp] theorem tfind_tput_same {α : Type} (m : List (Nat × α)) (n : Nat) (v : α) : tfind (tput m n v) n = some v := by
  induction m with
  | nil => simp [tput, tfind]
  | cons x r ih =>
    obtain ⟨k, w⟩ := x
    simp only [tput]
    split
    · simp [tfind]
    · split
      · simp [tfind]
      · next h => simp [tfind, ih, Ne.symm h]

theorem tfind_tput_other {α : Type} (m : List (Nat × α)) (n k : Nat) (v : α) (h : k ≠ n) :
    tfind (tput m n v) k = tfind m k := by
  induction m with
  | nil => simp [tput, tfind, Ne.symm h]
  | cons x r ih =>
    obtain ⟨j, w⟩ := x
    simp only [tput]
    split
    · simp [tfind, Ne.symm h]
    · split
      · next e => subst e; simp [tfind, Ne.symm h]
      · simp [tfind, ih]

@[simp] theorem tget_tput_same {α : Type} (d : α) (m : List (Nat × α)) (n : Nat) (v : α) : tget d (tput m n v) n = v := by
  simp [tget]

theorem tget_tput_other {α : Type} (d : α) (m : List (Nat × α)) (n k : Nat) (v : α) (h : k ≠ n) :
    tget d (tput m n v) k = tget d m k := by
  simp [tget, tfind_tput_other m n k v h]

theorem tfind_tdel_other {α : Type} (m : List (Nat × α)) (n k : Nat) (h : k ≠ n) : tfind (tdel m n) k = tfind m k := by
  induction m with
  | nil => rfl
  | cons x r ih =>
    obtain ⟨j, w⟩ := x
    simp only [tdel]
    split
    · next e => subst e; simp [tfind, Ne.symm h, ih]
    · simp [tfind, ih]

@[simp] theorem tfind_tdel_same {α : Type} (m : List (Nat × α)) (n : Nat) : tfind (tdel m n) n = none := by
  induction m with
  | nil => rfl
  | cons x r ih =>
    obtain ⟨j, w⟩ := x
    simp only [tdel]
    split
    · exact ih
    · next e => simp [tfind, e, ih]

theorem tget_tdel_other {α : Type} (d : α) (m : List (Nat × α)) (n k : Nat) (h : k ≠ n) :
    tget d (tdel m n) k = tget d m k := by
  simp [tget, tfind_tdel_other m n k h]

theorem mem_ins (l : List Nat) (n k : Nat) : k ∈ ins l n ↔ k = n ∨ k ∈ l := by
  induction l with
  | nil => simp [ins]
  | cons x r ih =>
    simp only [ins]
    split
    · simp
    · split
      · next e => subst e; simp
      · simp only [List.mem_cons, ih]; exact or_left_comm

@[simp] theorem tput_tput_same {α : Type} (m : List (Nat × α)) (n : Nat) (v w : α) : tput (tput m n v) n w = tput m n w := by
  induction m with
  | nil => simp [tput]
  | cons c r ih =>
    obtain ⟨k, x⟩ := c
    unfold tput
    by_cases h : n < k
    · simp [h, tput]
    · by_cases e : n = k
      · subst e; simp [tput]
      · simp [h, e, tput, ih]

end Sys2Proof.Machine
end

