-- ==== Sys2Proof/Laws/Parts.lean ====
section
/-! SUPPORT. The parts of the machine that are held by number: what a part reads after it, or another one, is changed. -/

namespace Sys2Proof.Machine

@[simp] theorem State.slice_setSlice (s : State) (n : Nat) (x : Slice) : (s.setSlice n x).slice n = x := tget_tput_same _ _ _ _
@[simp] theorem State.slice_modSlice (s : State) (n : Nat) (f : Slice → Slice) : (s.modSlice n f).slice n = f (s.slice n) :=
  tget_tput_same _ _ _ _
theorem State.slice_modSlice_other (s : State) (n k : Nat) (f : Slice → Slice) (h : k ≠ n) : (s.modSlice n f).slice k = s.slice k :=
  tget_tput_other _ _ _ _ _ h

@[simp] theorem State.hart_setHart (s : State) (n : Nat) (x : Hart) : (s.setHart n x).hart n = x := tget_tput_same _ _ _ _
@[simp] theorem State.hart_modHart (s : State) (n : Nat) (f : Hart → Hart) : (s.modHart n f).hart n = f (s.hart n) :=
  tget_tput_same _ _ _ _
theorem State.hart_modHart_other (s : State) (n k : Nat) (f : Hart → Hart) (h : k ≠ n) : (s.modHart n f).hart k = s.hart k :=
  tget_tput_other _ _ _ _ _ h

@[simp] theorem State.cluster_setCluster (s : State) (n : Nat) (x : Cluster) : (s.setCluster n x).cluster n = x := tget_tput_same _ _ _ _
@[simp] theorem State.cluster_modCluster (s : State) (n : Nat) (f : Cluster → Cluster) : (s.modCluster n f).cluster n = f (s.cluster n) :=
  tget_tput_same _ _ _ _
theorem State.cluster_modCluster_other (s : State) (n k : Nat) (f : Cluster → Cluster) (h : k ≠ n) : (s.modCluster n f).cluster k = s.cluster k :=
  tget_tput_other _ _ _ _ _ h

@[simp] theorem State.queue_setQueue (s : State) (n : Nat) (x : Queue) : (s.setQueue n x).queue n = x := tget_tput_same _ _ _ _
@[simp] theorem State.queue_modQueue (s : State) (n : Nat) (f : Queue → Queue) : (s.modQueue n f).queue n = f (s.queue n) :=
  tget_tput_same _ _ _ _
theorem State.queue_modQueue_other (s : State) (n k : Nat) (f : Queue → Queue) (h : k ≠ n) : (s.modQueue n f).queue k = s.queue k :=
  tget_tput_other _ _ _ _ _ h

@[simp] theorem State.ctx_setCtx (s : State) (n : Nat) (x : Ctx) : (s.setCtx n x).ctx n = x := tget_tput_same _ _ _ _
@[simp] theorem State.ctx_modCtx (s : State) (n : Nat) (f : Ctx → Ctx) : (s.modCtx n f).ctx n = f (s.ctx n) :=
  tget_tput_same _ _ _ _
theorem State.ctx_modCtx_other (s : State) (n k : Nat) (f : Ctx → Ctx) (h : k ≠ n) : (s.modCtx n f).ctx k = s.ctx k :=
  tget_tput_other _ _ _ _ _ h

@[simp] theorem State.stream_setStream (s : State) (n : Nat) (x : Stream) : (s.setStream n x).stream n = x := tget_tput_same _ _ _ _
@[simp] theorem State.stream_modStream (s : State) (n : Nat) (f : Stream → Stream) : (s.modStream n f).stream n = f (s.stream n) :=
  tget_tput_same _ _ _ _
theorem State.stream_modStream_other (s : State) (n k : Nat) (f : Stream → Stream) (h : k ≠ n) : (s.modStream n f).stream k = s.stream k :=
  tget_tput_other _ _ _ _ _ h

@[simp] theorem State.chan_setChan (s : State) (n : Nat) (x : Channel) : (s.setChan n x).chan n = x := tget_tput_same _ _ _ _
@[simp] theorem State.chan_modChan (s : State) (n : Nat) (f : Channel → Channel) : (s.modChan n f).chan n = f (s.chan n) :=
  tget_tput_same _ _ _ _
theorem State.chan_modChan_other (s : State) (n k : Nat) (f : Channel → Channel) (h : k ≠ n) : (s.modChan n f).chan k = s.chan k :=
  tget_tput_other _ _ _ _ _ h

@[simp] theorem State.peer_setPeer (s : State) (n : Nat) (x : Peer) : (s.setPeer n x).peer n = x := tget_tput_same _ _ _ _
@[simp] theorem State.peer_modPeer (s : State) (n : Nat) (f : Peer → Peer) : (s.modPeer n f).peer n = f (s.peer n) :=
  tget_tput_same _ _ _ _
theorem State.peer_modPeer_other (s : State) (n k : Nat) (f : Peer → Peer) (h : k ≠ n) : (s.modPeer n f).peer k = s.peer k :=
  tget_tput_other _ _ _ _ _ h

@[simp] theorem State.proc_setProc (s : State) (n : Nat) (x : Proc) : (s.setProc n x).proc n = x := tget_tput_same _ _ _ _
@[simp] theorem State.proc_modProc (s : State) (n : Nat) (f : Proc → Proc) : (s.modProc n f).proc n = f (s.proc n) :=
  tget_tput_same _ _ _ _
theorem State.proc_modProc_other (s : State) (n k : Nat) (f : Proc → Proc) (h : k ≠ n) : (s.modProc n f).proc k = s.proc k :=
  tget_tput_other _ _ _ _ _ h

@[simp] theorem State.stream_modRaw (s : State) (n : Nat) (f : Raw → Raw) :
    (s.modRaw n f).stream n = { s.stream n with raw := f (s.stream n).raw } := State.stream_modStream _ _ _
@[simp] theorem State.stream_modIng (s : State) (n : Nat) (f : Ingest → Ingest) :
    (s.modIng n f).stream n = { s.stream n with ing := f (s.stream n).ing } := State.stream_modStream _ _ _
@[simp] theorem State.slice_modSeq (s : State) (n : Nat) (f : Seq → Seq) :
    (s.modSeq n f).slice n = { s.slice n with seq := f (s.slice n).seq } := State.slice_modSlice _ _ _

/-- The element of a list with the least value of f, and the earliest of those. -/
theorem minBy_mem {α : Type} (f : α → Nat) : ∀ (l : List α) (x : α), minBy f l = some x → x ∈ l ∧ ∀ y ∈ l, f x ≤ f y := by
  intro l
  induction l with
  | nil => intro x h; cases h
  | cons a r ih =>
    intro x h
    unfold minBy at h
    cases hm : minBy f r with
    | none =>
      simp only [hm, Option.some.injEq] at h
      subst h
      have : r = [] := by
        cases r with
        | nil => rfl
        | cons b q => unfold minBy at hm; split at hm <;> (try split at hm) <;> cases hm
      subst this
      simp
    | some z =>
      obtain ⟨i1, i2⟩ := ih z hm
      simp only [hm] at h
      split at h
      · next lt =>
        simp only [Option.some.injEq] at h; subst h
        refine ⟨List.mem_cons_of_mem _ i1, fun y hy => ?_⟩
        rcases List.mem_cons.1 hy with rfl | hy
        · omega
        · exact i2 y hy
      · next lt =>
        simp only [Option.some.injEq] at h; subst h
        refine ⟨List.mem_cons_self, fun y hy => ?_⟩
        rcases List.mem_cons.1 hy with rfl | hy
        · omega
        · have := i2 y hy; omega

/-- The monotonic count after time has passed. -/
@[simp] theorem State.advanceTo_now (s : State) (t : Nat) : (s.advanceTo t).clk.now = max s.clk.now t := by
  unfold State.advanceTo
  split
  · next h => exact (Nat.max_eq_left h).symm
  · rw [Nat.max_eq_right (by omega)]

@[simp] theorem State.pslice_modPslice (s : State) (n : Nat) (f : PowerSlice → PowerSlice) :
    (s.modPslice n f).pslice n = f (s.pslice n) := tget_tput_same _ _ _ _

theorem State.pslice_modPslice_other (s : State) (n k : Nat) (f : PowerSlice → PowerSlice) (h : k ≠ n) :
    (s.modPslice n f).pslice k = s.pslice k := tget_tput_other _ _ _ _ _ h

end Sys2Proof.Machine
end

