-- ==== Sys2Proof/Safety.lean ====
section
/-! DEFINITION. What counts as a sound state and a safe run, in the terms that claims use. -/

namespace Sys2Proof.Machine

/-- Device memory and the boot flash are in their canonical form. -/
def State.cellsWf (s : State) : Bool := Memory.wf s.mem.bytes && Memory.wf s.trust.flash

/-- A run of steps from a state that meets no fault and no refusal. -/
def State.runsTo (s : State) (k : Nat) (t : State) : Prop := Host.Core.run Sys2Proof.core k s = .next t

/-- The time of the device does not run backwards, and what OTP holds for good is kept: the serial number, the root
key (R461), and every fuse that has been blown stays blown (R459, R460). -/
structure Keeps (s t : State) : Prop where
  now     : s.clk.now ≤ t.clk.now
  serial  : t.trust.serial = s.trust.serial
  rootKey : t.trust.rootKey = s.trust.rootKey
  revoked : ∀ i, s.trust.revoked.getLsbD i = true → t.trust.revoked.getLsbD i = true
  instar  : ∀ i, s.trust.instar.getLsbD i = true → t.trust.instar.getLsbD i = true
  cells   : s.cellsWf = true → t.cellsWf = true

/-- A store to device address b changes the cell that device address a is read from. -/
def State.shares (s : State) (a b : Nat) : Prop :=
  ∃ p ∈ s.places (b / pageBytes), phys p.1 p.2 (b % pageBytes) = (s.entry (a / pageBytes)).at (a % pageBytes)

/-- A request of the session arrives in its turn: the host port answers, the device is not in recovery mode, the lease
is HELD by the request's source under its session, and its SEQ is the expected one (R338, R354, R355). -/
structure Turn (s : State) (r : Req) : Prop where
  up     : s.hostUp = true
  normal : s.recovering = false
  holder : s.holder r = true
  seq    : s.link.expected.getD r.seq = r.seq

/-- What a request executed in its turn has done to the session: the next SEQ is expected, the lease is renewed. -/
def State.turned (s : State) (r : Req) : State :=
  { s with link := { s.link with expected := some (r.seq + 1), renewed := s.clk.now } }

/-- A write of v to instance k of a row meets every step of R369: the value is in range, no write of the object waits
deferred, the owner runs, and the precondition of its rule holds. -/
structure Writes (s : State) (r : ObjRow) (k : Nat) (w : WriteRule) (v : Val) : Prop where
  range : r.inRange v = true
  check : w.check s v = true
  free  : s.work.deferred.any (fun d => d.key == r.key k) = false
  owner : s.runs r.owner = true
  pre   : w.pre s v = 0

/-- The state in which a write of instance k of a row is carried out: its request is in its turn, and the sequences of
parts of every other object are forgotten. -/
abbrev State.taken (s : State) (r : Req) (row : ObjRow) (k : Nat) : State := (s.turned r).touch (row.key k) true

/-- A write of a command object in its turn: the effect f, and the response OK. -/
def State.wrote (s : State) (r : Req) (row : ObjRow) (k : Nat) (f : State → State) : State :=
  (f (s.taken r row k)).respond r 0x11 St.ok [] true

/-- Slice n in a cycle: Feeder A has read up to it, and the bundles with an empty slot mask that could issue by then have
issued (R37, R119). -/
def State.reached (s : State) (n cyc : Nat) : State := (s.feedTo n cyc).passEmpty n cyc

/-- The next bundle of slice n can issue in the cycle of i: the program is under way, the previous bundle's slots have all
taken effect, the header is the one that i names, no breakpoint holds it, and nothing of Table — SEQ_HOLD holds it
(R119, R130 to R132). -/
structure Issues (s : State) (n : Nat) (i : Issue) : Prop where
  mode   : (s.slice n).seq.mode = .issuing ∨ (s.slice n).seq.mode = .held
  goes   : (s.slice n).seq.halted = false
  placed : (s.slice n).alloc.isSome = true
  before : (s.slice n).seq.bundleDone = true
  cycle  : (s.slice n).seq.notBefore ≤ i.cyc
  header : (s.slice n).hdrAt (s.slice n).seq.pc = i.hdr.toNat
  free   : s.brkMatch n = false
  ready  : s.issueHold n i.cyc = 0

/-- The bundle of a slot command is open: t is the state after the issue of b in its cycle, or s where the bundle is open
already. -/
def State.opens (s : State) (n : Nat) (b : Option Issue) (t : State) : Prop :=
  match b with
  | none => t = s
  | some i => Issues (s.reached n i.cyc) n i ∧ t = (s.reached n i.cyc).issueNow n i.cyc

/-- A slot of bit k with word w takes effect in the open bundle of t: the bundle holds that word there, and the slot has
not taken effect before. -/
structure Slot (s : State) (n : Nat) (b : Option Issue) (k : Nat) (w : DWord) (t : State) : Prop where
  kind   : 24 ≤ k ∧ k < 32
  opened : s.opens n b t
  held   : ∃ o, (t.slice n).seq.bundle = some o ∧ o.hdr.testBit k = true ∧ o.done.testBit k = false ∧
    (t.slice n).wordAt o.off k = w.toNat

/-- The slot of bit k of the open bundle is marked as having taken effect. -/
def State.slotDone (s : State) (n k : Nat) : State :=
  s.modSeq n (fun q => { q with bundle := q.bundle.map (fun o => { o with done := o.done + 2 ^ k }) })

/-- A thread issues an instruction that holds its core for the cycles cyc: it is the ready current thread of its core, and its
task's budget lasts (R187, R195); t is the state in which the instruction acts. -/
structure ThreadGoes (s : State) (k : Nat) (cyc : Cycles) (t : State) : Prop where
  may     : s.mayIssue k = true
  charged : s.charge k cyc = (true, t)

/-- Item i of opcode op is the one that queue q executes next, and its precondition holds (R237, R242). -/
structure TakesUp (s : State) (q op : Nat) (i : Item) : Prop where
  turn  : s.itemFor q op = some i
  holds : s.holdsFor q i = true

/-- After a command of queue q: its next item may begin its wait, and the wait-for graph is built (R260, R261). -/
def State.thenNext (s : State) (q : Nat) : State := (s.headWait q).buildGraph

/-- A doorbell entry applied in its turn: its status is the body of the response (R346). -/
def State.rung (s : State) (r : Req) (kind : Nat) (d : Doorbell) (status : Nat) : State :=
  (if status == 0 then (s.turned r).bellApply kind d else (s.turned r).badDoorbell kind d status).respond r 0x30 St.ok
    (be 2 status) true

end Sys2Proof.Machine
end

