-- ==== Sys2Proof/Laws/State.lean ====
section
/-! SUPPORT. The small lemmas of State: for each update what each field and each accessor reads afterwards. -/

namespace Sys2Proof.Machine

/-! ## setVal -/

@[simp] theorem State.setVal_pending (s : State) (r : ObjRow) (k : Nat) (v : Val) : (s.setVal r k v).pending = s.pending := rfl
@[simp] theorem State.setVal_clk (s : State) (r : ObjRow) (k : Nat) (v : Val) : (s.setVal r k v).clk = s.clk := rfl
@[simp] theorem State.setVal_pins (s : State) (r : ObjRow) (k : Nat) (v : Val) : (s.setVal r k v).pins = s.pins := rfl
@[simp] theorem State.setVal_rst (s : State) (r : ObjRow) (k : Nat) (v : Val) : (s.setVal r k v).rst = s.rst := rfl
@[simp] theorem State.setVal_isl (s : State) (r : ObjRow) (k : Nat) (v : Val) : (s.setVal r k v).isl = s.isl := rfl
@[simp] theorem State.setVal_slices (s : State) (r : ObjRow) (k : Nat) (v : Val) : (s.setVal r k v).slices = s.slices := rfl
@[simp] theorem State.setVal_harts (s : State) (r : ObjRow) (k : Nat) (v : Val) : (s.setVal r k v).harts = s.harts := rfl
@[simp] theorem State.setVal_clusters (s : State) (r : ObjRow) (k : Nat) (v : Val) : (s.setVal r k v).clusters = s.clusters := rfl
@[simp] theorem State.setVal_tasks (s : State) (r : ObjRow) (k : Nat) (v : Val) : (s.setVal r k v).tasks = s.tasks := rfl
@[simp] theorem State.setVal_mem (s : State) (r : ObjRow) (k : Nat) (v : Val) : (s.setVal r k v).mem = s.mem := rfl
@[simp] theorem State.setVal_peers (s : State) (r : ObjRow) (k : Nat) (v : Val) : (s.setVal r k v).peers = s.peers := rfl
@[simp] theorem State.setVal_work (s : State) (r : ObjRow) (k : Nat) (v : Val) : (s.setVal r k v).work = s.work := rfl
@[simp] theorem State.setVal_media (s : State) (r : ObjRow) (k : Nat) (v : Val) : (s.setVal r k v).media = s.media := rfl
@[simp] theorem State.setVal_link (s : State) (r : ObjRow) (k : Nat) (v : Val) : (s.setVal r k v).link = s.link := rfl
@[simp] theorem State.setVal_safety (s : State) (r : ObjRow) (k : Nat) (v : Val) : (s.setVal r k v).safety = s.safety := rfl
@[simp] theorem State.setVal_power (s : State) (r : ObjRow) (k : Nat) (v : Val) : (s.setVal r k v).power = s.power := rfl
@[simp] theorem State.setVal_fw (s : State) (r : ObjRow) (k : Nat) (v : Val) : (s.setVal r k v).fw = s.fw := rfl
@[simp] theorem State.setVal_trust (s : State) (r : ObjRow) (k : Nat) (v : Val) : (s.setVal r k v).trust = s.trust := rfl
@[simp] theorem State.setVal_pers (s : State) (r : ObjRow) (k : Nat) (v : Val) : (s.setVal r k v).pers = s.pers := rfl
@[simp] theorem State.setVal_freeCtr (s : State) (r : ObjRow) (k : Nat) (v : Val) : (s.setVal r k v).freeCtr = s.freeCtr := rfl
@[simp] theorem State.setVal_slice (s : State) (r : ObjRow) (k : Nat) (v : Val) (m : Nat) : (s.setVal r k v).slice m = s.slice m := rfl
@[simp] theorem State.setVal_hart (s : State) (r : ObjRow) (k : Nat) (v : Val) (m : Nat) : (s.setVal r k v).hart m = s.hart m := rfl
@[simp] theorem State.setVal_cluster (s : State) (r : ObjRow) (k : Nat) (v : Val) (m : Nat) : (s.setVal r k v).cluster m = s.cluster m := rfl
@[simp] theorem State.setVal_stream (s : State) (r : ObjRow) (k : Nat) (v : Val) (m : Nat) : (s.setVal r k v).stream m = s.stream m := rfl
@[simp] theorem State.setVal_chan (s : State) (r : ObjRow) (k : Nat) (v : Val) (m : Nat) : (s.setVal r k v).chan m = s.chan m := rfl
@[simp] theorem State.setVal_entry (s : State) (r : ObjRow) (k : Nat) (v : Val) (m : Nat) : (s.setVal r k v).entry m = s.entry m := rfl
@[simp] theorem State.setVal_peer (s : State) (r : ObjRow) (k : Nat) (v : Val) (m : Nat) : (s.setVal r k v).peer m = s.peer m := rfl
@[simp] theorem State.setVal_proc (s : State) (r : ObjRow) (k : Nat) (v : Val) (m : Nat) : (s.setVal r k v).proc m = s.proc m := rfl
@[simp] theorem State.setVal_pslice (s : State) (r : ObjRow) (k : Nat) (v : Val) (m : Nat) : (s.setVal r k v).pslice m = s.pslice m := rfl
@[simp] theorem State.setVal_queue (s : State) (r : ObjRow) (k : Nat) (v : Val) (m : Nat) : (s.setVal r k v).queue m = s.queue m := rfl
@[simp] theorem State.setVal_ctx (s : State) (r : ObjRow) (k : Nat) (v : Val) (m : Nat) : (s.setVal r k v).ctx m = s.ctx m := rfl

/-! ## setNum -/

@[simp] theorem State.setNum_pending (s : State) (r : ObjRow) (k n : Nat) : (s.setNum r k n).pending = s.pending := rfl
@[simp] theorem State.setNum_clk (s : State) (r : ObjRow) (k n : Nat) : (s.setNum r k n).clk = s.clk := rfl
@[simp] theorem State.setNum_pins (s : State) (r : ObjRow) (k n : Nat) : (s.setNum r k n).pins = s.pins := rfl
@[simp] theorem State.setNum_rst (s : State) (r : ObjRow) (k n : Nat) : (s.setNum r k n).rst = s.rst := rfl
@[simp] theorem State.setNum_isl (s : State) (r : ObjRow) (k n : Nat) : (s.setNum r k n).isl = s.isl := rfl
@[simp] theorem State.setNum_slices (s : State) (r : ObjRow) (k n : Nat) : (s.setNum r k n).slices = s.slices := rfl
@[simp] theorem State.setNum_harts (s : State) (r : ObjRow) (k n : Nat) : (s.setNum r k n).harts = s.harts := rfl
@[simp] theorem State.setNum_clusters (s : State) (r : ObjRow) (k n : Nat) : (s.setNum r k n).clusters = s.clusters := rfl
@[simp] theorem State.setNum_tasks (s : State) (r : ObjRow) (k n : Nat) : (s.setNum r k n).tasks = s.tasks := rfl
@[simp] theorem State.setNum_mem (s : State) (r : ObjRow) (k n : Nat) : (s.setNum r k n).mem = s.mem := rfl
@[simp] theorem State.setNum_peers (s : State) (r : ObjRow) (k n : Nat) : (s.setNum r k n).peers = s.peers := rfl
@[simp] theorem State.setNum_work (s : State) (r : ObjRow) (k n : Nat) : (s.setNum r k n).work = s.work := rfl
@[simp] theorem State.setNum_media (s : State) (r : ObjRow) (k n : Nat) : (s.setNum r k n).media = s.media := rfl
@[simp] theorem State.setNum_link (s : State) (r : ObjRow) (k n : Nat) : (s.setNum r k n).link = s.link := rfl
@[simp] theorem State.setNum_safety (s : State) (r : ObjRow) (k n : Nat) : (s.setNum r k n).safety = s.safety := rfl
@[simp] theorem State.setNum_power (s : State) (r : ObjRow) (k n : Nat) : (s.setNum r k n).power = s.power := rfl
@[simp] theorem State.setNum_fw (s : State) (r : ObjRow) (k n : Nat) : (s.setNum r k n).fw = s.fw := rfl
@[simp] theorem State.setNum_trust (s : State) (r : ObjRow) (k n : Nat) : (s.setNum r k n).trust = s.trust := rfl
@[simp] theorem State.setNum_pers (s : State) (r : ObjRow) (k n : Nat) : (s.setNum r k n).pers = s.pers := rfl
@[simp] theorem State.setNum_freeCtr (s : State) (r : ObjRow) (k n : Nat) : (s.setNum r k n).freeCtr = s.freeCtr := rfl
@[simp] theorem State.setNum_slice (s : State) (r : ObjRow) (k n : Nat) (m : Nat) : (s.setNum r k n).slice m = s.slice m := rfl
@[simp] theorem State.setNum_hart (s : State) (r : ObjRow) (k n : Nat) (m : Nat) : (s.setNum r k n).hart m = s.hart m := rfl
@[simp] theorem State.setNum_cluster (s : State) (r : ObjRow) (k n : Nat) (m : Nat) : (s.setNum r k n).cluster m = s.cluster m := rfl
@[simp] theorem State.setNum_stream (s : State) (r : ObjRow) (k n : Nat) (m : Nat) : (s.setNum r k n).stream m = s.stream m := rfl
@[simp] theorem State.setNum_chan (s : State) (r : ObjRow) (k n : Nat) (m : Nat) : (s.setNum r k n).chan m = s.chan m := rfl
@[simp] theorem State.setNum_entry (s : State) (r : ObjRow) (k n : Nat) (m : Nat) : (s.setNum r k n).entry m = s.entry m := rfl
@[simp] theorem State.setNum_peer (s : State) (r : ObjRow) (k n : Nat) (m : Nat) : (s.setNum r k n).peer m = s.peer m := rfl
@[simp] theorem State.setNum_proc (s : State) (r : ObjRow) (k n : Nat) (m : Nat) : (s.setNum r k n).proc m = s.proc m := rfl
@[simp] theorem State.setNum_pslice (s : State) (r : ObjRow) (k n : Nat) (m : Nat) : (s.setNum r k n).pslice m = s.pslice m := rfl
@[simp] theorem State.setNum_queue (s : State) (r : ObjRow) (k n : Nat) (m : Nat) : (s.setNum r k n).queue m = s.queue m := rfl
@[simp] theorem State.setNum_ctx (s : State) (r : ObjRow) (k n : Nat) (m : Nat) : (s.setNum r k n).ctx m = s.ctx m := rfl

/-! ## setBlob -/

@[simp] theorem State.setBlob_pending (s : State) (r : ObjRow) (k : Nat) (b : Bytes) : (s.setBlob r k b).pending = s.pending := rfl
@[simp] theorem State.setBlob_clk (s : State) (r : ObjRow) (k : Nat) (b : Bytes) : (s.setBlob r k b).clk = s.clk := rfl
@[simp] theorem State.setBlob_pins (s : State) (r : ObjRow) (k : Nat) (b : Bytes) : (s.setBlob r k b).pins = s.pins := rfl
@[simp] theorem State.setBlob_rst (s : State) (r : ObjRow) (k : Nat) (b : Bytes) : (s.setBlob r k b).rst = s.rst := rfl
@[simp] theorem State.setBlob_isl (s : State) (r : ObjRow) (k : Nat) (b : Bytes) : (s.setBlob r k b).isl = s.isl := rfl
@[simp] theorem State.setBlob_slices (s : State) (r : ObjRow) (k : Nat) (b : Bytes) : (s.setBlob r k b).slices = s.slices := rfl
@[simp] theorem State.setBlob_harts (s : State) (r : ObjRow) (k : Nat) (b : Bytes) : (s.setBlob r k b).harts = s.harts := rfl
@[simp] theorem State.setBlob_clusters (s : State) (r : ObjRow) (k : Nat) (b : Bytes) : (s.setBlob r k b).clusters = s.clusters := rfl
@[simp] theorem State.setBlob_tasks (s : State) (r : ObjRow) (k : Nat) (b : Bytes) : (s.setBlob r k b).tasks = s.tasks := rfl
@[simp] theorem State.setBlob_mem (s : State) (r : ObjRow) (k : Nat) (b : Bytes) : (s.setBlob r k b).mem = s.mem := rfl
@[simp] theorem State.setBlob_peers (s : State) (r : ObjRow) (k : Nat) (b : Bytes) : (s.setBlob r k b).peers = s.peers := rfl
@[simp] theorem State.setBlob_work (s : State) (r : ObjRow) (k : Nat) (b : Bytes) : (s.setBlob r k b).work = s.work := rfl
@[simp] theorem State.setBlob_media (s : State) (r : ObjRow) (k : Nat) (b : Bytes) : (s.setBlob r k b).media = s.media := rfl
@[simp] theorem State.setBlob_link (s : State) (r : ObjRow) (k : Nat) (b : Bytes) : (s.setBlob r k b).link = s.link := rfl
@[simp] theorem State.setBlob_safety (s : State) (r : ObjRow) (k : Nat) (b : Bytes) : (s.setBlob r k b).safety = s.safety := rfl
@[simp] theorem State.setBlob_power (s : State) (r : ObjRow) (k : Nat) (b : Bytes) : (s.setBlob r k b).power = s.power := rfl
@[simp] theorem State.setBlob_fw (s : State) (r : ObjRow) (k : Nat) (b : Bytes) : (s.setBlob r k b).fw = s.fw := rfl
@[simp] theorem State.setBlob_trust (s : State) (r : ObjRow) (k : Nat) (b : Bytes) : (s.setBlob r k b).trust = s.trust := rfl
@[simp] theorem State.setBlob_pers (s : State) (r : ObjRow) (k : Nat) (b : Bytes) : (s.setBlob r k b).pers = s.pers := rfl
@[simp] theorem State.setBlob_freeCtr (s : State) (r : ObjRow) (k : Nat) (b : Bytes) : (s.setBlob r k b).freeCtr = s.freeCtr := rfl
@[simp] theorem State.setBlob_slice (s : State) (r : ObjRow) (k : Nat) (b : Bytes) (m : Nat) : (s.setBlob r k b).slice m = s.slice m := rfl
@[simp] theorem State.setBlob_hart (s : State) (r : ObjRow) (k : Nat) (b : Bytes) (m : Nat) : (s.setBlob r k b).hart m = s.hart m := rfl
@[simp] theorem State.setBlob_cluster (s : State) (r : ObjRow) (k : Nat) (b : Bytes) (m : Nat) : (s.setBlob r k b).cluster m = s.cluster m := rfl
@[simp] theorem State.setBlob_stream (s : State) (r : ObjRow) (k : Nat) (b : Bytes) (m : Nat) : (s.setBlob r k b).stream m = s.stream m := rfl
@[simp] theorem State.setBlob_chan (s : State) (r : ObjRow) (k : Nat) (b : Bytes) (m : Nat) : (s.setBlob r k b).chan m = s.chan m := rfl
@[simp] theorem State.setBlob_entry (s : State) (r : ObjRow) (k : Nat) (b : Bytes) (m : Nat) : (s.setBlob r k b).entry m = s.entry m := rfl
@[simp] theorem State.setBlob_peer (s : State) (r : ObjRow) (k : Nat) (b : Bytes) (m : Nat) : (s.setBlob r k b).peer m = s.peer m := rfl
@[simp] theorem State.setBlob_proc (s : State) (r : ObjRow) (k : Nat) (b : Bytes) (m : Nat) : (s.setBlob r k b).proc m = s.proc m := rfl
@[simp] theorem State.setBlob_pslice (s : State) (r : ObjRow) (k : Nat) (b : Bytes) (m : Nat) : (s.setBlob r k b).pslice m = s.pslice m := rfl
@[simp] theorem State.setBlob_queue (s : State) (r : ObjRow) (k : Nat) (b : Bytes) (m : Nat) : (s.setBlob r k b).queue m = s.queue m := rfl
@[simp] theorem State.setBlob_ctx (s : State) (r : ObjRow) (k : Nat) (b : Bytes) (m : Nat) : (s.setBlob r k b).ctx m = s.ctx m := rfl

/-! ## clearObj -/

@[simp] theorem State.clearObj_pending (s : State) (r : ObjRow) (k : Nat) : (s.clearObj r k).pending = s.pending := rfl
@[simp] theorem State.clearObj_clk (s : State) (r : ObjRow) (k : Nat) : (s.clearObj r k).clk = s.clk := rfl
@[simp] theorem State.clearObj_pins (s : State) (r : ObjRow) (k : Nat) : (s.clearObj r k).pins = s.pins := rfl
@[simp] theorem State.clearObj_rst (s : State) (r : ObjRow) (k : Nat) : (s.clearObj r k).rst = s.rst := rfl
@[simp] theorem State.clearObj_isl (s : State) (r : ObjRow) (k : Nat) : (s.clearObj r k).isl = s.isl := rfl
@[simp] theorem State.clearObj_slices (s : State) (r : ObjRow) (k : Nat) : (s.clearObj r k).slices = s.slices := rfl
@[simp] theorem State.clearObj_harts (s : State) (r : ObjRow) (k : Nat) : (s.clearObj r k).harts = s.harts := rfl
@[simp] theorem State.clearObj_clusters (s : State) (r : ObjRow) (k : Nat) : (s.clearObj r k).clusters = s.clusters := rfl
@[simp] theorem State.clearObj_tasks (s : State) (r : ObjRow) (k : Nat) : (s.clearObj r k).tasks = s.tasks := rfl
@[simp] theorem State.clearObj_mem (s : State) (r : ObjRow) (k : Nat) : (s.clearObj r k).mem = s.mem := rfl
@[simp] theorem State.clearObj_peers (s : State) (r : ObjRow) (k : Nat) : (s.clearObj r k).peers = s.peers := rfl
@[simp] theorem State.clearObj_work (s : State) (r : ObjRow) (k : Nat) : (s.clearObj r k).work = s.work := rfl
@[simp] theorem State.clearObj_media (s : State) (r : ObjRow) (k : Nat) : (s.clearObj r k).media = s.media := rfl
@[simp] theorem State.clearObj_link (s : State) (r : ObjRow) (k : Nat) : (s.clearObj r k).link = s.link := rfl
@[simp] theorem State.clearObj_safety (s : State) (r : ObjRow) (k : Nat) : (s.clearObj r k).safety = s.safety := rfl
@[simp] theorem State.clearObj_power (s : State) (r : ObjRow) (k : Nat) : (s.clearObj r k).power = s.power := rfl
@[simp] theorem State.clearObj_fw (s : State) (r : ObjRow) (k : Nat) : (s.clearObj r k).fw = s.fw := rfl
@[simp] theorem State.clearObj_trust (s : State) (r : ObjRow) (k : Nat) : (s.clearObj r k).trust = s.trust := rfl
@[simp] theorem State.clearObj_pers (s : State) (r : ObjRow) (k : Nat) : (s.clearObj r k).pers = s.pers := rfl
@[simp] theorem State.clearObj_freeCtr (s : State) (r : ObjRow) (k : Nat) : (s.clearObj r k).freeCtr = s.freeCtr := rfl
@[simp] theorem State.clearObj_slice (s : State) (r : ObjRow) (k : Nat) (m : Nat) : (s.clearObj r k).slice m = s.slice m := rfl
@[simp] theorem State.clearObj_hart (s : State) (r : ObjRow) (k : Nat) (m : Nat) : (s.clearObj r k).hart m = s.hart m := rfl
@[simp] theorem State.clearObj_cluster (s : State) (r : ObjRow) (k : Nat) (m : Nat) : (s.clearObj r k).cluster m = s.cluster m := rfl
@[simp] theorem State.clearObj_stream (s : State) (r : ObjRow) (k : Nat) (m : Nat) : (s.clearObj r k).stream m = s.stream m := rfl
@[simp] theorem State.clearObj_chan (s : State) (r : ObjRow) (k : Nat) (m : Nat) : (s.clearObj r k).chan m = s.chan m := rfl
@[simp] theorem State.clearObj_entry (s : State) (r : ObjRow) (k : Nat) (m : Nat) : (s.clearObj r k).entry m = s.entry m := rfl
@[simp] theorem State.clearObj_peer (s : State) (r : ObjRow) (k : Nat) (m : Nat) : (s.clearObj r k).peer m = s.peer m := rfl
@[simp] theorem State.clearObj_proc (s : State) (r : ObjRow) (k : Nat) (m : Nat) : (s.clearObj r k).proc m = s.proc m := rfl
@[simp] theorem State.clearObj_pslice (s : State) (r : ObjRow) (k : Nat) (m : Nat) : (s.clearObj r k).pslice m = s.pslice m := rfl
@[simp] theorem State.clearObj_queue (s : State) (r : ObjRow) (k : Nat) (m : Nat) : (s.clearObj r k).queue m = s.queue m := rfl
@[simp] theorem State.clearObj_ctx (s : State) (r : ObjRow) (k : Nat) (m : Nat) : (s.clearObj r k).ctx m = s.ctx m := rfl

/-! ## count -/

@[simp] theorem State.count_pending (s : State) (r : ObjRow) (k n : Nat) : (s.count r k n).pending = s.pending := rfl
@[simp] theorem State.count_clk (s : State) (r : ObjRow) (k n : Nat) : (s.count r k n).clk = s.clk := rfl
@[simp] theorem State.count_pins (s : State) (r : ObjRow) (k n : Nat) : (s.count r k n).pins = s.pins := rfl
@[simp] theorem State.count_rst (s : State) (r : ObjRow) (k n : Nat) : (s.count r k n).rst = s.rst := rfl
@[simp] theorem State.count_isl (s : State) (r : ObjRow) (k n : Nat) : (s.count r k n).isl = s.isl := rfl
@[simp] theorem State.count_slices (s : State) (r : ObjRow) (k n : Nat) : (s.count r k n).slices = s.slices := rfl
@[simp] theorem State.count_harts (s : State) (r : ObjRow) (k n : Nat) : (s.count r k n).harts = s.harts := rfl
@[simp] theorem State.count_clusters (s : State) (r : ObjRow) (k n : Nat) : (s.count r k n).clusters = s.clusters := rfl
@[simp] theorem State.count_tasks (s : State) (r : ObjRow) (k n : Nat) : (s.count r k n).tasks = s.tasks := rfl
@[simp] theorem State.count_mem (s : State) (r : ObjRow) (k n : Nat) : (s.count r k n).mem = s.mem := rfl
@[simp] theorem State.count_peers (s : State) (r : ObjRow) (k n : Nat) : (s.count r k n).peers = s.peers := rfl
@[simp] theorem State.count_work (s : State) (r : ObjRow) (k n : Nat) : (s.count r k n).work = s.work := rfl
@[simp] theorem State.count_media (s : State) (r : ObjRow) (k n : Nat) : (s.count r k n).media = s.media := rfl
@[simp] theorem State.count_link (s : State) (r : ObjRow) (k n : Nat) : (s.count r k n).link = s.link := rfl
@[simp] theorem State.count_safety (s : State) (r : ObjRow) (k n : Nat) : (s.count r k n).safety = s.safety := rfl
@[simp] theorem State.count_power (s : State) (r : ObjRow) (k n : Nat) : (s.count r k n).power = s.power := rfl
@[simp] theorem State.count_fw (s : State) (r : ObjRow) (k n : Nat) : (s.count r k n).fw = s.fw := rfl
@[simp] theorem State.count_trust (s : State) (r : ObjRow) (k n : Nat) : (s.count r k n).trust = s.trust := rfl
@[simp] theorem State.count_pers (s : State) (r : ObjRow) (k n : Nat) : (s.count r k n).pers = s.pers := rfl
@[simp] theorem State.count_freeCtr (s : State) (r : ObjRow) (k n : Nat) : (s.count r k n).freeCtr = s.freeCtr := rfl
@[simp] theorem State.count_slice (s : State) (r : ObjRow) (k n : Nat) (m : Nat) : (s.count r k n).slice m = s.slice m := rfl
@[simp] theorem State.count_hart (s : State) (r : ObjRow) (k n : Nat) (m : Nat) : (s.count r k n).hart m = s.hart m := rfl
@[simp] theorem State.count_cluster (s : State) (r : ObjRow) (k n : Nat) (m : Nat) : (s.count r k n).cluster m = s.cluster m := rfl
@[simp] theorem State.count_stream (s : State) (r : ObjRow) (k n : Nat) (m : Nat) : (s.count r k n).stream m = s.stream m := rfl
@[simp] theorem State.count_chan (s : State) (r : ObjRow) (k n : Nat) (m : Nat) : (s.count r k n).chan m = s.chan m := rfl
@[simp] theorem State.count_entry (s : State) (r : ObjRow) (k n : Nat) (m : Nat) : (s.count r k n).entry m = s.entry m := rfl
@[simp] theorem State.count_peer (s : State) (r : ObjRow) (k n : Nat) (m : Nat) : (s.count r k n).peer m = s.peer m := rfl
@[simp] theorem State.count_proc (s : State) (r : ObjRow) (k n : Nat) (m : Nat) : (s.count r k n).proc m = s.proc m := rfl
@[simp] theorem State.count_pslice (s : State) (r : ObjRow) (k n : Nat) (m : Nat) : (s.count r k n).pslice m = s.pslice m := rfl
@[simp] theorem State.count_queue (s : State) (r : ObjRow) (k n : Nat) (m : Nat) : (s.count r k n).queue m = s.queue m := rfl
@[simp] theorem State.count_ctx (s : State) (r : ObjRow) (k n : Nat) (m : Nat) : (s.count r k n).ctx m = s.ctx m := rfl

/-! ## setSlice -/

@[simp] theorem State.setSlice_pending (s : State) (n : Nat) (x : Slice) : (s.setSlice n x).pending = s.pending := rfl
@[simp] theorem State.setSlice_clk (s : State) (n : Nat) (x : Slice) : (s.setSlice n x).clk = s.clk := rfl
@[simp] theorem State.setSlice_pins (s : State) (n : Nat) (x : Slice) : (s.setSlice n x).pins = s.pins := rfl
@[simp] theorem State.setSlice_rst (s : State) (n : Nat) (x : Slice) : (s.setSlice n x).rst = s.rst := rfl
@[simp] theorem State.setSlice_objs (s : State) (n : Nat) (x : Slice) : (s.setSlice n x).objs = s.objs := rfl
@[simp] theorem State.setSlice_isl (s : State) (n : Nat) (x : Slice) : (s.setSlice n x).isl = s.isl := rfl
@[simp] theorem State.setSlice_harts (s : State) (n : Nat) (x : Slice) : (s.setSlice n x).harts = s.harts := rfl
@[simp] theorem State.setSlice_clusters (s : State) (n : Nat) (x : Slice) : (s.setSlice n x).clusters = s.clusters := rfl
@[simp] theorem State.setSlice_tasks (s : State) (n : Nat) (x : Slice) : (s.setSlice n x).tasks = s.tasks := rfl
@[simp] theorem State.setSlice_mem (s : State) (n : Nat) (x : Slice) : (s.setSlice n x).mem = s.mem := rfl
@[simp] theorem State.setSlice_peers (s : State) (n : Nat) (x : Slice) : (s.setSlice n x).peers = s.peers := rfl
@[simp] theorem State.setSlice_work (s : State) (n : Nat) (x : Slice) : (s.setSlice n x).work = s.work := rfl
@[simp] theorem State.setSlice_media (s : State) (n : Nat) (x : Slice) : (s.setSlice n x).media = s.media := rfl
@[simp] theorem State.setSlice_link (s : State) (n : Nat) (x : Slice) : (s.setSlice n x).link = s.link := rfl
@[simp] theorem State.setSlice_safety (s : State) (n : Nat) (x : Slice) : (s.setSlice n x).safety = s.safety := rfl
@[simp] theorem State.setSlice_power (s : State) (n : Nat) (x : Slice) : (s.setSlice n x).power = s.power := rfl
@[simp] theorem State.setSlice_fw (s : State) (n : Nat) (x : Slice) : (s.setSlice n x).fw = s.fw := rfl
@[simp] theorem State.setSlice_trust (s : State) (n : Nat) (x : Slice) : (s.setSlice n x).trust = s.trust := rfl
@[simp] theorem State.setSlice_pers (s : State) (n : Nat) (x : Slice) : (s.setSlice n x).pers = s.pers := rfl
@[simp] theorem State.setSlice_freeCtr (s : State) (n : Nat) (x : Slice) : (s.setSlice n x).freeCtr = s.freeCtr := rfl
@[simp] theorem State.setSlice_hart (s : State) (n : Nat) (x : Slice) (m : Nat) : (s.setSlice n x).hart m = s.hart m := rfl
@[simp] theorem State.setSlice_cluster (s : State) (n : Nat) (x : Slice) (m : Nat) : (s.setSlice n x).cluster m = s.cluster m := rfl
@[simp] theorem State.setSlice_stream (s : State) (n : Nat) (x : Slice) (m : Nat) : (s.setSlice n x).stream m = s.stream m := rfl
@[simp] theorem State.setSlice_chan (s : State) (n : Nat) (x : Slice) (m : Nat) : (s.setSlice n x).chan m = s.chan m := rfl
@[simp] theorem State.setSlice_entry (s : State) (n : Nat) (x : Slice) (m : Nat) : (s.setSlice n x).entry m = s.entry m := rfl
@[simp] theorem State.setSlice_peer (s : State) (n : Nat) (x : Slice) (m : Nat) : (s.setSlice n x).peer m = s.peer m := rfl
@[simp] theorem State.setSlice_proc (s : State) (n : Nat) (x : Slice) (m : Nat) : (s.setSlice n x).proc m = s.proc m := rfl
@[simp] theorem State.setSlice_pslice (s : State) (n : Nat) (x : Slice) (m : Nat) : (s.setSlice n x).pslice m = s.pslice m := rfl
@[simp] theorem State.setSlice_queue (s : State) (n : Nat) (x : Slice) (m : Nat) : (s.setSlice n x).queue m = s.queue m := rfl
@[simp] theorem State.setSlice_ctx (s : State) (n : Nat) (x : Slice) (m : Nat) : (s.setSlice n x).ctx m = s.ctx m := rfl
@[simp] theorem State.setSlice_val (s : State) (n : Nat) (x : Slice) (row : ObjRow) (m : Nat) : (s.setSlice n x).val row m = s.val row m := rfl
@[simp] theorem State.setSlice_num (s : State) (n : Nat) (x : Slice) (row : ObjRow) (m : Nat) : (s.setSlice n x).num row m = s.num row m := rfl
@[simp] theorem State.setSlice_blob (s : State) (n : Nat) (x : Slice) (row : ObjRow) (m : Nat) : (s.setSlice n x).blob row m = s.blob row m := rfl

/-! ## modSlice -/

@[simp] theorem State.modSlice_pending (s : State) (n : Nat) (f : Slice → Slice) : (s.modSlice n f).pending = s.pending := rfl
@[simp] theorem State.modSlice_clk (s : State) (n : Nat) (f : Slice → Slice) : (s.modSlice n f).clk = s.clk := rfl
@[simp] theorem State.modSlice_pins (s : State) (n : Nat) (f : Slice → Slice) : (s.modSlice n f).pins = s.pins := rfl
@[simp] theorem State.modSlice_rst (s : State) (n : Nat) (f : Slice → Slice) : (s.modSlice n f).rst = s.rst := rfl
@[simp] theorem State.modSlice_objs (s : State) (n : Nat) (f : Slice → Slice) : (s.modSlice n f).objs = s.objs := rfl
@[simp] theorem State.modSlice_isl (s : State) (n : Nat) (f : Slice → Slice) : (s.modSlice n f).isl = s.isl := rfl
@[simp] theorem State.modSlice_harts (s : State) (n : Nat) (f : Slice → Slice) : (s.modSlice n f).harts = s.harts := rfl
@[simp] theorem State.modSlice_clusters (s : State) (n : Nat) (f : Slice → Slice) : (s.modSlice n f).clusters = s.clusters := rfl
@[simp] theorem State.modSlice_tasks (s : State) (n : Nat) (f : Slice → Slice) : (s.modSlice n f).tasks = s.tasks := rfl
@[simp] theorem State.modSlice_mem (s : State) (n : Nat) (f : Slice → Slice) : (s.modSlice n f).mem = s.mem := rfl
@[simp] theorem State.modSlice_peers (s : State) (n : Nat) (f : Slice → Slice) : (s.modSlice n f).peers = s.peers := rfl
@[simp] theorem State.modSlice_work (s : State) (n : Nat) (f : Slice → Slice) : (s.modSlice n f).work = s.work := rfl
@[simp] theorem State.modSlice_media (s : State) (n : Nat) (f : Slice → Slice) : (s.modSlice n f).media = s.media := rfl
@[simp] theorem State.modSlice_link (s : State) (n : Nat) (f : Slice → Slice) : (s.modSlice n f).link = s.link := rfl
@[simp] theorem State.modSlice_safety (s : State) (n : Nat) (f : Slice → Slice) : (s.modSlice n f).safety = s.safety := rfl
@[simp] theorem State.modSlice_power (s : State) (n : Nat) (f : Slice → Slice) : (s.modSlice n f).power = s.power := rfl
@[simp] theorem State.modSlice_fw (s : State) (n : Nat) (f : Slice → Slice) : (s.modSlice n f).fw = s.fw := rfl
@[simp] theorem State.modSlice_trust (s : State) (n : Nat) (f : Slice → Slice) : (s.modSlice n f).trust = s.trust := rfl
@[simp] theorem State.modSlice_pers (s : State) (n : Nat) (f : Slice → Slice) : (s.modSlice n f).pers = s.pers := rfl
@[simp] theorem State.modSlice_freeCtr (s : State) (n : Nat) (f : Slice → Slice) : (s.modSlice n f).freeCtr = s.freeCtr := rfl
@[simp] theorem State.modSlice_hart (s : State) (n : Nat) (f : Slice → Slice) (m : Nat) : (s.modSlice n f).hart m = s.hart m := rfl
@[simp] theorem State.modSlice_cluster (s : State) (n : Nat) (f : Slice → Slice) (m : Nat) : (s.modSlice n f).cluster m = s.cluster m := rfl
@[simp] theorem State.modSlice_stream (s : State) (n : Nat) (f : Slice → Slice) (m : Nat) : (s.modSlice n f).stream m = s.stream m := rfl
@[simp] theorem State.modSlice_chan (s : State) (n : Nat) (f : Slice → Slice) (m : Nat) : (s.modSlice n f).chan m = s.chan m := rfl
@[simp] theorem State.modSlice_entry (s : State) (n : Nat) (f : Slice → Slice) (m : Nat) : (s.modSlice n f).entry m = s.entry m := rfl
@[simp] theorem State.modSlice_peer (s : State) (n : Nat) (f : Slice → Slice) (m : Nat) : (s.modSlice n f).peer m = s.peer m := rfl
@[simp] theorem State.modSlice_proc (s : State) (n : Nat) (f : Slice → Slice) (m : Nat) : (s.modSlice n f).proc m = s.proc m := rfl
@[simp] theorem State.modSlice_pslice (s : State) (n : Nat) (f : Slice → Slice) (m : Nat) : (s.modSlice n f).pslice m = s.pslice m := rfl
@[simp] theorem State.modSlice_queue (s : State) (n : Nat) (f : Slice → Slice) (m : Nat) : (s.modSlice n f).queue m = s.queue m := rfl
@[simp] theorem State.modSlice_ctx (s : State) (n : Nat) (f : Slice → Slice) (m : Nat) : (s.modSlice n f).ctx m = s.ctx m := rfl
@[simp] theorem State.modSlice_val (s : State) (n : Nat) (f : Slice → Slice) (row : ObjRow) (m : Nat) : (s.modSlice n f).val row m = s.val row m := rfl
@[simp] theorem State.modSlice_num (s : State) (n : Nat) (f : Slice → Slice) (row : ObjRow) (m : Nat) : (s.modSlice n f).num row m = s.num row m := rfl
@[simp] theorem State.modSlice_blob (s : State) (n : Nat) (f : Slice → Slice) (row : ObjRow) (m : Nat) : (s.modSlice n f).blob row m = s.blob row m := rfl

/-! ## modSeq -/

@[simp] theorem State.modSeq_pending (s : State) (n : Nat) (f : Seq → Seq) : (s.modSeq n f).pending = s.pending := rfl
@[simp] theorem State.modSeq_clk (s : State) (n : Nat) (f : Seq → Seq) : (s.modSeq n f).clk = s.clk := rfl
@[simp] theorem State.modSeq_pins (s : State) (n : Nat) (f : Seq → Seq) : (s.modSeq n f).pins = s.pins := rfl
@[simp] theorem State.modSeq_rst (s : State) (n : Nat) (f : Seq → Seq) : (s.modSeq n f).rst = s.rst := rfl
@[simp] theorem State.modSeq_objs (s : State) (n : Nat) (f : Seq → Seq) : (s.modSeq n f).objs = s.objs := rfl
@[simp] theorem State.modSeq_isl (s : State) (n : Nat) (f : Seq → Seq) : (s.modSeq n f).isl = s.isl := rfl
@[simp] theorem State.modSeq_harts (s : State) (n : Nat) (f : Seq → Seq) : (s.modSeq n f).harts = s.harts := rfl
@[simp] theorem State.modSeq_clusters (s : State) (n : Nat) (f : Seq → Seq) : (s.modSeq n f).clusters = s.clusters := rfl
@[simp] theorem State.modSeq_tasks (s : State) (n : Nat) (f : Seq → Seq) : (s.modSeq n f).tasks = s.tasks := rfl
@[simp] theorem State.modSeq_mem (s : State) (n : Nat) (f : Seq → Seq) : (s.modSeq n f).mem = s.mem := rfl
@[simp] theorem State.modSeq_peers (s : State) (n : Nat) (f : Seq → Seq) : (s.modSeq n f).peers = s.peers := rfl
@[simp] theorem State.modSeq_work (s : State) (n : Nat) (f : Seq → Seq) : (s.modSeq n f).work = s.work := rfl
@[simp] theorem State.modSeq_media (s : State) (n : Nat) (f : Seq → Seq) : (s.modSeq n f).media = s.media := rfl
@[simp] theorem State.modSeq_link (s : State) (n : Nat) (f : Seq → Seq) : (s.modSeq n f).link = s.link := rfl
@[simp] theorem State.modSeq_safety (s : State) (n : Nat) (f : Seq → Seq) : (s.modSeq n f).safety = s.safety := rfl
@[simp] theorem State.modSeq_power (s : State) (n : Nat) (f : Seq → Seq) : (s.modSeq n f).power = s.power := rfl
@[simp] theorem State.modSeq_fw (s : State) (n : Nat) (f : Seq → Seq) : (s.modSeq n f).fw = s.fw := rfl
@[simp] theorem State.modSeq_trust (s : State) (n : Nat) (f : Seq → Seq) : (s.modSeq n f).trust = s.trust := rfl
@[simp] theorem State.modSeq_pers (s : State) (n : Nat) (f : Seq → Seq) : (s.modSeq n f).pers = s.pers := rfl
@[simp] theorem State.modSeq_freeCtr (s : State) (n : Nat) (f : Seq → Seq) : (s.modSeq n f).freeCtr = s.freeCtr := rfl
@[simp] theorem State.modSeq_hart (s : State) (n : Nat) (f : Seq → Seq) (m : Nat) : (s.modSeq n f).hart m = s.hart m := rfl
@[simp] theorem State.modSeq_cluster (s : State) (n : Nat) (f : Seq → Seq) (m : Nat) : (s.modSeq n f).cluster m = s.cluster m := rfl
@[simp] theorem State.modSeq_stream (s : State) (n : Nat) (f : Seq → Seq) (m : Nat) : (s.modSeq n f).stream m = s.stream m := rfl
@[simp] theorem State.modSeq_chan (s : State) (n : Nat) (f : Seq → Seq) (m : Nat) : (s.modSeq n f).chan m = s.chan m := rfl
@[simp] theorem State.modSeq_entry (s : State) (n : Nat) (f : Seq → Seq) (m : Nat) : (s.modSeq n f).entry m = s.entry m := rfl
@[simp] theorem State.modSeq_peer (s : State) (n : Nat) (f : Seq → Seq) (m : Nat) : (s.modSeq n f).peer m = s.peer m := rfl
@[simp] theorem State.modSeq_proc (s : State) (n : Nat) (f : Seq → Seq) (m : Nat) : (s.modSeq n f).proc m = s.proc m := rfl
@[simp] theorem State.modSeq_pslice (s : State) (n : Nat) (f : Seq → Seq) (m : Nat) : (s.modSeq n f).pslice m = s.pslice m := rfl
@[simp] theorem State.modSeq_queue (s : State) (n : Nat) (f : Seq → Seq) (m : Nat) : (s.modSeq n f).queue m = s.queue m := rfl
@[simp] theorem State.modSeq_ctx (s : State) (n : Nat) (f : Seq → Seq) (m : Nat) : (s.modSeq n f).ctx m = s.ctx m := rfl
@[simp] theorem State.modSeq_val (s : State) (n : Nat) (f : Seq → Seq) (row : ObjRow) (m : Nat) : (s.modSeq n f).val row m = s.val row m := rfl
@[simp] theorem State.modSeq_num (s : State) (n : Nat) (f : Seq → Seq) (row : ObjRow) (m : Nat) : (s.modSeq n f).num row m = s.num row m := rfl
@[simp] theorem State.modSeq_blob (s : State) (n : Nat) (f : Seq → Seq) (row : ObjRow) (m : Nat) : (s.modSeq n f).blob row m = s.blob row m := rfl

/-! ## modArr -/

@[simp] theorem State.modArr_pending (s : State) (n : Nat) (f : Arr → Arr) : (s.modArr n f).pending = s.pending := rfl
@[simp] theorem State.modArr_clk (s : State) (n : Nat) (f : Arr → Arr) : (s.modArr n f).clk = s.clk := rfl
@[simp] theorem State.modArr_pins (s : State) (n : Nat) (f : Arr → Arr) : (s.modArr n f).pins = s.pins := rfl
@[simp] theorem State.modArr_rst (s : State) (n : Nat) (f : Arr → Arr) : (s.modArr n f).rst = s.rst := rfl
@[simp] theorem State.modArr_objs (s : State) (n : Nat) (f : Arr → Arr) : (s.modArr n f).objs = s.objs := rfl
@[simp] theorem State.modArr_isl (s : State) (n : Nat) (f : Arr → Arr) : (s.modArr n f).isl = s.isl := rfl
@[simp] theorem State.modArr_harts (s : State) (n : Nat) (f : Arr → Arr) : (s.modArr n f).harts = s.harts := rfl
@[simp] theorem State.modArr_clusters (s : State) (n : Nat) (f : Arr → Arr) : (s.modArr n f).clusters = s.clusters := rfl
@[simp] theorem State.modArr_tasks (s : State) (n : Nat) (f : Arr → Arr) : (s.modArr n f).tasks = s.tasks := rfl
@[simp] theorem State.modArr_mem (s : State) (n : Nat) (f : Arr → Arr) : (s.modArr n f).mem = s.mem := rfl
@[simp] theorem State.modArr_peers (s : State) (n : Nat) (f : Arr → Arr) : (s.modArr n f).peers = s.peers := rfl
@[simp] theorem State.modArr_work (s : State) (n : Nat) (f : Arr → Arr) : (s.modArr n f).work = s.work := rfl
@[simp] theorem State.modArr_media (s : State) (n : Nat) (f : Arr → Arr) : (s.modArr n f).media = s.media := rfl
@[simp] theorem State.modArr_link (s : State) (n : Nat) (f : Arr → Arr) : (s.modArr n f).link = s.link := rfl
@[simp] theorem State.modArr_safety (s : State) (n : Nat) (f : Arr → Arr) : (s.modArr n f).safety = s.safety := rfl
@[simp] theorem State.modArr_power (s : State) (n : Nat) (f : Arr → Arr) : (s.modArr n f).power = s.power := rfl
@[simp] theorem State.modArr_fw (s : State) (n : Nat) (f : Arr → Arr) : (s.modArr n f).fw = s.fw := rfl
@[simp] theorem State.modArr_trust (s : State) (n : Nat) (f : Arr → Arr) : (s.modArr n f).trust = s.trust := rfl
@[simp] theorem State.modArr_pers (s : State) (n : Nat) (f : Arr → Arr) : (s.modArr n f).pers = s.pers := rfl
@[simp] theorem State.modArr_freeCtr (s : State) (n : Nat) (f : Arr → Arr) : (s.modArr n f).freeCtr = s.freeCtr := rfl
@[simp] theorem State.modArr_hart (s : State) (n : Nat) (f : Arr → Arr) (m : Nat) : (s.modArr n f).hart m = s.hart m := rfl
@[simp] theorem State.modArr_cluster (s : State) (n : Nat) (f : Arr → Arr) (m : Nat) : (s.modArr n f).cluster m = s.cluster m := rfl
@[simp] theorem State.modArr_stream (s : State) (n : Nat) (f : Arr → Arr) (m : Nat) : (s.modArr n f).stream m = s.stream m := rfl
@[simp] theorem State.modArr_chan (s : State) (n : Nat) (f : Arr → Arr) (m : Nat) : (s.modArr n f).chan m = s.chan m := rfl
@[simp] theorem State.modArr_entry (s : State) (n : Nat) (f : Arr → Arr) (m : Nat) : (s.modArr n f).entry m = s.entry m := rfl
@[simp] theorem State.modArr_peer (s : State) (n : Nat) (f : Arr → Arr) (m : Nat) : (s.modArr n f).peer m = s.peer m := rfl
@[simp] theorem State.modArr_proc (s : State) (n : Nat) (f : Arr → Arr) (m : Nat) : (s.modArr n f).proc m = s.proc m := rfl
@[simp] theorem State.modArr_pslice (s : State) (n : Nat) (f : Arr → Arr) (m : Nat) : (s.modArr n f).pslice m = s.pslice m := rfl
@[simp] theorem State.modArr_queue (s : State) (n : Nat) (f : Arr → Arr) (m : Nat) : (s.modArr n f).queue m = s.queue m := rfl
@[simp] theorem State.modArr_ctx (s : State) (n : Nat) (f : Arr → Arr) (m : Nat) : (s.modArr n f).ctx m = s.ctx m := rfl
@[simp] theorem State.modArr_val (s : State) (n : Nat) (f : Arr → Arr) (row : ObjRow) (m : Nat) : (s.modArr n f).val row m = s.val row m := rfl
@[simp] theorem State.modArr_num (s : State) (n : Nat) (f : Arr → Arr) (row : ObjRow) (m : Nat) : (s.modArr n f).num row m = s.num row m := rfl
@[simp] theorem State.modArr_blob (s : State) (n : Nat) (f : Arr → Arr) (row : ObjRow) (m : Nat) : (s.modArr n f).blob row m = s.blob row m := rfl

/-! ## modStore -/

@[simp] theorem State.modStore_pending (s : State) (n : Nat) (f : Store → Store) : (s.modStore n f).pending = s.pending := rfl
@[simp] theorem State.modStore_clk (s : State) (n : Nat) (f : Store → Store) : (s.modStore n f).clk = s.clk := rfl
@[simp] theorem State.modStore_pins (s : State) (n : Nat) (f : Store → Store) : (s.modStore n f).pins = s.pins := rfl
@[simp] theorem State.modStore_rst (s : State) (n : Nat) (f : Store → Store) : (s.modStore n f).rst = s.rst := rfl
@[simp] theorem State.modStore_objs (s : State) (n : Nat) (f : Store → Store) : (s.modStore n f).objs = s.objs := rfl
@[simp] theorem State.modStore_isl (s : State) (n : Nat) (f : Store → Store) : (s.modStore n f).isl = s.isl := rfl
@[simp] theorem State.modStore_harts (s : State) (n : Nat) (f : Store → Store) : (s.modStore n f).harts = s.harts := rfl
@[simp] theorem State.modStore_clusters (s : State) (n : Nat) (f : Store → Store) : (s.modStore n f).clusters = s.clusters := rfl
@[simp] theorem State.modStore_tasks (s : State) (n : Nat) (f : Store → Store) : (s.modStore n f).tasks = s.tasks := rfl
@[simp] theorem State.modStore_mem (s : State) (n : Nat) (f : Store → Store) : (s.modStore n f).mem = s.mem := rfl
@[simp] theorem State.modStore_peers (s : State) (n : Nat) (f : Store → Store) : (s.modStore n f).peers = s.peers := rfl
@[simp] theorem State.modStore_work (s : State) (n : Nat) (f : Store → Store) : (s.modStore n f).work = s.work := rfl
@[simp] theorem State.modStore_media (s : State) (n : Nat) (f : Store → Store) : (s.modStore n f).media = s.media := rfl
@[simp] theorem State.modStore_link (s : State) (n : Nat) (f : Store → Store) : (s.modStore n f).link = s.link := rfl
@[simp] theorem State.modStore_safety (s : State) (n : Nat) (f : Store → Store) : (s.modStore n f).safety = s.safety := rfl
@[simp] theorem State.modStore_power (s : State) (n : Nat) (f : Store → Store) : (s.modStore n f).power = s.power := rfl
@[simp] theorem State.modStore_fw (s : State) (n : Nat) (f : Store → Store) : (s.modStore n f).fw = s.fw := rfl
@[simp] theorem State.modStore_trust (s : State) (n : Nat) (f : Store → Store) : (s.modStore n f).trust = s.trust := rfl
@[simp] theorem State.modStore_pers (s : State) (n : Nat) (f : Store → Store) : (s.modStore n f).pers = s.pers := rfl
@[simp] theorem State.modStore_freeCtr (s : State) (n : Nat) (f : Store → Store) : (s.modStore n f).freeCtr = s.freeCtr := rfl
@[simp] theorem State.modStore_hart (s : State) (n : Nat) (f : Store → Store) (m : Nat) : (s.modStore n f).hart m = s.hart m := rfl
@[simp] theorem State.modStore_cluster (s : State) (n : Nat) (f : Store → Store) (m : Nat) : (s.modStore n f).cluster m = s.cluster m := rfl
@[simp] theorem State.modStore_stream (s : State) (n : Nat) (f : Store → Store) (m : Nat) : (s.modStore n f).stream m = s.stream m := rfl
@[simp] theorem State.modStore_chan (s : State) (n : Nat) (f : Store → Store) (m : Nat) : (s.modStore n f).chan m = s.chan m := rfl
@[simp] theorem State.modStore_entry (s : State) (n : Nat) (f : Store → Store) (m : Nat) : (s.modStore n f).entry m = s.entry m := rfl
@[simp] theorem State.modStore_peer (s : State) (n : Nat) (f : Store → Store) (m : Nat) : (s.modStore n f).peer m = s.peer m := rfl
@[simp] theorem State.modStore_proc (s : State) (n : Nat) (f : Store → Store) (m : Nat) : (s.modStore n f).proc m = s.proc m := rfl
@[simp] theorem State.modStore_pslice (s : State) (n : Nat) (f : Store → Store) (m : Nat) : (s.modStore n f).pslice m = s.pslice m := rfl
@[simp] theorem State.modStore_queue (s : State) (n : Nat) (f : Store → Store) (m : Nat) : (s.modStore n f).queue m = s.queue m := rfl
@[simp] theorem State.modStore_ctx (s : State) (n : Nat) (f : Store → Store) (m : Nat) : (s.modStore n f).ctx m = s.ctx m := rfl
@[simp] theorem State.modStore_val (s : State) (n : Nat) (f : Store → Store) (row : ObjRow) (m : Nat) : (s.modStore n f).val row m = s.val row m := rfl
@[simp] theorem State.modStore_num (s : State) (n : Nat) (f : Store → Store) (row : ObjRow) (m : Nat) : (s.modStore n f).num row m = s.num row m := rfl
@[simp] theorem State.modStore_blob (s : State) (n : Nat) (f : Store → Store) (row : ObjRow) (m : Nat) : (s.modStore n f).blob row m = s.blob row m := rfl

/-! ## setHart -/

@[simp] theorem State.setHart_pending (s : State) (n : Nat) (x : Hart) : (s.setHart n x).pending = s.pending := rfl
@[simp] theorem State.setHart_clk (s : State) (n : Nat) (x : Hart) : (s.setHart n x).clk = s.clk := rfl
@[simp] theorem State.setHart_pins (s : State) (n : Nat) (x : Hart) : (s.setHart n x).pins = s.pins := rfl
@[simp] theorem State.setHart_rst (s : State) (n : Nat) (x : Hart) : (s.setHart n x).rst = s.rst := rfl
@[simp] theorem State.setHart_objs (s : State) (n : Nat) (x : Hart) : (s.setHart n x).objs = s.objs := rfl
@[simp] theorem State.setHart_isl (s : State) (n : Nat) (x : Hart) : (s.setHart n x).isl = s.isl := rfl
@[simp] theorem State.setHart_slices (s : State) (n : Nat) (x : Hart) : (s.setHart n x).slices = s.slices := rfl
@[simp] theorem State.setHart_clusters (s : State) (n : Nat) (x : Hart) : (s.setHart n x).clusters = s.clusters := rfl
@[simp] theorem State.setHart_tasks (s : State) (n : Nat) (x : Hart) : (s.setHart n x).tasks = s.tasks := rfl
@[simp] theorem State.setHart_mem (s : State) (n : Nat) (x : Hart) : (s.setHart n x).mem = s.mem := rfl
@[simp] theorem State.setHart_peers (s : State) (n : Nat) (x : Hart) : (s.setHart n x).peers = s.peers := rfl
@[simp] theorem State.setHart_work (s : State) (n : Nat) (x : Hart) : (s.setHart n x).work = s.work := rfl
@[simp] theorem State.setHart_media (s : State) (n : Nat) (x : Hart) : (s.setHart n x).media = s.media := rfl
@[simp] theorem State.setHart_link (s : State) (n : Nat) (x : Hart) : (s.setHart n x).link = s.link := rfl
@[simp] theorem State.setHart_safety (s : State) (n : Nat) (x : Hart) : (s.setHart n x).safety = s.safety := rfl
@[simp] theorem State.setHart_power (s : State) (n : Nat) (x : Hart) : (s.setHart n x).power = s.power := rfl
@[simp] theorem State.setHart_fw (s : State) (n : Nat) (x : Hart) : (s.setHart n x).fw = s.fw := rfl
@[simp] theorem State.setHart_trust (s : State) (n : Nat) (x : Hart) : (s.setHart n x).trust = s.trust := rfl
@[simp] theorem State.setHart_pers (s : State) (n : Nat) (x : Hart) : (s.setHart n x).pers = s.pers := rfl
@[simp] theorem State.setHart_freeCtr (s : State) (n : Nat) (x : Hart) : (s.setHart n x).freeCtr = s.freeCtr := rfl
@[simp] theorem State.setHart_slice (s : State) (n : Nat) (x : Hart) (m : Nat) : (s.setHart n x).slice m = s.slice m := rfl
@[simp] theorem State.setHart_cluster (s : State) (n : Nat) (x : Hart) (m : Nat) : (s.setHart n x).cluster m = s.cluster m := rfl
@[simp] theorem State.setHart_stream (s : State) (n : Nat) (x : Hart) (m : Nat) : (s.setHart n x).stream m = s.stream m := rfl
@[simp] theorem State.setHart_chan (s : State) (n : Nat) (x : Hart) (m : Nat) : (s.setHart n x).chan m = s.chan m := rfl
@[simp] theorem State.setHart_entry (s : State) (n : Nat) (x : Hart) (m : Nat) : (s.setHart n x).entry m = s.entry m := rfl
@[simp] theorem State.setHart_peer (s : State) (n : Nat) (x : Hart) (m : Nat) : (s.setHart n x).peer m = s.peer m := rfl
@[simp] theorem State.setHart_proc (s : State) (n : Nat) (x : Hart) (m : Nat) : (s.setHart n x).proc m = s.proc m := rfl
@[simp] theorem State.setHart_pslice (s : State) (n : Nat) (x : Hart) (m : Nat) : (s.setHart n x).pslice m = s.pslice m := rfl
@[simp] theorem State.setHart_queue (s : State) (n : Nat) (x : Hart) (m : Nat) : (s.setHart n x).queue m = s.queue m := rfl
@[simp] theorem State.setHart_ctx (s : State) (n : Nat) (x : Hart) (m : Nat) : (s.setHart n x).ctx m = s.ctx m := rfl
@[simp] theorem State.setHart_val (s : State) (n : Nat) (x : Hart) (row : ObjRow) (m : Nat) : (s.setHart n x).val row m = s.val row m := rfl
@[simp] theorem State.setHart_num (s : State) (n : Nat) (x : Hart) (row : ObjRow) (m : Nat) : (s.setHart n x).num row m = s.num row m := rfl
@[simp] theorem State.setHart_blob (s : State) (n : Nat) (x : Hart) (row : ObjRow) (m : Nat) : (s.setHart n x).blob row m = s.blob row m := rfl

/-! ## modHart -/

@[simp] theorem State.modHart_pending (s : State) (n : Nat) (f : Hart → Hart) : (s.modHart n f).pending = s.pending := rfl
@[simp] theorem State.modHart_clk (s : State) (n : Nat) (f : Hart → Hart) : (s.modHart n f).clk = s.clk := rfl
@[simp] theorem State.modHart_pins (s : State) (n : Nat) (f : Hart → Hart) : (s.modHart n f).pins = s.pins := rfl
@[simp] theorem State.modHart_rst (s : State) (n : Nat) (f : Hart → Hart) : (s.modHart n f).rst = s.rst := rfl
@[simp] theorem State.modHart_objs (s : State) (n : Nat) (f : Hart → Hart) : (s.modHart n f).objs = s.objs := rfl
@[simp] theorem State.modHart_isl (s : State) (n : Nat) (f : Hart → Hart) : (s.modHart n f).isl = s.isl := rfl
@[simp] theorem State.modHart_slices (s : State) (n : Nat) (f : Hart → Hart) : (s.modHart n f).slices = s.slices := rfl
@[simp] theorem State.modHart_clusters (s : State) (n : Nat) (f : Hart → Hart) : (s.modHart n f).clusters = s.clusters := rfl
@[simp] theorem State.modHart_tasks (s : State) (n : Nat) (f : Hart → Hart) : (s.modHart n f).tasks = s.tasks := rfl
@[simp] theorem State.modHart_mem (s : State) (n : Nat) (f : Hart → Hart) : (s.modHart n f).mem = s.mem := rfl
@[simp] theorem State.modHart_peers (s : State) (n : Nat) (f : Hart → Hart) : (s.modHart n f).peers = s.peers := rfl
@[simp] theorem State.modHart_work (s : State) (n : Nat) (f : Hart → Hart) : (s.modHart n f).work = s.work := rfl
@[simp] theorem State.modHart_media (s : State) (n : Nat) (f : Hart → Hart) : (s.modHart n f).media = s.media := rfl
@[simp] theorem State.modHart_link (s : State) (n : Nat) (f : Hart → Hart) : (s.modHart n f).link = s.link := rfl
@[simp] theorem State.modHart_safety (s : State) (n : Nat) (f : Hart → Hart) : (s.modHart n f).safety = s.safety := rfl
@[simp] theorem State.modHart_power (s : State) (n : Nat) (f : Hart → Hart) : (s.modHart n f).power = s.power := rfl
@[simp] theorem State.modHart_fw (s : State) (n : Nat) (f : Hart → Hart) : (s.modHart n f).fw = s.fw := rfl
@[simp] theorem State.modHart_trust (s : State) (n : Nat) (f : Hart → Hart) : (s.modHart n f).trust = s.trust := rfl
@[simp] theorem State.modHart_pers (s : State) (n : Nat) (f : Hart → Hart) : (s.modHart n f).pers = s.pers := rfl
@[simp] theorem State.modHart_freeCtr (s : State) (n : Nat) (f : Hart → Hart) : (s.modHart n f).freeCtr = s.freeCtr := rfl
@[simp] theorem State.modHart_slice (s : State) (n : Nat) (f : Hart → Hart) (m : Nat) : (s.modHart n f).slice m = s.slice m := rfl
@[simp] theorem State.modHart_cluster (s : State) (n : Nat) (f : Hart → Hart) (m : Nat) : (s.modHart n f).cluster m = s.cluster m := rfl
@[simp] theorem State.modHart_stream (s : State) (n : Nat) (f : Hart → Hart) (m : Nat) : (s.modHart n f).stream m = s.stream m := rfl
@[simp] theorem State.modHart_chan (s : State) (n : Nat) (f : Hart → Hart) (m : Nat) : (s.modHart n f).chan m = s.chan m := rfl
@[simp] theorem State.modHart_entry (s : State) (n : Nat) (f : Hart → Hart) (m : Nat) : (s.modHart n f).entry m = s.entry m := rfl
@[simp] theorem State.modHart_peer (s : State) (n : Nat) (f : Hart → Hart) (m : Nat) : (s.modHart n f).peer m = s.peer m := rfl
@[simp] theorem State.modHart_proc (s : State) (n : Nat) (f : Hart → Hart) (m : Nat) : (s.modHart n f).proc m = s.proc m := rfl
@[simp] theorem State.modHart_pslice (s : State) (n : Nat) (f : Hart → Hart) (m : Nat) : (s.modHart n f).pslice m = s.pslice m := rfl
@[simp] theorem State.modHart_queue (s : State) (n : Nat) (f : Hart → Hart) (m : Nat) : (s.modHart n f).queue m = s.queue m := rfl
@[simp] theorem State.modHart_ctx (s : State) (n : Nat) (f : Hart → Hart) (m : Nat) : (s.modHart n f).ctx m = s.ctx m := rfl
@[simp] theorem State.modHart_val (s : State) (n : Nat) (f : Hart → Hart) (row : ObjRow) (m : Nat) : (s.modHart n f).val row m = s.val row m := rfl
@[simp] theorem State.modHart_num (s : State) (n : Nat) (f : Hart → Hart) (row : ObjRow) (m : Nat) : (s.modHart n f).num row m = s.num row m := rfl
@[simp] theorem State.modHart_blob (s : State) (n : Nat) (f : Hart → Hart) (row : ObjRow) (m : Nat) : (s.modHart n f).blob row m = s.blob row m := rfl

/-! ## setCluster -/

@[simp] theorem State.setCluster_pending (s : State) (n : Nat) (x : Cluster) : (s.setCluster n x).pending = s.pending := rfl
@[simp] theorem State.setCluster_clk (s : State) (n : Nat) (x : Cluster) : (s.setCluster n x).clk = s.clk := rfl
@[simp] theorem State.setCluster_pins (s : State) (n : Nat) (x : Cluster) : (s.setCluster n x).pins = s.pins := rfl
@[simp] theorem State.setCluster_rst (s : State) (n : Nat) (x : Cluster) : (s.setCluster n x).rst = s.rst := rfl
@[simp] theorem State.setCluster_objs (s : State) (n : Nat) (x : Cluster) : (s.setCluster n x).objs = s.objs := rfl
@[simp] theorem State.setCluster_isl (s : State) (n : Nat) (x : Cluster) : (s.setCluster n x).isl = s.isl := rfl
@[simp] theorem State.setCluster_slices (s : State) (n : Nat) (x : Cluster) : (s.setCluster n x).slices = s.slices := rfl
@[simp] theorem State.setCluster_harts (s : State) (n : Nat) (x : Cluster) : (s.setCluster n x).harts = s.harts := rfl
@[simp] theorem State.setCluster_tasks (s : State) (n : Nat) (x : Cluster) : (s.setCluster n x).tasks = s.tasks := rfl
@[simp] theorem State.setCluster_mem (s : State) (n : Nat) (x : Cluster) : (s.setCluster n x).mem = s.mem := rfl
@[simp] theorem State.setCluster_peers (s : State) (n : Nat) (x : Cluster) : (s.setCluster n x).peers = s.peers := rfl
@[simp] theorem State.setCluster_work (s : State) (n : Nat) (x : Cluster) : (s.setCluster n x).work = s.work := rfl
@[simp] theorem State.setCluster_media (s : State) (n : Nat) (x : Cluster) : (s.setCluster n x).media = s.media := rfl
@[simp] theorem State.setCluster_link (s : State) (n : Nat) (x : Cluster) : (s.setCluster n x).link = s.link := rfl
@[simp] theorem State.setCluster_safety (s : State) (n : Nat) (x : Cluster) : (s.setCluster n x).safety = s.safety := rfl
@[simp] theorem State.setCluster_power (s : State) (n : Nat) (x : Cluster) : (s.setCluster n x).power = s.power := rfl
@[simp] theorem State.setCluster_fw (s : State) (n : Nat) (x : Cluster) : (s.setCluster n x).fw = s.fw := rfl
@[simp] theorem State.setCluster_trust (s : State) (n : Nat) (x : Cluster) : (s.setCluster n x).trust = s.trust := rfl
@[simp] theorem State.setCluster_pers (s : State) (n : Nat) (x : Cluster) : (s.setCluster n x).pers = s.pers := rfl
@[simp] theorem State.setCluster_freeCtr (s : State) (n : Nat) (x : Cluster) : (s.setCluster n x).freeCtr = s.freeCtr := rfl
@[simp] theorem State.setCluster_slice (s : State) (n : Nat) (x : Cluster) (m : Nat) : (s.setCluster n x).slice m = s.slice m := rfl
@[simp] theorem State.setCluster_hart (s : State) (n : Nat) (x : Cluster) (m : Nat) : (s.setCluster n x).hart m = s.hart m := rfl
@[simp] theorem State.setCluster_stream (s : State) (n : Nat) (x : Cluster) (m : Nat) : (s.setCluster n x).stream m = s.stream m := rfl
@[simp] theorem State.setCluster_chan (s : State) (n : Nat) (x : Cluster) (m : Nat) : (s.setCluster n x).chan m = s.chan m := rfl
@[simp] theorem State.setCluster_entry (s : State) (n : Nat) (x : Cluster) (m : Nat) : (s.setCluster n x).entry m = s.entry m := rfl
@[simp] theorem State.setCluster_peer (s : State) (n : Nat) (x : Cluster) (m : Nat) : (s.setCluster n x).peer m = s.peer m := rfl
@[simp] theorem State.setCluster_proc (s : State) (n : Nat) (x : Cluster) (m : Nat) : (s.setCluster n x).proc m = s.proc m := rfl
@[simp] theorem State.setCluster_pslice (s : State) (n : Nat) (x : Cluster) (m : Nat) : (s.setCluster n x).pslice m = s.pslice m := rfl
@[simp] theorem State.setCluster_queue (s : State) (n : Nat) (x : Cluster) (m : Nat) : (s.setCluster n x).queue m = s.queue m := rfl
@[simp] theorem State.setCluster_ctx (s : State) (n : Nat) (x : Cluster) (m : Nat) : (s.setCluster n x).ctx m = s.ctx m := rfl
@[simp] theorem State.setCluster_val (s : State) (n : Nat) (x : Cluster) (row : ObjRow) (m : Nat) : (s.setCluster n x).val row m = s.val row m := rfl
@[simp] theorem State.setCluster_num (s : State) (n : Nat) (x : Cluster) (row : ObjRow) (m : Nat) : (s.setCluster n x).num row m = s.num row m := rfl
@[simp] theorem State.setCluster_blob (s : State) (n : Nat) (x : Cluster) (row : ObjRow) (m : Nat) : (s.setCluster n x).blob row m = s.blob row m := rfl

/-! ## modCluster -/

@[simp] theorem State.modCluster_pending (s : State) (n : Nat) (f : Cluster → Cluster) : (s.modCluster n f).pending = s.pending := rfl
@[simp] theorem State.modCluster_clk (s : State) (n : Nat) (f : Cluster → Cluster) : (s.modCluster n f).clk = s.clk := rfl
@[simp] theorem State.modCluster_pins (s : State) (n : Nat) (f : Cluster → Cluster) : (s.modCluster n f).pins = s.pins := rfl
@[simp] theorem State.modCluster_rst (s : State) (n : Nat) (f : Cluster → Cluster) : (s.modCluster n f).rst = s.rst := rfl
@[simp] theorem State.modCluster_objs (s : State) (n : Nat) (f : Cluster → Cluster) : (s.modCluster n f).objs = s.objs := rfl
@[simp] theorem State.modCluster_isl (s : State) (n : Nat) (f : Cluster → Cluster) : (s.modCluster n f).isl = s.isl := rfl
@[simp] theorem State.modCluster_slices (s : State) (n : Nat) (f : Cluster → Cluster) : (s.modCluster n f).slices = s.slices := rfl
@[simp] theorem State.modCluster_harts (s : State) (n : Nat) (f : Cluster → Cluster) : (s.modCluster n f).harts = s.harts := rfl
@[simp] theorem State.modCluster_tasks (s : State) (n : Nat) (f : Cluster → Cluster) : (s.modCluster n f).tasks = s.tasks := rfl
@[simp] theorem State.modCluster_mem (s : State) (n : Nat) (f : Cluster → Cluster) : (s.modCluster n f).mem = s.mem := rfl
@[simp] theorem State.modCluster_peers (s : State) (n : Nat) (f : Cluster → Cluster) : (s.modCluster n f).peers = s.peers := rfl
@[simp] theorem State.modCluster_work (s : State) (n : Nat) (f : Cluster → Cluster) : (s.modCluster n f).work = s.work := rfl
@[simp] theorem State.modCluster_media (s : State) (n : Nat) (f : Cluster → Cluster) : (s.modCluster n f).media = s.media := rfl
@[simp] theorem State.modCluster_link (s : State) (n : Nat) (f : Cluster → Cluster) : (s.modCluster n f).link = s.link := rfl
@[simp] theorem State.modCluster_safety (s : State) (n : Nat) (f : Cluster → Cluster) : (s.modCluster n f).safety = s.safety := rfl
@[simp] theorem State.modCluster_power (s : State) (n : Nat) (f : Cluster → Cluster) : (s.modCluster n f).power = s.power := rfl
@[simp] theorem State.modCluster_fw (s : State) (n : Nat) (f : Cluster → Cluster) : (s.modCluster n f).fw = s.fw := rfl
@[simp] theorem State.modCluster_trust (s : State) (n : Nat) (f : Cluster → Cluster) : (s.modCluster n f).trust = s.trust := rfl
@[simp] theorem State.modCluster_pers (s : State) (n : Nat) (f : Cluster → Cluster) : (s.modCluster n f).pers = s.pers := rfl
@[simp] theorem State.modCluster_freeCtr (s : State) (n : Nat) (f : Cluster → Cluster) : (s.modCluster n f).freeCtr = s.freeCtr := rfl
@[simp] theorem State.modCluster_slice (s : State) (n : Nat) (f : Cluster → Cluster) (m : Nat) : (s.modCluster n f).slice m = s.slice m := rfl
@[simp] theorem State.modCluster_hart (s : State) (n : Nat) (f : Cluster → Cluster) (m : Nat) : (s.modCluster n f).hart m = s.hart m := rfl
@[simp] theorem State.modCluster_stream (s : State) (n : Nat) (f : Cluster → Cluster) (m : Nat) : (s.modCluster n f).stream m = s.stream m := rfl
@[simp] theorem State.modCluster_chan (s : State) (n : Nat) (f : Cluster → Cluster) (m : Nat) : (s.modCluster n f).chan m = s.chan m := rfl
@[simp] theorem State.modCluster_entry (s : State) (n : Nat) (f : Cluster → Cluster) (m : Nat) : (s.modCluster n f).entry m = s.entry m := rfl
@[simp] theorem State.modCluster_peer (s : State) (n : Nat) (f : Cluster → Cluster) (m : Nat) : (s.modCluster n f).peer m = s.peer m := rfl
@[simp] theorem State.modCluster_proc (s : State) (n : Nat) (f : Cluster → Cluster) (m : Nat) : (s.modCluster n f).proc m = s.proc m := rfl
@[simp] theorem State.modCluster_pslice (s : State) (n : Nat) (f : Cluster → Cluster) (m : Nat) : (s.modCluster n f).pslice m = s.pslice m := rfl
@[simp] theorem State.modCluster_queue (s : State) (n : Nat) (f : Cluster → Cluster) (m : Nat) : (s.modCluster n f).queue m = s.queue m := rfl
@[simp] theorem State.modCluster_ctx (s : State) (n : Nat) (f : Cluster → Cluster) (m : Nat) : (s.modCluster n f).ctx m = s.ctx m := rfl
@[simp] theorem State.modCluster_val (s : State) (n : Nat) (f : Cluster → Cluster) (row : ObjRow) (m : Nat) : (s.modCluster n f).val row m = s.val row m := rfl
@[simp] theorem State.modCluster_num (s : State) (n : Nat) (f : Cluster → Cluster) (row : ObjRow) (m : Nat) : (s.modCluster n f).num row m = s.num row m := rfl
@[simp] theorem State.modCluster_blob (s : State) (n : Nat) (f : Cluster → Cluster) (row : ObjRow) (m : Nat) : (s.modCluster n f).blob row m = s.blob row m := rfl

/-! ## setQueue -/

@[simp] theorem State.setQueue_pending (s : State) (n : Nat) (x : Queue) : (s.setQueue n x).pending = s.pending := rfl
@[simp] theorem State.setQueue_clk (s : State) (n : Nat) (x : Queue) : (s.setQueue n x).clk = s.clk := rfl
@[simp] theorem State.setQueue_pins (s : State) (n : Nat) (x : Queue) : (s.setQueue n x).pins = s.pins := rfl
@[simp] theorem State.setQueue_rst (s : State) (n : Nat) (x : Queue) : (s.setQueue n x).rst = s.rst := rfl
@[simp] theorem State.setQueue_objs (s : State) (n : Nat) (x : Queue) : (s.setQueue n x).objs = s.objs := rfl
@[simp] theorem State.setQueue_isl (s : State) (n : Nat) (x : Queue) : (s.setQueue n x).isl = s.isl := rfl
@[simp] theorem State.setQueue_slices (s : State) (n : Nat) (x : Queue) : (s.setQueue n x).slices = s.slices := rfl
@[simp] theorem State.setQueue_harts (s : State) (n : Nat) (x : Queue) : (s.setQueue n x).harts = s.harts := rfl
@[simp] theorem State.setQueue_clusters (s : State) (n : Nat) (x : Queue) : (s.setQueue n x).clusters = s.clusters := rfl
@[simp] theorem State.setQueue_tasks (s : State) (n : Nat) (x : Queue) : (s.setQueue n x).tasks = s.tasks := rfl
@[simp] theorem State.setQueue_mem (s : State) (n : Nat) (x : Queue) : (s.setQueue n x).mem = s.mem := rfl
@[simp] theorem State.setQueue_peers (s : State) (n : Nat) (x : Queue) : (s.setQueue n x).peers = s.peers := rfl
@[simp] theorem State.setQueue_media (s : State) (n : Nat) (x : Queue) : (s.setQueue n x).media = s.media := rfl
@[simp] theorem State.setQueue_link (s : State) (n : Nat) (x : Queue) : (s.setQueue n x).link = s.link := rfl
@[simp] theorem State.setQueue_safety (s : State) (n : Nat) (x : Queue) : (s.setQueue n x).safety = s.safety := rfl
@[simp] theorem State.setQueue_power (s : State) (n : Nat) (x : Queue) : (s.setQueue n x).power = s.power := rfl
@[simp] theorem State.setQueue_fw (s : State) (n : Nat) (x : Queue) : (s.setQueue n x).fw = s.fw := rfl
@[simp] theorem State.setQueue_trust (s : State) (n : Nat) (x : Queue) : (s.setQueue n x).trust = s.trust := rfl
@[simp] theorem State.setQueue_pers (s : State) (n : Nat) (x : Queue) : (s.setQueue n x).pers = s.pers := rfl
@[simp] theorem State.setQueue_freeCtr (s : State) (n : Nat) (x : Queue) : (s.setQueue n x).freeCtr = s.freeCtr := rfl
@[simp] theorem State.setQueue_slice (s : State) (n : Nat) (x : Queue) (m : Nat) : (s.setQueue n x).slice m = s.slice m := rfl
@[simp] theorem State.setQueue_hart (s : State) (n : Nat) (x : Queue) (m : Nat) : (s.setQueue n x).hart m = s.hart m := rfl
@[simp] theorem State.setQueue_cluster (s : State) (n : Nat) (x : Queue) (m : Nat) : (s.setQueue n x).cluster m = s.cluster m := rfl
@[simp] theorem State.setQueue_stream (s : State) (n : Nat) (x : Queue) (m : Nat) : (s.setQueue n x).stream m = s.stream m := rfl
@[simp] theorem State.setQueue_chan (s : State) (n : Nat) (x : Queue) (m : Nat) : (s.setQueue n x).chan m = s.chan m := rfl
@[simp] theorem State.setQueue_entry (s : State) (n : Nat) (x : Queue) (m : Nat) : (s.setQueue n x).entry m = s.entry m := rfl
@[simp] theorem State.setQueue_peer (s : State) (n : Nat) (x : Queue) (m : Nat) : (s.setQueue n x).peer m = s.peer m := rfl
@[simp] theorem State.setQueue_proc (s : State) (n : Nat) (x : Queue) (m : Nat) : (s.setQueue n x).proc m = s.proc m := rfl
@[simp] theorem State.setQueue_pslice (s : State) (n : Nat) (x : Queue) (m : Nat) : (s.setQueue n x).pslice m = s.pslice m := rfl
@[simp] theorem State.setQueue_val (s : State) (n : Nat) (x : Queue) (row : ObjRow) (m : Nat) : (s.setQueue n x).val row m = s.val row m := rfl
@[simp] theorem State.setQueue_num (s : State) (n : Nat) (x : Queue) (row : ObjRow) (m : Nat) : (s.setQueue n x).num row m = s.num row m := rfl
@[simp] theorem State.setQueue_blob (s : State) (n : Nat) (x : Queue) (row : ObjRow) (m : Nat) : (s.setQueue n x).blob row m = s.blob row m := rfl

/-! ## modQueue -/

@[simp] theorem State.modQueue_pending (s : State) (n : Nat) (f : Queue → Queue) : (s.modQueue n f).pending = s.pending := rfl
@[simp] theorem State.modQueue_clk (s : State) (n : Nat) (f : Queue → Queue) : (s.modQueue n f).clk = s.clk := rfl
@[simp] theorem State.modQueue_pins (s : State) (n : Nat) (f : Queue → Queue) : (s.modQueue n f).pins = s.pins := rfl
@[simp] theorem State.modQueue_rst (s : State) (n : Nat) (f : Queue → Queue) : (s.modQueue n f).rst = s.rst := rfl
@[simp] theorem State.modQueue_objs (s : State) (n : Nat) (f : Queue → Queue) : (s.modQueue n f).objs = s.objs := rfl
@[simp] theorem State.modQueue_isl (s : State) (n : Nat) (f : Queue → Queue) : (s.modQueue n f).isl = s.isl := rfl
@[simp] theorem State.modQueue_slices (s : State) (n : Nat) (f : Queue → Queue) : (s.modQueue n f).slices = s.slices := rfl
@[simp] theorem State.modQueue_harts (s : State) (n : Nat) (f : Queue → Queue) : (s.modQueue n f).harts = s.harts := rfl
@[simp] theorem State.modQueue_clusters (s : State) (n : Nat) (f : Queue → Queue) : (s.modQueue n f).clusters = s.clusters := rfl
@[simp] theorem State.modQueue_tasks (s : State) (n : Nat) (f : Queue → Queue) : (s.modQueue n f).tasks = s.tasks := rfl
@[simp] theorem State.modQueue_mem (s : State) (n : Nat) (f : Queue → Queue) : (s.modQueue n f).mem = s.mem := rfl
@[simp] theorem State.modQueue_peers (s : State) (n : Nat) (f : Queue → Queue) : (s.modQueue n f).peers = s.peers := rfl
@[simp] theorem State.modQueue_media (s : State) (n : Nat) (f : Queue → Queue) : (s.modQueue n f).media = s.media := rfl
@[simp] theorem State.modQueue_link (s : State) (n : Nat) (f : Queue → Queue) : (s.modQueue n f).link = s.link := rfl
@[simp] theorem State.modQueue_safety (s : State) (n : Nat) (f : Queue → Queue) : (s.modQueue n f).safety = s.safety := rfl
@[simp] theorem State.modQueue_power (s : State) (n : Nat) (f : Queue → Queue) : (s.modQueue n f).power = s.power := rfl
@[simp] theorem State.modQueue_fw (s : State) (n : Nat) (f : Queue → Queue) : (s.modQueue n f).fw = s.fw := rfl
@[simp] theorem State.modQueue_trust (s : State) (n : Nat) (f : Queue → Queue) : (s.modQueue n f).trust = s.trust := rfl
@[simp] theorem State.modQueue_pers (s : State) (n : Nat) (f : Queue → Queue) : (s.modQueue n f).pers = s.pers := rfl
@[simp] theorem State.modQueue_freeCtr (s : State) (n : Nat) (f : Queue → Queue) : (s.modQueue n f).freeCtr = s.freeCtr := rfl
@[simp] theorem State.modQueue_slice (s : State) (n : Nat) (f : Queue → Queue) (m : Nat) : (s.modQueue n f).slice m = s.slice m := rfl
@[simp] theorem State.modQueue_hart (s : State) (n : Nat) (f : Queue → Queue) (m : Nat) : (s.modQueue n f).hart m = s.hart m := rfl
@[simp] theorem State.modQueue_cluster (s : State) (n : Nat) (f : Queue → Queue) (m : Nat) : (s.modQueue n f).cluster m = s.cluster m := rfl
@[simp] theorem State.modQueue_stream (s : State) (n : Nat) (f : Queue → Queue) (m : Nat) : (s.modQueue n f).stream m = s.stream m := rfl
@[simp] theorem State.modQueue_chan (s : State) (n : Nat) (f : Queue → Queue) (m : Nat) : (s.modQueue n f).chan m = s.chan m := rfl
@[simp] theorem State.modQueue_entry (s : State) (n : Nat) (f : Queue → Queue) (m : Nat) : (s.modQueue n f).entry m = s.entry m := rfl
@[simp] theorem State.modQueue_peer (s : State) (n : Nat) (f : Queue → Queue) (m : Nat) : (s.modQueue n f).peer m = s.peer m := rfl
@[simp] theorem State.modQueue_proc (s : State) (n : Nat) (f : Queue → Queue) (m : Nat) : (s.modQueue n f).proc m = s.proc m := rfl
@[simp] theorem State.modQueue_pslice (s : State) (n : Nat) (f : Queue → Queue) (m : Nat) : (s.modQueue n f).pslice m = s.pslice m := rfl
@[simp] theorem State.modQueue_val (s : State) (n : Nat) (f : Queue → Queue) (row : ObjRow) (m : Nat) : (s.modQueue n f).val row m = s.val row m := rfl
@[simp] theorem State.modQueue_num (s : State) (n : Nat) (f : Queue → Queue) (row : ObjRow) (m : Nat) : (s.modQueue n f).num row m = s.num row m := rfl
@[simp] theorem State.modQueue_blob (s : State) (n : Nat) (f : Queue → Queue) (row : ObjRow) (m : Nat) : (s.modQueue n f).blob row m = s.blob row m := rfl

/-! ## setCtx -/

@[simp] theorem State.setCtx_pending (s : State) (n : Nat) (x : Ctx) : (s.setCtx n x).pending = s.pending := rfl
@[simp] theorem State.setCtx_clk (s : State) (n : Nat) (x : Ctx) : (s.setCtx n x).clk = s.clk := rfl
@[simp] theorem State.setCtx_pins (s : State) (n : Nat) (x : Ctx) : (s.setCtx n x).pins = s.pins := rfl
@[simp] theorem State.setCtx_rst (s : State) (n : Nat) (x : Ctx) : (s.setCtx n x).rst = s.rst := rfl
@[simp] theorem State.setCtx_objs (s : State) (n : Nat) (x : Ctx) : (s.setCtx n x).objs = s.objs := rfl
@[simp] theorem State.setCtx_isl (s : State) (n : Nat) (x : Ctx) : (s.setCtx n x).isl = s.isl := rfl
@[simp] theorem State.setCtx_slices (s : State) (n : Nat) (x : Ctx) : (s.setCtx n x).slices = s.slices := rfl
@[simp] theorem State.setCtx_harts (s : State) (n : Nat) (x : Ctx) : (s.setCtx n x).harts = s.harts := rfl
@[simp] theorem State.setCtx_clusters (s : State) (n : Nat) (x : Ctx) : (s.setCtx n x).clusters = s.clusters := rfl
@[simp] theorem State.setCtx_tasks (s : State) (n : Nat) (x : Ctx) : (s.setCtx n x).tasks = s.tasks := rfl
@[simp] theorem State.setCtx_mem (s : State) (n : Nat) (x : Ctx) : (s.setCtx n x).mem = s.mem := rfl
@[simp] theorem State.setCtx_peers (s : State) (n : Nat) (x : Ctx) : (s.setCtx n x).peers = s.peers := rfl
@[simp] theorem State.setCtx_media (s : State) (n : Nat) (x : Ctx) : (s.setCtx n x).media = s.media := rfl
@[simp] theorem State.setCtx_link (s : State) (n : Nat) (x : Ctx) : (s.setCtx n x).link = s.link := rfl
@[simp] theorem State.setCtx_safety (s : State) (n : Nat) (x : Ctx) : (s.setCtx n x).safety = s.safety := rfl
@[simp] theorem State.setCtx_power (s : State) (n : Nat) (x : Ctx) : (s.setCtx n x).power = s.power := rfl
@[simp] theorem State.setCtx_fw (s : State) (n : Nat) (x : Ctx) : (s.setCtx n x).fw = s.fw := rfl
@[simp] theorem State.setCtx_trust (s : State) (n : Nat) (x : Ctx) : (s.setCtx n x).trust = s.trust := rfl
@[simp] theorem State.setCtx_pers (s : State) (n : Nat) (x : Ctx) : (s.setCtx n x).pers = s.pers := rfl
@[simp] theorem State.setCtx_freeCtr (s : State) (n : Nat) (x : Ctx) : (s.setCtx n x).freeCtr = s.freeCtr := rfl
@[simp] theorem State.setCtx_slice (s : State) (n : Nat) (x : Ctx) (m : Nat) : (s.setCtx n x).slice m = s.slice m := rfl
@[simp] theorem State.setCtx_hart (s : State) (n : Nat) (x : Ctx) (m : Nat) : (s.setCtx n x).hart m = s.hart m := rfl
@[simp] theorem State.setCtx_cluster (s : State) (n : Nat) (x : Ctx) (m : Nat) : (s.setCtx n x).cluster m = s.cluster m := rfl
@[simp] theorem State.setCtx_stream (s : State) (n : Nat) (x : Ctx) (m : Nat) : (s.setCtx n x).stream m = s.stream m := rfl
@[simp] theorem State.setCtx_chan (s : State) (n : Nat) (x : Ctx) (m : Nat) : (s.setCtx n x).chan m = s.chan m := rfl
@[simp] theorem State.setCtx_entry (s : State) (n : Nat) (x : Ctx) (m : Nat) : (s.setCtx n x).entry m = s.entry m := rfl
@[simp] theorem State.setCtx_peer (s : State) (n : Nat) (x : Ctx) (m : Nat) : (s.setCtx n x).peer m = s.peer m := rfl
@[simp] theorem State.setCtx_proc (s : State) (n : Nat) (x : Ctx) (m : Nat) : (s.setCtx n x).proc m = s.proc m := rfl
@[simp] theorem State.setCtx_pslice (s : State) (n : Nat) (x : Ctx) (m : Nat) : (s.setCtx n x).pslice m = s.pslice m := rfl
@[simp] theorem State.setCtx_val (s : State) (n : Nat) (x : Ctx) (row : ObjRow) (m : Nat) : (s.setCtx n x).val row m = s.val row m := rfl
@[simp] theorem State.setCtx_num (s : State) (n : Nat) (x : Ctx) (row : ObjRow) (m : Nat) : (s.setCtx n x).num row m = s.num row m := rfl
@[simp] theorem State.setCtx_blob (s : State) (n : Nat) (x : Ctx) (row : ObjRow) (m : Nat) : (s.setCtx n x).blob row m = s.blob row m := rfl

/-! ## modCtx -/

@[simp] theorem State.modCtx_pending (s : State) (n : Nat) (f : Ctx → Ctx) : (s.modCtx n f).pending = s.pending := rfl
@[simp] theorem State.modCtx_clk (s : State) (n : Nat) (f : Ctx → Ctx) : (s.modCtx n f).clk = s.clk := rfl
@[simp] theorem State.modCtx_pins (s : State) (n : Nat) (f : Ctx → Ctx) : (s.modCtx n f).pins = s.pins := rfl
@[simp] theorem State.modCtx_rst (s : State) (n : Nat) (f : Ctx → Ctx) : (s.modCtx n f).rst = s.rst := rfl
@[simp] theorem State.modCtx_objs (s : State) (n : Nat) (f : Ctx → Ctx) : (s.modCtx n f).objs = s.objs := rfl
@[simp] theorem State.modCtx_isl (s : State) (n : Nat) (f : Ctx → Ctx) : (s.modCtx n f).isl = s.isl := rfl
@[simp] theorem State.modCtx_slices (s : State) (n : Nat) (f : Ctx → Ctx) : (s.modCtx n f).slices = s.slices := rfl
@[simp] theorem State.modCtx_harts (s : State) (n : Nat) (f : Ctx → Ctx) : (s.modCtx n f).harts = s.harts := rfl
@[simp] theorem State.modCtx_clusters (s : State) (n : Nat) (f : Ctx → Ctx) : (s.modCtx n f).clusters = s.clusters := rfl
@[simp] theorem State.modCtx_tasks (s : State) (n : Nat) (f : Ctx → Ctx) : (s.modCtx n f).tasks = s.tasks := rfl
@[simp] theorem State.modCtx_mem (s : State) (n : Nat) (f : Ctx → Ctx) : (s.modCtx n f).mem = s.mem := rfl
@[simp] theorem State.modCtx_peers (s : State) (n : Nat) (f : Ctx → Ctx) : (s.modCtx n f).peers = s.peers := rfl
@[simp] theorem State.modCtx_media (s : State) (n : Nat) (f : Ctx → Ctx) : (s.modCtx n f).media = s.media := rfl
@[simp] theorem State.modCtx_link (s : State) (n : Nat) (f : Ctx → Ctx) : (s.modCtx n f).link = s.link := rfl
@[simp] theorem State.modCtx_safety (s : State) (n : Nat) (f : Ctx → Ctx) : (s.modCtx n f).safety = s.safety := rfl
@[simp] theorem State.modCtx_power (s : State) (n : Nat) (f : Ctx → Ctx) : (s.modCtx n f).power = s.power := rfl
@[simp] theorem State.modCtx_fw (s : State) (n : Nat) (f : Ctx → Ctx) : (s.modCtx n f).fw = s.fw := rfl
@[simp] theorem State.modCtx_trust (s : State) (n : Nat) (f : Ctx → Ctx) : (s.modCtx n f).trust = s.trust := rfl
@[simp] theorem State.modCtx_pers (s : State) (n : Nat) (f : Ctx → Ctx) : (s.modCtx n f).pers = s.pers := rfl
@[simp] theorem State.modCtx_freeCtr (s : State) (n : Nat) (f : Ctx → Ctx) : (s.modCtx n f).freeCtr = s.freeCtr := rfl
@[simp] theorem State.modCtx_slice (s : State) (n : Nat) (f : Ctx → Ctx) (m : Nat) : (s.modCtx n f).slice m = s.slice m := rfl
@[simp] theorem State.modCtx_hart (s : State) (n : Nat) (f : Ctx → Ctx) (m : Nat) : (s.modCtx n f).hart m = s.hart m := rfl
@[simp] theorem State.modCtx_cluster (s : State) (n : Nat) (f : Ctx → Ctx) (m : Nat) : (s.modCtx n f).cluster m = s.cluster m := rfl
@[simp] theorem State.modCtx_stream (s : State) (n : Nat) (f : Ctx → Ctx) (m : Nat) : (s.modCtx n f).stream m = s.stream m := rfl
@[simp] theorem State.modCtx_chan (s : State) (n : Nat) (f : Ctx → Ctx) (m : Nat) : (s.modCtx n f).chan m = s.chan m := rfl
@[simp] theorem State.modCtx_entry (s : State) (n : Nat) (f : Ctx → Ctx) (m : Nat) : (s.modCtx n f).entry m = s.entry m := rfl
@[simp] theorem State.modCtx_peer (s : State) (n : Nat) (f : Ctx → Ctx) (m : Nat) : (s.modCtx n f).peer m = s.peer m := rfl
@[simp] theorem State.modCtx_proc (s : State) (n : Nat) (f : Ctx → Ctx) (m : Nat) : (s.modCtx n f).proc m = s.proc m := rfl
@[simp] theorem State.modCtx_pslice (s : State) (n : Nat) (f : Ctx → Ctx) (m : Nat) : (s.modCtx n f).pslice m = s.pslice m := rfl
@[simp] theorem State.modCtx_val (s : State) (n : Nat) (f : Ctx → Ctx) (row : ObjRow) (m : Nat) : (s.modCtx n f).val row m = s.val row m := rfl
@[simp] theorem State.modCtx_num (s : State) (n : Nat) (f : Ctx → Ctx) (row : ObjRow) (m : Nat) : (s.modCtx n f).num row m = s.num row m := rfl
@[simp] theorem State.modCtx_blob (s : State) (n : Nat) (f : Ctx → Ctx) (row : ObjRow) (m : Nat) : (s.modCtx n f).blob row m = s.blob row m := rfl

/-! ## setStream -/

@[simp] theorem State.setStream_pending (s : State) (n : Nat) (x : Stream) : (s.setStream n x).pending = s.pending := rfl
@[simp] theorem State.setStream_clk (s : State) (n : Nat) (x : Stream) : (s.setStream n x).clk = s.clk := rfl
@[simp] theorem State.setStream_pins (s : State) (n : Nat) (x : Stream) : (s.setStream n x).pins = s.pins := rfl
@[simp] theorem State.setStream_rst (s : State) (n : Nat) (x : Stream) : (s.setStream n x).rst = s.rst := rfl
@[simp] theorem State.setStream_objs (s : State) (n : Nat) (x : Stream) : (s.setStream n x).objs = s.objs := rfl
@[simp] theorem State.setStream_isl (s : State) (n : Nat) (x : Stream) : (s.setStream n x).isl = s.isl := rfl
@[simp] theorem State.setStream_slices (s : State) (n : Nat) (x : Stream) : (s.setStream n x).slices = s.slices := rfl
@[simp] theorem State.setStream_harts (s : State) (n : Nat) (x : Stream) : (s.setStream n x).harts = s.harts := rfl
@[simp] theorem State.setStream_clusters (s : State) (n : Nat) (x : Stream) : (s.setStream n x).clusters = s.clusters := rfl
@[simp] theorem State.setStream_tasks (s : State) (n : Nat) (x : Stream) : (s.setStream n x).tasks = s.tasks := rfl
@[simp] theorem State.setStream_mem (s : State) (n : Nat) (x : Stream) : (s.setStream n x).mem = s.mem := rfl
@[simp] theorem State.setStream_peers (s : State) (n : Nat) (x : Stream) : (s.setStream n x).peers = s.peers := rfl
@[simp] theorem State.setStream_work (s : State) (n : Nat) (x : Stream) : (s.setStream n x).work = s.work := rfl
@[simp] theorem State.setStream_link (s : State) (n : Nat) (x : Stream) : (s.setStream n x).link = s.link := rfl
@[simp] theorem State.setStream_safety (s : State) (n : Nat) (x : Stream) : (s.setStream n x).safety = s.safety := rfl
@[simp] theorem State.setStream_power (s : State) (n : Nat) (x : Stream) : (s.setStream n x).power = s.power := rfl
@[simp] theorem State.setStream_fw (s : State) (n : Nat) (x : Stream) : (s.setStream n x).fw = s.fw := rfl
@[simp] theorem State.setStream_trust (s : State) (n : Nat) (x : Stream) : (s.setStream n x).trust = s.trust := rfl
@[simp] theorem State.setStream_pers (s : State) (n : Nat) (x : Stream) : (s.setStream n x).pers = s.pers := rfl
@[simp] theorem State.setStream_freeCtr (s : State) (n : Nat) (x : Stream) : (s.setStream n x).freeCtr = s.freeCtr := rfl
@[simp] theorem State.setStream_slice (s : State) (n : Nat) (x : Stream) (m : Nat) : (s.setStream n x).slice m = s.slice m := rfl
@[simp] theorem State.setStream_hart (s : State) (n : Nat) (x : Stream) (m : Nat) : (s.setStream n x).hart m = s.hart m := rfl
@[simp] theorem State.setStream_cluster (s : State) (n : Nat) (x : Stream) (m : Nat) : (s.setStream n x).cluster m = s.cluster m := rfl
@[simp] theorem State.setStream_chan (s : State) (n : Nat) (x : Stream) (m : Nat) : (s.setStream n x).chan m = s.chan m := rfl
@[simp] theorem State.setStream_entry (s : State) (n : Nat) (x : Stream) (m : Nat) : (s.setStream n x).entry m = s.entry m := rfl
@[simp] theorem State.setStream_peer (s : State) (n : Nat) (x : Stream) (m : Nat) : (s.setStream n x).peer m = s.peer m := rfl
@[simp] theorem State.setStream_proc (s : State) (n : Nat) (x : Stream) (m : Nat) : (s.setStream n x).proc m = s.proc m := rfl
@[simp] theorem State.setStream_pslice (s : State) (n : Nat) (x : Stream) (m : Nat) : (s.setStream n x).pslice m = s.pslice m := rfl
@[simp] theorem State.setStream_queue (s : State) (n : Nat) (x : Stream) (m : Nat) : (s.setStream n x).queue m = s.queue m := rfl
@[simp] theorem State.setStream_ctx (s : State) (n : Nat) (x : Stream) (m : Nat) : (s.setStream n x).ctx m = s.ctx m := rfl
@[simp] theorem State.setStream_val (s : State) (n : Nat) (x : Stream) (row : ObjRow) (m : Nat) : (s.setStream n x).val row m = s.val row m := rfl
@[simp] theorem State.setStream_num (s : State) (n : Nat) (x : Stream) (row : ObjRow) (m : Nat) : (s.setStream n x).num row m = s.num row m := rfl
@[simp] theorem State.setStream_blob (s : State) (n : Nat) (x : Stream) (row : ObjRow) (m : Nat) : (s.setStream n x).blob row m = s.blob row m := rfl

/-! ## modStream -/

@[simp] theorem State.modStream_pending (s : State) (n : Nat) (f : Stream → Stream) : (s.modStream n f).pending = s.pending := rfl
@[simp] theorem State.modStream_clk (s : State) (n : Nat) (f : Stream → Stream) : (s.modStream n f).clk = s.clk := rfl
@[simp] theorem State.modStream_pins (s : State) (n : Nat) (f : Stream → Stream) : (s.modStream n f).pins = s.pins := rfl
@[simp] theorem State.modStream_rst (s : State) (n : Nat) (f : Stream → Stream) : (s.modStream n f).rst = s.rst := rfl
@[simp] theorem State.modStream_objs (s : State) (n : Nat) (f : Stream → Stream) : (s.modStream n f).objs = s.objs := rfl
@[simp] theorem State.modStream_isl (s : State) (n : Nat) (f : Stream → Stream) : (s.modStream n f).isl = s.isl := rfl
@[simp] theorem State.modStream_slices (s : State) (n : Nat) (f : Stream → Stream) : (s.modStream n f).slices = s.slices := rfl
@[simp] theorem State.modStream_harts (s : State) (n : Nat) (f : Stream → Stream) : (s.modStream n f).harts = s.harts := rfl
@[simp] theorem State.modStream_clusters (s : State) (n : Nat) (f : Stream → Stream) : (s.modStream n f).clusters = s.clusters := rfl
@[simp] theorem State.modStream_tasks (s : State) (n : Nat) (f : Stream → Stream) : (s.modStream n f).tasks = s.tasks := rfl
@[simp] theorem State.modStream_mem (s : State) (n : Nat) (f : Stream → Stream) : (s.modStream n f).mem = s.mem := rfl
@[simp] theorem State.modStream_peers (s : State) (n : Nat) (f : Stream → Stream) : (s.modStream n f).peers = s.peers := rfl
@[simp] theorem State.modStream_work (s : State) (n : Nat) (f : Stream → Stream) : (s.modStream n f).work = s.work := rfl
@[simp] theorem State.modStream_link (s : State) (n : Nat) (f : Stream → Stream) : (s.modStream n f).link = s.link := rfl
@[simp] theorem State.modStream_safety (s : State) (n : Nat) (f : Stream → Stream) : (s.modStream n f).safety = s.safety := rfl
@[simp] theorem State.modStream_power (s : State) (n : Nat) (f : Stream → Stream) : (s.modStream n f).power = s.power := rfl
@[simp] theorem State.modStream_fw (s : State) (n : Nat) (f : Stream → Stream) : (s.modStream n f).fw = s.fw := rfl
@[simp] theorem State.modStream_trust (s : State) (n : Nat) (f : Stream → Stream) : (s.modStream n f).trust = s.trust := rfl
@[simp] theorem State.modStream_pers (s : State) (n : Nat) (f : Stream → Stream) : (s.modStream n f).pers = s.pers := rfl
@[simp] theorem State.modStream_freeCtr (s : State) (n : Nat) (f : Stream → Stream) : (s.modStream n f).freeCtr = s.freeCtr := rfl
@[simp] theorem State.modStream_slice (s : State) (n : Nat) (f : Stream → Stream) (m : Nat) : (s.modStream n f).slice m = s.slice m := rfl
@[simp] theorem State.modStream_hart (s : State) (n : Nat) (f : Stream → Stream) (m : Nat) : (s.modStream n f).hart m = s.hart m := rfl
@[simp] theorem State.modStream_cluster (s : State) (n : Nat) (f : Stream → Stream) (m : Nat) : (s.modStream n f).cluster m = s.cluster m := rfl
@[simp] theorem State.modStream_chan (s : State) (n : Nat) (f : Stream → Stream) (m : Nat) : (s.modStream n f).chan m = s.chan m := rfl
@[simp] theorem State.modStream_entry (s : State) (n : Nat) (f : Stream → Stream) (m : Nat) : (s.modStream n f).entry m = s.entry m := rfl
@[simp] theorem State.modStream_peer (s : State) (n : Nat) (f : Stream → Stream) (m : Nat) : (s.modStream n f).peer m = s.peer m := rfl
@[simp] theorem State.modStream_proc (s : State) (n : Nat) (f : Stream → Stream) (m : Nat) : (s.modStream n f).proc m = s.proc m := rfl
@[simp] theorem State.modStream_pslice (s : State) (n : Nat) (f : Stream → Stream) (m : Nat) : (s.modStream n f).pslice m = s.pslice m := rfl
@[simp] theorem State.modStream_queue (s : State) (n : Nat) (f : Stream → Stream) (m : Nat) : (s.modStream n f).queue m = s.queue m := rfl
@[simp] theorem State.modStream_ctx (s : State) (n : Nat) (f : Stream → Stream) (m : Nat) : (s.modStream n f).ctx m = s.ctx m := rfl
@[simp] theorem State.modStream_val (s : State) (n : Nat) (f : Stream → Stream) (row : ObjRow) (m : Nat) : (s.modStream n f).val row m = s.val row m := rfl
@[simp] theorem State.modStream_num (s : State) (n : Nat) (f : Stream → Stream) (row : ObjRow) (m : Nat) : (s.modStream n f).num row m = s.num row m := rfl
@[simp] theorem State.modStream_blob (s : State) (n : Nat) (f : Stream → Stream) (row : ObjRow) (m : Nat) : (s.modStream n f).blob row m = s.blob row m := rfl

/-! ## modRaw -/

@[simp] theorem State.modRaw_pending (s : State) (n : Nat) (f : Raw → Raw) : (s.modRaw n f).pending = s.pending := rfl
@[simp] theorem State.modRaw_clk (s : State) (n : Nat) (f : Raw → Raw) : (s.modRaw n f).clk = s.clk := rfl
@[simp] theorem State.modRaw_pins (s : State) (n : Nat) (f : Raw → Raw) : (s.modRaw n f).pins = s.pins := rfl
@[simp] theorem State.modRaw_rst (s : State) (n : Nat) (f : Raw → Raw) : (s.modRaw n f).rst = s.rst := rfl
@[simp] theorem State.modRaw_objs (s : State) (n : Nat) (f : Raw → Raw) : (s.modRaw n f).objs = s.objs := rfl
@[simp] theorem State.modRaw_isl (s : State) (n : Nat) (f : Raw → Raw) : (s.modRaw n f).isl = s.isl := rfl
@[simp] theorem State.modRaw_slices (s : State) (n : Nat) (f : Raw → Raw) : (s.modRaw n f).slices = s.slices := rfl
@[simp] theorem State.modRaw_harts (s : State) (n : Nat) (f : Raw → Raw) : (s.modRaw n f).harts = s.harts := rfl
@[simp] theorem State.modRaw_clusters (s : State) (n : Nat) (f : Raw → Raw) : (s.modRaw n f).clusters = s.clusters := rfl
@[simp] theorem State.modRaw_tasks (s : State) (n : Nat) (f : Raw → Raw) : (s.modRaw n f).tasks = s.tasks := rfl
@[simp] theorem State.modRaw_mem (s : State) (n : Nat) (f : Raw → Raw) : (s.modRaw n f).mem = s.mem := rfl
@[simp] theorem State.modRaw_peers (s : State) (n : Nat) (f : Raw → Raw) : (s.modRaw n f).peers = s.peers := rfl
@[simp] theorem State.modRaw_work (s : State) (n : Nat) (f : Raw → Raw) : (s.modRaw n f).work = s.work := rfl
@[simp] theorem State.modRaw_link (s : State) (n : Nat) (f : Raw → Raw) : (s.modRaw n f).link = s.link := rfl
@[simp] theorem State.modRaw_safety (s : State) (n : Nat) (f : Raw → Raw) : (s.modRaw n f).safety = s.safety := rfl
@[simp] theorem State.modRaw_power (s : State) (n : Nat) (f : Raw → Raw) : (s.modRaw n f).power = s.power := rfl
@[simp] theorem State.modRaw_fw (s : State) (n : Nat) (f : Raw → Raw) : (s.modRaw n f).fw = s.fw := rfl
@[simp] theorem State.modRaw_trust (s : State) (n : Nat) (f : Raw → Raw) : (s.modRaw n f).trust = s.trust := rfl
@[simp] theorem State.modRaw_pers (s : State) (n : Nat) (f : Raw → Raw) : (s.modRaw n f).pers = s.pers := rfl
@[simp] theorem State.modRaw_freeCtr (s : State) (n : Nat) (f : Raw → Raw) : (s.modRaw n f).freeCtr = s.freeCtr := rfl
@[simp] theorem State.modRaw_slice (s : State) (n : Nat) (f : Raw → Raw) (m : Nat) : (s.modRaw n f).slice m = s.slice m := rfl
@[simp] theorem State.modRaw_hart (s : State) (n : Nat) (f : Raw → Raw) (m : Nat) : (s.modRaw n f).hart m = s.hart m := rfl
@[simp] theorem State.modRaw_cluster (s : State) (n : Nat) (f : Raw → Raw) (m : Nat) : (s.modRaw n f).cluster m = s.cluster m := rfl
@[simp] theorem State.modRaw_chan (s : State) (n : Nat) (f : Raw → Raw) (m : Nat) : (s.modRaw n f).chan m = s.chan m := rfl
@[simp] theorem State.modRaw_entry (s : State) (n : Nat) (f : Raw → Raw) (m : Nat) : (s.modRaw n f).entry m = s.entry m := rfl
@[simp] theorem State.modRaw_peer (s : State) (n : Nat) (f : Raw → Raw) (m : Nat) : (s.modRaw n f).peer m = s.peer m := rfl
@[simp] theorem State.modRaw_proc (s : State) (n : Nat) (f : Raw → Raw) (m : Nat) : (s.modRaw n f).proc m = s.proc m := rfl
@[simp] theorem State.modRaw_pslice (s : State) (n : Nat) (f : Raw → Raw) (m : Nat) : (s.modRaw n f).pslice m = s.pslice m := rfl
@[simp] theorem State.modRaw_queue (s : State) (n : Nat) (f : Raw → Raw) (m : Nat) : (s.modRaw n f).queue m = s.queue m := rfl
@[simp] theorem State.modRaw_ctx (s : State) (n : Nat) (f : Raw → Raw) (m : Nat) : (s.modRaw n f).ctx m = s.ctx m := rfl
@[simp] theorem State.modRaw_val (s : State) (n : Nat) (f : Raw → Raw) (row : ObjRow) (m : Nat) : (s.modRaw n f).val row m = s.val row m := rfl
@[simp] theorem State.modRaw_num (s : State) (n : Nat) (f : Raw → Raw) (row : ObjRow) (m : Nat) : (s.modRaw n f).num row m = s.num row m := rfl
@[simp] theorem State.modRaw_blob (s : State) (n : Nat) (f : Raw → Raw) (row : ObjRow) (m : Nat) : (s.modRaw n f).blob row m = s.blob row m := rfl

/-! ## modIng -/

@[simp] theorem State.modIng_pending (s : State) (n : Nat) (f : Ingest → Ingest) : (s.modIng n f).pending = s.pending := rfl
@[simp] theorem State.modIng_clk (s : State) (n : Nat) (f : Ingest → Ingest) : (s.modIng n f).clk = s.clk := rfl
@[simp] theorem State.modIng_pins (s : State) (n : Nat) (f : Ingest → Ingest) : (s.modIng n f).pins = s.pins := rfl
@[simp] theorem State.modIng_rst (s : State) (n : Nat) (f : Ingest → Ingest) : (s.modIng n f).rst = s.rst := rfl
@[simp] theorem State.modIng_objs (s : State) (n : Nat) (f : Ingest → Ingest) : (s.modIng n f).objs = s.objs := rfl
@[simp] theorem State.modIng_isl (s : State) (n : Nat) (f : Ingest → Ingest) : (s.modIng n f).isl = s.isl := rfl
@[simp] theorem State.modIng_slices (s : State) (n : Nat) (f : Ingest → Ingest) : (s.modIng n f).slices = s.slices := rfl
@[simp] theorem State.modIng_harts (s : State) (n : Nat) (f : Ingest → Ingest) : (s.modIng n f).harts = s.harts := rfl
@[simp] theorem State.modIng_clusters (s : State) (n : Nat) (f : Ingest → Ingest) : (s.modIng n f).clusters = s.clusters := rfl
@[simp] theorem State.modIng_tasks (s : State) (n : Nat) (f : Ingest → Ingest) : (s.modIng n f).tasks = s.tasks := rfl
@[simp] theorem State.modIng_mem (s : State) (n : Nat) (f : Ingest → Ingest) : (s.modIng n f).mem = s.mem := rfl
@[simp] theorem State.modIng_peers (s : State) (n : Nat) (f : Ingest → Ingest) : (s.modIng n f).peers = s.peers := rfl
@[simp] theorem State.modIng_work (s : State) (n : Nat) (f : Ingest → Ingest) : (s.modIng n f).work = s.work := rfl
@[simp] theorem State.modIng_link (s : State) (n : Nat) (f : Ingest → Ingest) : (s.modIng n f).link = s.link := rfl
@[simp] theorem State.modIng_safety (s : State) (n : Nat) (f : Ingest → Ingest) : (s.modIng n f).safety = s.safety := rfl
@[simp] theorem State.modIng_power (s : State) (n : Nat) (f : Ingest → Ingest) : (s.modIng n f).power = s.power := rfl
@[simp] theorem State.modIng_fw (s : State) (n : Nat) (f : Ingest → Ingest) : (s.modIng n f).fw = s.fw := rfl
@[simp] theorem State.modIng_trust (s : State) (n : Nat) (f : Ingest → Ingest) : (s.modIng n f).trust = s.trust := rfl
@[simp] theorem State.modIng_pers (s : State) (n : Nat) (f : Ingest → Ingest) : (s.modIng n f).pers = s.pers := rfl
@[simp] theorem State.modIng_freeCtr (s : State) (n : Nat) (f : Ingest → Ingest) : (s.modIng n f).freeCtr = s.freeCtr := rfl
@[simp] theorem State.modIng_slice (s : State) (n : Nat) (f : Ingest → Ingest) (m : Nat) : (s.modIng n f).slice m = s.slice m := rfl
@[simp] theorem State.modIng_hart (s : State) (n : Nat) (f : Ingest → Ingest) (m : Nat) : (s.modIng n f).hart m = s.hart m := rfl
@[simp] theorem State.modIng_cluster (s : State) (n : Nat) (f : Ingest → Ingest) (m : Nat) : (s.modIng n f).cluster m = s.cluster m := rfl
@[simp] theorem State.modIng_chan (s : State) (n : Nat) (f : Ingest → Ingest) (m : Nat) : (s.modIng n f).chan m = s.chan m := rfl
@[simp] theorem State.modIng_entry (s : State) (n : Nat) (f : Ingest → Ingest) (m : Nat) : (s.modIng n f).entry m = s.entry m := rfl
@[simp] theorem State.modIng_peer (s : State) (n : Nat) (f : Ingest → Ingest) (m : Nat) : (s.modIng n f).peer m = s.peer m := rfl
@[simp] theorem State.modIng_proc (s : State) (n : Nat) (f : Ingest → Ingest) (m : Nat) : (s.modIng n f).proc m = s.proc m := rfl
@[simp] theorem State.modIng_pslice (s : State) (n : Nat) (f : Ingest → Ingest) (m : Nat) : (s.modIng n f).pslice m = s.pslice m := rfl
@[simp] theorem State.modIng_queue (s : State) (n : Nat) (f : Ingest → Ingest) (m : Nat) : (s.modIng n f).queue m = s.queue m := rfl
@[simp] theorem State.modIng_ctx (s : State) (n : Nat) (f : Ingest → Ingest) (m : Nat) : (s.modIng n f).ctx m = s.ctx m := rfl
@[simp] theorem State.modIng_val (s : State) (n : Nat) (f : Ingest → Ingest) (row : ObjRow) (m : Nat) : (s.modIng n f).val row m = s.val row m := rfl
@[simp] theorem State.modIng_num (s : State) (n : Nat) (f : Ingest → Ingest) (row : ObjRow) (m : Nat) : (s.modIng n f).num row m = s.num row m := rfl
@[simp] theorem State.modIng_blob (s : State) (n : Nat) (f : Ingest → Ingest) (row : ObjRow) (m : Nat) : (s.modIng n f).blob row m = s.blob row m := rfl

/-! ## setChan -/

@[simp] theorem State.setChan_pending (s : State) (n : Nat) (x : Channel) : (s.setChan n x).pending = s.pending := rfl
@[simp] theorem State.setChan_clk (s : State) (n : Nat) (x : Channel) : (s.setChan n x).clk = s.clk := rfl
@[simp] theorem State.setChan_pins (s : State) (n : Nat) (x : Channel) : (s.setChan n x).pins = s.pins := rfl
@[simp] theorem State.setChan_rst (s : State) (n : Nat) (x : Channel) : (s.setChan n x).rst = s.rst := rfl
@[simp] theorem State.setChan_objs (s : State) (n : Nat) (x : Channel) : (s.setChan n x).objs = s.objs := rfl
@[simp] theorem State.setChan_isl (s : State) (n : Nat) (x : Channel) : (s.setChan n x).isl = s.isl := rfl
@[simp] theorem State.setChan_slices (s : State) (n : Nat) (x : Channel) : (s.setChan n x).slices = s.slices := rfl
@[simp] theorem State.setChan_harts (s : State) (n : Nat) (x : Channel) : (s.setChan n x).harts = s.harts := rfl
@[simp] theorem State.setChan_clusters (s : State) (n : Nat) (x : Channel) : (s.setChan n x).clusters = s.clusters := rfl
@[simp] theorem State.setChan_tasks (s : State) (n : Nat) (x : Channel) : (s.setChan n x).tasks = s.tasks := rfl
@[simp] theorem State.setChan_peers (s : State) (n : Nat) (x : Channel) : (s.setChan n x).peers = s.peers := rfl
@[simp] theorem State.setChan_work (s : State) (n : Nat) (x : Channel) : (s.setChan n x).work = s.work := rfl
@[simp] theorem State.setChan_media (s : State) (n : Nat) (x : Channel) : (s.setChan n x).media = s.media := rfl
@[simp] theorem State.setChan_link (s : State) (n : Nat) (x : Channel) : (s.setChan n x).link = s.link := rfl
@[simp] theorem State.setChan_safety (s : State) (n : Nat) (x : Channel) : (s.setChan n x).safety = s.safety := rfl
@[simp] theorem State.setChan_power (s : State) (n : Nat) (x : Channel) : (s.setChan n x).power = s.power := rfl
@[simp] theorem State.setChan_fw (s : State) (n : Nat) (x : Channel) : (s.setChan n x).fw = s.fw := rfl
@[simp] theorem State.setChan_trust (s : State) (n : Nat) (x : Channel) : (s.setChan n x).trust = s.trust := rfl
@[simp] theorem State.setChan_pers (s : State) (n : Nat) (x : Channel) : (s.setChan n x).pers = s.pers := rfl
@[simp] theorem State.setChan_freeCtr (s : State) (n : Nat) (x : Channel) : (s.setChan n x).freeCtr = s.freeCtr := rfl
@[simp] theorem State.setChan_slice (s : State) (n : Nat) (x : Channel) (m : Nat) : (s.setChan n x).slice m = s.slice m := rfl
@[simp] theorem State.setChan_hart (s : State) (n : Nat) (x : Channel) (m : Nat) : (s.setChan n x).hart m = s.hart m := rfl
@[simp] theorem State.setChan_cluster (s : State) (n : Nat) (x : Channel) (m : Nat) : (s.setChan n x).cluster m = s.cluster m := rfl
@[simp] theorem State.setChan_stream (s : State) (n : Nat) (x : Channel) (m : Nat) : (s.setChan n x).stream m = s.stream m := rfl
@[simp] theorem State.setChan_peer (s : State) (n : Nat) (x : Channel) (m : Nat) : (s.setChan n x).peer m = s.peer m := rfl
@[simp] theorem State.setChan_proc (s : State) (n : Nat) (x : Channel) (m : Nat) : (s.setChan n x).proc m = s.proc m := rfl
@[simp] theorem State.setChan_pslice (s : State) (n : Nat) (x : Channel) (m : Nat) : (s.setChan n x).pslice m = s.pslice m := rfl
@[simp] theorem State.setChan_queue (s : State) (n : Nat) (x : Channel) (m : Nat) : (s.setChan n x).queue m = s.queue m := rfl
@[simp] theorem State.setChan_ctx (s : State) (n : Nat) (x : Channel) (m : Nat) : (s.setChan n x).ctx m = s.ctx m := rfl
@[simp] theorem State.setChan_val (s : State) (n : Nat) (x : Channel) (row : ObjRow) (m : Nat) : (s.setChan n x).val row m = s.val row m := rfl
@[simp] theorem State.setChan_num (s : State) (n : Nat) (x : Channel) (row : ObjRow) (m : Nat) : (s.setChan n x).num row m = s.num row m := rfl
@[simp] theorem State.setChan_blob (s : State) (n : Nat) (x : Channel) (row : ObjRow) (m : Nat) : (s.setChan n x).blob row m = s.blob row m := rfl

/-! ## modChan -/

@[simp] theorem State.modChan_pending (s : State) (n : Nat) (f : Channel → Channel) : (s.modChan n f).pending = s.pending := rfl
@[simp] theorem State.modChan_clk (s : State) (n : Nat) (f : Channel → Channel) : (s.modChan n f).clk = s.clk := rfl
@[simp] theorem State.modChan_pins (s : State) (n : Nat) (f : Channel → Channel) : (s.modChan n f).pins = s.pins := rfl
@[simp] theorem State.modChan_rst (s : State) (n : Nat) (f : Channel → Channel) : (s.modChan n f).rst = s.rst := rfl
@[simp] theorem State.modChan_objs (s : State) (n : Nat) (f : Channel → Channel) : (s.modChan n f).objs = s.objs := rfl
@[simp] theorem State.modChan_isl (s : State) (n : Nat) (f : Channel → Channel) : (s.modChan n f).isl = s.isl := rfl
@[simp] theorem State.modChan_slices (s : State) (n : Nat) (f : Channel → Channel) : (s.modChan n f).slices = s.slices := rfl
@[simp] theorem State.modChan_harts (s : State) (n : Nat) (f : Channel → Channel) : (s.modChan n f).harts = s.harts := rfl
@[simp] theorem State.modChan_clusters (s : State) (n : Nat) (f : Channel → Channel) : (s.modChan n f).clusters = s.clusters := rfl
@[simp] theorem State.modChan_tasks (s : State) (n : Nat) (f : Channel → Channel) : (s.modChan n f).tasks = s.tasks := rfl
@[simp] theorem State.modChan_peers (s : State) (n : Nat) (f : Channel → Channel) : (s.modChan n f).peers = s.peers := rfl
@[simp] theorem State.modChan_work (s : State) (n : Nat) (f : Channel → Channel) : (s.modChan n f).work = s.work := rfl
@[simp] theorem State.modChan_media (s : State) (n : Nat) (f : Channel → Channel) : (s.modChan n f).media = s.media := rfl
@[simp] theorem State.modChan_link (s : State) (n : Nat) (f : Channel → Channel) : (s.modChan n f).link = s.link := rfl
@[simp] theorem State.modChan_safety (s : State) (n : Nat) (f : Channel → Channel) : (s.modChan n f).safety = s.safety := rfl
@[simp] theorem State.modChan_power (s : State) (n : Nat) (f : Channel → Channel) : (s.modChan n f).power = s.power := rfl
@[simp] theorem State.modChan_fw (s : State) (n : Nat) (f : Channel → Channel) : (s.modChan n f).fw = s.fw := rfl
@[simp] theorem State.modChan_trust (s : State) (n : Nat) (f : Channel → Channel) : (s.modChan n f).trust = s.trust := rfl
@[simp] theorem State.modChan_pers (s : State) (n : Nat) (f : Channel → Channel) : (s.modChan n f).pers = s.pers := rfl
@[simp] theorem State.modChan_freeCtr (s : State) (n : Nat) (f : Channel → Channel) : (s.modChan n f).freeCtr = s.freeCtr := rfl
@[simp] theorem State.modChan_slice (s : State) (n : Nat) (f : Channel → Channel) (m : Nat) : (s.modChan n f).slice m = s.slice m := rfl
@[simp] theorem State.modChan_hart (s : State) (n : Nat) (f : Channel → Channel) (m : Nat) : (s.modChan n f).hart m = s.hart m := rfl
@[simp] theorem State.modChan_cluster (s : State) (n : Nat) (f : Channel → Channel) (m : Nat) : (s.modChan n f).cluster m = s.cluster m := rfl
@[simp] theorem State.modChan_stream (s : State) (n : Nat) (f : Channel → Channel) (m : Nat) : (s.modChan n f).stream m = s.stream m := rfl
@[simp] theorem State.modChan_peer (s : State) (n : Nat) (f : Channel → Channel) (m : Nat) : (s.modChan n f).peer m = s.peer m := rfl
@[simp] theorem State.modChan_proc (s : State) (n : Nat) (f : Channel → Channel) (m : Nat) : (s.modChan n f).proc m = s.proc m := rfl
@[simp] theorem State.modChan_pslice (s : State) (n : Nat) (f : Channel → Channel) (m : Nat) : (s.modChan n f).pslice m = s.pslice m := rfl
@[simp] theorem State.modChan_queue (s : State) (n : Nat) (f : Channel → Channel) (m : Nat) : (s.modChan n f).queue m = s.queue m := rfl
@[simp] theorem State.modChan_ctx (s : State) (n : Nat) (f : Channel → Channel) (m : Nat) : (s.modChan n f).ctx m = s.ctx m := rfl
@[simp] theorem State.modChan_val (s : State) (n : Nat) (f : Channel → Channel) (row : ObjRow) (m : Nat) : (s.modChan n f).val row m = s.val row m := rfl
@[simp] theorem State.modChan_num (s : State) (n : Nat) (f : Channel → Channel) (row : ObjRow) (m : Nat) : (s.modChan n f).num row m = s.num row m := rfl
@[simp] theorem State.modChan_blob (s : State) (n : Nat) (f : Channel → Channel) (row : ObjRow) (m : Nat) : (s.modChan n f).blob row m = s.blob row m := rfl

/-! ## setEntry -/

@[simp] theorem State.setEntry_pending (s : State) (n : Nat) (e : Entry) : (s.setEntry n e).pending = s.pending := rfl
@[simp] theorem State.setEntry_clk (s : State) (n : Nat) (e : Entry) : (s.setEntry n e).clk = s.clk := rfl
@[simp] theorem State.setEntry_pins (s : State) (n : Nat) (e : Entry) : (s.setEntry n e).pins = s.pins := rfl
@[simp] theorem State.setEntry_rst (s : State) (n : Nat) (e : Entry) : (s.setEntry n e).rst = s.rst := rfl
@[simp] theorem State.setEntry_objs (s : State) (n : Nat) (e : Entry) : (s.setEntry n e).objs = s.objs := rfl
@[simp] theorem State.setEntry_isl (s : State) (n : Nat) (e : Entry) : (s.setEntry n e).isl = s.isl := rfl
@[simp] theorem State.setEntry_slices (s : State) (n : Nat) (e : Entry) : (s.setEntry n e).slices = s.slices := rfl
@[simp] theorem State.setEntry_harts (s : State) (n : Nat) (e : Entry) : (s.setEntry n e).harts = s.harts := rfl
@[simp] theorem State.setEntry_clusters (s : State) (n : Nat) (e : Entry) : (s.setEntry n e).clusters = s.clusters := rfl
@[simp] theorem State.setEntry_tasks (s : State) (n : Nat) (e : Entry) : (s.setEntry n e).tasks = s.tasks := rfl
@[simp] theorem State.setEntry_peers (s : State) (n : Nat) (e : Entry) : (s.setEntry n e).peers = s.peers := rfl
@[simp] theorem State.setEntry_work (s : State) (n : Nat) (e : Entry) : (s.setEntry n e).work = s.work := rfl
@[simp] theorem State.setEntry_media (s : State) (n : Nat) (e : Entry) : (s.setEntry n e).media = s.media := rfl
@[simp] theorem State.setEntry_link (s : State) (n : Nat) (e : Entry) : (s.setEntry n e).link = s.link := rfl
@[simp] theorem State.setEntry_safety (s : State) (n : Nat) (e : Entry) : (s.setEntry n e).safety = s.safety := rfl
@[simp] theorem State.setEntry_power (s : State) (n : Nat) (e : Entry) : (s.setEntry n e).power = s.power := rfl
@[simp] theorem State.setEntry_fw (s : State) (n : Nat) (e : Entry) : (s.setEntry n e).fw = s.fw := rfl
@[simp] theorem State.setEntry_trust (s : State) (n : Nat) (e : Entry) : (s.setEntry n e).trust = s.trust := rfl
@[simp] theorem State.setEntry_pers (s : State) (n : Nat) (e : Entry) : (s.setEntry n e).pers = s.pers := rfl
@[simp] theorem State.setEntry_freeCtr (s : State) (n : Nat) (e : Entry) : (s.setEntry n e).freeCtr = s.freeCtr := rfl
@[simp] theorem State.setEntry_slice (s : State) (n : Nat) (e : Entry) (m : Nat) : (s.setEntry n e).slice m = s.slice m := rfl
@[simp] theorem State.setEntry_hart (s : State) (n : Nat) (e : Entry) (m : Nat) : (s.setEntry n e).hart m = s.hart m := rfl
@[simp] theorem State.setEntry_cluster (s : State) (n : Nat) (e : Entry) (m : Nat) : (s.setEntry n e).cluster m = s.cluster m := rfl
@[simp] theorem State.setEntry_stream (s : State) (n : Nat) (e : Entry) (m : Nat) : (s.setEntry n e).stream m = s.stream m := rfl
@[simp] theorem State.setEntry_peer (s : State) (n : Nat) (e : Entry) (m : Nat) : (s.setEntry n e).peer m = s.peer m := rfl
@[simp] theorem State.setEntry_proc (s : State) (n : Nat) (e : Entry) (m : Nat) : (s.setEntry n e).proc m = s.proc m := rfl
@[simp] theorem State.setEntry_pslice (s : State) (n : Nat) (e : Entry) (m : Nat) : (s.setEntry n e).pslice m = s.pslice m := rfl
@[simp] theorem State.setEntry_queue (s : State) (n : Nat) (e : Entry) (m : Nat) : (s.setEntry n e).queue m = s.queue m := rfl
@[simp] theorem State.setEntry_ctx (s : State) (n : Nat) (e : Entry) (m : Nat) : (s.setEntry n e).ctx m = s.ctx m := rfl
@[simp] theorem State.setEntry_val (s : State) (n : Nat) (e : Entry) (row : ObjRow) (m : Nat) : (s.setEntry n e).val row m = s.val row m := rfl
@[simp] theorem State.setEntry_num (s : State) (n : Nat) (e : Entry) (row : ObjRow) (m : Nat) : (s.setEntry n e).num row m = s.num row m := rfl
@[simp] theorem State.setEntry_blob (s : State) (n : Nat) (e : Entry) (row : ObjRow) (m : Nat) : (s.setEntry n e).blob row m = s.blob row m := rfl

/-! ## writeByte -/

@[simp] theorem State.writeByte_pending (s : State) (a : Nat) (b : Byte) : (s.writeByte a b).pending = s.pending := rfl
@[simp] theorem State.writeByte_clk (s : State) (a : Nat) (b : Byte) : (s.writeByte a b).clk = s.clk := rfl
@[simp] theorem State.writeByte_pins (s : State) (a : Nat) (b : Byte) : (s.writeByte a b).pins = s.pins := rfl
@[simp] theorem State.writeByte_rst (s : State) (a : Nat) (b : Byte) : (s.writeByte a b).rst = s.rst := rfl
@[simp] theorem State.writeByte_objs (s : State) (a : Nat) (b : Byte) : (s.writeByte a b).objs = s.objs := rfl
@[simp] theorem State.writeByte_isl (s : State) (a : Nat) (b : Byte) : (s.writeByte a b).isl = s.isl := rfl
@[simp] theorem State.writeByte_slices (s : State) (a : Nat) (b : Byte) : (s.writeByte a b).slices = s.slices := rfl
@[simp] theorem State.writeByte_harts (s : State) (a : Nat) (b : Byte) : (s.writeByte a b).harts = s.harts := rfl
@[simp] theorem State.writeByte_clusters (s : State) (a : Nat) (b : Byte) : (s.writeByte a b).clusters = s.clusters := rfl
@[simp] theorem State.writeByte_tasks (s : State) (a : Nat) (b : Byte) : (s.writeByte a b).tasks = s.tasks := rfl
@[simp] theorem State.writeByte_peers (s : State) (a : Nat) (b : Byte) : (s.writeByte a b).peers = s.peers := rfl
@[simp] theorem State.writeByte_work (s : State) (a : Nat) (b : Byte) : (s.writeByte a b).work = s.work := rfl
@[simp] theorem State.writeByte_media (s : State) (a : Nat) (b : Byte) : (s.writeByte a b).media = s.media := rfl
@[simp] theorem State.writeByte_link (s : State) (a : Nat) (b : Byte) : (s.writeByte a b).link = s.link := rfl
@[simp] theorem State.writeByte_safety (s : State) (a : Nat) (b : Byte) : (s.writeByte a b).safety = s.safety := rfl
@[simp] theorem State.writeByte_power (s : State) (a : Nat) (b : Byte) : (s.writeByte a b).power = s.power := rfl
@[simp] theorem State.writeByte_fw (s : State) (a : Nat) (b : Byte) : (s.writeByte a b).fw = s.fw := rfl
@[simp] theorem State.writeByte_trust (s : State) (a : Nat) (b : Byte) : (s.writeByte a b).trust = s.trust := rfl
@[simp] theorem State.writeByte_pers (s : State) (a : Nat) (b : Byte) : (s.writeByte a b).pers = s.pers := rfl
@[simp] theorem State.writeByte_freeCtr (s : State) (a : Nat) (b : Byte) : (s.writeByte a b).freeCtr = s.freeCtr := rfl
@[simp] theorem State.writeByte_slice (s : State) (a : Nat) (b : Byte) (m : Nat) : (s.writeByte a b).slice m = s.slice m := rfl
@[simp] theorem State.writeByte_hart (s : State) (a : Nat) (b : Byte) (m : Nat) : (s.writeByte a b).hart m = s.hart m := rfl
@[simp] theorem State.writeByte_cluster (s : State) (a : Nat) (b : Byte) (m : Nat) : (s.writeByte a b).cluster m = s.cluster m := rfl
@[simp] theorem State.writeByte_stream (s : State) (a : Nat) (b : Byte) (m : Nat) : (s.writeByte a b).stream m = s.stream m := rfl
@[simp] theorem State.writeByte_peer (s : State) (a : Nat) (b : Byte) (m : Nat) : (s.writeByte a b).peer m = s.peer m := rfl
@[simp] theorem State.writeByte_proc (s : State) (a : Nat) (b : Byte) (m : Nat) : (s.writeByte a b).proc m = s.proc m := rfl
@[simp] theorem State.writeByte_pslice (s : State) (a : Nat) (b : Byte) (m : Nat) : (s.writeByte a b).pslice m = s.pslice m := rfl
@[simp] theorem State.writeByte_queue (s : State) (a : Nat) (b : Byte) (m : Nat) : (s.writeByte a b).queue m = s.queue m := rfl
@[simp] theorem State.writeByte_ctx (s : State) (a : Nat) (b : Byte) (m : Nat) : (s.writeByte a b).ctx m = s.ctx m := rfl
@[simp] theorem State.writeByte_val (s : State) (a : Nat) (b : Byte) (row : ObjRow) (m : Nat) : (s.writeByte a b).val row m = s.val row m := rfl
@[simp] theorem State.writeByte_num (s : State) (a : Nat) (b : Byte) (row : ObjRow) (m : Nat) : (s.writeByte a b).num row m = s.num row m := rfl
@[simp] theorem State.writeByte_blob (s : State) (a : Nat) (b : Byte) (row : ObjRow) (m : Nat) : (s.writeByte a b).blob row m = s.blob row m := rfl

/-! ## setPeer -/

@[simp] theorem State.setPeer_pending (s : State) (n : Nat) (x : Peer) : (s.setPeer n x).pending = s.pending := rfl
@[simp] theorem State.setPeer_clk (s : State) (n : Nat) (x : Peer) : (s.setPeer n x).clk = s.clk := rfl
@[simp] theorem State.setPeer_pins (s : State) (n : Nat) (x : Peer) : (s.setPeer n x).pins = s.pins := rfl
@[simp] theorem State.setPeer_rst (s : State) (n : Nat) (x : Peer) : (s.setPeer n x).rst = s.rst := rfl
@[simp] theorem State.setPeer_objs (s : State) (n : Nat) (x : Peer) : (s.setPeer n x).objs = s.objs := rfl
@[simp] theorem State.setPeer_isl (s : State) (n : Nat) (x : Peer) : (s.setPeer n x).isl = s.isl := rfl
@[simp] theorem State.setPeer_slices (s : State) (n : Nat) (x : Peer) : (s.setPeer n x).slices = s.slices := rfl
@[simp] theorem State.setPeer_harts (s : State) (n : Nat) (x : Peer) : (s.setPeer n x).harts = s.harts := rfl
@[simp] theorem State.setPeer_clusters (s : State) (n : Nat) (x : Peer) : (s.setPeer n x).clusters = s.clusters := rfl
@[simp] theorem State.setPeer_tasks (s : State) (n : Nat) (x : Peer) : (s.setPeer n x).tasks = s.tasks := rfl
@[simp] theorem State.setPeer_mem (s : State) (n : Nat) (x : Peer) : (s.setPeer n x).mem = s.mem := rfl
@[simp] theorem State.setPeer_work (s : State) (n : Nat) (x : Peer) : (s.setPeer n x).work = s.work := rfl
@[simp] theorem State.setPeer_media (s : State) (n : Nat) (x : Peer) : (s.setPeer n x).media = s.media := rfl
@[simp] theorem State.setPeer_link (s : State) (n : Nat) (x : Peer) : (s.setPeer n x).link = s.link := rfl
@[simp] theorem State.setPeer_safety (s : State) (n : Nat) (x : Peer) : (s.setPeer n x).safety = s.safety := rfl
@[simp] theorem State.setPeer_power (s : State) (n : Nat) (x : Peer) : (s.setPeer n x).power = s.power := rfl
@[simp] theorem State.setPeer_fw (s : State) (n : Nat) (x : Peer) : (s.setPeer n x).fw = s.fw := rfl
@[simp] theorem State.setPeer_trust (s : State) (n : Nat) (x : Peer) : (s.setPeer n x).trust = s.trust := rfl
@[simp] theorem State.setPeer_pers (s : State) (n : Nat) (x : Peer) : (s.setPeer n x).pers = s.pers := rfl
@[simp] theorem State.setPeer_freeCtr (s : State) (n : Nat) (x : Peer) : (s.setPeer n x).freeCtr = s.freeCtr := rfl
@[simp] theorem State.setPeer_slice (s : State) (n : Nat) (x : Peer) (m : Nat) : (s.setPeer n x).slice m = s.slice m := rfl
@[simp] theorem State.setPeer_hart (s : State) (n : Nat) (x : Peer) (m : Nat) : (s.setPeer n x).hart m = s.hart m := rfl
@[simp] theorem State.setPeer_cluster (s : State) (n : Nat) (x : Peer) (m : Nat) : (s.setPeer n x).cluster m = s.cluster m := rfl
@[simp] theorem State.setPeer_stream (s : State) (n : Nat) (x : Peer) (m : Nat) : (s.setPeer n x).stream m = s.stream m := rfl
@[simp] theorem State.setPeer_chan (s : State) (n : Nat) (x : Peer) (m : Nat) : (s.setPeer n x).chan m = s.chan m := rfl
@[simp] theorem State.setPeer_entry (s : State) (n : Nat) (x : Peer) (m : Nat) : (s.setPeer n x).entry m = s.entry m := rfl
@[simp] theorem State.setPeer_proc (s : State) (n : Nat) (x : Peer) (m : Nat) : (s.setPeer n x).proc m = s.proc m := rfl
@[simp] theorem State.setPeer_pslice (s : State) (n : Nat) (x : Peer) (m : Nat) : (s.setPeer n x).pslice m = s.pslice m := rfl
@[simp] theorem State.setPeer_queue (s : State) (n : Nat) (x : Peer) (m : Nat) : (s.setPeer n x).queue m = s.queue m := rfl
@[simp] theorem State.setPeer_ctx (s : State) (n : Nat) (x : Peer) (m : Nat) : (s.setPeer n x).ctx m = s.ctx m := rfl
@[simp] theorem State.setPeer_val (s : State) (n : Nat) (x : Peer) (row : ObjRow) (m : Nat) : (s.setPeer n x).val row m = s.val row m := rfl
@[simp] theorem State.setPeer_num (s : State) (n : Nat) (x : Peer) (row : ObjRow) (m : Nat) : (s.setPeer n x).num row m = s.num row m := rfl
@[simp] theorem State.setPeer_blob (s : State) (n : Nat) (x : Peer) (row : ObjRow) (m : Nat) : (s.setPeer n x).blob row m = s.blob row m := rfl

/-! ## modPeer -/

@[simp] theorem State.modPeer_pending (s : State) (n : Nat) (f : Peer → Peer) : (s.modPeer n f).pending = s.pending := rfl
@[simp] theorem State.modPeer_clk (s : State) (n : Nat) (f : Peer → Peer) : (s.modPeer n f).clk = s.clk := rfl
@[simp] theorem State.modPeer_pins (s : State) (n : Nat) (f : Peer → Peer) : (s.modPeer n f).pins = s.pins := rfl
@[simp] theorem State.modPeer_rst (s : State) (n : Nat) (f : Peer → Peer) : (s.modPeer n f).rst = s.rst := rfl
@[simp] theorem State.modPeer_objs (s : State) (n : Nat) (f : Peer → Peer) : (s.modPeer n f).objs = s.objs := rfl
@[simp] theorem State.modPeer_isl (s : State) (n : Nat) (f : Peer → Peer) : (s.modPeer n f).isl = s.isl := rfl
@[simp] theorem State.modPeer_slices (s : State) (n : Nat) (f : Peer → Peer) : (s.modPeer n f).slices = s.slices := rfl
@[simp] theorem State.modPeer_harts (s : State) (n : Nat) (f : Peer → Peer) : (s.modPeer n f).harts = s.harts := rfl
@[simp] theorem State.modPeer_clusters (s : State) (n : Nat) (f : Peer → Peer) : (s.modPeer n f).clusters = s.clusters := rfl
@[simp] theorem State.modPeer_tasks (s : State) (n : Nat) (f : Peer → Peer) : (s.modPeer n f).tasks = s.tasks := rfl
@[simp] theorem State.modPeer_mem (s : State) (n : Nat) (f : Peer → Peer) : (s.modPeer n f).mem = s.mem := rfl
@[simp] theorem State.modPeer_work (s : State) (n : Nat) (f : Peer → Peer) : (s.modPeer n f).work = s.work := rfl
@[simp] theorem State.modPeer_media (s : State) (n : Nat) (f : Peer → Peer) : (s.modPeer n f).media = s.media := rfl
@[simp] theorem State.modPeer_link (s : State) (n : Nat) (f : Peer → Peer) : (s.modPeer n f).link = s.link := rfl
@[simp] theorem State.modPeer_safety (s : State) (n : Nat) (f : Peer → Peer) : (s.modPeer n f).safety = s.safety := rfl
@[simp] theorem State.modPeer_power (s : State) (n : Nat) (f : Peer → Peer) : (s.modPeer n f).power = s.power := rfl
@[simp] theorem State.modPeer_fw (s : State) (n : Nat) (f : Peer → Peer) : (s.modPeer n f).fw = s.fw := rfl
@[simp] theorem State.modPeer_trust (s : State) (n : Nat) (f : Peer → Peer) : (s.modPeer n f).trust = s.trust := rfl
@[simp] theorem State.modPeer_pers (s : State) (n : Nat) (f : Peer → Peer) : (s.modPeer n f).pers = s.pers := rfl
@[simp] theorem State.modPeer_freeCtr (s : State) (n : Nat) (f : Peer → Peer) : (s.modPeer n f).freeCtr = s.freeCtr := rfl
@[simp] theorem State.modPeer_slice (s : State) (n : Nat) (f : Peer → Peer) (m : Nat) : (s.modPeer n f).slice m = s.slice m := rfl
@[simp] theorem State.modPeer_hart (s : State) (n : Nat) (f : Peer → Peer) (m : Nat) : (s.modPeer n f).hart m = s.hart m := rfl
@[simp] theorem State.modPeer_cluster (s : State) (n : Nat) (f : Peer → Peer) (m : Nat) : (s.modPeer n f).cluster m = s.cluster m := rfl
@[simp] theorem State.modPeer_stream (s : State) (n : Nat) (f : Peer → Peer) (m : Nat) : (s.modPeer n f).stream m = s.stream m := rfl
@[simp] theorem State.modPeer_chan (s : State) (n : Nat) (f : Peer → Peer) (m : Nat) : (s.modPeer n f).chan m = s.chan m := rfl
@[simp] theorem State.modPeer_entry (s : State) (n : Nat) (f : Peer → Peer) (m : Nat) : (s.modPeer n f).entry m = s.entry m := rfl
@[simp] theorem State.modPeer_proc (s : State) (n : Nat) (f : Peer → Peer) (m : Nat) : (s.modPeer n f).proc m = s.proc m := rfl
@[simp] theorem State.modPeer_pslice (s : State) (n : Nat) (f : Peer → Peer) (m : Nat) : (s.modPeer n f).pslice m = s.pslice m := rfl
@[simp] theorem State.modPeer_queue (s : State) (n : Nat) (f : Peer → Peer) (m : Nat) : (s.modPeer n f).queue m = s.queue m := rfl
@[simp] theorem State.modPeer_ctx (s : State) (n : Nat) (f : Peer → Peer) (m : Nat) : (s.modPeer n f).ctx m = s.ctx m := rfl
@[simp] theorem State.modPeer_val (s : State) (n : Nat) (f : Peer → Peer) (row : ObjRow) (m : Nat) : (s.modPeer n f).val row m = s.val row m := rfl
@[simp] theorem State.modPeer_num (s : State) (n : Nat) (f : Peer → Peer) (row : ObjRow) (m : Nat) : (s.modPeer n f).num row m = s.num row m := rfl
@[simp] theorem State.modPeer_blob (s : State) (n : Nat) (f : Peer → Peer) (row : ObjRow) (m : Nat) : (s.modPeer n f).blob row m = s.blob row m := rfl

/-! ## setProc -/

@[simp] theorem State.setProc_pending (s : State) (n : Nat) (x : Proc) : (s.setProc n x).pending = s.pending := rfl
@[simp] theorem State.setProc_clk (s : State) (n : Nat) (x : Proc) : (s.setProc n x).clk = s.clk := rfl
@[simp] theorem State.setProc_pins (s : State) (n : Nat) (x : Proc) : (s.setProc n x).pins = s.pins := rfl
@[simp] theorem State.setProc_rst (s : State) (n : Nat) (x : Proc) : (s.setProc n x).rst = s.rst := rfl
@[simp] theorem State.setProc_objs (s : State) (n : Nat) (x : Proc) : (s.setProc n x).objs = s.objs := rfl
@[simp] theorem State.setProc_isl (s : State) (n : Nat) (x : Proc) : (s.setProc n x).isl = s.isl := rfl
@[simp] theorem State.setProc_slices (s : State) (n : Nat) (x : Proc) : (s.setProc n x).slices = s.slices := rfl
@[simp] theorem State.setProc_harts (s : State) (n : Nat) (x : Proc) : (s.setProc n x).harts = s.harts := rfl
@[simp] theorem State.setProc_clusters (s : State) (n : Nat) (x : Proc) : (s.setProc n x).clusters = s.clusters := rfl
@[simp] theorem State.setProc_tasks (s : State) (n : Nat) (x : Proc) : (s.setProc n x).tasks = s.tasks := rfl
@[simp] theorem State.setProc_mem (s : State) (n : Nat) (x : Proc) : (s.setProc n x).mem = s.mem := rfl
@[simp] theorem State.setProc_peers (s : State) (n : Nat) (x : Proc) : (s.setProc n x).peers = s.peers := rfl
@[simp] theorem State.setProc_work (s : State) (n : Nat) (x : Proc) : (s.setProc n x).work = s.work := rfl
@[simp] theorem State.setProc_media (s : State) (n : Nat) (x : Proc) : (s.setProc n x).media = s.media := rfl
@[simp] theorem State.setProc_link (s : State) (n : Nat) (x : Proc) : (s.setProc n x).link = s.link := rfl
@[simp] theorem State.setProc_safety (s : State) (n : Nat) (x : Proc) : (s.setProc n x).safety = s.safety := rfl
@[simp] theorem State.setProc_power (s : State) (n : Nat) (x : Proc) : (s.setProc n x).power = s.power := rfl
@[simp] theorem State.setProc_trust (s : State) (n : Nat) (x : Proc) : (s.setProc n x).trust = s.trust := rfl
@[simp] theorem State.setProc_pers (s : State) (n : Nat) (x : Proc) : (s.setProc n x).pers = s.pers := rfl
@[simp] theorem State.setProc_freeCtr (s : State) (n : Nat) (x : Proc) : (s.setProc n x).freeCtr = s.freeCtr := rfl
@[simp] theorem State.setProc_slice (s : State) (n : Nat) (x : Proc) (m : Nat) : (s.setProc n x).slice m = s.slice m := rfl
@[simp] theorem State.setProc_hart (s : State) (n : Nat) (x : Proc) (m : Nat) : (s.setProc n x).hart m = s.hart m := rfl
@[simp] theorem State.setProc_cluster (s : State) (n : Nat) (x : Proc) (m : Nat) : (s.setProc n x).cluster m = s.cluster m := rfl
@[simp] theorem State.setProc_stream (s : State) (n : Nat) (x : Proc) (m : Nat) : (s.setProc n x).stream m = s.stream m := rfl
@[simp] theorem State.setProc_chan (s : State) (n : Nat) (x : Proc) (m : Nat) : (s.setProc n x).chan m = s.chan m := rfl
@[simp] theorem State.setProc_entry (s : State) (n : Nat) (x : Proc) (m : Nat) : (s.setProc n x).entry m = s.entry m := rfl
@[simp] theorem State.setProc_peer (s : State) (n : Nat) (x : Proc) (m : Nat) : (s.setProc n x).peer m = s.peer m := rfl
@[simp] theorem State.setProc_pslice (s : State) (n : Nat) (x : Proc) (m : Nat) : (s.setProc n x).pslice m = s.pslice m := rfl
@[simp] theorem State.setProc_queue (s : State) (n : Nat) (x : Proc) (m : Nat) : (s.setProc n x).queue m = s.queue m := rfl
@[simp] theorem State.setProc_ctx (s : State) (n : Nat) (x : Proc) (m : Nat) : (s.setProc n x).ctx m = s.ctx m := rfl
@[simp] theorem State.setProc_val (s : State) (n : Nat) (x : Proc) (row : ObjRow) (m : Nat) : (s.setProc n x).val row m = s.val row m := rfl
@[simp] theorem State.setProc_num (s : State) (n : Nat) (x : Proc) (row : ObjRow) (m : Nat) : (s.setProc n x).num row m = s.num row m := rfl
@[simp] theorem State.setProc_blob (s : State) (n : Nat) (x : Proc) (row : ObjRow) (m : Nat) : (s.setProc n x).blob row m = s.blob row m := rfl

/-! ## modProc -/

@[simp] theorem State.modProc_pending (s : State) (n : Nat) (f : Proc → Proc) : (s.modProc n f).pending = s.pending := rfl
@[simp] theorem State.modProc_clk (s : State) (n : Nat) (f : Proc → Proc) : (s.modProc n f).clk = s.clk := rfl
@[simp] theorem State.modProc_pins (s : State) (n : Nat) (f : Proc → Proc) : (s.modProc n f).pins = s.pins := rfl
@[simp] theorem State.modProc_rst (s : State) (n : Nat) (f : Proc → Proc) : (s.modProc n f).rst = s.rst := rfl
@[simp] theorem State.modProc_objs (s : State) (n : Nat) (f : Proc → Proc) : (s.modProc n f).objs = s.objs := rfl
@[simp] theorem State.modProc_isl (s : State) (n : Nat) (f : Proc → Proc) : (s.modProc n f).isl = s.isl := rfl
@[simp] theorem State.modProc_slices (s : State) (n : Nat) (f : Proc → Proc) : (s.modProc n f).slices = s.slices := rfl
@[simp] theorem State.modProc_harts (s : State) (n : Nat) (f : Proc → Proc) : (s.modProc n f).harts = s.harts := rfl
@[simp] theorem State.modProc_clusters (s : State) (n : Nat) (f : Proc → Proc) : (s.modProc n f).clusters = s.clusters := rfl
@[simp] theorem State.modProc_tasks (s : State) (n : Nat) (f : Proc → Proc) : (s.modProc n f).tasks = s.tasks := rfl
@[simp] theorem State.modProc_mem (s : State) (n : Nat) (f : Proc → Proc) : (s.modProc n f).mem = s.mem := rfl
@[simp] theorem State.modProc_peers (s : State) (n : Nat) (f : Proc → Proc) : (s.modProc n f).peers = s.peers := rfl
@[simp] theorem State.modProc_work (s : State) (n : Nat) (f : Proc → Proc) : (s.modProc n f).work = s.work := rfl
@[simp] theorem State.modProc_media (s : State) (n : Nat) (f : Proc → Proc) : (s.modProc n f).media = s.media := rfl
@[simp] theorem State.modProc_link (s : State) (n : Nat) (f : Proc → Proc) : (s.modProc n f).link = s.link := rfl
@[simp] theorem State.modProc_safety (s : State) (n : Nat) (f : Proc → Proc) : (s.modProc n f).safety = s.safety := rfl
@[simp] theorem State.modProc_power (s : State) (n : Nat) (f : Proc → Proc) : (s.modProc n f).power = s.power := rfl
@[simp] theorem State.modProc_trust (s : State) (n : Nat) (f : Proc → Proc) : (s.modProc n f).trust = s.trust := rfl
@[simp] theorem State.modProc_pers (s : State) (n : Nat) (f : Proc → Proc) : (s.modProc n f).pers = s.pers := rfl
@[simp] theorem State.modProc_freeCtr (s : State) (n : Nat) (f : Proc → Proc) : (s.modProc n f).freeCtr = s.freeCtr := rfl
@[simp] theorem State.modProc_slice (s : State) (n : Nat) (f : Proc → Proc) (m : Nat) : (s.modProc n f).slice m = s.slice m := rfl
@[simp] theorem State.modProc_hart (s : State) (n : Nat) (f : Proc → Proc) (m : Nat) : (s.modProc n f).hart m = s.hart m := rfl
@[simp] theorem State.modProc_cluster (s : State) (n : Nat) (f : Proc → Proc) (m : Nat) : (s.modProc n f).cluster m = s.cluster m := rfl
@[simp] theorem State.modProc_stream (s : State) (n : Nat) (f : Proc → Proc) (m : Nat) : (s.modProc n f).stream m = s.stream m := rfl
@[simp] theorem State.modProc_chan (s : State) (n : Nat) (f : Proc → Proc) (m : Nat) : (s.modProc n f).chan m = s.chan m := rfl
@[simp] theorem State.modProc_entry (s : State) (n : Nat) (f : Proc → Proc) (m : Nat) : (s.modProc n f).entry m = s.entry m := rfl
@[simp] theorem State.modProc_peer (s : State) (n : Nat) (f : Proc → Proc) (m : Nat) : (s.modProc n f).peer m = s.peer m := rfl
@[simp] theorem State.modProc_pslice (s : State) (n : Nat) (f : Proc → Proc) (m : Nat) : (s.modProc n f).pslice m = s.pslice m := rfl
@[simp] theorem State.modProc_queue (s : State) (n : Nat) (f : Proc → Proc) (m : Nat) : (s.modProc n f).queue m = s.queue m := rfl
@[simp] theorem State.modProc_ctx (s : State) (n : Nat) (f : Proc → Proc) (m : Nat) : (s.modProc n f).ctx m = s.ctx m := rfl
@[simp] theorem State.modProc_val (s : State) (n : Nat) (f : Proc → Proc) (row : ObjRow) (m : Nat) : (s.modProc n f).val row m = s.val row m := rfl
@[simp] theorem State.modProc_num (s : State) (n : Nat) (f : Proc → Proc) (row : ObjRow) (m : Nat) : (s.modProc n f).num row m = s.num row m := rfl
@[simp] theorem State.modProc_blob (s : State) (n : Nat) (f : Proc → Proc) (row : ObjRow) (m : Nat) : (s.modProc n f).blob row m = s.blob row m := rfl

/-! ## modPslice -/

@[simp] theorem State.modPslice_pending (s : State) (n : Nat) (f : PowerSlice → PowerSlice) : (s.modPslice n f).pending = s.pending := rfl
@[simp] theorem State.modPslice_clk (s : State) (n : Nat) (f : PowerSlice → PowerSlice) : (s.modPslice n f).clk = s.clk := rfl
@[simp] theorem State.modPslice_pins (s : State) (n : Nat) (f : PowerSlice → PowerSlice) : (s.modPslice n f).pins = s.pins := rfl
@[simp] theorem State.modPslice_rst (s : State) (n : Nat) (f : PowerSlice → PowerSlice) : (s.modPslice n f).rst = s.rst := rfl
@[simp] theorem State.modPslice_objs (s : State) (n : Nat) (f : PowerSlice → PowerSlice) : (s.modPslice n f).objs = s.objs := rfl
@[simp] theorem State.modPslice_isl (s : State) (n : Nat) (f : PowerSlice → PowerSlice) : (s.modPslice n f).isl = s.isl := rfl
@[simp] theorem State.modPslice_slices (s : State) (n : Nat) (f : PowerSlice → PowerSlice) : (s.modPslice n f).slices = s.slices := rfl
@[simp] theorem State.modPslice_harts (s : State) (n : Nat) (f : PowerSlice → PowerSlice) : (s.modPslice n f).harts = s.harts := rfl
@[simp] theorem State.modPslice_clusters (s : State) (n : Nat) (f : PowerSlice → PowerSlice) : (s.modPslice n f).clusters = s.clusters := rfl
@[simp] theorem State.modPslice_tasks (s : State) (n : Nat) (f : PowerSlice → PowerSlice) : (s.modPslice n f).tasks = s.tasks := rfl
@[simp] theorem State.modPslice_mem (s : State) (n : Nat) (f : PowerSlice → PowerSlice) : (s.modPslice n f).mem = s.mem := rfl
@[simp] theorem State.modPslice_peers (s : State) (n : Nat) (f : PowerSlice → PowerSlice) : (s.modPslice n f).peers = s.peers := rfl
@[simp] theorem State.modPslice_work (s : State) (n : Nat) (f : PowerSlice → PowerSlice) : (s.modPslice n f).work = s.work := rfl
@[simp] theorem State.modPslice_media (s : State) (n : Nat) (f : PowerSlice → PowerSlice) : (s.modPslice n f).media = s.media := rfl
@[simp] theorem State.modPslice_link (s : State) (n : Nat) (f : PowerSlice → PowerSlice) : (s.modPslice n f).link = s.link := rfl
@[simp] theorem State.modPslice_safety (s : State) (n : Nat) (f : PowerSlice → PowerSlice) : (s.modPslice n f).safety = s.safety := rfl
@[simp] theorem State.modPslice_fw (s : State) (n : Nat) (f : PowerSlice → PowerSlice) : (s.modPslice n f).fw = s.fw := rfl
@[simp] theorem State.modPslice_trust (s : State) (n : Nat) (f : PowerSlice → PowerSlice) : (s.modPslice n f).trust = s.trust := rfl
@[simp] theorem State.modPslice_pers (s : State) (n : Nat) (f : PowerSlice → PowerSlice) : (s.modPslice n f).pers = s.pers := rfl
@[simp] theorem State.modPslice_freeCtr (s : State) (n : Nat) (f : PowerSlice → PowerSlice) : (s.modPslice n f).freeCtr = s.freeCtr := rfl
@[simp] theorem State.modPslice_slice (s : State) (n : Nat) (f : PowerSlice → PowerSlice) (m : Nat) : (s.modPslice n f).slice m = s.slice m := rfl
@[simp] theorem State.modPslice_hart (s : State) (n : Nat) (f : PowerSlice → PowerSlice) (m : Nat) : (s.modPslice n f).hart m = s.hart m := rfl
@[simp] theorem State.modPslice_cluster (s : State) (n : Nat) (f : PowerSlice → PowerSlice) (m : Nat) : (s.modPslice n f).cluster m = s.cluster m := rfl
@[simp] theorem State.modPslice_stream (s : State) (n : Nat) (f : PowerSlice → PowerSlice) (m : Nat) : (s.modPslice n f).stream m = s.stream m := rfl
@[simp] theorem State.modPslice_chan (s : State) (n : Nat) (f : PowerSlice → PowerSlice) (m : Nat) : (s.modPslice n f).chan m = s.chan m := rfl
@[simp] theorem State.modPslice_entry (s : State) (n : Nat) (f : PowerSlice → PowerSlice) (m : Nat) : (s.modPslice n f).entry m = s.entry m := rfl
@[simp] theorem State.modPslice_peer (s : State) (n : Nat) (f : PowerSlice → PowerSlice) (m : Nat) : (s.modPslice n f).peer m = s.peer m := rfl
@[simp] theorem State.modPslice_proc (s : State) (n : Nat) (f : PowerSlice → PowerSlice) (m : Nat) : (s.modPslice n f).proc m = s.proc m := rfl
@[simp] theorem State.modPslice_queue (s : State) (n : Nat) (f : PowerSlice → PowerSlice) (m : Nat) : (s.modPslice n f).queue m = s.queue m := rfl
@[simp] theorem State.modPslice_ctx (s : State) (n : Nat) (f : PowerSlice → PowerSlice) (m : Nat) : (s.modPslice n f).ctx m = s.ctx m := rfl
@[simp] theorem State.modPslice_val (s : State) (n : Nat) (f : PowerSlice → PowerSlice) (row : ObjRow) (m : Nat) : (s.modPslice n f).val row m = s.val row m := rfl
@[simp] theorem State.modPslice_num (s : State) (n : Nat) (f : PowerSlice → PowerSlice) (row : ObjRow) (m : Nat) : (s.modPslice n f).num row m = s.num row m := rfl
@[simp] theorem State.modPslice_blob (s : State) (n : Nat) (f : PowerSlice → PowerSlice) (row : ObjRow) (m : Nat) : (s.modPslice n f).blob row m = s.blob row m := rfl

/-! ## noteChange -/

@[simp] theorem State.noteChange_pending (s : State) (q : Option Nat) : (s.noteChange q).pending = s.pending := rfl
@[simp] theorem State.noteChange_clk (s : State) (q : Option Nat) : (s.noteChange q).clk = s.clk := rfl
@[simp] theorem State.noteChange_pins (s : State) (q : Option Nat) : (s.noteChange q).pins = s.pins := rfl
@[simp] theorem State.noteChange_rst (s : State) (q : Option Nat) : (s.noteChange q).rst = s.rst := rfl
@[simp] theorem State.noteChange_objs (s : State) (q : Option Nat) : (s.noteChange q).objs = s.objs := rfl
@[simp] theorem State.noteChange_isl (s : State) (q : Option Nat) : (s.noteChange q).isl = s.isl := rfl
@[simp] theorem State.noteChange_slices (s : State) (q : Option Nat) : (s.noteChange q).slices = s.slices := rfl
@[simp] theorem State.noteChange_harts (s : State) (q : Option Nat) : (s.noteChange q).harts = s.harts := rfl
@[simp] theorem State.noteChange_clusters (s : State) (q : Option Nat) : (s.noteChange q).clusters = s.clusters := rfl
@[simp] theorem State.noteChange_tasks (s : State) (q : Option Nat) : (s.noteChange q).tasks = s.tasks := rfl
@[simp] theorem State.noteChange_mem (s : State) (q : Option Nat) : (s.noteChange q).mem = s.mem := rfl
@[simp] theorem State.noteChange_peers (s : State) (q : Option Nat) : (s.noteChange q).peers = s.peers := rfl
@[simp] theorem State.noteChange_work (s : State) (q : Option Nat) : (s.noteChange q).work = s.work := rfl
@[simp] theorem State.noteChange_media (s : State) (q : Option Nat) : (s.noteChange q).media = s.media := rfl
@[simp] theorem State.noteChange_safety (s : State) (q : Option Nat) : (s.noteChange q).safety = s.safety := rfl
@[simp] theorem State.noteChange_power (s : State) (q : Option Nat) : (s.noteChange q).power = s.power := rfl
@[simp] theorem State.noteChange_fw (s : State) (q : Option Nat) : (s.noteChange q).fw = s.fw := rfl
@[simp] theorem State.noteChange_trust (s : State) (q : Option Nat) : (s.noteChange q).trust = s.trust := rfl
@[simp] theorem State.noteChange_pers (s : State) (q : Option Nat) : (s.noteChange q).pers = s.pers := rfl
@[simp] theorem State.noteChange_freeCtr (s : State) (q : Option Nat) : (s.noteChange q).freeCtr = s.freeCtr := rfl
@[simp] theorem State.noteChange_slice (s : State) (q : Option Nat) (m : Nat) : (s.noteChange q).slice m = s.slice m := rfl
@[simp] theorem State.noteChange_hart (s : State) (q : Option Nat) (m : Nat) : (s.noteChange q).hart m = s.hart m := rfl
@[simp] theorem State.noteChange_cluster (s : State) (q : Option Nat) (m : Nat) : (s.noteChange q).cluster m = s.cluster m := rfl
@[simp] theorem State.noteChange_stream (s : State) (q : Option Nat) (m : Nat) : (s.noteChange q).stream m = s.stream m := rfl
@[simp] theorem State.noteChange_chan (s : State) (q : Option Nat) (m : Nat) : (s.noteChange q).chan m = s.chan m := rfl
@[simp] theorem State.noteChange_entry (s : State) (q : Option Nat) (m : Nat) : (s.noteChange q).entry m = s.entry m := rfl
@[simp] theorem State.noteChange_peer (s : State) (q : Option Nat) (m : Nat) : (s.noteChange q).peer m = s.peer m := rfl
@[simp] theorem State.noteChange_proc (s : State) (q : Option Nat) (m : Nat) : (s.noteChange q).proc m = s.proc m := rfl
@[simp] theorem State.noteChange_pslice (s : State) (q : Option Nat) (m : Nat) : (s.noteChange q).pslice m = s.pslice m := rfl
@[simp] theorem State.noteChange_queue (s : State) (q : Option Nat) (m : Nat) : (s.noteChange q).queue m = s.queue m := rfl
@[simp] theorem State.noteChange_ctx (s : State) (q : Option Nat) (m : Nat) : (s.noteChange q).ctx m = s.ctx m := rfl
@[simp] theorem State.noteChange_val (s : State) (q : Option Nat) (row : ObjRow) (m : Nat) : (s.noteChange q).val row m = s.val row m := rfl
@[simp] theorem State.noteChange_num (s : State) (q : Option Nat) (row : ObjRow) (m : Nat) : (s.noteChange q).num row m = s.num row m := rfl
@[simp] theorem State.noteChange_blob (s : State) (q : Option Nat) (row : ObjRow) (m : Nat) : (s.noteChange q).blob row m = s.blob row m := rfl

/-! ## postFault -/

@[simp] theorem State.postFault_pending (s : State) (status scope unit : Nat) (d : Bytes) : (s.postFault status scope unit d).pending = s.pending := rfl
@[simp] theorem State.postFault_clk (s : State) (status scope unit : Nat) (d : Bytes) : (s.postFault status scope unit d).clk = s.clk := rfl
@[simp] theorem State.postFault_pins (s : State) (status scope unit : Nat) (d : Bytes) : (s.postFault status scope unit d).pins = s.pins := rfl
@[simp] theorem State.postFault_rst (s : State) (status scope unit : Nat) (d : Bytes) : (s.postFault status scope unit d).rst = s.rst := rfl
@[simp] theorem State.postFault_objs (s : State) (status scope unit : Nat) (d : Bytes) : (s.postFault status scope unit d).objs = s.objs := rfl
@[simp] theorem State.postFault_slices (s : State) (status scope unit : Nat) (d : Bytes) : (s.postFault status scope unit d).slices = s.slices := rfl
@[simp] theorem State.postFault_harts (s : State) (status scope unit : Nat) (d : Bytes) : (s.postFault status scope unit d).harts = s.harts := rfl
@[simp] theorem State.postFault_clusters (s : State) (status scope unit : Nat) (d : Bytes) : (s.postFault status scope unit d).clusters = s.clusters := rfl
@[simp] theorem State.postFault_tasks (s : State) (status scope unit : Nat) (d : Bytes) : (s.postFault status scope unit d).tasks = s.tasks := rfl
@[simp] theorem State.postFault_mem (s : State) (status scope unit : Nat) (d : Bytes) : (s.postFault status scope unit d).mem = s.mem := rfl
@[simp] theorem State.postFault_peers (s : State) (status scope unit : Nat) (d : Bytes) : (s.postFault status scope unit d).peers = s.peers := rfl
@[simp] theorem State.postFault_work (s : State) (status scope unit : Nat) (d : Bytes) : (s.postFault status scope unit d).work = s.work := rfl
@[simp] theorem State.postFault_media (s : State) (status scope unit : Nat) (d : Bytes) : (s.postFault status scope unit d).media = s.media := rfl
@[simp] theorem State.postFault_link (s : State) (status scope unit : Nat) (d : Bytes) : (s.postFault status scope unit d).link = s.link := rfl
@[simp] theorem State.postFault_safety (s : State) (status scope unit : Nat) (d : Bytes) : (s.postFault status scope unit d).safety = s.safety := rfl
@[simp] theorem State.postFault_power (s : State) (status scope unit : Nat) (d : Bytes) : (s.postFault status scope unit d).power = s.power := rfl
@[simp] theorem State.postFault_fw (s : State) (status scope unit : Nat) (d : Bytes) : (s.postFault status scope unit d).fw = s.fw := rfl
@[simp] theorem State.postFault_trust (s : State) (status scope unit : Nat) (d : Bytes) : (s.postFault status scope unit d).trust = s.trust := rfl
@[simp] theorem State.postFault_pers (s : State) (status scope unit : Nat) (d : Bytes) : (s.postFault status scope unit d).pers = s.pers := rfl
@[simp] theorem State.postFault_freeCtr (s : State) (status scope unit : Nat) (d : Bytes) : (s.postFault status scope unit d).freeCtr = s.freeCtr := rfl
@[simp] theorem State.postFault_slice (s : State) (status scope unit : Nat) (d : Bytes) (m : Nat) : (s.postFault status scope unit d).slice m = s.slice m := rfl
@[simp] theorem State.postFault_hart (s : State) (status scope unit : Nat) (d : Bytes) (m : Nat) : (s.postFault status scope unit d).hart m = s.hart m := rfl
@[simp] theorem State.postFault_cluster (s : State) (status scope unit : Nat) (d : Bytes) (m : Nat) : (s.postFault status scope unit d).cluster m = s.cluster m := rfl
@[simp] theorem State.postFault_stream (s : State) (status scope unit : Nat) (d : Bytes) (m : Nat) : (s.postFault status scope unit d).stream m = s.stream m := rfl
@[simp] theorem State.postFault_chan (s : State) (status scope unit : Nat) (d : Bytes) (m : Nat) : (s.postFault status scope unit d).chan m = s.chan m := rfl
@[simp] theorem State.postFault_entry (s : State) (status scope unit : Nat) (d : Bytes) (m : Nat) : (s.postFault status scope unit d).entry m = s.entry m := rfl
@[simp] theorem State.postFault_peer (s : State) (status scope unit : Nat) (d : Bytes) (m : Nat) : (s.postFault status scope unit d).peer m = s.peer m := rfl
@[simp] theorem State.postFault_proc (s : State) (status scope unit : Nat) (d : Bytes) (m : Nat) : (s.postFault status scope unit d).proc m = s.proc m := rfl
@[simp] theorem State.postFault_pslice (s : State) (status scope unit : Nat) (d : Bytes) (m : Nat) : (s.postFault status scope unit d).pslice m = s.pslice m := rfl
@[simp] theorem State.postFault_queue (s : State) (status scope unit : Nat) (d : Bytes) (m : Nat) : (s.postFault status scope unit d).queue m = s.queue m := rfl
@[simp] theorem State.postFault_ctx (s : State) (status scope unit : Nat) (d : Bytes) (m : Nat) : (s.postFault status scope unit d).ctx m = s.ctx m := rfl
@[simp] theorem State.postFault_val (s : State) (status scope unit : Nat) (d : Bytes) (row : ObjRow) (m : Nat) : (s.postFault status scope unit d).val row m = s.val row m := rfl
@[simp] theorem State.postFault_num (s : State) (status scope unit : Nat) (d : Bytes) (row : ObjRow) (m : Nat) : (s.postFault status scope unit d).num row m = s.num row m := rfl
@[simp] theorem State.postFault_blob (s : State) (status scope unit : Nat) (d : Bytes) (row : ObjRow) (m : Nat) : (s.postFault status scope unit d).blob row m = s.blob row m := rfl

/-! ## Instances -/

@[simp] theorem State.setSlice_slice (s : State) (n : Nat) (x : Slice) : (s.setSlice n x).slice n = x := tget_tput_same _ _ _ _
theorem State.setSlice_slice_other (s : State) (n m : Nat) (x : Slice) (h : m ≠ n) : (s.setSlice n x).slice m = s.slice m :=
  tget_tput_other _ _ _ _ _ h
@[simp] theorem State.modSlice_slice (s : State) (n : Nat) (f : Slice → Slice) : (s.modSlice n f).slice n = f (s.slice n) := State.setSlice_slice _ _ _
theorem State.modSlice_slice_other (s : State) (n m : Nat) (f : Slice → Slice) (h : m ≠ n) : (s.modSlice n f).slice m = s.slice m :=
  State.setSlice_slice_other _ _ _ _ h
@[simp] theorem State.setHart_hart (s : State) (n : Nat) (x : Hart) : (s.setHart n x).hart n = x := tget_tput_same _ _ _ _
theorem State.setHart_hart_other (s : State) (n m : Nat) (x : Hart) (h : m ≠ n) : (s.setHart n x).hart m = s.hart m :=
  tget_tput_other _ _ _ _ _ h
@[simp] theorem State.modHart_hart (s : State) (n : Nat) (f : Hart → Hart) : (s.modHart n f).hart n = f (s.hart n) := State.setHart_hart _ _ _
theorem State.modHart_hart_other (s : State) (n m : Nat) (f : Hart → Hart) (h : m ≠ n) : (s.modHart n f).hart m = s.hart m :=
  State.setHart_hart_other _ _ _ _ h
@[simp] theorem State.setCluster_cluster (s : State) (n : Nat) (x : Cluster) : (s.setCluster n x).cluster n = x := tget_tput_same _ _ _ _
theorem State.setCluster_cluster_other (s : State) (n m : Nat) (x : Cluster) (h : m ≠ n) : (s.setCluster n x).cluster m = s.cluster m :=
  tget_tput_other _ _ _ _ _ h
@[simp] theorem State.modCluster_cluster (s : State) (n : Nat) (f : Cluster → Cluster) : (s.modCluster n f).cluster n = f (s.cluster n) := State.setCluster_cluster _ _ _
theorem State.modCluster_cluster_other (s : State) (n m : Nat) (f : Cluster → Cluster) (h : m ≠ n) : (s.modCluster n f).cluster m = s.cluster m :=
  State.setCluster_cluster_other _ _ _ _ h
@[simp] theorem State.setQueue_queue (s : State) (n : Nat) (x : Queue) : (s.setQueue n x).queue n = x := tget_tput_same _ _ _ _
theorem State.setQueue_queue_other (s : State) (n m : Nat) (x : Queue) (h : m ≠ n) : (s.setQueue n x).queue m = s.queue m :=
  tget_tput_other _ _ _ _ _ h
@[simp] theorem State.modQueue_queue (s : State) (n : Nat) (f : Queue → Queue) : (s.modQueue n f).queue n = f (s.queue n) := State.setQueue_queue _ _ _
theorem State.modQueue_queue_other (s : State) (n m : Nat) (f : Queue → Queue) (h : m ≠ n) : (s.modQueue n f).queue m = s.queue m :=
  State.setQueue_queue_other _ _ _ _ h
@[simp] theorem State.setCtx_ctx (s : State) (n : Nat) (x : Ctx) : (s.setCtx n x).ctx n = x := tget_tput_same _ _ _ _
theorem State.setCtx_ctx_other (s : State) (n m : Nat) (x : Ctx) (h : m ≠ n) : (s.setCtx n x).ctx m = s.ctx m :=
  tget_tput_other _ _ _ _ _ h
@[simp] theorem State.modCtx_ctx (s : State) (n : Nat) (f : Ctx → Ctx) : (s.modCtx n f).ctx n = f (s.ctx n) := State.setCtx_ctx _ _ _
theorem State.modCtx_ctx_other (s : State) (n m : Nat) (f : Ctx → Ctx) (h : m ≠ n) : (s.modCtx n f).ctx m = s.ctx m :=
  State.setCtx_ctx_other _ _ _ _ h
@[simp] theorem State.setStream_stream (s : State) (n : Nat) (x : Stream) : (s.setStream n x).stream n = x := tget_tput_same _ _ _ _
theorem State.setStream_stream_other (s : State) (n m : Nat) (x : Stream) (h : m ≠ n) : (s.setStream n x).stream m = s.stream m :=
  tget_tput_other _ _ _ _ _ h
@[simp] theorem State.modStream_stream (s : State) (n : Nat) (f : Stream → Stream) : (s.modStream n f).stream n = f (s.stream n) := State.setStream_stream _ _ _
theorem State.modStream_stream_other (s : State) (n m : Nat) (f : Stream → Stream) (h : m ≠ n) : (s.modStream n f).stream m = s.stream m :=
  State.setStream_stream_other _ _ _ _ h
@[simp] theorem State.setChan_chan (s : State) (n : Nat) (x : Channel) : (s.setChan n x).chan n = x := tget_tput_same _ _ _ _
theorem State.setChan_chan_other (s : State) (n m : Nat) (x : Channel) (h : m ≠ n) : (s.setChan n x).chan m = s.chan m :=
  tget_tput_other _ _ _ _ _ h
@[simp] theorem State.modChan_chan (s : State) (n : Nat) (f : Channel → Channel) : (s.modChan n f).chan n = f (s.chan n) := State.setChan_chan _ _ _
theorem State.modChan_chan_other (s : State) (n m : Nat) (f : Channel → Channel) (h : m ≠ n) : (s.modChan n f).chan m = s.chan m :=
  State.setChan_chan_other _ _ _ _ h
@[simp] theorem State.setPeer_peer (s : State) (n : Nat) (x : Peer) : (s.setPeer n x).peer n = x := tget_tput_same _ _ _ _
theorem State.setPeer_peer_other (s : State) (n m : Nat) (x : Peer) (h : m ≠ n) : (s.setPeer n x).peer m = s.peer m :=
  tget_tput_other _ _ _ _ _ h
@[simp] theorem State.modPeer_peer (s : State) (n : Nat) (f : Peer → Peer) : (s.modPeer n f).peer n = f (s.peer n) := State.setPeer_peer _ _ _
theorem State.modPeer_peer_other (s : State) (n m : Nat) (f : Peer → Peer) (h : m ≠ n) : (s.modPeer n f).peer m = s.peer m :=
  State.setPeer_peer_other _ _ _ _ h
@[simp] theorem State.setProc_proc (s : State) (n : Nat) (x : Proc) : (s.setProc n x).proc n = x := tget_tput_same _ _ _ _
theorem State.setProc_proc_other (s : State) (n m : Nat) (x : Proc) (h : m ≠ n) : (s.setProc n x).proc m = s.proc m :=
  tget_tput_other _ _ _ _ _ h
@[simp] theorem State.modProc_proc (s : State) (n : Nat) (f : Proc → Proc) : (s.modProc n f).proc n = f (s.proc n) := State.setProc_proc _ _ _
theorem State.modProc_proc_other (s : State) (n m : Nat) (f : Proc → Proc) (h : m ≠ n) : (s.modProc n f).proc m = s.proc m :=
  State.setProc_proc_other _ _ _ _ h
@[simp] theorem State.setQueue_ctx (s : State) (n : Nat) (x : Queue) (m : Nat) : (s.setQueue n x).ctx m = s.ctx m := rfl
@[simp] theorem State.modQueue_ctx (s : State) (n : Nat) (f : Queue → Queue) (m : Nat) : (s.modQueue n f).ctx m = s.ctx m := rfl
@[simp] theorem State.setCtx_queue (s : State) (n : Nat) (x : Ctx) (m : Nat) : (s.setCtx n x).queue m = s.queue m := rfl
@[simp] theorem State.modCtx_queue (s : State) (n : Nat) (f : Ctx → Ctx) (m : Nat) : (s.modCtx n f).queue m = s.queue m := rfl
@[simp] theorem State.setChan_entry (s : State) (n : Nat) (x : Channel) (m : Nat) : (s.setChan n x).entry m = s.entry m := rfl
@[simp] theorem State.modChan_entry (s : State) (n : Nat) (x : Channel → Channel) (m : Nat) : (s.modChan n x).entry m = s.entry m := rfl
@[simp] theorem State.setEntry_chan (s : State) (n : Nat) (e : Entry) (m : Nat) : (s.setEntry n e).chan m = s.chan m := rfl
@[simp] theorem State.writeByte_chan (s : State) (a : Nat) (b : Byte) (m : Nat) : (s.writeByte a b).chan m = s.chan m := rfl
@[simp] theorem State.writeByte_entry (s : State) (a : Nat) (b : Byte) (m : Nat) : (s.writeByte a b).entry m = s.entry m := rfl
@[simp] theorem State.modSeq_slice (s : State) (n : Nat) (f : Seq → Seq) :
    (s.modSeq n f).slice n = { s.slice n with seq := f (s.slice n).seq } := State.modSlice_slice _ _ _
theorem State.modSeq_slice_other (s : State) (n m : Nat) (f : Seq → Seq) (h : m ≠ n) : (s.modSeq n f).slice m = s.slice m :=
  State.modSlice_slice_other _ _ _ _ h
@[simp] theorem State.modArr_slice (s : State) (n : Nat) (f : Arr → Arr) :
    (s.modArr n f).slice n = { s.slice n with arr := f (s.slice n).arr } := State.modSlice_slice _ _ _
theorem State.modArr_slice_other (s : State) (n m : Nat) (f : Arr → Arr) (h : m ≠ n) : (s.modArr n f).slice m = s.slice m :=
  State.modSlice_slice_other _ _ _ _ h
@[simp] theorem State.modStore_slice (s : State) (n : Nat) (f : Store → Store) :
    (s.modStore n f).slice n = { s.slice n with store := f (s.slice n).store } := State.modSlice_slice _ _ _
theorem State.modStore_slice_other (s : State) (n m : Nat) (f : Store → Store) (h : m ≠ n) : (s.modStore n f).slice m = s.slice m :=
  State.modSlice_slice_other _ _ _ _ h
@[simp] theorem State.modRaw_stream (s : State) (n : Nat) (f : Raw → Raw) :
    (s.modRaw n f).stream n = { s.stream n with raw := f (s.stream n).raw } := State.modStream_stream _ _ _
theorem State.modRaw_stream_other (s : State) (n m : Nat) (f : Raw → Raw) (h : m ≠ n) : (s.modRaw n f).stream m = s.stream m :=
  State.modStream_stream_other _ _ _ _ h
@[simp] theorem State.modIng_stream (s : State) (n : Nat) (f : Ingest → Ingest) :
    (s.modIng n f).stream n = { s.stream n with ing := f (s.stream n).ing } := State.modStream_stream _ _ _
theorem State.modIng_stream_other (s : State) (n m : Nat) (f : Ingest → Ingest) (h : m ≠ n) : (s.modIng n f).stream m = s.stream m :=
  State.modStream_stream_other _ _ _ _ h

theorem State.setEntry_entry_other (s : State) (n m : Nat) (e : Entry) (h : m ≠ n) : (s.setEntry n e).entry m = s.entry m := by
  unfold State.setEntry State.entry
  dsimp only
  split
  · exact tget_tdel_other _ _ _ _ h
  · exact tget_tput_other _ _ _ _ _ h

/-! ## Objects -/

@[simp] theorem State.setVal_val (s : State) (r : ObjRow) (k : Nat) (v : Val) : (s.setVal r k v).val r k = v := by
  simp [State.setVal, State.val]

/-- Another object, or another instance, keeps its value. -/
theorem State.setVal_val_other (s : State) (r q : ObjRow) (k m : Nat) (v : Val) (h : q.key m ≠ r.key k) :
    (s.setVal r k v).val q m = s.val q m := by
  simp [State.setVal, State.val, tfind_tput_other _ _ _ _ h]

@[simp] theorem State.setNum_num (s : State) (r : ObjRow) (k n : Nat) : (s.setNum r k n).num r k = n := by
  simp [State.setNum, State.num]

theorem State.setNum_num_other (s : State) (r q : ObjRow) (k m n : Nat) (h : q.key m ≠ r.key k) :
    (s.setNum r k n).num q m = s.num q m := by
  simp only [State.setNum, State.num, State.setVal_val_other _ _ _ _ _ _ h]

theorem State.setNum_val_other (s : State) (r q : ObjRow) (k m n : Nat) (h : q.key m ≠ r.key k) :
    (s.setNum r k n).val q m = s.val q m := State.setVal_val_other _ _ _ _ _ _ h

@[simp] theorem State.setBlob_blob (s : State) (r : ObjRow) (k : Nat) (b : Bytes) : (s.setBlob r k b).blob r k = b := by
  simp [State.setBlob, State.blob]

/-- A counter raised by n stops at its row's limit. -/
@[simp] theorem State.count_num (s : State) (r : ObjRow) (k n : Nat) :
    (s.count r k n).num r k = min r.sat (s.num r k + n) := by
  simp [State.count]

theorem State.count_num_other (s : State) (r q : ObjRow) (k m n : Nat) (h : q.key m ≠ r.key k) :
    (s.count r k n).num q m = s.num q m := State.setNum_num_other _ _ _ _ _ _ h

theorem State.count_val_other (s : State) (r q : ObjRow) (k m n : Nat) (h : q.key m ≠ r.key k) :
    (s.count r k n).val q m = s.val q m := State.setVal_val_other _ _ _ _ _ _ h

end Sys2Proof.Machine
end

