-- ==== Sys2Proof/Laws/Checks.lean ====
section
/-! SUPPORT. The row checks: word sums and verdicts. -/

namespace Sys2Proof.Machine

/-- A cell of the bank is written. -/
def Slice.putCell (x : Slice) (k : Nat) (w : DWord) : Slice := { x with store := { x.store with bank := tput x.store.bank k w } }

theorem Slice.putCell_cell (x : Slice) (k j : Nat) (w : DWord) : (x.putCell k w).cell j = if j = k then w else x.cell j := by
  unfold Slice.putCell Slice.cell
  dsimp only
  by_cases h : j = k
  · subst h; rw [tfind_tput_same, if_pos rfl]
  · rw [tfind_tput_other _ _ _ _ h, if_neg h]

/-- One value of a row goes to its cell. -/
def bankStep (base : Nat) (add : Bool) (ups : List DrainUpset) (b : Slice × Nat) (p : Acc × Nat) : Slice × Nat :=
  (b.1.putCell (base + p.2) (bankCell add (b.1.cell (base + p.2)) p.1 (flips ups 0xFE p.2)).1,
    b.2 + (if (bankCell add (b.1.cell (base + p.2)) p.1 (flips ups 0xFE p.2)).2 then 1 else 0))

theorem Slice.bankAfter_steps (x : Slice) (base : Nat) (vals : List Acc) (add : Bool) (ups : List DrainUpset) :
    x.bankAfter base vals add ups = vals.zipIdx.foldl (bankStep base add ups) (x, 0) := rfl

theorem bankSteps_cell (base : Nat) (add : Bool) (ups : List DrainUpset) (vals : List Acc) : ∀ (n : Nat) (b : Slice × Nat),
    (∀ (i : Nat) (v : Acc), vals[i]? = some v → ((vals.zipIdx n).foldl (bankStep base add ups) b).1.cell (base + (n + i)) =
      (bankCell add (b.1.cell (base + (n + i))) v (flips ups 0xFE (n + i))).1) ∧
    (∀ k, k < base + n ∨ base + n + vals.length ≤ k → ((vals.zipIdx n).foldl (bankStep base add ups) b).1.cell k = b.1.cell k) ∧
    (∃ m, ((vals.zipIdx n).foldl (bankStep base add ups) b).1 = { b.1 with store := { b.1.store with bank := m } }) := by
  induction vals with
  | nil => intro n b; exact ⟨by simp, by simp, b.1.store.bank, rfl⟩
  | cons a l ih =>
    intro n b
    simp only [List.zipIdx_cons, List.foldl_cons]
    obtain ⟨h1, h2, m, h3⟩ := ih (n + 1) (bankStep base add ups b (a, n))
    have hc : ∀ k, (bankStep base add ups b (a, n)).1.cell k =
        if k = base + n then (bankCell add (b.1.cell (base + n)) a (flips ups 0xFE n)).1 else b.1.cell k :=
      fun k => Slice.putCell_cell _ _ _ _
    refine ⟨fun i v h => ?_, fun k hk => ?_, m, h3⟩
    · cases i with
      | zero =>
        simp only [List.getElem?_cons_zero, Option.some.injEq] at h
        subst h
        rw [h2 (base + (n + 0)) (by omega), hc, if_pos (by omega)]
        rfl
      | succ i =>
        simp only [List.getElem?_cons_succ] at h
        rw [show n + (i + 1) = n + 1 + i by omega, h1 i v h, hc, if_neg (by omega)]
    · simp only [List.length_cons] at hk
      rw [h2 k (by omega), hc, if_neg (by omega)]

/-- A row's values go into the cells from base on, and no other cell changes. -/
theorem Slice.bankAfter_cell (x : Slice) (base : Nat) (vals : List Acc) (add : Bool) (ups : List DrainUpset) :
    (∀ (i : Nat) (v : Acc), vals[i]? = some v → (x.bankAfter base vals add ups).1.cell (base + i) =
      (bankCell add (x.cell (base + i)) v (flips ups 0xFE i)).1) ∧
    (∀ k, k < base ∨ base + vals.length ≤ k → (x.bankAfter base vals add ups).1.cell k = x.cell k) ∧
    (∃ m, (x.bankAfter base vals add ups).1 = { x with store := { x.store with bank := m } }) := by
  have g := bankSteps_cell base add ups vals 0 (x, 0)
  simpa only [Nat.zero_add, Nat.add_zero, ← Slice.bankAfter_steps] using g

theorem clearRows_objs (rows : List ObjRow) (k : Nat) : ∀ s : State,
    (∀ r ∈ rows, (s.clearRows rows k).val r k = r.dflt) ∧
    (∀ (r : ObjRow) (j : Nat), (∀ x ∈ rows, r.key j ≠ x.key k) → (s.clearRows rows k).val r j = s.val r j) ∧ s.clearRows rows k = { s with objs := (s.clearRows rows k).objs } := by
  induction rows with
  | nil => intro s; exact ⟨by simp, fun _ _ _ => rfl, rfl⟩
  | cons a l ih =>
    intro s
    have e : s.clearRows (a :: l) k = (s.clearObj a k).clearRows l k := rfl
    obtain ⟨i1, i2, i3⟩ := ih (s.clearObj a k)
    rw [e]
    refine ⟨fun r h => ?_, fun r j h => ?_, ?_⟩
    · by_cases m : r ∈ l
      · exact i1 r m
      · rcases List.mem_cons.1 h with rfl | h
        · by_cases q : ∃ x ∈ l, r.key k = x.key k
          · have gone : ∀ (l : List ObjRow) (u : State), tfind u.objs (r.key k) = none → tfind (u.clearRows l k).objs (r.key k) = none := by
              intro l
              induction l with
              | nil => intro u h; exact h
              | cons b l ih =>
                intro u h
                refine ih (u.clearObj b k) ?_
                by_cases e : r.key k = b.key k
                · show tfind (tdel u.objs (b.key k)) (r.key k) = none
                  rw [e]; exact tfind_tdel_same _ _
                · show tfind (tdel u.objs (b.key k)) (r.key k) = none
                  rw [tfind_tdel_other _ _ _ e]; exact h
            have := gone l (s.clearObj r k) (tfind_tdel_same _ _)
            simp [State.val, this]
          · rw [i2 r k (fun x hx e => q ⟨x, hx, e⟩)]
            simp [State.val, State.clearObj]
        · exact absurd h m
    · rw [i2 r j (fun x hx => h x (List.mem_cons_of_mem _ hx))]
      simp [State.val, State.clearObj, tfind_tdel_other _ _ _ (h a List.mem_cons_self)]
    · rw [i3]; rfl

def wsum (l : List Word) : Word := l.foldr (· + ·) 0

theorem pairs_sum : ∀ (n : Nat) (l : List Word), l.length = 2 * n →
    wsum ((List.range n).map (fun i => (l[2 * i]?).getD 0 + (l[2 * i + 1]?).getD 0)) = wsum l := by
  intro n
  induction n with
  | zero => intro l h; cases l <;> simp_all [wsum]
  | succ n ih =>
    intro l h
    match l, h with
    | a :: b :: r, h =>
      have := ih r (by simp at h; omega)
      rw [List.range_succ_eq_map]
      simp only [List.map_cons, List.map_map]
      have e : ((fun i => ((a :: b :: r)[2 * i]?).getD 0 + ((a :: b :: r)[2 * i + 1]?).getD 0) ∘ Nat.succ) =
          (fun i => (r[2 * i]?).getD 0 + (r[2 * i + 1]?).getD 0) := by
        funext i
        simp only [Function.comp]
        rw [show 2 * Nat.succ i = 2 * i + 1 + 1 by omega, show 2 * i + 1 + 1 + 1 = (2 * i + 1) + 1 + 1 by omega]
        rfl
      rw [e]
      show _ + wsum _ = a + (b + wsum r)
      rw [this]
      simp [BitVec.add_assoc]

theorem treeSum_eq : ∀ (k : Nat) (l : List Word), l.length = 2 ^ k → treeSum (· + ·) k l = wsum l := by
  intro k
  induction k with
  | zero =>
    intro l h
    match l, h with
    | [a], _ => simp [treeSum, wsum]
  | succ k ih =>
    intro l h
    unfold treeSum
    have e : l.length / 2 = 2 ^ k := by rw [h, Nat.pow_succ]; omega
    rw [e, ih _ (by simp), pairs_sum _ _ (by rw [h, Nat.pow_succ]; omega)]

theorem foldl_add_int (l : List Int) : ∀ a : Int, l.foldl (· + ·) a = a + l.foldr (· + ·) 0 := by
  induction l with
  | nil => intro a; simp
  | cons x r ih => intro a; simp only [List.foldl_cons, List.foldr_cons]; rw [ih]; omega

theorem sumI_cons (a : Int) (l : List Int) : sumI (a :: l) = a + sumI l := by
  simp only [sumI, List.foldl_cons, foldl_add_int]; omega

theorem sumI_nil : sumI [] = 0 := rfl

theorem wordOf_add (a b : Int) : wordOf (a + b) = wordOf a + wordOf b := BitVec.ofInt_add ..

theorem wsum_wordOf {α : Type} (f : α → Int) (l : List α) : wsum (l.map (fun a => wordOf (f a))) = wordOf (sumI (l.map f)) := by
  induction l with
  | nil => rfl
  | cons a r ih => simp only [List.map_cons, sumI_cons, wordOf_add, ← ih]; rfl

theorem log_len {n : Nat} (h : n = 64 ∨ n = 128 ∨ n = 256) : n = 2 ^ Nat.log2 n := by
  rcases h with rfl | rfl | rfl <;> decide

theorem wsum_const0 {α : Type} (l : List α) : wsum (l.map (fun _ => (0 : Word))) = 0 := by
  induction l with
  | nil => rfl
  | cons a r ih => show (0:Word) + wsum _ = 0; rw [ih]; rfl

theorem wsum_add {α : Type} (f g : α → Word) (l : List α) : wsum (l.map (fun a => f a + g a)) = wsum (l.map f) + wsum (l.map g) := by
  induction l with
  | nil => rfl
  | cons a r ih =>
    show f a + g a + wsum _ = (f a + wsum _) + (g a + wsum _)
    rw [ih]; ac_rfl

theorem wordOf_mul (a b : Int) : wordOf (a * b) = wordOf a * wordOf b := BitVec.ofInt_mul ..

theorem wordOf_toInt (w : Word) : wordOf w.toInt = w := BitVec.ofInt_toInt

theorem sumI_mul {α : Type} (f : α → Int) (b : Int) (l : List α) : sumI (l.map (fun a => f a * b)) = sumI (l.map f) * b := by
  induction l with
  | nil => simp [sumI]
  | cons a r ih => simp only [List.map_cons, sumI_cons, ih, Int.add_mul]

theorem range_get (l : List (BitVec 16)) : (List.range l.length).map (fun j => (l[j]?).getD 0) = l := by
  apply List.ext_getElem
  · simp
  · intro i h1 h2; simp at h1; simp [h1]

theorem colSum_cross (n : Nat) : ∀ (rows : List (List (BitVec 16))) (x : List (BitVec 16)), (∀ l ∈ rows, l.length = n) →
    wsum ((List.range n).map (fun j => wordOf (sumI (((rows.map (fun r => (r[j]?).getD 0)).zip x).map (fun p => intOf p.1 * intOf p.2)))))
     = wordOf (sumI ((rows.zip x).map (fun p => (wordOf (sumI (p.1.map intOf))).toInt * intOf p.2))) := by
  intro rows
  induction rows with
  | nil => intro x _; simp only [List.map_nil, List.zip_nil_left, sumI_nil]; exact wsum_const0 _
  | cons r rows ih =>
    intro x h
    cases x with
    | nil => simp only [List.zip_nil_right, List.map_nil, sumI_nil]; exact wsum_const0 _
    | cons y x =>
      simp only [List.map_cons, List.zip_cons_cons, sumI_cons, wordOf_add]
      rw [wsum_add, ih x (fun l hl => h l (List.mem_cons_of_mem _ hl))]
      congr 1
      rw [wsum_wordOf (fun j => intOf ((r[j]?).getD 0) * intOf y), sumI_mul (fun j => intOf ((r[j]?).getD 0)), wordOf_mul, wordOf_mul, wordOf_toInt]
      congr 3
      have := congrArg (List.map intOf) (range_get r)
      rw [h r List.mem_cons_self, List.map_map] at this
      exact this

theorem wsum_set : ∀ (l : List Word) (i : Nat) (a v : Word), l[i]? = some a → wsum (l.set i v) + a = wsum l + v := by
  intro l
  induction l with
  | nil => intro i a v h; simp at h
  | cons b r ih =>
    intro i a v h
    cases i with
    | zero =>
      simp at h; subst h
      show v + wsum r + b = b + wsum r + v
      ac_rfl
    | succ i =>
      simp at h
      have := ih i a v (by simpa using h)
      show b + wsum (r.set i v) + a = b + wsum r + v
      rw [BitVec.add_assoc, this]; ac_rfl

theorem verdict_single (r : ArrRow) (l : List Word) (hf : r.float = false) (ho : r.outs = l.map (fun w => [w]))
    (hl : r.outs.length = 128 ∨ r.outs.length = 256) : r.verdict = if wsum l == r.sChk then none else some 1 := by
  unfold ArrRow.verdict
  simp only [hf, Bool.not_false, if_true]
  rw [treeSum_eq _ _ (by rw [List.length_map]; exact log_len (by omega))]
  congr 2
  rw [ho]
  simp [List.map_map, Function.comp_def]

end Sys2Proof.Machine
end

