-- ==== Sys2Proof/Laws/Memory.lean ====
section
/-! SUPPORT. Memory cells: every operation keeps their canonical form, and what a byte reads after a write. -/

namespace Sys2Proof.Machine

/-! ## Canonical form -/

theorem Memory.wfFrom_mono (m : List Host.Cell) (a b : Nat) (h : Memory.wfFrom b m = true) (le : a ≤ b) :
    Memory.wfFrom a m = true := by
  cases m with
  | nil => rfl
  | cons c r =>
    obtain ⟨k, x⟩ := c
    simp only [Memory.wfFrom, Bool.and_eq_true, decide_eq_true_eq] at h ⊢
    exact ⟨⟨by omega, h.1.2⟩, h.2⟩

/-- A write keeps the canonical form. -/
theorem cput_wfFrom (m : List Host.Cell) (n a : Nat) (b : Byte) (h : Memory.wfFrom n m = true) (le : n ≤ a) :
    Memory.wfFrom n (cput m a b) = true := by
  induction m generalizing n with
  | nil => simp only [cput]; split <;> simp_all [Memory.wfFrom]
  | cons c r ih =>
    obtain ⟨k, x⟩ := c
    have w := h
    simp only [Memory.wfFrom, Bool.and_eq_true, decide_eq_true_eq] at h
    simp only [cput]
    split
    · split
      · exact w
      · next lt nz =>
        simp only [Memory.wfFrom, Bool.and_eq_true, decide_eq_true_eq]
        exact ⟨⟨le, nz⟩, ⟨by omega, h.1.2⟩, h.2⟩
    · split
      · next e =>
        subst e
        split
        · exact Memory.wfFrom_mono _ _ _ h.2 (by omega)
        · next nz =>
          simp only [Memory.wfFrom, Bool.and_eq_true, decide_eq_true_eq]
          exact ⟨⟨le, nz⟩, h.2⟩
      · simp only [Memory.wfFrom, Bool.and_eq_true, decide_eq_true_eq]
        exact ⟨h.1, ih _ h.2 (by omega)⟩

theorem cput_wf (m : List Host.Cell) (a : Nat) (b : Byte) (h : Memory.wf m = true) : Memory.wf (cput m a b) = true :=
  cput_wfFrom m 0 a b h (Nat.zero_le _)

theorem cputs_wf (b : Bytes) (m : List Host.Cell) (a : Nat) (h : Memory.wf m = true) : Memory.wf (cputs m a b) = true := by
  induction b generalizing m a with
  | nil => exact h
  | cons x r ih => exact ih _ _ (cput_wf m a x h)

theorem filter_wfFrom (p : Host.Cell → Bool) (m : List Host.Cell) (n : Nat) (h : Memory.wfFrom n m = true) :
    Memory.wfFrom n (m.filter p) = true := by
  induction m generalizing n with
  | nil => rfl
  | cons c r ih =>
    obtain ⟨k, x⟩ := c
    simp only [Memory.wfFrom, Bool.and_eq_true, decide_eq_true_eq] at h
    simp only [List.filter]
    split
    · simp only [Memory.wfFrom, Bool.and_eq_true, decide_eq_true_eq]
      exact ⟨h.1, ih _ h.2⟩
    · exact Memory.wfFrom_mono _ _ _ (ih _ h.2) (by omega)

theorem filter_wf (p : Host.Cell → Bool) (m : List Host.Cell) (h : Memory.wf m = true) : Memory.wf (m.filter p) = true :=
  filter_wfFrom p m 0 h

theorem cdrop_wf (m : List Host.Cell) (a n : Nat) (h : Memory.wf m = true) : Memory.wf (cdrop m a n) = true :=
  filter_wf _ m h

/-- A step of a fold that keeps the canonical form keeps it over the fold. -/
theorem foldl_wf {α : Type} (f : List Host.Cell → α → List Host.Cell)
    (hf : ∀ m x, Memory.wf m = true → Memory.wf (f m x) = true) (l : List α) (m : List Host.Cell)
    (h : Memory.wf m = true) : Memory.wf (l.foldl f m) = true := by
  induction l generalizing m with
  | nil => exact h
  | cons x r ih => exact ih _ (hf _ _ h)

/-! ## Read after write -/

theorem cget_below (m : List Host.Cell) (n a : Nat) (h : Memory.wfFrom n m = true) (lt : a < n) : cget m a = 0 := by
  induction m generalizing n with
  | nil => rfl
  | cons c r ih =>
    obtain ⟨k, x⟩ := c
    simp only [Memory.wfFrom, Bool.and_eq_true, decide_eq_true_eq] at h
    have ne : k ≠ a := by omega
    simp only [cget, ne, if_false]
    exact ih _ h.2 (by omega)

theorem cget_cput_sameFrom (m : List Host.Cell) (n a : Nat) (b : Byte) (h : Memory.wfFrom n m = true) :
    cget (cput m a b) a = b := by
  induction m generalizing n with
  | nil =>
    simp only [cput]
    split
    · next e => simp [cget, e]
    · simp [cget]
  | cons c r ih =>
    obtain ⟨k, x⟩ := c
    simp only [Memory.wfFrom, Bool.and_eq_true, decide_eq_true_eq] at h
    simp only [cput]
    split
    · next lt =>
      split
      · next e =>
        have ne : k ≠ a := by omega
        simp only [cget, ne, if_false, e]
        exact cget_below r (k + 1) a h.2 (by omega)
      · simp [cget]
    · split
      · next e =>
        subst e
        split
        · next z => rw [z]; exact cget_below r (a + 1) a h.2 (by omega)
        · simp [cget]
      · next ne =>
        simp only [cget, Ne.symm ne, if_false]
        exact ih _ h.2

/-- A byte reads what was last written there. -/
theorem cget_cput_same (m : List Host.Cell) (a : Nat) (b : Byte) (h : Memory.wf m = true) : cget (cput m a b) a = b :=
  cget_cput_sameFrom m 0 a b h

/-- A write leaves every other byte alone. -/
theorem cget_cput_other (m : List Host.Cell) (a k : Nat) (b : Byte) (h : k ≠ a) : cget (cput m a b) k = cget m k := by
  induction m with
  | nil => simp only [cput]; split <;> simp [cget, Ne.symm h]
  | cons c r ih =>
    obtain ⟨j, x⟩ := c
    simp only [cput]
    split
    · split
      · rfl
      · simp [cget, Ne.symm h]
    · split
      · next e =>
        subst e
        split <;> simp [cget, Ne.symm h]
      · simp only [cget, ih]

theorem cget_cputs_other (b : Bytes) (m : List Host.Cell) (a k : Nat) (h : k < a ∨ a + b.length ≤ k) :
    cget (cputs m a b) k = cget m k := by
  induction b generalizing m a with
  | nil => rfl
  | cons x r ih =>
    simp only [List.length_cons] at h
    simp only [cputs]
    rw [ih _ _ (by omega), cget_cput_other _ _ _ _ (by omega)]

/-- Bytes of a run read what was written there. -/
theorem cget_cputs_same (b : Bytes) (m : List Host.Cell) (a i : Nat) (h : Memory.wf m = true) (lt : i < b.length) :
    cget (cputs m a b) (a + i) = b[i] := by
  induction b generalizing m a i with
  | nil => simp at lt
  | cons x r ih =>
    simp only [cputs]
    cases i with
    | zero =>
      rw [cget_cputs_other _ _ _ _ (by omega)]
      exact cget_cput_same _ _ _ h
    | succ j =>
      have e : a + (j + 1) = a + 1 + j := by omega
      rw [e, ih _ _ _ (cput_wf _ _ _ h) (by simpa using lt)]
      rfl

/-! ## Device memory -/

theorem State.writeByte_bytes_wf (s : State) (a : Nat) (b : Byte) (h : Memory.wf s.mem.bytes = true) :
    Memory.wf (s.writeByte a b).mem.bytes = true := by
  unfold State.writeByte
  exact foldl_wf _ (fun m p hm => cput_wf m _ b hm) _ _ h

theorem State.writeBytes_bytes_wf (b : Bytes) (s : State) (a : Nat) (h : Memory.wf s.mem.bytes = true) :
    Memory.wf (s.writeBytes a b).mem.bytes = true := by
  induction b generalizing s a with
  | nil => exact h
  | cons x r ih => exact ih _ _ (s.writeByte_bytes_wf a x h)

/-- What writing bytes leaves of the state: all of it but the cells of device memory. -/
theorem State.writeBytes_eq (b : Bytes) (s : State) (a : Nat) :
    s.writeBytes a b = { s with mem := { s.mem with bytes := (s.writeBytes a b).mem.bytes } } := by
  induction b generalizing s a with
  | nil => rfl
  | cons x r ih =>
    rw [State.writeBytes, ih]
    rfl

end Sys2Proof.Machine
end

