-- ==== Sys2Proof/Laws/Settle.lean ====
section
/-! SUPPORT. What the shared operations leave as it was: responses, events, safety frames, time, free values. -/

namespace Sys2Proof.Machine

/-! ## writeBytes -/

@[simp] theorem State.writeBytes_pending (s : State) (a : Nat) (b : Bytes) : (s.writeBytes a b).pending = s.pending := by
  induction b generalizing s a with
  | nil => rfl
  | cons x r ih => exact ih (s.writeByte a x) (a + 1)
@[simp] theorem State.writeBytes_clk (s : State) (a : Nat) (b : Bytes) : (s.writeBytes a b).clk = s.clk := by
  induction b generalizing s a with
  | nil => rfl
  | cons x r ih => exact ih (s.writeByte a x) (a + 1)
@[simp] theorem State.writeBytes_pins (s : State) (a : Nat) (b : Bytes) : (s.writeBytes a b).pins = s.pins := by
  induction b generalizing s a with
  | nil => rfl
  | cons x r ih => exact ih (s.writeByte a x) (a + 1)
@[simp] theorem State.writeBytes_rst (s : State) (a : Nat) (b : Bytes) : (s.writeBytes a b).rst = s.rst := by
  induction b generalizing s a with
  | nil => rfl
  | cons x r ih => exact ih (s.writeByte a x) (a + 1)
@[simp] theorem State.writeBytes_objs (s : State) (a : Nat) (b : Bytes) : (s.writeBytes a b).objs = s.objs := by
  induction b generalizing s a with
  | nil => rfl
  | cons x r ih => exact ih (s.writeByte a x) (a + 1)
@[simp] theorem State.writeBytes_isl (s : State) (a : Nat) (b : Bytes) : (s.writeBytes a b).isl = s.isl := by
  induction b generalizing s a with
  | nil => rfl
  | cons x r ih => exact ih (s.writeByte a x) (a + 1)
@[simp] theorem State.writeBytes_slices (s : State) (a : Nat) (b : Bytes) : (s.writeBytes a b).slices = s.slices := by
  induction b generalizing s a with
  | nil => rfl
  | cons x r ih => exact ih (s.writeByte a x) (a + 1)
@[simp] theorem State.writeBytes_harts (s : State) (a : Nat) (b : Bytes) : (s.writeBytes a b).harts = s.harts := by
  induction b generalizing s a with
  | nil => rfl
  | cons x r ih => exact ih (s.writeByte a x) (a + 1)
@[simp] theorem State.writeBytes_clusters (s : State) (a : Nat) (b : Bytes) : (s.writeBytes a b).clusters = s.clusters := by
  induction b generalizing s a with
  | nil => rfl
  | cons x r ih => exact ih (s.writeByte a x) (a + 1)
@[simp] theorem State.writeBytes_tasks (s : State) (a : Nat) (b : Bytes) : (s.writeBytes a b).tasks = s.tasks := by
  induction b generalizing s a with
  | nil => rfl
  | cons x r ih => exact ih (s.writeByte a x) (a + 1)
@[simp] theorem State.writeBytes_peers (s : State) (a : Nat) (b : Bytes) : (s.writeBytes a b).peers = s.peers := by
  induction b generalizing s a with
  | nil => rfl
  | cons x r ih => exact ih (s.writeByte a x) (a + 1)
@[simp] theorem State.writeBytes_work (s : State) (a : Nat) (b : Bytes) : (s.writeBytes a b).work = s.work := by
  induction b generalizing s a with
  | nil => rfl
  | cons x r ih => exact ih (s.writeByte a x) (a + 1)
@[simp] theorem State.writeBytes_media (s : State) (a : Nat) (b : Bytes) : (s.writeBytes a b).media = s.media := by
  induction b generalizing s a with
  | nil => rfl
  | cons x r ih => exact ih (s.writeByte a x) (a + 1)
@[simp] theorem State.writeBytes_link (s : State) (a : Nat) (b : Bytes) : (s.writeBytes a b).link = s.link := by
  induction b generalizing s a with
  | nil => rfl
  | cons x r ih => exact ih (s.writeByte a x) (a + 1)
@[simp] theorem State.writeBytes_safety (s : State) (a : Nat) (b : Bytes) : (s.writeBytes a b).safety = s.safety := by
  induction b generalizing s a with
  | nil => rfl
  | cons x r ih => exact ih (s.writeByte a x) (a + 1)
@[simp] theorem State.writeBytes_power (s : State) (a : Nat) (b : Bytes) : (s.writeBytes a b).power = s.power := by
  induction b generalizing s a with
  | nil => rfl
  | cons x r ih => exact ih (s.writeByte a x) (a + 1)
@[simp] theorem State.writeBytes_fw (s : State) (a : Nat) (b : Bytes) : (s.writeBytes a b).fw = s.fw := by
  induction b generalizing s a with
  | nil => rfl
  | cons x r ih => exact ih (s.writeByte a x) (a + 1)
@[simp] theorem State.writeBytes_trust (s : State) (a : Nat) (b : Bytes) : (s.writeBytes a b).trust = s.trust := by
  induction b generalizing s a with
  | nil => rfl
  | cons x r ih => exact ih (s.writeByte a x) (a + 1)
@[simp] theorem State.writeBytes_pers (s : State) (a : Nat) (b : Bytes) : (s.writeBytes a b).pers = s.pers := by
  induction b generalizing s a with
  | nil => rfl
  | cons x r ih => exact ih (s.writeByte a x) (a + 1)
@[simp] theorem State.writeBytes_freeCtr (s : State) (a : Nat) (b : Bytes) : (s.writeBytes a b).freeCtr = s.freeCtr := by
  induction b generalizing s a with
  | nil => rfl
  | cons x r ih => exact ih (s.writeByte a x) (a + 1)
@[simp] theorem State.writeBytes_slice (s : State) (a : Nat) (b : Bytes) (m : Nat) : (s.writeBytes a b).slice m = s.slice m := by
  simp [State.slice]
@[simp] theorem State.writeBytes_hart (s : State) (a : Nat) (b : Bytes) (m : Nat) : (s.writeBytes a b).hart m = s.hart m := by
  simp [State.hart]
@[simp] theorem State.writeBytes_cluster (s : State) (a : Nat) (b : Bytes) (m : Nat) : (s.writeBytes a b).cluster m = s.cluster m := by
  simp [State.cluster]
@[simp] theorem State.writeBytes_stream (s : State) (a : Nat) (b : Bytes) (m : Nat) : (s.writeBytes a b).stream m = s.stream m := by
  simp [State.stream]
@[simp] theorem State.writeBytes_peer (s : State) (a : Nat) (b : Bytes) (m : Nat) : (s.writeBytes a b).peer m = s.peer m := by
  simp [State.peer]
@[simp] theorem State.writeBytes_proc (s : State) (a : Nat) (b : Bytes) (m : Nat) : (s.writeBytes a b).proc m = s.proc m := by
  simp [State.proc]
@[simp] theorem State.writeBytes_pslice (s : State) (a : Nat) (b : Bytes) (m : Nat) : (s.writeBytes a b).pslice m = s.pslice m := by
  simp [State.pslice]
@[simp] theorem State.writeBytes_queue (s : State) (a : Nat) (b : Bytes) (m : Nat) : (s.writeBytes a b).queue m = s.queue m := by
  simp [State.queue]
@[simp] theorem State.writeBytes_ctx (s : State) (a : Nat) (b : Bytes) (m : Nat) : (s.writeBytes a b).ctx m = s.ctx m := by
  simp [State.ctx]
theorem State.writeBytes_mem (s : State) (a : Nat) (b : Bytes) : (s.writeBytes a b).mem = { s.mem with bytes := (s.writeBytes a b).mem.bytes } := by
  induction b generalizing s a with
  | nil => rfl
  | cons x r ih => exact ih (s.writeByte a x) (a + 1)
@[simp] theorem State.writeBytes_entry (s : State) (a : Nat) (b : Bytes) (m : Nat) : (s.writeBytes a b).entry m = s.entry m := by
  simp only [State.entry]
  rw [State.writeBytes_mem]
@[simp] theorem State.writeBytes_chan (s : State) (a : Nat) (b : Bytes) (m : Nat) : (s.writeBytes a b).chan m = s.chan m := by
  simp only [State.chan]
  rw [State.writeBytes_mem]
@[simp] theorem State.writeBytes_places (s : State) (a : Nat) (b : Bytes) (m : Nat) : (s.writeBytes a b).places m = s.places m := by
  simp only [State.places, State.writeBytes_entry]
  rw [State.writeBytes_mem]
@[simp] theorem State.writeBytes_val (s : State) (a : Nat) (b : Bytes) (row : ObjRow) (m : Nat) : (s.writeBytes a b).val row m = s.val row m := by
  simp only [State.val, State.writeBytes_objs]
@[simp] theorem State.writeBytes_num (s : State) (a : Nat) (b : Bytes) (row : ObjRow) (m : Nat) : (s.writeBytes a b).num row m = s.num row m := by
  simp only [State.val, State.num, State.writeBytes_objs]
@[simp] theorem State.writeBytes_blob (s : State) (a : Nat) (b : Bytes) (row : ObjRow) (m : Nat) : (s.writeBytes a b).blob row m = s.blob row m := by
  simp only [State.val, State.blob, State.writeBytes_objs]

/-! ## writeEvent -/

@[simp] theorem State.writeEvent_pending (s : State) (time code source : Nat) (p : Bytes) : (s.writeEvent time code source p).pending = s.pending := by
  unfold State.writeEvent
  split <;> simp
@[simp] theorem State.writeEvent_clk (s : State) (time code source : Nat) (p : Bytes) : (s.writeEvent time code source p).clk = s.clk := by
  unfold State.writeEvent
  split <;> simp
@[simp] theorem State.writeEvent_pins (s : State) (time code source : Nat) (p : Bytes) : (s.writeEvent time code source p).pins = s.pins := by
  unfold State.writeEvent
  split <;> simp
@[simp] theorem State.writeEvent_rst (s : State) (time code source : Nat) (p : Bytes) : (s.writeEvent time code source p).rst = s.rst := by
  unfold State.writeEvent
  split <;> simp
@[simp] theorem State.writeEvent_isl (s : State) (time code source : Nat) (p : Bytes) : (s.writeEvent time code source p).isl = s.isl := by
  unfold State.writeEvent
  split <;> simp
@[simp] theorem State.writeEvent_slices (s : State) (time code source : Nat) (p : Bytes) : (s.writeEvent time code source p).slices = s.slices := by
  unfold State.writeEvent
  split <;> simp
@[simp] theorem State.writeEvent_harts (s : State) (time code source : Nat) (p : Bytes) : (s.writeEvent time code source p).harts = s.harts := by
  unfold State.writeEvent
  split <;> simp
@[simp] theorem State.writeEvent_clusters (s : State) (time code source : Nat) (p : Bytes) : (s.writeEvent time code source p).clusters = s.clusters := by
  unfold State.writeEvent
  split <;> simp
@[simp] theorem State.writeEvent_tasks (s : State) (time code source : Nat) (p : Bytes) : (s.writeEvent time code source p).tasks = s.tasks := by
  unfold State.writeEvent
  split <;> simp
@[simp] theorem State.writeEvent_peers (s : State) (time code source : Nat) (p : Bytes) : (s.writeEvent time code source p).peers = s.peers := by
  unfold State.writeEvent
  split <;> simp
@[simp] theorem State.writeEvent_work (s : State) (time code source : Nat) (p : Bytes) : (s.writeEvent time code source p).work = s.work := by
  unfold State.writeEvent
  split <;> simp
@[simp] theorem State.writeEvent_media (s : State) (time code source : Nat) (p : Bytes) : (s.writeEvent time code source p).media = s.media := by
  unfold State.writeEvent
  split <;> simp
@[simp] theorem State.writeEvent_safety (s : State) (time code source : Nat) (p : Bytes) : (s.writeEvent time code source p).safety = s.safety := by
  unfold State.writeEvent
  split <;> simp
@[simp] theorem State.writeEvent_power (s : State) (time code source : Nat) (p : Bytes) : (s.writeEvent time code source p).power = s.power := by
  unfold State.writeEvent
  split <;> simp
@[simp] theorem State.writeEvent_fw (s : State) (time code source : Nat) (p : Bytes) : (s.writeEvent time code source p).fw = s.fw := by
  unfold State.writeEvent
  split <;> simp
@[simp] theorem State.writeEvent_trust (s : State) (time code source : Nat) (p : Bytes) : (s.writeEvent time code source p).trust = s.trust := by
  unfold State.writeEvent
  split <;> simp
@[simp] theorem State.writeEvent_pers (s : State) (time code source : Nat) (p : Bytes) : (s.writeEvent time code source p).pers = s.pers := by
  unfold State.writeEvent
  split <;> simp
@[simp] theorem State.writeEvent_freeCtr (s : State) (time code source : Nat) (p : Bytes) : (s.writeEvent time code source p).freeCtr = s.freeCtr := by
  unfold State.writeEvent
  split <;> simp
@[simp] theorem State.writeEvent_slice (s : State) (time code source : Nat) (p : Bytes) (m : Nat) : (s.writeEvent time code source p).slice m = s.slice m := by
  simp [State.slice]
@[simp] theorem State.writeEvent_hart (s : State) (time code source : Nat) (p : Bytes) (m : Nat) : (s.writeEvent time code source p).hart m = s.hart m := by
  simp [State.hart]
@[simp] theorem State.writeEvent_cluster (s : State) (time code source : Nat) (p : Bytes) (m : Nat) : (s.writeEvent time code source p).cluster m = s.cluster m := by
  simp [State.cluster]
@[simp] theorem State.writeEvent_stream (s : State) (time code source : Nat) (p : Bytes) (m : Nat) : (s.writeEvent time code source p).stream m = s.stream m := by
  simp [State.stream]
@[simp] theorem State.writeEvent_peer (s : State) (time code source : Nat) (p : Bytes) (m : Nat) : (s.writeEvent time code source p).peer m = s.peer m := by
  simp [State.peer]
@[simp] theorem State.writeEvent_proc (s : State) (time code source : Nat) (p : Bytes) (m : Nat) : (s.writeEvent time code source p).proc m = s.proc m := by
  simp [State.proc]
@[simp] theorem State.writeEvent_pslice (s : State) (time code source : Nat) (p : Bytes) (m : Nat) : (s.writeEvent time code source p).pslice m = s.pslice m := by
  simp [State.pslice]
@[simp] theorem State.writeEvent_queue (s : State) (time code source : Nat) (p : Bytes) (m : Nat) : (s.writeEvent time code source p).queue m = s.queue m := by
  simp [State.queue]
@[simp] theorem State.writeEvent_ctx (s : State) (time code source : Nat) (p : Bytes) (m : Nat) : (s.writeEvent time code source p).ctx m = s.ctx m := by
  simp [State.ctx]
theorem State.writeEvent_mem (s : State) (time code source : Nat) (p : Bytes) : (s.writeEvent time code source p).mem = { s.mem with bytes := (s.writeEvent time code source p).mem.bytes } := by
  unfold State.writeEvent
  split
  · rfl
  · simp only [State.noteChange_mem, State.setNum_mem]
    exact State.writeBytes_mem _ _ _
@[simp] theorem State.writeEvent_entry (s : State) (time code source : Nat) (p : Bytes) (m : Nat) : (s.writeEvent time code source p).entry m = s.entry m := by
  simp only [State.entry]
  rw [State.writeEvent_mem]
@[simp] theorem State.writeEvent_chan (s : State) (time code source : Nat) (p : Bytes) (m : Nat) : (s.writeEvent time code source p).chan m = s.chan m := by
  simp only [State.chan]
  rw [State.writeEvent_mem]
@[simp] theorem State.writeEvent_places (s : State) (time code source : Nat) (p : Bytes) (m : Nat) : (s.writeEvent time code source p).places m = s.places m := by
  simp only [State.places, State.writeEvent_entry]
  rw [State.writeEvent_mem]
theorem State.writeEvent_val_other (s : State) (time code source : Nat) (p : Bytes) (row : ObjRow) (m : Nat) (h0 : row.key m ≠ Obj.evtTail.key 0) :
    (s.writeEvent time code source p).val row m = s.val row m := by
  unfold State.writeEvent
  split
  · rfl
  · simp [State.setNum_val_other, h0]
theorem State.writeEvent_num_other (s : State) (time code source : Nat) (p : Bytes) (row : ObjRow) (m : Nat) (h0 : row.key m ≠ Obj.evtTail.key 0) :
    (s.writeEvent time code source p).num row m = s.num row m := by
  simp only [State.num, State.writeEvent_val_other s _ _ _ _ row m h0]

/-! ## postEvent -/

@[simp] theorem State.postEvent_pending (s : State) (code source : Nat) (p : Bytes) : (s.postEvent code source p).pending = s.pending := by
  unfold State.postEvent
  repeat' split
  all_goals simp
@[simp] theorem State.postEvent_clk (s : State) (code source : Nat) (p : Bytes) : (s.postEvent code source p).clk = s.clk := by
  unfold State.postEvent
  repeat' split
  all_goals simp
@[simp] theorem State.postEvent_pins (s : State) (code source : Nat) (p : Bytes) : (s.postEvent code source p).pins = s.pins := by
  unfold State.postEvent
  repeat' split
  all_goals simp
@[simp] theorem State.postEvent_rst (s : State) (code source : Nat) (p : Bytes) : (s.postEvent code source p).rst = s.rst := by
  unfold State.postEvent
  repeat' split
  all_goals simp
@[simp] theorem State.postEvent_isl (s : State) (code source : Nat) (p : Bytes) : (s.postEvent code source p).isl = s.isl := by
  unfold State.postEvent
  repeat' split
  all_goals simp
@[simp] theorem State.postEvent_slices (s : State) (code source : Nat) (p : Bytes) : (s.postEvent code source p).slices = s.slices := by
  unfold State.postEvent
  repeat' split
  all_goals simp
@[simp] theorem State.postEvent_harts (s : State) (code source : Nat) (p : Bytes) : (s.postEvent code source p).harts = s.harts := by
  unfold State.postEvent
  repeat' split
  all_goals simp
@[simp] theorem State.postEvent_clusters (s : State) (code source : Nat) (p : Bytes) : (s.postEvent code source p).clusters = s.clusters := by
  unfold State.postEvent
  repeat' split
  all_goals simp
@[simp] theorem State.postEvent_tasks (s : State) (code source : Nat) (p : Bytes) : (s.postEvent code source p).tasks = s.tasks := by
  unfold State.postEvent
  repeat' split
  all_goals simp
@[simp] theorem State.postEvent_peers (s : State) (code source : Nat) (p : Bytes) : (s.postEvent code source p).peers = s.peers := by
  unfold State.postEvent
  repeat' split
  all_goals simp
@[simp] theorem State.postEvent_work (s : State) (code source : Nat) (p : Bytes) : (s.postEvent code source p).work = s.work := by
  unfold State.postEvent
  repeat' split
  all_goals simp
@[simp] theorem State.postEvent_media (s : State) (code source : Nat) (p : Bytes) : (s.postEvent code source p).media = s.media := by
  unfold State.postEvent
  repeat' split
  all_goals simp
@[simp] theorem State.postEvent_safety (s : State) (code source : Nat) (p : Bytes) : (s.postEvent code source p).safety = s.safety := by
  unfold State.postEvent
  repeat' split
  all_goals simp
@[simp] theorem State.postEvent_power (s : State) (code source : Nat) (p : Bytes) : (s.postEvent code source p).power = s.power := by
  unfold State.postEvent
  repeat' split
  all_goals simp
@[simp] theorem State.postEvent_fw (s : State) (code source : Nat) (p : Bytes) : (s.postEvent code source p).fw = s.fw := by
  unfold State.postEvent
  repeat' split
  all_goals simp
@[simp] theorem State.postEvent_trust (s : State) (code source : Nat) (p : Bytes) : (s.postEvent code source p).trust = s.trust := by
  unfold State.postEvent
  repeat' split
  all_goals simp
@[simp] theorem State.postEvent_pers (s : State) (code source : Nat) (p : Bytes) : (s.postEvent code source p).pers = s.pers := by
  unfold State.postEvent
  repeat' split
  all_goals simp
@[simp] theorem State.postEvent_freeCtr (s : State) (code source : Nat) (p : Bytes) : (s.postEvent code source p).freeCtr = s.freeCtr := by
  unfold State.postEvent
  repeat' split
  all_goals simp
@[simp] theorem State.postEvent_slice (s : State) (code source : Nat) (p : Bytes) (m : Nat) : (s.postEvent code source p).slice m = s.slice m := by
  simp [State.slice]
@[simp] theorem State.postEvent_hart (s : State) (code source : Nat) (p : Bytes) (m : Nat) : (s.postEvent code source p).hart m = s.hart m := by
  simp [State.hart]
@[simp] theorem State.postEvent_cluster (s : State) (code source : Nat) (p : Bytes) (m : Nat) : (s.postEvent code source p).cluster m = s.cluster m := by
  simp [State.cluster]
@[simp] theorem State.postEvent_stream (s : State) (code source : Nat) (p : Bytes) (m : Nat) : (s.postEvent code source p).stream m = s.stream m := by
  simp [State.stream]
@[simp] theorem State.postEvent_peer (s : State) (code source : Nat) (p : Bytes) (m : Nat) : (s.postEvent code source p).peer m = s.peer m := by
  simp [State.peer]
@[simp] theorem State.postEvent_proc (s : State) (code source : Nat) (p : Bytes) (m : Nat) : (s.postEvent code source p).proc m = s.proc m := by
  simp [State.proc]
@[simp] theorem State.postEvent_pslice (s : State) (code source : Nat) (p : Bytes) (m : Nat) : (s.postEvent code source p).pslice m = s.pslice m := by
  simp [State.pslice]
@[simp] theorem State.postEvent_queue (s : State) (code source : Nat) (p : Bytes) (m : Nat) : (s.postEvent code source p).queue m = s.queue m := by
  simp [State.queue]
@[simp] theorem State.postEvent_ctx (s : State) (code source : Nat) (p : Bytes) (m : Nat) : (s.postEvent code source p).ctx m = s.ctx m := by
  simp [State.ctx]
theorem State.postEvent_mem (s : State) (code source : Nat) (p : Bytes) : (s.postEvent code source p).mem = { s.mem with bytes := (s.postEvent code source p).mem.bytes } := by
  unfold State.postEvent
  repeat' split
  · exact State.writeEvent_mem _ _ _ _ _
  · rfl
  · rfl
@[simp] theorem State.postEvent_entry (s : State) (code source : Nat) (p : Bytes) (m : Nat) : (s.postEvent code source p).entry m = s.entry m := by
  simp only [State.entry]
  rw [State.postEvent_mem]
@[simp] theorem State.postEvent_chan (s : State) (code source : Nat) (p : Bytes) (m : Nat) : (s.postEvent code source p).chan m = s.chan m := by
  simp only [State.chan]
  rw [State.postEvent_mem]
@[simp] theorem State.postEvent_places (s : State) (code source : Nat) (p : Bytes) (m : Nat) : (s.postEvent code source p).places m = s.places m := by
  simp only [State.places, State.postEvent_entry]
  rw [State.postEvent_mem]
theorem State.postEvent_val_other (s : State) (code source : Nat) (p : Bytes) (row : ObjRow) (m : Nat) (h0 : row.key m ≠ Obj.evtTail.key 0) (h1 : row.key m ≠ Obj.evtLost.key 0) :
    (s.postEvent code source p).val row m = s.val row m := by
  unfold State.postEvent
  repeat' split
  · exact State.writeEvent_val_other _ _ _ _ _ _ _ h0
  · rfl
  · exact State.count_val_other _ _ _ _ _ _ h1
theorem State.postEvent_num_other (s : State) (code source : Nat) (p : Bytes) (row : ObjRow) (m : Nat) (h0 : row.key m ≠ Obj.evtTail.key 0) (h1 : row.key m ≠ Obj.evtLost.key 0) :
    (s.postEvent code source p).num row m = s.num row m := by
  simp only [State.num, State.postEvent_val_other s _ _ _ row m h0 h1]

/-! ## touch -/

@[simp] theorem State.touch_pending (s : State) (key : Nat) (w : Bool) : (s.touch key w).pending = s.pending := rfl
@[simp] theorem State.touch_clk (s : State) (key : Nat) (w : Bool) : (s.touch key w).clk = s.clk := rfl
@[simp] theorem State.touch_pins (s : State) (key : Nat) (w : Bool) : (s.touch key w).pins = s.pins := rfl
@[simp] theorem State.touch_rst (s : State) (key : Nat) (w : Bool) : (s.touch key w).rst = s.rst := rfl
@[simp] theorem State.touch_objs (s : State) (key : Nat) (w : Bool) : (s.touch key w).objs = s.objs := rfl
@[simp] theorem State.touch_isl (s : State) (key : Nat) (w : Bool) : (s.touch key w).isl = s.isl := rfl
@[simp] theorem State.touch_slices (s : State) (key : Nat) (w : Bool) : (s.touch key w).slices = s.slices := rfl
@[simp] theorem State.touch_harts (s : State) (key : Nat) (w : Bool) : (s.touch key w).harts = s.harts := rfl
@[simp] theorem State.touch_clusters (s : State) (key : Nat) (w : Bool) : (s.touch key w).clusters = s.clusters := rfl
@[simp] theorem State.touch_tasks (s : State) (key : Nat) (w : Bool) : (s.touch key w).tasks = s.tasks := rfl
@[simp] theorem State.touch_mem (s : State) (key : Nat) (w : Bool) : (s.touch key w).mem = s.mem := rfl
@[simp] theorem State.touch_peers (s : State) (key : Nat) (w : Bool) : (s.touch key w).peers = s.peers := rfl
@[simp] theorem State.touch_work (s : State) (key : Nat) (w : Bool) : (s.touch key w).work = s.work := rfl
@[simp] theorem State.touch_media (s : State) (key : Nat) (w : Bool) : (s.touch key w).media = s.media := rfl
@[simp] theorem State.touch_safety (s : State) (key : Nat) (w : Bool) : (s.touch key w).safety = s.safety := rfl
@[simp] theorem State.touch_power (s : State) (key : Nat) (w : Bool) : (s.touch key w).power = s.power := rfl
@[simp] theorem State.touch_fw (s : State) (key : Nat) (w : Bool) : (s.touch key w).fw = s.fw := rfl
@[simp] theorem State.touch_trust (s : State) (key : Nat) (w : Bool) : (s.touch key w).trust = s.trust := rfl
@[simp] theorem State.touch_pers (s : State) (key : Nat) (w : Bool) : (s.touch key w).pers = s.pers := rfl
@[simp] theorem State.touch_freeCtr (s : State) (key : Nat) (w : Bool) : (s.touch key w).freeCtr = s.freeCtr := rfl
@[simp] theorem State.touch_slice (s : State) (key : Nat) (w : Bool) (m : Nat) : (s.touch key w).slice m = s.slice m := rfl
@[simp] theorem State.touch_hart (s : State) (key : Nat) (w : Bool) (m : Nat) : (s.touch key w).hart m = s.hart m := rfl
@[simp] theorem State.touch_cluster (s : State) (key : Nat) (w : Bool) (m : Nat) : (s.touch key w).cluster m = s.cluster m := rfl
@[simp] theorem State.touch_stream (s : State) (key : Nat) (w : Bool) (m : Nat) : (s.touch key w).stream m = s.stream m := rfl
@[simp] theorem State.touch_peer (s : State) (key : Nat) (w : Bool) (m : Nat) : (s.touch key w).peer m = s.peer m := rfl
@[simp] theorem State.touch_proc (s : State) (key : Nat) (w : Bool) (m : Nat) : (s.touch key w).proc m = s.proc m := rfl
@[simp] theorem State.touch_pslice (s : State) (key : Nat) (w : Bool) (m : Nat) : (s.touch key w).pslice m = s.pslice m := rfl
@[simp] theorem State.touch_queue (s : State) (key : Nat) (w : Bool) (m : Nat) : (s.touch key w).queue m = s.queue m := rfl
@[simp] theorem State.touch_ctx (s : State) (key : Nat) (w : Bool) (m : Nat) : (s.touch key w).ctx m = s.ctx m := rfl
@[simp] theorem State.touch_readByte (s : State) (key : Nat) (w : Bool) (a : Nat) : (s.touch key w).readByte a = s.readByte a := rfl
@[simp] theorem State.touch_val (s : State) (key : Nat) (w : Bool) (row : ObjRow) (m : Nat) : (s.touch key w).val row m = s.val row m := rfl
@[simp] theorem State.touch_num (s : State) (key : Nat) (w : Bool) (row : ObjRow) (m : Nat) : (s.touch key w).num row m = s.num row m := rfl
@[simp] theorem State.touch_blob (s : State) (key : Nat) (w : Bool) (row : ObjRow) (m : Nat) : (s.touch key w).blob row m = s.blob row m := rfl

/-! ## respond -/

@[simp] theorem State.respond_pending (s : State) (r : Req) (type st : Nat) (b : Bytes) (k : Bool) : (s.respond r type st b k).pending = s.pending := by
  unfold State.respond
  rfl
@[simp] theorem State.respond_clk (s : State) (r : Req) (type st : Nat) (b : Bytes) (k : Bool) : (s.respond r type st b k).clk = s.clk := by
  unfold State.respond
  rfl
@[simp] theorem State.respond_pins (s : State) (r : Req) (type st : Nat) (b : Bytes) (k : Bool) : (s.respond r type st b k).pins = s.pins := by
  unfold State.respond
  rfl
@[simp] theorem State.respond_rst (s : State) (r : Req) (type st : Nat) (b : Bytes) (k : Bool) : (s.respond r type st b k).rst = s.rst := by
  unfold State.respond
  rfl
@[simp] theorem State.respond_objs (s : State) (r : Req) (type st : Nat) (b : Bytes) (k : Bool) : (s.respond r type st b k).objs = s.objs := by
  unfold State.respond
  rfl
@[simp] theorem State.respond_isl (s : State) (r : Req) (type st : Nat) (b : Bytes) (k : Bool) : (s.respond r type st b k).isl = s.isl := by
  unfold State.respond
  rfl
@[simp] theorem State.respond_slices (s : State) (r : Req) (type st : Nat) (b : Bytes) (k : Bool) : (s.respond r type st b k).slices = s.slices := by
  unfold State.respond
  rfl
@[simp] theorem State.respond_harts (s : State) (r : Req) (type st : Nat) (b : Bytes) (k : Bool) : (s.respond r type st b k).harts = s.harts := by
  unfold State.respond
  rfl
@[simp] theorem State.respond_clusters (s : State) (r : Req) (type st : Nat) (b : Bytes) (k : Bool) : (s.respond r type st b k).clusters = s.clusters := by
  unfold State.respond
  rfl
@[simp] theorem State.respond_tasks (s : State) (r : Req) (type st : Nat) (b : Bytes) (k : Bool) : (s.respond r type st b k).tasks = s.tasks := by
  unfold State.respond
  rfl
@[simp] theorem State.respond_mem (s : State) (r : Req) (type st : Nat) (b : Bytes) (k : Bool) : (s.respond r type st b k).mem = s.mem := by
  unfold State.respond
  rfl
@[simp] theorem State.respond_peers (s : State) (r : Req) (type st : Nat) (b : Bytes) (k : Bool) : (s.respond r type st b k).peers = s.peers := by
  unfold State.respond
  rfl
@[simp] theorem State.respond_work (s : State) (r : Req) (type st : Nat) (b : Bytes) (k : Bool) : (s.respond r type st b k).work = s.work := by
  unfold State.respond
  rfl
@[simp] theorem State.respond_media (s : State) (r : Req) (type st : Nat) (b : Bytes) (k : Bool) : (s.respond r type st b k).media = s.media := by
  unfold State.respond
  rfl
@[simp] theorem State.respond_safety (s : State) (r : Req) (type st : Nat) (b : Bytes) (k : Bool) : (s.respond r type st b k).safety = s.safety := by
  unfold State.respond
  rfl
@[simp] theorem State.respond_power (s : State) (r : Req) (type st : Nat) (b : Bytes) (k : Bool) : (s.respond r type st b k).power = s.power := by
  unfold State.respond
  rfl
@[simp] theorem State.respond_fw (s : State) (r : Req) (type st : Nat) (b : Bytes) (k : Bool) : (s.respond r type st b k).fw = s.fw := by
  unfold State.respond
  rfl
@[simp] theorem State.respond_trust (s : State) (r : Req) (type st : Nat) (b : Bytes) (k : Bool) : (s.respond r type st b k).trust = s.trust := by
  unfold State.respond
  rfl
@[simp] theorem State.respond_pers (s : State) (r : Req) (type st : Nat) (b : Bytes) (k : Bool) : (s.respond r type st b k).pers = s.pers := by
  unfold State.respond
  rfl
@[simp] theorem State.respond_freeCtr (s : State) (r : Req) (type st : Nat) (b : Bytes) (k : Bool) : (s.respond r type st b k).freeCtr = s.freeCtr := by
  unfold State.respond
  rfl
@[simp] theorem State.respond_slice (s : State) (r : Req) (type st : Nat) (b : Bytes) (k : Bool) (m : Nat) : (s.respond r type st b k).slice m = s.slice m := by
  simp [State.slice]
@[simp] theorem State.respond_hart (s : State) (r : Req) (type st : Nat) (b : Bytes) (k : Bool) (m : Nat) : (s.respond r type st b k).hart m = s.hart m := by
  simp [State.hart]
@[simp] theorem State.respond_cluster (s : State) (r : Req) (type st : Nat) (b : Bytes) (k : Bool) (m : Nat) : (s.respond r type st b k).cluster m = s.cluster m := by
  simp [State.cluster]
@[simp] theorem State.respond_stream (s : State) (r : Req) (type st : Nat) (b : Bytes) (k : Bool) (m : Nat) : (s.respond r type st b k).stream m = s.stream m := by
  simp [State.stream]
@[simp] theorem State.respond_peer (s : State) (r : Req) (type st : Nat) (b : Bytes) (k : Bool) (m : Nat) : (s.respond r type st b k).peer m = s.peer m := by
  simp [State.peer]
@[simp] theorem State.respond_proc (s : State) (r : Req) (type st : Nat) (b : Bytes) (k : Bool) (m : Nat) : (s.respond r type st b k).proc m = s.proc m := by
  simp [State.proc]
@[simp] theorem State.respond_pslice (s : State) (r : Req) (type st : Nat) (b : Bytes) (k : Bool) (m : Nat) : (s.respond r type st b k).pslice m = s.pslice m := by
  simp [State.pslice]
@[simp] theorem State.respond_queue (s : State) (r : Req) (type st : Nat) (b : Bytes) (k : Bool) (m : Nat) : (s.respond r type st b k).queue m = s.queue m := by
  simp [State.queue]
@[simp] theorem State.respond_ctx (s : State) (r : Req) (type st : Nat) (b : Bytes) (k : Bool) (m : Nat) : (s.respond r type st b k).ctx m = s.ctx m := by
  simp [State.ctx]
@[simp] theorem State.respond_readByte (s : State) (r : Req) (type st : Nat) (b : Bytes) (k : Bool) (a : Nat) : (s.respond r type st b k).readByte a = s.readByte a := by
  unfold State.readByte State.entry
  rw [State.respond_mem]
@[simp] theorem State.respond_val (s : State) (r : Req) (type st : Nat) (b : Bytes) (k : Bool) (row : ObjRow) (m : Nat) : (s.respond r type st b k).val row m = s.val row m := by
  simp only [State.val, State.respond_objs]
@[simp] theorem State.respond_num (s : State) (r : Req) (type st : Nat) (b : Bytes) (k : Bool) (row : ObjRow) (m : Nat) : (s.respond r type st b k).num row m = s.num row m := by
  simp only [State.val, State.num, State.respond_objs]
@[simp] theorem State.respond_blob (s : State) (r : Req) (type st : Nat) (b : Bytes) (k : Bool) (row : ObjRow) (m : Nat) : (s.respond r type st b k).blob row m = s.blob row m := by
  simp only [State.val, State.blob, State.respond_objs]

/-! ## advanceTo -/

@[simp] theorem State.advanceTo_pending (s : State) (t : Nat) : (s.advanceTo t).pending = s.pending := by
  unfold State.advanceTo
  split <;> rfl
@[simp] theorem State.advanceTo_pins (s : State) (t : Nat) : (s.advanceTo t).pins = s.pins := by
  unfold State.advanceTo
  split <;> rfl
@[simp] theorem State.advanceTo_rst (s : State) (t : Nat) : (s.advanceTo t).rst = s.rst := by
  unfold State.advanceTo
  split <;> rfl
@[simp] theorem State.advanceTo_objs (s : State) (t : Nat) : (s.advanceTo t).objs = s.objs := by
  unfold State.advanceTo
  split <;> rfl
@[simp] theorem State.advanceTo_isl (s : State) (t : Nat) : (s.advanceTo t).isl = s.isl := by
  unfold State.advanceTo
  split <;> rfl
@[simp] theorem State.advanceTo_slices (s : State) (t : Nat) : (s.advanceTo t).slices = s.slices := by
  unfold State.advanceTo
  split <;> rfl
@[simp] theorem State.advanceTo_harts (s : State) (t : Nat) : (s.advanceTo t).harts = s.harts := by
  unfold State.advanceTo
  split <;> rfl
@[simp] theorem State.advanceTo_clusters (s : State) (t : Nat) : (s.advanceTo t).clusters = s.clusters := by
  unfold State.advanceTo
  split <;> rfl
@[simp] theorem State.advanceTo_tasks (s : State) (t : Nat) : (s.advanceTo t).tasks = s.tasks := by
  unfold State.advanceTo
  split <;> rfl
@[simp] theorem State.advanceTo_mem (s : State) (t : Nat) : (s.advanceTo t).mem = s.mem := by
  unfold State.advanceTo
  split <;> rfl
@[simp] theorem State.advanceTo_peers (s : State) (t : Nat) : (s.advanceTo t).peers = s.peers := by
  unfold State.advanceTo
  split <;> rfl
@[simp] theorem State.advanceTo_work (s : State) (t : Nat) : (s.advanceTo t).work = s.work := by
  unfold State.advanceTo
  split <;> rfl
@[simp] theorem State.advanceTo_media (s : State) (t : Nat) : (s.advanceTo t).media = s.media := by
  unfold State.advanceTo
  split <;> rfl
@[simp] theorem State.advanceTo_link (s : State) (t : Nat) : (s.advanceTo t).link = s.link := by
  unfold State.advanceTo
  split <;> rfl
@[simp] theorem State.advanceTo_safety (s : State) (t : Nat) : (s.advanceTo t).safety = s.safety := by
  unfold State.advanceTo
  split <;> rfl
@[simp] theorem State.advanceTo_power (s : State) (t : Nat) : (s.advanceTo t).power = s.power := by
  unfold State.advanceTo
  split <;> rfl
@[simp] theorem State.advanceTo_fw (s : State) (t : Nat) : (s.advanceTo t).fw = s.fw := by
  unfold State.advanceTo
  split <;> rfl
@[simp] theorem State.advanceTo_trust (s : State) (t : Nat) : (s.advanceTo t).trust = s.trust := by
  unfold State.advanceTo
  split <;> rfl
@[simp] theorem State.advanceTo_pers (s : State) (t : Nat) : (s.advanceTo t).pers = s.pers := by
  unfold State.advanceTo
  split <;> rfl
@[simp] theorem State.advanceTo_freeCtr (s : State) (t : Nat) : (s.advanceTo t).freeCtr = s.freeCtr := by
  unfold State.advanceTo
  split <;> rfl
@[simp] theorem State.advanceTo_slice (s : State) (t : Nat) (m : Nat) : (s.advanceTo t).slice m = s.slice m := by
  simp [State.slice]
@[simp] theorem State.advanceTo_hart (s : State) (t : Nat) (m : Nat) : (s.advanceTo t).hart m = s.hart m := by
  simp [State.hart]
@[simp] theorem State.advanceTo_cluster (s : State) (t : Nat) (m : Nat) : (s.advanceTo t).cluster m = s.cluster m := by
  simp [State.cluster]
@[simp] theorem State.advanceTo_stream (s : State) (t : Nat) (m : Nat) : (s.advanceTo t).stream m = s.stream m := by
  simp [State.stream]
@[simp] theorem State.advanceTo_peer (s : State) (t : Nat) (m : Nat) : (s.advanceTo t).peer m = s.peer m := by
  simp [State.peer]
@[simp] theorem State.advanceTo_proc (s : State) (t : Nat) (m : Nat) : (s.advanceTo t).proc m = s.proc m := by
  simp [State.proc]
@[simp] theorem State.advanceTo_pslice (s : State) (t : Nat) (m : Nat) : (s.advanceTo t).pslice m = s.pslice m := by
  simp [State.pslice]
@[simp] theorem State.advanceTo_queue (s : State) (t : Nat) (m : Nat) : (s.advanceTo t).queue m = s.queue m := by
  simp [State.queue]
@[simp] theorem State.advanceTo_ctx (s : State) (t : Nat) (m : Nat) : (s.advanceTo t).ctx m = s.ctx m := by
  simp [State.ctx]
@[simp] theorem State.advanceTo_readByte (s : State) (t : Nat) (a : Nat) : (s.advanceTo t).readByte a = s.readByte a := by
  unfold State.readByte State.entry
  rw [State.advanceTo_mem]
@[simp] theorem State.advanceTo_val (s : State) (t : Nat) (row : ObjRow) (m : Nat) : (s.advanceTo t).val row m = s.val row m := by
  simp only [State.val, State.advanceTo_objs]
@[simp] theorem State.advanceTo_num (s : State) (t : Nat) (row : ObjRow) (m : Nat) : (s.advanceTo t).num row m = s.num row m := by
  simp only [State.val, State.num, State.advanceTo_objs]
@[simp] theorem State.advanceTo_blob (s : State) (t : Nat) (row : ObjRow) (m : Nat) : (s.advanceTo t).blob row m = s.blob row m := by
  simp only [State.val, State.blob, State.advanceTo_objs]

/-! ## draw -/

@[simp] theorem State.draw_pending (s : State) : (s.draw.2).pending = s.pending := rfl
@[simp] theorem State.draw_clk (s : State) : (s.draw.2).clk = s.clk := rfl
@[simp] theorem State.draw_pins (s : State) : (s.draw.2).pins = s.pins := rfl
@[simp] theorem State.draw_rst (s : State) : (s.draw.2).rst = s.rst := rfl
@[simp] theorem State.draw_objs (s : State) : (s.draw.2).objs = s.objs := rfl
@[simp] theorem State.draw_isl (s : State) : (s.draw.2).isl = s.isl := rfl
@[simp] theorem State.draw_slices (s : State) : (s.draw.2).slices = s.slices := rfl
@[simp] theorem State.draw_harts (s : State) : (s.draw.2).harts = s.harts := rfl
@[simp] theorem State.draw_clusters (s : State) : (s.draw.2).clusters = s.clusters := rfl
@[simp] theorem State.draw_tasks (s : State) : (s.draw.2).tasks = s.tasks := rfl
@[simp] theorem State.draw_mem (s : State) : (s.draw.2).mem = s.mem := rfl
@[simp] theorem State.draw_peers (s : State) : (s.draw.2).peers = s.peers := rfl
@[simp] theorem State.draw_work (s : State) : (s.draw.2).work = s.work := rfl
@[simp] theorem State.draw_media (s : State) : (s.draw.2).media = s.media := rfl
@[simp] theorem State.draw_link (s : State) : (s.draw.2).link = s.link := rfl
@[simp] theorem State.draw_safety (s : State) : (s.draw.2).safety = s.safety := rfl
@[simp] theorem State.draw_power (s : State) : (s.draw.2).power = s.power := rfl
@[simp] theorem State.draw_fw (s : State) : (s.draw.2).fw = s.fw := rfl
@[simp] theorem State.draw_trust (s : State) : (s.draw.2).trust = s.trust := rfl
@[simp] theorem State.draw_pers (s : State) : (s.draw.2).pers = s.pers := rfl
@[simp] theorem State.draw_slice (s : State) (m : Nat) : (s.draw.2).slice m = s.slice m := rfl
@[simp] theorem State.draw_hart (s : State) (m : Nat) : (s.draw.2).hart m = s.hart m := rfl
@[simp] theorem State.draw_cluster (s : State) (m : Nat) : (s.draw.2).cluster m = s.cluster m := rfl
@[simp] theorem State.draw_stream (s : State) (m : Nat) : (s.draw.2).stream m = s.stream m := rfl
@[simp] theorem State.draw_peer (s : State) (m : Nat) : (s.draw.2).peer m = s.peer m := rfl
@[simp] theorem State.draw_proc (s : State) (m : Nat) : (s.draw.2).proc m = s.proc m := rfl
@[simp] theorem State.draw_pslice (s : State) (m : Nat) : (s.draw.2).pslice m = s.pslice m := rfl
@[simp] theorem State.draw_queue (s : State) (m : Nat) : (s.draw.2).queue m = s.queue m := rfl
@[simp] theorem State.draw_ctx (s : State) (m : Nat) : (s.draw.2).ctx m = s.ctx m := rfl
@[simp] theorem State.draw_readByte (s : State) (a : Nat) : (s.draw.2).readByte a = s.readByte a := rfl
@[simp] theorem State.draw_val (s : State) (row : ObjRow) (m : Nat) : (s.draw.2).val row m = s.val row m := rfl
@[simp] theorem State.draw_num (s : State) (row : ObjRow) (m : Nat) : (s.draw.2).num row m = s.num row m := rfl
@[simp] theorem State.draw_blob (s : State) (row : ObjRow) (m : Nat) : (s.draw.2).blob row m = s.blob row m := rfl

/-! ## sendSafety -/

@[simp] theorem State.sendSafety_pending (s : State) (type st status sof epoch : Nat) : (s.sendSafety type st status sof epoch).pending = s.pending := by
  unfold State.sendSafety
  split <;> rfl
@[simp] theorem State.sendSafety_clk (s : State) (type st status sof epoch : Nat) : (s.sendSafety type st status sof epoch).clk = s.clk := by
  unfold State.sendSafety
  split <;> rfl
@[simp] theorem State.sendSafety_pins (s : State) (type st status sof epoch : Nat) : (s.sendSafety type st status sof epoch).pins = s.pins := by
  unfold State.sendSafety
  split <;> rfl
@[simp] theorem State.sendSafety_rst (s : State) (type st status sof epoch : Nat) : (s.sendSafety type st status sof epoch).rst = s.rst := by
  unfold State.sendSafety
  split <;> rfl
@[simp] theorem State.sendSafety_isl (s : State) (type st status sof epoch : Nat) : (s.sendSafety type st status sof epoch).isl = s.isl := by
  unfold State.sendSafety
  split <;> rfl
@[simp] theorem State.sendSafety_slices (s : State) (type st status sof epoch : Nat) : (s.sendSafety type st status sof epoch).slices = s.slices := by
  unfold State.sendSafety
  split <;> rfl
@[simp] theorem State.sendSafety_harts (s : State) (type st status sof epoch : Nat) : (s.sendSafety type st status sof epoch).harts = s.harts := by
  unfold State.sendSafety
  split <;> rfl
@[simp] theorem State.sendSafety_clusters (s : State) (type st status sof epoch : Nat) : (s.sendSafety type st status sof epoch).clusters = s.clusters := by
  unfold State.sendSafety
  split <;> rfl
@[simp] theorem State.sendSafety_tasks (s : State) (type st status sof epoch : Nat) : (s.sendSafety type st status sof epoch).tasks = s.tasks := by
  unfold State.sendSafety
  split <;> rfl
@[simp] theorem State.sendSafety_mem (s : State) (type st status sof epoch : Nat) : (s.sendSafety type st status sof epoch).mem = s.mem := by
  unfold State.sendSafety
  split <;> rfl
@[simp] theorem State.sendSafety_peers (s : State) (type st status sof epoch : Nat) : (s.sendSafety type st status sof epoch).peers = s.peers := by
  unfold State.sendSafety
  split <;> rfl
@[simp] theorem State.sendSafety_work (s : State) (type st status sof epoch : Nat) : (s.sendSafety type st status sof epoch).work = s.work := by
  unfold State.sendSafety
  split <;> rfl
@[simp] theorem State.sendSafety_media (s : State) (type st status sof epoch : Nat) : (s.sendSafety type st status sof epoch).media = s.media := by
  unfold State.sendSafety
  split <;> rfl
@[simp] theorem State.sendSafety_link (s : State) (type st status sof epoch : Nat) : (s.sendSafety type st status sof epoch).link = s.link := by
  unfold State.sendSafety
  split <;> rfl
@[simp] theorem State.sendSafety_power (s : State) (type st status sof epoch : Nat) : (s.sendSafety type st status sof epoch).power = s.power := by
  unfold State.sendSafety
  split <;> rfl
@[simp] theorem State.sendSafety_fw (s : State) (type st status sof epoch : Nat) : (s.sendSafety type st status sof epoch).fw = s.fw := by
  unfold State.sendSafety
  split <;> rfl
@[simp] theorem State.sendSafety_trust (s : State) (type st status sof epoch : Nat) : (s.sendSafety type st status sof epoch).trust = s.trust := by
  unfold State.sendSafety
  split <;> rfl
@[simp] theorem State.sendSafety_pers (s : State) (type st status sof epoch : Nat) : (s.sendSafety type st status sof epoch).pers = s.pers := by
  unfold State.sendSafety
  split <;> rfl
@[simp] theorem State.sendSafety_freeCtr (s : State) (type st status sof epoch : Nat) : (s.sendSafety type st status sof epoch).freeCtr = s.freeCtr := by
  unfold State.sendSafety
  split <;> rfl
@[simp] theorem State.sendSafety_slice (s : State) (type st status sof epoch : Nat) (m : Nat) : (s.sendSafety type st status sof epoch).slice m = s.slice m := by
  simp [State.slice]
@[simp] theorem State.sendSafety_hart (s : State) (type st status sof epoch : Nat) (m : Nat) : (s.sendSafety type st status sof epoch).hart m = s.hart m := by
  simp [State.hart]
@[simp] theorem State.sendSafety_cluster (s : State) (type st status sof epoch : Nat) (m : Nat) : (s.sendSafety type st status sof epoch).cluster m = s.cluster m := by
  simp [State.cluster]
@[simp] theorem State.sendSafety_stream (s : State) (type st status sof epoch : Nat) (m : Nat) : (s.sendSafety type st status sof epoch).stream m = s.stream m := by
  simp [State.stream]
@[simp] theorem State.sendSafety_peer (s : State) (type st status sof epoch : Nat) (m : Nat) : (s.sendSafety type st status sof epoch).peer m = s.peer m := by
  simp [State.peer]
@[simp] theorem State.sendSafety_proc (s : State) (type st status sof epoch : Nat) (m : Nat) : (s.sendSafety type st status sof epoch).proc m = s.proc m := by
  simp [State.proc]
@[simp] theorem State.sendSafety_pslice (s : State) (type st status sof epoch : Nat) (m : Nat) : (s.sendSafety type st status sof epoch).pslice m = s.pslice m := by
  simp [State.pslice]
@[simp] theorem State.sendSafety_queue (s : State) (type st status sof epoch : Nat) (m : Nat) : (s.sendSafety type st status sof epoch).queue m = s.queue m := by
  simp [State.queue]
@[simp] theorem State.sendSafety_ctx (s : State) (type st status sof epoch : Nat) (m : Nat) : (s.sendSafety type st status sof epoch).ctx m = s.ctx m := by
  simp [State.ctx]
@[simp] theorem State.sendSafety_readByte (s : State) (type st status sof epoch : Nat) (a : Nat) : (s.sendSafety type st status sof epoch).readByte a = s.readByte a := by
  unfold State.readByte State.entry
  rw [State.sendSafety_mem]
theorem State.sendSafety_val_other (s : State) (type st status sof epoch : Nat) (row : ObjRow) (m : Nat) (h0 : row.key m ≠ Obj.spFrames.key 0) :
    (s.sendSafety type st status sof epoch).val row m = s.val row m := by
  unfold State.sendSafety
  split
  · rfl
  · exact State.count_val_other _ _ _ _ _ _ h0
theorem State.sendSafety_num_other (s : State) (type st status sof epoch : Nat) (row : ObjRow) (m : Nat) (h0 : row.key m ≠ Obj.spFrames.key 0) :
    (s.sendSafety type st status sof epoch).num row m = s.num row m := by
  simp only [State.num, State.sendSafety_val_other s _ _ _ _ _ row m h0]

/-! ## settle -/

@[simp] theorem State.settle_pending (s : State) (old : State) : (settle old s).pending = s.pending := by
  unfold settle
  dsimp only
  repeat' split
  all_goals simp
@[simp] theorem State.settle_clk (s : State) (old : State) : (settle old s).clk = s.clk := by
  unfold settle
  dsimp only
  repeat' split
  all_goals simp
@[simp] theorem State.settle_pins (s : State) (old : State) : (settle old s).pins = s.pins := by
  unfold settle
  dsimp only
  repeat' split
  all_goals simp
@[simp] theorem State.settle_rst (s : State) (old : State) : (settle old s).rst = s.rst := by
  unfold settle
  dsimp only
  repeat' split
  all_goals simp
@[simp] theorem State.settle_isl (s : State) (old : State) : (settle old s).isl = s.isl := by
  unfold settle
  dsimp only
  repeat' split
  all_goals simp
@[simp] theorem State.settle_slices (s : State) (old : State) : (settle old s).slices = s.slices := by
  unfold settle
  dsimp only
  repeat' split
  all_goals simp
@[simp] theorem State.settle_harts (s : State) (old : State) : (settle old s).harts = s.harts := by
  unfold settle
  dsimp only
  repeat' split
  all_goals simp
@[simp] theorem State.settle_clusters (s : State) (old : State) : (settle old s).clusters = s.clusters := by
  unfold settle
  dsimp only
  repeat' split
  all_goals simp
@[simp] theorem State.settle_tasks (s : State) (old : State) : (settle old s).tasks = s.tasks := by
  unfold settle
  dsimp only
  repeat' split
  all_goals simp
@[simp] theorem State.settle_peers (s : State) (old : State) : (settle old s).peers = s.peers := by
  unfold settle
  dsimp only
  repeat' split
  all_goals simp
@[simp] theorem State.settle_work (s : State) (old : State) : (settle old s).work = s.work := by
  unfold settle
  dsimp only
  repeat' split
  all_goals simp
@[simp] theorem State.settle_media (s : State) (old : State) : (settle old s).media = s.media := by
  unfold settle
  dsimp only
  repeat' split
  all_goals simp
@[simp] theorem State.settle_power (s : State) (old : State) : (settle old s).power = s.power := by
  unfold settle
  dsimp only
  repeat' split
  all_goals simp
@[simp] theorem State.settle_fw (s : State) (old : State) : (settle old s).fw = s.fw := by
  unfold settle
  dsimp only
  repeat' split
  all_goals simp
@[simp] theorem State.settle_trust (s : State) (old : State) : (settle old s).trust = s.trust := by
  unfold settle
  dsimp only
  repeat' split
  all_goals simp
@[simp] theorem State.settle_pers (s : State) (old : State) : (settle old s).pers = s.pers := by
  unfold settle
  dsimp only
  repeat' split
  all_goals simp
@[simp] theorem State.settle_freeCtr (s : State) (old : State) : (settle old s).freeCtr = s.freeCtr := by
  unfold settle
  dsimp only
  repeat' split
  all_goals simp
@[simp] theorem State.settle_slice (s : State) (old : State) (m : Nat) : (settle old s).slice m = s.slice m := by
  simp [State.slice]
@[simp] theorem State.settle_hart (s : State) (old : State) (m : Nat) : (settle old s).hart m = s.hart m := by
  simp [State.hart]
@[simp] theorem State.settle_cluster (s : State) (old : State) (m : Nat) : (settle old s).cluster m = s.cluster m := by
  simp [State.cluster]
@[simp] theorem State.settle_stream (s : State) (old : State) (m : Nat) : (settle old s).stream m = s.stream m := by
  simp [State.stream]
@[simp] theorem State.settle_peer (s : State) (old : State) (m : Nat) : (settle old s).peer m = s.peer m := by
  simp [State.peer]
@[simp] theorem State.settle_proc (s : State) (old : State) (m : Nat) : (settle old s).proc m = s.proc m := by
  simp [State.proc]
@[simp] theorem State.settle_pslice (s : State) (old : State) (m : Nat) : (settle old s).pslice m = s.pslice m := by
  simp [State.pslice]
@[simp] theorem State.settle_queue (s : State) (old : State) (m : Nat) : (settle old s).queue m = s.queue m := by
  simp [State.queue]
@[simp] theorem State.settle_ctx (s : State) (old : State) (m : Nat) : (settle old s).ctx m = s.ctx m := by
  simp [State.ctx]
theorem State.settle_mem (s : State) (old : State) : (settle old s).mem = { s.mem with bytes := (settle old s).mem.bytes } := by
  unfold settle
  dsimp only
  repeat' split
  · rw [State.sendSafety_mem]; exact State.postEvent_mem _ _ _ _
  · rw [State.sendSafety_mem]
  · exact State.postEvent_mem _ _ _ _
  · rfl
@[simp] theorem State.settle_entry (s : State) (old : State) (m : Nat) : (settle old s).entry m = s.entry m := by
  simp only [State.entry]
  rw [State.settle_mem]
@[simp] theorem State.settle_chan (s : State) (old : State) (m : Nat) : (settle old s).chan m = s.chan m := by
  simp only [State.chan]
  rw [State.settle_mem]
@[simp] theorem State.settle_places (s : State) (old : State) (m : Nat) : (settle old s).places m = s.places m := by
  simp only [State.places, State.settle_entry]
  rw [State.settle_mem]
theorem State.settle_val_other (s : State) (old : State) (row : ObjRow) (m : Nat) (h0 : row.key m ≠ Obj.evtTail.key 0) (h1 : row.key m ≠ Obj.evtLost.key 0) (h2 : row.key m ≠ Obj.spFrames.key 0) :
    (settle old s).val row m = s.val row m := by
  unfold settle
  dsimp only
  repeat' split
  · rw [State.sendSafety_val_other _ _ _ _ _ _ _ _ h2, State.postEvent_val_other _ _ _ _ _ _ h0 h1]
  · rw [State.sendSafety_val_other _ _ _ _ _ _ _ _ h2]
  · exact State.postEvent_val_other _ _ _ _ _ _ h0 h1
  · rfl
theorem State.settle_num_other (s : State) (old : State) (row : ObjRow) (m : Nat) (h0 : row.key m ≠ Obj.evtTail.key 0) (h1 : row.key m ≠ Obj.evtLost.key 0) (h2 : row.key m ≠ Obj.spFrames.key 0) :
    (settle old s).num row m = s.num row m := by
  simp only [State.num, State.settle_val_other s _ row m h0 h1 h2]

end Sys2Proof.Machine
end

