-- ==== Sys2Proof/Laws/Bytes.lean ====
section
/-! SUPPORT. Reads of device memory after stores: what a store leaves, and what it stored. -/

namespace Sys2Proof.Machine

theorem phys_eq {c k o c' k' o' : Nat} (h : phys c k o = phys c' k' o') (l : o < pageBytes) (l' : o' < pageBytes) : o = o' := by
  unfold phys pageBytes at *
  omega

theorem mod_page (a : Nat) : a % pageBytes < pageBytes := Nat.mod_lt _ (by decide)

/-- Stores reach no address with another offset in its page. -/
theorem State.shares_offset {s : State} {a b : Nat} (h : s.shares a b) : a % pageBytes = b % pageBytes := by
  obtain ⟨p, -, e⟩ := h
  unfold Entry.at at e
  exact (phys_eq e (mod_page _) (mod_page _)).symm

theorem cget_places_other (l : List (Nat × Nat)) (m : List Host.Cell) (o x : Nat) (b : Byte) (h : ∀ p ∈ l, phys p.1 p.2 o ≠ x) :
    cget (l.foldl (fun m p => cput m (phys p.1 p.2 o) b) m) x = cget m x := by
  induction l generalizing m with
  | nil => rfl
  | cons p r ih =>
    simp only [List.foldl_cons]
    rw [ih _ (fun q hq => h q (List.mem_cons_of_mem _ hq))]
    exact cget_cput_other _ _ _ _ (fun e => h p List.mem_cons_self e.symm)

theorem cget_places_same (l : List (Nat × Nat)) (m : List Host.Cell) (o x : Nat) (b : Byte) (w : Memory.wf m = true)
    (h : ∃ p ∈ l, phys p.1 p.2 o = x) : cget (l.foldl (fun m p => cput m (phys p.1 p.2 o) b) m) x = b := by
  induction l generalizing m with
  | nil => obtain ⟨p, hp, -⟩ := h; cases hp
  | cons p r ih =>
    simp only [List.foldl_cons]
    by_cases e : ∃ q ∈ r, phys q.1 q.2 o = x
    · exact ih _ (cput_wf _ _ _ w) e
    · rw [cget_places_other _ _ _ _ _ (fun q hq e' => e ⟨q, hq, e'⟩)]
      obtain ⟨q, hq, rfl⟩ := h
      rcases List.mem_cons.mp hq with rfl | hq
      · exact cget_cput_same _ _ _ w
      · exact absurd ⟨q, hq, rfl⟩ e

@[simp] theorem State.writeByte_places (s : State) (a : Nat) (b : Byte) (n : Nat) : (s.writeByte a b).places n = s.places n := rfl

theorem State.writeByte_shares (s : State) (c : Nat) (v : Byte) (a b : Nat) : (s.writeByte c v).shares a b ↔ s.shares a b := Iff.rfl

/-- A store leaves every address that does not share its cells. -/
theorem State.readByte_writeByte_other (s : State) (a c : Nat) (b : Byte) (h : ¬ s.shares a c) :
    (s.writeByte c b).readByte a = s.readByte a := by
  unfold State.readByte
  simp only [State.writeByte_entry]
  congr 1
  exact cget_places_other _ _ _ _ _ (fun p hp e => h ⟨p, hp, e⟩)

/-- A stored byte is read back. -/
theorem State.readByte_writeByte_same (s : State) (a : Nat) (b : Byte) (w : Memory.wf s.mem.bytes = true)
    (h : (s.entry (a / pageBytes)).backed = true) : (s.writeByte a b).readByte a = b := by
  unfold State.readByte
  simp only [State.writeByte_entry, h, if_true]
  refine cget_places_same _ _ _ _ _ w ⟨((s.entry (a / pageBytes)).channel, (s.entry (a / pageBytes)).slot), ?_, rfl⟩
  simp [State.places, h]

theorem State.readByte_writeBytes_other (b : Bytes) (s : State) (a c : Nat) (h : ∀ i < b.length, ¬ s.shares a (c + i)) :
    (s.writeBytes c b).readByte a = s.readByte a := by
  induction b generalizing s c with
  | nil => rfl
  | cons x r ih =>
    simp only [State.writeBytes]
    rw [ih]
    · exact s.readByte_writeByte_other _ _ _ (h 0 (by simp))
    · intro i hi
      have := h (i + 1) (by simpa using hi)
      rw [State.writeByte_shares]
      rwa [Nat.add_right_comm, Nat.add_assoc] 

/-- Bytes stored within a page's length are read back. -/
theorem State.readBytes_writeBytes_same (b : Bytes) (s : State) (a : Nat) (w : Memory.wf s.mem.bytes = true)
    (l : b.length ≤ pageBytes) (h : ∀ i < b.length, (s.entry ((a + i) / pageBytes)).backed = true) :
    (s.writeBytes a b).readBytes a b.length = b := by
  induction b generalizing s a with
  | nil => rfl
  | cons x r ih =>
    have l' : r.length < pageBytes := l
    have t := ih (s.writeByte a x) (a + 1) (s.writeByte_bytes_wf a x w) (by omega) (fun i hi => by
      have := h (i + 1) (by simpa using hi)
      rw [State.writeByte_entry]
      rwa [Nat.add_right_comm, Nat.add_assoc])
    simp only [State.writeBytes, State.readBytes, List.length_cons, List.range_succ_eq_map, List.map_cons, List.map_map]
    congr 1
    · rw [Nat.add_zero, State.readByte_writeBytes_other]
      · exact s.readByte_writeByte_same a x w (by simpa using h 0 (by simp))
      · intro i hi e
        have q := State.shares_offset e
        unfold pageBytes at q l'
        omega
    · refine Eq.trans ?_ t
      unfold State.readBytes
      refine List.map_congr_left (fun i _ => ?_)
      show (State.writeBytes _ _ _).readByte (a + (i + 1)) = (State.writeBytes _ _ _).readByte (a + 1 + i)
      rw [Nat.add_right_comm, Nat.add_assoc]

end Sys2Proof.Machine
end

