-- ==== Sys2Proof/Laws/Events.lean ====
section
/-! SUPPORT. Events, safety frames and device-level causes: what they write and what they leave. -/

namespace Sys2Proof.Machine

@[simp] theorem State.noteChange_readByte (s : State) (q : Option Nat) (a : Nat) : (s.noteChange q).readByte a = s.readByte a := rfl
@[simp] theorem State.setNum_readByte (s : State) (r : ObjRow) (k n a : Nat) : (s.setNum r k n).readByte a = s.readByte a := rfl
@[simp] theorem State.count_readByte (s : State) (r : ObjRow) (k n a : Nat) : (s.count r k n).readByte a = s.readByte a := rfl

@[simp] theorem State.noteChange_readBytes (s : State) (q : Option Nat) (a n : Nat) :
    (s.noteChange q).readBytes a n = s.readBytes a n := rfl
@[simp] theorem State.setNum_readBytes (s : State) (r : ObjRow) (k m a n : Nat) :
    (s.setNum r k m).readBytes a n = s.readBytes a n := rfl

theorem le_length (k n : Nat) : (le k n).length = k := by
  induction k generalizing n with
  | zero => rfl
  | succ k ih => simp [le, ih]

theorem eventEntry_length (time code count source : Nat) (b : Bytes) (ph : Nat) (h : b.length ≤ 40) :
    (eventEntry time code count source b ph).length = 64 := by
  simp [eventEntry, le_length, pad, zeros]
  omega

/-- Device address of the event ring's next slot in a ring at page p. -/
def State.nextEvent (s : State) (p : Nat) : Nat := p * pageBytes + 64 * (s.num Obj.evtTail % s.link.evDepth)

/-- An event leaves every byte outside the cells of the ring's next slot. -/
theorem State.writeEvent_readByte (s : State) (time code source : Nat) (b : Bytes) (a : Nat)
    (h : ∀ p k, s.link.evBase = some (p, k) →
      ∀ i < (eventEntry time code (s.num Obj.evtTail + 1) source b (phase s.link.evDepth (s.num Obj.evtTail + 1))).length,
        ¬ s.shares a (s.nextEvent p + i)) :
    (s.writeEvent time code source b).readByte a = s.readByte a := by
  unfold State.writeEvent
  split
  · rfl
  · rename_i p k e
    simp only [State.noteChange_readByte, State.setNum_readByte]
    exact State.readByte_writeBytes_other _ _ _ _ (h p k e)

/-- An event leaves the host link as it stands but for the events that wait and the changes that an EVENT frame tells. -/
theorem State.postEvent_link (s : State) (code source : Nat) (b : Bytes) : ∃ w d c n t, (s.postEvent code source b).link =
    { s.link with evWait := w, evDropped := d, changed := c, changes := n, timer := t } := by
  unfold State.postEvent
  split
  · unfold State.writeEvent
    split
    · exact ⟨s.link.evWait, s.link.evDropped, s.link.changed, s.link.changes, s.link.timer, rfl⟩
    · refine ⟨s.link.evWait, s.link.evDropped, s.link.changed, s.link.changes + 1,
        (match s.link.timer with | none => some s.clk.now | some t => some t), ?_⟩
      simp only [State.noteChange, State.setNum_link, State.writeBytes_link, State.setNum_clk, State.writeBytes_clk] <;> rfl
  · split
    · exact ⟨_, s.link.evDropped, s.link.changed, s.link.changes, s.link.timer, rfl⟩
    · exact ⟨s.link.evWait, _, s.link.changed, s.link.changes, s.link.timer, rfl⟩

theorem State.enterCause_bit (s : State) (b : Nat) (h : b < 8) : (s.enterCause b).safety.causes.getLsbD b = true := by
  simp only [State.enterCause, State.driveLines, BitVec.getLsbD_or, BitVec.getLsbD_ofNat]
  simp [h, Nat.testBit_two_pow_self]

theorem State.enterCause_keepsBit (s : State) (b i : Nat) (h : s.safety.causes.getLsbD i = true) :
    (s.enterCause b).safety.causes.getLsbD i = true := by
  simp only [State.enterCause, State.driveLines, BitVec.getLsbD_or, h, Bool.true_or]

/-- With a cause active the lines report the safe state. -/
theorem State.enterCause_lines (s : State) (b : Nat) (h : b < 8) :
    (s.enterCause b).pins.safeA = false ∧ (s.enterCause b).pins.safeB = true := by
  have k := s.enterCause_bit b h
  have n : (s.enterCause b).safety.causes ≠ 0 := by
    intro z
    rw [z] at k
    simp at k
  have n' : (s.safety.causes ||| BitVec.ofNat 8 (2 ^ b)) ≠ 0 := n
  simp only [State.enterCause, State.driveLines]
  constructor
  · simpa using n'
  · simpa using n'

theorem State.leaveCause_keepsBit (s : State) (b i : Nat) (n : i ≠ b) (hb : b < 8) (h : s.safety.causes.getLsbD i = true) :
    (s.leaveCause b).safety.causes.getLsbD i = true := by
  have hi : i < 8 := by
    rcases Nat.lt_or_ge i 8 with q | q
    · exact q
    · rw [BitVec.getLsbD_of_ge _ _ q] at h; cases h
  have fix : ∀ (l : List Nat) (t : State), (l.foldl (fun u n => u.resetReason n) t).safety = t.safety := by
    intro l
    induction l with
    | nil => intro t; rfl
    | cons x r ih => intro t; exact ih _
  have e : (s.leaveCause b).safety.causes = s.safety.causes &&& ~~~ BitVec.ofNat 8 (2 ^ b) := by
    unfold State.leaveCause
    dsimp only
    split
    · rw [fix]; rfl
    · rfl
  rw [e]
  simp only [BitVec.getLsbD_and, h, BitVec.getLsbD_not, BitVec.getLsbD_ofNat, Bool.true_and]
  simp [hi, Nat.testBit_two_pow_of_ne (Ne.symm n)]

end Sys2Proof.Machine
end

