-- ==== Sys2Proof/Laws/Keeps.lean ====
section
/-! SUPPORT. Every operation and every command keeps what Keeps (Safety) states: one lemma for each function. -/

namespace Sys2Proof.Machine

theorem Keeps.refl (s : State) : Keeps s s := ⟨Nat.le_refl _, rfl, rfl, fun _ h => h, fun _ h => h, fun h => h⟩

/-- What changes neither time, OTP, flash nor the cells of device memory keeps. -/
theorem Keeps.same {s0 s t : State} (h : Keeps s0 s) (a : t.clk.now = s.clk.now) (b : t.trust = s.trust)
    (c : t.mem.bytes = s.mem.bytes) : Keeps s0 t := by
  obtain ⟨h1, h2, h3, h4, h5, h6⟩ := h
  refine ⟨a ▸ h1, b ▸ h2, b ▸ h3, b ▸ h4, b ▸ h5, ?_⟩
  simpa only [State.cellsWf, b, c] using h6

/-- A record update that touches neither time, memory, OTP nor flash. -/
theorem Keeps.upd {s0 s : State} {f_pending : List Instr} {f_pins : Pins} {f_rst : ResetState} {f_objs : List (Nat × Val)} {f_isl : Islands} {f_slices : List (Nat × Slice)} {f_harts : List (Nat × Hart)} {f_clusters : List (Nat × Cluster)} {f_tasks : List (Nat × Task)} {f_peers : List (Nat × Peer)} {f_work : Work} {f_media : Media} {f_link : Link} {f_safety : Safety} {f_power : Power} {f_fw : Firmware} {f_pers : Pers} {f_freeCtr : Nat} :
    Keeps s0 ⟨f_pending, s.clk, f_pins, f_rst, f_objs, f_isl, f_slices, f_harts, f_clusters, f_tasks, s.mem, f_peers, f_work, f_media, f_link, f_safety, f_power, f_fw, s.trust, f_pers, f_freeCtr⟩ = Keeps s0 s :=
  propext ⟨fun h => h.same rfl rfl rfl, fun h => h.same rfl rfl rfl⟩

/-- A record update of memory apart from its cells. -/
theorem Keeps.updMem {s0 s : State} {f_pending : List Instr} {f_pins : Pins} {f_rst : ResetState} {f_objs : List (Nat × Val)} {f_isl : Islands} {f_slices : List (Nat × Slice)} {f_harts : List (Nat × Hart)} {f_clusters : List (Nat × Cluster)} {f_tasks : List (Nat × Task)} {f_peers : List (Nat × Peer)} {f_work : Work} {f_media : Media} {f_link : Link} {f_safety : Safety} {f_power : Power} {f_fw : Firmware} {f_pers : Pers} {f_freeCtr : Nat} {g_badBlocks : _} {g_table : _} {g_mirrors : _} {g_lastChan : _} {g_seedCtr : _} {g_chans : _} {g_migs : _} {g_migTimes : _} {g_admits : _} {g_nextReq : _} {g_remirror : _} :
    Keeps s0 ⟨f_pending, s.clk, f_pins, f_rst, f_objs, f_isl, f_slices, f_harts, f_clusters, f_tasks, ⟨s.mem.bytes, g_badBlocks, g_table, g_mirrors, g_lastChan, g_seedCtr, g_chans, g_migs, g_migTimes, g_admits, g_nextReq, g_remirror⟩, f_peers, f_work, f_media, f_link, f_safety, f_power, f_fw, s.trust, f_pers, f_freeCtr⟩ = Keeps s0 s :=
  propext ⟨fun h => h.same rfl rfl rfl, fun h => h.same rfl rfl rfl⟩

/-- A record update of the clock apart from the monotonic count. -/
theorem Keeps.updClk {s0 s : State} {f_pending : List Instr} {f_pins : Pins} {f_rst : ResetState} {f_objs : List (Nat × Val)} {f_isl : Islands} {f_slices : List (Nat × Slice)} {f_harts : List (Nat × Hart)} {f_clusters : List (Nat × Cluster)} {f_tasks : List (Nat × Task)} {f_peers : List (Nat × Peer)} {f_work : Work} {f_media : Media} {f_link : Link} {f_safety : Safety} {f_power : Power} {f_fw : Firmware} {f_pers : Pers} {f_freeCtr : Nat} {g_lode : _} {g_slew : _} {g_lastSync : _} {g_pdelay : _} :
    Keeps s0 ⟨f_pending, ⟨s.clk.now, g_lode, g_slew, g_lastSync, g_pdelay⟩, f_pins, f_rst, f_objs, f_isl, f_slices, f_harts, f_clusters, f_tasks, s.mem, f_peers, f_work, f_media, f_link, f_safety, f_power, f_fw, s.trust, f_pers, f_freeCtr⟩ = Keeps s0 s :=
  propext ⟨fun h => h.same rfl rfl rfl, fun h => h.same rfl rfl rfl⟩

/-- A record update of what OTP and flash do not hold. -/
theorem Keeps.updTrust {s0 s : State} {f_pending : List Instr} {f_pins : Pins} {f_rst : ResetState} {f_objs : List (Nat × Val)} {f_isl : Islands} {f_slices : List (Nat × Slice)} {f_harts : List (Nat × Hart)} {f_clusters : List (Nat × Cluster)} {f_tasks : List (Nat × Task)} {f_peers : List (Nat × Peer)} {f_work : Work} {f_media : Media} {f_link : Link} {f_safety : Safety} {f_power : Power} {f_fw : Firmware} {f_pers : Pers} {f_freeCtr : Nat} {g_hlMac : _} {g_spMac : _} {g_dpMacs : _} {g_sliceFuse : _} {g_coreFuses : _} {g_keyHash : _} {g_runInstar : _} {g_image : _} {g_regAddrs : _} :
    Keeps s0 ⟨f_pending, s.clk, f_pins, f_rst, f_objs, f_isl, f_slices, f_harts, f_clusters, f_tasks, s.mem, f_peers, f_work, f_media, f_link, f_safety, f_power, f_fw, ⟨s.trust.serial, s.trust.rootKey, g_hlMac, g_spMac, g_dpMacs, g_sliceFuse, g_coreFuses, g_keyHash, s.trust.revoked, s.trust.instar, s.trust.flash, g_runInstar, g_image, g_regAddrs⟩, f_pers, f_freeCtr⟩ = Keeps s0 s :=
  propext ⟨fun h => ⟨h.now, h.serial, h.rootKey, h.revoked, h.instar, h.cells⟩,
    fun h => ⟨h.now, h.serial, h.rootKey, h.revoked, h.instar, h.cells⟩⟩

theorem Keeps.cut {s0 x : State} {P : Prop} (h : Keeps s0 x) (k : Keeps s0 x → P) : P := k h

theorem Keeps.foldl {α : Type} {s0 s : State} {f : State → α → State} {l : List α} (h : Keeps s0 s)
    (hf : ∀ t x, Keeps s0 t → Keeps s0 (f t x)) : Keeps s0 (l.foldl f s) := by
  induction l generalizing s with
  | nil => exact h
  | cons x r ih => exact ih (hf _ _ h)

/-- The next state of an outcome keeps. -/
def NextKeeps (s0 : State) (o : Host.Outcome State Fault Refusal) : Prop := ∀ t, o = .next t → Keeps s0 t

theorem NextKeeps.next {s0 t : State} (h : Keeps s0 t) : NextKeeps s0 (.next t) := by
  intro u e; cases e; exact h

/-- The effect of a write rule keeps. -/
def RuleKeeps (s0 : State) (w : WriteRule) : Prop := ∀ s v, Keeps s0 s → Keeps s0 (w.apply s v)

theorem RuleKeeps.cmd {s0 : State} {pre : State → Nat → Nat} {f : State → Nat → State}
    (h : ∀ s n, Keeps s0 s → Keeps s0 (f s n)) : RuleKeeps s0 (WriteRule.cmd pre f) := by
  intro s v hs
  cases v
  · exact h _ _ hs
  · exact hs


theorem RuleKeeps.intro {s0 : State} {w : WriteRule} (h : ∀ s v, Keeps s0 s → Keeps s0 (w.apply s v)) : RuleKeeps s0 w := h

theorem RuleKeeps.ap {s0 s : State} {w : WriteRule} {v : Val} (h : RuleKeeps s0 w) (k : Keeps s0 s) :
    Keeps s0 (w.apply s v) := h s v k

theorem RuleKeeps.cut {s0 : State} {x : WriteRule} {P : Prop} (h : RuleKeeps s0 x) (k : RuleKeeps s0 x → P) : P := k h

theorem Keeps.foldl1 {α β : Type} {s0 : State} {f : β × State → α → β × State} {l : List α} {p : β × State}
    (h : Keeps s0 p.2) (hf : ∀ p x, Keeps s0 p.2 → Keeps s0 (f p x).2) : Keeps s0 (l.foldl f p).2 := by
  induction l generalizing p with
  | nil => exact h
  | cons x r ih => exact ih (hf _ _ h)

theorem Keeps.foldl3 {α β γ δ : Type} {s0 : State} {f : β × γ × δ × State → α → β × γ × δ × State} {l : List α}
    {p : β × γ × δ × State} (h : Keeps s0 p.2.2.2) (hf : ∀ p x, Keeps s0 p.2.2.2 → Keeps s0 (f p x).2.2.2) :
    Keeps s0 (l.foldl f p).2.2.2 := by
  induction l generalizing p with
  | nil => exact h
  | cons x r ih => exact ih (hf _ _ h)

theorem Keeps.getD {s0 d : State} {o : Option State} (h : Keeps s0 d) (k : ∀ t, o = some t → Keeps s0 t) :
    Keeps s0 (o.getD d) := by
  cases o
  · exact h
  · exact k _ rfl

/-- A change of the cells of device memory keeps when it keeps their canonical form. -/
theorem Keeps.bytes {s0 s t : State} (h : Keeps s0 s) (a : t.clk.now = s.clk.now) (b : t.trust = s.trust)
    (c : Memory.wf s.mem.bytes = true → Memory.wf t.mem.bytes = true) : Keeps s0 t := by
  refine ⟨a ▸ h.now, b ▸ h.serial, b ▸ h.rootKey, b ▸ h.revoked, b ▸ h.instar, fun w => ?_⟩
  have w := h.cells w
  simp only [State.cellsWf, Bool.and_eq_true] at w ⊢
  exact ⟨c w.1, b ▸ w.2⟩

/-- A change of the boot flash keeps when it keeps its canonical form. -/
theorem Keeps.flash {s0 s t : State} (h : Keeps s0 s) (a : t.clk.now = s.clk.now)
    (b : t.trust = { s.trust with flash := t.trust.flash }) (m : t.mem.bytes = s.mem.bytes)
    (c : Memory.wf s.trust.flash = true → Memory.wf t.trust.flash = true) : Keeps s0 t := by
  refine ⟨a ▸ h.now, ?_, ?_, ?_, ?_, fun w => ?_⟩
  · rw [b]; exact h.serial
  · rw [b]; exact h.rootKey
  · rw [b]; exact h.revoked
  · rw [b]; exact h.instar
  · have w := h.cells w
    simp only [State.cellsWf, Bool.and_eq_true] at w ⊢
    exact ⟨m ▸ w.1, c w.2⟩

theorem raiseFloor_keeps (v k b : Nat) (w : BitVec 64) (i : Nat) (h : w.getLsbD i = true) :
    (raiseFloor v k b w).getLsbD i = true := by
  induction k generalizing b w with
  | zero => exact h
  | succ k ih =>
    simp only [raiseFloor]
    split
    · exact ih _ _ (by simp [BitVec.getLsbD_or, h])
    · exact h


theorem State.setChan_keeps {s0 s : State} (n : Nat) (a1 : Channel) (h : Keeps s0 s) : Keeps s0 (State.setChan s n a1) := by
  unfold State.setChan
  repeat' with_reducible first
    | assumption
    | (intro (x : Memory); subst x)
    | simp only [↓Keeps.updMem]

theorem State.modChan_keeps {s0 s : State} (n : Nat) (f : Channel → Channel) (h : Keeps s0 s) : Keeps s0 (State.modChan s n f) := by
  unfold State.modChan
  repeat' with_reducible first
    | assumption
    | apply State.setChan_keeps

theorem State.retireSlot_keeps {s0 s : State} (c : Nat) (k : Nat) (h : Keeps s0 s) : Keeps s0 (State.retireSlot s c k) := by
  unfold State.retireSlot
  repeat' with_reducible first
    | assumption
    | apply State.modChan_keeps

theorem State.setEntry_keeps {s0 s : State} (n : Nat) (e : Entry) (h : Keeps s0 s) : Keeps s0 (State.setEntry s n e) := by
  unfold State.setEntry
  repeat' with_reducible first
    | assumption
    | (intro (x : Memory); subst x)
    | simp only [↓Keeps.updMem]

theorem State.setVal_keeps {s0 s : State} (r : ObjRow) (k : Nat) (v : Val) (h : Keeps s0 s) : Keeps s0 (State.setVal s r k v) := by
  unfold State.setVal
  repeat' with_reducible first
    | assumption
    | simp only [↓Keeps.upd]

theorem State.setNum_keeps {s0 s : State} (r : ObjRow) (k : Nat) (n : Nat) (h : Keeps s0 s) : Keeps s0 (State.setNum s r k n) := by
  unfold State.setNum
  repeat' with_reducible first
    | assumption
    | apply State.setVal_keeps

theorem State.count_keeps {s0 s : State} (r : ObjRow) (k : optParam Nat 0) (n : optParam Nat 1) (h : Keeps s0 s) : Keeps s0 (State.count s r k n) := by
  unfold State.count
  repeat' with_reducible first
    | assumption
    | apply State.setNum_keeps

theorem State.abandonMig_keeps {s0 s : State} (n : Nat) (h : Keeps s0 s) : Keeps s0 (State.abandonMig s n) := by
  unfold State.abandonMig
  repeat' with_reducible first
    | assumption
    | apply State.retireSlot_keeps
    | apply State.setEntry_keeps
    | apply State.count_keeps
    | simp only [↓Keeps.updMem]
    | split

theorem State.freePage_keeps {s0 s : State} (n : Nat) (h : Keeps s0 s) : Keeps s0 (State.freePage s n) := by
  unfold State.freePage
  repeat' with_reducible first
    | assumption
    | (intro (x : State); apply Keeps.cut (s0 := s0) (x := x); rotate_left; intro hx; clear_value x; rotate_left; subst x)
    | (intro (x : Memory); subst x)
    | apply State.abandonMig_keeps
    | apply State.retireSlot_keeps
    | apply State.setEntry_keeps
    | simp only [↓Keeps.updMem]
    | split

theorem State.freePages_keeps {s0 s : State} (n k : Nat) (h : Keeps s0 s) : Keeps s0 (s.freePages n k) := by
  induction k generalizing s n with
  | zero => exact h
  | succ k ih => exact ih _ (State.freePage_keeps _ h)

theorem State.freeRun_keeps {s0 s : State} (a0 : Option (Nat × Nat)) (h : Keeps s0 s) : Keeps s0 (State.freeRun s a0) := by
  unfold State.freeRun
  repeat' with_reducible first
    | assumption
    | apply State.freePages_keeps
    | split

theorem State.setCluster_keeps {s0 s : State} (n : Nat) (a1 : Cluster) (h : Keeps s0 s) : Keeps s0 (State.setCluster s n a1) := by
  unfold State.setCluster
  repeat' with_reducible first
    | assumption
    | simp only [↓Keeps.upd]

theorem State.modCluster_keeps {s0 s : State} (n : Nat) (f : Cluster → Cluster) (h : Keeps s0 s) : Keeps s0 (State.modCluster s n f) := by
  unfold State.modCluster
  repeat' with_reducible first
    | assumption
    | apply State.setCluster_keeps

theorem State.writeByte_keeps {s0 s : State} (a : Nat) (b : Byte) (h : Keeps s0 s) : Keeps s0 (s.writeByte a b) := by
  refine ⟨h.now, h.serial, h.rootKey, h.revoked, h.instar, fun w => ?_⟩
  have c := h.cells w
  simp only [State.cellsWf, Bool.and_eq_true] at c ⊢
  exact ⟨s.writeByte_bytes_wf a b c.1, c.2⟩

theorem State.writeBytes_keeps {s0 s : State} (a : Nat) (b : Bytes) (h : Keeps s0 s) : Keeps s0 (s.writeBytes a b) := by
  induction b generalizing s a with
  | nil => exact h
  | cons x r ih => exact ih _ (State.writeByte_keeps _ _ h)

theorem State.noteChange_keeps {s0 s : State} (q : Option Nat) (h : Keeps s0 s) : Keeps s0 (State.noteChange s q) := by
  unfold State.noteChange
  repeat' with_reducible first
    | assumption
    | simp only [↓Keeps.upd]

theorem State.writeEvent_keeps {s0 s : State} (time : Nat) (code : Nat) (source : Nat) (payload : Bytes) (h : Keeps s0 s) : Keeps s0 (State.writeEvent s time code source payload) := by
  unfold State.writeEvent
  repeat' with_reducible first
    | assumption
    | apply State.writeBytes_keeps
    | apply State.noteChange_keeps
    | apply State.setNum_keeps
    | split

theorem State.setStream_keeps {s0 s : State} (n : Nat) (a1 : Stream) (h : Keeps s0 s) : Keeps s0 (State.setStream s n a1) := by
  unfold State.setStream
  repeat' with_reducible first
    | assumption
    | simp only [↓Keeps.upd]

theorem State.setSlice_keeps {s0 s : State} (n : Nat) (a1 : Slice) (h : Keeps s0 s) : Keeps s0 (State.setSlice s n a1) := by
  unfold State.setSlice
  repeat' with_reducible first
    | assumption
    | simp only [↓Keeps.upd]

theorem State.modSlice_keeps {s0 s : State} (n : Nat) (f : Slice → Slice) (h : Keeps s0 s) : Keeps s0 (State.modSlice s n f) := by
  unfold State.modSlice
  repeat' with_reducible first
    | assumption
    | apply State.setSlice_keeps

theorem State.modSeq_keeps {s0 s : State} (n : Nat) (f : Seq → Seq) (h : Keeps s0 s) : Keeps s0 (State.modSeq s n f) := by
  unfold State.modSeq
  repeat' with_reducible first
    | assumption
    | apply State.modSlice_keeps

theorem State.drainEvents_keeps {s0 s : State} (k : Nat) (h : Keeps s0 s) : Keeps s0 (State.drainEvents k s) := by
  induction k generalizing s with
  | zero => exact h
  | succ k ih =>
    simp only [State.drainEvents]
    repeat' with_reducible first
      | assumption
      | apply ih
      | apply State.writeEvent_keeps
      | simp only [↓Keeps.upd]
      | split

theorem State.postEvent_keeps {s0 s : State} (code : Nat) (source : Nat) (payload : Bytes) (h : Keeps s0 s) : Keeps s0 (State.postEvent s code source payload) := by
  unfold State.postEvent
  repeat' with_reducible first
    | assumption
    | (intro (x : State); apply Keeps.cut (s0 := s0) (x := x); rotate_left; intro hx; clear_value x; rotate_left; subst x)
    | apply State.writeEvent_keeps
    | apply State.count_keeps
    | simp only [↓Keeps.upd]
    | split

theorem State.setQueue_keeps {s0 s : State} (n : Nat) (a1 : Queue) (h : Keeps s0 s) : Keeps s0 (State.setQueue s n a1) := by
  unfold State.setQueue
  repeat' with_reducible first
    | assumption
    | simp only [↓Keeps.upd]

theorem State.modQueue_keeps {s0 s : State} (n : Nat) (f : Queue → Queue) (h : Keeps s0 s) : Keeps s0 (State.modQueue s n f) := by
  unfold State.modQueue
  repeat' with_reducible first
    | assumption
    | apply State.setQueue_keeps

theorem State.peak_keeps {s0 s : State} (r : ObjRow) (k : Nat) (n : Nat) (h : Keeps s0 s) : Keeps s0 (State.peak s r k n) := by
  unfold State.peak
  repeat' with_reducible first
    | assumption
    | apply State.setNum_keeps
    | split

theorem State.setBlob_keeps {s0 s : State} (r : ObjRow) (k : Nat) (b : Bytes) (h : Keeps s0 s) : Keeps s0 (State.setBlob s r k b) := by
  unfold State.setBlob
  repeat' with_reducible first
    | assumption
    | apply State.setVal_keeps

theorem State.setHart_keeps {s0 s : State} (n : Nat) (a1 : Hart) (h : Keeps s0 s) : Keeps s0 (State.setHart s n a1) := by
  unfold State.setHart
  repeat' with_reducible first
    | assumption
    | simp only [↓Keeps.upd]

theorem State.setProc_keeps {s0 s : State} (n : Nat) (a1 : Proc) (h : Keeps s0 s) : Keeps s0 (State.setProc s n a1) := by
  unfold State.setProc
  repeat' with_reducible first
    | assumption
    | simp only [↓Keeps.upd]

theorem State.modProc_keeps {s0 s : State} (n : Nat) (f : Proc → Proc) (h : Keeps s0 s) : Keeps s0 (State.modProc s n f) := by
  unfold State.modProc
  repeat' with_reducible first
    | assumption
    | apply State.setProc_keeps

theorem State.modStream_keeps {s0 s : State} (n : Nat) (f : Stream → Stream) (h : Keeps s0 s) : Keeps s0 (State.modStream s n f) := by
  unfold State.modStream
  repeat' with_reducible first
    | assumption
    | apply State.setStream_keeps

theorem State.modRaw_keeps {s0 s : State} (n : Nat) (f : Raw → Raw) (h : Keeps s0 s) : Keeps s0 (State.modRaw s n f) := by
  unfold State.modRaw
  repeat' with_reducible first
    | assumption
    | apply State.modStream_keeps

theorem State.modPslice_keeps {s0 s : State} (n : Nat) (f : PowerSlice → PowerSlice) (h : Keeps s0 s) : Keeps s0 (State.modPslice s n f) := by
  unfold State.modPslice
  repeat' with_reducible first
    | assumption
    | simp only [↓Keeps.upd]

theorem State.modStore_keeps {s0 s : State} (n : Nat) (f : Store → Store) (h : Keeps s0 s) : Keeps s0 (State.modStore s n f) := by
  unfold State.modStore
  repeat' with_reducible first
    | assumption
    | apply State.modSlice_keeps

theorem State.advanceTo_keeps {s0 s : State} (t : Nat) (h : Keeps s0 s) : Keeps s0 (s.advanceTo t) := by
  unfold State.advanceTo
  split
  · exact h
  · exact ⟨Nat.le_trans h.now (by dsimp only; omega), h.serial, h.rootKey, h.revoked, h.instar, h.cells⟩

theorem State.setPeer_keeps {s0 s : State} (n : Nat) (a1 : Peer) (h : Keeps s0 s) : Keeps s0 (State.setPeer s n a1) := by
  unfold State.setPeer
  repeat' with_reducible first
    | assumption
    | simp only [↓Keeps.upd]

theorem State.modPeer_keeps {s0 s : State} (n : Nat) (f : Peer → Peer) (h : Keeps s0 s) : Keeps s0 (State.modPeer s n f) := by
  unfold State.modPeer
  repeat' with_reducible first
    | assumption
    | apply State.setPeer_keeps

theorem State.clearObj_keeps {s0 s : State} (r : ObjRow) (k : Nat) (h : Keeps s0 s) : Keeps s0 (State.clearObj s r k) := by
  unfold State.clearObj
  repeat' with_reducible first
    | assumption
    | simp only [↓Keeps.upd]

theorem State.setCtx_keeps {s0 s : State} (n : Nat) (a1 : Ctx) (h : Keeps s0 s) : Keeps s0 (State.setCtx s n a1) := by
  unfold State.setCtx
  repeat' with_reducible first
    | assumption
    | simp only [↓Keeps.upd]

theorem State.modCtx_keeps {s0 s : State} (n : Nat) (f : Ctx → Ctx) (h : Keeps s0 s) : Keeps s0 (State.modCtx s n f) := by
  unfold State.modCtx
  repeat' with_reducible first
    | assumption
    | apply State.setCtx_keeps

theorem State.takeSlot_keeps {s0 s : State} (c : Nat) (h : Keeps s0 s) : Keeps s0 (State.takeSlot s c).2 := by
  unfold State.takeSlot
  repeat' with_reducible first
    | assumption
    | apply State.modChan_keeps
theorem State.takeSlot_keeps_of {s0 s t : State} {c : Nat} {v_ : _} (e : State.takeSlot s c = (v_, t)) (h : Keeps s0 s) : Keeps s0 t := by
  have k := State.takeSlot_keeps (s0 := s0) (c := c) h
  rw [e] at k
  exact k

theorem State.placePage_keeps {s0 s t : State} {n : Nat} {e : Entry} (q : s.placePage n e = some t) (h : Keeps s0 s) :
    Keeps s0 t := by
  revert q
  unfold State.placePage
  split
  · intro q; cases q
  · rename_i c _
    have h1 := State.takeSlot_keeps (s0 := s0) c h
    split
    rename_i k1 s1 e1
    rw [e1] at h1
    dsimp only at h1 ⊢
    have hw := State.setEntry_keeps (s0 := s0) n { e with backed := true, channel := c, slot := k1, seed := s1.mem.seedCtr % 16 } h1
    generalize s1.setEntry n { e with backed := true, channel := c, slot := k1, seed := s1.mem.seedCtr % 16 } = s2 at hw
    split
    · intro q
      simp only [Option.some.injEq] at q
      subst q
      simpa only [Keeps.updMem] using hw
    · split
      · intro q; cases q
      · rename_i d _
        intro q
        simp only [Option.some.injEq] at q
        subst q
        simp only [Keeps.updMem]
        apply State.takeSlot_keeps
        simpa only [Keeps.updMem] using hw

theorem State.placePages_keeps {s0 s t : State} {e : Entry} {n k : Nat} (q : s.placePages e n k = some t) (h : Keeps s0 s) :
    Keeps s0 t := by
  induction k generalizing s n with
  | zero =>
    simp only [State.placePages, Option.some.injEq] at q
    exact q ▸ h
  | succ k ih =>
    simp only [State.placePages] at q
    split at q
    · cases q
    · exact ih q (State.placePage_keeps (by assumption) h)

theorem State.postFault_keeps {s0 s : State} (status : Nat) (scope : Nat) (unit : Nat) (detail : Bytes) (h : Keeps s0 s) : Keeps s0 (State.postFault s status scope unit detail) := by
  unfold State.postFault
  repeat' with_reducible first
    | assumption
    | simp only [↓Keeps.upd]

theorem State.draw_keeps {s0 s : State} (h : Keeps s0 s) : Keeps s0 (State.draw s).2 := by
  unfold State.draw
  repeat' with_reducible first
    | assumption
    | simp only [↓Keeps.upd]
theorem State.draw_keeps_of {s0 s t : State}  {v_ : _} (e : State.draw s = (v_, t)) (h : Keeps s0 s) : Keeps s0 t := by
  have k := State.draw_keeps (s0 := s0) h
  rw [e] at k
  exact k

theorem State.modHart_keeps {s0 s : State} (n : Nat) (f : Hart → Hart) (h : Keeps s0 s) : Keeps s0 (State.modHart s n f) := by
  unfold State.modHart
  repeat' with_reducible first
    | assumption
    | apply State.setHart_keeps

theorem State.modArr_keeps {s0 s : State} (n : Nat) (f : Arr → Arr) (h : Keeps s0 s) : Keeps s0 (State.modArr s n f) := by
  unfold State.modArr
  repeat' with_reducible first
    | assumption
    | apply State.modSlice_keeps

theorem State.modIng_keeps {s0 s : State} (n : Nat) (f : Ingest → Ingest) (h : Keeps s0 s) : Keeps s0 (State.modIng s n f) := by
  unfold State.modIng
  repeat' with_reducible first
    | assumption
    | apply State.modStream_keeps

theorem State.alloc_keeps {s0 s t : State} {n : Nat} {e : Entry} {p : Nat} (q : s.alloc n e = some (p, t)) (h : Keeps s0 s) :
    Keeps s0 t := by
  revert q
  unfold State.alloc
  generalize (n * if e.mirror = true then 2 else 1) = m
  split
  · intro q; cases q
  · split
    · intro q; cases q
    · intro q
      simp only [Option.map_eq_some_iff, Prod.mk.injEq] at q
      obtain ⟨u, hu, -, rfl⟩ := q
      exact State.placePages_keeps hu h

theorem State.driveLines_keeps {s0 s : State} (h : Keeps s0 s) : Keeps s0 (State.driveLines s) := by
  unfold State.driveLines
  repeat' with_reducible first
    | assumption
    | simp only [↓Keeps.upd]

theorem State.resetReason_keeps {s0 s : State} (n : Nat) (h : Keeps s0 s) : Keeps s0 (State.resetReason s n) := by
  unfold State.resetReason
  repeat' with_reducible first
    | assumption
    | apply State.modStream_keeps

theorem State.leaveCause_keeps {s0 s : State} (bit : Nat) (h : Keeps s0 s) : Keeps s0 (State.leaveCause s bit) := by
  unfold State.leaveCause
  repeat' with_reducible first
    | assumption
    | (intro (x : State); apply Keeps.cut (s0 := s0) (x := x); rotate_left; intro hx; clear_value x; rotate_left; subst x)
    | apply State.driveLines_keeps
    | apply State.resetReason_keeps
    | (apply Keeps.foldl; rotate_left; intro t x ht; rotate_left)
    | simp only [↓Keeps.upd]
    | split

theorem State.sendSafety_keeps {s0 s : State} (type : Nat) (stream : Nat) (status : Nat) (sof : Nat) (epoch : Nat) (h : Keeps s0 s) : Keeps s0 (State.sendSafety s type stream status sof epoch) := by
  unfold State.sendSafety
  repeat' with_reducible first
    | assumption
    | (intro (x : State); apply Keeps.cut (s0 := s0) (x := x); rotate_left; intro hx; clear_value x; rotate_left; subst x)
    | apply State.count_keeps
    | simp only [↓Keeps.upd]
    | split

theorem settle_keeps {s0 s : State} (old : State) (h : Keeps s0 s) : Keeps s0 (settle old s) := by
  unfold settle
  repeat' with_reducible first
      | assumption
      | (intro (x : State); apply Keeps.cut (s0 := s0) (x := x); rotate_left; intro hx; clear_value x; rotate_left; subst x)
      | apply State.postEvent_keeps
      | apply State.sendSafety_keeps
      | split

theorem done_keeps {s0 s : State} (old : State) (h : Keeps s0 s) : NextKeeps s0 (done old s) :=
  NextKeeps.next (settle_keeps old h)

theorem State.invalidate_keeps {s0 s : State} (n : Nat) (reason : Nat) (h : Keeps s0 s) : Keeps s0 (State.invalidate s n reason) := by
  unfold State.invalidate
  repeat' with_reducible first
    | assumption
    | apply State.modStream_keeps

theorem State.decideFrame_keeps {s0 s : State} (n : Nat) (sofMono : Nat) (sof : Nat) (epoch : Nat) (status : Nat) (reason : Nat) (h : Keeps s0 s) : Keeps s0 (State.decideFrame s n sofMono sof epoch status reason) := by
  unfold State.decideFrame
  repeat' with_reducible first
    | assumption
    | (intro (x : State); apply Keeps.cut (s0 := s0) (x := x); rotate_left; intro hx; clear_value x; rotate_left; subst x)
    | apply State.setStream_keeps
    | apply State.sendSafety_keeps
    | simp only [↓Keeps.updTrust]
    | split

theorem State.enterCause_keeps {s0 s : State} (bit : Nat) (h : Keeps s0 s) : Keeps s0 (State.enterCause s bit) := by
  unfold State.enterCause
  repeat' with_reducible first
    | assumption
    | apply State.driveLines_keeps
    | simp only [↓Keeps.upd]

theorem State.dropSets_keeps {s0 s : State} (n : Nat) (h : Keeps s0 s) : Keeps s0 (State.dropSets s n) := by
  unfold State.dropSets
  repeat' with_reducible first
    | assumption
    | apply State.modStream_keeps
    | apply State.freePages_keeps
    | split

theorem State.modBuf_keeps {s0 s : State} (a0 : Nat) (f : Buf → Buf) (h : Keeps s0 s) : Keeps s0 (State.modBuf s a0 f) := by
  unfold State.modBuf
  repeat' with_reducible first
    | assumption
    | apply State.modCtx_keeps

theorem State.takeBuf_keeps {s0 s t : State} {c b : Nat} (q : s.takeBuf c = some (b, t)) (h : Keeps s0 s) : Keeps s0 t := by
  revert q
  unfold State.takeBuf
  dsimp only
  split
  · intro q; cases q
  · intro q
    simp only [Option.some.injEq, Prod.mk.injEq] at q
    exact q.2 ▸ State.modBuf_keeps _ _ h

theorem State.completeEpochs_keeps {s0 s : State} (h : Keeps s0 s) : Keeps s0 (State.completeEpochs s) := by
  unfold State.completeEpochs
  repeat' with_reducible first
    | assumption
    | (intro (x : State); apply Keeps.cut (s0 := s0) (x := x); rotate_left; intro hx; clear_value x; rotate_left; subst x)
    | apply State.postEvent_keeps
    | (apply Keeps.foldl; rotate_left; intro t x ht; rotate_left)
    | simp only [↓Keeps.upd]

theorem State.commitEpoch_keeps {s0 s : State} (changes : List (Nat × Val)) (h : Keeps s0 s) : Keeps s0 (State.commitEpoch s changes) := by
  unfold State.commitEpoch
  repeat' with_reducible first
    | assumption
    | (intro (x : State); apply Keeps.cut (s0 := s0) (x := x); rotate_left; intro hx; clear_value x; rotate_left; subst x)
    | apply State.setNum_keeps
    | apply State.completeEpochs_keeps
    | (apply Keeps.foldl; rotate_left; intro t x ht; rotate_left)
    | simp only [↓Keeps.upd]

theorem State.dropBuf_keeps {s0 s : State} (a0 : Nat) (h : Keeps s0 s) : Keeps s0 (State.dropBuf s a0) := by
  unfold State.dropBuf
  repeat' with_reducible first
    | assumption
    | apply State.modBuf_keeps
    | split

theorem State.writeBlock_keeps {s0 s : State} (a : Nat) (b : Bytes) (h : Keeps s0 s) : Keeps s0 (State.writeBlock s a b) := by
  unfold State.writeBlock
  repeat' with_reducible first
    | assumption
    | (intro (x : State); apply Keeps.cut (s0 := s0) (x := x); rotate_left; intro hx; clear_value x; rotate_left; subst x)
    | (intro (x : Memory); subst x)
    | apply State.writeBytes_keeps
    | simp only [↓Keeps.updMem]

theorem State.journal_keeps {s0 s : State} (q : Nat) (n : Nat) (b : Bytes) (h : Keeps s0 s) : Keeps s0 (State.journal s q n b) := by
  unfold State.journal
  repeat' with_reducible first
    | assumption
    | apply State.writeBlock_keeps
    | split

theorem State.modItem_keeps {s0 s : State} (q : Nat) (n : Nat) (f : Item → Item) (h : Keeps s0 s) : Keeps s0 (State.modItem s q n f) := by
  unfold State.modItem
  repeat' with_reducible first
    | assumption
    | (intro (x : State); apply Keeps.cut (s0 := s0) (x := x); rotate_left; intro hx; clear_value x; rotate_left; subst x)
    | apply State.modQueue_keeps
    | apply State.journal_keeps
    | simp only [↓Keeps.updTrust]
    | split

theorem State.endCycle_keeps {s0 s : State} (q : Nat) (cause : Nat) (h : Keeps s0 s) : Keeps s0 (State.endCycle s q cause) := by
  unfold State.endCycle
  repeat' with_reducible first
    | assumption
    | apply State.modQueue_keeps
    | apply State.postEvent_keeps
    | (apply Keeps.foldl; rotate_left; intro t x ht; rotate_left)
    | simp only [↓Keeps.upd]
    | split

theorem State.finishOne_keeps {s0 s : State} (q n : Nat) (fin : Finish) (h : Keeps s0 s) : Keeps s0 (s.finishOne q n fin) := by
  unfold State.finishOne
  split
  · exact h
  · split
    · exact h
    · extract_lets a b c d e f g k s1 s2 s3 s4 s5 s6
      have h1 : Keeps s0 s1 := by
        simp only [s1]
        split
        · exact State.modBuf_keeps _ _ h
        · exact State.dropBuf_keeps _ h
      clear_value s1
      have h2 : Keeps s0 s2 := State.modItem_keeps _ _ _ h1
      clear_value s2
      have h3 : Keeps s0 s3 := by
        simp only [s3]
        split
        · exact State.modItem_keeps _ _ _ (State.draw_keeps h2)
        · exact h2
      clear_value s3
      have h4 : Keeps s0 s4 := by
        simp only [s4]
        split
        · exact State.count_keeps _ _ _ h3
        · exact h3
      clear_value s4
      have h5 : Keeps s0 s5 := by
        simp only [s5]
        split
        · exact State.count_keeps _ _ _ h4
        · exact h4
      clear_value s5
      have h6 : Keeps s0 s6 := by
        simp only [s6]
        split
        · exact State.endCycle_keeps _ _ h5
        · exact h5
      clear_value s6
      split
      · exact h6
      · exact State.decideFrame_keeps _ _ _ _ _ _ h6

theorem State.takeSets_keeps {s0 s t : State} {n c : Nat} {src : Bool} (q : s.takeSets n c src = some t) (h : Keeps s0 s) :
    Keeps s0 t := by
  unfold State.takeSets at q
  extract_lets at q
  split at q
  · simp at q
  · simp only [Option.some.injEq] at q
    subst q
    exact State.modStream_keeps _ _ (State.alloc_keeps (by assumption) h)

theorem State.reclaimSets_keeps {s0 s : State} (n : Nat) (h : Keeps s0 s) : Keeps s0 (State.reclaimSets s n) := by
  unfold State.reclaimSets
  repeat' with_reducible first
    | assumption
    | apply State.dropSets_keeps
    | apply State.modStream_keeps
    | refine State.takeSets_keeps (by assumption) ?_
    | (apply Keeps.getD; rotate_left; intro t ht; rotate_left)
    | simp only [↓Keeps.updTrust]
    | split

theorem State.reclaimAll_keeps {s0 s : State} (h : Keeps s0 s) : Keeps s0 (State.reclaimAll s) := by
  unfold State.reclaimAll
  repeat' with_reducible first
    | assumption
    | apply State.reclaimSets_keeps
    | (apply Keeps.foldl; rotate_left; intro t x ht; rotate_left)

theorem State.finish_keeps {s0 s : State} (q : Nat) (n : Nat) (fin : Finish) (h : Keeps s0 s) : Keeps s0 (State.finish s q n fin) := by
  unfold State.finish
  repeat' with_reducible first
    | assumption
    | (intro (x : State); apply Keeps.cut (s0 := s0) (x := x); rotate_left; intro hx; clear_value x; rotate_left; subst x)
    | apply State.finishOne_keeps
    | apply State.reclaimAll_keeps
    | (apply Keeps.foldl; rotate_left; intro t x ht; rotate_left)

theorem State.emptyCtx_keeps {s0 s : State} (c : Nat) (h : Keeps s0 s) : Keeps s0 (State.emptyCtx s c) := by
  unfold State.emptyCtx
  repeat' with_reducible first
    | assumption
    | (intro (x : State); apply Keeps.cut (s0 := s0) (x := x); rotate_left; intro hx; clear_value x; rotate_left; subst x)
    | apply State.modCtx_keeps
    | apply State.clearObj_keeps
    | simp only [↓Keeps.upd]

theorem State.endUnload_keeps {s0 s : State} (c : Nat) (h : Keeps s0 s) : Keeps s0 (State.endUnload s c) := by
  unfold State.endUnload
  repeat' with_reducible first
    | assumption
    | apply State.finish_keeps
    | apply State.emptyCtx_keeps
    | simp only [↓Keeps.updTrust]
    | split

theorem State.noteDrop_keeps {s0 s : State} (n : Nat) (h : Keeps s0 s) : Keeps s0 (State.noteDrop s n) := by
  unfold State.noteDrop
  repeat' with_reducible first
    | assumption
    | apply State.count_keeps
    | split

theorem State.adopt_keeps {s0 s : State} (n : Nat) (e : Nat) (h : Keeps s0 s) : Keeps s0 (State.adopt s n e) := by
  unfold State.adopt
  repeat' with_reducible first
    | assumption
    | (intro (x : State); apply Keeps.cut (s0 := s0) (x := x); rotate_left; intro hx; clear_value x; rotate_left; subst x)
    | apply State.modStream_keeps
    | apply State.completeEpochs_keeps
    | simp only [↓Keeps.upd]

theorem State.spendRun_keeps {s0 s : State} (q : Nat) (n : Nat) (h : Keeps s0 s) : Keeps s0 (State.spendRun s q n) := by
  unfold State.spendRun
  repeat' with_reducible first
    | assumption
    | apply State.draw_keeps
    | refine State.draw_keeps_of (by assumption) ?_
    | apply State.modItem_keeps

theorem State.meridian_keeps {s0 s : State} (n : Nat) (sof : Nat) (h : Keeps s0 s) : Keeps s0 (State.meridian s n sof) := by
  unfold State.meridian
  repeat' with_reducible first
    | assumption
    | apply State.adopt_keeps

theorem State.moveStream_keeps {s0 s : State} (n : Nat) (h : Keeps s0 s) : Keeps s0 (State.moveStream s n) := by
  unfold State.moveStream
  repeat' with_reducible first
    | assumption
    | apply State.modStream_keeps
    | split

theorem State.moveStreams_keeps {s0 s : State} (n : Nat) (h : Keeps s0 s) : Keeps s0 (State.moveStreams s n) := by
  unfold State.moveStreams
  repeat' with_reducible first
    | assumption
    | apply State.moveStream_keeps
    | (apply Keeps.foldl; rotate_left; intro t x ht; rotate_left)

theorem State.epochForget_keeps {s0 s : State} (n : Nat) (h : Keeps s0 s) : Keeps s0 (State.epochForget s n) := by
  unfold State.epochForget
  repeat' with_reducible first
    | assumption
    | apply State.completeEpochs_keeps
    | simp only [↓Keeps.upd]

theorem State.detachStream_keeps {s0 s : State} (n : Nat) (h : Keeps s0 s) : Keeps s0 (State.detachStream s n) := by
  unfold State.detachStream
  repeat' with_reducible first
    | assumption
    | (intro (x : State); apply Keeps.cut (s0 := s0) (x := x); rotate_left; intro hx; clear_value x; rotate_left; subst x)
    | apply State.noteDrop_keeps
    | apply State.modStream_keeps
    | apply State.reclaimSets_keeps
    | apply State.epochForget_keeps
    | (apply Keeps.foldl; rotate_left; intro t x ht; rotate_left)
    | simp only [↓Keeps.upd]

theorem State.endUnloads_keeps {s0 s : State} (h : Keeps s0 s) : Keeps s0 (State.endUnloads s) := by
  unfold State.endUnloads
  repeat' with_reducible first
    | assumption
    | apply State.endUnload_keeps
    | (apply Keeps.foldl; rotate_left; intro t x ht; rotate_left)

theorem State.settleAffinity_keeps {s0 s : State} (n : Nat) (h : Keeps s0 s) : Keeps s0 (State.settleAffinity s n) := by
  unfold State.settleAffinity
  repeat' with_reducible first
    | assumption
    | apply State.modStream_keeps
    | apply State.moveStream_keeps
    | split

theorem State.endRunCycle_keeps {s0 s : State} (n : Nat) (c : Nat) (h : Keeps s0 s) : Keeps s0 (State.endRunCycle s n c) := by
  unfold State.endRunCycle
  repeat' with_reducible first
    | assumption
    | apply State.endCycle_keeps
    | (apply Keeps.foldl; rotate_left; intro t x ht; rotate_left)
    | split

theorem State.setCurrent_keeps {s0 s : State} (k : Nat) (h : Keeps s0 s) : Keeps s0 (State.setCurrent s k) := by
  unfold State.setCurrent
  repeat' with_reducible first
    | assumption
    | apply State.modCluster_keeps

theorem State.passOn_keeps {s0 s : State} (k : Nat) (h : Keeps s0 s) : Keeps s0 (State.passOn s k) := by
  unfold State.passOn
  repeat' with_reducible first
    | assumption
    | apply State.setCurrent_keeps
    | split

theorem State.wakeAll_keeps {s0 s : State} (l : List Nat) (f : Hart → Hart) (h : Keeps s0 s) : Keeps s0 (State.wakeAll s l f) := by
  unfold State.wakeAll
  repeat' with_reducible first
    | assumption
    | (intro (x : State); apply Keeps.cut (s0 := s0) (x := x); rotate_left; intro hx; clear_value x; rotate_left; subst x)
    | apply State.modHart_keeps
    | apply State.passOn_keeps
    | (apply Keeps.foldl; rotate_left; intro t x ht; rotate_left)

theorem State.endEngineWaits_keeps {s0 s : State} (f : Nat) (h : Keeps s0 s) : Keeps s0 (State.endEngineWaits s f) := by
  unfold State.endEngineWaits
  repeat' with_reducible first
    | assumption
    | (intro (x : State); apply Keeps.cut (s0 := s0) (x := x); rotate_left; intro hx; clear_value x; rotate_left; subst x)
    | apply State.modSeq_keeps
    | apply State.endRunCycle_keeps
    | apply State.wakeAll_keeps
    | (apply Keeps.foldl; rotate_left; intro t x ht; rotate_left)
    | split

theorem State.refreshBlocked_keeps {s0 s : State} (h : Keeps s0 s) : Keeps s0 (State.refreshBlocked s) := by
  unfold State.refreshBlocked
  repeat' with_reducible first
    | assumption
    | simp only [↓Keeps.upd]

theorem State.haltCycle_keeps {s0 s : State} (c : List Nat) (h : Keeps s0 s) : Keeps s0 (State.haltCycle s c) := by
  unfold State.haltCycle
  repeat' with_reducible first
    | assumption
    | (intro (x : State); apply Keeps.cut (s0 := s0) (x := x); rotate_left; intro hx; clear_value x; rotate_left; subst x)
    | apply State.endCycle_keeps
    | apply State.postEvent_keeps
    | apply State.modQueue_keeps
    | (apply Keeps.foldl; rotate_left; intro t x ht; rotate_left)
    | simp only [↓Keeps.upd]
    | split

theorem State.buildGraph_keeps {s0 s : State} (h : Keeps s0 s) : Keeps s0 (State.buildGraph s) := by
  unfold State.buildGraph
  repeat' with_reducible first
    | assumption
    | (intro (x : State); apply Keeps.cut (s0 := s0) (x := x); rotate_left; intro hx; clear_value x; rotate_left; subst x)
    | apply State.refreshBlocked_keeps
    | apply State.haltCycle_keeps
    | (apply Keeps.foldl; rotate_left; intro t x ht; rotate_left)
    | simp only [↓Keeps.updTrust]
    | split

theorem State.endFlagWait_keeps {s0 s : State} (a0 : Nat × Item) (h : Keeps s0 s) : Keeps s0 (State.endFlagWait s a0) := by
  unfold State.endFlagWait
  repeat' with_reducible first
    | assumption
    | apply State.finish_keeps

theorem State.setFlag_keeps {s0 s : State} (f : Nat) (h : Keeps s0 s) : Keeps s0 (State.setFlag s f) := by
  unfold State.setFlag
  repeat' with_reducible first
    | assumption
    | (intro (x : State); apply Keeps.cut (s0 := s0) (x := x); rotate_left; intro hx; clear_value x; rotate_left; subst x)
    | apply State.endEngineWaits_keeps
    | apply State.endFlagWait_keeps
    | apply State.buildGraph_keeps
    | (apply Keeps.foldl; rotate_left; intro t x ht; rotate_left)
    | simp only [↓Keeps.upd]
    | split

theorem State.clearFlag_keeps {s0 s : State} (f : Nat) (setToo : Bool) (h : Keeps s0 s) : Keeps s0 (State.clearFlag s f setToo) := by
  unfold State.clearFlag
  repeat' with_reducible first
    | assumption
    | apply State.setFlag_keeps
    | simp only [↓Keeps.upd]
    | split

theorem State.wakeHart_keeps {s0 s : State} (k : Nat) (f : Hart → Hart) (h : Keeps s0 s) : Keeps s0 (State.wakeHart s k f) := by
  unfold State.wakeHart
  repeat' with_reducible first
    | assumption
    | apply State.wakeAll_keeps

theorem State.dropParked_keeps {s0 s : State} (n : Nat) (h : Keeps s0 s) : Keeps s0 (State.dropParked s n) := by
  unfold State.dropParked
  repeat' with_reducible first
    | assumption
    | (intro (x : Memory); subst x)
    | simp only [↓Keeps.updMem]

theorem State.dropTasks_keeps {s0 s : State} (n : Nat) (h : Keeps s0 s) : Keeps s0 (State.dropTasks s n) := by
  unfold State.dropTasks
  repeat' with_reducible first
    | assumption
    | simp only [↓Keeps.upd]

theorem State.discard_keeps {s0 s : State} (n : Nat) (mode : SeqMode) (h : Keeps s0 s) : Keeps s0 (State.discard s n mode) := by
  unfold State.discard
  repeat' with_reducible first
    | assumption
    | apply State.modSlice_keeps
    | apply State.dropParked_keeps
    | apply State.dropTasks_keeps

theorem State.dropStats_keeps {s0 s : State} (q : Nat) (n : Nat) (h : Keeps s0 s) : Keeps s0 (State.dropStats s q n) := by
  unfold State.dropStats
  repeat' with_reducible first
    | assumption
    | simp only [↓Keeps.upd]

theorem State.loseRun_keeps {s0 s : State} (q : Nat) (n : Nat) (h : Keeps s0 s) : Keeps s0 (State.loseRun s q n) := by
  unfold State.loseRun
  repeat' with_reducible first
    | assumption
    | (intro (x : State); apply Keeps.cut (s0 := s0) (x := x); rotate_left; intro hx; clear_value x; rotate_left; subst x)
    | apply State.dropStats_keeps
    | apply State.finish_keeps
    | apply State.spendRun_keeps
    | apply State.dropBuf_keeps
    | apply State.modItem_keeps
    | apply State.endCycle_keeps
    | split

theorem State.loseSliceWork_keeps {s0 s : State} (n : Nat) (h : Keeps s0 s) : Keeps s0 (State.loseSliceWork s n) := by
  unfold State.loseSliceWork
  repeat' with_reducible first
    | assumption
    | apply State.discard_keeps
    | apply State.loseRun_keeps
    | (apply Keeps.foldl; rotate_left; intro t x ht; rotate_left)
    | split

theorem State.clearRows_keeps {s0 s : State} (rows : List ObjRow) (k : Nat) (h : Keeps s0 s) : Keeps s0 (State.clearRows s rows k) := by
  unfold State.clearRows
  repeat' with_reducible first
    | assumption
    | apply State.clearObj_keeps
    | (apply Keeps.foldl; rotate_left; intro t x ht; rotate_left)

theorem State.beginReset_keeps {s0 s : State} (n : Nat) (h : Keeps s0 s) : Keeps s0 (State.beginReset s n) := by
  unfold State.beginReset
  repeat' with_reducible first
    | assumption
    | (intro (x : State); apply Keeps.cut (s0 := s0) (x := x); rotate_left; intro hx; clear_value x; rotate_left; subst x)
    | apply State.loseSliceWork_keeps
    | apply State.clearRows_keeps
    | apply State.modSlice_keeps
    | apply State.moveStreams_keeps

theorem State.nextReset_keeps {s0 s : State} (h : Keeps s0 s) : Keeps s0 (State.nextReset s) := by
  unfold State.nextReset
  repeat' with_reducible first
    | assumption
    | apply State.beginReset_keeps
    | apply State.modSlice_keeps
    | split

theorem State.retireSlice_keeps {s0 s : State} (n : Nat) (cause : Nat) (h : Keeps s0 s) : Keeps s0 (State.retireSlice s n cause) := by
  unfold State.retireSlice
  repeat' with_reducible first
    | assumption
    | (intro (x : State); apply Keeps.cut (s0 := s0) (x := x); rotate_left; intro hx; clear_value x; rotate_left; subst x)
    | apply State.loseSliceWork_keeps
    | apply State.setNum_keeps
    | apply State.modSlice_keeps
    | apply State.moveStream_keeps
    | apply State.nextReset_keeps
    | apply State.postEvent_keeps
    | (apply Keeps.foldl; rotate_left; intro t x ht; rotate_left)
    | split

theorem State.recomputeItem_keeps {s0 s : State} (q : Nat) (n : Nat) (r : Nat × Nat × Nat) (h : Keeps s0 s) : Keeps s0 (State.recomputeItem s q n r) := by
  unfold State.recomputeItem
  repeat' with_reducible first
    | assumption
    | apply State.spendRun_keeps
    | apply State.dropBuf_keeps
    | apply State.dropStats_keeps
    | apply State.modItem_keeps
    | apply State.endCycle_keeps
    | split

theorem State.loseBuffers_keeps {s0 s : State} (c : Nat) (n : Nat) (h : Keeps s0 s) : Keeps s0 (State.loseBuffers s c n) := by
  unfold State.loseBuffers
  repeat' with_reducible first
    | assumption
    | apply State.postEvent_keeps
    | apply State.modBuf_keeps
    | (apply Keeps.foldl; rotate_left; intro t x ht; rotate_left)
    | simp only [↓Keeps.updTrust]
    | split

theorem State.leaveRun_keeps {s0 s : State} (m : Nat) (q : Nat) (n : Nat) (h : Keeps s0 s) : Keeps s0 (State.leaveRun s m q n) := by
  unfold State.leaveRun
  repeat' with_reducible first
    | assumption
    | apply State.discard_keeps
    | apply State.modSlice_keeps
    | split

theorem State.abortItem_keeps {s0 s : State} (q : Nat) (n : Nat) (status : Nat) (cycle : Nat) (h : Keeps s0 s) : Keeps s0 (State.abortItem s q n status cycle) := by
  unfold State.abortItem
  repeat' with_reducible first
    | assumption
    | (intro (x : State); apply Keeps.cut (s0 := s0) (x := x); rotate_left; intro hx; clear_value x; rotate_left; subst x)
    | apply State.leaveRun_keeps
    | apply State.finish_keeps
    | apply State.dropStats_keeps
    | split

theorem State.loseContext_keeps {s0 s : State} (c : Nat) (h : Keeps s0 s) : Keeps s0 (State.loseContext s c) := by
  unfold State.loseContext
  repeat' with_reducible first
    | assumption
    | (intro (x : State); apply Keeps.cut (s0 := s0) (x := x); rotate_left; intro hx; clear_value x; rotate_left; subst x)
    | apply State.modCtx_keeps
    | apply State.abortItem_keeps
    | apply State.detachStream_keeps
    | apply State.modStream_keeps
    | apply State.postEvent_keeps
    | (apply Keeps.foldl; rotate_left; intro t x ht; rotate_left)
    | split

theorem State.loseCtxPage_keeps {s0 s : State} (c : Nat) (n : Nat) (h : Keeps s0 s) : Keeps s0 (State.loseCtxPage s c n) := by
  unfold State.loseCtxPage
  repeat' with_reducible first
    | assumption
    | (intro (x : State); apply Keeps.cut (s0 := s0) (x := x); rotate_left; intro hx; clear_value x; rotate_left; subst x)
    | apply State.loseContext_keeps
    | apply State.loseBuffers_keeps
    | apply State.abortItem_keeps
    | apply State.loseSliceWork_keeps
    | apply State.loseRun_keeps
    | (apply Keeps.foldl; rotate_left; intro t x ht; rotate_left)
    | simp only [↓Keeps.updTrust]
    | split

theorem State.losePage_keeps {s0 s : State} (c : Nat) (n : Nat) (h : Keeps s0 s) : Keeps s0 (State.losePage s c n) := by
  unfold State.losePage
  repeat' with_reducible first
    | assumption
    | (intro (x : State); apply Keeps.cut (s0 := s0) (x := x); rotate_left; intro hx; clear_value x; rotate_left; subst x)
    | (intro (x : Memory); subst x)
    | apply State.setEntry_keeps
    | apply State.retireSlot_keeps
    | apply State.count_keeps
    | apply State.loseCtxPage_keeps
    | simp only [↓Keeps.updMem]
    | split

theorem State.mismatchEvent_keeps {s0 s : State} (n : Nat) (stream : Option Nat) (outcome : Nat) (kind : Nat) (job : Nat) (other : Nat) (h : Keeps s0 s) : Keeps s0 (State.mismatchEvent s n stream outcome kind job other) := by
  unfold State.mismatchEvent
  repeat' with_reducible first
    | assumption
    | apply State.postEvent_keeps

theorem State.modGolden_keeps {s0 s : State} (n : Nat) (f : Golden → Golden) (h : Keeps s0 s) : Keeps s0 (State.modGolden s n f) := by
  unfold State.modGolden
  repeat' with_reducible first
    | assumption
    | apply State.modSlice_keeps

theorem State.overdue_keeps {s0 s : State} (n : Nat) (h : Keeps s0 s) : Keeps s0 (State.overdue s n) := by
  unfold State.overdue
  repeat' with_reducible first
    | assumption
    | apply State.modGolden_keeps

theorem State.failRun_keeps {s0 s : State} (n kind : Nat) (h : Keeps s0 s) : Keeps s0 (s.failRun n kind) := by
  unfold State.failRun
  dsimp only
  repeat' with_reducible first
      | assumption
      | apply State.modSlice_keeps
      | apply State.count_keeps
      | apply State.mismatchEvent_keeps
      | apply State.overdue_keeps
      | apply State.recomputeItem_keeps
      | apply State.discard_keeps
      | (apply Keeps.foldl; rotate_left; intro t x ht; rotate_left)
      | split

theorem State.dropHeld_keeps {s0 s : State} (c : Nat) (h : Keeps s0 s) : Keeps s0 (State.dropHeld s c) := by
  unfold State.dropHeld
  repeat' with_reducible first
    | assumption
    | simp only [↓Keeps.upd]

theorem State.retireChannel_keeps {s0 s : State} (c : Nat) (h : Keeps s0 s) : Keeps s0 (State.retireChannel s c) := by
  unfold State.retireChannel
  repeat' with_reducible first
    | assumption
    | (intro (x : State); apply Keeps.cut (s0 := s0) (x := x); rotate_left; intro hx; clear_value x; rotate_left; subst x)
    | apply State.setNum_keeps
    | apply State.dropHeld_keeps
    | apply State.modChan_keeps
    | apply State.abandonMig_keeps
    | apply State.loseSliceWork_keeps
    | apply State.endUnloads_keeps
    | apply State.losePage_keeps
    | apply State.enterCause_keeps
    | (apply Keeps.foldl; rotate_left; intro t x ht; rotate_left)
    | simp only [↓Keeps.upd]
    | split

theorem State.uncorrErr_keeps {s0 s : State} (c : Nat) (h : Keeps s0 s) : Keeps s0 (State.uncorrErr s c) := by
  unfold State.uncorrErr
  repeat' with_reducible first
    | assumption
    | (intro (x : State); apply Keeps.cut (s0 := s0) (x := x); rotate_left; intro hx; clear_value x; rotate_left; subst x)
    | apply State.modChan_keeps
    | apply State.retireChannel_keeps
    | simp only [↓Keeps.updTrust]
    | split

theorem State.memFault_keeps {s0 s : State} (c : Nat) (addr : Nat) (h : Keeps s0 s) : Keeps s0 (State.memFault s c addr) := by
  unfold State.memFault
  repeat' with_reducible first
    | assumption
    | apply State.uncorrErr_keeps
    | apply State.postFault_keeps
    | apply State.count_keeps

theorem State.endJobFault_keeps {s0 s : State} (n : Nat) (status : Nat) (detail : Option Bytes) (mode : SeqMode) (cycle : Nat) (h : Keeps s0 s) : Keeps s0 (State.endJobFault s n status detail mode cycle) := by
  unfold State.endJobFault
  repeat' with_reducible first
    | assumption
    | apply State.discard_keeps
    | apply State.finish_keeps
    | apply State.dropStats_keeps
    | (apply Keeps.foldl; rotate_left; intro t x ht; rotate_left)
    | split

theorem State.transferRec_keeps {s0 s : State} (n : Nat) (status : Nat) (source : Nat) (tag : Nat) (desc : Nat) (id : Nat) (detail : Nat) (h : Keeps s0 s) : Keeps s0 (State.transferRec s n status source tag desc id detail).2 := by
  unfold State.transferRec
  repeat' with_reducible first
    | assumption
    | apply State.count_keeps
    | apply State.setBlob_keeps
theorem State.transferRec_keeps_of {s0 s t : State} {n : Nat} {status : Nat} {source : Nat} {tag : Nat} {desc : Nat} {id : Nat} {detail : Nat} {v_ : _} (e : State.transferRec s n status source tag desc id detail = (v_, t)) (h : Keeps s0 s) : Keeps s0 t := by
  have k := State.transferRec_keeps (s0 := s0) (n := n) (status := status) (source := source) (tag := tag) (desc := desc) (id := id) (detail := detail) h
  rw [e] at k
  exact k

theorem State.transferFault_keeps {s0 s : State} (n : Nat) (status : Nat) (source : Nat) (tag : Nat) (desc : Nat) (id : Nat) (detail : Nat) (h : Keeps s0 s) : Keeps s0 (State.transferFault s n status source tag desc id detail) := by
  unfold State.transferFault
  repeat' with_reducible first
    | assumption
    | apply State.transferRec_keeps
    | refine State.transferRec_keeps_of (by assumption) ?_
    | apply State.endJobFault_keeps

theorem State.engineFault_keeps {s0 s : State} (n : Nat) (source : Nat) (tag : Nat) (detail : Int) (h : Keeps s0 s) : Keeps s0 (State.engineFault s n source tag detail) := by
  unfold State.engineFault
  repeat' with_reducible first
    | assumption
    | apply State.transferFault_keeps

theorem State.islandReaction_keeps {s0 s : State} (code : Nat) (chan : Option Nat) (h : Keeps s0 s) : Keeps s0 (State.islandReaction s code chan) := by
  unfold State.islandReaction
  repeat' with_reducible first
    | assumption
    | (intro (x : State); apply Keeps.cut (s0 := s0) (x := x); rotate_left; intro hx; clear_value x; rotate_left; subst x)
    | apply State.modSlice_keeps
    | apply State.nextReset_keeps
    | apply State.moveStreams_keeps
    | apply State.loseSliceWork_keeps
    | apply State.retireChannel_keeps
    | apply State.enterCause_keeps
    | simp only [↓Keeps.upd]
    | split

theorem State.islandFault_keeps {s0 s : State} (failed : Nat) (requester : Nat) (chan : Option Nat) (h : Keeps s0 s) : Keeps s0 (State.islandFault s failed requester chan) := by
  unfold State.islandFault
  repeat' with_reducible first
    | assumption
    | apply State.postFault_keeps
    | apply State.islandReaction_keeps

theorem State.strike_keeps {s0 s : State} (n : Nat) (idx : Nat) (cause : Nat) (h : Keeps s0 s) : Keeps s0 (State.strike s n idx cause) := by
  unfold State.strike
  repeat' with_reducible first
    | assumption
    | (intro (x : State); apply Keeps.cut (s0 := s0) (x := x); rotate_left; intro hx; clear_value x; rotate_left; subst x)
    | apply State.modSlice_keeps
    | apply State.retireSlice_keeps
    | simp only [↓Keeps.updTrust]
    | split

theorem State.tagFault_keeps {s0 s : State} (slice : Option Nat) (addr : Nat) (h : Keeps s0 s) : Keeps s0 (State.tagFault s slice addr) := by
  unfold State.tagFault
  repeat' with_reducible first
    | assumption
    | (intro (x : State); apply Keeps.cut (s0 := s0) (x := x); rotate_left; intro hx; clear_value x; rotate_left; subst x)
    | apply State.postFault_keeps
    | apply State.loseSliceWork_keeps
    | apply State.retireChannel_keeps
    | split

theorem State.respond_keeps {s0 s : State} (r : Req) (type : Nat) (status : Nat) (body : Bytes) (keep : Bool) (h : Keeps s0 s) : Keeps s0 (State.respond s r type status body keep) := by
  unfold State.respond
  repeat' with_reducible first
    | assumption
    | simp only [↓Keeps.upd]

/-- A host request keeps what its body keeps. -/
theorem State.hostReq_keeps {s0 s : State} (r : Req) (type : Nat) (cmd : Instr) (body : State → Nat × Bytes × State)
    (hb : ∀ s, Keeps s0 s → Keeps s0 (body s).2.2) (h : Keeps s0 s) : Keeps s0 (s.hostReq r type cmd body) := by
  unfold State.hostReq
  repeat' with_reducible first
    | assumption
    | apply hb
    | apply State.respond_keeps
    | apply State.count_keeps
    | simp only [↓Keeps.upd]
    | split

theorem State.touch_keeps {s0 s : State} (key : Nat) (write : Bool) (h : Keeps s0 s) : Keeps s0 (State.touch s key write) := by
  unfold State.touch
  repeat' with_reducible first
    | assumption
    | simp only [↓Keeps.upd]

theorem State.hold_keeps {s0 s : State} (r : ObjRow) (k : Nat) (v : Val) (h : Keeps s0 s) : Keeps s0 (State.hold s r k v).2 := by
  unfold State.hold
  repeat' with_reducible first
    | assumption
    | simp only [↓Keeps.upd]
    | split
theorem State.hold_keeps_of {s0 s t : State} {r : ObjRow} {k : Nat} {v : Val} {v_ : _} (e : State.hold s r k v = (v_, t)) (h : Keeps s0 s) : Keeps s0 t := by
  have k := State.hold_keeps (s0 := s0) (r := r) (k := k) (v := v) h
  rw [e] at k
  exact k

theorem State.commitRec_keeps {s0 s t : State} {r : PersRec} {f : Bool} (q : s.commitRec r f = some t) (h : Keeps s0 s) :
    Keeps s0 t := by
  unfold State.commitRec at q
  split at q
  · simp at q
  · extract_lets at q
    split at q
    · simp only [Option.some.injEq] at q
      exact q ▸ State.count_keeps _ _ _ (by simpa only [Keeps.upd] using h)
    · simp only [Option.some.injEq] at q
      exact q ▸ State.count_keeps _ _ _ (State.count_keeps _ _ _ (by simpa only [Keeps.upd] using h))


theorem State.moment_keeps {s0 s : State} {w : WriteRule} (r : ObjRow) (k : Nat) (v : Val) (hw : RuleKeeps s0 w)
    (h : Keeps s0 s) : Keeps s0 (s.moment r k w v) := by
  unfold State.moment
  split
  · exact hw _ _ h
  all_goals
    repeat' with_reducible first
      | assumption
      | apply State.commitEpoch_keeps
      | simp only [↓Keeps.upd]
      | split

theorem State.writeObj_keeps {s0 s : State} {w : WriteRule} (r : ObjRow) (k : Nat) (v : Val) (defer flashOk : Bool)
    (hw : RuleKeeps s0 w) (h : Keeps s0 s) : Keeps s0 (s.writeObj r k w v defer flashOk).2 := by
  unfold State.writeObj
  repeat' with_reducible first
    | assumption
    | exact hw
    | lift_lets
    | (intro x; clear_value x)
    | apply State.hold_keeps
    | apply State.moment_keeps
    | apply State.count_keeps
    | refine State.commitRec_keeps (by assumption) ?_
    | split
theorem State.writeObj_keeps_of {s0 s t : State} {w : WriteRule} {r : ObjRow} {k : Nat} {v : Val} {defer flashOk : Bool} {st : Nat}
    (e : s.writeObj r k w v defer flashOk = (st, t)) (hw : RuleKeeps s0 w) (h : Keeps s0 s) : Keeps s0 t := by
  have q := State.writeObj_keeps r k v defer flashOk hw h
  rw [e] at q
  exact q

theorem State.hostBlob_keeps {s0 s : State} {rule : WriteRule} (cmd : Instr) (w : BlobW) (r : ObjRow) (k : Nat)
    (hw : RuleKeeps s0 rule) (h : Keeps s0 s) : Keeps s0 (s.hostBlob cmd w r k rule) := by
  unfold State.hostBlob
  refine State.hostReq_keeps _ _ _ _ (fun s hs => ?_) h
  exact State.writeObj_keeps _ _ _ _ _ hw (State.touch_keeps _ _ hs)


theorem clearRule_keeps {s0 : State} (rows : List ObjRow) (k : Nat) : RuleKeeps s0 (clearRule rows k) := by
  unfold clearRule
  repeat' with_reducible first
    | assumption
    | (apply RuleKeeps.cmd; intro s a hs)
    | apply State.clearRows_keeps

theorem WriteRule.plain_keeps {s0 : State} (r : ObjRow) (k : Nat) : RuleKeeps s0 (WriteRule.plain r k) :=
  fun _ _ h => State.setVal_keeps _ _ _ h

theorem State.hostWrite_keeps {s0 s : State} {rule : WriteRule} (cmd : Instr) (w : CmdW) (r : ObjRow) (k : Nat)
    (hw : RuleKeeps s0 rule) (h : Keeps s0 s) : Keeps s0 (s.hostWrite cmd w r k rule) := by
  unfold State.hostWrite
  refine State.hostReq_keeps _ _ _ _ (fun s hs => ?_) h
  exact State.writeObj_keeps _ _ _ _ _ hw (State.touch_keeps _ _ hs)

theorem State.placeProgram_keeps {s0 s : State} (n : Nat) (c : Nat) (prog : Nat) (p : Package) (h : Keeps s0 s) : Keeps s0 (State.placeProgram s n c prog p) := by
  unfold State.placeProgram
  repeat' with_reducible first
    | assumption
    | apply State.modSlice_keeps
    | simp only [↓Keeps.upd]

theorem State.engineWrites_keeps {s0 s : State} (n : Nat) (source : Nat) (tag : Nat) (ws : List RowWrite) (h : Keeps s0 s) : Keeps s0 (State.engineWrites s n source tag ws).2 := by
  unfold State.engineWrites
  repeat' with_reducible first
    | assumption
    | (intro (x : State); apply Keeps.cut (s0 := s0) (x := x); rotate_left; intro hx; clear_value x; rotate_left; subst x)
    | apply State.setSlice_keeps
    | apply State.engineFault_keeps
    | simp only [↓Keeps.updTrust]
    | split
theorem State.engineWrites_keeps_of {s0 s t : State} {n : Nat} {source : Nat} {tag : Nat} {ws : List RowWrite} {v_ : _} (e : State.engineWrites s n source tag ws = (v_, t)) (h : Keeps s0 s) : Keeps s0 t := by
  have k := State.engineWrites_keeps (s0 := s0) (n := n) (source := source) (tag := tag) (ws := ws) h
  rw [e] at k
  exact k

theorem State.failTile_keeps {s0 s : State} (n : Nat) (f : FailAt) (h : Keeps s0 s) : Keeps s0 (State.failTile s n f) := by
  unfold State.failTile
  repeat' with_reducible first
    | assumption
    | (intro (x : State); apply Keeps.cut (s0 := s0) (x := x); rotate_left; intro hx; clear_value x; rotate_left; subst x)
    | apply State.setBlob_keeps
    | apply State.count_keeps
    | apply State.modArr_keeps
    | apply State.failRun_keeps
    | apply State.postFault_keeps
    | simp only [↓Keeps.updTrust]
    | split

theorem State.eccReads_keeps {s0 s : State} (n : Nat) (rows : List Int) (l : List TsEcc) (h : Keeps s0 s) : Keeps s0 (State.eccReads s n rows l) := by
  unfold State.eccReads
  repeat' with_reducible first
    | assumption
    | apply State.failRun_keeps
    | apply State.postFault_keeps
    | apply State.count_keeps
    | (apply Keeps.foldl; rotate_left; intro t x ht; rotate_left)
    | split

theorem State.portWrite_keeps {s0 s : State} (n : Nat) (a : TsAccess) (cyc : Nat) (h : Keeps s0 s) : Keeps s0 (State.portWrite s n a cyc) := by
  unfold State.portWrite
  repeat' with_reducible first
    | assumption
    | (intro (x : State); apply Keeps.cut (s0 := s0) (x := x); rotate_left; intro hx; clear_value x; rotate_left; subst x)
    | apply State.setSlice_keeps
    | apply State.modStore_keeps
    | apply State.count_keeps
    | simp only [↓Keeps.updTrust]
    | split

theorem State.portRead_keeps {s0 s : State} (n : Nat) (a : TsAccess) (cyc : Nat) (deliver : Nat) (h : Keeps s0 s) : Keeps s0 (State.portRead s n a cyc deliver) := by
  unfold State.portRead
  repeat' with_reducible first
    | assumption
    | (intro (x : State); apply Keeps.cut (s0 := s0) (x := x); rotate_left; intro hx; clear_value x; rotate_left; subst x)
    | apply State.modStore_keeps
    | apply State.count_keeps
    | apply State.failRun_keeps
    | apply State.postFault_keeps
    | simp only [↓Keeps.updTrust]
    | split

theorem State.portsTo_keeps {s0 s : State} (n c k : Nat) (h : Keeps s0 s) : Keeps s0 (State.portsTo n c k s) := by
  induction k generalizing s with
  | zero => exact h
  | succ k ih =>
    simp only [State.portsTo]
    repeat' with_reducible first
      | assumption
      | apply ih
      | apply State.portWrite_keeps
      | apply State.portRead_keeps
      | apply State.modStore_keeps
      | split

theorem State.portAccess_keeps {s0 s : State} (n : Nat) (a : TsAccess) (g : Nat) (h : Keeps s0 s) : Keeps s0 (State.portAccess s n a g) := by
  unfold State.portAccess
  repeat' with_reducible first
    | assumption
    | (intro (x : State); apply Keeps.cut (s0 := s0) (x := x); rotate_left; intro hx; clear_value x; rotate_left; subst x)
    | apply State.portsTo_keeps
    | apply State.modStore_keeps
    | apply State.portWrite_keeps
    | apply State.portRead_keeps
    | simp only [↓Keeps.updTrust]
    | split

theorem State.xfmFail_keeps {s0 s : State} (n : Nat) (c : XfmCmd) (h : Keeps s0 s) : Keeps s0 (State.xfmFail s n c) := by
  unfold State.xfmFail
  repeat' with_reducible first
    | assumption
    | (intro (x : State); apply Keeps.cut (s0 := s0) (x := x); rotate_left; intro hx; clear_value x; rotate_left; subst x)
    | apply State.modArr_keeps
    | apply State.failTile_keeps
    | split

theorem State.runInverse_keeps {s0 s : State} (n : Nat) (c : XfmCmd) (e : Bytes) (h : Keeps s0 s) : Keeps s0 (State.runInverse s n c e) := by
  unfold State.runInverse
  repeat' with_reducible first
    | assumption
    | apply State.engineFault_keeps
    | apply State.xfmFail_keeps
    | apply State.modArr_keeps
    | apply State.eccReads_keeps
    | simp only [↓Keeps.updTrust]
    | split

theorem State.runTransform_keeps {s0 s : State} (n : Nat) (c : XfmCmd) (e : Bytes) (h : Keeps s0 s) : Keeps s0 (State.runTransform s n c e) := by
  unfold State.runTransform
  repeat' with_reducible first
    | assumption
    | (intro (x : State); apply Keeps.cut (s0 := s0) (x := x); rotate_left; intro hx; clear_value x; rotate_left; subst x)
    | apply State.engineFault_keeps
    | apply State.eccReads_keeps
    | apply State.engineWrites_keeps
    | refine State.engineWrites_keeps_of (by assumption) ?_
    | apply State.xfmFail_keeps
    | simp only [↓Keeps.updTrust]
    | split

theorem State.runIssue_keeps {s0 s : State} (n : Nat) (c : XfmCmd) (e : Bytes) (h : Keeps s0 s) : Keeps s0 (State.runIssue s n c e) := by
  unfold State.runIssue
  repeat' with_reducible first
    | assumption
    | apply State.engineFault_keeps
    | apply State.xfmFail_keeps
    | apply State.modArr_keeps
    | apply State.eccReads_keeps
    | simp only [↓Keeps.updTrust]
    | split

theorem State.runXfm_keeps {s0 s : State} (n : Nat) (c : XfmCmd) (h : Keeps s0 s) : Keeps s0 (State.runXfm s n c) := by
  unfold State.runXfm
  repeat' with_reducible first
    | assumption
    | apply State.runInverse_keeps
    | apply State.runTransform_keeps
    | apply State.runIssue_keeps
    | simp only [↓Keeps.updTrust]
    | split

theorem State.startXfm_keeps {s0 s : State} (n : Nat) (h : Keeps s0 s) : Keeps s0 (State.startXfm s n) := by
  unfold State.startXfm
  repeat' with_reducible first
    | assumption
    | (intro (x : State); apply Keeps.cut (s0 := s0) (x := x); rotate_left; intro hx; clear_value x; rotate_left; subst x)
    | apply State.runXfm_keeps
    | apply State.modArr_keeps
    | simp only [↓Keeps.updTrust]
    | split

theorem State.feedEnter_keeps {s0 s : State} (n : Nat) (f : Feed) (c : Nat) (h : Keeps s0 s) : Keeps s0 (State.feedEnter s n f c) := by
  unfold State.feedEnter
  repeat' with_reducible first
    | assumption
    | apply State.modArr_keeps
    | apply State.count_keeps
    | apply State.startXfm_keeps
    | simp only [↓Keeps.updTrust]
    | split

theorem State.feedRead_keeps {s0 s : State} (n : Nat) (f : Feed) (h : Keeps s0 s) : Keeps s0 (State.feedRead s n f) := by
  unfold State.feedRead
  repeat' with_reducible first
    | assumption
    | (intro (x : State); apply Keeps.cut (s0 := s0) (x := x); rotate_left; intro hx; clear_value x; rotate_left; subst x)
    | apply State.engineFault_keeps
    | apply State.modArr_keeps
    | apply State.eccReads_keeps
    | simp only [↓Keeps.updTrust]
    | split

theorem State.feedStep_keeps {s0 s : State} (n : Nat) (c : Nat) (h : Keeps s0 s) : Keeps s0 (State.feedStep s n c) := by
  unfold State.feedStep
  repeat' with_reducible first
    | assumption
    | apply State.feedEnter_keeps
    | apply State.feedRead_keeps
    | simp only [↓Keeps.updTrust]
    | split

theorem State.feedSteps_keeps {s0 s : State} (n c k : Nat) (h : Keeps s0 s) : Keeps s0 (State.feedSteps n c k s) := by
  induction k generalizing s with
  | zero => exact h
  | succ k ih => exact ih (State.feedStep_keeps _ _ h)

theorem State.feedTo_keeps {s0 s : State} (n : Nat) (c : Nat) (h : Keeps s0 s) : Keeps s0 (State.feedTo s n c) := by
  unfold State.feedTo
  repeat' with_reducible first
    | assumption
    | (intro (x : State); apply Keeps.cut (s0 := s0) (x := x); rotate_left; intro hx; clear_value x; rotate_left; subst x)
    | apply State.portsTo_keeps
    | apply State.feedSteps_keeps
    | simp only [↓Keeps.updTrust]
    | split

theorem State.freezeCycle_keeps {s0 s : State} (n : Nat) (since : Nat) (c : FrozenCycle) (h : Keeps s0 s) : Keeps s0 (State.freezeCycle s n since c) := by
  unfold State.freezeCycle
  repeat' with_reducible first
    | assumption
    | (intro (x : State); apply Keeps.cut (s0 := s0) (x := x); rotate_left; intro hx; clear_value x; rotate_left; subst x)
    | apply State.modArr_keeps
    | apply State.count_keeps
    | simp only [↓Keeps.updTrust]
    | split

theorem State.freeze_keeps {s0 s : State} (n : Nat) (since : Nat) (fr : List FrozenCycle) (h : Keeps s0 s) : Keeps s0 (State.freeze s n since fr) := by
  unfold State.freeze
  repeat' with_reducible first
    | assumption
    | apply State.freezeCycle_keeps
    | (apply Keeps.foldl; rotate_left; intro t x ht; rotate_left)

theorem State.countActive_keeps {s0 s : State} (n : Nat) (c : Nat) (k : Nat) (h : Keeps s0 s) : Keeps s0 (State.countActive s n c k) := by
  unfold State.countActive
  repeat' with_reducible first
    | assumption
    | apply State.modArr_keeps
    | apply State.count_keeps

theorem execTileStart_keeps {s0 s : State} (sl : SliceId) (cyc : Nat) (fr : List FrozenCycle) (y : TileFaults) (h : Keeps s0 s) : NextKeeps s0 (execTileStart sl cyc fr y s) := by
  unfold execTileStart
  repeat' with_reducible first
    | assumption
    | (intro (x : State); apply Keeps.cut (s0 := s0) (x := x); rotate_left; intro hx; clear_value x; rotate_left; subst x)
    | apply State.feedTo_keeps
    | apply done_keeps
    | apply State.modArr_keeps
    | apply State.freeze_keeps
    | apply State.countActive_keeps
    | simp only [↓Keeps.updTrust]
    | split

theorem execWeightLoadStart_keeps {s0 s : State} (sl : SliceId) (l : LoadStart) (h : Keeps s0 s) : NextKeeps s0 (execWeightLoadStart sl l s) := by
  unfold execWeightLoadStart
  repeat' with_reducible first
    | assumption
    | (intro (x : State); apply Keeps.cut (s0 := s0) (x := x); rotate_left; intro hx; clear_value x; rotate_left; subst x)
    | apply State.feedTo_keeps
    | apply done_keeps
    | apply State.engineFault_keeps
    | apply State.modArr_keeps
    | apply State.freeze_keeps
    | apply State.countActive_keeps
    | apply State.count_keeps
    | apply State.eccReads_keeps
    | simp only [↓Keeps.updTrust]
    | split

theorem State.heatUp_keeps {s0 s : State} (page : Nat) (h : Keeps s0 s) : Keeps s0 (State.heatUp s page) := by
  unfold State.heatUp
  repeat' with_reducible first
    | assumption
    | (intro (x : Memory); subst x)
    | apply State.setEntry_keeps
    | simp only [↓Keeps.updMem]
    | split

theorem State.unmarkBad_keeps {s0 s : State} (a : Nat) (h : Keeps s0 s) : Keeps s0 (State.unmarkBad s a) := by
  unfold State.unmarkBad
  repeat' with_reducible first
    | assumption
    | (intro (x : Memory); subst x)
    | simp only [↓Keeps.updMem]

theorem State.restore_keeps {s0 s : State} (a : Nat) (h : Keeps s0 s) : Keeps s0 (s.restore a) := by
  unfold State.restore
  split
  · exact h
  · refine State.unmarkBad_keeps _ (Keeps.bytes (s := s) h rfl rfl ?_)
    dsimp only
    exact cputs_wf _ _ _

theorem State.markBad_keeps {s0 s : State} (a : Nat) (h : Keeps s0 s) : Keeps s0 (State.markBad s a) := by
  unfold State.markBad
  repeat' with_reducible first
    | assumption
    | (intro (x : Memory); subst x)
    | simp only [↓Keeps.updMem]

theorem State.eccRead_keeps {s0 s : State} (c : Nat) (a : Nat) (ecc : MemErr) (h : Keeps s0 s) : Keeps s0 (State.eccRead s c a ecc).2 := by
  unfold State.eccRead
  repeat' with_reducible first
    | assumption
    | (intro (x : State); apply Keeps.cut (s0 := s0) (x := x); rotate_left; intro hx; clear_value x; rotate_left; subst x)
    | apply State.count_keeps
    | apply State.markBad_keeps
    | apply State.uncorrErr_keeps
    | apply State.restore_keeps
    | apply State.memFault_keeps
    | simp only [↓Keeps.updTrust]
    | split
theorem State.eccRead_keeps_of {s0 s t : State} {c : Nat} {a : Nat} {ecc : MemErr} {v_ : _} (e : State.eccRead s c a ecc = (v_, t)) (h : Keeps s0 s) : Keeps s0 t := by
  have k := State.eccRead_keeps (s0 := s0) (c := c) (a := a) (ecc := ecc) h
  rw [e] at k
  exact k

theorem State.access_keeps {s0 s : State} (ch : Nat) (r : SortReq) (ecc : MemErr) (h : Keeps s0 s) : Keeps s0 (State.access s ch r ecc).2 := by
  unfold State.access
  repeat' with_reducible first
    | assumption
    | apply State.count_keeps
    | apply State.unmarkBad_keeps
    | apply State.eccRead_keeps
    | refine State.eccRead_keeps_of (by assumption) ?_
    | split
theorem State.access_keeps_of {s0 s t : State} {ch : Nat} {r : SortReq} {ecc : MemErr} {v_ : _} (e : State.access s ch r ecc = (v_, t)) (h : Keeps s0 s) : Keeps s0 t := by
  have k := State.access_keeps (s0 := s0) (ch := ch) (r := r) (ecc := ecc) h
  rw [e] at k
  exact k

theorem execMirrorReplace_keeps {s0 s : State} (page : Nat) (h : Keeps s0 s) : NextKeeps s0 (execMirrorReplace page s) := by
  unfold execMirrorReplace
  extract_lets e
  apply NextKeeps.next
  split
  · exact h
  · split
    · exact h.same rfl rfl rfl
    · split
      · exact h
      · rename_i d _
        have k := State.takeSlot_keeps (s0 := s0) d h
        split
        rename_i u e
        rw [e] at k
        extract_lets m
        refine Keeps.bytes (s := u) k rfl rfl ?_
        dsimp only [m]
        exact cputs_wf _ _ _

theorem execRetrainDone_keeps {s0 s : State} (ch : ChanId) (ok : Bool) (h : Keeps s0 s) : NextKeeps s0 (execRetrainDone ch ok s) := by
  unfold execRetrainDone
  repeat' with_reducible first
    | assumption
    | apply NextKeeps.next
    | apply done_keeps
    | apply State.retireChannel_keeps
    | apply State.count_keeps
    | apply State.modChan_keeps
    | split

theorem State.park_keeps {s0 s : State} (c : Nat) (r : MemReq) (l : ReqLink) (h : Keeps s0 s) : Keeps s0 (State.park s c r l) := by
  unfold State.park
  repeat' with_reducible first
    | assumption
    | (intro (x : State); apply Keeps.cut (s0 := s0) (x := x); rotate_left; intro hx; clear_value x; rotate_left; subst x)
    | (intro (x : Memory); subst x)
    | apply State.modChan_keeps
    | apply State.peak_keeps
    | apply State.count_keeps
    | simp only [↓Keeps.updMem]
    | split

theorem State.enqueue_keeps {s0 s : State} (c : Nat) (r : MemReq) (l : ReqLink) (h : Keeps s0 s) : Keeps s0 (State.enqueue s c r l) := by
  unfold State.enqueue
  repeat' with_reducible first
    | assumption
    | apply State.modChan_keeps
    | apply State.park_keeps
    | split

theorem execSorterEnqueue_keeps {s0 s : State} (r : MemReq) (h : Keeps s0 s) : NextKeeps s0 (execSorterEnqueue r s) := by
  unfold execSorterEnqueue
  repeat' with_reducible first
    | assumption
    | apply NextKeeps.next
    | apply done_keeps
    | apply State.enqueue_keeps
    | split

theorem State.restoreMirror_keeps {s0 s : State} (c k a : Nat) (h : Keeps s0 s) : Keeps s0 (s.restoreMirror c k a) := by
  unfold State.restoreMirror
  refine Keeps.bytes (s := s) h rfl rfl ?_
  dsimp only
  exact cputs_wf _ _ _

theorem execMigrationCheck_keeps {s0 s : State} (busy : List ChanId) (h : Keeps s0 s) : NextKeeps s0 (execMigrationCheck busy s) := by
  unfold execMigrationCheck
  repeat' with_reducible first
    | assumption
    | (intro (x : State); apply Keeps.cut (s0 := s0) (x := x); rotate_left; intro hx; clear_value x; rotate_left; subst x)
    | (intro (x : Memory); subst x)
    | apply NextKeeps.next
    | apply done_keeps
    | apply State.takeSlot_keeps
    | refine State.takeSlot_keeps_of (by assumption) ?_
    | apply State.draw_keeps
    | refine State.draw_keeps_of (by assumption) ?_
    | apply State.setEntry_keeps
    | simp only [↓Keeps.updMem]
    | split

theorem State.pull_keeps {s0 s : State} (c : Nat) (l : List (MemReq × ReqLink)) (b : List ReqSource) (h : Keeps s0 s) :
    Keeps s0 (State.pull c l b s) := by
  induction l generalizing b s with
  | nil => exact h
  | cons r l ih =>
    simp only [State.pull]
    split
    · exact ih _ (State.modChan_keeps _ _ h)
    · exact ih _ (State.park_keeps _ _ _ h)

theorem State.pullAll_keeps {s0 s : State} (c : Nat) (h : Keeps s0 s) : Keeps s0 (s.pullAll c) :=
  State.pull_keeps _ _ _ (State.modChan_keeps _ _ h)

theorem State.takeRes_keeps {s0 s : State} (ch : Nat) (q : SortReq) (h : Keeps s0 s) : Keeps s0 (State.takeRes s ch q) := by
  unfold State.takeRes
  repeat' with_reducible first
    | assumption
    | apply State.peak_keeps
    | apply State.modStore_keeps
    | apply State.modCluster_keeps
    | split

theorem State.admitFirst_keeps {s0 s : State} (ch : Nat) (bank : Nat) (h : Keeps s0 s) : Keeps s0 (State.admitFirst s ch bank) := by
  unfold State.admitFirst
  repeat' with_reducible first
    | assumption
    | apply State.modChan_keeps
    | apply State.pullAll_keeps
    | apply State.heatUp_keeps
    | apply State.takeRes_keeps
    | split

theorem State.send_keeps {s0 s : State} (r : MemReq) (l : ReqLink) (h : Keeps s0 s) : Keeps s0 (State.send s r l) := by
  unfold State.send
  repeat' with_reducible first
    | assumption
    | (intro (x : State); apply Keeps.cut (s0 := s0) (x := x); rotate_left; intro hx; clear_value x; rotate_left; subst x)
    | apply State.enqueue_keeps
    | apply State.admitFirst_keeps
    | simp only [↓Keeps.updTrust]
    | split

theorem execHeatDecay_keeps {s0 s : State} (h : Keeps s0 s) : NextKeeps s0 (execHeatDecay s) := by
  unfold execHeatDecay
  repeat' with_reducible first
    | assumption
    | (intro (x : Memory); subst x)
    | apply NextKeeps.next
    | apply done_keeps
    | simp only [↓Keeps.updMem]

theorem State.copyBlocks_keeps {s0 s : State} (page : Nat) (errs : List (Fin 256 × MemErr)) (h : Keeps s0 s) : Keeps s0 (State.copyBlocks s page errs).2 := by
  unfold State.copyBlocks
  repeat' with_reducible first
    | assumption
    | apply State.eccRead_keeps
    | refine State.eccRead_keeps_of (by assumption) ?_
    | (apply Keeps.foldl1; rotate_left; intro t x ht; dsimp only; rotate_left)
    | split
theorem State.copyBlocks_keeps_of {s0 s t : State} {page : Nat} {errs : List (Fin 256 × MemErr)} {v_ : _} (e : State.copyBlocks s page errs = (v_, t)) (h : Keeps s0 s) : Keeps s0 t := by
  have k := State.copyBlocks_keeps (s0 := s0) (page := page) (errs := errs) h
  rw [e] at k
  exact k

theorem execMigrationCopyDone_keeps {s0 s : State} (page : Nat) (errs : List (Fin 256 × MemErr)) (h : Keeps s0 s) :
    NextKeeps s0 (execMigrationCopyDone page errs s) := by
  unfold execMigrationCopyDone
  split
  · exact NextKeeps.next h
  · extract_lets e
    have hu := State.copyBlocks_keeps (s0 := s0) page errs h
    split
    rename_i q
    rw [q] at hu
    clear q
    split
    · exact NextKeeps.next h
    · split
      · exact done_keeps _ (State.abandonMig_keeps _ hu)
      · apply NextKeeps.next
        apply State.setEntry_keeps
        refine Keeps.bytes hu rfl rfl ?_
        dsimp only
        exact cputs_wf _ _ _

theorem State.hostBlock_keeps {s0 s : State} (a : Nat) (h : Keeps s0 s) : Keeps s0 (State.hostBlock s a).2 := by
  unfold State.hostBlock
  repeat' with_reducible first
    | assumption
    | apply State.memFault_keeps
    | apply State.uncorrErr_keeps
    | apply State.count_keeps
    | apply State.restore_keeps
    | split
theorem State.hostBlock_keeps_of {s0 s t : State} {a : Nat} {v_ : _} (e : State.hostBlock s a = (v_, t)) (h : Keeps s0 s) : Keeps s0 t := by
  have k := State.hostBlock_keeps (s0 := s0) (a := a) h
  rw [e] at k
  exact k

theorem execRequestAgeOver_keeps {s0 s : State} (ch : ChanId) (id : Nat) (h : Keeps s0 s) : NextKeeps s0 (execRequestAgeOver ch id s) := by
  unfold execRequestAgeOver
  repeat' with_reducible first
    | assumption
    | apply NextKeeps.next
    | apply done_keeps
    | apply State.advanceTo_keeps
    | apply State.count_keeps
    | apply State.modChan_keeps
    | split

theorem State.eccMirror_keeps {s0 s : State} (c : Nat) (k : Nat) (a : Nat) (ecc : MemErr) (h : Keeps s0 s) : Keeps s0 (State.eccMirror s c k a ecc) := by
  unfold State.eccMirror
  repeat' with_reducible first
    | assumption
    | (intro (x : Memory); subst x)
    | apply State.count_keeps
    | apply State.memFault_keeps
    | apply State.uncorrErr_keeps
    | apply State.restoreMirror_keeps
    | simp only [↓Keeps.updMem]
    | split

theorem execSlotZeroDone_keeps {s0 s : State} (ch : ChanId) (slot : Nat) (h : Keeps s0 s) :
    NextKeeps s0 (execSlotZeroDone ch slot s) := by
  unfold execSlotZeroDone
  apply done_keeps
  split
  · exact h
  · exact State.endUnloads_keeps ((State.modChan_keeps _ _ h).bytes rfl rfl (cdrop_wf _ _ _))

theorem execRequestAdmit_keeps {s0 s : State} (ch : ChanId) (bank : Fin 16) (h : Keeps s0 s) : NextKeeps s0 (execRequestAdmit ch bank s) := by
  unfold execRequestAdmit
  repeat' with_reducible first
    | assumption
    | apply NextKeeps.next
    | apply done_keeps
    | apply State.admitFirst_keeps

theorem State.modReq_keeps {s0 s : State} (ch : Nat) (id : Nat) (f : SortReq → SortReq) (h : Keeps s0 s) : Keeps s0 (State.modReq s ch id f) := by
  unfold State.modReq
  repeat' with_reducible first
    | assumption
    | apply State.modChan_keeps

theorem execScrubRead_keeps {s0 s : State} (ch : ChanId) (slot : Nat) (block : Fin 256) (ecc : MemErr) (h : Keeps s0 s) : NextKeeps s0 (execScrubRead ch slot block ecc s) := by
  unfold execScrubRead
  repeat' with_reducible first
    | assumption
    | apply NextKeeps.next
    | apply done_keeps
    | apply State.eccRead_keeps
    | refine State.eccRead_keeps_of (by assumption) ?_
    | apply State.eccMirror_keeps
    | simp only [↓Keeps.updTrust]
    | split

theorem State.retireReq_keeps {s0 s : State} (ch : Nat) (ids : List Nat) (h : Keeps s0 s) : Keeps s0 (State.retireReq s ch ids) := by
  unfold State.retireReq
  repeat' with_reducible first
    | assumption
    | apply State.pullAll_keeps
    | apply State.modChan_keeps

theorem State.readCheck_keeps {s0 s : State} (ch : Nat) (a : Nat) (h : Keeps s0 s) : Keeps s0 (State.readCheck s ch a) := by
  unfold State.readCheck
  repeat' with_reducible first
    | assumption
    | apply State.draw_keeps
    | refine State.draw_keeps_of (by assumption) ?_
    | apply State.modChan_keeps
    | simp only [↓Keeps.updTrust]
    | split

theorem execSorterIssue_keeps {s0 s : State} (ch : ChanId) (h : Keeps s0 s) : NextKeeps s0 (execSorterIssue ch s) := by
  unfold execSorterIssue
  repeat' with_reducible first
    | assumption
    | apply NextKeeps.next
    | apply done_keeps
    | apply State.readCheck_keeps
    | apply State.modChan_keeps
    | apply State.pullAll_keeps
    | split

theorem State.poison_keeps {s0 s : State} (src : ReqSource) (h : Keeps s0 s) : Keeps s0 (State.poison s src) := by
  unfold State.poison
  repeat' with_reducible first
    | assumption
    | apply State.failRun_keeps
    | split

theorem State.movePending_keeps {s0 s : State} (old : Nat) (page : Nat) (h : Keeps s0 s) : Keeps s0 (State.movePending s old page) := by
  unfold State.movePending
  repeat' with_reducible first
    | assumption
    | (intro (x : State); apply Keeps.cut (s0 := s0) (x := x); rotate_left; intro hx; clear_value x; rotate_left; subst x)
    | apply State.modChan_keeps
    | apply State.enqueue_keeps
    | (apply Keeps.foldl; rotate_left; intro t x ht; rotate_left)

theorem execMigrationUpdate_keeps {s0 s : State} (page : Nat) (h : Keeps s0 s) : NextKeeps s0 (execMigrationUpdate page s) := by
  unfold execMigrationUpdate
  repeat' with_reducible first
    | assumption
    | apply NextKeeps.next
    | apply done_keeps
    | apply State.setEntry_keeps
    | apply State.movePending_keeps
    | apply State.retireSlot_keeps
    | apply State.count_keeps
    | simp only [↓Keeps.updMem]
    | split

theorem State.retrain_keeps {s0 s : State} (ch : Nat) (h : Keeps s0 s) : Keeps s0 (State.retrain s ch) := by
  unfold State.retrain
  repeat' with_reducible first
    | assumption
    | (intro (x : State); apply Keeps.cut (s0 := s0) (x := x); rotate_left; intro hx; clear_value x; rotate_left; subst x)
    | apply State.count_keeps
    | apply State.modChan_keeps
    | apply State.retireChannel_keeps
    | simp only [↓Keeps.updTrust]
    | split

theorem execChClear_keeps {s0 s : State} (ch : ChanId) (w : CmdW) (h : Keeps s0 s) : NextKeeps s0 (execChClear ch w s) := by
  unfold execChClear
  repeat' with_reducible first
    | assumption
    | apply done_keeps
    | apply State.hostWrite_keeps
    | apply clearRule_keeps

theorem State.issueNow_keeps {s0 s : State} (n : Nat) (cyc : Nat) (h : Keeps s0 s) : Keeps s0 (State.issueNow s n cyc) := by
  unfold State.issueNow
  repeat' with_reducible first
    | assumption
    | apply State.modSlice_keeps

theorem brkRule_keeps {s0 : State} (n : Nat) (v : Nat) : RuleKeeps s0 (brkRule n v) := by
  unfold brkRule
  repeat' with_reducible first
    | assumption
    | (apply RuleKeeps.intro; intro s a hs; dsimp only)
    | apply State.modSeq_keeps

theorem execBrkResume_keeps {s0 s : State} (sl : SliceId) (w : CmdW) (h : Keeps s0 s) : NextKeeps s0 (execBrkResume sl w s) := by
  unfold execBrkResume
  repeat' with_reducible first
    | assumption
    | apply done_keeps
    | apply State.hostWrite_keeps
    | apply brkRule_keeps

theorem State.modRegs_keeps {s0 s : State} (n : Nat) (f : SeqRegs → SeqRegs) (h : Keeps s0 s) : Keeps s0 (State.modRegs s n f) := by
  unfold State.modRegs
  repeat' with_reducible first
    | assumption
    | apply State.modSeq_keeps

theorem State.holdSeq_keeps {s0 s : State} (n : Nat) (cause : Nat) (h : Keeps s0 s) : Keeps s0 (State.holdSeq s n cause) := by
  unfold State.holdSeq
  repeat' with_reducible first
    | assumption
    | (intro (x : State); apply Keeps.cut (s0 := s0) (x := x); rotate_left; intro hx; clear_value x; rotate_left; subst x)
    | apply State.modSeq_keeps
    | apply State.buildGraph_keeps
    | simp only [↓Keeps.updTrust]
    | split

theorem State.issueEmpty_keeps {s0 s : State} (n cyc k : Nat) (h : Keeps s0 s) : Keeps s0 (State.issueEmpty n cyc k s) := by
  induction k generalizing s with
  | zero => exact h
  | succ k ih =>
    simp only [State.issueEmpty]
    repeat' with_reducible first
      | assumption
      | apply ih
      | apply State.issueNow_keeps
      | apply State.holdSeq_keeps
      | split

theorem State.passEmpty_keeps {s0 s : State} (n : Nat) (cyc : Nat) (h : Keeps s0 s) : Keeps s0 (State.passEmpty s n cyc) := by
  unfold State.passEmpty
  repeat' with_reducible first
    | assumption
    | apply State.issueEmpty_keeps

theorem State.tryIssue_keeps {s0 s : State} (n : Nat) (i : Issue) (h : Keeps s0 s) : Keeps s0 (State.tryIssue s n i).2 := by
  unfold State.tryIssue
  repeat' with_reducible first
    | assumption
    | (intro (x : State); apply Keeps.cut (s0 := s0) (x := x); rotate_left; intro hx; clear_value x; rotate_left; subst x)
    | apply State.passEmpty_keeps
    | apply State.feedTo_keeps
    | apply State.issueNow_keeps
    | apply State.holdSeq_keeps
    | simp only [↓Keeps.updTrust]
    | split
theorem State.tryIssue_keeps_of {s0 s t : State} {n : Nat} {i : Issue} {v_ : _} (e : State.tryIssue s n i = (v_, t)) (h : Keeps s0 s) : Keeps s0 t := by
  have k := State.tryIssue_keeps (s0 := s0) (n := n) (i := i) h
  rw [e] at k
  exact k

theorem State.slot_keeps {s0 s : State} (n : Nat) (b : Option Issue) (k : Nat) (w : DWord) (h : Keeps s0 s) : Keeps s0 (State.slot s n b k w).2 := by
  unfold State.slot
  repeat' with_reducible first
    | assumption
    | apply State.tryIssue_keeps
    | refine State.tryIssue_keeps_of (by assumption) ?_
    | apply State.modSeq_keeps
    | simp only [↓Keeps.updTrust]
    | split
theorem State.slot_keeps_of {s0 s t : State} {n : Nat} {b : Option Issue} {k : Nat} {w : DWord} {v_ : _} (e : State.slot s n b k w = (v_, t)) (h : Keeps s0 s) : Keeps s0 t := by
  have k := State.slot_keeps (s0 := s0) (n := n) (b := b) (k := k) (w := w) h
  rw [e] at k
  exact k

theorem State.scl_keeps {s0 s : State} (n : Nat) (b : Option Issue) (w : DWord) (op : Nat) (f : State → State)
    (hf : ∀ s, Keeps s0 s → Keeps s0 (f s)) (h : Keeps s0 s) : Keeps s0 (s.scl n b w op f) := by
  unfold State.scl
  repeat' with_reducible first
    | assumption
    | apply hf
    | apply State.slot_keeps
    | refine State.slot_keeps_of (by assumption) ?_
    | split

theorem State.flush_keeps {s0 s : State} (m : Nat) (h : Keeps s0 s) : Keeps s0 (State.flush s m) := by
  unfold State.flush
  repeat' with_reducible first
    | assumption
    | apply State.modArr_keeps
    | simp only [↓Keeps.upd]
    | split

theorem State.nextProgram_keeps {s0 s : State} (n : Nat) (h : Keeps s0 s) : Keeps s0 (State.nextProgram s n) := by
  unfold State.nextProgram
  repeat' with_reducible first
    | assumption
    | apply State.modSlice_keeps
    | apply State.placeProgram_keeps
    | split

theorem State.nextStage_keeps {s0 s : State} (n : Nat) (h : Keeps s0 s) : Keeps s0 (State.nextStage s n) := by
  unfold State.nextStage
  repeat' with_reducible first
    | assumption
    | apply State.nextProgram_keeps
    | split

theorem execHalt_keeps {s0 s : State} (sl : SliceId) (b : Option Issue) (w : DWord) (h : Keeps s0 s) : NextKeeps s0 (execHalt sl b w s) := by
  unfold execHalt
  repeat' with_reducible first
    | assumption
    | apply NextKeeps.next
    | apply done_keeps
    | apply State.scl_keeps
    | apply State.flush_keeps
    | apply State.nextStage_keeps
    | apply State.modSeq_keeps
    | intro a

theorem State.drnSlot_keeps {s0 s : State} (n : Nat) (b : Option Issue) (w : DWord) (op : Nat) (h : Keeps s0 s) : Keeps s0 (State.drnSlot s n b w op) := by
  unfold State.drnSlot
  repeat' with_reducible first
    | assumption
    | apply State.slot_keeps
    | refine State.slot_keeps_of (by assumption) ?_
    | apply State.modArr_keeps
    | simp only [↓Keeps.updTrust]
    | split

theorem execDrnWriteOut_keeps {s0 s : State} (sl : SliceId) (b : Option Issue) (w : DWord) (h : Keeps s0 s) : NextKeeps s0 (execDrnWriteOut sl b w s) := by
  unfold execDrnWriteOut
  repeat' with_reducible first
    | assumption
    | apply NextKeeps.next
    | apply done_keeps
    | apply State.drnSlot_keeps

theorem State.issueDesc_keeps {s0 s : State} (n : Nat) (w : DWord) (out : Bool) (h : Keeps s0 s) : Keeps s0 (State.issueDesc s n w out) := by
  unfold State.issueDesc
  repeat' with_reducible first
    | assumption
    | apply State.transferFault_keeps
    | apply State.modStore_keeps
    | simp only [↓Keeps.updTrust]
    | split

theorem execDoutIssue_keeps {s0 s : State} (sl : SliceId) (b : Option Issue) (w : DWord) (h : Keeps s0 s) : NextKeeps s0 (execDoutIssue sl b w s) := by
  unfold execDoutIssue
  repeat' with_reducible first
    | assumption
    | apply State.slot_keeps
    | refine State.slot_keeps_of (by assumption) ?_
    | apply done_keeps
    | apply State.issueDesc_keeps
    | split

theorem State.faSlot_keeps {s0 s : State} (n : Nat) (b : Option Issue) (w : DWord) (mode : Nat) (h : Keeps s0 s) : Keeps s0 (State.faSlot s n b w mode) := by
  unfold State.faSlot
  repeat' with_reducible first
    | assumption
    | apply State.slot_keeps
    | refine State.slot_keeps_of (by assumption) ?_
    | apply State.modSeq_keeps
    | split

theorem execFaXfm_keeps {s0 s : State} (sl : SliceId) (b : Option Issue) (w : DWord) (h : Keeps s0 s) : NextKeeps s0 (execFaXfm sl b w s) := by
  unfold execFaXfm
  repeat' with_reducible first
    | assumption
    | apply NextKeeps.next
    | apply done_keeps
    | apply State.faSlot_keeps

theorem State.fbSlot_keeps {s0 s : State} (n : Nat) (b : Option Issue) (w : DWord) (group4 : Bool) (h : Keeps s0 s) : Keeps s0 (State.fbSlot s n b w group4) := by
  unfold State.fbSlot
  repeat' with_reducible first
    | assumption
    | apply State.slot_keeps
    | refine State.slot_keeps_of (by assumption) ?_
    | apply State.modArr_keeps
    | split

theorem execBreakpointMatch_keeps {s0 s : State} (sl : SliceId) (tag : BitVec 16) (h : Keeps s0 s) : NextKeeps s0 (execBreakpointMatch sl tag s) := by
  unfold execBreakpointMatch
  repeat' with_reducible first
    | assumption
    | (intro (x : State); apply Keeps.cut (s0 := s0) (x := x); rotate_left; intro hx; clear_value x; rotate_left; subst x)
    | apply State.passEmpty_keeps
    | apply done_keeps
    | apply State.modSeq_keeps
    | split

theorem execSclFlagSet_keeps {s0 s : State} (sl : SliceId) (b : Option Issue) (w : DWord) (h : Keeps s0 s) : NextKeeps s0 (execSclFlagSet sl b w s) := by
  unfold execSclFlagSet
  repeat' with_reducible first
    | assumption
    | apply done_keeps
    | apply State.scl_keeps
    | apply State.setFlag_keeps
    | intro a

theorem execDinIssue_keeps {s0 s : State} (sl : SliceId) (b : Option Issue) (w : DWord) (h : Keeps s0 s) : NextKeeps s0 (execDinIssue sl b w s) := by
  unfold execDinIssue
  repeat' with_reducible first
    | assumption
    | apply State.slot_keeps
    | refine State.slot_keeps_of (by assumption) ?_
    | apply done_keeps
    | apply State.issueDesc_keeps
    | split

theorem State.xfmSlot_keeps {s0 s : State} (n : Nat) (b : Option Issue) (w : DWord) (inv : Bool) (op : Nat) (bad : Bool) (ecc : List TsEcc) (h : Keeps s0 s) : Keeps s0 (State.xfmSlot s n b w inv op bad ecc) := by
  unfold State.xfmSlot
  repeat' with_reducible first
    | assumption
    | apply State.slot_keeps
    | refine State.slot_keeps_of (by assumption) ?_
    | apply State.startXfm_keeps
    | apply State.modArr_keeps
    | split

theorem execInverse_keeps {s0 s : State} (sl : SliceId) (b : Option Issue) (w : DWord) (f : XfmFaults) (h : Keeps s0 s) : NextKeeps s0 (execInverse sl b w f s) := by
  unfold execInverse
  repeat' with_reducible first
    | assumption
    | apply done_keeps
    | apply State.xfmSlot_keeps

theorem execDrnWrite_keeps {s0 s : State} (sl : SliceId) (b : Option Issue) (w : DWord) (h : Keeps s0 s) : NextKeeps s0 (execDrnWrite sl b w s) := by
  unfold execDrnWrite
  repeat' with_reducible first
    | assumption
    | apply NextKeeps.next
    | apply done_keeps
    | apply State.drnSlot_keeps

theorem State.arrSlot_keeps {s0 s : State} (n : Nat) (b : Option Issue) (w : DWord) (cont : Bool) (h : Keeps s0 s) : Keeps s0 (State.arrSlot s n b w cont) := by
  unfold State.arrSlot
  repeat' with_reducible first
    | assumption
    | apply State.slot_keeps
    | refine State.slot_keeps_of (by assumption) ?_
    | apply State.modSeq_keeps
    | split

theorem execLayer_keeps {s0 s : State} (sl : SliceId) (b : Option Issue) (w : DWord) (h : Keeps s0 s) : NextKeeps s0 (execLayer sl b w s) := by
  unfold execLayer
  repeat' with_reducible first
    | assumption
    | apply NextKeeps.next
    | apply done_keeps
    | apply State.scl_keeps
    | apply State.flush_keeps
    | apply State.modRegs_keeps
    | split
    | intro a

theorem execBreakpointStop_keeps {s0 s : State} (sl : SliceId) (h : Keeps s0 s) : NextKeeps s0 (execBreakpointStop sl s) := by
  unfold execBreakpointStop
  repeat' with_reducible first
    | assumption
    | apply NextKeeps.next
    | apply done_keeps
    | apply State.count_keeps
    | apply State.modSeq_keeps
    | split

theorem execArrClear_keeps {s0 s : State} (sl : SliceId) (w : CmdW) (h : Keeps s0 s) : NextKeeps s0 (execArrClear sl w s) := by
  unfold execArrClear
  repeat' with_reducible first
    | assumption
    | apply done_keeps
    | apply State.hostWrite_keeps
    | apply clearRule_keeps

theorem execArrCont_keeps {s0 s : State} (sl : SliceId) (b : Option Issue) (w : DWord) (h : Keeps s0 s) : NextKeeps s0 (execArrCont sl b w s) := by
  unfold execArrCont
  repeat' with_reducible first
    | assumption
    | apply NextKeeps.next
    | apply done_keeps
    | apply State.arrSlot_keeps

theorem State.branchTo_keeps {s0 s : State} (n : Nat) (w : DWord) (h : Keeps s0 s) : Keeps s0 (State.branchTo s n w) := by
  unfold State.branchTo
  repeat' with_reducible first
    | assumption
    | apply State.modSeq_keeps

theorem execLoop_keeps {s0 s : State} (sl : SliceId) (b : Option Issue) (w : DWord) (h : Keeps s0 s) : NextKeeps s0 (execLoop sl b w s) := by
  unfold execLoop
  repeat' with_reducible first
    | assumption
    | apply NextKeeps.next
    | apply done_keeps
    | apply State.scl_keeps
    | apply State.modRegs_keeps
    | apply State.branchTo_keeps
    | simp only [↓Keeps.updTrust]
    | split
    | intro a

theorem execFaVec_keeps {s0 s : State} (sl : SliceId) (b : Option Issue) (w : DWord) (h : Keeps s0 s) : NextKeeps s0 (execFaVec sl b w s) := by
  unfold execFaVec
  repeat' with_reducible first
    | assumption
    | apply NextKeeps.next
    | apply done_keeps
    | apply State.faSlot_keeps

theorem execBr_keeps {s0 s : State} (sl : SliceId) (b : Option Issue) (w : DWord) (h : Keeps s0 s) : NextKeeps s0 (execBr sl b w s) := by
  unfold execBr
  repeat' with_reducible first
    | assumption
    | apply NextKeeps.next
    | apply done_keeps
    | apply State.scl_keeps
    | apply State.branchTo_keeps
    | split
    | intro a

theorem execSclFlagWait_keeps {s0 s : State} (sl : SliceId) (b : Option Issue) (w : DWord) (h : Keeps s0 s) : NextKeeps s0 (execSclFlagWait sl b w s) := by
  unfold execSclFlagWait
  repeat' with_reducible first
    | assumption
    | apply NextKeeps.next
    | apply done_keeps
    | apply State.scl_keeps
    | intro a

theorem execBrn_keeps {s0 s : State} (sl : SliceId) (b : Option Issue) (w : DWord) (h : Keeps s0 s) : NextKeeps s0 (execBrn sl b w s) := by
  unfold execBrn
  repeat' with_reducible first
    | assumption
    | apply NextKeeps.next
    | apply done_keeps
    | apply State.scl_keeps
    | apply State.branchTo_keeps
    | split
    | intro a

theorem execFaWin_keeps {s0 s : State} (sl : SliceId) (b : Option Issue) (w : DWord) (h : Keeps s0 s) : NextKeeps s0 (execFaWin sl b w s) := by
  unfold execFaWin
  repeat' with_reducible first
    | assumption
    | apply NextKeeps.next
    | apply done_keeps
    | apply State.faSlot_keeps

theorem execSclFlagClr_keeps {s0 s : State} (sl : SliceId) (b : Option Issue) (w : DWord) (setToo : Bool) (h : Keeps s0 s) : NextKeeps s0 (execSclFlagClr sl b w setToo s) := by
  unfold execSclFlagClr
  repeat' with_reducible first
    | assumption
    | apply done_keeps
    | apply State.scl_keeps
    | apply State.clearFlag_keeps
    | intro a

theorem execFbGroup4_keeps {s0 s : State} (sl : SliceId) (b : Option Issue) (w : DWord) (h : Keeps s0 s) : NextKeeps s0 (execFbGroup4 sl b w s) := by
  unfold execFbGroup4
  repeat' with_reducible first
    | assumption
    | apply NextKeeps.next
    | apply done_keeps
    | apply State.fbSlot_keeps

theorem execTransform_keeps {s0 s : State} (sl : SliceId) (b : Option Issue) (w : DWord) (f : XfmFaults) (h : Keeps s0 s) : NextKeeps s0 (execTransform sl b w f s) := by
  unfold execTransform
  repeat' with_reducible first
    | assumption
    | apply done_keeps
    | apply State.xfmSlot_keeps

theorem execArrTile_keeps {s0 s : State} (sl : SliceId) (b : Option Issue) (w : DWord) (h : Keeps s0 s) : NextKeeps s0 (execArrTile sl b w s) := by
  unfold execArrTile
  repeat' with_reducible first
    | assumption
    | apply NextKeeps.next
    | apply done_keeps
    | apply State.arrSlot_keeps

theorem execIssue_keeps {s0 s : State} (sl : SliceId) (b : Option Issue) (w : DWord) (f : XfmFaults) (h : Keeps s0 s) : NextKeeps s0 (execIssue sl b w f s) := by
  unfold execIssue
  repeat' with_reducible first
    | assumption
    | apply done_keeps
    | apply State.xfmSlot_keeps

theorem execDrnAdd_keeps {s0 s : State} (sl : SliceId) (b : Option Issue) (w : DWord) (h : Keeps s0 s) : NextKeeps s0 (execDrnAdd sl b w s) := by
  unfold execDrnAdd
  repeat' with_reducible first
    | assumption
    | apply NextKeeps.next
    | apply done_keeps
    | apply State.drnSlot_keeps

theorem execFbDense_keeps {s0 s : State} (sl : SliceId) (b : Option Issue) (w : DWord) (h : Keeps s0 s) : NextKeeps s0 (execFbDense sl b w s) := by
  unfold execFbDense
  repeat' with_reducible first
    | assumption
    | apply NextKeeps.next
    | apply done_keeps
    | apply State.fbSlot_keeps

theorem execArrClearSlot_keeps {s0 s : State} (sl : SliceId) (b : Option Issue) (w : DWord) (h : Keeps s0 s) : NextKeeps s0 (execArrClearSlot sl b w s) := by
  unfold execArrClearSlot
  repeat' with_reducible first
    | assumption
    | apply NextKeeps.next
    | apply done_keeps
    | apply State.slot_keeps
    | refine State.slot_keeps_of (by assumption) ?_
    | apply State.modArr_keeps
    | split

theorem execAbAdd_keeps {s0 s : State} (sl : SliceId) (b : Option Issue) (w : DWord) (h : Keeps s0 s) : NextKeeps s0 (execAbAdd sl b w s) := by
  unfold execAbAdd
  repeat' with_reducible first
    | assumption
    | apply NextKeeps.next
    | apply done_keeps
    | apply State.scl_keeps
    | apply State.modRegs_keeps
    | intro a

theorem execAbSet_keeps {s0 s : State} (sl : SliceId) (b : Option Issue) (w : DWord) (h : Keeps s0 s) : NextKeeps s0 (execAbSet sl b w s) := by
  unfold execAbSet
  repeat' with_reducible first
    | assumption
    | apply NextKeeps.next
    | apply done_keeps
    | apply State.scl_keeps
    | apply State.modRegs_keeps
    | intro a

theorem execLcSet_keeps {s0 s : State} (sl : SliceId) (b : Option Issue) (w : DWord) (h : Keeps s0 s) : NextKeeps s0 (execLcSet sl b w s) := by
  unfold execLcSet
  repeat' with_reducible first
    | assumption
    | apply NextKeeps.next
    | apply done_keeps
    | apply State.scl_keeps
    | apply State.modRegs_keeps
    | intro a

theorem execLcAdd_keeps {s0 s : State} (sl : SliceId) (b : Option Issue) (w : DWord) (h : Keeps s0 s) : NextKeeps s0 (execLcAdd sl b w s) := by
  unfold execLcAdd
  repeat' with_reducible first
    | assumption
    | apply NextKeeps.next
    | apply done_keeps
    | apply State.scl_keeps
    | apply State.modRegs_keeps
    | intro a

theorem execDrnAddOut_keeps {s0 s : State} (sl : SliceId) (b : Option Issue) (w : DWord) (h : Keeps s0 s) : NextKeeps s0 (execDrnAddOut sl b w s) := by
  unfold execDrnAddOut
  repeat' with_reducible first
    | assumption
    | apply NextKeeps.next
    | apply done_keeps
    | apply State.drnSlot_keeps

theorem execBrkSingleStep_keeps {s0 s : State} (sl : SliceId) (w : CmdW) (h : Keeps s0 s) : NextKeeps s0 (execBrkSingleStep sl w s) := by
  unfold execBrkSingleStep
  repeat' with_reducible first
    | assumption
    | apply done_keeps
    | apply State.hostWrite_keeps
    | apply brkRule_keeps

theorem execCmp_keeps {s0 s : State} (sl : SliceId) (b : Option Issue) (w : DWord) (h : Keeps s0 s) : NextKeeps s0 (execCmp sl b w s) := by
  unfold execCmp
  repeat' with_reducible first
    | assumption
    | apply NextKeeps.next
    | apply done_keeps
    | apply State.scl_keeps
    | apply State.modRegs_keeps
    | intro a

theorem State.boxWrite_keeps {s0 s : State} (n : Nat) (b : Bytes) (i : Nat) (h : Keeps s0 s) : Keeps s0 (State.boxWrite s n b i) := by
  unfold State.boxWrite
  repeat' with_reducible first
    | assumption
    | apply State.count_keeps
    | apply State.modSlice_keeps
    | (apply Keeps.foldl; rotate_left; intro t x ht; rotate_left)
    | split

theorem State.dmaFill_keeps {s0 s : State} (n : Nat) (d : Desc) (t : TagEntry) (h : Keeps s0 s) : Keeps s0 (State.dmaFill s n d t) := by
  unfold State.dmaFill
  repeat' with_reducible first
    | assumption
    | apply State.boxWrite_keeps
    | apply State.count_keeps
    | apply State.modSlice_keeps
    | simp only [↓Keeps.updTrust]
    | split

theorem State.dmaRead_keeps {s0 s : State} (n : Nat) (o : Option (Option Alloc × Desc)) (t : TagEntry) (good : Bool) (h : Keeps s0 s) : Keeps s0 (State.dmaRead s n o t good) := by
  unfold State.dmaRead
  repeat' with_reducible first
    | assumption
    | apply State.modSlice_keeps
    | apply State.dmaFill_keeps
    | apply State.failRun_keeps
    | split

theorem State.dmaWritten_keeps {s0 s : State} (n : Nat) (t : TagEntry) (good : Bool) (h : Keeps s0 s) : Keeps s0 (State.dmaWritten s n t good) := by
  unfold State.dmaWritten
  repeat' with_reducible first
    | assumption
    | apply State.failRun_keeps
    | apply State.count_keeps
    | apply State.writeBytes_keeps
    | split

theorem execTileStoreAccess_keeps {s0 s : State} (sl : SliceId) (a : TsAccess) (h : Keeps s0 s) : NextKeeps s0 (execTileStoreAccess sl a s) := by
  unfold execTileStoreAccess
  repeat' with_reducible first
    | assumption
    | apply NextKeeps.next
    | apply done_keeps
    | apply State.engineFault_keeps
    | apply State.portAccess_keeps
    | simp only [↓Keeps.updTrust]
    | split

theorem execProgramFetch_keeps {s0 s : State} (f : RowFetch) (h : Keeps s0 s) : NextKeeps s0 (execProgramFetch f s) := by
  unfold execProgramFetch
  repeat' with_reducible first
    | assumption
    | (intro (x : State); apply Keeps.cut (s0 := s0) (x := x); rotate_left; intro hx; clear_value x; rotate_left; subst x)
    | apply State.portsTo_keeps
    | apply done_keeps
    | apply State.modSeq_keeps
    | apply State.modStore_keeps
    | simp only [↓Keeps.updTrust]
    | split

theorem State.modDesc_keeps {s0 s : State} (n : Nat) (uid : Nat) (f : Desc → Desc) (h : Keeps s0 s) : Keeps s0 (State.modDesc s n uid f) := by
  unfold State.modDesc
  repeat' with_reducible first
    | assumption
    | apply State.modStore_keeps

theorem State.boxZero_keeps {s0 s : State} (n : Nat) (b : Bytes) (h : Keeps s0 s) : Keeps s0 (State.boxZero s n b) := by
  unfold State.boxZero
  repeat' with_reducible first
    | assumption
    | apply State.count_keeps
    | apply State.modSlice_keeps
    | (apply Keeps.foldl; rotate_left; intro t x ht; rotate_left)
    | split

theorem execDescriptorStart_keeps {s0 s : State} (sl : SliceId) (out : Bool) (h : Keeps s0 s) : NextKeeps s0 (execDescriptorStart sl out s) := by
  unfold execDescriptorStart
  repeat' with_reducible first
    | assumption
    | apply NextKeeps.next
    | apply State.count_keeps
    | apply State.modDesc_keeps
    | apply done_keeps
    | apply State.transferFault_keeps
    | apply State.boxZero_keeps
    | simp only [↓Keeps.updTrust]
    | split

theorem execDmaRequestSend_keeps {s0 s : State} (sl : SliceId) (m : DmaSend) (h : Keeps s0 s) : NextKeeps s0 (execDmaRequestSend sl m s) := by
  unfold execDmaRequestSend
  repeat' with_reducible first
    | assumption
    | apply NextKeeps.next
    | apply State.count_keeps
    | apply done_keeps
    | apply State.loseSliceWork_keeps
    | apply State.send_keeps
    | apply State.modDesc_keeps
    | apply State.eccReads_keeps
    | simp only [↓Keeps.updTrust]
    | split

theorem State.freeTag_keeps {s0 s : State} (n : Nat) (t : TagEntry) (h : Keeps s0 s) : Keeps s0 (State.freeTag s n t) := by
  unfold State.freeTag
  repeat' with_reducible first
    | assumption
    | apply State.retireReq_keeps
    | apply State.modStore_keeps

theorem State.dmaDone_keeps {s0 s : State} (n : Nat) (t : TagEntry) (good : Bool) (h : Keeps s0 s) : Keeps s0 (State.dmaDone s n t good) := by
  unfold State.dmaDone
  repeat' with_reducible first
    | assumption
    | (intro (x : State); apply Keeps.cut (s0 := s0) (x := x); rotate_left; intro hx; clear_value x; rotate_left; subst x)
    | apply State.freeTag_keeps
    | apply State.dmaWritten_keeps
    | apply State.dmaRead_keeps
    | split

theorem execDmaRequestDone_keeps {s0 s : State} (sl : SliceId) (tag : Nat) (ecc : MemErr) (h : Keeps s0 s) : NextKeeps s0 (execDmaRequestDone sl tag ecc s) := by
  unfold execDmaRequestDone
  repeat' with_reducible first
    | assumption
    | apply NextKeeps.next
    | apply State.access_keeps
    | refine State.access_keeps_of (by assumption) ?_
    | apply done_keeps
    | apply State.dmaDone_keeps
    | split

theorem execTagExpiry_keeps {s0 s : State} (sl : SliceId) (tag : Nat) (h : Keeps s0 s) : NextKeeps s0 (execTagExpiry sl tag s) := by
  unfold execTagExpiry
  repeat' with_reducible first
    | assumption
    | apply NextKeeps.next
    | apply done_keeps
    | apply State.tagFault_keeps
    | apply State.freeTag_keeps
    | apply State.advanceTo_keeps
    | split

theorem execTsClear_keeps {s0 s : State} (sl : SliceId) (w : CmdW) (h : Keeps s0 s) : NextKeeps s0 (execTsClear sl w s) := by
  unfold execTsClear
  repeat' with_reducible first
    | assumption
    | apply done_keeps
    | apply State.hostWrite_keeps
    | apply clearRule_keeps

theorem State.modTask_keeps {s0 s : State} (key : Nat) (f : Task → Task) (h : Keeps s0 s) : Keeps s0 (State.modTask s key f) := by
  unfold State.modTask
  repeat' with_reducible first
    | assumption
    | simp only [↓Keeps.upd]
    | split

theorem State.flushTask_keeps {s0 s : State} (key : Nat) (t : Task) (h : Keeps s0 s) : Keeps s0 (State.flushTask s key t) := by
  unfold State.flushTask
  repeat' with_reducible first
    | assumption
    | simp only [↓Keeps.upd]
    | split

theorem State.endTask_keeps {s0 s : State} (key : Nat) (t : Task) (e : TaskEnd) (judged : Bool) (h : Keeps s0 s) : Keeps s0 (State.endTask s key t e judged) := by
  unfold State.endTask
  repeat' with_reducible first
    | assumption
    | (intro (x : State); apply Keeps.cut (s0 := s0) (x := x); rotate_left; intro hx; clear_value x; rotate_left; subst x)
    | apply State.modHart_keeps
    | apply State.modTask_keeps
    | apply State.flushTask_keeps
    | (apply Keeps.foldl; rotate_left; intro t x ht; rotate_left)

theorem State.unstopped_keeps {s0 s : State} (n : Nat) (c : Cut) (h : Keeps s0 s) : Keeps s0 (State.unstopped s n c) := by
  unfold State.unstopped
  repeat' with_reducible first
    | assumption
    | apply State.modSlice_keeps
    | simp only [↓Keeps.upd]

theorem State.sameCycle_keeps {s0 s : State} (k : Nat) (cyc : Cycles) (f : State → State) (h : Keeps s0 s) :
    Keeps s0 (s.sameCycle k cyc f) := by
  unfold State.sameCycle
  extract_lets n
  split
  · exact h
  · extract_lets u t r v
    have hv : Keeps s0 v :=
      State.postFault_keeps _ _ _ _ (State.count_keeps _ _ _ (State.count_keeps _ _ _ (State.setBlob_keeps _ _ _ h)))
    split
    · exact h
    · split
      · exact h
      · exact Keeps.foldl hv (fun _ _ k => State.modItem_keeps _ _ _ k)

theorem State.modCDesc_keeps {s0 s : State} (ck : Nat) (uid : Nat) (f : Desc → Desc) (h : Keeps s0 s) : Keeps s0 (State.modCDesc s ck uid f) := by
  unfold State.modCDesc
  repeat' with_reducible first
    | assumption
    | apply State.modCluster_keeps

theorem State.sendCluster_keeps {s0 s : State} (ck : Nat) (h : Keeps s0 s) : Keeps s0 (State.sendCluster s ck) := by
  unfold State.sendCluster
  repeat' with_reducible first
    | assumption
    | apply State.loseSliceWork_keeps
    | apply State.send_keeps
    | apply State.modCDesc_keeps
    | simp only [↓Keeps.updTrust]
    | split

theorem State.sliverCheck_keeps {s0 s : State} (n : Nat) (kind : Nat) (rec' : Bytes) (h : Keeps s0 s) : Keeps s0 (State.sliverCheck s n kind rec') := by
  unfold State.sliverCheck
  repeat' with_reducible first
    | assumption
    | apply State.failRun_keeps
    | apply State.postFault_keeps

theorem State.noteStopped_keeps {s0 s : State} (old : State) (n cycle : Nat) (h : Keeps s0 s) :
    Keeps s0 (s.noteStopped old n cycle) := by
  unfold State.noteStopped
  split
  · exact h
  · exact State.modSlice_keeps _ _ h

theorem State.sliverFault_keeps {s0 s : State} (f : SlvFault) (h : Keeps s0 s) : Keeps s0 (State.sliverFault s f) := by
  unfold State.sliverFault
  repeat' with_reducible first
    | assumption
    | (intro (x : State); apply Keeps.cut (s0 := s0) (x := x); rotate_left; intro hx; clear_value x; rotate_left; subst x)
    | apply State.count_keeps
    | apply State.setBlob_keeps
    | apply State.passOn_keeps
    | apply State.modHart_keeps
    | apply State.postFault_keeps
    | apply State.endTask_keeps
    | apply State.sliverCheck_keeps
    | apply State.noteStopped_keeps
    | apply State.endJobFault_keeps
    | simp only [↓Keeps.updTrust]
    | split

theorem State.startCluster_keeps {s0 s : State} (ck : Nat) (out : Bool) (h : Keeps s0 s) : Keeps s0 (State.startCluster s ck out) := by
  unfold State.startCluster
  repeat' with_reducible first
    | assumption
    | apply State.count_keeps
    | apply State.modCDesc_keeps
    | apply State.modCluster_keeps
    | apply State.sliverFault_keeps
    | simp only [↓Keeps.updTrust]
    | split

theorem State.wakeDma_keeps {s0 s : State} (ck : Nat) (h : Keeps s0 s) : Keeps s0 (State.wakeDma s ck) := by
  unfold State.wakeDma
  repeat' with_reducible first
    | assumption
    | apply State.wakeHart_keeps
    | (apply Keeps.foldl; rotate_left; intro t x ht; rotate_left)
    | simp only [↓Keeps.updTrust]
    | split

theorem State.completeCluster_keeps {s0 s : State} (ck : Nat) (out : Bool) (h : Keeps s0 s) : Keeps s0 (State.completeCluster s ck out) := by
  unfold State.completeCluster
  repeat' with_reducible first
    | assumption
    | apply State.modCluster_keeps
    | apply State.wakeDma_keeps
    | apply State.setFlag_keeps
    | simp only [↓Keeps.updTrust]
    | split

theorem State.pumpCluster_keeps {s0 s : State} (c n : Nat) (h : Keeps s0 s) : Keeps s0 (State.pumpCluster c n s) := by
  induction n generalizing s with
  | zero => exact h
  | succ n ih =>
    exact ih (State.sendCluster_keeps _ (State.startCluster_keeps _ _ (State.startCluster_keeps _ _
      (State.completeCluster_keeps _ _ (State.completeCluster_keeps _ _ h)))))

theorem State.faultAt_keeps {s0 s : State} (k : Nat) (cause : Nat) (detail : Nat) (h : Keeps s0 s) : Keeps s0 (State.faultAt s k cause detail) := by
  unfold State.faultAt
  repeat' with_reducible first
    | assumption
    | apply State.sliverFault_keeps

theorem State.leaveCore_keeps {s0 s : State} (k : Nat) (w : ThreadWait) (h : Keeps s0 s) : Keeps s0 (State.leaveCore s k w) := by
  unfold State.leaveCore
  repeat' with_reducible first
    | assumption
    | apply State.passOn_keeps
    | apply State.modHart_keeps

theorem State.budgetFault_keeps {s0 s : State} (k : Nat) (budget : Nat) (h : Keeps s0 s) : Keeps s0 (State.budgetFault s k budget) := by
  unfold State.budgetFault
  repeat' with_reducible first
    | assumption
    | apply State.faultAt_keeps

theorem State.charge_keeps {s0 s : State} (k : Nat) (cyc : Cycles) (h : Keeps s0 s) : Keeps s0 (State.charge s k cyc).2 := by
  unfold State.charge
  repeat' with_reducible first
    | assumption
    | (intro (x : State); apply Keeps.cut (s0 := s0) (x := x); rotate_left; intro hx; clear_value x; rotate_left; subst x)
    | apply State.modHart_keeps
    | apply State.modTask_keeps
    | apply State.budgetFault_keeps
    | simp only [↓Keeps.updTrust]
    | split
theorem State.charge_keeps_of {s0 s t : State} {k : Nat} {cyc : Cycles} {v_ : _} (e : State.charge s k cyc = (v_, t)) (h : Keeps s0 s) : Keeps s0 t := by
  have k := State.charge_keeps (s0 := s0) (k := k) (cyc := cyc) h
  rw [e] at k
  exact k

theorem State.thread_keeps {s0 s : State} (k : Nat) (cyc : Cycles) (f : State → State) (hf : ∀ s, Keeps s0 s → Keeps s0 (f s))
    (h : Keeps s0 s) : Keeps s0 (s.thread k cyc f) := by
  unfold State.thread
  repeat' with_reducible first
    | assumption
    | apply hf
    | apply State.sameCycle_keeps
    | apply State.charge_keeps
    | refine State.charge_keeps_of (by assumption) ?_
    | split

theorem State.retire_keeps {s0 s : State} (k : Nat) (n : Nat) (h : Keeps s0 s) : Keeps s0 (State.retire s k n) := by
  unfold State.retire
  repeat' with_reducible first
    | assumption
    | apply State.modHart_keeps

theorem State.lsPut_keeps {s0 s : State} (k : Nat) (a : Nat) (b : Bytes) (h : Keeps s0 s) : Keeps s0 (State.lsPut s k a b) := by
  unfold State.lsPut
  repeat' with_reducible first
    | assumption
    | apply State.modCluster_keeps

theorem State.runCluster_keeps {s0 s : State} (ck : Nat) (h : Keeps s0 s) : Keeps s0 (State.runCluster s ck) := by
  unfold State.runCluster
  repeat' with_reducible first
    | assumption
    | apply State.pumpCluster_keeps

theorem State.runClusters_keeps {s0 s : State} (n : Nat) (h : Keeps s0 s) : Keeps s0 (State.runClusters s n) := by
  unfold State.runClusters
  repeat' with_reducible first
    | assumption
    | apply State.runCluster_keeps
    | (apply Keeps.foldl; rotate_left; intro t x ht; rotate_left)

theorem State.devStore_keeps {s0 s : State} (k : Nat) (a : Nat) (b : Bytes) (h : Keeps s0 s) : Keeps s0 (State.devStore s k a b) := by
  unfold State.devStore
  repeat' with_reducible first
    | assumption
    | apply State.modCluster_keeps
    | apply State.writeBytes_keeps

theorem State.windowFault_keeps {s0 s : State} (k : Nat) (addr : Nat) (h : Keeps s0 s) : Keeps s0 (State.windowFault s k addr) := by
  unfold State.windowFault
  repeat' with_reducible first
    | assumption
    | apply State.faultAt_keeps
    | apply State.transferRec_keeps
    | refine State.transferRec_keeps_of (by assumption) ?_

theorem State.csrOp_keeps {s0 s : State} (k : Nat) (cyc : Cycles) (w : Word) (h : Keeps s0 s) : Keeps s0 (State.csrOp s k cyc w) := by
  unfold State.csrOp
  repeat' with_reducible first
    | assumption
    | apply State.faultAt_keeps
    | apply State.retire_keeps
    | apply State.modHart_keeps
    | simp only [↓Keeps.updTrust]
    | split

-- MANUAL Tv.s S

theorem State.residueFail_keeps {s0 s : State} (n : Nat) (v : DrainVec) (outs : List DOut) (h : Keeps s0 s) : Keeps s0 (State.residueFail s n v outs) := by
  unfold State.residueFail
  repeat' with_reducible first
    | assumption
    | apply State.failTile_keeps
    | apply State.count_keeps
    | simp only [↓Keeps.updTrust]
    | split

theorem State.drainBin_keeps {s0 s : State} (n : Nat) (v : DrainVec) (h : Keeps s0 s) : Keeps s0 (State.drainBin s n v) := by
  unfold State.drainBin
  repeat' with_reducible first
    | assumption
    | (intro (x : State); apply Keeps.cut (s0 := s0) (x := x); rotate_left; intro hx; clear_value x; rotate_left; subst x)
    | apply State.residueFail_keeps
    | apply State.engineWrites_keeps
    | refine State.engineWrites_keeps_of (by assumption) ?_
    | simp only [↓Keeps.upd]
    | split

theorem State.readRes_keeps {s0 s : State} (n : Nat) (v : DrainVec) (p : Pos) (stages : List Nat) (outs : Nat) (h : Keeps s0 s) : Keeps s0 (State.readRes s n v p stages outs).2 := by
  unfold State.readRes
  repeat' with_reducible first
    | assumption
    | (intro (x : State); apply Keeps.cut (s0 := s0) (x := x); rotate_left; intro hx; clear_value x; rotate_left; subst x)
    | apply State.engineFault_keeps
    | apply State.eccReads_keeps
    | simp only [↓Keeps.updTrust]
    | split
theorem State.readRes_keeps_of {s0 s t : State} {n : Nat} {v : DrainVec} {p : Pos} {stages : List Nat} {outs : Nat} {v_ : _} (e : State.readRes s n v p stages outs = (v_, t)) (h : Keeps s0 s) : Keeps s0 t := by
  have k := State.readRes_keeps (s0 := s0) (n := n) (v := v) (p := p) (stages := stages) (outs := outs) h
  rw [e] at k
  exact k

theorem State.writeOut_keeps {s0 s : State} (n : Nat) (v : DrainVec) (p : Pos) (post : List Nat) (outs : List DOut) (h : Keeps s0 s) : Keeps s0 (State.writeOut s n v p post outs) := by
  unfold State.writeOut
  repeat' with_reducible first
    | assumption
    | apply State.readRes_keeps
    | refine State.readRes_keeps_of (by assumption) ?_
    | apply State.modArr_keeps
    | apply State.residueFail_keeps
    | apply State.engineWrites_keeps
    | refine State.engineWrites_keeps_of (by assumption) ?_
    | simp only [↓Keeps.upd]
    | split

theorem State.pool_keeps {s0 s : State} (n : Nat) (v : DrainVec) (post : List Nat) (outs : List DOut) (h : Keeps s0 s) : Keeps s0 (State.pool s n v post outs) := by
  unfold State.pool
  repeat' with_reducible first
    | assumption
    | apply State.engineFault_keeps
    | apply State.setSlice_keeps
    | apply State.writeOut_keeps
    | apply State.residueFail_keeps
    | apply State.engineWrites_keeps
    | refine State.engineWrites_keeps_of (by assumption) ?_
    | apply State.modArr_keeps
    | simp only [↓Keeps.updTrust]
    | split

theorem State.drainVec_keeps {s0 s : State} (n : Nat) (v : DrainVec) (h : Keeps s0 s) : Keeps s0 (State.drainVec s n v) := by
  unfold State.drainVec
  repeat' with_reducible first
    | assumption
    | apply State.drainBin_keeps
    | apply State.writeOut_keeps
    | apply State.readRes_keeps
    | refine State.readRes_keeps_of (by assumption) ?_
    | apply State.modArr_keeps
    | apply State.pool_keeps
    | simp only [↓Keeps.upd]
    | split

theorem State.drainInvRow_keeps {s0 s : State} (n : Nat) (r : InvRow) (last : Bool) (ups : List DrainUpset) (ecc : List TsEcc) (h : Keeps s0 s) : Keeps s0 (State.drainInvRow s n r last ups ecc) := by
  unfold State.drainInvRow
  repeat' with_reducible first
    | assumption
    | apply State.drainVec_keeps

theorem execRowVerdict_keeps {s0 s : State} (sl : SliceId) (h : Keeps s0 s) : NextKeeps s0 (execRowVerdict sl s) := by
  unfold execRowVerdict
  repeat' with_reducible first
    | assumption
    | apply NextKeeps.next
    | apply State.count_keeps
    | apply State.modArr_keeps
    | apply done_keeps
    | apply State.failTile_keeps
    | split

theorem State.drainArrRow_keeps {s0 s : State} (n : Nat) (r : ArrRow) (ups : List DrainUpset) (ecc : List TsEcc) (h : Keeps s0 s) : Keeps s0 (State.drainArrRow s n r ups ecc) := by
  unfold State.drainArrRow
  repeat' with_reducible first
    | assumption
    | apply State.engineFault_keeps
    | apply State.setSlice_keeps
    | apply State.residueFail_keeps
    | apply State.readRes_keeps
    | refine State.readRes_keeps_of (by assumption) ?_
    | apply State.drainVec_keeps
    | simp only [↓Keeps.updTrust]
    | split

theorem execDrainRow_keeps {s0 s : State} (sl : SliceId) (d : DrainStep) (h : Keeps s0 s) : NextKeeps s0 (execDrainRow sl d s) := by
  unfold execDrainRow
  repeat' with_reducible first
    | assumption
    | (intro (x : State); apply Keeps.cut (s0 := s0) (x := x); rotate_left; intro hx; clear_value x; rotate_left; subst x)
    | apply State.feedTo_keeps
    | apply done_keeps
    | apply State.modArr_keeps
    | apply State.drainArrRow_keeps
    | apply State.drainInvRow_keeps
    | apply State.startXfm_keeps
    | simp only [↓Keeps.updTrust]
    | split

theorem State.freeSet_keeps {s0 s : State} (n : Nat) (set : Option Nat) (h : Keeps s0 s) : Keeps s0 (State.freeSet s n set) := by
  unfold State.freeSet
  repeat' with_reducible first
    | assumption
    | apply State.reclaimSets_keeps
    | apply State.modStream_keeps
    | split

theorem State.dropFrame_keeps {s0 s : State} (n : Nat) (f : Frame) (cause : Nat) (h : Keeps s0 s) : Keeps s0 (State.dropFrame s n f cause) := by
  unfold State.dropFrame
  repeat' with_reducible first
    | assumption
    | (intro (x : State); apply Keeps.cut (s0 := s0) (x := x); rotate_left; intro hx; clear_value x; rotate_left; subst x)
    | apply State.noteDrop_keeps
    | apply State.count_keeps
    | apply State.freeSet_keeps
    | apply State.postEvent_keeps

theorem State.consume_keeps {s0 s : State} (q : Nat) (head : Nat) (h : Keeps s0 s) : Keeps s0 (State.consume s q head) := by
  unfold State.consume
  repeat' with_reducible first
    | assumption
    | (intro (x : State); apply Keeps.cut (s0 := s0) (x := x); rotate_left; intro hx; clear_value x; rotate_left; subst x)
    | apply State.modQueue_keeps
    | apply State.journal_keeps
    | (apply Keeps.foldl; rotate_left; intro t x ht; rotate_left)

theorem State.cqApply_keeps {s0 s : State} (d : Doorbell) (h : Keeps s0 s) : Keeps s0 (State.cqApply s d) := by
  unfold State.cqApply
  repeat' with_reducible first
    | assumption
    | apply State.consume_keeps
    | apply State.setNum_keeps

theorem State.bellApply_keeps {s0 s : State} (kind : Nat) (d : Doorbell) (h : Keeps s0 s) : Keeps s0 (State.bellApply s kind d) := by
  unfold State.bellApply
  repeat' with_reducible first
    | assumption
    | apply State.setNum_keeps
    | apply State.cqApply_keeps
    | apply State.drainEvents_keeps
    | simp only [↓Keeps.upd]
    | split

theorem State.badDoorbell_keeps {s0 s : State} (kind : Nat) (d : Doorbell) (status : Nat) (h : Keeps s0 s) : Keeps s0 (State.badDoorbell s kind d status) := by
  unfold State.badDoorbell
  repeat' with_reducible first
    | assumption
    | (intro (x : State); apply Keeps.cut (s0 := s0) (x := x); rotate_left; intro hx; clear_value x; rotate_left; subst x)
    | apply State.count_keeps
    | apply State.postEvent_keeps
    | split

theorem State.bell_keeps {s0 s : State} (kind : Nat) (d : Doorbell) (h : Keeps s0 s) : Keeps s0 (State.bell s kind d).2 := by
  unfold State.bell
  repeat' with_reducible first
    | assumption
    | apply State.bellApply_keeps
    | apply State.badDoorbell_keeps
    | simp only [↓Keeps.updTrust]
    | split
theorem State.bell_keeps_of {s0 s t : State} {kind : Nat} {d : Doorbell} {v_ : _} (e : State.bell s kind d = (v_, t)) (h : Keeps s0 s) : Keeps s0 t := by
  have k := State.bell_keeps (s0 := s0) (kind := kind) (d := d) h
  rw [e] at k
  exact k

theorem State.doorbell_keeps {s0 s : State} (r : Req) (cmd : Instr) (kind : Nat) (d : Doorbell) (h : Keeps s0 s) : Keeps s0 (State.doorbell s r cmd kind d) := by
  unfold State.doorbell
  repeat' with_reducible first
    | assumption
    | apply State.hostReq_keeps
    | apply State.bell_keeps
    | refine State.bell_keeps_of (by assumption) ?_
    | intro a

theorem execTraceHead_keeps {s0 s : State} (r : Req) (d : Doorbell) (h : Keeps s0 s) : NextKeeps s0 (execTraceHead r d s) := by
  unfold execTraceHead
  repeat' with_reducible first
    | assumption
    | apply NextKeeps.next
    | apply done_keeps
    | apply State.doorbell_keeps

theorem execEvtHead_keeps {s0 s : State} (r : Req) (d : Doorbell) (h : Keeps s0 s) : NextKeeps s0 (execEvtHead r d s) := by
  unfold execEvtHead
  repeat' with_reducible first
    | assumption
    | apply NextKeeps.next
    | apply done_keeps
    | apply State.doorbell_keeps

theorem State.seenSet_keeps {s0 s : State} (q : Nat) (i : Item) (h : Keeps s0 s) : Keeps s0 (State.seenSet s q i) := by
  unfold State.seenSet
  repeat' with_reducible first
    | assumption
    | (intro (x : State); apply Keeps.cut (s0 := s0) (x := x); rotate_left; intro hx; clear_value x; rotate_left; subst x)
    | apply State.finish_keeps
    | apply State.clearFlag_keeps
    | split

theorem State.addItem_keeps {s0 s : State} (q : Nat) (i : Item) (h : Keeps s0 s) : Keeps s0 (State.addItem s q i) := by
  unfold State.addItem
  repeat' with_reducible first
    | assumption
    | (intro (x : State); apply Keeps.cut (s0 := s0) (x := x); rotate_left; intro hx; clear_value x; rotate_left; subst x)
    | apply State.writeBlock_keeps
    | apply State.setNum_keeps
    | apply State.modQueue_keeps
    | split

theorem State.pendRow_keeps {s0 s : State} (q : Nat) (n : Nat) (c : Nat) (h : Keeps s0 s) : Keeps s0 (State.pendRow s q n c) := by
  unfold State.pendRow
  repeat' with_reducible first
    | assumption
    | apply State.draw_keeps
    | refine State.draw_keeps_of (by assumption) ?_
    | apply State.modItem_keeps
    | apply State.modCtx_keeps

theorem State.acceptFrame_keeps {s0 s : State} (n : Nat) (q : Nat) (c : Nat) (g : Nat) (f : Frame) (h : Keeps s0 s) : Keeps s0 (State.acceptFrame s n q c g f) := by
  unfold State.acceptFrame
  repeat' with_reducible first
    | assumption
    | (intro (x : State); apply Keeps.cut (s0 := s0) (x := x); rotate_left; intro hx; clear_value x; rotate_left; subst x)
    | apply State.addItem_keeps
    | apply State.modStream_keeps
    | apply State.pendRow_keeps
    | simp only [↓Keeps.upd]
    | split

theorem execStreamJobAccept_keeps {s0 s : State} (st : StreamId) (h : Keeps s0 s) : NextKeeps s0 (execStreamJobAccept st s) := by
  unfold execStreamJobAccept
  repeat' with_reducible first
    | assumption
    | apply NextKeeps.next
    | apply done_keeps
    | apply State.modStream_keeps
    | apply State.freeSet_keeps
    | apply State.count_keeps
    | apply State.dropFrame_keeps
    | apply State.buildGraph_keeps
    | apply State.acceptFrame_keeps
    | simp only [↓Keeps.updTrust]
    | split

theorem State.beginWait_keeps {s0 s : State} (q : Nat) (n : Nat) (h : Keeps s0 s) : Keeps s0 (State.beginWait s q n) := by
  unfold State.beginWait
  repeat' with_reducible first
    | assumption
    | apply State.modItem_keeps

theorem State.headWaits_keeps {s0 s : State} (q k : Nat) (h : Keeps s0 s) : Keeps s0 (State.headWaits q k s) := by
  induction k generalizing s with
  | zero => exact h
  | succ k ih =>
    simp only [State.headWaits]
    repeat' with_reducible first
      | assumption
      | apply ih
      | apply State.seenSet_keeps
      | apply State.beginWait_keeps
      | split

theorem State.notice_keeps {s0 s : State} (q : Nat) (idx : Nat) (status : Nat) (job : Nat) (h : Keeps s0 s) : Keeps s0 (State.notice s q idx status job) := by
  unfold State.notice
  repeat' with_reducible first
    | assumption
    | apply State.postEvent_keeps

theorem execSqTail_keeps {s0 s : State} (r : Req) (d : Doorbell) (h : Keeps s0 s) : NextKeeps s0 (execSqTail r d s) := by
  unfold execSqTail
  repeat' with_reducible first
    | assumption
    | apply NextKeeps.next
    | apply done_keeps
    | apply State.doorbell_keeps

theorem execLogHead_keeps {s0 s : State} (r : Req) (d : Doorbell) (h : Keeps s0 s) : NextKeeps s0 (execLogHead r d s) := by
  unfold execLogHead
  repeat' with_reducible first
    | assumption
    | apply NextKeeps.next
    | apply done_keeps
    | apply State.doorbell_keeps

theorem State.refuse_keeps {s0 s : State} (q : Nat) (idx : Nat) (status : Nat) (job : Nat) (h : Keeps s0 s) : Keeps s0 (State.refuse s q idx status job) := by
  unfold State.refuse
  repeat' with_reducible first
    | assumption
    | apply State.notice_keeps
    | apply State.count_keeps

theorem execSubmissionRead_keeps {s0 s : State} (q : QueueId) (h : Keeps s0 s) : NextKeeps s0 (execSubmissionRead q s) := by
  unfold execSubmissionRead
  repeat' with_reducible first
    | assumption
    | (intro (x : State); apply Keeps.cut (s0 := s0) (x := x); rotate_left; intro hx; clear_value x; rotate_left; subst x)
    | apply NextKeeps.next
    | apply done_keeps
    | apply State.noteChange_keeps
    | apply State.setNum_keeps
    | apply State.refuse_keeps
    | apply State.modQueue_keeps
    | simp only [↓Keeps.updTrust]
    | split

theorem State.headWait_keeps {s0 s : State} (q : Nat) (h : Keeps s0 s) : Keeps s0 (State.headWait s q) := by
  unfold State.headWait
  repeat' with_reducible first
    | assumption
    | apply State.headWaits_keeps

theorem execItemAccept_keeps {s0 s : State} (q : QueueId) (h : Keeps s0 s) : NextKeeps s0 (execItemAccept q s) := by
  unfold execItemAccept
  repeat' with_reducible first
    | assumption
    | apply NextKeeps.next
    | apply done_keeps
    | apply State.addItem_keeps
    | apply State.notice_keeps
    | apply State.modCtx_keeps
    | apply State.buildGraph_keeps
    | apply State.headWait_keeps
    | split

theorem execCqHead_keeps {s0 s : State} (r : Req) (d : Doorbell) (h : Keeps s0 s) : NextKeeps s0 (execCqHead r d s) := by
  unfold execCqHead
  repeat' with_reducible first
    | assumption
    | apply NextKeeps.next
    | apply done_keeps
    | apply State.doorbell_keeps

theorem State.peerSend_keeps {s0 s : State} (p : Nat) (f : PeerTx) (h : Keeps s0 s) : Keeps s0 (State.peerSend s p f) := by
  unfold State.peerSend
  repeat' with_reducible first
    | assumption
    | apply State.modPeer_keeps

theorem State.modXfer_keeps {s0 s : State} (p : Nat) (a1 : Word) (mine : Bool) (f : Xfer → Xfer) (h : Keeps s0 s) : Keeps s0 (State.modXfer s p a1 mine f) := by
  unfold State.modXfer
  repeat' with_reducible first
    | assumption
    | apply State.modPeer_keeps

theorem State.sendAck_keeps {s0 s : State} (p : Nat) (a1 : Word) (mine : Bool) (h : Keeps s0 s) : Keeps s0 (State.sendAck s p a1 mine) := by
  unfold State.sendAck
  repeat' with_reducible first
    | assumption
    | apply State.modXfer_keeps
    | apply State.peerSend_keeps
    | split

theorem State.endXferItem_keeps {s0 s : State} (t : Xfer) (status : Nat) (h : Keeps s0 s) : Keeps s0 (State.endXferItem s t status) := by
  unfold State.endXferItem
  repeat' with_reducible first
    | assumption
    | apply State.finish_keeps
    | split

theorem State.dropXfer_keeps {s0 s : State} (p : Nat) (a1 : Word) (mine : Bool) (h : Keeps s0 s) : Keeps s0 (State.dropXfer s p a1 mine) := by
  unfold State.dropXfer
  repeat' with_reducible first
    | assumption
    | apply State.modPeer_keeps

theorem State.closeXfer_keeps {s0 s : State} (p : Nat) (a1 : Word) (mine : Bool) (h : Keeps s0 s) : Keeps s0 (State.closeXfer s p a1 mine) := by
  unfold State.closeXfer
  repeat' with_reducible first
    | assumption
    | apply State.modPeer_keeps
    | apply State.dropXfer_keeps

theorem State.blocksRead_keeps {s0 s : State} (l : List Nat) (h : Keeps s0 s) : Keeps s0 (State.blocksRead s l).2 := by
  unfold State.blocksRead
  repeat' with_reducible first
    | assumption
    | apply State.hostBlock_keeps
    | refine State.hostBlock_keeps_of (by assumption) ?_
    | (apply Keeps.foldl1; rotate_left; intro t x ht; dsimp only; rotate_left)
theorem State.blocksRead_keeps_of {s0 s t : State} {l : List Nat} {v_ : _} (e : State.blocksRead s l = (v_, t)) (h : Keeps s0 s) : Keeps s0 t := by
  have k := State.blocksRead_keeps (s0 := s0) (l := l) h
  rw [e] at k
  exact k

theorem State.sendSegment_keeps {s0 s : State} (p : Nat) (t : Xfer) (q : Nat) (h : Keeps s0 s) : Keeps s0 (State.sendSegment s p t q) := by
  unfold State.sendSegment
  repeat' with_reducible first
    | assumption
    | apply State.blocksRead_keeps
    | refine State.blocksRead_keeps_of (by assumption) ?_
    | apply State.count_keeps
    | apply State.peerSend_keeps
    | simp only [↓Keeps.updTrust]
    | split

theorem State.fillWindow_keeps {s0 s : State} (p : Nat) (a1 : Word) (mine : Bool) (h : Keeps s0 s) : Keeps s0 (State.fillWindow s p a1 mine) := by
  unfold State.fillWindow
  repeat' with_reducible first
    | assumption
    | apply State.sendSegment_keeps
    | apply State.modXfer_keeps
    | (apply Keeps.foldl; rotate_left; intro t x ht; rotate_left)
    | split

theorem execPeerAckRx_keeps {s0 s : State} (p : PeerId) (f : PeerFrame) (h : Keeps s0 s) : NextKeeps s0 (execPeerAckRx p f s) := by
  unfold execPeerAckRx
  repeat' with_reducible first
    | assumption
    | apply NextKeeps.next
    | apply State.modXfer_keeps
    | apply done_keeps
    | apply State.endXferItem_keeps
    | apply State.closeXfer_keeps
    | apply State.fillWindow_keeps
    | split

theorem State.takeData_keeps {s0 s : State} (p : Nat) (t : Xfer) (f : PeerFrame) (h : Keeps s0 s) : Keeps s0 (State.takeData s p t f) := by
  unfold State.takeData
  repeat' with_reducible first
    | assumption
    | apply State.peerSend_keeps
    | apply State.blocksRead_keeps
    | refine State.blocksRead_keeps_of (by assumption) ?_
    | apply State.count_keeps
    | apply State.modXfer_keeps
    | apply State.writeBytes_keeps
    | simp only [↓Keeps.updTrust]
    | split

theorem execPeerDataRx_keeps {s0 s : State} (p : PeerId) (f : PeerFrame) (h : Keeps s0 s) : NextKeeps s0 (execPeerDataRx p f s) := by
  unfold execPeerDataRx
  repeat' with_reducible first
    | assumption
    | apply NextKeeps.next
    | apply done_keeps
    | apply State.takeData_keeps
    | apply State.peerSend_keeps
    | apply State.modPeer_keeps
    | split

theorem State.giveUp_keeps {s0 s : State} (p : Nat) (t : Xfer) (h : Keeps s0 s) : Keeps s0 (State.giveUp s p t) := by
  unfold State.giveUp
  repeat' with_reducible first
    | assumption
    | (intro (x : State); apply Keeps.cut (s0 := s0) (x := x); rotate_left; intro hx; clear_value x; rotate_left; subst x)
    | apply State.dropXfer_keeps
    | apply State.setNum_keeps
    | apply State.peerSend_keeps
    | apply State.endXferItem_keeps
    | split

theorem execPeerResendTimer_keeps {s0 s : State} (p : PeerId) (a1 : Word) (mine : Bool) (h : Keeps s0 s) : NextKeeps s0 (execPeerResendTimer p a1 mine s) := by
  unfold execPeerResendTimer
  repeat' with_reducible first
    | assumption
    | apply NextKeeps.next
    | apply State.advanceTo_keeps
    | apply done_keeps
    | apply State.giveUp_keeps
    | apply State.modXfer_keeps
    | apply State.count_keeps
    | apply State.sendSegment_keeps
    | apply State.peerSend_keeps
    | (apply Keeps.foldl; rotate_left; intro t x ht; rotate_left)
    | simp only [↓Keeps.updTrust]
    | split

theorem peerEnableRule_keeps {s0 : State} (p : Nat) : RuleKeeps s0 (peerEnableRule p) := by
  unfold peerEnableRule
  repeat' with_reducible first
    | assumption
    | (apply RuleKeeps.cmd; intro s a hs)
    | apply State.setNum_keeps

theorem State.beginXfer_keeps {s0 s : State} (p : Nat) (q : Nat) (n : Nat) (loc : Nat) (remote : Nat) (total : Nat) (get : Bool) (h : Keeps s0 s) : Keeps s0 (State.beginXfer s p q n loc remote total get) := by
  unfold State.beginXfer
  repeat' with_reducible first
    | assumption
    | (intro (x : State); apply Keeps.cut (s0 := s0) (x := x); rotate_left; intro hx; clear_value x; rotate_left; subst x)
    | apply State.modPeer_keeps
    | apply State.peerSend_keeps
    | apply State.fillWindow_keeps
    | split

theorem execPeerGetRx_keeps {s0 s : State} (p : PeerId) (f : PeerFrame) (h : Keeps s0 s) : NextKeeps s0 (execPeerGetRx p f s) := by
  unfold execPeerGetRx
  repeat' with_reducible first
    | assumption
    | apply NextKeeps.next
    | apply done_keeps
    | apply State.peerSend_keeps
    | apply State.fillWindow_keeps
    | apply State.modPeer_keeps
    | split

theorem execPeerXferIdExpiry_keeps {s0 s : State} (p : PeerId) (a1 : Word) (mine : Bool) (h : Keeps s0 s) : NextKeeps s0 (execPeerXferIdExpiry p a1 mine s) := by
  unfold execPeerXferIdExpiry
  repeat' with_reducible first
    | assumption
    | apply NextKeeps.next
    | apply done_keeps
    | apply State.modPeer_keeps
    | apply State.advanceTo_keeps
    | split

theorem execPeerSegmentWritten_keeps {s0 s : State} (p : PeerId) (a1 : Word) (mine : Bool) (h : Keeps s0 s) : NextKeeps s0 (execPeerSegmentWritten p a1 mine s) := by
  unfold execPeerSegmentWritten
  repeat' with_reducible first
    | assumption
    | (intro (x : State); apply Keeps.cut (s0 := s0) (x := x); rotate_left; intro hx; clear_value x; rotate_left; subst x)
    | apply NextKeeps.next
    | apply State.modXfer_keeps
    | apply State.sendAck_keeps
    | apply State.closeXfer_keeps
    | apply done_keeps
    | apply State.endXferItem_keeps
    | apply State.setFlag_keeps
    | simp only [↓Keeps.updTrust]
    | split

theorem execPeerAckTimer_keeps {s0 s : State} (p : PeerId) (a1 : Word) (mine : Bool) (h : Keeps s0 s) : NextKeeps s0 (execPeerAckTimer p a1 mine s) := by
  unfold execPeerAckTimer
  repeat' with_reducible first
    | assumption
    | apply NextKeeps.next
    | apply done_keeps
    | apply State.sendAck_keeps
    | apply State.advanceTo_keeps
    | split

theorem execPeerEnable_keeps {s0 s : State} (p : PeerId) (w : CmdW) (h : Keeps s0 s) : NextKeeps s0 (execPeerEnable p w s) := by
  unfold execPeerEnable
  repeat' with_reducible first
    | assumption
    | apply done_keeps
    | apply State.hostWrite_keeps
    | apply peerEnableRule_keeps

theorem execPeerAbortRx_keeps {s0 s : State} (p : PeerId) (f : PeerFrame) (h : Keeps s0 s) : NextKeeps s0 (execPeerAbortRx p f s) := by
  unfold execPeerAbortRx
  repeat' with_reducible first
    | assumption
    | apply NextKeeps.next
    | apply done_keeps
    | apply State.endXferItem_keeps
    | apply State.dropXfer_keeps
    | split

theorem State.command_keeps {s0 s : State} (q op : Nat) (body : State → Item → State)
    (hb : ∀ s i, Keeps s0 s → Keeps s0 (body s i)) (h : Keeps s0 s) : Keeps s0 (s.command q op body) := by
  unfold State.command
  repeat' with_reducible first
    | assumption
    | apply hb
    | apply State.buildGraph_keeps
    | apply State.headWait_keeps
    | apply State.finish_keeps
    | split

theorem execFlagSet_keeps {s0 s : State} (q : QueueId) (h : Keeps s0 s) : NextKeeps s0 (execFlagSet q s) := by
  unfold execFlagSet
  repeat' with_reducible first
    | assumption
    | apply done_keeps
    | apply State.command_keeps
    | apply State.finish_keeps
    | apply State.setFlag_keeps
    | intro a

theorem State.begin_keeps {s0 s : State} (q : Nat) (n : Nat) (h : Keeps s0 s) : Keeps s0 (State.begin s q n) := by
  unfold State.begin
  repeat' with_reducible first
    | assumption
    | apply State.modItem_keeps

theorem State.peerCommand_keeps {s0 s : State} (q : Nat) (i : Item) (get : Bool) (h : Keeps s0 s) : Keeps s0 (State.peerCommand s q i get) := by
  unfold State.peerCommand
  repeat' with_reducible first
    | assumption
    | apply State.finish_keeps
    | apply State.beginXfer_keeps
    | apply State.begin_keeps
    | simp only [↓Keeps.updTrust]
    | split

theorem State.failLoad_keeps {s0 s : State} (q : Nat) (n : Nat) (c : Nat) (status : Nat) (detail : Option Bytes) (h : Keeps s0 s) : Keeps s0 (State.failLoad s q n c status detail) := by
  unfold State.failLoad
  repeat' with_reducible first
    | assumption
    | (intro (x : State); apply Keeps.cut (s0 := s0) (x := x); rotate_left; intro hx; clear_value x; rotate_left; subst x)
    | apply State.freeRun_keeps
    | apply State.finish_keeps
    | apply State.emptyCtx_keeps

theorem State.placePackage_keeps {s0 s : State} (q : Nat) (n : Nat) (c : Nat) (k : Package) (h : Keeps s0 s) : Keeps s0 (State.placePackage s q n c k) := by
  unfold State.placePackage
  repeat' with_reducible first
    | assumption
    | refine State.alloc_keeps (by assumption) ?_
    | apply State.failLoad_keeps
    | apply State.modCtx_keeps
    | apply State.begin_keeps
    | simp only [↓Keeps.updTrust]
    | split

theorem execLoad_keeps {s0 s : State} (q : QueueId) (pkg : Package) (h : Keeps s0 s) : NextKeeps s0 (execLoad q pkg s) := by
  unfold execLoad
  repeat' with_reducible first
    | assumption
    | apply done_keeps
    | apply State.command_keeps
    | apply State.failLoad_keeps
    | apply State.count_keeps
    | apply State.setBlob_keeps
    | apply State.placePackage_keeps
    | split
    | intro a

theorem execRun_keeps {s0 s : State} (q : QueueId) (h : Keeps s0 s) : NextKeeps s0 (execRun q s) := by
  unfold execRun
  repeat' with_reducible first
    | assumption
    | apply done_keeps
    | apply State.pendRow_keeps
    | apply State.finish_keeps
    | apply State.command_keeps
    | apply State.modItem_keeps
    | split
    | intro a

theorem execPut_keeps {s0 s : State} (q : QueueId) (h : Keeps s0 s) : NextKeeps s0 (execPut q s) := by
  unfold execPut
  repeat' with_reducible first
    | assumption
    | apply done_keeps
    | apply State.command_keeps
    | apply State.peerCommand_keeps
    | intro a

theorem execDetach_keeps {s0 s : State} (q : QueueId) (h : Keeps s0 s) : NextKeeps s0 (execDetach q s) := by
  unfold execDetach
  repeat' with_reducible first
    | assumption
    | apply done_keeps
    | apply State.command_keeps
    | apply State.detachStream_keeps
    | apply State.finish_keeps
    | apply State.begin_keeps
    | simp only [↓Keeps.updTrust]
    | split
    | intro a

theorem execFree_keeps {s0 s : State} (q : QueueId) (h : Keeps s0 s) : NextKeeps s0 (execFree q s) := by
  unfold execFree
  repeat' with_reducible first
    | assumption
    | apply done_keeps
    | apply State.command_keeps
    | apply State.freePages_keeps
    | apply State.finish_keeps
    | apply State.modCtx_keeps
    | simp only [↓Keeps.updTrust]
    | split
    | intro a

theorem State.dropHistory_keeps {s0 s : State} (c : Nat) (h : Keeps s0 s) : Keeps s0 (State.dropHistory s c) := by
  unfold State.dropHistory
  repeat' with_reducible first
    | assumption
    | simp only [↓Keeps.upd]

theorem execUnload_keeps {s0 s : State} (q : QueueId) (h : Keeps s0 s) : NextKeeps s0 (execUnload q s) := by
  unfold execUnload
  repeat' with_reducible first
    | assumption
    | apply done_keeps
    | apply State.command_keeps
    | apply State.freePage_keeps
    | apply State.modCtx_keeps
    | apply State.dropHistory_keeps
    | apply State.endUnload_keeps
    | apply State.begin_keeps
    | (apply Keeps.foldl; rotate_left; intro t x ht; rotate_left)
    | intro a

theorem execFlagClr_keeps {s0 s : State} (q : QueueId) (setToo : Bool) (h : Keeps s0 s) : NextKeeps s0 (execFlagClr q setToo s) := by
  unfold execFlagClr
  repeat' with_reducible first
    | assumption
    | apply done_keeps
    | apply State.command_keeps
    | apply State.finish_keeps
    | apply State.clearFlag_keeps
    | intro a

theorem execAdopt_keeps {s0 s : State} (q : QueueId) (h : Keeps s0 s) : NextKeeps s0 (execAdopt q s) := by
  unfold execAdopt
  repeat' with_reducible first
    | assumption
    | apply done_keeps
    | apply State.command_keeps
    | apply State.finish_keeps
    | apply State.commitEpoch_keeps
    | simp only [↓Keeps.upd]
    | split
    | intro a

theorem execLoadComplete_keeps {s0 s : State} (c : CtxId) (rd : LoadRead) (h : Keeps s0 s) : NextKeeps s0 (execLoadComplete c rd s) := by
  unfold execLoadComplete
  repeat' with_reducible first
    | assumption
    | (intro (x : State); apply Keeps.cut (s0 := s0) (x := x); rotate_left; intro hx; clear_value x; rotate_left; subst x)
    | apply done_keeps
    | apply State.failLoad_keeps
    | apply State.modCtx_keeps
    | apply State.setNum_keeps
    | apply State.setBlob_keeps
    | apply State.finish_keeps
    | split

theorem execGet_keeps {s0 s : State} (q : QueueId) (h : Keeps s0 s) : NextKeeps s0 (execGet q s) := by
  unfold execGet
  repeat' with_reducible first
    | assumption
    | apply done_keeps
    | apply State.command_keeps
    | apply State.peerCommand_keeps
    | intro a

theorem execAttach_keeps {s0 s : State} (q : QueueId) (h : Keeps s0 s) : NextKeeps s0 (execAttach q s) := by
  unfold execAttach
  repeat' with_reducible first
    | assumption
    | apply done_keeps
    | apply State.command_keeps
    | refine State.takeSets_keeps (by assumption) ?_
    | apply State.finish_keeps
    | apply State.modStream_keeps
    | simp only [↓Keeps.updTrust]
    | split
    | intro a

theorem execFlagWait_keeps {s0 s : State} (q : QueueId) (h : Keeps s0 s) : NextKeeps s0 (execFlagWait q s) := by
  unfold execFlagWait
  repeat' with_reducible first
    | assumption
    | apply done_keeps
    | apply State.command_keeps
    | apply State.seenSet_keeps
    | apply State.beginWait_keeps
    | split
    | intro a

theorem execMarker_keeps {s0 s : State} (q : QueueId) (h : Keeps s0 s) : NextKeeps s0 (execMarker q s) := by
  unfold execMarker
  repeat' with_reducible first
    | assumption
    | apply done_keeps
    | apply State.command_keeps
    | apply State.finish_keeps
    | split
    | intro a

theorem execAlloc_keeps {s0 s : State} (q : QueueId) (h : Keeps s0 s) : NextKeeps s0 (execAlloc q s) := by
  unfold execAlloc
  repeat' with_reducible first
    | assumption
    | apply done_keeps
    | apply State.command_keeps
    | refine State.alloc_keeps (by assumption) ?_
    | apply State.finish_keeps
    | apply State.modCtx_keeps
    | apply State.modItem_keeps
    | simp only [↓Keeps.updTrust]
    | split
    | intro a

theorem State.countStats_keeps {s0 s : State} (q : Nat) (i : Item) (h : Keeps s0 s) : Keeps s0 (State.countStats s q i) := by
  unfold State.countStats
  repeat' with_reducible first
    | assumption
    | simp only [↓Keeps.upd]

theorem State.markPosted_keeps {s0 s : State} (q : Nat) (i : Item) (h : Keeps s0 s) : Keeps s0 (State.markPosted s q i) := by
  unfold State.markPosted
  repeat' with_reducible first
    | assumption
    | (intro (x : State); apply Keeps.cut (s0 := s0) (x := x); rotate_left; intro hx; clear_value x; rotate_left; subst x)
    | apply State.modItem_keeps
    | apply State.setNum_keeps
    | apply State.freeSet_keeps
    | apply State.countStats_keeps
    | split

theorem State.unload_keeps {s0 s : State} (i : Item) (h : Keeps s0 s) : Keeps s0 (State.unload s i) := by
  unfold State.unload
  repeat' with_reducible first
    | assumption
    | apply State.emptyCtx_keeps
    | apply State.freeRun_keeps
    | split

theorem State.replayItem_keeps {s0 s : State} (q : Nat) (i : Item) (h : Keeps s0 s) : Keeps s0 (State.replayItem s q i) := by
  unfold State.replayItem
  repeat' with_reducible first
    | assumption
    | (intro (x : State); apply Keeps.cut (s0 := s0) (x := x); rotate_left; intro hx; clear_value x; rotate_left; subst x)
    | apply State.unload_keeps
    | apply State.finish_keeps
    | apply State.dropBuf_keeps
    | apply State.modItem_keeps
    | apply State.dropStats_keeps
    | apply State.count_keeps
    | apply State.pendRow_keeps
    | simp only [↓Keeps.updTrust]
    | split

-- MANUAL State.replayRec P(,P(,P(,S)))

theorem execWaitGraphBuild_keeps {s0 s : State} (h : Keeps s0 s) : NextKeeps s0 (execWaitGraphBuild s) := by
  unfold execWaitGraphBuild
  repeat' with_reducible first
    | assumption
    | (intro (x : State); apply Keeps.cut (s0 := s0) (x := x); rotate_left; intro hx; clear_value x; rotate_left; subst x)
    | apply NextKeeps.next
    | apply State.refreshBlocked_keeps
    | apply done_keeps
    | apply State.buildGraph_keeps
    | apply State.advanceTo_keeps
    | simp only [↓Keeps.updTrust]
    | split

theorem State.endDummy_keeps {s0 s : State} (n : Nat) (h : Keeps s0 s) : Keeps s0 (State.endDummy s n) := by
  unfold State.endDummy
  repeat' with_reducible first
    | assumption
    | apply State.draw_keeps
    | refine State.draw_keeps_of (by assumption) ?_
    | apply State.modSlice_keeps
    | apply State.advanceTo_keeps
    | split

theorem State.postHead_keeps {s0 s : State} (q : Nat) (h : Keeps s0 s) : Keeps s0 (State.postHead s q) := by
  unfold State.postHead
  repeat' with_reducible first
    | assumption
    | apply State.noteChange_keeps
    | apply State.markPosted_keeps
    | apply State.writeBytes_keeps
    | split

theorem execCompletionPost_keeps {s0 s : State} (q : QueueId) (h : Keeps s0 s) : NextKeeps s0 (execCompletionPost q s) := by
  unfold execCompletionPost
  repeat' with_reducible first
    | assumption
    | apply NextKeeps.next
    | apply done_keeps
    | apply State.postHead_keeps
    | split

theorem State.postAll_keeps {s0 s : State} (q k : Nat) (h : Keeps s0 s) : Keeps s0 (State.postAll q k s) := by
  induction k generalizing s with
  | zero => exact h
  | succ k ih => exact ih (State.postHead_keeps _ h)

theorem State.splitStep_keeps {s0 s : State} (k : Package) (repro : Bool) (l : List KSplit) (p : Nat) (h : Keeps s0 s) : Keeps s0 (State.splitStep s k repro l p).2 := by
  unfold State.splitStep
  repeat' with_reducible first
    | assumption
    | apply State.draw_keeps
    | refine State.draw_keeps_of (by assumption) ?_
    | split
theorem State.splitStep_keeps_of {s0 s t : State} {k : Package} {repro : Bool} {l : List KSplit} {p : Nat} {v_ : _} (e : State.splitStep s k repro l p = (v_, t)) (h : Keeps s0 s) : Keeps s0 t := by
  have k := State.splitStep_keeps (s0 := s0) (k := k) (repro := repro) (l := l) (p := p) h
  rw [e] at k
  exact k

theorem State.splitSteps_keeps {s0 s : State} (k : Package) (g : Graph) (repro : Bool) (j : Nat) (l : List Nat) (h : Keeps s0 s) :
    Keeps s0 (State.splitSteps k g repro j l s).2 := by
  induction l generalizing j s with
  | nil => exact h
  | cons p r ih => exact ih _ (State.splitStep_keeps _ _ _ _ h)
theorem State.splitSteps_keeps_of {s0 s t : State} {k : Package} {g : Graph} {repro : Bool} {j : Nat} {l v : List Nat}
    (e : State.splitSteps k g repro j l s = (v, t)) (h : Keeps s0 s) : Keeps s0 t := by
  have q := State.splitSteps_keeps (s0 := s0) k g repro j l h
  rw [e] at q
  exact q

theorem State.jobPrograms_keeps {s0 s : State} (i : Item) (h : Keeps s0 s) : Keeps s0 (State.jobPrograms s i).2 := by
  unfold State.jobPrograms
  repeat' with_reducible first
    | assumption
    | apply State.splitSteps_keeps
    | refine State.splitSteps_keeps_of (by assumption) ?_
    | split
theorem State.jobPrograms_keeps_of {s0 s t : State} {i : Item} {v_ : _} (e : State.jobPrograms s i = (v_, t)) (h : Keeps s0 s) : Keeps s0 t := by
  have k := State.jobPrograms_keeps (s0 := s0) (i := i) h
  rw [e] at k
  exact k

theorem State.startRun_keeps {s0 s : State} (n : Nat) (q : Nat) (i : Item) (h : Keeps s0 s) : Keeps s0 (State.startRun s n q i) := by
  unfold State.startRun
  repeat' with_reducible first
    | assumption
    | apply State.jobPrograms_keeps
    | refine State.jobPrograms_keeps_of (by assumption) ?_
    | apply State.modSlice_keeps
    | apply State.modSeq_keeps
    | apply State.nextProgram_keeps
    | split

theorem State.waitPool_keeps {s0 s : State} (c : Cand) (h : Keeps s0 s) : Keeps s0 (State.waitPool s c) := by
  unfold State.waitPool
  repeat' with_reducible first
    | assumption
    | apply State.count_keeps
    | apply State.modItem_keeps
    | split

theorem State.readJournal_keeps {s0 s : State} (lost : List Nat) (q : Nat) (h : Keeps s0 s) : Keeps s0 (State.readJournal s lost q) := by
  unfold State.readJournal
  repeat' with_reducible first
    | assumption
    | apply State.modQueue_keeps

theorem State.openWork_keeps {s0 s : State} (h : Keeps s0 s) : Keeps s0 (State.openWork s) := by
  unfold State.openWork
  repeat' with_reducible first
    | assumption
    | simp only [↓Keeps.upd]

theorem State.replayRec_keeps {s0 : State} (q : Nat) (a : Nat × Nat × Nat × State) (i : Item) (h : Keeps s0 a.2.2.2) :
    Keeps s0 (State.replayRec q a i).2.2.2 := by
  obtain ⟨p, r, m, s⟩ := a
  unfold State.replayRec
  replace h : Keeps s0 s := h
  have hr := State.replayItem_keeps (s0 := s0) q i h
  dsimp only
  split
  · exact h
  · split
    · exact State.markPosted_keeps _ _ h
    · exact h
  · generalize s.replayItem q i = t at hr
    repeat' split
    all_goals exact hr
theorem execJournalReplay_keeps {s0 s : State} (lost : List Nat) (h : Keeps s0 s) : NextKeeps s0 (execJournalReplay lost s) := by
  unfold execJournalReplay
  split
  · exact NextKeeps.next h
  · extract_lets t
    have ht : Keeps s0 t := Keeps.foldl h (fun _ _ k => State.readJournal_keeps _ _ k)
    clear_value t
    have hp : Keeps s0 (t.queueNums.foldl (fun a q => ((a.2.2.2.queue q).items).foldl (State.replayRec q) a) (0, 0, 0, t)).2.2.2 :=
      Keeps.foldl3 ht (fun _ _ k => Keeps.foldl3 k (fun _ _ k => State.replayRec_keeps _ _ _ k))
    split
    rename_i e
    rw [e] at hp
    extract_lets a b c
    refine done_keeps _ (State.postEvent_keeps _ _ _ ?_)
    refine Keeps.foldl (Keeps.foldl (State.openWork_keeps hp) ?_) ?_
    · exact fun _ _ k => State.postAll_keeps _ _ k
    · exact fun _ _ k => State.headWait_keeps _ k

theorem State.takeJob_keeps {s0 s t : State} {n : Nat} {c : Cand} (q : s.takeJob n c = some t) (h : Keeps s0 s) :
    Keeps s0 t := by
  revert q
  unfold State.takeJob
  extract_lets i got
  have hg : ∀ a u, got = some (a, u) → Keeps s0 u := by
    intro a u e
    simp only [got] at e
    split at e
    · simp only [Option.some.injEq, Prod.mk.injEq] at e
      exact e.2 ▸ h
    · exact State.takeBuf_keeps e h
  clear_value got
  intro q
  simp only [Option.map_eq_some_iff] at q
  obtain ⟨⟨b, u⟩, hu, rfl⟩ := q
  exact State.modItem_keeps _ _ _ (hg _ _ hu)

theorem State.joinRows_keeps {s0 s : State} (n b k : Nat) (h : Keeps s0 s) : Keeps s0 (State.joinRows n b k s) := by
  induction k generalizing s with
  | zero => exact h
  | succ k ih =>
    simp only [State.joinRows]
    split
    · exact h
    · split
      · exact State.waitPool_keeps _ h
      · exact ih (State.headWait_keeps _ (State.modSlice_keeps _ _ (State.takeJob_keeps (by assumption) h)))

theorem State.evalPair_keeps {s0 s : State} (a0 : (Nat × Nat) × StatPair) (h : Keeps s0 s) : Keeps s0 (State.evalPair s a0) := by
  unfold State.evalPair
  repeat' with_reducible first
    | assumption
    | apply State.postEvent_keeps
    | apply State.count_keeps
    | simp only [↓Keeps.upd]
    | split

theorem State.dispatch_keeps {s0 s t : State} {n : Nat} {c : Cand} (q : s.dispatch n c = some t) (h : Keeps s0 s) :
    Keeps s0 t := by
  revert q
  unfold State.dispatch
  extract_lets i
  intro q
  simp only [Option.map_eq_some_iff] at q
  obtain ⟨u, hu, rfl⟩ := q
  have hu := State.takeJob_keeps hu h
  repeat' with_reducible first
      | assumption
      | apply State.joinRows_keeps
      | apply State.headWait_keeps
      | apply State.startRun_keeps
      | apply State.count_keeps
      | split

theorem State.tryDispatch_keeps {s0 s : State} (n k : Nat) (l : List Cand) (h : Keeps s0 s) :
    Keeps s0 (State.tryDispatch n k l s) := by
  induction k generalizing l s with
  | zero => exact h
  | succ k ih =>
    simp only [State.tryDispatch]
    split
    · exact h
    · split
      · exact State.dispatch_keeps (by assumption) h
      · exact ih _ (State.waitPool_keeps _ h)

theorem execJobDispatch_keeps {s0 s : State} (sl : SliceId) (h : Keeps s0 s) : NextKeeps s0 (execJobDispatch sl s) := by
  unfold execJobDispatch
  repeat' with_reducible first
    | assumption
    | (intro (x : State); apply Keeps.cut (s0 := s0) (x := x); rotate_left; intro hx; clear_value x; rotate_left; subst x)
    | apply done_keeps
    | apply State.endDummy_keeps
    | apply State.buildGraph_keeps
    | apply State.tryDispatch_keeps
    | split

theorem execBeSegmentBoundary_keeps {s0 s : State} (sl : SliceId) (h : Keeps s0 s) : NextKeeps s0 (execBeSegmentBoundary sl s) := by
  unfold execBeSegmentBoundary
  repeat' with_reducible first
    | assumption
    | (intro (x : State); apply Keeps.cut (s0 := s0) (x := x); rotate_left; intro hx; clear_value x; rotate_left; subst x)
    | apply NextKeeps.next
    | apply State.discard_keeps
    | apply done_keeps
    | apply State.modItem_keeps
    | apply State.nextProgram_keeps
    | (apply Keeps.foldl; rotate_left; intro t x ht; rotate_left)
    | simp only [↓Keeps.updTrust]
    | split

theorem qAbortRule_keeps {s0 : State} : RuleKeeps s0 (qAbortRule) := by
  unfold qAbortRule
  repeat' with_reducible first
    | assumption
    | (apply RuleKeeps.cmd; intro s a hs)
    | apply State.buildGraph_keeps
    | apply State.headWait_keeps
    | apply State.abortItem_keeps
    | split

theorem execStatWindowEval_keeps {s0 s : State} (h : Keeps s0 s) : NextKeeps s0 (execStatWindowEval s) := by
  unfold execStatWindowEval
  repeat' with_reducible first
    | assumption
    | (intro (x : State); apply Keeps.cut (s0 := s0) (x := x); rotate_left; intro hx; clear_value x; rotate_left; subst x)
    | apply NextKeeps.next
    | apply done_keeps
    | apply State.advanceTo_keeps
    | apply State.evalPair_keeps
    | (apply Keeps.foldl; rotate_left; intro t x ht; rotate_left)
    | simp only [↓Keeps.upd]
    | split

theorem State.fillBuffer_keeps {s0 s : State} (l : List (Nat × LayerSum)) (q : Nat) (n : Nat) (len : Nat) (h : Keeps s0 s) : Keeps s0 (State.fillBuffer s l q n len) := by
  unfold State.fillBuffer
  repeat' with_reducible first
    | assumption
    | apply State.modBuf_keeps
    | apply State.writeBytes_keeps
    | apply State.modItem_keeps
    | split

theorem execJobEnd_keeps {s0 s : State} (sl : SliceId) (o : JobOut) (h : Keeps s0 s) : NextKeeps s0 (execJobEnd sl o s) := by
  unfold execJobEnd
  repeat' with_reducible first
    | assumption
    | (intro (x : State); apply Keeps.cut (s0 := s0) (x := x); rotate_left; intro hx; clear_value x; rotate_left; subst x)
    | apply NextKeeps.next
    | apply State.flush_keeps
    | apply State.fillBuffer_keeps
    | apply State.discard_keeps
    | apply State.finish_keeps
    | apply State.modItem_keeps
    | apply State.strike_keeps
    | apply State.mismatchEvent_keeps
    | apply State.count_keeps
    | apply done_keeps
    | apply State.buildGraph_keeps
    | (apply Keeps.foldl; rotate_left; intro t x ht; rotate_left)
    | simp only [↓Keeps.upd]
    | split

theorem execDecodeBatchClose_keeps {s0 s : State} (c : CtxId) (going : Bool) (h : Keeps s0 s) : NextKeeps s0 (execDecodeBatchClose c going s) := by
  unfold execDecodeBatchClose
  repeat' with_reducible first
    | assumption
    | apply NextKeeps.next
    | apply done_keeps
    | apply State.advanceTo_keeps
    | apply State.modCtx_keeps
    | apply State.modItem_keeps
    | apply State.count_keeps
    | apply State.postEvent_keeps
    | (apply Keeps.foldl; rotate_left; intro t x ht; rotate_left)
    | simp only [↓Keeps.upd]
    | split

theorem execQAbortHead_keeps {s0 s : State} (w : CmdW) (h : Keeps s0 s) : NextKeeps s0 (execQAbortHead w s) := by
  unfold execQAbortHead
  repeat' with_reducible first
    | assumption
    | apply done_keeps
    | apply State.hostWrite_keeps
    | apply qAbortRule_keeps

theorem State.freeMiss_keeps {s0 s : State} (ck : Nat) (m : Miss) (h : Keeps s0 s) : Keeps s0 (State.freeMiss s ck m) := by
  unfold State.freeMiss
  repeat' with_reducible first
    | assumption
    | apply State.retireReq_keeps
    | apply State.modCluster_keeps

theorem State.wakeLine_keeps {s0 s : State} (ck : Nat) (line : Nat) (b : Bytes) (h : Keeps s0 s) : Keeps s0 (State.wakeLine s ck line b) := by
  unfold State.wakeLine
  repeat' with_reducible first
    | assumption
    | apply State.wakeAll_keeps

theorem State.lineArrives_keeps {s0 s : State} (ck : Nat) (m : Miss) (code : Bool) (good : Bool) (h : Keeps s0 s) : Keeps s0 (State.lineArrives s ck m code good) := by
  unfold State.lineArrives
  repeat' with_reducible first
    | assumption
    | apply State.draw_keeps
    | refine State.draw_keeps_of (by assumption) ?_
    | apply State.freeMiss_keeps
    | apply State.modCluster_keeps
    | apply State.wakeLine_keeps
    | apply State.failRun_keeps
    | split

theorem State.lsOutcome_keeps {s0 s : State} (n : Nat) (acc : List (Nat × Nat)) (ls : List LsEcc) (h : Keeps s0 s) : Keeps s0 (State.lsOutcome s n acc ls).2 := by
  unfold State.lsOutcome
  repeat' with_reducible first
    | assumption
    | (intro (x : State); apply Keeps.cut (s0 := s0) (x := x); rotate_left; intro hx; clear_value x; rotate_left; subst x)
    | apply State.count_keeps
    | simp only [↓Keeps.updTrust]
    | split
theorem State.lsOutcome_keeps_of {s0 s t : State} {n : Nat} {acc : List (Nat × Nat)} {ls : List LsEcc} {v_ : _} (e : State.lsOutcome s n acc ls = (v_, t)) (h : Keeps s0 s) : Keeps s0 t := by
  have k := State.lsOutcome_keeps (s0 := s0) (n := n) (acc := acc) (ls := ls) h
  rw [e] at k
  exact k

theorem State.clusterMoved_keeps {s0 s : State} (ck : Nat) (m : Miss) (uid : Nat) (pos : Nat) (len : Nat) (data : Bytes) (good : Bool) (ls : List LsEcc) (h : Keeps s0 s) : Keeps s0 (State.clusterMoved s ck m uid pos len data good ls) := by
  unfold State.clusterMoved
  repeat' with_reducible first
    | assumption
    | apply State.writeBytes_keeps
    | apply State.lsOutcome_keeps
    | refine State.lsOutcome_keeps_of (by assumption) ?_
    | apply State.sliverFault_keeps
    | apply State.failRun_keeps
    | apply State.lsPut_keeps
    | simp only [↓Keeps.updTrust]
    | split

theorem State.missDone_keeps {s0 s : State} (ck : Nat) (m : Miss) (good : Bool) (ls : List LsEcc) (h : Keeps s0 s) : Keeps s0 (State.missDone s ck m good ls) := by
  unfold State.missDone
  repeat' with_reducible first
    | assumption
    | apply State.runClusters_keeps
    | apply State.lineArrives_keeps
    | apply State.clusterMoved_keeps
    | apply State.freeMiss_keeps
    | split

theorem execCacheLineFill_keeps {s0 s : State} (sl : SliceId) (cl : Fin 16) (slot : Fin 32) (f : FillEnd) (h : Keeps s0 s) : NextKeeps s0 (execCacheLineFill sl cl slot f s) := by
  unfold execCacheLineFill
  repeat' with_reducible first
    | assumption
    | apply NextKeeps.next
    | apply State.count_keeps
    | apply State.modCluster_keeps
    | apply State.access_keeps
    | refine State.access_keeps_of (by assumption) ?_
    | apply done_keeps
    | apply State.missDone_keeps
    | simp only [↓Keeps.updTrust]
    | split

theorem State.slTimeh_keeps {s0 s : State} (k : Nat) (rd : Nat) (h : Keeps s0 s) : Keeps s0 (State.slTimeh s k rd) := by
  unfold State.slTimeh
  repeat' with_reducible first
    | assumption
    | apply State.retire_keeps
    | apply State.modHart_keeps

theorem State.fenceI_keeps {s0 s : State} (k : Nat) (h : Keeps s0 s) : Keeps s0 (State.fenceI s k) := by
  unfold State.fenceI
  repeat' with_reducible first
    | assumption
    | (intro (x : State); apply Keeps.cut (s0 := s0) (x := x); rotate_left; intro hx; clear_value x; rotate_left; subst x)
    | apply State.modCluster_keeps
    | apply State.retire_keeps
    | split

theorem execCacheMiss_keeps {s0 s : State} (a0 : HartId) (instr : Bool) (addr : Nat) (m : MissCause) (h : Keeps s0 s) : NextKeeps s0 (execCacheMiss a0 instr addr m s) := by
  unfold execCacheMiss
  repeat' with_reducible first
    | assumption
    | (intro (x : State); apply Keeps.cut (s0 := s0) (x := x); rotate_left; intro hx; clear_value x; rotate_left; subst x)
    | apply NextKeeps.next
    | apply done_keeps
    | apply State.loseSliceWork_keeps
    | apply State.count_keeps
    | apply State.modCluster_keeps
    | apply State.send_keeps
    | apply State.leaveCore_keeps
    | apply State.modHart_keeps
    | simp only [↓Keeps.updTrust]
    | split

/-- The state at the end of an instruction. -/
def Ex.final : Ex → State
  | .ok v => v.s
  | .stop v _ => v.s

theorem Ex.ite_keeps {s0 : State} {p : Prop} [Decidable p] {x y : Ex} (hx : Keeps s0 x.final) (hy : Keeps s0 y.final) :
    Keeps s0 (if p then x else y).final := by
  split <;> assumption

theorem Tv.mod_keeps {s0 : State} {v : Tv} (f : Hart → Hart) (h : Keeps s0 v.s) : Keeps s0 (v.mod f).s :=
  State.modHart_keeps _ _ h

theorem Tv.read_keeps {s0 : State} {v w : Tv} {a n : Nat} {b : Bytes} (q : v.read a n = .ok (b, w))
    (h : Keeps s0 v.s) : Keeps s0 w.s := by
  revert q
  unfold Tv.read
  repeat' split
  all_goals
    intro q
    first
    | cases q
      exact h
    | cases q

theorem Tv.write_keeps {s0 : State} {v w : Tv} {a : Nat} {b : Bytes} (q : v.write a b = .ok w) (h : Keeps s0 v.s) :
    Keeps s0 w.s := by
  revert q
  unfold Tv.write
  repeat' split
  all_goals
    intro q
    first
    | cases q
      first
      | exact State.lsPut_keeps _ _ _ h
      | exact State.devStore_keeps _ _ _ h
    | cases q

theorem Tv.fin_keeps {s0 : State} {v : Tv} (n : Nat) (f : Hart → Hart) (h : Keeps s0 v.s) : Keeps s0 (v.fin n f).final :=
  Tv.mod_keeps _ h

theorem Tv.jump_keeps {s0 : State} {v : Tv} (w : Word) (f : Hart → Hart) (h : Keeps s0 v.s) : Keeps s0 (v.jump w f).final :=
  Tv.mod_keeps _ h

theorem Tv.illegal_keeps {s0 : State} {v : Tv} (n : Nat) (h : Keeps s0 v.s) : Keeps s0 (v.illegal n).final := h

theorem Tv.loadTo_keeps {s0 : State} {v : Tv} (len : Nat) (a : Word) (n : Nat) (f : Nat → Hart → Hart) (h : Keeps s0 v.s) :
    Keeps s0 (v.loadTo len a n f).final := by
  unfold Tv.loadTo
  split
  · exact h
  · exact Tv.fin_keeps _ _ (Tv.read_keeps (by assumption) h)

theorem Tv.storeFrom_keeps {s0 : State} {v : Tv} (len : Nat) (a : Word) (n : Nat) (x : Word) (h : Keeps s0 v.s) :
    Keeps s0 (v.storeFrom len a n x).final := by
  unfold Tv.storeFrom
  split
  · exact h
  · exact Tv.fin_keeps _ _ (Tv.write_keeps (by assumption) h)

theorem Tv.exScalar_keeps {s0 : State} {v : Tv} (i b len : Nat) (h : Keeps s0 v.s) : Keeps s0 (v.exScalar i b len).final := by
  unfold Tv.exScalar Tv.exLoad Tv.exOpImm Tv.exStore Tv.exOp Tv.exFused Tv.exOpFp Tv.exBranch
  dsimp only
  repeat' first
    | with_reducible assumption
    | with_reducible apply Tv.fin_keeps
    | with_reducible apply Tv.jump_keeps
    | with_reducible apply Tv.illegal_keeps
    | with_reducible apply Tv.loadTo_keeps
    | with_reducible apply Tv.storeFrom_keeps
    | exact h
    | split

theorem Tv.vAccess_keeps {s0 : State} (store : Bool) (e : Nat) (l : List VAcc) (v : Tv) (n : Nat) (h : Keeps s0 v.s) :
    Keeps s0 (Tv.vAccess store e v n l).2.1.s := by
  induction l generalizing v n with
  | nil => exact h
  | cons a r ih =>
    simp only [Tv.vAccess]
    split
    · split
      · exact h
      · exact ih _ _ (Tv.write_keeps (by assumption) h)
    · split
      · exact h
      · exact ih _ _ (Tv.mod_keeps _ (Tv.read_keeps (by assumption) h))

theorem Tv.vDone_keeps {s0 : State} {r : Nat × Tv × Option Stop} (len : Nat) (f : Hart → Hart) (h : Keeps s0 r.2.1.s) :
    Keeps s0 (Tv.vDone r len f).final := by
  unfold Tv.vDone
  split
  · exact h
  · exact Tv.fin_keeps _ _ h

theorem Tv.setVl_keeps {s0 : State} {v : Tv} (len rd : Nat) (avl : Option Nat) (t : Nat) (h : Keeps s0 v.s) :
    Keeps s0 (v.setVl len rd avl t).final := by
  unfold Tv.setVl
  dsimp only
  repeat' first
    | with_reducible assumption
    | with_reducible apply Tv.fin_keeps
    | split

theorem Tv.cfg_keeps {s0 : State} {v w : Tv} {i : Nat} {c : VCfg} (q : v.cfg i = some (c, w)) (h : Keeps s0 v.s) :
    Keeps s0 w.s := by
  revert q
  unfold Tv.cfg
  dsimp only
  split
  · intro q; cases q
  · intro q
    simp only [Option.some.injEq, Prod.mk.injEq] at q
    rw [← q.2]
    exact h

theorem Tv.exVset_keeps {s0 : State} {v : Tv} (i len : Nat) (h : Keeps s0 v.s) : Keeps s0 (v.exVset i len).final := by
  unfold Tv.exVset
  dsimp only
  repeat' first
    | with_reducible apply Tv.setVl_keeps
    | with_reducible apply Tv.illegal_keeps
    | with_reducible assumption
    | split

theorem Tv.exOpV_keeps {s0 : State} {v : Tv} (i len : Nat) (h : Keeps s0 v.s) : Keeps s0 (v.exOpV i len).final := by
  unfold Tv.exOpV
  extract_lets o
  split
  · exact Tv.exVset_keeps _ _ h
  · split
    · exact h
    · rename_i e
      extract_lets r
      clear_value r
      split
      · exact h
      · exact Tv.fin_keeps _ _ (Tv.cfg_keeps e h)

theorem Tv.vAccess_keeps_of {s0 : State} {store : Bool} {e : Nat} {l : List VAcc} {v : Tv} {n : Nat} {r : Nat × Tv × Option Stop}
    (q : Tv.vAccess store e v n l = r) (h : Keeps s0 v.s) : Keeps s0 r.2.1.s := q ▸ Tv.vAccess_keeps _ _ _ _ _ h

theorem Tv.exVMem_keeps {s0 : State} {v : Tv} (i len : Nat) (store : Bool) (h : Keeps s0 v.s) :
    Keeps s0 (v.exVMem i len store).final := by
  unfold Tv.exVMem
  extract_lets vd nf mop lum base
  split
  · exact h
  · split
    · exact h
    · split
      · extract_lets
        split
        · exact h
        · exact Tv.vDone_keeps _ _ (Tv.vAccess_keeps _ _ _ _ _ h)
      · split
        · exact h
        · rename_i e
          have k := Tv.cfg_keeps e h
          extract_lets
          split
          · refine Ex.ite_keeps ?_ ?_
            · exact h
            · exact Tv.vDone_keeps _ _ (Tv.vAccess_keeps _ _ _ _ _ k)
          · refine Ex.ite_keeps ?_ ?_
            · exact h
            · split
              · rename_i q _
                have m := Tv.vAccess_keeps_of q k
                refine Ex.ite_keeps m ?_
                exact Tv.fin_keeps _ _ m
              · rename_i q _
                have m := Tv.vAccess_keeps_of q k
                refine Ex.ite_keeps m ?_
                exact Tv.fin_keeps _ _ m
              · exact Tv.vDone_keeps _ _ (Tv.vAccess_keeps _ _ _ _ _ k)

theorem Tv.exVector_keeps {s0 : State} {v : Tv} (i len : Nat) (h : Keeps s0 v.s) : Keeps s0 (v.exVector i len).final := by
  unfold Tv.exVector
  split
  · exact Tv.exVMem_keeps _ _ _ h
  · exact Tv.exVMem_keeps _ _ _ h
  · exact Tv.exOpV_keeps _ _ h

theorem State.settleEx_keeps {s0 s : State} (k : Nat) (ls : List LsEcc) (x : Ex) (h : Keeps s0 s) (hx : Keeps s0 x.final) :
    Keeps s0 (s.settleEx k ls x) := by
  unfold State.settleEx
  extract_lets n
  cases x with
  | ok v =>
    replace hx : Keeps s0 v.s := hx
    dsimp only
    split
    · exact State.faultAt_keeps _ _ _ (State.lsOutcome_keeps_of (by assumption) h)
    · exact State.lsOutcome_keeps _ _ _ hx
  | stop v w =>
    replace hx : Keeps s0 v.s := hx
    dsimp only
    split
    · exact State.faultAt_keeps _ _ _ hx
    · exact State.windowFault_keeps _ _ hx
    · exact State.modHart_keeps _ _ h
    · exact h

theorem State.slDmaq_keeps {s0 s : State} (k : Nat) (rd : Nat) (rs1 : Nat) (ls : List LsEcc) (h : Keeps s0 s) : Keeps s0 (State.slDmaq s k rd rs1 ls) := by
  unfold State.slDmaq
  repeat' with_reducible first
    | assumption
    | apply State.faultAt_keeps
    | apply State.lsOutcome_keeps
    | refine State.lsOutcome_keeps_of (by assumption) ?_
    | apply State.modHart_keeps
    | apply State.modStore_keeps
    | apply State.modCluster_keeps
    | apply State.runCluster_keeps
    | apply State.retire_keeps
    | simp only [↓Keeps.updTrust]
    | split

theorem State.slDmaw_keeps {s0 s : State} (k : Nat) (rs1 : Nat) (h : Keeps s0 s) : Keeps s0 (State.slDmaw s k rs1) := by
  unfold State.slDmaw
  repeat' with_reducible first
    | assumption
    | apply State.retire_keeps
    | apply State.leaveCore_keeps
    | simp only [↓Keeps.updTrust]
    | split

theorem State.slFwait_keeps {s0 s : State} (k : Nat) (rs1 : Nat) (h : Keeps s0 s) : Keeps s0 (State.slFwait s k rs1) := by
  unfold State.slFwait
  repeat' with_reducible first
    | assumption
    | apply State.retire_keeps
    | apply State.buildGraph_keeps
    | apply State.leaveCore_keeps
    | simp only [↓Keeps.updTrust]
    | split

theorem State.slFset_keeps {s0 s : State} (k : Nat) (rs1 : Nat) (h : Keeps s0 s) : Keeps s0 (State.slFset s k rs1) := by
  unfold State.slFset
  repeat' with_reducible first
    | assumption
    | apply State.setFlag_keeps
    | apply State.retire_keeps

theorem State.slFclr_keeps {s0 s : State} (k : Nat) (rs1 : Nat) (setToo : Bool) (h : Keeps s0 s) : Keeps s0 (State.slFclr s k rs1 setToo) := by
  unfold State.slFclr
  repeat' with_reducible first
    | assumption
    | apply State.clearFlag_keeps
    | apply State.retire_keeps

theorem State.slYield_keeps {s0 s : State} (k : Nat) (h : Keeps s0 s) : Keeps s0 (State.slYield s k) := by
  unfold State.slYield
  repeat' with_reducible first
    | assumption
    | apply State.passOn_keeps
    | apply State.retire_keeps

theorem State.slExit_keeps {s0 s : State} (k : Nat) (h : Keeps s0 s) : Keeps s0 (State.slExit s k) := by
  unfold State.slExit
  repeat' with_reducible first
    | assumption
    | (intro (x : State); apply Keeps.cut (s0 := s0) (x := x); rotate_left; intro hx; clear_value x; rotate_left; subst x)
    | apply State.leaveCore_keeps
    | apply State.modHart_keeps
    | apply State.modTask_keeps
    | apply State.flushTask_keeps
    | simp only [↓Keeps.updTrust]
    | split

theorem State.slTimel_keeps {s0 s : State} (k : Nat) (rd : Nat) (h : Keeps s0 s) : Keeps s0 (State.slTimel s k rd) := by
  unfold State.slTimel
  repeat' with_reducible first
    | assumption
    | apply State.retire_keeps
    | apply State.modHart_keeps

theorem State.slDig_keeps {s0 s : State} (k : Nat) (rs1 : Nat) (rs2 : Nat) (h : Keeps s0 s) : Keeps s0 (State.slDig s k rs1 rs2) := by
  unfold State.slDig
  repeat' with_reducible first
    | assumption
    | (intro (x : State); apply Keeps.cut (s0 := s0) (x := x); rotate_left; intro hx; clear_value x; rotate_left; subst x)
    | apply State.modTask_keeps
    | apply State.retire_keeps
    | split

theorem State.windowWrite_keeps {s0 s : State} (k : Nat) (a : Nat) (b : Bytes) (h : Keeps s0 s) : Keeps s0 (State.windowWrite s k a b) := by
  unfold State.windowWrite
  repeat' with_reducible first
    | assumption
    | apply State.faultAt_keeps
    | apply State.windowFault_keeps
    | apply State.retire_keeps
    | apply State.modSlice_keeps
    | simp only [↓Keeps.updTrust]
    | split

theorem State.slTsw_keeps {s0 s : State} (k : Nat) (rs1 : Nat) (rs2 : Nat) (h : Keeps s0 s) : Keeps s0 (State.slTsw s k rs1 rs2) := by
  unfold State.slTsw
  repeat' with_reducible first
    | assumption
    | apply State.windowWrite_keeps

theorem State.slVtsw_keeps {s0 s : State} (k : Nat) (rs1 : Nat) (vs3 : Nat) (h : Keeps s0 s) : Keeps s0 (State.slVtsw s k rs1 vs3) := by
  unfold State.slVtsw
  repeat' with_reducible first
    | assumption
    | apply State.windowWrite_keeps

theorem State.zalkai_keeps {s0 s : State} (k i : Nat) (ls : List LsEcc) (h : Keeps s0 s) : Keeps s0 (s.zalkai k i ls) := by
  unfold State.zalkai
  dsimp only
  repeat' with_reducible first
      | assumption
      | apply State.faultAt_keeps
      | apply State.slDmaq_keeps
      | apply State.slDmaw_keeps
      | apply State.slFwait_keeps
      | apply State.slFset_keeps
      | apply State.slFclr_keeps
      | apply State.slYield_keeps
      | apply State.slExit_keeps
      | apply State.slTimel_keeps
      | apply State.slTimeh_keeps
      | apply State.slDig_keeps
      | apply State.slTsw_keeps
      | apply State.slVtsw_keeps
      | split

theorem State.instr_keeps {s0 s : State} (k : Nat) (cyc : Cycles) (ls : List LsEcc) (win : Bool) (i len : Nat) (h : Keeps s0 s) :
    Keeps s0 (s.instr k cyc ls win i len) := by
  unfold State.instr
  extract_lets v
  have hv : Keeps s0 v.s := h
  clear_value v
  repeat' with_reducible first
    | assumption
    | apply State.faultAt_keeps
    | apply State.settleEx_keeps
    | apply Tv.exScalar_keeps
    | apply Tv.exVector_keeps
    | apply State.zalkai_keeps
    | apply State.retire_keeps
    | apply State.fenceI_keeps
    | apply State.csrOp_keeps
    | apply State.slYield_keeps
    | split

theorem execSlTimel_keeps {s0 s : State} (a0 : HartId) (cyc : Cycles) (rd : Fin 32) (h : Keeps s0 s) : NextKeeps s0 (execSlTimel a0 cyc rd s) := by
  unfold execSlTimel
  repeat' with_reducible first
    | assumption
    | apply done_keeps
    | apply State.thread_keeps
    | apply State.slTimel_keeps
    | intro a

theorem execSlFclr_keeps {s0 s : State} (a0 : HartId) (cyc : Cycles) (rs1 : Fin 32) (setToo : Bool) (h : Keeps s0 s) : NextKeeps s0 (execSlFclr a0 cyc rs1 setToo s) := by
  unfold execSlFclr
  repeat' with_reducible first
    | assumption
    | apply done_keeps
    | apply State.thread_keeps
    | apply State.slFclr_keeps
    | intro a

theorem execClusterModeChange_keeps {s0 s : State} (sl : SliceId) (cl : Fin 16) (direct : Bool) (by' : ProcId) (base : BitVec 3) (entry : Word) (h : Keeps s0 s) : NextKeeps s0 (execClusterModeChange sl cl direct by' base entry s) := by
  unfold execClusterModeChange
  repeat' with_reducible first
    | assumption
    | (intro (x : State); apply Keeps.cut (s0 := s0) (x := x); rotate_left; intro hx; clear_value x; rotate_left; subst x)
    | apply NextKeeps.next
    | apply done_keeps
    | apply State.modCluster_keeps
    | apply State.wakeHart_keeps
    | (apply Keeps.foldl; rotate_left; intro t x ht; rotate_left)
    | simp only [↓Keeps.updTrust]
    | split

theorem State.bindSlivers_keeps {s0 s : State} (n : Nat) (t : TaskSpec) (i : Nat) (h : Keeps s0 s) :
    Keeps s0 (State.bindSlivers s n t i).1 := by
  induction i with
  | zero => exact h
  | succ i ih =>
    simp only [State.bindSlivers]
    split
    · exact ih
    · exact State.draw_keeps ih
theorem State.bindSlivers_keeps_of {s0 s u : State} {n : Nat} {t : TaskSpec} {i : Nat} {l : List Nat}
    (e : State.bindSlivers s n t i = (u, l)) (h : Keeps s0 s) : Keeps s0 u := by
  have k := State.bindSlivers_keeps (s0 := s0) n t i h
  rw [e] at k
  exact k

theorem State.releaseThread_keeps {s0 s : State} (n : Nat) (t : TaskSpec) (a2 : TaskThread) (h : Keeps s0 s) : Keeps s0 (State.releaseThread s n t a2) := by
  unfold State.releaseThread
  repeat' with_reducible first
    | assumption
    | apply State.wakeHart_keeps
    | apply State.lsPut_keeps

theorem State.beginTask_keeps {s0 s : State} (n : Nat) (t : TaskSpec) (copyOf : Option Nat) (h : Keeps s0 s) : Keeps s0 (State.beginTask s n t copyOf) := by
  unfold State.beginTask
  repeat' with_reducible first
    | assumption
    | apply State.bindSlivers_keeps
    | refine State.bindSlivers_keeps_of (by assumption) ?_
    | apply State.releaseThread_keeps
    | (apply Keeps.foldl; rotate_left; intro t x ht; rotate_left)
    | simp only [↓Keeps.upd]

theorem execCycleBudgetExhausted_keeps {s0 s : State} (sl : SliceId) (task : Nat) (h : Keeps s0 s) : NextKeeps s0 (execCycleBudgetExhausted sl task s) := by
  unfold execCycleBudgetExhausted
  repeat' with_reducible first
    | assumption
    | apply NextKeeps.next
    | apply done_keeps
    | apply State.budgetFault_keeps
    | apply State.modTask_keeps
    | simp only [↓Keeps.updTrust]
    | split

theorem execMissRegisterExpiry_keeps {s0 s : State} (sl : SliceId) (cl : Fin 16) (slot : Fin 32) (h : Keeps s0 s) : NextKeeps s0 (execMissRegisterExpiry sl cl slot s) := by
  unfold execMissRegisterExpiry
  repeat' with_reducible first
    | assumption
    | apply NextKeeps.next
    | apply done_keeps
    | apply State.tagFault_keeps
    | apply State.freeMiss_keeps
    | apply State.advanceTo_keeps
    | simp only [↓Keeps.updTrust]
    | split

theorem execSlTimeh_keeps {s0 s : State} (a0 : HartId) (cyc : Cycles) (rd : Fin 32) (h : Keeps s0 s) : NextKeeps s0 (execSlTimeh a0 cyc rd s) := by
  unfold execSlTimeh
  repeat' with_reducible first
    | assumption
    | apply done_keeps
    | apply State.thread_keeps
    | apply State.slTimeh_keeps
    | intro a

theorem State.judge_keeps {s0 s : State} (a : Nat) (b : Nat) (h : Keeps s0 s) : Keeps s0 (State.judge s a b) := by
  unfold State.judge
  repeat' with_reducible first
    | assumption
    | apply State.modTask_keeps

theorem State.dualMismatch_keeps {s0 s : State} (n : Nat) (b : Task) (pc : Nat) (detail : Nat) (h : Keeps s0 s) : Keeps s0 (State.dualMismatch s n b pc detail) := by
  unfold State.dualMismatch
  repeat' with_reducible first
    | assumption
    | apply State.sliverCheck_keeps
    | apply State.count_keeps
    | apply State.setBlob_keeps

theorem execDualCompare_keeps {s0 s : State} (sl : SliceId) (task : Nat) (h : Keeps s0 s) : NextKeeps s0 (execDualCompare sl task s) := by
  unfold execDualCompare
  repeat' with_reducible first
    | assumption
    | apply NextKeeps.next
    | apply State.judge_keeps
    | apply done_keeps
    | apply State.count_keeps
    | apply State.dualMismatch_keeps
    | apply State.endJobFault_keeps
    | simp only [↓Keeps.updTrust]
    | split

theorem execSlFwait_keeps {s0 s : State} (a0 : HartId) (cyc : Cycles) (rs1 : Fin 32) (h : Keeps s0 s) : NextKeeps s0 (execSlFwait a0 cyc rs1 s) := by
  unfold execSlFwait
  repeat' with_reducible first
    | assumption
    | apply done_keeps
    | apply State.thread_keeps
    | apply State.slFwait_keeps
    | intro a

theorem execSlYield_keeps {s0 s : State} (a0 : HartId) (cyc : Cycles) (h : Keeps s0 s) : NextKeeps s0 (execSlYield a0 cyc s) := by
  unfold execSlYield
  repeat' with_reducible first
    | assumption
    | apply done_keeps
    | apply State.thread_keeps
    | apply State.slYield_keeps
    | intro a

theorem execFence_keeps {s0 s : State} (a0 : HartId) (cyc : Cycles) (h : Keeps s0 s) : NextKeeps s0 (execFence a0 cyc s) := by
  unfold execFence
  repeat' with_reducible first
    | assumption
    | apply done_keeps
    | apply State.thread_keeps
    | apply State.retire_keeps
    | intro a

theorem execCsrAccess_keeps {s0 s : State} (a0 : HartId) (cyc : Cycles) (w : Word) (h : Keeps s0 s) : NextKeeps s0 (execCsrAccess a0 cyc w s) := by
  unfold execCsrAccess
  repeat' with_reducible first
    | assumption
    | apply done_keeps
    | apply State.thread_keeps
    | apply State.csrOp_keeps
    | intro a

theorem execSlExit_keeps {s0 s : State} (a0 : HartId) (cyc : Cycles) (h : Keeps s0 s) : NextKeeps s0 (execSlExit a0 cyc s) := by
  unfold execSlExit
  repeat' with_reducible first
    | assumption
    | apply done_keeps
    | apply State.thread_keeps
    | apply State.slExit_keeps
    | intro a

theorem execSlTsw_keeps {s0 s : State} (a0 : HartId) (cyc : Cycles) (rs1 : Fin 32) (rs2 : Fin 32) (h : Keeps s0 s) : NextKeeps s0 (execSlTsw a0 cyc rs1 rs2 s) := by
  unfold execSlTsw
  repeat' with_reducible first
    | assumption
    | apply done_keeps
    | apply State.thread_keeps
    | apply State.slTsw_keeps
    | intro a

theorem execSlVtsw_keeps {s0 s : State} (a0 : HartId) (cyc : Cycles) (rs1 : Fin 32) (vs3 : Fin 32) (h : Keeps s0 s) : NextKeeps s0 (execSlVtsw a0 cyc rs1 vs3 s) := by
  unfold execSlVtsw
  repeat' with_reducible first
    | assumption
    | apply done_keeps
    | apply State.thread_keeps
    | apply State.slVtsw_keeps
    | intro a

theorem execSlDmaq_keeps {s0 s : State} (a0 : HartId) (cyc : Cycles) (rd : Fin 32) (r : DmaqRead) (h : Keeps s0 s) : NextKeeps s0 (execSlDmaq a0 cyc rd r s) := by
  unfold execSlDmaq
  repeat' with_reducible first
    | assumption
    | apply done_keeps
    | apply State.thread_keeps
    | apply State.slDmaq_keeps
    | intro a

theorem execSlFset_keeps {s0 s : State} (a0 : HartId) (cyc : Cycles) (rs1 : Fin 32) (h : Keeps s0 s) : NextKeeps s0 (execSlFset a0 cyc rs1 s) := by
  unfold execSlFset
  repeat' with_reducible first
    | assumption
    | apply done_keeps
    | apply State.thread_keeps
    | apply State.slFset_keeps
    | intro a

theorem execSlvClear_keeps {s0 s : State} (sl : SliceId) (w : CmdW) (h : Keeps s0 s) : NextKeeps s0 (execSlvClear sl w s) := by
  unfold execSlvClear
  repeat' with_reducible first
    | assumption
    | apply done_keeps
    | apply State.hostWrite_keeps
    | apply clearRule_keeps

theorem execSliverInstruction_keeps {s0 s : State} (a0 : HartId) (cyc : Cycles) (ls : List LsEcc) (h : Keeps s0 s) : NextKeeps s0 (execSliverInstruction a0 cyc ls s) := by
  unfold execSliverInstruction
  repeat' with_reducible first
    | assumption
    | apply NextKeeps.next
    | apply done_keeps
    | apply State.thread_keeps
    | apply State.faultAt_keeps
    | apply State.instr_keeps
    | split
    | intro a

theorem execSlDmaw_keeps {s0 s : State} (a0 : HartId) (cyc : Cycles) (rs1 : Fin 32) (h : Keeps s0 s) : NextKeeps s0 (execSlDmaw a0 cyc rs1 s) := by
  unfold execSlDmaw
  repeat' with_reducible first
    | assumption
    | apply done_keeps
    | apply State.thread_keeps
    | apply State.slDmaw_keeps
    | intro a

theorem execSlDig_keeps {s0 s : State} (a0 : HartId) (cyc : Cycles) (rs1 : Fin 32) (rs2 : Fin 32) (h : Keeps s0 s) : NextKeeps s0 (execSlDig a0 cyc rs1 rs2 s) := by
  unfold execSlDig
  repeat' with_reducible first
    | assumption
    | apply done_keeps
    | apply State.thread_keeps
    | apply State.slDig_keeps
    | intro a

theorem execSliverTaskStart_keeps {s0 s : State} (sl : SliceId) (t : TaskSpec) (h : Keeps s0 s) : NextKeeps s0 (execSliverTaskStart sl t s) := by
  unfold execSliverTaskStart
  repeat' with_reducible first
    | assumption
    | (intro (x : State); apply Keeps.cut (s0 := s0) (x := x); rotate_left; intro hx; clear_value x; rotate_left; subst x)
    | apply NextKeeps.next
    | apply done_keeps
    | apply State.endJobFault_keeps
    | apply State.beginTask_keeps
    | apply State.count_keeps
    | simp only [↓Keeps.updTrust]
    | split

theorem execWindowLoad_keeps {s0 s : State} (a0 : HartId) (r : WindowRead) (h : Keeps s0 s) : NextKeeps s0 (execWindowLoad a0 r s) := by
  unfold execWindowLoad
  repeat' with_reducible first
    | assumption
    | (intro (x : State); apply Keeps.cut (s0 := s0) (x := x); rotate_left; intro hx; clear_value x; rotate_left; subst x)
    | apply NextKeeps.next
    | apply State.modHart_keeps
    | apply State.thread_keeps
    | apply State.instr_keeps
    | apply done_keeps
    | apply State.eccReads_keeps
    | simp only [↓Keeps.updTrust]
    | split
    | intro a

theorem execFenceI_keeps {s0 s : State} (a0 : HartId) (cyc : Cycles) (h : Keeps s0 s) : NextKeeps s0 (execFenceI a0 cyc s) := by
  unfold execFenceI
  repeat' with_reducible first
    | assumption
    | apply done_keeps
    | apply State.thread_keeps
    | apply State.fenceI_keeps
    | intro a

theorem execWfi_keeps {s0 s : State} (a0 : HartId) (cyc : Cycles) (h : Keeps s0 s) : NextKeeps s0 (execWfi a0 cyc s) := by
  unfold execWfi
  repeat' with_reducible first
    | assumption
    | apply done_keeps
    | apply State.thread_keeps
    | apply State.slYield_keeps
    | intro a

theorem State.finishReq_keeps {s0 s : State} (ch : Nat) (good : Bool) (q : SortReq) (h : Keeps s0 s) : Keeps s0 (State.finishReq s ch good q) := by
  unfold State.finishReq
  repeat' with_reducible first
    | assumption
    | (intro (x : State); apply Keeps.cut (s0 := s0) (x := x); rotate_left; intro hx; clear_value x; rotate_left; subst x)
    | apply State.dmaDone_keeps
    | apply State.retireReq_keeps
    | apply State.poison_keeps
    | apply State.missDone_keeps
    | simp only [↓Keeps.updTrust]
    | split

theorem State.burstData_keeps {s0 s : State} (ch : Nat) (r : SortReq) (ecc : MemErr) (h : Keeps s0 s) : Keeps s0 (State.burstData s ch r ecc) := by
  unfold State.burstData
  repeat' with_reducible first
    | assumption
    | apply State.access_keeps
    | refine State.access_keeps_of (by assumption) ?_
    | apply State.finishReq_keeps
    | apply State.writeBytes_keeps
    | (apply Keeps.foldl; rotate_left; intro t x ht; rotate_left)
    | split

theorem execDescriptorComplete_keeps {s0 s : State} (sl : SliceId) (out : Bool) (h : Keeps s0 s) : NextKeeps s0 (execDescriptorComplete sl out s) := by
  unfold execDescriptorComplete
  repeat' with_reducible first
    | assumption
    | apply NextKeeps.next
    | apply State.modStore_keeps
    | apply State.count_keeps
    | apply State.setFlag_keeps
    | apply done_keeps
    | apply State.runClusters_keeps
    | simp only [↓Keeps.updTrust]
    | split

theorem execBurstComplete_keeps {s0 s : State} (ch : ChanId) (id : Nat) (e : BurstEnd) (h : Keeps s0 s) : NextKeeps s0 (execBurstComplete ch id e s) := by
  unfold execBurstComplete
  repeat' with_reducible first
    | assumption
    | apply NextKeeps.next
    | apply done_keeps
    | apply State.burstData_keeps
    | apply State.retireChannel_keeps
    | apply State.count_keeps
    | apply State.modReq_keeps
    | apply State.retrain_keeps
    | split

theorem State.openRings_keeps {s0 s t : State} {n : Nat} (q : s.openRings n = some t) (h : Keeps s0 s) : Keeps s0 t := by
  unfold State.openRings at q
  extract_lets d at q
  split at q
  · simp at q
  · rename_i a u e
    have hu := State.alloc_keeps e h
    clear e
    split at q
    · simp at q
    · rename_i b w e
      have hw := State.alloc_keeps e hu
      clear e
      simp only [Option.some.injEq] at q
      subst q
      repeat' with_reducible first
      | assumption
      | apply State.setNum_keeps
      | apply State.writeByte_keeps
      | apply State.modQueue_keeps
      | (apply Keeps.foldl; rotate_left; intro t x ht; rotate_left)
      | simp only [↓Keeps.upd]

theorem State.closeRings_keeps {s0 s : State} (q : Nat) (h : Keeps s0 s) : Keeps s0 (State.closeRings s q) := by
  unfold State.closeRings
  repeat' with_reducible first
    | assumption
    | (intro (x : State); apply Keeps.cut (s0 := s0) (x := x); rotate_left; intro hx; clear_value x; rotate_left; subst x)
    | apply State.freeRun_keeps
    | apply State.modQueue_keeps
    | apply State.setNum_keeps
    | simp only [↓Keeps.upd]

theorem qEnableRule_keeps {s0 : State} (q : Nat) : RuleKeeps s0 (qEnableRule q) := by
  unfold qEnableRule
  repeat' with_reducible first
    | assumption
    | (apply RuleKeeps.cmd; intro s a hs)
    | refine State.openRings_keeps (by assumption) ?_
    | apply State.closeRings_keeps
    | (apply Keeps.getD; rotate_left; intro t ht; rotate_left)
    | split

theorem qDepthRule_keeps {s0 : State} (q : Nat) : RuleKeeps s0 (qDepthRule q) := by
  unfold qDepthRule
  repeat' with_reducible first
    | assumption
    | (apply RuleKeeps.intro; intro s a hs; dsimp only)
    | apply State.setVal_keeps

theorem State.setOpen_keeps {s0 s : State} (l : Option (List (Nat × Val))) (h : Keeps s0 s) : Keeps s0 (State.setOpen s l) := by
  unfold State.setOpen
  repeat' with_reducible first
    | assumption
    | simp only [↓Keeps.upd]

theorem epochCommitRule_keeps {s0 : State} : RuleKeeps s0 (epochCommitRule) := by
  unfold epochCommitRule
  repeat' with_reducible first
    | assumption
    | (apply RuleKeeps.cmd; intro s a hs)
    | apply State.commitEpoch_keeps
    | apply State.setOpen_keeps
    | split

theorem execEpochCommit_keeps {s0 s : State} (w : CmdW) (h : Keeps s0 s) : NextKeeps s0 (execEpochCommit w s) := by
  unfold execEpochCommit
  repeat' with_reducible first
    | assumption
    | apply NextKeeps.next
    | apply done_keeps
    | apply State.hostWrite_keeps
    | apply epochCommitRule_keeps

theorem epochOpenRule_keeps {s0 : State} : RuleKeeps s0 (epochOpenRule) := by
  unfold epochOpenRule
  repeat' with_reducible first
    | assumption
    | (apply RuleKeeps.cmd; intro s a hs)
    | apply State.setOpen_keeps

theorem flagClrRule_keeps {s0 : State} (setToo : Bool) : RuleKeeps s0 (flagClrRule setToo) := by
  unfold flagClrRule
  repeat' with_reducible first
    | assumption
    | (apply RuleKeeps.cmd; intro s a hs)
    | apply State.clearFlag_keeps

theorem flagSetRule_keeps {s0 : State} : RuleKeeps s0 (flagSetRule) := by
  unfold flagSetRule
  repeat' with_reducible first
    | assumption
    | (apply RuleKeeps.cmd; intro s a hs)
    | apply State.setFlag_keeps

theorem execQDepth_keeps {s0 s : State} (q : QueueId) (w : CmdW) (h : Keeps s0 s) : NextKeeps s0 (execQDepth q w s) := by
  unfold execQDepth
  repeat' with_reducible first
    | assumption
    | apply NextKeeps.next
    | apply done_keeps
    | apply State.hostWrite_keeps
    | apply qDepthRule_keeps

theorem execEpochOpen_keeps {s0 s : State} (w : CmdW) (h : Keeps s0 s) : NextKeeps s0 (execEpochOpen w s) := by
  unfold execEpochOpen
  repeat' with_reducible first
    | assumption
    | apply NextKeeps.next
    | apply done_keeps
    | apply State.hostWrite_keeps
    | apply epochOpenRule_keeps

theorem execFlagSetCmd_keeps {s0 s : State} (w : CmdW) (h : Keeps s0 s) : NextKeeps s0 (execFlagSetCmd w s) := by
  unfold execFlagSetCmd
  repeat' with_reducible first
    | assumption
    | apply done_keeps
    | apply State.hostWrite_keeps
    | apply flagSetRule_keeps

theorem execEpochStreamSilent_keeps {s0 s : State} (st : StreamId) (h : Keeps s0 s) : NextKeeps s0 (execEpochStreamSilent st s) := by
  unfold execEpochStreamSilent
  repeat' with_reducible first
    | assumption
    | apply NextKeeps.next
    | apply done_keeps
    | apply State.epochForget_keeps
    | apply State.advanceTo_keeps
    | split

theorem execQEnable_keeps {s0 s : State} (q : QueueId) (w : CmdW) (h : Keeps s0 s) : NextKeeps s0 (execQEnable q w s) := by
  unfold execQEnable
  repeat' with_reducible first
    | assumption
    | apply NextKeeps.next
    | apply done_keeps
    | apply State.hostWrite_keeps
    | apply qEnableRule_keeps

theorem execFlagClrCmd_keeps {s0 s : State} (w : CmdW) (setToo : Bool) (h : Keeps s0 s) : NextKeeps s0 (execFlagClrCmd w setToo s) := by
  unfold execFlagClrCmd
  repeat' with_reducible first
    | assumption
    | apply done_keeps
    | apply State.hostWrite_keeps
    | apply flagClrRule_keeps

theorem epochDiscardRule_keeps {s0 : State} : RuleKeeps s0 (epochDiscardRule) := by
  unfold epochDiscardRule
  repeat' with_reducible first
    | assumption
    | (apply RuleKeeps.cmd; intro s a hs)
    | apply State.setOpen_keeps

theorem execEpochDiscard_keeps {s0 s : State} (w : CmdW) (h : Keeps s0 s) : NextKeeps s0 (execEpochDiscard w s) := by
  unfold execEpochDiscard
  repeat' with_reducible first
    | assumption
    | apply NextKeeps.next
    | apply done_keeps
    | apply State.hostWrite_keeps
    | apply epochDiscardRule_keeps

theorem State.leaveBus_keeps {s0 s : State} (bus : Nat) (n : Nat) (h : Keeps s0 s) : Keeps s0 (State.leaveBus s bus n) := by
  unfold State.leaveBus
  repeat' with_reducible first
    | assumption
    | simp only [↓Keeps.upd]

theorem State.failI2c_keeps {s0 s : State} (bus : Nat) (n : Nat) (h : Keeps s0 s) : Keeps s0 (State.failI2c s bus n) := by
  unfold State.failI2c
  repeat' with_reducible first
    | assumption
    | (intro (x : State); apply Keeps.cut (s0 := s0) (x := x); rotate_left; intro hx; clear_value x; rotate_left; subst x)
    | apply State.count_keeps
    | apply State.modRaw_keeps
    | apply State.leaveBus_keeps
    | apply State.postEvent_keeps
    | simp only [↓Keeps.updTrust]
    | split

theorem State.commitGen_keeps {s0 s : State} (n : Nat) (h : Keeps s0 s) : Keeps s0 (State.commitGen s n) := by
  unfold State.commitGen
  repeat' with_reducible first
    | assumption
    | apply State.modRaw_keeps
    | apply State.setNum_keeps
    | apply State.postEvent_keeps
    | split

theorem State.endI2c_keeps {s0 s : State} (bus : Nat) (n : Nat) (h : Keeps s0 s) : Keeps s0 (State.endI2c s bus n) := by
  unfold State.endI2c
  repeat' with_reducible first
    | assumption
    | (intro (x : State); apply Keeps.cut (s0 := s0) (x := x); rotate_left; intro hx; clear_value x; rotate_left; subst x)
    | apply State.modRaw_keeps
    | apply State.leaveBus_keeps
    | apply State.commitGen_keeps
    | simp only [↓Keeps.upd]
    | split

theorem execI2cTransaction_keeps {s0 s : State} (bus : Fin 8) (acked : Bool) (stretchUs : Nat) (tookUs : Nat) (h : Keeps s0 s) : NextKeeps s0 (execI2cTransaction bus acked stretchUs tookUs s) := by
  unfold execI2cTransaction
  repeat' with_reducible first
    | assumption
    | apply NextKeeps.next
    | apply done_keeps
    | apply State.failI2c_keeps
    | apply State.endI2c_keeps
    | split

theorem State.requestExposure_keeps {s0 s : State} (n : Nat) (expo : Nat) (gain : Nat) (h : Keeps s0 s) : Keeps s0 (State.requestExposure s n expo gain) := by
  unfold State.requestExposure
  repeat' with_reducible first
    | assumption
    | (intro (x : State); apply Keeps.cut (s0 := s0) (x := x); rotate_left; intro hx; clear_value x; rotate_left; subst x)
    | apply State.count_keeps
    | apply State.modRaw_keeps
    | split

theorem expoReqRule_keeps {s0 : State} (n : Nat) : RuleKeeps s0 (expoReqRule n) := by
  unfold expoReqRule
  repeat' with_reducible first
    | assumption
    | (apply RuleKeeps.intro; intro s a hs; dsimp only)
    | apply State.requestExposure_keeps
    | split

theorem State.endClip_keeps {s0 s : State} (n : Nat) (status : Nat) (h : Keeps s0 s) : Keeps s0 (State.endClip s n status) := by
  unfold State.endClip
  repeat' with_reducible first
    | assumption
    | apply State.modStream_keeps

theorem State.clipFrame_keeps {s0 s : State} (n : Nat) (sof : Nat) (sofMono : Nat) (h : Keeps s0 s) : Keeps s0 (State.clipFrame s n sof sofMono) := by
  unfold State.clipFrame
  repeat' with_reducible first
    | assumption
    | apply State.draw_keeps
    | refine State.draw_keeps_of (by assumption) ?_
    | apply State.endClip_keeps
    | apply State.writeBytes_keeps
    | apply State.modStream_keeps
    | simp only [↓Keeps.updTrust]
    | split

theorem State.written_keeps {s0 s : State} (n : Nat) (sof : Nat) (sofMono : Nat) (h : Keeps s0 s) : Keeps s0 (State.written s n sof sofMono) := by
  unfold State.written
  repeat' with_reducible first
    | assumption
    | (intro (x : State); apply Keeps.cut (s0 := s0) (x := x); rotate_left; intro hx; clear_value x; rotate_left; subst x)
    | apply State.clipFrame_keeps
    | simp only [↓Keeps.upd]

theorem State.writeSet_keeps {s0 s : State} (n : Nat) (f : Frame) (rec' : Bytes) (h : Keeps s0 s) : Keeps s0 (State.writeSet s n f rec') := by
  unfold State.writeSet
  repeat' with_reducible first
    | assumption
    | apply State.draw_keeps
    | refine State.draw_keeps_of (by assumption) ?_
    | apply State.written_keeps
    | apply State.writeBytes_keeps
    | split

theorem State.nextGen_keeps {s0 s t : State} {n : Nat} {g : Gen} (q : s.nextGen n = some (g, t)) (h : Keeps s0 s) :
    Keeps s0 t := by
  unfold State.nextGen at q
  extract_lets r at q
  split at q
  · simp only [Option.some.injEq, Prod.mk.injEq] at q
    exact q.2 ▸ h
  · simp only [Option.some.injEq, Prod.mk.injEq] at q
    obtain ⟨-, rfl⟩ := q
    exact State.modRaw_keeps _ _ h
  · split at q
    · simp at q
    · simp only [Option.some.injEq, Prod.mk.injEq] at q
      obtain ⟨-, rfl⟩ := q
      exact State.draw_keeps (State.draw_keeps h)

theorem execGenerationWriteStart_keeps {s0 s : State} (st : StreamId) (estUs : Nat) (untilFrameUs : Nat) (h : Keeps s0 s) : NextKeeps s0 (execGenerationWriteStart st estUs untilFrameUs s) := by
  unfold execGenerationWriteStart
  repeat' with_reducible first
    | assumption
    | apply NextKeeps.next
    | apply done_keeps
    | refine State.nextGen_keeps (by assumption) ?_
    | apply State.modRaw_keeps
    | simp only [↓Keeps.upd]
    | split

theorem State.freeSpill_keeps {s0 s : State} (n : Nat) (h : Keeps s0 s) : Keeps s0 (State.freeSpill s n) := by
  unfold State.freeSpill
  repeat' with_reducible first
    | assumption
    | (intro (x : State); apply Keeps.cut (s0 := s0) (x := x); rotate_left; intro hx; clear_value x; rotate_left; subst x)
    | apply State.freeRun_keeps
    | apply State.modRaw_keeps
    | split

theorem State.truncate_keeps {s0 s : State} (n : Nat) (cause : Nat) (h : Keeps s0 s) : Keeps s0 (State.truncate s n cause) := by
  unfold State.truncate
  repeat' with_reducible first
    | assumption
    | apply State.freeSet_keeps
    | apply State.modStream_keeps
    | apply State.draw_keeps
    | refine State.draw_keeps_of (by assumption) ?_
    | apply State.setBlob_keeps
    | apply State.noteDrop_keeps
    | apply State.postEvent_keeps
    | apply State.count_keeps
    | simp only [↓Keeps.upd]
    | split

theorem execFrameTimeout_keeps {s0 s : State} (st : StreamId) (h : Keeps s0 s) : NextKeeps s0 (execFrameTimeout st s) := by
  unfold execFrameTimeout
  repeat' with_reducible first
    | assumption
    | apply NextKeeps.next
    | apply done_keeps
    | apply State.truncate_keeps
    | apply State.advanceTo_keeps
    | split

theorem sensorRetryRule_keeps {s0 : State} (n : Nat) : RuleKeeps s0 (sensorRetryRule n) := by
  unfold sensorRetryRule
  repeat' with_reducible first
    | assumption
    | (apply RuleKeeps.cmd; intro s a hs)
    | apply State.modRaw_keeps

theorem execSensorRetry_keeps {s0 s : State} (st : StreamId) (w : CmdW) (h : Keeps s0 s) : NextKeeps s0 (execSensorRetry st w s) := by
  unfold execSensorRetry
  repeat' with_reducible first
    | assumption
    | apply NextKeeps.next
    | apply done_keeps
    | apply State.hostWrite_keeps
    | apply sensorRetryRule_keeps

theorem badPkt_keeps {s0 s : State} (p : Nat) (h : Keeps s0 s) : Keeps s0 (badPkt s p) := by
  unfold badPkt
  repeat' with_reducible first
    | assumption
    | apply State.count_keeps

theorem State.declareFrozen_keeps {s0 s : State} (n : Nat) (number : Nat) (det : Nat) (h : Keeps s0 s) : Keeps s0 (State.declareFrozen s n number det) := by
  unfold State.declareFrozen
  repeat' with_reducible first
    | assumption
    | (intro (x : State); apply Keeps.cut (s0 := s0) (x := x); rotate_left; intro hx; clear_value x; rotate_left; subst x)
    | apply State.invalidate_keeps
    | apply State.modStream_keeps
    | apply State.postEvent_keeps
    | apply State.count_keeps

theorem State.detectRaw_keeps {s0 s : State} (n : Nat) (f : Frame) (h : Keeps s0 s) : Keeps s0 (State.detectRaw s n f) := by
  unfold State.detectRaw
  repeat' with_reducible first
    | assumption
    | (intro (x : State); apply Keeps.cut (s0 := s0) (x := x); rotate_left; intro hx; clear_value x; rotate_left; subst x)
    | apply State.modRaw_keeps
    | apply State.modStream_keeps
    | apply State.declareFrozen_keeps
    | simp only [↓Keeps.updTrust]
    | split

theorem State.endFrame_keeps {s0 s : State} (n : Nat) (f : Frame) (h : Keeps s0 s) : Keeps s0 (State.endFrame s n f) := by
  unfold State.endFrame
  repeat' with_reducible first
    | assumption
    | (intro (x : State); apply Keeps.cut (s0 := s0) (x := x); rotate_left; intro hx; clear_value x; rotate_left; subst x)
    | apply State.modRaw_keeps
    | apply State.detectRaw_keeps
    | apply State.dropFrame_keeps
    | simp only [↓Keeps.upd]
    | split

theorem execCsiFrameEnd_keeps {s0 s : State} (p : CsiPort) (vc : Nat) (h : Keeps s0 s) : NextKeeps s0 (execCsiFrameEnd p vc s) := by
  unfold execCsiFrameEnd
  repeat' with_reducible first
    | assumption
    | apply NextKeeps.next
    | apply badPkt_keeps
    | apply done_keeps
    | apply State.truncate_keeps
    | apply State.endFrame_keeps
    | apply State.modRaw_keeps
    | simp only [↓Keeps.updTrust]
    | split

theorem State.seat_keeps {s0 s : State} (k n : Nat) (h : Keeps s0 s) : Keeps s0 (State.seat k n s) := by
  induction k generalizing n s with
  | zero => exact h
  | succ k ih =>
    simp only [State.seat]
    repeat' with_reducible first
      | assumption
      | apply ih
      | apply State.modRaw_keeps
      | apply State.dropFrame_keeps
      | apply State.count_keeps
      | simp only [↓Keeps.upd]
      | split

theorem State.stopRaw_keeps {s0 s : State} (n : Nat) (h : Keeps s0 s) : Keeps s0 (State.stopRaw s n) := by
  unfold State.stopRaw
  repeat' with_reducible first
    | assumption
    | (intro (x : State); apply Keeps.cut (s0 := s0) (x := x); rotate_left; intro hx; clear_value x; rotate_left; subst x)
    | apply State.endClip_keeps
    | apply State.setNum_keeps
    | apply State.freeSet_keeps
    | apply State.modStream_keeps
    | apply State.freeSpill_keeps
    | apply State.epochForget_keeps
    | (apply Keeps.foldl; rotate_left; intro t x ht; rotate_left)
    | simp only [↓Keeps.upd]

theorem State.startRaw_keeps {s0 s : State} (n : Nat) (h : Keeps s0 s) : Keeps s0 (State.startRaw s n) := by
  unfold State.startRaw
  repeat' with_reducible first
    | assumption
    | refine State.alloc_keeps (by assumption) ?_
    | apply State.modStream_keeps
    | apply State.clearObj_keeps
    | simp only [↓Keeps.upd]
    | split

theorem State.exposureLoop_keeps {s0 s : State} (n : Nat) (f : Frame) (rec' : Bytes) (h : Keeps s0 s) : Keeps s0 (State.exposureLoop s n f rec') := by
  unfold State.exposureLoop
  repeat' with_reducible first
    | assumption
    | apply State.draw_keeps
    | refine State.draw_keeps_of (by assumption) ?_
    | apply State.requestExposure_keeps
    | simp only [↓Keeps.updTrust]
    | split

theorem execExpoReq_keeps {s0 s : State} (st : StreamId) (w : CmdW) (h : Keeps s0 s) : NextKeeps s0 (execExpoReq st w s) := by
  unfold execExpoReq
  repeat' with_reducible first
    | assumption
    | apply NextKeeps.next
    | apply done_keeps
    | apply State.hostWrite_keeps
    | apply expoReqRule_keeps

theorem rawEnableRule_keeps {s0 : State} (n : Nat) : RuleKeeps s0 (rawEnableRule n) := by
  unfold rawEnableRule
  repeat' with_reducible first
    | assumption
    | (apply RuleKeeps.intro; intro s a hs; dsimp only)
    | apply State.startRaw_keeps
    | apply State.setNum_keeps
    | apply State.stopRaw_keeps
    | split

theorem execRawEnable_keeps {s0 s : State} (st : StreamId) (w : CmdW) (h : Keeps s0 s) : NextKeeps s0 (execRawEnable st w s) := by
  unfold execRawEnable
  repeat' with_reducible first
    | assumption
    | apply done_keeps
    | apply State.hostWrite_keeps
    | apply rawEnableRule_keeps

theorem execFsyncPulse_keeps {s0 s : State} (k : Fin 8) (h : Keeps s0 s) : NextKeeps s0 (execFsyncPulse k s) := by
  unfold execFsyncPulse
  repeat' with_reducible first
    | assumption
    | (intro (x : State); apply Keeps.cut (s0 := s0) (x := x); rotate_left; intro hx; clear_value x; rotate_left; subst x)
    | apply NextKeeps.next
    | apply done_keeps
    | apply State.advanceTo_keeps
    | apply State.count_keeps
    | simp only [↓Keeps.upd]
    | split

theorem State.takeLine_keeps {s0 s : State} (n : Nat) (e : Nat) (f : Frame) (samples : List Nat) (h : Keeps s0 s) : Keeps s0 (State.takeLine s n e f samples) := by
  unfold State.takeLine
  repeat' with_reducible first
    | assumption
    | apply State.truncate_keeps
    | apply State.modRaw_keeps
    | simp only [↓Keeps.updTrust]
    | split

theorem execCsiLinePacket_keeps {s0 s : State} (p : CsiPort) (vc : Nat) (dt : Byte) (samples : List Nat) (chk : PktCheck) (h : Keeps s0 s) : NextKeeps s0 (execCsiLinePacket p vc dt samples chk s) := by
  unfold execCsiLinePacket
  repeat' with_reducible first
    | assumption
    | apply NextKeeps.next
    | apply done_keeps
    | apply badPkt_keeps
    | apply State.truncate_keeps
    | apply State.takeLine_keeps
    | split

theorem State.startFrame_keeps {s0 s : State} (n fn : Nat) (h : Keeps s0 s) : Keeps s0 (s.startFrame n fn) := by
  unfold State.startFrame
  dsimp only
  repeat' with_reducible first
      | assumption
      | apply State.settleAffinity_keeps
      | apply State.meridian_keeps
      | apply State.modStream_keeps
      | apply State.count_keeps
      | apply State.modRaw_keeps
      | apply State.dropFrame_keeps
      | apply State.seat_keeps
      | split

theorem execCsiFrameStart_keeps {s0 s : State} (p : CsiPort) (vc : Nat) (fn : BitVec 16) (h : Keeps s0 s) : NextKeeps s0 (execCsiFrameStart p vc fn s) := by
  unfold execCsiFrameStart
  repeat' with_reducible first
    | assumption
    | apply NextKeeps.next
    | apply badPkt_keeps
    | apply State.truncate_keeps
    | apply done_keeps
    | apply State.startFrame_keeps
    | apply State.modRaw_keeps
    | split

theorem execSpillStart_keeps {s0 s : State} (pipe : Fin 2) (h : Keeps s0 s) : NextKeeps s0 (execSpillStart pipe s) := by
  unfold execSpillStart
  repeat' with_reducible first
    | assumption
    | apply NextKeeps.next
    | apply done_keeps
    | apply State.modRaw_keeps
    | simp only [↓Keeps.upd]
    | split

theorem execIspFrameDone_keeps {s0 s : State} (pipe : Fin 2) (h : Keeps s0 s) : NextKeeps s0 (execIspFrameDone pipe s) := by
  unfold execIspFrameDone
  repeat' with_reducible first
    | assumption
    | apply NextKeeps.next
    | apply done_keeps
    | apply State.freeSpill_keeps
    | apply State.freeSet_keeps
    | apply State.draw_keeps
    | refine State.draw_keeps_of (by assumption) ?_
    | apply State.setBlob_keeps
    | apply State.writeSet_keeps
    | apply State.exposureLoop_keeps
    | apply State.modStream_keeps
    | apply State.noteDrop_keeps
    | simp only [↓Keeps.upd]
    | split

theorem State.endReset_keeps {s0 s : State} (n : Nat) (h : Keeps s0 s) : Keeps s0 (State.endReset s n) := by
  unfold State.endReset
  repeat' with_reducible first
    | assumption
    | (intro (x : State); apply Keeps.cut (s0 := s0) (x := x); rotate_left; intro hx; clear_value x; rotate_left; subst x)
    | apply State.modSlice_keeps
    | apply State.nextReset_keeps
    | apply State.postEvent_keeps
    | split

theorem State.passTest_keeps {s0 s : State} (n : Nat) (h : Keeps s0 s) : Keeps s0 (State.passTest s n) := by
  unfold State.passTest
  repeat' with_reducible first
    | assumption
    | (intro (x : State); apply Keeps.cut (s0 := s0) (x := x); rotate_left; intro hx; clear_value x; rotate_left; subst x)
    | apply State.count_keeps
    | apply State.modGolden_keeps
    | apply State.postEvent_keeps
    | apply State.endReset_keeps
    | apply State.strike_keeps
    | simp only [↓Keeps.updTrust]
    | split

theorem State.postOpen_keeps {s0 s : State} (scope : Nat) (unit : Nat) (h : Keeps s0 s) : Keeps s0 (State.postOpen s scope unit) := by
  unfold State.postOpen
  repeat' with_reducible first
    | assumption
    | apply State.draw_keeps
    | refine State.draw_keeps_of (by assumption) ?_
    | apply State.postFault_keeps

theorem safeForceRule_keeps {s0 : State} : RuleKeeps s0 (safeForceRule) := by
  unfold safeForceRule
  repeat' with_reducible first
    | assumption
    | (apply RuleKeeps.cmd; intro s a hs)
    | apply State.enterCause_keeps
    | apply State.leaveCause_keeps
    | split

theorem execSafeForceEnter_keeps {s0 s : State} (w : CmdW) (h : Keeps s0 s) : NextKeeps s0 (execSafeForceEnter w s) := by
  unfold execSafeForceEnter
  repeat' with_reducible first
    | assumption
    | apply done_keeps
    | apply State.hostWrite_keeps
    | apply safeForceRule_keeps

theorem execDeadlineExpiry_keeps {s0 s : State} (st : StreamId) (h : Keeps s0 s) : NextKeeps s0 (execDeadlineExpiry st s) := by
  unfold execDeadlineExpiry
  repeat' with_reducible first
    | assumption
    | apply NextKeeps.next
    | apply State.advanceTo_keeps
    | apply done_keeps
    | apply State.decideFrame_keeps
    | split

theorem execCause0Release_keeps {s0 s : State} (h : Keeps s0 s) : NextKeeps s0 (execCause0Release s) := by
  unfold execCause0Release
  repeat' with_reducible first
    | assumption
    | (intro (x : State); apply Keeps.cut (s0 := s0) (x := x); rotate_left; intro hx; clear_value x; rotate_left; subst x)
    | apply NextKeeps.next
    | apply State.setNum_keeps
    | apply State.leaveCause_keeps
    | apply done_keeps
    | apply State.postEvent_keeps
    | simp only [↓Keeps.upd]
    | split

theorem execStaleExpiry_keeps {s0 s : State} (st : StreamId) (h : Keeps s0 s) : NextKeeps s0 (execStaleExpiry st s) := by
  unfold execStaleExpiry
  repeat' with_reducible first
    | assumption
    | apply NextKeeps.next
    | apply done_keeps
    | apply State.invalidate_keeps
    | apply State.advanceTo_keeps
    | simp only [↓Keeps.updTrust]
    | split

theorem execCoverageLapse_keeps {s0 s : State} (sl : SliceId) (h : Keeps s0 s) : NextKeeps s0 (execCoverageLapse sl s) := by
  unfold execCoverageLapse
  repeat' with_reducible first
    | assumption
    | (intro (x : State); apply Keeps.cut (s0 := s0) (x := x); rotate_left; intro hx; clear_value x; rotate_left; subst x)
    | apply NextKeeps.next
    | apply State.advanceTo_keeps
    | apply State.count_keeps
    | apply State.modGolden_keeps
    | apply done_keeps
    | apply State.postEvent_keeps
    | simp only [↓Keeps.updTrust]
    | split

theorem State.failTest_keeps {s0 s : State} (n : Nat) (h : Keeps s0 s) : Keeps s0 (State.failTest s n) := by
  unfold State.failTest
  repeat' with_reducible first
    | assumption
    | (intro (x : State); apply Keeps.cut (s0 := s0) (x := x); rotate_left; intro hx; clear_value x; rotate_left; subst x)
    | apply State.count_keeps
    | apply State.retireSlice_keeps
    | apply State.modGolden_keeps
    | simp only [↓Keeps.updTrust]
    | split

theorem execGoldenTestEnd_keeps {s0 s : State} (sl : SliceId) (pass : Bool) (h : Keeps s0 s) : NextKeeps s0 (execGoldenTestEnd sl pass s) := by
  unfold execGoldenTestEnd
  repeat' with_reducible first
    | assumption
    | apply NextKeeps.next
    | apply done_keeps
    | apply State.passTest_keeps
    | apply State.failTest_keeps
    | simp only [↓Keeps.updTrust]
    | split

theorem execGoldenTestDue_keeps {s0 s : State} (sl : SliceId) (h : Keeps s0 s) : NextKeeps s0 (execGoldenTestDue sl s) := by
  unfold execGoldenTestDue
  repeat' with_reducible first
    | assumption
    | (intro (x : State); apply Keeps.cut (s0 := s0) (x := x); rotate_left; intro hx; clear_value x; rotate_left; subst x)
    | apply NextKeeps.next
    | apply done_keeps
    | apply State.advanceTo_keeps
    | apply State.modGolden_keeps
    | simp only [↓Keeps.updTrust]
    | split

theorem execGoldenTestOverdue_keeps {s0 s : State} (sl : SliceId) (h : Keeps s0 s) : NextKeeps s0 (execGoldenTestOverdue sl s) := by
  unfold execGoldenTestOverdue
  repeat' with_reducible first
    | assumption
    | apply NextKeeps.next
    | apply done_keeps
    | apply State.modGolden_keeps
    | apply State.advanceTo_keeps
    | simp only [↓Keeps.updTrust]
    | split

theorem execSafetyHeartbeat_keeps {s0 s : State} (h : Keeps s0 s) : NextKeeps s0 (execSafetyHeartbeat s) := by
  unfold execSafetyHeartbeat
  repeat' with_reducible first
    | assumption
    | apply NextKeeps.next
    | apply done_keeps
    | apply State.sendSafety_keeps
    | apply State.advanceTo_keeps
    | split

theorem execSafeForceEnd_keeps {s0 s : State} (w : CmdW) (h : Keeps s0 s) : NextKeeps s0 (execSafeForceEnd w s) := by
  unfold execSafeForceEnd
  repeat' with_reducible first
    | assumption
    | apply done_keeps
    | apply State.hostWrite_keeps
    | apply safeForceRule_keeps

theorem execLockstepMismatch_keeps {s0 s : State} (h : Keeps s0 s) : NextKeeps s0 (execLockstepMismatch s) := by
  unfold execLockstepMismatch
  repeat' with_reducible first
    | assumption
    | apply NextKeeps.next
    | apply done_keeps
    | apply State.enterCause_keeps
    | apply State.postOpen_keeps
    | split

theorem execDomainWake_keeps {s0 s : State} (d : Fin 219) (h : Keeps s0 s) : NextKeeps s0 (execDomainWake d s) := by
  unfold execDomainWake
  repeat' with_reducible first
    | assumption
    | (intro (x : State); apply Keeps.cut (s0 := s0) (x := x); rotate_left; intro hx; clear_value x; rotate_left; subst x)
    | apply NextKeeps.next
    | apply done_keeps
    | apply State.advanceTo_keeps
    | simp only [↓Keeps.upd]
    | split

-- MANUAL State.grantOne P(,S)

theorem State.endDummies_keeps {s0 s : State} (h : Keeps s0 s) : Keeps s0 (State.endDummies s) := by
  unfold State.endDummies
  repeat' with_reducible first
    | assumption
    | apply State.modSlice_keeps
    | (apply Keeps.foldl; rotate_left; intro t x ht; rotate_left)
    | split

theorem State.twilightItem_keeps {s0 s t : State} {n : Nat} (q : s.twilightItem n = some t) (h : Keeps s0 s) :
    Keeps s0 t := by
  simp only [State.twilightItem, Option.bind_eq_some_iff, Option.map_eq_some_iff] at q
  obtain ⟨c, -, u, hu, rfl⟩ := q
  exact State.modSlice_keeps _ _ (State.dispatch_keeps hu h)

theorem State.startTwilight_keeps {s0 s : State} (h : Keeps s0 s) : Keeps s0 s.startTwilight := by
  unfold State.startTwilight
  extract_lets l
  clear_value l
  split
  · exact State.modGolden_keeps _ _ h
  · split
    · rename_i t e
      obtain ⟨n, -, hn⟩ := List.exists_of_findSome?_eq_some e
      exact State.twilightItem_keeps hn h
    · cases l with
      | nil => exact h
      | cons n r => exact State.modSlice_keeps _ _ h

theorem State.grantOne_keeps {s0 : State} (a : Nat × State) (x : Nat × Nat) (h : Keeps s0 a.2) :
    Keeps s0 (State.grantOne a x).2 := by
  obtain ⟨b, s⟩ := a
  obtain ⟨n, d⟩ := x
  unfold State.grantOne
  dsimp only at h ⊢
  have k := State.modPslice_keeps (s0 := s0) n (fun p => { p with ua := min d (s.pslice n).ua + min (d - (s.pslice n).ua) b }) h
  split
  · exact k
  · split
    · exact State.count_keeps _ _ _ k
    · exact State.count_keeps _ _ _ (State.draw_keeps k)
theorem execGovernorStep_keeps {s0 s : State} (d : List Nat) (o : Nat) (h : Keeps s0 s) : NextKeeps s0 (execGovernorStep d o s) := by
  unfold execGovernorStep
  split
  · exact NextKeeps.next h
  · extract_lets d total t e base
    have hp : Keeps s0 ((t.grantOrder.map (fun n => (n, d n))).foldl State.grantOne (e - base, t)).2 :=
      Keeps.foldl1 (State.advanceTo_keeps _ h) (fun p x hp => State.grantOne_keeps _ _ hp)
    split
    rename_i v q
    rw [q] at hp
    dsimp only
    have hu := State.endDummies_keeps (s0 := s0)
      (s := { v with power := { v.power with estUa := e, fillUa := e - total } }) (hp.same rfl rfl rfl)
    generalize State.endDummies _ = u at hu ⊢
    apply NextKeeps.next
    split
    · exact State.startTwilight_keeps hu
    · exact hu

theorem State.followCeil_keeps {s0 s : State} (n : Nat) (h : Keeps s0 s) : Keeps s0 (State.followCeil s n) := by
  unfold State.followCeil
  repeat' with_reducible first
    | assumption
    | apply State.modPslice_keeps

theorem State.followAll_keeps {s0 s : State} (h : Keeps s0 s) : Keeps s0 (State.followAll s) := by
  unfold State.followAll
  repeat' with_reducible first
    | assumption
    | apply State.followCeil_keeps
    | (apply Keeps.foldl; rotate_left; intro t x ht; rotate_left)
    | split

theorem State.noteCalm_keeps {s0 s : State} (p : Nat) (h : Keeps s0 s) : Keeps s0 (State.noteCalm s p) := by
  unfold State.noteCalm
  repeat' with_reducible first
    | assumption
    | simp only [↓Keeps.upd]

theorem State.refreshPower_keeps {s0 s : State} (cause : Nat) (h : Keeps s0 s) : Keeps s0 (State.refreshPower s cause) := by
  unfold State.refreshPower
  repeat' with_reducible first
    | assumption
    | (intro (x : State); apply Keeps.cut (s0 := s0) (x := x); rotate_left; intro hx; clear_value x; rotate_left; subst x)
    | apply State.followAll_keeps
    | apply State.noteCalm_keeps
    | apply State.setNum_keeps
    | apply State.count_keeps
    | apply State.postEvent_keeps
    | simp only [↓Keeps.upd]
    | split

theorem execPowerEmergencyEnd_keeps {s0 s : State} (h : Keeps s0 s) : NextKeeps s0 (execPowerEmergencyEnd s) := by
  unfold execPowerEmergencyEnd
  repeat' with_reducible first
    | assumption
    | apply NextKeeps.next
    | apply State.advanceTo_keeps
    | apply done_keeps
    | apply State.refreshPower_keeps
    | simp only [↓Keeps.upd]
    | split

theorem State.failSensor_keeps {s0 s : State} (k : Nat) (h : Keeps s0 s) : Keeps s0 (State.failSensor s k) := by
  unfold State.failSensor
  repeat' with_reducible first
    | assumption
    | (intro (x : State); apply Keeps.cut (s0 := s0) (x := x); rotate_left; intro hx; clear_value x; rotate_left; subst x)
    | apply State.setNum_keeps
    | apply State.count_keeps
    | apply State.postEvent_keeps
    | simp only [↓Keeps.upd]
    | split

theorem State.readSensor_keeps {s0 s : State} (r : TempRead) (h : Keeps s0 s) : Keeps s0 (State.readSensor s r) := by
  unfold State.readSensor
  repeat' with_reducible first
    | assumption
    | (intro (x : State); apply Keeps.cut (s0 := s0) (x := x); rotate_left; intro hx; clear_value x; rotate_left; subst x)
    | apply State.failSensor_keeps
    | simp only [↓Keeps.upd]
    | split

theorem State.judgeRegs_keeps {s0 s : State} (h : Keeps s0 s) : Keeps s0 (State.judgeRegs s) := by
  unfold State.judgeRegs
  repeat' with_reducible first
    | assumption
    | (intro (x : State); apply Keeps.cut (s0 := s0) (x := x); rotate_left; intro hx; clear_value x; rotate_left; subst x)
    | apply State.count_keeps
    | simp only [↓Keeps.upd]
    | split

theorem State.readReg_keeps {s0 s : State} (r : RegRead) (h : Keeps s0 s) : Keeps s0 (State.readReg s r) := by
  unfold State.readReg
  repeat' with_reducible first
    | assumption
    | (intro (x : State); apply Keeps.cut (s0 := s0) (x := x); rotate_left; intro hx; clear_value x; rotate_left; subst x)
    | apply State.postEvent_keeps
    | simp only [↓Keeps.upd]
    | split

theorem State.readRegs_keeps {s0 s : State} (rs : List RegRead) (cause : Nat) (h : Keeps s0 s) : Keeps s0 (State.readRegs s rs cause) := by
  unfold State.readRegs
  repeat' with_reducible first
    | assumption
    | apply State.refreshPower_keeps
    | apply State.judgeRegs_keeps
    | apply State.readReg_keeps
    | (apply Keeps.foldl; rotate_left; intro t x ht; rotate_left)
    | split

theorem execVrHotNAssert_keeps {s0 s : State} (rs : List RegRead) (h : Keeps s0 s) : NextKeeps s0 (execVrHotNAssert rs s) := by
  unfold execVrHotNAssert
  repeat' with_reducible first
    | assumption
    | (intro (x : State); apply Keeps.cut (s0 := s0) (x := x); rotate_left; intro hx; clear_value x; rotate_left; subst x)
    | apply NextKeeps.next
    | apply State.refreshPower_keeps
    | apply State.count_keeps
    | apply done_keeps
    | apply State.readRegs_keeps
    | simp only [↓Keeps.upd]
    | split

theorem execPmbAlertN_keeps {s0 s : State} (rs : List RegRead) (h : Keeps s0 s) : NextKeeps s0 (execPmbAlertN rs s) := by
  unfold execPmbAlertN
  repeat' with_reducible first
    | assumption
    | apply NextKeeps.next
    | apply done_keeps
    | apply State.readRegs_keeps
    | split

theorem execDomainOff_keeps {s0 s : State} (d : Fin 219) (h : Keeps s0 s) : NextKeeps s0 (execDomainOff d s) := by
  unfold execDomainOff
  repeat' with_reducible first
    | assumption
    | apply NextKeeps.next
    | apply done_keeps
    | simp only [↓Keeps.upd]
    | split

theorem State.stepDown_keeps {s0 s : State} (r : ObjRow) (n : Nat) (h : Keeps s0 s) : Keeps s0 (State.stepDown s r n) := by
  unfold State.stepDown
  repeat' with_reducible first
    | assumption
    | apply State.setNum_keeps

theorem State.stepUp_keeps {s0 s : State} (r : ObjRow) (n : Nat) (h : Keeps s0 s) : Keeps s0 (State.stepUp s r n) := by
  unfold State.stepUp
  repeat' with_reducible first
    | assumption
    | apply State.setNum_keeps

theorem State.thermStep_keeps {s0 s : State} (tj : Int) (h : Keeps s0 s) : Keeps s0 (s.thermStep tj) := by
  unfold State.thermStep
  dsimp only
  repeat' with_reducible first
      | assumption
      | apply State.stepDown_keeps
      | apply State.stepUp_keeps
      | (apply Keeps.foldl; rotate_left; intro t x ht; rotate_left)
      | simp only [↓Keeps.upd]
      | split

theorem execVrHotNDeassert_keeps {s0 s : State} (h : Keeps s0 s) : NextKeeps s0 (execVrHotNDeassert s) := by
  unfold execVrHotNDeassert
  repeat' with_reducible first
    | assumption
    | (intro (x : State); apply Keeps.cut (s0 := s0) (x := x); rotate_left; intro hx; clear_value x; rotate_left; subst x)
    | apply NextKeeps.next
    | apply done_keeps
    | apply State.refreshPower_keeps
    | apply State.judgeRegs_keeps
    | simp only [↓Keeps.upd]
    | split

theorem execSensorRead_keeps {s0 s : State} (rs : List TempRead) (h : Keeps s0 s) : NextKeeps s0 (execSensorRead rs s) := by
  unfold execSensorRead
  repeat' with_reducible first
    | assumption
    | (intro (x : State); apply Keeps.cut (s0 := s0) (x := x); rotate_left; intro hx; clear_value x; rotate_left; subst x)
    | apply NextKeeps.next
    | apply State.advanceTo_keeps
    | apply State.readSensor_keeps
    | apply done_keeps
    | apply State.refreshPower_keeps
    | (apply Keeps.foldl; rotate_left; intro t x ht; rotate_left)
    | simp only [↓Keeps.upd]
    | split

theorem State.addEnergy_keeps {s0 s : State} (m : MeterRead) (h : Keeps s0 s) : Keeps s0 (State.addEnergy s m) := by
  unfold State.addEnergy
  repeat' with_reducible first
    | assumption
    | (intro (x : State); apply Keeps.cut (s0 := s0) (x := x); rotate_left; intro hx; clear_value x; rotate_left; subst x)
    | apply State.count_keeps
    | (apply Keeps.foldl; rotate_left; intro t x ht; rotate_left)

theorem State.metered_keeps {s0 s : State} (m : MeterRead) (h : Keeps s0 s) : Keeps s0 (State.metered s m) := by
  unfold State.metered
  repeat' with_reducible first
    | assumption
    | (intro (x : State); apply Keeps.cut (s0 := s0) (x := x); rotate_left; intro hx; clear_value x; rotate_left; subst x)
    | apply State.addEnergy_keeps
    | apply State.advanceTo_keeps
    | simp only [↓Keeps.upd]

theorem State.noteChip_keeps {s0 s : State} (milliW : Nat) (excess : Nat) (calm : Nat) (h : Keeps s0 s) : Keeps s0 (State.noteChip s milliW excess calm) := by
  unfold State.noteChip
  repeat' with_reducible first
    | assumption
    | (intro (x : State); apply Keeps.cut (s0 := s0) (x := x); rotate_left; intro hx; clear_value x; rotate_left; subst x)
    | apply State.setNum_keeps
    | simp only [↓Keeps.upd]

theorem State.capStep_keeps {s0 s : State} (above : Bool) (calm : Nat) (h : Keeps s0 s) : Keeps s0 (State.capStep s above calm) := by
  unfold State.capStep
  repeat' with_reducible first
    | assumption
    | apply State.stepDown_keeps
    | apply State.stepUp_keeps
    | (apply Keeps.foldl; rotate_left; intro t x ht; rotate_left)
    | split

theorem execPowerCapEval_keeps {s0 s : State} (m : MeterRead) (h : Keeps s0 s) : NextKeeps s0 (execPowerCapEval m s) := by
  unfold execPowerCapEval
  repeat' with_reducible first
    | assumption
    | (intro (x : State); apply Keeps.cut (s0 := s0) (x := x); rotate_left; intro hx; clear_value x; rotate_left; subst x)
    | apply NextKeeps.next
    | apply State.metered_keeps
    | apply State.noteChip_keeps
    | apply done_keeps
    | apply State.refreshPower_keeps
    | apply State.capStep_keeps
    | split

theorem State.setClocks_keeps {s0 s : State} (h : Keeps s0 s) : Keeps s0 (State.setClocks s) := by
  unfold State.setClocks
  repeat' with_reducible first
    | assumption
    | apply State.modPslice_keeps
    | (apply Keeps.foldl; rotate_left; intro t x ht; rotate_left)

theorem State.thermTime_keeps {s0 s : State} (h : Keeps s0 s) : Keeps s0 (State.thermTime s) := by
  unfold State.thermTime
  repeat' with_reducible first
    | assumption
    | (intro (x : State); apply Keeps.cut (s0 := s0) (x := x); rotate_left; intro hx; clear_value x; rotate_left; subst x)
    | apply State.advanceTo_keeps
    | simp only [↓Keeps.upd]

theorem State.thermTj_keeps {s0 s : State} (h : Keeps s0 s) : Keeps s0 (State.thermTj s) := by
  unfold State.thermTj
  repeat' with_reducible first
    | assumption
    | apply State.thermStep_keeps
    | split

theorem execVoltageSettled_keeps {s0 s : State} (sl : SliceId) (h : Keeps s0 s) : NextKeeps s0 (execVoltageSettled sl s) := by
  unfold execVoltageSettled
  repeat' with_reducible first
    | assumption
    | apply NextKeeps.next
    | apply done_keeps
    | apply State.modPslice_keeps
    | apply State.advanceTo_keeps
    | split

theorem State.stopSlices_keeps {s0 s : State} (h : Keeps s0 s) : Keeps s0 (State.stopSlices s) := by
  unfold State.stopSlices
  repeat' with_reducible first
    | assumption
    | apply State.modPslice_keeps
    | apply State.modSlice_keeps
    | apply State.discard_keeps
    | (apply Keeps.foldl; rotate_left; intro t x ht; rotate_left)

theorem execThermalEmergencyEnd_keeps {s0 s : State} (h : Keeps s0 s) : NextKeeps s0 (execThermalEmergencyEnd s) := by
  unfold execThermalEmergencyEnd
  repeat' with_reducible first
    | assumption
    | apply NextKeeps.next
    | apply State.advanceTo_keeps
    | apply State.setNum_keeps
    | apply done_keeps
    | apply State.refreshPower_keeps
    | (apply Keeps.foldl; rotate_left; intro t x ht; rotate_left)
    | simp only [↓Keeps.upd]
    | split

theorem execThermalClamp_keeps {s0 s : State} (h : Keeps s0 s) : NextKeeps s0 (execThermalClamp s) := by
  unfold execThermalClamp
  repeat' with_reducible first
    | assumption
    | (intro (x : State); apply Keeps.cut (s0 := s0) (x := x); rotate_left; intro hx; clear_value x; rotate_left; subst x)
    | apply NextKeeps.next
    | apply State.count_keeps
    | apply done_keeps
    | apply State.refreshPower_keeps
    | simp only [↓Keeps.upd]
    | split

theorem execThermalTrip_keeps {s0 s : State} (h : Keeps s0 s) : NextKeeps s0 (execThermalTrip s) := by
  unfold execThermalTrip
  repeat' with_reducible first
    | assumption
    | (intro (x : State); apply Keeps.cut (s0 := s0) (x := x); rotate_left; intro hx; clear_value x; rotate_left; subst x)
    | apply NextKeeps.next
    | apply State.stopSlices_keeps
    | apply done_keeps
    | apply State.enterCause_keeps
    | apply State.postOpen_keeps
    | simp only [↓Keeps.upd]
    | split

theorem execDroopRecovery_keeps {s0 s : State} (sl : SliceId) (h : Keeps s0 s) : NextKeeps s0 (execDroopRecovery sl s) := by
  unfold execDroopRecovery
  repeat' with_reducible first
    | assumption
    | apply NextKeeps.next
    | apply done_keeps
    | apply State.modPslice_keeps

theorem execDroopOnset_keeps {s0 s : State} (sl : SliceId) (h : Keeps s0 s) : NextKeeps s0 (execDroopOnset sl s) := by
  unfold execDroopOnset
  repeat' with_reducible first
    | assumption
    | apply NextKeeps.next
    | apply done_keeps
    | apply State.count_keeps
    | apply State.modPslice_keeps

theorem State.riseEm_keeps {s0 s : State} (h : Keeps s0 s) : Keeps s0 (State.riseEm s) := by
  unfold State.riseEm
  repeat' with_reducible first
    | assumption
    | simp only [↓Keeps.upd]
    | split

theorem execThermalLoopStep_keeps {s0 s : State} (h : Keeps s0 s) : NextKeeps s0 (execThermalLoopStep s) := by
  unfold execThermalLoopStep
  repeat' with_reducible first
    | assumption
    | apply NextKeeps.next
    | apply done_keeps
    | apply State.refreshPower_keeps
    | apply State.riseEm_keeps
    | apply State.thermTj_keeps
    | apply State.thermTime_keeps
    | split

theorem execPmbusPoll_keeps {s0 s : State} (rs : List RegRead) (h : Keeps s0 s) : NextKeeps s0 (execPmbusPoll rs s) := by
  unfold execPmbusPoll
  repeat' with_reducible first
    | assumption
    | apply NextKeeps.next
    | apply done_keeps
    | apply State.readRegs_keeps
    | split

theorem keyRevokeRule_keeps {s0 : State} (ok : Bool) : RuleKeeps s0 (keyRevokeRule ok) := by
  intro s v h
  unfold keyRevokeRule
  dsimp only
  split
  · split
    · exact h
    · exact ⟨h.now, h.serial, h.rootKey, fun i k => by simp [BitVec.getLsbD_or, h.revoked i k], h.instar, h.cells⟩
  · exact h

theorem State.flashPut_keeps {s0 s : State} (a : Nat) (b : Bytes) (h : Keeps s0 s) : Keeps s0 (s.flashPut a b) :=
  h.flash rfl rfl rfl (cputs_wf _ _ _)

theorem State.imageData_keeps {s0 s : State} (arg : Bytes) (data : Bytes) (h : Keeps s0 s) : Keeps s0 (State.imageData s arg data).2 := by
  unfold State.imageData
  repeat' with_reducible first
    | assumption
    | apply State.flashPut_keeps
    | simp only [↓Keeps.updTrust]
    | split
theorem State.imageData_keeps_of {s0 s t : State} {arg : Bytes} {data : Bytes} {v_ : _} (e : State.imageData s arg data = (v_, t)) (h : Keeps s0 s) : Keeps s0 t := by
  have k := State.imageData_keeps (s0 := s0) (arg := arg) (data := data) h
  rw [e] at k
  exact k

theorem State.seal_keeps {s0 s : State} (k : Nat) (h : Keeps s0 s) : Keeps s0 (State.seal s k) := by
  unfold State.seal
  repeat' with_reducible first
    | assumption
    | apply State.flashPut_keeps

theorem execKeyRevoke_keeps {s0 s : State} (w : BlobW) (readBackOk : Bool) (h : Keeps s0 s) : NextKeeps s0 (execKeyRevoke w readBackOk s) := by
  unfold execKeyRevoke
  repeat' with_reducible first
    | assumption
    | apply NextKeeps.next
    | apply done_keeps
    | apply State.hostBlob_keeps
    | apply keyRevokeRule_keeps

theorem State.procRecord_keeps {s0 s : State} (p : Nat) (h : Keeps s0 s) : Keeps s0 (State.procRecord s p).2 := by
  unfold State.procRecord
  repeat' with_reducible first
    | assumption
    | apply State.draw_keeps
    | refine State.draw_keeps_of (by assumption) ?_
    | simp only [↓Keeps.updTrust]
    | split
theorem State.procRecord_keeps_of {s0 s t : State} {p : Nat} {v_ : _} (e : State.procRecord s p = (v_, t)) (h : Keeps s0 s) : Keeps s0 t := by
  have k := State.procRecord_keeps (s0 := s0) (p := p) h
  rw [e] at k
  exact k

theorem State.checkSlot_keeps {s0 s : State} (k : Nat) (h : Keeps s0 s) : Keeps s0 (State.checkSlot s k).2 := by
  unfold State.checkSlot
  repeat' with_reducible first
    | assumption
    | apply State.seal_keeps
    | simp only [↓Keeps.updTrust]
    | split
theorem State.checkSlot_keeps_of {s0 s t : State} {k : Nat} {v_ : _} (e : State.checkSlot s k = (v_, t)) (h : Keeps s0 s) : Keeps s0 t := by
  have k := State.checkSlot_keeps (s0 := s0) (k := k) h
  rw [e] at k
  exact k

theorem State.imageEnd_keeps {s0 s : State} (h : Keeps s0 s) : Keeps s0 (State.imageEnd s).2 := by
  unfold State.imageEnd
  repeat' with_reducible first
    | assumption
    | apply State.checkSlot_keeps
    | refine State.checkSlot_keeps_of (by assumption) ?_
    | simp only [↓Keeps.updTrust]
    | split
theorem State.imageEnd_keeps_of {s0 s t : State}  {v_ : _} (e : State.imageEnd s = (v_, t)) (h : Keeps s0 s) : Keeps s0 t := by
  have k := State.imageEnd_keeps (s0 := s0) h
  rw [e] at k
  exact k

theorem State.recordSlot_keeps {s0 s : State} (k : Nat) (status : Nat) (h : Keeps s0 s) : Keeps s0 (State.recordSlot s k status) := by
  unfold State.recordSlot
  repeat' with_reducible first
    | assumption
    | (intro (x : State); apply Keeps.cut (s0 := s0) (x := x); rotate_left; intro hx; clear_value x; rotate_left; subst x)
    | apply State.setNum_keeps

theorem State.checkRecord_keeps {s0 s : State} (k : Nat) (h : Keeps s0 s) : Keeps s0 (State.checkRecord s k).2 := by
  unfold State.checkRecord
  repeat' with_reducible first
    | assumption
    | apply State.checkSlot_keeps
    | refine State.checkSlot_keeps_of (by assumption) ?_
    | apply State.recordSlot_keeps
theorem State.checkRecord_keeps_of {s0 s t : State} {k : Nat} {v_ : _} (e : State.checkRecord s k = (v_, t)) (h : Keeps s0 s) : Keeps s0 t := by
  have k := State.checkRecord_keeps (s0 := s0) (k := k) h
  rw [e] at k
  exact k

theorem State.selectFrom_keeps {s0 s : State} (bad : Nat → Bool) (a1 : Nat) (a2 : List Nat) (h : Keeps s0 s) :
    Keeps s0 (State.selectFrom bad a1 a2 s).2 := by
  induction a1 generalizing a2 s with
  | zero => exact h
  | succ f ih =>
    simp only [State.selectFrom]
    split
    · exact h
    · split
      · exact ih _ (State.recordSlot_keeps _ _ h)
      · exact State.setNum_keeps _ _ _ h
theorem State.selectFrom_keeps_of {s0 s t : State} {bad : Nat → Bool} {a1 : Nat} {a2 : List Nat} {v_ : _} (e : State.selectFrom bad a1 a2 s = (v_, t)) (h : Keeps s0 s) : Keeps s0 t := by
  have k := State.selectFrom_keeps (s0 := s0) (bad := bad) (a1 := a1) (a2 := a2) h
  rw [e] at k
  exact k

theorem State.select_keeps {s0 s : State} (cands : List Nat) (bad : Nat → Bool) (h : Keeps s0 s) : Keeps s0 (State.select s cands bad).2 := by
  unfold State.select
  repeat' with_reducible first
    | assumption
    | apply State.checkRecord_keeps
    | refine State.checkRecord_keeps_of (by assumption) ?_
    | apply State.setNum_keeps
    | apply State.selectFrom_keeps
    | refine State.selectFrom_keeps_of (by assumption) ?_
    | (apply Keeps.foldl1; rotate_left; intro t x ht; dsimp only; rotate_left)
theorem State.select_keeps_of {s0 s t : State} {cands : List Nat} {bad : Nat → Bool} {v_ : _} (e : State.select s cands bad = (v_, t)) (h : Keeps s0 s) : Keeps s0 t := by
  have k := State.select_keeps (s0 := s0) (cands := cands) (bad := bad) h
  rw [e] at k
  exact k

theorem State.flashErase_keeps {s0 s : State} (a n : Nat) (h : Keeps s0 s) : Keeps s0 (s.flashErase a n) :=
  h.flash rfl rfl rfl (cdrop_wf _ _ _)

theorem State.eraseSlot_keeps {s0 s : State} (k : Nat) (h : Keeps s0 s) : Keeps s0 (State.eraseSlot s k) := by
  unfold State.eraseSlot
  repeat' with_reducible first
    | assumption
    | apply State.flashErase_keeps

theorem State.report_keeps {s0 s : State} (nonce : Bytes) (h : Keeps s0 s) : Keeps s0 (State.report s nonce).2 := by
  unfold State.report
  repeat' with_reducible first
    | assumption
    | apply State.procRecord_keeps
    | refine State.procRecord_keeps_of (by assumption) ?_
    | (apply Keeps.foldl1; rotate_left; intro t x ht; dsimp only; rotate_left)
theorem State.report_keeps_of {s0 s t : State} {nonce : Bytes} {v_ : _} (e : State.report s nonce = (v_, t)) (h : Keeps s0 s) : Keeps s0 t := by
  have k := State.report_keeps (s0 := s0) (nonce := nonce) h
  rw [e] at k
  exact k

theorem attNonceRule_keeps {s0 : State} : RuleKeeps s0 (attNonceRule) := by
  unfold attNonceRule
  repeat' with_reducible first
    | assumption
    | (apply RuleKeeps.intro; intro s a hs; dsimp only)
    | apply State.report_keeps
    | refine State.report_keeps_of (by assumption) ?_
    | apply State.count_keeps
    | apply State.setBlob_keeps
    | split

theorem execAttNonce_keeps {s0 s : State} (w : BlobW) (h : Keeps s0 s) : NextKeeps s0 (execAttNonce w s) := by
  unfold execAttNonce
  repeat' with_reducible first
    | assumption
    | apply NextKeeps.next
    | apply done_keeps
    | apply State.hostBlob_keeps
    | apply attNonceRule_keeps

theorem State.loadComponent_keeps {s0 s : State} (p : Nat) (k : Nat) (h : Keeps s0 s) : Keeps s0 (State.loadComponent s p k) := by
  unfold State.loadComponent
  repeat' with_reducible first
    | assumption
    | (intro (x : State); apply Keeps.cut (s0 := s0) (x := x); rotate_left; intro hx; clear_value x; rotate_left; subst x)
    | (intro (x : Trust); subst x)
    | apply State.setNum_keeps
    | apply State.modProc_keeps
    | simp only [↓Keeps.updTrust]
    | split

theorem State.imageBegin_keeps {s0 s : State} (arg : Bytes) (h : Keeps s0 s) : Keeps s0 (State.imageBegin s arg).2 := by
  unfold State.imageBegin
  repeat' with_reducible first
    | assumption
    | (intro (x : State); apply Keeps.cut (s0 := s0) (x := x); rotate_left; intro hx; clear_value x; rotate_left; subst x)
    | (intro (x : Trust); subst x)
    | apply State.eraseSlot_keeps
    | simp only [↓Keeps.updTrust]
    | split
theorem State.imageBegin_keeps_of {s0 s t : State} {arg : Bytes} {v_ : _} (e : State.imageBegin s arg = (v_, t)) (h : Keeps s0 s) : Keeps s0 t := by
  have k := State.imageBegin_keeps (s0 := s0) (arg := arg) h
  rw [e] at k
  exact k

theorem State.setUpd_keeps {s0 s : State} (state : Nat) (status : Nat) (slot : Nat) (h : Keeps s0 s) : Keeps s0 (State.setUpd s state status slot) := by
  unfold State.setUpd
  repeat' with_reducible first
    | assumption
    | (intro (x : State); apply Keeps.cut (s0 := s0) (x := x); rotate_left; intro hx; clear_value x; rotate_left; subst x)
    | apply State.setNum_keeps
    | apply State.postEvent_keeps

theorem State.failStaging_keeps {s0 s : State} (h : Keeps s0 s) : Keeps s0 (State.failStaging s) := by
  unfold State.failStaging
  repeat' with_reducible first
    | assumption
    | (intro (x : State); apply Keeps.cut (s0 := s0) (x := x); rotate_left; intro hx; clear_value x; rotate_left; subst x)
    | apply State.setUpd_keeps
    | apply State.eraseSlot_keeps
    | simp only [↓Keeps.upd]
    | split

theorem State.deferDone_keeps {s0 s : State} (d : Deferred) (status : Nat) (h : Keeps s0 s) : Keeps s0 (State.deferDone s d status) := by
  unfold State.deferDone
  repeat' with_reducible first
    | assumption
    | apply State.postEvent_keeps

theorem State.abortDeferred_keeps {s0 s : State} (h : Keeps s0 s) : Keeps s0 (State.abortDeferred s) := by
  unfold State.abortDeferred
  repeat' with_reducible first
    | assumption
    | apply State.deferDone_keeps
    | (apply Keeps.foldl; rotate_left; intro t x ht; rotate_left)
    | simp only [↓Keeps.upd]

theorem State.holdDxp_keeps {s0 s : State} (h : Keeps s0 s) : Keeps s0 (State.holdDxp s) := by
  unfold State.holdDxp
  repeat' with_reducible first
    | assumption
    | (intro (x : State); apply Keeps.cut (s0 := s0) (x := x); rotate_left; intro hx; clear_value x; rotate_left; subst x)
    | (intro (x : Trust); subst x)
    | apply State.setOpen_keeps
    | apply State.abortDeferred_keeps
    | apply State.clearRows_keeps
    | simp only [↓Keeps.updTrust]

theorem State.holdScp_keeps {s0 s : State} (h : Keeps s0 s) : Keeps s0 (State.holdScp s) := by
  unfold State.holdScp
  repeat' with_reducible first
    | assumption
    | (intro (x : State); apply Keeps.cut (s0 := s0) (x := x); rotate_left; intro hx; clear_value x; rotate_left; subst x)
    | apply State.setOpen_keeps
    | simp only [↓Keeps.upd]

theorem State.holdFor_keeps {s0 s : State} (p : Nat) (h : Keeps s0 s) : Keeps s0 (State.holdFor s p) := by
  unfold State.holdFor
  repeat' with_reducible first
    | assumption
    | apply State.failStaging_keeps
    | apply State.enterCause_keeps
    | apply State.holdDxp_keeps
    | apply State.holdScp_keeps
    | split

theorem State.stageLog_keeps {s0 s : State} (p : Nat) (level : Nat) (code : Nat) (args : List Nat) (h : Keeps s0 s) : Keeps s0 (State.stageLog s p level code args) := by
  unfold State.stageLog
  repeat' with_reducible first
    | assumption
    | (intro (x : State); apply Keeps.cut (s0 := s0) (x := x); rotate_left; intro hx; clear_value x; rotate_left; subst x)
    | apply State.draw_keeps
    | refine State.draw_keeps_of (by assumption) ?_
    | apply State.count_keeps
    | simp only [↓Keeps.upd]
    | split

theorem State.makeLog_keeps {s0 s : State} (p : Nat) (level : Nat) (code : Nat) (args : List Nat) (h : Keeps s0 s) : Keeps s0 (State.makeLog s p level code args) := by
  unfold State.makeLog
  repeat' with_reducible first
    | assumption
    | apply State.stageLog_keeps
    | split

theorem State.logCommon_keeps {s0 s : State} (p : Nat) (code : Nat) (args : List Nat) (h : Keeps s0 s) : Keeps s0 (State.logCommon s p code args) := by
  unfold State.logCommon
  repeat' with_reducible first
    | assumption
    | apply State.draw_keeps
    | refine State.draw_keeps_of (by assumption) ?_
    | apply State.makeLog_keeps

theorem State.beginRestart_keeps {s0 s : State} (p : Nat) (cause : Nat) (h : Keeps s0 s) : Keeps s0 (State.beginRestart s p cause) := by
  unfold State.beginRestart
  repeat' with_reducible first
    | assumption
    | (intro (x : State); apply Keeps.cut (s0 := s0) (x := x); rotate_left; intro hx; clear_value x; rotate_left; subst x)
    | apply State.holdFor_keeps
    | apply State.setNum_keeps
    | apply State.count_keeps
    | apply State.modProc_keeps
    | apply State.logCommon_keeps

theorem execFwMemoryError_keeps {s0 s : State} (p : ProcId) (h : Keeps s0 s) : NextKeeps s0 (execFwMemoryError p s) := by
  unfold execFwMemoryError
  repeat' with_reducible first
    | assumption
    | apply NextKeeps.next
    | apply done_keeps
    | apply State.beginRestart_keeps
    | split

theorem execLogEntry_keeps {s0 s : State} (p : ProcId) (level : Nat) (code : BitVec 16) (args : List Word) (h : Keeps s0 s) : NextKeeps s0 (execLogEntry p level code args s) := by
  unfold execLogEntry
  repeat' with_reducible first
    | assumption
    | apply NextKeeps.next
    | apply done_keeps
    | apply State.makeLog_keeps
    | split

theorem State.releaseWaiting_keeps {s0 s : State} (h : Keeps s0 s) : Keeps s0 (State.releaseWaiting s) := by
  unfold State.releaseWaiting
  repeat' with_reducible first
    | assumption
    | apply State.modProc_keeps
    | (apply Keeps.foldl; rotate_left; intro t x ht; rotate_left)
    | split

theorem State.stageLost_keeps {s0 s : State} (q : Nat) (n : Nat) (h : Keeps s0 s) : Keeps s0 (State.stageLost s q n) := by
  unfold State.stageLost
  repeat' with_reducible first
    | assumption
    | apply State.modItem_keeps
    | apply State.loseRun_keeps

theorem State.postRestarted_keeps {s0 s : State} (p : Nat) (outcome : Nat) (h : Keeps s0 s) : Keeps s0 (State.postRestarted s p outcome) := by
  unfold State.postRestarted
  repeat' with_reducible first
    | assumption
    | apply State.postEvent_keeps

theorem State.postActivation_keeps {s0 s : State} (target : Nat) (slot : Nat) (status : Nat) (h : Keeps s0 s) : Keeps s0 (State.postActivation s target slot status) := by
  unfold State.postActivation
  repeat' with_reducible first
    | assumption
    | apply State.postEvent_keeps

theorem execRestartTimeout_keeps {s0 s : State} (p : ProcId) (h : Keeps s0 s) : NextKeeps s0 (execRestartTimeout p s) := by
  unfold execRestartTimeout
  repeat' with_reducible first
    | assumption
    | (intro (x : State); apply Keeps.cut (s0 := s0) (x := x); rotate_left; intro hx; clear_value x; rotate_left; subst x)
    | apply NextKeeps.next
    | apply State.advanceTo_keeps
    | apply done_keeps
    | apply State.setNum_keeps
    | apply State.postRestarted_keeps
    | apply State.postActivation_keeps
    | apply State.modProc_keeps
    | apply State.beginRestart_keeps
    | simp only [↓Keeps.updTrust]
    | split

theorem execTraceHit_keeps {s0 s : State} (p : ProcId) (point : Nat) (value : Word) (h : Keeps s0 s) : NextKeeps s0 (execTraceHit p point value s) := by
  unfold execTraceHit
  repeat' with_reducible first
    | assumption
    | apply NextKeeps.next
    | apply done_keeps
    | apply State.count_keeps
    | simp only [↓Keeps.upd]
    | split

theorem State.writeLog_keeps {s0 s : State} (base : Nat) (b : Bytes) (h : Keeps s0 s) : Keeps s0 (State.writeLog s base b) := by
  unfold State.writeLog
  repeat' with_reducible first
    | assumption
    | (intro (x : State); apply Keeps.cut (s0 := s0) (x := x); rotate_left; intro hx; clear_value x; rotate_left; subst x)
    | apply State.writeBytes_keeps
    | apply State.count_keeps
    | simp only [↓Keeps.upd]
    | split

theorem State.copyTrace_keeps {s0 s : State} (b : Bytes) (h : Keeps s0 s) : Keeps s0 (State.copyTrace s b) := by
  unfold State.copyTrace
  repeat' with_reducible first
    | assumption
    | apply State.count_keeps
    | simp only [↓Keeps.upd]
    | split

theorem State.writeTrace_keeps {s0 s : State} (base : Nat) (b : Bytes) (h : Keeps s0 s) : Keeps s0 (State.writeTrace s base b) := by
  unfold State.writeTrace
  repeat' with_reducible first
    | assumption
    | (intro (x : State); apply Keeps.cut (s0 := s0) (x := x); rotate_left; intro hx; clear_value x; rotate_left; subst x)
    | apply State.writeBytes_keeps
    | apply State.copyTrace_keeps
    | apply State.count_keeps
    | simp only [↓Keeps.upd]
    | split

theorem State.writeStaged_keeps {s0 s : State} (a0 : Staged) (h : Keeps s0 s) : Keeps s0 (State.writeStaged s a0) := by
  unfold State.writeStaged
  repeat' with_reducible first
    | assumption
    | apply State.writeLog_keeps
    | apply State.writeTrace_keeps
    | split

theorem execStagingBufferDrain_keeps {s0 s : State} (h : Keeps s0 s) : NextKeeps s0 (execStagingBufferDrain s) := by
  unfold execStagingBufferDrain
  repeat' with_reducible first
    | assumption
    | (intro (x : State); apply Keeps.cut (s0 := s0) (x := x); rotate_left; intro hx; clear_value x; rotate_left; subst x)
    | apply NextKeeps.next
    | apply done_keeps
    | apply State.writeStaged_keeps
    | (apply Keeps.foldl; rotate_left; intro t x ht; rotate_left)
    | simp only [↓Keeps.upd]
    | split

theorem State.resumeRuns_keeps {s0 s : State} (h : Keeps s0 s) : Keeps s0 (State.resumeRuns s) := by
  unfold State.resumeRuns
  repeat' with_reducible first
    | assumption
    | apply State.nextStage_keeps
    | (apply Keeps.foldl; rotate_left; intro t x ht; rotate_left)

theorem State.endHold_keeps {s0 s : State} (p : Nat) (h : Keeps s0 s) : Keeps s0 (State.endHold s p) := by
  unfold State.endHold
  repeat' with_reducible first
    | assumption
    | (intro (x : State); apply Keeps.cut (s0 := s0) (x := x); rotate_left; intro hx; clear_value x; rotate_left; subst x)
    | apply State.releaseWaiting_keeps
    | apply State.leaveCause_keeps
    | apply State.refreshPower_keeps
    | apply State.buildGraph_keeps
    | apply State.endUnloads_keeps
    | apply State.resumeRuns_keeps
    | apply State.stageLost_keeps
    | (apply Keeps.foldl; rotate_left; intro t x ht; rotate_left)
    | simp only [↓Keeps.upd]
    | split

theorem execWatchdogExpiry_keeps {s0 s : State} (p : ProcId) (h : Keeps s0 s) : NextKeeps s0 (execWatchdogExpiry p s) := by
  unfold execWatchdogExpiry
  repeat' with_reducible first
    | assumption
    | (intro (x : State); apply Keeps.cut (s0 := s0) (x := x); rotate_left; intro hx; clear_value x; rotate_left; subst x)
    | apply NextKeeps.next
    | apply State.postFault_keeps
    | apply State.count_keeps
    | apply done_keeps
    | apply State.beginRestart_keeps
    | split

theorem fwRestartRule_keeps {s0 : State} (p : Nat) : RuleKeeps s0 (fwRestartRule p) := by
  unfold fwRestartRule
  repeat' with_reducible first
    | assumption
    | (apply RuleKeeps.cmd; intro s a hs)
    | simp only [↓Keeps.upd]

theorem updActivateRule_keeps {s0 : State} : RuleKeeps s0 (updActivateRule) := by
  unfold updActivateRule
  repeat' with_reducible first
    | assumption
    | (apply RuleKeeps.intro; intro s a hs; dsimp only)
    | apply State.setNum_keeps
    | apply State.postActivation_keeps
    | simp only [↓Keeps.upd]
    | split

theorem State.clearPending_keeps {s0 s : State} (h : Keeps s0 s) : Keeps s0 (State.clearPending s) := by
  unfold State.clearPending
  repeat' with_reducible first
    | assumption
    | apply State.setNum_keeps
    | simp only [↓Keeps.upd]

theorem execActivationAbandon_keeps {s0 s : State} (h : Keeps s0 s) : NextKeeps s0 (execActivationAbandon s) := by
  unfold execActivationAbandon
  repeat' with_reducible first
    | assumption
    | apply NextKeeps.next
    | apply done_keeps
    | apply State.postActivation_keeps
    | apply State.clearPending_keeps
    | apply State.advanceTo_keeps
    | split

theorem updStageRule_keeps {s0 : State} : RuleKeeps s0 (updStageRule) := by
  unfold updStageRule
  repeat' with_reducible first
    | assumption
    | (apply RuleKeeps.intro; intro s a hs; dsimp only)
    | apply State.setUpd_keeps
    | apply State.eraseSlot_keeps
    | simp only [↓Keeps.upd]
    | split

theorem execUpdStage_keeps {s0 s : State} (w : BlobW) (h : Keeps s0 s) : NextKeeps s0 (execUpdStage w s) := by
  unfold execUpdStage
  repeat' with_reducible first
    | assumption
    | apply NextKeeps.next
    | apply done_keeps
    | apply State.hostBlob_keeps
    | apply updStageRule_keeps

theorem State.rejectStaging_keeps {s0 s : State} (k : Nat) (status : Nat) (h : Keeps s0 s) : Keeps s0 (State.rejectStaging s k status) := by
  unfold State.rejectStaging
  repeat' with_reducible first
    | assumption
    | apply State.setUpd_keeps
    | apply State.eraseSlot_keeps

theorem State.raised_keeps {s0 s : State} (v : Nat) (h : Keeps s0 s) : Keeps s0 (s.raised v) :=
  ⟨h.now, h.serial, h.rootKey, h.revoked, fun i k => raiseFloor_keeps _ _ _ _ _ (h.instar i k), h.cells⟩

theorem updCommitRule_keeps {s0 : State} (verified : Nat) : RuleKeeps s0 (updCommitRule verified) := by
  unfold updCommitRule
  repeat' with_reducible first
    | assumption
    | (apply RuleKeeps.intro; intro s a hs; dsimp only)
    | apply State.raised_keeps

theorem execUpdCommit_keeps {s0 s : State} (w : CmdW) (verified : Nat) (h : Keeps s0 s) : NextKeeps s0 (execUpdCommit w verified s) := by
  unfold execUpdCommit
  repeat' with_reducible first
    | assumption
    | apply NextKeeps.next
    | apply done_keeps
    | apply State.hostWrite_keeps
    | apply updCommitRule_keeps

theorem updCancelRule_keeps {s0 : State} : RuleKeeps s0 (updCancelRule) := by
  unfold updCancelRule
  repeat' with_reducible first
    | assumption
    | (apply RuleKeeps.cmd; intro s a hs)
    | apply State.setUpd_keeps
    | apply State.eraseSlot_keeps
    | split

theorem execUpdCancel_keeps {s0 s : State} (w : CmdW) (h : Keeps s0 s) : NextKeeps s0 (execUpdCancel w s) := by
  unfold execUpdCancel
  repeat' with_reducible first
    | assumption
    | apply NextKeeps.next
    | apply done_keeps
    | apply State.hostWrite_keeps
    | apply updCancelRule_keeps

theorem execStagingDone_keeps {s0 s : State} (flashOk : Bool) (h : Keeps s0 s) : NextKeeps s0 (execStagingDone flashOk s) := by
  unfold execStagingDone
  repeat' with_reducible first
    | assumption
    | (intro (x : State); apply Keeps.cut (s0 := s0) (x := x); rotate_left; intro hx; clear_value x; rotate_left; subst x)
    | apply NextKeeps.next
    | apply done_keeps
    | apply State.rejectStaging_keeps
    | apply State.setUpd_keeps
    | apply State.flashPut_keeps
    | apply State.checkRecord_keeps
    | refine State.checkRecord_keeps_of (by assumption) ?_
    | simp only [↓Keeps.upd]
    | split

theorem State.dropUnit_keeps {s0 s : State} (n : Nat) (u : AccessUnit) (cause : Nat) (h : Keeps s0 s) : Keeps s0 (State.dropUnit s n u cause) := by
  unfold State.dropUnit
  repeat' with_reducible first
    | assumption
    | apply State.postEvent_keeps
    | apply State.noteDrop_keeps
    | apply State.freeSet_keeps

theorem State.syncSrc_keeps {s0 s : State} (n : Nat) (h : Keeps s0 s) : Keeps s0 (State.syncSrc s n) := by
  unfold State.syncSrc
  repeat' with_reducible first
    | assumption
    | (intro (x : State); apply Keeps.cut (s0 := s0) (x := x); rotate_left; intro hx; clear_value x; rotate_left; subst x)
    | apply State.setNum_keeps
    | apply State.invalidate_keeps
    | apply State.epochForget_keeps
    | simp only [↓Keeps.updTrust]
    | split

theorem State.awaitIrap_keeps {s0 s : State} (n : Nat) (h : Keeps s0 s) : Keeps s0 (State.awaitIrap s n) := by
  unfold State.awaitIrap
  repeat' with_reducible first
    | assumption
    | apply State.syncSrc_keeps
    | apply State.modIng_keeps

theorem State.queueUnit_keeps {s0 s : State} (n : Nat) (u : AccessUnit) (h : Keeps s0 s) : Keeps s0 (State.queueUnit s n u) := by
  unfold State.queueUnit
  repeat' with_reducible first
    | assumption
    | (intro (x : State); apply Keeps.cut (s0 := s0) (x := x); rotate_left; intro hx; clear_value x; rotate_left; subst x)
    | apply State.dropUnit_keeps
    | apply State.awaitIrap_keeps
    | apply State.modIng_keeps
    | apply State.count_keeps
    | apply State.syncSrc_keeps
    | apply State.modStream_keeps
    | simp only [↓Keeps.updTrust]
    | split

theorem State.dpReply_keeps {s0 s : State} (p : Nat) (src : Src) (h : Keeps s0 s) : Keeps s0 (State.dpReply s p src) := by
  unfold State.dpReply
  repeat' with_reducible first
    | assumption
    | simp only [↓Keeps.upd]

theorem State.groupReport_keeps {s0 s : State} (n : Nat) (h : Keeps s0 s) : Keeps s0 (State.groupReport s n) := by
  unfold State.groupReport
  repeat' with_reducible first
    | assumption
    | apply State.dpReply_keeps
    | simp only [↓Keeps.updTrust]
    | split

theorem State.freeRefs_keeps {s0 s : State} (n : Nat) (h : Keeps s0 s) : Keeps s0 (State.freeRefs s n) := by
  unfold State.freeRefs
  repeat' with_reducible first
    | assumption
    | (intro (x : State); apply Keeps.cut (s0 := s0) (x := x); rotate_left; intro hx; clear_value x; rotate_left; subst x)
    | apply State.freeRun_keeps
    | apply State.modIng_keeps
    | split

theorem State.stopSrc_keeps {s0 s : State} (n : Nat) (h : Keeps s0 s) : Keeps s0 (State.stopSrc s n) := by
  unfold State.stopSrc
  repeat' with_reducible first
    | assumption
    | (intro (x : State); apply Keeps.cut (s0 := s0) (x := x); rotate_left; intro hx; clear_value x; rotate_left; subst x)
    | apply State.endClip_keeps
    | apply State.freeSet_keeps
    | apply State.setNum_keeps
    | apply State.modStream_keeps
    | apply State.groupReport_keeps
    | apply State.syncSrc_keeps
    | apply State.freeRefs_keeps
    | apply State.epochForget_keeps
    | (apply Keeps.foldl; rotate_left; intro t x ht; rotate_left)

theorem State.truncUnit_keeps {s0 s : State} (n : Nat) (u : AccessUnit) (h : Keeps s0 s) : Keeps s0 (State.truncUnit s n u) := by
  unfold State.truncUnit
  repeat' with_reducible first
    | assumption
    | apply State.awaitIrap_keeps
    | apply State.postEvent_keeps
    | apply State.noteDrop_keeps
    | apply State.freeSet_keeps

theorem State.completeUnit_keeps {s0 s : State} (n : Nat) (u : AccessUnit) (h : Keeps s0 s) : Keeps s0 (State.completeUnit s n u) := by
  unfold State.completeUnit
  repeat' with_reducible first
    | assumption
    | (intro (x : State); apply Keeps.cut (s0 := s0) (x := x); rotate_left; intro hx; clear_value x; rotate_left; subst x)
    | apply State.syncSrc_keeps
    | apply State.modIng_keeps
    | apply State.modStream_keeps
    | apply State.settleAffinity_keeps
    | apply State.adopt_keeps
    | apply State.count_keeps
    | apply State.truncUnit_keeps
    | apply State.awaitIrap_keeps
    | apply State.dropUnit_keeps
    | apply State.queueUnit_keeps
    | simp only [↓Keeps.updTrust]
    | split

theorem State.releasePacket_keeps {s0 s : State} (n : Nat) (a1 : Held) (h : Keeps s0 s) : Keeps s0 (State.releasePacket s n a1) := by
  unfold State.releasePacket
  repeat' with_reducible first
    | assumption
    | (intro (x : State); apply Keeps.cut (s0 := s0) (x := x); rotate_left; intro hx; clear_value x; rotate_left; subst x)
    | apply State.count_keeps
    | apply State.completeUnit_keeps
    | apply State.modIng_keeps
    | split

theorem execRtpRelease_keeps {s0 s : State} (st : StreamId) (h : Keeps s0 s) : NextKeeps s0 (execRtpRelease st s) := by
  unfold execRtpRelease
  repeat' with_reducible first
    | assumption
    | apply NextKeeps.next
    | apply State.advanceTo_keeps
    | apply State.modIng_keeps
    | apply done_keeps
    | apply State.releasePacket_keeps
    | (apply Keeps.foldl; rotate_left; intro t x ht; rotate_left)
    | simp only [↓Keeps.updTrust]
    | split

theorem discardDp_keeps {s0 s : State} (p : Nat) (h : Keeps s0 s) : Keeps s0 (discardDp s p) := by
  unfold discardDp
  repeat' with_reducible first
    | assumption
    | apply State.count_keeps

theorem State.srcPages_keeps {s0 s t : State} {n : Nat} (q : s.srcPages n = some t) (h : Keeps s0 s) : Keeps s0 t := by
  unfold State.srcPages at q
  split at q
  · simp at q
  · rename_i p u e
    have hu := State.modIng_keeps (s0 := s0) n (fun g => { g with refAt := some (p, s.refPages n) }) (State.alloc_keeps e h)
    extract_lets v w at q
    change Keeps s0 v at hu
    clear_value v w
    split at q
    · simp only [Option.some.injEq] at q
      exact q ▸ hu
    · simp at q

theorem dpModeRule_keeps {s0 : State} (p : Nat) : RuleKeeps s0 (dpModeRule p) := by
  unfold dpModeRule
  repeat' with_reducible first
    | assumption
    | (apply RuleKeeps.intro; intro s a hs; dsimp only)
    | apply State.setVal_keeps

theorem execDpMode_keeps {s0 s : State} (p : DataPort) (w : CmdW) (h : Keeps s0 s) : NextKeeps s0 (execDpMode p w s) := by
  unfold execDpMode
  repeat' with_reducible first
    | assumption
    | apply NextKeeps.next
    | apply done_keeps
    | apply State.hostWrite_keeps
    | apply dpModeRule_keeps

theorem encRule_keeps {s0 : State} : RuleKeeps s0 (encRule) := by
  unfold encRule
  repeat' with_reducible first
    | assumption
    | (apply RuleKeeps.intro; intro s a hs; dsimp only)
    | apply State.modStream_keeps
    | simp only [↓Keeps.upd]
    | split

theorem execEncClip_keeps {s0 s : State} (w : BlobW) (h : Keeps s0 s) : NextKeeps s0 (execEncClip w s) := by
  unfold execEncClip
  repeat' with_reducible first
    | assumption
    | apply NextKeeps.next
    | apply done_keeps
    | apply State.hostBlob_keeps
    | apply encRule_keeps

theorem execEncSnapshot_keeps {s0 s : State} (w : BlobW) (h : Keeps s0 s) : NextKeeps s0 (execEncSnapshot w s) := by
  unfold execEncSnapshot
  repeat' with_reducible first
    | assumption
    | apply NextKeeps.next
    | apply done_keeps
    | apply State.hostBlob_keeps
    | apply encRule_keeps

theorem State.lockSsrc_keeps {s0 s : State} (n : Nat) (a1 : Word) (h : Keeps s0 s) : Keeps s0 (State.lockSsrc s n a1) := by
  unfold State.lockSsrc
  repeat' with_reducible first
    | assumption
    | (intro (x : State); apply Keeps.cut (s0 := s0) (x := x); rotate_left; intro hx; clear_value x; rotate_left; subst x)
    | apply State.modIng_keeps
    | apply State.awaitIrap_keeps
    | apply State.postEvent_keeps
    | apply State.count_keeps
    | split

theorem State.detectTimecode_keeps {s0 s : State} (n : Nat) (number : Nat) (tc : Nat) (h : Keeps s0 s) : Keeps s0 (State.detectTimecode s n number tc) := by
  unfold State.detectTimecode
  repeat' with_reducible first
    | assumption
    | (intro (x : State); apply Keeps.cut (s0 := s0) (x := x); rotate_left; intro hx; clear_value x; rotate_left; subst x)
    | apply State.modIng_keeps
    | apply State.modStream_keeps
    | apply State.declareFrozen_keeps
    | simp only [↓Keeps.updTrust]
    | split

theorem State.recorded_keeps {s0 s : State} (n : Nat) (u : AccessUnit) (e : DecodeEnd) (h : Keeps s0 s) : Keeps s0 (State.recorded s n u e) := by
  unfold State.recorded
  repeat' with_reducible first
    | assumption
    | (intro (x : State); apply Keeps.cut (s0 := s0) (x := x); rotate_left; intro hx; clear_value x; rotate_left; subst x)
    | apply State.setBlob_keeps
    | apply State.writeBytes_keeps
    | simp only [↓Keeps.updTrust]
    | split

theorem State.decoded_keeps {s0 s : State} (n : Nat) (u : AccessUnit) (e : DecodeEnd) (h : Keeps s0 s) : Keeps s0 (State.decoded s n u e) := by
  unfold State.decoded
  repeat' with_reducible first
    | assumption
    | (intro (x : State); apply Keeps.cut (s0 := s0) (x := x); rotate_left; intro hx; clear_value x; rotate_left; subst x)
    | apply State.detectTimecode_keeps
    | apply State.modIng_keeps
    | split

theorem State.decodeFromIrap_keeps {s0 s : State} (n : Nat) (was : Bool) (h : Keeps s0 s) : Keeps s0 (State.decodeFromIrap s n was) := by
  unfold State.decodeFromIrap
  repeat' with_reducible first
    | assumption
    | (intro (x : State); apply Keeps.cut (s0 := s0) (x := x); rotate_left; intro hx; clear_value x; rotate_left; subst x)
    | apply State.modIng_keeps
    | apply State.syncSrc_keeps
    | apply State.dropUnit_keeps
    | (apply Keeps.foldl; rotate_left; intro t x ht; rotate_left)

theorem execDecodeDone_keeps {s0 s : State} (core : Fin 4) (e : DecodeEnd) (h : Keeps s0 s) : NextKeeps s0 (execDecodeDone core e s) := by
  unfold execDecodeDone
  repeat' with_reducible first
    | assumption
    | (intro (x : State); apply Keeps.cut (s0 := s0) (x := x); rotate_left; intro hx; clear_value x; rotate_left; subst x)
    | (intro x; clear_value x)
    | lift_lets
    | apply NextKeeps.next
    | apply done_keeps
    | apply State.freeRefs_keeps
    | apply State.freeSet_keeps
    | apply State.dropUnit_keeps
    | apply State.recorded_keeps
    | apply State.syncSrc_keeps
    | apply State.postEvent_keeps
    | apply State.modIng_keeps
    | apply State.decoded_keeps
    | apply State.count_keeps
    | apply State.decodeFromIrap_keeps
    | apply State.truncUnit_keeps
    | simp only [↓Keeps.upd]
    | split

theorem State.startSrc_keeps {s0 s : State} (n : Nat) (h : Keeps s0 s) : Keeps s0 (State.startSrc s n) := by
  unfold State.startSrc
  repeat' with_reducible first
    | assumption
    | (intro (x : State); apply Keeps.cut (s0 := s0) (x := x); rotate_left; intro hx; clear_value x; rotate_left; subst x)
    | apply State.modStream_keeps
    | apply State.modIng_keeps
    | apply State.setNum_keeps
    | apply State.groupReport_keeps
    | apply State.syncSrc_keeps
    | apply State.reclaimSets_keeps
    | refine State.srcPages_keeps (by assumption) ?_
    | (apply Keeps.getD; rotate_left; intro t ht; rotate_left)

theorem srcEnableRule_keeps {s0 : State} (n : Nat) : RuleKeeps s0 (srcEnableRule n) := by
  unfold srcEnableRule
  repeat' with_reducible first
    | assumption
    | (apply RuleKeeps.intro; intro s a hs; dsimp only)
    | apply State.startSrc_keeps
    | apply State.setNum_keeps
    | apply State.stopSrc_keeps
    | split

theorem execSnapDone_keeps {s0 s : State} (st : StreamId) (h : Keeps s0 s) : NextKeeps s0 (execSnapDone st s) := by
  unfold execSnapDone
  repeat' with_reducible first
    | assumption
    | apply NextKeeps.next
    | apply done_keeps
    | apply State.draw_keeps
    | refine State.draw_keeps_of (by assumption) ?_
    | apply State.writeBytes_keeps
    | apply State.postEvent_keeps
    | simp only [↓Keeps.upd]
    | split

theorem execStreamStallTimeout_keeps {s0 s : State} (st : StreamId) (h : Keeps s0 s) : NextKeeps s0 (execStreamStallTimeout st s) := by
  unfold execStreamStallTimeout
  repeat' with_reducible first
    | assumption
    | (intro (x : State); apply Keeps.cut (s0 := s0) (x := x); rotate_left; intro hx; clear_value x; rotate_left; subst x)
    | apply NextKeeps.next
    | apply State.advanceTo_keeps
    | apply State.syncSrc_keeps
    | apply State.modIng_keeps
    | apply done_keeps
    | apply State.postEvent_keeps
    | simp only [↓Keeps.updTrust]
    | split

theorem execConversionDone_keeps {s0 s : State} (st : StreamId) (h : Keeps s0 s) : NextKeeps s0 (execConversionDone st s) := by
  unfold execConversionDone
  repeat' with_reducible first
    | assumption
    | apply NextKeeps.next
    | apply done_keeps
    | apply State.modIng_keeps
    | apply State.draw_keeps
    | refine State.draw_keeps_of (by assumption) ?_
    | apply State.writeBytes_keeps
    | apply State.written_keeps
    | apply State.modStream_keeps
    | apply State.freeSet_keeps
    | apply State.noteDrop_keeps
    | simp only [↓Keeps.updTrust]
    | split

theorem State.dpReport_keeps {s0 s : State} (p : Nat) (h : Keeps s0 s) : Keeps s0 (State.dpReport s p) := by
  unfold State.dpReport
  repeat' with_reducible first
    | assumption
    | apply State.groupReport_keeps
    | (apply Keeps.foldl; rotate_left; intro t x ht; rotate_left)

theorem execSrcEnable_keeps {s0 s : State} (st : StreamId) (w : CmdW) (h : Keeps s0 s) : NextKeeps s0 (execSrcEnable st w s) := by
  unfold execSrcEnable
  repeat' with_reducible first
    | assumption
    | apply done_keeps
    | apply State.hostWrite_keeps
    | apply srcEnableRule_keeps

theorem execRtpPacketRx_keeps {s0 s : State} (st : StreamId) (pkt : RtpPacket) (h : Keeps s0 s) : NextKeeps s0 (execRtpPacketRx st pkt s) := by
  unfold execRtpPacketRx
  repeat' with_reducible first
    | assumption
    | (intro (x : State); apply Keeps.cut (s0 := s0) (x := x); rotate_left; intro hx; clear_value x; rotate_left; subst x)
    | (intro x; clear_value x)
    | lift_lets
    | apply NextKeeps.next
    | apply done_keeps
    | apply State.count_keeps
    | apply State.lockSsrc_keeps
    | apply State.modIng_keeps
    | split

theorem execClipDone_keeps {s0 s : State} (st : StreamId) (h : Keeps s0 s) : NextKeeps s0 (execClipDone st s) := by
  unfold execClipDone
  repeat' with_reducible first
    | assumption
    | apply NextKeeps.next
    | apply done_keeps
    | apply State.postEvent_keeps
    | apply State.modStream_keeps
    | split

theorem execSsrcTimeout_keeps {s0 s : State} (st : StreamId) (h : Keeps s0 s) : NextKeeps s0 (execSsrcTimeout st s) := by
  unfold execSsrcTimeout
  repeat' with_reducible first
    | assumption
    | apply NextKeeps.next
    | apply done_keeps
    | apply State.modIng_keeps
    | apply State.advanceTo_keeps
    | split

theorem execDecodeStart_keeps {s0 s : State} (core : Fin 4) (h : Keeps s0 s) : NextKeeps s0 (execDecodeStart core s) := by
  unfold execDecodeStart
  repeat' with_reducible first
    | assumption
    | apply NextKeeps.next
    | apply done_keeps
    | apply State.modIng_keeps
    | simp only [↓Keeps.upd]
    | split

theorem State.dpAnswer_keeps {s0 s : State} (p : Nat) (target : Nat) (f : EthFrame) (h : Keeps s0 s) : Keeps s0 (State.dpAnswer s p target f) := by
  unfold State.dpAnswer
  repeat' with_reducible first
    | assumption
    | apply State.dpReply_keeps
    | apply discardDp_keeps
    | split

theorem State.peerFrame_keeps {s0 s : State} (p : Nat) (k : PeerId) (b : Bytes) (h : Keeps s0 s) : NextKeeps s0 (State.peerFrame s p k b) := by
  unfold State.peerFrame
  repeat' with_reducible first
    | assumption
    | apply NextKeeps.next
    | apply done_keeps
    | apply State.count_keeps
    | apply discardDp_keeps
    | apply execPeerDataRx_keeps
    | apply execPeerAckRx_keeps
    | apply execPeerGetRx_keeps
    | apply execPeerAbortRx_keeps
    | simp only [↓Keeps.updTrust]
    | split

theorem execDpFrameRx_keeps {s0 s : State} (p : DataPort) (f : EthFrame) (h : Keeps s0 s) : NextKeeps s0 (execDpFrameRx p f s) := by
  unfold execDpFrameRx
  repeat' with_reducible first
    | assumption
    | apply NextKeeps.next
    | apply done_keeps
    | apply discardDp_keeps
    | apply State.dpAnswer_keeps
    | apply State.dpReport_keeps
    | apply State.peerFrame_keeps
    | split

theorem orphanResumeRule_keeps {s0 : State} : RuleKeeps s0 (orphanResumeRule) := by
  unfold orphanResumeRule
  repeat' with_reducible first
    | assumption
    | (apply RuleKeeps.cmd; intro s a hs)
    | apply State.leaveCause_keeps
    | simp only [↓Keeps.upd]

theorem execOrphanResume_keeps {s0 s : State} (w : CmdW) (h : Keeps s0 s) : NextKeeps s0 (execOrphanResume w s) := by
  unfold execOrphanResume
  repeat' with_reducible first
    | assumption
    | apply done_keeps
    | apply State.hostWrite_keeps
    | apply orphanResumeRule_keeps

theorem persEraseRule_keeps {s0 : State} (flashOk : Bool) : RuleKeeps s0 (persEraseRule flashOk) := by
  unfold persEraseRule
  repeat' with_reducible first
    | assumption
    | (apply RuleKeeps.intro; intro s a hs; dsimp only)
    | refine State.commitRec_keeps (by assumption) ?_
    | apply State.count_keeps
    | split

theorem execPersErase_keeps {s0 s : State} (w : CmdW) (flashOk : Bool) (h : Keeps s0 s) : NextKeeps s0 (execPersErase w flashOk s) := by
  unfold execPersErase
  repeat' with_reducible first
    | assumption
    | apply NextKeeps.next
    | apply done_keeps
    | apply State.hostWrite_keeps
    | apply persEraseRule_keeps

theorem numRule_keeps {s0 : State} (r : ObjRow) (k : Nat) (check : State → Nat → Bool) : RuleKeeps s0 (numRule r k check) :=
  WriteRule.plain_keeps r k

theorem affinityRule_keeps {s0 : State} (n : Nat) : RuleKeeps s0 (affinityRule n) := WriteRule.plain_keeps _ n

theorem bothRule_keeps {s0 : State} (r : ObjRow) (k : Nat) (check : Nat → Bool) (pre : State → Nat) :
    RuleKeeps s0 (bothRule r k check pre) := WriteRule.plain_keeps r k

theorem sliceResetRule_keeps {s0 : State} : RuleKeeps s0 (sliceResetRule) := by
  unfold sliceResetRule
  repeat' with_reducible first
    | assumption
    | (apply RuleKeeps.cmd; intro s a hs)
    | apply State.beginReset_keeps

theorem execSliceResetCmd_keeps {s0 s : State} (w : CmdW) (h : Keeps s0 s) : NextKeeps s0 (execSliceResetCmd w s) := by
  unfold execSliceResetCmd
  repeat' with_reducible first
    | assumption
    | apply done_keeps
    | apply State.hostWrite_keeps
    | apply sliceResetRule_keeps

theorem preRule_keeps {s0 : State} (r : ObjRow) (k : Nat) (pre : State → Nat) : RuleKeeps s0 (preRule r k pre) :=
  WriteRule.plain_keeps r k

theorem warmCmdRule_keeps {s0 : State} : RuleKeeps s0 (warmCmdRule) := by
  unfold warmCmdRule
  repeat' with_reducible first
    | assumption
    | (apply RuleKeeps.cmd; intro s a hs)
    | simp only [↓Keeps.upd]

theorem macsecSakRule_keeps {s0 : State} : RuleKeeps s0 (macsecSakRule) := by
  unfold macsecSakRule
  repeat' with_reducible first
    | assumption
    | (apply RuleKeeps.intro; intro s a hs; dsimp only)
    | simp only [↓Keeps.upd]
    | split

theorem setRule_keeps {s0 : State} (r : ObjRow) (n : Nat) (src : Bool) : RuleKeeps s0 (setRule r n src) :=
  WriteRule.plain_keeps r n

theorem vrhotRule_keeps {s0 : State} : RuleKeeps s0 (vrhotRule) := by
  unfold vrhotRule
  repeat' with_reducible first
    | assumption
    | (apply RuleKeeps.intro; intro s a hs; dsimp only)
    | apply numRule_keeps
    | apply State.refreshPower_keeps
    | apply State.setVal_keeps

theorem hostRules_keeps {s0 : State} (k : Nat) (ok : Bool) (v : Val) : ∀ x ∈ hostRules, RuleKeeps s0 (x.2 k ok v) := by
  unfold hostRules
  simp only [List.forall_mem_cons, List.not_mem_nil, false_implies, implies_true, and_true]
  exact ⟨persEraseRule_keeps _, warmCmdRule_keeps, sliceResetRule_keeps, orphanResumeRule_keeps, numRule_keeps _ _ _,
    macsecSakRule_keeps⟩

theorem mediaRules_keeps {s0 : State} (k : Nat) (ok : Bool) (v : Val) : ∀ x ∈ mediaRules, RuleKeeps s0 (x.2 k ok v) := by
  unfold mediaRules srcPlain
  simp only [List.map_cons, List.map_nil, List.cons_append, List.nil_append, List.forall_mem_cons, List.not_mem_nil,
    false_implies, implies_true, and_true]
  repeat' with_reducible first
    | apply And.intro
    | apply preRule_keeps
    | apply bothRule_keeps
    | apply numRule_keeps
    | apply setRule_keeps
    | apply srcEnableRule_keeps
    | apply dpModeRule_keeps
    | apply encRule_keeps
    | apply rawEnableRule_keeps
    | apply expoReqRule_keeps
    | apply sensorRetryRule_keeps
  exact fun _ _ h => State.setVal_keeps _ _ _ h

theorem workRules_keeps {s0 : State} (k : Nat) (ok : Bool) (v : Val) : ∀ x ∈ workRules, RuleKeeps s0 (x.2 k ok v) := by
  unfold workRules peerPlain
  simp only [List.map_cons, List.map_nil, List.cons_append, List.nil_append, List.forall_mem_cons, List.not_mem_nil,
    false_implies, implies_true, and_true]
  repeat' with_reducible first
    | apply And.intro
    | apply preRule_keeps
    | apply bothRule_keeps
    | apply affinityRule_keeps
    | apply clearRule_keeps
    | apply brkRule_keeps
    | apply peerEnableRule_keeps
    | apply qAbortRule_keeps
    | apply flagSetRule_keeps
    | apply flagClrRule_keeps
    | apply epochOpenRule_keeps
    | apply epochCommitRule_keeps
    | apply epochDiscardRule_keeps
    | apply qEnableRule_keeps
    | apply qDepthRule_keeps

theorem trustRules_keeps {s0 : State} (k : Nat) (ok : Bool) (v : Val) : ∀ x ∈ trustRules, RuleKeeps s0 (x.2 k ok v) := by
  unfold trustRules
  simp only [List.forall_mem_cons, List.not_mem_nil, false_implies, implies_true, and_true]
  exact ⟨safeForceRule_keeps, vrhotRule_keeps, keyRevokeRule_keeps _, attNonceRule_keeps, fwRestartRule_keeps _,
    updStageRule_keeps, updActivateRule_keeps, updCancelRule_keeps, updCommitRule_keeps _⟩

theorem ruleFor_keeps {s0 : State} (r : ObjRow) (k : Nat) (ok : Bool) (v : Val) : RuleKeeps s0 (ruleFor r k ok v) := by
  unfold ruleFor
  split
  · rename_i e
    have m := List.mem_of_find?_eq_some e
    unfold ruleTable at m
    simp only [List.mem_append] at m
    rcases m with ((m | m) | m) | m
    · exact hostRules_keeps _ _ _ _ m
    · exact mediaRules_keeps _ _ _ _ m
    · exact workRules_keeps _ _ _ _ m
    · exact trustRules_keeps _ _ _ _ m
  · exact WriteRule.plain_keeps _ _

theorem execMacsecSak_keeps {s0 s : State} (w : BlobW) (h : Keeps s0 s) : NextKeeps s0 (execMacsecSak w s) := by
  unfold execMacsecSak
  repeat' with_reducible first
    | assumption
    | apply NextKeeps.next
    | apply done_keeps
    | apply State.hostBlob_keeps
    | apply macsecSakRule_keeps

theorem State.reserve_keeps {s0 s : State} (n : Nat) (e : Entry) (h : Keeps s0 s) : Keeps s0 (s.reserve n e).2 := by
  unfold State.reserve
  split
  · exact State.alloc_keeps (by assumption) h
  · exact h
theorem State.reserve_keeps_of {s0 s t : State} {n : Nat} {d : Entry} {v : Option (Nat × Nat)} (e : s.reserve n d = (v, t))
    (h : Keeps s0 s) : Keeps s0 t := by
  have k := State.reserve_keeps n d h
  rw [e] at k
  exact k

theorem State.makeRings_keeps {s0 s : State} (h : Keeps s0 s) : Keeps s0 (State.makeRings s) := by
  unfold State.makeRings
  repeat' with_reducible first
    | assumption
    | apply State.reserve_keeps
    | refine State.reserve_keeps_of (by assumption) ?_
    | simp only [↓Keeps.upd]

theorem State.bringUpCold_keeps {s0 s : State} (h : Keeps s0 s) : Keeps s0 (State.bringUpCold s) := by
  unfold State.bringUpCold
  repeat' with_reducible first
    | assumption
    | (intro (x : State); apply Keeps.cut (s0 := s0) (x := x); rotate_left; intro hx; clear_value x; rotate_left; subst x)
    | apply State.retireChannel_keeps
    | apply State.setNum_keeps
    | apply State.openWork_keeps
    | apply State.makeRings_keeps
    | (apply Keeps.foldl; rotate_left; intro t x ht; rotate_left)

theorem State.release_keeps {s0 s : State} (p : Nat) (h : Keeps s0 s) : Keeps s0 (State.release s p) := by
  unfold State.release
  repeat' with_reducible first
    | assumption
    | (intro (x : State); apply Keeps.cut (s0 := s0) (x := x); rotate_left; intro hx; clear_value x; rotate_left; subst x)
    | apply State.modProc_keeps
    | apply State.loadComponent_keeps
    | apply State.setNum_keeps
    | split

theorem State.bootFrom_keeps {s0 s : State} (k : Nat) (rate : Bool) (h : Keeps s0 s) : Keeps s0 (State.bootFrom s k rate) := by
  unfold State.bootFrom
  repeat' with_reducible first
    | assumption
    | (intro (x : State); apply Keeps.cut (s0 := s0) (x := x); rotate_left; intro hx; clear_value x; rotate_left; subst x)
    | (intro (x : Trust); subst x)
    | apply State.setNum_keeps
    | apply State.modProc_keeps
    | apply State.release_keeps
    | (apply Keeps.foldl; rotate_left; intro t x ht; rotate_left)
    | simp only [↓Keeps.updTrust]
    | split

theorem State.copyEvent_keeps {s0 s : State} (old : Nat) (new : Nat) (d : Nat) (e : Nat) (h : Keeps s0 s) : Keeps s0 (State.copyEvent s old new d e) := by
  unfold State.copyEvent
  repeat' with_reducible first
    | assumption
    | apply State.writeBytes_keeps

theorem State.resizeEvents_keeps {s0 s : State} (d : Nat) (h : Keeps s0 s) : Keeps s0 (State.resizeEvents s d) := by
  unfold State.resizeEvents
  repeat' with_reducible first
    | assumption
    | refine State.alloc_keeps (by assumption) ?_
    | apply State.writeByte_keeps
    | apply State.copyEvent_keeps
    | apply State.setNum_keeps
    | apply State.freePages_keeps
    | (apply Keeps.foldl; rotate_left; intro t x ht; rotate_left)
    | simp only [↓Keeps.upd]
    | split

theorem execCrossingRequest_keeps {s0 s : State} (req : Nat) (tgt : Nat) (chan : Option ChanId) (acked : Bool) (h : Keeps s0 s) : NextKeeps s0 (execCrossingRequest req tgt chan acked s) := by
  unfold execCrossingRequest
  repeat' with_reducible first
    | assumption
    | apply NextKeeps.next
    | apply done_keeps
    | simp only [↓Keeps.upd]
    | split

theorem State.clearAll_keeps {s0 s : State} (rows : List ObjRow) (h : Keeps s0 s) : Keeps s0 (State.clearAll s rows) := by
  unfold State.clearAll
  repeat' with_reducible first
    | assumption
    | apply State.clearObj_keeps
    | (apply Keeps.foldl; rotate_left; intro t x ht; rotate_left)

theorem State.warmWork_keeps {s0 s : State} (h : Keeps s0 s) : Keeps s0 (State.warmWork s) := by
  unfold State.warmWork
  repeat' with_reducible first
    | assumption
    | simp only [↓Keeps.upd]

theorem State.warmApply_keeps {s0 s : State} (h : Keeps s0 s) : Keeps s0 (State.warmApply s) := by
  unfold State.warmApply
  repeat' with_reducible first
    | assumption
    | (intro (x : State); apply Keeps.cut (s0 := s0) (x := x); rotate_left; intro hx; clear_value x; rotate_left; subst x)
    | (apply Keeps.foldl; rotate_left; intro t x ht; rotate_left)
    | simp only [↓Keeps.upd]

theorem State.warmMedia_keeps {s0 s : State} (h : Keeps s0 s) : Keeps s0 (State.warmMedia s) := by
  unfold State.warmMedia
  repeat' with_reducible first
    | assumption
    | (intro (x : State); apply Keeps.cut (s0 := s0) (x := x); rotate_left; intro hx; clear_value x; rotate_left; subst x)
    | apply State.freeRun_keeps
    | (apply Keeps.foldl; rotate_left; intro t x ht; rotate_left)
    | simp only [↓Keeps.upd]

theorem State.warmProcs_keeps {s0 s : State} (h : Keeps s0 s) : Keeps s0 (State.warmProcs s) := by
  unfold State.warmProcs
  repeat' with_reducible first
    | assumption
    | apply State.setNum_keeps
    | (apply Keeps.foldl; rotate_left; intro t x ht; rotate_left)

theorem State.warmParts_keeps {s0 s : State} (h : Keeps s0 s) : Keeps s0 s.warmParts :=
  ⟨h.now, h.serial, h.rootKey, h.revoked, h.instar, h.cells⟩

theorem State.warmSlices_keeps {s0 s : State} (h : Keeps s0 s) : Keeps s0 (State.warmSlices s) := by
  unfold State.warmSlices
  repeat' with_reducible first
    | assumption
    | apply State.modSlice_keeps
    | (apply Keeps.foldl; rotate_left; intro t x ht; rotate_left)

theorem State.warmHardware_keeps {s0 s : State} (h : Keeps s0 s) : Keeps s0 (State.warmHardware s) := by
  unfold State.warmHardware
  repeat' with_reducible first
    | assumption
    | (intro (x : State); apply Keeps.cut (s0 := s0) (x := x); rotate_left; intro hx; clear_value x; rotate_left; subst x)
    | apply State.warmProcs_keeps
    | apply State.warmParts_keeps
    | apply State.warmSlices_keeps
    | apply State.clearAll_keeps
    | apply State.leaveCause_keeps
    | split

theorem State.warmLink_keeps {s0 s : State} (h : Keeps s0 s) : Keeps s0 (State.warmLink s) := by
  unfold State.warmLink
  repeat' with_reducible first
    | assumption
    | (intro (x : State); apply Keeps.cut (s0 := s0) (x := x); rotate_left; intro hx; clear_value x; rotate_left; subst x)
    | apply State.count_keeps
    | apply State.abortDeferred_keeps
    | simp only [↓Keeps.upd]

theorem State.enterRecovery_keeps {s0 s : State} (h : Keeps s0 s) : Keeps s0 (State.enterRecovery s) := by
  unfold State.enterRecovery
  repeat' with_reducible first
    | assumption
    | (intro (x : State); apply Keeps.cut (s0 := s0) (x := x); rotate_left; intro hx; clear_value x; rotate_left; subst x)
    | (intro (x : Trust); subst x)
    | apply State.setNum_keeps
    | apply State.release_keeps
    | simp only [↓Keeps.updTrust]

theorem State.selectBoot_keeps {s0 s : State} (cands : List Nat) (bad : Nat → Bool) (rate : Bool) (h : Keeps s0 s) : Keeps s0 (State.selectBoot s cands bad rate) := by
  unfold State.selectBoot
  repeat' with_reducible first
    | assumption
    | apply State.select_keeps
    | refine State.select_keeps_of (by assumption) ?_
    | apply State.enterRecovery_keeps
    | apply State.bootFrom_keeps
    | split

theorem State.reload_keeps {s0 s : State} (h : Keeps s0 s) : Keeps s0 (State.reload s) := by
  unfold State.reload
  repeat' with_reducible first
    | assumption
    | (intro (x : State); apply Keeps.cut (s0 := s0) (x := x); rotate_left; intro hx; clear_value x; rotate_left; subst x)
    | apply State.selectBoot_keeps
    | apply State.bootFrom_keeps
    | apply State.release_keeps
    | simp only [↓Keeps.upd]
    | split

theorem State.warmReset_keeps {s0 s : State} (cause : Nat) (bundle : Option Nat) (h : Keeps s0 s) : Keeps s0 (State.warmReset s cause bundle) := by
  unfold State.warmReset
  repeat' with_reducible first
    | assumption
    | (intro (x : State); apply Keeps.cut (s0 := s0) (x := x); rotate_left; intro hx; clear_value x; rotate_left; subst x)
    | apply State.enterCause_keeps
    | apply State.failStaging_keeps
    | apply State.count_keeps
    | apply State.setNum_keeps
    | apply State.warmWork_keeps
    | apply State.warmApply_keeps
    | apply State.warmMedia_keeps
    | apply State.warmHardware_keeps
    | apply State.warmLink_keeps
    | apply State.reload_keeps
    | simp only [↓Keeps.upd]
    | split

theorem State.beginActivation_keeps {s0 s : State} (target : Nat) (k : Nat) (h : Keeps s0 s) : Keeps s0 (State.beginActivation s target k) := by
  unfold State.beginActivation
  repeat' with_reducible first
    | assumption
    | apply State.warmReset_keeps
    | apply State.beginRestart_keeps
    | apply State.modProc_keeps
    | split

theorem State.runDue_keeps {s0 s : State} (h : Keeps s0 s) : Keeps s0 (State.runDue s) := by
  unfold State.runDue
  repeat' with_reducible first
    | assumption
    | (intro (x : State); apply Keeps.cut (s0 := s0) (x := x); rotate_left; intro hx; clear_value x; rotate_left; subst x)
    | apply State.beginRestart_keeps
    | apply State.beginActivation_keeps
    | apply State.warmReset_keeps
    | simp only [↓Keeps.upd]
    | split

theorem execFwRestart_keeps {s0 s : State} (p : ProcId) (w : CmdW) (h : Keeps s0 s) : NextKeeps s0 (execFwRestart p w s) := by
  unfold execFwRestart
  repeat' with_reducible first
    | assumption
    | apply done_keeps
    | apply State.runDue_keeps
    | apply State.hostWrite_keeps
    | apply fwRestartRule_keeps

theorem State.powerOnReset_keeps {s0 s : State} (h : Keeps s0 s) : Keeps s0 s.powerOnReset := by
  refine ⟨h.now, h.serial, h.rootKey, h.revoked, h.instar, fun w => ?_⟩
  have c := h.cells w
  simp only [State.cellsWf, Bool.and_eq_true] at c ⊢
  exact ⟨rfl, c.2⟩

theorem execRefclkLoss_keeps {s0 s : State} (h : Keeps s0 s) : NextKeeps s0 (execRefclkLoss s) := by
  unfold execRefclkLoss
  repeat' with_reducible first
    | assumption
    | apply NextKeeps.next
    | apply done_keeps
    | apply State.enterCause_keeps
    | apply State.postOpen_keeps
    | simp only [↓Keeps.upd]
    | split

theorem State.coldStart_keeps {s0 s : State} (env : BootEnv) (h : Keeps s0 s) : Keeps s0 (State.coldStart s env) := by
  unfold State.coldStart
  repeat' with_reducible first
    | assumption
    | apply State.draw_keeps
    | refine State.draw_keeps_of (by assumption) ?_
    | apply State.selectBoot_keeps
    | simp only [↓Keeps.updClk]

theorem execPwronNDeassert_keeps {s0 s : State} (env : BootEnv) (h : Keeps s0 s) : NextKeeps s0 (execPwronNDeassert env s) := by
  unfold execPwronNDeassert
  repeat' with_reducible first
    | assumption
    | (intro (x : State); apply Keeps.cut (s0 := s0) (x := x); rotate_left; intro hx; clear_value x; rotate_left; subst x)
    | apply NextKeeps.next
    | apply done_keeps
    | apply State.coldStart_keeps
    | simp only [↓Keeps.upd]
    | split

theorem State.endRestart_keeps {s0 s : State} (p : Nat) (h : Keeps s0 s) : Keeps s0 (State.endRestart s p) := by
  unfold State.endRestart
  repeat' with_reducible first
    | assumption
    | (intro (x : State); apply Keeps.cut (s0 := s0) (x := x); rotate_left; intro hx; clear_value x; rotate_left; subst x)
    | apply State.loadComponent_keeps
    | apply State.postRestarted_keeps
    | apply State.logCommon_keeps
    | apply State.postActivation_keeps
    | apply State.endHold_keeps
    | apply State.modProc_keeps
    | simp only [↓Keeps.updTrust]
    | split

theorem State.applyPers_keeps {s0 s : State} (a0 : PersRec) (h : Keeps s0 s) : Keeps s0 (State.applyPers s a0) := by
  unfold State.applyPers
  repeat' with_reducible first
    | assumption
    | apply State.count_keeps
    | apply ruleFor_keeps
    | apply State.setVal_keeps
    | split

theorem State.loadPers_keeps {s0 s : State} (h : Keeps s0 s) : Keeps s0 (State.loadPers s) := by
  unfold State.loadPers
  repeat' with_reducible first
    | assumption
    | (intro (x : State); apply Keeps.cut (s0 := s0) (x := x); rotate_left; intro hx; clear_value x; rotate_left; subst x)
    | apply State.applyPers_keeps
    | (apply Keeps.foldl; rotate_left; intro t x ht; rotate_left)
    | simp only [↓Keeps.upd]

theorem State.releaseOnce_keeps {s0 s : State} (p : Nat) (h : Keeps s0 s) : Keeps s0 (State.releaseOnce s p) := by
  unfold State.releaseOnce
  repeat' with_reducible first
    | assumption
    | apply State.release_keeps
    | split

theorem State.bringUpWarm_keeps {s0 s : State} (h : Keeps s0 s) : Keeps s0 (State.bringUpWarm s) := by
  unfold State.bringUpWarm
  repeat' with_reducible first
    | assumption
    | (intro (x : State); apply Keeps.cut (s0 := s0) (x := x); rotate_left; intro hx; clear_value x; rotate_left; subst x)
    | apply State.modChan_keeps
    | apply State.abandonMig_keeps
    | apply State.resizeEvents_keeps
    | (apply Keeps.foldl; rotate_left; intro t x ht; rotate_left)
    | simp only [↓Keeps.updTrust]
    | split

theorem State.bundleDone_keeps {s0 s : State} (h : Keeps s0 s) : Keeps s0 (State.bundleDone s) := by
  unfold State.bundleDone
  repeat' with_reducible first
    | assumption
    | apply State.postActivation_keeps
    | simp only [↓Keeps.upd]
    | split

theorem State.firstTests_keeps {s0 s : State} (h : Keeps s0 s) : Keeps s0 (State.firstTests s) := by
  unfold State.firstTests
  repeat' with_reducible first
    | assumption
    | apply State.modSlice_keeps
    | (apply Keeps.foldl; rotate_left; intro t x ht; rotate_left)
    | split

theorem State.bringUp_keeps {s0 s : State} (h : Keeps s0 s) : Keeps s0 (State.bringUp s) := by
  unfold State.bringUp
  repeat' with_reducible first
    | assumption
    | (intro (x : State); apply Keeps.cut (s0 := s0) (x := x); rotate_left; intro hx; clear_value x; rotate_left; subst x)
    | apply State.bringUpCold_keeps
    | apply State.bringUpWarm_keeps
    | apply State.bundleDone_keeps
    | apply State.drainEvents_keeps
    | apply State.firstTests_keeps
    | simp only [↓Keeps.upd]
    | split

theorem State.admitAgain_keeps {s0 s : State} (n : Nat) (h : Keeps s0 s) : Keeps s0 (State.admitAgain s n) := by
  unfold State.admitAgain
  repeat' with_reducible first
    | assumption
    | apply State.startRaw_keeps
    | apply State.reserve_keeps
    | refine State.reserve_keeps_of (by assumption) ?_
    | apply State.modIng_keeps
    | apply State.syncSrc_keeps
    | split

theorem State.goOn_keeps {s0 s : State} (p : Nat) (h : Keeps s0 s) : Keeps s0 (State.goOn s p) := by
  unfold State.goOn
  repeat' with_reducible first
    | assumption
    | apply State.loadPers_keeps
    | apply State.releaseOnce_keeps
    | apply State.release_keeps
    | apply State.refreshPower_keeps
    | apply State.setClocks_keeps
    | apply State.bringUp_keeps
    | apply State.admitAgain_keeps
    | (apply Keeps.foldl; rotate_left; intro t x ht; rotate_left)
    | simp only [↓Keeps.upd]
    | split

theorem execProcessorReady_keeps {s0 s : State} (p : ProcId) (h : Keeps s0 s) : NextKeeps s0 (execProcessorReady p s) := by
  unfold execProcessorReady
  repeat' with_reducible first
    | assumption
    | (intro (x : State); apply Keeps.cut (s0 := s0) (x := x); rotate_left; intro hx; clear_value x; rotate_left; subst x)
    | apply NextKeeps.next
    | apply State.endRestart_keeps
    | apply State.setNum_keeps
    | apply State.leaveCause_keeps
    | apply done_keeps
    | apply State.goOn_keeps
    | simp only [↓Keeps.updTrust]
    | split

theorem execActivationSettle_keeps {s0 s : State} (h : Keeps s0 s) : NextKeeps s0 (execActivationSettle s) := by
  unfold execActivationSettle
  repeat' with_reducible first
    | assumption
    | apply NextKeeps.next
    | apply done_keeps
    | apply State.beginActivation_keeps
    | apply State.clearPending_keeps
    | apply State.advanceTo_keeps
    | split

theorem execWarmCmd_keeps {s0 s : State} (w : CmdW) (h : Keeps s0 s) : NextKeeps s0 (execWarmCmd w s) := by
  unfold execWarmCmd
  repeat' with_reducible first
    | assumption
    | apply done_keeps
    | apply State.runDue_keeps
    | apply State.hostWrite_keeps
    | apply warmCmdRule_keeps

theorem execIslandHandshakeTimeout_keeps {s0 s : State} (id : Nat) (both : Bool) (h : Keeps s0 s) : NextKeeps s0 (execIslandHandshakeTimeout id both s) := by
  unfold execIslandHandshakeTimeout
  repeat' with_reducible first
    | assumption
    | apply NextKeeps.next
    | apply State.advanceTo_keeps
    | apply done_keeps
    | apply State.islandFault_keeps
    | simp only [↓Keeps.upd]
    | split

theorem execSliceResetTimeout_keeps {s0 s : State} (sl : SliceId) (h : Keeps s0 s) : NextKeeps s0 (execSliceResetTimeout sl s) := by
  unfold execSliceResetTimeout
  repeat' with_reducible first
    | assumption
    | apply NextKeeps.next
    | apply done_keeps
    | apply State.retireSlice_keeps
    | apply State.advanceTo_keeps
    | split

theorem execUpdActivateProcessor_keeps {s0 s : State} (w : CmdW) (h : Keeps s0 s) : NextKeeps s0 (execUpdActivateProcessor w s) := by
  unfold execUpdActivateProcessor
  repeat' with_reducible first
    | assumption
    | apply done_keeps
    | apply State.runDue_keeps
    | apply State.hostWrite_keeps
    | apply updActivateRule_keeps

theorem execCoreRailLow_keeps {s0 s : State} (sl : Option SliceId) (h : Keeps s0 s) : NextKeeps s0 (execCoreRailLow sl s) := by
  unfold execCoreRailLow
  repeat' with_reducible first
    | assumption
    | apply NextKeeps.next
    | apply done_keeps
    | apply State.islandReaction_keeps
    | apply State.postOpen_keeps
    | split

theorem execPwronNAssert_keeps {s0 s : State} (h : Keeps s0 s) : NextKeeps s0 (execPwronNAssert s) := by
  unfold execPwronNAssert
  repeat' with_reducible first
    | assumption
    | apply NextKeeps.next
    | apply done_keeps
    | apply State.powerOnReset_keeps
    | simp only [↓Keeps.upd]
    | split

theorem execWarmNDeassert_keeps {s0 s : State} (h : Keeps s0 s) : NextKeeps s0 (execWarmNDeassert s) := by
  unfold execWarmNDeassert
  repeat' with_reducible first
    | assumption
    | (intro (x : State); apply Keeps.cut (s0 := s0) (x := x); rotate_left; intro hx; clear_value x; rotate_left; subst x)
    | apply NextKeeps.next
    | apply done_keeps
    | apply State.reload_keeps
    | simp only [↓Keeps.upd]
    | split

theorem execRailMonitorReturn_keeps {s0 s : State} (env : BootEnv) (h : Keeps s0 s) : NextKeeps s0 (execRailMonitorReturn env s) := by
  unfold execRailMonitorReturn
  repeat' with_reducible first
    | assumption
    | (intro (x : State); apply Keeps.cut (s0 := s0) (x := x); rotate_left; intro hx; clear_value x; rotate_left; subst x)
    | apply NextKeeps.next
    | apply done_keeps
    | apply State.advanceTo_keeps
    | apply State.coldStart_keeps
    | simp only [↓Keeps.upd]
    | split

theorem execUpdActivateBundle_keeps {s0 s : State} (w : CmdW) (h : Keeps s0 s) : NextKeeps s0 (execUpdActivateBundle w s) := by
  unfold execUpdActivateBundle
  repeat' with_reducible first
    | assumption
    | apply done_keeps
    | apply State.runDue_keeps
    | apply State.hostWrite_keeps
    | apply updActivateRule_keeps

theorem execLateAcknowledge_keeps {s0 s : State} (id : Nat) (h : Keeps s0 s) : NextKeeps s0 (execLateAcknowledge id s) := by
  unfold execLateAcknowledge
  repeat' with_reducible first
    | assumption
    | apply NextKeeps.next
    | apply done_keeps
    | simp only [↓Keeps.upd]
    | split

theorem execWarmNAssert_keeps {s0 s : State} (h : Keeps s0 s) : NextKeeps s0 (execWarmNAssert s) := by
  unfold execWarmNAssert
  repeat' with_reducible first
    | assumption
    | apply NextKeeps.next
    | apply done_keeps
    | apply State.warmReset_keeps
    | simp only [↓Keeps.upd]
    | split

theorem execRailMonitorLow_keeps {s0 s : State} (rail : Fin 3) (h : Keeps s0 s) : NextKeeps s0 (execRailMonitorLow rail s) := by
  unfold execRailMonitorLow
  repeat' with_reducible first
    | assumption
    | apply NextKeeps.next
    | apply done_keeps
    | apply State.powerOnReset_keeps
    | simp only [↓Keeps.upd]

theorem State.syncProc_keeps {s0 s : State} (p : Nat) (h : Keeps s0 s) : Keeps s0 (State.syncProc s p).2 := by
  unfold State.syncProc
  repeat' with_reducible first
    | assumption
    | apply State.draw_keeps
    | refine State.draw_keeps_of (by assumption) ?_
    | split
theorem State.syncProc_keeps_of {s0 s t : State} {p : Nat} {v_ : _} (e : State.syncProc s p = (v_, t)) (h : Keeps s0 s) : Keeps s0 t := by
  have k := State.syncProc_keeps (s0 := s0) (p := p) h
  rw [e] at k
  exact k

theorem State.summary_keeps {s0 s : State} (h : Keeps s0 s) : Keeps s0 (State.summary s).2 := by
  unfold State.summary
  repeat' with_reducible first
    | assumption
    | apply State.syncProc_keeps
    | refine State.syncProc_keeps_of (by assumption) ?_
    | (apply Keeps.foldl1; rotate_left; intro t x ht; dsimp only; rotate_left)
    | simp only [↓Keeps.updTrust]
    | split
theorem State.summary_keeps_of {s0 s t : State}  {v_ : _} (e : State.summary s = (v_, t)) (h : Keeps s0 s) : Keeps s0 t := by
  have k := State.summary_keeps (s0 := s0) h
  rw [e] at k
  exact k

theorem syncBody_keeps {s0 s : State} (h : Keeps s0 s) : Keeps s0 (syncBody s).2.2 := by
  unfold syncBody
  repeat' with_reducible first
    | assumption
    | apply State.summary_keeps
    | refine State.summary_keeps_of (by assumption) ?_
    | apply State.writeBytes_keeps
    | split
theorem syncBody_keeps_of {s0 s t : State}  {v_ w_ : _} (e : syncBody s = (v_, w_, t)) (h : Keeps s0 s) : Keeps s0 t := by
  have k := syncBody_keeps (s0 := s0) h
  rw [e] at k
  exact k

theorem execSync_keeps {s0 s : State} (r : Req) (h : Keeps s0 s) : NextKeeps s0 (execSync r s) := by
  unfold execSync
  repeat' with_reducible first
    | assumption
    | apply NextKeeps.next
    | apply done_keeps
    | apply State.hostReq_keeps
    | apply syncBody_keeps
    | refine syncBody_keeps_of (by assumption) ?_

theorem State.hostWriteBlocks_keeps {s0 s : State} (a : Nat) (data : Bytes) (a2 : List Nat) (h : Keeps s0 s) :
    Keeps s0 (State.hostWriteBlocks a data a2 s).2 := by
  induction a2 generalizing s with
  | nil => exact h
  | cons b r ih =>
    unfold State.hostWriteBlocks
    extract_lets lo hi whole
    have k : ∀ w : Bool, Keeps s0 (if w = true then (true, s.unmarkBad (b * 64)) else s.hostBlock (b * 64)).2 := by
      intro w
      cases w
      · exact State.hostBlock_keeps _ h
      · exact State.unmarkBad_keeps _ h
    replace k := k whole
    generalize (if whole = true then (true, s.unmarkBad (b * 64)) else s.hostBlock (b * 64)) = x at k ⊢
    obtain ⟨good, t⟩ := x
    dsimp only at k ⊢
    split
    · exact k
    · exact ih (State.writeBytes_keeps _ _ k)
theorem State.hostWriteBlocks_keeps_of {s0 s t : State} {a : Nat} {data : Bytes} {a2 : List Nat} {v_ : _} (e : State.hostWriteBlocks a data a2 s = (v_, t)) (h : Keeps s0 s) : Keeps s0 t := by
  have k := State.hostWriteBlocks_keeps (s0 := s0) (a := a) (data := data) (a2 := a2) h
  rw [e] at k
  exact k

theorem memWriteBody_keeps {s0 s : State} (addr : Nat) (bytes : Bytes) (h : Keeps s0 s) : Keeps s0 (memWriteBody addr bytes s).2.2 := by
  unfold memWriteBody
  repeat' with_reducible first
    | assumption
    | apply State.hostWriteBlocks_keeps
    | refine State.hostWriteBlocks_keeps_of (by assumption) ?_
    | simp only [↓Keeps.updTrust]
    | split
theorem memWriteBody_keeps_of {s0 s t : State} {addr : Nat} {bytes : Bytes} {v_ w_ : _} (e : memWriteBody addr bytes s = (v_, w_, t)) (h : Keeps s0 s) : Keeps s0 t := by
  have k := memWriteBody_keeps (s0 := s0) (addr := addr) (bytes := bytes) h
  rw [e] at k
  exact k

theorem State.releaseBuf_keeps {s0 s : State} (a0 : Nat) (h : Keeps s0 s) : Keeps s0 (State.releaseBuf s a0).2 := by
  unfold State.releaseBuf
  repeat' with_reducible first
    | assumption
    | apply State.modBuf_keeps
    | split
theorem State.releaseBuf_keeps_of {s0 s t : State} {a0 : Nat} {v_ : _} (e : State.releaseBuf s a0 = (v_, t)) (h : Keeps s0 s) : Keeps s0 t := by
  have k := State.releaseBuf_keeps (s0 := s0) (a0 := a0) h
  rw [e] at k
  exact k

theorem State.timeState_keeps {s0 s : State} (step : Int) (h : Keeps s0 s) : Keeps s0 (State.timeState s step) := by
  unfold State.timeState
  repeat' with_reducible first
    | assumption
    | apply State.postEvent_keeps

theorem execGptpHoldover_keeps {s0 s : State} (h : Keeps s0 s) : NextKeeps s0 (execGptpHoldover s) := by
  unfold execGptpHoldover
  repeat' with_reducible first
    | assumption
    | apply NextKeeps.next
    | apply done_keeps
    | apply State.timeState_keeps
    | apply State.setNum_keeps
    | apply State.advanceTo_keeps
    | split

theorem State.sendEvent_keeps {s0 s : State} (heartbeat : Bool) (h : Keeps s0 s) : Keeps s0 (State.sendEvent s heartbeat) := by
  unfold State.sendEvent
  repeat' with_reducible first
    | assumption
    | simp only [↓Keeps.upd]

theorem execEventFrameSend_keeps {s0 s : State} (h : Keeps s0 s) : NextKeeps s0 (execEventFrameSend s) := by
  unfold execEventFrameSend
  repeat' with_reducible first
    | assumption
    | apply NextKeeps.next
    | apply done_keeps
    | apply State.sendEvent_keeps
    | apply State.advanceTo_keeps
    | split

theorem execHlpHoldTimeout_keeps {s0 s : State} (seq : Word) (h : Keeps s0 s) : NextKeeps s0 (execHlpHoldTimeout seq s) := by
  unfold execHlpHoldTimeout
  repeat' with_reducible first
    | assumption
    | apply NextKeeps.next
    | apply done_keeps
    | apply State.count_keeps
    | apply State.advanceTo_keeps
    | simp only [↓Keeps.upd]
    | split

theorem execSpFrameRx_keeps {s0 s : State} (f : EthFrame) (h : Keeps s0 s) : NextKeeps s0 (execSpFrameRx f s) := by
  unfold execSpFrameRx
  repeat' with_reducible first
    | assumption
    | apply NextKeeps.next
    | apply done_keeps
    | simp only [↓Keeps.upd]
    | split

theorem State.lapse_keeps {s0 s : State} (how : Nat) (h : Keeps s0 s) : Keeps s0 (State.lapse s how) := by
  unfold State.lapse
  repeat' with_reducible first
    | assumption
    | (intro (x : State); apply Keeps.cut (s0 := s0) (x := x); rotate_left; intro hx; clear_value x; rotate_left; subst x)
    | apply State.postEvent_keeps
    | apply State.enterCause_keeps
    | simp only [↓Keeps.upd]
    | split

theorem releaseBody_keeps {s0 s : State} (h : Keeps s0 s) : Keeps s0 (releaseBody s).2.2 := by
  unfold releaseBody
  repeat' with_reducible first
    | assumption
    | apply State.lapse_keeps
theorem releaseBody_keeps_of {s0 s t : State}  {v_ w_ : _} (e : releaseBody s = (v_, w_, t)) (h : Keeps s0 s) : Keeps s0 t := by
  have k := releaseBody_keeps (s0 := s0) h
  rw [e] at k
  exact k

theorem State.releaseBufs_keeps {s0 s : State} (a0 : List Word) (h : Keeps s0 s) : Keeps s0 (State.releaseBufs a0 s).2 := by
  induction a0 generalizing s with
  | nil => exact h
  | cons x r ih => exact ih (State.releaseBuf_keeps _ h)
theorem State.releaseBufs_keeps_of {s0 s t : State} {a0 : List Word} {v_ : _} (e : State.releaseBufs a0 s = (v_, t)) (h : Keeps s0 s) : Keeps s0 t := by
  have k := State.releaseBufs_keeps (s0 := s0) (a0 := a0) h
  rw [e] at k
  exact k

theorem resultReleaseBody_keeps {s0 s : State} (hs : List Word) (h : Keeps s0 s) : Keeps s0 (resultReleaseBody hs s).2.2 := by
  unfold resultReleaseBody
  repeat' with_reducible first
    | assumption
    | apply State.releaseBufs_keeps
    | refine State.releaseBufs_keeps_of (by assumption) ?_
    | split
theorem resultReleaseBody_keeps_of {s0 s t : State} {hs : List Word} {v_ w_ : _} (e : resultReleaseBody hs s = (v_, w_, t)) (h : Keeps s0 s) : Keeps s0 t := by
  have k := resultReleaseBody_keeps (s0 := s0) (hs := hs) h
  rw [e] at k
  exact k

theorem execPeerDelayMeasurement_keeps {s0 s : State} (h : Keeps s0 s) : NextKeeps s0 (execPeerDelayMeasurement s) := by
  unfold execPeerDelayMeasurement
  repeat' with_reducible first
    | assumption
    | (intro (x : Clock); subst x)
    | apply NextKeeps.next
    | apply done_keeps
    | simp only [↓Keeps.updClk]
    | split

theorem State.grant_keeps {s0 s : State} (r : Req) (hostId : Bytes) (periodMs : Nat) (h : Keeps s0 s) : Keeps s0 (State.grant s r hostId periodMs) := by
  unfold State.grant
  repeat' with_reducible first
    | assumption
    | apply State.draw_keeps
    | refine State.draw_keeps_of (by assumption) ?_
    | apply State.postEvent_keeps
    | simp only [↓Keeps.upd]

theorem State.claim_keeps {s0 s : State} (r : Req) (hostId : Bytes) (periodMs : Nat) (h : Keeps s0 s) : Keeps s0 (State.claim s r hostId periodMs) := by
  unfold State.claim
  repeat' with_reducible first
    | assumption
    | (intro (x : State); apply Keeps.cut (s0 := s0) (x := x); rotate_left; intro hx; clear_value x; rotate_left; subst x)
    | apply State.respond_keeps
    | apply State.grant_keeps
    | split

theorem execClaim_keeps {s0 s : State} (r : Req) (hostId : Bytes) (periodMs : Nat) (h : Keeps s0 s) : NextKeeps s0 (execClaim r hostId periodMs s) := by
  unfold execClaim
  repeat' with_reducible first
    | assumption
    | apply NextKeeps.next
    | apply done_keeps
    | apply State.claim_keeps

theorem State.hostRead_keeps {s0 s : State} (a n : Nat) (h : Keeps s0 s) : Keeps s0 (s.hostRead a n).2.2 := by
  have k : Keeps s0 ((blocksOf a n).foldl (fun (x : Bool × State) b => if x.1 then x.2.hostBlock (b * 64) else x) (true, s)).2 := by
    refine Keeps.foldl1 h (fun p x k => ?_)
    split
    · exact State.hostBlock_keeps _ k
    · exact k
  unfold State.hostRead
  split
  rename_i e
  rw [e] at k
  split <;> exact k
theorem State.hostRead_keeps_of {s0 s t : State} {a : Nat} {n : Nat} {v_ w_ : _} (e : State.hostRead s a n = (v_, w_, t)) (h : Keeps s0 s) : Keeps s0 t := by
  have k := State.hostRead_keeps (s0 := s0) (a := a) (n := n) h
  rw [e] at k
  exact k

theorem renewBody_keeps {s0 s : State} (h : Keeps s0 s) : Keeps s0 (renewBody s).2.2 := by
  unfold renewBody
  repeat' with_reducible first
    | assumption
theorem renewBody_keeps_of {s0 s t : State}  {v_ w_ : _} (e : renewBody s = (v_, w_, t)) (h : Keeps s0 s) : Keeps s0 t := by
  have k := renewBody_keeps (s0 := s0) h
  rw [e] at k
  exact k

theorem execRenew_keeps {s0 s : State} (r : Req) (h : Keeps s0 s) : NextKeeps s0 (execRenew r s) := by
  unfold execRenew
  repeat' with_reducible first
    | assumption
    | apply NextKeeps.next
    | apply done_keeps
    | apply State.hostReq_keeps
    | apply renewBody_keeps
    | refine renewBody_keeps_of (by assumption) ?_

theorem execResultRelease_keeps {s0 s : State} (r : Req) (handles : List Word) (h : Keeps s0 s) : NextKeeps s0 (execResultRelease r handles s) := by
  unfold execResultRelease
  repeat' with_reducible first
    | assumption
    | apply NextKeeps.next
    | apply done_keeps
    | apply State.hostReq_keeps
    | apply resultReleaseBody_keeps
    | refine resultReleaseBody_keeps_of (by assumption) ?_
    | intro a

theorem execEvtHeartbeat_keeps {s0 s : State} (h : Keeps s0 s) : NextKeeps s0 (execEvtHeartbeat s) := by
  unfold execEvtHeartbeat
  repeat' with_reducible first
    | assumption
    | apply NextKeeps.next
    | apply done_keeps
    | apply State.sendEvent_keeps
    | apply State.advanceTo_keeps
    | split

theorem memReadBody_keeps {s0 s : State} (addr : Nat) (len : Nat) (h : Keeps s0 s) : Keeps s0 (memReadBody addr len s).2.2 := by
  unfold memReadBody
  repeat' with_reducible first
    | assumption
    | apply State.hostRead_keeps
    | refine State.hostRead_keeps_of (by assumption) ?_
    | simp only [↓Keeps.updTrust]
    | split
theorem memReadBody_keeps_of {s0 s t : State} {addr : Nat} {len : Nat} {v_ w_ : _} (e : memReadBody addr len s = (v_, w_, t)) (h : Keeps s0 s) : Keeps s0 t := by
  have k := memReadBody_keeps (s0 := s0) (addr := addr) (len := len) h
  rw [e] at k
  exact k

theorem execLeaseExpiry_keeps {s0 s : State} (h : Keeps s0 s) : NextKeeps s0 (execLeaseExpiry s) := by
  unfold execLeaseExpiry
  repeat' with_reducible first
    | assumption
    | apply NextKeeps.next
    | apply done_keeps
    | apply State.lapse_keeps
    | apply State.advanceTo_keeps
    | split

theorem execGptpSyncRx_keeps {s0 s : State} (time : Nat) (h : Keeps s0 s) : NextKeeps s0 (execGptpSyncRx time s) := by
  unfold execGptpSyncRx
  split
  · exact NextKeeps.next h
  · dsimp only
    have ht := State.setNum_keeps (s0 := s0) Obj.ltOffset 0 (satI32 ((time : Int) - (s.clk.lode : Int)))
      (State.setNum_keeps (s0 := s0) Obj.ltState 0 1 h)
    generalize (s.setNum Obj.ltState 0 1).setNum Obj.ltOffset 0 (satI32 ((time : Int) - (s.clk.lode : Int))) = t at ht ⊢
    apply done_keeps
    have hc : ∀ p : Bool, Keeps s0 (if p = true then
        { t.count Obj.ltSteps with clk := { t.clk with lode := time, slew := 0, lastSync := t.clk.now } }
      else { t with clk := { t.clk with slew := (time : Int) - (s.clk.lode : Int), lastSync := t.clk.now } }) := by
      intro p
      cases p
      · exact Keeps.same ht rfl rfl rfl
      · exact Keeps.same (s := t.count Obj.ltSteps) (State.count_keeps _ _ _ ht) rfl rfl rfl
    repeat' with_reducible first
      | apply State.timeState_keeps
      | split
    all_goals first
      | exact hc true
      | exact hc false

theorem execPortLinkChange_keeps {s0 s : State} (port : Fin 4) (up : Bool) (h : Keeps s0 s) : NextKeeps s0 (execPortLinkChange port up s) := by
  unfold execPortLinkChange
  repeat' with_reducible first
    | assumption
    | apply NextKeeps.next
    | apply done_keeps
    | apply State.setNum_keeps
    | simp only [↓Keeps.upd]
    | split

theorem execMemRead_keeps {s0 s : State} (r : Req) (addr : Nat) (len : Nat) (h : Keeps s0 s) : NextKeeps s0 (execMemRead r addr len s) := by
  unfold execMemRead
  repeat' with_reducible first
    | assumption
    | apply done_keeps
    | apply State.hostReq_keeps
    | apply memReadBody_keeps
    | refine memReadBody_keeps_of (by assumption) ?_
    | intro a

theorem resultReadBody_keeps {s0 s : State} (a0 : Nat) (offset : Nat) (len : Nat) (h : Keeps s0 s) : Keeps s0 (resultReadBody a0 offset len s).2.2 := by
  unfold resultReadBody
  repeat' with_reducible first
    | assumption
    | apply State.hostRead_keeps
    | refine State.hostRead_keeps_of (by assumption) ?_
    | simp only [↓Keeps.updTrust]
    | split
theorem resultReadBody_keeps_of {s0 s t : State} {a0 : Nat} {offset : Nat} {len : Nat} {v_ w_ : _} (e : resultReadBody a0 offset len s = (v_, w_, t)) (h : Keeps s0 s) : Keeps s0 t := by
  have k := resultReadBody_keeps (s0 := s0) (a0 := a0) (offset := offset) (len := len) h
  rw [e] at k
  exact k

theorem execRelease_keeps {s0 s : State} (r : Req) (h : Keeps s0 s) : NextKeeps s0 (execRelease r s) := by
  unfold execRelease
  repeat' with_reducible first
    | assumption
    | apply done_keeps
    | apply State.hostReq_keeps
    | apply releaseBody_keeps
    | refine releaseBody_keeps_of (by assumption) ?_

theorem execResultRead_keeps {s0 s : State} (r : Req) (handle : Word) (offset : Nat) (len : Nat) (h : Keeps s0 s) : NextKeeps s0 (execResultRead r handle offset len s) := by
  unfold execResultRead
  repeat' with_reducible first
    | assumption
    | apply done_keeps
    | apply State.hostReq_keeps
    | apply resultReadBody_keeps
    | refine resultReadBody_keeps_of (by assumption) ?_
    | intro a

theorem execMemWrite_keeps {s0 s : State} (r : Req) (addr : Nat) (bytes : Bytes) (h : Keeps s0 s) : NextKeeps s0 (execMemWrite r addr bytes s) := by
  unfold execMemWrite
  repeat' with_reducible first
    | assumption
    | apply done_keeps
    | apply State.hostReq_keeps
    | apply memWriteBody_keeps
    | refine memWriteBody_keeps_of (by assumption) ?_
    | intro a

theorem State.freeReq_keeps {s0 s : State} (r : Req) (type : Nat) (body : State → Nat × Bytes × State)
    (hb : ∀ s, Keeps s0 s → Keeps s0 (body s).2.2) (h : Keeps s0 s) : Keeps s0 (s.freeReq r type body) := by
  unfold State.freeReq
  split
  · exact h
  · exact State.respond_keeps _ _ _ _ _ (hb _ h)

theorem State.setStaged_keeps {s0 s : State} (a0 : Option (Nat × Bytes × Nat)) (h : Keeps s0 s) : Keeps s0 (State.setStaged s a0) := by
  unfold State.setStaged
  repeat' with_reducible first
    | assumption
    | simp only [↓Keeps.upd]

theorem State.mbPut_keeps {s0 s : State} (b : Bytes) (h : Keeps s0 s) : Keeps s0 (State.mbPut s b) := by
  unfold State.mbPut
  repeat' with_reducible first
    | assumption
    | apply State.setNum_keeps
    | apply State.setBlob_keeps

theorem State.mbPart_keeps {s0 s : State} (h : Keeps s0 s) : Keeps s0 (State.mbPart s).2 := by
  unfold State.mbPart
  repeat' with_reducible first
    | assumption
    | (intro (x : State); apply Keeps.cut (s0 := s0) (x := x); rotate_left; intro hx; clear_value x; rotate_left; subst x)
    | apply State.summary_keeps
    | refine State.summary_keeps_of (by assumption) ?_
    | apply State.mbPut_keeps
    | simp only [↓Keeps.upd]
    | split
theorem State.mbPart_keeps_of {s0 s t : State}  {v_ : _} (e : State.mbPart s = (v_, t)) (h : Keeps s0 s) : Keeps s0 t := by
  have k := State.mbPart_keeps (s0 := s0) h
  rw [e] at k
  exact k

theorem State.mbRun_keeps {s0 s : State} (code : Nat) (h : Keeps s0 s) : Keeps s0 (State.mbRun s code).2 := by
  unfold State.mbRun
  repeat' with_reducible first
    | assumption
    | apply State.mbPut_keeps
    | apply State.mbPart_keeps
    | refine State.mbPart_keeps_of (by assumption) ?_
    | apply State.imageBegin_keeps
    | refine State.imageBegin_keeps_of (by assumption) ?_
    | apply State.imageData_keeps
    | refine State.imageData_keeps_of (by assumption) ?_
    | apply State.imageEnd_keeps
    | refine State.imageEnd_keeps_of (by assumption) ?_
    | simp only [↓Keeps.upd]
    | split
theorem State.mbRun_keeps_of {s0 s t : State} {code : Nat} {v_ : _} (e : State.mbRun s code = (v_, t)) (h : Keeps s0 s) : Keeps s0 t := by
  have k := State.mbRun_keeps (s0 := s0) (code := code) h
  rw [e] at k
  exact k

theorem mbCmdRule_keeps {s0 : State} : RuleKeeps s0 (mbCmdRule) := by
  unfold mbCmdRule
  repeat' with_reducible first
    | assumption
    | (apply RuleKeeps.intro; intro s a hs; dsimp only)
    | apply State.mbRun_keeps
    | refine State.mbRun_keeps_of (by assumption) ?_
    | apply State.count_keeps
    | apply State.setNum_keeps
    | split

theorem writeRule_keeps {s0 : State} (r : ObjRow) (k : Nat) (flashOk : Bool) (v : Val) : RuleKeeps s0 (writeRule r k flashOk v) := by
  unfold writeRule
  repeat' with_reducible first
    | apply mbCmdRule_keeps
    | apply ruleFor_keeps
    | split

theorem State.writeFound_keeps {s0 s : State} (r : ObjRow) (k : Nat) (w : DictW) (h : Keeps s0 s) : Keeps s0 (State.writeFound s r k w).2 := by
  unfold State.writeFound
  repeat' with_reducible first
    | assumption
    | apply State.setStaged_keeps
    | apply State.writeObj_keeps
    | refine State.writeObj_keeps_of (by assumption) ?_
    | apply writeRule_keeps
    | split
theorem State.writeFound_keeps_of {s0 s t : State} {r : ObjRow} {k : Nat} {w : DictW} {v_ : _} (e : State.writeFound s r k w = (v_, t)) (h : Keeps s0 s) : Keeps s0 t := by
  have k := State.writeFound_keeps (s0 := s0) (r := r) (k := k) (w := w) h
  rw [e] at k
  exact k

theorem dictWriteBody_keeps {s0 s : State} (w : DictW) (h : Keeps s0 s) : Keeps s0 (dictWriteBody w s).2.2 := by
  unfold dictWriteBody
  repeat' with_reducible first
    | assumption
    | apply State.writeFound_keeps
    | refine State.writeFound_keeps_of (by assumption) ?_
    | apply State.touch_keeps
    | simp only [↓Keeps.updTrust]
    | split
theorem dictWriteBody_keeps_of {s0 s t : State} {w : DictW} {v_ w_ : _} (e : dictWriteBody w s = (v_, w_, t)) (h : Keeps s0 s) : Keeps s0 t := by
  have k := dictWriteBody_keeps (s0 := s0) (w := w) h
  rw [e] at k
  exact k

theorem State.dictWrite_keeps {s0 s : State} (w : DictW) (cmd : Instr) (h : Keeps s0 s) : Keeps s0 (State.dictWrite s w cmd) := by
  unfold State.dictWrite
  repeat' with_reducible first
    | assumption
    | apply State.freeReq_keeps
    | apply dictWriteBody_keeps
    | refine dictWriteBody_keeps_of (by assumption) ?_
    | apply State.hostReq_keeps
    | split
    | intro a

theorem execMbWarmReset_keeps {s0 s : State} (r : Req) (h : Keeps s0 s) : NextKeeps s0 (execMbWarmReset r s) := by
  unfold execMbWarmReset
  repeat' with_reducible first
    | assumption
    | apply done_keeps
    | apply State.runDue_keeps
    | apply State.dictWrite_keeps

theorem State.readFound_keeps {s0 s : State} (f : Found) (key : Nat) (offset : Nat) (maxLen : Nat) (h : Keeps s0 s) : Keeps s0 (State.readFound s f key offset maxLen).2.2 := by
  unfold State.readFound
  repeat' with_reducible first
    | assumption
    | (intro (x : State); apply Keeps.cut (s0 := s0) (x := x); rotate_left; intro hx; clear_value x; rotate_left; subst x)
    | simp only [↓Keeps.upd]
    | split
theorem State.readFound_keeps_of {s0 s t : State} {f : Found} {key : Nat} {offset : Nat} {maxLen : Nat} {v_ w_ : _} (e : State.readFound s f key offset maxLen = (v_, w_, t)) (h : Keeps s0 s) : Keeps s0 t := by
  have k := State.readFound_keeps (s0 := s0) (f := f) (key := key) (offset := offset) (maxLen := maxLen) h
  rw [e] at k
  exact k

theorem dictReadBody_keeps {s0 s : State} (index : Nat) (sub : Nat) (offset : Nat) (maxLen : Nat) (h : Keeps s0 s) : Keeps s0 (dictReadBody index sub offset maxLen s).2.2 := by
  unfold dictReadBody
  repeat' with_reducible first
    | assumption
    | (intro (x : State); apply Keeps.cut (s0 := s0) (x := x); rotate_left; intro hx; clear_value x; rotate_left; subst x)
    | apply State.touch_keeps
    | apply State.readFound_keeps
    | refine State.readFound_keeps_of (by assumption) ?_
    | split
theorem dictReadBody_keeps_of {s0 s t : State} {index : Nat} {sub : Nat} {offset : Nat} {maxLen : Nat} {v_ w_ : _} (e : dictReadBody index sub offset maxLen s = (v_, w_, t)) (h : Keeps s0 s) : Keeps s0 t := by
  have k := dictReadBody_keeps (s0 := s0) (index := index) (sub := sub) (offset := offset) (maxLen := maxLen) h
  rw [e] at k
  exact k

theorem State.dictRead_keeps {s0 s : State} (r : Req) (cmd : Instr) (index : Nat) (sub : Nat) (offset : Nat) (maxLen : Nat) (h : Keeps s0 s) : Keeps s0 (State.dictRead s r cmd index sub offset maxLen) := by
  unfold State.dictRead
  repeat' with_reducible first
    | assumption
    | apply State.freeReq_keeps
    | apply dictReadBody_keeps
    | refine dictReadBody_keeps_of (by assumption) ?_
    | apply State.hostReq_keeps
    | split
    | intro a

theorem execDictRead_keeps {s0 s : State} (r : Req) (index : BitVec 16) (sub : Byte) (offset : Nat) (maxLen : Nat) (h : Keeps s0 s) : NextKeeps s0 (execDictRead r index sub offset maxLen s) := by
  unfold execDictRead
  repeat' with_reducible first
    | assumption
    | apply NextKeeps.next
    | apply done_keeps
    | apply State.dictRead_keeps

theorem execDictStageTimeout_keeps {s0 s : State} (h : Keeps s0 s) : NextKeeps s0 (execDictStageTimeout s) := by
  unfold execDictStageTimeout
  repeat' with_reducible first
    | assumption
    | apply NextKeeps.next
    | apply done_keeps
    | apply State.setStaged_keeps
    | apply State.advanceTo_keeps
    | split

theorem execImageEnd_keeps {s0 s : State} (r : Req) (h : Keeps s0 s) : NextKeeps s0 (execImageEnd r s) := by
  unfold execImageEnd
  repeat' with_reducible first
    | assumption
    | apply NextKeeps.next
    | apply done_keeps
    | apply State.dictWrite_keeps

theorem execSyncPart_keeps {s0 s : State} (r : Req) (h : Keeps s0 s) : NextKeeps s0 (execSyncPart r s) := by
  unfold execSyncPart
  repeat' with_reducible first
    | assumption
    | apply NextKeeps.next
    | apply done_keeps
    | apply State.dictWrite_keeps

theorem execMerWrite_keeps {s0 s : State} (w : DictW) (h : Keeps s0 s) : NextKeeps s0 (execMerWrite w s) := by
  unfold execMerWrite
  repeat' with_reducible first
    | assumption
    | apply done_keeps
    | apply State.runDue_keeps
    | apply State.dictWrite_keeps

theorem execIdleWrite_keeps {s0 s : State} (w : DictW) (h : Keeps s0 s) : NextKeeps s0 (execIdleWrite w s) := by
  unfold execIdleWrite
  repeat' with_reducible first
    | assumption
    | apply done_keeps
    | apply State.runDue_keeps
    | apply State.dictWrite_keeps

theorem execIdent_keeps {s0 s : State} (r : Req) (h : Keeps s0 s) : NextKeeps s0 (execIdent r s) := by
  unfold execIdent
  repeat' with_reducible first
    | assumption
    | apply NextKeeps.next
    | apply done_keeps
    | apply State.dictWrite_keeps

theorem execDictWrite_keeps {s0 s : State} (w : DictW) (h : Keeps s0 s) : NextKeeps s0 (execDictWrite w s) := by
  unfold execDictWrite
  repeat' with_reducible first
    | assumption
    | apply done_keeps
    | apply State.runDue_keeps
    | apply State.dictWrite_keeps

theorem execImageBegin_keeps {s0 s : State} (r : Req) (h : Keeps s0 s) : NextKeeps s0 (execImageBegin r s) := by
  unfold execImageBegin
  repeat' with_reducible first
    | assumption
    | apply NextKeeps.next
    | apply done_keeps
    | apply State.dictWrite_keeps

theorem execImageData_keeps {s0 s : State} (r : Req) (h : Keeps s0 s) : NextKeeps s0 (execImageData r s) := by
  unfold execImageData
  repeat' with_reducible first
    | assumption
    | apply NextKeeps.next
    | apply done_keeps
    | apply State.dictWrite_keeps

theorem nextOf_keeps {s0 s : State} {o : Host.Outcome State Fault Refusal} (h : Keeps s0 s) (k : NextKeeps s0 o) :
    Keeps s0 (nextOf s o) := by
  cases o
  · exact k _ rfl
  · exact h
  · exact h

theorem State.dropDeferred_keeps {s0 s : State} (k : Nat) (h : Keeps s0 s) : Keeps s0 (State.dropDeferred s k) := by
  unfold State.dropDeferred
  repeat' with_reducible first
    | assumption
    | simp only [↓Keeps.upd]

theorem State.deferredTimeout_keeps {s0 s : State} (k : Nat) (h : Keeps s0 s) : Keeps s0 (State.deferredTimeout s k) := by
  unfold State.deferredTimeout
  repeat' with_reducible first
    | assumption
    | apply State.deferDone_keeps
    | apply State.dropDeferred_keeps
    | apply State.advanceTo_keeps
    | split

theorem State.headTimeout_keeps {s0 s : State} (q : Nat) (h : Keeps s0 s) : Keeps s0 (State.headTimeout s q) := by
  unfold State.headTimeout
  repeat' with_reducible first
    | assumption
    | apply State.finish_keeps
    | apply State.advanceTo_keeps
    | apply State.buildGraph_keeps
    | apply State.headWait_keeps
    | split

theorem State.seqTimeout_keeps {s0 s : State} (n : Nat) (h : Keeps s0 s) : Keeps s0 (State.seqTimeout s n) := by
  unfold State.seqTimeout
  repeat' with_reducible first
    | assumption
    | apply State.buildGraph_keeps
    | apply State.endJobFault_keeps
    | apply State.advanceTo_keeps
    | split

theorem State.threadTimeout_keeps {s0 s : State} (k : Nat) (h : Keeps s0 s) : Keeps s0 (State.threadTimeout s k) := by
  unfold State.threadTimeout
  repeat' with_reducible first
    | assumption
    | apply State.advanceTo_keeps
    | apply State.buildGraph_keeps
    | apply State.sliverFault_keeps
    | split

theorem execWaitTimeoutExpiry_keeps {s0 s : State} (w : WaitRef) (h : Keeps s0 s) : NextKeeps s0 (execWaitTimeoutExpiry w s) := by
  unfold execWaitTimeoutExpiry
  repeat' with_reducible first
    | assumption
    | apply done_keeps
    | apply State.headTimeout_keeps
    | apply State.seqTimeout_keeps
    | apply State.threadTimeout_keeps
    | apply State.deferredTimeout_keeps
    | split

theorem State.applyIdle_keeps {s0 s : State} (a0 : Nat × Val) (h : Keeps s0 s) : Keeps s0 (State.applyIdle s a0) := by
  unfold State.applyIdle
  repeat' with_reducible first
    | assumption
    | (intro (x : State); apply Keeps.cut (s0 := s0) (x := x); rotate_left; intro hx; clear_value x; rotate_left; subst x)
    | apply State.count_keeps
    | apply State.setVal_keeps
    | simp only [↓Keeps.upd]
    | split

theorem State.runItem_keeps {s0 s : State} (q : QueueId) (i : Item) (h : Keeps s0 s) : Keeps s0 (State.runItem s q i) := by
  unfold State.runItem
  repeat' with_reducible first
    | assumption
    | apply nextOf_keeps
    | apply execRun_keeps
    | apply State.modCtx_keeps
    | apply State.modItem_keeps
    | apply execUnload_keeps
    | apply execAttach_keeps
    | apply execDetach_keeps
    | apply execPut_keeps
    | apply execGet_keeps
    | apply execAlloc_keeps
    | apply execFree_keeps
    | apply execAdopt_keeps
    | simp only [↓Keeps.updTrust]
    | split

theorem State.applyDeferred_keeps {s0 s : State} {w : WriteRule} (r : ObjRow) (k : Nat) (v : Val) (hw : RuleKeeps s0 w)
    (h : Keeps s0 s) : Keeps s0 (s.applyDeferred r k w v).2 := by
  unfold State.applyDeferred
  split
  · split
    · exact State.count_keeps _ _ _ h
    · exact State.moment_keeps _ _ _ hw (State.commitRec_keeps (by assumption) h)
  · exact State.moment_keeps _ _ _ hw h
theorem State.applyDeferred_keeps_of {s0 s t : State} {w : WriteRule} {r : ObjRow} {k : Nat} {v : Val} {st : Nat}
    (e : s.applyDeferred r k w v = (st, t)) (hw : RuleKeeps s0 w) (h : Keeps s0 s) : Keeps s0 t := by
  have q := State.applyDeferred_keeps r k v hw h
  rw [e] at q
  exact q

theorem State.runDeferred_keeps {s0 s : State} (k : Nat) (h : Keeps s0 s) : Keeps s0 (State.runDeferred s k) := by
  unfold State.runDeferred
  repeat' with_reducible first
    | assumption
    | (intro (x : State); apply Keeps.cut (s0 := s0) (x := x); rotate_left; intro hx; clear_value x; rotate_left; subst x)
    | apply writeRule_keeps
    | apply State.dropDeferred_keeps
    | apply State.deferDone_keeps
    | apply State.applyDeferred_keeps
    | refine State.applyDeferred_keeps_of (by assumption) ?_
    | apply State.runDue_keeps
    | simp only [↓Keeps.updTrust]
    | split

theorem State.runDeferredItem_keeps {s0 s : State} (q : QueueId) (h : Keeps s0 s) : Keeps s0 (State.runDeferredItem s q) := by
  unfold State.runDeferredItem
  repeat' with_reducible first
    | assumption
    | apply State.runItem_keeps
    | split

theorem execIdlePoint_keeps {s0 s : State} (h : Keeps s0 s) : NextKeeps s0 (execIdlePoint s) := by
  unfold execIdlePoint
  repeat' with_reducible first
    | assumption
    | apply NextKeeps.next
    | apply done_keeps
    | apply State.applyIdle_keeps
    | (apply Keeps.foldl; rotate_left; intro t x ht; rotate_left)
    | simp only [↓Keeps.upd]
    | split

theorem execDeferredExecute_keeps {s0 s : State} (k : Nat) (h : Keeps s0 s) : NextKeeps s0 (execDeferredExecute k s) := by
  unfold execDeferredExecute
  repeat' with_reducible first
    | assumption
    | apply done_keeps
    | apply State.runDeferredItem_keeps
    | apply State.runDeferred_keeps
    | split

theorem rangeBody_keeps {s0 s : State} (h : Keeps s0 s) : Keeps s0 (rangeBody s).2.2 := by
  unfold rangeBody
  repeat' with_reducible first
    | assumption
theorem rangeBody_keeps_of {s0 s t : State}  {v_ w_ : _} (e : rangeBody s = (v_, w_, t)) (h : Keeps s0 s) : Keeps s0 t := by
  have k := rangeBody_keeps (s0 := s0) h
  rw [e] at k
  exact k

theorem releaseBodyOf_keeps {s0 s : State} (b : Bytes) (h : Keeps s0 s) : Keeps s0 (releaseBodyOf b s).2.2 := by
  unfold releaseBodyOf
  repeat' with_reducible first
    | assumption
    | apply rangeBody_keeps
    | refine rangeBody_keeps_of (by assumption) ?_
    | apply resultReleaseBody_keeps
    | refine resultReleaseBody_keeps_of (by assumption) ?_
    | simp only [↓Keeps.updTrust]
    | split
theorem releaseBodyOf_keeps_of {s0 s t : State} {b : Bytes} {v_ w_ : _} (e : releaseBodyOf b s = (v_, w_, t)) (h : Keeps s0 s) : Keeps s0 t := by
  have k := releaseBodyOf_keeps (s0 := s0) (b := b) h
  rw [e] at k
  exact k

theorem State.bells_keeps {s0 s : State} (a0 : List Bytes) (h : Keeps s0 s) : Keeps s0 (State.bells a0 s).2 := by
  induction a0 generalizing s with
  | nil => exact h
  | cons x r ih => exact ih (State.bell_keeps _ _ h)
theorem State.bells_keeps_of {s0 s t : State} {a0 : List Bytes} {v_ : _} (e : State.bells a0 s = (v_, t)) (h : Keeps s0 s) : Keeps s0 t := by
  have k := State.bells_keeps (s0 := s0) (a0 := a0) h
  rw [e] at k
  exact k

theorem doorbellBody_keeps {s0 s : State} (b : Bytes) (h : Keeps s0 s) : Keeps s0 (doorbellBody b s).2.2 := by
  unfold doorbellBody
  repeat' with_reducible first
    | assumption
    | apply rangeBody_keeps
    | refine rangeBody_keeps_of (by assumption) ?_
    | apply State.bells_keeps
    | refine State.bells_keeps_of (by assumption) ?_
    | simp only [↓Keeps.updTrust]
    | split
theorem doorbellBody_keeps_of {s0 s t : State} {b : Bytes} {v_ w_ : _} (e : doorbellBody b s = (v_, w_, t)) (h : Keeps s0 s) : Keeps s0 t := by
  have k := doorbellBody_keeps (s0 := s0) (b := b) h
  rw [e] at k
  exact k

theorem requestBody_keeps {s0 s : State} (type : Nat) (b : Bytes) (h : Keeps s0 s) : Keeps s0 (requestBody type b s).2.2 := by
  unfold requestBody
  repeat' with_reducible first
    | assumption
    | apply releaseBody_keeps
    | refine releaseBody_keeps_of (by assumption) ?_
    | apply rangeBody_keeps
    | refine rangeBody_keeps_of (by assumption) ?_
    | apply renewBody_keeps
    | refine renewBody_keeps_of (by assumption) ?_
    | apply memReadBody_keeps
    | refine memReadBody_keeps_of (by assumption) ?_
    | apply memWriteBody_keeps
    | refine memWriteBody_keeps_of (by assumption) ?_
    | apply resultReadBody_keeps
    | refine resultReadBody_keeps_of (by assumption) ?_
    | apply releaseBodyOf_keeps
    | refine releaseBodyOf_keeps_of (by assumption) ?_
    | apply doorbellBody_keeps
    | refine doorbellBody_keeps_of (by assumption) ?_
    | apply syncBody_keeps
    | refine syncBody_keeps_of (by assumption) ?_
    | split
theorem requestBody_keeps_of {s0 s t : State} {type : Nat} {b : Bytes} {v_ w_ : _} (e : requestBody type b s = (v_, w_, t)) (h : Keeps s0 s) : Keeps s0 t := by
  have k := requestBody_keeps (s0 := s0) (type := type) (b := b) h
  rw [e] at k
  exact k

theorem State.request_keeps {s0 s : State} (r : Req) (type : Nat) (b : Bytes) (cmd : Instr) (h : Keeps s0 s) : Keeps s0 (State.request s r type b cmd) := by
  unfold State.request
  repeat' with_reducible first
    | assumption
    | apply State.claim_keeps
    | apply State.freeReq_keeps
    | apply rangeBody_keeps
    | refine rangeBody_keeps_of (by assumption) ?_
    | apply State.dictRead_keeps
    | apply State.hostReq_keeps
    | apply State.dictWrite_keeps
    | apply requestBody_keeps
    | refine requestBody_keeps_of (by assumption) ?_
    | split
    | intro a

theorem State.macsecRx_keeps {s0 s : State} (f : EthFrame) (h : Keeps s0 s) : Keeps s0 (State.macsecRx s f).2 := by
  unfold State.macsecRx
  repeat' with_reducible first
    | assumption
    | apply State.count_keeps
    | simp only [↓Keeps.upd]
    | split
theorem State.macsecRx_keeps_of {s0 s t : State} {f : EthFrame} {v_ : _} (e : State.macsecRx s f = (v_, t)) (h : Keeps s0 s) : Keeps s0 t := by
  have k := State.macsecRx_keeps (s0 := s0) (f := f) h
  rw [e] at k
  exact k

theorem State.answer_keeps {s0 s : State} (f : EthFrame) (ours : Bool) (h : Keeps s0 s) : Keeps s0 (State.answer s f ours) := by
  unfold State.answer
  repeat' with_reducible first
    | assumption
    | simp only [↓Keeps.upd]
    | split

theorem State.requestOf_keeps {s0 s : State} (f : EthFrame) (h : Keeps s0 s) : Keeps s0 (State.requestOf s f) := by
  unfold State.requestOf
  repeat' with_reducible first
    | assumption
    | (intro (x : State); apply Keeps.cut (s0 := s0) (x := x); rotate_left; intro hx; clear_value x; rotate_left; subst x)
    | apply State.request_keeps
    | apply State.runDue_keeps
    | simp only [↓Keeps.upd]
    | split

theorem State.acceptHl_keeps {s0 s : State} (f : EthFrame) (h : Keeps s0 s) : Keeps s0 (State.acceptHl s f) := by
  unfold State.acceptHl
  repeat' with_reducible first
    | assumption
    | apply State.answer_keeps
    | apply State.count_keeps
    | apply State.requestOf_keeps
    | split

theorem execHlFrameRx_keeps {s0 s : State} (f : EthFrame) (h : Keeps s0 s) : NextKeeps s0 (execHlFrameRx f s) := by
  unfold execHlFrameRx
  repeat' with_reducible first
    | assumption
    | apply NextKeeps.next
    | apply State.count_keeps
    | apply State.macsecRx_keeps
    | refine State.macsecRx_keeps_of (by assumption) ?_
    | apply done_keeps
    | apply State.acceptHl_keeps
    | split

theorem exec_keeps {s0 s : State} (i : Instr) (h : Keeps s0 s) : NextKeeps s0 (exec i s) := by
  unfold exec
  repeat' with_reducible first
    | assumption
    | apply done_keeps
    | apply execPwronNDeassert_keeps
    | apply execRailMonitorLow_keeps
    | apply execCoreRailLow_keeps
    | apply execRefclkLoss_keeps
    | apply execWarmNAssert_keeps
    | apply execWarmCmd_keeps
    | apply execCrossingRequest_keeps
    | apply execIslandHandshakeTimeout_keeps
    | apply execLateAcknowledge_keeps
    | apply execProgramFetch_keeps
    | apply execLcSet_keeps
    | apply execLcAdd_keeps
    | apply execAbSet_keeps
    | apply execAbAdd_keeps
    | apply execCmp_keeps
    | apply execBr_keeps
    | apply execBrn_keeps
    | apply execLoop_keeps
    | apply execSclFlagWait_keeps
    | apply execSclFlagSet_keeps
    | apply execSclFlagClr_keeps
    | apply execLayer_keeps
    | apply execHalt_keeps
    | apply execDinIssue_keeps
    | apply execDoutIssue_keeps
    | apply execFaVec_keeps
    | apply execFaWin_keeps
    | apply execFaXfm_keeps
    | apply execFbDense_keeps
    | apply execFbGroup4_keeps
    | apply execWeightLoadStart_keeps
    | apply execArrTile_keeps
    | apply execArrCont_keeps
    | apply execArrClearSlot_keeps
    | apply execTileStart_keeps
    | apply execTransform_keeps
    | apply execIssue_keeps
    | apply execInverse_keeps
    | apply execDrnWrite_keeps
    | apply execDrnAdd_keeps
    | apply execDrnAddOut_keeps
    | apply execDrnWriteOut_keeps
    | apply execDrainRow_keeps
    | apply execRowVerdict_keeps
    | apply execArrClear_keeps
    | apply execBreakpointMatch_keeps
    | apply execBreakpointStop_keeps
    | apply execBrkResume_keeps
    | apply execBrkSingleStep_keeps
    | apply execTileStoreAccess_keeps
    | apply execDescriptorStart_keeps
    | apply execDmaRequestSend_keeps
    | apply execDmaRequestDone_keeps
    | apply execDescriptorComplete_keeps
    | apply execTagExpiry_keeps
    | apply execTsClear_keeps
    | apply execSliverTaskStart_keeps
    | apply execSliverInstruction_keeps
    | apply execCsrAccess_keeps
    | apply execFence_keeps
    | apply execFenceI_keeps
    | apply execWfi_keeps
    | apply execSlDmaq_keeps
    | apply execSlDmaw_keeps
    | apply execSlFwait_keeps
    | apply execSlFset_keeps
    | apply execSlFclr_keeps
    | apply execSlYield_keeps
    | apply execSlExit_keeps
    | apply execSlTimel_keeps
    | apply execSlTimeh_keeps
    | apply execSlDig_keeps
    | apply execSlTsw_keeps
    | apply execSlVtsw_keeps
    | apply execWindowLoad_keeps
    | apply execCacheMiss_keeps
    | apply execCacheLineFill_keeps
    | apply execMissRegisterExpiry_keeps
    | apply execCycleBudgetExhausted_keeps
    | apply execDualCompare_keeps
    | apply execClusterModeChange_keeps
    | apply execSlvClear_keeps
    | apply execSorterEnqueue_keeps
    | apply execRequestAdmit_keeps
    | apply execSorterIssue_keeps
    | apply execRequestAgeOver_keeps
    | apply execBurstComplete_keeps
    | apply execRetrainDone_keeps
    | apply execMirrorReplace_keeps
    | apply execScrubRead_keeps
    | apply execHeatDecay_keeps
    | apply execMigrationCheck_keeps
    | apply execMigrationCopyDone_keeps
    | apply execMigrationUpdate_keeps
    | apply execSlotZeroDone_keeps
    | apply execChClear_keeps
    | apply execPeerEnable_keeps
    | apply execPeerDataRx_keeps
    | apply execPeerSegmentWritten_keeps
    | apply execPeerAckRx_keeps
    | apply execPeerGetRx_keeps
    | apply execPeerAbortRx_keeps
    | apply execPeerAckTimer_keeps
    | apply execPeerResendTimer_keeps
    | apply execPeerXferIdExpiry_keeps
    | apply execSqTail_keeps
    | apply execCqHead_keeps
    | apply execEvtHead_keeps
    | apply execLogHead_keeps
    | apply execTraceHead_keeps
    | apply execSubmissionRead_keeps
    | apply execItemAccept_keeps
    | apply execStreamJobAccept_keeps
    | apply execRun_keeps
    | apply execLoad_keeps
    | apply execLoadComplete_keeps
    | apply execUnload_keeps
    | apply execAttach_keeps
    | apply execDetach_keeps
    | apply execFlagSet_keeps
    | apply execFlagClr_keeps
    | apply execFlagWait_keeps
    | apply execPut_keeps
    | apply execGet_keeps
    | apply execAlloc_keeps
    | apply execFree_keeps
    | apply execAdopt_keeps
    | apply execMarker_keeps
    | apply execJobDispatch_keeps
    | apply execBeSegmentBoundary_keeps
    | apply execJobEnd_keeps
    | apply execCompletionPost_keeps
    | apply execJournalReplay_keeps
    | apply execWaitTimeoutExpiry_keeps
    | apply execWaitGraphBuild_keeps
    | apply execQAbortHead_keeps
    | apply execDeferredExecute_keeps
    | apply execFlagSetCmd_keeps
    | apply execFlagClrCmd_keeps
    | apply execEpochOpen_keeps
    | apply execEpochCommit_keeps
    | apply execEpochDiscard_keeps
    | apply execMerWrite_keeps
    | apply execEpochStreamSilent_keeps
    | apply execIdleWrite_keeps
    | apply execIdlePoint_keeps
    | apply execQEnable_keeps
    | apply execQDepth_keeps
    | apply execDecodeBatchClose_keeps
    | apply execStatWindowEval_keeps
    | apply execCsiFrameStart_keeps
    | apply execCsiLinePacket_keeps
    | apply execCsiFrameEnd_keeps
    | apply execFrameTimeout_keeps
    | apply execIspFrameDone_keeps
    | apply execSpillStart_keeps
    | apply execRawEnable_keeps
    | apply execExpoReq_keeps
    | apply execSensorRetry_keeps
    | apply execGenerationWriteStart_keeps
    | apply execI2cTransaction_keeps
    | apply execFsyncPulse_keeps
    | apply execDpFrameRx_keeps
    | apply execDpMode_keeps
    | apply execRtpPacketRx_keeps
    | apply execRtpRelease_keeps
    | apply execDecodeStart_keeps
    | apply execDecodeDone_keeps
    | apply execConversionDone_keeps
    | apply execSsrcTimeout_keeps
    | apply execStreamStallTimeout_keeps
    | apply execSrcEnable_keeps
    | apply execEncClip_keeps
    | apply execEncSnapshot_keeps
    | apply execClipDone_keeps
    | apply execSnapDone_keeps
    | apply execHlFrameRx_keeps
    | apply execClaim_keeps
    | apply execRelease_keeps
    | apply execRenew_keeps
    | apply execDictRead_keeps
    | apply execDictWrite_keeps
    | apply execDictStageTimeout_keeps
    | apply execMemRead_keeps
    | apply execMemWrite_keeps
    | apply execResultRead_keeps
    | apply execResultRelease_keeps
    | apply execSync_keeps
    | apply execHlpHoldTimeout_keeps
    | apply execEventFrameSend_keeps
    | apply execEvtHeartbeat_keeps
    | apply execMacsecSak_keeps
    | apply execLeaseExpiry_keeps
    | apply execOrphanResume_keeps
    | apply execGptpSyncRx_keeps
    | apply execGptpHoldover_keeps
    | apply execIdent_keeps
    | apply execSyncPart_keeps
    | apply execMbWarmReset_keeps
    | apply execImageBegin_keeps
    | apply execImageData_keeps
    | apply execImageEnd_keeps
    | apply execPersErase_keeps
    | apply execSafeForceEnter_keeps
    | apply execSafeForceEnd_keeps
    | apply execDeadlineExpiry_keeps
    | apply execStaleExpiry_keeps
    | apply execSafetyHeartbeat_keeps
    | apply execCause0Release_keeps
    | apply execLockstepMismatch_keeps
    | apply execWatchdogExpiry_keeps
    | apply execGoldenTestDue_keeps
    | apply execGoldenTestOverdue_keeps
    | apply execGoldenTestEnd_keeps
    | apply execCoverageLapse_keeps
    | apply execFwRestart_keeps
    | apply execFwMemoryError_keeps
    | apply execProcessorReady_keeps
    | apply execRestartTimeout_keeps
    | apply execLogEntry_keeps
    | apply execTraceHit_keeps
    | apply execStagingBufferDrain_keeps
    | apply execUpdStage_keeps
    | apply execStagingDone_keeps
    | apply execUpdCancel_keeps
    | apply execUpdActivateProcessor_keeps
    | apply execUpdActivateBundle_keeps
    | apply execActivationSettle_keeps
    | apply execActivationAbandon_keeps
    | apply execUpdCommit_keeps
    | apply execKeyRevoke_keeps
    | apply execAttNonce_keeps
    | apply execSliceResetCmd_keeps
    | apply execSliceResetTimeout_keeps
    | apply execPwronNAssert_keeps
    | apply execWarmNDeassert_keeps
    | apply execRailMonitorReturn_keeps
    | apply execDroopRecovery_keeps
    | apply execPortLinkChange_keeps
    | apply execSpFrameRx_keeps
    | apply execPeerDelayMeasurement_keeps
    | apply execPowerCapEval_keeps
    | apply execThermalLoopStep_keeps
    | apply execSensorRead_keeps
    | apply execThermalClamp_keeps
    | apply execThermalEmergencyEnd_keeps
    | apply execThermalTrip_keeps
    | apply execGovernorStep_keeps
    | apply execDroopOnset_keeps
    | apply execDomainWake_keeps
    | apply execDomainOff_keeps
    | apply execVoltageSettled_keeps
    | apply execVrHotNAssert_keeps
    | apply execVrHotNDeassert_keeps
    | apply execPmbAlertN_keeps
    | apply execPmbusPoll_keeps
    | apply execPowerEmergencyEnd_keeps
    | split

theorem State.nextHeld_keeps {s0 s t : State} {c : Instr} (q : s.nextHeld = some (c, t)) (h : Keeps s0 s) : Keeps s0 t := by
  unfold State.nextHeld at q
  split at q
  · simp at q
  · split at q
    · simp at q
    · simp only [Option.map_eq_some_iff, Prod.mk.injEq] at q
      obtain ⟨x, -, -, rfl⟩ := q
      simpa only [Keeps.upd] using h

theorem runHeld_keeps {s0 s : State} (c : Instr) (h : Keeps s0 s) : NextKeeps s0 (runHeld c s) := by
  unfold runHeld
  repeat' with_reducible first
    | assumption
    | apply done_keeps
    | apply State.requestOf_keeps
    | apply exec_keeps
    | split

theorem State.traceSend_keeps {s0 s : State} (h : Keeps s0 s) : Keeps s0 (State.traceSend s) := by
  unfold State.traceSend
  repeat' with_reducible first
    | assumption
    | simp only [↓Keeps.upd]

theorem State.idle_keeps {s0 s : State} (h : Keeps s0 s) : NextKeeps s0 (State.idle s) := by
  unfold State.idle
  repeat' with_reducible first
    | assumption
    | apply NextKeeps.next
    | apply done_keeps
    | refine State.nextHeld_keeps (by assumption) ?_
    | apply runHeld_keeps
    | apply State.advanceTo_keeps
    | apply State.traceSend_keeps
    | split

theorem step_keeps {s0 s : State} (h : Keeps s0 s) : NextKeeps s0 (step s) := by
  unfold step
  repeat' with_reducible first
    | assumption
    | apply done_keeps
    | apply State.idle_keeps
    | apply exec_keeps
    | simp only [↓Keeps.upd]
    | split

theorem State.withFetchWord_keeps {s0 s : State} (nbits : Nat) (w : Nat) (h : Keeps s0 s) : Keeps s0 (State.withFetchWord s nbits w) := by
  unfold State.withFetchWord
  repeat' with_reducible first
    | assumption
    | simp only [↓Keeps.upd]
    | split

end Sys2Proof.Machine
end

