-- ==== Sys2Proof/Laws/Frames.lean ====
section
/-! SUPPORT. What larger operations leave as it was: for a part of State, one lemma for each operation. -/

namespace Sys2Proof.Machine

/-- A state reads x at p. -/
def Fix {α : Type} (p : State → α) (x : α) (s : State) : Prop := p s = x

theorem Fix.same {α : Type} {p : State → α} {x0 : α} {s t : State} (h : Fix p x0 s) (e : p t = p s) : Fix p x0 t := e.trans h

theorem Fix.cut {α : Type} {p : State → α} {x0 : α} {x : State} {P : Prop} (h : Fix p x0 x) (k : Fix p x0 x → P) : P := k h

theorem Fix.foldl {α β : Type} {p : State → α} {x0 : α} {s : State} {f : State → β → State} {l : List β} (h : Fix p x0 s)
    (hf : ∀ t x, Fix p x0 t → Fix p x0 (f t x)) : Fix p x0 (l.foldl f s) := by
  induction l generalizing s with
  | nil => exact h
  | cons x r ih => exact ih (hf _ _ h)

theorem Fix.foldl1 {γ α β : Type} {p : State → γ} {x0 : γ} {f : β × State → α → β × State} {l : List α} {q : β × State}
    (h : Fix p x0 q.2) (hf : ∀ q x, Fix p x0 q.2 → Fix p x0 (f q x).2) : Fix p x0 (l.foldl f q).2 := by
  induction l generalizing q with
  | nil => exact h
  | cons x r ih => exact ih (hf _ _ h)

theorem Fix.getD {α : Type} {p : State → α} {x0 : α} {d : State} {o : Option State} (h : Fix p x0 d)
    (k : ∀ t, o = some t → Fix p x0 t) : Fix p x0 (o.getD d) := by
  cases o
  · exact h
  · exact k _ rfl

/-- The next state of an outcome reads x at p. -/
def NextFix {α : Type} (p : State → α) (x0 : α) (o : Host.Outcome State Fault Refusal) : Prop := ∀ t, o = .next t → Fix p x0 t

theorem NextFix.next {α : Type} {p : State → α} {x0 : α} {t : State} (h : Fix p x0 t) : NextFix p x0 (.next t) := by
  intro u e; cases e; exact h

/-- The effect of a write rule leaves p. -/
def RuleFix {α : Type} (p : State → α) (x0 : α) (w : WriteRule) : Prop := ∀ s v, Fix p x0 s → Fix p x0 (w.apply s v)

theorem RuleFix.cmd {α : Type} {p : State → α} {x0 : α} {pre : State → Nat → Nat} {f : State → Nat → State}
    (h : ∀ s n, Fix p x0 s → Fix p x0 (f s n)) : RuleFix p x0 (WriteRule.cmd pre f) := by
  intro s v hs
  cases v
  · exact h _ _ hs
  · exact hs

theorem RuleFix.intro {α : Type} {p : State → α} {x0 : α} {w : WriteRule} (h : ∀ s v, Fix p x0 s → Fix p x0 (w.apply s v)) :
    RuleFix p x0 w := h

theorem RuleFix.ap {α : Type} {p : State → α} {x0 : α} {s : State} {w : WriteRule} {v : Val} (h : RuleFix p x0 w) (k : Fix p x0 s) :
    Fix p x0 (w.apply s v) := h s v k

theorem RuleFix.cut {α : Type} {p : State → α} {x0 : α} {x : WriteRule} {P : Prop} (h : RuleFix p x0 x) (k : RuleFix p x0 x → P) : P := k h

/-! ## clk -/

theorem Fix.upd_clk {s : State} {x0 : _} {f_pending : List Instr} {f_pins : Pins} {f_rst : ResetState} {f_objs : List (Nat × Val)} {f_isl : Islands} {f_slices : List (Nat × Slice)} {f_harts : List (Nat × Hart)} {f_clusters : List (Nat × Cluster)} {f_tasks : List (Nat × Task)} {f_mem : Memory} {f_peers : List (Nat × Peer)} {f_work : Work} {f_media : Media} {f_link : Link} {f_safety : Safety} {f_power : Power} {f_fw : Firmware} {f_trust : Trust} {f_pers : Pers} {f_freeCtr : Nat} :
    Fix (fun z => z.clk) x0 ⟨f_pending, s.clk, f_pins, f_rst, f_objs, f_isl, f_slices, f_harts, f_clusters, f_tasks, f_mem, f_peers, f_work, f_media, f_link, f_safety, f_power, f_fw, f_trust, f_pers, f_freeCtr⟩ = Fix (fun z => z.clk) x0 s := rfl

theorem State.setChan_fix_clk {x0 : _} {s : State} (n : Nat) (a1 : Channel) (h : Fix (fun z => z.clk) x0 s) : Fix (fun z => z.clk) x0 (State.setChan s n a1) := by
  unfold State.setChan
  repeat' with_reducible first
    | assumption
    | (intro (x : Memory); subst x)
    | simp only [↓Fix.upd_clk]

theorem State.modChan_fix_clk {x0 : _} {s : State} (n : Nat) (f : Channel → Channel) (h : Fix (fun z => z.clk) x0 s) : Fix (fun z => z.clk) x0 (State.modChan s n f) := by
  unfold State.modChan
  repeat' with_reducible first
    | assumption
    | apply State.setChan_fix_clk

theorem State.retireSlot_fix_clk {x0 : _} {s : State} (c : Nat) (k : Nat) (h : Fix (fun z => z.clk) x0 s) : Fix (fun z => z.clk) x0 (State.retireSlot s c k) := by
  unfold State.retireSlot
  repeat' with_reducible first
    | assumption
    | apply State.modChan_fix_clk

theorem State.setEntry_fix_clk {x0 : _} {s : State} (n : Nat) (e : Entry) (h : Fix (fun z => z.clk) x0 s) : Fix (fun z => z.clk) x0 (State.setEntry s n e) := by
  unfold State.setEntry
  repeat' with_reducible first
    | assumption
    | (intro (x : Memory); subst x)
    | simp only [↓Fix.upd_clk]

theorem State.setVal_fix_clk {x0 : _} {s : State} (r : ObjRow) (k : Nat) (v : Val) (h : Fix (fun z => z.clk) x0 s) : Fix (fun z => z.clk) x0 (State.setVal s r k v) := by
  unfold State.setVal
  repeat' with_reducible first
    | assumption
    | simp only [↓Fix.upd_clk]

theorem State.setNum_fix_clk {x0 : _} {s : State} (r : ObjRow) (k : Nat) (n : Nat) (h : Fix (fun z => z.clk) x0 s) : Fix (fun z => z.clk) x0 (State.setNum s r k n) := by
  unfold State.setNum
  repeat' with_reducible first
    | assumption
    | apply State.setVal_fix_clk

theorem State.count_fix_clk {x0 : _} {s : State} (r : ObjRow) (k : optParam Nat 0) (n : optParam Nat 1) (h : Fix (fun z => z.clk) x0 s) : Fix (fun z => z.clk) x0 (State.count s r k n) := by
  unfold State.count
  repeat' with_reducible first
    | assumption
    | apply State.setNum_fix_clk

theorem State.abandonMig_fix_clk {x0 : _} {s : State} (n : Nat) (h : Fix (fun z => z.clk) x0 s) : Fix (fun z => z.clk) x0 (State.abandonMig s n) := by
  unfold State.abandonMig
  repeat' with_reducible first
    | assumption
    | apply State.retireSlot_fix_clk
    | apply State.setEntry_fix_clk
    | apply State.count_fix_clk
    | simp only [↓Fix.upd_clk]
    | split

theorem State.freePage_fix_clk {x0 : _} {s : State} (n : Nat) (h : Fix (fun z => z.clk) x0 s) : Fix (fun z => z.clk) x0 (State.freePage s n) := by
  unfold State.freePage
  repeat' with_reducible first
    | assumption
    | (intro (x : State); apply Fix.cut  (x := x); rotate_left; intro hx; clear_value x; rotate_left; subst x)
    | (intro (x : Memory); subst x)
    | apply State.abandonMig_fix_clk
    | apply State.retireSlot_fix_clk
    | apply State.setEntry_fix_clk
    | simp only [↓Fix.upd_clk]
    | split

theorem State.freePages_fix_clk {x0 : _} {s : State} (n k : Nat) (h : Fix (fun z => z.clk) x0 s) : Fix (fun z => z.clk) x0 (s.freePages n k) := by
  induction k generalizing s n with
  | zero => exact h
  | succ k ih => exact ih _ (State.freePage_fix_clk _ h)

theorem State.freeRun_fix_clk {x0 : _} {s : State} (a0 : Option (Nat × Nat)) (h : Fix (fun z => z.clk) x0 s) : Fix (fun z => z.clk) x0 (State.freeRun s a0) := by
  unfold State.freeRun
  repeat' with_reducible first
    | assumption
    | apply State.freePages_fix_clk
    | split

theorem State.writeByte_fix_clk {x0 : _} {s : State} (a : Nat) (b : Byte) (h : Fix (fun z => z.clk) x0 s) : Fix (fun z => z.clk) x0 (s.writeByte a b) := h.same rfl

theorem State.writeBytes_fix_clk {x0 : _} {s : State} (a : Nat) (b : Bytes) (h : Fix (fun z => z.clk) x0 s) : Fix (fun z => z.clk) x0 (s.writeBytes a b) := by
  induction b generalizing s a with
  | nil => exact h
  | cons x r ih => exact ih _ (State.writeByte_fix_clk _ _ h)

theorem State.noteChange_fix_clk {x0 : _} {s : State} (q : Option Nat) (h : Fix (fun z => z.clk) x0 s) : Fix (fun z => z.clk) x0 (State.noteChange s q) := by
  unfold State.noteChange
  repeat' with_reducible first
    | assumption
    | simp only [↓Fix.upd_clk]

theorem State.writeEvent_fix_clk {x0 : _} {s : State} (time : Nat) (code : Nat) (source : Nat) (payload : Bytes) (h : Fix (fun z => z.clk) x0 s) : Fix (fun z => z.clk) x0 (State.writeEvent s time code source payload) := by
  unfold State.writeEvent
  repeat' with_reducible first
    | assumption
    | apply State.writeBytes_fix_clk
    | apply State.noteChange_fix_clk
    | apply State.setNum_fix_clk
    | split

theorem State.setStream_fix_clk {x0 : _} {s : State} (n : Nat) (a1 : Stream) (h : Fix (fun z => z.clk) x0 s) : Fix (fun z => z.clk) x0 (State.setStream s n a1) := by
  unfold State.setStream
  repeat' with_reducible first
    | assumption
    | simp only [↓Fix.upd_clk]

theorem State.setSlice_fix_clk {x0 : _} {s : State} (n : Nat) (a1 : Slice) (h : Fix (fun z => z.clk) x0 s) : Fix (fun z => z.clk) x0 (State.setSlice s n a1) := by
  unfold State.setSlice
  repeat' with_reducible first
    | assumption
    | simp only [↓Fix.upd_clk]

theorem State.modSlice_fix_clk {x0 : _} {s : State} (n : Nat) (f : Slice → Slice) (h : Fix (fun z => z.clk) x0 s) : Fix (fun z => z.clk) x0 (State.modSlice s n f) := by
  unfold State.modSlice
  repeat' with_reducible first
    | assumption
    | apply State.setSlice_fix_clk

theorem State.postEvent_fix_clk {x0 : _} {s : State} (code : Nat) (source : Nat) (payload : Bytes) (h : Fix (fun z => z.clk) x0 s) : Fix (fun z => z.clk) x0 (State.postEvent s code source payload) := by
  unfold State.postEvent
  repeat' with_reducible first
    | assumption
    | (intro (x : State); apply Fix.cut  (x := x); rotate_left; intro hx; clear_value x; rotate_left; subst x)
    | apply State.writeEvent_fix_clk
    | apply State.count_fix_clk
    | simp only [↓Fix.upd_clk]
    | split

theorem State.setProc_fix_clk {x0 : _} {s : State} (n : Nat) (a1 : Proc) (h : Fix (fun z => z.clk) x0 s) : Fix (fun z => z.clk) x0 (State.setProc s n a1) := by
  unfold State.setProc
  repeat' with_reducible first
    | assumption
    | simp only [↓Fix.upd_clk]

theorem State.modProc_fix_clk {x0 : _} {s : State} (n : Nat) (f : Proc → Proc) (h : Fix (fun z => z.clk) x0 s) : Fix (fun z => z.clk) x0 (State.modProc s n f) := by
  unfold State.modProc
  repeat' with_reducible first
    | assumption
    | apply State.setProc_fix_clk

theorem State.modStream_fix_clk {x0 : _} {s : State} (n : Nat) (f : Stream → Stream) (h : Fix (fun z => z.clk) x0 s) : Fix (fun z => z.clk) x0 (State.modStream s n f) := by
  unfold State.modStream
  repeat' with_reducible first
    | assumption
    | apply State.setStream_fix_clk

theorem State.clearObj_fix_clk {x0 : _} {s : State} (r : ObjRow) (k : Nat) (h : Fix (fun z => z.clk) x0 s) : Fix (fun z => z.clk) x0 (State.clearObj s r k) := by
  unfold State.clearObj
  repeat' with_reducible first
    | assumption
    | simp only [↓Fix.upd_clk]

theorem State.driveLines_fix_clk {x0 : _} {s : State} (h : Fix (fun z => z.clk) x0 s) : Fix (fun z => z.clk) x0 (State.driveLines s) := by
  unfold State.driveLines
  repeat' with_reducible first
    | assumption
    | simp only [↓Fix.upd_clk]

theorem State.resetReason_fix_clk {x0 : _} {s : State} (n : Nat) (h : Fix (fun z => z.clk) x0 s) : Fix (fun z => z.clk) x0 (State.resetReason s n) := by
  unfold State.resetReason
  repeat' with_reducible first
    | assumption
    | apply State.modStream_fix_clk

theorem State.leaveCause_fix_clk {x0 : _} {s : State} (bit : Nat) (h : Fix (fun z => z.clk) x0 s) : Fix (fun z => z.clk) x0 (State.leaveCause s bit) := by
  unfold State.leaveCause
  repeat' with_reducible first
    | assumption
    | (intro (x : State); apply Fix.cut  (x := x); rotate_left; intro hx; clear_value x; rotate_left; subst x)
    | apply State.driveLines_fix_clk
    | apply State.resetReason_fix_clk
    | (apply Fix.foldl; rotate_left; intro t x ht; rotate_left)
    | simp only [↓Fix.upd_clk]
    | split

theorem State.enterCause_fix_clk {x0 : _} {s : State} (bit : Nat) (h : Fix (fun z => z.clk) x0 s) : Fix (fun z => z.clk) x0 (State.enterCause s bit) := by
  unfold State.enterCause
  repeat' with_reducible first
    | assumption
    | apply State.driveLines_fix_clk
    | simp only [↓Fix.upd_clk]

theorem State.flashPut_fix_clk {x0 : _} {s : State} (a : Nat) (b : Bytes) (h : Fix (fun z => z.clk) x0 s) : Fix (fun z => z.clk) x0 (s.flashPut a b) := h.same rfl

theorem State.seal_fix_clk {x0 : _} {s : State} (k : Nat) (h : Fix (fun z => z.clk) x0 s) : Fix (fun z => z.clk) x0 (State.seal s k) := by
  unfold State.seal
  repeat' with_reducible first
    | assumption
    | apply State.flashPut_fix_clk

theorem State.checkSlot_fix_clk {x0 : _} {s : State} (k : Nat) (h : Fix (fun z => z.clk) x0 s) : Fix (fun z => z.clk) x0 (State.checkSlot s k).2 := by
  unfold State.checkSlot
  repeat' with_reducible first
    | assumption
    | apply State.seal_fix_clk
    | simp only [↓Fix.upd_clk]
    | split

theorem State.checkSlot_fix_clk_of {x0 : _} {s t : State} {k : Nat} {v_ : _} (e : State.checkSlot s k = (v_, t)) (h : Fix (fun z => z.clk) x0 s) : Fix (fun z => z.clk) x0 t := by
  have k := State.checkSlot_fix_clk  (k := k) h
  rw [e] at k
  exact k

theorem State.recordSlot_fix_clk {x0 : _} {s : State} (k : Nat) (status : Nat) (h : Fix (fun z => z.clk) x0 s) : Fix (fun z => z.clk) x0 (State.recordSlot s k status) := by
  unfold State.recordSlot
  repeat' with_reducible first
    | assumption
    | (intro (x : State); apply Fix.cut  (x := x); rotate_left; intro hx; clear_value x; rotate_left; subst x)
    | apply State.setNum_fix_clk

theorem State.checkRecord_fix_clk {x0 : _} {s : State} (k : Nat) (h : Fix (fun z => z.clk) x0 s) : Fix (fun z => z.clk) x0 (State.checkRecord s k).2 := by
  unfold State.checkRecord
  repeat' with_reducible first
    | assumption
    | apply State.checkSlot_fix_clk
    | refine State.checkSlot_fix_clk_of (by assumption) ?_
    | apply State.recordSlot_fix_clk

theorem State.checkRecord_fix_clk_of {x0 : _} {s t : State} {k : Nat} {v_ : _} (e : State.checkRecord s k = (v_, t)) (h : Fix (fun z => z.clk) x0 s) : Fix (fun z => z.clk) x0 t := by
  have k := State.checkRecord_fix_clk  (k := k) h
  rw [e] at k
  exact k

theorem State.selectFrom_fix_clk {x0 : _} {s : State} (bad : Nat → Bool) (a1 : Nat) (a2 : List Nat) (h : Fix (fun z => z.clk) x0 s) :
    Fix (fun z => z.clk) x0 (State.selectFrom bad a1 a2 s).2 := by
  induction a1 generalizing a2 s with
  | zero => exact h
  | succ f ih =>
    simp only [State.selectFrom]
    split
    · exact h
    · split
      · exact ih _ (State.recordSlot_fix_clk _ _ h)
      · exact State.setNum_fix_clk _ _ _ h

theorem State.selectFrom_fix_clk_of {x0 : _} {s t : State} {bad : Nat → Bool} {a1 : Nat} {a2 : List Nat} {v_ : _} (e : State.selectFrom bad a1 a2 s = (v_, t)) (h : Fix (fun z => z.clk) x0 s) : Fix (fun z => z.clk) x0 t := by
  have k := State.selectFrom_fix_clk  (bad := bad) (a1 := a1) (a2 := a2) h
  rw [e] at k
  exact k

theorem State.select_fix_clk {x0 : _} {s : State} (cands : List Nat) (bad : Nat → Bool) (h : Fix (fun z => z.clk) x0 s) : Fix (fun z => z.clk) x0 (State.select s cands bad).2 := by
  unfold State.select
  repeat' with_reducible first
    | assumption
    | apply State.checkRecord_fix_clk
    | refine State.checkRecord_fix_clk_of (by assumption) ?_
    | apply State.setNum_fix_clk
    | apply State.selectFrom_fix_clk
    | refine State.selectFrom_fix_clk_of (by assumption) ?_
    | (apply Fix.foldl1; rotate_left; intro t x ht; dsimp only; rotate_left)

theorem State.select_fix_clk_of {x0 : _} {s t : State} {cands : List Nat} {bad : Nat → Bool} {v_ : _} (e : State.select s cands bad = (v_, t)) (h : Fix (fun z => z.clk) x0 s) : Fix (fun z => z.clk) x0 t := by
  have k := State.select_fix_clk  (cands := cands) (bad := bad) h
  rw [e] at k
  exact k

theorem State.flashErase_fix_clk {x0 : _} {s : State} (a n : Nat) (h : Fix (fun z => z.clk) x0 s) : Fix (fun z => z.clk) x0 (s.flashErase a n) := h.same rfl

theorem State.eraseSlot_fix_clk {x0 : _} {s : State} (k : Nat) (h : Fix (fun z => z.clk) x0 s) : Fix (fun z => z.clk) x0 (State.eraseSlot s k) := by
  unfold State.eraseSlot
  repeat' with_reducible first
    | assumption
    | apply State.flashErase_fix_clk

theorem State.loadComponent_fix_clk {x0 : _} {s : State} (p : Nat) (k : Nat) (h : Fix (fun z => z.clk) x0 s) : Fix (fun z => z.clk) x0 (State.loadComponent s p k) := by
  unfold State.loadComponent
  repeat' with_reducible first
    | assumption
    | (intro (x : State); apply Fix.cut  (x := x); rotate_left; intro hx; clear_value x; rotate_left; subst x)
    | (intro (x : Trust); subst x)
    | apply State.setNum_fix_clk
    | apply State.modProc_fix_clk
    | simp only [↓Fix.upd_clk]
    | split

theorem State.setUpd_fix_clk {x0 : _} {s : State} (state : Nat) (status : Nat) (slot : Nat) (h : Fix (fun z => z.clk) x0 s) : Fix (fun z => z.clk) x0 (State.setUpd s state status slot) := by
  unfold State.setUpd
  repeat' with_reducible first
    | assumption
    | (intro (x : State); apply Fix.cut  (x := x); rotate_left; intro hx; clear_value x; rotate_left; subst x)
    | apply State.setNum_fix_clk
    | apply State.postEvent_fix_clk

theorem State.failStaging_fix_clk {x0 : _} {s : State} (h : Fix (fun z => z.clk) x0 s) : Fix (fun z => z.clk) x0 (State.failStaging s) := by
  unfold State.failStaging
  repeat' with_reducible first
    | assumption
    | (intro (x : State); apply Fix.cut  (x := x); rotate_left; intro hx; clear_value x; rotate_left; subst x)
    | apply State.setUpd_fix_clk
    | apply State.eraseSlot_fix_clk
    | simp only [↓Fix.upd_clk]
    | split

theorem State.deferDone_fix_clk {x0 : _} {s : State} (d : Deferred) (status : Nat) (h : Fix (fun z => z.clk) x0 s) : Fix (fun z => z.clk) x0 (State.deferDone s d status) := by
  unfold State.deferDone
  repeat' with_reducible first
    | assumption
    | apply State.postEvent_fix_clk

theorem State.abortDeferred_fix_clk {x0 : _} {s : State} (h : Fix (fun z => z.clk) x0 s) : Fix (fun z => z.clk) x0 (State.abortDeferred s) := by
  unfold State.abortDeferred
  repeat' with_reducible first
    | assumption
    | apply State.deferDone_fix_clk
    | (apply Fix.foldl; rotate_left; intro t x ht; rotate_left)
    | simp only [↓Fix.upd_clk]

theorem State.release_fix_clk {x0 : _} {s : State} (p : Nat) (h : Fix (fun z => z.clk) x0 s) : Fix (fun z => z.clk) x0 (State.release s p) := by
  unfold State.release
  repeat' with_reducible first
    | assumption
    | (intro (x : State); apply Fix.cut  (x := x); rotate_left; intro hx; clear_value x; rotate_left; subst x)
    | apply State.modProc_fix_clk
    | apply State.loadComponent_fix_clk
    | apply State.setNum_fix_clk
    | split

theorem State.bootFrom_fix_clk {x0 : _} {s : State} (k : Nat) (rate : Bool) (h : Fix (fun z => z.clk) x0 s) : Fix (fun z => z.clk) x0 (State.bootFrom s k rate) := by
  unfold State.bootFrom
  repeat' with_reducible first
    | assumption
    | (intro (x : State); apply Fix.cut  (x := x); rotate_left; intro hx; clear_value x; rotate_left; subst x)
    | (intro (x : Trust); subst x)
    | apply State.setNum_fix_clk
    | apply State.modProc_fix_clk
    | apply State.release_fix_clk
    | (apply Fix.foldl; rotate_left; intro t x ht; rotate_left)
    | simp only [↓Fix.upd_clk]
    | split

theorem State.clearAll_fix_clk {x0 : _} {s : State} (rows : List ObjRow) (h : Fix (fun z => z.clk) x0 s) : Fix (fun z => z.clk) x0 (State.clearAll s rows) := by
  unfold State.clearAll
  repeat' with_reducible first
    | assumption
    | apply State.clearObj_fix_clk
    | (apply Fix.foldl; rotate_left; intro t x ht; rotate_left)

theorem State.warmWork_fix_clk {x0 : _} {s : State} (h : Fix (fun z => z.clk) x0 s) : Fix (fun z => z.clk) x0 (State.warmWork s) := by
  unfold State.warmWork
  repeat' with_reducible first
    | assumption
    | simp only [↓Fix.upd_clk]

theorem State.warmApply_fix_clk {x0 : _} {s : State} (h : Fix (fun z => z.clk) x0 s) : Fix (fun z => z.clk) x0 (State.warmApply s) := by
  unfold State.warmApply
  repeat' with_reducible first
    | assumption
    | (intro (x : State); apply Fix.cut  (x := x); rotate_left; intro hx; clear_value x; rotate_left; subst x)
    | (apply Fix.foldl; rotate_left; intro t x ht; rotate_left)
    | simp only [↓Fix.upd_clk]

theorem State.warmMedia_fix_clk {x0 : _} {s : State} (h : Fix (fun z => z.clk) x0 s) : Fix (fun z => z.clk) x0 (State.warmMedia s) := by
  unfold State.warmMedia
  repeat' with_reducible first
    | assumption
    | (intro (x : State); apply Fix.cut  (x := x); rotate_left; intro hx; clear_value x; rotate_left; subst x)
    | apply State.freeRun_fix_clk
    | (apply Fix.foldl; rotate_left; intro t x ht; rotate_left)
    | simp only [↓Fix.upd_clk]

theorem State.warmProcs_fix_clk {x0 : _} {s : State} (h : Fix (fun z => z.clk) x0 s) : Fix (fun z => z.clk) x0 (State.warmProcs s) := by
  unfold State.warmProcs
  repeat' with_reducible first
    | assumption
    | apply State.setNum_fix_clk
    | (apply Fix.foldl; rotate_left; intro t x ht; rotate_left)

theorem State.warmParts_fix_clk {x0 : _} {s : State} (h : Fix (fun z => z.clk) x0 s) : Fix (fun z => z.clk) x0 s.warmParts := h.same rfl

theorem State.warmSlices_fix_clk {x0 : _} {s : State} (h : Fix (fun z => z.clk) x0 s) : Fix (fun z => z.clk) x0 (State.warmSlices s) := by
  unfold State.warmSlices
  repeat' with_reducible first
    | assumption
    | apply State.modSlice_fix_clk
    | (apply Fix.foldl; rotate_left; intro t x ht; rotate_left)

theorem State.warmHardware_fix_clk {x0 : _} {s : State} (h : Fix (fun z => z.clk) x0 s) : Fix (fun z => z.clk) x0 (State.warmHardware s) := by
  unfold State.warmHardware
  repeat' with_reducible first
    | assumption
    | (intro (x : State); apply Fix.cut  (x := x); rotate_left; intro hx; clear_value x; rotate_left; subst x)
    | apply State.warmProcs_fix_clk
    | apply State.warmParts_fix_clk
    | apply State.warmSlices_fix_clk
    | apply State.clearAll_fix_clk
    | apply State.leaveCause_fix_clk
    | split

theorem State.warmLink_fix_clk {x0 : _} {s : State} (h : Fix (fun z => z.clk) x0 s) : Fix (fun z => z.clk) x0 (State.warmLink s) := by
  unfold State.warmLink
  repeat' with_reducible first
    | assumption
    | (intro (x : State); apply Fix.cut  (x := x); rotate_left; intro hx; clear_value x; rotate_left; subst x)
    | apply State.count_fix_clk
    | apply State.abortDeferred_fix_clk
    | simp only [↓Fix.upd_clk]

theorem State.enterRecovery_fix_clk {x0 : _} {s : State} (h : Fix (fun z => z.clk) x0 s) : Fix (fun z => z.clk) x0 (State.enterRecovery s) := by
  unfold State.enterRecovery
  repeat' with_reducible first
    | assumption
    | (intro (x : State); apply Fix.cut  (x := x); rotate_left; intro hx; clear_value x; rotate_left; subst x)
    | (intro (x : Trust); subst x)
    | apply State.setNum_fix_clk
    | apply State.release_fix_clk
    | simp only [↓Fix.upd_clk]

theorem State.selectBoot_fix_clk {x0 : _} {s : State} (cands : List Nat) (bad : Nat → Bool) (rate : Bool) (h : Fix (fun z => z.clk) x0 s) : Fix (fun z => z.clk) x0 (State.selectBoot s cands bad rate) := by
  unfold State.selectBoot
  repeat' with_reducible first
    | assumption
    | apply State.select_fix_clk
    | refine State.select_fix_clk_of (by assumption) ?_
    | apply State.enterRecovery_fix_clk
    | apply State.bootFrom_fix_clk
    | split

theorem State.reload_fix_clk {x0 : _} {s : State} (h : Fix (fun z => z.clk) x0 s) : Fix (fun z => z.clk) x0 (State.reload s) := by
  unfold State.reload
  repeat' with_reducible first
    | assumption
    | (intro (x : State); apply Fix.cut  (x := x); rotate_left; intro hx; clear_value x; rotate_left; subst x)
    | apply State.selectBoot_fix_clk
    | apply State.bootFrom_fix_clk
    | apply State.release_fix_clk
    | simp only [↓Fix.upd_clk]
    | split

theorem State.warmReset_fix_clk {x0 : _} {s : State} (cause : Nat) (bundle : Option Nat) (h : Fix (fun z => z.clk) x0 s) : Fix (fun z => z.clk) x0 (State.warmReset s cause bundle) := by
  unfold State.warmReset
  repeat' with_reducible first
    | assumption
    | (intro (x : State); apply Fix.cut  (x := x); rotate_left; intro hx; clear_value x; rotate_left; subst x)
    | apply State.enterCause_fix_clk
    | apply State.failStaging_fix_clk
    | apply State.count_fix_clk
    | apply State.setNum_fix_clk
    | apply State.warmWork_fix_clk
    | apply State.warmApply_fix_clk
    | apply State.warmMedia_fix_clk
    | apply State.warmHardware_fix_clk
    | apply State.warmLink_fix_clk
    | apply State.reload_fix_clk
    | simp only [↓Fix.upd_clk]
    | split

/-! ## work -/

theorem Fix.upd_work {s : State} {x0 : _} {f_pending : List Instr} {f_clk : Clock} {f_pins : Pins} {f_rst : ResetState} {f_objs : List (Nat × Val)} {f_isl : Islands} {f_slices : List (Nat × Slice)} {f_harts : List (Nat × Hart)} {f_clusters : List (Nat × Cluster)} {f_tasks : List (Nat × Task)} {f_mem : Memory} {f_peers : List (Nat × Peer)} {f_media : Media} {f_link : Link} {f_safety : Safety} {f_power : Power} {f_fw : Firmware} {f_trust : Trust} {f_pers : Pers} {f_freeCtr : Nat} :
    Fix (fun z => z.work) x0 ⟨f_pending, f_clk, f_pins, f_rst, f_objs, f_isl, f_slices, f_harts, f_clusters, f_tasks, f_mem, f_peers, s.work, f_media, f_link, f_safety, f_power, f_fw, f_trust, f_pers, f_freeCtr⟩ = Fix (fun z => z.work) x0 s := rfl

theorem State.setVal_fix_work {x0 : _} {s : State} (r : ObjRow) (k : Nat) (v : Val) (h : Fix (fun z => z.work) x0 s) : Fix (fun z => z.work) x0 (State.setVal s r k v) := by
  unfold State.setVal
  repeat' with_reducible first
    | assumption
    | simp only [↓Fix.upd_work]

theorem State.setNum_fix_work {x0 : _} {s : State} (r : ObjRow) (k : Nat) (n : Nat) (h : Fix (fun z => z.work) x0 s) : Fix (fun z => z.work) x0 (State.setNum s r k n) := by
  unfold State.setNum
  repeat' with_reducible first
    | assumption
    | apply State.setVal_fix_work

theorem State.setProc_fix_work {x0 : _} {s : State} (n : Nat) (a1 : Proc) (h : Fix (fun z => z.work) x0 s) : Fix (fun z => z.work) x0 (State.setProc s n a1) := by
  unfold State.setProc
  repeat' with_reducible first
    | assumption
    | simp only [↓Fix.upd_work]

theorem State.modProc_fix_work {x0 : _} {s : State} (n : Nat) (f : Proc → Proc) (h : Fix (fun z => z.work) x0 s) : Fix (fun z => z.work) x0 (State.modProc s n f) := by
  unfold State.modProc
  repeat' with_reducible first
    | assumption
    | apply State.setProc_fix_work

theorem State.flashPut_fix_work {x0 : _} {s : State} (a : Nat) (b : Bytes) (h : Fix (fun z => z.work) x0 s) : Fix (fun z => z.work) x0 (s.flashPut a b) := h.same rfl

theorem State.seal_fix_work {x0 : _} {s : State} (k : Nat) (h : Fix (fun z => z.work) x0 s) : Fix (fun z => z.work) x0 (State.seal s k) := by
  unfold State.seal
  repeat' with_reducible first
    | assumption
    | apply State.flashPut_fix_work

theorem State.checkSlot_fix_work {x0 : _} {s : State} (k : Nat) (h : Fix (fun z => z.work) x0 s) : Fix (fun z => z.work) x0 (State.checkSlot s k).2 := by
  unfold State.checkSlot
  repeat' with_reducible first
    | assumption
    | apply State.seal_fix_work
    | simp only [↓Fix.upd_work]
    | split

theorem State.checkSlot_fix_work_of {x0 : _} {s t : State} {k : Nat} {v_ : _} (e : State.checkSlot s k = (v_, t)) (h : Fix (fun z => z.work) x0 s) : Fix (fun z => z.work) x0 t := by
  have k := State.checkSlot_fix_work  (k := k) h
  rw [e] at k
  exact k

theorem State.recordSlot_fix_work {x0 : _} {s : State} (k : Nat) (status : Nat) (h : Fix (fun z => z.work) x0 s) : Fix (fun z => z.work) x0 (State.recordSlot s k status) := by
  unfold State.recordSlot
  repeat' with_reducible first
    | assumption
    | (intro (x : State); apply Fix.cut  (x := x); rotate_left; intro hx; clear_value x; rotate_left; subst x)
    | apply State.setNum_fix_work

theorem State.checkRecord_fix_work {x0 : _} {s : State} (k : Nat) (h : Fix (fun z => z.work) x0 s) : Fix (fun z => z.work) x0 (State.checkRecord s k).2 := by
  unfold State.checkRecord
  repeat' with_reducible first
    | assumption
    | apply State.checkSlot_fix_work
    | refine State.checkSlot_fix_work_of (by assumption) ?_
    | apply State.recordSlot_fix_work

theorem State.checkRecord_fix_work_of {x0 : _} {s t : State} {k : Nat} {v_ : _} (e : State.checkRecord s k = (v_, t)) (h : Fix (fun z => z.work) x0 s) : Fix (fun z => z.work) x0 t := by
  have k := State.checkRecord_fix_work  (k := k) h
  rw [e] at k
  exact k

theorem State.selectFrom_fix_work {x0 : _} {s : State} (bad : Nat → Bool) (a1 : Nat) (a2 : List Nat) (h : Fix (fun z => z.work) x0 s) :
    Fix (fun z => z.work) x0 (State.selectFrom bad a1 a2 s).2 := by
  induction a1 generalizing a2 s with
  | zero => exact h
  | succ f ih =>
    simp only [State.selectFrom]
    split
    · exact h
    · split
      · exact ih _ (State.recordSlot_fix_work _ _ h)
      · exact State.setNum_fix_work _ _ _ h

theorem State.selectFrom_fix_work_of {x0 : _} {s t : State} {bad : Nat → Bool} {a1 : Nat} {a2 : List Nat} {v_ : _} (e : State.selectFrom bad a1 a2 s = (v_, t)) (h : Fix (fun z => z.work) x0 s) : Fix (fun z => z.work) x0 t := by
  have k := State.selectFrom_fix_work  (bad := bad) (a1 := a1) (a2 := a2) h
  rw [e] at k
  exact k

theorem State.select_fix_work {x0 : _} {s : State} (cands : List Nat) (bad : Nat → Bool) (h : Fix (fun z => z.work) x0 s) : Fix (fun z => z.work) x0 (State.select s cands bad).2 := by
  unfold State.select
  repeat' with_reducible first
    | assumption
    | apply State.checkRecord_fix_work
    | refine State.checkRecord_fix_work_of (by assumption) ?_
    | apply State.setNum_fix_work
    | apply State.selectFrom_fix_work
    | refine State.selectFrom_fix_work_of (by assumption) ?_
    | (apply Fix.foldl1; rotate_left; intro t x ht; dsimp only; rotate_left)

theorem State.select_fix_work_of {x0 : _} {s t : State} {cands : List Nat} {bad : Nat → Bool} {v_ : _} (e : State.select s cands bad = (v_, t)) (h : Fix (fun z => z.work) x0 s) : Fix (fun z => z.work) x0 t := by
  have k := State.select_fix_work  (cands := cands) (bad := bad) h
  rw [e] at k
  exact k

theorem State.loadComponent_fix_work {x0 : _} {s : State} (p : Nat) (k : Nat) (h : Fix (fun z => z.work) x0 s) : Fix (fun z => z.work) x0 (State.loadComponent s p k) := by
  unfold State.loadComponent
  repeat' with_reducible first
    | assumption
    | (intro (x : State); apply Fix.cut  (x := x); rotate_left; intro hx; clear_value x; rotate_left; subst x)
    | (intro (x : Trust); subst x)
    | apply State.setNum_fix_work
    | apply State.modProc_fix_work
    | simp only [↓Fix.upd_work]
    | split

theorem State.release_fix_work {x0 : _} {s : State} (p : Nat) (h : Fix (fun z => z.work) x0 s) : Fix (fun z => z.work) x0 (State.release s p) := by
  unfold State.release
  repeat' with_reducible first
    | assumption
    | (intro (x : State); apply Fix.cut  (x := x); rotate_left; intro hx; clear_value x; rotate_left; subst x)
    | apply State.modProc_fix_work
    | apply State.loadComponent_fix_work
    | apply State.setNum_fix_work
    | split

theorem State.bootFrom_fix_work {x0 : _} {s : State} (k : Nat) (rate : Bool) (h : Fix (fun z => z.work) x0 s) : Fix (fun z => z.work) x0 (State.bootFrom s k rate) := by
  unfold State.bootFrom
  repeat' with_reducible first
    | assumption
    | (intro (x : State); apply Fix.cut  (x := x); rotate_left; intro hx; clear_value x; rotate_left; subst x)
    | (intro (x : Trust); subst x)
    | apply State.setNum_fix_work
    | apply State.modProc_fix_work
    | apply State.release_fix_work
    | (apply Fix.foldl; rotate_left; intro t x ht; rotate_left)
    | simp only [↓Fix.upd_work]
    | split

theorem State.enterRecovery_fix_work {x0 : _} {s : State} (h : Fix (fun z => z.work) x0 s) : Fix (fun z => z.work) x0 (State.enterRecovery s) := by
  unfold State.enterRecovery
  repeat' with_reducible first
    | assumption
    | (intro (x : State); apply Fix.cut  (x := x); rotate_left; intro hx; clear_value x; rotate_left; subst x)
    | (intro (x : Trust); subst x)
    | apply State.setNum_fix_work
    | apply State.release_fix_work
    | simp only [↓Fix.upd_work]

theorem State.selectBoot_fix_work {x0 : _} {s : State} (cands : List Nat) (bad : Nat → Bool) (rate : Bool) (h : Fix (fun z => z.work) x0 s) : Fix (fun z => z.work) x0 (State.selectBoot s cands bad rate) := by
  unfold State.selectBoot
  repeat' with_reducible first
    | assumption
    | apply State.select_fix_work
    | refine State.select_fix_work_of (by assumption) ?_
    | apply State.enterRecovery_fix_work
    | apply State.bootFrom_fix_work
    | split

theorem State.reload_fix_work {x0 : _} {s : State} (h : Fix (fun z => z.work) x0 s) : Fix (fun z => z.work) x0 (State.reload s) := by
  unfold State.reload
  repeat' with_reducible first
    | assumption
    | (intro (x : State); apply Fix.cut  (x := x); rotate_left; intro hx; clear_value x; rotate_left; subst x)
    | apply State.selectBoot_fix_work
    | apply State.bootFrom_fix_work
    | apply State.release_fix_work
    | simp only [↓Fix.upd_work]
    | split

/-! ## rst.t0 -/

theorem Fix.upd_rst_t0 {s : State} {x0 : _} {f_pending : List Instr} {f_clk : Clock} {f_pins : Pins} {f_objs : List (Nat × Val)} {f_isl : Islands} {f_slices : List (Nat × Slice)} {f_harts : List (Nat × Hart)} {f_clusters : List (Nat × Cluster)} {f_tasks : List (Nat × Task)} {f_mem : Memory} {f_peers : List (Nat × Peer)} {f_work : Work} {f_media : Media} {f_link : Link} {f_safety : Safety} {f_power : Power} {f_fw : Firmware} {f_trust : Trust} {f_pers : Pers} {f_freeCtr : Nat} :
    Fix (fun z => z.rst.t0) x0 ⟨f_pending, f_clk, f_pins, s.rst, f_objs, f_isl, f_slices, f_harts, f_clusters, f_tasks, f_mem, f_peers, f_work, f_media, f_link, f_safety, f_power, f_fw, f_trust, f_pers, f_freeCtr⟩ = Fix (fun z => z.rst.t0) x0 s := rfl
theorem Fix.upd2_rst_t0 {s : State} {x0 : _} {f_pending : List Instr} {f_clk : Clock} {f_pins : Pins} {f_objs : List (Nat × Val)} {f_isl : Islands} {f_slices : List (Nat × Slice)} {f_harts : List (Nat × Hart)} {f_clusters : List (Nat × Cluster)} {f_tasks : List (Nat × Task)} {f_mem : Memory} {f_peers : List (Nat × Peer)} {f_work : Work} {f_media : Media} {f_link : Link} {f_safety : Safety} {f_power : Power} {f_fw : Firmware} {f_trust : Trust} {f_pers : Pers} {f_freeCtr : Nat} {g_phase : _} {g_bootsel : _} {g_failSlices : _} {g_failChannels : _} {g_bundleSlot : _} {g_memHeld : _} {g_loadDue : _} {g_admitDue : _} {g_sliceMap : _} {g_coreMap : _} :
    Fix (fun z => z.rst.t0) x0 ⟨f_pending, f_clk, f_pins, ⟨g_phase, s.rst.t0, g_bootsel, g_failSlices, g_failChannels, g_bundleSlot, g_memHeld, g_loadDue, g_admitDue, g_sliceMap, g_coreMap⟩, f_objs, f_isl, f_slices, f_harts, f_clusters, f_tasks, f_mem, f_peers, f_work, f_media, f_link, f_safety, f_power, f_fw, f_trust, f_pers, f_freeCtr⟩ = Fix (fun z => z.rst.t0) x0 s := rfl

theorem State.setChan_fix_rst_t0 {x0 : _} {s : State} (n : Nat) (a1 : Channel) (h : Fix (fun z => z.rst.t0) x0 s) : Fix (fun z => z.rst.t0) x0 (State.setChan s n a1) := by
  unfold State.setChan
  repeat' with_reducible first
    | assumption
    | (intro (x : Memory); subst x)
    | simp only [↓Fix.upd_rst_t0, ↓Fix.upd2_rst_t0]

theorem State.modChan_fix_rst_t0 {x0 : _} {s : State} (n : Nat) (f : Channel → Channel) (h : Fix (fun z => z.rst.t0) x0 s) : Fix (fun z => z.rst.t0) x0 (State.modChan s n f) := by
  unfold State.modChan
  repeat' with_reducible first
    | assumption
    | apply State.setChan_fix_rst_t0

theorem State.retireSlot_fix_rst_t0 {x0 : _} {s : State} (c : Nat) (k : Nat) (h : Fix (fun z => z.rst.t0) x0 s) : Fix (fun z => z.rst.t0) x0 (State.retireSlot s c k) := by
  unfold State.retireSlot
  repeat' with_reducible first
    | assumption
    | apply State.modChan_fix_rst_t0

theorem State.setEntry_fix_rst_t0 {x0 : _} {s : State} (n : Nat) (e : Entry) (h : Fix (fun z => z.rst.t0) x0 s) : Fix (fun z => z.rst.t0) x0 (State.setEntry s n e) := by
  unfold State.setEntry
  repeat' with_reducible first
    | assumption
    | (intro (x : Memory); subst x)
    | simp only [↓Fix.upd_rst_t0, ↓Fix.upd2_rst_t0]

theorem State.setVal_fix_rst_t0 {x0 : _} {s : State} (r : ObjRow) (k : Nat) (v : Val) (h : Fix (fun z => z.rst.t0) x0 s) : Fix (fun z => z.rst.t0) x0 (State.setVal s r k v) := by
  unfold State.setVal
  repeat' with_reducible first
    | assumption
    | simp only [↓Fix.upd_rst_t0, ↓Fix.upd2_rst_t0]

theorem State.setNum_fix_rst_t0 {x0 : _} {s : State} (r : ObjRow) (k : Nat) (n : Nat) (h : Fix (fun z => z.rst.t0) x0 s) : Fix (fun z => z.rst.t0) x0 (State.setNum s r k n) := by
  unfold State.setNum
  repeat' with_reducible first
    | assumption
    | apply State.setVal_fix_rst_t0

theorem State.count_fix_rst_t0 {x0 : _} {s : State} (r : ObjRow) (k : optParam Nat 0) (n : optParam Nat 1) (h : Fix (fun z => z.rst.t0) x0 s) : Fix (fun z => z.rst.t0) x0 (State.count s r k n) := by
  unfold State.count
  repeat' with_reducible first
    | assumption
    | apply State.setNum_fix_rst_t0

theorem State.abandonMig_fix_rst_t0 {x0 : _} {s : State} (n : Nat) (h : Fix (fun z => z.rst.t0) x0 s) : Fix (fun z => z.rst.t0) x0 (State.abandonMig s n) := by
  unfold State.abandonMig
  repeat' with_reducible first
    | assumption
    | apply State.retireSlot_fix_rst_t0
    | apply State.setEntry_fix_rst_t0
    | apply State.count_fix_rst_t0
    | simp only [↓Fix.upd_rst_t0, ↓Fix.upd2_rst_t0]
    | split

theorem State.freePage_fix_rst_t0 {x0 : _} {s : State} (n : Nat) (h : Fix (fun z => z.rst.t0) x0 s) : Fix (fun z => z.rst.t0) x0 (State.freePage s n) := by
  unfold State.freePage
  repeat' with_reducible first
    | assumption
    | (intro (x : State); apply Fix.cut  (x := x); rotate_left; intro hx; clear_value x; rotate_left; subst x)
    | (intro (x : Memory); subst x)
    | apply State.abandonMig_fix_rst_t0
    | apply State.retireSlot_fix_rst_t0
    | apply State.setEntry_fix_rst_t0
    | simp only [↓Fix.upd_rst_t0, ↓Fix.upd2_rst_t0]
    | split

theorem State.freePages_fix_rst_t0 {x0 : _} {s : State} (n k : Nat) (h : Fix (fun z => z.rst.t0) x0 s) : Fix (fun z => z.rst.t0) x0 (s.freePages n k) := by
  induction k generalizing s n with
  | zero => exact h
  | succ k ih => exact ih _ (State.freePage_fix_rst_t0 _ h)

theorem State.freeRun_fix_rst_t0 {x0 : _} {s : State} (a0 : Option (Nat × Nat)) (h : Fix (fun z => z.rst.t0) x0 s) : Fix (fun z => z.rst.t0) x0 (State.freeRun s a0) := by
  unfold State.freeRun
  repeat' with_reducible first
    | assumption
    | apply State.freePages_fix_rst_t0
    | split

theorem State.writeByte_fix_rst_t0 {x0 : _} {s : State} (a : Nat) (b : Byte) (h : Fix (fun z => z.rst.t0) x0 s) : Fix (fun z => z.rst.t0) x0 (s.writeByte a b) := h.same rfl

theorem State.writeBytes_fix_rst_t0 {x0 : _} {s : State} (a : Nat) (b : Bytes) (h : Fix (fun z => z.rst.t0) x0 s) : Fix (fun z => z.rst.t0) x0 (s.writeBytes a b) := by
  induction b generalizing s a with
  | nil => exact h
  | cons x r ih => exact ih _ (State.writeByte_fix_rst_t0 _ _ h)

theorem State.noteChange_fix_rst_t0 {x0 : _} {s : State} (q : Option Nat) (h : Fix (fun z => z.rst.t0) x0 s) : Fix (fun z => z.rst.t0) x0 (State.noteChange s q) := by
  unfold State.noteChange
  repeat' with_reducible first
    | assumption
    | simp only [↓Fix.upd_rst_t0, ↓Fix.upd2_rst_t0]

theorem State.writeEvent_fix_rst_t0 {x0 : _} {s : State} (time : Nat) (code : Nat) (source : Nat) (payload : Bytes) (h : Fix (fun z => z.rst.t0) x0 s) : Fix (fun z => z.rst.t0) x0 (State.writeEvent s time code source payload) := by
  unfold State.writeEvent
  repeat' with_reducible first
    | assumption
    | apply State.writeBytes_fix_rst_t0
    | apply State.noteChange_fix_rst_t0
    | apply State.setNum_fix_rst_t0
    | split

theorem State.setStream_fix_rst_t0 {x0 : _} {s : State} (n : Nat) (a1 : Stream) (h : Fix (fun z => z.rst.t0) x0 s) : Fix (fun z => z.rst.t0) x0 (State.setStream s n a1) := by
  unfold State.setStream
  repeat' with_reducible first
    | assumption
    | simp only [↓Fix.upd_rst_t0, ↓Fix.upd2_rst_t0]

theorem State.setSlice_fix_rst_t0 {x0 : _} {s : State} (n : Nat) (a1 : Slice) (h : Fix (fun z => z.rst.t0) x0 s) : Fix (fun z => z.rst.t0) x0 (State.setSlice s n a1) := by
  unfold State.setSlice
  repeat' with_reducible first
    | assumption
    | simp only [↓Fix.upd_rst_t0, ↓Fix.upd2_rst_t0]

theorem State.modSlice_fix_rst_t0 {x0 : _} {s : State} (n : Nat) (f : Slice → Slice) (h : Fix (fun z => z.rst.t0) x0 s) : Fix (fun z => z.rst.t0) x0 (State.modSlice s n f) := by
  unfold State.modSlice
  repeat' with_reducible first
    | assumption
    | apply State.setSlice_fix_rst_t0

theorem State.postEvent_fix_rst_t0 {x0 : _} {s : State} (code : Nat) (source : Nat) (payload : Bytes) (h : Fix (fun z => z.rst.t0) x0 s) : Fix (fun z => z.rst.t0) x0 (State.postEvent s code source payload) := by
  unfold State.postEvent
  repeat' with_reducible first
    | assumption
    | (intro (x : State); apply Fix.cut  (x := x); rotate_left; intro hx; clear_value x; rotate_left; subst x)
    | apply State.writeEvent_fix_rst_t0
    | apply State.count_fix_rst_t0
    | simp only [↓Fix.upd_rst_t0, ↓Fix.upd2_rst_t0]
    | split

theorem State.setProc_fix_rst_t0 {x0 : _} {s : State} (n : Nat) (a1 : Proc) (h : Fix (fun z => z.rst.t0) x0 s) : Fix (fun z => z.rst.t0) x0 (State.setProc s n a1) := by
  unfold State.setProc
  repeat' with_reducible first
    | assumption
    | simp only [↓Fix.upd_rst_t0, ↓Fix.upd2_rst_t0]

theorem State.modProc_fix_rst_t0 {x0 : _} {s : State} (n : Nat) (f : Proc → Proc) (h : Fix (fun z => z.rst.t0) x0 s) : Fix (fun z => z.rst.t0) x0 (State.modProc s n f) := by
  unfold State.modProc
  repeat' with_reducible first
    | assumption
    | apply State.setProc_fix_rst_t0

theorem State.modStream_fix_rst_t0 {x0 : _} {s : State} (n : Nat) (f : Stream → Stream) (h : Fix (fun z => z.rst.t0) x0 s) : Fix (fun z => z.rst.t0) x0 (State.modStream s n f) := by
  unfold State.modStream
  repeat' with_reducible first
    | assumption
    | apply State.setStream_fix_rst_t0

theorem State.clearObj_fix_rst_t0 {x0 : _} {s : State} (r : ObjRow) (k : Nat) (h : Fix (fun z => z.rst.t0) x0 s) : Fix (fun z => z.rst.t0) x0 (State.clearObj s r k) := by
  unfold State.clearObj
  repeat' with_reducible first
    | assumption
    | simp only [↓Fix.upd_rst_t0, ↓Fix.upd2_rst_t0]

theorem State.driveLines_fix_rst_t0 {x0 : _} {s : State} (h : Fix (fun z => z.rst.t0) x0 s) : Fix (fun z => z.rst.t0) x0 (State.driveLines s) := by
  unfold State.driveLines
  repeat' with_reducible first
    | assumption
    | simp only [↓Fix.upd_rst_t0, ↓Fix.upd2_rst_t0]

theorem State.resetReason_fix_rst_t0 {x0 : _} {s : State} (n : Nat) (h : Fix (fun z => z.rst.t0) x0 s) : Fix (fun z => z.rst.t0) x0 (State.resetReason s n) := by
  unfold State.resetReason
  repeat' with_reducible first
    | assumption
    | apply State.modStream_fix_rst_t0

theorem State.leaveCause_fix_rst_t0 {x0 : _} {s : State} (bit : Nat) (h : Fix (fun z => z.rst.t0) x0 s) : Fix (fun z => z.rst.t0) x0 (State.leaveCause s bit) := by
  unfold State.leaveCause
  repeat' with_reducible first
    | assumption
    | (intro (x : State); apply Fix.cut  (x := x); rotate_left; intro hx; clear_value x; rotate_left; subst x)
    | apply State.driveLines_fix_rst_t0
    | apply State.resetReason_fix_rst_t0
    | (apply Fix.foldl; rotate_left; intro t x ht; rotate_left)
    | simp only [↓Fix.upd_rst_t0, ↓Fix.upd2_rst_t0]
    | split

theorem State.flashPut_fix_rst_t0 {x0 : _} {s : State} (a : Nat) (b : Bytes) (h : Fix (fun z => z.rst.t0) x0 s) : Fix (fun z => z.rst.t0) x0 (s.flashPut a b) := h.same rfl

theorem State.seal_fix_rst_t0 {x0 : _} {s : State} (k : Nat) (h : Fix (fun z => z.rst.t0) x0 s) : Fix (fun z => z.rst.t0) x0 (State.seal s k) := by
  unfold State.seal
  repeat' with_reducible first
    | assumption
    | apply State.flashPut_fix_rst_t0

theorem State.checkSlot_fix_rst_t0 {x0 : _} {s : State} (k : Nat) (h : Fix (fun z => z.rst.t0) x0 s) : Fix (fun z => z.rst.t0) x0 (State.checkSlot s k).2 := by
  unfold State.checkSlot
  repeat' with_reducible first
    | assumption
    | apply State.seal_fix_rst_t0
    | simp only [↓Fix.upd_rst_t0, ↓Fix.upd2_rst_t0]
    | split

theorem State.checkSlot_fix_rst_t0_of {x0 : _} {s t : State} {k : Nat} {v_ : _} (e : State.checkSlot s k = (v_, t)) (h : Fix (fun z => z.rst.t0) x0 s) : Fix (fun z => z.rst.t0) x0 t := by
  have k := State.checkSlot_fix_rst_t0  (k := k) h
  rw [e] at k
  exact k

theorem State.recordSlot_fix_rst_t0 {x0 : _} {s : State} (k : Nat) (status : Nat) (h : Fix (fun z => z.rst.t0) x0 s) : Fix (fun z => z.rst.t0) x0 (State.recordSlot s k status) := by
  unfold State.recordSlot
  repeat' with_reducible first
    | assumption
    | (intro (x : State); apply Fix.cut  (x := x); rotate_left; intro hx; clear_value x; rotate_left; subst x)
    | apply State.setNum_fix_rst_t0

theorem State.checkRecord_fix_rst_t0 {x0 : _} {s : State} (k : Nat) (h : Fix (fun z => z.rst.t0) x0 s) : Fix (fun z => z.rst.t0) x0 (State.checkRecord s k).2 := by
  unfold State.checkRecord
  repeat' with_reducible first
    | assumption
    | apply State.checkSlot_fix_rst_t0
    | refine State.checkSlot_fix_rst_t0_of (by assumption) ?_
    | apply State.recordSlot_fix_rst_t0

theorem State.checkRecord_fix_rst_t0_of {x0 : _} {s t : State} {k : Nat} {v_ : _} (e : State.checkRecord s k = (v_, t)) (h : Fix (fun z => z.rst.t0) x0 s) : Fix (fun z => z.rst.t0) x0 t := by
  have k := State.checkRecord_fix_rst_t0  (k := k) h
  rw [e] at k
  exact k

theorem State.selectFrom_fix_rst_t0 {x0 : _} {s : State} (bad : Nat → Bool) (a1 : Nat) (a2 : List Nat) (h : Fix (fun z => z.rst.t0) x0 s) :
    Fix (fun z => z.rst.t0) x0 (State.selectFrom bad a1 a2 s).2 := by
  induction a1 generalizing a2 s with
  | zero => exact h
  | succ f ih =>
    simp only [State.selectFrom]
    split
    · exact h
    · split
      · exact ih _ (State.recordSlot_fix_rst_t0 _ _ h)
      · exact State.setNum_fix_rst_t0 _ _ _ h

theorem State.selectFrom_fix_rst_t0_of {x0 : _} {s t : State} {bad : Nat → Bool} {a1 : Nat} {a2 : List Nat} {v_ : _} (e : State.selectFrom bad a1 a2 s = (v_, t)) (h : Fix (fun z => z.rst.t0) x0 s) : Fix (fun z => z.rst.t0) x0 t := by
  have k := State.selectFrom_fix_rst_t0  (bad := bad) (a1 := a1) (a2 := a2) h
  rw [e] at k
  exact k

theorem State.select_fix_rst_t0 {x0 : _} {s : State} (cands : List Nat) (bad : Nat → Bool) (h : Fix (fun z => z.rst.t0) x0 s) : Fix (fun z => z.rst.t0) x0 (State.select s cands bad).2 := by
  unfold State.select
  repeat' with_reducible first
    | assumption
    | apply State.checkRecord_fix_rst_t0
    | refine State.checkRecord_fix_rst_t0_of (by assumption) ?_
    | apply State.setNum_fix_rst_t0
    | apply State.selectFrom_fix_rst_t0
    | refine State.selectFrom_fix_rst_t0_of (by assumption) ?_
    | (apply Fix.foldl1; rotate_left; intro t x ht; dsimp only; rotate_left)

theorem State.select_fix_rst_t0_of {x0 : _} {s t : State} {cands : List Nat} {bad : Nat → Bool} {v_ : _} (e : State.select s cands bad = (v_, t)) (h : Fix (fun z => z.rst.t0) x0 s) : Fix (fun z => z.rst.t0) x0 t := by
  have k := State.select_fix_rst_t0  (cands := cands) (bad := bad) h
  rw [e] at k
  exact k

theorem State.loadComponent_fix_rst_t0 {x0 : _} {s : State} (p : Nat) (k : Nat) (h : Fix (fun z => z.rst.t0) x0 s) : Fix (fun z => z.rst.t0) x0 (State.loadComponent s p k) := by
  unfold State.loadComponent
  repeat' with_reducible first
    | assumption
    | (intro (x : State); apply Fix.cut  (x := x); rotate_left; intro hx; clear_value x; rotate_left; subst x)
    | (intro (x : Trust); subst x)
    | apply State.setNum_fix_rst_t0
    | apply State.modProc_fix_rst_t0
    | simp only [↓Fix.upd_rst_t0, ↓Fix.upd2_rst_t0]
    | split

theorem State.deferDone_fix_rst_t0 {x0 : _} {s : State} (d : Deferred) (status : Nat) (h : Fix (fun z => z.rst.t0) x0 s) : Fix (fun z => z.rst.t0) x0 (State.deferDone s d status) := by
  unfold State.deferDone
  repeat' with_reducible first
    | assumption
    | apply State.postEvent_fix_rst_t0

theorem State.abortDeferred_fix_rst_t0 {x0 : _} {s : State} (h : Fix (fun z => z.rst.t0) x0 s) : Fix (fun z => z.rst.t0) x0 (State.abortDeferred s) := by
  unfold State.abortDeferred
  repeat' with_reducible first
    | assumption
    | apply State.deferDone_fix_rst_t0
    | (apply Fix.foldl; rotate_left; intro t x ht; rotate_left)
    | simp only [↓Fix.upd_rst_t0, ↓Fix.upd2_rst_t0]

theorem State.release_fix_rst_t0 {x0 : _} {s : State} (p : Nat) (h : Fix (fun z => z.rst.t0) x0 s) : Fix (fun z => z.rst.t0) x0 (State.release s p) := by
  unfold State.release
  repeat' with_reducible first
    | assumption
    | (intro (x : State); apply Fix.cut  (x := x); rotate_left; intro hx; clear_value x; rotate_left; subst x)
    | apply State.modProc_fix_rst_t0
    | apply State.loadComponent_fix_rst_t0
    | apply State.setNum_fix_rst_t0
    | split

theorem State.bootFrom_fix_rst_t0 {x0 : _} {s : State} (k : Nat) (rate : Bool) (h : Fix (fun z => z.rst.t0) x0 s) : Fix (fun z => z.rst.t0) x0 (State.bootFrom s k rate) := by
  unfold State.bootFrom
  repeat' with_reducible first
    | assumption
    | (intro (x : State); apply Fix.cut  (x := x); rotate_left; intro hx; clear_value x; rotate_left; subst x)
    | (intro (x : Trust); subst x)
    | apply State.setNum_fix_rst_t0
    | apply State.modProc_fix_rst_t0
    | apply State.release_fix_rst_t0
    | (apply Fix.foldl; rotate_left; intro t x ht; rotate_left)
    | simp only [↓Fix.upd_rst_t0, ↓Fix.upd2_rst_t0]
    | split

theorem State.clearAll_fix_rst_t0 {x0 : _} {s : State} (rows : List ObjRow) (h : Fix (fun z => z.rst.t0) x0 s) : Fix (fun z => z.rst.t0) x0 (State.clearAll s rows) := by
  unfold State.clearAll
  repeat' with_reducible first
    | assumption
    | apply State.clearObj_fix_rst_t0
    | (apply Fix.foldl; rotate_left; intro t x ht; rotate_left)

theorem State.warmWork_fix_rst_t0 {x0 : _} {s : State} (h : Fix (fun z => z.rst.t0) x0 s) : Fix (fun z => z.rst.t0) x0 (State.warmWork s) := by
  unfold State.warmWork
  repeat' with_reducible first
    | assumption
    | simp only [↓Fix.upd_rst_t0, ↓Fix.upd2_rst_t0]

theorem State.warmApply_fix_rst_t0 {x0 : _} {s : State} (h : Fix (fun z => z.rst.t0) x0 s) : Fix (fun z => z.rst.t0) x0 (State.warmApply s) := by
  unfold State.warmApply
  repeat' with_reducible first
    | assumption
    | (intro (x : State); apply Fix.cut  (x := x); rotate_left; intro hx; clear_value x; rotate_left; subst x)
    | (apply Fix.foldl; rotate_left; intro t x ht; rotate_left)
    | simp only [↓Fix.upd_rst_t0, ↓Fix.upd2_rst_t0]

theorem State.warmMedia_fix_rst_t0 {x0 : _} {s : State} (h : Fix (fun z => z.rst.t0) x0 s) : Fix (fun z => z.rst.t0) x0 (State.warmMedia s) := by
  unfold State.warmMedia
  repeat' with_reducible first
    | assumption
    | (intro (x : State); apply Fix.cut  (x := x); rotate_left; intro hx; clear_value x; rotate_left; subst x)
    | apply State.freeRun_fix_rst_t0
    | (apply Fix.foldl; rotate_left; intro t x ht; rotate_left)
    | simp only [↓Fix.upd_rst_t0, ↓Fix.upd2_rst_t0]

theorem State.warmProcs_fix_rst_t0 {x0 : _} {s : State} (h : Fix (fun z => z.rst.t0) x0 s) : Fix (fun z => z.rst.t0) x0 (State.warmProcs s) := by
  unfold State.warmProcs
  repeat' with_reducible first
    | assumption
    | apply State.setNum_fix_rst_t0
    | (apply Fix.foldl; rotate_left; intro t x ht; rotate_left)

theorem State.warmParts_fix_rst_t0 {x0 : _} {s : State} (h : Fix (fun z => z.rst.t0) x0 s) : Fix (fun z => z.rst.t0) x0 s.warmParts := h.same rfl

theorem State.warmSlices_fix_rst_t0 {x0 : _} {s : State} (h : Fix (fun z => z.rst.t0) x0 s) : Fix (fun z => z.rst.t0) x0 (State.warmSlices s) := by
  unfold State.warmSlices
  repeat' with_reducible first
    | assumption
    | apply State.modSlice_fix_rst_t0
    | (apply Fix.foldl; rotate_left; intro t x ht; rotate_left)

theorem State.warmHardware_fix_rst_t0 {x0 : _} {s : State} (h : Fix (fun z => z.rst.t0) x0 s) : Fix (fun z => z.rst.t0) x0 (State.warmHardware s) := by
  unfold State.warmHardware
  repeat' with_reducible first
    | assumption
    | (intro (x : State); apply Fix.cut  (x := x); rotate_left; intro hx; clear_value x; rotate_left; subst x)
    | apply State.warmProcs_fix_rst_t0
    | apply State.warmParts_fix_rst_t0
    | apply State.warmSlices_fix_rst_t0
    | apply State.clearAll_fix_rst_t0
    | apply State.leaveCause_fix_rst_t0
    | split

theorem State.warmLink_fix_rst_t0 {x0 : _} {s : State} (h : Fix (fun z => z.rst.t0) x0 s) : Fix (fun z => z.rst.t0) x0 (State.warmLink s) := by
  unfold State.warmLink
  repeat' with_reducible first
    | assumption
    | (intro (x : State); apply Fix.cut  (x := x); rotate_left; intro hx; clear_value x; rotate_left; subst x)
    | apply State.count_fix_rst_t0
    | apply State.abortDeferred_fix_rst_t0
    | simp only [↓Fix.upd_rst_t0, ↓Fix.upd2_rst_t0]

theorem State.enterRecovery_fix_rst_t0 {x0 : _} {s : State} (h : Fix (fun z => z.rst.t0) x0 s) : Fix (fun z => z.rst.t0) x0 (State.enterRecovery s) := by
  unfold State.enterRecovery
  repeat' with_reducible first
    | assumption
    | (intro (x : State); apply Fix.cut  (x := x); rotate_left; intro hx; clear_value x; rotate_left; subst x)
    | (intro (x : Trust); subst x)
    | apply State.setNum_fix_rst_t0
    | apply State.release_fix_rst_t0
    | simp only [↓Fix.upd_rst_t0, ↓Fix.upd2_rst_t0]

theorem State.selectBoot_fix_rst_t0 {x0 : _} {s : State} (cands : List Nat) (bad : Nat → Bool) (rate : Bool) (h : Fix (fun z => z.rst.t0) x0 s) : Fix (fun z => z.rst.t0) x0 (State.selectBoot s cands bad rate) := by
  unfold State.selectBoot
  repeat' with_reducible first
    | assumption
    | apply State.select_fix_rst_t0
    | refine State.select_fix_rst_t0_of (by assumption) ?_
    | apply State.enterRecovery_fix_rst_t0
    | apply State.bootFrom_fix_rst_t0
    | split

theorem State.reload_fix_rst_t0 {x0 : _} {s : State} (h : Fix (fun z => z.rst.t0) x0 s) : Fix (fun z => z.rst.t0) x0 (State.reload s) := by
  unfold State.reload
  repeat' with_reducible first
    | assumption
    | (intro (x : State); apply Fix.cut  (x := x); rotate_left; intro hx; clear_value x; rotate_left; subst x)
    | apply State.selectBoot_fix_rst_t0
    | apply State.bootFrom_fix_rst_t0
    | apply State.release_fix_rst_t0
    | simp only [↓Fix.upd_rst_t0, ↓Fix.upd2_rst_t0]
    | split

/-! ## rst.bootsel -/

theorem Fix.upd_rst_bootsel {s : State} {x0 : _} {f_pending : List Instr} {f_clk : Clock} {f_pins : Pins} {f_objs : List (Nat × Val)} {f_isl : Islands} {f_slices : List (Nat × Slice)} {f_harts : List (Nat × Hart)} {f_clusters : List (Nat × Cluster)} {f_tasks : List (Nat × Task)} {f_mem : Memory} {f_peers : List (Nat × Peer)} {f_work : Work} {f_media : Media} {f_link : Link} {f_safety : Safety} {f_power : Power} {f_fw : Firmware} {f_trust : Trust} {f_pers : Pers} {f_freeCtr : Nat} :
    Fix (fun z => z.rst.bootsel) x0 ⟨f_pending, f_clk, f_pins, s.rst, f_objs, f_isl, f_slices, f_harts, f_clusters, f_tasks, f_mem, f_peers, f_work, f_media, f_link, f_safety, f_power, f_fw, f_trust, f_pers, f_freeCtr⟩ = Fix (fun z => z.rst.bootsel) x0 s := rfl
theorem Fix.upd2_rst_bootsel {s : State} {x0 : _} {f_pending : List Instr} {f_clk : Clock} {f_pins : Pins} {f_objs : List (Nat × Val)} {f_isl : Islands} {f_slices : List (Nat × Slice)} {f_harts : List (Nat × Hart)} {f_clusters : List (Nat × Cluster)} {f_tasks : List (Nat × Task)} {f_mem : Memory} {f_peers : List (Nat × Peer)} {f_work : Work} {f_media : Media} {f_link : Link} {f_safety : Safety} {f_power : Power} {f_fw : Firmware} {f_trust : Trust} {f_pers : Pers} {f_freeCtr : Nat} {g_phase : _} {g_t0 : _} {g_failSlices : _} {g_failChannels : _} {g_bundleSlot : _} {g_memHeld : _} {g_loadDue : _} {g_admitDue : _} {g_sliceMap : _} {g_coreMap : _} :
    Fix (fun z => z.rst.bootsel) x0 ⟨f_pending, f_clk, f_pins, ⟨g_phase, g_t0, s.rst.bootsel, g_failSlices, g_failChannels, g_bundleSlot, g_memHeld, g_loadDue, g_admitDue, g_sliceMap, g_coreMap⟩, f_objs, f_isl, f_slices, f_harts, f_clusters, f_tasks, f_mem, f_peers, f_work, f_media, f_link, f_safety, f_power, f_fw, f_trust, f_pers, f_freeCtr⟩ = Fix (fun z => z.rst.bootsel) x0 s := rfl

theorem State.setVal_fix_rst_bootsel {x0 : _} {s : State} (r : ObjRow) (k : Nat) (v : Val) (h : Fix (fun z => z.rst.bootsel) x0 s) : Fix (fun z => z.rst.bootsel) x0 (State.setVal s r k v) := by
  unfold State.setVal
  repeat' with_reducible first
    | assumption
    | simp only [↓Fix.upd_rst_bootsel, ↓Fix.upd2_rst_bootsel]

theorem State.setNum_fix_rst_bootsel {x0 : _} {s : State} (r : ObjRow) (k : Nat) (n : Nat) (h : Fix (fun z => z.rst.bootsel) x0 s) : Fix (fun z => z.rst.bootsel) x0 (State.setNum s r k n) := by
  unfold State.setNum
  repeat' with_reducible first
    | assumption
    | apply State.setVal_fix_rst_bootsel

theorem State.setProc_fix_rst_bootsel {x0 : _} {s : State} (n : Nat) (a1 : Proc) (h : Fix (fun z => z.rst.bootsel) x0 s) : Fix (fun z => z.rst.bootsel) x0 (State.setProc s n a1) := by
  unfold State.setProc
  repeat' with_reducible first
    | assumption
    | simp only [↓Fix.upd_rst_bootsel, ↓Fix.upd2_rst_bootsel]

theorem State.modProc_fix_rst_bootsel {x0 : _} {s : State} (n : Nat) (f : Proc → Proc) (h : Fix (fun z => z.rst.bootsel) x0 s) : Fix (fun z => z.rst.bootsel) x0 (State.modProc s n f) := by
  unfold State.modProc
  repeat' with_reducible first
    | assumption
    | apply State.setProc_fix_rst_bootsel

theorem State.flashPut_fix_rst_bootsel {x0 : _} {s : State} (a : Nat) (b : Bytes) (h : Fix (fun z => z.rst.bootsel) x0 s) : Fix (fun z => z.rst.bootsel) x0 (s.flashPut a b) := h.same rfl

theorem State.seal_fix_rst_bootsel {x0 : _} {s : State} (k : Nat) (h : Fix (fun z => z.rst.bootsel) x0 s) : Fix (fun z => z.rst.bootsel) x0 (State.seal s k) := by
  unfold State.seal
  repeat' with_reducible first
    | assumption
    | apply State.flashPut_fix_rst_bootsel

theorem State.checkSlot_fix_rst_bootsel {x0 : _} {s : State} (k : Nat) (h : Fix (fun z => z.rst.bootsel) x0 s) : Fix (fun z => z.rst.bootsel) x0 (State.checkSlot s k).2 := by
  unfold State.checkSlot
  repeat' with_reducible first
    | assumption
    | apply State.seal_fix_rst_bootsel
    | simp only [↓Fix.upd_rst_bootsel, ↓Fix.upd2_rst_bootsel]
    | split

theorem State.checkSlot_fix_rst_bootsel_of {x0 : _} {s t : State} {k : Nat} {v_ : _} (e : State.checkSlot s k = (v_, t)) (h : Fix (fun z => z.rst.bootsel) x0 s) : Fix (fun z => z.rst.bootsel) x0 t := by
  have k := State.checkSlot_fix_rst_bootsel  (k := k) h
  rw [e] at k
  exact k

theorem State.recordSlot_fix_rst_bootsel {x0 : _} {s : State} (k : Nat) (status : Nat) (h : Fix (fun z => z.rst.bootsel) x0 s) : Fix (fun z => z.rst.bootsel) x0 (State.recordSlot s k status) := by
  unfold State.recordSlot
  repeat' with_reducible first
    | assumption
    | (intro (x : State); apply Fix.cut  (x := x); rotate_left; intro hx; clear_value x; rotate_left; subst x)
    | apply State.setNum_fix_rst_bootsel

theorem State.checkRecord_fix_rst_bootsel {x0 : _} {s : State} (k : Nat) (h : Fix (fun z => z.rst.bootsel) x0 s) : Fix (fun z => z.rst.bootsel) x0 (State.checkRecord s k).2 := by
  unfold State.checkRecord
  repeat' with_reducible first
    | assumption
    | apply State.checkSlot_fix_rst_bootsel
    | refine State.checkSlot_fix_rst_bootsel_of (by assumption) ?_
    | apply State.recordSlot_fix_rst_bootsel

theorem State.checkRecord_fix_rst_bootsel_of {x0 : _} {s t : State} {k : Nat} {v_ : _} (e : State.checkRecord s k = (v_, t)) (h : Fix (fun z => z.rst.bootsel) x0 s) : Fix (fun z => z.rst.bootsel) x0 t := by
  have k := State.checkRecord_fix_rst_bootsel  (k := k) h
  rw [e] at k
  exact k

theorem State.selectFrom_fix_rst_bootsel {x0 : _} {s : State} (bad : Nat → Bool) (a1 : Nat) (a2 : List Nat) (h : Fix (fun z => z.rst.bootsel) x0 s) :
    Fix (fun z => z.rst.bootsel) x0 (State.selectFrom bad a1 a2 s).2 := by
  induction a1 generalizing a2 s with
  | zero => exact h
  | succ f ih =>
    simp only [State.selectFrom]
    split
    · exact h
    · split
      · exact ih _ (State.recordSlot_fix_rst_bootsel _ _ h)
      · exact State.setNum_fix_rst_bootsel _ _ _ h

theorem State.selectFrom_fix_rst_bootsel_of {x0 : _} {s t : State} {bad : Nat → Bool} {a1 : Nat} {a2 : List Nat} {v_ : _} (e : State.selectFrom bad a1 a2 s = (v_, t)) (h : Fix (fun z => z.rst.bootsel) x0 s) : Fix (fun z => z.rst.bootsel) x0 t := by
  have k := State.selectFrom_fix_rst_bootsel  (bad := bad) (a1 := a1) (a2 := a2) h
  rw [e] at k
  exact k

theorem State.select_fix_rst_bootsel {x0 : _} {s : State} (cands : List Nat) (bad : Nat → Bool) (h : Fix (fun z => z.rst.bootsel) x0 s) : Fix (fun z => z.rst.bootsel) x0 (State.select s cands bad).2 := by
  unfold State.select
  repeat' with_reducible first
    | assumption
    | apply State.checkRecord_fix_rst_bootsel
    | refine State.checkRecord_fix_rst_bootsel_of (by assumption) ?_
    | apply State.setNum_fix_rst_bootsel
    | apply State.selectFrom_fix_rst_bootsel
    | refine State.selectFrom_fix_rst_bootsel_of (by assumption) ?_
    | (apply Fix.foldl1; rotate_left; intro t x ht; dsimp only; rotate_left)

theorem State.select_fix_rst_bootsel_of {x0 : _} {s t : State} {cands : List Nat} {bad : Nat → Bool} {v_ : _} (e : State.select s cands bad = (v_, t)) (h : Fix (fun z => z.rst.bootsel) x0 s) : Fix (fun z => z.rst.bootsel) x0 t := by
  have k := State.select_fix_rst_bootsel  (cands := cands) (bad := bad) h
  rw [e] at k
  exact k

theorem State.loadComponent_fix_rst_bootsel {x0 : _} {s : State} (p : Nat) (k : Nat) (h : Fix (fun z => z.rst.bootsel) x0 s) : Fix (fun z => z.rst.bootsel) x0 (State.loadComponent s p k) := by
  unfold State.loadComponent
  repeat' with_reducible first
    | assumption
    | (intro (x : State); apply Fix.cut  (x := x); rotate_left; intro hx; clear_value x; rotate_left; subst x)
    | (intro (x : Trust); subst x)
    | apply State.setNum_fix_rst_bootsel
    | apply State.modProc_fix_rst_bootsel
    | simp only [↓Fix.upd_rst_bootsel, ↓Fix.upd2_rst_bootsel]
    | split

theorem State.release_fix_rst_bootsel {x0 : _} {s : State} (p : Nat) (h : Fix (fun z => z.rst.bootsel) x0 s) : Fix (fun z => z.rst.bootsel) x0 (State.release s p) := by
  unfold State.release
  repeat' with_reducible first
    | assumption
    | (intro (x : State); apply Fix.cut  (x := x); rotate_left; intro hx; clear_value x; rotate_left; subst x)
    | apply State.modProc_fix_rst_bootsel
    | apply State.loadComponent_fix_rst_bootsel
    | apply State.setNum_fix_rst_bootsel
    | split

theorem State.bootFrom_fix_rst_bootsel {x0 : _} {s : State} (k : Nat) (rate : Bool) (h : Fix (fun z => z.rst.bootsel) x0 s) : Fix (fun z => z.rst.bootsel) x0 (State.bootFrom s k rate) := by
  unfold State.bootFrom
  repeat' with_reducible first
    | assumption
    | (intro (x : State); apply Fix.cut  (x := x); rotate_left; intro hx; clear_value x; rotate_left; subst x)
    | (intro (x : Trust); subst x)
    | apply State.setNum_fix_rst_bootsel
    | apply State.modProc_fix_rst_bootsel
    | apply State.release_fix_rst_bootsel
    | (apply Fix.foldl; rotate_left; intro t x ht; rotate_left)
    | simp only [↓Fix.upd_rst_bootsel, ↓Fix.upd2_rst_bootsel]
    | split

theorem State.enterRecovery_fix_rst_bootsel {x0 : _} {s : State} (h : Fix (fun z => z.rst.bootsel) x0 s) : Fix (fun z => z.rst.bootsel) x0 (State.enterRecovery s) := by
  unfold State.enterRecovery
  repeat' with_reducible first
    | assumption
    | (intro (x : State); apply Fix.cut  (x := x); rotate_left; intro hx; clear_value x; rotate_left; subst x)
    | (intro (x : Trust); subst x)
    | apply State.setNum_fix_rst_bootsel
    | apply State.release_fix_rst_bootsel
    | simp only [↓Fix.upd_rst_bootsel, ↓Fix.upd2_rst_bootsel]

theorem State.selectBoot_fix_rst_bootsel {x0 : _} {s : State} (cands : List Nat) (bad : Nat → Bool) (rate : Bool) (h : Fix (fun z => z.rst.bootsel) x0 s) : Fix (fun z => z.rst.bootsel) x0 (State.selectBoot s cands bad rate) := by
  unfold State.selectBoot
  repeat' with_reducible first
    | assumption
    | apply State.select_fix_rst_bootsel
    | refine State.select_fix_rst_bootsel_of (by assumption) ?_
    | apply State.enterRecovery_fix_rst_bootsel
    | apply State.bootFrom_fix_rst_bootsel
    | split

/-! ## work.bootEpoch -/

theorem Fix.upd_work_bootEpoch {s : State} {x0 : _} {f_pending : List Instr} {f_clk : Clock} {f_pins : Pins} {f_rst : ResetState} {f_objs : List (Nat × Val)} {f_isl : Islands} {f_slices : List (Nat × Slice)} {f_harts : List (Nat × Hart)} {f_clusters : List (Nat × Cluster)} {f_tasks : List (Nat × Task)} {f_mem : Memory} {f_peers : List (Nat × Peer)} {f_media : Media} {f_link : Link} {f_safety : Safety} {f_power : Power} {f_fw : Firmware} {f_trust : Trust} {f_pers : Pers} {f_freeCtr : Nat} :
    Fix (fun z => z.work.bootEpoch) x0 ⟨f_pending, f_clk, f_pins, f_rst, f_objs, f_isl, f_slices, f_harts, f_clusters, f_tasks, f_mem, f_peers, s.work, f_media, f_link, f_safety, f_power, f_fw, f_trust, f_pers, f_freeCtr⟩ = Fix (fun z => z.work.bootEpoch) x0 s := rfl
theorem Fix.upd2_work_bootEpoch {s : State} {x0 : _} {f_pending : List Instr} {f_clk : Clock} {f_pins : Pins} {f_rst : ResetState} {f_objs : List (Nat × Val)} {f_isl : Islands} {f_slices : List (Nat × Slice)} {f_harts : List (Nat × Hart)} {f_clusters : List (Nat × Cluster)} {f_tasks : List (Nat × Task)} {f_mem : Memory} {f_peers : List (Nat × Peer)} {f_media : Media} {f_link : Link} {f_safety : Safety} {f_power : Power} {f_fw : Firmware} {f_trust : Trust} {f_pers : Pers} {f_freeCtr : Nat} {g_queues : _} {g_ctxs : _} {g_flags : _} {g_frameCounts : _} {g_openSet : _} {g_epochs : _} {g_deferred : _} {g_idlePend : _} {g_warmPend : _} {g_cycles : _} {g_jtaken : _} {g_journalAt : _} {g_heldStats : _} {g_runSums : _} {g_pairs : _} {g_statEnd : _} {g_replayDone : _} {g_shedding : _} {g_noAccept : _} {g_batches : _} :
    Fix (fun z => z.work.bootEpoch) x0 ⟨f_pending, f_clk, f_pins, f_rst, f_objs, f_isl, f_slices, f_harts, f_clusters, f_tasks, f_mem, f_peers, ⟨g_queues, g_ctxs, g_flags, s.work.bootEpoch, g_frameCounts, g_openSet, g_epochs, g_deferred, g_idlePend, g_warmPend, g_cycles, g_jtaken, g_journalAt, g_heldStats, g_runSums, g_pairs, g_statEnd, g_replayDone, g_shedding, g_noAccept, g_batches⟩, f_media, f_link, f_safety, f_power, f_fw, f_trust, f_pers, f_freeCtr⟩ = Fix (fun z => z.work.bootEpoch) x0 s := rfl

theorem State.setChan_fix_work_bootEpoch {x0 : _} {s : State} (n : Nat) (a1 : Channel) (h : Fix (fun z => z.work.bootEpoch) x0 s) : Fix (fun z => z.work.bootEpoch) x0 (State.setChan s n a1) := by
  unfold State.setChan
  repeat' with_reducible first
    | assumption
    | (intro (x : Memory); subst x)
    | simp only [↓Fix.upd_work_bootEpoch, ↓Fix.upd2_work_bootEpoch]

theorem State.modChan_fix_work_bootEpoch {x0 : _} {s : State} (n : Nat) (f : Channel → Channel) (h : Fix (fun z => z.work.bootEpoch) x0 s) : Fix (fun z => z.work.bootEpoch) x0 (State.modChan s n f) := by
  unfold State.modChan
  repeat' with_reducible first
    | assumption
    | apply State.setChan_fix_work_bootEpoch

theorem State.retireSlot_fix_work_bootEpoch {x0 : _} {s : State} (c : Nat) (k : Nat) (h : Fix (fun z => z.work.bootEpoch) x0 s) : Fix (fun z => z.work.bootEpoch) x0 (State.retireSlot s c k) := by
  unfold State.retireSlot
  repeat' with_reducible first
    | assumption
    | apply State.modChan_fix_work_bootEpoch

theorem State.setEntry_fix_work_bootEpoch {x0 : _} {s : State} (n : Nat) (e : Entry) (h : Fix (fun z => z.work.bootEpoch) x0 s) : Fix (fun z => z.work.bootEpoch) x0 (State.setEntry s n e) := by
  unfold State.setEntry
  repeat' with_reducible first
    | assumption
    | (intro (x : Memory); subst x)
    | simp only [↓Fix.upd_work_bootEpoch, ↓Fix.upd2_work_bootEpoch]

theorem State.setVal_fix_work_bootEpoch {x0 : _} {s : State} (r : ObjRow) (k : Nat) (v : Val) (h : Fix (fun z => z.work.bootEpoch) x0 s) : Fix (fun z => z.work.bootEpoch) x0 (State.setVal s r k v) := by
  unfold State.setVal
  repeat' with_reducible first
    | assumption
    | simp only [↓Fix.upd_work_bootEpoch, ↓Fix.upd2_work_bootEpoch]

theorem State.setNum_fix_work_bootEpoch {x0 : _} {s : State} (r : ObjRow) (k : Nat) (n : Nat) (h : Fix (fun z => z.work.bootEpoch) x0 s) : Fix (fun z => z.work.bootEpoch) x0 (State.setNum s r k n) := by
  unfold State.setNum
  repeat' with_reducible first
    | assumption
    | apply State.setVal_fix_work_bootEpoch

theorem State.count_fix_work_bootEpoch {x0 : _} {s : State} (r : ObjRow) (k : optParam Nat 0) (n : optParam Nat 1) (h : Fix (fun z => z.work.bootEpoch) x0 s) : Fix (fun z => z.work.bootEpoch) x0 (State.count s r k n) := by
  unfold State.count
  repeat' with_reducible first
    | assumption
    | apply State.setNum_fix_work_bootEpoch

theorem State.abandonMig_fix_work_bootEpoch {x0 : _} {s : State} (n : Nat) (h : Fix (fun z => z.work.bootEpoch) x0 s) : Fix (fun z => z.work.bootEpoch) x0 (State.abandonMig s n) := by
  unfold State.abandonMig
  repeat' with_reducible first
    | assumption
    | apply State.retireSlot_fix_work_bootEpoch
    | apply State.setEntry_fix_work_bootEpoch
    | apply State.count_fix_work_bootEpoch
    | simp only [↓Fix.upd_work_bootEpoch, ↓Fix.upd2_work_bootEpoch]
    | split

theorem State.freePage_fix_work_bootEpoch {x0 : _} {s : State} (n : Nat) (h : Fix (fun z => z.work.bootEpoch) x0 s) : Fix (fun z => z.work.bootEpoch) x0 (State.freePage s n) := by
  unfold State.freePage
  repeat' with_reducible first
    | assumption
    | (intro (x : State); apply Fix.cut  (x := x); rotate_left; intro hx; clear_value x; rotate_left; subst x)
    | (intro (x : Memory); subst x)
    | apply State.abandonMig_fix_work_bootEpoch
    | apply State.retireSlot_fix_work_bootEpoch
    | apply State.setEntry_fix_work_bootEpoch
    | simp only [↓Fix.upd_work_bootEpoch, ↓Fix.upd2_work_bootEpoch]
    | split

theorem State.freePages_fix_work_bootEpoch {x0 : _} {s : State} (n k : Nat) (h : Fix (fun z => z.work.bootEpoch) x0 s) : Fix (fun z => z.work.bootEpoch) x0 (s.freePages n k) := by
  induction k generalizing s n with
  | zero => exact h
  | succ k ih => exact ih _ (State.freePage_fix_work_bootEpoch _ h)

theorem State.freeRun_fix_work_bootEpoch {x0 : _} {s : State} (a0 : Option (Nat × Nat)) (h : Fix (fun z => z.work.bootEpoch) x0 s) : Fix (fun z => z.work.bootEpoch) x0 (State.freeRun s a0) := by
  unfold State.freeRun
  repeat' with_reducible first
    | assumption
    | apply State.freePages_fix_work_bootEpoch
    | split

theorem State.writeByte_fix_work_bootEpoch {x0 : _} {s : State} (a : Nat) (b : Byte) (h : Fix (fun z => z.work.bootEpoch) x0 s) : Fix (fun z => z.work.bootEpoch) x0 (s.writeByte a b) := h.same rfl

theorem State.writeBytes_fix_work_bootEpoch {x0 : _} {s : State} (a : Nat) (b : Bytes) (h : Fix (fun z => z.work.bootEpoch) x0 s) : Fix (fun z => z.work.bootEpoch) x0 (s.writeBytes a b) := by
  induction b generalizing s a with
  | nil => exact h
  | cons x r ih => exact ih _ (State.writeByte_fix_work_bootEpoch _ _ h)

theorem State.noteChange_fix_work_bootEpoch {x0 : _} {s : State} (q : Option Nat) (h : Fix (fun z => z.work.bootEpoch) x0 s) : Fix (fun z => z.work.bootEpoch) x0 (State.noteChange s q) := by
  unfold State.noteChange
  repeat' with_reducible first
    | assumption
    | simp only [↓Fix.upd_work_bootEpoch, ↓Fix.upd2_work_bootEpoch]

theorem State.writeEvent_fix_work_bootEpoch {x0 : _} {s : State} (time : Nat) (code : Nat) (source : Nat) (payload : Bytes) (h : Fix (fun z => z.work.bootEpoch) x0 s) : Fix (fun z => z.work.bootEpoch) x0 (State.writeEvent s time code source payload) := by
  unfold State.writeEvent
  repeat' with_reducible first
    | assumption
    | apply State.writeBytes_fix_work_bootEpoch
    | apply State.noteChange_fix_work_bootEpoch
    | apply State.setNum_fix_work_bootEpoch
    | split

theorem State.setStream_fix_work_bootEpoch {x0 : _} {s : State} (n : Nat) (a1 : Stream) (h : Fix (fun z => z.work.bootEpoch) x0 s) : Fix (fun z => z.work.bootEpoch) x0 (State.setStream s n a1) := by
  unfold State.setStream
  repeat' with_reducible first
    | assumption
    | simp only [↓Fix.upd_work_bootEpoch, ↓Fix.upd2_work_bootEpoch]

theorem State.setSlice_fix_work_bootEpoch {x0 : _} {s : State} (n : Nat) (a1 : Slice) (h : Fix (fun z => z.work.bootEpoch) x0 s) : Fix (fun z => z.work.bootEpoch) x0 (State.setSlice s n a1) := by
  unfold State.setSlice
  repeat' with_reducible first
    | assumption
    | simp only [↓Fix.upd_work_bootEpoch, ↓Fix.upd2_work_bootEpoch]

theorem State.modSlice_fix_work_bootEpoch {x0 : _} {s : State} (n : Nat) (f : Slice → Slice) (h : Fix (fun z => z.work.bootEpoch) x0 s) : Fix (fun z => z.work.bootEpoch) x0 (State.modSlice s n f) := by
  unfold State.modSlice
  repeat' with_reducible first
    | assumption
    | apply State.setSlice_fix_work_bootEpoch

theorem State.postEvent_fix_work_bootEpoch {x0 : _} {s : State} (code : Nat) (source : Nat) (payload : Bytes) (h : Fix (fun z => z.work.bootEpoch) x0 s) : Fix (fun z => z.work.bootEpoch) x0 (State.postEvent s code source payload) := by
  unfold State.postEvent
  repeat' with_reducible first
    | assumption
    | (intro (x : State); apply Fix.cut  (x := x); rotate_left; intro hx; clear_value x; rotate_left; subst x)
    | apply State.writeEvent_fix_work_bootEpoch
    | apply State.count_fix_work_bootEpoch
    | simp only [↓Fix.upd_work_bootEpoch, ↓Fix.upd2_work_bootEpoch]
    | split

theorem State.setProc_fix_work_bootEpoch {x0 : _} {s : State} (n : Nat) (a1 : Proc) (h : Fix (fun z => z.work.bootEpoch) x0 s) : Fix (fun z => z.work.bootEpoch) x0 (State.setProc s n a1) := by
  unfold State.setProc
  repeat' with_reducible first
    | assumption
    | simp only [↓Fix.upd_work_bootEpoch, ↓Fix.upd2_work_bootEpoch]

theorem State.modProc_fix_work_bootEpoch {x0 : _} {s : State} (n : Nat) (f : Proc → Proc) (h : Fix (fun z => z.work.bootEpoch) x0 s) : Fix (fun z => z.work.bootEpoch) x0 (State.modProc s n f) := by
  unfold State.modProc
  repeat' with_reducible first
    | assumption
    | apply State.setProc_fix_work_bootEpoch

theorem State.modStream_fix_work_bootEpoch {x0 : _} {s : State} (n : Nat) (f : Stream → Stream) (h : Fix (fun z => z.work.bootEpoch) x0 s) : Fix (fun z => z.work.bootEpoch) x0 (State.modStream s n f) := by
  unfold State.modStream
  repeat' with_reducible first
    | assumption
    | apply State.setStream_fix_work_bootEpoch

theorem State.clearObj_fix_work_bootEpoch {x0 : _} {s : State} (r : ObjRow) (k : Nat) (h : Fix (fun z => z.work.bootEpoch) x0 s) : Fix (fun z => z.work.bootEpoch) x0 (State.clearObj s r k) := by
  unfold State.clearObj
  repeat' with_reducible first
    | assumption
    | simp only [↓Fix.upd_work_bootEpoch, ↓Fix.upd2_work_bootEpoch]

theorem State.driveLines_fix_work_bootEpoch {x0 : _} {s : State} (h : Fix (fun z => z.work.bootEpoch) x0 s) : Fix (fun z => z.work.bootEpoch) x0 (State.driveLines s) := by
  unfold State.driveLines
  repeat' with_reducible first
    | assumption
    | simp only [↓Fix.upd_work_bootEpoch, ↓Fix.upd2_work_bootEpoch]

theorem State.resetReason_fix_work_bootEpoch {x0 : _} {s : State} (n : Nat) (h : Fix (fun z => z.work.bootEpoch) x0 s) : Fix (fun z => z.work.bootEpoch) x0 (State.resetReason s n) := by
  unfold State.resetReason
  repeat' with_reducible first
    | assumption
    | apply State.modStream_fix_work_bootEpoch

theorem State.leaveCause_fix_work_bootEpoch {x0 : _} {s : State} (bit : Nat) (h : Fix (fun z => z.work.bootEpoch) x0 s) : Fix (fun z => z.work.bootEpoch) x0 (State.leaveCause s bit) := by
  unfold State.leaveCause
  repeat' with_reducible first
    | assumption
    | (intro (x : State); apply Fix.cut  (x := x); rotate_left; intro hx; clear_value x; rotate_left; subst x)
    | apply State.driveLines_fix_work_bootEpoch
    | apply State.resetReason_fix_work_bootEpoch
    | (apply Fix.foldl; rotate_left; intro t x ht; rotate_left)
    | simp only [↓Fix.upd_work_bootEpoch, ↓Fix.upd2_work_bootEpoch]
    | split

theorem State.enterCause_fix_work_bootEpoch {x0 : _} {s : State} (bit : Nat) (h : Fix (fun z => z.work.bootEpoch) x0 s) : Fix (fun z => z.work.bootEpoch) x0 (State.enterCause s bit) := by
  unfold State.enterCause
  repeat' with_reducible first
    | assumption
    | apply State.driveLines_fix_work_bootEpoch
    | simp only [↓Fix.upd_work_bootEpoch, ↓Fix.upd2_work_bootEpoch]

theorem State.flashPut_fix_work_bootEpoch {x0 : _} {s : State} (a : Nat) (b : Bytes) (h : Fix (fun z => z.work.bootEpoch) x0 s) : Fix (fun z => z.work.bootEpoch) x0 (s.flashPut a b) := h.same rfl

theorem State.seal_fix_work_bootEpoch {x0 : _} {s : State} (k : Nat) (h : Fix (fun z => z.work.bootEpoch) x0 s) : Fix (fun z => z.work.bootEpoch) x0 (State.seal s k) := by
  unfold State.seal
  repeat' with_reducible first
    | assumption
    | apply State.flashPut_fix_work_bootEpoch

theorem State.checkSlot_fix_work_bootEpoch {x0 : _} {s : State} (k : Nat) (h : Fix (fun z => z.work.bootEpoch) x0 s) : Fix (fun z => z.work.bootEpoch) x0 (State.checkSlot s k).2 := by
  unfold State.checkSlot
  repeat' with_reducible first
    | assumption
    | apply State.seal_fix_work_bootEpoch
    | simp only [↓Fix.upd_work_bootEpoch, ↓Fix.upd2_work_bootEpoch]
    | split

theorem State.checkSlot_fix_work_bootEpoch_of {x0 : _} {s t : State} {k : Nat} {v_ : _} (e : State.checkSlot s k = (v_, t)) (h : Fix (fun z => z.work.bootEpoch) x0 s) : Fix (fun z => z.work.bootEpoch) x0 t := by
  have k := State.checkSlot_fix_work_bootEpoch  (k := k) h
  rw [e] at k
  exact k

theorem State.recordSlot_fix_work_bootEpoch {x0 : _} {s : State} (k : Nat) (status : Nat) (h : Fix (fun z => z.work.bootEpoch) x0 s) : Fix (fun z => z.work.bootEpoch) x0 (State.recordSlot s k status) := by
  unfold State.recordSlot
  repeat' with_reducible first
    | assumption
    | (intro (x : State); apply Fix.cut  (x := x); rotate_left; intro hx; clear_value x; rotate_left; subst x)
    | apply State.setNum_fix_work_bootEpoch

theorem State.checkRecord_fix_work_bootEpoch {x0 : _} {s : State} (k : Nat) (h : Fix (fun z => z.work.bootEpoch) x0 s) : Fix (fun z => z.work.bootEpoch) x0 (State.checkRecord s k).2 := by
  unfold State.checkRecord
  repeat' with_reducible first
    | assumption
    | apply State.checkSlot_fix_work_bootEpoch
    | refine State.checkSlot_fix_work_bootEpoch_of (by assumption) ?_
    | apply State.recordSlot_fix_work_bootEpoch

theorem State.checkRecord_fix_work_bootEpoch_of {x0 : _} {s t : State} {k : Nat} {v_ : _} (e : State.checkRecord s k = (v_, t)) (h : Fix (fun z => z.work.bootEpoch) x0 s) : Fix (fun z => z.work.bootEpoch) x0 t := by
  have k := State.checkRecord_fix_work_bootEpoch  (k := k) h
  rw [e] at k
  exact k

theorem State.selectFrom_fix_work_bootEpoch {x0 : _} {s : State} (bad : Nat → Bool) (a1 : Nat) (a2 : List Nat) (h : Fix (fun z => z.work.bootEpoch) x0 s) :
    Fix (fun z => z.work.bootEpoch) x0 (State.selectFrom bad a1 a2 s).2 := by
  induction a1 generalizing a2 s with
  | zero => exact h
  | succ f ih =>
    simp only [State.selectFrom]
    split
    · exact h
    · split
      · exact ih _ (State.recordSlot_fix_work_bootEpoch _ _ h)
      · exact State.setNum_fix_work_bootEpoch _ _ _ h

theorem State.selectFrom_fix_work_bootEpoch_of {x0 : _} {s t : State} {bad : Nat → Bool} {a1 : Nat} {a2 : List Nat} {v_ : _} (e : State.selectFrom bad a1 a2 s = (v_, t)) (h : Fix (fun z => z.work.bootEpoch) x0 s) : Fix (fun z => z.work.bootEpoch) x0 t := by
  have k := State.selectFrom_fix_work_bootEpoch  (bad := bad) (a1 := a1) (a2 := a2) h
  rw [e] at k
  exact k

theorem State.select_fix_work_bootEpoch {x0 : _} {s : State} (cands : List Nat) (bad : Nat → Bool) (h : Fix (fun z => z.work.bootEpoch) x0 s) : Fix (fun z => z.work.bootEpoch) x0 (State.select s cands bad).2 := by
  unfold State.select
  repeat' with_reducible first
    | assumption
    | apply State.checkRecord_fix_work_bootEpoch
    | refine State.checkRecord_fix_work_bootEpoch_of (by assumption) ?_
    | apply State.setNum_fix_work_bootEpoch
    | apply State.selectFrom_fix_work_bootEpoch
    | refine State.selectFrom_fix_work_bootEpoch_of (by assumption) ?_
    | (apply Fix.foldl1; rotate_left; intro t x ht; dsimp only; rotate_left)

theorem State.select_fix_work_bootEpoch_of {x0 : _} {s t : State} {cands : List Nat} {bad : Nat → Bool} {v_ : _} (e : State.select s cands bad = (v_, t)) (h : Fix (fun z => z.work.bootEpoch) x0 s) : Fix (fun z => z.work.bootEpoch) x0 t := by
  have k := State.select_fix_work_bootEpoch  (cands := cands) (bad := bad) h
  rw [e] at k
  exact k

theorem State.flashErase_fix_work_bootEpoch {x0 : _} {s : State} (a n : Nat) (h : Fix (fun z => z.work.bootEpoch) x0 s) : Fix (fun z => z.work.bootEpoch) x0 (s.flashErase a n) := h.same rfl

theorem State.eraseSlot_fix_work_bootEpoch {x0 : _} {s : State} (k : Nat) (h : Fix (fun z => z.work.bootEpoch) x0 s) : Fix (fun z => z.work.bootEpoch) x0 (State.eraseSlot s k) := by
  unfold State.eraseSlot
  repeat' with_reducible first
    | assumption
    | apply State.flashErase_fix_work_bootEpoch

theorem State.loadComponent_fix_work_bootEpoch {x0 : _} {s : State} (p : Nat) (k : Nat) (h : Fix (fun z => z.work.bootEpoch) x0 s) : Fix (fun z => z.work.bootEpoch) x0 (State.loadComponent s p k) := by
  unfold State.loadComponent
  repeat' with_reducible first
    | assumption
    | (intro (x : State); apply Fix.cut  (x := x); rotate_left; intro hx; clear_value x; rotate_left; subst x)
    | (intro (x : Trust); subst x)
    | apply State.setNum_fix_work_bootEpoch
    | apply State.modProc_fix_work_bootEpoch
    | simp only [↓Fix.upd_work_bootEpoch, ↓Fix.upd2_work_bootEpoch]
    | split

theorem State.setUpd_fix_work_bootEpoch {x0 : _} {s : State} (state : Nat) (status : Nat) (slot : Nat) (h : Fix (fun z => z.work.bootEpoch) x0 s) : Fix (fun z => z.work.bootEpoch) x0 (State.setUpd s state status slot) := by
  unfold State.setUpd
  repeat' with_reducible first
    | assumption
    | (intro (x : State); apply Fix.cut  (x := x); rotate_left; intro hx; clear_value x; rotate_left; subst x)
    | apply State.setNum_fix_work_bootEpoch
    | apply State.postEvent_fix_work_bootEpoch

theorem State.failStaging_fix_work_bootEpoch {x0 : _} {s : State} (h : Fix (fun z => z.work.bootEpoch) x0 s) : Fix (fun z => z.work.bootEpoch) x0 (State.failStaging s) := by
  unfold State.failStaging
  repeat' with_reducible first
    | assumption
    | (intro (x : State); apply Fix.cut  (x := x); rotate_left; intro hx; clear_value x; rotate_left; subst x)
    | apply State.setUpd_fix_work_bootEpoch
    | apply State.eraseSlot_fix_work_bootEpoch
    | simp only [↓Fix.upd_work_bootEpoch, ↓Fix.upd2_work_bootEpoch]
    | split

theorem State.deferDone_fix_work_bootEpoch {x0 : _} {s : State} (d : Deferred) (status : Nat) (h : Fix (fun z => z.work.bootEpoch) x0 s) : Fix (fun z => z.work.bootEpoch) x0 (State.deferDone s d status) := by
  unfold State.deferDone
  repeat' with_reducible first
    | assumption
    | apply State.postEvent_fix_work_bootEpoch

theorem State.abortDeferred_fix_work_bootEpoch {x0 : _} {s : State} (h : Fix (fun z => z.work.bootEpoch) x0 s) : Fix (fun z => z.work.bootEpoch) x0 (State.abortDeferred s) := by
  unfold State.abortDeferred
  repeat' with_reducible first
    | assumption
    | apply State.deferDone_fix_work_bootEpoch
    | (apply Fix.foldl; rotate_left; intro t x ht; rotate_left)
    | simp only [↓Fix.upd_work_bootEpoch, ↓Fix.upd2_work_bootEpoch]

theorem State.release_fix_work_bootEpoch {x0 : _} {s : State} (p : Nat) (h : Fix (fun z => z.work.bootEpoch) x0 s) : Fix (fun z => z.work.bootEpoch) x0 (State.release s p) := by
  unfold State.release
  repeat' with_reducible first
    | assumption
    | (intro (x : State); apply Fix.cut  (x := x); rotate_left; intro hx; clear_value x; rotate_left; subst x)
    | apply State.modProc_fix_work_bootEpoch
    | apply State.loadComponent_fix_work_bootEpoch
    | apply State.setNum_fix_work_bootEpoch
    | split

theorem State.bootFrom_fix_work_bootEpoch {x0 : _} {s : State} (k : Nat) (rate : Bool) (h : Fix (fun z => z.work.bootEpoch) x0 s) : Fix (fun z => z.work.bootEpoch) x0 (State.bootFrom s k rate) := by
  unfold State.bootFrom
  repeat' with_reducible first
    | assumption
    | (intro (x : State); apply Fix.cut  (x := x); rotate_left; intro hx; clear_value x; rotate_left; subst x)
    | (intro (x : Trust); subst x)
    | apply State.setNum_fix_work_bootEpoch
    | apply State.modProc_fix_work_bootEpoch
    | apply State.release_fix_work_bootEpoch
    | (apply Fix.foldl; rotate_left; intro t x ht; rotate_left)
    | simp only [↓Fix.upd_work_bootEpoch, ↓Fix.upd2_work_bootEpoch]
    | split

theorem State.clearAll_fix_work_bootEpoch {x0 : _} {s : State} (rows : List ObjRow) (h : Fix (fun z => z.work.bootEpoch) x0 s) : Fix (fun z => z.work.bootEpoch) x0 (State.clearAll s rows) := by
  unfold State.clearAll
  repeat' with_reducible first
    | assumption
    | apply State.clearObj_fix_work_bootEpoch
    | (apply Fix.foldl; rotate_left; intro t x ht; rotate_left)

theorem State.warmWork_fix_work_bootEpoch {x0 : _} {s : State} (h : Fix (fun z => z.work.bootEpoch) x0 s) : Fix (fun z => z.work.bootEpoch) x0 (State.warmWork s) := by
  unfold State.warmWork
  repeat' with_reducible first
    | assumption
    | simp only [↓Fix.upd_work_bootEpoch, ↓Fix.upd2_work_bootEpoch]

theorem State.warmApply_fix_work_bootEpoch {x0 : _} {s : State} (h : Fix (fun z => z.work.bootEpoch) x0 s) : Fix (fun z => z.work.bootEpoch) x0 (State.warmApply s) := by
  unfold State.warmApply
  repeat' with_reducible first
    | assumption
    | (intro (x : State); apply Fix.cut  (x := x); rotate_left; intro hx; clear_value x; rotate_left; subst x)
    | (apply Fix.foldl; rotate_left; intro t x ht; rotate_left)
    | simp only [↓Fix.upd_work_bootEpoch, ↓Fix.upd2_work_bootEpoch]

theorem State.warmMedia_fix_work_bootEpoch {x0 : _} {s : State} (h : Fix (fun z => z.work.bootEpoch) x0 s) : Fix (fun z => z.work.bootEpoch) x0 (State.warmMedia s) := by
  unfold State.warmMedia
  repeat' with_reducible first
    | assumption
    | (intro (x : State); apply Fix.cut  (x := x); rotate_left; intro hx; clear_value x; rotate_left; subst x)
    | apply State.freeRun_fix_work_bootEpoch
    | (apply Fix.foldl; rotate_left; intro t x ht; rotate_left)
    | simp only [↓Fix.upd_work_bootEpoch, ↓Fix.upd2_work_bootEpoch]

theorem State.warmProcs_fix_work_bootEpoch {x0 : _} {s : State} (h : Fix (fun z => z.work.bootEpoch) x0 s) : Fix (fun z => z.work.bootEpoch) x0 (State.warmProcs s) := by
  unfold State.warmProcs
  repeat' with_reducible first
    | assumption
    | apply State.setNum_fix_work_bootEpoch
    | (apply Fix.foldl; rotate_left; intro t x ht; rotate_left)

theorem State.warmParts_fix_work_bootEpoch {x0 : _} {s : State} (h : Fix (fun z => z.work.bootEpoch) x0 s) : Fix (fun z => z.work.bootEpoch) x0 s.warmParts := h.same rfl

theorem State.warmSlices_fix_work_bootEpoch {x0 : _} {s : State} (h : Fix (fun z => z.work.bootEpoch) x0 s) : Fix (fun z => z.work.bootEpoch) x0 (State.warmSlices s) := by
  unfold State.warmSlices
  repeat' with_reducible first
    | assumption
    | apply State.modSlice_fix_work_bootEpoch
    | (apply Fix.foldl; rotate_left; intro t x ht; rotate_left)

theorem State.warmHardware_fix_work_bootEpoch {x0 : _} {s : State} (h : Fix (fun z => z.work.bootEpoch) x0 s) : Fix (fun z => z.work.bootEpoch) x0 (State.warmHardware s) := by
  unfold State.warmHardware
  repeat' with_reducible first
    | assumption
    | (intro (x : State); apply Fix.cut  (x := x); rotate_left; intro hx; clear_value x; rotate_left; subst x)
    | apply State.warmProcs_fix_work_bootEpoch
    | apply State.warmParts_fix_work_bootEpoch
    | apply State.warmSlices_fix_work_bootEpoch
    | apply State.clearAll_fix_work_bootEpoch
    | apply State.leaveCause_fix_work_bootEpoch
    | split

theorem State.warmLink_fix_work_bootEpoch {x0 : _} {s : State} (h : Fix (fun z => z.work.bootEpoch) x0 s) : Fix (fun z => z.work.bootEpoch) x0 (State.warmLink s) := by
  unfold State.warmLink
  repeat' with_reducible first
    | assumption
    | (intro (x : State); apply Fix.cut  (x := x); rotate_left; intro hx; clear_value x; rotate_left; subst x)
    | apply State.count_fix_work_bootEpoch
    | apply State.abortDeferred_fix_work_bootEpoch
    | simp only [↓Fix.upd_work_bootEpoch, ↓Fix.upd2_work_bootEpoch]

theorem State.enterRecovery_fix_work_bootEpoch {x0 : _} {s : State} (h : Fix (fun z => z.work.bootEpoch) x0 s) : Fix (fun z => z.work.bootEpoch) x0 (State.enterRecovery s) := by
  unfold State.enterRecovery
  repeat' with_reducible first
    | assumption
    | (intro (x : State); apply Fix.cut  (x := x); rotate_left; intro hx; clear_value x; rotate_left; subst x)
    | (intro (x : Trust); subst x)
    | apply State.setNum_fix_work_bootEpoch
    | apply State.release_fix_work_bootEpoch
    | simp only [↓Fix.upd_work_bootEpoch, ↓Fix.upd2_work_bootEpoch]

theorem State.selectBoot_fix_work_bootEpoch {x0 : _} {s : State} (cands : List Nat) (bad : Nat → Bool) (rate : Bool) (h : Fix (fun z => z.work.bootEpoch) x0 s) : Fix (fun z => z.work.bootEpoch) x0 (State.selectBoot s cands bad rate) := by
  unfold State.selectBoot
  repeat' with_reducible first
    | assumption
    | apply State.select_fix_work_bootEpoch
    | refine State.select_fix_work_bootEpoch_of (by assumption) ?_
    | apply State.enterRecovery_fix_work_bootEpoch
    | apply State.bootFrom_fix_work_bootEpoch
    | split

theorem State.reload_fix_work_bootEpoch {x0 : _} {s : State} (h : Fix (fun z => z.work.bootEpoch) x0 s) : Fix (fun z => z.work.bootEpoch) x0 (State.reload s) := by
  unfold State.reload
  repeat' with_reducible first
    | assumption
    | (intro (x : State); apply Fix.cut  (x := x); rotate_left; intro hx; clear_value x; rotate_left; subst x)
    | apply State.selectBoot_fix_work_bootEpoch
    | apply State.bootFrom_fix_work_bootEpoch
    | apply State.release_fix_work_bootEpoch
    | simp only [↓Fix.upd_work_bootEpoch, ↓Fix.upd2_work_bootEpoch]
    | split

theorem State.warmReset_fix_work_bootEpoch {x0 : _} {s : State} (cause : Nat) (bundle : Option Nat) (h : Fix (fun z => z.work.bootEpoch) x0 s) : Fix (fun z => z.work.bootEpoch) x0 (State.warmReset s cause bundle) := by
  unfold State.warmReset
  repeat' with_reducible first
    | assumption
    | (intro (x : State); apply Fix.cut  (x := x); rotate_left; intro hx; clear_value x; rotate_left; subst x)
    | apply State.enterCause_fix_work_bootEpoch
    | apply State.failStaging_fix_work_bootEpoch
    | apply State.count_fix_work_bootEpoch
    | apply State.setNum_fix_work_bootEpoch
    | apply State.warmWork_fix_work_bootEpoch
    | apply State.warmApply_fix_work_bootEpoch
    | apply State.warmMedia_fix_work_bootEpoch
    | apply State.warmHardware_fix_work_bootEpoch
    | apply State.warmLink_fix_work_bootEpoch
    | apply State.reload_fix_work_bootEpoch
    | simp only [↓Fix.upd_work_bootEpoch, ↓Fix.upd2_work_bootEpoch]
    | split

/-! ## link.lease -/

theorem Fix.upd_link_lease {s : State} {x0 : _} {f_pending : List Instr} {f_clk : Clock} {f_pins : Pins} {f_rst : ResetState} {f_objs : List (Nat × Val)} {f_isl : Islands} {f_slices : List (Nat × Slice)} {f_harts : List (Nat × Hart)} {f_clusters : List (Nat × Cluster)} {f_tasks : List (Nat × Task)} {f_mem : Memory} {f_peers : List (Nat × Peer)} {f_work : Work} {f_media : Media} {f_safety : Safety} {f_power : Power} {f_fw : Firmware} {f_trust : Trust} {f_pers : Pers} {f_freeCtr : Nat} :
    Fix (fun z => z.link.lease) x0 ⟨f_pending, f_clk, f_pins, f_rst, f_objs, f_isl, f_slices, f_harts, f_clusters, f_tasks, f_mem, f_peers, f_work, f_media, s.link, f_safety, f_power, f_fw, f_trust, f_pers, f_freeCtr⟩ = Fix (fun z => z.link.lease) x0 s := rfl
theorem Fix.upd2_link_lease {s : State} {x0 : _} {f_pending : List Instr} {f_clk : Clock} {f_pins : Pins} {f_rst : ResetState} {f_objs : List (Nat × Val)} {f_isl : Islands} {f_slices : List (Nat × Slice)} {f_harts : List (Nat × Hart)} {f_clusters : List (Nat × Cluster)} {f_tasks : List (Nat × Task)} {f_mem : Memory} {f_peers : List (Nat × Peer)} {f_work : Work} {f_media : Media} {f_safety : Safety} {f_power : Power} {f_fw : Firmware} {f_trust : Trust} {f_pers : Pers} {f_freeCtr : Nat} {g_up : _} {g_session : _} {g_hostId : _} {g_bound : _} {g_periodMs : _} {g_renewed : _} {g_heldFor : _} {g_expected : _} {g_held : _} {g_stored : _} {g_tx : _} {g_replies : _} {g_staged : _} {g_snapshot : _} {g_orphan : _} {g_policyAtLapse : _} {g_rxSas : _} {g_txSas : _} {g_rxEver : _} {g_rxPn : _} {g_evWait : _} {g_evDropped : _} {g_evBase : _} {g_evDepth : _} {g_syncAt : _} {g_changed : _} {g_changes : _} {g_timer : _} {g_lastEvent : _} {g_frames : _} {g_plain : _} {g_part : _} :
    Fix (fun z => z.link.lease) x0 ⟨f_pending, f_clk, f_pins, f_rst, f_objs, f_isl, f_slices, f_harts, f_clusters, f_tasks, f_mem, f_peers, f_work, f_media, ⟨g_up, s.link.lease, g_session, g_hostId, g_bound, g_periodMs, g_renewed, g_heldFor, g_expected, g_held, g_stored, g_tx, g_replies, g_staged, g_snapshot, g_orphan, g_policyAtLapse, g_rxSas, g_txSas, g_rxEver, g_rxPn, g_evWait, g_evDropped, g_evBase, g_evDepth, g_syncAt, g_changed, g_changes, g_timer, g_lastEvent, g_frames, g_plain, g_part⟩, f_safety, f_power, f_fw, f_trust, f_pers, f_freeCtr⟩ = Fix (fun z => z.link.lease) x0 s := rfl

theorem State.setChan_fix_link_lease {x0 : _} {s : State} (n : Nat) (a1 : Channel) (h : Fix (fun z => z.link.lease) x0 s) : Fix (fun z => z.link.lease) x0 (State.setChan s n a1) := by
  unfold State.setChan
  repeat' with_reducible first
    | assumption
    | (intro (x : Memory); subst x)
    | simp only [↓Fix.upd_link_lease, ↓Fix.upd2_link_lease]

theorem State.modChan_fix_link_lease {x0 : _} {s : State} (n : Nat) (f : Channel → Channel) (h : Fix (fun z => z.link.lease) x0 s) : Fix (fun z => z.link.lease) x0 (State.modChan s n f) := by
  unfold State.modChan
  repeat' with_reducible first
    | assumption
    | apply State.setChan_fix_link_lease

theorem State.retireSlot_fix_link_lease {x0 : _} {s : State} (c : Nat) (k : Nat) (h : Fix (fun z => z.link.lease) x0 s) : Fix (fun z => z.link.lease) x0 (State.retireSlot s c k) := by
  unfold State.retireSlot
  repeat' with_reducible first
    | assumption
    | apply State.modChan_fix_link_lease

theorem State.setEntry_fix_link_lease {x0 : _} {s : State} (n : Nat) (e : Entry) (h : Fix (fun z => z.link.lease) x0 s) : Fix (fun z => z.link.lease) x0 (State.setEntry s n e) := by
  unfold State.setEntry
  repeat' with_reducible first
    | assumption
    | (intro (x : Memory); subst x)
    | simp only [↓Fix.upd_link_lease, ↓Fix.upd2_link_lease]

theorem State.setVal_fix_link_lease {x0 : _} {s : State} (r : ObjRow) (k : Nat) (v : Val) (h : Fix (fun z => z.link.lease) x0 s) : Fix (fun z => z.link.lease) x0 (State.setVal s r k v) := by
  unfold State.setVal
  repeat' with_reducible first
    | assumption
    | simp only [↓Fix.upd_link_lease, ↓Fix.upd2_link_lease]

theorem State.setNum_fix_link_lease {x0 : _} {s : State} (r : ObjRow) (k : Nat) (n : Nat) (h : Fix (fun z => z.link.lease) x0 s) : Fix (fun z => z.link.lease) x0 (State.setNum s r k n) := by
  unfold State.setNum
  repeat' with_reducible first
    | assumption
    | apply State.setVal_fix_link_lease

theorem State.count_fix_link_lease {x0 : _} {s : State} (r : ObjRow) (k : optParam Nat 0) (n : optParam Nat 1) (h : Fix (fun z => z.link.lease) x0 s) : Fix (fun z => z.link.lease) x0 (State.count s r k n) := by
  unfold State.count
  repeat' with_reducible first
    | assumption
    | apply State.setNum_fix_link_lease

theorem State.abandonMig_fix_link_lease {x0 : _} {s : State} (n : Nat) (h : Fix (fun z => z.link.lease) x0 s) : Fix (fun z => z.link.lease) x0 (State.abandonMig s n) := by
  unfold State.abandonMig
  repeat' with_reducible first
    | assumption
    | apply State.retireSlot_fix_link_lease
    | apply State.setEntry_fix_link_lease
    | apply State.count_fix_link_lease
    | simp only [↓Fix.upd_link_lease, ↓Fix.upd2_link_lease]
    | split

theorem State.freePage_fix_link_lease {x0 : _} {s : State} (n : Nat) (h : Fix (fun z => z.link.lease) x0 s) : Fix (fun z => z.link.lease) x0 (State.freePage s n) := by
  unfold State.freePage
  repeat' with_reducible first
    | assumption
    | (intro (x : State); apply Fix.cut  (x := x); rotate_left; intro hx; clear_value x; rotate_left; subst x)
    | (intro (x : Memory); subst x)
    | apply State.abandonMig_fix_link_lease
    | apply State.retireSlot_fix_link_lease
    | apply State.setEntry_fix_link_lease
    | simp only [↓Fix.upd_link_lease, ↓Fix.upd2_link_lease]
    | split

theorem State.freePages_fix_link_lease {x0 : _} {s : State} (n k : Nat) (h : Fix (fun z => z.link.lease) x0 s) : Fix (fun z => z.link.lease) x0 (s.freePages n k) := by
  induction k generalizing s n with
  | zero => exact h
  | succ k ih => exact ih _ (State.freePage_fix_link_lease _ h)

theorem State.freeRun_fix_link_lease {x0 : _} {s : State} (a0 : Option (Nat × Nat)) (h : Fix (fun z => z.link.lease) x0 s) : Fix (fun z => z.link.lease) x0 (State.freeRun s a0) := by
  unfold State.freeRun
  repeat' with_reducible first
    | assumption
    | apply State.freePages_fix_link_lease
    | split

theorem State.writeByte_fix_link_lease {x0 : _} {s : State} (a : Nat) (b : Byte) (h : Fix (fun z => z.link.lease) x0 s) : Fix (fun z => z.link.lease) x0 (s.writeByte a b) := h.same rfl

theorem State.writeBytes_fix_link_lease {x0 : _} {s : State} (a : Nat) (b : Bytes) (h : Fix (fun z => z.link.lease) x0 s) : Fix (fun z => z.link.lease) x0 (s.writeBytes a b) := by
  induction b generalizing s a with
  | nil => exact h
  | cons x r ih => exact ih _ (State.writeByte_fix_link_lease _ _ h)

theorem State.noteChange_fix_link_lease {x0 : _} {s : State} (q : Option Nat) (h : Fix (fun z => z.link.lease) x0 s) : Fix (fun z => z.link.lease) x0 (State.noteChange s q) := by
  unfold State.noteChange
  repeat' with_reducible first
    | assumption
    | simp only [↓Fix.upd_link_lease, ↓Fix.upd2_link_lease]

theorem State.writeEvent_fix_link_lease {x0 : _} {s : State} (time : Nat) (code : Nat) (source : Nat) (payload : Bytes) (h : Fix (fun z => z.link.lease) x0 s) : Fix (fun z => z.link.lease) x0 (State.writeEvent s time code source payload) := by
  unfold State.writeEvent
  repeat' with_reducible first
    | assumption
    | apply State.writeBytes_fix_link_lease
    | apply State.noteChange_fix_link_lease
    | apply State.setNum_fix_link_lease
    | split

theorem State.setStream_fix_link_lease {x0 : _} {s : State} (n : Nat) (a1 : Stream) (h : Fix (fun z => z.link.lease) x0 s) : Fix (fun z => z.link.lease) x0 (State.setStream s n a1) := by
  unfold State.setStream
  repeat' with_reducible first
    | assumption
    | simp only [↓Fix.upd_link_lease, ↓Fix.upd2_link_lease]

theorem State.setSlice_fix_link_lease {x0 : _} {s : State} (n : Nat) (a1 : Slice) (h : Fix (fun z => z.link.lease) x0 s) : Fix (fun z => z.link.lease) x0 (State.setSlice s n a1) := by
  unfold State.setSlice
  repeat' with_reducible first
    | assumption
    | simp only [↓Fix.upd_link_lease, ↓Fix.upd2_link_lease]

theorem State.modSlice_fix_link_lease {x0 : _} {s : State} (n : Nat) (f : Slice → Slice) (h : Fix (fun z => z.link.lease) x0 s) : Fix (fun z => z.link.lease) x0 (State.modSlice s n f) := by
  unfold State.modSlice
  repeat' with_reducible first
    | assumption
    | apply State.setSlice_fix_link_lease

theorem State.postEvent_fix_link_lease {x0 : _} {s : State} (code : Nat) (source : Nat) (payload : Bytes) (h : Fix (fun z => z.link.lease) x0 s) : Fix (fun z => z.link.lease) x0 (State.postEvent s code source payload) := by
  unfold State.postEvent
  repeat' with_reducible first
    | assumption
    | (intro (x : State); apply Fix.cut  (x := x); rotate_left; intro hx; clear_value x; rotate_left; subst x)
    | apply State.writeEvent_fix_link_lease
    | apply State.count_fix_link_lease
    | simp only [↓Fix.upd_link_lease, ↓Fix.upd2_link_lease]
    | split

theorem State.setProc_fix_link_lease {x0 : _} {s : State} (n : Nat) (a1 : Proc) (h : Fix (fun z => z.link.lease) x0 s) : Fix (fun z => z.link.lease) x0 (State.setProc s n a1) := by
  unfold State.setProc
  repeat' with_reducible first
    | assumption
    | simp only [↓Fix.upd_link_lease, ↓Fix.upd2_link_lease]

theorem State.modProc_fix_link_lease {x0 : _} {s : State} (n : Nat) (f : Proc → Proc) (h : Fix (fun z => z.link.lease) x0 s) : Fix (fun z => z.link.lease) x0 (State.modProc s n f) := by
  unfold State.modProc
  repeat' with_reducible first
    | assumption
    | apply State.setProc_fix_link_lease

theorem State.modStream_fix_link_lease {x0 : _} {s : State} (n : Nat) (f : Stream → Stream) (h : Fix (fun z => z.link.lease) x0 s) : Fix (fun z => z.link.lease) x0 (State.modStream s n f) := by
  unfold State.modStream
  repeat' with_reducible first
    | assumption
    | apply State.setStream_fix_link_lease

theorem State.clearObj_fix_link_lease {x0 : _} {s : State} (r : ObjRow) (k : Nat) (h : Fix (fun z => z.link.lease) x0 s) : Fix (fun z => z.link.lease) x0 (State.clearObj s r k) := by
  unfold State.clearObj
  repeat' with_reducible first
    | assumption
    | simp only [↓Fix.upd_link_lease, ↓Fix.upd2_link_lease]

theorem State.driveLines_fix_link_lease {x0 : _} {s : State} (h : Fix (fun z => z.link.lease) x0 s) : Fix (fun z => z.link.lease) x0 (State.driveLines s) := by
  unfold State.driveLines
  repeat' with_reducible first
    | assumption
    | simp only [↓Fix.upd_link_lease, ↓Fix.upd2_link_lease]

theorem State.resetReason_fix_link_lease {x0 : _} {s : State} (n : Nat) (h : Fix (fun z => z.link.lease) x0 s) : Fix (fun z => z.link.lease) x0 (State.resetReason s n) := by
  unfold State.resetReason
  repeat' with_reducible first
    | assumption
    | apply State.modStream_fix_link_lease

theorem State.leaveCause_fix_link_lease {x0 : _} {s : State} (bit : Nat) (h : Fix (fun z => z.link.lease) x0 s) : Fix (fun z => z.link.lease) x0 (State.leaveCause s bit) := by
  unfold State.leaveCause
  repeat' with_reducible first
    | assumption
    | (intro (x : State); apply Fix.cut  (x := x); rotate_left; intro hx; clear_value x; rotate_left; subst x)
    | apply State.driveLines_fix_link_lease
    | apply State.resetReason_fix_link_lease
    | (apply Fix.foldl; rotate_left; intro t x ht; rotate_left)
    | simp only [↓Fix.upd_link_lease, ↓Fix.upd2_link_lease]
    | split

theorem State.flashPut_fix_link_lease {x0 : _} {s : State} (a : Nat) (b : Bytes) (h : Fix (fun z => z.link.lease) x0 s) : Fix (fun z => z.link.lease) x0 (s.flashPut a b) := h.same rfl

theorem State.seal_fix_link_lease {x0 : _} {s : State} (k : Nat) (h : Fix (fun z => z.link.lease) x0 s) : Fix (fun z => z.link.lease) x0 (State.seal s k) := by
  unfold State.seal
  repeat' with_reducible first
    | assumption
    | apply State.flashPut_fix_link_lease

theorem State.checkSlot_fix_link_lease {x0 : _} {s : State} (k : Nat) (h : Fix (fun z => z.link.lease) x0 s) : Fix (fun z => z.link.lease) x0 (State.checkSlot s k).2 := by
  unfold State.checkSlot
  repeat' with_reducible first
    | assumption
    | apply State.seal_fix_link_lease
    | simp only [↓Fix.upd_link_lease, ↓Fix.upd2_link_lease]
    | split

theorem State.checkSlot_fix_link_lease_of {x0 : _} {s t : State} {k : Nat} {v_ : _} (e : State.checkSlot s k = (v_, t)) (h : Fix (fun z => z.link.lease) x0 s) : Fix (fun z => z.link.lease) x0 t := by
  have k := State.checkSlot_fix_link_lease  (k := k) h
  rw [e] at k
  exact k

theorem State.recordSlot_fix_link_lease {x0 : _} {s : State} (k : Nat) (status : Nat) (h : Fix (fun z => z.link.lease) x0 s) : Fix (fun z => z.link.lease) x0 (State.recordSlot s k status) := by
  unfold State.recordSlot
  repeat' with_reducible first
    | assumption
    | (intro (x : State); apply Fix.cut  (x := x); rotate_left; intro hx; clear_value x; rotate_left; subst x)
    | apply State.setNum_fix_link_lease

theorem State.checkRecord_fix_link_lease {x0 : _} {s : State} (k : Nat) (h : Fix (fun z => z.link.lease) x0 s) : Fix (fun z => z.link.lease) x0 (State.checkRecord s k).2 := by
  unfold State.checkRecord
  repeat' with_reducible first
    | assumption
    | apply State.checkSlot_fix_link_lease
    | refine State.checkSlot_fix_link_lease_of (by assumption) ?_
    | apply State.recordSlot_fix_link_lease

theorem State.checkRecord_fix_link_lease_of {x0 : _} {s t : State} {k : Nat} {v_ : _} (e : State.checkRecord s k = (v_, t)) (h : Fix (fun z => z.link.lease) x0 s) : Fix (fun z => z.link.lease) x0 t := by
  have k := State.checkRecord_fix_link_lease  (k := k) h
  rw [e] at k
  exact k

theorem State.selectFrom_fix_link_lease {x0 : _} {s : State} (bad : Nat → Bool) (a1 : Nat) (a2 : List Nat) (h : Fix (fun z => z.link.lease) x0 s) :
    Fix (fun z => z.link.lease) x0 (State.selectFrom bad a1 a2 s).2 := by
  induction a1 generalizing a2 s with
  | zero => exact h
  | succ f ih =>
    simp only [State.selectFrom]
    split
    · exact h
    · split
      · exact ih _ (State.recordSlot_fix_link_lease _ _ h)
      · exact State.setNum_fix_link_lease _ _ _ h

theorem State.selectFrom_fix_link_lease_of {x0 : _} {s t : State} {bad : Nat → Bool} {a1 : Nat} {a2 : List Nat} {v_ : _} (e : State.selectFrom bad a1 a2 s = (v_, t)) (h : Fix (fun z => z.link.lease) x0 s) : Fix (fun z => z.link.lease) x0 t := by
  have k := State.selectFrom_fix_link_lease  (bad := bad) (a1 := a1) (a2 := a2) h
  rw [e] at k
  exact k

theorem State.select_fix_link_lease {x0 : _} {s : State} (cands : List Nat) (bad : Nat → Bool) (h : Fix (fun z => z.link.lease) x0 s) : Fix (fun z => z.link.lease) x0 (State.select s cands bad).2 := by
  unfold State.select
  repeat' with_reducible first
    | assumption
    | apply State.checkRecord_fix_link_lease
    | refine State.checkRecord_fix_link_lease_of (by assumption) ?_
    | apply State.setNum_fix_link_lease
    | apply State.selectFrom_fix_link_lease
    | refine State.selectFrom_fix_link_lease_of (by assumption) ?_
    | (apply Fix.foldl1; rotate_left; intro t x ht; dsimp only; rotate_left)

theorem State.select_fix_link_lease_of {x0 : _} {s t : State} {cands : List Nat} {bad : Nat → Bool} {v_ : _} (e : State.select s cands bad = (v_, t)) (h : Fix (fun z => z.link.lease) x0 s) : Fix (fun z => z.link.lease) x0 t := by
  have k := State.select_fix_link_lease  (cands := cands) (bad := bad) h
  rw [e] at k
  exact k

theorem State.loadComponent_fix_link_lease {x0 : _} {s : State} (p : Nat) (k : Nat) (h : Fix (fun z => z.link.lease) x0 s) : Fix (fun z => z.link.lease) x0 (State.loadComponent s p k) := by
  unfold State.loadComponent
  repeat' with_reducible first
    | assumption
    | (intro (x : State); apply Fix.cut  (x := x); rotate_left; intro hx; clear_value x; rotate_left; subst x)
    | (intro (x : Trust); subst x)
    | apply State.setNum_fix_link_lease
    | apply State.modProc_fix_link_lease
    | simp only [↓Fix.upd_link_lease, ↓Fix.upd2_link_lease]
    | split

theorem State.deferDone_fix_link_lease {x0 : _} {s : State} (d : Deferred) (status : Nat) (h : Fix (fun z => z.link.lease) x0 s) : Fix (fun z => z.link.lease) x0 (State.deferDone s d status) := by
  unfold State.deferDone
  repeat' with_reducible first
    | assumption
    | apply State.postEvent_fix_link_lease

theorem State.abortDeferred_fix_link_lease {x0 : _} {s : State} (h : Fix (fun z => z.link.lease) x0 s) : Fix (fun z => z.link.lease) x0 (State.abortDeferred s) := by
  unfold State.abortDeferred
  repeat' with_reducible first
    | assumption
    | apply State.deferDone_fix_link_lease
    | (apply Fix.foldl; rotate_left; intro t x ht; rotate_left)
    | simp only [↓Fix.upd_link_lease, ↓Fix.upd2_link_lease]

theorem State.release_fix_link_lease {x0 : _} {s : State} (p : Nat) (h : Fix (fun z => z.link.lease) x0 s) : Fix (fun z => z.link.lease) x0 (State.release s p) := by
  unfold State.release
  repeat' with_reducible first
    | assumption
    | (intro (x : State); apply Fix.cut  (x := x); rotate_left; intro hx; clear_value x; rotate_left; subst x)
    | apply State.modProc_fix_link_lease
    | apply State.loadComponent_fix_link_lease
    | apply State.setNum_fix_link_lease
    | split

theorem State.bootFrom_fix_link_lease {x0 : _} {s : State} (k : Nat) (rate : Bool) (h : Fix (fun z => z.link.lease) x0 s) : Fix (fun z => z.link.lease) x0 (State.bootFrom s k rate) := by
  unfold State.bootFrom
  repeat' with_reducible first
    | assumption
    | (intro (x : State); apply Fix.cut  (x := x); rotate_left; intro hx; clear_value x; rotate_left; subst x)
    | (intro (x : Trust); subst x)
    | apply State.setNum_fix_link_lease
    | apply State.modProc_fix_link_lease
    | apply State.release_fix_link_lease
    | (apply Fix.foldl; rotate_left; intro t x ht; rotate_left)
    | simp only [↓Fix.upd_link_lease, ↓Fix.upd2_link_lease]
    | split

theorem State.clearAll_fix_link_lease {x0 : _} {s : State} (rows : List ObjRow) (h : Fix (fun z => z.link.lease) x0 s) : Fix (fun z => z.link.lease) x0 (State.clearAll s rows) := by
  unfold State.clearAll
  repeat' with_reducible first
    | assumption
    | apply State.clearObj_fix_link_lease
    | (apply Fix.foldl; rotate_left; intro t x ht; rotate_left)

theorem State.warmWork_fix_link_lease {x0 : _} {s : State} (h : Fix (fun z => z.link.lease) x0 s) : Fix (fun z => z.link.lease) x0 (State.warmWork s) := by
  unfold State.warmWork
  repeat' with_reducible first
    | assumption
    | simp only [↓Fix.upd_link_lease, ↓Fix.upd2_link_lease]

theorem State.warmApply_fix_link_lease {x0 : _} {s : State} (h : Fix (fun z => z.link.lease) x0 s) : Fix (fun z => z.link.lease) x0 (State.warmApply s) := by
  unfold State.warmApply
  repeat' with_reducible first
    | assumption
    | (intro (x : State); apply Fix.cut  (x := x); rotate_left; intro hx; clear_value x; rotate_left; subst x)
    | (apply Fix.foldl; rotate_left; intro t x ht; rotate_left)
    | simp only [↓Fix.upd_link_lease, ↓Fix.upd2_link_lease]

theorem State.warmMedia_fix_link_lease {x0 : _} {s : State} (h : Fix (fun z => z.link.lease) x0 s) : Fix (fun z => z.link.lease) x0 (State.warmMedia s) := by
  unfold State.warmMedia
  repeat' with_reducible first
    | assumption
    | (intro (x : State); apply Fix.cut  (x := x); rotate_left; intro hx; clear_value x; rotate_left; subst x)
    | apply State.freeRun_fix_link_lease
    | (apply Fix.foldl; rotate_left; intro t x ht; rotate_left)
    | simp only [↓Fix.upd_link_lease, ↓Fix.upd2_link_lease]

theorem State.warmProcs_fix_link_lease {x0 : _} {s : State} (h : Fix (fun z => z.link.lease) x0 s) : Fix (fun z => z.link.lease) x0 (State.warmProcs s) := by
  unfold State.warmProcs
  repeat' with_reducible first
    | assumption
    | apply State.setNum_fix_link_lease
    | (apply Fix.foldl; rotate_left; intro t x ht; rotate_left)

theorem State.warmParts_fix_link_lease {x0 : _} {s : State} (h : Fix (fun z => z.link.lease) x0 s) : Fix (fun z => z.link.lease) x0 s.warmParts := h.same rfl

theorem State.warmSlices_fix_link_lease {x0 : _} {s : State} (h : Fix (fun z => z.link.lease) x0 s) : Fix (fun z => z.link.lease) x0 (State.warmSlices s) := by
  unfold State.warmSlices
  repeat' with_reducible first
    | assumption
    | apply State.modSlice_fix_link_lease
    | (apply Fix.foldl; rotate_left; intro t x ht; rotate_left)

theorem State.warmHardware_fix_link_lease {x0 : _} {s : State} (h : Fix (fun z => z.link.lease) x0 s) : Fix (fun z => z.link.lease) x0 (State.warmHardware s) := by
  unfold State.warmHardware
  repeat' with_reducible first
    | assumption
    | (intro (x : State); apply Fix.cut  (x := x); rotate_left; intro hx; clear_value x; rotate_left; subst x)
    | apply State.warmProcs_fix_link_lease
    | apply State.warmParts_fix_link_lease
    | apply State.warmSlices_fix_link_lease
    | apply State.clearAll_fix_link_lease
    | apply State.leaveCause_fix_link_lease
    | split

theorem State.enterRecovery_fix_link_lease {x0 : _} {s : State} (h : Fix (fun z => z.link.lease) x0 s) : Fix (fun z => z.link.lease) x0 (State.enterRecovery s) := by
  unfold State.enterRecovery
  repeat' with_reducible first
    | assumption
    | (intro (x : State); apply Fix.cut  (x := x); rotate_left; intro hx; clear_value x; rotate_left; subst x)
    | (intro (x : Trust); subst x)
    | apply State.setNum_fix_link_lease
    | apply State.release_fix_link_lease
    | simp only [↓Fix.upd_link_lease, ↓Fix.upd2_link_lease]

theorem State.selectBoot_fix_link_lease {x0 : _} {s : State} (cands : List Nat) (bad : Nat → Bool) (rate : Bool) (h : Fix (fun z => z.link.lease) x0 s) : Fix (fun z => z.link.lease) x0 (State.selectBoot s cands bad rate) := by
  unfold State.selectBoot
  repeat' with_reducible first
    | assumption
    | apply State.select_fix_link_lease
    | refine State.select_fix_link_lease_of (by assumption) ?_
    | apply State.enterRecovery_fix_link_lease
    | apply State.bootFrom_fix_link_lease
    | split

theorem State.reload_fix_link_lease {x0 : _} {s : State} (h : Fix (fun z => z.link.lease) x0 s) : Fix (fun z => z.link.lease) x0 (State.reload s) := by
  unfold State.reload
  repeat' with_reducible first
    | assumption
    | (intro (x : State); apply Fix.cut  (x := x); rotate_left; intro hx; clear_value x; rotate_left; subst x)
    | apply State.selectBoot_fix_link_lease
    | apply State.bootFrom_fix_link_lease
    | apply State.release_fix_link_lease
    | simp only [↓Fix.upd_link_lease, ↓Fix.upd2_link_lease]
    | split

/-! ## safety -/

theorem Fix.upd_safety {s : State} {x0 : _} {f_pending : List Instr} {f_clk : Clock} {f_pins : Pins} {f_rst : ResetState} {f_objs : List (Nat × Val)} {f_isl : Islands} {f_slices : List (Nat × Slice)} {f_harts : List (Nat × Hart)} {f_clusters : List (Nat × Cluster)} {f_tasks : List (Nat × Task)} {f_mem : Memory} {f_peers : List (Nat × Peer)} {f_work : Work} {f_media : Media} {f_link : Link} {f_power : Power} {f_fw : Firmware} {f_trust : Trust} {f_pers : Pers} {f_freeCtr : Nat} :
    Fix (fun z => z.safety) x0 ⟨f_pending, f_clk, f_pins, f_rst, f_objs, f_isl, f_slices, f_harts, f_clusters, f_tasks, f_mem, f_peers, f_work, f_media, f_link, s.safety, f_power, f_fw, f_trust, f_pers, f_freeCtr⟩ = Fix (fun z => z.safety) x0 s := rfl

theorem State.setChan_fix_safety {x0 : _} {s : State} (n : Nat) (a1 : Channel) (h : Fix (fun z => z.safety) x0 s) : Fix (fun z => z.safety) x0 (State.setChan s n a1) := by
  unfold State.setChan
  repeat' with_reducible first
    | assumption
    | (intro (x : Memory); subst x)
    | simp only [↓Fix.upd_safety]

theorem State.modChan_fix_safety {x0 : _} {s : State} (n : Nat) (f : Channel → Channel) (h : Fix (fun z => z.safety) x0 s) : Fix (fun z => z.safety) x0 (State.modChan s n f) := by
  unfold State.modChan
  repeat' with_reducible first
    | assumption
    | apply State.setChan_fix_safety

theorem State.retireSlot_fix_safety {x0 : _} {s : State} (c : Nat) (k : Nat) (h : Fix (fun z => z.safety) x0 s) : Fix (fun z => z.safety) x0 (State.retireSlot s c k) := by
  unfold State.retireSlot
  repeat' with_reducible first
    | assumption
    | apply State.modChan_fix_safety

theorem State.setEntry_fix_safety {x0 : _} {s : State} (n : Nat) (e : Entry) (h : Fix (fun z => z.safety) x0 s) : Fix (fun z => z.safety) x0 (State.setEntry s n e) := by
  unfold State.setEntry
  repeat' with_reducible first
    | assumption
    | (intro (x : Memory); subst x)
    | simp only [↓Fix.upd_safety]

theorem State.setVal_fix_safety {x0 : _} {s : State} (r : ObjRow) (k : Nat) (v : Val) (h : Fix (fun z => z.safety) x0 s) : Fix (fun z => z.safety) x0 (State.setVal s r k v) := by
  unfold State.setVal
  repeat' with_reducible first
    | assumption
    | simp only [↓Fix.upd_safety]

theorem State.setNum_fix_safety {x0 : _} {s : State} (r : ObjRow) (k : Nat) (n : Nat) (h : Fix (fun z => z.safety) x0 s) : Fix (fun z => z.safety) x0 (State.setNum s r k n) := by
  unfold State.setNum
  repeat' with_reducible first
    | assumption
    | apply State.setVal_fix_safety

theorem State.count_fix_safety {x0 : _} {s : State} (r : ObjRow) (k : optParam Nat 0) (n : optParam Nat 1) (h : Fix (fun z => z.safety) x0 s) : Fix (fun z => z.safety) x0 (State.count s r k n) := by
  unfold State.count
  repeat' with_reducible first
    | assumption
    | apply State.setNum_fix_safety

theorem State.abandonMig_fix_safety {x0 : _} {s : State} (n : Nat) (h : Fix (fun z => z.safety) x0 s) : Fix (fun z => z.safety) x0 (State.abandonMig s n) := by
  unfold State.abandonMig
  repeat' with_reducible first
    | assumption
    | apply State.retireSlot_fix_safety
    | apply State.setEntry_fix_safety
    | apply State.count_fix_safety
    | simp only [↓Fix.upd_safety]
    | split

theorem State.freePage_fix_safety {x0 : _} {s : State} (n : Nat) (h : Fix (fun z => z.safety) x0 s) : Fix (fun z => z.safety) x0 (State.freePage s n) := by
  unfold State.freePage
  repeat' with_reducible first
    | assumption
    | (intro (x : State); apply Fix.cut  (x := x); rotate_left; intro hx; clear_value x; rotate_left; subst x)
    | (intro (x : Memory); subst x)
    | apply State.abandonMig_fix_safety
    | apply State.retireSlot_fix_safety
    | apply State.setEntry_fix_safety
    | simp only [↓Fix.upd_safety]
    | split

theorem State.freePages_fix_safety {x0 : _} {s : State} (n k : Nat) (h : Fix (fun z => z.safety) x0 s) : Fix (fun z => z.safety) x0 (s.freePages n k) := by
  induction k generalizing s n with
  | zero => exact h
  | succ k ih => exact ih _ (State.freePage_fix_safety _ h)

theorem State.freeRun_fix_safety {x0 : _} {s : State} (a0 : Option (Nat × Nat)) (h : Fix (fun z => z.safety) x0 s) : Fix (fun z => z.safety) x0 (State.freeRun s a0) := by
  unfold State.freeRun
  repeat' with_reducible first
    | assumption
    | apply State.freePages_fix_safety
    | split

theorem State.writeByte_fix_safety {x0 : _} {s : State} (a : Nat) (b : Byte) (h : Fix (fun z => z.safety) x0 s) : Fix (fun z => z.safety) x0 (s.writeByte a b) := h.same rfl

theorem State.writeBytes_fix_safety {x0 : _} {s : State} (a : Nat) (b : Bytes) (h : Fix (fun z => z.safety) x0 s) : Fix (fun z => z.safety) x0 (s.writeBytes a b) := by
  induction b generalizing s a with
  | nil => exact h
  | cons x r ih => exact ih _ (State.writeByte_fix_safety _ _ h)

theorem State.noteChange_fix_safety {x0 : _} {s : State} (q : Option Nat) (h : Fix (fun z => z.safety) x0 s) : Fix (fun z => z.safety) x0 (State.noteChange s q) := by
  unfold State.noteChange
  repeat' with_reducible first
    | assumption
    | simp only [↓Fix.upd_safety]

theorem State.writeEvent_fix_safety {x0 : _} {s : State} (time : Nat) (code : Nat) (source : Nat) (payload : Bytes) (h : Fix (fun z => z.safety) x0 s) : Fix (fun z => z.safety) x0 (State.writeEvent s time code source payload) := by
  unfold State.writeEvent
  repeat' with_reducible first
    | assumption
    | apply State.writeBytes_fix_safety
    | apply State.noteChange_fix_safety
    | apply State.setNum_fix_safety
    | split

theorem State.postEvent_fix_safety {x0 : _} {s : State} (code : Nat) (source : Nat) (payload : Bytes) (h : Fix (fun z => z.safety) x0 s) : Fix (fun z => z.safety) x0 (State.postEvent s code source payload) := by
  unfold State.postEvent
  repeat' with_reducible first
    | assumption
    | (intro (x : State); apply Fix.cut  (x := x); rotate_left; intro hx; clear_value x; rotate_left; subst x)
    | apply State.writeEvent_fix_safety
    | apply State.count_fix_safety
    | simp only [↓Fix.upd_safety]
    | split

theorem State.setProc_fix_safety {x0 : _} {s : State} (n : Nat) (a1 : Proc) (h : Fix (fun z => z.safety) x0 s) : Fix (fun z => z.safety) x0 (State.setProc s n a1) := by
  unfold State.setProc
  repeat' with_reducible first
    | assumption
    | simp only [↓Fix.upd_safety]

theorem State.modProc_fix_safety {x0 : _} {s : State} (n : Nat) (f : Proc → Proc) (h : Fix (fun z => z.safety) x0 s) : Fix (fun z => z.safety) x0 (State.modProc s n f) := by
  unfold State.modProc
  repeat' with_reducible first
    | assumption
    | apply State.setProc_fix_safety

theorem State.flashPut_fix_safety {x0 : _} {s : State} (a : Nat) (b : Bytes) (h : Fix (fun z => z.safety) x0 s) : Fix (fun z => z.safety) x0 (s.flashPut a b) := h.same rfl

theorem State.seal_fix_safety {x0 : _} {s : State} (k : Nat) (h : Fix (fun z => z.safety) x0 s) : Fix (fun z => z.safety) x0 (State.seal s k) := by
  unfold State.seal
  repeat' with_reducible first
    | assumption
    | apply State.flashPut_fix_safety

theorem State.checkSlot_fix_safety {x0 : _} {s : State} (k : Nat) (h : Fix (fun z => z.safety) x0 s) : Fix (fun z => z.safety) x0 (State.checkSlot s k).2 := by
  unfold State.checkSlot
  repeat' with_reducible first
    | assumption
    | apply State.seal_fix_safety
    | simp only [↓Fix.upd_safety]
    | split

theorem State.checkSlot_fix_safety_of {x0 : _} {s t : State} {k : Nat} {v_ : _} (e : State.checkSlot s k = (v_, t)) (h : Fix (fun z => z.safety) x0 s) : Fix (fun z => z.safety) x0 t := by
  have k := State.checkSlot_fix_safety  (k := k) h
  rw [e] at k
  exact k

theorem State.recordSlot_fix_safety {x0 : _} {s : State} (k : Nat) (status : Nat) (h : Fix (fun z => z.safety) x0 s) : Fix (fun z => z.safety) x0 (State.recordSlot s k status) := by
  unfold State.recordSlot
  repeat' with_reducible first
    | assumption
    | (intro (x : State); apply Fix.cut  (x := x); rotate_left; intro hx; clear_value x; rotate_left; subst x)
    | apply State.setNum_fix_safety

theorem State.checkRecord_fix_safety {x0 : _} {s : State} (k : Nat) (h : Fix (fun z => z.safety) x0 s) : Fix (fun z => z.safety) x0 (State.checkRecord s k).2 := by
  unfold State.checkRecord
  repeat' with_reducible first
    | assumption
    | apply State.checkSlot_fix_safety
    | refine State.checkSlot_fix_safety_of (by assumption) ?_
    | apply State.recordSlot_fix_safety

theorem State.checkRecord_fix_safety_of {x0 : _} {s t : State} {k : Nat} {v_ : _} (e : State.checkRecord s k = (v_, t)) (h : Fix (fun z => z.safety) x0 s) : Fix (fun z => z.safety) x0 t := by
  have k := State.checkRecord_fix_safety  (k := k) h
  rw [e] at k
  exact k

theorem State.selectFrom_fix_safety {x0 : _} {s : State} (bad : Nat → Bool) (a1 : Nat) (a2 : List Nat) (h : Fix (fun z => z.safety) x0 s) :
    Fix (fun z => z.safety) x0 (State.selectFrom bad a1 a2 s).2 := by
  induction a1 generalizing a2 s with
  | zero => exact h
  | succ f ih =>
    simp only [State.selectFrom]
    split
    · exact h
    · split
      · exact ih _ (State.recordSlot_fix_safety _ _ h)
      · exact State.setNum_fix_safety _ _ _ h

theorem State.selectFrom_fix_safety_of {x0 : _} {s t : State} {bad : Nat → Bool} {a1 : Nat} {a2 : List Nat} {v_ : _} (e : State.selectFrom bad a1 a2 s = (v_, t)) (h : Fix (fun z => z.safety) x0 s) : Fix (fun z => z.safety) x0 t := by
  have k := State.selectFrom_fix_safety  (bad := bad) (a1 := a1) (a2 := a2) h
  rw [e] at k
  exact k

theorem State.select_fix_safety {x0 : _} {s : State} (cands : List Nat) (bad : Nat → Bool) (h : Fix (fun z => z.safety) x0 s) : Fix (fun z => z.safety) x0 (State.select s cands bad).2 := by
  unfold State.select
  repeat' with_reducible first
    | assumption
    | apply State.checkRecord_fix_safety
    | refine State.checkRecord_fix_safety_of (by assumption) ?_
    | apply State.setNum_fix_safety
    | apply State.selectFrom_fix_safety
    | refine State.selectFrom_fix_safety_of (by assumption) ?_
    | (apply Fix.foldl1; rotate_left; intro t x ht; dsimp only; rotate_left)

theorem State.select_fix_safety_of {x0 : _} {s t : State} {cands : List Nat} {bad : Nat → Bool} {v_ : _} (e : State.select s cands bad = (v_, t)) (h : Fix (fun z => z.safety) x0 s) : Fix (fun z => z.safety) x0 t := by
  have k := State.select_fix_safety  (cands := cands) (bad := bad) h
  rw [e] at k
  exact k

theorem State.loadComponent_fix_safety {x0 : _} {s : State} (p : Nat) (k : Nat) (h : Fix (fun z => z.safety) x0 s) : Fix (fun z => z.safety) x0 (State.loadComponent s p k) := by
  unfold State.loadComponent
  repeat' with_reducible first
    | assumption
    | (intro (x : State); apply Fix.cut  (x := x); rotate_left; intro hx; clear_value x; rotate_left; subst x)
    | (intro (x : Trust); subst x)
    | apply State.setNum_fix_safety
    | apply State.modProc_fix_safety
    | simp only [↓Fix.upd_safety]
    | split

theorem State.deferDone_fix_safety {x0 : _} {s : State} (d : Deferred) (status : Nat) (h : Fix (fun z => z.safety) x0 s) : Fix (fun z => z.safety) x0 (State.deferDone s d status) := by
  unfold State.deferDone
  repeat' with_reducible first
    | assumption
    | apply State.postEvent_fix_safety

theorem State.abortDeferred_fix_safety {x0 : _} {s : State} (h : Fix (fun z => z.safety) x0 s) : Fix (fun z => z.safety) x0 (State.abortDeferred s) := by
  unfold State.abortDeferred
  repeat' with_reducible first
    | assumption
    | apply State.deferDone_fix_safety
    | (apply Fix.foldl; rotate_left; intro t x ht; rotate_left)
    | simp only [↓Fix.upd_safety]

theorem State.release_fix_safety {x0 : _} {s : State} (p : Nat) (h : Fix (fun z => z.safety) x0 s) : Fix (fun z => z.safety) x0 (State.release s p) := by
  unfold State.release
  repeat' with_reducible first
    | assumption
    | (intro (x : State); apply Fix.cut  (x := x); rotate_left; intro hx; clear_value x; rotate_left; subst x)
    | apply State.modProc_fix_safety
    | apply State.loadComponent_fix_safety
    | apply State.setNum_fix_safety
    | split

theorem State.bootFrom_fix_safety {x0 : _} {s : State} (k : Nat) (rate : Bool) (h : Fix (fun z => z.safety) x0 s) : Fix (fun z => z.safety) x0 (State.bootFrom s k rate) := by
  unfold State.bootFrom
  repeat' with_reducible first
    | assumption
    | (intro (x : State); apply Fix.cut  (x := x); rotate_left; intro hx; clear_value x; rotate_left; subst x)
    | (intro (x : Trust); subst x)
    | apply State.setNum_fix_safety
    | apply State.modProc_fix_safety
    | apply State.release_fix_safety
    | (apply Fix.foldl; rotate_left; intro t x ht; rotate_left)
    | simp only [↓Fix.upd_safety]
    | split

theorem State.warmWork_fix_safety {x0 : _} {s : State} (h : Fix (fun z => z.safety) x0 s) : Fix (fun z => z.safety) x0 (State.warmWork s) := by
  unfold State.warmWork
  repeat' with_reducible first
    | assumption
    | simp only [↓Fix.upd_safety]

theorem State.warmApply_fix_safety {x0 : _} {s : State} (h : Fix (fun z => z.safety) x0 s) : Fix (fun z => z.safety) x0 (State.warmApply s) := by
  unfold State.warmApply
  repeat' with_reducible first
    | assumption
    | (intro (x : State); apply Fix.cut  (x := x); rotate_left; intro hx; clear_value x; rotate_left; subst x)
    | (apply Fix.foldl; rotate_left; intro t x ht; rotate_left)
    | simp only [↓Fix.upd_safety]

theorem State.warmMedia_fix_safety {x0 : _} {s : State} (h : Fix (fun z => z.safety) x0 s) : Fix (fun z => z.safety) x0 (State.warmMedia s) := by
  unfold State.warmMedia
  repeat' with_reducible first
    | assumption
    | (intro (x : State); apply Fix.cut  (x := x); rotate_left; intro hx; clear_value x; rotate_left; subst x)
    | apply State.freeRun_fix_safety
    | (apply Fix.foldl; rotate_left; intro t x ht; rotate_left)
    | simp only [↓Fix.upd_safety]

theorem State.warmLink_fix_safety {x0 : _} {s : State} (h : Fix (fun z => z.safety) x0 s) : Fix (fun z => z.safety) x0 (State.warmLink s) := by
  unfold State.warmLink
  repeat' with_reducible first
    | assumption
    | (intro (x : State); apply Fix.cut  (x := x); rotate_left; intro hx; clear_value x; rotate_left; subst x)
    | apply State.count_fix_safety
    | apply State.abortDeferred_fix_safety
    | simp only [↓Fix.upd_safety]

theorem State.enterRecovery_fix_safety {x0 : _} {s : State} (h : Fix (fun z => z.safety) x0 s) : Fix (fun z => z.safety) x0 (State.enterRecovery s) := by
  unfold State.enterRecovery
  repeat' with_reducible first
    | assumption
    | (intro (x : State); apply Fix.cut  (x := x); rotate_left; intro hx; clear_value x; rotate_left; subst x)
    | (intro (x : Trust); subst x)
    | apply State.setNum_fix_safety
    | apply State.release_fix_safety
    | simp only [↓Fix.upd_safety]

theorem State.selectBoot_fix_safety {x0 : _} {s : State} (cands : List Nat) (bad : Nat → Bool) (rate : Bool) (h : Fix (fun z => z.safety) x0 s) : Fix (fun z => z.safety) x0 (State.selectBoot s cands bad rate) := by
  unfold State.selectBoot
  repeat' with_reducible first
    | assumption
    | apply State.select_fix_safety
    | refine State.select_fix_safety_of (by assumption) ?_
    | apply State.enterRecovery_fix_safety
    | apply State.bootFrom_fix_safety
    | split

theorem State.reload_fix_safety {x0 : _} {s : State} (h : Fix (fun z => z.safety) x0 s) : Fix (fun z => z.safety) x0 (State.reload s) := by
  unfold State.reload
  repeat' with_reducible first
    | assumption
    | (intro (x : State); apply Fix.cut  (x := x); rotate_left; intro hx; clear_value x; rotate_left; subst x)
    | apply State.selectBoot_fix_safety
    | apply State.bootFrom_fix_safety
    | apply State.release_fix_safety
    | simp only [↓Fix.upd_safety]
    | split

/-! ## rst.phase -/

theorem Fix.upd_rst_phase {s : State} {x0 : _} {f_pending : List Instr} {f_clk : Clock} {f_pins : Pins} {f_objs : List (Nat × Val)} {f_isl : Islands} {f_slices : List (Nat × Slice)} {f_harts : List (Nat × Hart)} {f_clusters : List (Nat × Cluster)} {f_tasks : List (Nat × Task)} {f_mem : Memory} {f_peers : List (Nat × Peer)} {f_work : Work} {f_media : Media} {f_link : Link} {f_safety : Safety} {f_power : Power} {f_fw : Firmware} {f_trust : Trust} {f_pers : Pers} {f_freeCtr : Nat} :
    Fix (fun z => z.rst.phase) x0 ⟨f_pending, f_clk, f_pins, s.rst, f_objs, f_isl, f_slices, f_harts, f_clusters, f_tasks, f_mem, f_peers, f_work, f_media, f_link, f_safety, f_power, f_fw, f_trust, f_pers, f_freeCtr⟩ = Fix (fun z => z.rst.phase) x0 s := rfl
theorem Fix.upd2_rst_phase {s : State} {x0 : _} {f_pending : List Instr} {f_clk : Clock} {f_pins : Pins} {f_objs : List (Nat × Val)} {f_isl : Islands} {f_slices : List (Nat × Slice)} {f_harts : List (Nat × Hart)} {f_clusters : List (Nat × Cluster)} {f_tasks : List (Nat × Task)} {f_mem : Memory} {f_peers : List (Nat × Peer)} {f_work : Work} {f_media : Media} {f_link : Link} {f_safety : Safety} {f_power : Power} {f_fw : Firmware} {f_trust : Trust} {f_pers : Pers} {f_freeCtr : Nat} {g_t0 : _} {g_bootsel : _} {g_failSlices : _} {g_failChannels : _} {g_bundleSlot : _} {g_memHeld : _} {g_loadDue : _} {g_admitDue : _} {g_sliceMap : _} {g_coreMap : _} :
    Fix (fun z => z.rst.phase) x0 ⟨f_pending, f_clk, f_pins, ⟨s.rst.phase, g_t0, g_bootsel, g_failSlices, g_failChannels, g_bundleSlot, g_memHeld, g_loadDue, g_admitDue, g_sliceMap, g_coreMap⟩, f_objs, f_isl, f_slices, f_harts, f_clusters, f_tasks, f_mem, f_peers, f_work, f_media, f_link, f_safety, f_power, f_fw, f_trust, f_pers, f_freeCtr⟩ = Fix (fun z => z.rst.phase) x0 s := rfl

theorem State.setVal_fix_rst_phase {x0 : _} {s : State} (r : ObjRow) (k : Nat) (v : Val) (h : Fix (fun z => z.rst.phase) x0 s) : Fix (fun z => z.rst.phase) x0 (State.setVal s r k v) := by
  unfold State.setVal
  repeat' with_reducible first
    | assumption
    | simp only [↓Fix.upd_rst_phase, ↓Fix.upd2_rst_phase]

theorem State.setNum_fix_rst_phase {x0 : _} {s : State} (r : ObjRow) (k : Nat) (n : Nat) (h : Fix (fun z => z.rst.phase) x0 s) : Fix (fun z => z.rst.phase) x0 (State.setNum s r k n) := by
  unfold State.setNum
  repeat' with_reducible first
    | assumption
    | apply State.setVal_fix_rst_phase

theorem State.count_fix_rst_phase {x0 : _} {s : State} (r : ObjRow) (k : optParam Nat 0) (n : optParam Nat 1) (h : Fix (fun z => z.rst.phase) x0 s) : Fix (fun z => z.rst.phase) x0 (State.count s r k n) := by
  unfold State.count
  repeat' with_reducible first
    | assumption
    | apply State.setNum_fix_rst_phase

theorem State.writeByte_fix_rst_phase {x0 : _} {s : State} (a : Nat) (b : Byte) (h : Fix (fun z => z.rst.phase) x0 s) : Fix (fun z => z.rst.phase) x0 (s.writeByte a b) := h.same rfl

theorem State.writeBytes_fix_rst_phase {x0 : _} {s : State} (a : Nat) (b : Bytes) (h : Fix (fun z => z.rst.phase) x0 s) : Fix (fun z => z.rst.phase) x0 (s.writeBytes a b) := by
  induction b generalizing s a with
  | nil => exact h
  | cons x r ih => exact ih _ (State.writeByte_fix_rst_phase _ _ h)

theorem State.noteChange_fix_rst_phase {x0 : _} {s : State} (q : Option Nat) (h : Fix (fun z => z.rst.phase) x0 s) : Fix (fun z => z.rst.phase) x0 (State.noteChange s q) := by
  unfold State.noteChange
  repeat' with_reducible first
    | assumption
    | simp only [↓Fix.upd_rst_phase, ↓Fix.upd2_rst_phase]

theorem State.writeEvent_fix_rst_phase {x0 : _} {s : State} (time : Nat) (code : Nat) (source : Nat) (payload : Bytes) (h : Fix (fun z => z.rst.phase) x0 s) : Fix (fun z => z.rst.phase) x0 (State.writeEvent s time code source payload) := by
  unfold State.writeEvent
  repeat' with_reducible first
    | assumption
    | apply State.writeBytes_fix_rst_phase
    | apply State.noteChange_fix_rst_phase
    | apply State.setNum_fix_rst_phase
    | split

theorem State.setStream_fix_rst_phase {x0 : _} {s : State} (n : Nat) (a1 : Stream) (h : Fix (fun z => z.rst.phase) x0 s) : Fix (fun z => z.rst.phase) x0 (State.setStream s n a1) := by
  unfold State.setStream
  repeat' with_reducible first
    | assumption
    | simp only [↓Fix.upd_rst_phase, ↓Fix.upd2_rst_phase]

theorem State.setSlice_fix_rst_phase {x0 : _} {s : State} (n : Nat) (a1 : Slice) (h : Fix (fun z => z.rst.phase) x0 s) : Fix (fun z => z.rst.phase) x0 (State.setSlice s n a1) := by
  unfold State.setSlice
  repeat' with_reducible first
    | assumption
    | simp only [↓Fix.upd_rst_phase, ↓Fix.upd2_rst_phase]

theorem State.modSlice_fix_rst_phase {x0 : _} {s : State} (n : Nat) (f : Slice → Slice) (h : Fix (fun z => z.rst.phase) x0 s) : Fix (fun z => z.rst.phase) x0 (State.modSlice s n f) := by
  unfold State.modSlice
  repeat' with_reducible first
    | assumption
    | apply State.setSlice_fix_rst_phase

theorem State.postEvent_fix_rst_phase {x0 : _} {s : State} (code : Nat) (source : Nat) (payload : Bytes) (h : Fix (fun z => z.rst.phase) x0 s) : Fix (fun z => z.rst.phase) x0 (State.postEvent s code source payload) := by
  unfold State.postEvent
  repeat' with_reducible first
    | assumption
    | (intro (x : State); apply Fix.cut  (x := x); rotate_left; intro hx; clear_value x; rotate_left; subst x)
    | apply State.writeEvent_fix_rst_phase
    | apply State.count_fix_rst_phase
    | simp only [↓Fix.upd_rst_phase, ↓Fix.upd2_rst_phase]
    | split

theorem State.modStream_fix_rst_phase {x0 : _} {s : State} (n : Nat) (f : Stream → Stream) (h : Fix (fun z => z.rst.phase) x0 s) : Fix (fun z => z.rst.phase) x0 (State.modStream s n f) := by
  unfold State.modStream
  repeat' with_reducible first
    | assumption
    | apply State.setStream_fix_rst_phase

theorem State.clearObj_fix_rst_phase {x0 : _} {s : State} (r : ObjRow) (k : Nat) (h : Fix (fun z => z.rst.phase) x0 s) : Fix (fun z => z.rst.phase) x0 (State.clearObj s r k) := by
  unfold State.clearObj
  repeat' with_reducible first
    | assumption
    | simp only [↓Fix.upd_rst_phase, ↓Fix.upd2_rst_phase]

theorem State.driveLines_fix_rst_phase {x0 : _} {s : State} (h : Fix (fun z => z.rst.phase) x0 s) : Fix (fun z => z.rst.phase) x0 (State.driveLines s) := by
  unfold State.driveLines
  repeat' with_reducible first
    | assumption
    | simp only [↓Fix.upd_rst_phase, ↓Fix.upd2_rst_phase]

theorem State.resetReason_fix_rst_phase {x0 : _} {s : State} (n : Nat) (h : Fix (fun z => z.rst.phase) x0 s) : Fix (fun z => z.rst.phase) x0 (State.resetReason s n) := by
  unfold State.resetReason
  repeat' with_reducible first
    | assumption
    | apply State.modStream_fix_rst_phase

theorem State.leaveCause_fix_rst_phase {x0 : _} {s : State} (bit : Nat) (h : Fix (fun z => z.rst.phase) x0 s) : Fix (fun z => z.rst.phase) x0 (State.leaveCause s bit) := by
  unfold State.leaveCause
  repeat' with_reducible first
    | assumption
    | (intro (x : State); apply Fix.cut  (x := x); rotate_left; intro hx; clear_value x; rotate_left; subst x)
    | apply State.driveLines_fix_rst_phase
    | apply State.resetReason_fix_rst_phase
    | (apply Fix.foldl; rotate_left; intro t x ht; rotate_left)
    | simp only [↓Fix.upd_rst_phase, ↓Fix.upd2_rst_phase]
    | split

theorem State.flashErase_fix_rst_phase {x0 : _} {s : State} (a n : Nat) (h : Fix (fun z => z.rst.phase) x0 s) : Fix (fun z => z.rst.phase) x0 (s.flashErase a n) := h.same rfl

theorem State.eraseSlot_fix_rst_phase {x0 : _} {s : State} (k : Nat) (h : Fix (fun z => z.rst.phase) x0 s) : Fix (fun z => z.rst.phase) x0 (State.eraseSlot s k) := by
  unfold State.eraseSlot
  repeat' with_reducible first
    | assumption
    | apply State.flashErase_fix_rst_phase

theorem State.setUpd_fix_rst_phase {x0 : _} {s : State} (state : Nat) (status : Nat) (slot : Nat) (h : Fix (fun z => z.rst.phase) x0 s) : Fix (fun z => z.rst.phase) x0 (State.setUpd s state status slot) := by
  unfold State.setUpd
  repeat' with_reducible first
    | assumption
    | (intro (x : State); apply Fix.cut  (x := x); rotate_left; intro hx; clear_value x; rotate_left; subst x)
    | apply State.setNum_fix_rst_phase
    | apply State.postEvent_fix_rst_phase

theorem State.failStaging_fix_rst_phase {x0 : _} {s : State} (h : Fix (fun z => z.rst.phase) x0 s) : Fix (fun z => z.rst.phase) x0 (State.failStaging s) := by
  unfold State.failStaging
  repeat' with_reducible first
    | assumption
    | (intro (x : State); apply Fix.cut  (x := x); rotate_left; intro hx; clear_value x; rotate_left; subst x)
    | apply State.setUpd_fix_rst_phase
    | apply State.eraseSlot_fix_rst_phase
    | simp only [↓Fix.upd_rst_phase, ↓Fix.upd2_rst_phase]
    | split

theorem State.deferDone_fix_rst_phase {x0 : _} {s : State} (d : Deferred) (status : Nat) (h : Fix (fun z => z.rst.phase) x0 s) : Fix (fun z => z.rst.phase) x0 (State.deferDone s d status) := by
  unfold State.deferDone
  repeat' with_reducible first
    | assumption
    | apply State.postEvent_fix_rst_phase

theorem State.abortDeferred_fix_rst_phase {x0 : _} {s : State} (h : Fix (fun z => z.rst.phase) x0 s) : Fix (fun z => z.rst.phase) x0 (State.abortDeferred s) := by
  unfold State.abortDeferred
  repeat' with_reducible first
    | assumption
    | apply State.deferDone_fix_rst_phase
    | (apply Fix.foldl; rotate_left; intro t x ht; rotate_left)
    | simp only [↓Fix.upd_rst_phase, ↓Fix.upd2_rst_phase]

theorem State.clearAll_fix_rst_phase {x0 : _} {s : State} (rows : List ObjRow) (h : Fix (fun z => z.rst.phase) x0 s) : Fix (fun z => z.rst.phase) x0 (State.clearAll s rows) := by
  unfold State.clearAll
  repeat' with_reducible first
    | assumption
    | apply State.clearObj_fix_rst_phase
    | (apply Fix.foldl; rotate_left; intro t x ht; rotate_left)

theorem State.warmProcs_fix_rst_phase {x0 : _} {s : State} (h : Fix (fun z => z.rst.phase) x0 s) : Fix (fun z => z.rst.phase) x0 (State.warmProcs s) := by
  unfold State.warmProcs
  repeat' with_reducible first
    | assumption
    | apply State.setNum_fix_rst_phase
    | (apply Fix.foldl; rotate_left; intro t x ht; rotate_left)

theorem State.warmParts_fix_rst_phase {x0 : _} {s : State} (h : Fix (fun z => z.rst.phase) x0 s) : Fix (fun z => z.rst.phase) x0 s.warmParts := h.same rfl

theorem State.warmSlices_fix_rst_phase {x0 : _} {s : State} (h : Fix (fun z => z.rst.phase) x0 s) : Fix (fun z => z.rst.phase) x0 (State.warmSlices s) := by
  unfold State.warmSlices
  repeat' with_reducible first
    | assumption
    | apply State.modSlice_fix_rst_phase
    | (apply Fix.foldl; rotate_left; intro t x ht; rotate_left)

theorem State.warmHardware_fix_rst_phase {x0 : _} {s : State} (h : Fix (fun z => z.rst.phase) x0 s) : Fix (fun z => z.rst.phase) x0 (State.warmHardware s) := by
  unfold State.warmHardware
  repeat' with_reducible first
    | assumption
    | (intro (x : State); apply Fix.cut  (x := x); rotate_left; intro hx; clear_value x; rotate_left; subst x)
    | apply State.warmProcs_fix_rst_phase
    | apply State.warmParts_fix_rst_phase
    | apply State.warmSlices_fix_rst_phase
    | apply State.clearAll_fix_rst_phase
    | apply State.leaveCause_fix_rst_phase
    | split

theorem State.warmLink_fix_rst_phase {x0 : _} {s : State} (h : Fix (fun z => z.rst.phase) x0 s) : Fix (fun z => z.rst.phase) x0 (State.warmLink s) := by
  unfold State.warmLink
  repeat' with_reducible first
    | assumption
    | (intro (x : State); apply Fix.cut  (x := x); rotate_left; intro hx; clear_value x; rotate_left; subst x)
    | apply State.count_fix_rst_phase
    | apply State.abortDeferred_fix_rst_phase
    | simp only [↓Fix.upd_rst_phase, ↓Fix.upd2_rst_phase]

/-! ## pins.warmN -/

theorem Fix.upd_pins_warmN {s : State} {x0 : _} {f_pending : List Instr} {f_clk : Clock} {f_rst : ResetState} {f_objs : List (Nat × Val)} {f_isl : Islands} {f_slices : List (Nat × Slice)} {f_harts : List (Nat × Hart)} {f_clusters : List (Nat × Cluster)} {f_tasks : List (Nat × Task)} {f_mem : Memory} {f_peers : List (Nat × Peer)} {f_work : Work} {f_media : Media} {f_link : Link} {f_safety : Safety} {f_power : Power} {f_fw : Firmware} {f_trust : Trust} {f_pers : Pers} {f_freeCtr : Nat} :
    Fix (fun z => z.pins.warmN) x0 ⟨f_pending, f_clk, s.pins, f_rst, f_objs, f_isl, f_slices, f_harts, f_clusters, f_tasks, f_mem, f_peers, f_work, f_media, f_link, f_safety, f_power, f_fw, f_trust, f_pers, f_freeCtr⟩ = Fix (fun z => z.pins.warmN) x0 s := rfl
theorem Fix.upd2_pins_warmN {s : State} {x0 : _} {f_pending : List Instr} {f_clk : Clock} {f_rst : ResetState} {f_objs : List (Nat × Val)} {f_isl : Islands} {f_slices : List (Nat × Slice)} {f_harts : List (Nat × Hart)} {f_clusters : List (Nat × Cluster)} {f_tasks : List (Nat × Task)} {f_mem : Memory} {f_peers : List (Nat × Peer)} {f_work : Work} {f_media : Media} {f_link : Link} {f_safety : Safety} {f_power : Power} {f_fw : Firmware} {f_trust : Trust} {f_pers : Pers} {f_freeCtr : Nat} {g_xspi : _} {g_tap : _} {g_pwronN : _} {g_vrHotN : _} {g_thermTripN : _} {g_railsOk : _} {g_refclkOk : _} {g_safeA : _} {g_safeB : _} {g_fsyncLast : _} {g_fsyncPulses : _} {g_fsyncPols : _} :
    Fix (fun z => z.pins.warmN) x0 ⟨f_pending, f_clk, ⟨g_xspi, g_tap, g_pwronN, s.pins.warmN, g_vrHotN, g_thermTripN, g_railsOk, g_refclkOk, g_safeA, g_safeB, g_fsyncLast, g_fsyncPulses, g_fsyncPols⟩, f_rst, f_objs, f_isl, f_slices, f_harts, f_clusters, f_tasks, f_mem, f_peers, f_work, f_media, f_link, f_safety, f_power, f_fw, f_trust, f_pers, f_freeCtr⟩ = Fix (fun z => z.pins.warmN) x0 s := rfl

theorem State.setChan_fix_pins_warmN {x0 : _} {s : State} (n : Nat) (a1 : Channel) (h : Fix (fun z => z.pins.warmN) x0 s) : Fix (fun z => z.pins.warmN) x0 (State.setChan s n a1) := by
  unfold State.setChan
  repeat' with_reducible first
    | assumption
    | (intro (x : Memory); subst x)
    | simp only [↓Fix.upd_pins_warmN, ↓Fix.upd2_pins_warmN]

theorem State.modChan_fix_pins_warmN {x0 : _} {s : State} (n : Nat) (f : Channel → Channel) (h : Fix (fun z => z.pins.warmN) x0 s) : Fix (fun z => z.pins.warmN) x0 (State.modChan s n f) := by
  unfold State.modChan
  repeat' with_reducible first
    | assumption
    | apply State.setChan_fix_pins_warmN

theorem State.retireSlot_fix_pins_warmN {x0 : _} {s : State} (c : Nat) (k : Nat) (h : Fix (fun z => z.pins.warmN) x0 s) : Fix (fun z => z.pins.warmN) x0 (State.retireSlot s c k) := by
  unfold State.retireSlot
  repeat' with_reducible first
    | assumption
    | apply State.modChan_fix_pins_warmN

theorem State.setEntry_fix_pins_warmN {x0 : _} {s : State} (n : Nat) (e : Entry) (h : Fix (fun z => z.pins.warmN) x0 s) : Fix (fun z => z.pins.warmN) x0 (State.setEntry s n e) := by
  unfold State.setEntry
  repeat' with_reducible first
    | assumption
    | (intro (x : Memory); subst x)
    | simp only [↓Fix.upd_pins_warmN, ↓Fix.upd2_pins_warmN]

theorem State.setVal_fix_pins_warmN {x0 : _} {s : State} (r : ObjRow) (k : Nat) (v : Val) (h : Fix (fun z => z.pins.warmN) x0 s) : Fix (fun z => z.pins.warmN) x0 (State.setVal s r k v) := by
  unfold State.setVal
  repeat' with_reducible first
    | assumption
    | simp only [↓Fix.upd_pins_warmN, ↓Fix.upd2_pins_warmN]

theorem State.setNum_fix_pins_warmN {x0 : _} {s : State} (r : ObjRow) (k : Nat) (n : Nat) (h : Fix (fun z => z.pins.warmN) x0 s) : Fix (fun z => z.pins.warmN) x0 (State.setNum s r k n) := by
  unfold State.setNum
  repeat' with_reducible first
    | assumption
    | apply State.setVal_fix_pins_warmN

theorem State.count_fix_pins_warmN {x0 : _} {s : State} (r : ObjRow) (k : optParam Nat 0) (n : optParam Nat 1) (h : Fix (fun z => z.pins.warmN) x0 s) : Fix (fun z => z.pins.warmN) x0 (State.count s r k n) := by
  unfold State.count
  repeat' with_reducible first
    | assumption
    | apply State.setNum_fix_pins_warmN

theorem State.abandonMig_fix_pins_warmN {x0 : _} {s : State} (n : Nat) (h : Fix (fun z => z.pins.warmN) x0 s) : Fix (fun z => z.pins.warmN) x0 (State.abandonMig s n) := by
  unfold State.abandonMig
  repeat' with_reducible first
    | assumption
    | apply State.retireSlot_fix_pins_warmN
    | apply State.setEntry_fix_pins_warmN
    | apply State.count_fix_pins_warmN
    | simp only [↓Fix.upd_pins_warmN, ↓Fix.upd2_pins_warmN]
    | split

theorem State.freePage_fix_pins_warmN {x0 : _} {s : State} (n : Nat) (h : Fix (fun z => z.pins.warmN) x0 s) : Fix (fun z => z.pins.warmN) x0 (State.freePage s n) := by
  unfold State.freePage
  repeat' with_reducible first
    | assumption
    | (intro (x : State); apply Fix.cut  (x := x); rotate_left; intro hx; clear_value x; rotate_left; subst x)
    | (intro (x : Memory); subst x)
    | apply State.abandonMig_fix_pins_warmN
    | apply State.retireSlot_fix_pins_warmN
    | apply State.setEntry_fix_pins_warmN
    | simp only [↓Fix.upd_pins_warmN, ↓Fix.upd2_pins_warmN]
    | split

theorem State.freePages_fix_pins_warmN {x0 : _} {s : State} (n k : Nat) (h : Fix (fun z => z.pins.warmN) x0 s) : Fix (fun z => z.pins.warmN) x0 (s.freePages n k) := by
  induction k generalizing s n with
  | zero => exact h
  | succ k ih => exact ih _ (State.freePage_fix_pins_warmN _ h)

theorem State.freeRun_fix_pins_warmN {x0 : _} {s : State} (a0 : Option (Nat × Nat)) (h : Fix (fun z => z.pins.warmN) x0 s) : Fix (fun z => z.pins.warmN) x0 (State.freeRun s a0) := by
  unfold State.freeRun
  repeat' with_reducible first
    | assumption
    | apply State.freePages_fix_pins_warmN
    | split

theorem State.writeByte_fix_pins_warmN {x0 : _} {s : State} (a : Nat) (b : Byte) (h : Fix (fun z => z.pins.warmN) x0 s) : Fix (fun z => z.pins.warmN) x0 (s.writeByte a b) := h.same rfl

theorem State.writeBytes_fix_pins_warmN {x0 : _} {s : State} (a : Nat) (b : Bytes) (h : Fix (fun z => z.pins.warmN) x0 s) : Fix (fun z => z.pins.warmN) x0 (s.writeBytes a b) := by
  induction b generalizing s a with
  | nil => exact h
  | cons x r ih => exact ih _ (State.writeByte_fix_pins_warmN _ _ h)

theorem State.noteChange_fix_pins_warmN {x0 : _} {s : State} (q : Option Nat) (h : Fix (fun z => z.pins.warmN) x0 s) : Fix (fun z => z.pins.warmN) x0 (State.noteChange s q) := by
  unfold State.noteChange
  repeat' with_reducible first
    | assumption
    | simp only [↓Fix.upd_pins_warmN, ↓Fix.upd2_pins_warmN]

theorem State.writeEvent_fix_pins_warmN {x0 : _} {s : State} (time : Nat) (code : Nat) (source : Nat) (payload : Bytes) (h : Fix (fun z => z.pins.warmN) x0 s) : Fix (fun z => z.pins.warmN) x0 (State.writeEvent s time code source payload) := by
  unfold State.writeEvent
  repeat' with_reducible first
    | assumption
    | apply State.writeBytes_fix_pins_warmN
    | apply State.noteChange_fix_pins_warmN
    | apply State.setNum_fix_pins_warmN
    | split

theorem State.setStream_fix_pins_warmN {x0 : _} {s : State} (n : Nat) (a1 : Stream) (h : Fix (fun z => z.pins.warmN) x0 s) : Fix (fun z => z.pins.warmN) x0 (State.setStream s n a1) := by
  unfold State.setStream
  repeat' with_reducible first
    | assumption
    | simp only [↓Fix.upd_pins_warmN, ↓Fix.upd2_pins_warmN]

theorem State.setSlice_fix_pins_warmN {x0 : _} {s : State} (n : Nat) (a1 : Slice) (h : Fix (fun z => z.pins.warmN) x0 s) : Fix (fun z => z.pins.warmN) x0 (State.setSlice s n a1) := by
  unfold State.setSlice
  repeat' with_reducible first
    | assumption
    | simp only [↓Fix.upd_pins_warmN, ↓Fix.upd2_pins_warmN]

theorem State.modSlice_fix_pins_warmN {x0 : _} {s : State} (n : Nat) (f : Slice → Slice) (h : Fix (fun z => z.pins.warmN) x0 s) : Fix (fun z => z.pins.warmN) x0 (State.modSlice s n f) := by
  unfold State.modSlice
  repeat' with_reducible first
    | assumption
    | apply State.setSlice_fix_pins_warmN

theorem State.postEvent_fix_pins_warmN {x0 : _} {s : State} (code : Nat) (source : Nat) (payload : Bytes) (h : Fix (fun z => z.pins.warmN) x0 s) : Fix (fun z => z.pins.warmN) x0 (State.postEvent s code source payload) := by
  unfold State.postEvent
  repeat' with_reducible first
    | assumption
    | (intro (x : State); apply Fix.cut  (x := x); rotate_left; intro hx; clear_value x; rotate_left; subst x)
    | apply State.writeEvent_fix_pins_warmN
    | apply State.count_fix_pins_warmN
    | simp only [↓Fix.upd_pins_warmN, ↓Fix.upd2_pins_warmN]
    | split

theorem State.modStream_fix_pins_warmN {x0 : _} {s : State} (n : Nat) (f : Stream → Stream) (h : Fix (fun z => z.pins.warmN) x0 s) : Fix (fun z => z.pins.warmN) x0 (State.modStream s n f) := by
  unfold State.modStream
  repeat' with_reducible first
    | assumption
    | apply State.setStream_fix_pins_warmN

theorem State.clearObj_fix_pins_warmN {x0 : _} {s : State} (r : ObjRow) (k : Nat) (h : Fix (fun z => z.pins.warmN) x0 s) : Fix (fun z => z.pins.warmN) x0 (State.clearObj s r k) := by
  unfold State.clearObj
  repeat' with_reducible first
    | assumption
    | simp only [↓Fix.upd_pins_warmN, ↓Fix.upd2_pins_warmN]

theorem State.driveLines_fix_pins_warmN {x0 : _} {s : State} (h : Fix (fun z => z.pins.warmN) x0 s) : Fix (fun z => z.pins.warmN) x0 (State.driveLines s) := by
  unfold State.driveLines
  repeat' with_reducible first
    | assumption
    | simp only [↓Fix.upd_pins_warmN, ↓Fix.upd2_pins_warmN]

theorem State.resetReason_fix_pins_warmN {x0 : _} {s : State} (n : Nat) (h : Fix (fun z => z.pins.warmN) x0 s) : Fix (fun z => z.pins.warmN) x0 (State.resetReason s n) := by
  unfold State.resetReason
  repeat' with_reducible first
    | assumption
    | apply State.modStream_fix_pins_warmN

theorem State.leaveCause_fix_pins_warmN {x0 : _} {s : State} (bit : Nat) (h : Fix (fun z => z.pins.warmN) x0 s) : Fix (fun z => z.pins.warmN) x0 (State.leaveCause s bit) := by
  unfold State.leaveCause
  repeat' with_reducible first
    | assumption
    | (intro (x : State); apply Fix.cut  (x := x); rotate_left; intro hx; clear_value x; rotate_left; subst x)
    | apply State.driveLines_fix_pins_warmN
    | apply State.resetReason_fix_pins_warmN
    | (apply Fix.foldl; rotate_left; intro t x ht; rotate_left)
    | simp only [↓Fix.upd_pins_warmN, ↓Fix.upd2_pins_warmN]
    | split

theorem State.flashErase_fix_pins_warmN {x0 : _} {s : State} (a n : Nat) (h : Fix (fun z => z.pins.warmN) x0 s) : Fix (fun z => z.pins.warmN) x0 (s.flashErase a n) := h.same rfl

theorem State.eraseSlot_fix_pins_warmN {x0 : _} {s : State} (k : Nat) (h : Fix (fun z => z.pins.warmN) x0 s) : Fix (fun z => z.pins.warmN) x0 (State.eraseSlot s k) := by
  unfold State.eraseSlot
  repeat' with_reducible first
    | assumption
    | apply State.flashErase_fix_pins_warmN

theorem State.setUpd_fix_pins_warmN {x0 : _} {s : State} (state : Nat) (status : Nat) (slot : Nat) (h : Fix (fun z => z.pins.warmN) x0 s) : Fix (fun z => z.pins.warmN) x0 (State.setUpd s state status slot) := by
  unfold State.setUpd
  repeat' with_reducible first
    | assumption
    | (intro (x : State); apply Fix.cut  (x := x); rotate_left; intro hx; clear_value x; rotate_left; subst x)
    | apply State.setNum_fix_pins_warmN
    | apply State.postEvent_fix_pins_warmN

theorem State.failStaging_fix_pins_warmN {x0 : _} {s : State} (h : Fix (fun z => z.pins.warmN) x0 s) : Fix (fun z => z.pins.warmN) x0 (State.failStaging s) := by
  unfold State.failStaging
  repeat' with_reducible first
    | assumption
    | (intro (x : State); apply Fix.cut  (x := x); rotate_left; intro hx; clear_value x; rotate_left; subst x)
    | apply State.setUpd_fix_pins_warmN
    | apply State.eraseSlot_fix_pins_warmN
    | simp only [↓Fix.upd_pins_warmN, ↓Fix.upd2_pins_warmN]
    | split

theorem State.deferDone_fix_pins_warmN {x0 : _} {s : State} (d : Deferred) (status : Nat) (h : Fix (fun z => z.pins.warmN) x0 s) : Fix (fun z => z.pins.warmN) x0 (State.deferDone s d status) := by
  unfold State.deferDone
  repeat' with_reducible first
    | assumption
    | apply State.postEvent_fix_pins_warmN

theorem State.abortDeferred_fix_pins_warmN {x0 : _} {s : State} (h : Fix (fun z => z.pins.warmN) x0 s) : Fix (fun z => z.pins.warmN) x0 (State.abortDeferred s) := by
  unfold State.abortDeferred
  repeat' with_reducible first
    | assumption
    | apply State.deferDone_fix_pins_warmN
    | (apply Fix.foldl; rotate_left; intro t x ht; rotate_left)
    | simp only [↓Fix.upd_pins_warmN, ↓Fix.upd2_pins_warmN]

theorem State.clearAll_fix_pins_warmN {x0 : _} {s : State} (rows : List ObjRow) (h : Fix (fun z => z.pins.warmN) x0 s) : Fix (fun z => z.pins.warmN) x0 (State.clearAll s rows) := by
  unfold State.clearAll
  repeat' with_reducible first
    | assumption
    | apply State.clearObj_fix_pins_warmN
    | (apply Fix.foldl; rotate_left; intro t x ht; rotate_left)

theorem State.warmWork_fix_pins_warmN {x0 : _} {s : State} (h : Fix (fun z => z.pins.warmN) x0 s) : Fix (fun z => z.pins.warmN) x0 (State.warmWork s) := by
  unfold State.warmWork
  repeat' with_reducible first
    | assumption
    | simp only [↓Fix.upd_pins_warmN, ↓Fix.upd2_pins_warmN]

theorem State.warmApply_fix_pins_warmN {x0 : _} {s : State} (h : Fix (fun z => z.pins.warmN) x0 s) : Fix (fun z => z.pins.warmN) x0 (State.warmApply s) := by
  unfold State.warmApply
  repeat' with_reducible first
    | assumption
    | (intro (x : State); apply Fix.cut  (x := x); rotate_left; intro hx; clear_value x; rotate_left; subst x)
    | (apply Fix.foldl; rotate_left; intro t x ht; rotate_left)
    | simp only [↓Fix.upd_pins_warmN, ↓Fix.upd2_pins_warmN]

theorem State.warmMedia_fix_pins_warmN {x0 : _} {s : State} (h : Fix (fun z => z.pins.warmN) x0 s) : Fix (fun z => z.pins.warmN) x0 (State.warmMedia s) := by
  unfold State.warmMedia
  repeat' with_reducible first
    | assumption
    | (intro (x : State); apply Fix.cut  (x := x); rotate_left; intro hx; clear_value x; rotate_left; subst x)
    | apply State.freeRun_fix_pins_warmN
    | (apply Fix.foldl; rotate_left; intro t x ht; rotate_left)
    | simp only [↓Fix.upd_pins_warmN, ↓Fix.upd2_pins_warmN]

theorem State.warmProcs_fix_pins_warmN {x0 : _} {s : State} (h : Fix (fun z => z.pins.warmN) x0 s) : Fix (fun z => z.pins.warmN) x0 (State.warmProcs s) := by
  unfold State.warmProcs
  repeat' with_reducible first
    | assumption
    | apply State.setNum_fix_pins_warmN
    | (apply Fix.foldl; rotate_left; intro t x ht; rotate_left)

theorem State.warmParts_fix_pins_warmN {x0 : _} {s : State} (h : Fix (fun z => z.pins.warmN) x0 s) : Fix (fun z => z.pins.warmN) x0 s.warmParts := h.same rfl

theorem State.warmSlices_fix_pins_warmN {x0 : _} {s : State} (h : Fix (fun z => z.pins.warmN) x0 s) : Fix (fun z => z.pins.warmN) x0 (State.warmSlices s) := by
  unfold State.warmSlices
  repeat' with_reducible first
    | assumption
    | apply State.modSlice_fix_pins_warmN
    | (apply Fix.foldl; rotate_left; intro t x ht; rotate_left)

theorem State.warmHardware_fix_pins_warmN {x0 : _} {s : State} (h : Fix (fun z => z.pins.warmN) x0 s) : Fix (fun z => z.pins.warmN) x0 (State.warmHardware s) := by
  unfold State.warmHardware
  repeat' with_reducible first
    | assumption
    | (intro (x : State); apply Fix.cut  (x := x); rotate_left; intro hx; clear_value x; rotate_left; subst x)
    | apply State.warmProcs_fix_pins_warmN
    | apply State.warmParts_fix_pins_warmN
    | apply State.warmSlices_fix_pins_warmN
    | apply State.clearAll_fix_pins_warmN
    | apply State.leaveCause_fix_pins_warmN
    | split

theorem State.warmLink_fix_pins_warmN {x0 : _} {s : State} (h : Fix (fun z => z.pins.warmN) x0 s) : Fix (fun z => z.pins.warmN) x0 (State.warmLink s) := by
  unfold State.warmLink
  repeat' with_reducible first
    | assumption
    | (intro (x : State); apply Fix.cut  (x := x); rotate_left; intro hx; clear_value x; rotate_left; subst x)
    | apply State.count_fix_pins_warmN
    | apply State.abortDeferred_fix_pins_warmN
    | simp only [↓Fix.upd_pins_warmN, ↓Fix.upd2_pins_warmN]

end Sys2Proof.Machine
end

