-- ==== Sys2Proof/Laws/Requests.lean ====
section
/-! SUPPORT. A request in its turn, and a write that meets R369: what they come to. -/

namespace Sys2Proof.Machine

theorem ahead_same (e : Word) : ahead e e = 0 := by simp [ahead]

/-- A request in its turn is executed at once, and its response is kept. -/
theorem State.hostReq_turn {s : State} {r : Req} (h : Turn s r) (type : Nat) (cmd : Instr) (body : State → Nat × Bytes × State) :
    s.hostReq r type cmd body =
      (body (s.turned r)).2.2.respond r type (body (s.turned r)).1 (body (s.turned r)).2.1 true := by
  unfold State.hostReq
  simp only [h.up, h.normal, h.holder, h.seq, ahead_same, Bool.not_true, Bool.false_eq_true, if_false, Bool.false_and,
    beq_self_eq_true, if_true]
  rfl

/-- A write that meets R369 to an object in force at once that is not persisted. -/
theorem State.writeObj_meets {s : State} {r : ObjRow} {k : Nat} {w : WriteRule} {v : Val} (h : Writes s r k w v)
    (n : s.recovering = false) (a1 : r.access ≠ 1) (a4 : r.access ≠ 4) (c : r.aclass % 8 = 0) (d f : Bool) :
    s.writeObj r k w v d f = (w.answer s v, w.apply s v) := by
  have c4 : r.aclass % 4 = 0 := by omega
  unfold State.writeObj
  simp [h.range, h.check, h.free, h.owner, h.pre, n, a1, a4, c]
  simp [State.moment, c4, St.stateConflict]

/-- A write of a command object in its turn. -/
theorem State.hostWrite_turn {s : State} {w : CmdW} {r : ObjRow} {k : Nat} {rule : WriteRule} (t : Turn s w.req)
    (h : Writes ((s.turned w.req).touch (r.key k) true) r k rule (.num w.value)) (a1 : r.access ≠ 1) (a4 : r.access ≠ 4)
    (c : r.aclass % 8 = 0) (cmd : Instr) :
    s.hostWrite cmd w r k rule =
      (rule.apply ((s.turned w.req).touch (r.key k) true) (.num w.value)).respond w.req 0x11
        (rule.answer ((s.turned w.req).touch (r.key k) true) (.num w.value)) [] true := by
  unfold State.hostWrite
  rw [State.hostReq_turn t]
  have n : ((s.turned w.req).touch (r.key k) true).recovering = false := t.normal
  simp only [State.writeObj_meets h n a1 a4 c]

/-- A write of a BLOB object in its turn. -/
theorem State.hostBlob_turn {s : State} {w : BlobW} {r : ObjRow} {k : Nat} {rule : WriteRule} (t : Turn s w.req)
    (h : Writes ((s.turned w.req).touch (r.key k) true) r k rule (.blob w.bytes)) (a1 : r.access ≠ 1) (a4 : r.access ≠ 4)
    (c : r.aclass % 8 = 0) (cmd : Instr) :
    s.hostBlob cmd w r k rule =
      (rule.apply ((s.turned w.req).touch (r.key k) true) (.blob w.bytes)).respond w.req 0x11
        (rule.answer ((s.turned w.req).touch (r.key k) true) (.blob w.bytes)) [] true := by
  unfold State.hostBlob
  rw [State.hostReq_turn t]
  have n : ((s.turned w.req).touch (r.key k) true).recovering = false := t.normal
  simp only [State.writeObj_meets h n a1 a4 c]

end Sys2Proof.Machine
end

