-- ==== Sys2Proof/Laws/Host.lean ====
section
/-! SUPPORT. Host requests, dictionary writes, the mailbox and what they leave due. -/

namespace Sys2Proof.Machine

theorem ahead_ne {e q : Word} (h : q ≠ e) : (ahead e q == 0) = false := by
  simp only [ahead, beq_eq_false_iff_ne, ne_eq]
  intro k
  apply h
  bv_omega

theorem State.hostReq_elsewhere (s : State) (r : Req) (type : Nat) (cmd : Instr) (body : State → Nat × Bytes × State) (a : s.hostUp = true) (b : s.recovering = false)
    (h : s.holder r = false) : s.hostReq r type cmd body = s.respond r type (if s.link.lease = .held then St.leaseHeld else St.leaseExpired) [] false := by
  unfold State.hostReq
  rw [a, b, h]
  simp only [Bool.not_true, Bool.not_false, Bool.false_eq_true, if_false, Bool.false_and, if_true, beq_iff_eq]

theorem State.hostReq_outOfTurn (s : State) (r : Req) (type : Nat) (cmd : Instr) (body : State → Nat × Bytes × State) (a : s.hostUp = true) (b : s.recovering = false)
    (h : s.holder r = true) (e : Word) (he : s.link.expected = some e) (x : r.seq ≠ e) : s.hostReq r type cmd body =
    (match s.link.stored.find? (fun x => x.seq == r.seq) with
      | some x => { s with link := { s.link with tx := s.link.tx ++ [{ x with sa := s.txSa }] } }
      | none =>
        if ahead e r.seq ≤ 64 then
          if s.link.held.any (fun h => h.1 == r.seq) then s
          else { s with link := { s.link with held := s.link.held ++ [(r.seq, cmd, s.clk.now)] } }
        else s.count Obj.hlSeqDiscard) := by
  unfold State.hostReq
  have g : s.link.expected.getD r.seq = e := by rw [he]; rfl
  rw [a, b, h]
  dsimp only
  rw [g, ahead_ne x]
  simp only [Bool.not_true, Bool.false_eq_true, if_false, Bool.false_and] <;> rfl

theorem pickSession_new (v p : Nat) (hp : p < 2 ^ 32) : pickSession v p < 2 ^ 32 ∧ pickSession v p ≠ 0 ∧ pickSession v p ≠ p := by
  unfold pickSession
  split
  · next h => simp at h; subst h; have := Nat.mod_lt v (show 0 < 2 ^ 32 - 1 by decide); omega
  · next h =>
    simp at h
    have := Nat.mod_lt v (show 0 < 2 ^ 32 - 2 by decide)
    split <;> omega

theorem memPre_ok (s : State) (r : Req) (n : Nat) (h1 : 1 ≤ n) (h2 : n ≤ 1408) (h3 : s.rst.memHeld = false) : (s.turned r).memPre n = 0 := by
  have h3' : (s.turned r).rst.memHeld = false := h3
  unfold State.memPre
  rw [if_neg (by simp; omega), h3']; rfl

theorem memRead_not (s : State) (r : Req) (a n : Nat) (h1 : 1 ≤ n) (h2 : n ≤ 1408) (h3 : s.rst.memHeld = false) (h : s.pagesOk (fun e => e.hrd) a n = false) :
    memReadBody a n (s.turned r) = (St.pageRights, [], s.turned r) := by
  have h' : (s.turned r).pagesOk (fun e => e.hrd) a n = false := h
  unfold memReadBody
  rw [memPre_ok s r n h1 h2 h3]
  simp [h', St.ok]

theorem good_fold (s : State) : ∀ l : List Nat, (∀ b ∈ l, s.mem.badBlocks.contains (s.blockAt (b * 64)) = false) →
    l.foldl (fun (x : Bool × State) b => if x.1 then x.2.hostBlock (b * 64) else x) (true, s) = (true, s) := by
  intro l
  induction l with
  | nil => intro _; rfl
  | cons b r ih =>
    intro h
    have hb := h b (List.mem_cons_self ..)
    simp only [List.foldl_cons, if_true]
    have : s.hostBlock (b * 64) = (true, s) := by
      unfold State.hostBlock
      simp only [hb, Bool.not_false, if_true]
    rw [this]
    exact ih (fun c hc => h c (List.mem_cons_of_mem _ hc))

theorem memRead_ok (s : State) (r : Req) (a n : Nat) (h1 : 1 ≤ n) (h2 : n ≤ 1408) (h3 : s.rst.memHeld = false) (h : s.pagesOk (fun e => e.hrd) a n = true)
    (y : ∀ b ∈ blocksOf a n, s.mem.badBlocks.contains (s.blockAt (b * 64)) = false) :
    memReadBody a n (s.turned r) = (St.ok, (s.turned r).readBytes a n, s.turned r) := by
  have h' : (s.turned r).pagesOk (fun e => e.hrd) a n = true := h
  unfold memReadBody
  rw [memPre_ok s r n h1 h2 h3]
  have y' : ∀ b ∈ blocksOf a n, (s.turned r).mem.badBlocks.contains ((s.turned r).blockAt (b * 64)) = false := y
  simp only [h', St.ok, bne_self_eq_false, Bool.false_eq_true, if_false, Bool.not_true, State.hostRead, good_fold _ _ y', if_true]

theorem memWrite_not (s : State) (r : Req) (a : Nat) (b : Bytes) (h1 : 1 ≤ b.length) (h2 : b.length ≤ 1408) (h3 : s.rst.memHeld = false) (h : s.pagesOk (fun e => e.hwr) a b.length = false) :
    memWriteBody a b (s.turned r) = (St.pageRights, [], s.turned r) := by
  have h' : (s.turned r).pagesOk (fun e => e.hwr) a b.length = false := h
  unfold memWriteBody
  rw [memPre_ok s r _ h1 h2 h3]
  simp [h', St.ok]

theorem memWrite_ok (s : State) (r : Req) (a : Nat) (b : Bytes) (h1 : 1 ≤ b.length) (h2 : b.length ≤ 1408) (h3 : s.rst.memHeld = false) (h : s.pagesOk (fun e => e.hwr) a b.length = true) :
    memWriteBody a b (s.turned r) = ((State.hostWriteBlocks a b (blocksOf a b.length) (s.turned r)).1, [], (State.hostWriteBlocks a b (blocksOf a b.length) (s.turned r)).2) := by
  have h' : (s.turned r).pagesOk (fun e => e.hwr) a b.length = true := h
  unfold memWriteBody
  rw [memPre_ok s r _ h1 h2 h3]
  simp only [h', St.ok, bne_self_eq_false, Bool.false_eq_true, if_false, Bool.not_true]

theorem resultRead_st (s : State) (r : Req) (h off n : Nat) (h1 : 1 ≤ n) (h2 : n ≤ 1408) (h3 : s.rst.memHeld = false) :
    resultReadBody h off n (s.turned r) = (if s.handleFinds h = 3 then (St.range, [], s.turned r) else if s.handleFinds h = 2 then (St.released, [], s.turned r)
      else if s.handleFinds h = 0 then (St.notReady, [], s.turned r)
      else if (tget Buf.free (s.ctx (handleCtx h)).bufs (handleIdx h)).readable < off + n then (St.range, [], s.turned r)
      else (s.turned r).hostRead ((s.turned r).bufAddr (handleCtx h) (handleIdx h) + off) n) := by
  have e : (s.turned r).handleFinds h = s.handleFinds h := rfl
  have e2 : (s.turned r).ctx (handleCtx h) = s.ctx (handleCtx h) := rfl
  unfold resultReadBody
  rw [memPre_ok s r _ h1 h2 h3, e, e2]
  simp only [St.ok, bne_self_eq_false, Bool.false_eq_true, if_false, beq_iff_eq]

theorem State.writeObj_passes (s : State) (r : ObjRow) (k : Nat) (w : WriteRule) (v : Val) (fo : Bool) (rc : s.recovering = false) (defer : Bool)
    (a : r.access ≠ 1) (a4 : r.access ≠ 4) (b : (r.inRange v && w.check s v) = true) (c : s.work.deferred.any (fun d => d.key == r.key k) = false)
    (d : s.runs r.owner = true ∧ (r.aclass % 8 < 4 ∨ s.runs P.btp = true)) :
    s.writeObj r k w v defer fo = (
    if w.pre s v == St.stateConflict && defer then s.hold r k v
    else if w.pre s v != 0 then (w.pre s v % 2 ^ 16, s)
    else if r.aclass % 4 == 1 && s.setFull (r.key k) then (St.busy, s)
    else if 4 ≤ r.aclass % 8 then
      match s.commitRec { index := r.index k, sub := r.subAt k, otype := r.otype, wseq := 0, value := r.stored v } fo with
      | none => (St.unavailable, s.count Obj.persFail)
      | some t => (w.answer s v, t.moment r k w v)
    else (w.answer s v, s.moment r k w v)) := by
  have a4' : (r.access == 4 && (List.range 6).any (fun n => (s.slice n).run.isSome)) = false := by simp [a4]
  have o : (!s.runs r.owner || (decide (4 ≤ r.aclass % 8) && !s.runs P.btp)) = false := by
    obtain ⟨d1, d2⟩ := d
    rcases d2 with d2 | d2 <;> simp [d1, d2] <;> omega
  have a1 : (r.access == 1) = false := by simp [a]
  unfold State.writeObj
  rw [rc, a1, b, c, o]
  simp only [a4', Bool.false_and, Bool.false_eq_true, if_false, Bool.not_true] <;> rfl

theorem isIdent_holder {s : State} {w : DictW} (h : s.holder w.req = true) : (isIdent w && !s.holder w.req) = false := by simp [h]

theorem dictWrite_turn {s : State} {w : DictW} {r : ObjRow} {k : Nat} (ht : Turn s w.req) (hf : findObj w.index.toNat w.sub.toNat = some (r, k)) (cmd : Instr) :
    s.dictWrite w cmd = (((s.taken w.req r k).writeFound r k w).2.respond w.req 0x11 ((s.taken w.req r k).writeFound r k w).1 [] true) := by
  have n : (s.turned w.req).recovering = false := ht.normal
  unfold State.dictWrite
  rw [isIdent_holder ht.holder]
  simp only [Bool.false_eq_true, if_false]
  rw [State.hostReq_turn ht]
  simp only [dictWriteBody, n, Bool.false_and, Bool.false_eq_true, if_false, hf]

theorem State.segment_runsOn (t : State) (key off : Nat) (last : Bool) (b v : Bytes)
    (h : (off = 0 ∧ v = []) ∨ (off ≠ 0 ∧ ∃ t0, t.link.staged = some (key, v, t0) ∧ v.length = off ∧ t.clk.now ≤ t0 + 1000 * ms)) :
    t.segment key off last b = if last then .complete (v ++ b) else .more (v ++ b) := by
  unfold State.segment
  rcases h with ⟨h, e⟩ | ⟨h, t0, e, l, m⟩
  · subst h; subst e; simp
  · have h' : (off == 0) = false := by simpa using h
    simp only [h', Bool.false_eq_true, if_false, e, beq_self_eq_true, l, Bool.true_and, decide_eq_true m, if_true]

theorem State.segment_breaks (t : State) (key off : Nat) (last : Bool) (b : Bytes)
    (h : ¬ ∃ v : Bytes, (off = 0 ∧ v = []) ∨ (off ≠ 0 ∧ ∃ t0, t.link.staged = some (key, v, t0) ∧ v.length = off ∧ t.clk.now ≤ t0 + 1000 * ms)) :
    t.segment key off last b = .bad := by
  have h0 : off ≠ 0 := fun e => h ⟨[], .inl ⟨e, rfl⟩⟩
  have h' : (off == 0) = false := by simpa using h0
  unfold State.segment
  simp only [h', Bool.false_eq_true, if_false]
  cases hs : t.link.staged with
  | none => rfl
  | some x =>
    obtain ⟨k, v, t0⟩ := x
    have : (k == key && v.length == off && decide (t.clk.now ≤ t0 + 1000 * ms)) = false := by
      rw [Bool.eq_false_iff]
      intro q
      simp only [Bool.and_eq_true, beq_iff_eq, decide_eq_true_eq] at q
      obtain ⟨⟨q1, q2⟩, q3⟩ := q
      exact h ⟨v, .inr ⟨h0, t0, by rw [hs, q1], q2, q3⟩⟩
    simp only [this, Bool.false_eq_true, if_false]

theorem find_mbCmd : findObj 0xF000 1 = some (Obj.mbCmd, 0) := by decide

theorem hostReq_write {s : State} {r : Req} (up : s.hostUp = true) (ho : s.holder r = true) (sq : s.link.expected.getD r.seq = r.seq)
    (cmd : Instr) (body : State → Nat × Bytes × State) :
    s.hostReq r 0x11 cmd body = (body (s.turned r)).2.2.respond r 0x11 (body (s.turned r)).1 (body (s.turned r)).2.1 true := by
  have c : (s.recovering && (0x11 : Nat) != 0x10 && (0x11 : Nat) != 0x11 && (0x11 : Nat) != 0x03 && (0x11 : Nat) != 0x02) = false := by
    cases s.recovering <;> decide
  unfold State.hostReq
  simp only [c, up, ho, sq, ahead_same, Bool.not_true, Bool.false_eq_true, if_false, Bool.false_and,
    beq_self_eq_true, if_true]
  rfl

theorem mbWrite_turn {s : State} {r : Req} (up : s.hostUp = true) (ho : s.holder r = true) (sq : s.link.expected.getD r.seq = r.seq)
    (fr : s.work.deferred.any (fun d => d.key == Obj.mbCmd.key 0) = false) (code : Nat) (hc : code ∈ mbCodes) (cmd : Instr) :
    s.dictWrite (mbWrite r code) cmd =
      ((((((s.taken r Obj.mbCmd 0).setStaged none).mbRun code).2.setNum Obj.mbStatus 0 (((s.taken r Obj.mbCmd 0).setStaged none).mbRun code).1).count Obj.mbSeq).respond r 0x11 St.ok [] true) := by
  have ho' : s.holder (mbWrite r code).req = true := ho
  unfold State.dictWrite
  rw [isIdent_holder ho']
  simp only [Bool.false_eq_true, if_false]
  show s.hostReq r 0x11 cmd _ = _
  rw [hostReq_write up ho sq]
  have rn : ((s.turned r).recovering && !recoveryIndex (mbWrite r code).index.toNat) = false := by
    have : recoveryIndex (mbWrite r code).index.toNat = true := by
      show recoveryIndex 0xF000 = true
      decide
    rw [this]; simp
  have hf : findObj (mbWrite r code).index.toNat (mbWrite r code).sub.toNat = some (Obj.mbCmd, 0) := find_mbCmd
  have body : dictWriteBody (mbWrite r code) (s.turned r) = (((s.taken r Obj.mbCmd 0).writeFound Obj.mbCmd 0 (mbWrite r code)).1, [], ((s.taken r Obj.mbCmd 0).writeFound Obj.mbCmd 0 (mbWrite r code)).2) := by
    simp only [dictWriteBody, rn, Bool.false_eq_true, if_false, hf]
  rw [body]
  have wf : (s.taken r Obj.mbCmd 0).writeFound Obj.mbCmd 0 (mbWrite r code) =
      (St.ok, ((((s.taken r Obj.mbCmd 0).setStaged none).mbRun code).2.setNum Obj.mbStatus 0 (((s.taken r Obj.mbCmd 0).setStaged none).mbRun code).1).count Obj.mbSeq) := by
    unfold State.writeFound
    have sg : (s.taken r Obj.mbCmd 0).segment (Obj.mbCmd.key 0) (mbWrite r code).offset (mbWrite r code).last (mbWrite r code).bytes = .complete (le 1 code) := by
      show (s.taken r Obj.mbCmd 0).segment (Obj.mbCmd.key 0) 0 true (le 1 code) = _
      rw [State.segment_runsOn _ _ _ _ _ [] (.inl ⟨rfl, rfl⟩)]; rfl
    rw [if_neg (by decide), if_neg (by show ¬ 1024 < (le 1 code).length; simp [le]), if_neg (by simp [mbWrite]), sg]
    have un : Obj.mbCmd.unwire (le 1 code) = some (.num code) := by
      simp only [mbCodes, List.mem_cons, List.not_mem_nil, or_false] at hc
      rcases hc with rfl | rfl | rfl | rfl | rfl | rfl <;> decide
    simp only [un]
    have wr : writeRule Obj.mbCmd 0 (mbWrite r code).flashOk (.num code) = mbCmdRule := by
      unfold writeRule
      rw [if_pos (by decide)]
    rw [wr]
    unfold State.writeObj
    have r1 : (((s.taken r Obj.mbCmd 0).setStaged none).recovering && !recoveryIndex (Obj.mbCmd.index 0)) = false := by
      have : recoveryIndex (Obj.mbCmd.index 0) = true := by decide
      rw [this]; simp
    have r2 : (Obj.mbCmd.inRange (.num code) && mbCmdRule.check ((s.taken r Obj.mbCmd 0).setStaged none) (.num code)) = true := by
      have c : mbCodes.contains code = true := by simpa using hc
      have m : Obj.mbCmd.inRange (.num code) = true := by
        simp only [mbCodes, List.mem_cons, List.not_mem_nil, or_false] at hc
        rcases hc with rfl | rfl | rfl | rfl | rfl | rfl <;> decide
      rw [m]; exact c
    have r3 : ((s.taken r Obj.mbCmd 0).setStaged none).work.deferred.any (fun d => d.key == Obj.mbCmd.key 0) = false := fr
    have dx : s.runs P.dxp = true := by
      unfold State.hostUp at up
      simp only [Bool.and_eq_true] at up
      exact up.1.1.2
    have r4 : (!((s.taken r Obj.mbCmd 0).setStaged none).runs Obj.mbCmd.owner || (decide (4 ≤ Obj.mbCmd.aclass % 8) && !((s.taken r Obj.mbCmd 0).setStaged none).runs P.btp)) = false := by
      have : ((s.taken r Obj.mbCmd 0).setStaged none).runs Obj.mbCmd.owner = true := dx
      rw [this]
      have : decide (4 ≤ Obj.mbCmd.aclass % 8) = false := by decide
      rw [this]; rfl
    rw [r1, r2, r3, r4]
    rfl
  rw [wf]

theorem summary_ne (t : State) : t.summary.1 ≠ [] := by
  unfold State.summary
  dsimp only
  split <;> simp [sealSummary, le]

theorem mbRun_part (t : State) (h : fld (t.blob Obj.mbArg) 0 4 = 0) (hn : t.summary.1 ≠ []) : t.mbRun 2 =
    (St.ok, ({ t.summary.2 with link := { t.summary.2.link with part := t.summary.1 } } : State).mbPut (t.summary.1.take 1024)) := by
  have e : t.summary.1.length ≠ 0 := fun q => hn (List.length_eq_zero_iff.1 q)
  simp only [State.mbRun, State.mbPart, h]
  simp [cut, e]

theorem mbRun_nextPart (t : State) (h : fld (t.blob Obj.mbArg) 0 4 ≠ 0) (k : fld (t.blob Obj.mbArg) 0 4 < t.link.part.length) : t.mbRun 2 =
    (St.ok, t.mbPut (cut t.link.part (fld (t.blob Obj.mbArg) 0 4) 1024)) := by
  have h' : (fld (t.blob Obj.mbArg) 0 4 == 0) = false := by simpa using h
  show t.mbPart = _
  simp only [State.mbPart, h', Bool.false_eq_true, if_false]
  rw [if_neg (Nat.not_le.2 k)]

theorem mbRun_begin_normal (t : State) (h : t.recovering = false) : t.mbRun 0x10 = (St.stateConflict, t) := by
  show t.imageBegin _ = _
  simp [State.imageBegin, h]

theorem mbRun_data_normal (t : State) (h : t.recovering = false) : t.mbRun 0x11 = (St.stateConflict, t) := by
  show t.imageData _ _ = _
  simp [State.imageData, h]

theorem mbRun_end_normal (t : State) (h : t.recovering = false) : t.mbRun 0x12 = (St.stateConflict, t) := by
  show t.imageEnd = _
  simp [State.imageEnd, h]

theorem mbRun_begin (t : State) (h : t.recovering = true) (a : fld (t.blob Obj.mbArg) 0 1 ≤ 1) (b : 4096 ≤ fld (t.blob Obj.mbArg) 4 4) (c : fld (t.blob Obj.mbArg) 4 4 ≤ 33550336) :
    t.mbRun 0x10 = (St.ok, { t.eraseSlot (fld (t.blob Obj.mbArg) 0 1) with trust := { (t.eraseSlot (fld (t.blob Obj.mbArg) 0 1)).trust with image := some (fld (t.blob Obj.mbArg) 0 1, fld (t.blob Obj.mbArg) 4 4, 0) } }) := by
  show t.imageBegin _ = _
  unfold State.imageBegin
  rw [h]
  simp only [Bool.not_true, Bool.false_eq_true, if_false]
  rw [if_neg (by simp; omega)]

theorem mbRun_data (t : State) (h : t.recovering = true) {k len next : Nat} (e : t.trust.image = some (k, len, next)) (a : fld (t.blob Obj.mbArg) 0 4 = next) :
    t.mbRun 0x11 = (St.ok, { t.flashPut (slotBase k + next) ((t.blob Obj.mbData).take (min 1024 (len - next))) with trust := { (t.flashPut (slotBase k + next) ((t.blob Obj.mbData).take (min 1024 (len - next)))).trust with image := some (k, len, next + min 1024 (len - next)) } }) := by
  show t.imageData _ _ = _
  unfold State.imageData
  rw [h, e, a]
  simp only [Bool.not_true, Bool.false_eq_true, if_false, bne_self_eq_false]

theorem mbRun_data_gap (t : State) (h : t.recovering = true) {k len next : Nat} (e : t.trust.image = some (k, len, next)) (a : fld (t.blob Obj.mbArg) 0 4 ≠ next) :
    t.mbRun 0x11 = (St.range, t) := by
  show t.imageData _ _ = _
  unfold State.imageData
  rw [h, e]
  simp only [Bool.not_true, Bool.false_eq_true, if_false, bne_iff_ne.2 a, if_true]

theorem mbRun_end_short (t : State) (h : t.recovering = true) {k len next : Nat} (e : t.trust.image = some (k, len, next)) (a : next < len) :
    t.mbRun 0x12 = (St.range, t) := by
  show t.imageEnd = _
  unfold State.imageEnd
  rw [h, e]
  simp only [Bool.not_true, Bool.false_eq_true, if_false, a, if_true]

theorem mbRun_end (t : State) (h : t.recovering = true) {k len next : Nat} (e : t.trust.image = some (k, len, next)) (a : len ≤ next) :
    t.mbRun 0x12 = ((t.checkSlot k).1, { (t.checkSlot k).2 with trust := { (t.checkSlot k).2.trust with image := none } }) := by
  show t.imageEnd = _
  unfold State.imageEnd
  rw [h, e]
  simp only [Bool.not_true, Bool.false_eq_true, if_false, Nat.not_lt.2 a]

theorem mbRun_due (t : State) (h : t.fw.due = none) (r : Req) :
    (((((t.mbRun 3).2.setNum Obj.mbStatus 0 (t.mbRun 3).1).count Obj.mbSeq).respond r 0x11 St.ok [] true)).runDue =
    (((t.setNum Obj.mbStatus 0 St.ok).count Obj.mbSeq).respond r 0x11 St.ok [] true).warmReset 3 none := by
  have e : ((((t.mbRun 3).2.setNum Obj.mbStatus 0 (t.mbRun 3).1).count Obj.mbSeq).respond r 0x11 St.ok [] true) =
    { (((t.setNum Obj.mbStatus 0 St.ok).count Obj.mbSeq).respond r 0x11 St.ok [] true) with fw := { t.fw with due := some (.warm 3) } } := by
    rfl
  rw [e]
  unfold State.runDue
  have h' : ({ t.fw with due := none } : Firmware) = t.fw := by
    cases hf : t.fw; rw [hf] at h; simp at h; subst h; rfl
  dsimp only
  rw [h']
  rfl

theorem Firmware.noDue (t : State) (h : t.fw.due = none) : ({ t.fw with due := none } : Firmware) = t.fw := by
  cases hf : t.fw; rw [hf] at h; simp at h; subst h; rfl

/-- The due request of an answered write. -/
theorem State.runDue_due (t : State) (h : t.fw.due = none) (r : Req) (d : Due) (st : Nat) :
    ((({ t with fw := { t.fw with due := some d } } : State).respond r 0x11 st [] true)).runDue =
    (match d with
      | .restart p c => (t.respond r 0x11 st [] true).beginRestart p c
      | .activate tg k => (t.respond r 0x11 st [] true).beginActivation tg k
      | .warm c => (t.respond r 0x11 st [] true).warmReset c none) := by
  have e : (({ t with fw := { t.fw with due := some d } } : State).respond r 0x11 st [] true) =
    { t.respond r 0x11 st [] true with fw := { t.fw with due := some d } } := rfl
  rw [e]
  unfold State.runDue
  dsimp only
  rw [Firmware.noDue t h]
  rfl

theorem commitRec_ok (t : State) (r : PersRec) : ∃ u, t.commitRec r true = some u := by
  unfold State.commitRec; simp; split <;> exact ⟨_, rfl⟩

theorem postEvent_stream (s : State) (c k : Nat) (b : Bytes) (n : Nat) : (s.postEvent c k b).stream n = s.stream n := by
  show tget _ (s.postEvent c k b).media.streams n = _
  simp [State.stream]

theorem placePage_media {s t : State} {n : Nat} {e : Entry} (q : s.placePage n e = some t) : t.media = s.media := by
  unfold State.placePage at q
  split at q
  · simp at q
  · dsimp only at q
    split at q
    · simp only [Option.some.injEq] at q; subst q; rfl
    · split at q
      · simp at q
      · simp only [Option.some.injEq] at q; subst q; rfl

theorem placePages_media {e : Entry} (k : Nat) : ∀ {s t : State} {n : Nat}, s.placePages e n k = some t → t.media = s.media := by
  induction k with
  | zero => intro s t n q; simp only [State.placePages, Option.some.injEq] at q; rw [q]
  | succ k ih =>
    intro s t n q
    simp only [State.placePages] at q
    split at q
    · cases q
    · rw [ih q, placePage_media (by assumption)]

theorem alloc_media {s t : State} {n p : Nat} {e : Entry} (q : s.alloc n e = some (p, t)) : t.media = s.media := by
  revert q
  unfold State.alloc
  generalize (n * if e.mirror = true then 2 else 1) = m
  split
  · intro q; cases q
  · split
    · intro q; cases q
    · intro q
      simp only [Option.map_eq_some_iff, Prod.mk.injEq] at q
      obtain ⟨u, hu, -, rfl⟩ := q
      exact placePages_media _ hu

theorem freePages_media (k : Nat) : ∀ (s : State) (n : Nat), (s.freePages n k).media = s.media := by
  induction k with
  | zero => intro s n; rfl
  | succ k ih =>
    intro s n
    show ((s.freePage n).freePages (n + 1) k).media = _
    rw [ih]
    have a : (s.abandonMig n).media = s.media := by
      unfold State.abandonMig
      split
      · rfl
      · dsimp only
        show (ite _ _ _ : State).media = s.media
        split <;> rfl
    rw [← a]
    unfold State.freePage
    dsimp only
    generalize s.abandonMig n = t
    have b : (if (t.entry n).backed = true then t.retireSlot (t.entry n).channel (t.entry n).slot else t).media = t.media := by
      split <;> rfl
    generalize (if (t.entry n).backed = true then t.retireSlot (t.entry n).channel (t.entry n).slot else t) = u at b ⊢
    rw [← b]
    cases tfind u.mem.mirrors n <;> rfl

theorem dropSets_ing (s : State) (n : Nat) : ((s.dropSets n).stream n).ing = (s.stream n).ing := by
  unfold State.dropSets
  repeat' split
  all_goals simp [State.modStream, State.setStream, State.stream, freePages_media]

/-- Giving a stream's output sets back or anew leaves its ingest as it was. -/
theorem reclaimSets_ing (s : State) (n : Nat) : ((s.reclaimSets n).stream n).ing = (s.stream n).ing := by
  unfold State.reclaimSets
  dsimp only
  split
  · rfl
  · split
    · rfl
    · split
      · exact dropSets_ing s n
      · rw [State.modStream_stream]
        dsimp only
        cases h : (s.dropSets n).takeSets n _ true with
        | none => rfl
        | some t =>
          unfold State.takeSets at h
          extract_lets at h
          split at h
          · simp at h
          · rename_i q
            simp only [Option.some.injEq] at h
            subst h
            simp only [Option.getD_some, State.modStream_stream]
            rw [← dropSets_ing s n]
            simp only [State.stream, alloc_media q]

theorem noteDrop_media (s : State) (n : Nat) : (s.noteDrop n).media = s.media := by
  unfold State.noteDrop
  split <;> rfl

theorem dropUnit_fault (t : State) (n : Nat) (u : AccessUnit) (c : Nat) : ((t.dropUnit n u c).stream n).ing.fault = (t.stream n).ing.fault := by
  unfold State.dropUnit
  rw [postEvent_stream]
  have e : ∀ x : State, (x.noteDrop n).stream n = x.stream n := fun x => by simp only [State.stream, noteDrop_media]
  rw [e]
  unfold State.freeSet
  split
  · rfl
  · rw [reclaimSets_ing, State.modStream_stream]

end Sys2Proof.Machine
end

