-- ==== Sys2Proof/Laws/Journal.lean ====
section
/-! SUPPORT. Item records in the journal: what a change of an item leaves as it was. -/

namespace Sys2Proof.Machine

theorem State.writeBlock_eq (s : State) (a : Nat) (b : Bytes) : s.writeBlock a b = { s with mem := (s.writeBlock a b).mem } := by
  unfold State.writeBlock
  rw [State.writeBytes_eq]

theorem State.writeBlock_mem (s : State) (a : Nat) (b : Bytes) :
    (s.writeBlock a b).mem = { s.mem with bytes := (s.writeBlock a b).mem.bytes, badBlocks := (s.writeBlock a b).mem.badBlocks } := by
  unfold State.writeBlock
  have h := State.writeBytes_mem s a b
  generalize s.writeBytes a b = t at h ⊢
  dsimp only
  rw [h]

/-- A record written to the journal changes device memory alone, and there bytes and marks of bad blocks. -/
theorem State.journal_eq (s : State) (q n : Nat) (b : Bytes) : s.journal q n b = { s with mem := (s.journal q n b).mem } := by
  unfold State.journal
  split
  · exact State.writeBlock_eq _ _ _
  · rfl

theorem State.journal_mem (s : State) (q n : Nat) (b : Bytes) :
    (s.journal q n b).mem = { s.mem with bytes := (s.journal q n b).mem.bytes, badBlocks := (s.journal q n b).mem.badBlocks } := by
  unfold State.journal
  split
  · exact State.writeBlock_mem _ _ _
  · rfl

/-- Item n of queue q, changed by f. -/
def State.itemSet (s : State) (q n : Nat) (f : Item → Item) : State :=
  s.modQueue q (fun x => { x with items := x.items.map (fun i => if i.seq == n then f i else i) })

/-- A changed item is written to its queue, and its record to the journal. -/
theorem State.modItem_eq (s : State) (q n : Nat) (f : Item → Item) :
    s.modItem q n f = { s.itemSet q n f with mem := (s.modItem q n f).mem } := by
  unfold State.modItem
  dsimp only
  split
  · rfl
  · split
    · rfl
    · rw [State.journal_eq]; rfl

theorem State.modItem_mem (s : State) (q n : Nat) (f : Item → Item) :
    (s.modItem q n f).mem = { s.mem with bytes := (s.modItem q n f).mem.bytes, badBlocks := (s.modItem q n f).mem.badBlocks } := by
  unfold State.modItem
  dsimp only
  split
  · rfl
  · split
    · rfl
    · rw [State.journal_mem]; rfl

@[simp] theorem State.modItem_work (s : State) (q n : Nat) (f : Item → Item) : (s.modItem q n f).work = (s.itemSet q n f).work := by
  rw [State.modItem_eq]
@[simp] theorem State.modItem_queue (s : State) (q n : Nat) (f : Item → Item) :
    (s.modItem q n f).queue q = { s.queue q with items := (s.queue q).items.map (fun i => if i.seq == n then f i else i) } := by
  simp only [State.queue, State.modItem_work]
  exact State.modQueue_queue _ _ _
@[simp] theorem State.modItem_ctx (s : State) (q n : Nat) (f : Item → Item) (m : Nat) : (s.modItem q n f).ctx m = s.ctx m := by
  simp only [State.ctx, State.modItem_work]
  rfl
theorem State.modItem_queue_other (s : State) (q n m : Nat) (f : Item → Item) (h : m ≠ q) : (s.modItem q n f).queue m = s.queue m := by
  simp only [State.queue, State.modItem_work]
  exact State.modQueue_queue_other _ _ _ _ h

@[simp] theorem State.modItem_pending (s : State) (q n : Nat) (f : Item → Item) : (s.modItem q n f).pending = s.pending := by rw [State.modItem_eq]; rfl
@[simp] theorem State.modItem_clk (s : State) (q n : Nat) (f : Item → Item) : (s.modItem q n f).clk = s.clk := by rw [State.modItem_eq]; rfl
@[simp] theorem State.modItem_pins (s : State) (q n : Nat) (f : Item → Item) : (s.modItem q n f).pins = s.pins := by rw [State.modItem_eq]; rfl
@[simp] theorem State.modItem_rst (s : State) (q n : Nat) (f : Item → Item) : (s.modItem q n f).rst = s.rst := by rw [State.modItem_eq]; rfl
@[simp] theorem State.modItem_objs (s : State) (q n : Nat) (f : Item → Item) : (s.modItem q n f).objs = s.objs := by rw [State.modItem_eq]; rfl
@[simp] theorem State.modItem_isl (s : State) (q n : Nat) (f : Item → Item) : (s.modItem q n f).isl = s.isl := by rw [State.modItem_eq]; rfl
@[simp] theorem State.modItem_slices (s : State) (q n : Nat) (f : Item → Item) : (s.modItem q n f).slices = s.slices := by rw [State.modItem_eq]; rfl
@[simp] theorem State.modItem_harts (s : State) (q n : Nat) (f : Item → Item) : (s.modItem q n f).harts = s.harts := by rw [State.modItem_eq]; rfl
@[simp] theorem State.modItem_clusters (s : State) (q n : Nat) (f : Item → Item) : (s.modItem q n f).clusters = s.clusters := by rw [State.modItem_eq]; rfl
@[simp] theorem State.modItem_tasks (s : State) (q n : Nat) (f : Item → Item) : (s.modItem q n f).tasks = s.tasks := by rw [State.modItem_eq]; rfl
@[simp] theorem State.modItem_peers (s : State) (q n : Nat) (f : Item → Item) : (s.modItem q n f).peers = s.peers := by rw [State.modItem_eq]; rfl
@[simp] theorem State.modItem_media (s : State) (q n : Nat) (f : Item → Item) : (s.modItem q n f).media = s.media := by rw [State.modItem_eq]; rfl
@[simp] theorem State.modItem_link (s : State) (q n : Nat) (f : Item → Item) : (s.modItem q n f).link = s.link := by rw [State.modItem_eq]; rfl
@[simp] theorem State.modItem_safety (s : State) (q n : Nat) (f : Item → Item) : (s.modItem q n f).safety = s.safety := by rw [State.modItem_eq]; rfl
@[simp] theorem State.modItem_power (s : State) (q n : Nat) (f : Item → Item) : (s.modItem q n f).power = s.power := by rw [State.modItem_eq]; rfl
@[simp] theorem State.modItem_fw (s : State) (q n : Nat) (f : Item → Item) : (s.modItem q n f).fw = s.fw := by rw [State.modItem_eq]; rfl
@[simp] theorem State.modItem_trust (s : State) (q n : Nat) (f : Item → Item) : (s.modItem q n f).trust = s.trust := by rw [State.modItem_eq]; rfl
@[simp] theorem State.modItem_pers (s : State) (q n : Nat) (f : Item → Item) : (s.modItem q n f).pers = s.pers := by rw [State.modItem_eq]; rfl
@[simp] theorem State.modItem_freeCtr (s : State) (q n : Nat) (f : Item → Item) : (s.modItem q n f).freeCtr = s.freeCtr := by rw [State.modItem_eq]; rfl
@[simp] theorem State.modItem_slice (s : State) (q n : Nat) (f : Item → Item) (m : Nat) : (s.modItem q n f).slice m = s.slice m := by simp only [State.slice, State.modItem_slices]
@[simp] theorem State.modItem_hart (s : State) (q n : Nat) (f : Item → Item) (m : Nat) : (s.modItem q n f).hart m = s.hart m := by simp only [State.hart, State.modItem_harts]
@[simp] theorem State.modItem_cluster (s : State) (q n : Nat) (f : Item → Item) (m : Nat) : (s.modItem q n f).cluster m = s.cluster m := by simp only [State.cluster, State.modItem_clusters]
@[simp] theorem State.modItem_stream (s : State) (q n : Nat) (f : Item → Item) (m : Nat) : (s.modItem q n f).stream m = s.stream m := by simp only [State.stream, State.modItem_media]
@[simp] theorem State.modItem_peer (s : State) (q n : Nat) (f : Item → Item) (m : Nat) : (s.modItem q n f).peer m = s.peer m := by simp only [State.peer, State.modItem_peers]
@[simp] theorem State.modItem_proc (s : State) (q n : Nat) (f : Item → Item) (m : Nat) : (s.modItem q n f).proc m = s.proc m := by simp only [State.proc, State.modItem_fw]
@[simp] theorem State.modItem_pslice (s : State) (q n : Nat) (f : Item → Item) (m : Nat) : (s.modItem q n f).pslice m = s.pslice m := by simp only [State.pslice, State.modItem_power]
@[simp] theorem State.modItem_entry (s : State) (q n : Nat) (f : Item → Item) (m : Nat) : (s.modItem q n f).entry m = s.entry m := by
  simp only [State.entry]
  rw [State.modItem_mem]
@[simp] theorem State.modItem_chan (s : State) (q n : Nat) (f : Item → Item) (m : Nat) : (s.modItem q n f).chan m = s.chan m := by
  simp only [State.chan]
  rw [State.modItem_mem]
@[simp] theorem State.modItem_val (s : State) (q n : Nat) (f : Item → Item) (r : ObjRow) (m : Nat) : (s.modItem q n f).val r m = s.val r m := by
  simp only [State.val, State.modItem_objs]
@[simp] theorem State.modItem_num (s : State) (q n : Nat) (f : Item → Item) (r : ObjRow) (m : Nat) : (s.modItem q n f).num r m = s.num r m := by
  simp only [State.num, State.modItem_val]
@[simp] theorem State.modItem_blob (s : State) (q n : Nat) (f : Item → Item) (r : ObjRow) (m : Nat) : (s.modItem q n f).blob r m = s.blob r m := by
  simp only [State.blob, State.modItem_val]
@[simp] theorem State.writeBlock_pending (s : State) (k : Nat) (b : Bytes) : (s.writeBlock k b).pending = s.pending := by rw [State.writeBlock_eq]
@[simp] theorem State.writeBlock_clk (s : State) (k : Nat) (b : Bytes) : (s.writeBlock k b).clk = s.clk := by rw [State.writeBlock_eq]
@[simp] theorem State.writeBlock_pins (s : State) (k : Nat) (b : Bytes) : (s.writeBlock k b).pins = s.pins := by rw [State.writeBlock_eq]
@[simp] theorem State.writeBlock_rst (s : State) (k : Nat) (b : Bytes) : (s.writeBlock k b).rst = s.rst := by rw [State.writeBlock_eq]
@[simp] theorem State.writeBlock_objs (s : State) (k : Nat) (b : Bytes) : (s.writeBlock k b).objs = s.objs := by rw [State.writeBlock_eq]
@[simp] theorem State.writeBlock_isl (s : State) (k : Nat) (b : Bytes) : (s.writeBlock k b).isl = s.isl := by rw [State.writeBlock_eq]
@[simp] theorem State.writeBlock_slices (s : State) (k : Nat) (b : Bytes) : (s.writeBlock k b).slices = s.slices := by rw [State.writeBlock_eq]
@[simp] theorem State.writeBlock_harts (s : State) (k : Nat) (b : Bytes) : (s.writeBlock k b).harts = s.harts := by rw [State.writeBlock_eq]
@[simp] theorem State.writeBlock_clusters (s : State) (k : Nat) (b : Bytes) : (s.writeBlock k b).clusters = s.clusters := by rw [State.writeBlock_eq]
@[simp] theorem State.writeBlock_tasks (s : State) (k : Nat) (b : Bytes) : (s.writeBlock k b).tasks = s.tasks := by rw [State.writeBlock_eq]
@[simp] theorem State.writeBlock_peers (s : State) (k : Nat) (b : Bytes) : (s.writeBlock k b).peers = s.peers := by rw [State.writeBlock_eq]
@[simp] theorem State.writeBlock_work (s : State) (k : Nat) (b : Bytes) : (s.writeBlock k b).work = s.work := by rw [State.writeBlock_eq]
@[simp] theorem State.writeBlock_media (s : State) (k : Nat) (b : Bytes) : (s.writeBlock k b).media = s.media := by rw [State.writeBlock_eq]
@[simp] theorem State.writeBlock_link (s : State) (k : Nat) (b : Bytes) : (s.writeBlock k b).link = s.link := by rw [State.writeBlock_eq]
@[simp] theorem State.writeBlock_safety (s : State) (k : Nat) (b : Bytes) : (s.writeBlock k b).safety = s.safety := by rw [State.writeBlock_eq]
@[simp] theorem State.writeBlock_power (s : State) (k : Nat) (b : Bytes) : (s.writeBlock k b).power = s.power := by rw [State.writeBlock_eq]
@[simp] theorem State.writeBlock_fw (s : State) (k : Nat) (b : Bytes) : (s.writeBlock k b).fw = s.fw := by rw [State.writeBlock_eq]
@[simp] theorem State.writeBlock_trust (s : State) (k : Nat) (b : Bytes) : (s.writeBlock k b).trust = s.trust := by rw [State.writeBlock_eq]
@[simp] theorem State.writeBlock_pers (s : State) (k : Nat) (b : Bytes) : (s.writeBlock k b).pers = s.pers := by rw [State.writeBlock_eq]
@[simp] theorem State.writeBlock_freeCtr (s : State) (k : Nat) (b : Bytes) : (s.writeBlock k b).freeCtr = s.freeCtr := by rw [State.writeBlock_eq]
@[simp] theorem State.writeBlock_slice (s : State) (k : Nat) (b : Bytes) (m : Nat) : (s.writeBlock k b).slice m = s.slice m := by simp only [State.slice, State.writeBlock_slices]
@[simp] theorem State.writeBlock_hart (s : State) (k : Nat) (b : Bytes) (m : Nat) : (s.writeBlock k b).hart m = s.hart m := by simp only [State.hart, State.writeBlock_harts]
@[simp] theorem State.writeBlock_cluster (s : State) (k : Nat) (b : Bytes) (m : Nat) : (s.writeBlock k b).cluster m = s.cluster m := by simp only [State.cluster, State.writeBlock_clusters]
@[simp] theorem State.writeBlock_stream (s : State) (k : Nat) (b : Bytes) (m : Nat) : (s.writeBlock k b).stream m = s.stream m := by simp only [State.stream, State.writeBlock_media]
@[simp] theorem State.writeBlock_peer (s : State) (k : Nat) (b : Bytes) (m : Nat) : (s.writeBlock k b).peer m = s.peer m := by simp only [State.peer, State.writeBlock_peers]
@[simp] theorem State.writeBlock_proc (s : State) (k : Nat) (b : Bytes) (m : Nat) : (s.writeBlock k b).proc m = s.proc m := by simp only [State.proc, State.writeBlock_fw]
@[simp] theorem State.writeBlock_pslice (s : State) (k : Nat) (b : Bytes) (m : Nat) : (s.writeBlock k b).pslice m = s.pslice m := by simp only [State.pslice, State.writeBlock_power]
@[simp] theorem State.writeBlock_queue (s : State) (k : Nat) (b : Bytes) (m : Nat) : (s.writeBlock k b).queue m = s.queue m := by simp only [State.queue, State.writeBlock_work]
@[simp] theorem State.writeBlock_ctx (s : State) (k : Nat) (b : Bytes) (m : Nat) : (s.writeBlock k b).ctx m = s.ctx m := by simp only [State.ctx, State.writeBlock_work]
@[simp] theorem State.writeBlock_entry (s : State) (k : Nat) (b : Bytes) (m : Nat) : (s.writeBlock k b).entry m = s.entry m := by
  simp only [State.entry]
  rw [State.writeBlock_mem]
@[simp] theorem State.writeBlock_chan (s : State) (k : Nat) (b : Bytes) (m : Nat) : (s.writeBlock k b).chan m = s.chan m := by
  simp only [State.chan]
  rw [State.writeBlock_mem]
@[simp] theorem State.writeBlock_val (s : State) (k : Nat) (b : Bytes) (r : ObjRow) (m : Nat) : (s.writeBlock k b).val r m = s.val r m := by
  simp only [State.val, State.writeBlock_objs]
@[simp] theorem State.writeBlock_num (s : State) (k : Nat) (b : Bytes) (r : ObjRow) (m : Nat) : (s.writeBlock k b).num r m = s.num r m := by
  simp only [State.num, State.writeBlock_val]
@[simp] theorem State.writeBlock_blob (s : State) (k : Nat) (b : Bytes) (r : ObjRow) (m : Nat) : (s.writeBlock k b).blob r m = s.blob r m := by
  simp only [State.blob, State.writeBlock_val]

end Sys2Proof.Machine
end

