-- ==== Sys2Proof/Laws/Slots.lean ====
section
/-! SUPPORT. A slot command whose bundle opens or is open: what it comes to. -/

namespace Sys2Proof.Machine

/-- A next bundle that can issue does. -/
theorem State.tryIssue_of {s : State} {n : Nat} {i : Issue} (h : Issues (s.reached n i.cyc) n i) :
    s.tryIssue n i = (true, (s.reached n i.cyc).issueNow n i.cyc) := by
  have m : (((s.reached n i.cyc).slice n).seq.mode == .issuing || ((s.reached n i.cyc).slice n).seq.mode == .held) = true := by
    rcases h.mode with h | h <;> rw [h] <;> rfl
  have a : (s.reached n i.cyc).mayAdvance n i.cyc = true := by
    simp [State.mayAdvance, m, h.goes, h.placed, h.before, h.cycle, h.free]
  have b := h.header
  have c := h.ready
  unfold State.tryIssue
  unfold State.reached at a b c ⊢
  simp [a, b, c]

/-- The slot takes effect. -/
theorem State.slot_of {s t : State} {n k : Nat} {b : Option Issue} {w : DWord} (h : Slot s n b k w t) :
    s.slot n b k w = (true, t.slotDone n k) := by
  obtain ⟨hk, ho, o, h1, h2, h3, h4⟩ := h
  cases b with
  | none =>
    have ho : t = s := ho
    subst ho
    simp [State.slot, h1, h2, h3, h4, State.slotDone, State.modSeq, State.modSlice]
  | some i =>
    obtain ⟨hi, rfl⟩ := (ho : Issues (s.reached n i.cyc) n i ∧ t = (s.reached n i.cyc).issueNow n i.cyc)
    simp [State.slot, State.tryIssue_of hi, h1, h2, h3, h4, State.slotDone, State.modSeq, State.modSlice]

/-- A scalar operation whose slot takes effect. -/
theorem State.scl_of {s t : State} {n : Nat} {b : Option Issue} {w : DWord} (h : Slot s n b 24 w t) (op : Nat)
    (e : sclOp w.toNat = op) (f : State → State) : s.scl n b w op f = f (t.slotDone n 24) := by
  simp [State.scl, e, State.slot_of h]

end Sys2Proof.Machine
end

