-- ==== Sys2Proof/Laws/Items.lean ====
section
/-! SUPPORT. Queues, items, completions and replays. -/

namespace Sys2Proof.Machine

theorem bell_inTurn {s : State} {r : Req} (h : Turn s r) (cmd : Instr) (kind : Nat) (d : Doorbell) (st : Nat) (k : (s.turned r).bellCheck kind d = st) :
    s.doorbell r cmd kind d = s.rung r kind d st := by
  unfold State.doorbell
  rw [State.hostReq_turn h]
  simp only [State.bell, k]
  rfl

theorem addItem_mem (s : State) (q : Nat) (i : Item) : i ∈ ((s.addItem q i).queue q).items := by
  unfold State.addItem
  dsimp only
  rw [State.setNum_queue, State.modQueue_queue]
  exact List.mem_append_right _ (List.mem_singleton.2 rfl)

theorem pendRow_queue (s : State) (q n c : Nat) : ((s.pendRow q n c).queue q).items =
    (s.queue q).items.map (fun i => if i.seq == n then { i with batched := true } else i) := by
  simp [State.pendRow]

theorem pendRow_mem (s : State) (q n c : Nat) (i : Item) (h : i ∈ (s.queue q).items) (e : i.seq = n) :
    { i with batched := true } ∈ ((s.pendRow q n c).queue q).items := by
  rw [pendRow_queue]
  refine List.mem_map.2 ⟨i, h, ?_⟩
  simp [e]

theorem acceptFrame_item (t : State) (n q c g : Nat) (f : Frame) : ∃ i ∈ ((t.acceptFrame n q c g f).queue q).items,
    (t.acceptFrame n q c g f).num Obj.qLastAccepted q = i.seq ∧
        i.seq = t.num Obj.qLastAccepted q + 1 ∧
        i.job = 2 ^ 63 + n * 2 ^ 40 + tget 0 t.work.frameCounts n % 2 ^ 40 ∧
        i.deadline = some (f.sofMono + t.deadlineOf n f.epoch * ms) ∧ i.sof = f.sof ∧ i.epoch = f.epoch ∧
        i.stream = some n ∧ i.state = .accepted := by
  let i0 : Item := { Item.new (t.num Obj.qLastAccepted q + 1) (2 ^ 63 + n * 2 ^ 40 + tget 0 t.work.frameCounts n % 2 ^ 40)
        (t.streamEntry n c g (2 ^ 63 + n * 2 ^ 40 + tget 0 t.work.frameCounts n % 2 ^ 40) f) f.epoch f.sof f.sofMono t.clk.now (t.num Obj.qPrio q)
        (some (f.sofMono + t.deadlineOf n f.epoch * ms)) with stream := some n, ready := !t.isHead c, set := f.set, rflags := if f.tcause != 0 then 16 else 0 }
  let u := t.addItem q i0
  let w : State := { u with work := { u.work with frameCounts := tput u.work.frameCounts n (tget 0 t.work.frameCounts n + 1) } }
  let v := w.modStream n (fun x => { x with undecided := x.undecided ++ [(f.sofMono, f.sof, f.sofMono + t.deadlineOf n f.epoch * ms, f.epoch)] })
  have e : t.acceptFrame n q c g f = if v.isHead c then v.pendRow q i0.seq c else v := rfl
  have m : i0 ∈ (v.queue q).items := addItem_mem t q i0
  have nv : v.num Obj.qLastAccepted q = i0.seq := by
    show u.num Obj.qLastAccepted q = i0.seq
    simp [u, State.addItem]
  rw [e]
  split
  · have np : (v.pendRow q i0.seq c).num Obj.qLastAccepted q = i0.seq := by rw [← nv]; simp [State.pendRow]
    exact ⟨{ i0 with batched := true }, pendRow_mem v q _ c i0 m rfl, np, rfl, rfl, rfl, rfl, rfl, rfl, rfl⟩
  · exact ⟨i0, m, nv, rfl, rfl, rfl, rfl, rfl, rfl, rfl⟩

theorem command_takesUp {s : State} {q op : Nat} {i : Item} (h : TakesUp s q op i) (body : State → Item → State) :
    s.command q op body = (body s i).thenNext q := by
  unfold State.command
  rw [h.turn]
  simp only [h.holds, if_true]
  rfl

theorem command_conflict {s : State} {q op : Nat} {i : Item} (h : s.itemFor q op = some i) (k : s.holdsFor q i = false)
    (d : i.deferred = false) (body : State → Item → State) :
    s.command q op body = (s.finish q i.seq (Finish.plain St.stateConflict)).thenNext q := by
  unfold State.command
  rw [h]
  simp only [k, d, Bool.false_eq_true, if_false]
  rfl

theorem command_held {s : State} {q op : Nat} {i : Item} (h : s.itemFor q op = some i) (k : s.holdsFor q i = false)
    (d : i.deferred = true) (body : State → Item → State) :
    s.command q op body = s.thenNext q := by
  unfold State.command
  rw [h]
  simp only [k, d, Bool.false_eq_true, if_false, if_true]
  rfl

theorem lexLt_cotrans : ∀ (a b c : List Nat), a.length = b.length → b.length = c.length → lexLt a c = true → lexLt a b = true ∨ lexLt b c = true := by
  intro a
  induction a with
  | nil => intro b c _ _ h; cases c <;> cases h
  | cons x r ih =>
    intro b c h1 h2 h
    cases b with
    | nil => simp at h1
    | cons y t =>
      cases c with
      | nil => simp at h2
      | cons z u =>
        simp only [List.length_cons, Nat.add_right_cancel_iff] at h1 h2
        simp only [lexLt, Bool.or_eq_true, decide_eq_true_eq, Bool.and_eq_true, beq_iff_eq] at h ⊢
        rcases h with h | ⟨h, k⟩
        · omega
        · rcases ih t u h1 h2 k with w | w
          · by_cases e : x = y
            · exact .inl (.inr ⟨e, w⟩)
            · omega
          · by_cases e : y = z
            · exact .inr (.inr ⟨e, w⟩)
            · omega

theorem lexLt_irrefl : ∀ a : List Nat, lexLt a a = false := by
  intro a; induction a with
  | nil => rfl
  | cons x r ih => simp [lexLt, ih]

theorem lexLt_asymm : ∀ a b : List Nat, lexLt a b = true → lexLt b a = false := by
  intro a
  induction a with
  | nil => intro b h; cases h
  | cons x r ih =>
    intro b h
    cases b with
    | nil => rfl
    | cons y t =>
      simp only [lexLt, Bool.or_eq_true, decide_eq_true_eq, Bool.and_eq_true, beq_iff_eq] at h
      simp only [lexLt, Bool.or_eq_false_iff, decide_eq_false_iff_not, Bool.and_eq_false_iff, beq_eq_false_iff_ne]
      rcases h with h | ⟨h, k⟩
      · exact ⟨by omega, .inl (by omega)⟩
      · exact ⟨by omega, .inr (ih t k)⟩

theorem best_min : ∀ (l : List Cand) (c : Cand), best l = some c → c ∈ l ∧ ∀ d ∈ l, lexLt d.key c.key = false := by
  intro l
  induction l with
  | nil => intro c h; cases h
  | cons a r ih =>
    intro c h
    unfold best at h
    cases hb : best r with
    | none =>
      simp only [hb, Option.some.injEq] at h; subst h
      have : r = [] := by
        cases r with
        | nil => rfl
        | cons b q => unfold best at hb; split at hb <;> (try split at hb) <;> cases hb
      subst this
      simp [lexLt_irrefl]
    | some d =>
      obtain ⟨i1, i2⟩ := ih d hb
      simp only [hb] at h
      split at h
      · next lt =>
        simp only [Option.some.injEq] at h; subst h
        refine ⟨List.mem_cons_of_mem _ i1, fun e he => ?_⟩
        rcases List.mem_cons.1 he with rfl | he
        · exact lexLt_asymm _ _ lt
        · exact i2 e he
      · next lt =>
        simp only [Option.some.injEq] at h; subst h
        refine ⟨List.mem_cons_self, fun e he => ?_⟩
        rcases List.mem_cons.1 he with rfl | he
        · exact lexLt_irrefl _
        · cases z : lexLt e.key a.key with
          | false => rfl
          | true =>
            rcases lexLt_cotrans e.key d.key a.key rfl rfl z with w | w
            · rw [i2 e he] at w; cases w
            · exact absurd w lt

theorem completion_length (i : Item) (ph : Nat) : (i.completion ph).length = 64 := by
  unfold Item.completion
  cases i.detail with
  | none => simp only [List.length_append, le_length]
  | some d => simp only [List.length_append, le_length, pad, List.length_take, zeros, List.length_replicate]; omega

def requeue (s : State) (q n : Nat) (rd : Item → Bool) : State := s.modItem q n (fun i => { i with
      state := .accepted, attempt := i.attempt + 1, replayed := true, slice := none, handle := 0, waitFrom := none
      executing := false, ahead := false, spent := 0, recompute := none, segment := 0, left := none, bundles := 0
      batched := false, batch := none, ready := rd i })

theorem requeue_items (t : State) (q n : Nat) (rd : Item → Bool) (j : Item) (hj : j ∈ ((requeue t q n rd).queue q).items) (hs : j.seq = n) :
    j.state = .accepted ∧ j.replayed = true := by
  unfold requeue at hj
  rw [State.modItem_queue] at hj
  obtain ⟨j0, -, rfl⟩ := List.mem_map.1 hj
  split
  · exact ⟨rfl, rfl⟩
  · next hn => rw [if_neg hn] at hs; exact absurd (by simpa using hs) hn

theorem pendRow_keep (t : State) (q m n c : Nat) (h : ∀ j ∈ (t.queue q).items, j.seq = m → j.state = .accepted ∧ j.replayed = true) :
    ∀ j ∈ ((t.pendRow q n c).queue q).items, j.seq = m → j.state = .accepted ∧ j.replayed = true := by
  intro j hj hs
  rw [pendRow_queue] at hj
  obtain ⟨j0, hj0, rfl⟩ := List.mem_map.1 hj
  split at hs
  · next hn => rw [if_pos hn]; exact h j0 hj0 hs
  · next hn => rw [if_neg hn]; exact h j0 hj0 hs

theorem replayItem_eq (s : State) (q : Nat) (i : Item) (h : ¬ (i.state = .dispatched ∧ 3 ≤ i.runs)) :
    s.replayItem q i = (fun u : State => if i.stream.isSome && u.isHead i.context then u.pendRow q i.seq i.context else u)
      ((requeue (((s.unload i).dropBuf i.handle).dropStats q i.seq) q i.seq
        (fun j => j.stream.isSome && !((s.unload i).dropBuf i.handle).isHead j.context)).count Obj.replayedItems) := by
  have e : (i.state == .dispatched && decide (3 ≤ i.runs)) = false := by simpa using h
  unfold State.replayItem
  rw [e]
  rfl

/-- An item that runs again is accepted anew, as a replay. -/
theorem replayItem_items (s : State) (q : Nat) (i j : Item) (h : ¬ (i.state = .dispatched ∧ 3 ≤ i.runs))
    (hj : j ∈ ((s.replayItem q i).queue q).items) (hs : j.seq = i.seq) : j.state = .accepted ∧ j.replayed = true := by
  rw [replayItem_eq s q i h] at hj
  generalize ((s.unload i).dropBuf i.handle).dropStats q i.seq = t0 at hj
  generalize (fun j : Item => j.stream.isSome && !((s.unload i).dropBuf i.handle).isHead j.context) = rd at hj
  dsimp only at hj
  have k : ∀ j ∈ (((requeue t0 q i.seq rd).count Obj.replayedItems).queue q).items, j.seq = i.seq → j.state = .accepted ∧ j.replayed = true :=
    fun j hj hs => requeue_items t0 q i.seq rd j hj hs
  split at hj
  · exact pendRow_keep _ q i.seq i.seq i.context k j hj hs
  · exact k j hj hs

theorem foldl_halt (l : List Nat) (s : State) :
    (∀ m, (s.queue m).halted = true → ((l.foldl (fun s m => s.modQueue m (fun x => { x with halted := true })) s).queue m).halted = true) ∧
    (∀ m ∈ l, ((l.foldl (fun s m => s.modQueue m (fun x => { x with halted := true })) s).queue m).halted = true) := by
  induction l generalizing s with
  | nil => exact ⟨fun _ h => h, fun _ h => by cases h⟩
  | cons a r ih =>
    have k : ∀ m, (s.queue m).halted = true ∨ m = a → ((s.modQueue a (fun x => { x with halted := true })).queue m).halted = true := by
      intro m h
      by_cases e : m = a
      · subst e; simp [State.modQueue, State.setQueue, State.queue]
      · rcases h with h | h
        · simpa [State.modQueue, State.setQueue, State.queue, tget_tput_other _ _ _ _ _ e] using h
        · exact absurd h e
    refine ⟨fun m h => (ih _).1 m (k m (.inl h)), fun m h => ?_⟩
    rcases List.mem_cons.1 h with rfl | h
    · exact (ih _).1 _ (k _ (.inr rfl))
    · exact (ih _).2 m h

/-- The rows of a closed batch become ready. -/
theorem readyRows_same (b : Nat) (l : List DecodeRow) : ∀ v : State,
    ∀ w, l.foldl (fun s x => s.modItem x.queue x.seq (fun i => { i with ready := true, batch := some b })) v = w →
      (∀ c, w.ctx c = v.ctx c) ∧ w.objs = v.objs ∧ w.clk = v.clk := by
  induction l with
  | nil => intro v w h; subst h; exact ⟨fun _ => rfl, rfl, rfl⟩
  | cons x r ih =>
    intro v w h
    obtain ⟨h1, h2, h3⟩ := ih _ w h
    exact ⟨fun c => by rw [h1, State.modItem_ctx], by rw [h2, State.modItem_objs], by rw [h3, State.modItem_clk]⟩

/-- DECODE_BATCH_CLOSE takes the first rows up to the target, counts the batch, and waits for its bound, or for an earlier
time that the deadlines set, only while the batch is not full and no sequence of its rows is in progress (R45, R46). -/
theorem decodeClose (s : State) (c : CtxId) (going : Bool) (r : DecodeRow) (rest : List DecodeRow) (k : Package)
    (h1 : (s.ctx c).decode = r :: rest) (h2 : (s.ctx c).pkg = some k) :
    ∃ t, exec (.decodeBatchClose c going) s = .next t ∧
      (t.ctx c).decode = ((r :: rest).drop (min (r :: rest).length (pkgTarget k))).map
        (fun x => { x with bound := s.num Obj.decodeWait }) ∧
      t.num Obj.decodeBatches = min Obj.decodeBatches.sat (s.num Obj.decodeBatches + 1) ∧
      ((pkgTarget k ≤ (r :: rest).length ∨ going = true) → t.clk.now = s.clk.now) ∧
      (((r :: rest).length < pkgTarget k ∧ going = false) →
        t.clk.now = (s.advanceTo (((r :: rest).filterMap s.lastClose).foldl min (r.arrival + r.bound * ms))).clk.now) := by
  simp only [exec, execDecodeBatchClose, h1, h2]
  generalize hu : (if (decide (pkgTarget k ≤ (r :: rest).length) || going) = true then s
    else s.advanceTo (((r :: rest).filterMap s.lastClose).foldl min (r.arrival + r.bound * ms))) = u
  have uo : u.objs = s.objs := by subst hu; split <;> simp
  generalize hl : ((r :: rest).drop (min (r :: rest).length (pkgTarget k))).map (fun x => { x with bound := s.num Obj.decodeWait }) = left
  generalize hw : (List.foldl _ (u.modCtx c _) _ : State) = w
  obtain ⟨w1, w2, w3⟩ := readyRows_same _ _ _ _ hw
  have post : ∀ (v : State) (a b : Nat) (d : Bytes), (v.postEvent a b d).num Obj.decodeBatches = v.num Obj.decodeBatches :=
    fun v a b d => State.postEvent_num_other _ _ _ _ _ _ (by decide) (by decide)
  have k1 : Obj.decodeBatches.key 0 ≠ Obj.decodeRows.key 0 := by decide
  have k2 : Obj.decodeBatches.key 0 ≠ Obj.decodeFull.key 0 := by decide
  have wn : (w.num Obj.decodeBatches) = s.num Obj.decodeBatches := by
    simp only [State.num, State.val, w2, State.modCtx_objs, uo]
  refine ⟨_, rfl, ?_, ?_, ?_, ?_⟩
  · rw [State.postEvent_ctx]
    split
    · show (w.ctx c).decode = _
      rw [w1, State.modCtx_ctx]
    · show (w.ctx c).decode = _
      rw [w1, State.modCtx_ctx]
  · rw [post]
    have e : ∀ (v : State) (n : Nat), (v.count Obj.decodeRows 0 n).num Obj.decodeBatches = v.num Obj.decodeBatches :=
      fun v n => State.count_num_other _ _ _ _ _ _ k1
    have e2 : ∀ v : State, (v.count Obj.decodeFull).num Obj.decodeBatches = v.num Obj.decodeBatches :=
      fun v => State.count_num_other _ _ _ _ _ _ k2
    split
    · rw [e2, e, State.count_num]; show min _ (w.num Obj.decodeBatches + 1) = _; rw [wn]
    · rw [e, State.count_num]; show min _ (w.num Obj.decodeBatches + 1) = _; rw [wn]
  · intro h
    have h' : (decide (pkgTarget k ≤ (r :: rest).length) || going) = true := by
      simpa only [Bool.or_eq_true, decide_eq_true_eq] using h
    rw [if_pos h'] at hu
    rw [State.postEvent_clk]
    split <;> (show w.clk.now = _; rw [w3, State.modCtx_clk, ← hu])
  · intro h
    have h' : (decide (pkgTarget k ≤ (r :: rest).length) || going) = false := by
      simpa only [Bool.or_eq_false_iff, decide_eq_false_iff_not, Nat.not_le] using h
    rw [if_neg (by rw [h']; simp)] at hu
    rw [State.postEvent_clk]
    split <;> (show w.clk.now = _; rw [w3, State.modCtx_clk, ← hu])

theorem epochForget_waiting (u : State) (n : Nat) : ∀ e ∈ (u.epochForget n).work.epochs, n ∉ e.waiting := by
  intro e he
  have k : ∀ (l : List Epoch) (v : State), (l.foldl (fun s e => s.postEvent 0x000B 0xFFFF (le 4 e.num)) v).work = v.work := by
    intro l; induction l with
    | nil => intro v; rfl
    | cons a r ih => intro v; rw [List.foldl_cons, ih, State.postEvent_work]
  unfold State.epochForget State.completeEpochs at he
  dsimp only at he
  rw [k] at he
  dsimp only at he
  rw [List.mem_map] at he
  obtain ⟨e1, h1, rfl⟩ := he
  rw [List.mem_map] at h1
  obtain ⟨e2, -, rfl⟩ := h1
  split <;> simp

end Sys2Proof.Machine
end

