-- ==== Sys2Proof/Laws/Limits.lean ====
section
/-! SUPPORT. Power: temperatures, the estimate and the domains; causes and settling. -/

namespace Sys2Proof.Machine

theorem thermTime_tj (s : State) : s.thermTime.tj = s.tj := by
  have : s.thermTime.power.temps = s.power.temps := by simp only [State.thermTime, State.advanceTo_power]
  unfold State.tj; rw [this]

theorem thermTime_limit (s : State) : s.thermTime.num Obj.throttleC = s.num Obj.throttleC := State.advanceTo_num _ _ _ _

theorem capAbove_iff (s : State) (m : Nat) : s.capAbove m = true ↔ (s.num Obj.powerCap * 1000 < m ∨ s.power.regs.any (fun r => r.2.hot) = true) := by
  unfold State.capAbove
  rw [Bool.or_eq_true, decide_eq_true_eq]

theorem max_of_fold (l : List (Nat × Temp)) (b : Option Int) :
    (∀ v, b = some v → ∃ j, l.foldl (fun (a : Option Int) (t : Nat × Temp) => match a with | none => some t.2.milliC | some b => some (max b t.2.milliC)) b = some j ∧ v ≤ j) ∧
    (∀ x, x ∈ l → ∃ j, l.foldl (fun (a : Option Int) (t : Nat × Temp) => match a with | none => some t.2.milliC | some b => some (max b t.2.milliC)) b = some j ∧ x.2.milliC ≤ j) := by
  induction l generalizing b with
  | nil => exact ⟨fun v h => ⟨v, h, Int.le_refl _⟩, fun x h => by cases h⟩
  | cons y r ih =>
    refine ⟨fun v h => ?_, fun x h => ?_⟩
    · subst h
      obtain ⟨j, e, l⟩ := (ih (some (max v y.2.milliC))).1 _ rfl
      exact ⟨j, e, by omega⟩
    · rcases List.mem_cons.1 h with h | h
      · subst h
        cases b with
        | none => exact (ih _).1 _ rfl
        | some b =>
          obtain ⟨j, e, l⟩ := (ih (some (max b x.2.milliC))).1 _ rfl
          exact ⟨j, e, by omega⟩
      · exact (ih _).2 x h

theorem nextEstimate_le (s : State) (d : Nat) : s.nextEstimate d ≤ s.power.estUa + s.slewUa := by
  unfold State.nextEstimate; dsimp only; split
  · omega
  · split <;> omega

theorem nextEstimate_ge (s : State) (d : Nat) (a : s.power.clamp110 = false) (b : s.power.vrHot = false) (c : s.power.tripped = false) :
    s.power.estUa ≤ s.nextEstimate d + s.slewUa := by
  unfold State.nextEstimate; dsimp only; rw [a, b, c]; split
  · omega
  · simp only [Bool.or_self, Bool.false_eq_true, if_false]; omega

theorem nextEstimate_floor (s : State) (d : Nat) (h : s.floorUa ≤ s.power.estUa + s.slewUa) : s.floorUa ≤ s.nextEstimate d := by
  unfold State.nextEstimate; dsimp only; split
  · omega
  · split <;> omega

theorem grant_keeps_power (l : List (Nat × Nat)) (a : Nat × State) :
    (l.foldl State.grantOne a).2.clk = a.2.clk := by
  induction l generalizing a with
  | nil => rfl
  | cons x r ih =>
    rw [List.foldl_cons, ih]
    unfold State.grantOne
    dsimp only
    split
    · rfl
    · split
      · rfl
      · rfl

theorem domainOn_same (s t : State) (e : Nat) (h1 : t.rst = s.rst) (h2 : t.objs = s.objs) (h3 : t.slices = s.slices)
    (h4 : tget false t.power.domains e = tget false s.power.domains e) : t.domainOn e = s.domainOn e := by
  have n : ∀ r k, t.num r k = s.num r k := fun r k => by unfold State.num State.val; rw [h2]
  have p : ∀ n, t.slicePowered n = s.slicePowered n := fun k => by unfold State.slicePowered State.slice; rw [n, h3]
  have c : ∀ k, t.chInService k = s.chInService k := fun k => by unfold State.chInService; simp only [n]
  unfold State.domainOn; rw [h1, h4]; simp only [p, c, n]

theorem domainOn_of (t : State) (d : Nat) (sw : switched d = true) (h : t.rst.phase ≠ .powerReset) (g : tget false t.power.domains d = true)
    (k : d < 162 → t.slicePowered (d / 27) = true) : t.domainOn d = true := by
  have h' : (t.rst.phase == .powerReset) = false := by simpa using h
  unfold State.domainOn; rw [h', sw, g]
  by_cases x : d < 162
  · simp [k x]
  · simp only [decide_eq_true (Nat.not_lt.1 x), Bool.true_or, Bool.and_self, if_true, Bool.false_eq_true, if_false]

theorem settle_readByte (old s : State) (a : Nat) (h : ∀ p k, s.link.evBase = some (p, k) → ∀ i < 64, ¬ s.shares a (s.nextEvent p + i)) :
    (settle old s).readByte a = s.readByte a := by
  have post : ∀ b : Bytes, b.length ≤ 40 → ∀ c r, (s.postEvent c r b).readByte a = s.readByte a := by
    intro b hb c r
    unfold State.postEvent
    repeat' split
    · refine State.writeEvent_readByte _ _ _ _ _ _ ?_
      rw [eventEntry_length _ _ _ _ _ _ hb]
      exact h
    · rfl
    · rfl
  unfold settle
  dsimp only
  repeat' split
  · rw [State.sendSafety_readByte]; exact post _ (by simp) _ _
  · rw [State.sendSafety_readByte]
  · exact post _ (by simp) _ _
  · rfl

theorem State.leaveCause_bit (s : State) (b : Nat) (hb : b ≠ 0) (hb' : b < 8) (h : s.safety.causes.getLsbD 0 = true) :
    (s.leaveCause b).safety.causes.getLsbD 0 = true := by
  have k : (s.safety.causes &&& ~~~ BitVec.ofNat 8 (2 ^ b)).getLsbD 0 = true := by
    simp only [BitVec.getLsbD_and, BitVec.getLsbD_not, BitVec.getLsbD_ofNat, h]
    simp [Nat.testBit_two_pow]
    omega
  have n : ((s.safety.causes &&& ~~~ BitVec.ofNat 8 (2 ^ b)) == 0) = false := by
    rw [beq_eq_false_iff_ne]; intro z; rw [z] at k; simp at k
  unfold State.leaveCause
  dsimp only
  rw [n, Bool.and_false, if_neg (by decide)]
  exact k

end Sys2Proof.Machine
end

