-- ==== Sys2Proof/Laws/Placement.lean ====
section
/-! SUPPORT. Placement entries, cells and the sorter's choice. -/

namespace Sys2Proof.Machine

theorem minBy_none {α : Type} (f : α → Nat) : ∀ (l : List α), minBy f l = none → l = [] := by
  intro l h
  cases l with
  | nil => rfl
  | cons b q => unfold minBy at h; split at h <;> (try split at h) <;> cases h

theorem cget_filter (p : Host.Cell → Bool) (m : List Host.Cell) (a : Nat) (h : ∀ b, p (a, b) = true) : cget (m.filter p) a = cget m a := by
  induction m with
  | nil => rfl
  | cons x r ih =>
    obtain ⟨k, b⟩ := x
    by_cases q : p (k, b) = true
    · rw [List.filter_cons_of_pos q]; simp only [cget]; rw [ih]
    · rw [List.filter_cons_of_neg q, ih]
      have : k ≠ a := by rintro rfl; exact q (h b)
      simp [cget, this]

theorem cget_filter_out (p : Host.Cell → Bool) (m : List Host.Cell) (a : Nat) (h : ∀ b, p (a, b) = false) : cget (m.filter p) a = 0 := by
  induction m with
  | nil => rfl
  | cons x r ih =>
    obtain ⟨k, b⟩ := x
    by_cases q : p (k, b) = true
    · rw [List.filter_cons_of_pos q]
      have : k ≠ a := by rintro rfl; rw [h b] at q; cases q
      simp [cget, this, ih]
    · rw [List.filter_cons_of_neg q, ih]

theorem entry_setEntry_same (s : State) (n : Nat) (e : Entry) : (s.setEntry n e).entry n = e := by
  unfold State.setEntry State.entry
  by_cases h : e = Entry.zero
  · simp [h, tget]
  · simp [h]

theorem entry_setEntry_other (s : State) (n k : Nat) (e : Entry) (h : k ≠ n) : (s.setEntry n e).entry k = s.entry k := by
  unfold State.setEntry State.entry
  dsimp only
  split
  · exact tget_tdel_other _ _ _ _ h
  · exact tget_tput_other _ _ _ _ _ h

theorem copy_get (m : List Host.Cell) (a b n off : Nat) (h : off < n) (w : Memory.wf m = true) :
    cget (cputs m a (cgets m b n)) (a + off) = cget m (b + off) := by
  have l : (cgets m b n).length = n := by simp [cgets]
  rw [cget_cputs_same _ _ _ _ w (by rw [l]; exact h)]
  simp [cgets, h]

end Sys2Proof.Machine
end

