-- ==== Sys2Proof/Laws/Stores.lean ====
section
/-! SUPPORT. The tile store, tags and request bytes. -/

namespace Sys2Proof.Machine

theorem cgets_get (m : List Host.Cell) (a n i : Nat) (h : i < n) : (cgets m a n)[i]? = some (cget m (a + i)) := by
  simp [cgets, h]

theorem cgets_cputs_same (b : Bytes) (m : List Host.Cell) (a : Nat) (h : Memory.wf m = true) : cgets (cputs m a b) a b.length = b := by
  apply List.ext_getElem?
  intro i
  by_cases hi : i < b.length
  · rw [cgets_get _ _ _ _ hi, cget_cputs_same _ _ _ _ h hi]
    simp [hi]
  · simp [cgets, hi]

theorem cgets_cputs_other (b : Bytes) (m : List Host.Cell) (a k n : Nat) (h : k + n ≤ a ∨ a + b.length ≤ k) :
    cgets (cputs m a b) k n = cgets m k n := by
  unfold cgets
  refine List.map_congr_left fun i hi => ?_
  rw [List.mem_range] at hi
  exact cget_cputs_other _ _ _ _ (by omega)

theorem maskRow_length : ∀ (o d : Bytes) (m : List Bool), (maskRow o d m).length = o.length := by
  intro o
  induction o with
  | nil => intro d m; cases d <;> cases m <;> rfl
  | cons a r ih => intro d m; cases d <;> cases m <;> simp [maskRow, ih]

theorem row_length (x : Slice) (r : Int) : (x.row r).length = 128 := by
  unfold Slice.row Slice.ts
  split <;> simp [zeros, cgets]

theorem ins_sorted : ∀ (l : List Nat) (n : Nat), l.Pairwise (· < ·) → (ins l n).Pairwise (· < ·) := by
  intro l
  induction l with
  | nil => intro n _; simp [ins]
  | cons k r ih =>
    intro n h
    unfold ins
    have h' := List.pairwise_cons.1 h
    split
    · refine List.pairwise_cons.2 ⟨fun a ha => ?_, h⟩
      rcases List.mem_cons.1 ha with rfl | ha
      · assumption
      · have := h'.1 a ha; omega
    · split
      · exact h
      · refine List.pairwise_cons.2 ⟨fun a ha => ?_, ih n h'.2⟩
        rw [mem_ins] at ha
        rcases ha with rfl | ha
        · omega
        · exact h'.1 a ha

theorem lowestFree_free : ∀ (l : List Nat) (n : Nat), l.Pairwise (· < ·) → (∀ k ∈ l, n ≤ k) →
    n ≤ lowestFree n l ∧ lowestFree n l ∉ l := by
  intro l
  induction l with
  | nil => intro n _ _; simp [lowestFree]
  | cons k r ih =>
    intro n h g
    have h' := List.pairwise_cons.1 h
    have gk := g k List.mem_cons_self
    unfold lowestFree
    split
    · refine ⟨Nat.le_refl _, fun m => ?_⟩
      rcases List.mem_cons.1 m with e | m
      · omega
      · have := h'.1 n m; omega
    · obtain ⟨i1, i2⟩ := ih (k + 1) h'.2 (fun j hj => h'.1 j hj)
      refine ⟨by omega, fun m => ?_⟩
      rcases List.mem_cons.1 m with e | m
      · omega
      · exact i2 m

theorem foldl_ins (l : List Nat) : ∀ a : List Nat, a.Pairwise (· < ·) → (l.foldl ins a).Pairwise (· < ·) ∧ ∀ k, (k ∈ l ∨ k ∈ a) → k ∈ l.foldl ins a := by
  induction l with
  | nil => intro a h; exact ⟨h, fun k hk => by simpa using hk⟩
  | cons n r ih =>
    intro a h
    obtain ⟨i1, i2⟩ := ih (ins a n) (ins_sorted _ _ h)
    refine ⟨i1, fun k hk => i2 k ?_⟩
    rw [mem_ins]
    rcases hk with hk | hk
    · rcases List.mem_cons.1 hk with rfl | hk
      · exact .inr (.inl rfl)
      · exact .inl hk
    · exact .inr (.inr hk)

end Sys2Proof.Machine
end

