-- ==== Sys2Proof/Laws/Threads.lean ====
section
/-! SUPPORT. Sliver threads: a charged thread goes, and the frames of its steps. -/

namespace Sys2Proof.Machine

theorem thread_goes {s t : State} {k : Nat} {cyc : Cycles} (h : ThreadGoes s k cyc t) (f : State → State) : s.thread k cyc f = f t := by
  simp [State.thread, h.may, h.charged]

theorem modHart_modHart (s : State) (k : Nat) (f g : Hart → Hart) : (s.modHart k f).modHart k g = s.modHart k (fun h => g (f h)) := by
  simp [State.modHart, State.setHart, State.hart]

theorem retire_modHart (s : State) (k n : Nat) (f : Hart → Hart) : (s.modHart k f).retire k n = s.modHart k (fun h => (f h).retire n) := modHart_modHart _ _ _ _

theorem taskOf_find {s : State} {k key : Nat} {y : Task} (e : s.taskOf k = some (key, y)) : tfind s.tasks key = some y := by
  unfold State.taskOf at e
  split at e
  · cases e
  · next key' _ =>
    cases h : tfind s.tasks key' with
    | none => simp [h] at e
    | some z => simp [h] at e; rw [← e.1, h, e.2]

theorem passOn_harts (s : State) (k : Nat) : (s.passOn k).harts = s.harts := by unfold State.passOn; split <;> rfl

theorem passOn_tasks (s : State) (k : Nat) : (s.passOn k).tasks = s.tasks := by unfold State.passOn; split <;> rfl

theorem modTask_tasks (s : State) (key : Nat) (f : Task → Task) (j : Nat) (h : j ≠ key) : tfind (s.modTask key f).tasks j = tfind s.tasks j := by
  unfold State.modTask; split
  · rfl
  · exact tfind_tput_other _ _ _ _ h

theorem charge_frame {s t : State} {k : Nat} {cyc : Cycles} (h : s.charge k cyc = (true, t)) :
    (∀ key y, t.taskOf k = some (key, y) → ∀ j, j ≠ key → tfind t.tasks j = tfind s.tasks j) ∧ (∀ j, j ≠ k → tget Hart.init t.harts j = s.hart j) := by
  have mh : ∀ (z : State) (key : Nat) (f : Task → Task), (z.modTask key f).harts = z.harts := by intro z key f; unfold State.modTask; split <;> rfl
  unfold State.charge at h
  dsimp only at h
  have hh : ∀ j, j ≠ k → tget Hart.init (s.modHart k (fun h => { h with mcycle := h.mcycle + BitVec.ofNat 64 (cycNum cyc), last := cycLast cyc })).harts j = s.hart j := by
    intro j hj; simp only [State.modHart, State.setHart]; exact tget_tput_other _ _ _ _ _ hj
  split at h
  · simp only [Prod.mk.injEq, true_and] at h
    subst h
    exact ⟨fun _ _ _ _ _ => rfl, hh⟩
  · next key y e =>
    have sub : ∀ (g : Task → Task) (u : State), (s.modHart k (fun h => { h with mcycle := h.mcycle + BitVec.ofNat 64 (cycNum cyc), last := cycLast cyc })).modTask key g = u →
       (∀ key y, u.taskOf k = some (key, y) → ∀ j, j ≠ key → tfind u.tasks j = tfind s.tasks j) ∧ (∀ j, j ≠ k → tget Hart.init u.harts j = s.hart j) := by
      intro g u hu
      subst hu
      refine ⟨fun key' y' e' j hj => ?_, fun j hj => ?_⟩
      · have : key' = key := by
          unfold State.taskOf at e e'
          have hx : ((s.modHart k (fun h => { h with mcycle := h.mcycle + BitVec.ofNat 64 (cycNum cyc), last := cycLast cyc })).modTask key g).hart k = (s.modHart k (fun h => { h with mcycle := h.mcycle + BitVec.ofNat 64 (cycNum cyc), last := cycLast cyc })).hart k := by
            unfold State.hart; rw [mh]
          rw [hx] at e'
          cases q : ((s.modHart k (fun h => { h with mcycle := h.mcycle + BitVec.ofNat 64 (cycNum cyc), last := cycLast cyc })).hart k).task with
          | none => rw [q] at e; cases e
          | some z =>
            rw [q] at e e'
            simp only [Option.map_eq_some_iff, Prod.mk.injEq] at e e'
            obtain ⟨_, _, e1, _⟩ := e
            obtain ⟨_, _, e2, _⟩ := e'
            rw [← e1, ← e2]
        subst this
        exact modTask_tasks _ _ _ _ hj
      · rw [mh]; exact hh j hj
    split at h
    · simp only [Prod.mk.injEq, true_and] at h
      exact sub _ _ h
    · split at h
      · simp at h
      · simp only [Prod.mk.injEq, true_and] at h
        exact sub _ _ h

end Sys2Proof.Machine
end

