-- ==== Sys2Proof/Certificates/Slice0/Obligations.lean ====
section
/-! DEFINITION. The statements for the provers. -/

open Sys2Proof Sys2Proof.Machine

/-! ## The queue, the clock of an idle step, reset -/

/-- A step with a command in front is exec of it with the queue's rest. -/
def Obligations.StepRunsFront : Prop :=
  ∀ (c : Instr) (l : List Instr) (s : State), step { s with pending := c :: l } = exec c { s with pending := l }

/-- A step on an empty queue, with no held request of the session due: one period of REFCLK25 passes, and one entry
leaves the trace output's buffer (the model's choice, notes/assumptions/9.md). -/
def Obligations.IdleStep : Prop :=
  ∀ s : State, s.pending = [] → s.nextHeld = none →
    step s = .next (({ s with fw := { s.fw with traceOut := s.fw.traceOut.drop 1 } } : State).advanceTo (s.clk.now + 40))

/-- Every command in every state answers a next state: none ends in a fault or a refusal. -/
def Obligations.EveryCommandGoesOn : Prop :=
  ∀ (c : Instr) (s : State), ∃ t, exec c s = .next t

/-- After reset the lines report the safe state, cause 0 is active, no page is backed, every register of the dictionary
holds its row's default, and nothing waits. -/
def Obligations.ResetHolds : Prop :=
  State.reset.pins.safeA = false ∧ State.reset.pins.safeB = true ∧ State.reset.safety.causes = 1 ∧
  State.reset.safeStateNow = 2 ∧ State.reset.pending = [] ∧ State.reset.clk.now = 0 ∧
  (∀ (r : ObjRow) (k : Nat), State.reset.val r k = r.dflt) ∧
  (∀ n, (State.reset.entry n).backed = false) ∧ (∀ a, State.reset.readByte a = 0) ∧ State.reset.link.lease = .free

/-- Device memory and the boot flash have their canonical form after reset. -/
def Obligations.ResetKeepsForm : Prop :=
  State.reset.cellsWf = true

/-- Whatever a step does, time does not run back, the serial number and the root key stay, a blown fuse stays blown, and
the cells of device memory and of the flash keep their canonical form. -/
def Obligations.StepKeeps : Prop :=
  ∀ s t : State, step s = .next t → Keeps s t

/-- What follows a change of the reported state (the SAFE_STATE event, a CHANGE frame) changes no part of the state but
the event ring with its pointers and counters and the safety port; of memory it changes at most the 64 bytes of the
ring's next slot. -/
def Obligations.SettleFrame : Prop :=
  ∀ old s : State, let t := settle old s;
    t.pending = s.pending ∧ t.clk = s.clk ∧ t.pins = s.pins ∧ t.rst = s.rst ∧ t.isl = s.isl ∧ t.slices = s.slices ∧
    t.harts = s.harts ∧ t.clusters = s.clusters ∧ t.tasks = s.tasks ∧ t.peers = s.peers ∧ t.work = s.work ∧
    t.media = s.media ∧ t.power = s.power ∧ t.fw = s.fw ∧ t.trust = s.trust ∧ t.pers = s.pers ∧ t.freeCtr = s.freeCtr ∧
    t.safety.causes = s.safety.causes ∧ t.safety.since = s.safety.since ∧ t.mem.table = s.mem.table ∧
    (∀ (r : ObjRow) (k : Nat), r.key k ≠ Obj.evtTail.key 0 → r.key k ≠ Obj.evtLost.key 0 → r.key k ≠ Obj.spFrames.key 0 →
      t.val r k = s.val r k) ∧
    (∀ a, (∀ p k, s.link.evBase = some (p, k) → ∀ i < 64,
        ¬ s.shares a (p * pageBytes + 64 * (s.num Obj.evtTail % s.link.evDepth) + i)) →
      t.readByte a = s.readByte a)

/-- An event posted while none waits and the ring has room: its entry of R253 can be read at its slot, EVT_TAIL counts it,
the change timer runs, and no byte of memory outside the slot's cells changes. -/
def Obligations.EventEntryWritten : Prop :=
  ∀ (s : State) (code source : Nat) (b : Bytes) (p k : Nat),
    Memory.wf s.mem.bytes = true → s.link.evWait = [] → s.link.evDropped = 0 → s.link.evBase = some (p, k) →
    s.rst.memHeld = false → s.num Obj.evtTail + 1 < s.num Obj.evtHead + s.link.evDepth → b.length ≤ 40 →
    (s.entry ((p * pageBytes + 64 * (s.num Obj.evtTail % s.link.evDepth)) / pageBytes)).backed = true →
    let e := s.num Obj.evtTail + 1;
    let at' := p * pageBytes + 64 * (s.num Obj.evtTail % s.link.evDepth);
    let t := s.postEvent code source b;
    t.readBytes at' 64 = le 8 s.clk.lode ++ le 2 code ++ le 4 e ++ le 2 source ++ pad 40 b ++ zeros 7
      ++ le 1 (phase s.link.evDepth e) ∧
    t.num Obj.evtTail = e ∧ t.link.timer = some (s.link.timer.getD s.clk.now) ∧ t.link.changes = s.link.changes + 1 ∧
    (∀ a, (∀ i < 64, ¬ s.shares a (at' + i)) → t.readByte a = s.readByte a)

/-- No object that the persistent area keeps is longer than 1,024 bytes. -/
def Obligations.PersLengths : Prop :=
  ∀ r ∈ Obj.rows, 4 ≤ r.aclass % 8 → r.maxLen ≤ 1024

/-! ## Power, resets, islands -/

/-- Loss of PWRON_N or of a monitored rail: everything but OTP, flash, the persistent area, the pins' levels, the
monotonic count and the model's own queue and free-value counter stands as at reset; the lines report the safe state.

PWRON_N or the last monitored rail lets the device start: t0 is that instant, Lodestar time counts from 0, BOOTSEL is
sampled, a boot epoch other than 0 is drawn (a free value), and with no slot to boot from the device is in recovery
mode. While the other of the two still holds it the device does not start.

Each of these commands answers a next state here, under conditions on the state and the operands alone: pwronNDeassert,
railMonitorLow, pwronNAssert, railMonitorReturn. -/
def Obligations.PowerCycle : Prop :=
  (∀ s : State,
    (s.pins.pwronN = true →
      exec .pwronNAssert s = .next ({ s with pins := { s.pins with pwronN := false } } : State).powerOnReset) ∧
    (∀ rail : Fin 3, exec (.railMonitorLow rail) s =
      .next ({ s with pins := { s.pins with railsOk := s.pins.railsOk.set rail.val false } } : State).powerOnReset) ∧
    (let t := s.powerOnReset;
      t.objs = [] ∧ t.slices = State.reset.slices ∧ t.mem = State.reset.mem ∧ t.work = State.reset.work ∧
      t.media = State.reset.media ∧ t.link = State.reset.link ∧ t.fw = State.reset.fw ∧ t.rst.phase = .powerReset ∧
      t.safety.causes = 1 ∧ t.pins.safeA = false ∧ t.pins.safeB = true ∧ t.clk.lode = 0 ∧ t.clk.now = s.clk.now ∧
      t.trust.serial = s.trust.serial ∧ t.trust.rootKey = s.trust.rootKey ∧ t.trust.keyHash = s.trust.keyHash ∧
      t.trust.revoked = s.trust.revoked ∧ t.trust.instar = s.trust.instar ∧ t.trust.flash = s.trust.flash ∧ t.pers = s.pers)) ∧
  (∀ (env : BootEnv) (s : State),
    (s.pins.pwronN = false → s.pins.railsOk.all id = true →
      exec (.pwronNDeassert env) s = .next (({ s with pins := { s.pins with pwronN := true } } : State).coldStart env)) ∧
    (s.pins.pwronN = false → s.pins.railsOk.all id = false →
      exec (.pwronNDeassert env) s = .next ({ s with pins := { s.pins with pwronN := true } } : State)) ∧
    (s.pins.pwronN = true → s.pins.railsOk.all id = false →
      exec (.railMonitorReturn env) s =
        .next ((({ s with pins := { s.pins with railsOk := [true, true, true] } } : State).advanceTo
          (s.clk.now + 10 * ms)).coldStart env)) ∧
    (s.pins.pwronN = false → s.pins.railsOk.all id = false →
      exec (.railMonitorReturn env) s =
        .next (({ s with pins := { s.pins with railsOk := [true, true, true] } } : State).advanceTo (s.clk.now + 10 * ms))) ∧
    (let t := s.coldStart env;
      t.rst.t0 = s.clk.now ∧ t.clk.now = s.clk.now ∧ t.clk.lode = 0 ∧ t.clk.slew = 0 ∧ t.rst.bootsel = env.bootsel ∧
      t.work.bootEpoch ≠ 0 ∧ (env.bootsel = 1 → t.rst.phase = .recovery ∧ t.num Obj.devMode = 1)))

/-- What triggers a warm reset, and what it does: it enters cause 0, counts itself, takes its RESET_CAUSE, clears every
flag, frees the lease, keeps the boot epoch and the time, and while WARM_N is low stays held.

Each of these commands answers a next state here, under conditions on the state and the operands alone: warmNAssert,
warmCmd, warmNDeassert. -/
def Obligations.WarmResets : Prop :=
  ∀ s : State, s.power.tripped = false → s.rst.phase ≠ .powerReset →
    (s.pins.warmN = true → exec .warmNAssert s =
      .next (settle s (({ s with pins := { s.pins with warmN := false } } : State).warmReset 1 none))) ∧
    (s.pins.warmN = false → s.rst.phase = .warmHeld → exec .warmNDeassert s =
      .next ({ s with pins := { s.pins with warmN := true } } : State).reload) ∧
    (∀ w : CmdW, Turn s w.req → s.fw.due = none → w.value = 1 →
      Writes s Obj.warmCmd 0 warmCmdRule (.num w.value) →
      exec (.warmCmd w) s = .next (settle s ((s.wrote w.req Obj.warmCmd 0 id).warmReset 2 none))) ∧
    (∀ cause b, let t := s.warmReset cause b;
      let u := ((s.failStaging.enterCause 0).setNum Obj.resetCause 0 cause).count Obj.warmResets;
      let v := ({ u with rst := { u.rst with t0 := u.clk.now, memHeld := true, admitDue := true, bundleSlot := b.or u.rst.bundleSlot } } : State).warmLink.warmHardware.warmMedia.warmApply.warmWork;
      (s.pins.warmN = true → t = v.reload) ∧
      (s.pins.warmN = false → t = { v with rst := { v.rst with phase := .warmHeld } }) ∧
      t.safety.causes.getLsbD 0 = true ∧ t.work.flags = [] ∧ t.work.replayDone = false ∧ t.link.lease = .free ∧
      t.work.bootEpoch = s.work.bootEpoch ∧ t.rst.t0 = s.clk.now ∧ t.clk = s.clk)

/-- R14: a crossing to a slice that is powered off, out of service or held in reset, to the physical slice that has no
number, or to a GDDR6 controller that is off or held, is refused at once: no time passes, no fault is recorded, the
requester receives UNAVAILABLE.

Each of these commands answers a next state here, under conditions on the state and the operands alone: crossingRequest. -/
def Obligations.OffIslands : Prop :=
  ∀ (s : State) (req tgt : Nat) (chan : Option ChanId) (acked : Bool), s.rst.phase ≠ .powerReset → req ≠ tgt →
    ((tgt < 6 ∧ (s.num Obj.sliceState tgt ≠ 0 ∨ (s.slice tgt).off = true ∨ (s.slice tgt).resetting.isSome = true ∨
        s.rst.memHeld = true)) ∨ (6 ≤ tgt ∧ tgt < 16) ∨
      (0x10 ≤ tgt ∧ tgt < 0x16 ∧ (s.rst.memHeld = true ∨ s.domainOn (202 + (tgt - 0x10)) = false))) →
    exec (.crossingRequest req tgt chan acked) s =
      .next { s with isl := { s.isl with lastError := some (req, St.unavailable) } }

/-- A crossing to an island that is not off leaves nothing behind where it is acknowledged in time, and is recorded where
it is not; 2 µs after its request it is abandoned.

Each of these commands answers a next state here, under conditions on the state and the operands alone: crossingRequest,
islandHandshakeTimeout. -/
def Obligations.Crossings : Prop :=
  ∀ (s : State) (req tgt : Nat) (chan : Option ChanId), s.rst.phase ≠ .powerReset → req ≠ tgt →
    (s.islandOff tgt = false → exec (.crossingRequest req tgt chan true) s = .next s) ∧
    (s.islandOff tgt = false → exec (.crossingRequest req tgt chan false) s =
      .next { s with isl := { s.isl with
        crossings := s.isl.crossings ++ [{ id := s.isl.nextId, req := req, tgt := tgt, chan := chan.map (·.val)
                                           start := s.clk.now, abandoned := false }]
        nextId := s.isl.nextId + 1 } }) ∧
    (∀ (c : Crossing), s.isl.crossings.find? (fun d => d.id == c.id && !d.abandoned) = some c →
      s.clk.now ≤ c.start + 2 * us →
      ∃ t, exec (.islandHandshakeTimeout c.id false) s = .next (settle s (State.islandFault t c.tgt c.req c.chan)) ∧
        t.clk.now = c.start + 2 * us)

/-- R13: when a crossing is abandoned its requester receives an error; an acknowledge that arrives after that is discarded
and counted for the requesting island, and completes nothing.

Each of these commands answers a next state here, under conditions on the state and the operands alone:
islandHandshakeTimeout, lateAcknowledge. -/
def Obligations.LateAcknowledges : Prop :=
  (∀ (s : State) (c : Crossing), s.isl.crossings.find? (fun d => d.id == c.id && !d.abandoned) = some c →
    ∃ e, e ≠ St.ok ∧ (
      let u := s.advanceTo (c.start + 2 * us);
      let t : State := { u with isl := { u.isl with crossings := u.isl.crossings.map (fun (d : Crossing) => if d.id == c.id then { d with abandoned := true } else d), lastError := some (c.req, e) } };
      exec (.islandHandshakeTimeout c.id false) s = .next (settle s (t.islandFault c.tgt c.req c.chan)))) ∧
  ∀ (s : State) (c : Crossing), s.isl.crossings.find? (fun d => d.id == c.id) = some c → c.abandoned = true →
    ∃ t, exec (.lateAcknowledge c.id) s = .next t ∧
      tget 0 t.isl.lateAcks c.req = tget 0 s.isl.lateAcks c.req + 1 ∧
      (∀ r, r ≠ c.req → tget 0 t.isl.lateAcks r = tget 0 s.isl.lateAcks r) ∧
      t.isl.crossings = s.isl.crossings.filter (fun d => d.id != c.id) ∧
      t = { s with isl := t.isl } ∧ t.isl.records = s.isl.records ∧ t.isl.lastError = s.isl.lastError

/-- A core rail below its limit takes an island fault of the slice that it feeds, if that slice is in service; loss of
REFCLK25 makes cause 1 active and drives the lines.

SLICE_RESET_CMD in its turn begins the reset of the slice that it names. A reset that has not completed 50 ms after
its start retires the slice with cause 3.

Each of these commands answers a next state here, under conditions on the state and the operands alone: coreRailLow,
refclkLoss, sliceResetCmd, sliceResetTimeout. -/
def Obligations.SliceSupplies : Prop :=
  (∀ s : State, s.rst.phase ≠ .powerReset →
    (∀ n : SliceId, s.num Obj.sliceState n = 0 → (s.slice n).off = false →
      exec (.coreRailLow (some n)) s = .next (settle s ((s.postOpen 1 n).islandReaction n none))) ∧
    exec (.coreRailLow none) s = .next s ∧
    (s.pins.refclkOk = true → ∃ t, exec .refclkLoss s = .next (settle s t) ∧ t.safety.causes.getLsbD 1 = true ∧
      t.pins.safeA = false ∧ t.pins.safeB = true ∧ t.pins.refclkOk = false ∧ t.slices = s.slices ∧ t.mem = s.mem ∧
      t.work = s.work ∧ t.objs = s.objs)) ∧
  ((∀ (s : State) (w : CmdW), Turn s w.req → Writes s Obj.sliceResetCmd 0 sliceResetRule (.num w.value) →
    exec (.sliceResetCmd w) s = .next (settle s (s.wrote w.req Obj.sliceResetCmd 0 (fun u => u.beginReset w.value)))) ∧
  (∀ (s : State) (sl : SliceId) (t0 : Nat), (s.slice sl).resetting = some t0 →
    exec (.sliceResetTimeout sl) s = .next (settle s ((s.advanceTo (t0 + 50 * ms)).retireSlice sl 3))))

/-! ## The sequencer -/

/-- A scalar operation whose slot takes effect writes its register as Table — SCL operations says, and nothing else but
the open bundle's mark; a LAYER with a new layer first flushes the drain's totals (R80, R121).

Branches test the compare bit, and LOOP counts the counter, as they stood before the bundle; the next bundle is then
at IMM[19:0]. HALT flushes the totals and ends the program: a job of a higher class goes on with its next program, and
waits for it while the SCP restarts (R128, R256).
PROGRAM_FETCH in a cycle that the port schedule gives the DMA port for its row's group, and that no other access has
taken, fetches one further row, no further than the fetch limit, and takes that slot (R90, R116).

FLAG_WAIT leaves the flag as it is; FLAG_SET sets its flag with all that a set ends; FLAG_CLR clears it, and a set in
the same cycle leaves it set (R129, R258, R259). After FLAG_CLR alone the flag is clear and every other flag as it was.

Each of these commands answers a next state here, under conditions on the state and the operands alone: programFetch,
lcSet, lcAdd, abSet, abAdd, cmp, br, brn, loop, sclFlagWait, sclFlagSet, sclFlagClr, layer, halt. -/
def Obligations.SclOperations : Prop :=
  (∀ (s t : State) (sl : SliceId) (b : Option Issue) (w : DWord), Slot s sl b 24 w t →
    let u := t.slotDone sl 24;
    (sclOp w.toNat = 1 → exec (.lcSet sl b w) s =
      .next (u.modRegs sl (fun r => { r with lc := r.lc.set (sclA w) (sclImm w) }))) ∧
    (sclOp w.toNat = 2 → exec (.lcAdd sl b w) s =
      .next (u.modRegs sl (fun r => { r with lc := r.lc.set (sclA w) (r.lc[sclA w] + sclImm w) }))) ∧
    (sclOp w.toNat = 3 → exec (.abSet sl b w) s =
      .next (u.modRegs sl (fun r => { r with ab := r.ab.set (sclA w) (sclImm w) }))) ∧
    (sclOp w.toNat = 4 → exec (.abAdd sl b w) s =
      .next (u.modRegs sl (fun r => { r with ab := r.ab.set (sclA w) (r.ab[sclA w] + sclImm w) }))) ∧
    (sclOp w.toNat = 5 → exec (.cmp sl b w) s = .next (u.modRegs sl (fun r => { r with
      cmp := r.cmp.set (sclC w) (condHolds (bits w.toNat 52 51) r.lc[sclA w] (sclImm w)) }))) ∧
    (sclOp w.toNat = 0x18 → (t.slice sl).seq.before.layer = w.setWidth 16 → exec (.layer sl b w) s =
      .next (u.modRegs sl (fun r => { r with layer := w.setWidth 16 }))) ∧
    (sclOp w.toNat = 0x18 → (t.slice sl).seq.before.layer ≠ w.setWidth 16 → exec (.layer sl b w) s =
      .next ((u.flush sl).modRegs sl (fun r => { r with layer := w.setWidth 16 })))) ∧
  ((∀ (s t : State) (sl : SliceId) (b : Option Issue) (w : DWord), Slot s sl b 24 w t →
    let u := t.slotDone sl 24;
    let q := (t.slice sl).seq.before;
    (sclOp w.toNat = 6 → exec (.br sl b w) s = .next (if q.cmp[sclC w] then u.branchTo sl w else u)) ∧
    (sclOp w.toNat = 7 → exec (.brn sl b w) s = .next (if q.cmp[sclC w] then u else u.branchTo sl w)) ∧
    (sclOp w.toNat = 8 →
      let v := q.lc[sclA w] - 1;
      let y := u.modRegs sl (fun r => { r with lc := r.lc.set (sclA w) v, cmp := r.cmp.set (sclC w) (v != 0) });
      exec (.loop sl b w) s = .next (if v = 0 then y else y.branchTo sl w)) ∧
    (sclOp w.toNat = 0x3F →
      let y := (u.flush sl).modSeq sl (fun q => { q with halted := true, mode := .idle });
      ((∀ r, (y.slice sl).run = some r → r.klass = 2 ∨ r.programs = []) → exec (.halt sl b w) s = .next y) ∧
      (∀ r, (y.slice sl).run = some r → r.klass ≠ 2 → r.programs ≠ [] →
        exec (.halt sl b w) s = .next (if y.runs P.scp then y.nextProgram sl else y)))) ∧
  (∀ (s : State) (sl : SliceId) (cyc : Nat) (a : Alloc),
    let x := s.slice sl;
    let lim := x.fetchLimit 64 x.seq.pc (min a.progLen (x.seq.pc + 256));
    let cur := max x.seq.fetched x.seq.pc;
    let g := (a.base + a.progRow + cur / 128) % 8;
    x.alloc = some a → x.seq.mode ≠ .idle → x.seq.mode ≠ .faulted → cur < lim → x.store.pend = [] →
    slotFrom .dma g cyc = cyc → (∀ l, tfind x.store.slots (slotKey .dma g) = some l → l < cyc) →
    exec (.programFetch ⟨sl, cyc⟩) s = .next (settle s ((s.modSeq sl (fun q => { q with
      fetched := min lim ((cur / 128 + 1) * 128) })).modStore sl (fun t => { t with
      pend := [], slots := tput t.slots (slotKey .dma g) cyc }))))) ∧
  (∀ (s t : State) (sl : SliceId) (b : Option Issue) (w : DWord), Slot s sl b 24 w t →
    let u := t.slotDone sl 24;
    let f := w.toNat % 1024;
    (sclOp w.toNat = 0x10 → exec (.sclFlagWait sl b w) s = .next u) ∧
    (sclOp w.toNat = 0x11 → exec (.sclFlagSet sl b w) s = .next (settle s (u.setFlag f))) ∧
    (sclOp w.toNat = 0x12 → exec (.sclFlagClr sl b w true) s = .next (settle s (u.setFlag f))) ∧
    (sclOp w.toNat = 0x12 → ∃ y, exec (.sclFlagClr sl b w false) s = .next (settle s y) ∧ y.flagOn f = false ∧
      (∀ g, g ≠ f → y.flagOn g = t.flagOn g) ∧ y = { u with work := { u.work with flags := y.work.flags } }))

/-- The next bundle of a program under way whose previous bundle is done, tried in a cycle, after the bundles with an empty
slot mask that could issue by then (in their earliest cycles, the model's choice, notes/assumptions/50.md): when something of
Table — SEQ_HOLD holds it, it does not issue, its slot has no effect, and SEQ_STATE is HELD with the cause; an unset flag
starts the wait and the wait-for graph is built. The causes are tried in the table's order: not fetched, a fence, the
slots.

A match of the bundle that becomes the next one, after those with an empty slot mask, makes the sequencer drain; drained,
it stops and counts the hit; BRK_RESUME with 1 or 2 in its turn lets it go
on (R132, R133).

Each of these commands answers a next state here, under conditions on the state and the operands alone: breakpointMatch,
breakpointStop, brkResume, brkSingleStep. -/
def Obligations.SequencerHolds : Prop :=
  (∀ (v : State) (sl : SliceId) (i : Issue) (k : Nat) (w : DWord), 24 ≤ k ∧ k < 32 →
    let s := v.reached sl i.cyc;
    let x := s.slice sl;
    let h := s.issueHold sl i.cyc;
    (x.seq.mode = .issuing ∨ x.seq.mode = .held) → x.seq.halted = false → x.alloc.isSome = true → x.seq.bundleDone = true →
    x.seq.notBefore ≤ i.cyc → x.hdrAt x.seq.pc = i.hdr.toNat → i.hdr.toNat.testBit k = true → s.brkMatch sl = false →
    h ≠ 0 →
    v.slot sl (some i) k w = (false, s.holdSeq sl h) ∧
    (x.seq.fetched < x.seq.pc + bundleLen i.hdr.toNat → h = 9) ∧
    (x.seq.pc + bundleLen i.hdr.toNat ≤ x.seq.fetched → x.fences i.hdr.toNat i.cyc = false → h = 1) ∧
    (h ≠ 7 → s.holdSeq sl h = s.modSeq sl (fun q => { q with mode := .held, hold := h, tested := true })) ∧
    (h = 7 → x.seq.waitFlag = none → s.holdSeq sl h = (s.modSeq sl (fun q => { q with
      mode := .held, hold := 7, tested := true
      waitFlag := some (x.wordAt q.pc 24 % 1024, s.clk.now + s.jobLimit) })).buildGraph)) ∧
  ((∀ (v : State) (sl : SliceId) (tag : BitVec 16), let s := v.passEmpty sl (v.slice sl).readyFrom; let x := s.slice sl;
    x.seq.mode = .issuing → x.seq.halted = false → x.alloc.isSome = true → x.seq.bundleDone = true → bits (x.hdrAt x.seq.pc) 15 0 = tag.toNat →
    s.brkMatch sl = true →
    exec (.breakpointMatch sl tag) v = .next (settle v (s.modSeq sl (fun q => { q with mode := .draining, hold := 0 })))) ∧
  (∀ (s : State) (sl : SliceId), let x := s.slice sl;
    x.seq.mode = .draining → x.drained (max x.cycle (max x.arr.loadEnd x.arr.enterEnd)) = true →
    ∃ t, exec (.breakpointStop sl) s = .next t ∧ (t.slice sl).seq = { x.seq with mode := .stopped, stepOne := false } ∧
      t.num Obj.brkHits sl = min Obj.brkHits.sat (s.num Obj.brkHits sl + 1) ∧
      t = { s with slices := t.slices, objs := t.objs }) ∧
  (∀ (s : State) (sl : SliceId) (w : CmdW), Turn s w.req →
    (w.value = 1 → Writes s Obj.brkResume sl (brkRule sl 1) (.num 1) →
      exec (.brkResume sl w) s = .next (settle s (s.wrote w.req Obj.brkResume sl (fun u =>
        u.modSeq sl (fun q => { q with mode := .issuing, tested := true, stepOne := false }))))) ∧
    (w.value = 2 → Writes s Obj.brkResume sl (brkRule sl 2) (.num 2) →
      exec (.brkSingleStep sl w) s = .next (settle s (s.wrote w.req Obj.brkResume sl (fun u =>
        u.modSeq sl (fun q => { q with mode := .issuing, tested := true, stepOne := true })))))))

/-- The slots of Feeder A, Feeder B, the array and the drain hand their commands over as the fields of their words say,
rows with the address base as it stood before the bundle (R125); DRN makes the tile command from its bundle's FA and ARR
slots (R120); ARR CLEAR makes both weight registers invalid.

A DIN or DOUT slot issues the descriptor of its index, patched with the address bases (R102, R125); an index beyond
the table is a transfer fault with RESOURCE_OVERFLOW (R110).

Each of these commands answers a next state here, under conditions on the state and the operands alone: dinIssue,
doutIssue, faVec, faWin, faXfm, fbDense, fbGroup4, arrTile, arrCont, arrClearSlot, drnWrite, drnAdd, drnAddOut,
drnWriteOut. -/
def Obligations.IssueSlots : Prop :=
  (∀ (s t : State) (sl : SliceId) (b : Option Issue) (w : DWord),
    let n := w.toNat;
    let x := t.slice sl;
    let fa : Nat → FaCmd := fun m => { mode := m, count := bits n 61 48 + 1, win := bits n 47 40, step := bits n 27 14
                                       row := rowBase x.seq.before.ab n 39 (bits n 38 36) (bits n 13 0) };
    let fb : Bool → FbCmd := fun g => { num := x.arr.fbCount + 1, group4 := g, wtype := bits n 61 59, rows := bits n 58 52 + 1, tag := x.seq.tag
                                        row := rowBase x.seq.before.ab n 51 (bits n 50 48) (bits n 13 0) };
    let arr : Bool → ArrCmd := fun c => { cont := c, atype := bits n 59 57, xpose := n.testBit 56 };
    let drn : Nat → FaCmd → ArrCmd → TileCmd := fun op f a =>
      { fa := f, arr := a, layer := x.seq.before.layer, tag := x.seq.tag, origin := x.arr.origin, fbNum := x.arr.fbCount
        entry := []
        drn := { op := op, chain := bits n 59 52, chunk := bits n 51 38, bankVec := bits n 28 20
                 outRow := rowBase x.seq.before.ab n 37 (bits n 36 34) (bits n 13 0) } };
    let tile : Nat → FaCmd → ArrCmd → State := fun op f a => (t.slotDone sl 31).modArr sl (fun r => { r with
      waitTiles := r.waitTiles ++ [drn op f a]
      origin := if op = 3 ∨ op = 4 then r.origin + 1 else r.origin });
    (Slot s sl b 27 w t →
      (bits n 63 62 = 0 → exec (.faVec sl b w) s = .next ((t.slotDone sl 27).modSeq sl (fun q => { q with asmFa := some (fa 0) }))) ∧
      (bits n 63 62 = 1 → exec (.faWin sl b w) s = .next ((t.slotDone sl 27).modSeq sl (fun q => { q with asmFa := some (fa 1) }))) ∧
      (bits n 63 62 = 2 → exec (.faXfm sl b w) s = .next ((t.slotDone sl 27).modSeq sl (fun q => { q with asmFa := some (fa 2) })))) ∧
    (Slot s sl b 28 w t →
      (bits n 63 62 = 0 → exec (.fbDense sl b w) s = .next ((t.slotDone sl 28).modArr sl (fun a => { a with waitLoad := some (fb false), fbCount := a.fbCount + 1 }))) ∧
      (bits n 63 62 = 1 → exec (.fbGroup4 sl b w) s = .next ((t.slotDone sl 28).modArr sl (fun a => { a with waitLoad := some (fb true), fbCount := a.fbCount + 1 })))) ∧
    (Slot s sl b 29 w t →
      (bits n 63 60 = 1 → exec (.arrTile sl b w) s = .next ((t.slotDone sl 29).modSeq sl (fun q => { q with asmArr := some (arr false) }))) ∧
      (bits n 63 60 = 2 → exec (.arrCont sl b w) s = .next ((t.slotDone sl 29).modSeq sl (fun q => { q with asmArr := some (arr true) }))) ∧
      (bits n 63 60 = 3 → exec (.arrClearSlot sl b w) s = .next ((t.slotDone sl 29).modArr sl (fun a => { a with active := none, shadow := none })))) ∧
    (∀ f a, Slot s sl b 31 w t → x.seq.asmFa = some f → x.seq.asmArr = some a →
      (bits n 63 60 = 1 → exec (.drnWrite sl b w) s = .next (tile 1 f a)) ∧
      (bits n 63 60 = 2 → exec (.drnAdd sl b w) s = .next (tile 2 f a)) ∧
      (bits n 63 60 = 3 → exec (.drnAddOut sl b w) s = .next (tile 3 f a)) ∧
      (bits n 63 60 = 4 → exec (.drnWriteOut sl b w) s = .next (tile 4 f a)))) ∧
  (∀ (s t : State) (sl : SliceId) (b : Option Issue) (w : DWord) (a : Alloc),
    let x := t.slice sl;
    let i := bits w.toNat 63 54;
    let d : Store → Bool → Desc := fun r out =>
      { uid := r.nextUid, idx := i, out := out, raw := descBases x.seq.before.ab (x.ts (64 * i) 64) w.toNat, tag := x.seq.tag
        started := false, pos := 0, total := 0, hazard := false };
    x.alloc = some a →
    (Slot s sl b 25 w t → i < a.descs → exec (.dinIssue sl b w) s = .next (settle s ((t.slotDone sl 25).modStore sl
      (fun r => { r with nextUid := r.nextUid + 1, descs := r.descs ++ [d r false] })))) ∧
    (Slot s sl b 26 w t → i < a.descs → exec (.doutIssue sl b w) s = .next (settle s ((t.slotDone sl 26).modStore sl
      (fun r => { r with nextUid := r.nextUid + 1, descs := r.descs ++ [d r true] })))) ∧
    (Slot s sl b 25 w t → a.descs ≤ i → exec (.dinIssue sl b w) s =
      .next (settle s ((t.slotDone sl 25).transferFault sl St.resourceOverflow 7 x.seq.tag.toNat i 0 i))) ∧
    (Slot s sl b 26 w t → a.descs ≤ i → exec (.doutIssue sl b w) s =
      .next (settle s ((t.slotDone sl 26).transferFault sl St.resourceOverflow 7 x.seq.tag.toNat i 0 i))))

/-! ## Array, feeders, drain, transform units -/

/-- A waiting load starts in a cycle that is not frozen, when the shadow registers may be loaded and Feeder B and the last
tile have begun as R33 asks: the tile's weights, expanded, stand in the shadow registers, Feeder B reads for the
organisation's load time, each frozen cycle later by one, and ARR_TILES counts the load; the frozen cycles told with it
are counted, and what the ECC of its reads finds (R36, R39, R95). A row that it may not read is an engine fault with
source 4 (R110). That all rows are read at the start is the model's choice (notes/assumptions/50.md).

The front tile command starts, in a cycle that is not frozen, when its weights stand in the PEs or become active
with it, Feeder A is free and the organisation does not change under rows in the grid (R32 to R36): its weights become
active and Feeder A reads on its behalf. Feeder A enters the oldest vector of its buffer in the first cycle that the
vector is due, which makes the vector's row and counts it, and while fewer than 8 vectors are read and not entered it
reads the next one (R28, R37, R41), which is the model's choice of the cycle (notes/assumptions/50.md); a row that it
may not read is an engine fault with source 3 (R110).

Each of these commands answers a next state here, under conditions on the state and the operands alone: weightLoadStart,
tileStart. -/
def Obligations.ArrayTiles : Prop :=
  (∀ (s : State) (sl : SliceId) (cyc : Nat) (fr : List FrozenCycle) (ecc : List TsEcc) (c : FbCmd),
    let u := s.feedTo sl cyc;
    let x := u.slice sl;
    x.arr.waitLoad = some c → x.arr.shadowFree c.num = true → x.arr.loadEnd ≤ cyc → x.arr.lastEnter.getD 0 ≤ cyc →
    cyc ∉ x.arr.frozen →
    (x.badRead c.reads = none → exec (.weightLoadStart sl ⟨cyc, fr, ecc⟩) s =
      .next (settle s (((((u.modArr sl (fun a => { a.forget cyc with
        waitLoad := none, lastLoad := some cyc, loadEnd := thaw a.frozen cyc c.org.rows
        shadow := some { num := c.num, tag := c.tag, wtype := c.gridType, org := c.org, rows := x.weights c, start := cyc } })).count
          Obj.arrTiles sl).countActive sl cyc (c.org.rows + 128)).freeze sl cyc fr).eccReads sl c.reads ecc))) ∧
    (∀ r, x.badRead c.reads = some r →
      exec (.weightLoadStart sl ⟨cyc, fr, ecc⟩) s = .next (settle s (u.engineFault sl 4 c.tag.toNat (r * 128)))) ∧
    (c.group4 = false → c.wtype ≠ 6 → (x.weights c).length = c.org.rows)) ∧
  ((∀ (s : State) (sl : SliceId) (cyc : Nat) (fr : List FrozenCycle) (ups : List Upset) (ecc : List TsEcc) (c : TileCmd)
      (rest : List TileCmd) (w : WTile),
    let u := s.feedTo sl cyc;
    let x := u.slice sl;
    x.arr.waitTiles = c :: rest → x.arr.tileWeights c cyc = some w → x.arr.enterEnd ≤ cyc → x.arr.feed = none →
    x.arr.changes w c = false → cyc ∉ x.arr.frozen → (c.fa.mode = 2 → x.arr.fwdIssue ≠ none) →
    let k := if c.fa.mode = 2 then min c.fa.count ((x.arr.fwdIssue.map (fun i => i.vecs.length)).getD 0) else c.fa.count;
    let f : Feed := { cmd := { c with entry := x.chainEntry c.drn.chain }, tile := x.arr.nextTile, wt := w, start := cyc
                      ups := ups, ecc := ecc, win := x.winEntry c.fa.win, count := k, sent := 0, entered := 0, buffer := [] };
    let t := u.modArr sl (fun a => { a.forget cyc with
      waitTiles := rest, nextTile := a.nextTile + 1, lastEnter := some cyc, enterEnd := thaw a.frozen cyc k
      active := some w, shadow := if c.arr.cont then a.shadow else none, feed := some f });
    exec (.tileStart sl cyc fr ⟨ups, ecc⟩) s = .next (settle s (((t.countActive sl cyc (k + 256)).freeze sl cyc fr).feedTo sl cyc))) ∧
  (∀ (u : State) (sl c : Nat) (f : Feed), (u.slice sl).arr.feed = some f →
    let e := thaw (u.slice sl).arr.frozen f.start f.entered;
    (∀ v l, f.buffer = v :: l → e ≤ c → f.entered + 1 < f.count →
      u.feedStep sl c = (u.modArr sl (fun a => { a with
        feed := some { f with entered := f.entered + 1, buffer := l }, rows := a.rows ++ [f.row f.entered v e] })).count
          (if f.cmd.arr.xpose then Obj.arrVectorsT else Obj.arrVectors) sl) ∧
    (∀ v l, f.buffer = v :: l → e ≤ c → f.count ≤ f.entered + 1 →
      u.feedStep sl c = ((u.modArr sl (fun a => { a with
        feed := none, rows := a.rows ++ [f.row f.entered v e]
        fwdIssue := if f.cmd.fa.mode = 2 then none else a.fwdIssue })).count
          (if f.cmd.arr.xpose then Obj.arrVectorsT else Obj.arrVectors) sl).startXfm sl) ∧
    ((f.buffer = [] ∨ c < e) → f.sent < f.count → f.buffer.length < 8 →
      ((u.slice sl).badRead (f.rows f.sent) = none → u.feedStep sl c = (u.modArr sl (fun a => { a with
        feed := some { f with sent := f.sent + 1, buffer := f.buffer ++ [(u.slice sl).vector f f.sent] } })).eccReads sl
          (f.rows f.sent) f.ecc) ∧
      (∀ r, (u.slice sl).badRead (f.rows f.sent) = some r →
        u.feedStep sl c = u.engineFault sl 3 f.cmd.tag.toNat (r * 128))) ∧
    ((f.buffer = [] ∨ c < e) → (f.count ≤ f.sent ∨ 8 ≤ f.buffer.length) → u.feedStep sl c = u)))

/-- In a cycle that is not frozen the oldest row of the grid, once its check sum has come, enters the drain and awaits its
verdict; with none due, the oldest pixel row of the INV unit enters its chain (R30, R162). WRITE puts the row's values
into the cells of its bank vector, ADD adds them, and no other cell changes; a cell whose check fails counts in
RESIDUE_FAIL and fails its row's tile with KIND 4 and stage 0xFE. An integer cell without an upset holds the 40-bit total
with its residue modulo 7 beside it, and passes its check where the residue held before was right and the total stays
within 40 bits; an upset fails the check exactly when the total it leaves has another residue (R56 to R58).

Every drained row is judged once, oldest first, and counted in CHECK_ROWS; a row that passes changes nothing else; one
that fails fails its tile, and one with a NaN or an infinity counts in CHECK_NONFINITE (R51 to R53).

Each of these commands answers a next state here, under conditions on the state and the operands alone: drainRow,
rowVerdict. -/
def Obligations.DrainedRows : Prop :=
  ((∀ (s : State) (sl : SliceId) (cyc : Nat) (ups : List DrainUpset) (ecc : List TsEcc),
    let u := s.feedTo sl cyc;
    let a := (u.slice sl).arr;
    (∀ (r : ArrRow) (rest : List ArrRow), a.rows = r :: rest → thaw a.frozen r.enter 257 ≤ cyc → cyc ∉ a.frozen →
      exec (.drainRow sl ⟨cyc, ups, ecc⟩) s = .next (settle s ((u.modArr sl (fun a => { a with
        rows := rest, unjudged := a.unjudged ++ [r] })).drainArrRow sl r ups ecc))) ∧
    (∀ (r : InvRow) (rest : List InvRow), (∀ q l, a.rows = q :: l → cyc < thaw a.frozen q.enter 257) → a.invRows = r :: rest →
      exec (.drainRow sl ⟨cyc, ups, ecc⟩) s = .next (settle s (((u.modArr sl (fun a => { a with
        invRows := rest })).drainInvRow sl r rest.isEmpty ups ecc).startXfm sl)))) ∧
  (∀ (s : State) (sl : SliceId) (ups : List DrainUpset) (ecc : List TsEcc) (r : ArrRow) (al : Alloc),
    let x := s.slice sl;
    let base := (r.cmd.drn.bankVec + r.vec) * r.cells;
    let add := r.cmd.drn.op == 2;
    let b := x.bankAfter base r.cellVals add ups;
    x.alloc = some al → base + r.cells ≤ al.bankVecs * 128 → (r.cmd.drn.op = 1 ∨ r.cmd.drn.op = 2) →
    (∀ (i : Nat) (v : Acc), r.cellVals[i]? = some v →
      b.1.cell (base + i) = (bankCell add (x.cell (base + i)) v (flips ups 0xFE i)).1) ∧
    (∀ k, k < base ∨ base + r.cellVals.length ≤ k → b.1.cell k = x.cell k) ∧
    (∃ m, b.1 = { x with store := { x.store with bank := m } }) ∧
    (b.2 = 0 → s.drainArrRow sl r ups ecc = s.setSlice sl b.1) ∧
    (b.2 ≠ 0 → s.drainArrRow sl r ups ecc = ((s.setSlice sl b.1).count Obj.residueFail sl b.2).failTile sl
      { tile := r.tile, kind := 4, stage := 0xFE, layer := r.cmd.layer.toNat, tag := r.cmd.tag.toNat
        chunk := r.cmd.drn.chunk, vec := r.vec })) ∧
  (∀ (add : Bool) (old flip : DWord) (i : Int),
    let total := if add then cellInt old + i else i;
    let c := bankCell add old (.int i) flip;
    -(2 ^ 39) ≤ total → total < 2 ^ 39 → (add = true → cellRes old = res7 (cellInt old)) →
    (flip = 0 → cellInt c.1 = total ∧ cellRes c.1 = res7 total ∧ c.2 = false) ∧
    (c.2 = true ↔ res7 (cellInt c.1) ≠ res7 total))) ∧
  (∀ (s : State) (sl : SliceId) (r : ArrRow) (rest : List ArrRow), (s.slice sl).arr.unjudged = r :: rest →
    let t := (s.modArr sl (fun a => { a with unjudged := rest })).count Obj.checkRows sl;
    let f : Nat → FailAt := fun k =>
      { tile := r.tile, kind := if r.cmd.arr.xpose then 5 else k, stage := 0xFF, layer := r.cmd.layer.toNat
        tag := r.cmd.tag.toNat, chunk := r.cmd.drn.chunk, vec := r.vec };
    (r.verdict = none → exec (.rowVerdict sl) s = .next t) ∧
    (∀ k, r.verdict = some k → k ≠ 3 → exec (.rowVerdict sl) s = .next (settle s (t.failTile sl (f k)))) ∧
    (r.verdict = some 3 → exec (.rowVerdict sl) s =
      .next (settle s ((t.count Obj.checkNonfinite sl).failTile sl (f 3)))))

/-- R49: a row of 64, 128 or 256 outputs in an integer organisation passes exactly when S_chk equals S_out modulo 2³², an
int16 output being formed from its four components. -/
def Obligations.IntegerVerdict : Prop :=
  ∀ r : ArrRow, r.float = false → (r.outs.length = 64 ∨ r.outs.length = 128 ∨ r.outs.length = 256) →
    (∀ o ∈ r.outs, o.length = 1 ∨ o.length = 4) →
    (r.verdict = none ↔
      r.sChk = BitVec.ofInt 32 (sumI (r.outs.map (fun o => match o with
        | [hh, hl, lh, ll] => hh.toInt * 65536 + (hl.toInt + lh.toInt) * 256 + ll.toInt
        | [i] => i.toInt
        | _ => 0))))

/-- An int8, int4 or group-scaled tile in normal mode: a vector's row passes its check when no column sum is upset, and
fails with KIND 1 when exactly one is, by any pattern but zero. -/
def Obligations.ChecksCatchUpset : Prop :=
  ∀ (f : Feed) (m : Nat) (v : List (BitVec 16) × Int) (c : Nat),
    f.wt.org.wide = false → f.wt.wtype < 2 → f.cmd.arr.xpose = false → (∀ l ∈ f.wt.rows, l.length = f.wt.org.outs) →
    (f.ups.filter (fun u => u.vec = m) = [] → (f.row m v c).verdict = none) ∧
    (∀ u, f.ups.filter (fun u => u.vec = m) = [u] → u.col < f.wt.org.outs → u.flip ≠ 0 → (f.row m v c).verdict = some 1)

/-- The XFM slot: its command waits in its unit with the fields of its word, and starts at once where the unit is free
(R120). TRANSFORM writes the slab rows and exponents of its tiles, ISSUE hands the vectors of one bin and their exponent
sums to Feeder A, INVERSE makes the pixel rows inside the output that enter the drain (R160 to R162).

Each of these commands answers a next state here, under conditions on the state and the operands alone: transform,
issue, inverse. -/
def Obligations.Transforms : Prop :=
  (∀ (s t : State) (sl : SliceId) (b : Option Issue) (w : DWord) (bad : Bool) (ecc : List TsEcc), Slot s sl b 30 w t →
    let n := w.toNat;
    let x := t.slice sl;
    let op := xtOp ((s.slice sl).xfmEntry (bits n 60 53));
    let row : Nat → Int := fun k => rowBase x.seq.before.ab n 52 (bits n 51 49) k;
    let c : Bool → XfmCmd := fun inv =>
      { inv := inv, size := bits n 61 61, xtab := bits n 60 53, srcRow := if inv then 0 else row (bits n 13 0)
        dstRow := if inv then row (bits n 27 14) else 0, tag := x.seq.tag, layer := x.seq.before.layer
        origin := x.arr.origin - 1, bad := bad, ecc := ecc };
    let u := t.slotDone sl 30;
    (bits n 63 62 = 0 → op = 1 → exec (.transform sl b w ⟨bad, ecc⟩) s =
      .next (settle s ((u.modArr sl (fun a => { a with fwdWait := some (c false) })).startXfm sl))) ∧
    (bits n 63 62 = 0 → op = 2 → exec (.issue sl b w ⟨bad, ecc⟩) s =
      .next (settle s ((u.modArr sl (fun a => { a with fwdWait := some (c false) })).startXfm sl))) ∧
    (bits n 63 62 = 1 → op = 3 → exec (.inverse sl b w ⟨bad, ecc⟩) s =
      .next (settle s ((u.modArr sl (fun a => { a with invWait := some (c true) })).startXfm sl)))) ∧
  (∀ (u : State) (sl : SliceId) (c : XfmCmd), let x := u.slice sl;
    let y := (u.modArr sl (fun a => { a with fwdWait := none })).runXfm sl c;
    (x.arr.fwdWait = some c → x.arr.fwdIssue = none → (y.slice sl).arr.invWait = none → u.startXfm sl = y) ∧
    (x.arr.fwdWait = none → x.arr.invWait = some c → x.arr.invRows = [] →
      u.startXfm sl = (u.modArr sl (fun a => { a with invWait := none })).runXfm sl c) ∧
    (∀ e, c.inv = false → c.bad = false → x.xfmEntry c.xtab = e → xtOp e = 1 → x.badRead (xtRows e c.srcRow c.points) = none →
      u.runXfm sl c = ((u.eccReads sl (xtRows e c.srcRow c.points) c.ecc).engineWrites sl 3 c.tag.toNat
        ((List.range (xtTiles e)).flatMap (fun m => x.xtWrites e c.srcRow c.points m))).2) ∧
    (∀ e, c.inv = false → c.bad = false → x.xfmEntry c.xtab = e → xtOp e ≠ 1 →
      let k := xtTiles e;
      let f := (c.srcRow.toNat - fld e 20 2) / max 1 k;
      let exAt : Nat → Nat → Int := fun row i => signed 8 (ofLe (cut (x.row (row + i / 128 : Nat)) (i % 128) 1));
      let rows := (List.range k).map (fun (m : Nat) => c.srcRow + (m : Int));
      let need := rows ++ (List.range k).map (fun (m : Nat) => ((fld e 22 2 + m / 128 : Nat) : Int))
        ++ [((fld e 24 2 + f / 128 : Nat) : Int)];
      x.badRead need = none → u.runXfm sl c = (u.eccReads sl need c.ecc).modArr sl (fun a => { a with fwdIssue := some {
        vecs := rows.map (fun r => (List.range 64).map (fun i => BitVec.ofNat 16 (fld (x.row r) (2 * i) 2)))
        exps := (List.range k).map (fun m => exAt (fld e 22 2) m + exAt (fld e 24 2) f) } })) ∧
    (∀ e, c.inv = true → c.bad = false → x.xfmEntry c.xtab = e →
      let k := bins c.points * xtTiles e;
      let need := (List.range k).map (fun i => ((fld e 20 2 + i : Nat) : Int))
        ++ (List.range ((k + 127) / 128)).map (fun i => ((fld e 26 2 + i : Nat) : Int));
      x.badRead need = none → ∃ rows, u.runXfm sl c = (u.eccReads sl need c.ecc).modArr sl (fun a => { a with
          nextTile := a.nextTile + 1, invRows := a.invRows ++ rows }) ∧
        ∀ r ∈ rows, r.py < fld e 10 2 ∧ r.px < fld e 8 2 ∧ r.vals.length = xtCh e ∧ r.layer = c.layer ∧ r.tag = c.tag) ∧
    (x.arr.fwdWait = none → x.arr.invWait = none → u.startXfm sl = u))

/-- ARR_CLEAR, TS_CLEAR, SLV_CLEAR and CH_CLEAR in their turn put the counters of their unit back to their defaults and
touch no other register.

Each of these commands answers a next state here, under conditions on the state and the operands alone: arrClear,
tsClear, slvClear, chClear. -/
def Obligations.CounterClears : Prop :=
  (∀ (s : State) (sl : SliceId) (w : CmdW), Turn s w.req →
    (Writes s Obj.arrClear sl (clearRule arrRows sl) (.num w.value) →
      exec (.arrClear sl w) s = .next (settle s (s.wrote w.req Obj.arrClear sl (fun u => u.clearRows arrRows sl)))) ∧
    (Writes s Obj.tsClear sl (clearRule tsRows sl) (.num w.value) →
      exec (.tsClear sl w) s = .next (settle s (s.wrote w.req Obj.tsClear sl (fun u => u.clearRows tsRows sl)))) ∧
    (Writes s Obj.slvClear sl (clearRule slvRows sl) (.num w.value) →
      exec (.slvClear sl w) s = .next (settle s (s.wrote w.req Obj.slvClear sl (fun u => u.clearRows slvRows sl))))) ∧
  (∀ (s : State) (ch : ChanId) (w : CmdW), Turn s w.req →
    Writes s Obj.chClear ch (clearRule chRows ch) (.num w.value) →
    exec (.chClear ch w) s = .next (settle s (s.wrote w.req Obj.chClear ch (fun u => u.clearRows chRows ch)))) ∧
  (∀ (s : State) (rows : List ObjRow) (k : Nat), let t := s.clearRows rows k;
    (∀ r ∈ rows, t.val r k = r.dflt) ∧
    (∀ (r : ObjRow) (j : Nat), (∀ x ∈ rows, r.key j ≠ x.key k) → t.val r j = s.val r j) ∧ t = { s with objs := t.objs })

/-! ## The tile store and the DMA engines -/

/-- An access of a port to a row (R90 to R93, R95): outside the allocation, or a write that names bytes of the control
region, it faults before it is made (R110, R115); every other takes a slot of the port's in the row's group, one that no
access before it took, and is made at once when that slot is this cycle's, and waits for it otherwise, 16 at most at a
port. A read delivers the row six cycles after its slot or with the reads before it, as it stood before a write of the
same cycle; bank words with a correctable error are counted. A write leaves the row as its mask says and every other row
as it was.

Each of these commands answers a next state here, under conditions on the state and the operands alone: tileStoreAccess. -/
def Obligations.TileStorePorts : Prop :=
  (∀ (s : State) (sl : SliceId) (a : TsAccess) (al : Alloc), let x := s.slice sl;
    x.alloc = some al → (a.write = true → a.port ≠ .feederA ∧ a.port ≠ .feederB ∧ a.mask.contains true = true) →
    ((x.rowOk a.row = false ∨ (a.write = true ∧ x.rowCtrl a.row = true)) → exec (.tileStoreAccess sl a) s =
      .next (settle s (s.engineFault sl (tsPortSource a.port a.write) (x.portTag a.port a.write) (accessFirst a : Nat)))) ∧
    (x.rowOk a.row = true → (a.write = true → x.rowCtrl a.row = false) →
      exec (.tileStoreAccess sl a) s = .next (settle s (s.portAccess sl a ((al.base + a.row) % 8))))) ∧
  (∀ (s : State) (sl : SliceId) (a : TsAccess) (g : Nat), g < 8 →
    let t := (s.slice sl).store;
    let c := t.nextSlot a.port g a.cyc;
    let u := s.modStore sl (fun t => { t with slots := tput t.slots (slotKey a.port g) c });
    let d := max (c + 6) (t.lastDelivery a.port);
    let here := (t.pend.filter (fun q => q.acc.port == a.port)).length;
    (∀ q ∈ t.pend, a.cyc ≤ q.issue) →
    a.cyc ≤ c ∧ (tsPortGroups a.port (c % 8)).contains g = true ∧ (∀ l, tfind t.slots (slotKey a.port g) = some l → l < c) ∧
    (here < 16 → c = a.cyc → s.portAccess sl a g = if a.write then u.portWrite sl a c else u.portRead sl a c d) ∧
    (here < 16 → c ≠ a.cyc → s.portAccess sl a g =
      u.modStore sl (fun t => { t with pend := t.pend ++ [{ acc := a, issue := c, deliver := d }] })) ∧
    (16 ≤ here → s.portAccess sl a g = s)) ∧
  (∀ (s : State) (sl : SliceId) (a : TsAccess) (c d : Nat), let x := s.slice sl;
    a.ecc.contains .uncorrectable = false →
      let t := s.portRead sl a c d;
      let now : Bytes := match x.store.writes.find? (fun w => w.row == a.row && w.cyc == c) with
        | some w => w.old
        | none => x.row a.row;
      (t.slice sl).store.reads.getLast? = some { port := tsPortNum a.port, row := a.row, cyc := d, data := now,
                                                     poison := false } ∧
      (t.slice sl).store.bytes = x.store.bytes ∧
      t.num Obj.tsEccCorr sl =
        min Obj.tsEccCorr.sat (s.num Obj.tsEccCorr sl + (a.ecc.filter (fun e => e == .correctable)).length) ∧
      t = { s with slices := t.slices, objs := t.objs }) ∧
  (∀ (s : State) (sl : SliceId) (a : TsAccess) (c : Nat), let x := s.slice sl;
    x.alloc ≠ none → Memory.wf x.store.bytes = true →
      let t := s.portWrite sl a c;
      (t.slice sl).row a.row = maskRow (x.row a.row) a.data a.mask ∧
      (∀ r : Nat, r ≠ a.row → (t.slice sl).row r = x.row r) ∧
      t = { s with slices := t.slices, objs := t.objs })

/-- A descriptor that passes the extent check moves only data inside its owner's range, writes nothing into the control
region, and touches only pages that exist and grant the right its direction needs, at most 16,384 of them (R101, R107,
R108). -/
def Obligations.ExtentCheckSound : Prop :=
  ∀ (s : State) (x : Slice) (w : DmaOwner) (b : Bytes), s.descCheck x w b = none →
    malformed b = none ∧
    (w.o : Int) ≤ (x.tsData b).lo ∧ (x.tsData b).hi < ((w.o + w.n : Nat) : Int) ∧
    (dDir b = false → (w.ctrl : Int) ≤ (x.tsData b).lo) ∧
    (dMode b ≠ 0 → (w.o : Int) ≤ (listRange b).lo ∧ (listRange b).hi < ((w.o + w.n : Nat) : Int)) ∧
    ((extent b).units pageBytes).hi - ((extent b).units pageBytes).lo + 1 ≤ 16384 ∧
    (∀ p : Int, ((extent b).units pageBytes).lo ≤ p → p ≤ ((extent b).units pageBytes).hi →
      0 ≤ p ∧ p < pageCount ∧ w.page (dDir b) (s.entry p.toNat) = true)

/-- The oldest descriptor of a direction that has not started: it waits while it overlaps an older one in flight, and the
wait is counted once (R105); it starts when the extent check passes, and the crops of empty boxes are zeroed (R100); one
that fails it is a transfer fault with the check's status (R107, R110).

The oldest descriptor of a direction completes when all of its bytes have been requested, none of its requests is
still parked and no tag of it is held: it leaves, it is counted, and its flag is set where it names one (R106). A
request that has held its tag for 100 µs frees it and is a fault (R104).

Each of these commands answers a next state here, under conditions on the state and the operands alone: descriptorStart,
descriptorComplete, tagExpiry. -/
def Obligations.Descriptors : Prop :=
  (∀ (s : State) (sl : SliceId) (out : Bool) (d : Desc), let x := s.slice sl;
    let h := x.store.descs.any (fun o => decide (o.uid < d.uid) && x.overlaps d o)
      || (s.clusterDescs sl).any (fun o => decide (o.d.uid < d.uid) && d.meets o.d);
    let t := s.modDesc sl d.uid (fun d => { d with started := true, total := x.work d.raw });
    x.store.descs.find? (fun d => d.out == out && !d.started) = some d →
    (h = true → d.hazard = true → exec (.descriptorStart sl out) s = .next s) ∧
    (h = true → d.hazard = false → exec (.descriptorStart sl out) s =
      .next ((s.modDesc sl d.uid (fun d => { d with hazard := true })).count Obj.dmaHazard sl)) ∧
    (h = false → s.extentCheck sl d.raw = none → dMode d.raw ≠ 2 → exec (.descriptorStart sl out) s = .next t) ∧
    (h = false → s.extentCheck sl d.raw = none → dMode d.raw = 2 →
      exec (.descriptorStart sl out) s = .next (t.boxZero sl d.raw)) ∧
    (∀ st o, h = false → s.extentCheck sl d.raw = some (st, o) → exec (.descriptorStart sl out) s =
      .next (settle s (s.transferFault sl st (if out then 2 else 1) d.tag.toNat d.idx (dId d.raw) o)))) ∧
  ((∀ (s : State) (sl : SliceId) (out : Bool) (d : Desc), let x := s.slice sl;
    x.store.descs.find? (fun d => d.out == out) = some d → d.started = true → d.total ≤ d.pos →
    (∀ t ∈ x.store.tags, t.uid ≠ d.uid) → s.parkedPos sl d.uid = [] →
    let t := (s.modStore sl (fun t => { t with descs := t.descs.filter (fun e => e.uid != d.uid) })).count
      (if out then Obj.dmaDescOut else Obj.dmaDescIn) sl;
    (dFlagEn d.raw = false → exec (.descriptorComplete sl out) s = .next (settle s (t.runClusters sl))) ∧
    (dFlagEn d.raw = true → exec (.descriptorComplete sl out) s =
      .next (settle s ((t.setFlag (dFlag d.raw)).runClusters sl)))) ∧
  (∀ (s : State) (sl : SliceId) (tag : Nat) (e : TagEntry),
    (s.slice sl).store.tags.find? (fun e => e.tag == tag) = some e →
    exec (.tagExpiry sl tag) s =
      .next (settle s (((s.advanceTo (e.since + 100 * us)).freeTag sl e).tagFault (some sl.val) e.addr))))

/-- A request of a started descriptor goes to the sorter of its address's channel with at most 64 bytes that do not cross
a 64-byte boundary, which a request out takes from the tile store; with 2,048 tags held none is sent and the wait is
counted (R103, R221). Admission of it takes the slice's lowest free tag. When it is done its tag is free: the bytes of a
request out stand in device memory, those of a request in in the tile store; a whole block is written without a read of
its ECC (R203).

Each of these commands answers a next state here, under conditions on the state and the operands alone: dmaRequestSend,
dmaRequestDone. -/
def Obligations.DmaRequests : Prop :=
  (∀ (s : State) (sl : SliceId) (out : Bool) (ecc : List TsEcc) (d : Desc), let x := s.slice sl;
    x.store.descs.find? (fun d => d.out == out && d.started && decide (d.pos < d.total)) = some d →
    (2048 ≤ x.store.tags.length → exec (.dmaRequestSend sl ⟨out, ecc⟩) s = .next (s.count Obj.dmaTagFull sl)) ∧
    (x.store.tags.length < 2048 →
      let q := x.request d.raw d.pos;
      let r : MemReq := { source := .slice sl, addr := q.1, write := out, data := if out then x.ts q.2.1 q.2.2 else []
                          mask := if out then blockMask (q.1 % 64) q.2.2 else [] };
      let t := (s.modDesc sl d.uid (fun d => { d with pos := d.pos + q.2.2 })).send r (.dma d.uid d.pos q.2.2);
      (s.served q.1 = true → exec (.dmaRequestSend sl ⟨out, ecc⟩) s =
        .next (settle s (if out then t.eccReads sl (rowsIn q.2.1 q.2.2) ecc else t))) ∧
      (s.served q.1 = false → exec (.dmaRequestSend sl ⟨out, ecc⟩) s = .next (settle s (s.loseSliceWork sl))) ∧
      (dMode d.raw ≤ 1 → q.2.2 ≤ 64 ∧ q.1 % 64 + q.2.2 ≤ 64))) ∧
  (∀ (s : State) (ch : Nat) (q : SortReq) (n : Fin 6) (uid pos len : Nat), q.source = .slice n → q.link = .dma uid pos len →
    let l := (s.slice n).store.tags;
    let e : TagEntry := { tag := lowestFree 0 ((l.map (·.tag)).foldl ins []), uid := uid, out := q.write, pos := pos
                          len := len, addr := q.addr, since := s.clk.now, ch := ch, req := q.id, data := q.data };
    s.takeRes ch q = (s.modStore n (fun t => { t with tags := l ++ [e] })).peak Obj.dmaTagsPeak n (l.length + 1) ∧
    (∀ f ∈ l, f.tag ≠ e.tag)) ∧
  (∀ (s : State) (sl : SliceId) (tag : Nat) (ecc : MemErr) (e : TagEntry) (r : SortReq),
    (s.slice sl).store.tags.find? (fun e => e.tag == tag) = some e → s.mayFinish e.ch e.req = some r →
    let g := s.access e.ch r ecc;
    let u := g.2.freeTag sl e;
    (e.out = true → exec (.dmaRequestDone sl tag ecc) s = .next (settle s (u.dmaWritten sl e g.1))) ∧
    (e.out = false → exec (.dmaRequestDone sl tag ecc) s =
      .next (settle s (u.dmaRead sl ((g.2.slice sl).descOf e.uid) e g.1))) ∧
    (r.write = true → r.mask.contains false = false →
      g = (true, (s.unmarkBad r.addr).count Obj.chBytesWr e.ch 64)) ∧
    ((u.slice sl).descOf e.uid = none → u.dmaWritten sl e true =
      (u.writeBytes e.addr e.data).count Obj.dmaBytesOut sl e.len)) ∧
  (∀ (s : State) (sl : SliceId) (e : TagEntry),
    ((s.freeTag sl e).slice sl).store.tags = (s.slice sl).store.tags.filter (fun f => f.tag != e.tag))

/-! ## Slivers -/

/-- The instruction at the thread's PC, fetched from the cluster's cache, is executed, with 16 or 32 bits (R172 to R177);
one outside the thread's image is a fault with cause 3 (R193). A register-register or register-immediate
operation writes its result to rd and retires; LUI, AUIPC, JAL and the branches do as RV32I says; a load from the local
store takes its bytes, a store puts them there, where the ECC finds no error; a misaligned load and ECALL and EBREAK are
faults of the thread with their causes (R193).

A CSR instruction writes the CSR as its form says, unless it writes nothing, and gives rd the value the CSR had
(R175); a write of a read-only CSR or an access to one that is not implemented is a fault. FENCE only retires; FENCE.I in
direct mode empties the cluster's instruction cache (R189); WFI and SL.YIELD pass the core on (R176, R187).

Each of these commands answers a next state here, under conditions on the state and the operands alone:
sliverInstruction, csrAccess, fence, fenceI, wfi, slYield. -/
def Obligations.SliverInstructions : Prop :=
  (∀ (s t : State) (h : HartId) (cyc : Cycles) (ls : List LsEcc), ThreadGoes s h.num cyc t → let k := h.num;
    (∀ a, s.fetch k = .bad a → exec (.sliverInstruction h cyc ls) s = .next (settle s (t.faultAt k 3 a))) ∧
    (∀ i len, s.fetch k = .ok i len →
      exec (.sliverInstruction h cyc ls) s = .next (settle s (t.instr k cyc ls false i len))) ∧
  (∀ i, s.fetch k = .ok i 4 →
    let x := t.hart k;
    let f3 := bits i 14 12;
    let f7 := bits i 31 25;
    let a := x.getX (bits i 19 15);
    let b := x.getX (bits i 24 20);
    let rd := bits i 11 7;
    let op := bits i 6 0;
    let goes : (Hart → Hart) → Prop := fun f =>
      exec (.sliverInstruction h cyc ls) s = .next (settle s (t.modHart k (fun h => (f h).retire 4)));
    let jump : Word → Prop := fun pc => exec (.sliverInstruction h cyc ls) s =
      .next (settle s (t.modHart k (fun h => { h with pc := pc, minstret := h.minstret + 1, got := [] })));
    (op = 0x33 → f7 = 0 → goes (fun h => h.setX rd (alu f3 false a b))) ∧
    (op = 0x33 → f7 = 0x20 → (f3 = 0 ∨ f3 = 5) → goes (fun h => h.setX rd (alu f3 true a b))) ∧
    (op = 0x33 → f7 = 1 → goes (fun h => h.setX rd (mulDiv f3 a b))) ∧
    (op = 0x13 → f3 ≠ 1 → f3 ≠ 5 → goes (fun h => h.setX rd (alu f3 false a (immI i)))) ∧
    (op = 0x37 → goes (fun h => h.setX rd (BitVec.ofNat 32 (bits i 31 12 * 4096)))) ∧
    (op = 0x17 → goes (fun h => h.setX rd (x.pc + BitVec.ofNat 32 (bits i 31 12 * 4096)))) ∧
    (op = 0x63 → f3 ≠ 2 → f3 ≠ 3 → branchTaken f3 a b = true → jump (x.pc + immB i)) ∧
    (op = 0x63 → f3 ≠ 2 → f3 ≠ 3 → branchTaken f3 a b = false → goes id) ∧
    (op = 0x03 → f3 = 2 → (a + immI i).toNat % 4 = 0 → t.reach k (a + immI i).toNat 4 false = .loc → ls = [] →
      goes (fun h => h.setX rd (BitVec.ofNat 32 (ofLe (t.lsGet k (a + immI i).toNat 4))))) ∧
    (op = 0x23 → f3 = 2 → (a + immS i).toNat % 4 = 0 → t.reach k (a + immS i).toNat 4 true = .loc → ls = [] →
      exec (.sliverInstruction h cyc ls) s =
        .next (settle s ((t.lsPut k (a + immS i).toNat (le 4 b.toNat)).modHart k (fun h => h.retire 4)))) ∧
    (op = 0x03 → f3 = 2 → (a + immI i).toNat % 4 ≠ 0 →
      exec (.sliverInstruction h cyc ls) s = .next (settle s (t.faultAt k 2 (a + immI i).toNat))) ∧
    (i = 0x73 → exec (.sliverInstruction h cyc ls) s = .next (settle s (t.faultAt k 4 0))) ∧
    (i = 0x100073 → exec (.sliverInstruction h cyc ls) s = .next (settle s (t.faultAt k 5 0))))) ∧
  (∀ (s t : State) (h : HartId) (cyc : Cycles), ThreadGoes s h.num cyc t →
    let k := h.num;
    (∀ (w : Word) (old : Word),
      let i := w.toNat;
      let n := bits i 31 20;
      let f3 := bits i 14 12;
      let arg := if 4 ≤ f3 then BitVec.ofNat 32 (bits i 19 15) else (t.hart k).getX (bits i 19 15);
      let v := if f3 % 4 = 1 then arg else if f3 % 4 = 2 then old ||| arg else old &&& ~~~ arg;
      bits i 6 0 = 0x73 → f3 % 4 ≠ 0 → t.csrRead k cyc n = some old →
      ((f3 % 4 = 1 ∨ bits i 19 15 ≠ 0) → csrReadOnly n = false → exec (.csrAccess h cyc w) s =
        .next (settle s ((t.modHart k (fun h => (h.csrWrite n v).setX (bits i 11 7) old)).retire k 4))) ∧
      (f3 % 4 ≠ 1 → bits i 19 15 = 0 → exec (.csrAccess h cyc w) s =
        .next (settle s ((t.modHart k (fun h => h.setX (bits i 11 7) old)).retire k 4))) ∧
      ((f3 % 4 = 1 ∨ bits i 19 15 ≠ 0) → csrReadOnly n = true →
        exec (.csrAccess h cyc w) s = .next (settle s (t.faultAt k 1 i)))) ∧
    (∀ w : Word, t.csrRead k cyc (bits w.toNat 31 20) = none →
      exec (.csrAccess h cyc w) s = .next (settle s (t.faultAt k 1 w.toNat))) ∧
    exec (.fence h cyc) s = .next (settle s (t.retire k 4)) ∧
    (t.isDirect k = true → exec (.fenceI h cyc) s =
      .next (settle s ((t.modCluster (k / 64) (fun c => { c with ilines := [] })).retire k 4))) ∧
    (t.isDirect k = false → exec (.fenceI h cyc) s = .next (settle s (t.retire k 4))) ∧
    exec (.wfi h cyc) s = .next (settle s ((t.retire k 4).passOn k)) ∧
    exec (.slYield h cyc) s = .next (settle s ((t.retire k 4).passOn k)))

/-- SL.FWAIT on a set flag retires and leaves it set, on a clear one gives up the core until the wait limit; SL.FSET and
SL.FCLR set and clear the flag, a set in the same cycle winning (R180); SL.TIMEL reads Lodestar time and latches its upper
half for SL.TIMEH; SL.DIG adds one digest term to the task (R181); SL.DMAW retires once no more than its number of the
thread's descriptors are in flight.

SL.TSW and SL.VTSW put their bytes into the tile store through the window and then retire, when the address is a
multiple of the width, inside the allocation and outside its control region (R179); SL.DMAQ queues the descriptor at rs1
on the cluster DMA and gives rd the number in flight, or stalls while 16 of its direction are queued (R178); SL.EXIT ends
the thread, and with its last thread the task; a load that is stalled on the window is executed again (R184).

Each of these commands answers a next state here, under conditions on the state and the operands alone: slDmaq, slDmaw,
slFwait, slFset, slFclr, slExit, slTimel, slTimeh, slDig, slTsw, slVtsw, windowLoad. -/
def Obligations.ZalkaiInstructions : Prop :=
  (∀ (s t : State) (h : HartId) (cyc : Cycles) (rd rs1 rs2 : Fin 32), ThreadGoes s h.num cyc t →
    let k := h.num;
    let x := t.hart k;
    let f := (x.getX rs1).toNat % 1024;
    (t.flagOn f = true → exec (.slFwait h cyc rs1) s = .next (settle s (t.retire k 4))) ∧
    (t.flagOn f = false → exec (.slFwait h cyc rs1) s =
      .next (settle s ((t.leaveCore k (.flag f (t.clk.now + t.jobLimit))).buildGraph))) ∧
    exec (.slFset h cyc rs1) s = .next (settle s ((t.retire k 4).setFlag f)) ∧
    exec (.slFclr h cyc rs1 true) s = .next (settle s ((t.retire k 4).setFlag f)) ∧
    exec (.slFclr h cyc rs1 false) s = .next (settle s ((t.retire k 4).clearFlag f false)) ∧
    exec (.slTimel h cyc rd) s = .next (settle s ((t.modHart k (fun h =>
      { h with timeHi := BitVec.ofNat 32 (t.clk.lode / 2 ^ 32) }.setX rd (BitVec.ofNat 32 t.clk.lode))).retire k 4)) ∧
    exec (.slTimeh h cyc rd) s = .next (settle s ((t.modHart k (fun h => h.setX rd h.timeHi)).retire k 4)) ∧
    (∀ key, x.task = some key → exec (.slDig h cyc rs1 rs2) s = .next (settle s ((t.modTask key (fun t => { t with
      digests := addSlvTerm t.digests x.digLayer.toNat
        (digTerm ((x.getX rs1).setWidth 64) ((x.getX rs2).setWidth 64)) })).retire k 4))) ∧
    ((t.clusterOf k).inFlight k ≤ (x.getX rs1).toNat → exec (.slDmaw h cyc rs1) s = .next (settle s (t.retire k 4))) ∧
    ((x.getX rs1).toNat < (t.clusterOf k).inFlight k →
      exec (.slDmaw h cyc rs1) s = .next (settle s (t.leaveCore k (.dma (x.getX rs1).toNat))))) ∧
  (∀ (s t : State) (h : HartId) (cyc : Cycles) (rd rs1 rs2 : Fin 32), ThreadGoes s h.num cyc t →
    let k := h.num;
    let x := t.hart k;
    let n := hartSlice k;
    let a := (x.getX rs1).toNat;
    (∀ al : Alloc, (t.slice n).alloc = some al → 0x40000000 ≤ a → a ≤ 0x401FFFFF →
      al.ctrlRows * 128 ≤ a - 0x40000000 →
      (a % 4 = 0 → a - 0x40000000 + 4 ≤ al.len → exec (.slTsw h cyc rs1 rs2) s =
        .next (settle s ((t.modSlice n (fun y => y.tsPut (a - 0x40000000) (le 4 (x.getX rs2).toNat))).retire k 4))) ∧
      (a % 32 = 0 → a - 0x40000000 + 32 ≤ al.len → exec (.slVtsw h cyc rs1 rs2) s =
        .next (settle s ((t.modSlice n (fun y => y.tsPut (a - 0x40000000) (le 32 (x.getV rs2).toNat))).retire k 4)))) ∧
    (let b := t.lsGet k a 64;
     let c := t.clusterOf k;
     let d : Desc := { uid := (t.slice n).store.nextUid, idx := 0, out := dDir b, raw := b, tag := 0, started := false, pos := 0, total := 0,
                       hazard := false };
     let u := (t.modCluster (k / 64) (fun c => { c with cdescs := c.cdescs ++ [{ hart := k, pc := x.pc, d := d }] })).modStore
       n (fun t => { t with nextUid := t.nextUid + 1 });
     a < 0x6000 → x.lsLo ≤ a → a + 64 ≤ x.lsLo + x.lsLen →
     ((c.cdescs.filter (fun x => x.d.out == dDir b)).length < 16 → exec (.slDmaq h cyc rd ⟨rs1, []⟩) s =
       .next (settle s (((u.modHart k (fun h => h.setX rd (BitVec.ofNat 32 (c.inFlight k + 1)))).retire k 4).runCluster
         (k / 64)))) ∧
     (16 ≤ (c.cdescs.filter (fun x => x.d.out == dDir b)).length → exec (.slDmaq h cyc rd ⟨rs1, []⟩) s =
       .next (settle s (t.modHart k (fun h => { h with wait := .dmaq }))))) ∧
    (t.taskOf k = none → exec (.slExit h cyc) s = .next (settle s ((t.modHart k (Hart.retire 4)).leaveCore k .exited))) ∧
    (∀ (key : Nat) (y : Task), t.taskOf k = some (key, y) → ∃ v, exec (.slExit h cyc) s = .next (settle s v) ∧
      (v.hart k).wait = .exited ∧
      tfind v.tasks key = some { y with
        exited := ins y.exited k,
        ended := if (specHarts y.spec (key / 65536)).all (ins y.exited k).contains then
          some { cause := 0, pc := x.pc.toNat, status := St.ok, record := [] } else y.ended,
        judged := if (specHarts y.spec (key / 65536)).all (ins y.exited k).contains then y.spec.dual.isNone else y.judged } ∧
      (∀ j, j ≠ key → tfind v.tasks j = tfind s.tasks j) ∧ (∀ j, j ≠ k → v.hart j = s.hart j)) ∧
    (∀ (u v : State) (i len : Nat), (u.hart k).wait = .window → u.fetch k = .ok i len →
      ThreadGoes (u.modHart k (fun h => { h with wait := .ready })) k cyc v →
      exec (.windowLoad h ⟨cyc, []⟩) u = .next (settle u (v.instr k cyc [] true i len))))

/-- A task that may start on a slice is recorded, counted, and its threads are released at their entries; a task that its
package marks runs as two copies, the second in the clusters eight further on; images that its context may not read fault
the job (R185, R188, R191). A task whose budget ends while one of its threads holds its core is stopped with cause 6 (R195).
A cluster changes its mode while none of its threads runs, and both caches are then empty (R190).

Both copies of a task having ended, it is judged once: equal outputs only count; the first differing 32-byte word is a
dual-execution mismatch; the same fault in both is that fault; any other pair of ends is a mismatch (R192).

Each of these commands answers a next state here, under conditions on the state and the operands alone: sliverTaskStart,
cycleBudgetExhausted, dualCompare, clusterModeChange. -/
def Obligations.SliverTasks : Prop :=
  ((∀ (s : State) (sl : SliceId) (t : TaskSpec), s.mayStart sl t = true →
    let u := s.count Obj.slvTasks sl;
    (t.dual = none → s.imagesOk sl t = true → exec (.sliverTaskStart sl t) s = .next (u.beginTask sl t none)) ∧
    (∀ c, copySpec t = some c → s.mayStart sl c = true → c.id ≠ t.id →
      (∀ j ∈ specHarts c sl, ∀ k ∈ specHarts t sl, k / 4 ≠ j / 4) → s.imagesOk sl t = true →
      exec (.sliverTaskStart sl t) s = .next ((u.beginTask sl t none).beginTask sl c (some t.id))) ∧
    (t.dual = none → s.imagesOk sl t = false → exec (.sliverTaskStart sl t) s =
      .next (settle s (s.endJobFault sl St.pageRights none .faulted 4)))) ∧
  (∀ (s : State) (sl : SliceId) (t : TaskSpec) (by' : Option Nat), let b := s.bindSlivers sl t t.slivers;
    s.beginTask sl t by' = t.threads.foldl (fun s x => s.releaseThread sl t x) { b.1 with
      tasks := tput b.1.tasks (taskKey sl t.id) { spec := t, bind := b.2, copyOf := by', used := 0, till := 0, exited := [],
                                                  ended := none, judged := false, digests := [] } }) ∧
  (∀ (s : State) (sl : SliceId) (task : Nat) (t : Task) (b k : Nat), let key := taskKey sl task;
    tfind s.tasks key = some t → t.ended = none → t.spec.budget = some b →
    (specHarts t.spec sl).find? (fun k => (s.hart k).task == some key && (s.hart k).wait.holds false
      && s.curThread k == k % 4) = some k →
    exec (.cycleBudgetExhausted sl task) s =
      .next (settle s ((s.modTask key (fun t => { t with used := b })).faultAt k 6 (b % 2 ^ 32)))) ∧
  (∀ (s : State) (sl : SliceId) (cl : Fin 16) (direct : Bool) (by' : ProcId) (base : BitVec 3) (entry : Word),
    let ck := sl.val * 16 + cl.val;
    let early := s.rst.phase = .starting ∨ s.rst.phase = .recovery;
    let u := s.modCluster ck (fun c => { c with direct := direct, base := if direct then base else c.base, ilines := [],
                                                clines := [] });
    s.clusterStill ck = true → ((by'.val = P.btp ∧ early) ∨ (by'.val = P.scp ∧ (s.runs P.scp = true ∨ early))) →
    ((direct = false ∨ ¬ early) → exec (.clusterModeChange sl cl direct by' base entry) s = .next u) ∧
    (direct = true → early → exec (.clusterModeChange sl cl direct by' base entry) s =
      .next ((List.range 64).foldl (fun t i => t.wakeHart (ck * 64 + i) (fun _ => { Hart.init with
        pc := entry, lsLo := 0, lsLen := lsBytes })) u)))) ∧
  (∀ (s : State) (sl : SliceId) (task kb : Nat) (a b : Task) (ea eb : TaskEnd),
    let ka := taskKey sl task;
    tfind s.tasks ka = some a → s.tasks.find? (fun x => taskSlice x.1 == sl.val && x.2.copyOf == some task) = some (kb, b) →
    a.ended = some ea → b.ended = some eb → a.judged = false → ea.cause ≠ 8 → eb.cause ≠ 8 →
    let t := s.judge ka kb;
    let u := t.count Obj.slvDual sl;
    (ea.cause = 0 → eb.cause = 0 → s.firstDiff sl a.spec b.spec = none →
      exec (.dualCompare sl task) s = .next (settle s u)) ∧
    (∀ o, ea.cause = 0 → eb.cause = 0 → s.firstDiff sl a.spec b.spec = some o → exec (.dualCompare sl task) s =
      .next (settle s ((u.count Obj.slvDualFail sl).dualMismatch sl b eb.pc o))) ∧
    (ea.cause ≠ 0 → ea.cause = eb.cause → ea.pc = eb.pc → exec (.dualCompare sl task) s =
      .next (settle s (t.endJobFault sl ea.status (some ea.record) .faulted 4))) ∧
    ((ea.cause ≠ eb.cause ∨ (ea.cause ≠ 0 ∧ ea.pc ≠ eb.pc)) → exec (.dualCompare sl task) s =
      .next (settle s (t.dualMismatch sl b eb.pc 0xFFFFFFFF))))

/-- A miss is counted, sends a read of its line and stalls the thread, in direct mode the core passes on; a cached line
with an uncorrectable error leaves its cache and is fetched again (R185, R186, R189). A request that is admitted takes the
lowest free miss register. A line that arrives stands in its cache at the index of its address, its register is free and
the threads that wait for it go on; one that arrives with an uncorrectable error is counted and fetched again; data of the
cluster's DMA goes where its descriptor says; a register held for 100 µs is freed and is a fault (R104, R178).

Each of these commands answers a next state here, under conditions on the state and the operands alone: cacheMiss,
cacheLineFill, missRegisterExpiry. -/
def Obligations.SliverCaches : Prop :=
  (∀ (s : State) (h : HartId) (instr : Bool) (addr waited : Nat) (bad : Bool),
    let k := h.num;
    let c := s.clusterOf k;
    let n := hartSlice k;
    let line := addr / 64;
    let here := tfind (if instr then c.ilines else c.clines) line;
    let r : MemReq := { source := clusterSource (k / 64), addr := line * 64, write := false, data := [], mask := [] };
    let stalls : State → State := fun u =>
      if s.isDirect k then (u.send r (.line instr)).leaveCore k (.miss line)
      else (u.send r (.line instr)).modHart k (fun h => { h with wait := .miss line });
    let u := if waited = 0 then s else s.count Obj.slvMissFull n waited;
    s.mayIssue k = true → s.served addr = true →
    (here = none → exec (.cacheMiss h instr addr ⟨waited, bad⟩) s =
      .next (stalls (u.count (if instr then Obj.slvIcMiss else Obj.slvCcMiss) n))) ∧
    (here ≠ none → bad = true → exec (.cacheMiss h instr addr ⟨waited, bad⟩) s =
      .next (stalls ((u.modCluster (k / 64) (fun c => if instr then { c with ilines := tdel c.ilines line }
        else { c with clines := tdel c.clines line })).count Obj.slvCacheRefetch n)))) ∧
  (∀ (s : State) (ch : Nat) (q : SortReq) (n : Fin 6) (cl : Fin 16) (code : Bool), q.source = .cluster n cl → q.link = .line code →
    s.takeRes ch q = s.modCluster (n.val * 16 + cl.val) (fun c => { c with misses := c.misses ++ [
      { slot := lowestFree 0 ((c.misses.map (·.slot)).foldl ins []), what := if code then .code else .const, addr := q.addr
        since := s.clk.now, ch := ch, req := q.id }] })) ∧
  (∀ (s : State) (sl : SliceId) (cl : Fin 16) (slot : Fin 32) (ecc : MemErr) (ls : List LsEcc) (m : Miss) (r : SortReq),
    let ck := sl.val * 16 + cl.val;
    let g := s.access m.ch r ecc;
    (s.cluster ck).misses.find? (fun m => m.slot == slot.val) = some m → s.mayFinish m.ch m.req = some r →
    (m.what = .code → exec (.cacheLineFill sl cl slot ⟨false, ecc, ls⟩) s =
      .next (settle s ((g.2.lineArrives ck m true g.1).runClusters (ck / 16)))) ∧
    (m.what = .const → exec (.cacheLineFill sl cl slot ⟨false, ecc, ls⟩) s =
      .next (settle s ((g.2.lineArrives ck m false g.1).runClusters (ck / 16)))) ∧
    (m.what = .code ∨ m.what = .const → exec (.cacheLineFill sl cl slot ⟨true, ecc, ls⟩) s =
      .next ((s.modCluster ck (fun c => { c with misses := c.misses.map (fun (x : Miss) =>
        if x.slot == slot.val then { x with since := s.clk.now } else x) })).count Obj.slvCacheRefetch sl)) ∧
    (∀ uid pos len data, m.what = .dma uid pos len data → exec (.cacheLineFill sl cl slot ⟨false, ecc, ls⟩) s =
      .next (settle s (((g.2.freeMiss ck m).clusterMoved ck m uid pos len data g.1 ls).runClusters (ck / 16)))) ∧
    exec (.missRegisterExpiry sl cl slot) s =
      .next (settle s (((s.advanceTo (m.since + 100 * us)).freeMiss ck m).tagFault (some sl.val) m.addr))) ∧
  (∀ (l : List (Nat × Bytes)) (line : Nat) (b : Bytes) (v : Nat), tfind (fillLine l line b v) line = some b)

/-! ## Device memory -/

/-- A request to a backed page of a channel in service enters its sorter parked, or waits at its source when the bank's or
the sorter's room is taken or an earlier request of its source waits (R222); the bank's first parked request is admitted
while the bank has fewer than 128 and its source a free resource, which it takes, and heats its page (R215, R221, R223);
the sorter issues the request that R224 chooses, the read of its check block before it where it reads (R202), and all
reads of its block with it; one that has waited 4 µs is counted once (R225).

The sorter issues only an admitted request that no earlier admitted one to its block holds back; a request 4 µs old
goes before any younger one, and otherwise one to an open row before one that opens a row, the oldest first (R203, R224).

Each of these commands answers a next state here, under conditions on the state and the operands alone: sorterEnqueue,
requestAdmit, sorterIssue, requestAgeOver. -/
def Obligations.MemorySorter : Prop :=
  ((∀ (s : State) (r : MemReq), let c := (s.entry (r.addr / pageBytes)).channel;
    let w := (s.chan c).waiting.any (fun w => decide (w.1.source = r.source));
    (s.entry (r.addr / pageBytes)).backed = true → s.chInService c = true →
    (w = false → (s.chan c).room (s.placeOf r.addr).bank = true → exec (.sorterEnqueue r) s = .next (s.park c r .other)) ∧
    ((w = true ∨ (s.chan c).room (s.placeOf r.addr).bank = false) →
      exec (.sorterEnqueue r) s = .next (s.modChan c (fun x => { x with waiting := x.waiting ++ [(r, .other)] })))) ∧
  (∀ (s : State) (ch : ChanId) (bank : Fin 16) (r : SortReq), let c := s.chan ch;
    c.sorter.find? (fun r => r.bank == bank.val && r.admitted.isNone) = some r → c.admittedIn bank < 128 →
    s.hasResource r.source = true → s.rst.memHeld = false → c.waking = false → exec (.requestAdmit ch bank) s =
      .next ((((s.modReq ch r.id (fun q => { q with admitted := some s.clk.now })).takeRes ch r).heatUp
        (r.addr / pageBytes)).pullAll ch)) ∧
  (∀ (s : State) (ch : ChanId) (r : SortReq), let c := s.chan ch;
    let u := if !r.write || r.mask.contains false then s.readCheck ch r.addr else s;
    c.retraining = false → s.chInService ch = true → s.rst.memHeld = false → c.choose s.clk.now = some r →
    exec (.sorterIssue ch) s = .next ((u.modChan ch (fun x => { x with
      openRows := tput x.openRows r.bank r.row
      sorter := x.sorter.map (fun q =>
        if q.id == r.id || (!r.write && !q.write && q.block == r.block && c.mayIssue q) then { q with issued := true }
        else q) })).pullAll ch)) ∧
  (∀ (s : State) (ch : ChanId) (id t : Nat) (r : SortReq),
    (s.chan ch).sorter.find? (fun r => r.id == id && !r.issued && !r.aged) = some r → r.admitted = some t →
    exec (.requestAgeOver ch id) s = .next (((s.advanceTo (t + 4 * us)).modReq ch id (fun q =>
      { q with aged := true })).count Obj.chAgeOver ch))) ∧
  (∀ (c : Channel) (now : Nat) (r : SortReq), c.choose now = some r →
    r ∈ c.sorter ∧ c.mayIssue r = true ∧
    (∀ q ∈ c.sorter, c.mayIssue q = true → (q.aged = true ∨ q.admitted.getD 0 + 4 * us ≤ now) →
      (r.aged = true ∨ r.admitted.getD 0 + 4 * us ≤ now) ∧ r.admitted.getD 0 ≤ q.admitted.getD 0) ∧
    ((∀ q ∈ c.sorter, c.mayIssue q = true → q.aged = false ∧ now < q.admitted.getD 0 + 4 * us) →
      ∀ q ∈ c.sorter, c.mayIssue q = true → tfind c.openRows q.bank = some q.row →
        tfind c.openRows r.bank = some r.row ∧ r.admitted.getD 0 ≤ q.admitted.getD 0))

/-- A burst that passes EDC does its access; the first three that fail are retried and counted, the fourth retrains the
link, a failure after that retires the channel (R200). A retrain that succeeds lets the channel issue again; one that
fails retires it. A whole-block write of the host needs no read of its ECC and leaves the block good; it stands in every
copy of its page (R203, R210).

A mirror copy that was lost is placed anew on another GDDR6 device than the copy that is left, with its contents
(R210, R220); a block of a backed slot, a mirror copy's too, is scrubbed when no admitted request of its bank waits (R204,
R205); a slot that has been zeroed returns to the free pool, all of its bytes zero (R213).

Each of these commands answers a next state here, under conditions on the state and the operands alone: burstComplete,
retrainDone, mirrorReplace, scrubRead, slotZeroDone. -/
def Obligations.BurstsAndUpkeep : Prop :=
  ((∀ (s : State) (ch : ChanId) (id : Nat) (e : BurstEnd) (r : SortReq),
    (s.chan ch).sorter.find? (fun r => r.id == id && r.issued) = some r → (s.chan ch).retraining = false →
    s.rst.memHeld = false →
    (e.edcOk = true → (s.chan ch).inOrder r = true → exec (.burstComplete ch id e) s = .next (settle s (s.burstData ch r e.ecc))) ∧
    (e.edcOk = false → r.retrained = false → r.tries < 3 → exec (.burstComplete ch id e) s =
      .next ((s.modReq ch id (fun q => { q with tries := q.tries + 1 })).count Obj.chEdcRetry ch)) ∧
    (e.edcOk = false → r.retrained = false → 3 ≤ r.tries → exec (.burstComplete ch id e) s =
      .next (settle s ((s.modReq ch id (fun q => { q with tries := 4 })).retrain ch))) ∧
    (e.edcOk = false → r.retrained = true → exec (.burstComplete ch id e) s = .next (settle s (s.retireChannel ch))) ∧
    (e.edcOk = true → (s.chan ch).inOrder r = true → r.write = true → r.mask.contains false = false → r.link = .other →
      r.source = .media →
      let a := r.addr / 64 * 64;
      let u := (s.unmarkBad r.addr).count Obj.chBytesWr ch 64;
      exec (.burstComplete ch id e) s =
        .next (settle s ((u.writeBytes a (mergeBlock (u.readBytes a 64) r.data r.mask)).retireReq ch [r.id])))) ∧
  (∀ (s : State) (ch : ChanId), (s.chan ch).retraining = true → s.rst.memHeld = false →
    exec (.retrainDone ch false) s = .next (settle s (s.retireChannel ch)) ∧
    (∃ t, exec (.retrainDone ch true) s = .next t ∧ (t.chan ch).retraining = false ∧
      (t.chan ch).sorter = (s.chan ch).sorter.map (fun q => if q.tries = 4 then { q with retrained := true } else q)))) ∧
  ((∀ (s : State) (page d : Nat), let e := s.entry page;
    s.mem.remirror.any (fun m => m.1 == page) = true → e.backed = true → e.mirror = true →
    nextChan (fun d => s.freeSlots d != 0 && d / 2 != e.channel / 2) e.channel = some d →
    d / 2 ≠ e.channel / 2 ∧ d < 12 ∧
    (let k := s.takeSlot d;
      exec (.mirrorReplace page) s = .next { k.2 with mem := { k.2.mem with
        bytes := cputs k.2.mem.bytes (phys d k.1 0) (cgets k.2.mem.bytes (e.at 0) pageBytes)
        mirrors := tput k.2.mem.mirrors page (d, k.1), remirror := k.2.mem.remirror.filter (fun m => m.1 != page) } })) ∧
  (∀ (s : State) (ch : ChanId) (slot p : Nat) (block : Fin 256) (ecc : MemErr),
    s.chInService ch = true → (s.chan ch).retraining = false → s.rst.memHeld = false →
    let a := p * pageBytes + 64 * block.val;
    (∀ r ∈ (s.chan ch).sorter, r.admitted.isSome = true → r.issued = false → r.bank ≠ (s.placeOf a).bank) →
    (s.pageAt ch slot = some p → exec (.scrubRead ch slot block ecc) s = .next (settle s (s.eccRead ch a ecc).2)) ∧
    (s.pageAt ch slot = none → s.mirrorAt ch slot = some p →
      exec (.scrubRead ch slot block ecc) s = .next (settle s (s.eccMirror ch slot a ecc)))) ∧
  (∀ (s : State) (ch : ChanId) (slot : Nat), (s.chan ch).zeroing.contains slot = true →
    Memory.wf s.mem.bytes = true → ∃ t : State, exec (.slotZeroDone ch slot) s = .next (settle s t.endUnloads) ∧
      slot ∉ (t.chan ch).zeroing ∧ slot ∉ (t.chan ch).used ∧
      (∀ off < pageBytes, cget t.mem.bytes (phys ch slot off) = 0) ∧
      (∀ x, x < phys ch slot 0 ∨ phys ch slot 0 + pageBytes ≤ x → cget t.mem.bytes x = cget s.mem.bytes x) ∧
      t.mem.table = s.mem.table))

/-- HEAT_DECAY halves every HEAT (R215). A migration copies its page to the destination slot; the update then changes
CHANNEL, SLOT, SEED and MIG of the entry in one step and nothing else of it, the source slot is to be zeroed, and requests
not yet admitted go to the destination; a reader finds what it found before (R214, R217). An uncorrectable block abandons
the migration (R218).

A migration starts when the heats, the link loads, the rate and the room allow it (R216): the hottest stable page
without mirror of the hottest channel takes a slot on the coolest, its MIG becomes COPY, and its SEED is a free value.

Each of these commands answers a next state here, under conditions on the state and the operands alone: heatDecay,
migrationCheck, migrationCopyDone, migrationUpdate. -/
def Obligations.Migrations : Prop :=
  ((∀ s : State, ∃ t, exec .heatDecay s = .next t ∧ (∀ n, t.entry n = { s.entry n with heat := (s.entry n).heat / 2 }) ∧
    t = { s with mem := { s.mem with table := t.mem.table } }) ∧
  (∀ (s : State) (page : Nat) (m : Migration), let e := s.entry page;
    s.mem.migs.find? (fun m => m.page == page) = some m →
    (∀ errs t, e.mig = 1 → s.copyBlocks page errs = (true, t) →
      exec (.migrationCopyDone page errs) s = .next (({ t with mem := { t.mem with
        bytes := cputs t.mem.bytes (phys m.chan m.slot 0) (cgets t.mem.bytes (e.at 0) pageBytes) } } : State).setEntry page
          { e with mig := 2 })) ∧
    ((∀ b < 256, s.mem.badBlocks.contains (s.blockAt (page * pageBytes + 64 * b)) = false) → s.copyBlocks page [] = (true, s)) ∧
    (Memory.wf s.mem.bytes = true → ∀ off < pageBytes,
      cget (cputs s.mem.bytes (phys m.chan m.slot 0) (cgets s.mem.bytes (e.at 0) pageBytes)) (phys m.chan m.slot off) =
        cget s.mem.bytes (e.at off)) ∧
    (∀ errs t, e.mig = 1 → s.copyBlocks page errs = (false, t) →
      exec (.migrationCopyDone page errs) s = .next (settle s (t.abandonMig page))) ∧
    (e.mig = 2 → (∀ r ∈ (s.chan e.channel).sorter, r.admitted.isSome = true → r.addr / pageBytes ≠ page) →
      let u := (s.setEntry page { e with channel := m.chan, slot := m.slot, seed := m.seed, mig := 0 }).retireSlot e.channel
        e.slot;
      let t := u.movePending e.channel page;
      exec (.migrationUpdate page) s = .next (({ t with mem := { t.mem with
        migs := t.mem.migs.filter (fun x => x.page != page), migTimes := t.mem.migTimes ++ [t.clk.now] } } : State).count
          Obj.migrations) ∧
      t.entry page = { e with channel := m.chan, slot := m.slot, seed := m.seed, mig := 0 } ∧
      (∀ n, n ≠ page → t.entry n = s.entry n) ∧ e.slot ∈ (t.chan e.channel).zeroing ∧ t.mem.bytes = s.mem.bytes ∧
      (∀ a, (a / pageBytes = page → cget s.mem.bytes (phys m.chan m.slot (a % pageBytes)) = cget s.mem.bytes (e.at (a % pageBytes))) →
        t.readByte a = s.readByte a)))) ∧
  (∀ (s : State) (busy : List ChanId) (h l p : Nat) (e : Entry),
    let chans := upTo 12 s.chInService;
    let times := s.mem.migTimes.filter (fun t => decide (s.clk.now < t + 1000 * ms));
    let u : State := { s with mem := { s.mem with migTimes := times } };
    minBy (fun c => 2 ^ 32 - s.chanHeat c) chans = some h → minBy s.chanHeat chans = some l →
    exceeds (s.chanHeat h * chans.length) (s.num Obj.migSkew) (sumOf s.chanHeat chans) = true →
    (∀ b ∈ busy, b.val ≠ h ∧ b.val ≠ l) → times.length < s.num Obj.migRate → s.mem.migs.length < 4 → s.freeSlots l ≠ 0 →
    minBy (fun e : Nat × Entry => 255 - e.2.heat) (s.mem.table.filter (fun e =>
      e.2.backed && e.2.channel == h && e.2.mig == 0 && !e.2.mirror)) = some (p, e) →
    exec (.migrationCheck busy) s = .next
      (let k := u.takeSlot l;
       let v := k.2.draw;
       let w := v.2.setEntry p { e with mig := 1 };
       { w with mem := { w.mem with migs := w.mem.migs ++ [{ page := p, chan := l, slot := k.1, seed := v.1 % 16 }] } }))

/-! ## Peers -/

/-- The first frame of a peer's transfer is checked against its inbound window; where that fails it is answered with
ABORT (R229). The next segment expected is written to device memory and counted, unless a block at its edge, which is
read first, has an uncorrectable error (R203); any other is answered with an ACK (R231).
A frame that repeats a completed transfer changes nothing, and its identifier is kept for 100 ms (R233).

A segment whose write the memory controller has acknowledged is acknowledged with every eighth, with the last, and
50 µs after it was accepted (R231); the last completes a GET or sets WIN_FLAG (R233).

An ACK that advances lets the window move on, and the last completes the PUT (R231, R233). 1 ms without an advance
resends from the oldest unacknowledged segment, or the GET, and after 8 resends the initiator gives up (R232). An ABORT
ends the transfer with its status. A write of PEER_ENABLE sets PEER_STATE to UP or DISABLED.

Each of these commands answers a next state here, under conditions on the state and the operands alone: peerEnable,
peerDataRx, peerSegmentWritten, peerAckRx, peerGetRx, peerAbortRx, peerAckTimer, peerResendTimer, peerXferIdExpiry. -/
def Obligations.PeerFrames : Prop :=
  (∀ (s : State) (p : PeerId) (f : PeerFrame), s.peerOn p = true →
    (s.wasXfer p f.xfer f.getReply = true → exec (.peerDataRx p f) s = .next s) ∧
    (s.wasXfer p f.xfer f.getReply = false → ∀ t, s.xfer p f.xfer f.getReply = some t → t.sending = false →
      (f.seq ≠ t.next → exec (.peerDataRx p f) s = .next (s.peerSend p (plainTx peerAck t t.acked 0))) ∧
      (f.seq = t.next → f.data ≠ [] → f.data.length = s.segLen p t.total f.seq →
        let a := t.loc + f.seq * s.num Obj.peerSeg p;
        let z := a + f.data.length;
        let u := s.blocksRead (((if a % 64 != 0 then [a / 64] else []) ++ (if z % 64 != 0 then [z / 64] else [])).foldl ins []);
        (u.1 = true → exec (.peerDataRx p f) s = .next (((u.2.writeBytes a f.data).modXfer p t.xfer (xferMine t) (fun t =>
          { t with next := t.next + 1, accepted := t.accepted ++ [u.2.clk.now] })).count Obj.peerBytes p f.data.length)) ∧
        (u.1 = false → exec (.peerDataRx p f) s = .next u.2) ∧
        (a % 64 = 0 → z % 64 = 0 → u = (true, s)))) ∧
    (s.wasXfer p f.xfer false = false → s.xfer p f.xfer false = none →
      let t := { xfer := f.xfer, item := none, sending := false, get := false, loc := f.addr, remote := 0, total := f.total, acked := 0, next := 0, unacked := 0, accepted := [], since := s.clk.now, resends := 0 : Xfer };
      (f.getReply = false → s.windowOk p f.addr f.total true = false →
        exec (.peerDataRx p f) s = .next (s.peerSend p (refuseTx f))) ∧
      (f.getReply = false → s.windowOk p f.addr f.total true = true → exec (.peerDataRx p f) s =
        .next ((s.modPeer p (fun q => { q with xfers := q.xfers ++ [t] })).takeData p t f)) ∧
      (s.windowOk p f.addr f.total false = false → exec (.peerGetRx p f) s = .next (s.peerSend p (refuseTx f))) ∧
      (s.windowOk p f.addr f.total false = true → exec (.peerGetRx p f) s =
        .next ((s.modPeer p (fun q => { q with xfers := q.xfers ++ [{ t with sending := true, get := true }] })).fillWindow
          p f.xfer false))) ∧
    (∀ (x : Word) (mine : Bool) (at' : Nat), (s.peer p).done.find? (fun d => d.1 == x && d.2.1 == mine) = some (x, mine, at') →
      exec (.peerXferIdExpiry p x mine) s = .next ((s.advanceTo (at' + 100 * ms)).modPeer p (fun q =>
        { q with done := q.done.filter (fun d => !(d.1 == x && d.2.1 == mine)) })))) ∧
  (∀ (s : State) (p : PeerId) (x : Word) (mine : Bool) (t : Xfer), s.xfer p x mine = some t → t.sending = false →
    (t.acked < t.next →
      let u := s.modXfer p x mine (fun t => { t with
        acked := t.acked + 1, unacked := t.unacked + 1 });
      (t.acked + 1 ≠ s.segments p t.total → t.unacked + 1 < 8 → exec (.peerSegmentWritten p x mine) s = .next u) ∧
      (t.acked + 1 ≠ s.segments p t.total → 8 ≤ t.unacked + 1 →
        exec (.peerSegmentWritten p x mine) s = .next (u.sendAck p x mine)) ∧
      (t.acked + 1 = s.segments p t.total → t.get = true → exec (.peerSegmentWritten p x mine) s =
        .next (settle s (((u.sendAck p x mine).closeXfer p x mine).endXferItem t St.ok))) ∧
      (t.acked + 1 = s.segments p t.total → t.get = false →
        let v := (u.sendAck p x mine).closeXfer p x mine;
        (s.num Obj.winFlag p = 0xFFFF → exec (.peerSegmentWritten p x mine) s = .next v) ∧
        (s.num Obj.winFlag p ≠ 0xFFFF →
          exec (.peerSegmentWritten p x mine) s = .next (settle s (v.setFlag (s.num Obj.winFlag p)))))) ∧
    (∀ a l, t.accepted = a :: l → exec (.peerAckTimer p x mine) s = .next ((s.advanceTo (a + 50 * us)).sendAck p x mine)) ∧
    (t.accepted = [] → exec (.peerAckTimer p x mine) s = .next s)) ∧
  ((∀ (s : State) (p : PeerId) (f : PeerFrame) (t : Xfer), s.peerOn p = true → s.xferOf p f = some t →
    (t.sending = true → t.acked < f.ack → f.ack ≤ s.segments p t.total →
      let u := s.modXfer p f.xfer (xferMine t) (fun t => { t with acked := f.ack, since := s.clk.now, resends := 0
                                                                  next := max t.next f.ack });
      (f.ack = s.segments p t.total → exec (.peerAckRx p f) s =
        .next (settle s ((u.closeXfer p f.xfer (xferMine t)).endXferItem t St.ok))) ∧
      (f.ack ≠ s.segments p t.total → exec (.peerAckRx p f) s = .next (u.fillWindow p f.xfer (xferMine t)))) ∧
    (f.status ≠ 0 → exec (.peerAbortRx p f) s =
      .next (settle s ((s.dropXfer p f.xfer (xferMine t)).endXferItem t f.status)))) ∧
  (∀ (s : State) (p : PeerId) (x : Word) (mine : Bool) (t : Xfer), s.xfer p x mine = some t →
    let waits := (t.sending = true ∧ t.acked < t.next) ∨
      (t.sending = false ∧ t.get = true ∧ t.next = 0 ∧ t.item.isSome = true);
    let u := s.advanceTo (t.since + ms);
    let v := u.modXfer p x mine (fun t => { t with resends := t.resends + 1, since := u.clk.now });
    (waits → 8 ≤ t.resends → exec (.peerResendTimer p x mine) s = .next (settle s (u.giveUp p t))) ∧
    (waits → t.resends < 8 → t.sending = true → exec (.peerResendTimer p x mine) s =
      .next (((List.range t.next).filter (fun q => decide (t.acked ≤ q))).foldl
        (fun s q => (s.sendSegment p t q).count Obj.peerRetx p) v)) ∧
    (waits → t.resends < 8 → t.sending = false → exec (.peerResendTimer p x mine) s =
      .next ((v.peerSend p (plainTx peerGet t 0 0)).count Obj.peerRetx p)) ∧
    (¬ waits → exec (.peerResendTimer p x mine) s = .next s)) ∧
  (∀ (s : State) (p : PeerId) (w : CmdW), Turn s w.req → Writes s Obj.peerEnable p (peerEnableRule p) (.num w.value) →
    exec (.peerEnable p w) s = .next (settle s (s.wrote w.req Obj.peerEnable p (fun u =>
      (u.setNum Obj.peerEnable p w.value).setNum Obj.peerState p w.value)))))

/-! ## Work -/

/-- A doorbell entry in its turn. SQ_TAIL: the tail is latched if it is neither past the ring nor behind the latched tail;
CQ_HEAD: the items the host has consumed become FREE if it neither moves back nor passes the last item posted; EVT_HEAD:
waiting events are written as space returns. An entry that fails posts DOORBELL_BAD with RANGE or STATE_CONFLICT.

The next entry of a submission ring, as read from its slot: it is consumed, and refused with UNAVAILABLE, RANGE,
PAGE_RIGHTS or STATE_CONFLICT by the first check that it fails, or goes on to acceptance, deferred where it carries DEFER
and only its precondition fails (R243, R265).

Each of these commands answers a next state here, under conditions on the state and the operands alone: sqTail, cqHead,
evtHead, logHead, traceHead, submissionRead. -/
def Obligations.RingEntries : Prop :=
  (∀ (s : State) (r : Req) (d : Doorbell), Turn s r →
    (let h := s.num Obj.sqHead d.queue;
     let n := sub32 d.value.toNat h;
     let ok := n ≤ s.num Obj.qDepth d.queue ∧ sub32 (s.num Obj.sqTail d.queue) h ≤ n;
     (d.pad = 0 → d.queue ≤ 63 → s.num Obj.qEnable d.queue ≠ 0 → ok → exec (.sqTail r d) s = .next (s.rung r 0 d 0)) ∧
     (d.pad = 0 → d.queue ≤ 63 → s.num Obj.qEnable d.queue ≠ 0 → ¬ ok → exec (.sqTail r d) s = .next (s.rung r 0 d 0x0101))) ∧
    (let ok := sub32 d.value.toNat (s.num Obj.cqHead d.queue) ≤ s.num Obj.qLastPosted d.queue + 1 - s.num Obj.cqHead d.queue;
     (d.pad = 0 → d.queue ≤ 63 → s.num Obj.qEnable d.queue ≠ 0 → ok → exec (.cqHead r d) s = .next (s.rung r 1 d 0)) ∧
     (d.pad = 0 → d.queue ≤ 63 → s.num Obj.qEnable d.queue ≠ 0 → ¬ ok → exec (.cqHead r d) s = .next (s.rung r 1 d 0x0101))) ∧
    ((d.pad ≠ 0 ∨ 63 < d.queue) → exec (.sqTail r d) s = .next (s.rung r 0 d 0x0101) ∧
      exec (.cqHead r d) s = .next (s.rung r 1 d 0x0101)) ∧
    (d.pad = 0 → d.queue ≤ 63 → s.num Obj.qEnable d.queue = 0 → exec (.sqTail r d) s = .next (s.rung r 0 d 0x0100) ∧
      exec (.cqHead r d) s = .next (s.rung r 1 d 0x0100)) ∧
    (let ok := s.num Obj.evtHead ≤ d.value.toNat ∧ d.value.toNat ≤ s.num Obj.evtTail + 1;
     (d.pad = 0 → ok → exec (.evtHead r d) s = .next (s.rung r 2 d 0)) ∧
     (d.pad = 0 → ¬ ok → exec (.evtHead r d) s = .next (s.rung r 2 d 0x0101))) ∧
    (d.pad = 0 → exec (.logHead r d) s = .next (s.rung r 3 d 0) ∧ exec (.traceHead r d) s = .next (s.rung r 4 d 0)) ∧
    (d.pad ≠ 0 → exec (.evtHead r d) s = .next (s.rung r 2 d 0x0101) ∧ exec (.logHead r d) s = .next (s.rung r 3 d 0x0101) ∧
      exec (.traceHead r d) s = .next (s.rung r 4 d 0x0101))) ∧
  (∀ (s : State) (q : QueueId) (p k : Nat), s.mayAccept q = true → s.frameHeld q = false →
    s.num Obj.sqHead q ≠ s.num Obj.sqTail q → (s.queue q).sqPages = some (p, k) →
    let h := s.num Obj.sqHead q;
    let a := p * pageBytes + 64 * (h % s.num Obj.qDepth q);
    let t := (s.setNum Obj.sqHead q ((h + 1) % 2 ^ 32)).noteChange (some q);
    let b := s.readBytes a 64;
    let held := s.precond q (s.num Obj.qLastAccepted q + 1) b;
    let defer := (fld b 1 1).testBit 0 = true ∧ s.lostRefused b = false;
    (s.blockLost a = true → exec (.submissionRead q) s = .next (t.refuse q h 0x0500 0)) ∧
    (s.mem.badBlocks.contains (s.blockAt a) = false →
      (fieldsOk b = false → exec (.submissionRead q) s = .next (t.refuse q h 0x0101 (fld b 8 8))) ∧
      (fieldsOk b = true → s.rightsOk b = false →
        exec (.submissionRead q) s = .next (t.refuse q h 0x0201 (fld b 8 8))) ∧
      (fieldsOk b = true → s.rightsOk b = true → held = true →
        exec (.submissionRead q) s = .next (t.modQueue q (fun x => { x with accepting := some (b, false) }))) ∧
      (fieldsOk b = true → s.rightsOk b = true → held = false → defer →
        exec (.submissionRead q) s = .next (t.modQueue q (fun x => { x with accepting := some (b, true) }))) ∧
      (fieldsOk b = true → s.rightsOk b = true → held = false → ¬ defer →
        exec (.submissionRead q) s = .next (t.refuse q h 0x0100 (fld b 8 8)))))

/-- Acceptance gives an item the queue's next sequence number (R244). A stream's oldest complete frame becomes an item of
its queue (R24), with the job identifier of R246 and its deadline counted from its start of frame; a frame that finds its
journal slot taken, or the host's lease orphaned, is dropped and counted in Q_DROPPED (what Q_DROPPED
counts is the model's reading, notes/assumptions/58.md).

Each of these commands answers a next state here, under conditions on the state and the operands alone: itemAccept,
streamJobAccept. -/
def Obligations.Acceptances : Prop :=
  (∀ (s : State) (q : QueueId) (b : Bytes) (d : Bool), (s.queue q).accepting = some (b, d) → s.accepts = true →
    s.frameHeld q = false → s.slotFree q = true →
    let n := s.num Obj.qLastAccepted q + 1;
    let i := { Item.new n (fld b 8 8) b (s.epochBefore s.clk.lode) s.clk.lode s.clk.now s.clk.now (s.num Obj.qPrio q) (if fld b 0 1 = 1 ∧ fld b 32 4 ≠ 0 then some (s.clk.now + fld b 32 4 * us) else none) with deferred := d };
    let t := s.addItem q i;
    (d = true → exec (.itemAccept q) s =
      .next ((t.notice q (sub32 (s.num Obj.sqHead q) 1) St.deferred (fld b 8 8)).thenNext q)) ∧
    (d = false → fld b 0 1 ≠ 2 → fld b 0 1 ≠ 3 → exec (.itemAccept q) s = .next (t.thenNext q)) ∧
    (d = false → fld b 0 1 = 2 → exec (.itemAccept q) s =
      .next ((t.modCtx (fld b 2 2) (fun x => { x with state := .loading, byItem := some (q.val, n) })).thenNext q)) ∧
    (d = false → fld b 0 1 = 3 → exec (.itemAccept q) s =
      .next ((t.modCtx (fld b 2 2) (fun x => { x with state := .unloading, byItem := some (q.val, n) })).thenNext q))) ∧
  (∀ (s : State) (n : StreamId) (f : Frame) (rest : List Frame) (q c g : Nat), (s.stream n).complete = f :: rest →
    (s.stream n).attach = some (q, c, g) → s.accepts = true →
    let t := s.modStream n (fun x => { x with complete := rest });
    (s.orphaned = true → exec (.streamJobAccept n) s = .next ((t.freeSet n f.set).count Obj.qDropped q)) ∧
    (s.orphaned = false → s.frameAhead q f = false → ((s.queue q).accepting = none ∨ f.held = true) → s.slotFree q = false →
      exec (.streamJobAccept n) s = .next (t.dropFrame n f 4)) ∧
    (s.orphaned = false → s.frameAhead q f = false → ((s.queue q).accepting = none ∨ f.held = true) → s.slotFree q = true →
      exec (.streamJobAccept n) s = .next ((t.acceptFrame n q c g f).buildGraph) ∧
      ∃ i ∈ ((t.acceptFrame n q c g f).queue q).items, (t.acceptFrame n q c g f).num Obj.qLastAccepted q = i.seq ∧
        i.seq = s.num Obj.qLastAccepted q + 1 ∧
        i.job = 2 ^ 63 + n * 2 ^ 40 + tget 0 s.work.frameCounts n % 2 ^ 40 ∧
        i.deadline = some (f.sofMono + s.deadlineOf n f.epoch * ms) ∧ i.sof = f.sof ∧ i.epoch = f.epoch ∧
        i.stream = some n.val ∧ i.state = .accepted))

/-- A command that its queue takes up: a FLAG_SET sets its flag, a FLAG_CLR clears it, a FLAG_WAIT ends at once on a flag
already set, which it clears if it consumes, and begins its wait otherwise (R258 to R260); a MARKER is DONE when every
earlier item is. One whose precondition no longer holds ends with STATE_CONFLICT, or is held if it is deferred (R265).

Each of these commands answers a next state here, under conditions on the state and the operands alone: load, unload,
attach, detach, flagSet, flagClr, flagWait, put, get, alloc, free, adopt, marker. -/
def Obligations.QueueCommands : Prop :=
  ∀ (s : State) (q : QueueId) (i : Item),
    (TakesUp s q 6 i → exec (.flagSet q) s =
      .next (settle s (((s.setFlag i.flag).finish q i.seq (Finish.plain St.ok)).thenNext q))) ∧
    (TakesUp s q 7 i → exec (.flagClr q false) s = .next (settle s ((({ s with work := { s.work with
      flags := s.work.flags.filter (fun f => f != i.flag) } } : State).finish q i.seq (Finish.plain St.ok)).thenNext q)) ∧
      exec (.flagClr q true) s =
        .next (settle s (((s.setFlag i.flag).finish q i.seq (Finish.plain St.ok)).thenNext q))) ∧
    (TakesUp s q 8 i →
      (i.flag ∈ s.work.flags → i.consumes = false → exec (.flagWait q) s =
        .next (settle s ((s.finish q i.seq (Finish.plain St.ok)).thenNext q))) ∧
      (i.flag ∈ s.work.flags → i.consumes = true → exec (.flagWait q) s =
        .next (settle s (((s.finish q i.seq (Finish.plain St.ok)).clearFlag i.flag false).thenNext q))) ∧
      (i.flag ∉ s.work.flags → i.waitFrom = none → exec (.flagWait q) s = .next (settle s ((s.modItem q i.seq (fun j =>
        { j with waitFrom := some s.clk.now, waitEnd := s.clk.now + s.itemLimit j })).thenNext q)))) ∧
    (TakesUp s q 14 i →
      (s.earlierDone q i.seq = true →
        exec (.marker q) s = .next (settle s ((s.finish q i.seq (Finish.plain St.ok)).thenNext q))) ∧
      (s.earlierDone q i.seq = false → exec (.marker q) s = .next (settle s (s.thenNext q)))) ∧
    (s.holdsFor q i = false → i.deferred = false →
      let t := settle s ((s.finish q i.seq (Finish.plain St.stateConflict)).thenNext q);
      (s.itemFor q 3 = some i → exec (.unload q) s = .next t) ∧ (s.itemFor q 4 = some i → exec (.attach q) s = .next t) ∧
      (s.itemFor q 5 = some i → exec (.detach q) s = .next t) ∧ (s.itemFor q 9 = some i → exec (.put q) s = .next t) ∧
      (s.itemFor q 10 = some i → exec (.get q) s = .next t) ∧ (s.itemFor q 11 = some i → exec (.alloc q) s = .next t) ∧
      (s.itemFor q 12 = some i → exec (.free q) s = .next t) ∧ (s.itemFor q 13 = some i → exec (.adopt q) s = .next t) ∧
      (∀ k, s.itemFor q 2 = some i → exec (.load q k) s = .next t)) ∧
    (s.holdsFor q i = false → i.deferred = true →
      let t := settle s (s.thenNext q);
      (s.itemFor q 3 = some i → exec (.unload q) s = .next t) ∧ (s.itemFor q 4 = some i → exec (.attach q) s = .next t) ∧
      (s.itemFor q 5 = some i → exec (.detach q) s = .next t) ∧ (s.itemFor q 9 = some i → exec (.put q) s = .next t) ∧
      (s.itemFor q 10 = some i → exec (.get q) s = .next t) ∧ (s.itemFor q 11 = some i → exec (.alloc q) s = .next t) ∧
      (s.itemFor q 12 = some i → exec (.free q) s = .next t) ∧ (s.itemFor q 13 = some i → exec (.adopt q) s = .next t) ∧
      (∀ k, s.itemFor q 2 = some i → exec (.load q k) s = .next t))

/-- ALLOC and FREE change pages while no job of the context is dispatched; ADOPT joins the open set or forms an epoch
(R266); ATTACH takes the stream's output sets, DETACH ends the attachment and completes when the accepted jobs are DONE
(R242); PUT and GET check their region and their peer, wait for one of the 16 transfers of a peer, and begin (R228).

A LOAD whose package the verifier rejects ends with VERIFY_REJECT and its record (R137), and leaves its context EMPTY;
one whose pages cannot be allocated ends with RESOURCE_OVERFLOW; otherwise its image is placed, and when it has been read
the context is READY with its digest. An UNLOAD frees every page of the context, which is
EMPTY, and the command DONE, when all of them have been zeroed (R239).

Each of these commands answers a next state here, under conditions on the state and the operands alone: load,
loadComplete, unload, attach, detach, put, get, alloc, free, adopt. -/
def Obligations.ContextItems : Prop :=
  (∀ (s : State) (q : QueueId) (i : Item),
    let c := i.context;
    let ends := fun (t : State) (status : Nat) => settle s ((t.finish q i.seq (Finish.plain status)).thenNext q);
    (TakesUp s q 11 i →
      let r := fld i.entry 20 1;
      let e := ctxEntry c (r.testBit 0) (r.testBit 1) (r.testBit 2) (r.testBit 3);
      (s.ctxStill c = false → exec (.alloc q) s = .next (settle s (s.thenNext q))) ∧
      (s.ctxStill c = true → s.alloc (fld i.entry 16 4) e = none →
        exec (.alloc q) s = .next (ends s St.resourceOverflow)) ∧
      (∀ p t, s.ctxStill c = true → s.alloc (fld i.entry 16 4) e = some (p, t) →
        exec (.alloc q) s = .next (ends ((t.modCtx c (fun x => { x with
          allocs := x.allocs ++ [(p, fld i.entry 16 4)] })).modItem q i.seq (fun j =>
            { j with digest := BitVec.ofNat 64 (p * pageBytes) })) St.ok))) ∧
    (TakesUp s q 12 i →
      let p := fld i.entry 24 8 / pageBytes;
      let k := fld i.entry 16 4;
      (s.ctxStill c = false → exec (.free q) s = .next (settle s (s.thenNext q))) ∧
      (s.ctxStill c = true → exec (.free q) s =
        .next (ends ((s.freePages p k).modCtx c (fun x => { x with allocs := cutRuns x.allocs p k })) St.ok))) ∧
    (TakesUp s q 13 i →
      let key := weightKey c (fld i.entry 20 1);
      let v := Val.blob (s.readBytes (fld i.entry 24 8) (fld i.entry 16 4));
      (s.setFull key = true → exec (.adopt q) s = .next (ends s St.busy)) ∧
      (s.work.openSet = none → exec (.adopt q) s = .next (ends (s.commitEpoch [(key, v)]) St.ok)) ∧
      (∀ l, s.work.openSet = some l → s.setFull key = false → exec (.adopt q) s =
        .next (ends { s with work := { s.work with openSet := some (tput l key v) } } St.ok))) ∧
    (TakesUp s q 4 i →
      let n := fld i.entry 16 1;
      let got := s.takeSets n c (s.num Obj.srcEnable n == 1);
      ((s.stream n).sets.isSome = true ∨ s.ctxStill c = false → exec (.attach q) s = .next (settle s (s.thenNext q))) ∧
      ((s.stream n).sets = none → s.ctxStill c = true → got = none →
        exec (.attach q) s = .next (ends s St.resourceOverflow)) ∧
      (∀ t, (s.stream n).sets = none → s.ctxStill c = true → got = some t → exec (.attach q) s =
        .next (ends (t.modStream n (fun x => { x with attach := some (q.val, c, fld i.entry 18 2), lostFrom := none,
                                                            reason := 2 })) St.ok))) ∧
    (TakesUp s q 5 i →
      let n := fld i.entry 16 1;
      ((s.detachStream n).streamDone n = true → exec (.detach q) s = .next (ends (s.detachStream n) St.ok)) ∧
      ((s.detachStream n).streamDone n = false →
        exec (.detach q) s = .next (settle s (((s.detachStream n).begin q i.seq).thenNext q)))) ∧
    (let p := fld i.entry 16 1;
     let a := fld i.entry 24 8;
     let len := fld i.entry 40 4;
     let room := (s.peer p).xfers.length < 16 ∧ s.inFlight < 64;
     let t := fun get => settle s (((s.begin q i.seq).beginXfer p q i.seq a (fld i.entry 32 8) len get).thenNext q);
     let up := s.peerOn p = true ∧ s.num Obj.peerState p ≠ 2;
      (TakesUp s q 9 i →
        (s.ctxRights c false a len = false → exec (.put q) s = .next (ends s St.pageRights)) ∧
        (s.ctxRights c false a len = true → ¬ up → exec (.put q) s = .next (ends s St.unavailable)) ∧
        (s.ctxRights c false a len = true → up → ¬ room → exec (.put q) s = .next (settle s (s.thenNext q))) ∧
        (s.ctxRights c false a len = true → up → room → exec (.put q) s = .next (t false))) ∧
      (TakesUp s q 10 i →
        (s.ctxRights c true a len = false → exec (.get q) s = .next (ends s St.pageRights)) ∧
        (s.ctxRights c true a len = true → ¬ up → exec (.get q) s = .next (ends s St.unavailable)) ∧
        (s.ctxRights c true a len = true → up → ¬ room → exec (.get q) s = .next (settle s (s.thenNext q))) ∧
        (s.ctxRights c true a len = true → up → room → exec (.get q) s = .next (t true))))) ∧
  (∀ (s : State) (q : QueueId) (i : Item) (k : Package),
    let c := i.context;
    (TakesUp s q 2 i →
      (∀ code r, pkgVerify k c = some (code, r) →
        let x := s.rejectRecord c code r;
        exec (.load q k) s = .next (settle s ((((s.setBlob Obj.verifyLast 0 x).count Obj.verifyRejects).failLoad q i.seq c
          0x0200 (some x)).thenNext q))) ∧
      (pkgVerify k c = none → s.alloc k.imagePages (ctxEntry c true true false false) = none →
        exec (.load q k) s = .next (settle s ((s.failLoad q i.seq c 0x0202 none).thenNext q))) ∧
      (∀ a t b u, pkgVerify k c = none → s.alloc k.imagePages (ctxEntry c true true false false) = some (a, t) →
        t.alloc (poolPages k) (ctxEntry c true true false false) = some (b, u) →
        exec (.load q k) s = .next (settle s (((u.modCtx c (fun x => { x with
          state := .loading, byItem := some (q.val, i.seq), pkg := some k, image := some (a, k.imagePages)
          poolAt := some (b, poolPages k) })).begin q i.seq).thenNext q)))) ∧
    (TakesUp s q 3 i →
      let t := (s.ownedBy c).foldl (fun s p => s.freePage p) s;
      exec (.unload q) s = .next (settle s (((((t.dropHistory c).modCtx c (fun x => { x with
        state := .unloading, byItem := some (q.val, i.seq), zeroing := x.zeroing ++ s.newZeroing t })).begin q i.seq).endUnload
          c).thenNext q))) ∧
    (∀ (d : CtxId) (n : Nat), (s.ctx d).state = .unloading → (s.ctx d).byItem = some (q.val, n) → s.item q n = some i →
      i.executing = true → s.runs P.scp = true → (s.ctx d).zeroing.any s.awaits = false →
      s.endUnload d = (s.emptyCtx d).finish q n (Finish.plain St.ok)) ∧
    (∀ (d : CtxId) (n : Nat), (s.ctx d).state = .loading → (s.ctx d).byItem = some (q.val, n) → (s.ctx d).pkg = some k →
      s.item q n = some i → s.runs P.scp = true →
      exec (.loadComplete d .poisoned) s = .next (settle s (s.failLoad q n d 0x0500 none)) ∧
      (let t := ((s.modCtx d (fun x => { x with state := .ready, byItem := none })).setNum Obj.ctxPool d k.pool);
        exec (.loadComplete d .ok) s = .next (settle s ((t.setBlob Obj.ctxDigest d
          (pad 64 (Config.sha512 (t.readBytes (fld i.entry 16 8) (fld i.entry 24 4))))).finish q n (Finish.plain St.ok))))))

/-- RUN makes a job ready, or a row of its language head's decode batch (R45). A slice in service with nothing dispatched
takes the first of the ready jobs in the order of R237 with a result buffer (R248), dummy work there ending before
(R420). A best-effort job yields its slice at
a segment boundary to a job of a higher class and goes on otherwise (R238).

A job ends when its last program has halted, its tasks have exited and nothing of its slice is left to drain or judge
(R249); before that JOB_END changes nothing. Its digests go to its result buffer (R283, R284), its slice is free, and the
item is DONE with the outcome of its run; a job that the disagreement policy has settled keeps no statistics, or counts a
transient. A decode batch ends for all of its rows (R45). The energy is the meters', a value of the command (R431), divided
among the rows as the model chooses (notes/assumptions/54.md).

Each of these commands answers a next state here, under conditions on the state and the operands alone: run,
jobDispatch, beSegmentBoundary, jobEnd. -/
def Obligations.JobsRun : Prop :=
  ((∀ (s : State) (q : QueueId) (i : Item), s.nextRow q = none → TakesUp s q 1 i → i.batched = false →
    exec (.run q) s = .next (settle s ((s.modItem q i.seq (fun i => { i with ready := true })).thenNext q))) ∧
  (∀ (s : State) (q : QueueId) (i : Item), s.nextRow q = some i → s.runs P.scp = true → s.work.replayDone = true →
    (s.queue q).halted = false → s.holdsFor q i = true →
    exec (.run q) s = .next (settle s (s.pendRow q i.seq i.context))) ∧
  (∀ (s : State) (n : SliceId), s.inService n = true → (s.slice n).run = none →
    (∀ c t, best (s.candidates n) = some c → (s.endDummy n).dispatch n c = some t →
      exec (.jobDispatch n) s = .next (settle s t.buildGraph)) ∧
    (s.candidates n = [] → exec (.jobDispatch n) s = .next (settle s s.buildGraph))) ∧
  (∀ (l : List Cand) (c : Cand), best l = some c → c ∈ l ∧ ∀ d ∈ l, lexLt d.key c.key = false) ∧
  (∀ (s : State) (n : SliceId) (r : Run) (i : Item), (s.slice n).run = some r → r.klass = 2 →
    (s.slice n).seq.halted = true → r.programs ≠ [] → s.runs P.scp = true →
    s.item r.queue r.seq = some i →
    let yields := (∃ c ∈ s.readyFor n, c.item.prio < 2) ∨ s.work.shedding = true ∨ s.work.idlePend ≠ [];
    (yields → exec (.beSegmentBoundary n) s = .next (settle s (r.items.foldl (fun t j => t.modItem j.1 j.2 (fun i => { i with
      slice := none, segment := segmentsDone r, left := some r.programs, bundles := (s.slice n).seq.issued }))
        (s.discard n .idle)))) ∧
    (¬ yields → exec (.beSegmentBoundary n) s = .next (s.nextProgram n)))) ∧
  (∀ (s : State) (n : SliceId) (o : JobOut) (r : Run), (s.slice n).run = some r →
    let ended := (s.slice n).seq.halted = true ∧ r.programs = [] ∧ s.tasksOver n = true ∧ (s.slice n).quiet = true ∧
      s.runs P.scp = true;
    (¬ ended → exec (.jobEnd n o) s = .next s) ∧
    (∀ i, ended → s.item r.queue r.seq = some i →
      let a := s.flush n;
      let l := a.layersOf r.queue i.seq;
      let b := (r.items.foldl (fun t j => t.fillBuffer l j.1 j.2 o.len) a).discard n .idle;
      let t := r.items.foldl (fun t j => t.modItem j.1 j.2 (fun x => { x with
        energy := min 0xFFFFFFFF (x.spent + o.energyUj / r.items.length) }))
        (r.items.foldl (fun t j => t.finish j.1 j.2 r.outcome) b);
      (r.fail = none → r.recompute = none → exec (.jobEnd n o) s = .next (settle s t.buildGraph)) ∧
      (r.fail.isSome = true → exec (.jobEnd n o) s = .next (settle s ({ t with work := { t.work with
        heldStats := t.work.heldStats.filter (fun h => !(h.queue == r.queue && h.seq == r.seq)) } } : State).buildGraph)) ∧
      (∀ m k, r.fail = none → r.recompute = some (m, k) → exec (.jobEnd n o) s = .next (settle s
        (((t.count Obj.transients m).mismatchEvent m r.stream 2 0 r.job n).strike m k 1).buildGraph))))

/-- The oldest item of a queue that is not POSTED is posted once it is DONE, never a later one (R250): its entry of R251
stands at its slot with the PHASE of R344, it is POSTED, and of the pages that stay as they were no byte changes outside
the slot's cells and those of the item's journal record (R254).

After a warm reset the SCP reads the journal's records and replays them before a queue opens (R257): a record DONE whose
completion stands in the ring becomes POSTED, one ACCEPTED or DISPATCHED runs again with ATTEMPT + 1 and REPLAYED, but a
third run that is lost ends with UNAVAILABLE (R256), and one POSTED is left; then the queues open and REPLAY_DONE counts
what was done.

Each of these commands answers a next state here, under conditions on the state and the operands alone: completionPost,
journalReplay. -/
def Obligations.CompletionsAndReplays : Prop :=
  (∀ (s : State) (q : QueueId) (i : Item) (p k : Nat), s.runs P.scp = true → s.work.replayDone = true →
    (s.queue q).items.find? (fun i => i.state != .posted) = some i → (s.queue q).cqPages = some (p, k) →
    let a := p * pageBytes + 64 * ((i.seq - 1) % s.num Obj.qDepth q);
    let ph := 1 - (i.seq - 1) / s.num Obj.qDepth q % 2;
    let t := ((s.writeBytes a (i.completion ph)).markPosted q i).noteChange (some q);
    (i.state ≠ .done → exec (.completionPost q) s = .next s) ∧
    (i.state = .done → exec (.completionPost q) s = .next t) ∧
    (∀ x, (∀ j < 64, ¬ s.shares x (a + j)) → (∀ b, s.recordAt q i.seq = some b → ∀ j < 64, ¬ s.shares x (b + j)) →
      t.entry (x / pageBytes) = s.entry (x / pageBytes) → t.readByte x = s.readByte x) ∧
    (Memory.wf s.mem.bytes = true → (∀ j < 64, (s.entry ((a + j) / pageBytes)).backed = true) →
      (∀ b, s.recordAt q i.seq = some b → ∀ k < 64, ∀ j < 64, ¬ s.shares (a + k) (b + j)) →
      (∀ j < 64, t.entry ((a + j) / pageBytes) = s.entry ((a + j) / pageBytes)) →
      t.readBytes a 64 = le 8 i.seq ++ le 8 i.job ++ le 2 i.status ++ le 2 i.rflags ++ le 4 i.epoch
        ++ (match i.detail with
            | some d => pad 32 (d.take 32)
            | none => le 4 i.handle ++ le 4 i.bufLen ++ le 8 i.sof ++ le 8 i.doneTime ++ le 8 i.digest.toNat)
        ++ le 4 i.energy ++ le 2 i.context ++ le 1 (i.stream.getD 0xFF) ++ le 1 ph) ∧
    t.num Obj.qLastPosted q = max i.seq (s.num Obj.qLastPosted q) ∧
    (∀ j ∈ (t.queue q).items, j.seq = i.seq → j.state = .posted)) ∧
  ((∀ (lost : List Nat) (s : State), s.work.replayDone = false → s.runs P.scp = true →
    (s.rst.phase = .running ∨ s.rst.phase = .starting) →
    let a := s.queueNums.foldl (fun s q => s.readJournal lost q) s;
    let r := a.queueNums.foldl (fun b q => ((b.2.2.2.queue q).items).foldl (State.replayRec q) b) (0, 0, 0, a);
    let t := r.2.2.2.openWork;
    let u := t.queueNums.foldl (fun s q => State.postAll q (s.queue q).items.length s) t;
    exec (.journalReplay lost) s = .next (settle s ((u.queueNums.foldl (fun s q => s.headWait q) u).postEvent 0x0005 0xFFFF
      (le 4 r.1 ++ le 4 r.2.1 ++ le 4 r.2.2.1))) ∧ t.work.replayDone = true) ∧
  (∀ (s : State) (q p r m : Nat) (i : Item),
    (i.state = .posted → State.replayRec q (p, r, m, s) i = (p, r, m, s)) ∧
    (i.state = .done → s.inRing q i = true → State.replayRec q (p, r, m, s) i = (p, r, m + 1, s.markPosted q i)) ∧
    (i.state = .done → s.inRing q i = false → State.replayRec q (p, r, m, s) i = (p + 1, r, m, s)) ∧
    ((i.state = .accepted ∨ (i.state = .dispatched ∧ i.runs < 3)) →
      State.replayRec q (p, r, m, s) i = (p, r + 1, m, s.replayItem q i) ∧
      (∀ j ∈ ((s.replayItem q i).queue q).items, j.seq = i.seq → j.state = .accepted ∧ j.replayed = true)) ∧
    (i.state = .dispatched → 3 ≤ i.runs →
      s.replayItem q i = (s.unload i).finish q i.seq (Finish.plain St.unavailable))))

/-- When the limit of a wait expires (R260): a FLAG_WAIT or deferred item completes WAIT_TIMEOUT, a sequencer's wait ends
its job, a thread's wait ends under cause 0x0A, a held dictionary command is answered WAIT_TIMEOUT. After 50 ms of a
blocked queue the wait-for graph is built (R261); a cycle not halted before is posted once and its members halted (R262). A
deferred item executes only when its precondition holds (R265).

Each of these commands answers a next state here, under conditions on the state and the operands alone:
waitTimeoutExpiry, waitGraphBuild, deferredExecute. -/
def Obligations.WaitsEnd : Prop :=
  ∀ s : State,
    (∀ (q : QueueId) (i : Item), s.nextItem q = some i → i.waitFrom.isSome = true → s.runs P.scp = true →
      ¬ (i.deferred = true ∧ s.holdsFor q i = true) → exec (.waitTimeoutExpiry (.head q)) s = .next (settle s
        (((s.advanceTo i.waitEnd).finish q i.seq { Finish.plain 0x0203 with cycle := 3 }).thenNext q))) ∧
    (∀ (n : SliceId) f e, (s.slice n).seq.waitFlag = some (f, e) → exec (.waitTimeoutExpiry (.sequencer n)) s =
      .next (settle s (((s.advanceTo e).endJobFault n 0x0203 none .faulted 3).buildGraph))) ∧
    (∀ (h : HartId) f e, (s.hart h.num).wait = .flag f e → exec (.waitTimeoutExpiry (.thread h)) s =
      let t := s.advanceTo e;
      .next (settle s ((t.sliverFault { hart := h.num, cause := 0x0A, status := 0x0203, detail := f
                                        pc := (t.hart h.num).pc.toNat, cycle := 3 }).buildGraph))) ∧
    (∀ k d, s.work.deferred[k]? = some d → s.runs P.dxp = true → exec (.waitTimeoutExpiry (.deferred k)) s =
      .next (settle s (((s.advanceTo d.due).dropDeferred k).deferDone d 0x0203))) ∧
    (∀ t, minBy id (s.refreshBlocked.work.queues.filterMap (fun x => x.2.blockedSince)) = some t →
      exec .waitGraphBuild s = .next (settle s (s.refreshBlocked.advanceTo (t + 50 * ms)).buildGraph)) ∧
    (∀ c, (c ∈ s.work.cycles → s.haltCycle c = s) ∧
      (c ∉ s.work.cycles → (∀ m ∈ c, ((s.haltCycle c).queue m).halted = true) ∧ c ∈ (s.haltCycle c).work.cycles)) ∧
    (∀ (q : QueueId) (i : Item), s.nextItem q = some i →
      (i.deferred = true → s.runs P.scp = true → s.holdsFor q i = true →
        exec (.deferredExecute q) s = .next (settle s (s.runItem q i))) ∧
      (s.holdsFor q i = false → exec (.deferredExecute q) s = .next (settle s s))) ∧
    (∀ k d r n, s.work.deferred[k]? = some d → findObj d.index d.sub = some (r, n) → s.runs P.dxp = true →
      let w := writeRule r n true d.value;
      (s.deferredReady r n w d.value = none → exec (.deferredExecute (k + 64)) s = .next (settle s s)) ∧
      (∀ st, st ≠ 0 → s.deferredReady r n w d.value = some st → exec (.deferredExecute (k + 64)) s =
        .next (settle s ((s.dropDeferred k).deferDone d st))) ∧
      (s.deferredReady r n w d.value = some 0 →
        let x := (s.dropDeferred k).applyDeferred r n w d.value;
        exec (.deferredExecute (k + 64)) s = .next (settle s (x.2.deferDone d x.1).runDue)))

/-- A decode batch closes with at most its target of rows, which become ready as one job; the rest wait on; one that is not
full closes at its bound, or earlier where a row's deadline needs it, and at once with a step of a sequence in progress
(R45 to R47). A statistics
window ends at its time and every pair with a record in it is evaluated (R82 to R85). An IDLE change takes effect when no
job is dispatched on any slice (R268). A silent stream no longer counts for an epoch (R519).

Each of these commands answers a next state here, under conditions on the state and the operands alone:
epochStreamSilent, idlePoint, decodeBatchClose, statWindowEval. -/
def Obligations.BatchesAndWindows : Prop :=
  (∀ (s : State) (c : CtxId) (going : Bool) (r : DecodeRow) (rest : List DecodeRow) (k : Package),
    (s.ctx c).decode = r :: rest → (s.ctx c).pkg = some k →
    ∃ t, exec (.decodeBatchClose c going) s = .next t ∧
      (t.ctx c).decode = ((r :: rest).drop (min (r :: rest).length (pkgTarget k))).map
        (fun x => { x with bound := s.num Obj.decodeWait }) ∧
      t.num Obj.decodeBatches = min Obj.decodeBatches.sat (s.num Obj.decodeBatches + 1) ∧
      ((pkgTarget k ≤ (r :: rest).length ∨ going = true) → t.clk.now = s.clk.now) ∧
      (((r :: rest).length < pkgTarget k ∧ going = false) →
        t.clk.now = (s.advanceTo (((r :: rest).filterMap s.lastClose).foldl min (r.arrival + r.bound * ms))).clk.now)) ∧
  (∀ s : State, s.runs P.scp = true → s.work.replayDone = true →
    let t := s.advanceTo (s.clk.now + (s.work.statEnd - s.clk.lode));
    let u := t.work.pairs.foldl (fun s x => s.evalPair x) t;
    exec .statWindowEval s = .next { u with work := { u.work with
      statEnd := (max u.work.statEnd u.clk.lode / u.statLen + 1) * u.statLen } }) ∧
  (∀ s : State, s.runs P.scp = true → s.work.replayDone = true →
    ((∀ n < 6, (s.slice n).run = none) → exec .idlePoint s =
      .next (s.work.idlePend.foldl (fun s x => s.applyIdle x) { s with work := { s.work with idlePend := [] } })) ∧
    ((∃ n < 6, (s.slice n).run ≠ none) → exec .idlePoint s = .next s)) ∧
  (∀ (s : State) (n : StreamId) (e : Epoch), s.work.epochs.find? (fun e => e.waiting.contains n.val) = some e →
    let x := s.stream n;
    let t := if x.lastSof = 0 ∧ x.lastSofMono = 0 then e.mono else x.lastSofMono;
    exec (.epochStreamSilent n) s = .next ((s.advanceTo (t + 1000 * ms)).epochForget n) ∧
    ∀ e ∈ ((s.advanceTo (t + 1000 * ms)).epochForget n).work.epochs, n.val ∉ e.waiting)

/-! ## Command objects -/

/-- What a write of each command object does that meets R369 in its turn: flags (R258), epoch sets (R266, R267), queues
(R245, R269), Q_ABORT_HEAD (R264), streams and their sensors (R289, R294, R295, R313), DP_MODE, ORPHAN_RESUME
(R357) and SAFE_FORCE (R391).

The same for the command objects that take a BLOB: MACSEC_SAK (R334), ENC_REQ (R325), UPD_STAGE (R448), ATT_NONCE
(R478), and KEY_REVOKE (R476), whose read-back decides between OK and UNAVAILABLE.

Each of these commands answers a next state here, under conditions on the state and the operands alone: qAbortHead,
flagSetCmd, flagClrCmd, epochOpen, epochCommit, epochDiscard, qEnable, qDepth, rawEnable, expoReq, sensorRetry, dpMode,
srcEnable, encClip, encSnapshot, macsecSak, orphanResume, safeForceEnter, safeForceEnd, updStage, keyRevoke, attNonce. -/
def Obligations.ObjectCommands : Prop :=
  (∀ (s : State) (w : CmdW), Turn s w.req →
    (Writes s Obj.flagSetCmd 0 flagSetRule (.num w.value) → exec (.flagSetCmd w) s =
      .next (settle s (s.wrote w.req Obj.flagSetCmd 0 (fun u => u.setFlag w.value)))) ∧
    (∀ b, Writes s Obj.flagClrCmd 0 (flagClrRule b) (.num w.value) → exec (.flagClrCmd w b) s =
      .next (settle s (s.wrote w.req Obj.flagClrCmd 0 (fun u => u.clearFlag w.value b)))) ∧
    (Writes s Obj.epochOpen 0 epochOpenRule (.num w.value) → exec (.epochOpen w) s =
      .next (s.wrote w.req Obj.epochOpen 0 (fun u => u.setOpen (some [])))) ∧
    (∀ l, s.work.openSet = some l → Writes s Obj.epochCommit 0 epochCommitRule (.num w.value) → exec (.epochCommit w) s =
      .next (s.wrote w.req Obj.epochCommit 0 (fun u => (u.setOpen none).commitEpoch l))) ∧
    (Writes s Obj.epochDiscard 0 epochDiscardRule (.num w.value) → exec (.epochDiscard w) s =
      .next (s.wrote w.req Obj.epochDiscard 0 (fun u => u.setOpen none))) ∧
    (∀ q : QueueId, Writes (s.taken w.req Obj.qEnable q) Obj.qEnable q (qEnableRule q) (.num w.value) →
      (w.value = 1 → s.num Obj.qEnable q = 0 → exec (.qEnable q w) s =
        .next (s.wrote w.req Obj.qEnable q (fun u => (u.openRings q).getD u))) ∧
      (w.value = 0 → s.num Obj.qEnable q = 1 → exec (.qEnable q w) s =
        .next (s.wrote w.req Obj.qEnable q (fun u => u.closeRings q))) ∧
      (w.value = s.num Obj.qEnable q → exec (.qEnable q w) s = .next (s.wrote w.req Obj.qEnable q id))) ∧
    (∀ q : QueueId, Writes s Obj.qDepth q (qDepthRule q) (.num w.value) → exec (.qDepth q w) s =
      .next (s.wrote w.req Obj.qDepth q (fun u => u.setNum Obj.qDepth q w.value))) ∧
    (∀ i, (s.queue w.value).items.find? (fun i => !i.isDone) = some i → Writes s Obj.qAbortHead 0 qAbortRule (.num w.value) →
      exec (.qAbortHead w) s = .next (settle s (s.wrote w.req Obj.qAbortHead 0 (fun u =>
        ((u.abortItem w.value i.seq 0x0205 2).headWait w.value).buildGraph)))) ∧
    (∀ n : StreamId, Writes (s.taken w.req Obj.rawEnable n) Obj.rawEnable n (rawEnableRule n) (.num w.value) →
      (w.value = 1 → s.rawOn n = false → exec (.rawEnable n w) s =
        .next (settle s (s.wrote w.req Obj.rawEnable n (fun u => (u.setNum Obj.rawEnable n 1).startRaw n)))) ∧
      (w.value = 0 → s.rawOn n = true → exec (.rawEnable n w) s =
        .next (settle s (s.wrote w.req Obj.rawEnable n (fun u => u.stopRaw n))))) ∧
    (∀ n : StreamId, Writes (s.taken w.req Obj.srcEnable n) Obj.srcEnable n (srcEnableRule n) (.num w.value) →
      (w.value = 1 → s.srcOn n = false → exec (.srcEnable n w) s =
        .next (settle s (s.wrote w.req Obj.srcEnable n (fun u => (u.setNum Obj.srcEnable n 1).startSrc n)))) ∧
      (w.value = 0 → s.srcOn n = true → exec (.srcEnable n w) s =
        .next (settle s (s.wrote w.req Obj.srcEnable n (fun u => u.stopSrc n))))) ∧
    (∀ n : StreamId, s.admitted n = true → Writes s Obj.expoReq n (expoReqRule n) (.num w.value) → exec (.expoReq n w) s =
      .next (s.wrote w.req Obj.expoReq n (fun u => u.requestExposure n (w.value % 2 ^ 32) (w.value / 2 ^ 32 % 2 ^ 16)))) ∧
    (∀ n : StreamId, Writes s Obj.sensorRetry n (sensorRetryRule n) (.num w.value) → exec (.sensorRetry n w) s =
      .next (s.wrote w.req Obj.sensorRetry n (fun u => u.modRaw n (fun r =>
        if r.sensorFault then { r with sensorFault := false, attempts := 0 } else r)))) ∧
    (∀ p : DataPort, Writes s Obj.dpMode p (dpModeRule p) (.num w.value) → exec (.dpMode p w) s =
      .next (s.wrote w.req Obj.dpMode p (fun u => u.setNum Obj.dpMode p w.value))) ∧
    (Writes s Obj.orphanResume 0 orphanResumeRule (.num w.value) → exec (.orphanResume w) s =
      .next (settle s (s.wrote w.req Obj.orphanResume 0 (fun u =>
        ({ u with link := { u.link with orphan := 0 } } : State).leaveCause 4)))) ∧
    (w.value = 1 → Writes s Obj.safeForce 0 safeForceRule (.num w.value) → exec (.safeForceEnter w) s =
      .next (settle s (s.wrote w.req Obj.safeForce 0 (fun u => u.enterCause 5)))) ∧
    (w.value = 2 → Writes s Obj.safeForce 0 safeForceRule (.num w.value) → exec (.safeForceEnd w) s =
      .next (settle s (s.wrote w.req Obj.safeForce 0 (fun u => u.leaveCause 5))))) ∧
  (∀ (s : State) (w : BlobW), Turn s w.req →
    let b := w.bytes;
    let n := encStream b;
    (∀ k, s.sakOf b = some k → Writes s Obj.macsecSak 0 macsecSakRule (.blob b) →
      let x : Sa := { an := fld b 0 1, suite := fld b 2 1, ssci := BitVec.ofNat 32 (ofBe (cut b 4 4)), salt := cut b 8 12, key := if fld b 2 1 == 1 then k.take 16 else k };
      exec (.macsecSak w) s = .next (s.wrote w.req Obj.macsecSak 0 (fun u => { u with link := { u.link with
        rxSas := if (fld b 1 1).testBit 0 then addSa u.link.rxSas x else u.link.rxSas
        txSas := if (fld b 1 1).testBit 1 then addSa u.link.txSas x else u.link.txSas
        rxEver := u.link.rxEver || (fld b 1 1).testBit 0
        rxPn := if (fld b 1 1).testBit 0 then tput u.link.rxPn x.an 0 else u.link.rxPn } }))) ∧
    (fld b 0 1 = 1 → Writes s Obj.encReq 0 encRule (.blob b) → exec (.encClip w) s =
      .next (s.wrote w.req Obj.encReq 0 (fun u => u.modStream n (fun x => { x with clip := some { since := u.clk.now, req := b, frames := 0, used := 0, sof := 0, ending := none, core := (u.encCore n).getD 0 } })))) ∧
    (fld b 0 1 ≠ 1 → Writes s Obj.encReq 0 encRule (.blob b) → exec (.encSnapshot w) s =
      .next (s.wrote w.req Obj.encReq 0 (fun u => { u with media := { u.media with snaps := u.media.snaps ++ [{ stream := n, since := u.clk.now, req := b, sof := none }] } }))) ∧
    (∀ k, s.inactive = some k → Writes s Obj.updStage 0 updStageRule (.blob b) → exec (.updStage w) s =
      .next (s.wrote w.req Obj.updStage 0 (fun u =>
        (({ u with fw := { u.fw with staging := some (b, k, u.clk.now) } } : State).eraseSlot k).setUpd 1
          (u.num Obj.updStatus) k))) ∧
    (Writes s Obj.attNonce 0 attNonceRule (.blob b) → exec (.attNonce w) s =
      .next (s.wrote w.req Obj.attNonce 0 (fun u => ((u.report b).2.setBlob Obj.attReport 0 (u.report b).1).count
        Obj.attReports))) ∧
    (Writes s Obj.keyRevoke 0 (keyRevokeRule true) (.blob b) → exec (.keyRevoke w true) s =
      .next (s.wrote w.req Obj.keyRevoke 0 (fun u => { u with trust := { u.trust with
        revoked := u.trust.revoked ||| BitVec.ofNat 4 (2 ^ fld b 0 1) } }))) ∧
    (Writes s Obj.keyRevoke 0 (keyRevokeRule false) (.blob b) → exec (.keyRevoke w false) s =
      .next (((s.turned w.req).touch (Obj.keyRevoke.key 0) true).respond w.req 0x11 0x0500 [] true)))

/-! ## Cameras and the image pipeline -/

/-- R287, R291, R305 and R306: a frame start of exposure 0 begins a frame, and truncates one still in reception; a line is
counted and digested or truncates the frame by its cause; a frame end of the last exposure ends the frame. A packet of a
virtual channel above 3 is counted in CSI_BAD_PKT. FRAME_TIMEOUT truncates the frame in reception at its time.

R298, R301 and R303: a pipe takes the eligible spilled frame whose start of frame is the earliest, one at a time; at
the end of a frame its record goes to STATS_LAST and, where the frame is not dropped, with its outputs to its set, and
the frame completes for its attachment or its set is free (a frame of a stream whose context was lost counts as
dropped); a frame of a disabled stream frees its set and its spill buffer.

Each of these commands answers a next state here, under conditions on the state and the operands alone: csiFrameStart,
csiLinePacket, csiFrameEnd, frameTimeout, ispFrameDone, spillStart. -/
def Obligations.CameraFrames : Prop :=
  (∀ (s : State), s.power.tripped = false →
    (∀ (p : CsiPort) (vc : Nat) (fn : BitVec 16), 3 < vc →
      exec (.csiFrameStart p vc fn) s = .next (s.count Obj.csiBadPkt p) ∧
      exec (.csiFrameEnd p vc) s = .next (s.count Obj.csiBadPkt p)) ∧
    (∀ (p : CsiPort) (vc n e : Nat), vc ≤ 3 → s.rawStream p vc = some (n, e) →
      let r := (s.stream n).raw;
      (∀ fn, e = 0 → r.cur = none → exec (.csiFrameStart p vc fn) s = .next (settle s (s.startFrame n fn.toNat))) ∧
      (∀ fn f, e = 0 → r.cur = some f → exec (.csiFrameStart p vc fn) s =
        .next (settle s ((s.truncate n (if f.ended.contains 0 then 0x0A else 5)).startFrame n fn.toNat))) ∧
      (∀ fn f, e ≠ 0 → r.cur = some f → f.lines.any (fun l => l.1 == e) = false → exec (.csiFrameStart p vc fn) s =
        .next (s.modRaw n (fun r => { r with cur := some { f with lines := tput f.lines e 0 } }))) ∧
      (∀ f dt samples, r.cur = some f → 0x10 ≤ dt.toNat →
        let line := fun chk => exec (.csiLinePacket p vc dt samples chk) s;
        line .vcx = .next (s.count Obj.csiBadPkt p) ∧
        line .overflow = .next (s.truncate n 6) ∧
        line .headerBad = .next (s.truncate n 7) ∧
        (∀ chk, chk = .clean ∨ chk = .headerCorrected → dt.toNat ≠ 0x12 →
          (dt.toNat ≠ s.num Obj.rawDt n → line chk = .next (s.count Obj.csiBadPkt p)) ∧
          (dt.toNat = s.num Obj.rawDt n → f.lines.any (fun l => l.1 == e) = true →
            let y := tget 0 f.lines e;
            let S := s.lineSamples n;
            let g := { f with lines := tput f.lines e (y + 1), digest := if e = 0 then f.digest + lineDigest y S samples else f.digest };
            line .checksumBad = .next (s.truncate n 8) ∧
            (S < samples.length → line chk = .next (s.truncate n 1)) ∧
            (samples.length < S → line chk = .next (s.truncate n 2)) ∧
            (samples.length = S → s.num Obj.rawHeight n ≤ y → line chk = .next (s.truncate n 3)) ∧
            (samples.length = S → y < s.num Obj.rawHeight n →
              (∀ k, k < s.exposures n → k ≠ 0 → tget 0 g.lines 0 ≤ tget 0 g.lines k + 65) →
              line chk = .next (s.modRaw n (fun r => { r with cur := some g })))))) ∧
      (∀ f, r.cur = some f → f.lines.any (fun l => l.1 == e) = true →
        let g := { f with ended := ins f.ended e };
        (tget 0 f.lines e < s.num Obj.rawHeight n → exec (.csiFrameEnd p vc) s = .next (settle s (s.truncate n 4))) ∧
        (s.num Obj.rawHeight n ≤ tget 0 f.lines e → (∃ k, k < s.exposures n ∧ k ∉ g.ended) → exec (.csiFrameEnd p vc) s =
          .next (settle s (s.modRaw n (fun r => { r with cur := some g })))) ∧
        (s.num Obj.rawHeight n ≤ tget 0 f.lines e → (∀ k, k < s.exposures n → k ∈ g.ended) → exec (.csiFrameEnd p vc) s =
          .next (settle s (s.endFrame n g))))) ∧
    (∀ (st : StreamId) f, (s.stream st).raw.cur = some f → exec (.frameTimeout st) s =
      .next ((s.advanceTo (f.sofMono + s.num Obj.frameTimeout st * ms)).truncate st 9))) ∧
  (∀ (s : State) (pipe : Fin 2), s.power.tripped = false →
    (let l := (List.range 48).flatMap (fun n =>
      if s.num Obj.ispPipe n == pipe.val || s.num Obj.ispPipe n == 0xFF then (s.stream n).raw.spill.map (fun f => (n, f)) else []);
     (s.media.m2m.any (fun m => m.1 == pipe.val && m.2.2.spilled) = true → exec (.spillStart pipe) s = .next s) ∧
     (∀ n f, s.media.m2m.any (fun m => m.1 == pipe.val && m.2.2.spilled) = false → minBy (fun x => x.2.sofMono) l = some (n, f) →
      let t := s.modRaw n (fun r => { r with spill := r.spill.filter (fun g => g.number != f.number) });
      (n, f) ∈ l ∧ (∀ x ∈ l, f.sofMono ≤ x.2.sofMono) ∧
      exec (.spillStart pipe) s = .next { t with media := { t.media with m2m := t.media.m2m ++ [(pipe.val, n, f)] } })) ∧
    (∀ m, s.media.m2m.find? (fun m => m.1 == pipe.val) = some m →
      let n := m.2.1;
      let f := m.2.2;
      let t := { s with media := { s.media with m2m := s.media.m2m.filter (fun x => x != m) } };
      let rec' := t.draw.2.statsRecord n f true t.draw.1;
      let u := t.draw.2.setBlob Obj.statsLast n rec';
      (t.rawOn n = false → exec (.ispFrameDone pipe) s = .next ((t.freeSet n f.set).freeSpill n)) ∧
      (t.rawOn n = true → f.dropped = true → exec (.ispFrameDone pipe) s = .next (u.exposureLoop n f rec')) ∧
      (t.rawOn n = true → f.dropped = false →
        let w := (u.writeSet n f rec').exposureLoop n f rec';
        (f.gen ≠ 0 ∧ f.set.isSome = true ∧ (w.stream n).attach.isSome = true → exec (.ispFrameDone pipe) s =
          .next (w.modStream n (fun x => { x with complete := x.complete ++ [{ f with held := !w.accepts }] }))) ∧
        (¬ (f.gen ≠ 0 ∧ f.set.isSome = true ∧ (w.stream n).attach.isSome = true) → exec (.ispFrameDone pipe) s =
          .next ((if f.gen != 0 && (w.stream n).lostFrom.isSome then w.noteDrop n else w).freeSet n f.set)))))

/-- R292 to R294, R307 and R308: a generation write starts in blanking when its writes end 100 µs before the next frame;
a transaction serves the bus's first writer, its writes leave in order and the last one commits the generation with its
event, a failed one abandons the generation and the third failure is SENSOR_FAULT; a frame sync pulse comes at the next
Lodestar time congruent to FS_PHASE modulo FS_PERIOD.

Each of these commands answers a next state here, under conditions on the state and the operands alone:
generationWriteStart, i2cTransaction, fsyncPulse. -/
def Obligations.SensorWrites : Prop :=
  ∀ (s : State), s.power.tripped = false →
    (∀ (st : StreamId) (est left : Nat),
      let r := (s.stream st).raw;
      (left < est + 100 → exec (.generationWriteStart st est left) s = .next s) ∧
      (∀ g t, s.admitted st = true → s.runs P.mdp = true → r.initLeft = 0 → r.writeLeft = 0 → r.sensorFault = false →
        r.blanking = true → (s.stream st).trunc = false → r.failedFs ≠ some r.lastFs → r.initAt ≤ s.clk.now → est + 100 ≤ left → s.nextGen st = some (g, t) →
        let u := t.modRaw st (fun r => { r with writing := some g, writeLeft := (genWrites (s.profile st) g).length });
        exec (.generationWriteStart st est left) s =
          .next { u with media := { u.media with i2c := u.media.i2c ++ [(fld (s.profile st) 2 1, st.val)] } })) ∧
    (∀ (bus : Fin 8) (b n stretch took : Nat), s.runs P.mdp = true →
      minBy (fun i => (s.stream i.2).lastSofMono * 64 + i.2) (s.media.i2c.filter (fun i => i.1 == bus.val &&
        ((s.stream i.2).raw.initLeft == 0 || decide ((s.stream i.2).raw.initAt ≤ s.clk.now)))) = some (b, n) →
      let r := (s.stream n).raw;
      let p := s.profile n;
      let fails := (s.count Obj.i2cFail n);
      (∀ acked, acked = false ∨ 1000 < stretch ∨ 5000 < took →
        (r.initLeft ≠ 0 → exec (.i2cTransaction bus acked stretch took) s = .next fails) ∧
        (r.initLeft = 0 →
          let u := (fails.leaveBus bus n).modRaw n (fun x => { x with
            writeLeft := 0, attempts := r.attempts + 1, failedFs := some x.lastFs, sensorFault := decide (3 ≤ r.attempts + 1) });
          (r.attempts < 2 → exec (.i2cTransaction bus acked stretch took) s = .next u) ∧
          (2 ≤ r.attempts → exec (.i2cTransaction bus acked stretch took) s =
            .next (u.postEvent 0x0304 n (le 4 ((r.writing.map (fun g => g.num)).getD 0) ++ le 1 (r.attempts + 1)))))) ∧
      (∀ g a v, stretch ≤ 1000 → took ≤ 5000 → r.initLeft = 0 → r.writing = some g →
        (genWrites p g)[(genWrites p g).length - r.writeLeft]? = some (a, v) →
        let u := ({ s with media := { s.media with i2cTx := s.media.i2cTx ++ [(bus.val, fld p 3 1, a, v)] } } : State).modRaw n
          (fun r => { r with writeLeft := r.writeLeft - 1 });
        (r.writeLeft ≠ 1 → exec (.i2cTransaction bus true stretch took) s = .next u) ∧
        (r.writeLeft = 1 → exec (.i2cTransaction bus true stretch took) s = .next ((u.leaveBus bus n).commitGen n)))) ∧
    (∀ (k : Fin 8), s.num Obj.fsEnable k ≠ 0 →
      let per := s.num Obj.fsPeriod k;
      let d := (s.num Obj.fsPhase k % per + per - s.clk.lode % per) % per;
      ((∀ l, tfind s.pins.fsyncLast k = some l → per ≤ 2 * (s.clk.now + d - l) ∧ l ≠ s.clk.now) →
        let t := s.advanceTo (s.clk.now + d);
        exec (.fsyncPulse k) s = .next { t with pins := { t.pins with
          fsyncLast := tput t.pins.fsyncLast k t.clk.now
          fsyncPulses := tput t.pins.fsyncPulses k (t.clk.now + s.num Obj.fsWidth k * us)
          fsyncPols := tput t.pins.fsyncPols k (s.num Obj.fsPol k) } }))

/-! ## Compressed streams -/

/-- R311, R312, R314, R315, R318 and R230: what a data port does with a frame it receives, what a session does with an
RTP packet (discarded, a duplicate, late, or held in order of its extended sequence number), the release of the packets
up to the longest-held one at the end of its hold, and the timeouts of a session's SSRC and of its access units.

R316, R319 to R323, R325 and R326: a decoder core takes its oldest complete unit; a unit beyond the admitted profile,
level or size puts its stream in FAULT with its event, and there every unit without an intra picture is dropped; a decoded
unit's record is written and its conversion is due; a converted frame's outputs are written by the epoch of its start and it
completes; CLIP_DONE and SNAP_DONE.

Each of these commands answers a next state here, under conditions on the state and the operands alone: dpFrameRx,
rtpPacketRx, rtpRelease, decodeStart, decodeDone, conversionDone, ssrcTimeout, streamStallTimeout, clipDone, snapDone. -/
def Obligations.IngestStreams : Prop :=
  (∀ (s : State),
    (∀ (p : DataPort) (f : EthFrame), s.power.tripped = false → s.num Obj.dpMode p ≠ 0 → s.num Obj.dpLink p ≠ 0 →
      let rx := exec (.dpFrameRx p f) s;
      let discard := s.count Obj.dpRxDiscard p;
      ((9216 < f.bytes ∨ f.fcsOk = false ∨ f.ipOk = false ∨ f.udpOk = false ∨ f.fragment = true) → rx = .next discard) ∧
      (f.bytes ≤ 9216 → f.fcsOk = true → f.ipOk = true → f.udpOk = true → f.fragment = false →
        (∀ t, f.payload = .arp t ∨ f.payload = .neighbour t ∨ f.payload = .echo t →
          (f.onLink = true ∧ s.dpOwn p t = true → rx = .next (s.dpReply p f.src)) ∧
          (¬ (f.onLink = true ∧ s.dpOwn p t = true) → rx = .next discard)) ∧
        (f.payload = .groupQuery → (f.onLink = true → rx = .next (s.dpReport p)) ∧ (f.onLink = false → rx = .next discard)) ∧
        (∀ dst port body, f.payload = .udp dst port body →
          (∀ n, s.sessionOf p dst port f.src.vlan = some n → rx = .next s) ∧
          (s.sessionOf p dst port f.src.vlan = none → s.peerOf p port f.src = none → rx = .next discard) ∧
          (∀ k : PeerId, s.sessionOf p dst port f.src.vlan = none → s.peerOf p port f.src = some k.val →
            let n := body.length - 4;
            let g := peerFields body;
            (body.length < 36 ∨ ofBe (body.drop n) ≠ crc32 (body.take n) → rx = .next (s.count Obj.peerCrcFail k)) ∧
            (36 ≤ body.length → ofBe (body.drop n) = crc32 (body.take n) →
              (fld body 0 1 ≠ 1 ∨ ofBe (cut body 28 2) ≠ g.data.length → rx = .next discard) ∧
              (fld body 0 1 = 1 → ofBe (cut body 28 2) = g.data.length →
                (fld body 1 1 = 1 → rx = exec (.peerDataRx k g) s) ∧ (fld body 1 1 = 2 → rx = exec (.peerAckRx k g) s) ∧
                (fld body 1 1 = 3 → rx = exec (.peerGetRx k g) s) ∧ (fld body 1 1 = 4 → rx = exec (.peerAbortRx k g) s) ∧
                (fld body 1 1 = 0 ∨ 4 < fld body 1 1 → rx = .next discard))))) ∧
        (f.payload = .gptp ∨ f.payload = .other → rx = .next discard))) ∧
    (∀ (st : StreamId) (k : RtpPacket), s.power.tripped = false → s.srcOn st = true →
      s.num Obj.dpLink (s.num Obj.srcPort st) ≠ 0 →
      let rx := exec (.rtpPacketRx st k) s;
      let g := (s.stream st).ing;
      let drop := s.count Obj.rtpDiscard st;
      (k.version ≠ 2 ∨ k.pt ≠ s.num Obj.srcPt st → rx = .next drop) ∧
      (k.version = 2 → k.pt = s.num Obj.srcPt st →
        (∀ x, g.ssrc = some x → x ≠ k.ssrc → rx = .next drop) ∧
        (g.ssrc = some k.ssrc →
          let t := s.modIng st (fun g => { g with lastPkt := s.clk.now });
          let e := extSeq g.maxSeq k.seq;
          (k.supported = false → rx = .next (t.count Obj.rtpDiscard st)) ∧
          (k.supported = true → g.held.any (fun h => h.ext == e) = true → rx = .next (t.count Obj.rtpDup st)) ∧
          (∀ r, k.supported = true → g.held.any (fun h => h.ext == e) = false → g.released = some r → e ≤ r →
            (g.first ≤ e ∧ e ∉ g.lost → rx = .next (t.count Obj.rtpDup st)) ∧
            (¬ (g.first ≤ e ∧ e ∉ g.lost) → rx = .next (t.count Obj.rtpLate st))) ∧
          (k.supported = true → g.held.any (fun h => h.ext == e) = false → (∀ r, g.released = some r → r < e) →
            rx = .next (t.modIng st (fun g => { g with
              maxSeq := some (max e (g.maxSeq.getD 0))
              held := insHeld g.held { ext := e, pkt := k, arrived := s.clk.now, lode := s.clk.lode, epoch := s.epochBefore s.clk.lode } })))))) ∧
    (∀ (st : StreamId) h, s.power.tripped = false → s.srcOn st = true →
      minBy (fun h => h.arrived) (s.stream st).ing.held = some h →
      let held := (s.stream st).ing.held;
      let t := (s.advanceTo (h.arrived + s.num Obj.srcJitter st * ms)).modIng st (fun g => { g with
        held := g.held.filter (fun x => decide (h.ext < x.ext)) });
      (∀ x ∈ held, h.arrived ≤ x.arrived) ∧
      exec (.rtpRelease st) s = .next (settle s ((held.filter (fun x => decide (x.ext ≤ h.ext))).foldl
        (fun s x => s.releasePacket st x) t))) ∧
    (∀ (st : StreamId) x, s.srcOn st = true → s.num Obj.srcSsrc st = 0 → (s.stream st).ing.ssrc = some x →
      exec (.ssrcTimeout st) s = .next ((s.advanceTo ((s.stream st).ing.lastPkt + 2000 * ms)).modIng st (fun g => { g with
        ssrc := none, oldSsrc := g.ssrc }))) ∧
    (∀ (st : StreamId), s.srcOn st = true → (s.stream st).ing.stalled = false →
      let g := (s.stream st).ing;
      let t := ((s.advanceTo (g.lastAu + s.num Obj.srcTimeout st * ms)).modIng st (fun g => { g with stalled := true })).syncSrc st;
      exec (.streamStallTimeout st) s = .next (settle s (t.postEvent 0x0307 st (le 8 g.lastAuLode))))) ∧
  (∀ (s : State), s.power.tripped = false →
    (∀ (core : Fin 4) n u, s.media.decoding.any (fun d => d.1 == core.val) = false →
      let l := (List.range 48).flatMap (fun n =>
        if s.srcOn n && s.num Obj.decCore n == core.val then ((s.stream n).ing.units.take 1).map (fun u => (n, u)) else []);
      minBy (fun x => x.2.done) l = some (n, u) →
      let t := s.modIng n (fun g => { g with units := g.units.drop 1 });
      (∀ x ∈ l, u.done ≤ x.2.done) ∧
      exec (.decodeStart core) s = .next { t with media := { t.media with decoding := t.media.decoding ++ [(core.val, n, u)] } }) ∧
    (∀ (core : Fin 4) (e : DecodeEnd) d, s.media.decoding.find? (fun d => d.1 == core.val) = some d →
      let n := d.2.1;
      let u := d.2.2;
      let ends := exec (.decodeDone core e) s;
      let t := { s with media := { s.media with decoding := s.media.decoding.filter (fun x => x.1 != core.val) } };
      let fits := e.conforms = true ∧ e.width ≤ s.num Obj.srcWidth n ∧ e.height ≤ s.num Obj.srcHeight n;
      (s.srcOn n = false → ends = .next (settle s ((t.freeSet n u.set).freeRefs n))) ∧
      (s.srcOn n = true → ¬ fits → (s.stream n).ing.fault = false →
        ends = .next (settle s (((((t.recorded n u { e with error := true }).dropUnit n u 0x11).modIng n (fun g => { g with fault := true })).postEvent 0x0305 n
          (le 4 u.number)).syncSrc n))) ∧
      (s.srcOn n = true → fits → (s.stream n).ing.fault = true → u.irap = false →
        ends = .next (settle s ((t.recorded n u e).dropUnit n u 0x11))) ∧
      (s.srcOn n = true → fits → ((s.stream n).ing.fault = false ∨ u.irap = true) →
        let v := (t.modIng n (fun g => { g with fault := false })).syncSrc n;
        (e.error = false → ends = .next (settle s ((v.recorded n u e).decoded n u e))) ∧
        (e.error = true →
          let w := if u.lost = 0 then v.count Obj.auIncomplete n else v;
          (w.num Obj.srcConceal n = 0 → ends = .next (settle s
            (((w.recorded n u e).truncUnit n u).decodeFromIrap n (w.stream n).ing.waitIrap))) ∧
          (w.num Obj.srcConceal n ≠ 0 → ends = .next (settle s
            (((if u.concealed then w else w.count Obj.auConcealed n).modIng n (fun g => { g with concealing := true })).recorded n
              { u with concealed := true } e |>.decoded n { u with concealed := true } e)))))) ∧
    (∀ (st : StreamId) u rest a, (s.stream st).ing.converting = u :: rest → s.runs P.scp = true → s.runs P.mdp = true →
      s.work.replayDone = true → s.setAddr st u.set = some a →
      let t := s.modIng st (fun g => { g with converting := rest });
      let ps := (t.epochVal u.epoch (Obj.srcConvert.key st) Obj.srcConvert.dflt).bytes;
      let x := Config.decodedSamples u.body u.width u.height t.draw.1;
      let y := if t.draw.2.num Obj.srcCodec st == 2 && t.draw.2.num Obj.srcProfile st == 2 then x.map roundTen else x;
      let v := (t.draw.2.writeBytes (a + 64)
        (pictureBytes ps (t.draw.2.num Obj.srcWidth st) (t.draw.2.num Obj.srcHeight st) y t.draw.1)).written st u.sof u.sofMono;
      let f : Frame := { number := u.number, csiFn := 0, sof := u.sof, sofMono := u.sofMono, epoch := u.epoch, gen := 0, lines := [], ended := [], digest := 0, spilled := false, dropped := false, set := u.set, tcause := if u.concealed then 0x10 else 0, feTime := v.clk.lode, feMono := v.clk.now, held := !v.accepts };
      ((v.stream st).attach.isSome = true → exec (.conversionDone st) s =
        .next (v.modStream st (fun x => { x with complete := x.complete ++ [f] }))) ∧
      ((v.stream st).attach.isSome = false → exec (.conversionDone st) s = .next ((v.noteDrop st).freeSet st u.set))) ∧
    (∀ (st : StreamId) c x, (s.stream st).clip = some c → c.ending = some x → exec (.clipDone st) s =
      .next ((s.modStream st (fun x => { x with clip := none })).postEvent 0x0308 st
        (cut c.req 4 2 ++ le 2 x ++ le 4 c.frames ++ le 4 c.used ++ zeros 4 ++ le 8 c.sof))) ∧
    (∀ (st : StreamId) x rest sof, s.media.snaps = x :: rest → x.sof = some sof → x.stream = st.val →
      let t := { s with media := { s.media with snaps := rest } };
      let b := Config.encode x.req t.draw.1;
      let done := fun status => (t.draw.2.writeBytes (encDest x.req) (b.take (encLen x.req))).postEvent 0x0309 st
        (cut x.req 4 2 ++ le 2 status ++ le 4 b.length ++ zeros 4 ++ le 8 sof);
      (b.length ≤ encLen x.req → exec (.snapDone st) s = .next (done St.ok)) ∧
      (encLen x.req < b.length → exec (.snapDone st) s = .next (done St.resourceOverflow))))

/-! ## The host link -/

/-- R338 and R355: what becomes of a request of the session while the host port answers, whatever its type: in its turn it
is executed and renews the lease; one of the last 64 executed is answered again and not executed again; one up to 64
ahead is held; any other is discarded and counted; one from another source fails. A held request is dropped and counted
20 ms after it came.

R354 to R356: a CLAIM of another host fails while the lease is HELD; PERIOD_MS must lie from 100 to 60,000 or be 0; a
grant binds a new session, random and not 0, to the request's source and forgets the requests of the previous one, and
its response carries the period and BOOT_EPOCH. RENEW gives the time left. RELEASE and expiry lapse the lease: LEASE_LAPSED
with the policy applied, and cause 4 of the safe state under the policy SAFE alone.

Each of these commands answers a next state here, under conditions on the state and the operands alone: claim, release,
renew, hlpHoldTimeout, leaseExpiry. -/
def Obligations.SessionOrder : Prop :=
  ((∀ (s : State) (r : Req) (type : Nat) (cmd : Instr) (body : State → Nat × Bytes × State),
    s.hostUp = true → s.recovering = false →
    let a := s.hostReq r type cmd body;
    (s.holder r = false → a = s.respond r type (if s.link.lease = .held then St.leaseHeld else St.leaseExpired) [] false) ∧
    (s.holder r = true → ∀ e, s.link.expected = some e →
      (r.seq = e → a = (body (s.turned r)).2.2.respond r type (body (s.turned r)).1 (body (s.turned r)).2.1 true) ∧
      (r.seq ≠ e → (∀ x, s.link.stored.find? (fun x => x.seq == r.seq) = some x →
        a = { s with link := { s.link with tx := s.link.tx ++ [{ x with sa := s.txSa }] } })) ∧
      (r.seq ≠ e → s.link.stored.find? (fun x => x.seq == r.seq) = none →
        ((r.seq - e).toNat ≤ 64 → s.link.held.any (fun h => h.1 == r.seq) = false →
          a = { s with link := { s.link with held := s.link.held ++ [(r.seq, cmd, s.clk.now)] } }) ∧
        (64 < (r.seq - e).toNat → a = s.count Obj.hlSeqDiscard)))) ∧
  (∀ (s : State) (r : Req), s.hostUp = true → s.recovering = false → s.holder r = false →
    exec (.renew r) s = .next (s.respond r 3 (if s.link.lease = .held then St.leaseHeld else St.leaseExpired) [] false)) ∧
  (∀ (s : State) (n : Word) h, s.link.held.find? (fun h => h.1 == n) = some h →
    let t := (s.advanceTo (h.2.2 + 20 * ms)).count Obj.hlSeqDiscard;
    exec (.hlpHoldTimeout n) s = .next { t with link := { t.link with held := t.link.held.filter (fun x => x.1 != n) } })) ∧
  ((∀ (s : State) (r : Req) (host : Bytes) (period : Nat), s.hostUp = true →
    (s.link.lease = .held → host ≠ s.link.hostId → exec (.claim r host period) s = .next (s.respond r 1 St.leaseHeld [] false)) ∧
    ((s.link.lease ≠ .held ∨ host = s.link.hostId) →
      (period ≠ 0 → period < 100 ∨ 60000 < period → exec (.claim r host period) s = .next (s.respond r 1 St.range [] false)) ∧
      (period = 0 ∨ (100 ≤ period ∧ period ≤ 60000) →
        let n := if period = 0 then s.num Obj.leasePeriod else period;
        let t := s.grant r host n;
        exec (.claim r host period) s =
          .next (t.respond { r with session := t.link.session } 1 St.ok (be 4 n ++ be 8 s.work.bootEpoch) false) ∧
        t.link.lease = .held ∧ t.link.session ≠ 0 ∧ t.link.session ≠ s.link.session ∧ t.link.hostId = host ∧ t.link.bound = r.src ∧
        t.link.periodMs = n ∧ t.link.renewed = s.clk.now ∧ t.link.expected = some (r.seq + 1) ∧ t.link.held = [] ∧
        t.link.stored = [] ∧ t.link.orphan = s.link.orphan ∧ t.work = s.work ∧ t.media = s.media))) ∧
  (∀ (s : State) (r : Req), Turn s r →
    exec (.renew r) s = .next ((s.turned r).respond r 3 St.ok (be 4 (s.turned r).leaseRemainMs) true) ∧
    exec (.release r) s = .next (settle s (((s.turned r).lapse 1).respond r 2 St.ok [] true))) ∧
  (∀ (s : State), s.link.lease = .held → s.link.heldFor = none →
    exec .leaseExpiry s = .next (settle s ((s.advanceTo (s.link.renewed + s.link.periodMs * ms)).lapse 0))) ∧
  (∀ (s : State) (how : Nat), (s.lapse how).link.lease = .lapsed ∧ (s.lapse how).link.session = s.link.session ∧
    (s.lapse how).link.orphan = max s.link.orphan (s.num Obj.orphanPolicy) ∧
    (s.num Obj.orphanPolicy ≠ 2 → (s.lapse how).safety = s.safety)))

/-- R341, R347 and R348: MEM_READ and MEM_WRITE of 1 to 1,408 bytes in pages that carry HRD, or HWR; of another page
neither moves a byte. RESULT_READ and RESULT_RELEASE by the state that the handle finds (Table — Result requests), and
SYNC, which fails with BUSY while the SCP restarts.

Each of these commands answers a next state here, under conditions on the state and the operands alone: memRead,
memWrite, resultRead, resultRelease, sync. -/
def Obligations.HostMemory : Prop :=
  ∀ (s : State) (r : Req), Turn s r →
    let t := s.turned r;
    (∀ a n, 1 ≤ n → n ≤ 1408 → s.rst.memHeld = false →
      (s.pagesOk (fun e => e.hrd) a n = false → exec (.memRead r a n) s = .next (settle s (t.respond r 0x20 St.pageRights [] true))) ∧
      (s.pagesOk (fun e => e.hrd) a n = true → (∀ b ∈ blocksOf a n, s.mem.badBlocks.contains (s.blockAt (b * 64)) = false) →
        exec (.memRead r a n) s = .next (settle s (t.respond r 0x20 St.ok (t.readBytes a n) true)))) ∧
    (∀ a b, 1 ≤ b.length → b.length ≤ 1408 → s.rst.memHeld = false →
      (s.pagesOk (fun e => e.hwr) a b.length = false → exec (.memWrite r a b) s =
        .next (settle s (t.respond r 0x21 St.pageRights [] true))) ∧
      (s.pagesOk (fun e => e.hwr) a b.length = true →
        let w := State.hostWriteBlocks a b (blocksOf a b.length) t;
        exec (.memWrite r a b) s = .next (settle s (w.2.respond r 0x21 w.1 [] true)))) ∧
    (∀ (h : Word) off n, 1 ≤ n → n ≤ 1408 → s.rst.memHeld = false →
      let x := tget Buf.free (s.ctx (handleCtx h.toNat)).bufs (handleIdx h.toNat);
      let ends := fun status => exec (.resultRead r h off n) s = .next (settle s (t.respond r 0x22 status [] true));
      (s.handleFinds h.toNat = 3 → ends St.range) ∧ (s.handleFinds h.toNat = 2 → ends St.released) ∧
      (s.handleFinds h.toNat = 0 → ends St.notReady) ∧ (s.handleFinds h.toNat = 1 → x.readable < off + n → ends St.range) ∧
      (s.handleFinds h.toNat = 1 → off + n ≤ x.readable →
        let v := t.hostRead (t.bufAddr (handleCtx h.toNat) (handleIdx h.toNat) + off) n;
        exec (.resultRead r h off n) s = .next (settle s (v.2.2.respond r 0x22 v.1 v.2.1 true)))) ∧
    (∀ hs : List Word, 1 ≤ hs.length → hs.length ≤ 64 →
      let w := State.releaseBufs hs t;
      exec (.resultRelease r hs) s = .next (w.2.respond r 0x23 St.ok w.1 true)) ∧
    (∀ h, (s.handleFinds h = 0 → s.releaseBuf h = (St.stateConflict, s)) ∧ (s.handleFinds h = 2 → s.releaseBuf h = (St.released, s)) ∧
      (s.handleFinds h = 3 → s.releaseBuf h = (St.range, s)) ∧
      (s.handleFinds h = 1 → s.releaseBuf h = (St.ok, s.modBuf h (fun b => { b with state := .released })))) ∧
    (s.runs P.scp = false → exec (.sync r) s = .next (t.respond r 0x40 St.busy [] true)) ∧
    (∀ p n, s.runs P.scp = true → s.link.syncAt = some (p, n) →
      let b := t.summary.1;
      exec (.sync r) s = .next ((t.summary.2.writeBytes (p * pageBytes) b).respond r 0x40 St.ok
        (be 8 (p * pageBytes) ++ be 4 b.length) true))

/-! ## Dictionary requests, the mailbox and the ports -/

/-- R340 and R370: a DICT_READ in its turn, and one of an open object with SESSION 0: an unknown object, an object that is
write-only, the value from OFFSET, and RANGE where OFFSET is not below a TOTAL that is not 0. A DICT_WRITE, whatever the
apply class of its object: a write of a read-only object, a segment that runs on from the staged ones, one that does not,
and the last one, whose value is checked and applied. Staged bytes are discarded 1 s after the last segment.

R369 and R371: the checks of a complete value of an object in their order, each with its status, DEFER included, and
what a write that passes them does by the object's apply class: at once, staged or committed as an epoch, held for the
next idle point, or held for the next warm reset; a persisted value is in flash before it takes effect.

Each of these commands answers a next state here, under conditions on the state and the operands alone: merWrite,
idleWrite, dictRead, dictWrite, dictStageTimeout. -/
def Obligations.DictionaryWrites : Prop :=
  ((∀ (s : State) (r : Req) (i : BitVec 16) (j : Byte) (off len : Nat), 1 ≤ len → len ≤ 1024 →
    let key := i.toNat * 256 + j.toNat;
    let read := fun (t : State) => dictReadBody i.toNat j.toNat off len t;
    (Turn s r → r.session ≠ 0 → exec (.dictRead r i j off len) s =
      .next ((read (s.turned r)).2.2.respond r 0x10 (read (s.turned r)).1 (read (s.turned r)).2.1 true)) ∧
    (s.hostUp = true → r.session = 0 → openObject i.toNat j.toNat = true → exec (.dictRead r i j off len) s =
      .next ((read s).2.2.respond r 0x10 (read s).1 (read s).2.1 false)) ∧
    (s.recovering = false → s.lookup i.toNat j.toNat = none → read s = (St.unknownObject, [], s)) ∧
    (∀ f, s.recovering = false → s.lookup i.toNat j.toNat = some f →
      let t := s.touch key false;
      (f.access = 3 → read s = (St.access, [], t)) ∧
      (f.access ≠ 3 → off = 0 → f.bytes.length ≤ len → read s =
        (St.ok, le 1 f.otype ++ le 1 f.access ++ be 4 f.bytes.length ++ be 2 f.bytes.length ++ f.bytes,
          { t with link := { t.link with snapshot := some (key, f.bytes, t.clk.now) } })) ∧
      (f.access ≠ 3 → t.snapshotFor key off f.bytes ≠ [] → (t.snapshotFor key off f.bytes).length ≤ off → (read s).1 = St.range ∧ (read s).2.1 = []))) ∧
  (∀ (s : State) (w : DictW) (r : ObjRow) (k : Nat), Turn s w.req → findObj w.index.toNat w.sub.toNat = some (r, k) →
    let t := s.taken w.req r k;
    let x := t.writeFound r k w;
    let ends := Host.Outcome.next (settle s ((x.2.respond w.req 0x11 x.1 [] true).runDue));
    let runsOn := fun v : Bytes => (w.offset = 0 ∧ v = []) ∨
      (w.offset ≠ 0 ∧ ∃ t0, t.link.staged = some (r.key k, v, t0) ∧ v.length = w.offset ∧ t.clk.now ≤ t0 + 1000 * ms);
    exec (.dictWrite w) s = ends ∧ exec (.merWrite w) s = ends ∧ exec (.idleWrite w) s = ends ∧
    (r.access = 1 → x = (St.access, t)) ∧
    (r.access ≠ 1 → w.bytes.length ≤ 1024 →
      (r.otype ≤ 8 → w.last = false → x = (St.range, t.setStaged none)) ∧
      (8 < r.otype ∨ w.last = true → (¬ ∃ v, runsOn v) → x = (St.range, t.setStaged none)) ∧
      (∀ v, runsOn v →
        (8 < r.otype → w.last = false → x = (St.ok, t.setStaged (some (r.key k, v ++ w.bytes, t.clk.now)))) ∧
        (∀ y, w.last = true → r.unwire (v ++ w.bytes) = some y →
          x = (t.setStaged none).writeObj r k (writeRule r k w.flashOk y) y w.defer w.flashOk)))) ∧
  (∀ (s : State) k b t0, s.link.staged = some (k, b, t0) →
    exec .dictStageTimeout s = .next ((s.advanceTo (t0 + 1000 * ms)).setStaged none))) ∧
  (∀ (s : State) (r : ObjRow) (k : Nat) (w : WriteRule) (v : Val) (flashOk : Bool), s.recovering = false →
    let write := fun defer => s.writeObj r k w v defer flashOk;
    let value := (r.inRange v && w.check s v) = true;
    let free := s.work.deferred.any (fun d => d.key == r.key k) = false;
    let owner := s.runs r.owner = true ∧ (r.aclass % 8 < 4 ∨ s.runs P.btp = true);
    (r.access = 1 → ∀ d, write d = (St.access, s)) ∧
    (r.access ≠ 1 → ¬ value → ∀ d, write d = (St.range, s)) ∧
    (r.access ≠ 1 → value → ¬ free → ∀ d, write d = (St.busy, s)) ∧
    (r.access ≠ 1 → value → free → ¬ owner → write false = (St.busy, s) ∧ write true = s.hold r k v) ∧
    (r.access ≠ 1 → r.access ≠ 4 → value → free → owner →
      (w.pre s v = St.stateConflict → write false = (St.stateConflict, s) ∧ write true = s.hold r k v) ∧
      (w.pre s v ≠ St.stateConflict → w.pre s v ≠ 0 → ∀ d, write d = (w.pre s v % 2 ^ 16, s)) ∧
      (w.pre s v = 0 → ¬ (r.aclass % 4 = 1 ∧ s.setFull (r.key k) = true) →
        (r.aclass % 8 < 4 → ∀ d, write d = (w.answer s v, s.moment r k w v)) ∧
        (4 ≤ r.aclass % 8 → ∀ d,
          let x : PersRec := { index := r.index k, sub := r.subAt k, otype := r.otype, wseq := 0, value := r.stored v };
          (s.commitRec x flashOk = none → write d = (St.unavailable, s.count Obj.persFail)) ∧
          (∀ t, s.commitRec x flashOk = some t → write d = (w.answer s v, t.moment r k w v))))) ∧
    (r.aclass % 4 = 0 → s.moment r k w v = w.apply s v) ∧
    (r.aclass % 4 = 1 → s.work.openSet = none → s.moment r k w v = s.commitEpoch [(r.key k, v)]) ∧
    (∀ l, r.aclass % 4 = 1 → s.work.openSet = some l → s.moment r k w v =
      { s with work := { s.work with openSet := some (tput l (r.key k) v) } }) ∧
    (r.aclass % 4 = 2 → s.moment r k w v =
      { s with work := { s.work with idlePend := setPend s.work.idlePend (r.key k) (s.val r k) v } }) ∧
    (r.aclass % 4 = 3 → s.moment r k w v =
      { s with work := { s.work with warmPend := setPend s.work.warmPend (r.key k) (s.val r k) v } }) ∧
    (s.work.deferred.length < 16 → s.hold r k v = (St.deferred, { s with work := { s.work with deferred := s.work.deferred ++
      [{ key := r.key k, index := r.index k, sub := r.subAt k, value := v, due := s.clk.now + s.jobLimit }] } })) ∧
    (16 ≤ s.work.deferred.length → s.hold r k v = (St.busy, s)))

/-- R361 and R475: what the commands of the mailbox do: the identity objects and parts of the summary in the data window,
a warm reset once the write has been answered, and an image of 4,096 to 33,550,336 bytes carried into a slot in recovery
mode, 1,024 bytes at a time from the offset that runs on. MB_STATUS is the outcome, and MB_SEQ counts.

Each of these commands answers a next state here, under conditions on the state and the operands alone: ident, syncPart,
mbWarmReset, imageBegin, imageData, imageEnd. -/
def Obligations.Mailbox : Prop :=
  ∀ (s : State) (r : Req), s.hostUp = true → s.holder r = true → s.link.expected.getD r.seq = r.seq →
    s.work.deferred.any (fun d => d.key == Obj.mbCmd.key 0) = false →
    let t := (s.taken r Obj.mbCmd 0).setStaged none;
    let arg := s.blob Obj.mbArg;
    let ends := fun (status : Nat) (u : State) => ((u.setNum Obj.mbStatus 0 status).count Obj.mbSeq).respond r 0x11 St.ok [] true;
    exec (.ident r) s = .next (ends St.ok (t.mbPut (Config.identLayout t.identity))) ∧
    (fld arg 0 4 = 0 →
      let u := { t.summary.2 with link := { t.summary.2.link with part := t.summary.1 } };
      exec (.syncPart r) s = .next (ends St.ok (u.mbPut (t.summary.1.take 1024)))) ∧
    (fld arg 0 4 ≠ 0 → fld arg 0 4 < s.link.part.length →
      exec (.syncPart r) s = .next (ends St.ok (t.mbPut (cut s.link.part (fld arg 0 4) 1024)))) ∧
    (s.fw.due = none → exec (.mbWarmReset r) s = .next (settle s ((ends St.ok t).warmReset 3 none))) ∧
    (s.recovering = false → exec (.imageBegin r) s = .next (ends St.stateConflict t) ∧
      exec (.imageData r) s = .next (ends St.stateConflict t) ∧ exec (.imageEnd r) s = .next (ends St.stateConflict t)) ∧
    (s.recovering = true →
      let slot := fld arg 0 1;
      let len := fld arg 4 4;
      (slot ≤ 1 → 4096 ≤ len → len ≤ 33550336 → exec (.imageBegin r) s =
        .next (ends St.ok { t.eraseSlot slot with trust := { (t.eraseSlot slot).trust with image := some (slot, len, 0) } })) ∧
      (∀ k len next, s.trust.image = some (k, len, next) →
        let n := min 1024 (len - next);
        let u := t.flashPut (slotBase k + next) ((s.blob Obj.mbData).take n);
        (fld arg 0 4 = next → exec (.imageData r) s = .next (ends St.ok { u with trust := { u.trust with image := some (k, len, next + n) } })) ∧
        (fld arg 0 4 ≠ next → exec (.imageData r) s = .next (ends St.range t)) ∧
        (next < len → exec (.imageEnd r) s = .next (ends St.range t)) ∧
        (len ≤ next → exec (.imageEnd r) s =
          .next (ends (t.checkSlot k).1 { (t.checkSlot k).2 with trust := { (t.checkSlot k).2.trust with image := none } }))))

/-- R349 to R352, R330 to R333, R393: EVENT frames when they are due and heartbeats, while the lease is HELD; a valid Sync
locks, slews an offset of at most LT_STEP_NS and steps by a larger one or from FREE_RUN; HOLDOVER 3 s after the last one;
link changes; what the host port discards; what the safety port answers.

Each of these commands answers a next state here, under conditions on the state and the operands alone: hlFrameRx,
eventFrameSend, evtHeartbeat, gptpSyncRx, gptpHoldover, portLinkChange, spFrameRx, peerDelayMeasurement. -/
def Obligations.PortsAndTime : Prop :=
  ∀ (s : State),
    (s.hostUp = true → s.link.lease = .held →
      (∀ t0, s.link.timer = some t0 → exec .eventFrameSend s = .next ((s.advanceTo (s.eventDueAt t0)).sendEvent false)) ∧
      (s.link.timer = none → exec .eventFrameSend s = .next s) ∧
      exec .evtHeartbeat s = .next ((s.advanceTo (s.link.lastEvent + s.num Obj.evtHeartbeatMs * ms)).sendEvent true)) ∧
    (∀ time : Nat, s.link.up = true →
      let off : Int := (time : Int) - (s.clk.lode : Int);
      let was := s.num Obj.ltState;
      let t := (s.setNum Obj.ltState 0 1).setNum Obj.ltOffset 0 (satI32 off);
      let stepped := { t.count Obj.ltSteps with clk := { t.clk with lode := time, slew := 0, lastSync := t.clk.now } };
      let slewed := { t with clk := { t.clk with slew := off, lastSync := t.clk.now } };
      (was = 0 ∨ s.num Obj.ltStepNs < off.natAbs → exec (.gptpSyncRx time) s = .next (settle s (State.timeState stepped off))) ∧
      (was = 1 → off.natAbs ≤ s.num Obj.ltStepNs → exec (.gptpSyncRx time) s = .next (settle s slewed)) ∧
      (was = 2 → off.natAbs ≤ s.num Obj.ltStepNs → exec (.gptpSyncRx time) s = .next (settle s (State.timeState slewed 0)))) ∧
    (s.num Obj.ltState = 1 → exec .gptpHoldover s =
      .next (settle s (((s.advanceTo (s.clk.lastSync + 3000 * ms)).setNum Obj.ltState 0 2).timeState 0))) ∧
    (s.link.up = true → exec .peerDelayMeasurement s = .next { s with clk := { s.clk with pdelay := s.clk.pdelay + 1 } }) ∧
    (∀ up, s.rst.phase ≠ .powerReset →
      exec (.portLinkChange 0 up) s = .next { s with link := { s.link with up := up } } ∧
      exec (.portLinkChange 1 up) s = .next (s.setNum Obj.spLink 0 (if up then 1 else 0)) ∧
      exec (.portLinkChange 2 up) s = .next (s.setNum Obj.dpLink 0 (if up then 1 else 0)) ∧
      exec (.portLinkChange 3 up) s = .next (s.setNum Obj.dpLink 1 (if up then 1 else 0))) ∧
    (∀ f : EthFrame, s.hostUp = true → f.bytes ≤ 1554 →
      let m := s.macsecRx f;
      (f.fcsOk = false ∨ f.toUs = false → exec (.hlFrameRx f) s = .next (s.count Obj.hlRxDiscard)) ∧
      (f.fcsOk = true → f.toUs = true →
        (m.1 = false → exec (.hlFrameRx f) s = .next m.2) ∧
        (m.1 = true → (f.ipOk = false ∨ (carriesUdp f = true ∧ f.udpOk = false) ∨ f.fragment = true) →
          exec (.hlFrameRx f) s = .next (m.2.count Obj.hlRxDiscard)) ∧
        (m.1 = true → f.ipOk = true → (carriesUdp f = true → f.udpOk = true) → f.fragment = false →
          exec (.hlFrameRx f) s = .next (settle s (m.2.acceptHl f))))) ∧
    (∀ f : EthFrame, f.prot = .unprotected → s.num Obj.macsecMode = 2 →
      (s.excepted f = true → s.macsecRx f = (true, s)) ∧ (s.excepted f = false → s.macsecRx f = (false, s.count Obj.macsecUnprot))) ∧
    (∀ f : EthFrame, s.rst.phase ≠ .powerReset →
      let mine := (∃ t, f.payload = .arp t ∧ s.isSpIp true t = true) ∨ (∃ t, f.payload = .neighbour t ∧ s.isSpIp false t = true);
      (f.fcsOk = true → mine → exec (.spFrameRx f) s = .next { s with safety := { s.safety with replies := s.safety.replies ++ [f.src] } }) ∧
      (¬ (f.fcsOk = true ∧ mine) → exec (.spFrameRx f) s = .next s))

/-! ## Safety, firmware processors and updates -/

/-- R388, R392, R395, R404 to R406: a frame that its deadline finds undecided is decided with DEADLINE_MISSED; a report
turns stale at its freshness limit; a heartbeat 10 ms after the previous frame; cause 0 ends when every condition of R392
holds, and STARTUP_MS and its event tell the time; golden tests come due DIAG_INTERVAL after the last one, overdue 500 ms
later, and begin on an idle slice; a passed test clears the lapse and turns the variant, a failed one is repeated at once
or retires the slice; a slice that has gone 1 s without a test lapses; a lockstep mismatch enters cause 2.

Each of these commands answers a next state here, under conditions on the state and the operands alone: deadlineExpiry,
staleExpiry, safetyHeartbeat, cause0Release, lockstepMismatch, goldenTestDue, goldenTestOverdue, goldenTestEnd,
coverageLapse. -/
def Obligations.SafetyTimers : Prop :=
  ∀ (s : State),
    (∀ (st : StreamId) mono sof dl ep, minBy (fun u : Nat × Nat × Nat × Nat => u.2.2.1) (s.stream st).undecided = some (mono, sof, dl, ep) →
      exec (.deadlineExpiry st) s = .next (settle s ((s.advanceTo dl).decideFrame st mono sof ep St.deadlineMissed 4))) ∧
    (∀ (st : StreamId) t, (s.stream st).validSof = some t → (s.stream st).reason = 0 → exec (.staleExpiry st) s =
      .next (settle s ((s.advanceTo (t + max (s.num Obj.staleMs) (s.deadlineOf st (s.stream st).epoch) * ms)).invalidate st
        (max 3 (s.standing st))))) ∧
    (s.rst.phase ≠ .powerReset → s.safetySends = true → exec .safetyHeartbeat s =
      .next ((s.advanceTo (s.safety.lastSent + 10 * ms)).sendSafety 2 0xFF 0 0 0)) ∧
    ((s.safety.causes.getLsbD 0 = true ∧ s.rst.phase = .starting ∧ s.runs P.sfp = true ∧ s.runs P.scp = true ∧
        s.work.replayDone = true ∧ (∀ n ∈ s.slicesInService, (s.slice n).golden.completed = true) →
      let t := s.setNum Obj.startupMs 0 ((s.clk.now - s.rst.t0) / ms);
      let u := State.leaveCause { t with rst := { t.rst with phase := .running } } 0;
      exec .cause0Release s = .next (settle s (u.postEvent 0x0101 0xFFFF
        (le 1 (s.num Obj.resetCause) ++ zeros 3 ++ le 4 (min 0xFFFFFFFF ((s.clk.now - s.rst.t0) / us))))))) ∧
    (∀ sl : SliceId,
      let g := (s.slice sl).golden;
      (s.inService sl = true → s.runs P.scp = true → g.due = none → g.running = false →
        let t := s.advanceTo (g.lastEnd + s.num Obj.diagInterval * ms);
        exec (.goldenTestDue sl) s = .next (t.modGolden sl (fun g => { g with
          due := some t.clk.now, running := (s.slice sl).run.isNone && !s.work.shedding }))) ∧
      (∀ d, g.due = some d → s.inService sl = true → g.overdue = false → exec (.goldenTestOverdue sl) s =
        .next ((s.advanceTo (d + 500 * ms)).modGolden sl (fun g => { g with overdue := true }))) ∧
      (s.testing sl = true →
        let p := (s.count Obj.goldenPass sl).modGolden sl (fun g => { g with
          due := none, overdue := false, running := false, variant := (g.variant + 1) % 16, repeated := false
          lastEnd := s.clk.now, completed := true, lapsed := false });
        (g.repeated = false → exec (.goldenTestEnd sl true) s =
          .next (settle s ((if g.lapsed then p.postEvent 0x0505 0xFFFF (le 1 sl) else p).endReset sl))) ∧
        ((s.slice sl).resetting = none → g.repeated = false → (g.completed = true ∨ s.rst.phase ≠ .starting ∨ s.num Obj.resetCause ≠ 0) →
          exec (.goldenTestEnd sl false) s = .next (settle s ((s.count Obj.goldenFail sl).modGolden sl (fun g => { g with
            due := some s.clk.now, overdue := true, running := true, repeated := true })))) ∧
        ((s.slice sl).resetting = none → g.repeated = true → exec (.goldenTestEnd sl false) s =
          .next (settle s ((s.count Obj.goldenFail sl).retireSlice sl 2))) ∧
        (∀ t0, (s.slice sl).resetting = some t0 → exec (.goldenTestEnd sl false) s =
          .next (settle s ((s.count Obj.goldenFail sl).retireSlice sl 3)))) ∧
      (s.inService sl = true → s.runs P.sfp = true → g.lapsed = false →
        let t := ((s.advanceTo (g.lastEnd + 1000 * ms)).modGolden sl (fun g => { g with lapsed := true })).count Obj.lapses sl;
        exec (.coverageLapse sl) s =
          .next (settle s (t.postEvent 0x0504 0xFFFF (le 1 sl ++ zeros 3 ++ le 4 ((t.clk.now - g.lastEnd) / ms)))))) ∧
    (s.runs P.sfp = true → exec .lockstepMismatch s = .next (settle s ((s.postOpen 0 0x23).enterCause 2)))

/-- R399, R438 to R447 and R510: what restarts a firmware processor and with which cause; a release that fails for 150 ms
is tried once more, an activation going back to its slot, and a second failure leaves it not released; a processor that
reports ready ends its restart and lets the start go on; log entries below LOG_LEVEL are not recorded, and a full buffer
drops; trace points of the mask go into the same buffer; the buffer drains into the rings in its order.

Each of these commands answers a next state here, under conditions on the state and the operands alone: watchdogExpiry,
fwRestart, fwMemoryError, processorReady, restartTimeout, logEntry, traceHit, stagingBufferDrain. -/
def Obligations.Processors : Prop :=
  ∀ (s : State) (p : ProcId),
    (s.runs p = true → exec (.watchdogExpiry p) s =
      .next (settle s (((s.count Obj.watchdogExpiries).postFault St.unavailable 4 p [5, 1]).beginRestart p 1))) ∧
    (s.runs p = true → exec (.fwMemoryError p) s = .next (settle s (s.beginRestart p 4))) ∧
    (∀ w : CmdW, Turn s w.req → s.fw.due = none → Writes s Obj.fwRestart p (fwRestartRule p) (.num w.value) →
      exec (.fwRestart p w) s = .next (settle s ((s.wrote w.req Obj.fwRestart p id).beginRestart p 2))) ∧
    (let x := s.proc p;
      (s.rst.phase ≠ .powerReset → s.rst.phase ≠ .warmHeld → s.num Obj.fwState p = 1 → x.waitBtp = false →
        (s.recovering = true ∨ s.componentOk x.slot p = true) →
        let t := (s.setNum Obj.fwState p 0).endRestart p;
        exec (.processorReady p) s = .next (settle s ((if p.val = P.sfp then t.leaveCause 3 else t).goOn p))) ∧
      (s.num Obj.fwState p = 1 → x.waitBtp = false →
        let t := s.advanceTo (x.start + 150 * ms);
        (x.retry = true → exec (.restartTimeout p) s = .next (settle s ((t.postRestarted p 2).setNum Obj.fwState p 2))) ∧
        (x.retry = false → x.activating = false → exec (.restartTimeout p) s = .next (settle s ((t.postRestarted p 1).beginRestart p 5))) ∧
        (x.retry = false → x.activating = true → exec (.restartTimeout p) s =
          .next (settle s (((((t.postRestarted p 1).modProc p (fun x => { x with slot := x.prevSlot, activating := false })).postActivation p
            x.slot St.imageInvalid)).beginRestart p 5))))) ∧
    (∀ level (code : BitVec 16) (args : List Word), s.runs p = true → level ≤ 4 →
      let entry := logBytes s.clk.lode p level code.toNat (args.map (·.toNat));
      (level < s.num Obj.logLevel → level ≠ 4 → exec (.logEntry p level code args) s = .next s) ∧
      ((s.num Obj.logLevel ≤ level ∨ level = 4) → s.fw.gapDue = 0 →
        (s.fw.buffer.length < 4096 → exec (.logEntry p level code args) s =
          .next { s with fw := { s.fw with buffer := s.fw.buffer ++ [.log entry] } }) ∧
        (4096 ≤ s.fw.buffer.length → exec (.logEntry p level code args) s =
          .next { s.count Obj.logDropped with fw := { s.fw with gapDue := 1 } }))) ∧
    (∀ point (value : Word), s.runs p = true → point < 1024 → pointProc point = p.val →
      let on := (fld (s.blob Obj.traceMask) (point / 8) 1).testBit (point % 8);
      (on = false → exec (.traceHit p point value) s = .next s) ∧
      (on = true → 4096 ≤ s.fw.buffer.length → exec (.traceHit p point value) s = .next (s.count Obj.traceDropped)) ∧
      (on = true → s.fw.buffer.length < 4096 → exec (.traceHit p point value) s =
        .next { s with fw := { s.fw with buffer := s.fw.buffer ++
          [.trace (le 8 s.clk.lode ++ le 2 point ++ le 1 p ++ zeros 1 ++ le 4 value.toNat)] } })) ∧
    (∀ a b, s.rst.memHeld = false → s.fw.logBase = some a → s.fw.traceBase = some b →
      let t := s.fw.buffer.foldl State.writeStaged s;
      exec .stagingBufferDrain s = .next { t with fw := { t.fw with buffer := [] } })

/-- R448 to R455, R460 and R382: the end of a staging, its cancelling, an activation begun, put off while POWER_STATE is 3
or 4, settled 10 s after it has fallen, or abandoned 60 s after its write; UPD_COMMIT raises the instar floor by the fuses
that verify and answers UNAVAILABLE where it stays lower; PERS_ERASE writes an erase record.

Each of these commands answers a next state here, under conditions on the state and the operands alone: persErase,
stagingDone, updCancel, updActivateProcessor, updActivateBundle, activationSettle, activationAbandon, updCommit. -/
def Obligations.Updates : Prop :=
  ∀ (s : State),
    (∀ ok b k t0, s.fw.staging = some (b, k, t0) → s.runs P.btp = true →
      let t := { s with fw := { s.fw with staging := none } };
      let bad := t0 + 120000 * ms ≤ s.clk.now ∨ s.regionBad (stageAddr b) (stageLen b) = true ∨ ok = false;
      (bad → exec (.stagingDone ok) s = .next (State.rejectStaging t k St.imageInvalid)) ∧
      (¬ bad →
        let u := ((State.setUpd t 2 (s.num Obj.updStatus) k).flashPut (slotBase k) (s.readBytes (stageAddr b) (stageLen b))).checkRecord k;
        (u.1 = St.ok → exec (.stagingDone ok) s = .next (u.2.setUpd 3 St.ok k)) ∧
        (u.1 ≠ St.ok → exec (.stagingDone ok) s = .next (u.2.rejectStaging k u.1)))) ∧
    (∀ w : CmdW, Turn s w.req →
      (Writes s Obj.updCancel 0 updCancelRule (.num w.value) →
        let k := s.num Obj.updSlot;
        (s.num Obj.updState = 3 → exec (.updCancel w) s = .next (s.wrote w.req Obj.updCancel 0 (fun u => (u.eraseSlot k).setUpd 0 (s.num Obj.updStatus) k))) ∧
        (s.num Obj.updState = 0 → exec (.updCancel w) s = .next (s.wrote w.req Obj.updCancel 0 id)) ∧
        (s.num Obj.updState ≠ 3 → s.num Obj.updState ≠ 0 → exec (.updCancel w) s =
          .next (s.wrote w.req Obj.updCancel 0 (fun u => u.setUpd 0 (s.num Obj.updStatus) 0xFF)))) ∧
      (s.fw.due = none → Writes s Obj.updActivate 0 updActivateRule (.num w.value) →
        let k := actSlot w.value;
        (s.emergency = false →
          (actTarget w.value ≠ 0xFF → exec (.updActivateProcessor w) s =
            .next (settle s ((s.wrote w.req Obj.updActivate 0 id).beginActivation (actTarget w.value) k))) ∧
          (actTarget w.value = 0xFF → exec (.updActivateBundle w) s =
            .next (settle s ((s.wrote w.req Obj.updActivate 0 id).warmReset 4 (some k))))) ∧
        (s.emergency = true →
          let t := s.taken w.req Obj.updActivate 0;
          let u := State.setNum { t with fw := { t.fw with pending := some (actTarget w.value, k, s.clk.now, none) } } Obj.actPending 0
            (if actTarget w.value = 0xFF then 128 else 2 ^ actTarget w.value);
          let v := (u.postActivation (actTarget w.value) k St.activationDeferred).respond w.req 0x11 St.activationDeferred [] true;
          (actTarget w.value ≠ 0xFF → exec (.updActivateProcessor w) s = .next (settle s v)) ∧
          (actTarget w.value = 0xFF → exec (.updActivateBundle w) s = .next (settle s v)))) ∧
      (∀ m, Writes s Obj.updCommit 0 (updCommitRule m) (.num w.value) →
        let t := (s.taken w.req Obj.updCommit 0).raised m;
        exec (.updCommit w m) s = .next (t.respond w.req 0x11 (if t.floor < s.commitTo then St.unavailable else St.ok) [] true)) ∧
      (∀ ok, Writes s Obj.persErase 0 (persEraseRule ok) (.num w.value) →
        let t := s.taken w.req Obj.persErase 0;
        let x : PersRec := { index := 0xFFFF, sub := 0, otype := 0, wseq := 0, value := [] };
        (ok = false → exec (.persErase w ok) s = .next ((t.count Obj.persFail).respond w.req 0x11 St.unavailable [] true)) ∧
        (ok = true → ∃ u, t.commitRec x true = some u ∧ exec (.persErase w ok) s = .next (u.respond w.req 0x11 St.ok [] true)))) ∧
    (∀ target k t0 c, s.fw.pending = some (target, k, t0, some c) →
      (s.emergency = false → s.activationHeld target = false → c + 10000 * ms ≤ t0 + 60000 * ms → exec .activationSettle s =
        .next (settle s (((s.advanceTo (c + 10000 * ms)).clearPending).beginActivation target k))) ∧
      (s.emergency = true → exec .activationSettle s = .next s)) ∧
    (∀ target k t0 c, s.fw.pending = some (target, k, t0, c) → exec .activationAbandon s =
      .next (((s.advanceTo (t0 + 60000 * ms)).clearPending).postActivation target k St.activationAbandoned))

/-! ## Power, temperatures, the governor and regulators -/

/-- R413, R415 to R417, R423, R428 and R429: what an evaluation of chip power does to the cap ceilings, what a step of the
thermal loop does to the thermal ceilings, and what POWER_STATE and its event make of the conditions in force.

Each of these commands answers a next state here, under conditions on the state and the operands alone: powerCapEval,
thermalLoopStep. -/
def Obligations.PowerLoops : Prop :=
  ∀ (s : State),
    (∀ m, s.rst.phase ≠ .powerReset →
      (s.runs P.pwp = false → exec (.powerCapEval m) s = .next (s.metered m)) ∧
      (s.runs P.pwp = true →
        let cap := s.num Obj.powerCap * 1000;
        let above := cap < m.milliW ∨ s.power.regs.any (fun r => r.2.hot) = true;
        let u := fun calm : Nat => (s.metered m).noteChip m.milliW (m.milliW - cap) calm;
        (above → exec (.powerCapEval m) s = .next (settle s (((u 0).slicesInService.foldl (fun v n =>
          v.setNum Obj.capCeil n (max 400 (v.num Obj.capCeil n - 25))) (u 0)).refreshPower 1))) ∧
        (¬ above → m.milliW + 1000 ≤ cap → 9 ≤ s.power.calm → exec (.powerCapEval m) s =
          .next (settle s (((u (s.power.calm + 1)).slicesInService.foldl (fun v n =>
            v.setNum Obj.capCeil n (min 1200 (v.num Obj.capCeil n + 25))) (u (s.power.calm + 1))).refreshPower 1))) ∧
        (¬ above → m.milliW + 1000 ≤ cap → s.power.calm < 9 → exec (.powerCapEval m) s =
          .next (settle s ((u (s.power.calm + 1)).refreshPower 1))) ∧
        (¬ above → cap < m.milliW + 1000 → exec (.powerCapEval m) s = .next (settle s ((u 0).refreshPower 1)))) ∧
      (let t := (s.advanceTo (s.power.lastEval + ms)).addEnergy m;
        s.metered m = { t with power := { t.power with lastEval := t.clk.now } }) ∧
      (∀ excess calm, ((s.metered m).noteChip m.milliW excess calm).num Obj.powerNow = (milliF m.milliW).toNat)) ∧
    (s.runs P.pwp = true →
      let a := s.thermTime;
      let t := fun cool : Option Nat => ({ a with power := { a.power with coolFrom := cool } } : State);
      let limit : Int := (s.num Obj.throttleC * 1000 : Nat);
      (s.tj = none → exec .thermalLoopStep s = .next (settle s (a.riseEm.refreshPower 2))) ∧
      (∀ j, s.tj = some j →
        (limit < j → exec .thermalLoopStep s = .next (settle s ((((List.range 6).foldl (fun v n =>
          v.setNum Obj.thermCeil n (max 400 (v.num Obj.thermCeil n - 25))) (t none)).riseEm).refreshPower 2))) ∧
        (limit - 2000 ≤ j → j ≤ limit → exec .thermalLoopStep s = .next (settle s (((t none).riseEm).refreshPower 2))) ∧
        (j < limit - 2000 → s.power.coolFrom = none → exec .thermalLoopStep s =
          .next (settle s (((t (some a.clk.now)).riseEm).refreshPower 2))) ∧
        (∀ c, j < limit - 2000 → s.power.coolFrom = some c → s.power.clamp110 = false → c + 100 * ms ≤ a.clk.now →
          s.power.lastRise + 10 * ms ≤ a.clk.now →
          let v : State := { a with power := { a.power with lastRise := a.clk.now } };
          exec .thermalLoopStep s = .next (settle s ((((List.range 6).foldl (fun w n =>
            w.setNum Obj.thermCeil n (min 1200 (w.num Obj.thermCeil n + 25))) v).riseEm).refreshPower 2)))) ∧
      (let b := s.advanceTo (s.power.lastStep + ms); a = { b with power := { b.power with lastStep := b.clk.now } })) ∧
    (∀ cause, s.runs P.pwp = true →
      let u := State.noteCalm (State.followAll { s with work := { s.work with shedding := s.power.powerEm || s.thermalEm || s.capShort } }) s.powerStateNow;
      let old := s.num Obj.powerState;
      let new := s.powerStateNow;
      (old = new → s.refreshPower cause = u) ∧
      (old ≠ new →
        let v := u.setNum Obj.powerState 0 new;
        let w := if new = 2 then v.count Obj.throttleEvents else v;
        s.refreshPower cause = w.postEvent 0x0601 0xFFFF (le 1 old ++ le 1 new ++ le 1 cause ++ zeros 1 ++ le 4 w.tjBits ++ le 4 (w.num Obj.powerNow)))) ∧
    (s.power.powerEm = true → s.powerStateNow = 4) ∧ (s.power.powerEm = false → s.thermalEm = true → s.powerStateNow = 3) ∧
    (∀ n, s.ceiling n ≤ 1200 ∧ s.ceiling n ≤ s.num Obj.capCeil n ∧ s.ceiling n ≤ s.num Obj.thermCeil n ∧
      (s.power.clamp110 = true → s.ceiling n ≤ 400) ∧ (s.power.vrHot = true → s.ceiling n ≤ s.num Obj.vrhotClock) ∧
      (s.ceiling n < (s.pslice n).mhz →
        ((s.followCeil n).pslice n).mhz = s.ceiling n ∧ mvFor (s.ceiling n) ≤ ((s.followCeil n).pslice n).mv) ∧
      ((s.pslice n).mhz < s.ceiling n → (s.pslice n).settling = none →
        ((s.followCeil n).pslice n).mhz = (s.pslice n).mhz ∧ mvFor (s.ceiling n) ≤ ((s.followCeil n).pslice n).mv ∧
        ((s.followCeil n).pslice n).settling = some (s.ceiling n, s.clk.now)))

/-- R422, R424 and R425: a reading is kept, fails its sensor when it lies outside −55 °C to 150 °C, and a sensor that has
given none for 1 ms fails; a failed sensor stays failed; every other sensor reads at most Tj; the clamp at 110 °C counts an
emergency unless one is in force; it ends after 1 s below 105 °C with the thermal ceilings at 0.4 GHz; a sensor at 120 °C
drives THERM_TRIP_N low, stops the slices and enters cause 1.

Each of these commands answers a next state here, under conditions on the state and the operands alone: sensorRead,
thermalClamp, thermalEmergencyEnd, thermalTrip. -/
def Obligations.Temperatures : Prop :=
  ∀ (s : State),
    (∀ rs, s.rst.phase ≠ .powerReset →
      let a := s.advanceTo (s.power.lastRead + 100 * us);
      let t := rs.foldl State.readSensor { a with power := { a.power with lastRead := a.clk.now } };
      let b := fun x : Option Nat => ({ t with power := { t.power with below105 := x } } : State);
      let cause := if s.num Obj.sensorFailed = t.num Obj.sensorFailed then 2 else 5;
      (∀ j, t.tj = some j → j < 105000 → exec (.sensorRead rs) s =
        .next (settle s ((b (some (t.power.below105.getD t.clk.now))).refreshPower cause))) ∧
      (∀ j, t.tj = some j → 105000 ≤ j → exec (.sensorRead rs) s = .next (settle s ((b none).refreshPower cause))) ∧
      (t.tj = none → exec (.sensorRead rs) s = .next (settle s ((b none).refreshPower cause)))) ∧
    (∀ (k : Fin 24) x, tfind s.power.temps k = some x →
      (∀ r, x.failed = true → s.readSensor { sensor := k, milliC := r } = s) ∧
      (x.failed = false →
        (∀ c : Int, let y : Temp := { x with milliC := c, updated := s.clk.now };
          let t : State := { s with power := { s.power with temps := tput s.power.temps k y } };
          (-55000 ≤ c → c ≤ 150000 → s.readSensor { sensor := k, milliC := some c } = t) ∧
          (c < -55000 ∨ 150000 < c → s.readSensor { sensor := k, milliC := some c } = t.failSensor k)) ∧
        (let t : State := { s with power := { s.power with temps := tput s.power.temps k x } };
          (s.clk.now < x.updated + ms → s.readSensor { sensor := k, milliC := none } = t) ∧
          (x.updated + ms ≤ s.clk.now → s.readSensor { sensor := k, milliC := none } = t.failSensor k)))) ∧
    (∀ k x, (k, x) ∈ s.power.temps → x.failed = false → ∃ j, s.tj = some j ∧ x.milliC ≤ j) ∧
    (∀ j, s.tj = some j → 110000 ≤ j → s.power.clamp110 = false →
      (s.thermalEm = true → exec .thermalClamp s = .next (settle s (State.refreshPower { s with power := { s.power with clamp110 := true } } 2))) ∧
      (s.thermalEm = false →
        let t := s.count Obj.thermEmergencies;
        exec .thermalClamp s = .next (settle s (State.refreshPower { t with power := { t.power with clamp110 := true } } 2)))) ∧
    (∀ t0, s.power.clamp110 = true → s.power.below105 = some t0 →
      let t := s.advanceTo (t0 + 1000 * ms);
      exec .thermalEmergencyEnd s = .next (settle s (State.refreshPower ((List.range 6).foldl (fun u n => u.setNum Obj.thermCeil n 400)
        { t with power := { t.power with clamp110 := false, lastRise := t.clk.now } }) 2))) ∧
    (∀ k x, s.power.tripped = false → (k, x) ∈ s.power.temps → x.failed = false → 120000 ≤ x.milliC →
      let t := s.stopSlices;
      let u : State := { t with power := { t.power with tripped := true }, pins := { t.pins with thermTripN := false } };
      exec .thermalTrip s = .next (settle s ((u.postOpen 0 0xFF).enterCause 1)))

/-- R409, R410, R412 to R414, R418 and R419: in a governor step the estimate rises by at most the slew limit and, without a
hardware clamp, falls by at most as much; it is no lower than the floor that it can reach; the fill is what the demand
leaves of it, and one piece of twilight work begins where some is left (R420; one piece a step is
the model's choice, notes/assumptions/58.md); a droop stretches the cycles of its island and counts; a
raised voltage that has settled lets the slice clock and the sliver clock follow, six to five (R11); a switched domain or one
that keeps its contents wakes in its time and goes off only when nothing needs it; the table's voltages.

Each of these commands answers a next state here, under conditions on the state and the operands alone: droopRecovery,
governorStep, droopOnset, domainWake, domainOff, voltageSettled. -/
def Obligations.GovernorAndDomains : Prop :=
  ∀ (s : State),
    (∀ ds other, s.rst.phase ≠ .powerReset →
      let total := other + sumOf (fun n => ds.getD n 0) (List.range 6);
      ∃ t, exec (.governorStep ds other) s = .next (if total < t.power.estUa && !t.noFill then t.startTwilight else t) ∧
        t.clk.now = s.clk.now + 100 ∧
        t.power.estUa ≤ s.power.estUa + s.slewUa ∧
        (s.power.clamp110 = false → s.power.vrHot = false → s.power.tripped = false → s.power.estUa ≤ t.power.estUa + s.slewUa) ∧
        (s.floorUa ≤ s.power.estUa + s.slewUa → s.floorUa ≤ t.power.estUa) ∧
        t.power.fillUa = t.power.estUa - total) ∧
    (∀ sl, exec (.droopOnset sl) s = .next ((s.modPslice sl (fun p => { p with stretched := true })).count Obj.droopEvents sl) ∧
      exec (.droopRecovery sl) s = .next (s.modPslice sl (fun p => { p with stretched := false })) ∧
      (∀ f t0, (s.pslice sl).settling = some (f, t0) → exec (.voltageSettled sl) s =
        .next ((s.advanceTo (t0 + 200 * us)).modPslice sl (fun p => { p with
          mhz := f, sliver6 := 5 * f, settling := none })))) ∧
    (∀ d : Fin 219, switched d = true →
      (s.domainOn d = false → s.rst.phase ≠ .powerReset → s.rst.phase ≠ .recovery → (d.val < 162 → s.slicePowered (d / 27) = true) →
        ∃ t, exec (.domainWake d) s = .next t ∧ t.domainOn d = true ∧ t.clk.now = s.clk.now + wakeNs d ∧
          (∀ e, e ≠ d.val → t.domainOn e = s.domainOn e)) ∧
      (s.domainOn d = true → s.domainBusy d = false →
        ∃ t, exec (.domainOff d) s = .next t ∧ t.domainOn d = false ∧ (∀ e, e ≠ d.val → t.domainOn e = s.domainOn e)) ∧
      (s.domainOn d = true → s.domainBusy d = true → exec (.domainOff d) s = .next s)) ∧
    (∀ d : Fin 219, retains d = true →
      (s.asleep d = true → s.rst.phase ≠ .powerReset → s.rst.phase ≠ .recovery → s.slicePowered (d / 27) = true →
        let t := s.advanceTo (s.clk.now + wakeNs d);
        exec (.domainWake d) s = .next { t with power := { t.power with domains := tput t.power.domains d true } }) ∧
      (s.asleep d = false → s.domainBusy d = false →
        exec (.domainOff d) s = .next { s with power := { s.power with domains := tdel s.power.domains d } }) ∧
      (s.asleep d = false → s.domainBusy d = true → exec (.domainOff d) s = .next s)) ∧
    [400, 600, 800, 1000, 1200].map mvFor = [650, 690, 730, 790, 850]

/-- R426 and R428: VR_HOT_N clamps at once and has every STATUS_WORD read, PMB_ALERT_N and the poll have them read too; a
regulator's third failure in a row posts PMBUS_FAIL; an over-current or under-voltage alarm begins a power emergency with
the emergency ceiling at 0.4 GHz and counts it; the emergency ends 1 s after every alarm has cleared.

Each of these commands answers a next state here, under conditions on the state and the operands alone: vrHotNAssert,
vrHotNDeassert, pmbAlertN, pmbusPoll, powerEmergencyEnd. -/
def Obligations.Regulators : Prop :=
  ∀ (s : State) (rs : List RegRead),
    (let reads := fun u : State => ((rs.foldl State.readReg u).judgeRegs).refreshPower 4;
      (s.rst.phase ≠ .powerReset → s.runs P.pwp = true → exec (.pmbAlertN rs) s = .next (settle s (reads s)) ∧
        exec (.pmbusPoll rs) s = .next (settle s (reads s))) ∧
      (s.rst.phase ≠ .powerReset → s.runs P.pwp = false → exec (.pmbAlertN rs) s = .next (settle s s) ∧
        exec (.pmbusPoll rs) s = .next (settle s s)) ∧
      (s.rst.phase ≠ .powerReset → s.pins.vrHotN = true →
        let t : State := { s with pins := { s.pins with vrHotN := false }, power := { s.power with vrHot := true, powerClear := none } };
        let u := (t.count Obj.vrhotAsserts).refreshPower 3;
        exec (.vrHotNAssert rs) s = .next (settle s (u.readRegs rs 4)))) ∧
    (s.rst.phase ≠ .powerReset → s.pins.vrHotN = false →
      let t : State := { s with pins := { s.pins with vrHotN := true }, power := { s.power with vrHot := false } };
      (s.runs P.pwp = true → exec .vrHotNDeassert s = .next (settle s (t.judgeRegs.refreshPower 3))) ∧
      (s.runs P.pwp = false → exec .vrHotNDeassert s = .next (settle s (t.refreshPower 3)))) ∧
    (∀ (r : RegRead) addr, s.trust.regAddrs[r.idx.val]? = some addr →
      let x := tget Reg.init s.power.regs r.idx;
      let t := fun y : Reg => ({ s with power := { s.power with regs := tput s.power.regs r.idx y } } : State);
      (r.ok = true → s.readReg r = t { fails := 0, highV := r.overCurrent, under := r.underVolt, hot := r.overTemp }) ∧
      (r.ok = false → x.fails ≠ 2 → s.readReg r = t { x with fails := min 3 (x.fails + 1) }) ∧
      (r.ok = false → x.fails = 2 → s.readReg r = (t { x with fails := 3 }).postEvent 0x0603 0xFFFF (le 1 r.idx ++ le 1 addr))) ∧
    (let alarm := s.power.regs.any (fun r => r.2.highV || r.2.under);
      let clear := s.power.regs.any (fun r => r.2.highV || r.2.under || r.2.hot) = false ∧ s.pins.vrHotN = true;
      let v := s.judgeRegs;
      (alarm = true → s.power.powerEm = false → v.power.powerEm = true ∧ v.power.emCeil = 400 ∧
        v.num Obj.powerEmergencies = (s.count Obj.powerEmergencies).num Obj.powerEmergencies) ∧
      (alarm = false ∨ s.power.powerEm = true → v.power.powerEm = s.power.powerEm ∧ v.power.emCeil = s.power.emCeil) ∧
      (clear → v.power.powerClear = some (s.power.powerClear.getD s.clk.now)) ∧ (¬ clear → v.power.powerClear = none)) ∧
    (∀ t0, s.power.powerEm = true → s.power.powerClear = some t0 → s.runs P.pwp = true →
      let t := s.advanceTo (t0 + 1000 * ms);
      exec .powerEmergencyEnd s = .next (settle s (State.refreshPower { t with power := { t.power with powerEm := false, emCeil := 400, emRise := t.clk.now } } 4)))
end

