-- ==== Sys2Proof/WellFormed.lean ====
section
/-! DEFINITION. Well-formed commands: the operands that are not already bounded by their types lie in the widths and
lengths that the rules of their rows give. -/

namespace Sys2Proof

/-- An address of at most 128 bits, a port and a VLAN identifier. -/
def Src.wf (x : Src) : Bool := decide (x.addr < 2 ^ 128) && decide (x.port < 65536) && decide (x.vlan < 4095)
def Req.wf (r : Req) : Bool := r.src.wf
/-- A scalar of at most 64 bits (R366). -/
def CmdW.wf (w : CmdW) : Bool := w.req.wf && decide (w.value < 2 ^ 64)
/-- A value of at most 1,024 bytes in one segment (R337). -/
def BlobW.wf (w : BlobW) : Bool := w.req.wf && decide (w.bytes.length ≤ 1024)
def DictW.wf (w : DictW) : Bool := w.req.wf && decide (w.offset < 2 ^ 32) && decide (w.bytes.length ≤ 1024)
/-- QUEUE is a byte, the zero bytes are two (R346). -/
def Doorbell.wf (d : Doorbell) : Bool := decide (d.queue < 256) && decide (d.pad < 65536)

/-- Vectors of a tile and columns of the grid (R22, R26). -/
def Upset.wf (u : Upset) : Bool := decide (u.col < 128)
/-- Frozen cycles, in rising order, are those in which some condition held (R36, R39). -/
def frozenWf : List FrozenCycle → Bool
  | [] => true
  | c :: r => (c.feedA || c.feedB || c.drain) && r.all (fun d => decide (c.cyc < d.cyc)) && frozenWf r
/-- Rows of the tile store (R88). -/
def TsEcc.wf (e : TsEcc) : Bool := decide (e.row < 16384)
/-- A write of 128 bytes with a mask bit for each (R90). -/
def TsAccess.wf (a : TsAccess) : Bool := a.data.length == a.mask.length && decide (a.data.length ≤ 128) && a.ecc.length == 4
/-- A 64-byte request below 16 GiB (R206, R221). -/
def MemReq.wf (r : MemReq) : Bool :=
  decide (r.addr < 2 ^ 34) && (!r.write || (r.data.length == 64 && r.mask.length == 64))
/-- A frame of the port's length limit, with the addresses it carries (R311, R330). -/
def EthFrame.wf (f : EthFrame) : Bool :=
  f.src.wf && decide (f.bytes < 65536) &&
    (match f.payload with
     | .udp d p b => decide (d < 2 ^ 128) && decide (p < 65536) && decide (b.length ≤ f.bytes)
     | .arp t => decide (t < 2 ^ 32)
     | .neighbour t => decide (t < 2 ^ 128)
     | .echo t => decide (t < 2 ^ 128)
     | .groupQuery => true
     | .gptp => true
     | .other => true)
/-- Six slices are metered (R431). -/
def MeterRead.wf (m : MeterRead) : Bool := m.sliceMj.length == 6
/-- At most 16 regulators (R426). -/
def regsWf (l : List RegRead) : Bool := decide (l.length ≤ 16)
/-- Codes of islands are bytes (R521). -/
def islandWf (n : Nat) : Bool := decide (n < 256)
/-- Fields of a peer frame's header (R230). -/
def PeerFrame.wf (f : PeerFrame) : Bool :=
  decide (f.seq < 2 ^ 32) && decide (f.ack < 2 ^ 32) && decide (f.total ≤ 2 ^ 30) && decide (f.data.length ≤ 8192)

/-- A split of 1 to 6 parts, whose boundaries are distinct K-chunk boundaries in rising order (R273). -/
def KSplit.wf (k : KSplit) : Bool :=
  decide (1 ≤ k.parts.length) && decide (k.parts.length ≤ 6) && k.bounds.length == k.parts.length &&
    decide (k.bounds.Pairwise (· < ·))
def Package.splitsWf (p : Package) : Bool := p.graphs.all (fun g => g.splits.all (fun x => x.2.wf))

/-- A command is well formed. -/
def Instr.wf : Instr → Bool
  | .warmCmd w => w.wf
  | .crossingRequest a b _ _ => islandWf a && islandWf b
  | .arrClear _ w => w.wf
  | .brkResume _ w => w.wf
  | .brkSingleStep _ w => w.wf
  | .tsClear _ w => w.wf
  | .slvClear _ w => w.wf
  | .chClear _ w => w.wf
  | .peerEnable _ w => w.wf
  | .tileStart _ _ c f => frozenWf c && f.upsets.all Upset.wf && f.ecc.all TsEcc.wf
  | .weightLoadStart _ l => frozenWf l.frozen && l.ecc.all TsEcc.wf
  | .transform _ _ _ f => f.ecc.all TsEcc.wf
  | .issue _ _ _ f => f.ecc.all TsEcc.wf
  | .inverse _ _ _ f => f.ecc.all TsEcc.wf
  | .drainRow _ d => d.ecc.all TsEcc.wf
  | .dmaRequestSend _ r => r.ecc.all TsEcc.wf
  | .windowLoad _ r => r.ecc.all TsEcc.wf
  | .tileStoreAccess _ a => a.wf
  | .dmaRequestDone _ t _ => decide (t < 65536)
  | .sorterEnqueue r => r.wf
  | .scrubRead _ k _ _ => decide (k < 61440)
  | .slotZeroDone _ k => decide (k < 61440)
  | .journalReplay l => l.all (fun k => decide (k < 12 * 61440 * 256))
  | .mirrorReplace p => decide (p < 2 ^ 20)
  | .migrationCopyDone p _ => decide (p < 2 ^ 20)
  | .migrationUpdate p => decide (p < 2 ^ 20)
  | .peerDataRx _ f => f.wf
  | .peerAckRx _ f => f.wf
  | .peerGetRx _ f => f.wf
  | .peerAbortRx _ f => f.wf
  | .sqTail r d => r.wf && d.wf
  | .cqHead r d => r.wf && d.wf
  | .evtHead r d => r.wf && d.wf
  | .logHead r d => r.wf && d.wf
  | .traceHead r d => r.wf && d.wf
  | .qAbortHead w => w.wf
  | .flagSetCmd w => w.wf
  | .flagClrCmd w _ => w.wf
  | .epochOpen w => w.wf
  | .epochCommit w => w.wf
  | .epochDiscard w => w.wf
  | .merWrite w => w.wf
  | .idleWrite w => w.wf
  | .qEnable _ w => w.wf
  | .qDepth _ w => w.wf
  | .csiFrameStart _ vc _ => decide (vc < 32)
  | .csiLinePacket _ vc _ _ _ => decide (vc < 32)
  | .csiFrameEnd _ vc => decide (vc < 32)
  | .rawEnable _ w => w.wf
  | .expoReq _ w => w.wf
  | .sensorRetry _ w => w.wf
  | .dpFrameRx _ f => f.wf
  | .dpMode _ w => w.wf
  | .srcEnable _ w => w.wf
  | .encClip w => w.wf
  | .encSnapshot w => w.wf
  | .hlFrameRx f => f.wf
  | .spFrameRx f => f.wf
  | .claim r h p => r.wf && h.length == 16 && decide (p < 2 ^ 32)
  | .release r => r.wf
  | .renew r => r.wf
  | .dictRead r _ _ o m => r.wf && decide (o < 2 ^ 32) && decide (m < 65536)
  | .dictWrite w => w.wf
  | .memRead r a n => r.wf && decide (a < 2 ^ 64) && decide (n < 2 ^ 32)
  | .memWrite r a b => r.wf && decide (a < 2 ^ 64) && decide (b.length ≤ 1436)
  | .resultRead r _ o n => r.wf && decide (o < 2 ^ 32) && decide (n < 2 ^ 32)
  | .resultRelease r hs => r.wf && decide (hs.length < 65536)
  | .sync r => r.wf
  | .macsecSak w => w.wf
  | .orphanResume w => w.wf
  | .gptpSyncRx t => decide (t < 2 ^ 64)
  | .ident r => r.wf
  | .syncPart r => r.wf
  | .mbWarmReset r => r.wf
  | .imageBegin r => r.wf
  | .imageData r => r.wf
  | .imageEnd r => r.wf
  | .persErase w _ => w.wf
  | .safeForceEnter w => w.wf
  | .safeForceEnd w => w.wf
  | .fwRestart _ w => w.wf
  | .logEntry _ l _ args => decide (l ≤ 4) && decide (args.length ≤ 5)
  | .traceHit _ n _ => decide (n < 1024)
  | .updStage w => w.wf
  | .updCancel w => w.wf
  | .updActivateProcessor w => w.wf
  | .updActivateBundle w => w.wf
  | .updCommit w v => w.wf && decide (v < 2 ^ 64)
  | .keyRevoke w _ => w.wf
  | .attNonce w => w.wf
  | .sliceResetCmd w => w.wf
  | .powerCapEval m => m.wf
  | .governorStep d _ => d.length == 6
  | .load _ k => k.splitsWf
  | .vrHotNAssert rs => regsWf rs
  | .pmbAlertN rs => regsWf rs
  | .pmbusPoll rs => regsWf rs
  | .pwronNDeassert .. | .railMonitorLow .. | .coreRailLow .. | .refclkLoss | .warmNAssert
  | .islandHandshakeTimeout .. | .lateAcknowledge .. | .programFetch .. | .lcSet .. | .lcAdd .. | .abSet ..
  | .abAdd .. | .cmp .. | .br .. | .brn .. | .loop .. | .sclFlagWait .. | .sclFlagSet .. | .sclFlagClr ..
  | .layer .. | .halt .. | .dinIssue .. | .doutIssue .. | .faVec .. | .faWin .. | .faXfm .. | .fbDense ..
  | .fbGroup4 ..  | .arrTile .. | .arrCont .. | .arrClearSlot .. 
  | .drnWrite .. | .drnAdd .. | .drnAddOut .. | .drnWriteOut .. 
  | .rowVerdict .. | .breakpointMatch .. | .breakpointStop .. | .descriptorStart .. 
  | .descriptorComplete .. | .tagExpiry .. | .sliverTaskStart .. | .sliverInstruction .. | .csrAccess ..
  | .fence .. | .fenceI .. | .wfi .. | .slDmaq .. | .slDmaw .. | .slFwait .. | .slFset .. | .slFclr ..
  | .slYield .. | .slExit .. | .slTimel .. | .slTimeh .. | .slDig .. | .slTsw .. | .slVtsw .. 
  | .cacheMiss .. | .cacheLineFill .. | .missRegisterExpiry .. | .cycleBudgetExhausted .. | .dualCompare ..
  | .clusterModeChange .. | .requestAdmit .. | .sorterIssue .. | .requestAgeOver .. | .burstComplete ..
  | .retrainDone .. | .heatDecay | .migrationCheck .. | .peerSegmentWritten .. | .peerAckTimer ..
  | .peerResendTimer .. | .peerXferIdExpiry .. | .submissionRead .. | .itemAccept .. | .streamJobAccept ..
  | .run .. | .loadComplete .. | .unload .. | .attach .. | .detach .. | .flagSet .. | .flagClr ..
  | .flagWait .. | .put .. | .get .. | .alloc .. | .free .. | .adopt .. | .marker .. | .jobDispatch ..
  | .beSegmentBoundary .. | .jobEnd .. | .completionPost .. | .waitTimeoutExpiry ..
  | .waitGraphBuild | .deferredExecute .. | .epochStreamSilent .. | .idlePoint | .decodeBatchClose ..
  | .statWindowEval | .frameTimeout .. | .ispFrameDone .. | .spillStart .. | .generationWriteStart ..
  | .i2cTransaction .. | .fsyncPulse .. | .rtpPacketRx .. | .rtpRelease .. | .decodeStart .. | .decodeDone ..
  | .conversionDone .. | .ssrcTimeout .. | .streamStallTimeout .. | .clipDone .. | .snapDone ..
  | .dictStageTimeout | .hlpHoldTimeout .. | .eventFrameSend | .evtHeartbeat | .leaseExpiry | .gptpHoldover
  | .deadlineExpiry .. | .staleExpiry .. | .safetyHeartbeat | .cause0Release | .lockstepMismatch
  | .watchdogExpiry .. | .goldenTestDue .. | .goldenTestOverdue .. | .goldenTestEnd .. | .coverageLapse ..
  | .fwMemoryError .. | .processorReady .. | .restartTimeout .. | .stagingBufferDrain | .stagingDone ..
  | .activationSettle | .activationAbandon | .sliceResetTimeout .. | .pwronNAssert | .warmNDeassert
  | .railMonitorReturn .. | .droopRecovery .. | .portLinkChange .. | .peerDelayMeasurement | .thermalLoopStep
  | .sensorRead .. | .thermalClamp | .thermalEmergencyEnd | .thermalTrip | .droopOnset .. | .domainWake ..
  | .domainOff .. | .voltageSettled .. | .vrHotNDeassert | .powerEmergencyEnd => true

end Sys2Proof
end

