-- ==== Sys2Proof/Tests/Slice0.lean ====
section
/-! SUPPORT. Tests: ill-formed commands are refused; states that meet the hypotheses of each statement
(witness_<Statement>_<clause>); the spec's worked examples. -/

namespace Sys2Proof.Machine

section
set_option Elab.async false

/-! ## A small running device -/

def Tst.src : Src := { addr := 1, port := 7000, vlan := 0 }
/-- A request of the session that `Tst.on` holds, in its turn. -/
def Tst.req : Req := { src := Tst.src, session := 5, seq := 9 }
def Tst.cmd (v : Nat) : CmdW := { req := Tst.req, defer := false, value := v }
def Tst.blob (b : Bytes) : BlobW := { req := Tst.req, defer := false, bytes := b }

/-- A running device whose host holds the lease. -/
def Tst.on : State :=
  (List.range 6).foldl (fun s p => s.setNum Obj.fwState p 0) { State.reset with
    rst := { ResetState.reset with phase := .running, memHeld := false, loadDue := false }
    link := { Link.reset with up := true, lease := .held, session := 5, bound := Tst.src, expected := some 9 }
    work := { Work.reset with replayDone := true } }

theorem Tst.turn : Turn Tst.on Tst.req := ⟨by decide, by decide, by decide, by decide⟩

/-- Numbers written into objects. -/
def Tst.set (s : State) (l : List (ObjRow × Nat × Nat)) : State := l.foldl (fun s x => s.setNum x.1 x.2.1 x.2.2) s

/-! ## Ill-formed commands are refused -/

def Tst.badSrc : Src := { Tst.src with addr := 2 ^ 128 }
def Tst.badReq : Req := { Tst.req with src := Tst.badSrc }
def Tst.badCmd : CmdW := Tst.cmd (2 ^ 64)
def Tst.badBlob : BlobW := Tst.blob (zeros 1025)
def Tst.dict : DictW := { req := Tst.req, index := 0x1001, sub := 1, defer := false, last := true, offset := 0, bytes := [], flashOk := true }
def Tst.badDict : DictW := { Tst.dict with offset := 2 ^ 32 }
def Tst.bell : Doorbell := { queue := 0, pad := 0, value := 0 }
def Tst.badBell : Doorbell := { Tst.bell with queue := 256 }
def Tst.frame : EthFrame := { bytes := 64, fcsOk := true, ipOk := true, udpOk := true, fragment := false, toUs := true, onLink := true, src := Tst.src, prot := .unprotected, payload := .other }
def Tst.badFrame : EthFrame := { Tst.frame with bytes := 65536 }
def Tst.seg : PeerFrame := { last := false, getReply := false, xfer := 1, seq := 0, ack := 0, addr := 0, total := 8192, status := 0, data := [] }
def Tst.badSeg : PeerFrame := { Tst.seg with seq := 2 ^ 32 }
def Tst.mreq : MemReq := { source := .media, addr := 0, write := false, data := [], mask := [] }
def Tst.access : TsAccess := { port := .dma, write := true, row := 0, data := zeros 128, mask := List.replicate 128 true, cyc := 0, ecc := [.clean, .clean, .clean, .clean] }

theorem test_src_wf : Tst.src.wf = true ∧ Tst.badSrc.wf = false ∧ Src.wf { Tst.src with port := 65536 } = false ∧
    Src.wf { Tst.src with vlan := 4095 } = false := by decide
set_option maxRecDepth 20000 in
theorem test_write_wf : (Tst.cmd (2 ^ 64 - 1)).wf = true ∧ Tst.badCmd.wf = false ∧ (Tst.blob (zeros 1024)).wf = true ∧
    Tst.badBlob.wf = false ∧ Tst.dict.wf = true ∧ Tst.badDict.wf = false ∧
    DictW.wf { Tst.dict with bytes := zeros 1025 } = false := by decide
set_option maxRecDepth 20000 in
theorem test_bell_wf : Tst.bell.wf = true ∧ Tst.badBell.wf = false ∧ Doorbell.wf { Tst.bell with pad := 65536 } = false := by decide
theorem test_array_wf : Upset.wf ⟨0, 127, 1⟩ = true ∧ Upset.wf ⟨0, 128, 1⟩ = false ∧ frozenWf [⟨1, true, false, false⟩, ⟨4, false, true, true⟩] = true ∧
    frozenWf [⟨1, false, false, false⟩] = false ∧ frozenWf [⟨4, true, false, false⟩, ⟨4, true, false, false⟩] = false ∧
    TsEcc.wf ⟨16383, 0, true⟩ = true ∧ TsEcc.wf ⟨16384, 0, true⟩ = false := by decide
theorem test_split_wf : KSplit.wf ⟨0, [4, 8], [1, 2], [([0, 1], 3)]⟩ = true ∧ KSplit.wf ⟨0, [8, 4], [1, 2], []⟩ = false ∧
    KSplit.wf ⟨0, [4], [1, 2], []⟩ = false ∧ KSplit.wf ⟨0, [], [], []⟩ = false := by decide
set_option maxRecDepth 20000 in
theorem test_access_wf : Tst.access.wf = true ∧ TsAccess.wf { Tst.access with mask := [] } = false ∧
    TsAccess.wf { Tst.access with ecc := [] } = false := by decide
theorem test_memreq_wf : Tst.mreq.wf = true ∧ MemReq.wf { Tst.mreq with addr := 2 ^ 34 } = false ∧
    MemReq.wf { Tst.mreq with write := true } = false := by decide
theorem test_frame_wf : Tst.frame.wf = true ∧ Tst.badFrame.wf = false ∧ EthFrame.wf { Tst.frame with payload := .arp (2 ^ 32) } = false ∧
    EthFrame.wf { Tst.frame with payload := .udp 0 65536 [] } = false ∧
    EthFrame.wf { Tst.frame with payload := .neighbour (2 ^ 128) } = false := by decide
theorem test_seg_wf : Tst.seg.wf = true ∧ Tst.badSeg.wf = false ∧ PeerFrame.wf { Tst.seg with ack := 2 ^ 32 } = false ∧
    PeerFrame.wf { Tst.seg with total := 2 ^ 30 + 1 } = false := by decide
theorem test_meter_wf : MeterRead.wf ⟨0, 0, 0, 0, List.replicate 6 0⟩ = true ∧ MeterRead.wf ⟨0, 0, 0, 0, []⟩ = false := by decide
theorem test_regs_wf : regsWf [] = true ∧ regsWf (List.replicate 17 ⟨0, true, false, false, false⟩) = false := by decide

/-- A command with a bad request, value, entry or frame. -/
def Tst.ill : List Instr :=
  [.warmCmd Tst.badCmd, .arrClear 0 Tst.badCmd, .brkResume 0 Tst.badCmd, .brkSingleStep 0 Tst.badCmd, .tsClear 0 Tst.badCmd,
   .slvClear 0 Tst.badCmd, .chClear 0 Tst.badCmd, .peerEnable 0 Tst.badCmd, .qAbortHead Tst.badCmd, .flagSetCmd Tst.badCmd,
   .flagClrCmd Tst.badCmd false, .epochOpen Tst.badCmd, .epochCommit Tst.badCmd, .epochDiscard Tst.badCmd,
   .qEnable 0 Tst.badCmd, .qDepth 0 Tst.badCmd, .rawEnable 0 Tst.badCmd, .expoReq 0 Tst.badCmd, .sensorRetry 0 Tst.badCmd,
   .dpMode 0 Tst.badCmd, .srcEnable 0 Tst.badCmd, .orphanResume Tst.badCmd, .persErase Tst.badCmd true,
   .safeForceEnter Tst.badCmd, .safeForceEnd Tst.badCmd, .fwRestart 0 Tst.badCmd, .updCancel Tst.badCmd,
   .updActivateProcessor Tst.badCmd, .updActivateBundle Tst.badCmd, .updCommit Tst.badCmd 0, .updCommit (Tst.cmd 0) (2 ^ 64),
   .sliceResetCmd Tst.badCmd]

def Tst.ill2 : List Instr :=
  [.encClip Tst.badBlob, .encSnapshot Tst.badBlob, .macsecSak Tst.badBlob, .updStage Tst.badBlob, .keyRevoke Tst.badBlob true,
   .attNonce Tst.badBlob, .merWrite Tst.badDict, .idleWrite Tst.badDict, .dictWrite Tst.badDict,
   .sqTail Tst.badReq Tst.bell, .sqTail Tst.req Tst.badBell, .cqHead Tst.req Tst.badBell, .evtHead Tst.req Tst.badBell,
   .logHead Tst.req Tst.badBell, .traceHead Tst.req Tst.badBell,
   .release Tst.badReq, .renew Tst.badReq, .sync Tst.badReq, .ident Tst.badReq, .syncPart Tst.badReq, .mbWarmReset Tst.badReq,
   .imageBegin Tst.badReq, .imageData Tst.badReq, .imageEnd Tst.badReq,
   .claim Tst.req [] 0, .claim Tst.req (zeros 16) (2 ^ 32), .dictRead Tst.req 0 0 (2 ^ 32) 0, .dictRead Tst.req 0 0 0 65536,
   .memRead Tst.req (2 ^ 64) 1, .memRead Tst.req 0 (2 ^ 32), .memWrite Tst.req (2 ^ 64) [], .memWrite Tst.req 0 (zeros 1437),
   .resultRead Tst.req 0 (2 ^ 32) 0, .resultRead Tst.req 0 0 (2 ^ 32), .resultRelease Tst.badReq []]

def Tst.ill3 : List Instr :=
  [.crossingRequest 256 0 none true, .crossingRequest 0 256 none true, .tileStart 0 0 [⟨0, false, false, false⟩] ⟨[], []⟩,
   .tileStart 0 0 [] ⟨[⟨0, 128, 1⟩], []⟩, .tileStart 0 0 [] ⟨[], [⟨16384, 0, true⟩]⟩, .weightLoadStart 0 ⟨0, [⟨0, false, false, false⟩], []⟩,
   .weightLoadStart 0 ⟨0, [], [⟨16384, 0, true⟩]⟩, .drainRow 0 ⟨0, [], [⟨16384, 0, true⟩]⟩, .dmaRequestSend 0 ⟨true, [⟨16384, 0, true⟩]⟩,
   .transform 0 none 0 ⟨false, [⟨16384, 0, true⟩]⟩, .issue 0 none 0 ⟨false, [⟨16384, 0, true⟩]⟩,
   .inverse 0 none 0 ⟨false, [⟨16384, 0, true⟩]⟩, .windowLoad ⟨0, 0, 0, 0⟩ ⟨⟨0, 1⟩, [⟨16384, 0, true⟩]⟩, .tileStoreAccess 0 { Tst.access with mask := [] }, .dmaRequestDone 0 65536 0,
   .sorterEnqueue { Tst.mreq with addr := 2 ^ 34 }, .scrubRead 0 61440 0 0, .slotZeroDone 0 61440, .mirrorReplace (2 ^ 20), .journalReplay [188743680],
   .migrationCopyDone (2 ^ 20) [], .migrationUpdate (2 ^ 20), .peerDataRx 0 Tst.badSeg, .peerAckRx 0 Tst.badSeg,
   .peerGetRx 0 Tst.badSeg, .peerAbortRx 0 Tst.badSeg, .csiFrameStart 0 32 0, .csiLinePacket 0 32 0 [] .clean, .csiFrameEnd 0 32,
   .dpFrameRx 0 Tst.badFrame, .hlFrameRx Tst.badFrame, .spFrameRx Tst.badFrame, .gptpSyncRx (2 ^ 64), .logEntry 0 5 0 [],
   .logEntry 0 0 0 (List.replicate 6 0), .traceHit 0 1024 0]

set_option maxRecDepth 20000 in
theorem test_ill_writes : Tst.ill.all (fun i => !i.wf) = true := by decide
set_option maxRecDepth 20000 in
theorem test_ill_requests : Tst.ill2.all (fun i => !i.wf) = true := by decide
set_option maxRecDepth 20000 in
theorem test_ill_events : Tst.ill3.all (fun i => !i.wf) = true := by decide
theorem test_ill_cap : Instr.wf (.powerCapEval ⟨0, 0, 0, 0, []⟩) = false := by decide
theorem test_ill_governor : Instr.wf (.governorStep [] 0) = false := by decide
theorem test_ill_hot : Instr.wf (.vrHotNAssert (List.replicate 17 ⟨0, true, false, false, false⟩)) = false := by decide
theorem test_ill_alert : Instr.wf (.pmbAlertN (List.replicate 17 ⟨0, true, false, false, false⟩)) = false := by decide
theorem test_ill_poll : Instr.wf (.pmbusPoll (List.replicate 17 ⟨0, true, false, false, false⟩)) = false := by decide

/-! ## States that meet the hypotheses: power, resets, islands -/

theorem witness_IdleStep : State.reset.pending = [] ∧ State.reset.nextHeld = none := by decide

/-- A device whose event ring stands at page 3. -/
def Tst.ring : State :=
  { Tst.on with
    link := { Tst.on.link with evBase := some (3, 1) }
    mem := { Tst.on.mem with table := [(3, { Entry.zero with backed := true })] } }

theorem witness_EventEntryWritten :
    Memory.wf Tst.ring.mem.bytes = true ∧ Tst.ring.link.evWait = [] ∧ Tst.ring.link.evDropped = 0 ∧
    Tst.ring.link.evBase = some (3, 1) ∧ Tst.ring.rst.memHeld = false ∧
    Tst.ring.num Obj.evtTail + 1 < Tst.ring.num Obj.evtHead + Tst.ring.link.evDepth ∧ (zeros 40).length ≤ 40 ∧
    (Tst.ring.entry ((3 * pageBytes + 64 * (Tst.ring.num Obj.evtTail % Tst.ring.link.evDepth)) / pageBytes)).backed = true := by
  decide

theorem witness_StepKeeps : (match step State.reset with | .next t => t.clk.now | _ => 0) = 40 := by decide

def Tst.env : BootEnv := { bootsel := 1, failSlices := [], failChannels := [], copyBadA := false, copyBadB := false, octal := true, torn := false }

theorem witness_PowerCycle_lost : State.reset.pins.pwronN = false ∧ ({ State.reset.pins with pwronN := true } : Pins).pwronN = true := by decide
theorem witness_PowerCycle_start : State.reset.pins.pwronN = false ∧ ({ State.reset.pins with railsOk := [true, true, true] } : Pins).railsOk.all id = true ∧
    ({ State.reset.pins with railsOk := [true, true, false] } : Pins).railsOk.all id = false ∧ Tst.env.bootsel = 1 := by decide
theorem witness_PowerCycle_waits :
    let rails : List Bool := [true, true, false]
    let a : State := { State.reset with pins := { State.reset.pins with pwronN := false, railsOk := rails } }
    let b : State := { State.reset with pins := { State.reset.pins with pwronN := true, railsOk := rails } }
    a.pins.pwronN = false ∧ a.pins.railsOk.all id = false ∧ b.pins.pwronN = true ∧ b.pins.railsOk.all id = false := by decide

theorem witness_WarmResets : Tst.on.power.tripped = false ∧ Tst.on.rst.phase ≠ .powerReset ∧ Tst.on.pins.warmN = true ∧
    Tst.on.fw.due = none ∧ (Tst.cmd 1).value = 1 := by decide
theorem witness_WarmResets_held :
    let s : State := { Tst.on with pins := { Tst.on.pins with warmN := false }, rst := { Tst.on.rst with phase := .warmHeld } }
    s.power.tripped = false ∧ s.rst.phase ≠ .powerReset ∧ s.pins.warmN = false ∧ s.rst.phase = .warmHeld := by decide
theorem witness_WarmResets_cmd : Turn Tst.on (Tst.cmd 1).req ∧ Writes Tst.on Obj.warmCmd 0 warmCmdRule (.num 1) :=
  ⟨Tst.turn, ⟨by decide, by decide, by decide, by decide, by decide⟩⟩

theorem witness_OffIslands_slice : Tst.on.rst.phase ≠ .powerReset ∧ 5 < 6 ∧ (Tst.on.slice 5).off = true := by decide
theorem witness_OffIslands_reset :
    (({ Tst.on with slices := [(0, { Slice.init with off := false, resetting := some 0 })] } : State).slice 0).resetting.isSome = true := by decide
theorem witness_OffIslands_device :
    let held : State := { Tst.on with rst := { Tst.on.rst with memHeld := true } }
    held.rst.phase ≠ .powerReset ∧ held.rst.memHeld = true ∧ 0x10 ≤ 0x15 ∧ 0x15 < 0x16 ∧ (6 ≤ 6 ∧ 6 < 16) ∧
    (Tst.set Tst.on [(Obj.chState, 0, 2), (Obj.chState, 1, 2)]).domainOn (202 + (0x10 - 0x10)) = false := by decide
theorem witness_OffIslands_retired : (Tst.set Tst.on [(Obj.sliceState, 0, 2)]).num Obj.sliceState 0 ≠ 0 := by decide

/-- Slice 0 in service, with nothing on it. -/
def Tst.slc (x : Slice) : State := Tst.set { Tst.on with slices := [(0, { x with off := false })] } [(Obj.sliceState, 0, 0)]

theorem witness_Crossings : (Tst.slc Slice.init).rst.phase ≠ .powerReset ∧ (Tst.slc Slice.init).islandOff 0 = false ∧
    Tst.on.islandOff 0x23 = false ∧ 0x10 ≠ 0 ∧ 0x10 ≠ 0x23 := by decide
def Tst.cross (ab : Bool) : Crossing := { id := 4, req := 0x10, tgt := 0, chan := none, start := 0, abandoned := ab }
theorem witness_Crossings_abandoned :
    let s : State := { Tst.on with isl := { Tst.on.isl with crossings := [Tst.cross false] } }
    s.isl.crossings.find? (fun d => d.id == 4 && !d.abandoned) = some (Tst.cross false) ∧ s.clk.now ≤ (Tst.cross false).start + 2 * us := by decide
theorem witness_LateAcknowledges :
    ({ Tst.on.isl with crossings := [Tst.cross true] } : Islands).crossings.find? (fun d => d.id == 4) = some (Tst.cross true) ∧
    (Tst.cross true).abandoned = true := by decide

theorem witness_SliceSupplies : (Tst.slc Slice.init).rst.phase ≠ .powerReset ∧ (Tst.slc Slice.init).num Obj.sliceState 0 = 0 ∧
    ((Tst.slc Slice.init).slice 0).off = false ∧ Tst.on.pins.refclkOk = true := by decide
theorem witness_SliceSupplies_reset : Turn (Tst.slc Slice.init) (Tst.cmd 0).req ∧ Writes (Tst.slc Slice.init) Obj.sliceResetCmd 0 sliceResetRule (.num 0) :=
  ⟨⟨by decide, by decide, by decide, by decide⟩, ⟨by decide, by decide, by decide, by decide, by decide⟩⟩
theorem witness_SliceSupplies_timeout : ((Tst.slc { Slice.init with resetting := some 7 }).slice 0).resetting = some 7 := by decide

/-! ## The sequencer -/

def Tst.alloc : Alloc :=
  { ctx := 0, base := 0, len := 8192, descs := 1, progRow := 0, progLen := 600, winRow := 8, xfmRow := 9, chainRow := 10, actRow := 11
    originRow := 12, dataRow := 13, bankVecs := 4 }
/-- Slice 0 runs a program whose first bundle has one slot, of bit k with word w. -/
def Tst.prog (k : Nat) (w : DWord) (f : Seq → Seq) : Slice :=
  { Slice.init with
    alloc := some Tst.alloc
    store := { Store.init with bytes := cputs [] 0 (le 4 (2 ^ k + 5) ++ le 8 w.toNat) }
    seq := f { Seq.init with mode := .issuing, pc := 12, fetched := 12, bundle := some { off := 0, hdr := 2 ^ k + 5, done := 0 } } }
def Tst.opened (k : Nat) (w : DWord) : State := Tst.slc (Tst.prog k w id)
/-- The slot can take effect. -/
def Tst.slotOk (k : Nat) (w : DWord) : Bool :=
  decide (24 ≤ k ∧ k < 32) && (2 ^ k + 5).testBit k && !(0 : Nat).testBit k && decide (((Tst.opened k w).slice 0).wordAt 0 k = w.toNat)
theorem Tst.slot {k : Nat} {w : DWord} (h : Tst.slotOk k w = true) : Slot (Tst.opened k w) ((0 : SliceId) : Nat) none k w (Tst.opened k w) := by
  simp only [Tst.slotOk, Bool.and_eq_true, decide_eq_true_eq, Bool.not_eq_true'] at h
  exact ⟨h.1.1.1, rfl, _, rfl, h.1.1.2, h.1.2, h.2⟩
/-- An SCL word. -/
def Tst.scl (op low : Nat) : DWord := BitVec.ofNat 64 (op * 2 ^ 58 + low)

theorem witness_SclOperations : ∀ op ∈ [1, 2, 3, 4, 5, 6, 7, 8, 0x10, 0x11, 0x12, 0x18, 0x3F],
    sclOp (Tst.scl op 3).toNat = op ∧ Slot (Tst.opened 24 (Tst.scl op 3)) ((0 : SliceId) : Nat) none 24 (Tst.scl op 3) (Tst.opened 24 (Tst.scl op 3)) := by
  have h : ∀ op ∈ [1, 2, 3, 4, 5, 6, 7, 8, 0x10, 0x11, 0x12, 0x18, 0x3F], sclOp (Tst.scl op 3).toNat = op ∧ Tst.slotOk 24 (Tst.scl op 3) = true := by decide
  exact fun op m => ⟨(h op m).1, Tst.slot (h op m).2⟩
theorem witness_SclOperations_layer : (((Tst.opened 24 (Tst.scl 0x18 0)).slice 0).seq.before.layer = (Tst.scl 0x18 0).setWidth 16) ∧
    (((Tst.opened 24 (Tst.scl 0x18 3)).slice 0).seq.before.layer ≠ (Tst.scl 0x18 3).setWidth 16) := by decide
def Tst.run0 : Run :=
  { queue := 0, seq := 1, rows := [], weights := [], twilight := false, repro := false, ctx := 0, job := 1, stream := none, klass := 0, start := 0, estEnd := 0, index := 0, segment := 0, segments := 1
    programs := [1], recompute := none, fail := none, fault := none }
theorem witness_SclOperations_halt : Tst.run0.klass ≠ 2 ∧ Tst.run0.programs ≠ [] ∧
    (((((Tst.slc { Tst.prog 24 (Tst.scl 0x3F 0) id with run := some Tst.run0 }).slotDone 0 24).flush 0).modSeq 0 (fun q => { q with halted := true, mode := .idle })).slice 0).run
      = some Tst.run0 ∧
    (((((Tst.opened 24 (Tst.scl 0x3F 0)).slotDone 0 24).flush 0).modSeq 0 (fun q => { q with halted := true, mode := .idle })).slice 0).run = none := by decide
/-- The slot opens its own bundle. -/
def Tst.unopened (k : Nat) (w : DWord) (f : Seq → Seq) : State := Tst.slc (Tst.prog k w (fun q => f { q with pc := 0, bundle := none }))
theorem witness_Slot_issues : Issues (Tst.unopened 24 (Tst.scl 1 3) id) 0 { hdr := 0x01000005, cyc := 0 } :=
  ⟨by decide, by decide, by decide, by decide, by decide, by decide, by decide, by decide⟩
theorem witness_SclOperations_fetch :
    let x := Tst.prog 24 (Tst.scl 1 3) (fun q => { q with fetched := 12, pc := 12 })
    x.alloc = some Tst.alloc ∧ x.seq.mode ≠ .idle ∧ x.seq.mode ≠ .faulted ∧
    max x.seq.fetched x.seq.pc < x.fetchLimit 64 x.seq.pc (min Tst.alloc.progLen (x.seq.pc + 256)) ∧ x.store.pend = [] ∧
    (Tst.alloc.base + Tst.alloc.progRow + 12 / 128) % 8 = 0 ∧ slotFrom .dma 0 6 = 6 ∧ tfind x.store.slots (slotKey .dma 0) = none := by
  refine ⟨rfl, by decide, by decide, ?_, rfl, by decide, by decide, rfl⟩
  set_option maxRecDepth 20000 in decide

/-- The hypotheses of SequencerHolds on a bundle, and the cause that holds it. -/
def Tst.holds (v : State) (k : Nat) (i : Issue) (h : Nat) : Bool :=
  let s := v.reached 0 i.cyc
  let x := s.slice 0
  (x.seq.mode == .issuing || x.seq.mode == .held) && !x.seq.halted && x.alloc.isSome && x.seq.bundleDone && decide (x.seq.notBefore ≤ i.cyc)
    && x.hdrAt x.seq.pc == i.hdr.toNat && i.hdr.toNat.testBit k && !s.brkMatch 0 && s.issueHold 0 i.cyc == h && h != 0
theorem witness_SequencerHolds_fetch : Tst.holds (Tst.unopened 24 (Tst.scl 1 3) (fun q => { q with fetched := 11 })) 24 ⟨0x01000005, 0⟩ 9 = true ∧
    11 < bundleLen 0x01000005 := by decide
theorem witness_SequencerHolds_fence :
    let x := { Tst.prog 24 (Tst.scl 1 3) (fun q => { q with pc := 0, bundle := none }) with
      store := { Store.init with bytes := cputs [] 0 (le 4 0x01180005 ++ le 8 (Tst.scl 1 3).toNat) }, arr := { Arr.init with loadEnd := 9, enterEnd := 9, waitTiles := [] } }
    Tst.holds (Tst.slc x) 24 ⟨0x01180005, 0⟩ 1 = true ∧ x.seq.pc + bundleLen 0x01180005 ≤ x.seq.fetched ∧ x.fences 0x01180005 0 = false := by decide
theorem witness_SequencerHolds_flag : Tst.holds (Tst.unopened 24 (Tst.scl 0x10 3) id) 24 ⟨0x01000005, 0⟩ 7 = true ∧
    ((Tst.unopened 24 (Tst.scl 0x10 3) id).slice 0).seq.waitFlag = none := by decide
theorem witness_SequencerHolds_match :
    let v := Tst.set (Tst.unopened 24 (Tst.scl 1 3) id) [(Obj.brkCtrl, 0, 1)]
    let s := v.passEmpty 0 (v.slice 0).readyFrom
    let x := s.slice 0
    x.seq.mode = .issuing ∧ x.seq.halted = false ∧ x.alloc.isSome = true ∧ x.seq.bundleDone = true ∧ bits (x.hdrAt x.seq.pc) 15 0 = 5 ∧ s.brkMatch 0 = true := by decide
theorem witness_SequencerHolds_stop :
    let x := Tst.prog 24 (Tst.scl 1 3) (fun q => { q with mode := .draining })
    x.seq.mode = .draining ∧ x.drained (max x.cycle (max x.arr.loadEnd x.arr.enterEnd)) = true := by decide
theorem witness_SequencerHolds_resume :
    let s := Tst.slc (Tst.prog 24 (Tst.scl 1 3) (fun q => { q with mode := .stopped }))
    Turn s Tst.req ∧ Writes s Obj.brkResume 0 (brkRule 0 1) (.num 1) ∧ Writes s Obj.brkResume 0 (brkRule 0 2) (.num 2) :=
  ⟨⟨by decide, by decide, by decide, by decide⟩, ⟨by decide, by decide, by decide, by decide, by decide⟩, ⟨by decide, by decide, by decide, by decide, by decide⟩⟩

theorem witness_IssueSlots : ∀ p ∈ [(27, 0), (27, 1), (27, 2), (28, 0), (28, 1), (29, 4), (29, 8), (29, 12)].map (fun p => (p.1, BitVec.ofNat 64 (p.2 * 2 ^ (if p.1 = 29 then 58 else 62)))),
    Slot (Tst.opened p.1 p.2) ((0 : SliceId) : Nat) none p.1 p.2 (Tst.opened p.1 p.2) := by
  have h : ∀ p ∈ [(27, 0), (27, 1), (27, 2), (28, 0), (28, 1), (29, 4), (29, 8), (29, 12)].map (fun p => (p.1, BitVec.ofNat 64 (p.2 * 2 ^ (if p.1 = 29 then 58 else 62)))),
    Tst.slotOk p.1 p.2 = true := by decide
  exact fun p m => Tst.slot (h p m)
theorem witness_IssueSlots_fields : bits (1 * 2 ^ 62) 63 62 = 1 ∧ bits (2 * 2 ^ 62) 63 62 = 2 ∧ bits (4 * 2 ^ 58) 63 60 = 1 ∧
    bits (8 * 2 ^ 58) 63 60 = 2 ∧ bits (12 * 2 ^ 58) 63 60 = 3 ∧ bits 0 63 62 = 0 := by decide
/-- The DRN slot of a bundle whose FA and ARR slots have been seen. -/
def Tst.drnSeq (q : Seq) : Seq :=
  { q with asmFa := some { mode := 0, count := 1, win := 0, step := 1, row := 0 }, asmArr := some { cont := false, atype := 0, xpose := false } }
theorem witness_IssueSlots_drain : ∀ op ∈ [1, 2, 3, 4],
    let w : DWord := BitVec.ofNat 64 (op * 2 ^ 60)
    let s := Tst.slc (Tst.prog 31 w Tst.drnSeq)
    bits w.toNat 63 60 = op ∧ Slot s ((0 : SliceId) : Nat) none 31 w s ∧ (s.slice 0).seq.asmFa.isSome = true ∧ (s.slice 0).seq.asmArr.isSome = true := by
  have h : ∀ op ∈ [1, 2, 3, 4], bits (BitVec.ofNat 64 (op * 2 ^ 60)).toNat 63 60 = op ∧
      ((Tst.slc (Tst.prog 31 (BitVec.ofNat 64 (op * 2 ^ 60)) Tst.drnSeq)).slice 0).wordAt 0 31 = (BitVec.ofNat 64 (op * 2 ^ 60)).toNat := by decide
  intro op m
  exact ⟨(h op m).1, ⟨by decide, rfl, _, rfl, by decide, by decide, (h op m).2⟩, rfl, rfl⟩
theorem witness_IssueSlots_descriptor : ∀ p ∈ [(25, 0), (26, 0), (25, 1), (26, 1)].map (fun p => (p.1, BitVec.ofNat 64 (p.2 * 2 ^ 54))),
    Slot (Tst.opened p.1 p.2) ((0 : SliceId) : Nat) none p.1 p.2 (Tst.opened p.1 p.2) := by
  have h : ∀ p ∈ [(25, 0), (26, 0), (25, 1), (26, 1)].map (fun p => (p.1, BitVec.ofNat 64 (p.2 * 2 ^ 54))), Tst.slotOk p.1 p.2 = true := by decide
  exact fun p m => Tst.slot (h p m)
theorem witness_IssueSlots_index : bits 0 63 54 < Tst.alloc.descs ∧ Tst.alloc.descs ≤ bits (2 ^ 54) 63 54 := by decide

/-! ## The array and its drain -/

def Tst.fb (g : Bool) (row : Int) : FbCmd := { num := 2, group4 := g, wtype := 0, rows := 2, row := row, tag := 5 }
def Tst.arrSlice (f : Arr → Arr) : Slice :=
  { Slice.init with alloc := some Tst.alloc, arr := f { Arr.init with invWait := none } }

theorem witness_ArrayTiles_load :
    let x := ((Tst.slc (Tst.arrSlice (fun a => { a with waitLoad := some (Tst.fb false 20) }))).feedTo 0 3).slice 0
    x.arr.waitLoad = some (Tst.fb false 20) ∧ x.arr.shadowFree 2 = true ∧ x.arr.loadEnd ≤ 3 ∧ x.arr.lastEnter.getD 0 ≤ 3 ∧
    3 ∉ x.arr.frozen ∧ x.badRead (Tst.fb false 20).reads = none ∧ (Tst.fb false 20).wtype ≠ 6 := by decide
theorem witness_ArrayTiles_badLoad : (Tst.arrSlice id).badRead (Tst.fb false 63).reads = some 64 := by decide

def Tst.tile (mode : Nat) (row : Int) : TileCmd :=
  { fa := { mode := mode, count := 1, win := 0, step := 1, row := row }, arr := { cont := false, atype := 0, xpose := false }
    drn := { op := 1, chain := 0, chunk := 0, bankVec := 0, outRow := 40 }, layer := 3, tag := 5, origin := 0, fbNum := 1, entry := [] }
def Tst.weights : WTile := { num := 1, tag := 5, wtype := 0, org := .bit8, rows := List.replicate 128 (List.replicate 128 1), start := 0 }
def Tst.tiles (mode : Nat) (row : Int) : Slice :=
  Tst.arrSlice (fun a => { a with waitTiles := [Tst.tile mode row], shadow := some Tst.weights, fwdIssue := some { vecs := [], exps := [] } })

theorem witness_ArrayTiles_start : ∀ mode ∈ [0, 2],
    let x := ((Tst.slc (Tst.tiles mode 20)).feedTo 0 3).slice 0
    x.arr.waitTiles = [Tst.tile mode 20] ∧ x.arr.tileWeights (Tst.tile mode 20) 3 = some Tst.weights ∧ x.arr.enterEnd ≤ 3 ∧
    x.arr.feed = none ∧ x.arr.changes Tst.weights (Tst.tile mode 20) = false ∧ 3 ∉ x.arr.frozen ∧ x.arr.fwdIssue ≠ none := by
  decide
/-- A tile whose vectors Feeder A reads. -/
def Tst.feed (row : Int) (sent entered : Nat) (buffer : List (List (BitVec 16) × Int)) : Feed :=
  { cmd := Tst.tile 0 row, tile := 0, wt := Tst.weights, start := 0, ups := [], ecc := [], win := [], count := 2, sent := sent
    entered := entered, buffer := buffer }
def Tst.vec : List (BitVec 16) × Int := (List.replicate 128 1, 0)
theorem witness_ArrayTiles_vector : ∀ f ∈ [Tst.feed 20 1 0 [Tst.vec], Tst.feed 20 2 1 [Tst.vec], Tst.feed 20 0 0 [], Tst.feed 64 0 0 [],
      Tst.feed 20 2 1 []], ((Tst.slc (Tst.arrSlice (fun a => { a with feed := some f }))).slice 0).arr.feed = some f := by
  intro f _; rfl
theorem witness_ArrayTiles_buffer : thaw [] 0 0 ≤ 0 ∧ 0 + 1 < (Tst.feed 20 1 0 [Tst.vec]).count ∧
    (Tst.feed 20 2 1 [Tst.vec]).count ≤ 1 + 1 ∧ thaw [] 0 1 ≤ 1 ∧ (Tst.feed 20 0 0 []).sent < (Tst.feed 20 0 0 []).count ∧
    (Tst.feed 20 2 1 []).count ≤ (Tst.feed 20 2 1 []).sent ∧
    (Tst.arrSlice id).badRead ((Tst.feed 20 0 0 []).rows 0) = none ∧ (Tst.arrSlice id).badRead ((Tst.feed 64 0 0 []).rows 0) = some 64 := by
  decide

def Tst.row (chk : Word) (outs : List (List Word)) : ArrRow :=
  { tile := 0, cmd := Tst.tile 0 20, org := .bit16, float := false, vec := 0, outs := outs, sChk := chk, base := 0, exp := 0, enter := 0 }
/-- Sixty-four outputs of an int16 row. -/
def Tst.outs : List (List Word) := List.replicate 64 [0, 1, 0, 2]

theorem witness_DrainedRows_grid :
    let x := ((Tst.slc (Tst.arrSlice (fun a => { a with rows := [Tst.row 0 Tst.outs] }))).feedTo 0 257).slice 0
    x.arr.rows = [Tst.row 0 Tst.outs] ∧ thaw x.arr.frozen 0 257 ≤ 257 ∧ 257 ∉ x.arr.frozen ∧
    (Tst.arrSlice id).alloc = some Tst.alloc ∧ (Tst.alloc.bankVecs * 128 = 512) ∧
    ((Tst.tile 0 20).drn.bankVec + 0) * (Tst.row 0 Tst.outs).cells + (Tst.row 0 Tst.outs).cells ≤ 512 ∧
    (Tst.tile 0 20).drn.op = 1 := by
  exact ⟨rfl, by decide, by decide, rfl, by decide, by decide, rfl⟩
def Tst.inv : InvRow := { chain := 0, py := 0, px := 0, vals := [], tag := 0, layer := 0, row0 := 40, origin := 0, tile := 0, entry := [] }
theorem witness_DrainedRows_inv : (Tst.arrSlice (fun a => { a with invRows := [Tst.inv] })).arr.rows = [] ∧
    (Tst.arrSlice (fun a => { a with invRows := [Tst.inv] })).arr.invRows = [Tst.inv] := by exact ⟨rfl, rfl⟩
/-- A cell whose write an upset changes, and one whose write none does. -/
theorem witness_DrainedRows_upset :
    (({ Tst.arrSlice id with } : Slice).bankAfter 0 (Tst.row 0 [[1, 0, 0, 0]]).cellVals false [⟨0xFE, 0, 1⟩]).2 = 1 ∧
    (({ Tst.arrSlice id with } : Slice).bankAfter 0 (Tst.row 0 [[1, 0, 0, 0]]).cellVals false []).2 = 0 ∧
    (bankCell true 0 (.int (2 ^ 39 - 1)) 0).2 = false ∧ (bankCell false 0 (.int 1) 1).2 = true ∧
    (bankCell false 0 (.int 0) 7).2 = false := by decide +kernel

/-- 64 × (256 + 2): the verdict of the row. -/
theorem witness_DrainedRows_passes : (Tst.row 16512 Tst.outs).verdict = none := by decide +kernel
theorem witness_DrainedRows_fails : (Tst.row 16511 Tst.outs).verdict = some 1 := by decide +kernel
theorem witness_DrainedRows_nan :
    ({ Tst.row 0x7FC00000 (List.replicate 64 [0]) with float := true, org := .bit16 } : ArrRow).verdict = some 3 := by decide +kernel
theorem witness_DrainedRows_order : (Tst.arrSlice (fun a => { a with unjudged := [Tst.row 1 Tst.outs] })).arr.unjudged = [Tst.row 1 Tst.outs] := by rfl
theorem witness_IntegerVerdict : (Tst.row 0 Tst.outs).float = false ∧ (Tst.row 0 Tst.outs).outs.length = 64 ∧
    (∀ o ∈ (Tst.row 0 Tst.outs).outs, o.length = 1 ∨ o.length = 4) := by decide

theorem witness_ChecksCatchUpset : let f := Tst.feed 20 1 0 [Tst.vec]
    f.wt.org.wide = false ∧ f.wt.wtype < 2 ∧ f.cmd.arr.xpose = false ∧ (∀ l ∈ f.wt.rows, l.length = f.wt.org.outs) ∧ f.ups = [] := by
  refine ⟨rfl, by decide, rfl, fun l h => ?_, rfl⟩
  simp only [Tst.feed, Tst.weights, List.mem_replicate] at h
  rw [h.2]; rfl
theorem witness_ChecksCatchUpset_one : [(⟨0, 127, 1⟩ : Upset)].filter (fun u => u.vec = 0) = [⟨0, 127, 1⟩] ∧ 127 < Tst.weights.org.outs ∧ (1 : Word) ≠ 0 := by decide

/-- A transform entry of one operation. -/
def Tst.xfm (op : Nat) (w : DWord) : Slice :=
  { Tst.prog 30 w id with store := { Store.init with bytes := cputs (cputs [] 0 (le 4 (2 ^ 30 + 5) ++ le 8 w.toNat)) (9 * 128) (le 1 op) } }
theorem witness_Transforms : ∀ p ∈ [(1, 0), (2, 0), (3, 1)],
    let w : DWord := BitVec.ofNat 64 (p.2 * 2 ^ 62)
    let s := Tst.slc (Tst.xfm p.1 w)
    bits w.toNat 63 62 = p.2 ∧ xtOp ((s.slice 0).xfmEntry (bits w.toNat 60 53)) = p.1 ∧ Slot s ((0 : SliceId) : Nat) none 30 w s := by
  have h : ∀ p ∈ [(1, 0), (2, 0), (3, 1)], bits (BitVec.ofNat 64 (p.2 * 2 ^ 62)).toNat 63 62 = p.2 ∧
      xtOp (((Tst.slc (Tst.xfm p.1 (BitVec.ofNat 64 (p.2 * 2 ^ 62)))).slice 0).xfmEntry (bits (BitVec.ofNat 64 (p.2 * 2 ^ 62)).toNat 60 53)) = p.1 ∧
      ((Tst.slc (Tst.xfm p.1 (BitVec.ofNat 64 (p.2 * 2 ^ 62)))).slice 0).wordAt 0 30 = (BitVec.ofNat 64 (p.2 * 2 ^ 62)).toNat := by decide
  intro p m
  exact ⟨(h p m).1, (h p m).2.1, ⟨by decide, rfl, _, rfl, by decide, by decide, (h p m).2.2⟩⟩
def Tst.xcmd (inv : Bool) : XfmCmd := { inv := inv, size := 0, xtab := 0, srcRow := 20, dstRow := 30, tag := 0, layer := 0, origin := 0, bad := false, ecc := [] }
theorem witness_Transforms_starts :
    (Tst.arrSlice (fun a => { a with fwdWait := some (Tst.xcmd false) })).arr.fwdWait = some (Tst.xcmd false) ∧ (Tst.arrSlice id).arr.fwdIssue = none ∧
    (Tst.arrSlice (fun a => { a with invWait := some (Tst.xcmd true) })).arr.invWait = some (Tst.xcmd true) ∧ (Tst.arrSlice id).arr.invRows = [] := by
  exact ⟨rfl, rfl, rfl, rfl⟩
theorem witness_Transforms_writes :
    let x := { Tst.arrSlice id with store := { Store.init with bytes := cputs [] (9 * 128) [1, 0, 1, 0, 1, 1, 1, 0, 8, 0, 8, 0] } }
    let e := x.xfmEntry 0
    xtOp e = 1 ∧ x.badRead (xtRows e 20 (Tst.xcmd false).points) = none ∧
    x.badWrite ((List.range (xtTiles e)).flatMap (fun m => x.xtWrites e 20 (Tst.xcmd false).points m)) = none := by decide +kernel

theorem witness_Transforms_vectors :
    let x := { Tst.arrSlice id with store := { Store.init with bytes := cputs [] (9 * 128) ([2, 0, 1, 0, 1, 1, 1, 0, 8, 0, 8, 0] ++ zeros 8 ++ [20, 0, 22, 0, 23, 0]) } }
    let e := x.xfmEntry 0
    xtOp e ≠ 1 ∧ x.badRead ((List.range (xtTiles e)).map (fun (m : Nat) => (20 : Int) + (m : Int)) ++
      (List.range (xtTiles e)).map (fun (m : Nat) => ((fld e 22 2 + m / 128 : Nat) : Int)) ++ [((fld e 24 2 + 0 / 128 : Nat) : Int)]) = none := by decide +kernel
theorem witness_Transforms_rows :
    let x := { Tst.arrSlice id with store := { Store.init with bytes := cputs [] (9 * 128) ([3, 0, 1, 0, 1, 1, 1, 0, 8, 0, 8, 0] ++ zeros 8 ++ [20, 0]) } }
    let e := x.xfmEntry 0
    (Tst.xcmd true).inv = true ∧ (Tst.xcmd true).bad = false ∧
    x.badRead ((List.range (bins (Tst.xcmd true).points * xtTiles e)).map (fun i => ((fld e 20 2 + i : Nat) : Int))
      ++ (List.range ((bins (Tst.xcmd true).points * xtTiles e + 127) / 128)).map (fun i => ((fld e 26 2 + i : Nat) : Int))) = none := by decide +kernel

theorem witness_CounterClears : Turn Tst.on Tst.req ∧ Writes Tst.on Obj.arrClear 0 (clearRule arrRows 0) (.num 1) ∧
    Writes Tst.on Obj.tsClear 0 (clearRule tsRows 0) (.num 1) ∧ Writes Tst.on Obj.slvClear 0 (clearRule slvRows 0) (.num 1) ∧
    Writes Tst.on Obj.chClear 11 (clearRule chRows 11) (.num 1) :=
  ⟨Tst.turn, ⟨by decide, by decide, by decide, by decide, by decide⟩, ⟨by decide, by decide, by decide, by decide, by decide⟩,
   ⟨by decide, by decide, by decide, by decide, by decide⟩, ⟨by decide, by decide, by decide, by decide, by decide⟩⟩

/-! ## The tile store and the DMA engines -/

theorem witness_TileStorePorts : (Tst.arrSlice id).alloc = some Tst.alloc ∧ Tst.access.mask.contains true = true ∧
    Tst.access.port ≠ .feederA ∧ Tst.access.port ≠ .feederB ∧ (Tst.arrSlice id).rowOk 40 = true ∧ (Tst.arrSlice id).rowCtrl 40 = false ∧
    Tst.access.ecc.contains .uncorrectable = false ∧ Memory.wf (Tst.arrSlice id).store.bytes = true := by decide
theorem witness_TileStorePorts_faults : (Tst.arrSlice id).rowOk 63 = true ∧ (Tst.arrSlice id).rowOk 64 = false ∧
    (Tst.arrSlice id).rowCtrl 4 = true ∧ (Tst.arrSlice id).rowCtrl 5 = false := by decide
/-- An access of the DMA port to a row of group 0: made at once in cycle 6, waiting in cycle 3, and not taken by a full port. -/
theorem witness_TileStorePorts_slot : Store.init.nextSlot .dma 0 6 = 6 ∧ Store.init.nextSlot .dma 0 3 = 6 ∧
    ({ Store.init with slots := [(slotKey .dma 0, 6)] } : Store).nextSlot .dma 0 6 = 10 ∧ (∀ q ∈ Store.init.pend, 6 ≤ q.issue) ∧
    (Store.init.pend.filter (fun q => q.acc.port == .dma)).length < 16 := by decide
theorem witness_TileStorePorts_full :
    let q : TsPend := { acc := Tst.access, issue := 6, deliver := 12 }
    16 ≤ ((List.replicate 16 q).filter (fun q => q.acc.port == Tst.access.port)).length ∧ (∀ x ∈ List.replicate 16 q, 3 ≤ TsPend.issue x) := by
  decide

/-- A STRIDED descriptor of one piece of len bytes. -/
def Tst.strided (hd ext ts len : Nat) : Bytes := le 4 hd ++ le 8 ext ++ le 4 ts ++ le 4 len ++ le 2 1 ++ le 2 1 ++ le 2 1 ++ zeros 38
/-- A BOX descriptor of one box. -/
def Tst.box : Bytes :=
  le 4 (2 * 2 ^ 28) ++ le 8 0 ++ le 4 5120 ++ le 4 5248 ++ le 2 1 ++ le 2 1 ++ le 2 1 ++ le 1 1 ++ le 1 1 ++ le 4 64 ++ le 4 0 ++ le 2 1
    ++ le 1 1 ++ le 1 0 ++ le 4 64 ++ zeros 20
/-- A slice with descriptors, and page 0 of context 0. -/
def Tst.dma (f : Store → Store) : State :=
  let s := Tst.slc { Tst.arrSlice id with store := f Store.init }
  { s with mem := { s.mem with table := [(0, { Entry.zero with backed := true, rd := true, wr := true, hrd := true, hwr := true })] } }
def Tst.dsc (uid : Nat) (out started : Bool) (raw : Bytes) : Desc :=
  { uid := uid, idx := 0, out := out, raw := raw, tag := 5, started := started, pos := 0, total := 64, hazard := false }

theorem witness_ExtentCheckSound : (Tst.dma id).descCheck ((Tst.dma id).slice 0) { o := 0, n := 8192, ctrl := 640, ctx := some 0 } (Tst.strided 0 0 5120 64) = none := by
  decide
theorem witness_Descriptors_starts :
    let d := Tst.dsc 1 false false (Tst.strided 0 0 5120 64)
    let s := Tst.dma (fun t => { t with descs := [d] })
    (s.slice 0).store.descs.find? (fun d => d.out == false && !d.started) = some d ∧
    ((s.slice 0).store.descs.any (fun o => decide (o.uid < d.uid) && (s.slice 0).overlaps d o)
      || (s.clusterDescs 0).any (fun o => decide (o.d.uid < d.uid) && d.meets o.d)) = false ∧
    s.extentCheck 0 d.raw = none ∧ dMode d.raw ≠ 2 := by decide
theorem witness_Descriptors_box :
    let d := Tst.dsc 1 false false Tst.box
    let s := Tst.dma (fun t => { t with descs := [d] })
    (s.slice 0).store.descs.find? (fun d => d.out == false && !d.started) = some d ∧ s.extentCheck 0 d.raw = none ∧ dMode d.raw = 2 := by decide
theorem witness_Descriptors_fails : (Tst.dma id).extentCheck 0 (Tst.strided 0 (2 * pageBytes) 5120 64) = some (St.pageRights, 2) := by decide
theorem witness_Descriptors_hazard :
    let o := Tst.dsc 0 false true (Tst.strided 0 0 5120 64)
    let d := Tst.dsc 1 false false (Tst.strided 0 0 5120 64)
    let s := Tst.dma (fun t => { t with descs := [o, d] })
    (s.slice 0).store.descs.find? (fun d => d.out == false && !d.started) = some d ∧
    (s.slice 0).store.descs.any (fun o => decide (o.uid < d.uid) && (s.slice 0).overlaps d o) = true ∧ d.hazard = false := by decide
theorem witness_DmaRequests :
    let d := Tst.dsc 1 true true (Tst.strided (2 ^ 27) 0 5120 64)
    let s := Tst.dma (fun t => { t with descs := [d] })
    (s.slice 0).store.descs.find? (fun d => d.out == true && d.started && decide (d.pos < d.total)) = some d ∧
    (s.slice 0).store.tags.length < 2048 ∧ dMode d.raw ≤ 1 ∧ ((s.slice 0).request d.raw d.pos).1 = 0 ∧
    (Tst.set s [(Obj.chState, 0, 0)]).served 0 = true ∧ (Tst.set s [(Obj.chState, 0, 2)]).served 0 = false := by decide
def Tst.tag (out : Bool) : TagEntry := { tag := 0, uid := 1, out := out, pos := 0, len := 64, addr := 0, since := 3, ch := 0, req := 4, data := zeros 64 }
/-- Its request, admitted to channel 0. -/
def Tst.dreq (out : Bool) : SortReq :=
  { id := 4, source := .slice 0, link := .dma 1 0 64, addr := 0, write := out, data := if out then zeros 64 else []
    mask := if out then List.replicate 64 true else [], bank := 0, row := 0, admitted := some 3, issued := false, aged := false
    tries := 0, retrained := false }
theorem witness_DmaRequests_done : ∀ out ∈ [true, false],
    ((Tst.dma (fun t => { t with tags := [Tst.tag out] })).slice 0).store.tags.find? (fun e => e.tag == 0) = some (Tst.tag out) ∧
    (let s := Tst.dma id
     ({ s with mem := { s.mem with chans := [(0, { Channel.init with sorter := [Tst.dreq out] })] } } : State).mayFinish (Tst.tag out).ch
       (Tst.tag out).req) = some (Tst.dreq out) ∧ (Tst.dreq true).mask.contains false = false ∧
    (Tst.dreq out).source = .slice 0 ∧ (Tst.dreq out).link = .dma 1 0 64 := by
  decide
theorem witness_DmaRequests_full : 2048 ≤ (List.replicate 2048 (Tst.tag true)).length := Nat.le_of_eq List.length_replicate.symm
theorem witness_Descriptors_completes : ∀ hd ∈ [0, 2 ^ 26 + 7 * 2 ^ 16],
    let d := { Tst.dsc 1 false true (Tst.strided hd 0 5120 64) with pos := 64 }
    let s := Tst.dma (fun t => { t with descs := [d] })
    (s.slice 0).store.descs.find? (fun d => d.out == false) = some d ∧ d.started = true ∧ d.total ≤ d.pos ∧
    (∀ t ∈ (s.slice 0).store.tags, t.uid ≠ d.uid) ∧ s.parkedPos 0 d.uid = [] ∧ dFlagEn d.raw = (hd != 0) := by decide

/-! ## Slivers -/

def Tst.hid : HartId := { slice := 0, cluster := 0, core := 0, thread := 0 }
/-- Slice 0 with a job's allocation, cluster 0 in direct mode, its first line of code in the cache, hart 0 at its start. -/
def Tst.core (i : Word) (f : Hart → Hart) (g : Cluster → Cluster) : State :=
  { Tst.slc (Tst.arrSlice id) with
    harts := [(0, f { Hart.init with wait := .ready, pc := 0x80000000, lsLo := 0, lsLen := 1024 })]
    clusters := [(0, g { Cluster.init with direct := true, ilines := [(0, le 4 i.toNat ++ zeros 60)] })] }
def Tst.cyc : Cycles := { first := 10, own := 1 }
def Tst.goes (s : State) : State := (s.charge 0 Tst.cyc).2
/-- Hart 0 may issue, and its budget lasts. -/
def Tst.goesOk (s : State) : Bool := s.mayIssue Tst.hid.num && (s.charge Tst.hid.num Tst.cyc).1
theorem Tst.thread {s : State} (h : Tst.goesOk s = true) : ThreadGoes s Tst.hid.num Tst.cyc (Tst.goes s) := by
  simp only [Tst.goesOk, Bool.and_eq_true] at h
  exact ⟨h.1, Prod.ext h.2 rfl⟩

theorem witness_SliverInstructions_thread : ThreadGoes (Tst.core 0x73 id id) Tst.hid.num Tst.cyc (Tst.goes (Tst.core 0x73 id id)) :=
  Tst.thread (by decide)
/-- The forms of SliverScalar, each as the sliver fetches it: ADD, SUB, MUL, ADDI, LUI, AUIPC, BEQ, LW, SW, ECALL, EBREAK. -/
theorem witness_SliverInstructions_forms :
    ∀ w ∈ [0x003100B3, 0x403100B3, 0x023100B3, 0x00510093, 0x000010B7, 0x00001097, 0x00000463, 0x00001463, 0x00002083, 0x00102023,
           0x00102083, 0x73, 0x100073],
      (Tst.core (BitVec.ofNat 32 w) id id).fetch Tst.hid.num = .ok w 4 := by decide +kernel
theorem witness_SliverInstructions_fields :
    (bits 0x003100B3 6 0 = 0x33 ∧ bits 0x003100B3 31 25 = 0) ∧ (bits 0x403100B3 31 25 = 0x20 ∧ bits 0x403100B3 14 12 = 0) ∧
    bits 0x023100B3 31 25 = 1 ∧ (bits 0x00510093 6 0 = 0x13 ∧ bits 0x00510093 14 12 = 0) ∧ bits 0x000010B7 6 0 = 0x37 ∧
    bits 0x00001097 6 0 = 0x17 ∧ (bits 0x00000463 6 0 = 0x63 ∧ branchTaken (bits 0x00000463 14 12) 0 0 = true) ∧
    branchTaken (bits 0x00001463 14 12) 0 0 = false ∧ (bits 0x00002083 6 0 = 0x03 ∧ bits 0x00002083 14 12 = 2) ∧
    (bits 0x00102023 6 0 = 0x23 ∧ bits 0x00102023 14 12 = 2) ∧ ((0 : Word) + immI 0x00102083).toNat % 4 = 1 := by decide
theorem witness_SliverInstructions_local : ∀ st ∈ [true, false],
    (Tst.goes (Tst.core 0x00002083 id id)).reach Tst.hid.num 1020 4 st = .loc := by decide
/-- CSRRW, CSRRS and CSRRC of mcycle, frm and a CSR that is not there. -/
theorem witness_SliverInstructions_csr :
    (bits 0x00201073 6 0 = 0x73 ∧ bits 0x00201073 14 12 % 4 = 1 ∧ bits 0x00201073 31 20 = 2) ∧
    (Tst.goes (Tst.core 0 id id)).csrRead 0 Tst.cyc 2 = some 0 ∧ csrReadOnly 2 = false ∧ csrReadOnly 0xC20 = true ∧
    (bits 0x002020F3 14 12 % 4 = 2 ∧ bits 0x002020F3 19 15 = 0) ∧
    (Tst.goes (Tst.core 0 id id)).csrRead 0 Tst.cyc 0xC20 = some 0 ∧
    (Tst.goes (Tst.core 0 id id)).csrRead 0 Tst.cyc 0x7FF = none := by decide
theorem witness_SliverInstructions_modes : (Tst.goes (Tst.core 0 id id)).isDirect Tst.hid.num = true ∧
    (Tst.goes (Tst.core 0 id (fun c => { c with direct := false }))).isDirect Tst.hid.num = false := by decide

def Tst.spec : TaskSpec :=
  { id := 2, threads := [{ cluster := 0, core := 0, thread := 0, entry := 0x20000000, lsLo := 0, lsLen := 1024 }], codeBase := 0, codeLen := 64
    constBase := 0, constLen := 64, budget := some 100, slivers := 1, dual := none, outTs := true, outBase := 5120, outLen := 32 }
def Tst.task : Task := { spec := Tst.spec, bind := [0], copyOf := none, used := 7, till := 10, exited := [], ended := none, judged := false, digests := [] }
def Tst.tasked (f : Hart → Hart) : State :=
  { Tst.core 0 (fun h => f { h with task := some 2 }) id with tasks := [(2, Tst.task)] }

theorem witness_ZalkaiInstructions_flags : Tst.goesOk (Tst.core 0 id id) = true ∧ (Tst.goes (Tst.core 0 id id)).flagOn 0 = false ∧
    (let s := { Tst.core 0 id id with work := { (Tst.core 0 id id).work with flags := [0] } }
     Tst.goesOk s = true ∧ (Tst.goes s).flagOn 0 = true) := by decide
theorem witness_ZalkaiInstructions_task : Tst.goesOk (Tst.tasked id) = true ∧ ((Tst.goes (Tst.tasked id)).hart 0).task = some 2 ∧
    (Tst.goes (Tst.tasked id)).taskOf 0 = some (2, { Tst.task with used := 8, till := 11 }) ∧ (Tst.goes (Tst.core 0 id id)).taskOf 0 = none := by decide
def Tst.cd (k : Nat) : CDesc := { hart := k, pc := 0, d := Tst.dsc 1 false true (Tst.strided 0 0 0 64) }
theorem witness_ZalkaiInstructions_dmaw : ((Tst.goes (Tst.core 0 id id)).clusterOf 0).inFlight 0 ≤ ((0 : Word)).toNat ∧
    ((0 : Word)).toNat < ((Tst.goes (Tst.core 0 id (fun c => { c with cdescs := [Tst.cd 0] }))).clusterOf 0).inFlight 0 := by decide
/-- x1 holds the window address of row 40. -/
theorem witness_ZalkaiInstructions_window :
    let s := Tst.core 0 (fun h => h.setX 1 0x40001400) id
    Tst.goesOk s = true ∧ ((Tst.goes s).slice 0).alloc = some Tst.alloc ∧ (((Tst.goes s).hart 0).getX 1).toNat = 0x40001400 ∧
    Tst.alloc.ctrlRows * 128 ≤ 0x40001400 - 0x40000000 ∧ 0x40001400 % 32 = 0 ∧ 0x40001400 - 0x40000000 + 32 ≤ Tst.alloc.len := by decide
theorem witness_ZalkaiInstructions_dmaq :
    let x := ((Tst.goes (Tst.core 0 id id)).hart 0)
    (x.getX 1).toNat < 0x6000 ∧ x.lsLo ≤ (x.getX 1).toNat ∧ (x.getX 1).toNat + 64 ≤ x.lsLo + x.lsLen ∧
    ((Cluster.init.cdescs).filter (fun x => x.d.out == false)).length < 16 ∧
    16 ≤ ((List.replicate 16 (Tst.cd 0)).filter (fun x => x.d.out == false)).length := by decide
theorem witness_ZalkaiInstructions_load :
    let u := Tst.core 0x00002083 (fun h => { h with wait := .window }) id
    (u.hart 0).wait = .window ∧ u.fetch 0 = .ok 0x00002083 4 ∧ Tst.goesOk (u.modHart 0 (fun h => { h with wait := .ready })) = true := by decide

def Tst.still (f : Slice → Slice) : State :=
  let s := Tst.dma id
  { s with slices := s.slices.map (fun p => (p.1, f p.2)), clusters := [(0, { Cluster.init with direct := false })] }
theorem witness_SliverTasks : ∀ b ∈ [true, false],
    let s := Tst.still (fun x => { x with run := some { Tst.run0 with ctx := if b then 0 else 1 } })
    s.mayStart 0 Tst.spec = true ∧ s.imagesOk 0 Tst.spec = b := by decide
/-- A task that its package marks: its copy runs in cluster 8. -/
theorem witness_SliverTasks_dual :
    let s := Tst.still (fun x => { x with run := some Tst.run0 })
    let t := { Tst.spec with dual := some { id := 3, outBase := 5248 } }
    s.mayStart 0 t = true ∧ s.imagesOk 0 t = true ∧ (∃ c, copySpec t = some c ∧ s.mayStart 0 c = true ∧ c.id ≠ t.id ∧
      (∀ j ∈ specHarts c 0, ∀ k ∈ specHarts t 0, k / 4 ≠ j / 4)) := by
  refine ⟨by decide, by decide, _, rfl, by decide, by decide, by decide⟩
theorem witness_SliverTasks_budget : tfind (Tst.tasked id).tasks (taskKey 0 2) = some Tst.task ∧ Tst.task.ended = none ∧
    Tst.task.spec.budget = some 100 ∧
    (specHarts Tst.task.spec 0).find? (fun k => ((Tst.tasked id).hart k).task == some 2 && ((Tst.tasked id).hart k).wait.holds false && (Tst.tasked id).curThread k == k % 4) = some 0 := by
  decide
theorem witness_SliverTasks_mode : Tst.on.runs P.scp = true ∧ Tst.on.clusterStill 0 = true ∧
    (let s := { Tst.on with rst := { Tst.on.rst with phase := .starting } }
     s.clusterStill 0 = true ∧ s.rst.phase = .starting) := by decide
/-- Two copies whose threads have ended with causes a and b. -/
def Tst.copies (a b : Nat) : State :=
  let e (c : Nat) : TaskEnd := { cause := c, pc := 0, status := St.aborted, record := [] }
  { Tst.core 0 id id with tasks := [(2, { Tst.task with ended := some (e a), spec := { Tst.spec with dual := some { id := 3, outBase := 5248 } } }),
      (3, { Tst.task with ended := some (e b), copyOf := some 2, spec := { Tst.spec with id := 3, dual := some { id := 3, outBase := 5248 }, outBase := 5248 } })] }
theorem witness_SliverTasks_copies : ∀ p ∈ [(0, 0), (1, 1), (0, 1)],
    let s := Tst.copies p.1 p.2
    (tfind s.tasks 2).map (fun t => (t.judged, t.ended.map (fun e => e.cause))) = some (false, some p.1) ∧
    (s.tasks.find? (fun x => taskSlice x.1 == 0 && x.2.copyOf == some 2)).map (fun x => (x.1, x.2.ended.map (fun e => e.cause))) =
      some (3, some p.2) := by decide
theorem witness_SliverTasks_outputs :
    (Tst.copies 0 0).firstDiff 0 Tst.spec { Tst.spec with outBase := 5248 } = none ∧
    ((Tst.copies 0 0).modSlice 0 (fun x => { x with store := { x.store with bytes := cputs [] 5248 [1] } })).firstDiff 0 Tst.spec
      { Tst.spec with outBase := 5248 } = some 0 := by decide

theorem witness_SliverCaches_miss : (Tst.core 0 id id).mayIssue 0 = true ∧
    tfind ((Tst.core 0 id id).clusterOf 0).ilines (64 / 64) = none ∧ (Tst.set (Tst.dma id) [(Obj.chState, 0, 0)]).served 64 = true ∧
    tfind ((Tst.core 0 id (fun c => { c with ilines := [(1, zeros 64)] })).clusterOf 0).ilines (64 / 64) ≠ none ∧
    (Tst.core 0 id id).isDirect 0 = true ∧ (Tst.core 0 id (fun c => { c with direct := false })).isDirect 0 = false := by decide
theorem witness_SliverCaches_fill : ∀ w ∈ [MissFor.code, .const, .dma 1 0 64 []],
    let m : Miss := { slot := 3, what := w, addr := 64, since := 0, ch := 0, req := 4 }
    let r := { Tst.dreq false with source := .cluster 0 0, link := .line true, addr := 64 }
    ((Tst.core 0 id (fun c => { c with misses := [m] })).cluster 0).misses.find? (fun m => m.slot == 3) = some m ∧
    (let s := Tst.dma id
     ({ s with mem := { s.mem with chans := [(0, { Channel.init with sorter := [r] })] } } : State).mayFinish m.ch m.req) = some r := by decide

/-! ## Device memory -/

def Tst.entry : Entry := { Entry.zero with backed := true, rd := true, wr := true, hrd := true, hwr := true }
/-- Channels 0 to 11 in service; page 0 on channel 0. -/
def Tst.mem (e : Entry) (c : Channel → Channel) (f : Memory → Memory) : State :=
  let s := Tst.set Tst.on ((List.range 12).map (fun k => (Obj.chState, k, 0)))
  { s with mem := f { s.mem with table := [(0, e)], chans := [(0, c Channel.init)] } }
def Tst.sreq (id at' : Nat) (iss : Bool) (row : Nat) : SortReq :=
  { id := id, source := .media, link := .other, addr := 64 * id, write := false, data := [], mask := [], bank := 0, row := row, admitted := some at'
    issued := iss, aged := false, tries := 0, retrained := false }

theorem witness_MemorySorter_enqueue : ∀ l ∈ [[], [(Tst.mreq, ReqLink.other)]],
    let s := Tst.mem Tst.entry (fun c => { c with waiting := l }) id
    (s.entry (Tst.mreq.addr / pageBytes)).backed = true ∧ s.chInService 0 = true ∧
    (s.chan 0).waiting.any (fun w => decide (w.1.source = Tst.mreq.source)) = !l.isEmpty ∧
    (s.chan 0).room (s.placeOf Tst.mreq.addr).bank = true := by decide
theorem witness_MemorySorter_admit :
    let r : SortReq := { Tst.sreq 1 0 false 0 with admitted := none }
    let s := Tst.mem Tst.entry (fun c => { c with sorter := [r] }) id
    (s.chan 0).sorter.find? (fun r => r.bank == 0 && r.admitted.isNone) = some r ∧ (s.chan 0).admittedIn 0 < 128 ∧
    s.hasResource r.source = true ∧ s.rst.memHeld = false ∧ (s.chan 0).waking = false := by decide
/-- At 5 µs the request admitted at 0 goes first; at 2 µs the one to the open row. -/
def Tst.sorter (now : Nat) : State :=
  let s := Tst.mem Tst.entry (fun c => { c with sorter := [Tst.sreq 1 0 false 7, Tst.sreq 2 100 false 9], openRows := [(0, 9)] }) id
  { s with clk := { s.clk with now := now } }
theorem witness_MemorySorter_choose : ((Tst.sorter (5 * us)).chan 0).choose (5 * us) = some (Tst.sreq 1 0 false 7) ∧
    ((Tst.sorter (2 * us)).chan 0).choose (2 * us) = some (Tst.sreq 2 100 false 9) ∧ ((Tst.sorter 0).chan 0).retraining = false ∧
    (Tst.sorter 0).chInService 0 = true ∧
    (Tst.sorter 0).rst.memHeld = false := by decide
theorem witness_MemorySorter_age :
    ((Tst.sorter 0).chan 0).sorter.find? (fun r => r.id == 1 && !r.issued && !r.aged) = some (Tst.sreq 1 0 false 7) ∧
    (Tst.sreq 1 0 false 7).admitted = some 0 := by decide

theorem witness_BurstsAndUpkeep_burst : ∀ p ∈ [(0, false), (2, false), (3, false), (4, true)],
    let r : SortReq := { Tst.sreq 1 0 true 0 with tries := p.1, retrained := p.2, write := true, data := zeros 64, mask := List.replicate 64 true }
    let s := Tst.mem Tst.entry (fun c => { c with sorter := [r] }) id
    (s.chan 0).sorter.find? (fun r => r.id == 1 && r.issued) = some r ∧ (s.chan 0).retraining = false ∧ s.rst.memHeld = false ∧
    (s.chan 0).inOrder r = true ∧ r.mask.contains false = false ∧ r.link = .other ∧ r.source = .media := by decide
theorem witness_BurstsAndUpkeep_retrain : ((Tst.mem Tst.entry (fun c => { c with retraining := true }) id).chan 0).retraining = true := by decide
theorem witness_BurstsAndUpkeep_mirror :
    let s := Tst.mem { Tst.entry with mirror := true } id (fun m => { m with remirror := [(0, 0)] })
    s.mem.remirror.any (fun m => m.1 == 0) = true ∧ (s.entry 0).backed = true ∧ (s.entry 0).mirror = true ∧
    nextChan (fun d => s.freeSlots d != 0 && d / 2 != (s.entry 0).channel / 2) (s.entry 0).channel = some 2 := by decide
theorem witness_BurstsAndUpkeep_scrub :
    let s := Tst.mem Tst.entry id id
    s.pageAt 0 0 = some 0 ∧ s.chInService 0 = true ∧ (s.chan 0).retraining = false ∧ s.rst.memHeld = false ∧ (s.chan 0).sorter = [] := by
  decide
theorem witness_BurstsAndUpkeep_scrubMirror :
    let s := Tst.mem { Tst.entry with mirror := true } id (fun m => { m with mirrors := [(0, (2, 7))] })
    s.pageAt 2 7 = none ∧ s.mirrorAt 2 7 = some 0 ∧ s.chInService 2 = true ∧ (s.chan 2).retraining = false := by decide
theorem witness_BurstsAndUpkeep_zero :
    let s := Tst.mem Tst.entry (fun c => { c with zeroing := [3], used := [0, 3] }) (fun m => { m with bytes := [(49152, 1)] })
    (s.chan 0).zeroing.contains 3 = true ∧ Memory.wf s.mem.bytes = true := by decide

def Tst.mig : Migration := { page := 0, chan := 4, slot := 2, seed := 5 }
theorem witness_Migrations : ∀ k ∈ [1, 2],
    let s := Tst.mem { Tst.entry with mig := k } id (fun m => { m with migs := [Tst.mig] })
    s.mem.migs.find? (fun m => m.page == 0) = some Tst.mig ∧ (s.entry 0).mig = k ∧ Memory.wf s.mem.bytes = true ∧
    (s.chan (s.entry 0).channel).sorter = [] := by decide
theorem witness_Migrations_copy :
    let s := Tst.mem { Tst.entry with mig := 1 } id (fun m => { m with migs := [Tst.mig] })
    (s.copyBlocks 0 [(0, 4)]).1 = false ∧ s.mem.badBlocks = [] ∧
    (∀ b < 256, s.mem.badBlocks.contains (s.blockAt (0 * pageBytes + 64 * b)) = false) := ⟨by decide +kernel, rfl, fun _ _ => rfl⟩
/-- The threshold of 1.0 and one page of heat 200, on channel 0 alone. -/
theorem witness_Migrations_starts :
    let s := Tst.set (Tst.mem { Tst.entry with heat := 200 } id id) [(Obj.migSkew, 0, 0x3F800000), (Obj.migRate, 0, 10)]
    let chans := upTo 12 s.chInService
    minBy (fun c => 2 ^ 32 - s.chanHeat c) chans = some 0 ∧ minBy s.chanHeat chans = some 1 ∧
    exceeds (s.chanHeat 0 * chans.length) (s.num Obj.migSkew) (sumOf s.chanHeat chans) = true ∧
    (s.mem.migTimes.filter (fun t => decide (s.clk.now < t + 1000 * ms))).length < s.num Obj.migRate ∧ s.mem.migs.length < 4 ∧
    s.freeSlots 1 ≠ 0 ∧
    minBy (fun e : Nat × Entry => 255 - e.2.heat) (s.mem.table.filter (fun e =>
      e.2.backed && e.2.channel == 0 && e.2.mig == 0 && !e.2.mirror)) = some (0, { Tst.entry with heat := 200 }) := by decide

/-! ## Peers -/

/-- Peer 0 in use, its inbound window page 0, segments of 1,024 bytes. -/
def Tst.peer (l : List Xfer) (d : List (Word × Bool × Nat)) : State :=
  let s := Tst.set (Tst.mem Tst.entry id id)
    [(Obj.peerEnable, 0, 1), (Obj.winBase, 0, 0), (Obj.winPages, 0, 1), (Obj.winRights, 0, 3), (Obj.peerSeg, 0, 1024)]
  { s with peers := [(0, { Peer.init with xfers := l, done := d })] }
def Tst.put : Xfer :=
  { xfer := 1, item := none, sending := false, get := false, loc := 0, remote := 0, total := 8192, acked := 0, next := 0, unacked := 0
    accepted := [], since := 0, resends := 0 }
def Tst.get : Xfer := { Tst.put with item := some (3, 1), get := true }
def Tst.sent : Xfer := { Tst.put with item := some (3, 1), sending := true, next := 8 }

theorem witness_PeerFrames_first : (Tst.peer [] []).peerOn 0 = true ∧ (Tst.peer [] []).wasXfer 0 1 false = false ∧
    (Tst.peer [] []).xfer 0 1 false = none ∧ (Tst.peer [] []).windowOk 0 8192 8192 true = true ∧
    (Tst.peer [] []).windowOk 0 8192 8193 true = false ∧ (Tst.peer [] []).windowOk 0 8192 8192 false = true ∧
    (Tst.peer [] []).windowOk 0 8192 8193 false = false := by decide
theorem witness_PeerFrames_segment : (Tst.peer [Tst.put] []).xfer 0 1 false = some Tst.put ∧ Tst.put.sending = false ∧
    (0 : Nat) = Tst.put.next ∧ (zeros 1024).length = (Tst.peer [Tst.put] []).segLen 0 Tst.put.total 0 ∧
    (Tst.put.loc + 0 * (Tst.peer [Tst.put] []).num Obj.peerSeg 0) % 64 = 0 ∧ (0 + 1024) % 64 = 0 := by
  refine ⟨by decide, rfl, rfl, ?_, by decide, by decide⟩
  rw [zeros, List.length_replicate]; decide
/-- A segment whose edge block, or none, is bad. -/
theorem witness_PeerFrames_edge :
    let s := Tst.peer [{ Tst.put with loc := 8 }] []
    let bad := { s with mem := { s.mem with badBlocks := [s.blockAt 0] } }
    (s.blocksRead [0, 16]).1 = true ∧ (bad.blocksRead [0, 16]).1 = false ∧
    ([8 / 64].foldl ins [] : List Nat) = [0] := by decide +kernel
theorem witness_PeerFrames_timer : ({ Tst.put with accepted := [7] } : Xfer).accepted = 7 :: [] ∧ Tst.put.accepted = [] := ⟨rfl, rfl⟩
theorem witness_PeerFrames_over : (Tst.peer [] [(1, false, 5)]).wasXfer 0 1 false = true ∧
    ((Tst.peer [] [(1, false, 5)]).peer 0).done.find? (fun d => d.1 == 1 && d.2.1 == false) = some (1, false, 5) := by decide
theorem witness_PeerFrames_written : ∀ p ∈ [(0, 0), (6, 7), (7, 0)],
    let t := { Tst.put with acked := p.1, next := 8, unacked := p.2 }
    let s := Tst.peer [t] []
    s.xfer 0 1 false = some t ∧ t.acked < t.next ∧ ((t.acked + 1 = s.segments 0 t.total) ↔ p.1 = 7) ∧ (8 ≤ t.unacked + 1 ↔ p.2 = 7) := by decide
theorem witness_PeerFrames_got :
    let t := { Tst.get with acked := 7, next := 8 }
    let s := Tst.peer [t] []
    s.xfer 0 1 true = some t ∧ t.acked < t.next ∧ t.acked + 1 = s.segments 0 t.total ∧ t.get = true := by decide
theorem witness_PeerFrames_flag : (Tst.peer [] []).num Obj.winFlag 0 = 0xFFFF ∧
    (Tst.set (Tst.peer [] []) [(Obj.winFlag, 0, 3)]).num Obj.winFlag 0 ≠ 0xFFFF := by decide
theorem witness_PeerFrames_ack : ∀ a ∈ [1, 8], (Tst.peer [Tst.sent] []).xferOf 0 { Tst.seg with ack := a } = some Tst.sent ∧
    Tst.sent.sending = true ∧ Tst.sent.acked < a ∧ a ≤ (Tst.peer [Tst.sent] []).segments 0 Tst.sent.total ∧
    (a = (Tst.peer [Tst.sent] []).segments 0 Tst.sent.total ↔ a = 8) := by decide
theorem witness_PeerFrames_resend : ∀ n ∈ [0, 8], ∀ t ∈ [{ Tst.sent with resends := n }, { Tst.get with resends := n }],
    (Tst.peer [t] []).xfer 0 1 true = some t ∧ ((t.sending = true ∧ t.acked < t.next) ∨
      (t.sending = false ∧ t.get = true ∧ t.next = 0 ∧ t.item.isSome = true)) := by decide
theorem witness_PeerFrames_enable : Turn Tst.on (Tst.cmd 1).req ∧ Writes Tst.on Obj.peerEnable 0 (peerEnableRule 0) (.num 1) :=
  ⟨Tst.turn, ⟨by decide, by decide, by decide, by decide, by decide⟩⟩

/-! ## Queues and items -/

/-- An entry of an opcode with CFLAGS, CONTEXT and ARGS. -/
def Tst.ent (op fl ctx : Nat) (args : Bytes) : Bytes := pad 64 (le 1 op ++ le 1 fl ++ le 2 ctx ++ zeros 12 ++ args)
def Tst.item (b : Bytes) : Item := Item.new 1 0 b 0 0 0 0 3 none
/-- Queue 3, of depth 8, enabled, with its submission ring on page 0, which holds the entry b. -/
def Tst.queue (b : Bytes) (f : Queue → Queue) : State :=
  let s := Tst.set (Tst.mem { Tst.entry with owner := 1 } id (fun m => { m with bytes := cputs [] 0 b }))
    [(Obj.qEnable, 3, 1), (Obj.qDepth, 3, 8), (Obj.sqHead, 3, 0), (Obj.sqTail, 3, 1), (Obj.qLastAccepted, 3, 0)]
  s.modQueue 3 (fun x => f { x with sqPages := some (0, 1) })

theorem witness_RingEntries_bells : Turn Tst.on Tst.req ∧ Tst.bell.pad = 0 ∧ Tst.bell.queue ≤ 63 ∧ Tst.on.num Obj.qEnable 0 = 0 := ⟨Tst.turn, by decide, by decide, by decide⟩
theorem witness_RingEntries_tail : Turn (Tst.queue [] id) Tst.req ∧ (Tst.queue [] id).num Obj.qEnable 3 ≠ 0 ∧
    (let n := sub32 8 ((Tst.queue [] id).num Obj.sqHead 3)
     n ≤ (Tst.queue [] id).num Obj.qDepth 3 ∧ sub32 ((Tst.queue [] id).num Obj.sqTail 3) ((Tst.queue [] id).num Obj.sqHead 3) ≤ n) ∧
    ¬ (sub32 9 ((Tst.queue [] id).num Obj.sqHead 3) ≤ (Tst.queue [] id).num Obj.qDepth 3) :=
  ⟨⟨by decide, by decide, by decide, by decide⟩, by decide, by decide, by decide⟩
theorem witness_RingEntries_heads : sub32 1 ((Tst.queue [] id).num Obj.cqHead 3) ≤
      (Tst.queue [] id).num Obj.qLastPosted 3 + 1 - (Tst.queue [] id).num Obj.cqHead 3 ∧
    ¬ sub32 2 ((Tst.queue [] id).num Obj.cqHead 3) ≤ (Tst.queue [] id).num Obj.qLastPosted 3 + 1 - (Tst.queue [] id).num Obj.cqHead 3 ∧
    (Tst.on.num Obj.evtHead ≤ 1 ∧ 1 ≤ Tst.on.num Obj.evtTail + 1) ∧ ¬ 2 ≤ Tst.on.num Obj.evtTail + 1 := by decide
/-- A MARKER goes on; an opcode 15 has no fields; a RUN of context 0 has no rights to page 0; a DETACH of a stream that is
not attached fails its precondition, with DEFER and without. -/
def Tst.marker : Bytes := Tst.ent 14 0 0xFFFF []
def Tst.run (fl : Nat) : Bytes := Tst.ent 1 fl 0 (le 8 0 ++ le 4 64 ++ le 2 0 ++ le 2 0 ++ le 4 0)
def Tst.detach (fl : Nat) : Bytes := Tst.ent 5 fl 0xFFFF (le 1 2)
theorem witness_RingEntries_read : (Tst.queue Tst.marker id).mayAccept 3 = true ∧ (Tst.queue Tst.marker id).frameHeld 3 = false ∧
    (Tst.queue Tst.marker id).num Obj.sqHead 3 ≠ (Tst.queue Tst.marker id).num Obj.sqTail 3 ∧
    ((Tst.queue Tst.marker id).queue 3).sqPages = some (0, 1) ∧ (Tst.queue Tst.marker id).mem.badBlocks.contains ((Tst.queue Tst.marker id).blockAt 0) = false := by
  decide +kernel
theorem witness_RingEntries_checks :
    (Tst.queue Tst.marker id).readBytes 0 64 = Tst.marker ∧
    (fieldsOk (Tst.ent 15 0 0xFFFF []) = false) ∧ fieldsOk (Tst.run 0) = true ∧ (Tst.queue (Tst.run 0) id).rightsOk (Tst.run 0) = false ∧
    fieldsOk Tst.marker = true ∧ (Tst.queue [] id).rightsOk Tst.marker = true ∧ (Tst.queue [] id).precond 3 1 Tst.marker = true ∧
    (∀ fl ∈ [0, 1], fieldsOk (Tst.detach fl) = true ∧ (Tst.queue [] id).rightsOk (Tst.detach fl) = true ∧
      (Tst.queue [] id).precond 3 1 (Tst.detach fl) = false ∧ (fld (Tst.detach fl) 1 1).testBit 0 = (fl == 1) ∧
      (Tst.queue [] id).lostRefused (Tst.detach fl) = false) := by decide +kernel
theorem witness_RingEntries_lost :
    let s := Tst.queue [] id
    ({ s with mem := { s.mem with badBlocks := [0] } } : State).blockLost 0 = true := by decide
theorem witness_Acceptances : ∀ b ∈ [Tst.marker, Tst.detach 1, Tst.ent 2 0 0 [], Tst.ent 3 0 0 []], ∀ d ∈ [true, false],
    let s := Tst.queue [] (fun x => { x with accepting := some (b, d) })
    (s.queue 3).accepting = some (b, d) ∧ s.accepts = true ∧ s.frameHeld 3 = false ∧ s.slotFree 3 = true := by decide +kernel
def Tst.frm : Frame :=
  { number := 7, csiFn := 7, sof := 100, sofMono := 100, epoch := 0, gen := 0, lines := [], ended := [], digest := 0, spilled := false
    dropped := false, set := none, tcause := 0, feTime := 200, feMono := 200, held := false }
def Tst.stream (f : Stream → Stream) (o : Nat) : State :=
  let s := (Tst.queue [] id).modStream 2 (fun x => f { x with attach := some (3, 1, 0), complete := [Tst.frm] })
  { s with link := { s.link with orphan := o } }
theorem witness_Acceptances_frames : ∀ o ∈ [0, 1], ((Tst.stream id o).stream 2).complete = [Tst.frm] ∧
    ((Tst.stream id o).stream 2).attach = some (3, 1, 0) ∧ (Tst.stream id o).accepts = true ∧ (Tst.stream id o).orphaned = (o != 0) ∧
    ((Tst.stream id o).queue 3).accepting = none ∧ (Tst.stream id o).slotFree 3 = true ∧ (Tst.stream id o).frameAhead 3 Tst.frm = false := by decide +kernel
theorem witness_Acceptances_full :
    let s := Tst.queue [] (fun x => { x with items := [{ Tst.item Tst.marker with seq := 9 }] })
    s.slotFree 3 = false := by decide

/-! ## Commands of a queue -/

/-- Queue 3 with one item of entry b, that it would take up. -/
def Tst.head (b : Bytes) (f : Item → Item) : State := Tst.queue [] (fun x => { x with items := [f (Tst.item b)] })
def Tst.takes (s : State) (op : Nat) (i : Item) : Bool := decide (s.itemFor 3 op = some i) && s.holdsFor 3 i
theorem Tst.takeUp {s : State} {op : Nat} {i : Item} (h : Tst.takes s op i = true) : TakesUp s 3 op i := by
  simp only [Tst.takes, Bool.and_eq_true, decide_eq_true_eq] at h; exact ⟨h.1, h.2⟩
def Tst.flagEnt (op : Nat) (c : Bool) : Bytes := Tst.ent op 0 0xFFFF (le 2 9 ++ le 1 (if c then 1 else 0))

theorem witness_QueueCommands_takes : ∀ op ∈ [6, 7, 8, 14],
    Tst.takes (Tst.head (Tst.flagEnt op false) id) op (Tst.item (Tst.flagEnt op false)) = true := by decide +kernel
theorem witness_QueueCommands_wait : ∀ c ∈ [true, false], (Tst.item (Tst.flagEnt 8 c)).consumes = c ∧ (Tst.item (Tst.flagEnt 8 c)).flag = 9 ∧
    (Tst.item (Tst.flagEnt 8 c)).waitFrom = none ∧ 9 ∉ Tst.on.work.flags ∧ (9 : Nat) ∈ [9] := by decide
theorem witness_QueueCommands_marker : (Tst.head Tst.marker id).earlierDone 3 1 = true ∧
    ((Tst.head Tst.marker id).modQueue 3 (fun x => { x with items := { Tst.item Tst.marker with seq := 0 } :: x.items })).earlierDone 3 1 = false := by
  decide
/-- Commands that name context 1, which is EMPTY or LOST as their preconditions must not find it. -/
theorem witness_QueueCommands_conflict : ∀ op ∈ [2, 3, 4, 5, 9, 10, 11, 12, 13], ∀ d ∈ [false, true],
    let i := { Tst.item (Tst.ent op 0 1 (le 1 2 ++ zeros 7 ++ le 8 (2 * pageBytes))) with deferred := d }
    let s := (Tst.head [] (fun _ => i)).modCtx 1 (fun x => { x with state := if op == 3 then .empty else .lost })
    s.itemFor 3 op = some i ∧ s.holdsFor 3 i = false ∧ i.deferred = d := by decide +kernel

/-- Context 1 is READY and holds page 0; the item of opcode op can be taken up. -/
def Tst.ready (op : Nat) (args : Bytes) : State :=
  (Tst.head (Tst.ent op 0 1 args) id).modCtx 1 (fun x => { x with state := .ready, allocs := [(0, 1)] })
theorem witness_ContextItems_takes : ∀ p ∈ [(11, le 4 1), (12, le 4 1 ++ zeros 4 ++ le 8 0), (13, le 4 64 ++ le 1 0 ++ zeros 3 ++ le 8 0),
      (4, le 1 2), (9, le 1 0 ++ zeros 7 ++ le 8 0 ++ le 8 0 ++ le 4 64), (10, le 1 0 ++ zeros 7 ++ le 8 0 ++ le 8 0 ++ le 4 64), (3, [])],
    Tst.takes (Tst.ready p.1 p.2) p.1 (Tst.item (Tst.ent p.1 0 1 p.2)) = true := by decide +kernel
theorem witness_ContextItems_still : (Tst.ready 11 []).ctxStill 1 = true ∧
    ((Tst.ready 11 []).modSlice 0 (fun x => { x with run := some { Tst.run0 with ctx := 1 } })).ctxStill 1 = false := by decide
theorem witness_ContextItems_alloc : (((Tst.ready 11 []).alloc 1 (ctxEntry 1 true true false false)).map (fun a => a.1)) = some 1 ∧
    (Tst.ready 11 []).alloc 737281 (ctxEntry 1 true true false false) = none := by decide +kernel
theorem witness_ContextItems_adopt : (Tst.ready 13 []).setFull (weightKey 1 0) = false ∧ (Tst.ready 13 []).work.openSet = none ∧
    ({ Tst.on with work := { Tst.on.work with openSet := some (List.replicate 256 (0, Val.num 0)) } } : State).setFull (weightKey 1 0) = true := by
  decide +kernel
theorem witness_ContextItems_attach : ((Tst.ready 4 []).stream 2).sets = none ∧ (Tst.ready 4 []).ctxStill 1 = true ∧
    ((Tst.set (Tst.ready 4 []) [(Obj.rawWidth, 2, 64), (Obj.rawHeight, 2, 2), (Obj.frameSets, 2, 3)]).takeSets 2 1 false).isSome = true ∧
    ((Tst.set (Tst.ready 4 []) ((List.range 12).map (fun k => (Obj.chState, k, 1)))).alloc 1 (ctxEntry 1 true false true false)) = none := by
  decide +kernel
theorem witness_ContextItems_detach : ∀ d ∈ [true, false],
    let i := { Tst.item (Tst.detach 0) with seq := 0, stream := some 2, state := if d then .done else .dispatched }
    let s := ((Tst.head (Tst.detach 0) id).modQueue 3 (fun x => { x with items := i :: x.items })).modStream 2 (fun x => { x with attach := some (3, 1, 0) })
    Tst.takes s 5 (Tst.item (Tst.detach 0)) = true ∧ (s.detachStream 2).streamDone 2 = d := by decide +kernel
theorem witness_ContextItems_put : ∀ w ∈ [true, false], (Tst.ready 9 []).ctxRights 1 w 0 64 = true ∧ (Tst.ready 9 []).ctxRights 0 w 0 64 = false ∧
    (Tst.ready 9 []).peerOn 0 = false ∧ (Tst.peer [] []).peerOn 0 = true ∧ (Tst.set (Tst.peer [] []) [(Obj.peerState, 0, 1)]).num Obj.peerState 0 ≠ 2 ∧
    ((Tst.peer [] []).peer 0).xfers.length < 16 ∧ (Tst.peer [] []).inFlight < 64 ∧
    ¬ ((Tst.peer (List.replicate 16 Tst.put) []).peer 0).xfers.length < 16 := by decide +kernel

def Tst.pkg (ok : Bool) : Package :=
  { headerOk := ok, geometry := [], programs := [], descriptors := [], windows := [], transforms := [], chains := [], actTabs := []
    origins := [], scales := [], formats := [], group4Tiles := [], complexTiles := [], lists := [], tsAlloc := 0, bankVecs := 4, flagsDeclared := []
    flagsSet := [], sliverRegions := [], kElements := [], filters := [], trained := [], pool := 2, resultBytes := 64, bufBytes := 128
    imagePages := 1, graphs := [{ programs := [], estUs := 100, segments := 2, perFrameUs := 10, splits := [] }], layers := [], splitParts := []
    weightSets := [], languageHead := false }
theorem witness_ContextItems_verify : pkgVerify (Tst.pkg true) 1 = none ∧ pkgVerify (Tst.pkg false) 1 ≠ none := by decide +kernel
theorem witness_ContextItems_load :
    let s := (Tst.head (Tst.ent 2 0 1 []) id)
    Tst.takes s 2 (Tst.item (Tst.ent 2 0 1 [])) = true ∧
    (match s.alloc (Tst.pkg true).imagePages (ctxEntry 1 true true false false) with
     | some (_, t) => (t.alloc (poolPages (Tst.pkg true)) (ctxEntry 1 true true false false)).isSome
     | none => false) = true ∧ s.runs P.scp = true := by decide +kernel
theorem witness_ContextItems_loaded :
    let s := (Tst.head (Tst.ent 2 0 1 []) id).modCtx 1 (fun x => { x with state := .loading, byItem := some (3, 1), pkg := some (Tst.pkg true) })
    (s.ctx 1).state = .loading ∧ (s.ctx 1).byItem = some (3, 1) ∧ (s.ctx 1).pkg = some (Tst.pkg true) ∧
    s.item 3 1 = some (Tst.item (Tst.ent 2 0 1 [])) := by decide +kernel
/-- The zeroing of an UNLOADING context has ended. -/
theorem witness_ContextItems_unloaded :
    let i := { Tst.item (Tst.ent 3 0 1 []) with executing := true }
    let s := (Tst.head (Tst.ent 3 0 1 []) (fun _ => i)).modCtx 1 (fun x => { x with state := .unloading, byItem := some (3, 1) })
    (s.ctx 1).state = .unloading ∧ (s.ctx 1).byItem = some (3, 1) ∧ s.item 3 1 = some i ∧ i.executing = true ∧
    s.runs P.scp = true ∧ (s.ctx 1).zeroing.any s.awaits = false := by decide +kernel
theorem test_ill_load : (Tst.pkg true).splitsWf = true ∧
    Instr.wf (.load 0 { Tst.pkg true with graphs := [{ programs := [], estUs := 100, segments := 2, perFrameUs := 10
                                                       splits := [(0, ⟨0, [], [], []⟩)] }] }) = false := by decide

/-! ## Jobs -/

/-- A ready job of context 1, in queue 3, with a free slice 0; its package's graph has two programs. -/
def Tst.job (t : Nat) (f : Item → Item) : State :=
  let k := { Tst.pkg true with languageHead := t != 0, graphs := [{ programs := [1, 2], estUs := 100, segments := 2, perFrameUs := 10, splits := [] }] }
  let s := Tst.set ((Tst.head (Tst.ent 1 0 1 (zeros 24)) (fun i => f { i with ready := true })).modCtx 1 (fun x => { x with state := .ready, pkg := some k }))
    [(Obj.ctxPool, 1, 2), (Obj.sliceState, 0, 0)]
  { s with slices := [(0, { Slice.init with off := false })] }
def Tst.jobItem : Item := { Tst.item (Tst.ent 1 0 1 (zeros 24)) with ready := true }

theorem witness_JobsRun_run : (Tst.job 0 id).nextRow 3 = none ∧ Tst.takes (Tst.job 0 id) 1 Tst.jobItem = true ∧ Tst.jobItem.batched = false := by decide +kernel
theorem witness_JobsRun_row : (Tst.job 4 id).nextRow 3 = some Tst.jobItem ∧ (Tst.job 4 id).runs P.scp = true ∧ (Tst.job 4 id).work.replayDone = true ∧
    ((Tst.job 4 id).queue 3).halted = false ∧ (Tst.job 4 id).holdsFor 3 Tst.jobItem = true := by decide +kernel
theorem witness_JobsRun_dispatch : (Tst.job 0 id).inService 0 = true ∧ ((Tst.job 0 id).slice 0).run = none ∧
    (best ((Tst.job 0 id).candidates 0)).map (fun c => (c.queue, c.item)) = some (3, Tst.jobItem) ∧
    (((Tst.job 0 id).endDummy 0).dispatch 0 { queue := 3, item := Tst.jobItem }).isSome = true ∧
    ((Tst.job 0 (fun i => { i with ready := false })).candidates 0).length = 0 := by decide +kernel
def Tst.beRun : Run := { Tst.run0 with queue := 3, klass := 2 }
def Tst.bestEffort (f : Work → Work) : State :=
  let s := (Tst.job 0 id).modSlice 0 (fun x => { x with run := some Tst.beRun, seq := { x.seq with halted := true } })
  { s with work := f s.work }
theorem witness_JobsRun_boundary : ((Tst.bestEffort id).slice 0).run = some Tst.beRun ∧ Tst.beRun.klass = 2 ∧
    ((Tst.bestEffort id).slice 0).seq.halted = true ∧ Tst.beRun.programs ≠ [] ∧ (Tst.bestEffort id).item Tst.beRun.queue Tst.beRun.seq = some Tst.jobItem ∧
    (Tst.bestEffort id).work.shedding = false ∧ (Tst.bestEffort id).work.idlePend = [] ∧ ((Tst.bestEffort id).readyFor 0).all (fun c => decide (2 ≤ c.item.prio)) = true ∧
    (Tst.bestEffort (fun w => { w with shedding := true })).work.shedding = true := by decide +kernel
def Tst.endRun (f : Run → Run) (h : Bool) : State :=
  (Tst.job 0 id).modSlice 0 (fun x => { x with run := some (f { Tst.run0 with queue := 3, programs := [] }), seq := { x.seq with halted := h } })
theorem witness_JobsRun_ends : ((Tst.endRun id true).slice 0).seq.halted = true ∧ (Tst.endRun id true).tasksOver 0 = true ∧
    ((Tst.endRun id true).slice 0).quiet = true ∧ ((Tst.endRun id false).slice 0).seq.halted = false ∧
    (Tst.endRun id true).item 3 1 = some Tst.jobItem ∧
    (((Tst.endRun (fun r => { r with recompute := some (1, 2) }) true).slice 0).run.map (fun r => (r.recompute, r.fail))) = some (some (1, 2), none) := by
  decide +kernel

theorem witness_CompletionsAndReplays_post : ∀ st ∈ [ItemState.dispatched, .done],
    let s := (Tst.head Tst.marker (fun i => { i with state := st })).modQueue 3 (fun x => { x with cqPages := some (0, 1) })
    s.runs P.scp = true ∧ s.work.replayDone = true ∧
    (s.queue 3).items.find? (fun i => i.state != .posted) = some { Tst.item Tst.marker with state := st } ∧ (s.queue 3).cqPages = some (0, 1) ∧
    Memory.wf s.mem.bytes = true ∧ (∀ j < 64, (s.entry ((0 * pageBytes + 64 * ((1 - 1) % s.num Obj.qDepth 3) + j) / pageBytes)).backed = true) ∧
    s.recordAt 3 1 = none ∧ 0 ≠ 1 := by
  decide +kernel
/-- The completion of sequence number 1 is written over page 0 alone, and the record lies in page 1. -/
theorem witness_CompletionsAndReplays_record :
    let s := (Tst.head Tst.marker (fun i => { i with state := .done })).modQueue 3 (fun x => { x with cqPages := some (0, 1), jslots := [0, 1, 2] })
    let t := { s with work := { s.work with journalAt := some (1, 1) }, mem := { s.mem with table := [(0, { Tst.entry with owner := 1 }), (1, { Tst.entry with owner := 1, slot := 1 })] } }
    t.recordAt 3 1 = some (pageBytes + 128) ∧ t.places 1 = [(0, 1)] ∧ ((t.entry 0).channel, (t.entry 0).slot) = (0, 0) ∧
    (((t.writeBytes 0 (Item.completion { Tst.item Tst.marker with state := .done } 1)).markPosted 3
      { Tst.item Tst.marker with state := .done }).noteChange (some 3)).entry 0 = t.entry 0 := by decide +kernel
theorem witness_CompletionsAndReplays_lost : (Tst.item Tst.marker).runs < 3 ∧ ({ Tst.item Tst.marker with attempt := 3 } : Item).attempt = 3 := by decide
theorem witness_CompletionsAndReplays_replay : ∀ ph ∈ [Phase.running, .starting],
    let s := { Tst.on with work := { Tst.on.work with replayDone := false }, rst := { Tst.on.rst with phase := ph } }
    s.work.replayDone = false ∧ s.runs P.scp = true ∧ (s.rst.phase = .running ∨ s.rst.phase = .starting) := by decide
/-- A completion of sequence number 1 stands in the ring, or does not. -/
theorem witness_CompletionsAndReplays_ring : ∀ n ∈ [0, 1],
    let s := (Tst.queue (le 8 n) id).modQueue 3 (fun x => { x with cqPages := some (0, 1) })
    s.inRing 3 { Tst.item Tst.marker with state := .done } = (n == 1) := by decide +kernel

theorem witness_WaitsEnd_head :
    let i := { Tst.item (Tst.flagEnt 8 false) with waitFrom := some 0, waitEnd := 100 * ms }
    (Tst.head (Tst.flagEnt 8 false) (fun _ => i)).nextItem 3 = some i ∧ i.waitFrom.isSome = true ∧ i.deferred = false := by decide +kernel
theorem witness_WaitsEnd_sequencer :
    ((Tst.slc { Slice.init with seq := { Seq.init with waitFlag := some (9, 100) } }).slice 0).seq.waitFlag = some (9, 100) := by decide
theorem witness_WaitsEnd_thread : ((Tst.core 0 (fun h => { h with wait := .flag 9 100 }) id).hart Tst.hid.num).wait = .flag 9 100 := by decide
def Tst.held (i : ObjRow × Nat) : Deferred := { key := i.1.key i.2, index := i.1.index i.2, sub := i.1.subAt i.2, value := .num 1, due := 100 }
def Tst.deferred (d : Deferred) : State := { Tst.on with work := { Tst.on.work with deferred := [d] } }
theorem witness_WaitsEnd_held : (Tst.deferred (Tst.held (Obj.flagSetCmd, 0))).work.deferred[0]? = some (Tst.held (Obj.flagSetCmd, 0)) ∧
    (Tst.deferred (Tst.held (Obj.flagSetCmd, 0))).runs P.dxp = true := by decide
theorem witness_WaitsEnd_graph :
    minBy id ((Tst.head (Tst.flagEnt 8 false) (fun i => { i with waitFrom := some 0 })).refreshBlocked.work.queues.filterMap (fun x => x.2.blockedSince)) =
      some 0 := by decide +kernel
theorem witness_WaitsEnd_cycles : [3] ∉ Tst.on.work.cycles ∧ [3] ∈ ({ Tst.on.work with cycles := [[3]] } : Work).cycles := by decide
theorem witness_WaitsEnd_deferred : ∀ d ∈ [true, false],
    let i := { Tst.item (Tst.detach 1) with deferred := true }
    let s := (Tst.head [] (fun _ => i)).modStream 2 (fun x => { x with attach := if d then some (3, 1, 0) else none })
    s.nextItem 3 = some i ∧ s.holdsFor 3 i = d ∧ s.runs P.scp = true := by decide +kernel
/-- Each outcome of a held write: FLAG_SET goes ahead, ORPHAN_RESUME waits for its state. -/
theorem witness_WaitsEnd_ready : Tst.on.deferredReady Obj.flagSetCmd 0 (writeRule Obj.flagSetCmd 0 true (.num 1)) (.num 1) = some 0 ∧
    Tst.on.deferredReady Obj.orphanResume 0 (writeRule Obj.orphanResume 0 true (.num 1)) (.num 1) = none ∧
    (findObj (Tst.held (Obj.flagSetCmd, 0)).index (Tst.held (Obj.flagSetCmd, 0)).sub).isSome = true := by decide +kernel

def Tst.drow : DecodeRow := { queue := 3, seq := 1, arrival := 0, bound := 5 }
/-- A batch of one row and a full one. -/
theorem witness_BatchesAndWindows_batch : ∀ n ∈ [1, 128],
    let s := (Tst.job 4 id).modCtx 1 (fun x => { x with decode := List.replicate n Tst.drow })
    (s.ctx 1).decode = Tst.drow :: List.replicate (n - 1) Tst.drow ∧ (s.ctx 1).pkg.map pkgTarget = some 128 := by decide +kernel
theorem witness_BatchesAndWindows_idle : Tst.on.runs P.scp = true ∧ Tst.on.work.replayDone = true ∧ (∀ n < 6, (Tst.on.slice n).run = none) ∧
    (∃ n < 6, ((Tst.bestEffort id).slice n).run ≠ none) := by
  refine ⟨by decide, by decide, by decide, 0, by decide, by decide⟩
def Tst.epoch : Epoch := { num := 1, time := 5, mono := 5, changes := [], waiting := [2], complete := false }
theorem witness_BatchesAndWindows_silent :
    ({ Tst.on.work with epochs := [Tst.epoch] } : Work).epochs.find? (fun e => e.waiting.contains 2) = some Tst.epoch := by decide

/-! ## Command objects -/

def Tst.writes (s : State) (r : ObjRow) (k : Nat) (w : WriteRule) (v : Val) : Bool :=
  r.inRange v && w.check s v && !(s.work.deferred.any (fun d => d.key == r.key k)) && s.runs r.owner && w.pre s v == 0
theorem Tst.write {s : State} {r : ObjRow} {k : Nat} {w : WriteRule} {v : Val} (h : Tst.writes s r k w v = true) : Writes s r k w v := by
  simp only [Tst.writes, Bool.and_eq_true, Bool.not_eq_true', beq_iff_eq] at h
  exact ⟨h.1.1.1.1, h.1.1.1.2, h.1.1.2, h.1.2, h.2⟩

theorem witness_ObjectCommands_turn : Turn Tst.on Tst.req := Tst.turn
theorem witness_ObjectCommands_flags : Writes Tst.on Obj.flagSetCmd 0 flagSetRule (.num 1023) ∧
    (∀ b, Writes Tst.on Obj.flagClrCmd 0 (flagClrRule b) (.num 0)) :=
  ⟨Tst.write (by decide), fun b => by cases b <;> exact Tst.write (by decide)⟩
def Tst.openSet : State := { Tst.on with work := { Tst.on.work with openSet := some [] } }
theorem witness_ObjectCommands_epochs : Writes Tst.on Obj.epochOpen 0 epochOpenRule (.num 1) ∧ Tst.openSet.work.openSet = some [] ∧
    Writes Tst.openSet Obj.epochCommit 0 epochCommitRule (.num 1) ∧ Writes Tst.openSet Obj.epochDiscard 0 epochDiscardRule (.num 1) :=
  ⟨Tst.write (by decide), rfl, Tst.write (by decide), Tst.write (by decide)⟩
/-- A queue that may open, one that may close, and one whose head can be aborted. -/
def Tst.closed : State := Tst.set (Tst.mem Tst.entry id id) [(Obj.qDepth, 3, 8), (Obj.qEnable, 3, 0)]
theorem witness_ObjectCommands_queues :
    Tst.writes (Tst.closed.taken Tst.req Obj.qEnable 3) Obj.qEnable 3 (qEnableRule 3) (.num 1) = true ∧ Tst.closed.num Obj.qEnable 3 = 0 ∧
    Tst.writes ((Tst.queue [] id).taken Tst.req Obj.qEnable 3) Obj.qEnable 3 (qEnableRule 3) (.num 0) = true ∧ (Tst.queue [] id).num Obj.qEnable 3 = 1 ∧
    Tst.writes Tst.closed Obj.qDepth 3 (qDepthRule 3) (.num 64) = true := by decide +kernel
theorem witness_ObjectCommands_abort :
    let s := Tst.head (Tst.flagEnt 8 false) (fun i => { i with waitFrom := some 0 })
    (s.queue 3).items.find? (fun i => !i.isDone) = some { Tst.item (Tst.flagEnt 8 false) with waitFrom := some 0 } ∧
    Tst.writes s Obj.qAbortHead 0 qAbortRule (.num 3) = true := by decide +kernel
/-- A sensor profile, and a camera of 640 × 480 on port 0. -/
def Tst.profile : Bytes :=
  le 1 1 ++ le 1 1 ++ le 1 0 ++ le 1 0x10 ++ le 1 1 ++ zeros 7 ++ le 1 1 ++ zeros 3 ++ le 4 1000 ++ zeros 2 ++ le 1 1 ++ zeros 5 ++ le 4 0
    ++ le 4 100000 ++ le 2 256 ++ le 2 0 ++ zeros 24
def Tst.camera (on : Nat) (f : Raw → Raw) : State :=
  let s := Tst.set (Tst.mem Tst.entry id id) [(Obj.rawPort, 2, 0), (Obj.rawVc, 2, 4), (Obj.rawDt, 2, 0x2B), (Obj.rawWidth, 2, 640),
    (Obj.rawHeight, 2, 480), (Obj.rawFpsMax, 2, 30), (Obj.rawEnable, 2, on), (Obj.aeMode, 2, 1), (Obj.csiLanes, 0, 4), (Obj.csiRate, 0, 2500)]
  (s.setBlob Obj.sensorProfile 2 Tst.profile).modStream 2 (fun x => { x with raw := f { x.raw with spillAt := some (4, 38) } })
theorem witness_ObjectCommands_cameras :
    Tst.writes ((Tst.camera 0 id).taken Tst.req Obj.rawEnable 2) Obj.rawEnable 2 (rawEnableRule 2) (.num 1) = true ∧ (Tst.camera 0 id).rawOn 2 = false ∧
    Tst.writes ((Tst.camera 1 id).taken Tst.req Obj.rawEnable 2) Obj.rawEnable 2 (rawEnableRule 2) (.num 0) = true ∧ (Tst.camera 1 id).rawOn 2 = true ∧
    (Tst.camera 1 id).admitted 2 = true ∧ Tst.writes (Tst.camera 1 id) Obj.expoReq 2 (expoReqRule 2) (.num (256 * 2 ^ 32 + 1000)) = true ∧
    Tst.writes (Tst.camera 1 id) Obj.sensorRetry 2 (sensorRetryRule 2) (.num 1) = true := by decide +kernel
theorem witness_ObjectCommands_sessions :
    let s := Tst.set Tst.on [(Obj.srcEnable, 2, 1)]
    Tst.writes (s.taken Tst.req Obj.srcEnable 2) Obj.srcEnable 2 (srcEnableRule 2) (.num 0) = true ∧ s.srcOn 2 = true ∧
    Tst.writes Tst.on Obj.dpMode 0 (dpModeRule 0) (.num 1) = true := by decide +kernel
theorem witness_ObjectCommands_safe :
    Tst.writes ({ Tst.on with link := { Tst.on.link with orphan := 1 } } : State) Obj.orphanResume 0 orphanResumeRule (.num 1) = true ∧
    Tst.writes Tst.on Obj.safeForce 0 safeForceRule (.num 1) = true ∧
    Tst.writes ({ Tst.on with safety := { Tst.on.safety with causes := 32 } } : State) Obj.safeForce 0 safeForceRule (.num 2) = true := by
  decide +kernel

/-- An encode request of a kind for stream 2. -/
def Tst.enc (t q : Nat) : Bytes :=
  le 1 t ++ le 1 2 ++ le 1 0 ++ le 1 q ++ le 2 7 ++ le 2 (if t == 1 then 30 else 0) ++ le 4 (if t == 1 then 100 else 0) ++ le 4 (if t == 1 then 5000 else 0)
    ++ le 8 0 ++ le 4 4096 ++ zeros 4
theorem witness_ObjectCommands_encodes :
    Tst.writes (Tst.camera 1 id) Obj.encReq 0 encRule (.blob (Tst.enc 1 0)) = true ∧ fld (Tst.enc 1 0) 0 1 = 1 ∧
    Tst.writes (Tst.camera 1 id) Obj.encReq 0 encRule (.blob (Tst.enc 2 50)) = true ∧ fld (Tst.enc 2 50) 0 1 ≠ 1 := by decide +kernel
theorem witness_ObjectCommands_stage :
    (Tst.mem Tst.entry id id).inactive = some 1 ∧
    Tst.writes (Tst.mem Tst.entry id id) Obj.updStage 0 updStageRule (.blob (le 8 0 ++ le 4 8192 ++ zeros 4)) = true := by decide +kernel
theorem witness_ObjectCommands_trust : Tst.writes Tst.on Obj.attNonce 0 attNonceRule (.blob (zeros 32)) = true := by decide +kernel

/-! ## Cameras -/

/-- The frame that the camera of stream 2 receives, at line y of exposure 0. -/
def Tst.cur (y : Nat) (e : List Nat) : Frame := { Tst.frm with lines := [(0, y)], ended := e }
def Tst.cam (f : Option Frame) (vc : Nat) : State := Tst.set (Tst.camera 1 (fun r => { r with cur := f })) [(Obj.rawVc, 2, vc)]

theorem witness_CameraFrames_start : ∀ f ∈ [none, some (Tst.cur 480 []), some (Tst.cur 480 [0])],
    let s := Tst.cam f 4
    s.power.tripped = false ∧ s.rawStream 0 0 = some (2, 0) ∧ (s.stream 2).raw.cur = f := by decide +kernel
/-- A second exposure starts its lines. -/
theorem witness_CameraFrames_second :
    let s := Tst.cam (some (Tst.cur 480 [])) 8
    s.rawStream 0 1 = some (2, 1) ∧ (s.stream 2).raw.cur = some (Tst.cur 480 []) ∧ (Tst.cur 480 []).lines.any (fun l => l.1 == 1) = false := by
  decide +kernel
/-- Lines of 640 samples: taken up to line 479. -/
theorem witness_CameraFrames_line :
    let s := Tst.cam (some (Tst.cur 479 [])) 4
    s.rawStream 0 0 = some (2, 0) ∧ (0 : Nat) ≤ 3 ∧ (0x10 : Nat) ≤ 0x2B ∧ s.num Obj.rawDt 2 = 0x2B ∧
    (Tst.cur 479 []).lines.any (fun l => l.1 == 0) = true ∧ tget 0 (Tst.cur 479 []).lines 0 = 479 ∧ s.lineSamples 2 = 640 ∧
    s.num Obj.rawHeight 2 = 480 ∧ (∀ k < s.exposures 2, k = 0) := by decide +kernel
theorem witness_CameraFrames_end : ∀ p ∈ [(479, 4, []), (480, 4, []), (480, 8, [])],
    let f := Tst.cur p.1 p.2.2
    let s := Tst.cam (some f) p.2.1
    s.rawStream 0 0 = some (2, 0) ∧ (s.stream 2).raw.cur = some f ∧ f.lines.any (fun l => l.1 == 0) = true ∧
    (decide (∀ k < s.exposures 2, k ∈ ins f.ended 0) = (p.2.1 == 4)) := by decide +kernel
/-- A pipe with one spilled frame to take, and one with a frame to finish. -/
theorem witness_CameraFrames_spill :
    let s := Tst.camera 1 (fun r => { r with spill := [Tst.frm] })
    s.media.m2m = [] ∧
    minBy (fun (x : Nat × Frame) => x.2.sofMono) ((List.range 48).flatMap (fun n =>
      if s.num Obj.ispPipe n == 0 || s.num Obj.ispPipe n == 0xFF then (s.stream n).raw.spill.map (fun f => (n, f)) else [])) =
      some (2, Tst.frm) := by decide +kernel
def Tst.m2m (on : Nat) (f : Frame) : State :=
  let s := Tst.camera on id
  { s with media := { s.media with m2m := [(0, 2, f)] } }
theorem witness_CameraFrames_done : ∀ on ∈ [0, 1], ∀ d ∈ [true, false],
    let f := { Tst.frm with dropped := d }
    (Tst.m2m on f).media.m2m.find? (fun m => m.1 == 0) = some (0, 2, f) ∧ (Tst.m2m on f).rawOn 2 = (on == 1) := by decide +kernel

theorem witness_SensorWrites_start :
    let s := Tst.camera 1 (fun r => { r with request := some (1000, 5) })
    s.admitted 2 = true ∧ s.runs P.mdp = true ∧ (s.stream 2).raw.initLeft = 0 ∧ (s.stream 2).raw.writeLeft = 0 ∧
    (s.stream 2).raw.sensorFault = false ∧ (s.stream 2).raw.blanking = true ∧ (s.stream 2).trunc = false ∧
    (s.nextGen 2).map (fun g => g.1) = some { num := 1, expoUs := 1000, gain := 5, effective := none } := by decide +kernel
def Tst.gen : Gen := { num := 1, expoUs := 1000, gain := 5, effective := none }
/-- The bus carries stream 2's writes: k of them left, a attempts made. -/
def Tst.bus (k a : Nat) (i : Nat) : State :=
  let s := Tst.camera 1 (fun r => { r with writing := some Tst.gen, writeLeft := k, attempts := a, initLeft := i })
  { s with media := { s.media with i2c := [(0, 2)] } }
theorem witness_SensorWrites_transaction : ∀ p ∈ [(1, 0, 0), (2, 1, 0), (2, 2, 0), (2, 0, 3)],
    let s := Tst.bus p.1 p.2.1 p.2.2
    s.runs P.mdp = true ∧ minBy (fun (i : Nat × Nat) => (s.stream i.2).lastSofMono * 64 + i.2) (s.media.i2c.filter (fun i => i.1 == 0)) = some (0, 2) ∧
    (s.stream 2).raw.writing = some Tst.gen ∧ ((genWrites (s.profile 2) Tst.gen)[(genWrites (s.profile 2) Tst.gen).length - p.1]?).isSome = true ∧
    (s.stream 2).raw.initLeft = p.2.2 ∧ (s.stream 2).raw.attempts = p.2.1 := by decide +kernel
theorem witness_SensorWrites_pulse : (Tst.set Tst.on [(Obj.fsEnable, 0, 1)]).num Obj.fsEnable 0 ≠ 0 ∧ tfind Tst.on.pins.fsyncLast 0 = none := by
  decide

/-! ## Compressed streams -/

/-- Data port 0 with its link, its address, and peer 0 of that port. -/
def Tst.port : State :=
  Tst.set Tst.on [(Obj.dpMode, 0, 1), (Obj.dpLink, 0, 1), (Obj.dpIp4, 0, 0xC0A80001), (Obj.peerEnable, 0, 1), (Obj.peerPort, 0, 0), (Obj.peerUdpLocal, 0, 4840)]
def Tst.crcOk (b : Bytes) : Bool := decide (36 ≤ b.length) && ofBe (b.drop (b.length - 4)) == crc32 (b.take (b.length - 4))
def Tst.withCrc (b : Bytes) : Bytes := b ++ be 4 (crc32 b)

theorem witness_IngestStreams_port : Tst.port.power.tripped = false ∧ Tst.port.num Obj.dpMode 0 ≠ 0 ∧ Tst.port.num Obj.dpLink 0 ≠ 0 ∧
    Tst.frame.bytes ≤ 9216 ∧ Tst.frame.fcsOk = true ∧ Tst.frame.fragment = false ∧ Tst.port.dpOwn 0 0xC0A80001 = true ∧
    Tst.port.dpOwn 0 0xC0A80002 = false ∧ Tst.port.sessionOf 0 0 4840 0 = none ∧ Tst.port.peerOf 0 4841 Tst.src = none := by decide +kernel
theorem witness_IngestStreams_session :
    let s := Tst.set Tst.port [(Obj.srcEnable, 2, 1), (Obj.srcPort, 2, 0), (Obj.srcUdp, 2, 5004), (Obj.srcVlan, 2, 0)]
    s.sessionOf 0 (s.ipOf Obj.srcAddr 2) 5004 0 = some 2 := by decide +kernel
theorem witness_IngestStreams_peer :
    let s := Tst.set Tst.port [(Obj.peerUdp, 0, 7000)]
    (s.setBlob Obj.peerAddr 0 (be 16 1)).peerOf 0 4840 Tst.src = some (0 : PeerId).val := by decide +kernel
theorem witness_IngestStreams_frames : Tst.crcOk (Tst.withCrc (le 1 1 ++ le 1 2 ++ zeros 30)) = true ∧ fld (le 1 1 ++ le 1 2 ++ zeros 30) 0 1 = 1 ∧
    fld (le 1 1 ++ le 1 2 ++ zeros 30) 1 1 = 2 ∧ Tst.crcOk (zeros 36) = false ∧ Tst.crcOk (Tst.withCrc (zeros 32)) = true ∧
    ofBe (cut (Tst.withCrc (le 1 1 ++ le 1 2 ++ zeros 30)) 28 2) = (peerFields (Tst.withCrc (le 1 1 ++ le 1 2 ++ zeros 30))).data.length := by decide +kernel

def Tst.pkt (q : BitVec 16) : RtpPacket :=
  { version := 2, pt := 96, ssrc := 7, seq := q, ts := 0, marker := false, supported := true, refPic := true, irap := true, body := [] }
def Tst.srcStream (f : Ingest → Ingest) : State :=
  (Tst.set Tst.port [(Obj.srcEnable, 2, 1), (Obj.srcPort, 2, 0), (Obj.srcPt, 2, 96), (Obj.srcWidth, 2, 640), (Obj.srcHeight, 2, 480)]).modIng 2
    (fun g => f { g with ssrc := some 7 })
def Tst.heldPkt (e : Nat) : Held := { ext := e, pkt := Tst.pkt (BitVec.ofNat 16 e), arrived := 5, lode := 5, epoch := 0 }
theorem witness_IngestStreams_packet : (Tst.srcStream id).srcOn 2 = true ∧ (Tst.srcStream id).num Obj.dpLink ((Tst.srcStream id).num Obj.srcPort 2) ≠ 0 ∧
    (Tst.pkt 3).pt = (Tst.srcStream id).num Obj.srcPt 2 ∧ ((Tst.srcStream id).stream 2).ing.ssrc = some (Tst.pkt 3).ssrc ∧
    ((Tst.srcStream (fun g => { g with ssrc := some 9 })).stream 2).ing.ssrc = some 9 ∧
    ((Tst.srcStream (fun g => { g with held := [Tst.heldPkt 65539] })).stream 2).ing.held.any (fun h => h.ext == extSeq none 3) = true := by
  decide +kernel
/-- Released up to 65540: 65539 is a duplicate, or late where it was lost, 65541 is held. -/
theorem witness_IngestStreams_order : extSeq (some 65540) 3 = 65539 ∧ extSeq (some 65540) 5 = 65541 ∧ extSeq (some 131071) 0 = 131072 ∧
    (65536 ≤ 65539 ∧ 65539 ∉ ([] : List Nat)) ∧ ¬ (65536 ≤ 65539 ∧ 65539 ∉ [65539]) := by decide
theorem witness_IngestStreams_release :
    minBy (fun (h : Held) => h.arrived) ((Tst.srcStream (fun g => { g with held := [Tst.heldPkt 65539] })).stream 2).ing.held = some (Tst.heldPkt 65539) ∧
    (Tst.srcStream id).num Obj.srcSsrc 2 = 0 ∧ ((Tst.srcStream id).stream 2).ing.stalled = false := by decide +kernel

def Tst.unit : AccessUnit :=
  { ts := 0, sof := 5, sofMono := 5, epoch := 0, packets := 1, lost := 0, irap := true, refPic := true, ssrc := 7, body := [], number := 1, done := 9
    set := some 0, concealed := false, width := 640, height := 480 }
theorem witness_IngestStreams_decode :
    let s := Tst.set (Tst.srcStream (fun g => { g with units := [Tst.unit] })) [(Obj.decCore, 2, 1)]
    s.media.decoding.any (fun d => d.1 == 1) = false ∧
    minBy (fun (x : Nat × AccessUnit) => x.2.done) ((List.range 48).flatMap (fun n =>
      if s.srcOn n && s.num Obj.decCore n == 1 then ((s.stream n).ing.units.take 1).map (fun u => (n, u)) else [])) = some (2, Tst.unit) := by
  decide +kernel
def Tst.dend (err : Bool) (w : Nat) : DecodeEnd := { error := err, conforms := true, width := w, height := 480, timecode := 0 }
/-- The core of a disabled stream and of an enabled one, a unit that fits and one beyond the admitted width, in FAULT and not. -/
theorem witness_IngestStreams_decoded : ∀ on ∈ [0, 1], ∀ w ∈ [640, 642], ∀ fault ∈ [false, true], ∀ irap ∈ [false, true],
    let s := Tst.set (Tst.srcStream (fun g => { g with fault := fault })) [(Obj.srcEnable, 2, on)]
    let t := { s with media := { s.media with decoding := [(1, 2, { Tst.unit with irap := irap })] } }
    t.media.decoding.find? (fun d => d.1 == 1) = some (1, 2, { Tst.unit with irap := irap }) ∧ t.srcOn 2 = (on == 1) ∧ (t.stream 2).ing.fault = fault ∧
    (decide ((Tst.dend true w).conforms = true ∧ w ≤ t.num Obj.srcWidth 2 ∧ 480 ≤ t.num Obj.srcHeight 2) = (w == 640)) := by decide +kernel
theorem witness_IngestStreams_conversion : ∀ a ∈ [none, some (3, 1, 0)],
    let s := (Tst.srcStream (fun g => { g with converting := [Tst.unit] })).modStream 2 (fun x => { x with attach := a, sets := some (4, 2, 1) })
    (s.stream 2).ing.converting = [Tst.unit] ∧ s.runs P.scp = true ∧ s.runs P.mdp = true ∧ s.work.replayDone = true ∧ s.setAddr 2 Tst.unit.set = some (4 * pageBytes) ∧
    (s.stream 2).attach = a := by decide +kernel
def Tst.clip : Clip := { since := 0, req := Tst.enc 1 0, frames := 3, used := 300, sof := 5, ending := some 0, core := 0 }
theorem witness_IngestStreams_clip : ((Tst.on.modStream 2 (fun x => { x with clip := some Tst.clip })).stream 2).clip = some Tst.clip := by decide +kernel
def Tst.snap : Snap := { stream := 2, since := 0, req := Tst.enc 2 50, sof := some 5 }
theorem witness_IngestStreams_snap : ({ Tst.on with media := { Tst.on.media with snaps := [Tst.snap] } } : State).media.snaps = [Tst.snap] ∧
    Tst.snap.sof = some 5 ∧ Tst.snap.stream = ((2 : StreamId) : Nat) := ⟨rfl, rfl, rfl⟩

/-! ## The host link -/

def Tst.other : Req := { Tst.req with src := { Tst.src with port := 7001 } }
theorem witness_SessionOrder_holder : Tst.on.hostUp = true ∧ Tst.on.recovering = false ∧ Tst.on.holder Tst.req = true ∧ Tst.on.holder Tst.other = false ∧
    Tst.on.link.expected = some 9 := by decide
def Tst.resp : Resp := { type := 0x83, dst := Tst.src, session := 5, seq := 8, status := 0, body := [], sa := none }
theorem witness_SessionOrder_seq : ({ Tst.on.link with stored := [Tst.resp] } : Link).stored.find? (fun x => x.seq == 8) = some Tst.resp ∧
    Tst.on.link.stored.find? (fun x => x.seq == 73) = none ∧ ((73 : Word) - 9).toNat ≤ 64 ∧ 64 < ((74 : Word) - 9).toNat ∧
    Tst.on.link.held.any (fun h => h.1 == 73) = false ∧ ((0 : Word) - 0xFFFFFFC0).toNat ≤ 64 := by decide
theorem witness_SessionOrder_hold :
    ({ Tst.on.link with held := [(10, .heatDecay, 7)] } : Link).held.find? (fun h => h.1 == 10) = some (10, .heatDecay, 7) := by decide
theorem witness_SessionOrder_claim : Tst.on.link.lease = .held ∧ List.replicate 16 1 ≠ Tst.on.link.hostId ∧
    (∀ p ∈ [0, 100, 60000], p = 0 ∨ (100 ≤ p ∧ p ≤ 60000)) ∧ (∀ p ∈ [99, 60001], p ≠ 0 ∧ (p < 100 ∨ 60000 < p)) ∧ Tst.on.link.heldFor = none := by
  decide
theorem witness_SessionOrder_turn : Turn Tst.on Tst.req := Tst.turn

/-- Page 0 may be read and written by the host, page 1 may not. -/
theorem witness_HostMemory_pages :
    let s := Tst.mem Tst.entry id id
    s.rst.memHeld = false ∧ s.pagesOk (fun e => e.hrd) 0 1408 = true ∧ s.pagesOk (fun e => e.hwr) 0 1408 = true ∧
    s.pagesOk (fun e => e.hrd) (pageBytes - 1) 2 = false ∧ s.pagesOk (fun e => e.hwr) (pageBytes - 1) 2 = false ∧
    (∀ b ∈ blocksOf 0 1408, s.mem.badBlocks.contains (s.blockAt (b * 64)) = false) := by decide +kernel
/-- Handles of each state of context 1's buffer 0 of generation 7, which has 128 readable bytes. -/
def Tst.bufs (b : BufState) : State :=
  (Tst.job 0 id).modCtx 1 (fun x => { x with bufs := [(0, { state := b, gen := 7, len := 64, readable := 128 })] })
theorem witness_HostMemory_handles : (Tst.bufs .pending).handleFinds (bufHandle 1 7 0) = 0 ∧ (Tst.bufs .ready).handleFinds (bufHandle 1 7 0) = 1 ∧
    (Tst.bufs .ready).handleFinds (bufHandle 1 6 0) = 2 ∧ (Tst.bufs .released).handleFinds (bufHandle 1 7 0) = 2 ∧
    (Tst.bufs .ready).handleFinds (bufHandle 1 7 2) = 3 ∧ (Tst.bufs .ready).handleFinds (bufHandle 2 7 0) = 3 ∧
    (tget Buf.free ((Tst.bufs .ready).ctx 1).bufs 0).readable = 128 := by decide +kernel
theorem witness_HostMemory_sync : (Tst.set Tst.on [(Obj.fwState, P.scp, 1)]).runs P.scp = false ∧
    ({ Tst.on with link := { Tst.on.link with syncAt := some (5, 1) } } : State).link.syncAt = some (5, 1) := by decide

/-! ## The dictionary, the mailbox and the ports -/

theorem witness_DictionaryWrites_read : Tst.req.session ≠ 0 ∧ openObject 0x1000 1 = true ∧ openObject 0x2010 3 = true ∧ openObject 0x2010 2 = false ∧
    Tst.on.lookup 0x0FFF 1 = none ∧ ((Tst.on.lookup 0x1000 1).isSome = true) := by decide +kernel
theorem witness_DictionaryWrites_found : ∀ r ∈ [Obj.flagSetCmd, Obj.mbData, Obj.serial], (findObj (r.index 0) (r.subAt 0)).map (fun x => x.1.name) = some r.name := by
  decide +kernel
/-- A staged segment of MB_DATA that the next one runs on from. -/
theorem witness_DictionaryWrites_segment :
    let s := { Tst.on with link := { Tst.on.link with staged := some (Obj.mbData.key 0, [1, 2], 0) } }
    s.link.staged = some (Obj.mbData.key 0, [1, 2], 0) ∧ ([1, 2] : Bytes).length = 2 ∧ s.clk.now ≤ 0 + 1000 * ms ∧ 8 < Obj.mbData.otype ∧
    Obj.flagSetCmd.otype ≤ 8 ∧ Obj.serial.access = 1 ∧ Obj.flagSetCmd.access ≠ 1 := by decide
/-- An object of each apply class, and each failing check of R369. -/
theorem witness_DictionaryWrites_checks :
    let s := Tst.on
    (Obj.flagSetCmd.inRange (.num 1024) && flagSetRule.check s (.num 1024)) = false ∧ (Obj.flagSetCmd.inRange (.num 1023) && flagSetRule.check s (.num 1023)) = true ∧
    ({ s.work with deferred := [Tst.held (Obj.flagSetCmd, 0)] } : Work).deferred.any (fun d => d.key == Obj.flagSetCmd.key 0) = true ∧
    (Tst.set s [(Obj.fwState, Obj.flagSetCmd.owner, 1)]).runs Obj.flagSetCmd.owner = false ∧
    orphanResumeRule.pre s (.num 1) = St.stateConflict ∧ Obj.orphanResume.access ≠ 4 ∧ flagSetRule.pre s (.num 1) = 0 := by decide +kernel
theorem witness_DictionaryWrites_classes : (∀ c ∈ [0, 1, 2, 3], Obj.rows.any (fun r => r.aclass % 4 == c) = true) ∧
    Obj.rows.any (fun r => decide (4 ≤ r.aclass % 8)) = true := by decide +kernel
theorem witness_DictionaryWrites_deferred : Tst.on.work.deferred.length < 16 ∧ 16 ≤ (List.replicate 16 (Tst.held (Obj.flagSetCmd, 0))).length :=
  ⟨by decide, Nat.le_of_eq List.length_replicate.symm⟩

def Tst.mb (a : Bytes) (ph : Phase) : State :=
  { Tst.on.setBlob Obj.mbArg 0 a with rst := { Tst.on.rst with phase := ph } }
theorem witness_Mailbox : ∀ ph ∈ [Phase.running, .recovery],
    let s := Tst.mb (le 4 0 ++ le 4 4096) ph
    s.hostUp = true ∧ s.holder Tst.req = true ∧ s.link.expected.getD Tst.req.seq = Tst.req.seq ∧
    s.work.deferred.any (fun d => d.key == Obj.mbCmd.key 0) = false ∧ fld (s.blob Obj.mbArg) 0 4 = 0 ∧ s.fw.due = none ∧
    s.recovering = (ph == .recovery) ∧ fld (s.blob Obj.mbArg) 0 1 ≤ 1 ∧ 4096 ≤ fld (s.blob Obj.mbArg) 4 4 ∧ fld (s.blob Obj.mbArg) 4 4 ≤ 33550336 := by
  decide +kernel
theorem witness_Mailbox_parts : fld (le 4 1024) 0 4 ≠ 0 ∧ fld (le 4 1024) 0 4 < 2000 := by decide +kernel
theorem witness_Mailbox_image : ∀ n ∈ [1024, 4096],
    let s := Tst.mb (le 4 1024) .recovery
    let t := { s with trust := { s.trust with image := some (1, 4096, n) } }
    t.trust.image = some (1, 4096, n) ∧ (decide (fld (t.blob Obj.mbArg) 0 4 = n) = (n == 1024)) ∧ (decide (4096 ≤ n) = (n == 4096)) := by
  decide +kernel

theorem witness_PortsAndTime : Tst.on.hostUp = true ∧ Tst.on.link.lease = .held ∧ Tst.on.link.up = true ∧ Tst.on.rst.phase ≠ .powerReset ∧
    (∀ k ∈ [0, 1, 2], (Tst.set Tst.on [(Obj.ltState, 0, k)]).num Obj.ltState = k) ∧
    ({ Tst.on.link with timer := some 5 } : Link).timer = some 5 ∧ Tst.on.link.timer = none := by decide
theorem witness_PortsAndTime_offset : ((5 : Int) - 0).natAbs ≤ Tst.on.num Obj.ltStepNs ∧
    Tst.on.num Obj.ltStepNs < ((2 ^ 60 : Int) - 0).natAbs := by decide
theorem witness_PortsAndTime_frames : Tst.frame.bytes ≤ 1554 ∧ Tst.frame.fcsOk = true ∧ Tst.frame.toUs = true ∧ Tst.frame.ipOk = true ∧
    carriesUdp Tst.frame = false ∧ Tst.frame.fragment = false ∧ (Tst.on.macsecRx Tst.frame).1 = true := by decide +kernel
theorem witness_PortsAndTime_macsec :
    let s := Tst.set Tst.on [(Obj.macsecMode, 0, 2)]
    s.num Obj.macsecMode = 2 ∧ Tst.frame.prot = .unprotected ∧ s.excepted { Tst.frame with payload := .arp 0 } = true ∧ s.excepted Tst.frame = false := by
  decide +kernel
theorem witness_PortsAndTime_safety :
    let s := Tst.on.setBlob Obj.spIp 0 (be 16 (0xFFFF * 2 ^ 32 + 0xC0A80001))
    s.isSpIp true 0xC0A80001 = true ∧ s.isSpIp true 0xC0A80002 = false := by decide +kernel

/-! ## Safety, processors and updates -/

theorem witness_SafetyTimers_streams :
    let s := Tst.on.modStream 2 (fun x => { x with undecided := [(5, 6, 100, 0)], validSof := some 5, reason := 0 })
    minBy (fun (u : Nat × Nat × Nat × Nat) => u.2.2.1) (s.stream 2).undecided = some (5, 6, 100, 0) ∧ (s.stream 2).validSof = some 5 ∧
    (s.stream 2).reason = 0 := by decide
theorem witness_SafetyTimers_heartbeat : (Tst.on.setBlob Obj.spDestMac 0 (be 6 1)).safetySends = true ∧ Tst.on.rst.phase ≠ .powerReset := by decide +kernel
def Tst.gold (f : Slice → Slice) : State := Tst.slc (f Slice.init)
def Tst.start : State :=
  let s := Tst.gold (fun x => { x with golden := { x.golden with completed := true } })
  { s with rst := { s.rst with phase := .starting }, safety := { s.safety with causes := 1 } }
theorem witness_SafetyTimers_start : Tst.start.safety.causes.getLsbD 0 = true ∧ Tst.start.rst.phase = .starting ∧ Tst.start.runs P.sfp = true ∧
    Tst.start.runs P.scp = true ∧ Tst.start.work.replayDone = true ∧ (∀ n ∈ Tst.start.slicesInService, (Tst.start.slice n).golden.completed = true) := by
  decide +kernel
theorem witness_SafetyTimers_due : (Tst.gold id).inService 0 = true ∧ ((Tst.gold id).slice 0).golden.lapsed = false ∧
    ((Tst.gold (fun x => { x with golden := { x.golden with due := none, running := false } })).slice 0).golden.due = none ∧
    ((Tst.gold (fun x => { x with golden := { x.golden with due := some 5, overdue := false } })).slice 0).golden.due = some 5 := by decide +kernel
theorem witness_SafetyTimers_end : ∀ p ∈ [(false, none), (true, none), (false, some 3)],
    let s := Tst.gold (fun x => { x with golden := { x.golden with due := some 5, overdue := true, repeated := p.1, completed := true }, resetting := p.2 })
    s.testing 0 = true ∧ (s.slice 0).golden.repeated = p.1 ∧ (s.slice 0).resetting = p.2 ∧ (s.slice 0).golden.completed = true := by decide +kernel

theorem witness_Processors_running : (∀ p : ProcId, Tst.on.runs p = true) ∧ Tst.on.fw.due = none ∧
    Tst.writes Tst.on Obj.fwRestart 3 (fwRestartRule 3) (.num 1) = true := by decide +kernel
def Tst.restarting (retry act : Bool) (ph : Phase) : State :=
  let s := (Tst.set Tst.on [(Obj.fwState, 3, 1)]).modProc 3 (fun x => { x with restarting := some 1, retry := retry, activating := act })
  { s with rst := { s.rst with phase := ph } }
theorem witness_Processors_ready : (Tst.restarting false false .recovery).rst.phase ≠ .powerReset ∧ (Tst.restarting false false .recovery).rst.phase ≠ .warmHeld ∧
    (Tst.restarting false false .recovery).num Obj.fwState 3 = 1 ∧ ((Tst.restarting false false .recovery).proc 3).waitBtp = false ∧
    (Tst.restarting false false .recovery).recovering = true := by decide +kernel
theorem witness_Processors_timeout : ∀ p ∈ [(true, false), (false, false), (false, true)],
    let s := Tst.restarting p.1 p.2 .running
    s.num Obj.fwState 3 = 1 ∧ (s.proc 3).waitBtp = false ∧ (s.proc 3).retry = p.1 ∧ (s.proc 3).activating = p.2 := by decide +kernel
theorem witness_Processors_log : (Tst.set Tst.on [(Obj.logLevel, 0, 2)]).num Obj.logLevel = 2 ∧ Tst.on.fw.gapDue = 0 ∧ Tst.on.fw.buffer.length < 4096 ∧
    4096 ≤ (List.replicate 4096 (Staged.log [])).length := ⟨by decide, by decide, by decide, Nat.le_of_eq List.length_replicate.symm⟩
theorem witness_Processors_trace : (∀ p ∈ [(63, 0), (64, 1), (191, 1), (192, 2), (767, 4), (1023, 5)], pointProc p.1 = p.2) ∧
    (fld ((Tst.on.setBlob Obj.traceMask 0 (zeros 7 ++ le 1 128)).blob Obj.traceMask) (63 / 8) 1).testBit (63 % 8) = true ∧
    (fld (Tst.on.blob Obj.traceMask) (63 / 8) 1).testBit (63 % 8) = false := by decide +kernel
theorem witness_Processors_drain :
    let s := { Tst.on with fw := { Tst.on.fw with logBase := some (5, 1), traceBase := some (9, 1) } }
    s.rst.memHeld = false ∧ s.fw.logBase = some (5, 1) ∧ s.fw.traceBase = some (9, 1) := by decide

theorem witness_Updates_stage : ∀ ok : Bool,
    let b := le 8 0 ++ le 4 8192 ++ zeros 4
    let s := { Tst.mem Tst.entry id id with fw := { Tst.on.fw with staging := some (b, 1, 0) } }
    s.fw.staging = some (b, 1, 0) ∧ s.runs P.btp = true ∧
    ((0 + 120000 * ms ≤ s.clk.now ∨ s.regionBad (stageAddr b) (stageLen b) = true ∨ ok = false) ↔ ok = false) := by decide +kernel
theorem witness_Updates_cancel : ∀ k ∈ [0, 3, 4],
    let s := Tst.set Tst.on [(Obj.updState, 0, k), (Obj.updSlot, 0, 1)]
    Tst.writes s Obj.updCancel 0 updCancelRule (.num 1) = true ∧ s.num Obj.updState = k := by decide +kernel
theorem witness_Updates_commit :
    let s := { Tst.on with fw := { Tst.on.fw with procs := (List.range 6).map (fun p => (p, { Proc.init with released := true })) } }
    Tst.writes s Obj.updCommit 0 (updCommitRule 0) (.num 1) = true ∧ (∀ ok, Tst.writes s Obj.persErase 0 (persEraseRule ok) (.num 1) = true) := by
  decide +kernel
theorem witness_Updates_pending : ∀ e ∈ [0, 3],
    let s := Tst.set { Tst.on with fw := { Tst.on.fw with pending := some (3, 1, 5, some 7) } } [(Obj.powerState, 0, e)]
    s.fw.pending = some (3, 1, 5, some 7) ∧ s.emergency = (e == 3) ∧ s.activationHeld 3 = false ∧ 7 + 10000 * ms ≤ 5 + 60000 * ms := by decide +kernel

/-! ## Power -/

def Tst.meter (mw : Nat) : MeterRead := { milliW := mw, totalMj := 1, noJobMj := 0, twilightMj := 0, sliceMj := List.replicate 6 0 }
/-- A cap of 300 W, a limit of 95 °C, sensor 3 at a temperature. -/
def Tst.power (c : Int) (f : Power → Power) : State :=
  let s := Tst.set Tst.on [(Obj.powerCap, 0, 300), (Obj.throttleC, 0, 95)]
  { s with power := f { s.power with temps := [(3, { milliC := c, failed := false, updated := 0 })] } }

theorem witness_PowerLoops_cap : ∀ c ∈ [8, 9], (Tst.power 0 (fun p => { p with calm := c })).rst.phase ≠ .powerReset ∧
    (Tst.power 0 id).runs P.pwp = true ∧ (Tst.power 0 id).num Obj.powerCap * 1000 < (Tst.meter 300001).milliW ∧
    (Tst.meter 299000).milliW + 1000 ≤ (Tst.power 0 id).num Obj.powerCap * 1000 ∧
    (Tst.power 0 id).num Obj.powerCap * 1000 < (Tst.meter 299001).milliW + 1000 ∧
    (Tst.power 0 (fun p => { p with calm := c })).power.regs.any (fun r => r.2.hot) = false ∧
    (Tst.power 0 (fun p => { p with calm := c })).power.calm = c := by decide
theorem witness_PowerLoops_thermal : (∀ c ∈ [95001, 95000, 93000, 92999], (Tst.power c id).tj = some c) ∧
    (Tst.power 0 id).num Obj.throttleC = 95 ∧ (Tst.power 0 (fun p => { p with temps := [] })).tj = none ∧
    (Tst.power 0 (fun p => { p with coolFrom := some 5 })).power.coolFrom = some 5 ∧ (Tst.power 0 id).power.clamp110 = false := by decide
theorem witness_PowerLoops_rise :
    let s := Tst.power 92999 (fun p => { p with coolFrom := some 0, lastStep := 100 * ms, lastRise := 0 })
    0 + 100 * ms ≤ s.thermTime.clk.now ∧ s.power.lastRise + 10 * ms ≤ s.thermTime.clk.now := by decide
theorem witness_PowerLoops_state : (Tst.power 0 id).num Obj.powerState = (Tst.power 0 id).powerStateNow ∧
    (Tst.power 0 (fun p => { p with powerEm := true })).num Obj.powerState ≠ (Tst.power 0 (fun p => { p with powerEm := true })).powerStateNow := by
  decide +kernel
/-- A ceiling below the clock, one above it, and one above it while VDD_CORE still settles. -/
theorem witness_PowerLoops_ceilings : ∀ p ∈ [(800, none), (300, none), (300, some (400, 5))],
    let s := (Tst.set (Tst.power 0 id) [(Obj.capCeil, 0, 600), (Obj.thermCeil, 0, 1200)]).modPslice 0 (fun x => { x with mhz := p.1, settling := p.2 })
    s.ceiling 0 = 600 ∧ (s.pslice 0).mhz = p.1 ∧ (s.pslice 0).settling = p.2 := by decide +kernel

theorem witness_Temperatures : ∀ c ∈ [104999, 105000, 110000, 120000], (Tst.power c id).tj = some c ∧ (Tst.power c id).rst.phase ≠ .powerReset ∧
    (Tst.power c id).power.tripped = false ∧ (3, { milliC := c, failed := false, updated := 0 }) ∈ (Tst.power c id).power.temps ∧
    (Tst.power c id).power.clamp110 = false := by decide
theorem witness_Temperatures_sensor :
    tfind (Tst.power 40000 id).power.temps 3 = some { milliC := 40000, failed := false, updated := 0 } ∧
    tfind (Tst.power 0 (fun p => { p with temps := [(3, { milliC := 0, failed := true, updated := 0 })] })).power.temps 3 =
      some { milliC := 0, failed := true, updated := 0 } ∧ ((-55000 : Int) ≤ -55000 ∧ (150001 : Int) > 150000) := by decide
theorem witness_Temperatures_emergency : ∀ e ∈ [true, false],
    let s := Tst.power 110000 (fun p => { p with clamp110 := e, below105 := some 5 })
    s.power.clamp110 = e ∧ s.power.below105 = some 5 ∧ (e = true → s.thermalEm = true) := by decide +kernel

theorem witness_GovernorAndDomains : Tst.on.rst.phase ≠ .powerReset ∧ Tst.on.power.clamp110 = false ∧ Tst.on.power.vrHot = false ∧
    Tst.on.power.tripped = false ∧ Tst.on.floorUa ≤ Tst.on.power.estUa + Tst.on.slewUa := by decide +kernel
theorem witness_GovernorAndDomains_settles :
    ((Tst.on.modPslice 0 (fun p => { p with settling := some (600, 5) })).pslice 0).settling = some (600, 5) := by decide
/-- The array of slice 0, on and off, with a tile and without. -/
theorem witness_GovernorAndDomains_domain : switched 0 = true ∧ (Tst.slc (Tst.arrSlice id)).domainOn 0 = false ∧ (Tst.slc (Tst.arrSlice id)).slicePowered 0 = true ∧
    (∀ b ∈ [true, false],
      let s := Tst.slc (Tst.arrSlice (fun a => { a with waitTiles := if b then [Tst.tile 0 20] else [] }))
      let t := { s with power := { s.power with domains := [(0, true)] } }
      t.domainOn 0 = true ∧ t.domainBusy 0 = b) := by decide +kernel
/-- The tile store of slice 0, asleep and awake, with a golden test running and without. -/
theorem witness_GovernorAndDomains_retained : retains 4 = true ∧ (∀ b ∈ [true, false],
    let s := Tst.slc (Tst.arrSlice id)
    let u := Tst.slc { Tst.arrSlice id with run := none, golden := { (Tst.arrSlice id).golden with running := b }, store := { (Tst.arrSlice id).store with tags := [] } }
    let t := { u with power := { u.power with domains := [(4, true)] } }
    s.asleep 4 = true ∧ s.rst.phase ≠ .recovery ∧ s.slicePowered 0 = true ∧ t.asleep 4 = false ∧ t.domainBusy 4 = b) := by decide +kernel

def Tst.vr (lo : Bool) (rs : List (Nat × Reg)) (em : Bool) : State :=
  { Tst.on with pins := { Tst.on.pins with vrHotN := lo }, power := { Tst.on.power with regs := rs, powerEm := em, powerClear := if em then some 5 else none } }
theorem witness_Regulators : ∀ b ∈ [true, false], (Tst.vr b [] false).rst.phase ≠ .powerReset ∧ (Tst.vr b [] false).runs P.pwp = true ∧
    (Tst.vr b [] false).pins.vrHotN = b := by decide
theorem witness_Regulators_read : ∀ n ∈ [1, 2],
    let s := { Tst.vr true [(3, { fails := n, highV := false, under := false, hot := false })] false with trust := { Tst.on.trust with regAddrs := List.replicate 17 0x40 } }
    s.trust.regAddrs[3]? = some 0x40 ∧ (tget Reg.init s.power.regs 3).fails = n := by decide
theorem witness_Regulators_judge : ∀ u ∈ [true, false],
    let s := Tst.vr true [(3, { fails := 0, highV := false, under := u, hot := false })] false
    s.power.regs.any (fun r => r.2.highV || r.2.under) = u ∧ s.power.powerEm = false ∧ s.pins.vrHotN = true := by decide
theorem witness_Regulators_end : (Tst.vr true [] true).power.powerEm = true ∧ (Tst.vr true [] true).power.powerClear = some 5 := by decide

/-! ## Worked examples of the spec -/

/-- 00_scope, "Reading a bundle header in memory": FA, FB and ARR, TAG 7. -/
theorem test_header_slots : (List.range 8).filter (fun i => (0x38000007 : Nat).testBit (24 + i)) = [3, 4, 5] ∧ bundleLen 0x38000007 = 28 ∧
    bits 0x38000007 15 0 = 7 ∧ bits 0x38000007 23 22 = 0 ∧ bits 0x38000007 21 16 = 0 := by decide

/-- 03_numerics, Table — Six requantised outputs: acc, code, saturated. -/
theorem test_requantise : ∀ p ∈ [((21674 : Int), 63, false), (21675, 64, false), (512, 2, false), (1536, 4, false), (43520, 127, true), (-44000, 0x81, true),
    (43519, 127, false)], scale (.int p.1) 0x3B400000 0 = { code := p.2.1, saturated := p.2.2, nonfinite := false } := by decide +kernel
/-- 03_numerics, "Reading the six outputs as a window": OUTPUTS 6, SATURATED 2, SSE 4.880864143. -/
theorem test_window :
    ([21674, 21675, 512, 1536, 43520, -44000].foldl (fun t (i : Int) => t.see (.int i) 0x3B400000 0 (scale (.int i) 0x3B400000 0)) StatTotals.zero) =
      { outputs := 6, saturated := 2, nonfinite := 0, sse := 0x409C300A } := by decide +kernel

/-- 04_tile_store, "A halo strip for the TX-48 detector": the descriptor of the strip at an input row. -/
def Tst.halo (row : Nat) : Bytes :=
  le 4 0 ++ le 8 (0x120000000 + row * 20480 + 319 * 16) ++ le 4 5120 ++ le 4 5152 ++ le 2 18 ++ le 2 1 ++ le 2 1 ++ zeros 2 ++ le 4 20480 ++ zeros 8
    ++ le 4 5248 ++ zeros 20
theorem test_halo_extent : (extent (Tst.halo 63)).lo = 0x120000000 + 1295344 ∧ (extent (Tst.halo 63)).hi = 0x120000000 + 1648655 ∧
    (extent (Tst.halo 63)).units pageBytes = { lo := 294991, hi := 295012 } ∧ Slice.init.work (Tst.halo 63) = 92736 ∧
    (extent (Tst.halo 723)).units pageBytes = { lo := 294912 + 904, hi := 294912 + 925 } := by decide +kernel
/-- The strip past the image's end stops at page 295,832, the first of another context. -/
theorem test_halo_fault :
    let s := Tst.slc { Tst.arrSlice id with alloc := some { Tst.alloc with len := 0x20000 } }
    let e := { Tst.entry with owner := 0 }
    let t := { s with mem := { s.mem with table := (List.range 20).map (fun i => (295812 + i, e)) ++ [(295832, { e with owner := 1 })] } }
    t.extentCheck 0 (Tst.halo 723) = some (St.pageRights, 0x48398) := by decide +kernel

/-- 08_memory_placement, "Locating one byte of the halo strip". -/
theorem test_locate :
    let s := { State.reset with mem := { State.reset.mem with table := [(294991, { Tst.entry with channel := 7, slot := 24575, seed := 9 })] } }
    let a := 294991 * pageBytes + 1008
    s.placeOf a = { bank := 9, row := 12287, byte := 2032 } ∧ s.dataBlock a = 6291215 ∧ codeByte (s.dataBlock a) = 60 ∧
    checkBlock (s.dataBlock a) = 393200 ∧ checkPlace 393200 = { bank := 0, row := 31487, byte := 1984 } := by decide +kernel

/-- 14_object_dictionary, "Fixing the Orchard Cross power cap": a record of 17 bytes padded to 24, and 45 in range. -/
theorem test_power_cap : recBytes 1 = 24 ∧ Obj.powerCap.key 0 = 0x600001 ∧ Obj.powerCap.inRange (.num 45) = true ∧
    Obj.powerCap.inRange (.num 76) = false ∧ Obj.powerCap.inRange (.num 24) = false ∧ Obj.powerCap.aclass = 4 := by decide +kernel

/-- 05_bundles, "A double-buffered GEMM": its program, descriptors, and a package of them. -/
def Tst.bundle (h : Nat) (ws : List Nat) : Bytes := le 4 h ++ ws.flatMap (le 8)
def Tst.gemm : Bytes :=
  Tst.bundle 0x03000001 [0x0400000000000002, 0] ++ Tst.bundle 0x03000002 [0x0C80000000004000, 0x0060000000000000]
    ++ Tst.bundle 0x01000003 [0x1000000000004000] ++ Tst.bundle 0x03040010 [0x1000000000004000, 0x0062400000000000]
    ++ Tst.bundle 0x10410011 [0x07F0000000000180] ++ Tst.bundle 0xA8420012 [0x007F000000004100, 0x1000000000000000, 0x4000000000000280]
    ++ Tst.bundle 0x10010013 [0x07F0000000000200]
    ++ Tst.bundle 0xA9020014 [0x1400000000000001, 0x007F000000004100, 0x1000000000000000, 0x4000000000000300]
    ++ Tst.bundle 0x01000015 [0x18000000000000C0] ++ Tst.bundle 0x03040016 [0x1000000000004000, 0x0060000000000000]
    ++ Tst.bundle 0x05100017 [0x1100000000004000, 0x00A8000000000000] ++ Tst.bundle 0x05000018 [0x1100000000004000, 0x00AA400000000000]
    ++ Tst.bundle 0x01000019 [0x2020000000000034] ++ Tst.bundle 0x0100001A [0xFC00000000000000]
def Tst.gemmDesc (ctrl ext ts : Nat) : Bytes := le 4 ctrl ++ le 8 ext ++ le 4 ts ++ le 4 16384 ++ le 2 1 ++ le 2 1 ++ le 2 1 ++ zeros 38
def Tst.gemmPkg (p : Bytes) : Package :=
  { Tst.pkg true with
    programs := [p], tsAlloc := 0x1C000, bankVecs := 128
    descriptors := [Tst.gemmDesc 1 0x40000000 0x8000, Tst.gemmDesc 2 0x40004000 0xC000, Tst.gemmDesc 0x08000003 0x40014000 0x14000]
    chains := [le 1 2 ++ zeros 9 ++ le 1 128 ++ zeros 3 ++ le 2 1 ++ zeros 8 ++ le 2 300 ++ zeros 3 ++ le 1 0x20 ++ zeros 34]
    origins := [List.replicate 4 (zeros 8 ++ le 2 128 ++ le 2 512 ++ le 2 512 ++ zeros 2)], scales := [0x3B400000] }
theorem test_gemm_bytes : Tst.gemm.length = 256 ∧ cut Tst.gemm 0x34 20 = [0x10, 0, 4, 3, 0, 0x40, 0, 0, 0, 0, 0, 0x10, 0, 0, 0, 0, 0, 0x40, 0x62, 0] := by
  decide +kernel
theorem test_gemm_verifies : pkgVerify (Tst.gemmPkg Tst.gemm) 3 = none := by decide +kernel
/-- The fences are the minimum the verifier accepts: B5 without its DOUT fence is check 0x0C. -/
theorem test_gemm_fence : (pkgVerify (Tst.gemmPkg (patch Tst.gemm 0x54 (le 4 0xA8000012))) 3).map (fun x => x.1) = some 0x0C := by decide +kernel
/-- The path issues 23 bundles. -/
theorem test_gemm_path :
    ((pkgProgs (Tst.gemmPkg Tst.gemm) 3).map (fun g => (g.finish 100 Path.start).count)) = [23] := by decide +kernel

theorem test_idle_time : (match step State.reset with | .next t => t.clk.now | _ => 0) = 40 := by decide

end

end Sys2Proof.Machine
end

section
/-! The proofs of O12 and O14: crossings to an island that is off, abandoned crossings and late acknowledges (R12 to R14). -/

namespace Sys2Proof.Machine

/-! ## When an island is off (R14) -/

/-- A slice is off while it is out of service, powered off, in a reset of its own, or held with the memory. -/
theorem islandOff_slice_iff (s : State) {code : Nat} (slice : code < 6) :
    s.islandOff code = true ↔ s.num Obj.sliceState code ≠ 0 ∨ (s.slice code).off = true ∨
      (s.slice code).resetting.isSome = true ∨ s.rst.memHeld = true := by
  simp [State.islandOff, slice, or_assoc]

/-- R521 gives the codes from 6 to 15 to no island; the model takes such a code for an island that is off, as it must the
physical slice without a number (notes/assumptions/13.md). -/
theorem islandOff_between_slices_and_controllers (s : State) {code : Nat} (past : 6 ≤ code) (below : code < 0x10) :
    s.islandOff code = true := by
  have notSlice : ¬ code < 6 := by omega
  have notController : ¬ (0x10 ≤ code ∧ code < 0x16) := by omega
  have notMedia : code ≠ 0x20 := by omega
  have notBlock : code < 0x21 := by omega
  simp [State.islandOff, notSlice, notController, notMedia, notBlock]

theorem islandOff_controller_iff (s : State) {code : Nat} (first : 0x10 ≤ code) (last : code < 0x16) :
    s.islandOff code = true ↔ s.rst.memHeld = true ∨ s.domainOn (202 + (code - 0x10)) = false := by
  have notSlice : ¬ code < 6 := by omega
  simp [State.islandOff, notSlice, first, last]

/-! ## The three commands of a crossing, a case each -/

/-- A request to an island that is off changes nothing but what its requester received. -/
theorem exec_crossingRequest_of_off {s : State} {req tgt : Nat} (chan : Option ChanId) (acked : Bool)
    (running : s.rst.phase ≠ .powerReset) (crosses : req ≠ tgt) (off : s.islandOff tgt = true) :
    exec (.crossingRequest req tgt chan acked) s =
      .next { s with isl := { s.isl with lastError := some (req, St.unavailable) } } := by
  show execCrossingRequest req tgt chan acked s = _
  simp [execCrossingRequest, running, crosses, off]

/-- The state in which the crossing `c` has been abandoned, 2 µs after its request, before the reaction to its fault. -/
def State.abandonCrossing (s : State) (c : Crossing) : State :=
  let u := s.advanceTo (c.start + 2 * us)
  { u with isl := { u.isl with
    crossings := u.isl.crossings.map (fun (d : Crossing) => if d.id == c.id then { d with abandoned := true } else d)
    lastError := some (c.req, St.unavailable) } }

/-- Where one island alone has failed, the island fault names the target of the crossing. -/
theorem exec_islandHandshakeTimeout_of_open {s : State} {c : Crossing}
    (isOpen : s.isl.crossings.find? (fun d => d.id == c.id && !d.abandoned) = some c) :
    exec (.islandHandshakeTimeout c.id false) s =
      .next (settle s ((s.abandonCrossing c).islandFault c.tgt c.req c.chan)) := by
  show execIslandHandshakeTimeout c.id false s = _
  simp [execIslandHandshakeTimeout, isOpen, done, State.abandonCrossing]

/-- The state in which the late acknowledge of the crossing `c` has been discarded and counted. -/
def State.countLateAck (s : State) (c : Crossing) : State :=
  { s with isl := { s.isl with
    crossings := s.isl.crossings.filter (fun d => d.id != c.id)
    lateAcks := tput s.isl.lateAcks c.req (tget 0 s.isl.lateAcks c.req + 1) } }

theorem exec_lateAcknowledge_of_abandoned {s : State} {c : Crossing}
    (known : s.isl.crossings.find? (fun d => d.id == c.id) = some c) (abandoned : c.abandoned = true) :
    exec (.lateAcknowledge c.id) s = .next (s.countLateAck c) := by
  show execLateAcknowledge c.id s = _
  simp [execLateAcknowledge, known, abandoned, State.countLateAck]

theorem lateAcks_countLateAck_requester (s : State) (c : Crossing) :
    tget 0 (s.countLateAck c).isl.lateAcks c.req = tget 0 s.isl.lateAcks c.req + 1 :=
  tget_tput_same 0 s.isl.lateAcks c.req _

theorem lateAcks_countLateAck_other (s : State) (c : Crossing) {r : Nat} (other : r ≠ c.req) :
    tget 0 (s.countLateAck c).isl.lateAcks r = tget 0 s.isl.lateAcks r :=
  tget_tput_other 0 s.isl.lateAcks c.req r _ other

/-! ## The obligations -/

/-- Settles O12: each kind of target that R14 names is off, and a request to an island that is off is refused at once. -/
theorem offIslands : Obligations.OffIslands := by
  intro s req tgt chan acked running crosses target
  have off : s.islandOff tgt = true := by
    obtain ⟨slice, why⟩ | ⟨past, below⟩ | ⟨first, last, why⟩ := target
    · exact (islandOff_slice_iff s slice).2 why
    · exact islandOff_between_slices_and_controllers s past below
    · exact (islandOff_controller_iff s first last).2 why
  exact exec_crossingRequest_of_off chan acked running crosses off

/-- Settles O14: the error is UNAVAILABLE, the model's choice (notes/assumptions/49.md); the late acknowledge touches
its crossing and one counter. -/
theorem lateAcknowledges : Obligations.LateAcknowledges := by
  constructor
  · intro s c isOpen
    exact ⟨St.unavailable, by decide, exec_islandHandshakeTimeout_of_open isOpen⟩
  · intro s c known abandoned
    exact ⟨s.countLateAck c, exec_lateAcknowledge_of_abandoned known abandoned,
      lateAcks_countLateAck_requester s c, fun _ => lateAcks_countLateAck_other s c, rfl, rfl, rfl, rfl⟩

end Sys2Proof.Machine
end

section
/-! The proof of O21: the verdict of an integer row (R49). -/

namespace Sys2Proof.Machine

/-- The shapes of an output in an integer organisation: one column sum, or the four components of int16 (R29). -/
theorem eq_one_or_four_sums {o : List Word} (shape : o.length = 1 ∨ o.length = 4) :
    (∃ i, o = [i]) ∨ ∃ hh hl lh ll, o = [hh, hl, lh, ll] :=
  match o, shape with
  | [i], _ => .inl ⟨i, rfl⟩
  | [hh, hl, lh, ll], _ => .inr ⟨hh, hl, lh, ll, rfl⟩

/-- The word that the verdict takes of an output is its integer value modulo 2³²: a lone sum is that word already. -/
theorem outWord_eq_wordOf_combine {o : List Word} (shape : o.length = 1 ∨ o.length = 4) :
    (if o.length == 4 then wordOf (combine (o.map BitVec.toInt)) else (o[0]?).getD 0) =
      wordOf (combine (o.map BitVec.toInt)) := by
  obtain ⟨i, rfl⟩ | ⟨hh, hl, lh, ll, rfl⟩ := eq_one_or_four_sums shape
  · exact (wordOf_toInt i).symm
  · rfl

/-- The balanced tree of a row of 64, 128 or 256 outputs adds up the integer values of its outputs modulo 2³². -/
theorem treeSum_outWords {outs : List (List Word)}
    (count : outs.length = 64 ∨ outs.length = 128 ∨ outs.length = 256)
    (shapes : ∀ o ∈ outs, o.length = 1 ∨ o.length = 4) :
    treeSum (· + ·) (Nat.log2 outs.length)
        (outs.map (fun o => if o.length == 4 then wordOf (combine (o.map BitVec.toInt)) else (o[0]?).getD 0)) =
      wordOf (sumI (outs.map (fun o => combine (o.map BitVec.toInt)))) := by
  rw [treeSum_eq _ _ (by rw [List.length_map]; exact log_len count),
    List.map_congr_left (fun o mem => outWord_eq_wordOf_combine (shapes o mem)), wsum_wordOf]

/-- A row in an integer organisation passes exactly when the sum of its outputs modulo 2³² is its S_chk (R49). -/
theorem ArrRow.verdict_eq_none_iff_of_integer {r : ArrRow} (integer : r.float = false)
    (count : r.outs.length = 64 ∨ r.outs.length = 128 ∨ r.outs.length = 256)
    (shapes : ∀ o ∈ r.outs, o.length = 1 ∨ o.length = 4) :
    r.verdict = none ↔ r.sChk = wordOf (sumI (r.outs.map (fun o => combine (o.map BitVec.toInt)))) := by
  rw [← treeSum_outWords count shapes, eq_comm (a := r.sChk)]
  simp [ArrRow.verdict, integer]

/-- Settles O21: the tree sum is the plain sum modulo 2³², and each output's value is what R49 says for its shape. -/
theorem integerVerdict : Obligations.IntegerVerdict := by
  intro r integer count shapes
  refine (ArrRow.verdict_eq_none_iff_of_integer integer count shapes).trans
    (iff_of_eq (congrArg (fun values => r.sChk = wordOf (sumI values)) (List.map_congr_left fun o mem => ?_)))
  obtain ⟨i, rfl⟩ | ⟨hh, hl, lh, ll, rfl⟩ := eq_one_or_four_sums (shapes o mem)
  · rfl
  · rfl

end Sys2Proof.Machine
end

section
/-! The proof of O9: what the persistent area keeps, and how long its values are (R379, R383). -/

namespace Sys2Proof.Machine

/-- The objects whose ACLASS has the PERS bit of R383, in the order of the dictionary: settings of the host link and of
its time and MACsec, the orphan policy, the depth of the event ring, the addresses and ports of the safety port, the
limits of power, temperature and current, and the local port of the peer protocol. -/
def persRows : List ObjRow :=
  [Obj.hlT1Role, Obj.hlIp4, Obj.hlIp6, Obj.hlVlan, Obj.hlUdp, Obj.orphanPolicy, Obj.evtDepth, Obj.gptpDomain,
   Obj.macsecMode, Obj.macsecRxSci, Obj.spIp, Obj.spVlan, Obj.spUdpSrc, Obj.spDestMac, Obj.spDestIp, Obj.spDestUdp,
   Obj.powerCap, Obj.throttleC, Obj.slewLimit, Obj.currentFloor, Obj.vrhotClock, Obj.peerUdpLocal]

/-- Of the dictionary's rows, those of a PERS class are the ones listed. -/
theorem filter_pers_rows : Obj.rows.filter (fun r => decide (4 ≤ r.aclass % 8)) = persRows := by decide +kernel

theorem mem_persRows_of_pers {r : ObjRow} (row : r ∈ Obj.rows) (pers : 4 ≤ r.aclass % 8) : r ∈ persRows :=
  filter_pers_rows ▸ List.mem_filter.2 ⟨row, decide_eq_true pers⟩

/-- The longest values that the persistent area keeps are the IP addresses, of 16 bytes. -/
theorem maxLen_le_of_mem_persRows : ∀ r ∈ persRows, r.maxLen ≤ 16 := by decide

/-- Settles O9: the objects of a PERS class are the listed ones, and none of these is longer than an IP address. -/
theorem persLengths : Obligations.PersLengths := fun r row pers =>
  calc
    r.maxLen ≤ 16 := maxLen_le_of_mem_persRows r (mem_persRows_of_pers row pers)
    _ ≤ 1024 := by decide

end Sys2Proof.Machine
end

section
/-! The proofs of O1, O2, O4, O5 and O6: the queue, an idle step, reset, and what every step keeps. -/

namespace Sys2Proof.Machine

/-- Settles O1: the model's step takes the front of the queue. -/
theorem stepRunsFront : Obligations.StepRunsFront := fun _ _ _ => rfl

/-- Settles O2: with no held request due an idle step sends one trace entry and lets a period of REFCLK25 pass. -/
theorem idleStep : Obligations.IdleStep := by
  intro s empty noneHeld
  simp only [step, empty, State.idle, noneHeld, State.traceSend, refclkNs]

/-- Settles O4: each clause reads a field of the reset state. -/
theorem resetHolds : Obligations.ResetHolds :=
  ⟨rfl, rfl, rfl, rfl, rfl, rfl, fun _ _ => rfl, fun _ => rfl, fun _ => rfl, rfl⟩

/-- Settles O5: after reset neither memory lists a cell. -/
theorem resetKeepsForm : Obligations.ResetKeepsForm := rfl

/-- Settles O6, by the lemma of each command: what a step reaches from a state that s keeps, s keeps. -/
theorem stepKeeps : Obligations.StepKeeps := fun s t next => step_keeps (Keeps.refl s) t next

end Sys2Proof.Machine
end

section
/-! The proof of O3: every command answers a next state. -/

namespace Sys2Proof.Machine

/-- The outcome is a next state. -/
def GoesOn (o : Host.Outcome State Fault Refusal) : Prop := ∃ t, o = .next t

theorem goesOn_next (t : State) : GoesOn (.next t) := ⟨t, rfl⟩

theorem goesOn_done (s t : State) : GoesOn (done s t) := ⟨settle s t, rfl⟩

theorem peerFrame_goesOn (s : State) (p : Nat) (k : PeerId) (b : Bytes) : GoesOn (s.peerFrame p k b) := by
  unfold State.peerFrame execPeerAckRx execPeerAbortRx
  repeat' with_reducible first
    | apply goesOn_next
    | apply goesOn_done
    | split
    | dsimp only
  · exact ⟨_, rfl⟩
  · exact ⟨_, rfl⟩

theorem execDpFrameRx_goesOn (p : DataPort) (f : EthFrame) (s : State) : GoesOn (execDpFrameRx p f s) := by
  unfold execDpFrameRx
  repeat' with_reducible first
    | apply goesOn_next
    | apply peerFrame_goesOn
    | split

theorem execRtpPacketRx_goesOn (st : StreamId) (pkt : RtpPacket) (s : State) : GoesOn (execRtpPacketRx st pkt s) := by
  unfold execRtpPacketRx
  split
  · exact goesOn_next _
  · exact goesOn_next _

theorem execDecodeDone_goesOn (core : Fin 4) (e : DecodeEnd) (s : State) : GoesOn (execDecodeDone core e s) := by
  unfold execDecodeDone
  repeat' with_reducible first
    | apply goesOn_next
    | apply goesOn_done
    | split

/-- Every meaning is a tree of conditions with a next state at each of its leaves; the
meanings listed branch, the others are leaves themselves. -/
theorem exec_goesOn (c : Instr) (s : State) : GoesOn (exec c s) := by
  cases c <;> dsimp only [exec,
    execPwronNDeassert, execCoreRailLow, execRefclkLoss, execWarmNAssert, execCrossingRequest,
    execIslandHandshakeTimeout, execLateAcknowledge, execProgramFetch, execWeightLoadStart, execTileStart,
    execDrainRow, execRowVerdict, execTileStoreAccess, execDescriptorStart, execDmaRequestSend,
    execDmaRequestDone, execDescriptorComplete, execTagExpiry, execSliverTaskStart, execSliverInstruction,
    execWindowLoad, execCacheMiss, execCacheLineFill, execMissRegisterExpiry, execCycleBudgetExhausted,
    execDualCompare, execClusterModeChange, execBurstComplete, execRetrainDone, execScrubRead,
    execMigrationCopyDone, execPeerSegmentWritten, execPeerAckRx, execPeerAbortRx, execPeerResendTimer,
    execItemAccept, execStreamJobAccept, execBeSegmentBoundary, execJobEnd, execJournalReplay,
    execWaitGraphBuild, execEpochStreamSilent, execIdlePoint, execDecodeBatchClose, execStatWindowEval,
    execCsiFrameStart, execCsiLinePacket, execCsiFrameEnd, execFrameTimeout, execIspFrameDone, execSpillStart,
    execGenerationWriteStart, execI2cTransaction, execFsyncPulse,
    execRtpRelease, execDecodeStart, execConversionDone, execStreamStallTimeout, execClipDone,
    execSnapDone, execHlFrameRx, execDictStageTimeout, execHlpHoldTimeout, execEventFrameSend,
    execEvtHeartbeat, execLeaseExpiry, execGptpSyncRx, execGptpHoldover, execDeadlineExpiry, execStaleExpiry,
    execCause0Release, execLockstepMismatch, execWatchdogExpiry, execGoldenTestDue, execGoldenTestOverdue,
    execGoldenTestEnd, execCoverageLapse, execFwMemoryError, execProcessorReady, execRestartTimeout,
    execLogEntry, execTraceHit, execStagingBufferDrain, execStagingDone, execActivationSettle,
    execActivationAbandon, execSliceResetTimeout, execPwronNAssert, execWarmNDeassert, execRailMonitorReturn,
    execPowerCapEval, execThermalLoopStep, execSensorRead, execThermalClamp, execThermalEmergencyEnd,
    execThermalTrip, execGovernorStep, execDomainWake, execDomainOff, execVoltageSettled, execVrHotNAssert,
    execVrHotNDeassert, execPmbAlertN, execPmbusPoll, execPowerEmergencyEnd]
  case dpFrameRx => exact execDpFrameRx_goesOn _ _ _
  case rtpPacketRx => exact execRtpPacketRx_goesOn _ _ _
  case decodeDone => exact execDecodeDone_goesOn _ _ _
  all_goals repeat' with_reducible first
      | apply goesOn_next
      | apply goesOn_done
      | split
      | dsimp only
  all_goals exact ⟨_, rfl⟩

/-- Settles O3: no leaf of a command's meaning is a fault or a refusal (the model's choice, notes/assumptions/1.md). -/
theorem everyCommandGoesOn : Obligations.EveryCommandGoesOn := exec_goesOn

end Sys2Proof.Machine
end

section
/-! The proofs of O7 and O8: what follows a change of the reported state, and the entry of an event. -/

namespace Sys2Proof.Machine

@[simp] theorem State.sendSafety_causes (s : State) (type st status sof epoch : Nat) :
    (s.sendSafety type st status sof epoch).safety.causes = s.safety.causes := by
  unfold State.sendSafety
  split <;> rfl

@[simp] theorem State.sendSafety_since (s : State) (type st status sof epoch : Nat) :
    (s.sendSafety type st status sof epoch).safety.since = s.safety.since := by
  unfold State.sendSafety
  split <;> rfl

/-- Of the causes of the safe state and the time of the first of them, an event and a frame change nothing. -/
theorem settle_safety (old s : State) :
    (settle old s).safety.causes = s.safety.causes ∧ (settle old s).safety.since = s.safety.since := by
  unfold settle
  dsimp only
  repeat' split
  all_goals simp

theorem settle_table (old s : State) : (settle old s).mem.table = s.mem.table := by
  rw [State.settle_mem]

/-- Settles O7: the event writes its slot of the ring, the frame goes to the safety port. -/
theorem settleFrame : Obligations.SettleFrame := by
  intro old s
  refine ⟨?_, ?_, ?_, ?_, ?_, ?_, ?_, ?_, ?_, ?_, ?_, ?_, ?_, ?_, ?_, ?_, ?_, (settle_safety old s).1,
    (settle_safety old s).2, settle_table old s, fun r k => State.settle_val_other s old r k, fun a => settle_readByte old s a⟩
  all_goals simp

/-- An event that finds room is written at once. -/
theorem State.postEvent_of_room {s : State} (code source : Nat) (b : Bytes) (noneWaits : s.link.evWait = [])
    (noneDropped : s.link.evDropped = 0) (room : s.evSpace = true) :
    s.postEvent code source b = s.writeEvent s.clk.lode code source b := by
  simp [State.postEvent, noneWaits, noneDropped, room]

/-- An event written into the ring at page p. -/
theorem State.writeEvent_of_base {s : State} {p k : Nat} (time code source : Nat) (b : Bytes)
    (base : s.link.evBase = some (p, k)) :
    s.writeEvent time code source b =
      ((s.writeBytes (s.nextEvent p) (eventEntry time code (s.num Obj.evtTail + 1) source b
        (phase s.link.evDepth (s.num Obj.evtTail + 1)))).setNum Obj.evtTail 0 (s.num Obj.evtTail + 1)).noteChange none := by
  simp [State.writeEvent, base, State.nextEvent]

/-- A slot of 64 bytes at a multiple of 64 from the start of a page lies in one page. -/
theorem slot_in_one_page (p n i : Nat) (inside : i < 64) :
    (p * pageBytes + 64 * n + i) / pageBytes = (p * pageBytes + 64 * n) / pageBytes := by
  unfold pageBytes
  omega

/-- Settles O8: the event is written at once, and its 64 bytes stay inside a backed page. -/
theorem eventEntryWritten : Obligations.EventEntryWritten := by
  intro s code source b p k canonical noneWaits noneDropped base live room short backed
  have space : s.evSpace = true := by simp [State.evSpace, base, live, room]
  have len := eventEntry_length s.clk.lode code (s.num Obj.evtTail + 1) source b
    (phase s.link.evDepth (s.num Obj.evtTail + 1)) short
  intro e at' t
  have written : t = _ := (State.postEvent_of_room code source b noneWaits noneDropped space).trans
    (State.writeEvent_of_base s.clk.lode code source b base)
  rw [written]
  refine ⟨?_, ?_, ?_, ?_, fun a apart => ?_⟩
  · rw [State.noteChange_readBytes, State.setNum_readBytes, ← len]
    refine State.readBytes_writeBytes_same _ s _ canonical (by rw [len]; decide) fun i inside => ?_
    rw [State.nextEvent, slot_in_one_page p _ i (len ▸ inside)]
    exact backed
  · rw [State.noteChange_num, State.setNum_num]
  · simp only [State.noteChange, State.setNum_link, State.writeBytes_link, State.setNum_clk, State.writeBytes_clk]
    cases s.link.timer <;> rfl
  · simp [State.noteChange]
  · rw [State.noteChange_readByte, State.setNum_readByte]
    exact State.readByte_writeBytes_other _ s a _ fun i inside => apart i (len ▸ inside)

end Sys2Proof.Machine
end

section
/-! The proof of O10: loss of power and start. -/

namespace Sys2Proof.Machine

/-! ## The commands of power, a case each -/

theorem exec_pwronNAssert {s : State} (high : s.pins.pwronN = true) :
    exec .pwronNAssert s = .next ({ s with pins := { s.pins with pwronN := false } } : State).powerOnReset := by
  show execPwronNAssert s = _
  simp [execPwronNAssert, high]

theorem exec_pwronNDeassert_of_rails {s : State} (env : BootEnv) (low : s.pins.pwronN = false)
    (rails : s.pins.railsOk.all id = true) :
    exec (.pwronNDeassert env) s = .next (({ s with pins := { s.pins with pwronN := true } } : State).coldStart env) := by
  show execPwronNDeassert env s = _
  simp only [execPwronNDeassert, low, State.powered, rails, Bool.and_self, if_true, Bool.false_eq_true, if_false]

theorem exec_pwronNDeassert_of_no_rails {s : State} (env : BootEnv) (low : s.pins.pwronN = false)
    (rails : s.pins.railsOk.all id = false) :
    exec (.pwronNDeassert env) s = .next { s with pins := { s.pins with pwronN := true } } := by
  show execPwronNDeassert env s = _
  simp only [execPwronNDeassert, low, State.powered, rails, Bool.and_false, Bool.false_eq_true, if_false]

/-- The state 10 ms after the last monitored rail has returned. -/
def State.railsBack (s : State) : State :=
  ({ s with pins := { s.pins with railsOk := [true, true, true] } } : State).advanceTo (s.clk.now + 10 * ms)

theorem powered_railsBack (s : State) : s.railsBack.powered = s.pins.pwronN := by
  simp [State.powered, State.railsBack]

theorem exec_railMonitorReturn {s : State} (env : BootEnv) (rails : s.pins.railsOk.all id = false) :
    exec (.railMonitorReturn env) s =
      .next (if s.railsBack.powered then s.railsBack.coldStart env else s.railsBack) := by
  show execRailMonitorReturn env s = _
  simp only [execRailMonitorReturn, rails, Bool.false_eq_true, if_false, State.railsBack]
  rfl

theorem exec_railMonitorReturn_of_pwron {s : State} (env : BootEnv) (high : s.pins.pwronN = true)
    (rails : s.pins.railsOk.all id = false) :
    exec (.railMonitorReturn env) s = .next (s.railsBack.coldStart env) := by
  rw [exec_railMonitorReturn env rails, powered_railsBack, high, if_pos rfl]

theorem exec_railMonitorReturn_of_no_pwron {s : State} (env : BootEnv) (low : s.pins.pwronN = false)
    (rails : s.pins.railsOk.all id = false) :
    exec (.railMonitorReturn env) s = .next s.railsBack := by
  rw [exec_railMonitorReturn env rails, powered_railsBack, low, if_neg Bool.false_ne_true]

/-! ## A cold start: what the selection of a slot leaves, and recovery mode -/

/-- The state of t0, before a slot is selected: what Chrysalis samples and draws. -/
def State.powered0 (s : State) (env : BootEnv) : State :=
  let u := s.draw.2
  { u with
    rst := { ResetState.reset with
      sliceMap := u.trust.mapSlices, coreMap := u.trust.mapCores
      phase := .starting, t0 := u.clk.now, bootsel := env.bootsel, failSlices := env.failSlices.map (fun (x : SliceId) => x.val)
      failChannels := env.failChannels.map (fun (x : ChanId) => x.val) }
    pins := { u.pins with refclkOk := true, xspi := Xspi.start u.clk.now env.octal }, clk := { u.clk with lode := 0, slew := 0 }
    pers := { u.pers with torn := u.pers.torn || env.torn }
    work := { u.work with bootEpoch := s.draw.1 % (2 ^ 64 - 1) + 1 } }

theorem coldStart_eq (s : State) (env : BootEnv) : s.coldStart env =
    (s.powered0 env).selectBoot (bootSlots env.bootsel) (fun k => if k == 0 then env.copyBadA else env.copyBadB) true := rfl

theorem bootSlots_one : bootSlots 1 = [] := rfl

/-- A processor released in recovery mode runs the recovery program. -/
theorem release_of_recovering {s : State} (p : Nat) (recovering : s.recovering = true) : s.release p =
    (((s.modProc p (fun x => { x with released := true })).setNum Obj.fwState p 1).modProc p (fun x => { x with
      start := s.clk.now, restarting := none, retry := false, waitBtp := false })) := by
  simp [State.release, recovering]

/-- With no slot to boot from the device is in recovery mode, which DEV_MODE tells. -/
theorem enterRecovery_mode (s : State) : s.enterRecovery.rst.phase = .recovery ∧ s.enterRecovery.num Obj.devMode = 1 := by
  unfold State.enterRecovery
  rw [release_of_recovering P.dxp (by rfl)]
  constructor
  · rfl
  · rw [State.modProc_num, State.setNum_num_other _ _ _ _ _ _ (by decide), State.modProc_num,
      State.setNum_num_other _ _ _ _ _ _ (by decide), State.setNum_num_other _ _ _ _ _ _ (by decide), State.setNum_num]

theorem selectBoot_nil (s : State) (bad : Nat → Bool) (rate : Bool) :
    s.selectBoot [] bad rate = (s.setNum Obj.bootAnomaly 0 0).enterRecovery := rfl

/-- The selection of a slot leaves what Chrysalis has sampled and drawn at t0. -/
theorem coldStart_frame (s : State) (env : BootEnv) :
    (s.coldStart env).rst.t0 = s.clk.now ∧ (s.coldStart env).clk = { s.clk with lode := 0, slew := 0 } ∧
    (s.coldStart env).rst.bootsel = env.bootsel ∧
    (s.coldStart env).work.bootEpoch = (s.powered0 env).work.bootEpoch := by
  rw [coldStart_eq]
  exact ⟨State.selectBoot_fix_rst_t0 _ _ _ rfl, State.selectBoot_fix_clk _ _ _ rfl,
    State.selectBoot_fix_rst_bootsel _ _ _ rfl, State.selectBoot_fix_work_bootEpoch _ _ _ rfl⟩

theorem bootEpoch_powered0 (s : State) (env : BootEnv) :
    (s.powered0 env).work.bootEpoch = s.draw.1 % (2 ^ 64 - 1) + 1 := by
  simp only [State.powered0]

theorem mod_add_one_ne_zero (v m : Nat) : v % m + 1 ≠ 0 := Nat.succ_ne_zero _

/-- The boot epoch drawn is other than 0. -/
theorem bootEpoch_ne_zero (s : State) (env : BootEnv) : (s.powered0 env).work.bootEpoch ≠ 0 := by
  rw [bootEpoch_powered0]
  exact mod_add_one_ne_zero _ _

/-- What loss of power leaves and what it drops (R484, R497). -/
theorem powerOnReset_parts (s : State) : let t := s.powerOnReset;
    t.objs = [] ∧ t.slices = State.reset.slices ∧ t.mem = State.reset.mem ∧ t.work = State.reset.work ∧
    t.media = State.reset.media ∧ t.link = State.reset.link ∧ t.fw = State.reset.fw ∧ t.rst.phase = .powerReset ∧
    t.safety.causes = 1 ∧ t.pins.safeA = false ∧ t.pins.safeB = true ∧ t.clk.lode = 0 ∧ t.clk.now = s.clk.now ∧
    t.trust.serial = s.trust.serial ∧ t.trust.rootKey = s.trust.rootKey ∧ t.trust.keyHash = s.trust.keyHash ∧
    t.trust.revoked = s.trust.revoked ∧ t.trust.instar = s.trust.instar ∧ t.trust.flash = s.trust.flash ∧
    t.pers = s.pers :=
  ⟨rfl, rfl, rfl, rfl, rfl, rfl, rfl, rfl, rfl, rfl, rfl, rfl, rfl, rfl, rfl, rfl, rfl, rfl, rfl, rfl⟩

theorem coldStart_recovers {s : State} {env : BootEnv} (recovery : env.bootsel = 1) :
    (s.coldStart env).rst.phase = .recovery ∧ (s.coldStart env).num Obj.devMode = 1 := by
  rw [coldStart_eq, recovery, bootSlots_one, selectBoot_nil]
  exact enterRecovery_mode _

theorem coldStart_samples (s : State) (env : BootEnv) : let t := s.coldStart env;
    t.rst.t0 = s.clk.now ∧ t.clk.now = s.clk.now ∧ t.clk.lode = 0 ∧ t.clk.slew = 0 ∧ t.rst.bootsel = env.bootsel ∧
    t.work.bootEpoch ≠ 0 := by
  obtain ⟨t0, clk, bootsel, epoch⟩ := coldStart_frame s env
  refine ⟨t0, by rw [clk], by rw [clk], by rw [clk], bootsel, ?_⟩
  rw [epoch]
  exact bootEpoch_ne_zero s env

/-- Settles O10: the commands case by case, and the frames of the selection of a slot. -/
theorem powerCycle : Obligations.PowerCycle := by
  constructor
  · intro s
    exact ⟨exec_pwronNAssert, fun rail => rfl, powerOnReset_parts s⟩
  · intro env s
    refine ⟨exec_pwronNDeassert_of_rails env, exec_pwronNDeassert_of_no_rails env,
      exec_railMonitorReturn_of_pwron env, exec_railMonitorReturn_of_no_pwron env, ?_⟩
    obtain ⟨t0, now, lode, slew, bootsel, epoch⟩ := coldStart_samples s env
    exact ⟨t0, now, lode, slew, bootsel, epoch, coldStart_recovers⟩

end Sys2Proof.Machine
end

section
/-! Writes of command objects in their turn: what a write that meets R369 comes to. Used by the proofs below. -/

namespace Sys2Proof.Machine

/-- The checks of a write may be made before or after its request has taken its turn, where its rule reads nothing that the
turn changes. -/
theorem Writes.taken {s : State} {r : ObjRow} {k : Nat} {w : WriteRule} {v : Val} (meets : Writes s r k w v) (req : Req)
    (check : w.check (s.taken req r k) v = w.check s v) (pre : w.pre (s.taken req r k) v = w.pre s v) :
    Writes (s.taken req r k) r k w v where
  range := meets.range
  check := check.trans meets.check
  free := meets.free
  owner := meets.owner
  pre := pre.trans meets.pre

/-- A row of a command object: it can be written, its writes take effect at once, and nothing of it is persisted. -/
structure ObjRow.Command (r : ObjRow) : Prop where
  writable : r.access ≠ 1
  atOnce : r.access ≠ 4
  plain : r.aclass % 8 = 0

/-- A write of a command object in its turn, by a rule that answers OK where it meets R369: its effect and the response. -/
theorem State.hostWrite_wrote {s : State} {w : CmdW} {r : ObjRow} {k : Nat} {rule : WriteRule} {f : State → State}
    (turn : Turn s w.req) (command : r.Command) (meets : Writes (s.taken w.req r k) r k rule (.num w.value))
    (apply : rule.apply (s.taken w.req r k) (.num w.value) = f (s.taken w.req r k))
    (answer : rule.answer (s.taken w.req r k) (.num w.value) = St.ok) (cmd : Instr) :
    s.hostWrite cmd w r k rule = s.wrote w.req r k f := by
  rw [State.hostWrite_turn turn meets command.writable command.atOnce command.plain, apply, answer]
  rfl

/-- The same for a rule made of a precondition and an effect on the number written. -/
theorem State.hostWrite_cmd {s : State} {w : CmdW} {r : ObjRow} {k : Nat} {pre : State → Nat → Nat}
    {f : State → Nat → State} (turn : Turn s w.req) (command : r.Command)
    (meets : Writes s r k (WriteRule.cmd pre f) (.num w.value))
    (steady : pre (s.taken w.req r k) w.value = pre s w.value) (cmd : Instr) :
    s.hostWrite cmd w r k (WriteRule.cmd pre f) = s.wrote w.req r k (fun u => f u w.value) :=
  State.hostWrite_wrote turn command (meets.taken w.req rfl steady) rfl rfl cmd

/-- A write of a BLOB object in its turn. -/
theorem State.hostBlob_wrote {s : State} {w : BlobW} {r : ObjRow} {k : Nat} {rule : WriteRule} {f : State → State}
    (turn : Turn s w.req) (command : r.Command) (meets : Writes (s.taken w.req r k) r k rule (.blob w.bytes))
    (apply : rule.apply (s.taken w.req r k) (.blob w.bytes) = f (s.taken w.req r k))
    (answer : rule.answer (s.taken w.req r k) (.blob w.bytes) = St.ok) (cmd : Instr) :
    s.hostBlob cmd w r k rule = s.wrote w.req r k f := by
  rw [State.hostBlob_turn turn meets command.writable command.atOnce command.plain, apply, answer]
  rfl

end Sys2Proof.Machine
end

section
/-! The proof of O11: warm resets. -/

namespace Sys2Proof.Machine

/-! ## The commands, a case each -/

theorem exec_warmNAssert {s : State} (high : s.pins.warmN = true) : exec .warmNAssert s =
    .next (settle s (({ s with pins := { s.pins with warmN := false } } : State).warmReset 1 none)) := by
  show execWarmNAssert s = _
  simp only [execWarmNAssert, high, Bool.not_true, Bool.false_eq_true, if_false, done]

theorem exec_warmNDeassert {s : State} (low : s.pins.warmN = false) (held : s.rst.phase = .warmHeld) :
    exec .warmNDeassert s = .next ({ s with pins := { s.pins with warmN := true } } : State).reload := by
  show execWarmNDeassert s = _
  simp only [execWarmNDeassert, low, held, Bool.false_eq_true, if_false, beq_self_eq_true, if_true]

theorem warmCmd_command : Obj.warmCmd.Command := ⟨by decide, by decide, by decide⟩

/-- The warm reset that WARM_CMD leaves due starts when the response has been sent. -/
theorem exec_warmCmd {s : State} {w : CmdW} (turn : Turn s w.req) (due : s.fw.due = none)
    (meets : Writes s Obj.warmCmd 0 warmCmdRule (.num w.value)) :
    exec (.warmCmd w) s = .next (settle s ((s.wrote w.req Obj.warmCmd 0 id).warmReset 2 none)) := by
  show done s (s.hostWrite (.warmCmd w) w Obj.warmCmd 0 warmCmdRule).runDue = _
  have written : s.hostWrite (.warmCmd w) w Obj.warmCmd 0 warmCmdRule =
      s.wrote w.req Obj.warmCmd 0 (fun u => { u with fw := { u.fw with due := some (.warm 2) } }) :=
    State.hostWrite_cmd turn warmCmd_command meets rfl (.warmCmd w)
  have ran := State.runDue_due (s.taken w.req Obj.warmCmd 0) due w.req (.warm 2) St.ok
  rw [written]
  unfold done
  rw [State.wrote, ran]
  rfl

/-! ## What a warm reset is -/

/-- The state in which the reset is counted: the staging has failed, cause 0 is active, RESET_CAUSE is told. -/
def State.warmCounted (s : State) (cause : Nat) : State :=
  ((s.failStaging.enterCause 0).setNum Obj.resetCause 0 cause).count Obj.warmResets

/-- The reset counts its time from now and holds the memory until the bring-up. -/
def State.warmHold (u : State) (bundle : Option Nat) : State :=
  { u with rst := { u.rst with t0 := u.clk.now, memHeld := true, admitDue := true, bundleSlot := bundle.or u.rst.bundleSlot } }

/-- What stands after the parts have been cleared. -/
def State.warmCleared (s : State) : State := s.warmLink.warmHardware.warmMedia.warmApply.warmWork

/-- The state that a warm reset clears. -/
def State.warmBegun (s : State) (cause : Nat) (bundle : Option Nat) : State := (s.warmCounted cause).warmHold bundle

/-- The device starts again, or stands held while WARM_N is low. -/
def State.warmEnd (v : State) : State :=
  if v.pins.warmN then v.reload else { v with rst := { v.rst with phase := .warmHeld } }

theorem State.warmHold_eq (u : State) (bundle : Option Nat) : u.warmHold bundle =
    { u with rst := { u.rst with
      t0 := u.clk.now, memHeld := true, admitDue := true, bundleSlot := bundle.or u.rst.bundleSlot } } := rfl

theorem State.warmCleared_eq (s : State) :
    s.warmCleared = s.warmLink.warmHardware.warmMedia.warmApply.warmWork := rfl

theorem State.warmReset_runs {s : State} (cool : s.power.tripped = false) (on : s.rst.phase ≠ .powerReset) (cause : Nat)
    (bundle : Option Nat) : s.warmReset cause bundle = (s.warmBegun cause bundle).warmCleared.warmEnd := by
  have runs : ¬ (s.power.tripped || s.rst.phase == .powerReset) = true := by simp [cool, on]
  simp only [State.warmReset]
  rw [if_neg runs, ← State.warmCounted, ← State.warmHold_eq, ← State.warmBegun, ← State.warmCleared_eq, ← State.warmEnd]

theorem State.warmEnd_high {v : State} (high : v.pins.warmN = true) : v.warmEnd = v.reload := if_pos high

theorem State.warmEnd_low {v : State} (low : v.pins.warmN = false) :
    v.warmEnd = { v with rst := { v.rst with phase := .warmHeld } } := if_neg (by simp [low])

theorem State.warmCleared_clk (s : State) : s.warmCleared.clk = s.clk :=
  State.warmWork_fix_clk (State.warmApply_fix_clk (State.warmMedia_fix_clk (State.warmHardware_fix_clk
    (State.warmLink_fix_clk rfl))))

theorem State.warmCleared_t0 (s : State) : s.warmCleared.rst.t0 = s.rst.t0 :=
  State.warmWork_fix_rst_t0 (State.warmApply_fix_rst_t0 (State.warmMedia_fix_rst_t0 (State.warmHardware_fix_rst_t0
    (State.warmLink_fix_rst_t0 rfl))))

theorem State.warmCleared_bootEpoch (s : State) : s.warmCleared.work.bootEpoch = s.work.bootEpoch :=
  State.warmWork_fix_work_bootEpoch (State.warmApply_fix_work_bootEpoch (State.warmMedia_fix_work_bootEpoch
    (State.warmHardware_fix_work_bootEpoch (State.warmLink_fix_work_bootEpoch rfl))))

theorem State.warmCleared_warmN (s : State) : s.warmCleared.pins.warmN = s.pins.warmN :=
  State.warmWork_fix_pins_warmN (State.warmApply_fix_pins_warmN (State.warmMedia_fix_pins_warmN
    (State.warmHardware_fix_pins_warmN (State.warmLink_fix_pins_warmN rfl))))

theorem State.warmCleared_flags (s : State) : s.warmCleared.work.flags = [] := rfl

theorem State.warmCleared_replayDone (s : State) : s.warmCleared.work.replayDone = false := rfl

theorem State.warmLink_lease (s : State) : s.warmLink.link.lease = .free :=
  State.abortDeferred_fix_link_lease rfl

theorem State.warmCleared_lease (s : State) : s.warmCleared.link.lease = .free :=
  State.warmWork_fix_link_lease (State.warmApply_fix_link_lease (State.warmMedia_fix_link_lease
    (State.warmHardware_fix_link_lease s.warmLink_lease)))

/-! ## The causes of the safe state -/

theorem State.clearAll_safety (s : State) (rows : List ObjRow) : (s.clearAll rows).safety = s.safety := by
  have row : ∀ (r : ObjRow) (t : State), Fix (·.safety) s.safety t →
      Fix (·.safety) s.safety ((List.range r.count).foldl (fun s k => s.clearObj r k) t) :=
    fun r t h => h.foldl fun _ _ k => k
  exact Fix.foldl (p := (·.safety)) rfl fun t r h => row r t h

theorem State.warmSlices_safety (s : State) : s.warmSlices.safety = s.safety :=
  Fix.foldl (p := (·.safety)) rfl fun _ _ h => h

theorem State.warmParts_causes (s : State) : s.warmParts.safety.causes = s.safety.causes := rfl

theorem State.warmProcs_safety (s : State) : s.warmProcs.safety = s.safety :=
  Fix.foldl (p := (·.safety)) rfl fun _ _ h => h

/-- A warm reset ends causes 1 to 3, and no other. -/
theorem State.leaveWarmCauses_cause0 {u : State} (active : u.safety.causes.getLsbD 0 = true) :
    (((if u.pins.refclkOk then u.leaveCause 1 else u).leaveCause 2).leaveCause 3).safety.causes.getLsbD 0 = true := by
  refine State.leaveCause_bit _ 3 (by decide) (by decide) (State.leaveCause_bit _ 2 (by decide) (by decide) ?_)
  split
  · exact State.leaveCause_bit _ 1 (by decide) (by decide) active
  · exact active

theorem State.warmHardware_cause0 {s : State} (active : s.safety.causes.getLsbD 0 = true) :
    s.warmHardware.safety.causes.getLsbD 0 = true := by
  have parts : ((s.clearAll warmRows).warmSlices.warmParts.warmProcs).safety.causes.getLsbD 0 = true := by
    rw [State.warmProcs_safety, State.warmParts_causes, State.warmSlices_safety, State.clearAll_safety, active]
  simp only [State.warmHardware]
  exact State.leaveWarmCauses_cause0 parts

theorem State.warmCleared_cause0 {s : State} (active : s.safety.causes.getLsbD 0 = true) :
    s.warmCleared.safety.causes.getLsbD 0 = true := by
  have kept : s.warmCleared.safety = s.warmLink.warmHardware.safety :=
    State.warmWork_fix_safety (State.warmApply_fix_safety (State.warmMedia_fix_safety rfl))
  have link : s.warmLink.safety = s.safety := State.warmLink_fix_safety rfl
  rw [kept]
  exact State.warmHardware_cause0 (link ▸ active)

/-! ## The state that is cleared -/

theorem State.warmBegun_clk (s : State) (cause : Nat) (bundle : Option Nat) : (s.warmBegun cause bundle).clk = s.clk :=
  State.count_fix_clk Obj.warmResets 0 1 (State.enterCause_fix_clk 0 (State.failStaging_fix_clk rfl))

theorem State.warmBegun_t0 (s : State) (cause : Nat) (bundle : Option Nat) :
    (s.warmBegun cause bundle).rst.t0 = s.clk.now :=
  congrArg Clock.now (s.warmBegun_clk cause bundle)

theorem State.warmBegun_bootEpoch (s : State) (cause : Nat) (bundle : Option Nat) :
    (s.warmBegun cause bundle).work.bootEpoch = s.work.bootEpoch :=
  State.count_fix_work_bootEpoch Obj.warmResets 0 1 (State.enterCause_fix_work_bootEpoch 0 (State.failStaging_fix_work_bootEpoch rfl))

theorem State.warmBegun_warmN (s : State) (cause : Nat) (bundle : Option Nat) :
    (s.warmBegun cause bundle).pins.warmN = s.pins.warmN :=
  State.count_fix_pins_warmN Obj.warmResets 0 1 (State.failStaging_fix_pins_warmN rfl)

theorem State.warmBegun_cause0 (s : State) (cause : Nat) (bundle : Option Nat) :
    (s.warmBegun cause bundle).safety.causes.getLsbD 0 = true :=
  s.failStaging.enterCause_bit 0 (by decide)

/-! ## What stands after the reset, whether the device starts or is held -/

theorem State.warmEnd_keeps (v : State) : v.warmEnd.safety = v.safety ∧ v.warmEnd.work = v.work ∧
    v.warmEnd.link.lease = v.link.lease ∧ v.warmEnd.rst.t0 = v.rst.t0 ∧ v.warmEnd.clk = v.clk := by
  unfold State.warmEnd
  split
  · exact ⟨State.reload_fix_safety rfl, State.reload_fix_work rfl, State.reload_fix_link_lease rfl,
      State.reload_fix_rst_t0 rfl, State.reload_fix_clk rfl⟩
  · exact ⟨rfl, rfl, rfl, rfl, rfl⟩

end Sys2Proof.Machine

open Sys2Proof.Machine in
/-- Settles O11: the triggers case by case; the effect from what the clearing leaves and what the end of the reset keeps. -/
theorem warmResets : Obligations.WarmResets := by
  intro s cool on
  refine ⟨exec_warmNAssert, exec_warmNDeassert, fun w turn due _ meets => exec_warmCmd turn due meets, ?_⟩
  intro cause b
  dsimp only
  rw [← State.warmCounted, ← State.warmHold_eq, ← State.warmBegun, ← State.warmCleared_eq]
  have runs := State.warmReset_runs cool on cause b
  obtain ⟨safety, work, lease, t0, clk⟩ := (s.warmBegun cause b).warmCleared.warmEnd_keeps
  rw [← runs] at safety work lease t0 clk
  have pin : (s.warmBegun cause b).warmCleared.pins.warmN = s.pins.warmN :=
    (State.warmCleared_warmN _).trans (s.warmBegun_warmN cause b)
  refine ⟨fun high => ?_, fun low => ?_, ?_, ?_, ?_, ?_, ?_, ?_, ?_⟩
  · exact runs.trans (State.warmEnd_high (pin.trans high))
  · exact runs.trans (State.warmEnd_low (pin.trans low))
  · rw [safety]; exact State.warmCleared_cause0 (s.warmBegun_cause0 cause b)
  · rw [work]; exact State.warmCleared_flags _
  · rw [work]; exact State.warmCleared_replayDone _
  · rw [lease]; exact State.warmCleared_lease _
  · rw [work]; exact (State.warmCleared_bootEpoch _).trans (s.warmBegun_bootEpoch cause b)
  · rw [t0]; exact (State.warmCleared_t0 _).trans (s.warmBegun_t0 cause b)
  · rw [clk]; exact (State.warmCleared_clk _).trans (s.warmBegun_clk cause b)
end

section
/-! The proofs of O13 and O15: crossings to an island that is not off, supply faults, loss of the clock, slice resets. -/

namespace Sys2Proof.Machine

/-! ## Crossings to an island that is not off (R12, R13) -/

theorem exec_crossingRequest_of_acked {s : State} {req tgt : Nat} (chan : Option ChanId)
    (running : s.rst.phase ≠ .powerReset) (crosses : req ≠ tgt) (on : s.islandOff tgt = false) :
    exec (.crossingRequest req tgt chan true) s = .next s := by
  show execCrossingRequest req tgt chan true s = _
  simp [execCrossingRequest, running, crosses, on]

theorem exec_crossingRequest_of_waiting {s : State} {req tgt : Nat} (chan : Option ChanId)
    (running : s.rst.phase ≠ .powerReset) (crosses : req ≠ tgt) (on : s.islandOff tgt = false) :
    exec (.crossingRequest req tgt chan false) s =
      .next { s with isl := { s.isl with
        crossings := s.isl.crossings ++ [{ id := s.isl.nextId, req := req, tgt := tgt, chan := chan.map (·.val)
                                           start := s.clk.now, abandoned := false }]
        nextId := s.isl.nextId + 1 } } := by
  show execCrossingRequest req tgt chan false s = _
  simp [execCrossingRequest, running, crosses, on]

theorem now_abandonCrossing {s : State} {c : Crossing} (due : s.clk.now ≤ c.start + 2 * us) :
    (s.abandonCrossing c).clk.now = c.start + 2 * us :=
  (State.advanceTo_now s _).trans (Nat.max_eq_right due)

/-- Settles O13. -/
theorem crossings : Obligations.Crossings := by
  intro s req tgt chan running crosses
  refine ⟨exec_crossingRequest_of_acked chan running crosses, exec_crossingRequest_of_waiting chan running crosses,
    fun c isOpen due => ?_⟩
  exact ⟨s.abandonCrossing c, exec_islandHandshakeTimeout_of_open isOpen, now_abandonCrossing due⟩

/-! ## Supplies, the clock, slice resets (R485, R497, R501) -/

theorem exec_coreRailLow_of_in_service {s : State} {n : SliceId} (running : s.rst.phase ≠ .powerReset)
    (serves : s.num Obj.sliceState n = 0) (on : (s.slice n).off = false) :
    exec (.coreRailLow (some n)) s = .next (settle s ((s.postOpen 1 n).islandReaction n none)) := by
  show execCoreRailLow (some n) s = _
  simp [execCoreRailLow, running, serves, on, done]

/-- The state after loss of REFCLK25, before the reported state is settled. -/
def State.refclkLost (s : State) : State :=
  (({ s with pins := { s.pins with refclkOk := false } } : State).postOpen 0 0xFF).enterCause 1

theorem exec_refclkLoss {s : State} (running : s.rst.phase ≠ .powerReset) (clocked : s.pins.refclkOk = true) :
    exec .refclkLoss s = .next (settle s s.refclkLost) := by
  have lost : ¬ (s.rst.phase == .powerReset || !s.pins.refclkOk) = true := by simp [running, clocked]
  show execRefclkLoss s = _
  exact if_neg lost

theorem sliceResetCmd_command : Obj.sliceResetCmd.Command := ⟨by decide, by decide, by decide⟩

theorem exec_sliceResetCmd {s : State} {w : CmdW} (turn : Turn s w.req)
    (meets : Writes s Obj.sliceResetCmd 0 sliceResetRule (.num w.value)) :
    exec (.sliceResetCmd w) s =
      .next (settle s (s.wrote w.req Obj.sliceResetCmd 0 (fun u => u.beginReset w.value))) :=
  congrArg (done s) (State.hostWrite_cmd turn sliceResetCmd_command meets rfl (.sliceResetCmd w))

theorem exec_sliceResetTimeout {s : State} {sl : SliceId} {t0 : Nat} (resetting : (s.slice sl).resetting = some t0) :
    exec (.sliceResetTimeout sl) s = .next (settle s ((s.advanceTo (t0 + 50 * ms)).retireSlice sl 3)) := by
  show execSliceResetTimeout sl s = _
  simp only [execSliceResetTimeout, resetting, done]

/-- Settles O15. -/
theorem sliceSupplies : Obligations.SliceSupplies := by
  refine ⟨fun s running => ⟨fun n serves on => exec_coreRailLow_of_in_service running serves on, rfl, fun clocked => ?_⟩,
    fun s w turn meets => exec_sliceResetCmd turn meets, fun s sl t0 resetting => exec_sliceResetTimeout resetting⟩
  obtain ⟨safeA, safeB⟩ := State.enterCause_lines
    (({ s with pins := { s.pins with refclkOk := false } } : State).postOpen 0 0xFF) 1 (by decide)
  exact ⟨s.refclkLost, exec_refclkLoss running clocked, State.enterCause_bit _ 1 (by decide), safeA, safeB, rfl, rfl, rfl,
    rfl, rfl⟩

end Sys2Proof.Machine
end

section
/-! The proof of O16: the scalar operations of a bundle, and the fetch of program rows. -/

namespace Sys2Proof.Machine

/-! ## What a slot that takes effect leaves of the sequencer -/

@[simp] theorem before_slotDone (t : State) (n k : Nat) :
    ((t.slotDone n k).slice n).seq.before = (t.slice n).seq.before := by
  rw [State.slotDone, State.slice_modSeq]

/-! ## Counters, address bases, comparators, the layer (Table — SCL operations) -/

section
variable {s t : State} {sl : SliceId} {b : Option Issue} {w : DWord} (slot : Slot s sl b 24 w t)
include slot

theorem exec_lcSet (op : sclOp w.toNat = 1) : exec (.lcSet sl b w) s =
    .next ((t.slotDone sl 24).modRegs sl (fun r => { r with lc := r.lc.set (sclA w) (sclImm w) })) :=
  congrArg Host.Outcome.next (State.scl_of slot 1 op _)

theorem exec_lcAdd (op : sclOp w.toNat = 2) : exec (.lcAdd sl b w) s = .next ((t.slotDone sl 24).modRegs sl
    (fun r => { r with lc := r.lc.set (sclA w) (r.lc[sclA w] + sclImm w) })) :=
  congrArg Host.Outcome.next (State.scl_of slot 2 op _)

theorem exec_abSet (op : sclOp w.toNat = 3) : exec (.abSet sl b w) s =
    .next ((t.slotDone sl 24).modRegs sl (fun r => { r with ab := r.ab.set (sclA w) (sclImm w) })) :=
  congrArg Host.Outcome.next (State.scl_of slot 3 op _)

theorem exec_abAdd (op : sclOp w.toNat = 4) : exec (.abAdd sl b w) s = .next ((t.slotDone sl 24).modRegs sl
    (fun r => { r with ab := r.ab.set (sclA w) (r.ab[sclA w] + sclImm w) })) :=
  congrArg Host.Outcome.next (State.scl_of slot 4 op _)

theorem exec_cmp (op : sclOp w.toNat = 5) : exec (.cmp sl b w) s = .next ((t.slotDone sl 24).modRegs sl
    (fun r => { r with cmp := r.cmp.set (sclC w) (condHolds (bits w.toNat 52 51) r.lc[sclA w] (sclImm w)) })) :=
  congrArg Host.Outcome.next (State.scl_of slot 5 op _)

theorem exec_layer_of_same (op : sclOp w.toNat = 0x18) (same : (t.slice sl).seq.before.layer = w.setWidth 16) :
    exec (.layer sl b w) s =
      .next ((t.slotDone sl 24).modRegs sl (fun r => { r with layer := w.setWidth 16 })) := by
  show execLayer sl b w s = _
  rw [execLayer, State.scl_of slot 0x18 op]
  simp only [before_slotDone, same, beq_self_eq_true, if_true]

theorem exec_layer_of_new (op : sclOp w.toNat = 0x18) (new : (t.slice sl).seq.before.layer ≠ w.setWidth 16) :
    exec (.layer sl b w) s =
      .next (((t.slotDone sl 24).flush sl).modRegs sl (fun r => { r with layer := w.setWidth 16 })) := by
  show execLayer sl b w s = _
  rw [execLayer, State.scl_of slot 0x18 op]
  simp only [before_slotDone, beq_eq_false_iff_ne.2 new, Bool.false_eq_true, if_false]

/-! ## Branches and HALT -/

theorem exec_br (op : sclOp w.toNat = 6) : exec (.br sl b w) s =
    .next (if (t.slice sl).seq.before.cmp[sclC w] then (t.slotDone sl 24).branchTo sl w else t.slotDone sl 24) := by
  show execBr sl b w s = _
  rw [execBr, State.scl_of slot 6 op]
  simp only [before_slotDone]

theorem exec_brn (op : sclOp w.toNat = 7) : exec (.brn sl b w) s =
    .next (if (t.slice sl).seq.before.cmp[sclC w] then t.slotDone sl 24 else (t.slotDone sl 24).branchTo sl w) := by
  show execBrn sl b w s = _
  rw [execBrn, State.scl_of slot 7 op]
  simp only [before_slotDone]

/-- The state after LOOP has counted: the counter holds v, the compare bit tells whether it is 0. -/
def State.looped (u : State) (n : Nat) (w : DWord) (v : Word) : State :=
  u.modRegs n (fun r => { r with lc := r.lc.set (sclA w) v, cmp := r.cmp.set (sclC w) (v != 0) })

theorem exec_loop (op : sclOp w.toNat = 8) : exec (.loop sl b w) s =
    .next (let v := (t.slice sl).seq.before.lc[sclA w] - 1
      if v = 0 then (t.slotDone sl 24).looped sl w v else ((t.slotDone sl 24).looped sl w v).branchTo sl w) := by
  show execLoop sl b w s = _
  rw [execLoop, State.scl_of slot 8 op]
  simp only [before_slotDone, State.looped, bne_iff_ne, ite_not]

/-- The state of a slice whose program has halted with its totals flushed. -/
def State.haltedAt (u : State) (n : Nat) : State :=
  (u.flush n).modSeq n (fun q => { q with halted := true, mode := .idle })

theorem exec_halt (op : sclOp w.toNat = 0x3F) :
    exec (.halt sl b w) s = .next (((t.slotDone sl 24).haltedAt sl).nextStage sl) :=
  congrArg Host.Outcome.next (State.scl_of slot 0x3F op _)

end

theorem halted_haltedAt (u : State) (n : Nat) : ((u.haltedAt n).slice n).seq.halted = true := by
  rw [State.haltedAt, State.slice_modSeq]

/-- A best-effort job, and one whose last program has halted, does not go on at HALT. -/
theorem nextStage_of_end {y : State} {n : Nat}
    (ends : ∀ r, (y.slice n).run = some r → r.klass = 2 ∨ r.programs = []) : y.nextStage n = y := by
  unfold State.nextStage
  split
  next r run =>
    obtain bestEffort | last := ends r run
    · simp [bestEffort]
    · simp [last]
  next => rfl

/-- A job of a higher class goes on where the SCP runs. -/
theorem nextStage_of_more {y : State} {n : Nat} {r : Run} (run : (y.slice n).run = some r) (klass : r.klass ≠ 2)
    (more : r.programs ≠ []) (halted : (y.slice n).seq.halted = true) :
    y.nextStage n = if y.runs P.scp then y.nextProgram n else y := by
  simp [State.nextStage, run, klass, more, halted]

/-! ## PROGRAM_FETCH (R90, R116) -/

/-- The byte from which the program's next row is fetched. -/
def Slice.fetchNext (x : Slice) : Nat := max x.seq.fetched x.seq.pc

/-- How far the program may be fetched. -/
def Slice.fetchEnd (x : Slice) (a : Alloc) : Nat := x.fetchLimit 64 x.seq.pc (min a.progLen (x.seq.pc + 256))

/-- The group of the program's next row. -/
def Slice.fetchGroup (x : Slice) (a : Alloc) : Nat := (a.base + a.progRow + x.fetchNext / 128) % 8

/-- The state in which slice n has fetched one more row in the slot of cycle cyc. -/
def State.fetchedRow (s : State) (n cyc : Nat) (a : Alloc) : State :=
  let upto := min ((s.slice n).fetchEnd a) (((s.slice n).fetchNext / 128 + 1) * 128)
  (s.modSeq n (fun q => { q with fetched := upto })).modStore n (fun t => { t with
    pend := [], slots := tput t.slots (slotKey .dma ((s.slice n).fetchGroup a)) cyc })

theorem Slice.fetchNext_eq (x : Slice) : max x.seq.fetched x.seq.pc = x.fetchNext := rfl

theorem Slice.fetchEnd_eq (x : Slice) (a : Alloc) :
    x.fetchLimit 64 x.seq.pc (min a.progLen (x.seq.pc + 256)) = x.fetchEnd a := rfl

theorem Slice.fetchGroup_eq (x : Slice) (a : Alloc) :
    (a.base + a.progRow + x.fetchNext / 128) % 8 = x.fetchGroup a := rfl

/-- With no access pending at a port, the row is fetched in a free slot of the DMA port in this cycle. -/
theorem exec_programFetch {s : State} {sl : SliceId} {cyc : Nat} {a : Alloc} (alloc : (s.slice sl).alloc = some a)
    (placed : (s.slice sl).seq.mode ≠ .idle) (good : (s.slice sl).seq.mode ≠ .faulted)
    (more : (s.slice sl).fetchNext < (s.slice sl).fetchEnd a) (idle : (s.slice sl).store.pend = [])
    (port : slotFrom .dma ((s.slice sl).fetchGroup a) cyc = cyc)
    (unused : ∀ l, tfind (s.slice sl).store.slots (slotKey .dma ((s.slice sl).fetchGroup a)) = some l → l < cyc) :
    exec (.programFetch ⟨sl, cyc⟩) s = .next (settle s (s.fetchedRow sl cyc a)) := by
  show execProgramFetch ⟨sl, cyc⟩ s = _
  unfold State.fetchedRow
  generalize hx : s.slice sl = x at *
  have ports : State.portsTo sl cyc 0 s = s := rfl
  have last : max cyc ((tfind x.store.slots (slotKey .dma (x.fetchGroup a))).getD 0) = cyc := by
    cases h : tfind x.store.slots (slotKey .dma (x.fetchGroup a)) with
    | none => exact Nat.max_eq_left (Nat.zero_le _)
    | some l => exact Nat.max_eq_left (Nat.le_of_lt (unused l h))
  have within : ¬ x.fetchEnd a ≤ x.fetchNext := Nat.not_le.2 more
  unfold execProgramFetch
  simp only [hx, idle, List.length_nil, ports, alloc, beq_eq_false_iff_ne.2 placed, beq_eq_false_iff_ne.2 good,
    Slice.fetchNext_eq, Slice.fetchEnd_eq, Slice.fetchGroup_eq, port]
  rw [if_neg (by simp), if_neg]
  · simp only [delayPend, List.filter_nil, List.map_nil, List.foldl_nil, last, done]
  · cases h : tfind x.store.slots (slotKey .dma (x.fetchGroup a)) with
    | none => simp [within]
    | some l => simp [within, unused l h]

/-! ## Flags (R129, R258, R259) -/

/-- The state in which flag f has been cleared alone. -/
def State.flagCleared (u : State) (f : Nat) : State :=
  { u with work := { u.work with flags := u.work.flags.filter (· != f) } }

theorem flagOn_flagCleared_same (u : State) (f : Nat) : (u.flagCleared f).flagOn f = false := by
  simp [State.flagOn, State.flagCleared]

theorem flagOn_flagCleared_other (u : State) {f g : Nat} (other : g ≠ f) : (u.flagCleared f).flagOn g = u.flagOn g := by
  rw [Bool.eq_iff_iff]
  simp [State.flagOn, State.flagCleared, other]

section
variable {s t : State} {sl : SliceId} {b : Option Issue} {w : DWord} (slot : Slot s sl b 24 w t)
include slot

theorem exec_sclFlagWait (op : sclOp w.toNat = 0x10) : exec (.sclFlagWait sl b w) s = .next (t.slotDone sl 24) :=
  congrArg Host.Outcome.next (State.scl_of slot 0x10 op _)

theorem exec_sclFlagSet (op : sclOp w.toNat = 0x11) : exec (.sclFlagSet sl b w) s =
    .next (settle s ((t.slotDone sl 24).setFlag (w.toNat % 1024))) :=
  congrArg (done s) (State.scl_of slot 0x11 op _)

theorem exec_sclFlagClr_of_set (op : sclOp w.toNat = 0x12) : exec (.sclFlagClr sl b w true) s =
    .next (settle s ((t.slotDone sl 24).setFlag (w.toNat % 1024))) :=
  congrArg (done s) (State.scl_of slot 0x12 op _)

theorem exec_sclFlagClr_alone (op : sclOp w.toNat = 0x12) : exec (.sclFlagClr sl b w false) s =
    .next (settle s ((t.slotDone sl 24).flagCleared (w.toNat % 1024))) :=
  congrArg (done s) (State.scl_of slot 0x12 op _)

end

/-- Settles O16, an operation at a time. -/
theorem sclOperations : Obligations.SclOperations := by
  refine ⟨fun s t sl b w slot => ?_, ⟨fun s t sl b w slot => ?_, fun s sl cyc a => ?_⟩, fun s t sl b w slot => ?_⟩
  · exact ⟨exec_lcSet slot, exec_lcAdd slot, exec_abSet slot, exec_abAdd slot, exec_cmp slot, exec_layer_of_same slot,
      exec_layer_of_new slot⟩
  · refine ⟨exec_br slot, exec_brn slot, exec_loop slot, fun op => ⟨fun ends => ?_, fun r run klass more => ?_⟩⟩
    · exact (exec_halt slot op).trans (congrArg Host.Outcome.next (nextStage_of_end ends))
    · exact (exec_halt slot op).trans (congrArg Host.Outcome.next
        (nextStage_of_more run klass more (halted_haltedAt _ _)))
  · intro x lim cur g alloc placed good more idle port unused
    exact exec_programFetch alloc placed good more idle port unused
  · exact ⟨exec_sclFlagWait slot, exec_sclFlagSet slot, exec_sclFlagClr_of_set slot, fun op =>
      ⟨(t.slotDone sl 24).flagCleared (w.toNat % 1024), exec_sclFlagClr_alone slot op, flagOn_flagCleared_same _ _,
        fun g other => (flagOn_flagCleared_other _ other).trans rfl, rfl⟩⟩

end Sys2Proof.Machine
end

section
/-! The proof of O17: what holds a bundle, and breakpoints. -/

namespace Sys2Proof.Machine

theorem State.modSlice_modSlice (s : State) (n : Nat) (f g : Slice → Slice) :
    (s.modSlice n f).modSlice n g = s.modSlice n (fun x => g (f x)) := by
  simp [State.modSlice, State.setSlice, State.slice]

theorem State.modSeq_modSeq (s : State) (n : Nat) (f g : Seq → Seq) :
    (s.modSeq n f).modSeq n g = s.modSeq n (fun q => g (f q)) := State.modSlice_modSlice s n _ _

/-! ## Holds (R119, R130, R131) -/

/-- The next bundle is tried and something of Table — SEQ_HOLD holds it. -/
theorem slot_of_held {v : State} {n : Nat} {i : Issue} (k : Nat) (w : DWord)
    (may : (v.reached n i.cyc).mayAdvance n i.cyc = true)
    (header : ((v.reached n i.cyc).slice n).hdrAt ((v.reached n i.cyc).slice n).seq.pc = i.hdr.toNat)
    (held : (v.reached n i.cyc).issueHold n i.cyc ≠ 0) :
    v.slot n (some i) k w =
      (false, (v.reached n i.cyc).holdSeq n ((v.reached n i.cyc).issueHold n i.cyc)) := by
  have tried : v.tryIssue n i =
      (false, (v.reached n i.cyc).holdSeq n ((v.reached n i.cyc).issueHold n i.cyc)) := by
    unfold State.tryIssue
    unfold State.reached at may header held ⊢
    simp [may, header, held]
  simp [State.slot, tried]

theorem mayAdvance_of {s : State} {n cyc : Nat} (goes : (s.slice n).seq.mode = .issuing ∨ (s.slice n).seq.mode = .held)
    (running : (s.slice n).seq.halted = false) (placed : (s.slice n).alloc.isSome = true)
    (before : (s.slice n).seq.bundleDone = true) (cycle : (s.slice n).seq.notBefore ≤ cyc) (free : s.brkMatch n = false) :
    s.mayAdvance n cyc = true := by
  obtain mode | mode := goes <;> simp [State.mayAdvance, mode, running, placed, before, cycle, free]

theorem issueHold_of_unfetched {s : State} {n cyc : Nat} (short : (s.slice n).seq.fetched <
    (s.slice n).seq.pc + bundleLen ((s.slice n).hdrAt (s.slice n).seq.pc)) : s.issueHold n cyc = 9 := by
  simp only [State.issueHold]
  exact if_pos short

theorem issueHold_of_fence {s : State} {n cyc : Nat}
    (fetched : (s.slice n).seq.pc + bundleLen ((s.slice n).hdrAt (s.slice n).seq.pc) ≤ (s.slice n).seq.fetched)
    (fence : (s.slice n).fences ((s.slice n).hdrAt (s.slice n).seq.pc) cyc = false) : s.issueHold n cyc = 1 := by
  simp only [State.issueHold]
  rw [if_neg (Nat.not_lt.2 fetched), if_pos (by simp [fence])]

theorem holdSeq_of_other {s : State} {n h : Nat} (other : h ≠ 7) :
    s.holdSeq n h = s.modSeq n (fun q => { q with mode := .held, hold := h, tested := true }) := by
  simp only [State.holdSeq]
  exact if_neg (by simp [other])

/-- What a bundle holds does not depend on the state of the sequencer. -/
theorem wordAt_withSeq (x : Slice) (q : Seq) (off k : Nat) : ({ x with seq := q } : Slice).wordAt off k = x.wordAt off k := rfl

/-- A bundle that first holds on its FLAG_WAIT starts the wait (R129, R260). -/
theorem holdSeq_of_flag {s : State} {n : Nat} (first : (s.slice n).seq.waitFlag = none) :
    s.holdSeq n 7 = (s.modSeq n (fun q => { q with
      mode := .held, hold := 7, tested := true
      waitFlag := some ((s.slice n).wordAt q.pc 24 % 1024, s.clk.now + s.jobLimit) })).buildGraph := by
  simp only [State.holdSeq, first, Option.isNone_none, beq_self_eq_true, Bool.and_self, if_true, State.slice_modSeq,
    State.modSeq_modSeq, wordAt_withSeq]
  rfl

/-! ## Breakpoints (R132, R133) -/

theorem exec_breakpointMatch {v : State} {sl : SliceId} {tag : BitVec 16}
    (mode : ((v.passEmpty sl (v.slice sl).readyFrom).slice sl).seq.mode = .issuing)
    (running : ((v.passEmpty sl (v.slice sl).readyFrom).slice sl).seq.halted = false)
    (placed : ((v.passEmpty sl (v.slice sl).readyFrom).slice sl).alloc.isSome = true)
    (before : ((v.passEmpty sl (v.slice sl).readyFrom).slice sl).seq.bundleDone = true)
    (named : bits (((v.passEmpty sl (v.slice sl).readyFrom).slice sl).hdrAt
      ((v.passEmpty sl (v.slice sl).readyFrom).slice sl).seq.pc) 15 0 = tag.toNat)
    (hit : (v.passEmpty sl (v.slice sl).readyFrom).brkMatch sl = true) :
    exec (.breakpointMatch sl tag) v = .next (settle v ((v.passEmpty sl (v.slice sl).readyFrom).modSeq sl
      (fun q => { q with mode := .draining, hold := 0 }))) := by
  show execBreakpointMatch sl tag v = _
  simp [execBreakpointMatch, mode, running, placed, before, named, hit, done]

/-- The state in which the sequencer has stopped at a breakpoint and counted the hit. -/
def State.brkStopped (s : State) (n : Nat) : State :=
  (s.modSeq n (fun q => { q with mode := .stopped, stepOne := false })).count Obj.brkHits n

theorem exec_breakpointStop {s : State} {sl : SliceId} (draining : (s.slice sl).seq.mode = .draining)
    (drained : (s.slice sl).drained
      (max (s.slice sl).cycle (max (s.slice sl).arr.loadEnd (s.slice sl).arr.enterEnd)) = true) :
    exec (.breakpointStop sl) s = .next (s.brkStopped sl) := by
  show execBreakpointStop sl s = _
  simp only [execBreakpointStop, draining, drained, beq_self_eq_true, Bool.and_self, if_true, State.brkStopped]

theorem seq_brkStopped (s : State) (n : Nat) :
    ((s.brkStopped n).slice n).seq = { (s.slice n).seq with mode := .stopped, stepOne := false } := by
  rw [State.brkStopped, State.count_slice, State.slice_modSeq]

theorem brkHits_brkStopped (s : State) (n : Nat) :
    (s.brkStopped n).num Obj.brkHits n = min Obj.brkHits.sat (s.num Obj.brkHits n + 1) := by
  rw [State.brkStopped, State.count_num]
  rfl

theorem brkResume_command : Obj.brkResume.Command := ⟨by decide, by decide, by decide⟩

/-- A write of BRK_RESUME in its turn lets the sequencer go on. -/
theorem hostWrite_brkResume {s : State} {sl : SliceId} {w : CmdW} (turn : Turn s w.req)
    (meets : Writes s Obj.brkResume sl (brkRule sl w.value) (.num w.value)) (cmd : Instr) :
    s.hostWrite cmd w Obj.brkResume sl (brkRule sl w.value) = s.wrote w.req Obj.brkResume sl (fun u =>
      u.modSeq sl (fun q => { q with mode := .issuing, tested := true, stepOne := w.value == 2 })) :=
  State.hostWrite_wrote turn brkResume_command (meets.taken w.req rfl rfl) rfl rfl cmd

theorem exec_brkResume {s : State} {sl : SliceId} {w : CmdW} (turn : Turn s w.req) (one : w.value = 1)
    (meets : Writes s Obj.brkResume sl (brkRule sl 1) (.num 1)) :
    exec (.brkResume sl w) s = .next (settle s (s.wrote w.req Obj.brkResume sl (fun u =>
      u.modSeq sl (fun q => { q with mode := .issuing, tested := true, stepOne := false })))) := by
  have wrote := hostWrite_brkResume turn (one ▸ meets) (.brkResume sl w)
  rw [one] at wrote
  exact congrArg (done s) wrote

theorem exec_brkSingleStep {s : State} {sl : SliceId} {w : CmdW} (turn : Turn s w.req) (two : w.value = 2)
    (meets : Writes s Obj.brkResume sl (brkRule sl 2) (.num 2)) :
    exec (.brkSingleStep sl w) s = .next (settle s (s.wrote w.req Obj.brkResume sl (fun u =>
      u.modSeq sl (fun q => { q with mode := .issuing, tested := true, stepOne := true })))) := by
  have wrote := hostWrite_brkResume turn (two ▸ meets) (.brkSingleStep sl w)
  rw [two] at wrote
  exact congrArg (done s) wrote

/-- Settles O17. That the bundles with an empty slot mask issue first is the model's choice (notes/assumptions/50.md). -/
theorem sequencerHolds : Obligations.SequencerHolds := by
  refine ⟨fun v sl i k w slotBit => ?_, fun v sl tag => ?_, fun s sl => ?_, fun s sl w turn => ?_⟩
  · intro s x h goes running placed before cycle header bit free held
    have may : s.mayAdvance sl i.cyc = true := mayAdvance_of goes running placed before cycle free
    refine ⟨slot_of_held k w may header held, fun short => ?_, fun fetched fence => ?_, holdSeq_of_other, ?_⟩
    · exact issueHold_of_unfetched (header ▸ short)
    · exact issueHold_of_fence (header ▸ fetched) (header ▸ fence)
    · intro flag first
      rw [flag]
      exact holdSeq_of_flag first
  · exact exec_breakpointMatch
  · intro x draining drained
    exact ⟨s.brkStopped sl, exec_breakpointStop draining drained, seq_brkStopped s sl, brkHits_brkStopped s sl, rfl⟩
  · exact ⟨exec_brkResume turn, exec_brkSingleStep turn⟩

end Sys2Proof.Machine
end

section
/-! The proof of O18: the slots that hand commands to the engines and issue descriptors. -/

namespace Sys2Proof.Machine

@[simp] theorem tag_slotDone (t : State) (n k : Nat) : ((t.slotDone n k).slice n).seq.tag = (t.slice n).seq.tag := by
  rw [State.slotDone, State.slice_modSeq]

@[simp] theorem arr_slotDone (t : State) (n k : Nat) : ((t.slotDone n k).slice n).arr = (t.slice n).arr := by
  rw [State.slotDone, State.slice_modSeq]

@[simp] theorem alloc_slotDone (t : State) (n k : Nat) : ((t.slotDone n k).slice n).alloc = (t.slice n).alloc := by
  rw [State.slotDone, State.slice_modSeq]

@[simp] theorem asmFa_slotDone (t : State) (n k : Nat) : ((t.slotDone n k).slice n).seq.asmFa = (t.slice n).seq.asmFa := by
  rw [State.slotDone, State.slice_modSeq]

@[simp] theorem asmArr_slotDone (t : State) (n k : Nat) :
    ((t.slotDone n k).slice n).seq.asmArr = (t.slice n).seq.asmArr := by
  rw [State.slotDone, State.slice_modSeq]

@[simp] theorem ts_slotDone (t : State) (n k off len : Nat) :
    ((t.slotDone n k).slice n).ts off len = (t.slice n).ts off len := by
  rw [State.slotDone, State.slice_modSeq]
  rfl

/-! ## The commands that the slots make (Table — Slot encodings) -/

/-- The command of an FA slot. -/
def Slice.faCmd (x : Slice) (n mode : Nat) : FaCmd :=
  { mode := mode, count := bits n 61 48 + 1, win := bits n 47 40, step := bits n 27 14
    row := rowBase x.seq.before.ab n 39 (bits n 38 36) (bits n 13 0) }

/-- The command of an FB slot. -/
def Slice.fbCmd (x : Slice) (n : Nat) (group4 : Bool) : FbCmd :=
  { num := x.arr.fbCount + 1, group4 := group4, wtype := bits n 61 59, rows := bits n 58 52 + 1, tag := x.seq.tag
    row := rowBase x.seq.before.ab n 51 (bits n 50 48) (bits n 13 0) }

/-- The command of an ARR TILE or CONT slot. -/
def arrCmd (n : Nat) (cont : Bool) : ArrCmd := { cont := cont, atype := bits n 59 57, xpose := n.testBit 56 }

/-- The tile command of a DRN slot with the FA and ARR commands of its bundle. -/
def Slice.tileCmd (x : Slice) (n op : Nat) (f : FaCmd) (a : ArrCmd) : TileCmd :=
  { fa := f, arr := a, layer := x.seq.before.layer, tag := x.seq.tag, origin := x.arr.origin, fbNum := x.arr.fbCount
    entry := []
    drn := { op := op, chain := bits n 59 52, chunk := bits n 51 38, bankVec := bits n 28 20
             outRow := rowBase x.seq.before.ab n 37 (bits n 36 34) (bits n 13 0) } }

section
variable {s t : State} {n : Nat} {b : Option Issue} {w : DWord}

theorem faSlot_of (slot : Slot s n b 27 w t) {mode : Nat} (named : bits w.toNat 63 62 = mode) :
    s.faSlot n b w mode =
      (t.slotDone n 27).modSeq n (fun q => { q with asmFa := some ((t.slice n).faCmd w.toNat mode) }) := by
  unfold State.faSlot
  simp only [named, State.slot_of slot, Slice.rowWith, before_slotDone, bne_self_eq_false, Bool.not_true,
    Bool.false_eq_true, if_false, Slice.faCmd]

theorem fbSlot_of (slot : Slot s n b 28 w t) {group4 : Bool} (named : bits w.toNat 63 62 = if group4 then 1 else 0) :
    s.fbSlot n b w group4 = (t.slotDone n 28).modArr n (fun a => { a with
      waitLoad := some ((t.slice n).fbCmd w.toNat group4), fbCount := a.fbCount + 1 }) := by
  unfold State.fbSlot
  simp only [named, State.slot_of slot, Slice.rowWith, before_slotDone, tag_slotDone, arr_slotDone, bne_self_eq_false,
    Bool.not_true, Bool.false_eq_true, if_false, Slice.fbCmd]

theorem arrSlot_of (slot : Slot s n b 29 w t) {cont : Bool} (named : bits w.toNat 63 60 = if cont then 2 else 1) :
    s.arrSlot n b w cont =
      (t.slotDone n 29).modSeq n (fun q => { q with asmArr := some (arrCmd w.toNat cont) }) := by
  unfold State.arrSlot
  simp only [named, State.slot_of slot, bne_self_eq_false, Bool.not_true, Bool.false_eq_true, if_false, arrCmd]

theorem drnSlot_of (slot : Slot s n b 31 w t) {op : Nat} (named : bits w.toNat 63 60 = op) {f : FaCmd} {a : ArrCmd}
    (fa : (t.slice n).seq.asmFa = some f) (arr : (t.slice n).seq.asmArr = some a) :
    s.drnSlot n b w op = (t.slotDone n 31).modArr n (fun r => { r with
      waitTiles := r.waitTiles ++ [(t.slice n).tileCmd w.toNat op f a]
      origin := if op == 3 || op == 4 then r.origin + 1 else r.origin }) := by
  unfold State.drnSlot
  simp only [named, State.slot_of slot, Slice.rowWith, before_slotDone, tag_slotDone, arr_slotDone, asmFa_slotDone,
    asmArr_slotDone, fa, arr, bne_self_eq_false, Bool.not_true, Bool.false_eq_true, if_false, Slice.tileCmd]

end

theorem exec_arrClearSlot {s t : State} {sl : SliceId} {b : Option Issue} {w : DWord} (slot : Slot s sl b 29 w t)
    (named : bits w.toNat 63 60 = 3) : exec (.arrClearSlot sl b w) s =
      .next ((t.slotDone sl 29).modArr sl (fun a => { a with active := none, shadow := none })) := by
  show execArrClearSlot sl b w s = _
  simp only [execArrClearSlot, named, State.slot_of slot, bne_self_eq_false, Bool.false_eq_true, if_false, if_true]

/-! ## Descriptors (R102, R110, R125) -/

/-- The descriptor that a DIN or DOUT slot issues. -/
def Slice.descCmd (x : Slice) (w : DWord) (r : Store) (out : Bool) : Desc :=
  { uid := r.nextUid, idx := bits w.toNat 63 54, out := out
    raw := descBases x.seq.before.ab (x.ts (64 * bits w.toNat 63 54) 64) w.toNat, tag := x.seq.tag
    started := false, pos := 0, total := 0, hazard := false }

section
variable {t : State} {n : Nat} {w : DWord} {a : Alloc} (k : Nat) (out : Bool) (alloc : (t.slice n).alloc = some a)
include alloc

theorem issueDesc_of_known (known : bits w.toNat 63 54 < a.descs) :
    (t.slotDone n k).issueDesc n w out = (t.slotDone n k).modStore n (fun r => { r with
      nextUid := r.nextUid + 1, descs := r.descs ++ [(t.slice n).descCmd w r out] }) := by
  unfold State.issueDesc
  simp only [alloc_slotDone, alloc, Nat.not_le.2 known, if_false, Slice.descWith, before_slotDone, ts_slotDone,
    tag_slotDone, Slice.descCmd]

theorem issueDesc_of_beyond (beyond : a.descs ≤ bits w.toNat 63 54) :
    (t.slotDone n k).issueDesc n w out = (t.slotDone n k).transferFault n St.resourceOverflow 7
      (t.slice n).seq.tag.toNat (bits w.toNat 63 54) 0 (bits w.toNat 63 54) := by
  unfold State.issueDesc
  simp only [alloc_slotDone, alloc, beyond, if_true, tag_slotDone]

end

theorem exec_dinIssue {s t : State} {sl : SliceId} {b : Option Issue} {w : DWord} (slot : Slot s sl b 25 w t) :
    exec (.dinIssue sl b w) s = .next (settle s ((t.slotDone sl 25).issueDesc sl w false)) := by
  show execDinIssue sl b w s = _
  simp only [execDinIssue, State.slot_of slot, if_true, done]

theorem exec_doutIssue {s t : State} {sl : SliceId} {b : Option Issue} {w : DWord} (slot : Slot s sl b 26 w t) :
    exec (.doutIssue sl b w) s = .next (settle s ((t.slotDone sl 26).issueDesc sl w true)) := by
  show execDoutIssue sl b w s = _
  simp only [execDoutIssue, State.slot_of slot, if_true, done]

/-- Settles O18, a slot at a time. -/
theorem issueSlots : Obligations.IssueSlots := by
  refine ⟨fun s t sl b w => ?_, fun s t sl b w a => ?_⟩
  · intro n x fa fb arr drn tile
    refine ⟨fun slot => ?_, fun slot => ?_, fun slot => ?_, fun f a slot asmFa asmArr => ?_⟩
    · exact ⟨fun named => congrArg Host.Outcome.next (faSlot_of slot named),
        fun named => congrArg Host.Outcome.next (faSlot_of slot named),
        fun named => congrArg Host.Outcome.next (faSlot_of slot named)⟩
    · exact ⟨fun named => congrArg Host.Outcome.next (fbSlot_of slot (group4 := false) named),
        fun named => congrArg Host.Outcome.next (fbSlot_of slot (group4 := true) named)⟩
    · exact ⟨fun named => congrArg Host.Outcome.next (arrSlot_of slot (cont := false) named),
        fun named => congrArg Host.Outcome.next (arrSlot_of slot (cont := true) named), exec_arrClearSlot slot⟩
    · exact ⟨fun named => congrArg Host.Outcome.next (drnSlot_of slot named asmFa asmArr),
        fun named => congrArg Host.Outcome.next (drnSlot_of slot named asmFa asmArr),
        fun named => congrArg Host.Outcome.next (drnSlot_of slot named asmFa asmArr),
        fun named => congrArg Host.Outcome.next (drnSlot_of slot named asmFa asmArr)⟩
  · intro x i d alloc
    refine ⟨fun slot known => ?_, fun slot known => ?_, fun slot beyond => ?_, fun slot beyond => ?_⟩
    · rw [exec_dinIssue slot, issueDesc_of_known 25 false alloc known]
      rfl
    · rw [exec_doutIssue slot, issueDesc_of_known 26 true alloc known]
      rfl
    · rw [exec_dinIssue slot, issueDesc_of_beyond 25 false alloc beyond]
    · rw [exec_doutIssue slot, issueDesc_of_beyond 26 true alloc beyond]

end Sys2Proof.Machine
end

section
/-! The proof of O19: weight loads and tile starts of the array. -/

namespace Sys2Proof.Machine

/-! ## Weight loads (R31, R33, R36) -/

/-- A load of a plain tile fills the rows of its organisation, its unread rows with zeros. -/
theorem length_weights (x : Slice) {c : FbCmd} (plain : c.group4 = false) (real : c.wtype ≠ 6) :
    (x.weights c).length = c.org.rows := by
  have read : (c.reads.map (fun r => elements c.wtype (x.row r))).length ≤ c.org.rows := by
    simp only [FbCmd.reads, plain, beq_eq_false_iff_ne.2 real, Bool.false_eq_true, if_false, List.length_map,
      List.length_range]
    exact Nat.min_le_left _ _
  simp only [Slice.weights, plain, beq_eq_false_iff_ne.2 real, Bool.false_eq_true, if_false, List.length_append,
    List.length_replicate]
  omega

/-- The state in which the load c has started in cycle cyc, before its frozen cycles are counted. -/
def State.loadStarted (u : State) (n cyc : Nat) (c : FbCmd) : State :=
  let w : WTile := { num := c.num, tag := c.tag, wtype := c.gridType, org := c.org, rows := (u.slice n).weights c, start := cyc }
  ((u.modArr n (fun a => { a.forget cyc with
    waitLoad := none, lastLoad := some cyc, loadEnd := thaw a.frozen cyc c.org.rows, shadow := some w })).count
      Obj.arrTiles n).countActive n cyc (c.org.rows + 128)

section
variable {s : State} {sl : SliceId} {cyc : Nat} (fr : List FrozenCycle) (ecc : List TsEcc) {c : FbCmd}
  (wait : ((s.feedTo sl cyc).slice sl).arr.waitLoad = some c)
  (free : ((s.feedTo sl cyc).slice sl).arr.shadowFree c.num = true)
  (loaded : ((s.feedTo sl cyc).slice sl).arr.loadEnd ≤ cyc)
  (begun : ((s.feedTo sl cyc).slice sl).arr.lastEnter.getD 0 ≤ cyc)
  (thawed : cyc ∉ ((s.feedTo sl cyc).slice sl).arr.frozen)
include wait free loaded begun thawed

theorem exec_weightLoadStart_of_readable (readable : ((s.feedTo sl cyc).slice sl).badRead c.reads = none) :
    exec (.weightLoadStart sl ⟨cyc, fr, ecc⟩) s = .next (settle s
      ((((s.feedTo sl cyc).loadStarted sl cyc c).freeze sl cyc fr).eccReads sl c.reads ecc)) := by
  show execWeightLoadStart sl ⟨cyc, fr, ecc⟩ s = _
  unfold execWeightLoadStart State.loadStarted
  simp only [wait]
  rw [if_neg (by simp [free, loaded, begun, thawed])]
  simp only [readable, done]

theorem exec_weightLoadStart_of_fault {r : Int} (fault : ((s.feedTo sl cyc).slice sl).badRead c.reads = some r) :
    exec (.weightLoadStart sl ⟨cyc, fr, ecc⟩) s =
      .next (settle s ((s.feedTo sl cyc).engineFault sl 4 c.tag.toNat (r * 128))) := by
  show execWeightLoadStart sl ⟨cyc, fr, ecc⟩ s = _
  unfold execWeightLoadStart
  simp only [wait]
  rw [if_neg (by simp [free, loaded, begun, thawed])]
  simp only [fault, done]

end

/-! ## Tile starts (R32 to R39) -/

/-- The vectors of a tile command: in XFM mode no more than the unit holds. -/
def Slice.tileCount (x : Slice) (c : TileCmd) : Nat :=
  if c.fa.mode = 2 then min c.fa.count ((x.arr.fwdIssue.map (fun i => i.vecs.length)).getD 0) else c.fa.count

/-- Feeder A's work for the tile command c with weights w. -/
def Slice.tileFeed (x : Slice) (c : TileCmd) (w : WTile) (cyc : Nat) (ups : List Upset) (ecc : List TsEcc) : Feed :=
  { cmd := { c with entry := x.chainEntry c.drn.chain }, tile := x.arr.nextTile, wt := w, start := cyc
    ups := ups, ecc := ecc, win := x.winEntry c.fa.win, count := x.tileCount c, sent := 0, entered := 0, buffer := [] }

/-- The state in which the tile command c has started, the tile commands rest waiting on. -/
def State.tileStarted (u : State) (n cyc : Nat) (c : TileCmd) (rest : List TileCmd) (w : WTile) (ups : List Upset)
    (ecc : List TsEcc) : State :=
  let f := (u.slice n).tileFeed c w cyc ups ecc
  u.modArr n (fun a => { a.forget cyc with
    waitTiles := rest, nextTile := a.nextTile + 1, lastEnter := some cyc, enterEnd := thaw a.frozen cyc f.count
    active := some w, shadow := if c.arr.cont then a.shadow else none, feed := some f })

theorem exec_tileStart {s : State} {sl : SliceId} {cyc : Nat} (fr : List FrozenCycle) (ups : List Upset)
    (ecc : List TsEcc) {c : TileCmd} {rest : List TileCmd} {w : WTile}
    (wait : ((s.feedTo sl cyc).slice sl).arr.waitTiles = c :: rest)
    (weights : ((s.feedTo sl cyc).slice sl).arr.tileWeights c cyc = some w)
    (entered : ((s.feedTo sl cyc).slice sl).arr.enterEnd ≤ cyc) (free : ((s.feedTo sl cyc).slice sl).arr.feed = none)
    (same : ((s.feedTo sl cyc).slice sl).arr.changes w c = false)
    (thawed : cyc ∉ ((s.feedTo sl cyc).slice sl).arr.frozen)
    (issued : c.fa.mode = 2 → ((s.feedTo sl cyc).slice sl).arr.fwdIssue ≠ none) :
    exec (.tileStart sl cyc fr ⟨ups, ecc⟩) s = .next (settle s
      (((((s.feedTo sl cyc).tileStarted sl cyc c rest w ups ecc).countActive sl cyc
        (((s.feedTo sl cyc).slice sl).tileCount c + 256)).freeze sl cyc fr).feedTo sl cyc)) := by
  have starts : ¬ (decide (cyc < ((s.feedTo sl cyc).slice sl).arr.enterEnd) || ((s.feedTo sl cyc).slice sl).arr.feed.isSome
      || ((s.feedTo sl cyc).slice sl).arr.changes w c || ((s.feedTo sl cyc).slice sl).arr.frozen.contains cyc
      || (c.fa.mode == 2 && ((s.feedTo sl cyc).slice sl).arr.fwdIssue.isNone)) = true := by
    simpa [entered, free, same, thawed] using issued
  show execTileStart sl cyc fr ⟨ups, ecc⟩ s = _
  unfold execTileStart
  simp only [wait, weights]
  rw [if_neg starts]
  simp only [State.tileStarted, Slice.tileFeed, Slice.tileCount, beq_iff_eq, done]

/-! ## Feeder A, a vector at a time (R28, R37, R41) -/

/-- The oldest vector of the buffer is due. -/
theorem feedStep_of_due {u : State} {n c : Nat} {f : Feed} (feed : (u.slice n).arr.feed = some f)
    (ready : f.buffer ≠ []) (due : thaw (u.slice n).arr.frozen f.start f.entered ≤ c) :
    u.feedStep n c = u.feedEnter n f (thaw (u.slice n).arr.frozen f.start f.entered) := by
  unfold State.feedStep
  simp only [feed]
  exact if_pos (by simp [ready, due])

/-- None is due, and the buffer has room for a vector that is still to be read. -/
theorem feedStep_of_room {u : State} {n c : Nat} {f : Feed} (feed : (u.slice n).arr.feed = some f)
    (early : f.buffer = [] ∨ c < thaw (u.slice n).arr.frozen f.start f.entered) (more : f.sent < f.count)
    (room : f.buffer.length < 8) : u.feedStep n c = u.feedRead n f := by
  have notDue : ¬ (!f.buffer.isEmpty && decide (thaw (u.slice n).arr.frozen f.start f.entered ≤ c)) = true := by
    obtain empty | early := early
    · simp [empty]
    · simp [early]
  unfold State.feedStep
  simp only [feed]
  rw [if_neg notDue, if_pos (by simp [more, room])]

theorem feedStep_of_wait {u : State} {n c : Nat} {f : Feed} (feed : (u.slice n).arr.feed = some f)
    (early : f.buffer = [] ∨ c < thaw (u.slice n).arr.frozen f.start f.entered)
    (full : f.count ≤ f.sent ∨ 8 ≤ f.buffer.length) : u.feedStep n c = u := by
  have notDue : ¬ (!f.buffer.isEmpty && decide (thaw (u.slice n).arr.frozen f.start f.entered ≤ c)) = true := by
    obtain empty | early := early
    · simp [empty]
    · simp [early]
  have notRead : ¬ (decide (f.sent < f.count) && decide (f.buffer.length < 8)) = true := by
    simp only [Bool.and_eq_true, decide_eq_true_eq]
    omega
  unfold State.feedStep
  simp only [feed]
  rw [if_neg notDue, if_neg notRead]

/-- The counter of a tile's vectors. -/
def Feed.vectors (f : Feed) : ObjRow := if f.cmd.arr.xpose then Obj.arrVectorsT else Obj.arrVectors

theorem feedEnter_of_more {u : State} {n e : Nat} {f : Feed} {v : List (BitVec 16) × Int} {l : List (List (BitVec 16) × Int)}
    (buffer : f.buffer = v :: l) (more : f.entered + 1 < f.count) :
    u.feedEnter n f e = (u.modArr n (fun a => { a with
      feed := some { f with entered := f.entered + 1, buffer := l }, rows := a.rows ++ [f.row f.entered v e] })).count
        f.vectors n := by
  unfold State.feedEnter
  simp only [buffer, Nat.not_le.2 more, decide_false, Bool.false_and, Bool.false_eq_true, if_false, Feed.vectors]

theorem feedEnter_of_last {u : State} {n e : Nat} {f : Feed} {v : List (BitVec 16) × Int} {l : List (List (BitVec 16) × Int)}
    (buffer : f.buffer = v :: l) (last : f.count ≤ f.entered + 1) :
    u.feedEnter n f e = ((u.modArr n (fun a => { a with
      feed := none, rows := a.rows ++ [f.row f.entered v e]
      fwdIssue := if f.cmd.fa.mode = 2 then none else a.fwdIssue })).count f.vectors n).startXfm n := by
  unfold State.feedEnter
  simp only [buffer, last, decide_true, Bool.true_and, if_true, Feed.vectors, beq_iff_eq]

theorem feedRead_of_readable {u : State} {n : Nat} {f : Feed} (readable : (u.slice n).badRead (f.rows f.sent) = none) :
    u.feedRead n f = (u.modArr n (fun a => { a with
      feed := some { f with sent := f.sent + 1, buffer := f.buffer ++ [(u.slice n).vector f f.sent] } })).eccReads n
        (f.rows f.sent) f.ecc := by
  simp only [State.feedRead, readable]

theorem feedRead_of_fault {u : State} {n : Nat} {f : Feed} {r : Int} (fault : (u.slice n).badRead (f.rows f.sent) = some r) :
    u.feedRead n f = u.engineFault n 3 f.cmd.tag.toNat (r * 128) := by
  simp only [State.feedRead, fault]

/-- Settles O19. That all rows are read at the start and the cycle of a vector's read are the model's choices
(notes/assumptions/50.md). -/
theorem arrayTiles : Obligations.ArrayTiles := by
  refine ⟨fun s sl cyc fr ecc c => ?_, fun s sl cyc fr ups ecc c rest w => ?_, fun u sl c f feed => ?_⟩
  · intro u x wait free loaded begun thawed
    exact ⟨exec_weightLoadStart_of_readable fr ecc wait free loaded begun thawed,
      fun r => exec_weightLoadStart_of_fault fr ecc wait free loaded begun thawed, length_weights x⟩
  · intro u x wait weights entered free same thawed issued
    exact exec_tileStart fr ups ecc wait weights entered free same thawed issued
  · intro e
    refine ⟨fun v l buffer due more => ?_, fun v l buffer due last => ?_, fun early more room => ?_, feedStep_of_wait feed⟩
    · rw [feedStep_of_due feed (by simp [buffer]) due]
      exact feedEnter_of_more buffer more
    · rw [feedStep_of_due feed (by simp [buffer]) due]
      exact feedEnter_of_last buffer last
    · rw [feedStep_of_room feed early more room]
      exact ⟨feedRead_of_readable, fun r => feedRead_of_fault⟩

end Sys2Proof.Machine
end

section
/-! The proofs of O20 and O22: rows through the drain and their verdicts, and the row check of a single upset. -/

namespace Sys2Proof.Machine

/-! ## DRAIN_ROW (R30, R162) -/

/-- The oldest row of the grid, its check sum having come, enters the drain. -/
theorem exec_drainRow_of_row {s : State} {sl : SliceId} {cyc : Nat} (ups : List DrainUpset) (ecc : List TsEcc)
    {r : ArrRow} {rest : List ArrRow} (front : ((s.feedTo sl cyc).slice sl).arr.rows = r :: rest)
    (due : thaw ((s.feedTo sl cyc).slice sl).arr.frozen r.enter 257 ≤ cyc)
    (thawed : cyc ∉ ((s.feedTo sl cyc).slice sl).arr.frozen) :
    exec (.drainRow sl ⟨cyc, ups, ecc⟩) s = .next (settle s (((s.feedTo sl cyc).modArr sl (fun a => { a with
      rows := rest, unjudged := a.unjudged ++ [r] })).drainArrRow sl r ups ecc)) := by
  show execDrainRow sl ⟨cyc, ups, ecc⟩ s = _
  unfold execDrainRow
  simp only [front, due, decide_true, Bool.true_and]
  rw [if_neg (by simp [thawed])]
  rfl

/-- With no row of the grid due, the oldest pixel row of the INV unit enters its chain. -/
theorem exec_drainRow_of_pixels {s : State} {sl : SliceId} {cyc : Nat} (ups : List DrainUpset) (ecc : List TsEcc)
    {r : InvRow} {rest : List InvRow}
    (early : ∀ q l, ((s.feedTo sl cyc).slice sl).arr.rows = q :: l →
      cyc < thaw ((s.feedTo sl cyc).slice sl).arr.frozen q.enter 257)
    (front : ((s.feedTo sl cyc).slice sl).arr.invRows = r :: rest) :
    exec (.drainRow sl ⟨cyc, ups, ecc⟩) s = .next (settle s ((((s.feedTo sl cyc).modArr sl (fun a => { a with
      invRows := rest })).drainInvRow sl r rest.isEmpty ups ecc).startXfm sl)) := by
  show execDrainRow sl ⟨cyc, ups, ecc⟩ s = _
  unfold execDrainRow
  cases rows : ((s.feedTo sl cyc).slice sl).arr.rows with
  | nil => simp [front, rows, done]
  | cons q l => simp [front, rows, Nat.not_le.2 (early q l rows), done]

/-! ## The cells of a row (R56 to R58) -/

theorem signed40_wrap40 {i : Int} (low : -(2 ^ 39) ≤ i) (high : i < 2 ^ 39) : signed 40 (wrap 40 i) = i := by
  unfold signed wrap
  split <;> omega

theorem signed40_range (n : Nat) : -(2 ^ 39) ≤ signed 40 n ∧ signed 40 n < 2 ^ 39 := by
  unfold signed
  split <;> omega

theorem wrap40_lt (i : Int) : wrap 40 i < 2 ^ 40 := by
  unfold wrap
  omega

theorem res7_lt (i : Int) : res7 i < 7 := by
  unfold res7
  omega

theorem res7_add (a b : Int) : (res7 a + res7 b) % 7 = res7 (a + b) := by
  unfold res7
  omega

/-- The fields of a cell that holds the total t with the residue p. -/
theorem cell_fields {t : Int} {p : Nat} (low : -(2 ^ 39) ≤ t) (high : t < 2 ^ 39) (residue : p < 7) :
    cellInt (BitVec.ofNat 64 (wrap 40 t + p * 2 ^ 40)) = t ∧
    cellRes (BitVec.ofNat 64 (wrap 40 t + p * 2 ^ 40)) = p := by
  have small := wrap40_lt t
  have word : (BitVec.ofNat 64 (wrap 40 t + p * 2 ^ 40)).toNat = wrap 40 t + p * 2 ^ 40 := by
    rw [BitVec.toNat_ofNat, Nat.mod_eq_of_lt]
    omega
  constructor
  · have low40 : (wrap 40 t + p * 2 ^ 40) % 2 ^ 40 = wrap 40 t := by
      rw [Nat.add_mul_mod_self_right, Nat.mod_eq_of_lt small]
    rw [cellInt, word, low40, signed40_wrap40 low high]
  · unfold cellRes bits
    rw [word]
    omega

/-- The total that a cell is to hold after a column sum is written to it or added. -/
def cellTotal (add : Bool) (old : DWord) (i : Int) : Int := if add then cellInt old + i else i

/-- The total that a cell holds after the upsets of its write. -/
def cellHeld (total : Int) (flip : DWord) : Int := signed 40 (wrap 40 total ^^^ flip.toNat % 2 ^ 40)

/-- The residue predicted is that of the total, where the residue held before was right. -/
theorem predicted_residue {add : Bool} {old : DWord} (i : Int)
    (right : add = true → cellRes old = res7 (cellInt old)) :
    ((if add then cellRes old else 0) + res7 i) % 7 = res7 (cellTotal add old i) := by
  unfold cellTotal
  cases add with
  | false => exact (Nat.zero_add _).symm ▸ Nat.mod_eq_of_lt (res7_lt i)
  | true => rw [if_pos rfl, if_pos rfl, right rfl, res7_add]

theorem bankCell_of_int {add : Bool} {old : DWord} (i : Int) (flip : DWord)
    (right : add = true → cellRes old = res7 (cellInt old)) : let total := cellTotal add old i
    bankCell add old (.int i) flip =
      (BitVec.ofNat 64 (wrap 40 (cellHeld total flip) + res7 total * 2 ^ 40), res7 (cellHeld total flip) != res7 total) := by
  dsimp only
  rw [← predicted_residue i right]
  rfl

theorem cellHeld_of_clean {total : Int} (low : -(2 ^ 39) ≤ total) (high : total < 2 ^ 39) : cellHeld total 0 = total := by
  have none : (0 : DWord).toNat % 2 ^ 40 = 0 := rfl
  rw [cellHeld, none, Nat.xor_zero, signed40_wrap40 low high]

/-- The check of an integer cell: a clean write holds the total and its residue, and passes; an upset fails exactly when
the total that it leaves has another residue. -/
theorem bankCell_check {add : Bool} {old : DWord} {i : Int} (flip : DWord) (low : -(2 ^ 39) ≤ cellTotal add old i)
    (high : cellTotal add old i < 2 ^ 39) (right : add = true → cellRes old = res7 (cellInt old)) :
    let c := bankCell add old (.int i) flip
    (flip = 0 → cellInt c.1 = cellTotal add old i ∧ cellRes c.1 = res7 (cellTotal add old i) ∧ c.2 = false) ∧
    (c.2 = true ↔ res7 (cellInt c.1) ≠ res7 (cellTotal add old i)) := by
  dsimp only
  rw [bankCell_of_int i flip right]
  obtain ⟨heldLow, heldHigh⟩ := signed40_range (wrap 40 (cellTotal add old i) ^^^ flip.toNat % 2 ^ 40)
  obtain ⟨total, residue⟩ := cell_fields heldLow heldHigh (res7_lt (cellTotal add old i))
  refine ⟨fun clean => ?_, ?_⟩
  · subst clean
    refine ⟨total.trans (cellHeld_of_clean low high), residue, ?_⟩
    rw [cellHeld_of_clean low high]
    exact bne_self_eq_false _
  · rw [bne_iff_ne]
    exact iff_of_eq (congrArg (fun t => res7 t ≠ res7 (cellTotal add old i)) total.symm)

/-! ## WRITE and ADD (R58) -/

/-- The failing row of a check of the bank. -/
def ArrRow.bankFail (r : ArrRow) : FailAt :=
  { tile := r.tile, kind := 4, stage := 0xFE, layer := r.cmd.layer.toNat, tag := r.cmd.tag.toNat
    chunk := r.cmd.drn.chunk, vec := r.vec }

section
variable {s : State} {n : Nat} {r : ArrRow} (ups : List DrainUpset) (ecc : List TsEcc) {a : Alloc}
  (alloc : (s.slice n).alloc = some a)
  (room : (r.cmd.drn.bankVec + r.vec) * r.cells + r.cells ≤ a.bankVecs * 128)
  (op : r.cmd.drn.op = 1 ∨ r.cmd.drn.op = 2)
include alloc room op

/-- A row of WRITE or ADD leaves the bank after it, and fails its tile where a cell failed its check. -/
theorem drainArrRow_of_bank : ∃ v : DrainVec,
    s.drainArrRow n r ups ecc =
      (s.setSlice n ((s.slice n).bankAfter ((r.cmd.drn.bankVec + r.vec) * r.cells) r.cellVals (r.cmd.drn.op == 2) ups).1).residueFail n
        v [] ∧
    v.bad = ((s.slice n).bankAfter ((r.cmd.drn.bankVec + r.vec) * r.cells) r.cellVals (r.cmd.drn.op == 2) ups).2 ∧
    (∀ stage, ({ tile := v.tile, kind := 4, stage := stage, layer := v.layer, tag := v.tag, chunk := v.chunk, vec := v.vec } : FailAt)
      = { r.bankFail with stage := stage }) := by
  have adds : (r.cmd.drn.op == 2 || r.cmd.drn.op == 3) = (r.cmd.drn.op == 2) := by
    obtain op | op := op <;> rw [op] <;> rfl
  have bank : (r.cmd.drn.op == 1 || r.cmd.drn.op == 2) = true := by
    obtain op | op := op <;> rw [op] <;> rfl
  unfold State.drainArrRow
  simp only [alloc, Nat.not_lt.2 room, if_false, adds, bank, if_true]
  exact ⟨_, rfl, rfl, fun _ => rfl⟩

theorem drainArrRow_of_pass
    (pass : ((s.slice n).bankAfter ((r.cmd.drn.bankVec + r.vec) * r.cells) r.cellVals (r.cmd.drn.op == 2) ups).2 = 0) :
    s.drainArrRow n r ups ecc = s.setSlice n
      ((s.slice n).bankAfter ((r.cmd.drn.bankVec + r.vec) * r.cells) r.cellVals (r.cmd.drn.op == 2) ups).1 := by
  obtain ⟨v, row, bad, -⟩ := drainArrRow_of_bank ups ecc alloc room op
  rw [row, State.residueFail, bad, pass]
  rfl

theorem drainArrRow_of_fail
    (fail : ((s.slice n).bankAfter ((r.cmd.drn.bankVec + r.vec) * r.cells) r.cellVals (r.cmd.drn.op == 2) ups).2 ≠ 0) :
    s.drainArrRow n r ups ecc = ((s.setSlice n
      ((s.slice n).bankAfter ((r.cmd.drn.bankVec + r.vec) * r.cells) r.cellVals (r.cmd.drn.op == 2) ups).1).count
        Obj.residueFail n ((s.slice n).bankAfter ((r.cmd.drn.bankVec + r.vec) * r.cells) r.cellVals
          (r.cmd.drn.op == 2) ups).2).failTile n r.bankFail := by
  obtain ⟨v, row, bad, place⟩ := drainArrRow_of_bank ups ecc alloc room op
  obtain ⟨k, count⟩ := Nat.exists_eq_succ_of_ne_zero fail
  rw [row, State.residueFail, bad, count]
  simp only [List.filterMap_nil, List.append_nil, List.replicate_succ, List.length_cons, List.length_replicate, place]
  rfl

end

/-! ## ROW_VERDICT (R51 to R53) -/

/-- The failing row of kind k at its verdict. -/
def ArrRow.verdictFail (r : ArrRow) (k : Nat) : FailAt :=
  { tile := r.tile, kind := if r.cmd.arr.xpose then 5 else k, stage := 0xFF, layer := r.cmd.layer.toNat
    tag := r.cmd.tag.toNat, chunk := r.cmd.drn.chunk, vec := r.vec }

/-- The state in which the oldest drained row has been counted. -/
def State.rowCounted (s : State) (n : Nat) (rest : List ArrRow) : State :=
  (s.modArr n (fun a => { a with unjudged := rest })).count Obj.checkRows n

section
variable {s : State} {sl : SliceId} {r : ArrRow} {rest : List ArrRow} (oldest : (s.slice sl).arr.unjudged = r :: rest)
include oldest

theorem exec_rowVerdict_of_pass (pass : r.verdict = none) : exec (.rowVerdict sl) s = .next (s.rowCounted sl rest) := by
  show execRowVerdict sl s = _
  unfold execRowVerdict
  simp only [oldest, pass, State.rowCounted]

theorem exec_rowVerdict_of_fail {k : Nat} (fail : r.verdict = some k) (finite : k ≠ 3) :
    exec (.rowVerdict sl) s = .next (settle s ((s.rowCounted sl rest).failTile sl (r.verdictFail k))) := by
  show execRowVerdict sl s = _
  unfold execRowVerdict
  simp only [oldest, fail, beq_eq_false_iff_ne.2 finite, Bool.false_eq_true, if_false, State.rowCounted,
    ArrRow.verdictFail, done]

theorem exec_rowVerdict_of_nonfinite (fail : r.verdict = some 3) : exec (.rowVerdict sl) s =
    .next (settle s (((s.rowCounted sl rest).count Obj.checkNonfinite sl).failTile sl (r.verdictFail 3))) := by
  show execRowVerdict sl s = _
  unfold execRowVerdict
  simp only [oldest, fail, beq_self_eq_true, if_true, State.rowCounted, ArrRow.verdictFail, done]

end

/-- Settles O20. -/
theorem drainedRows : Obligations.DrainedRows := by
  refine ⟨⟨fun s sl cyc ups ecc => ?_, fun s sl ups ecc r al => ?_, fun add old flip i => ?_⟩, fun s sl r rest oldest => ?_⟩
  · exact ⟨fun r rest => exec_drainRow_of_row ups ecc, fun r rest => exec_drainRow_of_pixels ups ecc⟩
  · intro x base add b alloc room op
    obtain ⟨written, others, frame⟩ := x.bankAfter_cell base r.cellVals add ups
    exact ⟨written, others, frame, drainArrRow_of_pass ups ecc alloc room op, drainArrRow_of_fail ups ecc alloc room op⟩
  · intro total c low high right
    exact bankCell_check flip low high right
  · exact ⟨exec_rowVerdict_of_pass oldest, fun k => exec_rowVerdict_of_fail oldest, exec_rowVerdict_of_nonfinite oldest⟩

/-! ## The row check (R42, R49) -/

/-- The column sums of a vector against an integer tile in normal mode. -/
def colSums (rows : List (List (BitVec 16))) (n : Nat) (x : List (BitVec 16)) : List Word :=
  (List.range n).map (fun j =>
    wordOf (sumI (((rows.map (fun r => (r[j]?).getD 0)).zip x).map (fun p => intOf p.1 * intOf p.2))))

theorem length_colSums (rows : List (List (BitVec 16))) (n : Nat) (x : List (BitVec 16)) :
    (colSums rows n x).length = n := by simp [colSums]

/-- The outputs of a narrow organisation: 128 or 256. -/
theorem Org.outs_of_narrow {o : Org} (narrow : o.wide = false) : o.outs = 128 ∨ o.outs = 256 := by
  cases o <;> simp_all [Org.wide, Org.outs]

/-- The row of a vector before its upsets. -/
def Feed.cleanRow (f : Feed) (m : Nat) (v : List (BitVec 16) × Int) (c : Nat) : ArrRow :=
  let sums := if f.cmd.arr.xpose then f.wt.rows else transpose f.wt.rows f.wt.org.outs
  let checks := checkSums (isFloat f.wt.wtype) f.wt.wtype f.cmd.arr.atype (f.wt.lines f.cmd.arr.xpose) v.1
  { tile := f.tile, cmd := f.cmd, org := f.wt.org, float := isFloat f.wt.wtype, vec := m
    outs := sums.map (fun l => dot (isFloat f.wt.wtype) f.wt.org.wide f.wt.wtype f.cmd.arr.atype l v.1)
    sChk := checks.1, base := checks.2, exp := v.2, enter := c }

theorem row_eq (f : Feed) (m : Nat) (v : List (BitVec 16) × Int) (c : Nat) :
    f.row m v c = upsetRow f.ups m (f.cleanRow m v c) := rfl

theorem isFloat_of_integer {t : Nat} (integer : t < 2) : isFloat t = false := by
  simp only [isFloat, Bool.and_eq_false_iff, decide_eq_false_iff_not]
  omega

section
variable {f : Feed} (m : Nat) (v : List (BitVec 16) × Int) (c : Nat) (integer : f.wt.wtype < 2)
  (normal : f.cmd.arr.xpose = false)
include integer normal

theorem outs_cleanRow (narrow : f.wt.org.wide = false) :
    (f.cleanRow m v c).outs = (colSums f.wt.rows f.wt.org.outs v.1).map (fun w => [w]) := by
  simp only [Feed.cleanRow, normal, isFloat_of_integer integer, narrow, Bool.false_eq_true, if_false, transpose, dot,
    colSums, List.map_map]
  rfl

theorem sChk_cleanRow : (f.cleanRow m v c).sChk =
    wordOf (sumI ((f.wt.rows.zip v.1).map (fun p => (wordOf (sumI (p.1.map intOf))).toInt * intOf p.2))) := by
  simp only [Feed.cleanRow, checkSums, WTile.lines, normal, isFloat_of_integer integer, Bool.false_eq_true, if_false]

end

theorem upsetRow_of_none {ups : List Upset} {m : Nat} (none : ups.filter (fun u => u.vec == m) = []) (r : ArrRow) :
    upsetRow ups m r = r := by rw [upsetRow, none, List.foldl_nil]

theorem upsetRow_of_one {ups : List Upset} {m : Nat} {u : Upset} {w : Word} (one : ups.filter (fun u => u.vec == m) = [u])
    {r : ArrRow} (out : r.outs[u.col]? = some [w]) :
    upsetRow ups m r = { r with outs := r.outs.set u.col [w ^^^ u.flip] } := by
  rw [upsetRow, one]
  simp only [List.foldl_cons, List.foldl_nil, out]

/-- A pattern other than zero changes a word. -/
theorem xor_ne_self {w flip : Word} (real : flip ≠ 0) : w ^^^ flip ≠ w := by
  intro same
  exact real (BitVec.xor_right_inj w |>.mp (same.trans BitVec.xor_zero.symm))

/-- Sums that differ in one word differ. -/
theorem wsum_set_ne {l : List Word} {i : Nat} {a v : Word} (old : l[i]? = some a) (other : v ≠ a) :
    wsum (l.set i v) ≠ wsum l := by
  intro same
  have moved := wsum_set l i a v old
  rw [same] at moved
  exact other ((BitVec.add_right_inj _).mp moved).symm

/-- Settles O22: the column sums of a clean row add up to its check sum, and one changed word changes their sum. -/
theorem checksCatchUpset : Obligations.ChecksCatchUpset := by
  intro f m v c narrow integer normal shape
  have fixed : (f.cleanRow m v c).float = false := isFloat_of_integer integer
  have outs := outs_cleanRow m v c integer normal narrow
  have chk := sChk_cleanRow m v c integer normal
  generalize row : f.cleanRow m v c = r at fixed outs chk
  rw [row_eq, row]
  have agree : wsum (colSums f.wt.rows f.wt.org.outs v.1) = r.sChk :=
    (colSum_cross f.wt.org.outs f.wt.rows v.1 shape).trans chk.symm
  have count : (colSums f.wt.rows f.wt.org.outs v.1).length = 128 ∨ (colSums f.wt.rows f.wt.org.outs v.1).length = 256 := by
    rw [length_colSums]
    exact Org.outs_of_narrow narrow
  refine ⟨fun clean => ?_, fun u one within real => ?_⟩
  · rw [upsetRow_of_none clean, verdict_single r _ fixed outs (by rw [outs, List.length_map]; exact count), agree]
    simp
  · obtain ⟨w, old⟩ : ∃ w, (colSums f.wt.rows f.wt.org.outs v.1)[u.col]? = some w :=
      ⟨_, List.getElem?_eq_getElem (by rw [length_colSums]; exact within)⟩
    have out : r.outs[u.col]? = some [w] := by rw [outs, List.getElem?_map, old]; rfl
    rw [upsetRow_of_one one out, verdict_single { r with outs := r.outs.set u.col [w ^^^ u.flip] }
      ((colSums f.wt.rows f.wt.org.outs v.1).set u.col (w ^^^ u.flip)) fixed
      (by rw [outs, List.map_set]) (by rw [List.length_set, outs, List.length_map]; exact count)]
    have differs := wsum_set_ne old (xor_ne_self real)
    rw [agree] at differs
    simp [differs]

end Sys2Proof.Machine
end

section
/-! The proof of O23: the transform units. -/

namespace Sys2Proof.Machine

/-! ## The XFM slot (R120) -/

/-- The command of an XFM slot. -/
def Slice.xfmCmd (x : Slice) (n : Nat) (inv bad : Bool) (ecc : List TsEcc) : XfmCmd :=
  let row (base : Nat) : Int := rowBase x.seq.before.ab n 52 (bits n 51 49) base
  { inv := inv, size := bits n 61 61, xtab := bits n 60 53, srcRow := if inv then 0 else row (bits n 13 0)
    dstRow := if inv then row (bits n 27 14) else 0, tag := x.seq.tag, layer := x.seq.before.layer
    origin := x.arr.origin - 1, bad := bad, ecc := ecc }

theorem xfmSlot_of {s t : State} {n : Nat} {b : Option Issue} {w : DWord} {inv : Bool} {op : Nat} (bad : Bool)
    (ecc : List TsEcc) (slot : Slot s n b 30 w t) (unit : bits w.toNat 63 62 = if inv then 1 else 0)
    (entry : xtOp ((s.slice n).xfmEntry (bits w.toNat 60 53)) = op) :
    s.xfmSlot n b w inv op bad ecc = ((t.slotDone n 30).modArr n (fun a =>
      if inv then { a with invWait := some ((t.slice n).xfmCmd w.toNat inv bad ecc) }
      else { a with fwdWait := some ((t.slice n).xfmCmd w.toNat inv bad ecc) })).startXfm n := by
  unfold State.xfmSlot
  simp only [unit, entry, State.slot_of slot, Slice.rowWith, before_slotDone, tag_slotDone, arr_slotDone,
    bne_self_eq_false, Bool.or_self, Bool.not_true, Bool.false_eq_true, if_false, Slice.xfmCmd]

/-! ## When a waiting command starts -/

theorem startXfm_of_forward {u : State} {n : Nat} {c : XfmCmd} (wait : (u.slice n).arr.fwdWait = some c)
    (free : (u.slice n).arr.fwdIssue = none)
    (alone : ((((u.modArr n (fun a => { a with fwdWait := none })).runXfm n c).slice n).arr).invWait = none) :
    u.startXfm n = (u.modArr n (fun a => { a with fwdWait := none })).runXfm n c := by
  unfold State.startXfm
  simp only [wait, Arr.xfmFree, free, Bool.false_eq_true, if_false, Option.isNone_none, if_true, alone]

theorem startXfm_of_inverse {u : State} {n : Nat} {c : XfmCmd} (idle : (u.slice n).arr.fwdWait = none)
    (wait : (u.slice n).arr.invWait = some c) (free : (u.slice n).arr.invRows = []) :
    u.startXfm n = (u.modArr n (fun a => { a with invWait := none })).runXfm n c := by
  unfold State.startXfm
  simp only [idle, wait, Arr.xfmFree, free, List.isEmpty_nil, if_true]

theorem startXfm_of_none {u : State} {n : Nat} (forward : (u.slice n).arr.fwdWait = none)
    (inverse : (u.slice n).arr.invWait = none) : u.startXfm n = u := by
  unfold State.startXfm
  simp only [forward, inverse]

/-! ## TRANSFORM, ISSUE and INVERSE (R160 to R162) -/

theorem xfmFail_of_agree (s : State) (n : Nat) {c : XfmCmd} (agree : c.bad = false) : s.xfmFail n c = s := by
  simp [State.xfmFail, agree]

theorem runTransform_of_readable {u : State} {n : Nat} {c : XfmCmd} {e : Bytes} (agree : c.bad = false)
    (readable : (u.slice n).badRead (xtRows e c.srcRow c.points) = none) :
    u.runTransform n c e = ((u.eccReads n (xtRows e c.srcRow c.points) c.ecc).engineWrites n 3 c.tag.toNat
      ((List.range (xtTiles e)).flatMap (fun m => (u.slice n).xtWrites e c.srcRow c.points m))).2 := by
  unfold State.runTransform
  simp only [readable, xfmFail_of_agree _ n agree, ite_self]

/-- The slab rows that ISSUE reads. -/
def issueRows (c : XfmCmd) (e : Bytes) : List Int := (List.range (xtTiles e)).map (fun (m : Nat) => c.srcRow + (m : Int))

/-- The bin that ISSUE names. -/
def issueBin (c : XfmCmd) (e : Bytes) : Nat := (c.srcRow.toNat - fld e 20 2) / max 1 (xtTiles e)

/-- All rows that ISSUE reads: the slab rows and those of the exponents. -/
def issueReads (c : XfmCmd) (e : Bytes) : List Int :=
  issueRows c e ++ (List.range (xtTiles e)).map (fun (m : Nat) => ((fld e 22 2 + m / 128 : Nat) : Int))
    ++ [((fld e 24 2 + issueBin c e / 128 : Nat) : Int)]

/-- A stored exponent. -/
def Slice.expAt (x : Slice) (row i : Nat) : Int := signed 8 (ofLe (cut (x.row (row + i / 128 : Nat)) (i % 128) 1))

/-- The vectors of one bin with their exponent sums. -/
def Slice.issued (x : Slice) (c : XfmCmd) (e : Bytes) : FwdIssue :=
  { vecs := (issueRows c e).map (fun r => (List.range 64).map (fun i => BitVec.ofNat 16 (fld (x.row r) (2 * i) 2)))
    exps := (List.range (xtTiles e)).map (fun m => x.expAt (fld e 22 2) m + x.expAt (fld e 24 2) (issueBin c e)) }

theorem runIssue_of_readable {u : State} {n : Nat} {c : XfmCmd} {e : Bytes} (agree : c.bad = false)
    (readable : (u.slice n).badRead (issueReads c e) = none) :
    u.runIssue n c e = (u.eccReads n (issueReads c e) c.ecc).modArr n (fun a =>
      { a with fwdIssue := some ((u.slice n).issued c e) }) := by
  unfold issueReads issueRows issueBin at readable
  unfold State.runIssue
  simp only [readable, xfmFail_of_agree _ n agree]
  rfl

/-- All rows that INVERSE reads: those of the bins and of their exponents. -/
def inverseReads (c : XfmCmd) (e : Bytes) : List Int :=
  (List.range (bins c.points * xtTiles e)).map (fun i => ((fld e 20 2 + i : Nat) : Int))
    ++ (List.range ((bins c.points * xtTiles e + 127) / 128)).map (fun i => ((fld e 26 2 + i : Nat) : Int))

/-- The pixel row at (y, i) of tile m, none outside the output. -/
def Slice.inverseRow (x : Slice) (c : XfmCmd) (e : Bytes) (m y i : Nat) : Option InvRow :=
  let py := m / xtTilesX e * (xtQ e c.points).1 + y
  let px := m % xtTilesX e * (xtQ e c.points).2 + i
  if fld e 10 2 ≤ py || fld e 8 2 ≤ px then none else
  some { chain := fld e 28 1, py := py, px := px
         vals := (List.range (xtCh e)).map (fun ch => x.ivAt e c.points m ch (y + fld e 4 1 - 1) (i + fld e 5 1 - 1))
         tag := c.tag, layer := c.layer, row0 := c.dstRow, origin := c.origin, tile := x.arr.nextTile
         entry := x.chainEntry (fld e 28 1) }

/-- The pixel rows that INVERSE makes. -/
def Slice.inverseRows (x : Slice) (c : XfmCmd) (e : Bytes) : List InvRow :=
  (List.range (xtTiles e)).flatMap (fun m => (List.range (xtQ e c.points).1).flatMap (fun y =>
    (List.range (xtQ e c.points).2).filterMap (fun i => x.inverseRow c e m y i)))

theorem runInverse_of_readable {u : State} {n : Nat} {c : XfmCmd} {e : Bytes} (agree : c.bad = false)
    (readable : (u.slice n).badRead (inverseReads c e) = none) :
    u.runInverse n c e = (u.eccReads n (inverseReads c e) c.ecc).modArr n (fun a =>
      { a with nextTile := a.nextTile + 1, invRows := a.invRows ++ (u.slice n).inverseRows c e }) := by
  unfold inverseReads at readable
  unfold State.runInverse
  simp only [readable, agree, Bool.false_eq_true, if_false, xfmFail_of_agree _ n agree]
  rfl

/-- A pixel row lies inside the output and is the command's. -/
theorem inverseRow_within {x : Slice} {c : XfmCmd} {e : Bytes} {m y i : Nat} {r : InvRow}
    (made : x.inverseRow c e m y i = some r) :
    r.py < fld e 10 2 ∧ r.px < fld e 8 2 ∧ r.vals.length = xtCh e ∧ r.layer = c.layer ∧ r.tag = c.tag := by
  simp only [Slice.inverseRow, Option.ite_none_left_eq_some, Bool.or_eq_true, decide_eq_true_eq, not_or, Nat.not_le,
    Option.some.injEq] at made
  obtain ⟨⟨row, col⟩, rfl⟩ := made
  exact ⟨row, col, by simp, rfl, rfl⟩

theorem inverseRows_within {x : Slice} {c : XfmCmd} {e : Bytes} {r : InvRow} (made : r ∈ x.inverseRows c e) :
    r.py < fld e 10 2 ∧ r.px < fld e 8 2 ∧ r.vals.length = xtCh e ∧ r.layer = c.layer ∧ r.tag = c.tag := by
  simp only [Slice.inverseRows, List.mem_flatMap, List.mem_filterMap] at made
  obtain ⟨m, -, y, -, i, -, made⟩ := made
  exact inverseRow_within made

theorem runXfm_of_transform {u : State} {n : Nat} {c : XfmCmd} (forward : c.inv = false)
    (op : xtOp ((u.slice n).xfmEntry c.xtab) = 1) : u.runXfm n c = u.runTransform n c ((u.slice n).xfmEntry c.xtab) := by
  simp [State.runXfm, forward, op]

theorem runXfm_of_issue {u : State} {n : Nat} {c : XfmCmd} (forward : c.inv = false)
    (op : xtOp ((u.slice n).xfmEntry c.xtab) ≠ 1) : u.runXfm n c = u.runIssue n c ((u.slice n).xfmEntry c.xtab) := by
  simp [State.runXfm, forward, op]

theorem runXfm_of_inverse {u : State} {n : Nat} {c : XfmCmd} (inverse : c.inv = true) :
    u.runXfm n c = u.runInverse n c ((u.slice n).xfmEntry c.xtab) := by
  simp [State.runXfm, inverse]

/-- Settles O23. That TRANSFORM's writes fault with source 3 and go tile by tile is the model's choice
(notes/assumptions/16.md). -/
theorem transforms : Obligations.Transforms := by
  refine ⟨fun s t sl b w bad ecc slot => ?_, fun u sl c => ?_⟩
  · intro n x op row c u
    exact ⟨fun unit entry => congrArg (done s) (xfmSlot_of bad ecc slot (inv := false) unit entry),
      fun unit entry => congrArg (done s) (xfmSlot_of bad ecc slot (inv := false) unit entry),
      fun unit entry => congrArg (done s) (xfmSlot_of bad ecc slot (inv := true) unit entry)⟩
  · intro x y
    refine ⟨startXfm_of_forward, startXfm_of_inverse, ?_, ?_, ?_, startXfm_of_none⟩
    · rintro e forward agree rfl op readable
      rw [runXfm_of_transform forward op]
      exact runTransform_of_readable agree readable
    · rintro e forward agree rfl op k f exAt rows need readable
      rw [runXfm_of_issue forward op]
      exact runIssue_of_readable agree readable
    · rintro e inverse agree rfl k need readable
      rw [runXfm_of_inverse inverse]
      exact ⟨x.inverseRows c (x.xfmEntry c.xtab), runInverse_of_readable agree readable, fun r => inverseRows_within⟩

end Sys2Proof.Machine
end

section
/-! The proof of O24: the commands that clear counters. -/

namespace Sys2Proof.Machine

theorem arrClear_command : Obj.arrClear.Command := ⟨by decide, by decide, by decide⟩
theorem tsClear_command : Obj.tsClear.Command := ⟨by decide, by decide, by decide⟩
theorem slvClear_command : Obj.slvClear.Command := ⟨by decide, by decide, by decide⟩
theorem chClear_command : Obj.chClear.Command := ⟨by decide, by decide, by decide⟩

/-- A write of a clearing object in its turn puts its counters back. -/
theorem hostWrite_clear {s : State} {w : CmdW} {r : ObjRow} {k : Nat} {rows : List ObjRow} (turn : Turn s w.req)
    (command : r.Command) (meets : Writes s r k (clearRule rows k) (.num w.value)) (cmd : Instr) :
    s.hostWrite cmd w r k (clearRule rows k) = s.wrote w.req r k (fun u => u.clearRows rows k) :=
  State.hostWrite_cmd turn command meets rfl cmd

/-- Settles O24. -/
theorem counterClears : Obligations.CounterClears := by
  refine ⟨fun s sl w turn => ⟨fun meets => ?_, fun meets => ?_, fun meets => ?_⟩, fun s ch w turn meets => ?_,
    fun s rows k => clearRows_objs rows k s⟩
  · exact congrArg (done s) (hostWrite_clear turn arrClear_command meets _)
  · exact congrArg (done s) (hostWrite_clear turn tsClear_command meets _)
  · exact congrArg (done s) (hostWrite_clear turn slvClear_command meets _)
  · exact congrArg (done s) (hostWrite_clear turn chClear_command meets _)

end Sys2Proof.Machine
end

section
/-! The proof of O25: reads, writes and faults of the tile store's ports. -/

namespace Sys2Proof.Machine

/-! ## TILE_STORE_ACCESS (R110, R115) -/

section
variable {s : State} {sl : SliceId} {a : TsAccess} {al : Alloc} (alloc : (s.slice sl).alloc = some al)
  (writes : a.write = true → a.port ≠ .feederA ∧ a.port ≠ .feederB ∧ a.mask.contains true = true)
include alloc writes

/-- An access that its port makes: it is not refused at the port. -/
theorem exec_tileStoreAccess : exec (.tileStoreAccess sl a) s = .next (settle s (
    if !(s.slice sl).rowOk a.row || (a.write && (s.slice sl).rowCtrl a.row) then
      s.engineFault sl (tsPortSource a.port a.write) ((s.slice sl).portTag a.port a.write) (accessFirst a : Nat)
    else s.portAccess sl a ((al.base + a.row) % 8))) := by
  have made : ¬ (a.write && (a.port == .feederA || a.port == .feederB || !a.mask.contains true)) = true := by
    cases write : a.write with
    | false => simp
    | true =>
      obtain ⟨notA, notB, named⟩ := writes write
      simpa [notA, notB] using named
  show execTileStoreAccess sl a s = _
  unfold execTileStoreAccess
  simp only [alloc]
  rw [if_neg made]
  split <;> rfl

theorem exec_tileStoreAccess_of_fault
    (fault : (s.slice sl).rowOk a.row = false ∨ (a.write = true ∧ (s.slice sl).rowCtrl a.row = true)) :
    exec (.tileStoreAccess sl a) s = .next (settle s (s.engineFault sl (tsPortSource a.port a.write)
      ((s.slice sl).portTag a.port a.write) (accessFirst a : Nat))) := by
  rw [exec_tileStoreAccess alloc writes, if_pos]
  simpa using fault

theorem exec_tileStoreAccess_of_row (inside : (s.slice sl).rowOk a.row = true)
    (data : a.write = true → (s.slice sl).rowCtrl a.row = false) :
    exec (.tileStoreAccess sl a) s = .next (settle s (s.portAccess sl a ((al.base + a.row) % 8))) := by
  rw [exec_tileStoreAccess alloc writes, if_neg]
  simpa [inside] using data

end

/-! ## The port-slot schedule (R90, R92) -/

/-- Every port owns every group in one of any 8 cycles (Table — Port-slot schedule). -/
theorem port_owns (p : TsPort) : ∀ g < 8, ∀ r < 8, ∃ k < 8, (tsPortGroups p ((r + k) % 8)).contains g = true := by
  cases p <;> decide

theorem slotFrom_owned (p : TsPort) {g : Nat} (c : Nat) (group : g < 8) :
    c ≤ slotFrom p g c ∧ (tsPortGroups p (slotFrom p g c % 8)).contains g = true := by
  unfold slotFrom
  cases found : (List.range 8).find? (fun k => (tsPortGroups p ((c + k) % 8)).contains g) with
  | some k => exact ⟨Nat.le_add_right c k, by simpa using List.find?_some found⟩
  | none =>
    obtain ⟨k, within, owns⟩ := port_owns p g group (c % 8) (Nat.mod_lt c (by decide))
    rw [Nat.mod_add_mod] at owns
    exact absurd owns (List.find?_eq_none.1 found k (List.mem_range.2 within))

/-- The slot that an access takes: the port's in the group, not before the access, and after the last one taken. -/
theorem nextSlot_owned (t : Store) (p : TsPort) {g : Nat} (c : Nat) (group : g < 8) :
    c ≤ t.nextSlot p g c ∧ (tsPortGroups p (t.nextSlot p g c % 8)).contains g = true ∧
    ∀ l, tfind t.slots (slotKey p g) = some l → l < t.nextSlot p g c := by
  unfold Store.nextSlot
  cases taken : tfind t.slots (slotKey p g) with
  | none =>
    obtain ⟨after, owned⟩ := slotFrom_owned p c group
    exact ⟨after, owned, fun l h => nomatch h⟩
  | some l =>
    obtain ⟨after, owned⟩ := slotFrom_owned p (max c (l + 1)) group
    refine ⟨Nat.le_trans (Nat.le_max_left _ _) after, owned, fun m h => ?_⟩
    obtain rfl := Option.some.inj h
    exact Nat.le_trans (Nat.le_max_right _ _) after

/-! ## When an access is made (R92) -/

theorem mem_of_firstPend : ∀ {l : List TsPend} {p : TsPend}, firstPend l = some p → p ∈ l := by
  intro l
  induction l with
  | nil => intro p h; cases h
  | cons q l ih =>
    intro p h
    unfold firstPend at h
    cases rest : firstPend l with
    | none =>
      simp only [rest, Option.some.injEq] at h
      exact h ▸ List.mem_cons_self
    | some r =>
      simp only [rest] at h
      split at h
      · exact List.mem_cons_of_mem _ (ih (rest.trans h))
      · exact (Option.some.inj h) ▸ List.mem_cons_self

/-- With no pending access due, the ports do nothing. -/
theorem portsTo_of_none_due {s : State} {n c : Nat} (later : ∀ q ∈ (s.slice n).store.pend, c ≤ q.issue) (k : Nat) :
    State.portsTo n c k s = s := by
  cases k with
  | zero => rfl
  | succ k =>
    unfold State.portsTo
    cases first : firstPend (s.slice n).store.pend with
    | none => rfl
    | some p => exact if_pos (later p (mem_of_firstPend first))

/-- The accesses that wait at a port. -/
def Store.waiting (t : Store) (p : TsPort) : Nat := (t.pend.filter (fun q => q.acc.port == p)).length

/-- The slot of an access is taken. -/
def State.bookSlot (s : State) (n : Nat) (p : TsPort) (g c : Nat) : State :=
  s.modStore n (fun t => { t with slots := tput t.slots (slotKey p g) c })

section
variable {s : State} {n : Nat} {a : TsAccess} {g : Nat} (later : ∀ q ∈ (s.slice n).store.pend, a.cyc ≤ q.issue)
include later

theorem portAccess_of_full (full : 16 ≤ (s.slice n).store.waiting a.port) : s.portAccess n a g = s := by
  unfold State.portAccess
  rw [portsTo_of_none_due later]
  exact if_pos full

theorem portAccess_of_room (room : (s.slice n).store.waiting a.port < 16) : s.portAccess n a g =
    let c := (s.slice n).store.nextSlot a.port g a.cyc
    let d := max (c + 6) ((s.slice n).store.lastDelivery a.port)
    if c == a.cyc then
      (if a.write then (s.bookSlot n a.port g c).portWrite n a c else (s.bookSlot n a.port g c).portRead n a c d)
    else (s.bookSlot n a.port g c).modStore n (fun t => { t with pend := t.pend ++ [{ acc := a, issue := c, deliver := d }] }) := by
  unfold State.portAccess
  rw [portsTo_of_none_due later]
  exact if_neg (Nat.not_le.2 room)

theorem portAccess_of_now (room : (s.slice n).store.waiting a.port < 16)
    (now : (s.slice n).store.nextSlot a.port g a.cyc = a.cyc) : s.portAccess n a g =
    let c := (s.slice n).store.nextSlot a.port g a.cyc
    if a.write then (s.bookSlot n a.port g c).portWrite n a c
    else (s.bookSlot n a.port g c).portRead n a c (max (c + 6) ((s.slice n).store.lastDelivery a.port)) := by
  rw [portAccess_of_room later room]
  exact if_pos (beq_iff_eq.2 now)

theorem portAccess_of_later (room : (s.slice n).store.waiting a.port < 16)
    (wait : (s.slice n).store.nextSlot a.port g a.cyc ≠ a.cyc) : s.portAccess n a g =
    let c := (s.slice n).store.nextSlot a.port g a.cyc
    let d := max (c + 6) ((s.slice n).store.lastDelivery a.port)
    (s.bookSlot n a.port g c).modStore n (fun t => { t with pend := t.pend ++ [{ acc := a, issue := c, deliver := d }] }) := by
  rw [portAccess_of_room later room]
  exact if_neg (by simpa using wait)

end

/-! ## Reads (R91, R93 to R95) -/

/-- What a read of a row in cycle c delivers: the row as it stood before a write of that cycle. -/
def Slice.rowBefore (x : Slice) (row c : Nat) : Bytes :=
  match x.store.writes.find? (fun w => w.row == row && w.cyc == c) with
  | some w => w.old
  | none => x.row row

/-- The read and the row that it delivers are noted. -/
def State.readNoted (s : State) (n : Nat) (a : TsAccess) (c d : Nat) : State :=
  s.modStore n (fun t => { t with
    reads := t.reads.filter (fun r => decide (c ≤ r.cyc + 128)) ++
      [{ port := tsPortNum a.port, row := a.row, cyc := d, data := (s.slice n).rowBefore a.row c, poison := false }]
    readAt := t.readAt.filter (fun r => decide (c ≤ r.2 + 8)) ++ [(a.row, c)] })

/-- A collision with the write of a row in the same cycle is counted. -/
def State.hitCounted (s : State) (n : Nat) (hit : Bool) : State := if hit then s.count Obj.tsCollide n else s

theorem hitCounted_slice (s : State) (n m : Nat) (hit : Bool) : (s.hitCounted n hit).slice m = s.slice m := by
  cases hit <;> rfl

theorem hitCounted_tsEccCorr (s : State) (n : Nat) (hit : Bool) :
    (s.hitCounted n hit).num Obj.tsEccCorr n = s.num Obj.tsEccCorr n := by
  cases hit with
  | false => rfl
  | true => exact State.count_num_other _ _ _ _ _ _ (by simp [ObjRow.key, Obj.tsEccCorr, Obj.tsCollide])

theorem hitCounted_frame (s : State) (n : Nat) (hit : Bool) : s.hitCounted n hit = { s with objs := (s.hitCounted n hit).objs } := by
  cases hit <;> rfl

/-- A read without an uncorrectable word. -/
theorem portRead_of_clean {s : State} {n : Nat} {a : TsAccess} (c d : Nat)
    (clean : a.ecc.contains .uncorrectable = false) : ∃ hit, s.portRead n a c d =
      ((s.readNoted n a c d).hitCounted n hit).count Obj.tsEccCorr n
        (a.ecc.filter (fun e => e == .correctable)).length := by
  have absent : .uncorrectable ∉ a.ecc := by simpa using clean
  have good : a.ecc.any (fun e => e == .uncorrectable) = false :=
    List.any_eq_false.2 fun e mem found => absent (beq_iff_eq.1 found ▸ mem)
  unfold State.portRead
  simp only [good, Bool.not_false, if_true]
  exact ⟨_, rfl⟩

/-! ## Writes (R93, R94) -/

/-- The state in which a port has written a row. -/
def State.rowWritten (s : State) (n : Nat) (a : TsAccess) (c : Nat) : State :=
  let w : TsWrite := { port := tsPortNum a.port, row := a.row, cyc := c + 1, old := (s.slice n).row a.row }
  (s.setSlice n ((s.slice n).tsPut (a.row * 128) (maskRow ((s.slice n).row a.row) a.data a.mask))).modStore n (fun t =>
    { t with writes := t.writes.filter (fun v => decide (c ≤ v.cyc + 8)) ++ [w] })

theorem portWrite_eq (s : State) (n : Nat) (a : TsAccess) (c : Nat) :
    ∃ hit, s.portWrite n a c = (s.rowWritten n a c).hitCounted n hit :=
  ⟨(s.slice n).store.readAt.contains (a.row, c + 1), rfl⟩

/-- What the rows read does not depend on what is noted of writes. -/
theorem row_rowWritten (s : State) (n : Nat) (a : TsAccess) (c : Nat) (r : Int) :
    ((s.rowWritten n a c).slice n).row r =
      ((s.slice n).tsPut (a.row * 128) (maskRow ((s.slice n).row a.row) a.data a.mask)).row r := by
  unfold State.rowWritten State.modStore
  rw [State.slice_modSlice, State.slice_setSlice]
  rfl

theorem row_tsPut_same {x : Slice} (alloc : x.alloc ≠ none) (form : Memory.wf x.store.bytes = true) (row : Nat)
    {b : Bytes} (whole : b.length = 128) : (x.tsPut (row * 128) b).row row = b := by
  cases al : x.alloc with
  | none => exact absurd al alloc
  | some a =>
    simp only [Slice.row, Slice.ts, Slice.tsPut, al, Int.toNat_natCast]
    rw [← whole]
    exact cgets_cputs_same b _ _ form

theorem row_tsPut_other (x : Slice) {row r : Nat} {b : Bytes} (whole : b.length = 128) (other : r ≠ row) :
    (x.tsPut (row * 128) b).row r = x.row r := by
  cases al : x.alloc with
  | none => simp only [Slice.row, Slice.ts, Slice.tsPut, al]
  | some a =>
    simp only [Slice.row, Slice.ts, Slice.tsPut, al, Int.toNat_natCast]
    exact cgets_cputs_other b _ _ _ _ (by omega)

theorem maskRow_row_length (x : Slice) (r : Int) (d : Bytes) (m : List Bool) : (maskRow (x.row r) d m).length = 128 :=
  (maskRow_length _ d m).trans (row_length x r)

/-- Settles O25. -/
theorem tileStorePorts : Obligations.TileStorePorts := by
  refine ⟨fun s sl a al => ?_, fun s sl a g group => ?_, fun s sl a c d => ?_, fun s sl a c => ?_⟩
  · intro x alloc writes
    exact ⟨exec_tileStoreAccess_of_fault alloc writes, exec_tileStoreAccess_of_row alloc writes⟩
  · intro t c u d here later
    obtain ⟨after, owned, unused⟩ := nextSlot_owned t a.port a.cyc group
    exact ⟨after, owned, unused, portAccess_of_now later, portAccess_of_later later, portAccess_of_full later⟩
  · intro x clean t now
    obtain ⟨hit, read⟩ := portRead_of_clean (s := s) (n := sl) c d clean
    have store : (t.slice sl).store = ((s.readNoted sl a c d).slice sl).store := by
      show ((s.portRead sl a c d).slice sl).store = _
      rw [read, State.count_slice, hitCounted_slice]
    refine ⟨?_, ?_, ?_, ?_⟩
    · rw [store, State.readNoted, State.modStore, State.slice_modSlice]
      exact List.getLast?_concat
    · rw [store, State.readNoted, State.modStore, State.slice_modSlice]
    · show (s.portRead sl a c d).num Obj.tsEccCorr sl = _
      rw [read, State.count_num, hitCounted_tsEccCorr]
      rfl
    · show s.portRead sl a c d = { s with slices := (s.portRead sl a c d).slices, objs := (s.portRead sl a c d).objs }
      rw [read, hitCounted_frame]
      rfl
  · intro x alloc form t
    obtain ⟨hit, write⟩ := portWrite_eq s sl a c
    have rows : ∀ r : Int, (t.slice sl).row r = (x.tsPut (a.row * 128) (maskRow (x.row a.row) a.data a.mask)).row r := by
      intro r
      show ((s.portWrite sl a c).slice sl).row r = _
      rw [write, hitCounted_slice, row_rowWritten]
    refine ⟨?_, fun r other => ?_, ?_⟩
    · rw [rows]
      exact row_tsPut_same alloc form a.row (maskRow_row_length x _ _ _)
    · rw [rows]
      exact row_tsPut_other x (maskRow_row_length x _ _ _) other
    · show s.portWrite sl a c = { s with slices := (s.portWrite sl a c).slices, objs := (s.portWrite sl a c).objs }
      rw [write, hitCounted_frame]
      rfl

end Sys2Proof.Machine
end

section
/-! The proof of O26: what a descriptor that passes the extent check may touch. -/

namespace Sys2Proof.Machine

/-- The local range that is checked before the list of a descriptor is read. -/
def Slice.fixedRange (x : Slice) (b : Bytes) : Range :=
  match dMode b with
  | 0 => x.tsData b
  | 1 => listRange b
  | _ => (listRange b).join (x.tsData b)

/-- A page that a descriptor may not reach. -/
def State.badPage (s : State) (w : DmaOwner) (b : Bytes) (p : Int) : Bool :=
  p < 0 || (pageCount : Int) ≤ p || !w.page (dDir b) (s.entry p.toNat)

/-- The whole numbers of a range. -/
def Range.list (e : Range) : List Int := (List.range (e.hi - e.lo + 1).toNat).map (fun (i : Nat) => e.lo + (i : Int))

theorem mem_range_list {e : Range} {p : Int} (low : e.lo ≤ p) (high : p ≤ e.hi) : p ∈ e.list := by
  refine List.mem_map.2 ⟨(p - e.lo).toNat, ?_, ?_⟩
  · rw [List.mem_range]
    omega
  · omega

/-- The checks of R101, R107 and R108, each passed. -/
theorem descCheck_none {s : State} {x : Slice} {w : DmaOwner} {b : Bytes} (pass : s.descCheck x w b = none) :
    malformed b = none ∧ ¬ ((x.fixedRange b).lo < w.o ∨ ((w.o + w.n : Nat) : Int) ≤ (x.fixedRange b).hi) ∧
    ¬ ((x.tsData b).lo < w.o ∨ ((w.o + w.n : Nat) : Int) ≤ (x.tsData b).hi) ∧
    ¬ (dDir b = false ∧ (x.tsData b).lo < w.ctrl) ∧
    ¬ (16384 < ((extent b).units pageBytes).hi - ((extent b).units pageBytes).lo + 1) ∧
    ((extent b).units pageBytes).list.find? (s.badPage w b) = none := by
  unfold State.descCheck at pass
  split at pass
  · cases pass
  next formed =>
  change (if (decide ((x.fixedRange b).lo < w.o) || decide (((w.o + w.n : Nat) : Int) ≤ (x.fixedRange b).hi)) = true
    then _ else _) = _ at pass
  split at pass
  · cases pass
  next fixed =>
  split at pass
  · cases pass
  dsimp only at pass
  split at pass
  · cases pass
  next data =>
  split at pass
  · cases pass
  next ctrl =>
  split at pass
  · cases pass
  next many =>
  refine ⟨formed, ?_, ?_, ?_, many, ?_⟩
  · simpa using fixed
  · simpa using data
  · simpa using ctrl
  · exact Option.map_eq_none_iff.1 pass

/-- A descriptor with a list has it in its owner's range. -/
theorem list_within {x : Slice} {b : Bytes} {o top : Int} (listed : dMode b ≠ 0)
    (fixed : ¬ ((x.fixedRange b).lo < o ∨ top ≤ (x.fixedRange b).hi)) :
    o ≤ (listRange b).lo ∧ (listRange b).hi < top := by
  unfold Slice.fixedRange at fixed
  split at fixed
  next mode => exact absurd mode listed
  next => omega
  next =>
    simp only [Range.join] at fixed
    omega

/-- Settles O26, a check at a time. -/
theorem extentCheckSound : Obligations.ExtentCheckSound := by
  intro s x w b pass
  obtain ⟨formed, fixed, data, ctrl, many, pages⟩ := descCheck_none pass
  refine ⟨formed, by omega, by omega, fun reads => ?_, fun listed => list_within listed fixed, by omega, fun p low high => ?_⟩
  · exact Int.not_lt.mp fun below => ctrl ⟨reads, below⟩
  · have good := List.find?_eq_none.1 pages p (mem_range_list low high)
    simp only [State.badPage, Bool.or_eq_true, decide_eq_true_eq, Bool.not_eq_true', not_or, Bool.not_eq_false] at good
    obtain ⟨⟨start, stop⟩, right⟩ := good
    exact ⟨by omega, by omega, right⟩

end Sys2Proof.Machine
end

section
/-! The proofs of O27 and O28: descriptors, their requests and tags. -/

namespace Sys2Proof.Machine

/-! ## DESCRIPTOR_START (R102, R105, R107) -/

/-- An older descriptor in flight, of the engine or of a cluster, that d must wait for (R105). -/
def State.hazard (s : State) (n : Nat) (d : Desc) : Bool :=
  (s.slice n).store.descs.any (fun o => decide (o.uid < d.uid) && (s.slice n).overlaps d o)
    || (s.clusterDescs n).any (fun o => decide (o.d.uid < d.uid) && d.meets o.d)

/-- The state in which descriptor d has started. -/
def State.descStarted (s : State) (n : Nat) (d : Desc) : State :=
  s.modDesc n d.uid (fun e => { e with started := true, total := (s.slice n).work e.raw })

section
variable {s : State} {sl : SliceId} {out : Bool} {d : Desc}
  (next : (s.slice sl).store.descs.find? (fun d => d.out == out && !d.started) = some d)
include next

theorem exec_descriptorStart_of_hazard (hazard : s.hazard sl d = true) : exec (.descriptorStart sl out) s =
    .next (if d.hazard then s else (s.modDesc sl d.uid (fun d => { d with hazard := true })).count Obj.dmaHazard sl) := by
  show execDescriptorStart sl out s = _
  unfold execDescriptorStart
  simp only [next]
  exact if_pos hazard

theorem exec_descriptorStart_of_fault {st o : Nat} (clear : s.hazard sl d = false)
    (fault : s.extentCheck sl d.raw = some (st, o)) : exec (.descriptorStart sl out) s =
      .next (settle s (s.transferFault sl st (if out then 2 else 1) d.tag.toNat d.idx (dId d.raw) o)) := by
  show execDescriptorStart sl out s = _
  unfold execDescriptorStart
  simp only [next]
  rw [if_neg (by rw [← State.hazard, clear]; exact Bool.false_ne_true), fault]
  rfl

theorem exec_descriptorStart_of_pass (clear : s.hazard sl d = false) (pass : s.extentCheck sl d.raw = none) :
    exec (.descriptorStart sl out) s =
      .next (if dMode d.raw == 2 then (s.descStarted sl d).boxZero sl d.raw else s.descStarted sl d) := by
  show execDescriptorStart sl out s = _
  unfold execDescriptorStart
  simp only [next]
  rw [if_neg (by rw [← State.hazard, clear]; exact Bool.false_ne_true), pass]
  rfl

end

/-! ## DESCRIPTOR_COMPLETE and TAG_EXPIRY (R104, R106) -/

/-- The state in which descriptor d has left and been counted. -/
def State.descGone (s : State) (n : Nat) (out : Bool) (d : Desc) : State :=
  (s.modStore n (fun t => { t with descs := t.descs.filter (fun e => e.uid != d.uid) })).count
    (if out then Obj.dmaDescOut else Obj.dmaDescIn) n

theorem exec_descriptorComplete {s : State} {sl : SliceId} {out : Bool} {d : Desc}
    (oldest : (s.slice sl).store.descs.find? (fun d => d.out == out) = some d) (started : d.started = true)
    (requested : d.total ≤ d.pos) (untagged : ∀ t ∈ (s.slice sl).store.tags, t.uid ≠ d.uid)
    (unparked : s.parkedPos sl d.uid = []) : exec (.descriptorComplete sl out) s = .next (settle s
      ((if dFlagEn d.raw then (s.descGone sl out d).setFlag (dFlag d.raw) else s.descGone sl out d).runClusters sl)) := by
  have completes : ¬ (!d.started || decide (d.pos < d.total) || (s.slice sl).store.tags.any (fun t => t.uid == d.uid)
      || !(s.parkedPos sl d.uid).isEmpty) = true := by
    simpa [started, requested, unparked] using untagged
  show execDescriptorComplete sl out s = _
  unfold execDescriptorComplete
  simp only [oldest]
  rw [if_neg completes]
  rfl

theorem exec_tagExpiry {s : State} {sl : SliceId} {tag : Nat} {e : TagEntry}
    (held : (s.slice sl).store.tags.find? (fun e => e.tag == tag) = some e) : exec (.tagExpiry sl tag) s =
      .next (settle s (((s.advanceTo (e.since + 100 * us)).freeTag sl e).tagFault (some sl.val) e.addr)) := by
  show execTagExpiry sl tag s = _
  simp only [execTagExpiry, held, done]

/-- Settles O27. -/
theorem descriptors : Obligations.Descriptors := by
  refine ⟨fun s sl out d => ?_, fun s sl out d => ?_, fun s sl tag e => exec_tagExpiry⟩
  · intro x h t next
    refine ⟨fun hazard counted => ?_, fun hazard new => ?_, fun clear pass plain => ?_, fun clear pass box => ?_,
      fun st o clear fault => exec_descriptorStart_of_fault next clear fault⟩
    · rw [exec_descriptorStart_of_hazard next hazard, counted, if_pos rfl]
    · rw [exec_descriptorStart_of_hazard next hazard, new, if_neg Bool.false_ne_true]
    · rw [exec_descriptorStart_of_pass next clear pass, if_neg (by simpa using plain)]
      rfl
    · rw [exec_descriptorStart_of_pass next clear pass, if_pos (by simpa using box)]
      rfl
  · intro x oldest started requested untagged unparked t
    have completed := exec_descriptorComplete oldest started requested untagged unparked
    refine ⟨fun plain => ?_, fun flag => ?_⟩
    · rw [completed, plain, if_neg Bool.false_ne_true]
      rfl
    · rw [completed, flag, if_pos rfl]
      rfl

/-! ## DMA_REQUEST_SEND (R103) -/

/-- The request that descriptor d sends next. -/
def Slice.memReq (x : Slice) (n : Fin 6) (out : Bool) (d : Desc) : MemReq :=
  let q := x.request d.raw d.pos
  { source := .slice n, addr := q.1, write := out, data := if out then x.ts q.2.1 q.2.2 else []
    mask := if out then blockMask (q.1 % 64) q.2.2 else [] }

/-- The state in which descriptor d has sent its next request. -/
def State.descSent (s : State) (sl : SliceId) (out : Bool) (d : Desc) : State :=
  let len := ((s.slice sl).request d.raw d.pos).2.2
  (s.modDesc sl d.uid (fun d => { d with pos := d.pos + len })).send ((s.slice sl).memReq sl out d) (.dma d.uid d.pos len)

section
variable {s : State} {sl : SliceId} {out : Bool} (ecc : List TsEcc) {d : Desc}
  (next : (s.slice sl).store.descs.find? (fun d => d.out == out && d.started && decide (d.pos < d.total)) = some d)
include next

theorem exec_dmaRequestSend_of_full (full : 2048 ≤ (s.slice sl).store.tags.length) :
    exec (.dmaRequestSend sl ⟨out, ecc⟩) s = .next (s.count Obj.dmaTagFull sl) := by
  show execDmaRequestSend sl ⟨out, ecc⟩ s = _
  simp only [execDmaRequestSend, next, full, if_true]

theorem exec_dmaRequestSend_of_served (room : (s.slice sl).store.tags.length < 2048)
    (served : s.served ((s.slice sl).request d.raw d.pos).1 = true) :
    exec (.dmaRequestSend sl ⟨out, ecc⟩) s = .next (settle s (
      let q := (s.slice sl).request d.raw d.pos
      if out then (s.descSent sl out d).eccReads sl (rowsIn q.2.1 q.2.2) ecc else s.descSent sl out d)) := by
  show execDmaRequestSend sl ⟨out, ecc⟩ s = _
  simp only [execDmaRequestSend, next, Nat.not_le.2 room, if_false, served, Bool.not_true, Bool.false_eq_true, done,
    State.descSent, Slice.memReq]

theorem exec_dmaRequestSend_of_lost (room : (s.slice sl).store.tags.length < 2048)
    (lost : s.served ((s.slice sl).request d.raw d.pos).1 = false) :
    exec (.dmaRequestSend sl ⟨out, ecc⟩) s = .next (settle s (s.loseSliceWork sl)) := by
  show execDmaRequestSend sl ⟨out, ecc⟩ s = _
  simp only [execDmaRequestSend, next, Nat.not_le.2 room, if_false, lost, Bool.not_false, if_true, done]

end

theorem within_block {a k : Nat} (short : k ≤ 64 - a % 64) : k ≤ 64 ∧ a % 64 + k ≤ 64 := by omega

/-- A request of STRIDED or GATHER stays inside a 64-byte block (R103). -/
theorem request_within_block (x : Slice) {b : Bytes} (pos : Nat) (moves : dMode b ≤ 1) :
    (x.request b pos).2.2 ≤ 64 ∧ (x.request b pos).1 % 64 + (x.request b pos).2.2 ≤ 64 := by
  unfold Slice.request
  split
  next => exact within_block (Nat.min_le_right _ _)
  next =>
    split
    · exact within_block (Nat.min_le_right _ _)
    · exact ⟨by decide, by decide⟩
  next strided gather =>
    have : dMode b = 0 ∨ dMode b = 1 := by omega
    obtain mode | mode := this
    · exact absurd mode strided
    · exact absurd mode gather

/-! ## Tags (R103, R104) -/

/-- The lowest number that no tag of a list has. -/
def freeTagOf (l : List TagEntry) : Nat := lowestFree 0 ((l.map (·.tag)).foldl ins [])

theorem freeTagOf_free {l : List TagEntry} {f : TagEntry} (held : f ∈ l) : f.tag ≠ freeTagOf l := by
  obtain ⟨sorted, all⟩ := foldl_ins (l.map (·.tag)) [] List.Pairwise.nil
  obtain ⟨-, free⟩ := lowestFree_free _ 0 sorted (fun k _ => Nat.zero_le k)
  intro same
  exact free ((show f.tag = lowestFree 0 _ from same) ▸ all f.tag (.inl (List.mem_map_of_mem held)))

/-- The tag that an admitted request of slice n's engine takes. -/
def State.tagFor (s : State) (ch : Nat) (q : SortReq) (n uid pos len : Nat) : TagEntry :=
  { tag := freeTagOf (s.slice n).store.tags, uid := uid, out := q.write, pos := pos, len := len, addr := q.addr
    since := s.clk.now, ch := ch, req := q.id, data := q.data }

theorem takeRes_of_dma {s : State} {q : SortReq} {n : Fin 6} {uid pos len : Nat} (ch : Nat) (source : q.source = .slice n)
    (link : q.link = .dma uid pos len) : s.takeRes ch q =
      (s.modStore n (fun t => { t with tags := (s.slice n).store.tags ++ [s.tagFor ch q n uid pos len] })).peak
        Obj.dmaTagsPeak n ((s.slice n).store.tags.length + 1) := by
  unfold State.takeRes
  simp only [link, source]
  rfl

/-- Requests that enter a sorter change nothing of the slices. -/
theorem peak_slices (s : State) (r : ObjRow) (k n : Nat) : (s.peak r k n).slices = s.slices := by
  unfold State.peak
  split <;> rfl

theorem park_slices (s : State) (c : Nat) (r : MemReq) (l : ReqLink) : (s.park c r l).slices = s.slices := by
  unfold State.park
  dsimp only
  split
  · exact peak_slices _ _ _ _
  · exact peak_slices _ _ _ _

theorem pull_slices (c : Nat) (l : List (MemReq × ReqLink)) : ∀ (blocked : List ReqSource) (s : State),
    (State.pull c l blocked s).slices = s.slices := by
  induction l with
  | nil => intro blocked s; rfl
  | cons r l ih =>
    intro blocked s
    unfold State.pull
    split
    · exact ih _ _
    · exact (ih _ _).trans (park_slices s c r.1 r.2)

theorem retireReq_slices (s : State) (ch : Nat) (ids : List Nat) : (s.retireReq ch ids).slices = s.slices :=
  pull_slices ch _ _ _

theorem tags_freeTag (s : State) (n : Nat) (e : TagEntry) :
    ((s.freeTag n e).slice n).store.tags = (s.slice n).store.tags.filter (fun f => f.tag != e.tag) := by
  unfold State.freeTag State.slice
  rw [retireReq_slices, ← State.slice, State.modStore, State.slice_modSlice]
  rfl

/-! ## DMA_REQUEST_DONE (R103, R203) -/

theorem exec_dmaRequestDone {s : State} {sl : SliceId} {tag : Nat} (ecc : MemErr) {e : TagEntry} {r : SortReq}
    (held : (s.slice sl).store.tags.find? (fun e => e.tag == tag) = some e) (finish : s.mayFinish e.ch e.req = some r) :
    exec (.dmaRequestDone sl tag ecc) s =
      .next (settle s ((s.access e.ch r ecc).2.dmaDone sl e (s.access e.ch r ecc).1)) := by
  show execDmaRequestDone sl tag ecc s = _
  simp only [execDmaRequestDone, held, finish, done]

theorem dmaDone_of_out {s : State} {n : Nat} {e : TagEntry} (good : Bool) (out : e.out = true) :
    s.dmaDone n e good = (s.freeTag n e).dmaWritten n e good := by simp [State.dmaDone, out]

theorem dmaDone_of_in {s : State} {n : Nat} {e : TagEntry} (good : Bool) (into : e.out = false) :
    s.dmaDone n e good = (s.freeTag n e).dmaRead n ((s.slice n).descOf e.uid) e good := by simp [State.dmaDone, into]

/-- A whole block is written without a read of its ECC (R203). -/
theorem access_of_whole_block {s : State} {ch : Nat} {r : SortReq} (ecc : MemErr) (write : r.write = true)
    (whole : r.mask.contains false = false) :
    s.access ch r ecc = (true, (s.unmarkBad r.addr).count Obj.chBytesWr ch 64) :=
  if_pos (by rw [write, whole]; rfl)

theorem dmaWritten_of_discarded {u : State} {n : Nat} {e : TagEntry} (discarded : (u.slice n).descOf e.uid = none) :
    u.dmaWritten n e true = (u.writeBytes e.addr e.data).count Obj.dmaBytesOut n e.len := by
  simp only [State.dmaWritten, discarded, Bool.not_true, Bool.false_eq_true, if_false]

/-- Settles O28. That the tag taken is the lowest free one is the model's choice. -/
theorem dmaRequests : Obligations.DmaRequests := by
  refine ⟨fun s sl out ecc d => ?_, fun s ch q n uid pos len source link => ?_, fun s sl tag ecc e r held finish => ?_,
    fun s sl e => tags_freeTag s sl e⟩
  · intro x next
    refine ⟨exec_dmaRequestSend_of_full ecc next, fun room => ?_⟩
    exact ⟨exec_dmaRequestSend_of_served ecc next room, exec_dmaRequestSend_of_lost ecc next room,
      fun moves => request_within_block x d.pos moves⟩
  · exact ⟨takeRes_of_dma ch source link, fun f => freeTagOf_free⟩
  · intro g u
    refine ⟨fun out => ?_, fun into => ?_, access_of_whole_block ecc, dmaWritten_of_discarded⟩
    · rw [exec_dmaRequestDone ecc held finish, dmaDone_of_out _ out]
    · rw [exec_dmaRequestDone ecc held finish, dmaDone_of_in _ into]

end Sys2Proof.Machine
end

section
/-! The proof of O29: the base instructions, CSRs and system instructions of a sliver thread. -/

namespace Sys2Proof.Machine

/-! ## What the local store's ECC finds (R186) -/

theorem lsOutcome_of_no_access (s : State) (n : Nat) (ls : List LsEcc) : s.lsOutcome n [] ls = (none, s) := by
  simp [State.lsOutcome]

theorem lsOutcome_of_no_error (s : State) (n : Nat) (acc : List (Nat × Nat)) : s.lsOutcome n acc [] = (none, s) := by
  simp [State.lsOutcome]

theorem lsOutcome_of_good (s : State) {n : Nat} {acc : List (Nat × Nat)} {ls : List LsEcc} (good : acc = [] ∨ ls = []) :
    s.lsOutcome n acc ls = (none, s) := by
  rcases good with rfl | rfl
  · exact lsOutcome_of_no_access s n ls
  · exact lsOutcome_of_no_error s n acc

theorem settleEx_of_good (s : State) (k : Nat) {ls : List LsEcc} {v : Tv} (good : v.ls = [] ∨ ls = []) :
    s.settleEx k ls (.ok v) = v.s := by
  simp only [State.settleEx, lsOutcome_of_good _ good]

/-! ## The instruction at the PC (R172 to R177) -/

/-- The instruction of hart k under way, its window loads not served. -/
def State.under (t : State) (k : Nat) : Tv := { s := t, k := k, win := false, ls := [] }

/-- The opcodes of the scalar instructions that are not system, fence, vector or custom instructions, nor the loads and
stores of the F extension. -/
def plainOp (op : Nat) : Bool :=
  op != 0x0B && op != 0x0F && op != 0x73 && op != 0x57 && op != 0x07 && op != 0x27

theorem instr_of_plain {t : State} {k : Nat} {cyc : Cycles} {ls : List LsEcc} {i : Nat} (plain : plainOp (bits i 6 0) = true) :
    t.instr k cyc ls false i 4 = t.settleEx k ls ((t.under k).exScalar i i 4) := by
  simp only [plainOp, Bool.and_eq_true, bne_iff_ne] at plain
  obtain ⟨⟨⟨⟨⟨custom, fence⟩, system⟩, vector⟩, load⟩, store⟩ := plain
  have notWfi : (i == 0x10500073) = false := by
    rw [beq_eq_false_iff_ne]
    rintro rfl
    exact system rfl
  simp [State.instr, custom, fence, system, vector, load, store, notWfi, isVector, State.under]

section
variable {s t : State} {h : HartId} {cyc : Cycles} {ls : List LsEcc} (goes : ThreadGoes s h.num cyc t)
include goes

theorem exec_sliverInstruction_of_bad {a : Nat} (fetch : s.fetch h.num = .bad a) :
    exec (.sliverInstruction h cyc ls) s = .next (settle s (t.faultAt h.num 3 a)) := by
  show execSliverInstruction h cyc ls s = _
  simp only [execSliverInstruction, fetch, thread_goes goes, done]

theorem exec_sliverInstruction_of_ok {i len : Nat} (fetch : s.fetch h.num = .ok i len) :
    exec (.sliverInstruction h cyc ls) s = .next (settle s (t.instr h.num cyc ls false i len)) := by
  show execSliverInstruction h cyc ls s = _
  simp only [execSliverInstruction, fetch, thread_goes goes, done]

section
variable {i : Nat} (fetch : s.fetch h.num = .ok i 4)
include fetch

theorem exec_plain (plain : plainOp (bits i 6 0) = true) : exec (.sliverInstruction h cyc ls) s =
    .next (settle s (t.settleEx h.num ls ((t.under h.num).exScalar i i 4))) := by
  rw [exec_sliverInstruction_of_ok goes fetch, instr_of_plain plain]

/-- A register operation retires with its result. -/
theorem exec_fin {f : Hart → Hart} (plain : plainOp (bits i 6 0) = true)
    (ends : (t.under h.num).exScalar i i 4 = (t.under h.num).fin 4 f) : exec (.sliverInstruction h cyc ls) s =
      .next (settle s (t.modHart h.num (fun x => (f x).retire 4))) := by
  rw [exec_plain goes fetch plain, ends]
  exact congrArg (done s) (settleEx_of_good _ _ (.inl rfl))

theorem exec_jump {pc : Word} (plain : plainOp (bits i 6 0) = true)
    (ends : (t.under h.num).exScalar i i 4 = (t.under h.num).jump pc id) : exec (.sliverInstruction h cyc ls) s =
      .next (settle s (t.modHart h.num (fun x => { x with pc := pc, minstret := x.minstret + 1, got := [] }))) := by
  rw [exec_plain goes fetch plain, ends]
  exact congrArg (done s) (settleEx_of_good _ _ (.inl rfl))

theorem exec_fault {cause detail : Nat} (plain : plainOp (bits i 6 0) = true)
    (ends : (t.under h.num).exScalar i i 4 = .stop (t.under h.num) (.fault cause detail)) :
    exec (.sliverInstruction h cyc ls) s = .next (settle s (t.faultAt h.num cause detail)) := by
  rw [exec_plain goes fetch plain, ends]
  rfl

end
end

/-! ## Register operations and branches -/

section
variable (v : Tv) {i : Nat}

theorem exScalar_op_plain (op : bits i 6 0 = 0x33) (f7 : bits i 31 25 = 0) : v.exScalar i i 4 =
    v.fin 4 (fun h => h.setX (bits i 11 7) (alu (bits i 14 12) false (v.h.getX (bits i 19 15)) (v.h.getX (bits i 24 20)))) := by
  simp [Tv.exScalar, op, Tv.exOp, f7]

theorem exScalar_op_alt (op : bits i 6 0 = 0x33) (f7 : bits i 31 25 = 0x20) (f3 : bits i 14 12 = 0 ∨ bits i 14 12 = 5) :
    v.exScalar i i 4 = v.fin 4 (fun h => h.setX (bits i 11 7)
      (alu (bits i 14 12) true (v.h.getX (bits i 19 15)) (v.h.getX (bits i 24 20)))) := by
  simp [Tv.exScalar, op, Tv.exOp, f7, f3]

theorem exScalar_mulDiv (op : bits i 6 0 = 0x33) (f7 : bits i 31 25 = 1) : v.exScalar i i 4 =
    v.fin 4 (fun h => h.setX (bits i 11 7) (mulDiv (bits i 14 12) (v.h.getX (bits i 19 15)) (v.h.getX (bits i 24 20)))) := by
  simp [Tv.exScalar, op, Tv.exOp, f7]

theorem exScalar_opImm (op : bits i 6 0 = 0x13) (notLeft : bits i 14 12 ≠ 1) (notRight : bits i 14 12 ≠ 5) :
    v.exScalar i i 4 =
      v.fin 4 (fun h => h.setX (bits i 11 7) (alu (bits i 14 12) false (v.h.getX (bits i 19 15)) (immI i))) := by
  simp [Tv.exScalar, op, Tv.exOpImm, notLeft, notRight]

theorem exScalar_lui (op : bits i 6 0 = 0x37) : v.exScalar i i 4 =
    v.fin 4 (fun h => h.setX (bits i 11 7) (BitVec.ofNat 32 (bits i 31 12 * 4096))) := by
  simp [Tv.exScalar, op]

theorem exScalar_auipc (op : bits i 6 0 = 0x17) : v.exScalar i i 4 =
    v.fin 4 (fun h => h.setX (bits i 11 7) (v.h.pc + BitVec.ofNat 32 (bits i 31 12 * 4096))) := by
  simp [Tv.exScalar, op]

theorem exScalar_branch {taken : Bool} (op : bits i 6 0 = 0x63) (not2 : bits i 14 12 ≠ 2) (not3 : bits i 14 12 ≠ 3)
    (branch : branchTaken (bits i 14 12) (v.h.getX (bits i 19 15)) (v.h.getX (bits i 24 20)) = taken) : v.exScalar i i 4 =
      if taken then v.jump (v.h.pc + immB i) id else v.fin 4 id := by
  simp [Tv.exScalar, op, Tv.exBranch, not2, not3, branch]

/-! ## Loads and stores of a word -/

/-- The address of a load, of a store. -/
def Tv.loadAt (v : Tv) (i : Nat) : Nat := (v.h.getX (bits i 19 15) + immI i).toNat
def Tv.storeAt (v : Tv) (i : Nat) : Nat := (v.h.getX (bits i 19 15) + immS i).toNat

theorem exScalar_loadWord (op : bits i 6 0 = 0x03) (f3 : bits i 14 12 = 2) : v.exScalar i i 4 =
    v.loadTo 4 (v.h.getX (bits i 19 15) + immI i) 4 (fun x h => h.setX (bits i 11 7) (BitVec.ofNat 32 x)) := by
  simp [Tv.exScalar, op, Tv.exLoad, f3]

theorem Tv.read_of_local {a n : Nat} (aligned : a % n = 0) (here : v.s.reach v.k a n false = .loc) :
    v.read a n = .ok (v.s.lsGet v.k a n, { v with ls := v.ls ++ [(a, n)] }) := by
  simp [Tv.read, aligned, here]

theorem Tv.read_of_misaligned {a n : Nat} (skew : a % n ≠ 0) : v.read a n = .error (.fault 2 a) := by
  simp [Tv.read, skew]

theorem Tv.write_of_local {a : Nat} {b : Bytes} (aligned : a % b.length = 0) (here : v.s.reach v.k a b.length true = .loc) :
    v.write a b = .ok { v with s := v.s.lsPut v.k a b, ls := v.ls ++ [(a, b.length)] } := by
  simp [Tv.write, aligned, here]

theorem Tv.loadTo_of_local {len n : Nat} {a : Word} {f : Nat → Hart → Hart} (aligned : a.toNat % n = 0)
    (here : v.s.reach v.k a.toNat n false = .loc) : v.loadTo len a n f =
      ({ v with ls := v.ls ++ [(a.toNat, n)] } : Tv).fin len (f (ofLe (v.s.lsGet v.k a.toNat n))) := by
  rw [Tv.loadTo, v.read_of_local aligned here]

theorem Tv.loadTo_of_misaligned {len n : Nat} {a : Word} {f : Nat → Hart → Hart} (skew : a.toNat % n ≠ 0) :
    v.loadTo len a n f = .stop v (.fault 2 a.toNat) := by
  rw [Tv.loadTo, v.read_of_misaligned skew]

theorem Tv.storeFrom_of_local {len n : Nat} {a x : Word} (aligned : a.toNat % n = 0)
    (here : v.s.reach v.k a.toNat n true = .loc) : v.storeFrom len a n x =
      ({ v with s := v.s.lsPut v.k a.toNat (le n x.toNat), ls := v.ls ++ [(a.toNat, n)] } : Tv).fin len id := by
  rw [Tv.storeFrom, v.write_of_local (by rw [le_length]; exact aligned) (by rw [le_length]; exact here), le_length]

theorem exScalar_loadWord_of_local (op : bits i 6 0 = 0x03) (f3 : bits i 14 12 = 2) (aligned : v.loadAt i % 4 = 0)
    (here : v.s.reach v.k (v.loadAt i) 4 false = .loc) : v.exScalar i i 4 =
      ({ v with ls := v.ls ++ [(v.loadAt i, 4)] } : Tv).fin 4 (fun h =>
        h.setX (bits i 11 7) (BitVec.ofNat 32 (ofLe (v.s.lsGet v.k (v.loadAt i) 4)))) :=
  (exScalar_loadWord v op f3).trans (v.loadTo_of_local aligned here)

theorem exScalar_loadWord_of_misaligned (op : bits i 6 0 = 0x03) (f3 : bits i 14 12 = 2) (skew : v.loadAt i % 4 ≠ 0) :
    v.exScalar i i 4 = .stop v (.fault 2 (v.loadAt i)) :=
  (exScalar_loadWord v op f3).trans (v.loadTo_of_misaligned skew)

theorem exScalar_storeWord (op : bits i 6 0 = 0x23) (f3 : bits i 14 12 = 2) : v.exScalar i i 4 =
    v.storeFrom 4 (v.h.getX (bits i 19 15) + immS i) 4 (v.h.getX (bits i 24 20)) := by
  simp [Tv.exScalar, op, Tv.exStore, f3]

theorem exScalar_storeWord_of_local (op : bits i 6 0 = 0x23) (f3 : bits i 14 12 = 2) (aligned : v.storeAt i % 4 = 0)
    (here : v.s.reach v.k (v.storeAt i) 4 true = .loc) : v.exScalar i i 4 =
      ({ v with s := v.s.lsPut v.k (v.storeAt i) (le 4 (v.h.getX (bits i 24 20)).toNat)
                ls := v.ls ++ [(v.storeAt i, 4)] } : Tv).fin 4 id :=
  (exScalar_storeWord v op f3).trans (v.storeFrom_of_local aligned here)

end

/-! ## ECALL and EBREAK -/

theorem instr_ecall (t : State) (k : Nat) (cyc : Cycles) (ls : List LsEcc) :
    t.instr k cyc ls false 0x73 4 = t.faultAt k 4 0 := rfl

theorem instr_ebreak (t : State) (k : Nat) (cyc : Cycles) (ls : List LsEcc) :
    t.instr k cyc ls false 0x100073 4 = t.faultAt k 5 0 := rfl

/-! ## The word of a load and of a store -/

section
variable {s t : State} {h : HartId} {cyc : Cycles} {ls : List LsEcc} {i : Nat} (goes : ThreadGoes s h.num cyc t)
  (fetch : s.fetch h.num = .ok i 4)
include goes fetch

theorem exec_loadWord (op : bits i 6 0 = 0x03) (f3 : bits i 14 12 = 2) (aligned : (t.under h.num).loadAt i % 4 = 0)
    (here : t.reach h.num ((t.under h.num).loadAt i) 4 false = .loc) (good : ls = []) :
    exec (.sliverInstruction h cyc ls) s = .next (settle s (t.modHart h.num (fun x => (x.setX (bits i 11 7)
      (BitVec.ofNat 32 (ofLe (t.lsGet h.num ((t.under h.num).loadAt i) 4)))).retire 4))) := by
  rw [exec_plain goes fetch (by simp [plainOp, op]), exScalar_loadWord_of_local _ op f3 aligned here]
  exact congrArg (done s) (settleEx_of_good _ _ (.inr good))

theorem exec_storeWord (op : bits i 6 0 = 0x23) (f3 : bits i 14 12 = 2) (aligned : (t.under h.num).storeAt i % 4 = 0)
    (here : t.reach h.num ((t.under h.num).storeAt i) 4 true = .loc) (good : ls = []) :
    exec (.sliverInstruction h cyc ls) s = .next (settle s ((t.lsPut h.num ((t.under h.num).storeAt i)
      (le 4 ((t.hart h.num).getX (bits i 24 20)).toNat)).modHart h.num (fun x => x.retire 4))) := by
  rw [exec_plain goes fetch (by simp [plainOp, op]), exScalar_storeWord_of_local _ op f3 aligned here]
  exact congrArg (done s) (settleEx_of_good _ _ (.inr good))

end

/-! ## CSRs (R175) -/

section
variable {s t : State} {h : HartId} {cyc : Cycles} {w : Word}

theorem exec_csrAccess (goes : ThreadGoes s h.num cyc t) :
    exec (.csrAccess h cyc w) s = .next (settle s (t.csrOp h.num cyc w)) := by
  show execCsrAccess h cyc w s = _
  simp only [execCsrAccess, thread_goes goes, done]

theorem csrOp_of_none {k : Nat} (missing : t.csrRead k cyc (bits w.toNat 31 20) = none) :
    t.csrOp k cyc w = t.faultAt k 1 w.toNat := by
  simp only [State.csrOp, missing]

/-- The operand of a CSR instruction and the value that it writes. -/
def State.csrArg (t : State) (k i : Nat) : Word :=
  if 4 ≤ bits i 14 12 then BitVec.ofNat 32 (bits i 19 15) else (t.hart k).getX (bits i 19 15)

def csrValue (f3 : Nat) (old arg : Word) : Word :=
  if f3 % 4 = 1 then arg else if f3 % 4 = 2 then old ||| arg else old &&& ~~~ arg

section
variable {k : Nat} {old : Word} (op : bits w.toNat 6 0 = 0x73) (form : bits w.toNat 14 12 % 4 ≠ 0)
  (holds : t.csrRead k cyc (bits w.toNat 31 20) = some old)
include op form holds

theorem csrOp_of_write (writes : bits w.toNat 14 12 % 4 = 1 ∨ bits w.toNat 19 15 ≠ 0)
    (open_ : csrReadOnly (bits w.toNat 31 20) = false) : t.csrOp k cyc w =
      (t.modHart k (fun h => (h.csrWrite (bits w.toNat 31 20)
        (csrValue (bits w.toNat 14 12) old (t.csrArg k w.toNat))).setX (bits w.toNat 11 7) old)).retire k 4 := by
  have forms : bits w.toNat 14 12 % 4 = 1 ∨ bits w.toNat 14 12 % 4 = 2 ∨ bits w.toNat 14 12 % 4 = 3 := by omega
  rcases forms with swap | set | clear
  · simp [State.csrOp, holds, op, open_, csrValue, State.csrArg, swap]
  · have writes : bits w.toNat 19 15 ≠ 0 := by simpa [set] using writes
    simp [State.csrOp, holds, op, open_, csrValue, State.csrArg, set, writes]
  · have writes : bits w.toNat 19 15 ≠ 0 := by simpa [clear] using writes
    simp [State.csrOp, holds, op, open_, csrValue, State.csrArg, clear, writes]

theorem csrOp_of_read (form1 : bits w.toNat 14 12 % 4 ≠ 1) (zero : bits w.toNat 19 15 = 0) :
    t.csrOp k cyc w = (t.modHart k (fun h => h.setX (bits w.toNat 11 7) old)).retire k 4 := by
  simp [State.csrOp, holds, form, op, form1, zero]

omit form in
theorem csrOp_of_readOnly (writes : bits w.toNat 14 12 % 4 = 1 ∨ bits w.toNat 19 15 ≠ 0)
    (readOnly : csrReadOnly (bits w.toNat 31 20) = true) : t.csrOp k cyc w = t.faultAt k 1 w.toNat := by
  simp [State.csrOp, holds, op, writes, readOnly]

end

/-! ## FENCE, FENCE.I, WFI and SL.YIELD (R176, R187, R189) -/

variable (goes : ThreadGoes s h.num cyc t)
include goes

theorem exec_fence : exec (.fence h cyc) s = .next (settle s (t.retire h.num 4)) := by
  show execFence h cyc s = _
  simp only [execFence, thread_goes goes, done]

theorem exec_fenceI : exec (.fenceI h cyc) s = .next (settle s (t.fenceI h.num)) := by
  show execFenceI h cyc s = _
  simp only [execFenceI, thread_goes goes, done]

theorem exec_wfi : exec (.wfi h cyc) s = .next (settle s ((t.retire h.num 4).passOn h.num)) := by
  show execWfi h cyc s = _
  simp only [execWfi, thread_goes goes, done, State.slYield]

theorem exec_slYield : exec (.slYield h cyc) s = .next (settle s ((t.retire h.num 4).passOn h.num)) := by
  show execSlYield h cyc s = _
  simp only [execSlYield, thread_goes goes, done, State.slYield]

end

theorem fenceI_of_direct {t : State} {k : Nat} (direct : t.isDirect k = true) :
    t.fenceI k = (t.modCluster (k / 64) (fun c => { c with ilines := [] })).retire k 4 := by
  simp [State.fenceI, direct]

theorem fenceI_of_task {t : State} {k : Nat} (task : t.isDirect k = false) : t.fenceI k = t.retire k 4 := by
  simp [State.fenceI, task]

/-- Settles O29. The base encodings and results are those of the RISC-V manuals, which the spec presumes
(notes/assumptions/60.md); that FENCE retires at once is the model's choice (notes/assumptions/62.md). -/
theorem sliverInstructions : Obligations.SliverInstructions := by
  refine ⟨?instruction, ?system⟩
  case instruction =>
    intro s t h cyc ls goes
    refine ⟨fun a => exec_sliverInstruction_of_bad goes, fun i len => exec_sliverInstruction_of_ok goes, ?_⟩
    intro i fetch x f3 f7 a b rd op _ _
    have plain : ∀ {c}, op = c → plainOp c = true → plainOp (bits i 6 0) = true := fun e p => by rw [show bits i 6 0 = _ from e, p]
    refine ⟨?_, ?_, ?_, ?_, ?_, ?_, ?_, ?_, ?_, ?_, ?_, ?_, ?_⟩
    · exact fun o f => exec_fin goes fetch (plain o rfl) (exScalar_op_plain _ o f)
    · exact fun o f g => exec_fin goes fetch (plain o rfl) (exScalar_op_alt _ o f g)
    · exact fun o f => exec_fin goes fetch (plain o rfl) (exScalar_mulDiv _ o f)
    · exact fun o l r => exec_fin goes fetch (plain o rfl) (exScalar_opImm _ o l r)
    · exact fun o => exec_fin goes fetch (plain o rfl) (exScalar_lui _ o)
    · exact fun o => exec_fin goes fetch (plain o rfl) (exScalar_auipc _ o)
    · exact fun o n2 n3 taken => exec_jump goes fetch (plain o rfl) (exScalar_branch (t.under h.num) o n2 n3 taken)
    · exact fun o n2 n3 falls => exec_fin goes fetch (plain o rfl) (exScalar_branch (t.under h.num) o n2 n3 falls)
    · exact exec_loadWord goes fetch
    · exact exec_storeWord goes fetch
    · exact fun o f skew => exec_fault goes fetch (plain o rfl) (exScalar_loadWord_of_misaligned _ o f skew)
    · intro e
      subst e
      rw [exec_sliverInstruction_of_ok goes fetch, instr_ecall]
    · intro e
      subst e
      rw [exec_sliverInstruction_of_ok goes fetch, instr_ebreak]
  case system =>
    intro s t h cyc goes
    refine ⟨?_, ?_, exec_fence goes, ?_, ?_, exec_wfi goes, exec_slYield goes⟩
    · intro w old i n f3 arg v op form holds
      refine ⟨fun writes free => ?_, fun form1 zero => ?_, fun writes readOnly => ?_⟩
      · rw [exec_csrAccess goes, csrOp_of_write op form holds writes free]
        rfl
      · rw [exec_csrAccess goes, csrOp_of_read op form holds form1 zero]
      · rw [exec_csrAccess goes, csrOp_of_readOnly op holds writes readOnly]
    · exact fun w missing => by rw [exec_csrAccess goes, csrOp_of_none missing]
    · exact fun direct => by rw [exec_fenceI goes, fenceI_of_direct direct]
    · exact fun task => by rw [exec_fenceI goes, fenceI_of_task task]

end Sys2Proof.Machine
end

section
/-! The proof of O30: the Zalkai extension. -/

namespace Sys2Proof.Machine

/-! ## The commands of a thread that goes (R187) -/

section
variable {s t : State} {h : HartId} {cyc : Cycles} (goes : ThreadGoes s h.num cyc t)
include goes

theorem exec_slFwait (rs1 : Fin 32) : exec (.slFwait h cyc rs1) s = .next (settle s (t.slFwait h.num rs1)) := by
  show execSlFwait h cyc rs1 s = _
  simp only [execSlFwait, thread_goes goes, done]

theorem exec_slFset (rs1 : Fin 32) : exec (.slFset h cyc rs1) s = .next (settle s (t.slFset h.num rs1)) := by
  show execSlFset h cyc rs1 s = _
  simp only [execSlFset, thread_goes goes, done]

theorem exec_slFclr (rs1 : Fin 32) (setToo : Bool) :
    exec (.slFclr h cyc rs1 setToo) s = .next (settle s (t.slFclr h.num rs1 setToo)) := by
  show execSlFclr h cyc rs1 setToo s = _
  simp only [execSlFclr, thread_goes goes, done]

theorem exec_slTimel (rd : Fin 32) : exec (.slTimel h cyc rd) s = .next (settle s (t.slTimel h.num rd)) := by
  show execSlTimel h cyc rd s = _
  simp only [execSlTimel, thread_goes goes, done]

theorem exec_slTimeh (rd : Fin 32) : exec (.slTimeh h cyc rd) s = .next (settle s (t.slTimeh h.num rd)) := by
  show execSlTimeh h cyc rd s = _
  simp only [execSlTimeh, thread_goes goes, done]

theorem exec_slDig (rs1 rs2 : Fin 32) : exec (.slDig h cyc rs1 rs2) s = .next (settle s (t.slDig h.num rs1 rs2)) := by
  show execSlDig h cyc rs1 rs2 s = _
  simp only [execSlDig, thread_goes goes, done]

theorem exec_slDmaw (rs1 : Fin 32) : exec (.slDmaw h cyc rs1) s = .next (settle s (t.slDmaw h.num rs1)) := by
  show execSlDmaw h cyc rs1 s = _
  simp only [execSlDmaw, thread_goes goes, done]

theorem exec_slDmaq (rd rs1 : Fin 32) (ls : List LsEcc) :
    exec (.slDmaq h cyc rd ⟨rs1, ls⟩) s = .next (settle s (t.slDmaq h.num rd rs1 ls)) := by
  show execSlDmaq h cyc rd ⟨rs1, ls⟩ s = _
  simp only [execSlDmaq, thread_goes goes, done]

theorem exec_slTsw (rs1 rs2 : Fin 32) : exec (.slTsw h cyc rs1 rs2) s = .next (settle s (t.slTsw h.num rs1 rs2)) := by
  show execSlTsw h cyc rs1 rs2 s = _
  simp only [execSlTsw, thread_goes goes, done]

theorem exec_slVtsw (rs1 rs2 : Fin 32) : exec (.slVtsw h cyc rs1 rs2) s = .next (settle s (t.slVtsw h.num rs1 rs2)) := by
  show execSlVtsw h cyc rs1 rs2 s = _
  simp only [execSlVtsw, thread_goes goes, done]

theorem exec_slExit : exec (.slExit h cyc) s = .next (settle s (t.slExit h.num)) := by
  show execSlExit h cyc s = _
  simp only [execSlExit, thread_goes goes, done]

end

/-! ## Flags, time, digests and the wait for descriptors -/

section
variable (t : State) {k rs1 : Nat}

theorem slFwait_of_set (set : t.flagOn (t.slFlag k rs1) = true) : t.slFwait k rs1 = t.retire k 4 := by
  simp [State.slFwait, set]

theorem slFwait_of_clear (clear : t.flagOn (t.slFlag k rs1) = false) : t.slFwait k rs1 =
    (t.leaveCore k (.flag (t.slFlag k rs1) (t.clk.now + t.jobLimit))).buildGraph := by
  simp [State.slFwait, clear]

theorem slDig_of_task {key rs2 : Nat} (task : (t.hart k).task = some key) : t.slDig k rs1 rs2 =
    (t.modTask key (fun y => { y with
      digests := addSlvTerm y.digests (t.hart k).digLayer.toNat
        (digTerm (((t.hart k).getX rs1).setWidth 64) (((t.hart k).getX rs2).setWidth 64)) })).retire k 4 := by
  simp only [State.slDig, task]

theorem slDmaw_of_few (few : (t.clusterOf k).inFlight k ≤ ((t.hart k).getX rs1).toNat) : t.slDmaw k rs1 = t.retire k 4 :=
  if_pos few

theorem slDmaw_of_many (many : ((t.hart k).getX rs1).toNat < (t.clusterOf k).inFlight k) :
    t.slDmaw k rs1 = t.leaveCore k (.dma ((t.hart k).getX rs1).toNat) :=
  if_neg (by omega)

end

/-! ## Writes through the window (R179) -/

theorem windowWrite_of_inside (t : State) {k a : Nat} {b : Bytes} {al : Alloc}
    (alloc : (t.slice (hartSlice k)).alloc = some al) (low : 0x40000000 ≤ a) (high : a ≤ 0x401FFFFF)
    (data : al.ctrlRows * 128 ≤ a - 0x40000000) (aligned : a % b.length = 0) (fits : a - 0x40000000 + b.length ≤ al.len) :
    t.windowWrite k a b = (t.modSlice (hartSlice k) (fun y => y.tsPut (a - 0x40000000) b)).retire k 4 := by
  have stays : (decide (al.len < a - 0x40000000 + b.length) || decide (a - 0x40000000 < al.ctrlRows * 128)) = false := by
    simp only [Bool.or_eq_false_iff, decide_eq_false_iff_not]
    omega
  simp only [State.windowWrite, aligned, bne_self_eq_false, Bool.false_eq_true, if_false, low, high, and_self, decide_true,
    Bool.not_true, alloc, Bool.or_eq_true]
  rw [if_neg (by simpa using stays)]

/-! ## Descriptors of the cluster's DMA (R178) -/

/-- The descriptor of 64 bytes that SL.DMAQ queues for hart k, and the state that holds it. -/
def State.dmaqDesc (t : State) (k : Nat) (b : Bytes) : Desc :=
  { uid := (t.slice (hartSlice k)).store.nextUid, idx := 0, out := dDir b, raw := b, tag := 0, started := false, pos := 0,
    total := 0, hazard := false }

def State.dmaqQueued (t : State) (k : Nat) (b : Bytes) : State :=
  (t.modCluster (k / 64) (fun c => { c with cdescs := c.cdescs ++
    [{ hart := k, pc := (t.hart k).pc, d := t.dmaqDesc k b }] })).modStore (hartSlice k)
      (fun y => { y with nextUid := y.nextUid + 1 })

theorem dmaqQueued_inFlight (t : State) (k : Nat) (b : Bytes) :
    ((t.dmaqQueued k b).clusterOf k).inFlight k = (t.clusterOf k).inFlight k + 1 := by
  have cluster : (t.dmaqQueued k b).clusterOf k = { t.clusterOf k with cdescs := (t.clusterOf k).cdescs ++
      [{ hart := k, pc := (t.hart k).pc, d := t.dmaqDesc k b }] } := by
    show tget Cluster.init (tput t.clusters (k / 64) _) (k / 64) = _
    rw [tget_tput_same]
    rfl
  simp [cluster, Cluster.inFlight]

section
variable (t : State) {k rd rs1 : Nat} (low : ((t.hart k).getX rs1).toNat < 0x6000)
  (here : inside (t.hart k).lsLo (t.hart k).lsLen ((t.hart k).getX rs1).toNat 64 = true)
include low here

theorem slDmaq_of_room (room : ((t.clusterOf k).cdescs.filter
      (fun x => x.d.out == dDir (t.lsGet k ((t.hart k).getX rs1).toNat 64))).length < 16) :
    t.slDmaq k rd rs1 [] = (((t.dmaqQueued k (t.lsGet k ((t.hart k).getX rs1).toNat 64)).modHart k (fun h =>
      h.setX rd (BitVec.ofNat 32 ((t.clusterOf k).inFlight k + 1)))).retire k 4).runCluster (k / 64) := by
  rw [← dmaqQueued_inFlight t k (t.lsGet k ((t.hart k).getX rs1).toNat 64)]
  simp only [State.slDmaq, low, here, decide_true, Bool.and_self, Bool.not_true, Bool.false_eq_true, if_false,
    lsOutcome_of_no_error]
  rw [if_neg (by omega)]
  rfl

theorem slDmaq_of_full (full : 16 ≤ ((t.clusterOf k).cdescs.filter
      (fun x => x.d.out == dDir (t.lsGet k ((t.hart k).getX rs1).toNat 64))).length) :
    t.slDmaq k rd rs1 [] = t.modHart k (fun h => { h with wait := .dmaq }) := by
  simp only [State.slDmaq, low, here, decide_true, Bool.and_self, Bool.not_true, Bool.false_eq_true, if_false,
    lsOutcome_of_no_error]
  rw [if_pos full]

end

/-! ## The end of a thread -/

/-- The thread of hart k has retired SL.EXIT and left its core. -/
def State.leftCore (t : State) (k : Nat) : State := (t.modHart k (Hart.retire 4)).leaveCore k .exited

theorem leftCore_hart (t : State) (k : Nat) : (t.leftCore k).hart k = { (t.hart k).retire 4 with wait := .exited } := by
  unfold State.hart State.leftCore State.leaveCore
  rw [passOn_harts, modHart_modHart]
  exact tget_tput_same _ _ _ _

theorem leftCore_hart_other (t : State) {k j : Nat} (other : j ≠ k) : (t.leftCore k).hart j = t.hart j := by
  unfold State.hart State.leftCore State.leaveCore
  rw [passOn_harts, modHart_modHart]
  exact tget_tput_other _ _ _ _ _ other

theorem leftCore_tasks (t : State) (k : Nat) : (t.leftCore k).tasks = t.tasks :=
  passOn_tasks _ _

theorem leftCore_taskOf (t : State) (k : Nat) : (t.leftCore k).taskOf k = t.taskOf k := by
  have task : ((t.leftCore k).hart k).task = (t.hart k).task := by
    rw [leftCore_hart]
    rfl
  simp only [State.taskOf, task, leftCore_tasks]

theorem flushTask_harts (t : State) (key : Nat) (y : Task) : (t.flushTask key y).harts = t.harts := by
  unfold State.flushTask
  split <;> rfl

theorem flushTask_tasks (t : State) (key : Nat) (y : Task) : (t.flushTask key y).tasks = t.tasks := by
  unfold State.flushTask
  split <;> rfl

theorem modTask_harts (t : State) (key : Nat) (f : Task → Task) : (t.modTask key f).harts = t.harts := by
  unfold State.modTask
  split <;> rfl

theorem modTask_find {t : State} {key : Nat} {y : Task} (find : tfind t.tasks key = some y) (f : Task → Task) :
    tfind (t.modTask key f).tasks key = some (f y) := by
  simp [State.modTask, find]

theorem slExit_of_no_task {t : State} {k : Nat} (free : t.taskOf k = none) : t.slExit k = t.leftCore k := by
  have free' := (leftCore_taskOf t k).trans free
  unfold State.leftCore at free' ⊢
  simp only [State.slExit, free']

/-- The state in which the task of a thread that exits is changed: its digests are in the job's sums with its last
thread. -/
def State.exitBase (t : State) (k key : Nat) (y : Task) : State :=
  if (specHarts y.spec (key / 65536)).all (ins y.exited k).contains then (t.leftCore k).flushTask key y else t.leftCore k

theorem exitBase_harts (t : State) (k key : Nat) (y : Task) : (t.exitBase k key y).harts = (t.leftCore k).harts := by
  unfold State.exitBase
  split
  · exact flushTask_harts _ _ _
  · rfl

theorem exitBase_tasks (t : State) (k key : Nat) (y : Task) : (t.exitBase k key y).tasks = t.tasks := by
  unfold State.exitBase
  split
  · exact (flushTask_tasks _ _ _).trans (leftCore_tasks t k)
  · exact leftCore_tasks t k

/-- The change of a task by the exit of the thread of hart k, as SL.EXIT writes it for the record y it has read. -/
def Task.exitStep (y : Task) (key k pc : Nat) (x : Task) : Task :=
  { x with
    exited := ins y.exited k
    ended := if (specHarts y.spec (key / 65536)).all (ins y.exited k).contains then
      some { cause := 0, pc := pc, status := St.ok, record := [] } else x.ended
    judged := if (specHarts y.spec (key / 65536)).all (ins y.exited k).contains then x.spec.dual.isNone else x.judged }

theorem slExit_of_task {t : State} {k key : Nat} {y : Task} (task : t.taskOf k = some (key, y)) :
    t.slExit k = (t.exitBase k key y).modTask key (y.exitStep key k (t.hart k).pc.toNat) := by
  have task' := (leftCore_taskOf t k).trans task
  unfold State.exitBase
  unfold State.leftCore at task' ⊢
  simp only [State.slExit, task']
  rfl

theorem slExit_harts {t : State} {k key : Nat} {y : Task} (task : t.taskOf k = some (key, y)) :
    (t.slExit k).harts = (t.leftCore k).harts := by
  rw [slExit_of_task task, modTask_harts, exitBase_harts]

theorem slExit_task {t : State} {k key : Nat} {y : Task} (task : t.taskOf k = some (key, y)) :
    tfind (t.slExit k).tasks key = some (y.exitStep key k (t.hart k).pc.toNat y) := by
  rw [slExit_of_task task]
  exact modTask_find (by rw [exitBase_tasks]; exact taskOf_find task) _

theorem slExit_task_other {t : State} {k key j : Nat} {y : Task} (task : t.taskOf k = some (key, y)) (other : j ≠ key) :
    tfind (t.slExit k).tasks j = tfind t.tasks j := by
  rw [slExit_of_task task, modTask_tasks _ _ _ _ other, exitBase_tasks]

/-! ## A load that was stalled on the window (R184) -/

theorem exec_windowLoad_of_ok {u v : State} {h : HartId} {cyc : Cycles} {i len : Nat}
    (stalled : (u.hart h.num).wait = .window) (fetch : u.fetch h.num = .ok i len)
    (goes : ThreadGoes (u.modHart h.num (fun h => { h with wait := .ready })) h.num cyc v) :
    exec (.windowLoad h ⟨cyc, []⟩) u = .next (settle u (v.instr h.num cyc [] true i len)) := by
  show execWindowLoad h ⟨cyc, []⟩ u = _
  simp only [execWindowLoad, stalled, bne_self_eq_false, Bool.false_eq_true, if_false, fetch, thread_goes goes, done]
  rfl

/-- Settles O30. -/
theorem zalkaiInstructions : Obligations.ZalkaiInstructions := by
  refine ⟨?flags, ?memory⟩
  case flags =>
    intro s t h cyc rd rs1 rs2 goes
    refine ⟨?_, ?_, ?_, ?_, ?_, exec_slTimel goes rd, exec_slTimeh goes rd, ?_, ?_, ?_⟩
    · exact fun set => by rw [exec_slFwait goes, slFwait_of_set t set]
    · exact fun clear => by rw [exec_slFwait goes, slFwait_of_clear t clear]; rfl
    · rw [exec_slFset goes, State.slFset, State.slFlag]
    · rw [exec_slFclr goes, State.slFclr, State.slFlag, State.clearFlag, if_pos rfl]
    · rw [exec_slFclr goes, State.slFclr, State.slFlag]
    · exact fun key task => by rw [exec_slDig goes, slDig_of_task t task]
    · exact fun few => by rw [exec_slDmaw goes, slDmaw_of_few t few]
    · exact fun many => by rw [exec_slDmaw goes, slDmaw_of_many t many]
  case memory =>
    intro s t h cyc rd rs1 rs2 goes k x n a
    refine ⟨?window, ?dmaq, ?_, ?exits, fun u v i len stalled fetch goes => exec_windowLoad_of_ok stalled fetch goes⟩
    case window =>
      intro al alloc low high data
      refine ⟨fun aligned fits => ?_, fun aligned fits => ?_⟩
      · rw [exec_slTsw goes, State.slTsw,
          windowWrite_of_inside t alloc low high data (by rw [le_length]; exact aligned) (by rw [le_length]; exact fits)]
      · rw [exec_slVtsw goes, State.slVtsw,
          windowWrite_of_inside t alloc low high data (by rw [le_length]; exact aligned) (by rw [le_length]; exact fits)]
    case dmaq =>
      intro b c d u low from_ upTo_
      have here : inside x.lsLo x.lsLen a 64 = true := decide_eq_true ⟨from_, upTo_⟩
      refine ⟨fun room => ?_, fun full => ?_⟩
      · rw [exec_slDmaq goes]
        exact congrArg (done s) (slDmaq_of_room t low here room)
      · rw [exec_slDmaq goes]
        exact congrArg (done s) (slDmaq_of_full t low here full)
    · intro free
      rw [exec_slExit goes, slExit_of_no_task free]
      rfl
    case exits =>
      intro key y task
      obtain ⟨sameTasks, sameHarts⟩ := charge_frame goes.charged
      refine ⟨t.slExit k, exec_slExit goes, ?_, slExit_task task, fun j other => ?_, fun j other => ?_⟩
      · rw [State.hart, slExit_harts task]
        exact congrArg Hart.wait (leftCore_hart t k)
      · rw [slExit_task_other task other, sameTasks key y task j other]
      · rw [State.hart, slExit_harts task]
        exact (leftCore_hart_other t other).trans (sameHarts j other)

end Sys2Proof.Machine
end

section
/-! The proof of O31: sliver tasks, cluster modes and dual execution. -/

namespace Sys2Proof.Machine

/-! ## A task begins (R185, R188, R191) -/

theorem copySpec_of_single {t : TaskSpec} (single : t.dual = none) : copySpec t = none := by
  simp [copySpec, single]

section
variable {s : State} {sl : SliceId} {t : TaskSpec} (may : s.mayStart sl t = true)
include may

theorem exec_sliverTaskStart_of_single (single : t.dual = none) (images : s.imagesOk sl t = true) :
    exec (.sliverTaskStart sl t) s = .next ((s.count Obj.slvTasks sl).beginTask sl t none) := by
  show execSliverTaskStart sl t s = _
  simp [execSliverTaskStart, copySpec_of_single single, may, images]

theorem exec_sliverTaskStart_of_noImages (single : t.dual = none) (images : s.imagesOk sl t = false) :
    exec (.sliverTaskStart sl t) s = .next (settle s (s.endJobFault sl St.pageRights none .faulted 4)) := by
  show execSliverTaskStart sl t s = _
  simp [execSliverTaskStart, copySpec_of_single single, may, images, done]

theorem exec_sliverTaskStart_of_dual {c : TaskSpec} (copy : copySpec t = some c) (mayCopy : s.mayStart sl c = true)
    (otherId : c.id ≠ t.id) (apart : ∀ j ∈ specHarts c sl, ∀ k ∈ specHarts t sl, k / 4 ≠ j / 4)
    (images : s.imagesOk sl t = true) : exec (.sliverTaskStart sl t) s =
      .next (((s.count Obj.slvTasks sl).beginTask sl t none).beginTask sl c (some t.id)) := by
  have otherCores : (specHarts c sl).all (fun k => !(specHarts t sl).any (fun j => j / 4 == k / 4)) = true := by
    simpa using apart
  show execSliverTaskStart sl t s = _
  simp only [execSliverTaskStart, may, copy, mayCopy, images, otherCores, bne_iff_ne.mpr otherId, Bool.not_true,
    Bool.and_self, Bool.or_self, Bool.false_eq_true, if_false]

end

/-! ## Budgets (R195) -/

theorem exec_cycleBudgetExhausted_of_running {s : State} {sl : SliceId} {task b k : Nat} {t : Task}
    (find : tfind s.tasks (taskKey sl task) = some t) (runs : t.ended = none) (budget : t.spec.budget = some b)
    (holder : (specHarts t.spec sl).find? (fun k => (s.hart k).task == some (taskKey sl task)
      && (s.hart k).wait.holds false && s.curThread k == k % 4) = some k) :
    exec (.cycleBudgetExhausted sl task) s = .next (settle s ((s.modTask (taskKey sl task)
      (fun t => { t with used := b })).faultAt k 6 (b % 2 ^ 32))) := by
  show execCycleBudgetExhausted sl task s = _
  simp only [execCycleBudgetExhausted, find, runs, budget, holder]
  rfl

/-! ## Modes (R189, R190) -/

section
variable {s : State} {sl : SliceId} {cl : Fin 16} {direct : Bool} {by' : ProcId} {base : BitVec 3} {entry : Word}

/-- The cluster in its new mode, with both caches empty. -/
def Cluster.inMode (direct : Bool) (base : BitVec 3) (c : Cluster) : Cluster :=
  { c with direct := direct, base := if direct then base else c.base, ilines := [], clines := [] }

/-- The cores of a cluster are released at the reset vector of an image. -/
def State.releaseCores (u : State) (ck : Nat) (entry : Word) : State :=
  (List.range 64).foldl (fun t i => t.wakeHart (ck * 64 + i) (fun _ => { Hart.init with
    pc := entry, lsLo := 0, lsLen := lsBytes })) u

variable (still : s.clusterStill (sl.val * 16 + cl.val) = true)
  (may : (by'.val = P.btp ∧ (s.rst.phase = .starting ∨ s.rst.phase = .recovery)) ∨
    (by'.val = P.scp ∧ (s.runs P.scp = true ∨ s.rst.phase = .starting ∨ s.rst.phase = .recovery)))
include still may

theorem exec_clusterModeChange : exec (.clusterModeChange sl cl direct by' base entry) s =
    .next (if direct && (s.rst.phase == .starting || s.rst.phase == .recovery) then
      (s.modCluster (sl.val * 16 + cl.val) (Cluster.inMode direct base)).releaseCores (sl.val * 16 + cl.val) entry
    else s.modCluster (sl.val * 16 + cl.val) (Cluster.inMode direct base)) := by
  have allowed : ((by'.val == P.btp && (s.rst.phase == .starting || s.rst.phase == .recovery)) ||
      (by'.val == P.scp && (s.runs P.scp || (s.rst.phase == .starting || s.rst.phase == .recovery)))) = true := by
    simpa using may
  show execClusterModeChange sl cl direct by' base entry s = _
  simp only [execClusterModeChange, still, allowed, Bool.not_true, Bool.or_self, Bool.false_eq_true, if_false]
  rfl

theorem exec_clusterModeChange_of_later
    (later : direct = false ∨ ¬ (s.rst.phase = .starting ∨ s.rst.phase = .recovery)) :
    exec (.clusterModeChange sl cl direct by' base entry) s =
      .next (s.modCluster (sl.val * 16 + cl.val) (Cluster.inMode direct base)) := by
  rw [exec_clusterModeChange still may, if_neg]
  rw [Bool.and_eq_true, Bool.or_eq_true, beq_iff_eq, beq_iff_eq, Decidable.not_and_iff_not_or_not, Bool.not_eq_true]
  exact later

theorem exec_clusterModeChange_of_early (toDirect : direct = true)
    (early : s.rst.phase = .starting ∨ s.rst.phase = .recovery) :
    exec (.clusterModeChange sl cl direct by' base entry) s =
      .next ((s.modCluster (sl.val * 16 + cl.val) (Cluster.inMode direct base)).releaseCores (sl.val * 16 + cl.val)
        entry) := by
  rw [exec_clusterModeChange still may, if_pos]
  simpa [toDirect] using early

end

/-! ## Dual execution (R192) -/

section
variable {s : State} {sl : SliceId} {task kb : Nat} {a b : Task} {ea eb : TaskEnd}
  (copyA : tfind s.tasks (taskKey sl task) = some a)
  (copyB : s.tasks.find? (fun x => taskSlice x.1 == sl.val && x.2.copyOf == some task) = some (kb, b))
  (endA : a.ended = some ea) (endB : b.ended = some eb) (open_ : a.judged = false)
include copyA copyB endA endB open_

theorem exec_dualCompare_of_exits (exitA : ea.cause = 0) (exitB : eb.cause = 0) : exec (.dualCompare sl task) s =
    match s.firstDiff sl a.spec b.spec with
    | none => .next (settle s ((s.judge (taskKey sl task) kb).count Obj.slvDual sl))
    | some o => .next (settle s ((((s.judge (taskKey sl task) kb).count Obj.slvDual sl).count Obj.slvDualFail sl).dualMismatch
        sl b eb.pc o)) := by
  show execDualCompare sl task s = _
  simp only [execDualCompare, copyA, copyB, endA, endB, open_, exitA, exitB]
  cases s.firstDiff sl a.spec b.spec <;> rfl

theorem exec_dualCompare_of_sameFault (eccA : ea.cause ≠ 8) (fault : ea.cause ≠ 0) (sameCause : ea.cause = eb.cause) (samePc : ea.pc = eb.pc) :
    exec (.dualCompare sl task) s = .next (settle s ((s.judge (taskKey sl task) kb).endJobFault sl ea.status (some ea.record)
      .faulted 4)) := by
  show execDualCompare sl task s = _
  simp [execDualCompare, copyA, copyB, endA, endB, open_, ← sameCause, fault, samePc, done] at eccA ⊢
  simp [eccA]

theorem exec_dualCompare_of_otherEnds (eccA : ea.cause ≠ 8) (eccB : eb.cause ≠ 8)
    (other : ea.cause ≠ eb.cause ∨ (ea.cause ≠ 0 ∧ ea.pc ≠ eb.pc)) :
    exec (.dualCompare sl task) s = .next (settle s ((s.judge (taskKey sl task) kb).dualMismatch sl b eb.pc 0xFFFFFFFF)) := by
  have notBothExit : (ea.cause == 0 && eb.cause == 0) = false := by
    rw [Bool.and_eq_false_iff, beq_eq_false_iff_ne, beq_eq_false_iff_ne]
    omega
  have notSame : (ea.cause == eb.cause && ea.pc == eb.pc) = false := by
    rw [Bool.and_eq_false_iff, beq_eq_false_iff_ne, beq_eq_false_iff_ne]
    exact other.imp_right And.right
  show execDualCompare sl task s = _
  simp [execDualCompare, copyA, copyB, endA, endB, open_, eccA, eccB, notBothExit, notSame, done]

end

/-- Settles O31. That SLV_TASKS counts a task of two copies once is the model's choice (notes/assumptions/56.md), as is the
release of all 64 threads of a cluster in direct mode (notes/assumptions/62.md). -/
theorem sliverTasks : Obligations.SliverTasks := by
  refine ⟨⟨?starts, fun _ _ _ _ => rfl, ?budget, ?modes⟩, ?dual⟩
  case starts =>
    intro s sl t may u
    exact ⟨exec_sliverTaskStart_of_single may, fun c => exec_sliverTaskStart_of_dual may,
      exec_sliverTaskStart_of_noImages may⟩
  case budget =>
    intro s sl task t b k key find runs budget holder
    exact exec_cycleBudgetExhausted_of_running find runs budget holder
  case modes =>
    intro s sl cl direct by' base entry ck early u still may
    exact ⟨exec_clusterModeChange_of_later still may, exec_clusterModeChange_of_early still may⟩
  case dual =>
    intro s sl task kb a b ea eb ka copyA copyB endA endB open_ eccA eccB t u
    refine ⟨fun exitA exitB same => ?_, fun o exitA exitB differ => ?_, ?_, ?_⟩
    · rw [exec_dualCompare_of_exits copyA copyB endA endB open_ exitA exitB, same]
    · rw [exec_dualCompare_of_exits copyA copyB endA endB open_ exitA exitB, differ]
    · exact exec_dualCompare_of_sameFault copyA copyB endA endB open_ eccA
    · exact exec_dualCompare_of_otherEnds copyA copyB endA endB open_ eccA eccB

end Sys2Proof.Machine
end

section
/-! The proof of O32: misses, fills and miss registers of the sliver caches. -/

namespace Sys2Proof.Machine

/-! ## A request that is sent leaves the modes of the clusters (R190, R222) -/

theorem isDirect_of_clusters {s t : State} (same : t.clusters = s.clusters) (k : Nat) : t.isDirect k = s.isDirect k := by
  unfold State.isDirect State.clusterOf State.cluster
  rw [same]

theorem isDirect_modCluster (s : State) (n k : Nat) {f : Cluster → Cluster} (same : ∀ c, (f c).direct = c.direct) :
    (s.modCluster n f).isDirect k = s.isDirect k := by
  show (tget Cluster.init (tput s.clusters n (f (s.cluster n))) (k / 64)).direct = (tget Cluster.init s.clusters (k / 64)).direct
  by_cases here : k / 64 = n
  · subst here
    rw [tget_tput_same, same]
    rfl
  · rw [tget_tput_other _ _ _ _ _ here]

theorem peak_clusters (s : State) (r : ObjRow) (k n : Nat) : (s.peak r k n).clusters = s.clusters := by
  unfold State.peak
  split <;> rfl

theorem park_clusters (s : State) (c : Nat) (r : MemReq) (l : ReqLink) : (s.park c r l).clusters = s.clusters := by
  unfold State.park
  dsimp only
  split
  · exact peak_clusters _ _ _ _
  · exact peak_clusters _ _ _ _

theorem pull_clusters (c : Nat) (l : List (MemReq × ReqLink)) : ∀ (blocked : List ReqSource) (s : State),
    (State.pull c l blocked s).clusters = s.clusters := by
  induction l with
  | nil => intro blocked s; rfl
  | cons r l ih =>
    intro blocked s
    unfold State.pull
    split
    · exact ih _ _
    · exact (ih _ _).trans (park_clusters s c r.1 r.2)

theorem pullAll_clusters (s : State) (c : Nat) : (s.pullAll c).clusters = s.clusters :=
  pull_clusters c _ _ _

theorem enqueue_clusters (s : State) (c : Nat) (r : MemReq) (l : ReqLink) : (s.enqueue c r l).clusters = s.clusters := by
  unfold State.enqueue
  split
  · rfl
  · exact park_clusters s c r l

theorem heatUp_clusters (s : State) (page : Nat) : (s.heatUp page).clusters = s.clusters := by
  unfold State.heatUp
  dsimp only
  split
  · rfl
  · split <;> rfl

theorem isDirect_takeRes (s : State) (ch : Nat) (q : SortReq) (k : Nat) : (s.takeRes ch q).isDirect k = s.isDirect k := by
  unfold State.takeRes
  split
  · unfold State.peak
    dsimp only
    split <;> rfl
  · dsimp only
    split
    · rfl
    · exact isDirect_modCluster s _ k (fun _ => rfl)
  · rfl

theorem isDirect_admitFirst (s : State) (ch bank k : Nat) : (s.admitFirst ch bank).isDirect k = s.isDirect k := by
  unfold State.admitFirst
  split
  · rfl
  · split
    · dsimp only
      rw [isDirect_of_clusters (pullAll_clusters _ _), isDirect_of_clusters (heatUp_clusters _ _), isDirect_takeRes]
      rfl
    · rfl

theorem isDirect_send (s : State) (r : MemReq) (l : ReqLink) (k : Nat) : (s.send r l).isDirect k = s.isDirect k := by
  unfold State.send
  dsimp only
  split
  · rw [isDirect_admitFirst, isDirect_of_clusters (enqueue_clusters _ _ _ _)]
  · rw [isDirect_of_clusters (enqueue_clusters _ _ _ _)]

/-! ## A miss (R185, R186) -/

/-- The request for a line, and the line sent for by the thread of hart k, which stalls. -/
def lineRead (k line : Nat) : MemReq :=
  { source := clusterSource (k / 64), addr := line * 64, write := false, data := [], mask := [] }

def State.sentForLine (u : State) (k line : Nat) (instr : Bool) : State :=
  if u.isDirect k then (u.send (lineRead k line) (.line instr)).leaveCore k (.miss line)
  else (u.send (lineRead k line) (.line instr)).modHart k (fun h => { h with wait := .miss line })

theorem sentForLine_as {s u : State} {k : Nat} (same : u.isDirect k = s.isDirect k) (line : Nat) (instr : Bool) :
    u.sentForLine k line instr = if s.isDirect k then (u.send (lineRead k line) (.line instr)).leaveCore k (.miss line)
      else (u.send (lineRead k line) (.line instr)).modHart k (fun h => { h with wait := .miss line }) := by
  rw [State.sentForLine, same]

/-- A line leaves its cache. -/
def Cluster.without (c : Cluster) (instr : Bool) (line : Nat) : Cluster :=
  if instr then { c with ilines := tdel c.ilines line } else { c with clines := tdel c.clines line }

theorem without_direct (c : Cluster) (instr : Bool) (line : Nat) : (c.without instr line).direct = c.direct := by
  unfold Cluster.without
  split <;> rfl

/-- The cycles for which the request waited for a miss register. -/
def State.waitedFor (s : State) (n waited : Nat) : State := if waited = 0 then s else s.count Obj.slvMissFull n waited

theorem isDirect_waitedFor (s : State) (n waited k : Nat) : (s.waitedFor n waited).isDirect k = s.isDirect k := by
  unfold State.waitedFor
  split <;> rfl

section
variable {s : State} {h : HartId} {instr : Bool} {addr waited : Nat} {bad : Bool}
  (may : s.mayIssue h.num = true) (served : s.served addr = true)
include may served

theorem exec_cacheMiss_of_absent
    (absent : tfind (if instr then (s.clusterOf h.num).ilines else (s.clusterOf h.num).clines) (addr / 64) = none) :
    exec (.cacheMiss h instr addr ⟨waited, bad⟩) s = .next (((s.waitedFor (hartSlice h.num) waited).count
      (if instr then Obj.slvIcMiss else Obj.slvCcMiss) (hartSlice h.num)).sentForLine h.num (addr / 64) instr) := by
  show execCacheMiss h instr addr ⟨waited, bad⟩ s = _
  simp only [execCacheMiss, may, served, absent, Option.isSome_none, Bool.not_true, Bool.false_and, Bool.or_self,
    Bool.false_eq_true, if_false, beq_iff_eq, isDirect_send]
  rfl

theorem exec_cacheMiss_of_bad
    (present : tfind (if instr then (s.clusterOf h.num).ilines else (s.clusterOf h.num).clines) (addr / 64) ≠ none)
    (isBad : bad = true) :
    exec (.cacheMiss h instr addr ⟨waited, bad⟩) s = .next ((((s.waitedFor (hartSlice h.num) waited).modCluster (h.num / 64)
      (fun c => c.without instr (addr / 64))).count Obj.slvCacheRefetch (hartSlice h.num)).sentForLine h.num (addr / 64)
        instr) := by
  have here := Option.isSome_iff_ne_none.mpr present
  show execCacheMiss h instr addr ⟨waited, bad⟩ s = _
  simp only [execCacheMiss, may, served, here, isBad, Bool.not_true, Bool.and_false, Bool.or_self, Bool.false_eq_true, if_false,
    if_true, beq_iff_eq, isDirect_send]
  rfl

end

/-! ## The end of a miss (R104, R185, R186, R204) -/

section
variable {s : State} {sl : SliceId} {cl : Fin 16} {slot : Fin 32} {ecc : MemErr} {ls : List LsEcc} {m : Miss} {r : SortReq}
  (held : (s.cluster (sl.val * 16 + cl.val)).misses.find? (fun m => m.slot == slot.val) = some m)
include held

theorem exec_missRegisterExpiry_of_held : exec (.missRegisterExpiry sl cl slot) s =
    .next (settle s (((s.advanceTo (m.since + 100 * us)).freeMiss (sl.val * 16 + cl.val) m).tagFault (some sl.val)
      m.addr)) := by
  show execMissRegisterExpiry sl cl slot s = _
  simp only [execMissRegisterExpiry, held, done]

variable (finish : s.mayFinish m.ch m.req = some r)
include finish

theorem exec_cacheLineFill_of_good : exec (.cacheLineFill sl cl slot ⟨false, ecc, ls⟩) s =
    .next (settle s ((s.access m.ch r ecc).2.missDone (sl.val * 16 + cl.val) m (s.access m.ch r ecc).1 ls)) := by
  show execCacheLineFill sl cl slot ⟨false, ecc, ls⟩ s = _
  simp only [execCacheLineFill, held, finish, Bool.and_false, Bool.false_eq_true, if_false, done]

theorem exec_cacheLineFill_of_bad (line : m.what = .code ∨ m.what = .const) :
    exec (.cacheLineFill sl cl slot ⟨true, ecc, ls⟩) s =
      .next ((s.modCluster (sl.val * 16 + cl.val) (fun c => { c with misses := c.misses.map (fun (x : Miss) =>
        if x.slot == slot.val then { x with since := s.clk.now } else x) })).count Obj.slvCacheRefetch sl) := by
  show execCacheLineFill sl cl slot ⟨true, ecc, ls⟩ s = _
  simp [execCacheLineFill, held, finish, line]

end

/-- Settles O32. That a request takes the lowest free miss register is the model's choice. -/
theorem sliverCaches : Obligations.SliverCaches := by
  refine ⟨?miss, ?takes, ?ends, fun l line b v => tfind_tput_same _ _ _⟩
  case miss =>
    intro s h instr addr waited bad k c n line here r stalls u may served
    refine ⟨fun absent => ?_, fun present isBad => ?_⟩
    · have same : ((s.waitedFor n waited).count (if instr then Obj.slvIcMiss else Obj.slvCcMiss) n).isDirect k = s.isDirect k :=
        (isDirect_of_clusters rfl k).trans (isDirect_waitedFor s n waited k)
      rw [exec_cacheMiss_of_absent may served absent, sentForLine_as same]
      rfl
    · have same : (((s.waitedFor n waited).modCluster (k / 64) (fun c => c.without instr line)).count Obj.slvCacheRefetch
          n).isDirect k = s.isDirect k :=
        (isDirect_of_clusters rfl k).trans
          ((isDirect_modCluster _ _ k (fun c => without_direct c instr line)).trans (isDirect_waitedFor s n waited k))
      rw [exec_cacheMiss_of_bad may served present isBad, sentForLine_as same]
      rfl
  case takes =>
    intro s ch q n cl code source link
    unfold State.takeRes
    rw [link, source]
    cases code <;> rfl
  case ends =>
    intro s sl cl slot ecc ls m r ck g held finish
    refine ⟨fun what => ?_, fun what => ?_, exec_cacheLineFill_of_bad held finish, fun uid pos len data what => ?_,
      exec_missRegisterExpiry_of_held held⟩
    · rw [exec_cacheLineFill_of_good held finish, State.missDone, what]
    · rw [exec_cacheLineFill_of_good held finish, State.missDone, what]
    · rw [exec_cacheLineFill_of_good held finish, State.missDone, what]

end Sys2Proof.Machine
end

section
/-! The proof of O33: how requests enter a sorter, are admitted and issued. -/

namespace Sys2Proof.Machine

/-! ## A request enters (R222) -/

section
variable {s : State} {r : MemReq} (backed : (s.entry (r.addr / pageBytes)).backed = true)
  (inService : s.chInService (s.entry (r.addr / pageBytes)).channel = true)
include backed inService

theorem exec_sorterEnqueue_of_served :
    exec (.sorterEnqueue r) s = .next (s.enqueue (s.entry (r.addr / pageBytes)).channel r .other) := by
  have served : s.served r.addr = true := by simp [State.served, backed, inService]
  exact congrArg Host.Outcome.next (if_pos served)

end

theorem enqueue_of_room {s : State} {c : Nat} {r : MemReq} (l : ReqLink)
    (alone : (s.chan c).waiting.any (fun w => decide (w.1.source = r.source)) = false)
    (room : (s.chan c).room (s.placeOf r.addr).bank = true) : s.enqueue c r l = s.park c r l := by
  simp only [State.enqueue, alone, room, Bool.not_true, Bool.or_self, Bool.false_eq_true, if_false]

theorem enqueue_of_full {s : State} {c : Nat} {r : MemReq} (l : ReqLink)
    (full : (s.chan c).waiting.any (fun w => decide (w.1.source = r.source)) = true ∨
      (s.chan c).room (s.placeOf r.addr).bank = false) :
    s.enqueue c r l = s.modChan c (fun x => { x with waiting := x.waiting ++ [(r, l)] }) :=
  if_pos (by simpa using full)

/-! ## Admission (R215, R221, R223) -/

theorem admitFirst_of_admits {s : State} {ch bank : Nat} {r : SortReq}
    (first : (s.chan ch).sorter.find? (fun r => r.bank == bank && r.admitted.isNone) = some r)
    (admits : s.admits ch bank r.source = true) : s.admitFirst ch bank =
      (((s.modReq ch r.id (fun q => { q with admitted := some s.clk.now })).takeRes ch r).heatUp
        (r.addr / pageBytes)).pullAll ch := by
  simp only [State.admitFirst, first, admits, if_true]
  rfl

theorem admits_of_room {s : State} {ch bank : Nat} {src : ReqSource} (few : (s.chan ch).admittedIn bank < 128)
    (free : s.hasResource src = true) (released : s.rst.memHeld = false) (awake : (s.chan ch).waking = false) :
    s.admits ch bank src = true := by
  simp [State.admits, few, free, released, awake]

/-! ## Issue (R202, R224) and age (R225) -/

theorem exec_sorterIssue_of_chosen {s : State} {ch : ChanId} {r : SortReq} (trained : (s.chan ch).retraining = false)
    (inService : s.chInService ch = true) (released : s.rst.memHeld = false)
    (chosen : (s.chan ch).choose s.clk.now = some r) :
    exec (.sorterIssue ch) s = .next (((if !r.write || r.mask.contains false then s.readCheck ch r.addr else s).modChan ch
      (fun x => { x with
        openRows := tput x.openRows r.bank r.row
        sorter := x.sorter.map (fun q =>
          if q.id == r.id || (!r.write && !q.write && q.block == r.block && (s.chan ch).mayIssue q) then
            { q with issued := true }
          else q) })).pullAll ch) := by
  show execSorterIssue ch s = _
  simp only [execSorterIssue, trained, inService, released, chosen, Bool.not_true, Bool.or_self, Bool.false_eq_true,
    if_false]

theorem exec_requestAgeOver_of_waiting {s : State} {ch : ChanId} {id t : Nat} {r : SortReq}
    (waits : (s.chan ch).sorter.find? (fun r => r.id == id && !r.issued && !r.aged) = some r) (admitted : r.admitted = some t) :
    exec (.requestAgeOver ch id) s = .next (((s.advanceTo (t + 4 * us)).modReq ch id (fun q =>
      { q with aged := true })).count Obj.chAgeOver ch) := by
  show execRequestAgeOver ch id s = _
  simp only [execRequestAgeOver, waits, admitted]
  rfl

/-! ## The choice of R224 -/

section
variable (c : Channel) (now : Nat)

/-- The requests that may issue; of them, those that are 4 µs old, and those to an open row. -/
def Channel.issuable : List SortReq := c.sorter.filter c.mayIssue
def Channel.isOld (r : SortReq) : Bool := r.aged || decide (r.admitted.getD 0 + 4 * us ≤ now)
def Channel.isOpen (r : SortReq) : Bool := tfind c.openRows r.bank == some r.row
def oldest (l : List SortReq) : Option SortReq := minBy (fun r : SortReq => r.admitted.getD 0) l

variable {c now}

theorem isOld_iff {r : SortReq} : Channel.isOld now r = true ↔ r.aged = true ∨ r.admitted.getD 0 + 4 * us ≤ now := by
  simp [Channel.isOld]

theorem isOpen_iff {r : SortReq} : c.isOpen r = true ↔ tfind c.openRows r.bank = some r.row := by
  simp [Channel.isOpen]

theorem mem_issuable {r : SortReq} : r ∈ c.issuable ↔ r ∈ c.sorter ∧ c.mayIssue r = true :=
  List.mem_filter

theorem filter_eq_nil_of_oldest {p : SortReq → Bool} {l : List SortReq} (empty : oldest (l.filter p) = none) {q : SortReq}
    (mem : q ∈ l) : p q = false := by
  have nil := minBy_none _ _ empty
  exact Bool.eq_false_iff.mpr fun holds => List.ne_nil_of_mem (List.mem_filter.mpr ⟨mem, holds⟩) nil

/-- The request chosen is the oldest of the old ones; where none is old, the oldest to an open row; where there is none
either, the oldest. -/
theorem choose_cases {r : SortReq} (chosen : c.choose now = some r) :
    oldest (c.issuable.filter (Channel.isOld now)) = some r ∨
    (oldest (c.issuable.filter (Channel.isOld now)) = none ∧ oldest (c.issuable.filter c.isOpen) = some r) ∨
    (oldest (c.issuable.filter (Channel.isOld now)) = none ∧ oldest (c.issuable.filter c.isOpen) = none ∧
      oldest c.issuable = some r) := by
  change (match oldest (c.issuable.filter (Channel.isOld now)) with
    | some r => some r
    | none => match oldest (c.issuable.filter c.isOpen) with
      | some r => some r
      | none => oldest c.issuable) = some r at chosen
  cases old : oldest (c.issuable.filter (Channel.isOld now)) with
  | some q =>
    rw [old] at chosen
    exact .inl chosen
  | none =>
    rw [old] at chosen
    cases isOpen : oldest (c.issuable.filter c.isOpen) with
    | some q =>
      rw [isOpen] at chosen
      exact .inr (.inl ⟨rfl, chosen⟩)
    | none =>
      rw [isOpen] at chosen
      exact .inr (.inr ⟨rfl, rfl, chosen⟩)

theorem choose_issuable {r : SortReq} (chosen : c.choose now = some r) : r ∈ c.issuable := by
  rcases choose_cases chosen with h | ⟨-, h⟩ | ⟨-, -, h⟩
  · exact (List.mem_filter.mp (minBy_mem _ _ _ h).1).1
  · exact (List.mem_filter.mp (minBy_mem _ _ _ h).1).1
  · exact (minBy_mem _ _ _ h).1

theorem choose_of_old {r q : SortReq} (chosen : c.choose now = some r) (mem : q ∈ c.issuable)
    (old : Channel.isOld now q = true) : Channel.isOld now r = true ∧ r.admitted.getD 0 ≤ q.admitted.getD 0 := by
  have no : oldest (c.issuable.filter (Channel.isOld now)) ≠ none := by
    intro empty
    rw [filter_eq_nil_of_oldest empty mem] at old
    exact absurd old (by decide)
  rcases choose_cases chosen with h | ⟨empty, -⟩ | ⟨empty, -⟩
  · obtain ⟨mine, least⟩ := minBy_mem _ _ _ h
    exact ⟨(List.mem_filter.mp mine).2, least q (List.mem_filter.mpr ⟨mem, old⟩)⟩
  · exact absurd empty no
  · exact absurd empty no

theorem choose_of_open {r q : SortReq} (chosen : c.choose now = some r) (young : ∀ q ∈ c.issuable, Channel.isOld now q = false)
    (mem : q ∈ c.issuable) (isOpen : c.isOpen q = true) : c.isOpen r = true ∧ r.admitted.getD 0 ≤ q.admitted.getD 0 := by
  rcases choose_cases chosen with h | ⟨-, h⟩ | ⟨-, empty, -⟩
  · obtain ⟨cand, old⟩ := List.mem_filter.mp (minBy_mem _ _ _ h).1
    rw [young r cand] at old
    exact absurd old (by decide)
  · obtain ⟨mine, least⟩ := minBy_mem _ _ _ h
    exact ⟨(List.mem_filter.mp mine).2, least q (List.mem_filter.mpr ⟨mem, isOpen⟩)⟩
  · rw [filter_eq_nil_of_oldest empty mem] at isOpen
    exact absurd isOpen (by decide)

end

/-- Settles O33. -/
theorem memorySorter : Obligations.MemorySorter := by
  refine ⟨⟨?enters, ?admitted, ?issued, ?ages⟩, ?choice⟩
  case enters =>
    intro s r c w backed inService
    refine ⟨fun alone room => ?_, fun full => ?_⟩
    · rw [exec_sorterEnqueue_of_served backed inService, enqueue_of_room .other alone room]
    · rw [exec_sorterEnqueue_of_served backed inService, enqueue_of_full .other full]
  case admitted =>
    intro s ch bank r c first few free released awake
    exact congrArg Host.Outcome.next (admitFirst_of_admits first (admits_of_room few free released awake))
  case issued =>
    intro s ch r c u trained inService released chosen
    exact exec_sorterIssue_of_chosen trained inService released chosen
  case ages =>
    intro s ch id t r waits admitted
    exact exec_requestAgeOver_of_waiting waits admitted
  case choice =>
    intro c now r chosen
    obtain ⟨mem, may⟩ := mem_issuable.mp (choose_issuable chosen)
    refine ⟨mem, may, fun q qMem qMay old => ?_, fun young q qMem qMay isOpen => ?_⟩
    · obtain ⟨isOld, least⟩ := choose_of_old chosen (mem_issuable.mpr ⟨qMem, qMay⟩) (isOld_iff.mpr old)
      exact ⟨isOld_iff.mp isOld, least⟩
    · have allYoung : ∀ q ∈ c.issuable, Channel.isOld now q = false := by
        intro q cand
        obtain ⟨notAged, recent⟩ := young q (mem_issuable.mp cand).1 (mem_issuable.mp cand).2
        simp [Channel.isOld, notAged, recent]
      obtain ⟨open_, least⟩ := choose_of_open chosen allYoung (mem_issuable.mpr ⟨qMem, qMay⟩) (isOpen_iff.mpr isOpen)
      exact ⟨isOpen_iff.mp open_, least⟩

end Sys2Proof.Machine
end

section
/-! The proof of O34: bursts, retries, retraining, mirror copies, scrubbing and zeroed slots. -/

namespace Sys2Proof.Machine

/-! ## Bursts (R200 to R204) -/

section
variable {s : State} {ch : ChanId} {id : Nat} {e : BurstEnd} {r : SortReq}
  (issued : (s.chan ch).sorter.find? (fun r => r.id == id && r.issued) = some r) (trained : (s.chan ch).retraining = false)
  (released : s.rst.memHeld = false)
include issued trained released

theorem exec_burstComplete_of_good (good : e.edcOk = true) (inOrder : (s.chan ch).inOrder r = true) :
    exec (.burstComplete ch id e) s = .next (settle s (s.burstData ch r e.ecc)) := by
  show execBurstComplete ch id e s = _
  simp only [execBurstComplete, issued, trained, released, good, inOrder, Bool.or_self, Bool.false_eq_true, if_false, if_true,
    done]

variable (failed : e.edcOk = false)
include failed

theorem exec_burstComplete_of_retry (first : r.retrained = false) (few : r.tries < 3) : exec (.burstComplete ch id e) s =
    .next ((s.modReq ch id (fun q => { q with tries := q.tries + 1 })).count Obj.chEdcRetry ch) := by
  show execBurstComplete ch id e s = _
  simp only [execBurstComplete, issued, trained, released, failed, first, few, Bool.or_self, Bool.false_eq_true, if_false,
    if_true]

theorem exec_burstComplete_of_fourth (first : r.retrained = false) (three : 3 ≤ r.tries) : exec (.burstComplete ch id e) s =
    .next (settle s ((s.modReq ch id (fun q => { q with tries := 4 })).retrain ch)) := by
  show execBurstComplete ch id e s = _
  simp only [execBurstComplete, issued, trained, released, failed, first, Nat.not_lt.mpr three, Bool.or_self,
    Bool.false_eq_true, if_false, done]

theorem exec_burstComplete_of_retrained (again : r.retrained = true) :
    exec (.burstComplete ch id e) s = .next (settle s (s.retireChannel ch)) := by
  show execBurstComplete ch id e s = _
  simp only [execBurstComplete, issued, trained, released, failed, again, Bool.or_self, Bool.false_eq_true, if_false, if_true,
    done]

end

/-- A write of a whole block needs no read of its ECC and leaves the block good (R203). -/
theorem access_of_wholeBlock (s : State) (ch : Nat) {r : SortReq} (ecc : MemErr) (write : r.write = true)
    (whole : r.mask.contains false = false) :
    s.access ch r ecc = (true, (s.unmarkBad r.addr).count Obj.chBytesWr ch 64) := by
  simp only [State.access, write, whole, Bool.not_false, Bool.and_self, if_true]

/-- The state after the access of a whole block. -/
def State.blockGood (s : State) (ch : Nat) (r : SortReq) : State := (s.unmarkBad r.addr).count Obj.chBytesWr ch 64

theorem burstData_of_wholeBlock (s : State) (ch : Nat) {r : SortReq} (ecc : MemErr) (write : r.write = true)
    (whole : r.mask.contains false = false) (link : r.link = .other) (source : r.source = .media) :
    s.burstData ch r ecc = ((s.blockGood ch r).writeBytes (r.addr / 64 * 64) (mergeBlock
      ((s.blockGood ch r).readBytes (r.addr / 64 * 64) 64) r.data r.mask)).retireReq ch [r.id] := by
  rw [State.burstData, access_of_wholeBlock s ch ecc write whole]
  simp [write, link, State.finishReq, source, State.blockGood]

/-! ## Retraining (R200) -/

section
variable {s : State} {ch : ChanId} (retraining : (s.chan ch).retraining = true) (released : s.rst.memHeld = false)
include retraining released

theorem exec_retrainDone_of_failed : exec (.retrainDone ch false) s = .next (settle s (s.retireChannel ch)) := by
  show execRetrainDone ch false s = _
  simp only [execRetrainDone, retraining, released, Bool.not_true, Bool.or_self, Bool.false_eq_true, if_false, Bool.not_false,
    if_true, done]

/-- The channel issues again; a burst that had failed four times is retried once more. -/
def Channel.retrainedOk (c : Channel) : Channel :=
  { c with retraining := false, waking := false, sorter := c.sorter.map (fun q =>
      if q.tries == 4 then { q with retrained := true } else q) }

theorem exec_retrainDone_of_ok : exec (.retrainDone ch true) s = .next ((s.modChan ch Channel.retrainedOk).count Obj.chEdcRetry
    ch ((s.chan ch).sorter.filter (fun r => r.tries == 4 && !r.retrained)).length) := by
  show execRetrainDone ch true s = _
  simp only [execRetrainDone, retraining, released, Bool.not_true, Bool.or_self, Bool.false_eq_true, if_false]
  rfl

end

/-! ## A new mirror copy (R210, R220) -/

theorem nextChan_holds {p : Nat → Bool} {c d : Nat} (next : nextChan p c = some d) : p d = true ∧ d < 12 := by
  refine ⟨List.find?_some next, ?_⟩
  obtain ⟨i, -, rfl⟩ := List.mem_map.mp (List.mem_of_find?_eq_some next)
  exact Nat.mod_lt _ (by decide)

theorem exec_mirrorReplace_of_lost {s : State} {page d : Nat} (lost : s.mem.remirror.any (fun m => m.1 == page) = true)
    (backed : (s.entry page).backed = true) (mirror : (s.entry page).mirror = true)
    (next : nextChan (fun d => s.freeSlots d != 0 && d / 2 != (s.entry page).channel / 2) (s.entry page).channel = some d) :
    exec (.mirrorReplace page) s = .next { (s.takeSlot d).2 with mem := { (s.takeSlot d).2.mem with
      bytes := cputs (s.takeSlot d).2.mem.bytes (phys d (s.takeSlot d).1 0)
        (cgets (s.takeSlot d).2.mem.bytes ((s.entry page).at 0) pageBytes)
      mirrors := tput (s.takeSlot d).2.mem.mirrors page (d, (s.takeSlot d).1)
      remirror := (s.takeSlot d).2.mem.remirror.filter (fun m => m.1 != page) } } := by
  show execMirrorReplace page s = _
  simp only [execMirrorReplace, lost, backed, mirror, next, Bool.not_true, Bool.and_self, Bool.false_eq_true, if_false]

/-! ## Scrubbing (R204, R205) -/

section
variable {s : State} {ch : ChanId} {slot p : Nat} {block : Fin 256} (ecc : MemErr)
  (inService : s.chInService ch = true) (trained : (s.chan ch).retraining = false) (released : s.rst.memHeld = false)
  (still : ∀ r ∈ (s.chan ch).sorter, r.admitted.isSome = true → r.issued = false →
    r.bank ≠ (s.placeOf (p * pageBytes + 64 * block.val)).bank)
include inService trained released still

theorem exec_scrubRead_of_page (page : s.pageAt ch slot = some p) : exec (.scrubRead ch slot block ecc) s =
    .next (settle s (s.eccRead ch (p * pageBytes + 64 * block.val) ecc).2) := by
  show execScrubRead ch slot block ecc s = _
  simp only [execScrubRead, page, Option.some_or]
  rw [if_neg (by simpa [inService, trained, released] using still)]
  rfl

theorem exec_scrubRead_of_mirror (page : s.pageAt ch slot = none) (mirror : s.mirrorAt ch slot = some p) :
    exec (.scrubRead ch slot block ecc) s =
      .next (settle s (s.eccMirror ch slot (p * pageBytes + 64 * block.val) ecc)) := by
  show execScrubRead ch slot block ecc s = _
  simp only [execScrubRead, page, mirror, Option.none_or]
  rw [if_neg (by simpa [inService, trained, released] using still)]
  rfl

end

/-! ## Zeroed slots (R213) -/

theorem cget_cdrop_inside (m : List Host.Cell) {a n off : Nat} (small : off < n) : cget (cdrop m a n) (a + off) = 0 :=
  cget_filter_out _ m _ (fun _ => by simp; omega)

theorem cget_cdrop_outside (m : List Host.Cell) {a n x : Nat} (outside : x < a ∨ a + n ≤ x) :
    cget (cdrop m a n) x = cget m x :=
  cget_filter _ m x (fun _ => by simpa using outside)

/-- The slot returns to its channel's free ones. -/
def Channel.slotFree (c : Channel) (slot : Nat) : Channel :=
  { c with zeroing := c.zeroing.filter (· != slot), used := c.used.filter (· != slot) }

/-- The slot is free and its bytes are zero. -/
def State.slotFreed (s : State) (ch : ChanId) (slot : Nat) : State :=
  let t := s.modChan ch (fun x => x.slotFree slot)
  { t with
    mem := { t.mem with
      bytes := cdrop t.mem.bytes (phys ch slot 0) pageBytes
      badBlocks := t.mem.badBlocks.filter (fun b => b / 256 != ch.val * slotCount + slot) }
    work := { t.work with ctxs := t.work.ctxs.map (fun (x : Nat × Ctx) =>
      (x.1, { x.2 with zeroing := x.2.zeroing.filter (fun z => z != (ch.val, slot)) })) } }

theorem exec_slotZeroDone_of_zeroing {s : State} {ch : ChanId} {slot : Nat}
    (zeroing : (s.chan ch).zeroing.contains slot = true) :
    exec (.slotZeroDone ch slot) s = .next (settle s (s.slotFreed ch slot).endUnloads) := by
  show execSlotZeroDone ch slot s = _
  simp only [execSlotZeroDone, zeroing, Bool.not_true, Bool.false_eq_true, if_false, done]
  rfl

section
variable (s : State) (ch : ChanId) (slot : Nat)

theorem slotFreed_chan : (s.slotFreed ch slot).chan ch = (s.chan ch).slotFree slot :=
  State.chan_modChan s ch (fun x => x.slotFree slot)

theorem slotFreed_bytes : (s.slotFreed ch slot).mem.bytes = cdrop s.mem.bytes (phys ch slot 0) pageBytes := rfl

theorem phys_add (c k off : Nat) : phys c k off = phys c k 0 + off := by
  simp [phys]

end

/-- Settles O34. -/
theorem burstsAndUpkeep : Obligations.BurstsAndUpkeep := by
  refine ⟨⟨?bursts, ?retrains⟩, ?mirrors, ?scrubs, ?zeroed⟩
  case bursts =>
    intro s ch id e r issued trained released
    refine ⟨exec_burstComplete_of_good issued trained released, exec_burstComplete_of_retry issued trained released,
      exec_burstComplete_of_fourth issued trained released, exec_burstComplete_of_retrained issued trained released, ?_⟩
    intro good inOrder write whole link source a u
    rw [exec_burstComplete_of_good issued trained released good inOrder,
      burstData_of_wholeBlock s ch e.ecc write whole link source]
    rfl
  case retrains =>
    intro s ch retraining released
    refine ⟨exec_retrainDone_of_failed retraining released, _, exec_retrainDone_of_ok retraining released, ?_, ?_⟩
    · exact congrArg Channel.retraining (State.chan_modChan s ch Channel.retrainedOk)
    · refine (congrArg Channel.sorter (State.chan_modChan s ch Channel.retrainedOk)).trans ?_
      simp [Channel.retrainedOk]
  case mirrors =>
    intro s page d e lost backed mirror next
    obtain ⟨free, small⟩ := nextChan_holds next
    have otherDevice : d / 2 ≠ e.channel / 2 := by
      rw [Bool.and_eq_true, bne_iff_ne, bne_iff_ne] at free
      exact free.2
    exact ⟨otherDevice, small, exec_mirrorReplace_of_lost lost backed mirror next⟩
  case scrubs =>
    intro s ch slot p block ecc inService trained released a still
    exact ⟨exec_scrubRead_of_page ecc inService trained released still,
      exec_scrubRead_of_mirror ecc inService trained released still⟩
  case zeroed =>
    intro s ch slot zeroing _
    refine ⟨s.slotFreed ch slot, exec_slotZeroDone_of_zeroing zeroing, ?_, ?_, fun off small => ?_, fun x outside => ?_, rfl⟩
    · simp [slotFreed_chan, Channel.slotFree]
    · simp [slotFreed_chan, Channel.slotFree]
    · rw [slotFreed_bytes, phys_add ch slot off]
      exact cget_cdrop_inside _ small
    · rw [slotFreed_bytes, cget_cdrop_outside _ outside]

end Sys2Proof.Machine
end

section
/-! The proof of O35: heat and migration of pages. -/

namespace Sys2Proof.Machine

/-! ## HEAT_DECAY (R215) -/

/-- The entry with half its heat. -/
def Entry.halved (e : Entry) : Entry := { e with heat := e.heat / 2 }

theorem tget_halved (table : List (Nat × Entry)) (n : Nat) :
    tget Entry.zero (table.map (fun e => (e.1, e.2.halved))) n = (tget Entry.zero table n).halved := by
  induction table with
  | nil => simp [tget, tfind, Entry.halved, Entry.zero]
  | cons x r ih =>
    unfold tget at ih ⊢
    rw [List.map_cons, tfind, tfind]
    split
    · rfl
    · exact ih

theorem exec_heatDecay (s : State) : exec .heatDecay s = .next { s with mem := { s.mem with
    table := s.mem.table.map (fun e => (e.1, e.2.halved)) } } := rfl

/-! ## The copy of a page (R217, R218) -/

section
variable {s t : State} {page : Nat} {m : Migration} {errs : List (Fin 256 × MemErr)}
  (under : s.mem.migs.find? (fun m => m.page == page) = some m) (copying : (s.entry page).mig = 1)
include under copying

theorem exec_migrationCopyDone_of_good (good : s.copyBlocks page errs = (true, t)) :
    exec (.migrationCopyDone page errs) s = .next (({ t with mem := { t.mem with
      bytes := cputs t.mem.bytes (phys m.chan m.slot 0) (cgets t.mem.bytes ((s.entry page).at 0) pageBytes) } } : State).setEntry
        page { s.entry page with mig := 2 }) := by
  show execMigrationCopyDone page errs s = _
  simp only [execMigrationCopyDone, under, good, copying, bne_self_eq_false, Bool.not_true, Bool.false_eq_true, if_false]

theorem exec_migrationCopyDone_of_bad (bad : s.copyBlocks page errs = (false, t)) :
    exec (.migrationCopyDone page errs) s = .next (settle s (t.abandonMig page)) := by
  show execMigrationCopyDone page errs s = _
  simp only [execMigrationCopyDone, under, bad, copying, bne_self_eq_false, Bool.not_false, Bool.false_eq_true, if_false, if_true,
    done]

end

/-- A read of a good block without a wrong byte changes nothing (R204). -/
theorem eccRead_of_good {s : State} {c a : Nat} (good : s.mem.badBlocks.contains (s.blockAt a) = false) :
    s.eccRead c a 0 = (true, s) := by
  simp only [State.eccRead, good, Bool.false_eq_true, if_false, eccKind, if_true]

/-- One block of the copy of a page, its error count as the table of errors gives it. -/
def State.copyBlock (page : Nat) (errs : List (Fin 256 × MemErr)) (x : Bool × State) (b : Nat) : Bool × State :=
  let err := match errs.find? (fun e => e.1.val == b) with | some e => e.2 | none => 0
  if !x.1 then x else x.2.eccRead (x.2.entry page).channel (page * pageBytes + 64 * b) err

theorem copyBlocks_eq (s : State) (page : Nat) (errs : List (Fin 256 × MemErr)) :
    s.copyBlocks page errs = (List.range 256).foldl (State.copyBlock page errs) (true, s) := rfl

theorem foldl_copyBlock_of_good {s : State} {page : Nat} : ∀ (l : List Nat),
    (∀ b ∈ l, s.mem.badBlocks.contains (s.blockAt (page * pageBytes + 64 * b)) = false) →
    l.foldl (State.copyBlock page []) (true, s) = (true, s) := by
  intro l
  induction l with
  | nil => exact fun _ => rfl
  | cons b r ih =>
    intro good
    have first : State.copyBlock page [] (true, s) b = (true, s) := eccRead_of_good (good b List.mem_cons_self)
    rw [List.foldl_cons, first]
    exact ih (fun c mem => good c (List.mem_cons_of_mem _ mem))

theorem copyBlocks_of_good {s : State} {page : Nat}
    (good : ∀ b < 256, s.mem.badBlocks.contains (s.blockAt (page * pageBytes + 64 * b)) = false) :
    s.copyBlocks page [] = (true, s) := by
  rw [copyBlocks_eq]
  exact foldl_copyBlock_of_good _ (fun b mem => good b (List.mem_range.mp mem))

theorem at_add (e : Entry) (off : Nat) : e.at off = e.at 0 + off := phys_add _ _ _

/-! ## Requests that change channel leave the contents of memory (R217, R222) -/

/-- Neither the entries nor the bytes differ, nor the slots that wait for their zeros. -/
structure SamePlaces (s t : State) : Prop where
  table   : t.mem.table = s.mem.table
  bytes   : t.mem.bytes = s.mem.bytes
  zeroing : ∀ c, (t.chan c).zeroing = (s.chan c).zeroing

theorem SamePlaces.refl (s : State) : SamePlaces s s := ⟨rfl, rfl, fun _ => rfl⟩

theorem SamePlaces.trans {s t u : State} (a : SamePlaces s t) (b : SamePlaces t u) : SamePlaces s u :=
  ⟨b.table.trans a.table, b.bytes.trans a.bytes, fun c => (b.zeroing c).trans (a.zeroing c)⟩

theorem samePlaces_modChan (s : State) (n : Nat) {f : Channel → Channel} (same : ∀ c, (f c).zeroing = c.zeroing) :
    SamePlaces s (s.modChan n f) := by
  refine ⟨rfl, rfl, fun c => ?_⟩
  by_cases here : c = n
  · rw [here, State.chan_modChan, same]
  · rw [State.chan_modChan_other _ _ _ _ here]

/-- The request as it stands parked in its sorter. -/
def State.parkedReq (s : State) (r : MemReq) (l : ReqLink) : SortReq :=
  { id := s.mem.nextReq, source := r.source, link := l, addr := r.addr, write := r.write, data := r.data, mask := r.mask
    bank := (s.placeOf r.addr).bank, row := (s.placeOf r.addr).row, admitted := none, issued := false, aged := false
    tries := 0, retrained := false }

theorem samePlaces_park (s : State) (c : Nat) (r : MemReq) (l : ReqLink) : SamePlaces s (s.park c r l) := by
  have parked := samePlaces_modChan s c (f := fun x => { x with sorter := x.sorter ++ [s.parkedReq r l] }) (fun _ => rfl)
  unfold State.park State.peak
  dsimp only
  split
  · split <;> exact ⟨rfl, rfl, parked.zeroing⟩
  · split <;> exact ⟨rfl, rfl, parked.zeroing⟩

theorem samePlaces_enqueue (s : State) (c : Nat) (r : MemReq) (l : ReqLink) : SamePlaces s (s.enqueue c r l) := by
  unfold State.enqueue
  split
  · exact samePlaces_modChan s c (fun _ => rfl)
  · exact samePlaces_park s c r l

theorem samePlaces_foldl_enqueue (page : Nat) (l : List (MemReq × ReqLink)) : ∀ s : State,
    SamePlaces s (l.foldl (fun s w => s.enqueue (s.entry page).channel w.1 w.2) s) := by
  induction l with
  | nil => exact SamePlaces.refl
  | cons w r ih => exact fun s => (samePlaces_enqueue s _ w.1 w.2).trans (ih _)

theorem samePlaces_movePending (s : State) (old page : Nat) : SamePlaces s (s.movePending old page) := by
  unfold State.movePending
  dsimp only
  exact (samePlaces_modChan s old (f := fun x => { x with
    sorter := x.sorter.filter (fun r => r.admitted.isSome || !(r.addr / pageBytes == page))
    waiting := x.waiting.filter (fun w => !(w.1.addr / pageBytes == page)) }) (fun _ => rfl)).trans
      (samePlaces_foldl_enqueue page _ _)

theorem SamePlaces.entry {s t : State} (same : SamePlaces s t) (n : Nat) : t.entry n = s.entry n := by
  unfold State.entry
  rw [same.table]

/-! ## The update of the entry (R214, R217) -/

/-- The entry with its page at the destination of the migration. -/
def Entry.moved (e : Entry) (m : Migration) : Entry := { e with channel := m.chan, slot := m.slot, seed := m.seed, mig := 0 }

/-- The entry is updated, the source slot is to be zeroed, and the requests not yet admitted have moved. -/
def State.migrated (s : State) (page : Nat) (m : Migration) : State :=
  ((s.setEntry page ((s.entry page).moved m)).retireSlot (s.entry page).channel (s.entry page).slot).movePending
    (s.entry page).channel page

theorem exec_migrationUpdate_of_committed {s : State} {page : Nat} {m : Migration}
    (under : s.mem.migs.find? (fun m => m.page == page) = some m) (commits : (s.entry page).mig = 2)
    (still : ∀ r ∈ (s.chan (s.entry page).channel).sorter, r.admitted.isSome = true → r.addr / pageBytes ≠ page) :
    exec (.migrationUpdate page) s = .next (({ s.migrated page m with mem := { (s.migrated page m).mem with
      migs := (s.migrated page m).mem.migs.filter (fun x => x.page != page)
      migTimes := (s.migrated page m).mem.migTimes ++ [(s.migrated page m).clk.now] } } : State).count Obj.migrations) := by
  have none_ : (s.chan (s.entry page).channel).sorter.any (fun r => r.admitted.isSome && r.addr / pageBytes == page) = false := by
    simpa using still
  show execMigrationUpdate page s = _
  simp only [execMigrationUpdate, under, commits, none_, bne_self_eq_false, Bool.or_self, Bool.false_eq_true, if_false]
  rfl

section
variable (s : State) (page : Nat) (m : Migration)

theorem migrated_places : SamePlaces ((s.setEntry page ((s.entry page).moved m)).retireSlot (s.entry page).channel
    (s.entry page).slot) (s.migrated page m) :=
  samePlaces_movePending _ _ _

theorem migrated_entry : (s.migrated page m).entry page = (s.entry page).moved m :=
  ((migrated_places s page m).entry page).trans (entry_setEntry_same s page _)

theorem migrated_entry_other {n : Nat} (other : n ≠ page) : (s.migrated page m).entry n = s.entry n :=
  ((migrated_places s page m).entry n).trans (entry_setEntry_other s page n _ other)

theorem migrated_bytes : (s.migrated page m).mem.bytes = s.mem.bytes := (migrated_places s page m).bytes

theorem migrated_zeroing : (s.entry page).slot ∈ ((s.migrated page m).chan (s.entry page).channel).zeroing := by
  rw [(migrated_places s page m).zeroing, State.retireSlot, State.chan_modChan]
  exact (mem_ins _ _ _).mpr (.inl rfl)

/-- A reader finds what it found before. -/
theorem migrated_readByte {a : Nat} (copied : a / pageBytes = page →
      cget s.mem.bytes (phys m.chan m.slot (a % pageBytes)) = cget s.mem.bytes ((s.entry page).at (a % pageBytes))) :
    (s.migrated page m).readByte a = s.readByte a := by
  unfold State.readByte
  rw [migrated_bytes]
  by_cases here : a / pageBytes = page
  · rw [here, migrated_entry]
    show (if (s.entry page).backed then cget s.mem.bytes (phys m.chan m.slot (a % pageBytes)) else 0) = _
    rw [copied here]
  · rw [migrated_entry_other s page m here]

end

/-! ## MIGRATION_CHECK (R216) -/

/-- The migrations started in the last second. -/
def State.recentMigs (s : State) : List Nat := s.mem.migTimes.filter (fun t => decide (s.clk.now < t + 1000 * ms))

def State.keepTimes (s : State) : State := { s with mem := { s.mem with migTimes := s.recentMigs } }

theorem keepTimes_eq (s : State) : ({ s with mem := { s.mem with
    migTimes := s.mem.migTimes.filter (fun t => decide (s.clk.now < t + 1000 * ms)) } } : State) = s.keepTimes := rfl

theorem chanHeat_keepTimes (s : State) : s.keepTimes.chanHeat = s.chanHeat := rfl

theorem freeSlots_keepTimes (s : State) : s.keepTimes.freeSlots = s.freeSlots := rfl

theorem num_keepTimes (s : State) (r : ObjRow) (k : Nat) : s.keepTimes.num r k = s.num r k := rfl

section
variable {s : State} {busy : List ChanId} {h l p : Nat} {e : Entry}
  (hot : minBy (fun c => 2 ^ 32 - s.chanHeat c) (upTo 12 s.chInService) = some h)
  (cool : minBy s.chanHeat (upTo 12 s.chInService) = some l)
  (skewed : exceeds (s.chanHeat h * (upTo 12 s.chInService).length) (s.num Obj.migSkew)
    (sumOf s.chanHeat (upTo 12 s.chInService)) = true)
  (idle : ∀ b ∈ busy, b.val ≠ h ∧ b.val ≠ l) (slow : s.recentMigs.length < s.num Obj.migRate)
  (few : s.mem.migs.length < 4) (room : s.freeSlots l ≠ 0)
  (hottest : minBy (fun e : Nat × Entry => 255 - e.2.heat) (s.mem.table.filter (fun e =>
    e.2.backed && e.2.channel == h && e.2.mig == 0 && !e.2.mirror)) = some (p, e))
include hot cool skewed idle slow few room hottest

theorem exec_migrationCheck_of_fit : exec (.migrationCheck busy) s = .next
    (let k := s.keepTimes.takeSlot l;
     let v := k.2.draw;
     let w := v.2.setEntry p { e with mig := 1 };
     { w with mem := { w.mem with migs := w.mem.migs ++ [{ page := p, chan := l, slot := k.1, seed := v.1 % 16 }] } }) := by
  have notBusy : busy.any (fun b => b.val == h || b.val == l) = false := by
    simpa using idle
  have free : (s.freeSlots l != 0) = true := bne_iff_ne.mpr room
  unfold State.recentMigs at slow
  show execMigrationCheck busy s = _
  simp only [execMigrationCheck, keepTimes_eq, chanHeat_keepTimes, freeSlots_keepTimes, num_keepTimes,
    hot, cool, skewed, notBusy, slow, few, free, hottest, Bool.not_false, Bool.not_true, decide_true, Bool.and_self,
    Bool.false_eq_true, if_false]

end

/-- Settles O35. The SEED of the destination slot is a free value, which is the model's choice (notes/assumptions/46.md). -/
theorem migrations : Obligations.Migrations := by
  refine ⟨⟨fun s => ⟨_, exec_heatDecay s, fun n => tget_halved s.mem.table n, rfl⟩, ?moves⟩, ?checks⟩
  case moves =>
    intro s page m e under
    refine ⟨fun errs t => exec_migrationCopyDone_of_good under, copyBlocks_of_good, fun wf off small => ?_,
      fun errs t => exec_migrationCopyDone_of_bad under, ?_⟩
    · rw [phys_add m.chan m.slot off, at_add e off]
      exact copy_get _ _ _ _ _ small wf
    · intro commits still u t
      exact ⟨exec_migrationUpdate_of_committed under commits still, migrated_entry s page m,
        fun n => migrated_entry_other s page m, migrated_zeroing s page m, migrated_bytes s page m,
        fun a => migrated_readByte s page m⟩
  case checks =>
    intro s busy h l p e chans times u hot cool skewed idle slow few room hottest
    exact exec_migrationCheck_of_fit hot cool skewed idle slow few room hottest

end Sys2Proof.Machine
end

section
/-! The proof of O36: peer transfers, their segments, acknowledges, resends and aborts. -/

namespace Sys2Proof.Machine

/-! ## DATA and GET frames (R229, R231, R233) -/

section
variable {s : State} {p : PeerId} {f : PeerFrame} {t : Xfer}

theorem exec_peerDataRx_of_completed (on : s.peerOn p = true) (completed : s.wasXfer p f.xfer f.getReply = true) :
    exec (.peerDataRx p f) s = .next s := by
  show execPeerDataRx p f s = _
  simp only [execPeerDataRx, on, completed, Bool.or_true, if_true]

theorem exec_peerDataRx_of_underWay (on : s.peerOn p = true) (fresh : s.wasXfer p f.xfer f.getReply = false)
    (underWay : s.xfer p f.xfer f.getReply = some t) (receives : t.sending = false) :
    exec (.peerDataRx p f) s = .next (s.takeData p t f) := by
  show execPeerDataRx p f s = _
  simp only [execPeerDataRx, on, fresh, underWay, receives, Bool.not_true, Bool.or_self, Bool.false_eq_true, if_false]

theorem takeData_of_other (other : f.seq ≠ t.next) :
    s.takeData p t f = s.peerSend p (plainTx peerAck t t.acked 0) :=
  if_pos (bne_iff_ne.mpr other)

/-- The blocks at the edges of a segment of n bytes at a, which are read before the segment is merged into them. -/
def edgeBlocks (a n : Nat) : List Nat :=
  ((if a % 64 != 0 then [a / 64] else []) ++ (if (a + n) % 64 != 0 then [(a + n) / 64] else [])).foldl ins []

theorem edgeBlocks_of_aligned {a n : Nat} (start : a % 64 = 0) (stop : (a + n) % 64 = 0) : edgeBlocks a n = [] := by
  simp [edgeBlocks, start, stop]

/-- The segment of a frame is written to device memory and counted. -/
def State.segmentTaken (u : State) (p : Nat) (t : Xfer) (a : Nat) (data : Bytes) : State :=
  ((u.writeBytes a data).modXfer p t.xfer (xferMine t) (fun t =>
    { t with next := t.next + 1, accepted := t.accepted ++ [u.clk.now] })).count Obj.peerBytes p data.length

theorem takeData_of_next (isNext : f.seq = t.next) (data : f.data ≠ []) (length : f.data.length = s.segLen p t.total f.seq) :
    s.takeData p t f =
      let u := s.blocksRead (edgeBlocks (t.loc + f.seq * s.num Obj.peerSeg p) f.data.length)
      if u.1 then u.2.segmentTaken p t (t.loc + f.seq * s.num Obj.peerSeg p) f.data else u.2 := by
  have hasData : f.data.isEmpty = false := by simpa using data
  have inOrder : (f.seq != t.next) = false := by simpa using isNext
  have fits : (f.data.length != s.segLen p t.total f.seq) = false := by simpa using length
  simp only [State.takeData, inOrder, fits, hasData, Bool.or_self, Bool.false_eq_true, if_false]
  change (if !(s.blocksRead (edgeBlocks _ _)).1 then _ else _) = _
  cases (s.blocksRead (edgeBlocks (t.loc + f.seq * s.num Obj.peerSeg p) f.data.length)).1 <;> rfl

section
variable (on : s.peerOn p = true) (fresh : s.wasXfer p f.xfer false = false) (new : s.xfer p f.xfer false = none)
include on fresh new

/-- The transfer that a peer begins by its first frame. -/
def openedXfer (f : PeerFrame) (now : Nat) : Xfer :=
  { xfer := f.xfer, item := none, sending := false, get := false, loc := f.addr, remote := 0, total := f.total, acked := 0
    next := 0, unacked := 0, accepted := [], since := now, resends := 0 }

theorem exec_peerDataRx_of_refused (put : f.getReply = false) (outside : s.windowOk p f.addr f.total true = false) :
    exec (.peerDataRx p f) s = .next (s.peerSend p (refuseTx f)) := by
  show execPeerDataRx p f s = _
  simp only [execPeerDataRx, on, put, fresh, new, outside, Bool.not_true, Bool.not_false, Bool.or_self, Bool.false_eq_true,
    if_false, if_true]

theorem exec_peerDataRx_of_first (put : f.getReply = false) (inside : s.windowOk p f.addr f.total true = true) :
    exec (.peerDataRx p f) s = .next ((s.modPeer p (fun q => { q with xfers := q.xfers ++ [openedXfer f s.clk.now] })).takeData p
      (openedXfer f s.clk.now) f) := by
  show execPeerDataRx p f s = _
  simp only [execPeerDataRx, on, put, fresh, new, inside, Bool.not_true, Bool.or_self, Bool.false_eq_true, if_false]
  rfl

theorem exec_peerGetRx_of_refused (outside : s.windowOk p f.addr f.total false = false) :
    exec (.peerGetRx p f) s = .next (s.peerSend p (refuseTx f)) := by
  show execPeerGetRx p f s = _
  simp only [execPeerGetRx, on, fresh, new, outside, Option.isSome_none, Bool.not_true, Bool.not_false, Bool.or_self,
    Bool.false_eq_true, if_false, if_true]

theorem exec_peerGetRx_of_served (inside : s.windowOk p f.addr f.total false = true) : exec (.peerGetRx p f) s =
    .next ((s.modPeer p (fun q => { q with xfers := q.xfers ++ [{ openedXfer f s.clk.now with sending := true, get := true }] })).fillWindow
      p f.xfer false) := by
  show execPeerGetRx p f s = _
  simp only [execPeerGetRx, on, fresh, new, inside, Option.isSome_none, Bool.not_true, Bool.or_self, Bool.false_eq_true, if_false]
  rfl

end
end

theorem exec_peerXferIdExpiry_of_kept {s : State} {p : PeerId} {x : Word} {mine : Bool} {at' : Nat}
    (kept : (s.peer p).done.find? (fun d => d.1 == x && d.2.1 == mine) = some (x, mine, at')) :
    exec (.peerXferIdExpiry p x mine) s = .next ((s.advanceTo (at' + 100 * ms)).modPeer p (fun q =>
      { q with done := q.done.filter (fun d => !(d.1 == x && d.2.1 == mine)) })) := by
  show execPeerXferIdExpiry p x mine s = _
  simp only [execPeerXferIdExpiry, kept]

/-! ## Segments that have been written (R231, R233) -/

section
variable {s : State} {p : PeerId} {x : Word} {mine : Bool} {t : Xfer} (underWay : s.xfer p x mine = some t)
include underWay

section
variable (receives : t.sending = false) (pending : t.acked < t.next)
include receives pending

/-- One more segment of the transfer stands in memory. -/
def State.segmentStands (s : State) (p : Nat) (x : Word) (mine : Bool) : State :=
  s.modXfer p x mine (fun t => { t with acked := t.acked + 1, unacked := t.unacked + 1 })

theorem exec_peerSegmentWritten_of_more (more : t.acked + 1 ≠ s.segments p t.total) :
    exec (.peerSegmentWritten p x mine) s = .next (if 8 ≤ t.unacked + 1 then (s.segmentStands p x mine).sendAck p x mine
      else s.segmentStands p x mine) := by
  have notLast : (t.acked + 1 == s.segments p t.total) = false := by simpa using more
  show execPeerSegmentWritten p x mine s = _
  simp only [execPeerSegmentWritten, underWay, receives, Nat.not_le.mpr pending, notLast, decide_false, Bool.or_self,
    Bool.false_or, decide_eq_true_eq, Bool.false_eq_true, if_false, Bool.not_false, if_true]
  rfl

theorem exec_peerSegmentWritten_of_last (isLast : t.acked + 1 = s.segments p t.total) :
    exec (.peerSegmentWritten p x mine) s =
      let v := ((s.segmentStands p x mine).sendAck p x mine).closeXfer p x mine
      if t.get then .next (settle s (v.endXferItem t St.ok))
      else if s.num Obj.winFlag p = 0xFFFF then .next v
      else .next (settle s (v.setFlag (s.num Obj.winFlag p))) := by
  have last : (t.acked + 1 == s.segments p t.total) = true := by simpa using isLast
  show execPeerSegmentWritten p x mine s = _
  simp only [execPeerSegmentWritten, underWay, receives, Nat.not_le.mpr pending, last, decide_false, Bool.or_self, Bool.true_or,
    Bool.false_eq_true, if_false, Bool.not_true, if_true, beq_iff_eq, done]
  rfl

end

theorem exec_peerAckTimer_of_accepted {a : Nat} {l : List Nat} (receives : t.sending = false) (accepted : t.accepted = a :: l) :
    exec (.peerAckTimer p x mine) s = .next ((s.advanceTo (a + 50 * us)).sendAck p x mine) := by
  show execPeerAckTimer p x mine s = _
  simp only [execPeerAckTimer, underWay, accepted, receives, Bool.false_eq_true, if_false]

theorem exec_peerAckTimer_of_none (empty : t.accepted = []) : exec (.peerAckTimer p x mine) s = .next s := by
  show execPeerAckTimer p x mine s = _
  simp only [execPeerAckTimer, underWay, empty]

end

/-! ## ACK and ABORT (R229, R231, R233) -/

section
variable {s : State} {p : PeerId} {f : PeerFrame} {t : Xfer} (on : s.peerOn p = true) (underWay : s.xferOf p f = some t)
include on underWay

/-- The segments up to an ACK are acknowledged. -/
def State.ackTaken (s : State) (p : Nat) (f : PeerFrame) (mine : Bool) : State :=
  s.modXfer p f.xfer mine (fun t => { t with acked := f.ack, since := s.clk.now, resends := 0
                                             next := max t.next f.ack })

theorem exec_peerAckRx_of_advance (sends : t.sending = true) (advances : t.acked < f.ack)
    (known : f.ack ≤ s.segments p t.total) : exec (.peerAckRx p f) s =
      if f.ack = s.segments p t.total then .next (settle s (((s.ackTaken p f (xferMine t)).closeXfer p f.xfer
        (xferMine t)).endXferItem t St.ok))
      else .next ((s.ackTaken p f (xferMine t)).fillWindow p f.xfer (xferMine t)) := by
  show execPeerAckRx p f s = _
  simp only [execPeerAckRx, underWay, on, sends, Nat.not_le.mpr advances, Nat.not_lt.mpr known, decide_false, Bool.not_true,
    Bool.or_self, Bool.false_eq_true, if_false, beq_iff_eq, done]
  rfl

theorem exec_peerAbortRx_of_status (status : f.status ≠ 0) : exec (.peerAbortRx p f) s =
    .next (settle s ((s.dropXfer p f.xfer (xferMine t)).endXferItem t f.status)) := by
  have given : (f.status == 0) = false := by simpa using status
  show execPeerAbortRx p f s = _
  simp only [execPeerAbortRx, underWay, on, given, Bool.not_true, Bool.false_eq_true, if_false, done]

end

/-! ## Resends (R232) -/

/-- The transfer waits for an acknowledge, or for the first data of its GET. -/
def Xfer.waits (t : Xfer) : Bool :=
  if t.sending then decide (t.acked < t.next) else t.get && t.next == 0 && t.item.isSome

theorem waits_iff (t : Xfer) : t.waits = true ↔
    (t.sending = true ∧ t.acked < t.next) ∨ (t.sending = false ∧ t.get = true ∧ t.next = 0 ∧ t.item.isSome = true) := by
  cases sends : t.sending <;> simp [Xfer.waits, sends, and_assoc]

section
variable {s : State} {p : PeerId} {x : Word} {mine : Bool} {t : Xfer} (underWay : s.xfer p x mine = some t)
include underWay

theorem exec_peerResendTimer_of_idle (idle : t.waits = false) : exec (.peerResendTimer p x mine) s = .next s := by
  unfold Xfer.waits at idle
  show execPeerResendTimer p x mine s = _
  simp only [execPeerResendTimer, underWay, idle, Bool.not_false, if_true]

variable (waits : t.waits = true)
include waits

theorem exec_peerResendTimer_of_eighth (eight : 8 ≤ t.resends) :
    exec (.peerResendTimer p x mine) s = .next (settle s ((s.advanceTo (t.since + ms)).giveUp p t)) := by
  unfold Xfer.waits at waits
  show execPeerResendTimer p x mine s = _
  simp only [execPeerResendTimer, underWay, waits, Bool.not_true, Bool.false_eq_true, if_false, eight, if_true, done]

/-- One more resend of the transfer. -/
def State.resendNoted (u : State) (p : Nat) (x : Word) (mine : Bool) : State :=
  u.modXfer p x mine (fun t => { t with resends := t.resends + 1, since := u.clk.now })

theorem exec_peerResendTimer_of_resend (few : t.resends < 8) : exec (.peerResendTimer p x mine) s =
    let v := (s.advanceTo (t.since + ms)).resendNoted p x mine
    if t.sending then .next (((List.range t.next).filter (fun q => decide (t.acked ≤ q))).foldl
      (fun s q => (s.sendSegment p t q).count Obj.peerRetx p) v)
    else .next ((v.peerSend p (plainTx peerGet t 0 0)).count Obj.peerRetx p) := by
  unfold Xfer.waits at waits
  show execPeerResendTimer p x mine s = _
  simp only [execPeerResendTimer, underWay, waits, Bool.not_true, Bool.false_eq_true, if_false, Nat.not_le.mpr few]
  rfl

end

/-! ## PEER_ENABLE (R232, R234) -/

theorem peerEnable_command : Obj.peerEnable.Command := ⟨by decide, by decide, by decide⟩

theorem exec_peerEnable {s : State} {p : PeerId} {w : CmdW} (turn : Turn s w.req)
    (meets : Writes s Obj.peerEnable p (peerEnableRule p) (.num w.value)) :
    exec (.peerEnable p w) s = .next (settle s (s.wrote w.req Obj.peerEnable p (fun u =>
      (u.setNum Obj.peerEnable p w.value).setNum Obj.peerState p w.value))) :=
  congrArg (done s) (State.hostWrite_cmd turn peerEnable_command meets rfl (.peerEnable p w))

/-- Settles O36. -/
theorem peerFrames : Obligations.PeerFrames := by
  refine ⟨?frames, ?written, ?acks, ?resends, fun s p w => exec_peerEnable⟩
  case frames =>
    intro s p f on
    refine ⟨exec_peerDataRx_of_completed on, fun fresh t underWay receives => ⟨fun other => ?_, ?_⟩, ?_,
      fun x mine at' => exec_peerXferIdExpiry_of_kept⟩
    · rw [exec_peerDataRx_of_underWay on fresh underWay receives, takeData_of_other other]
    · intro isNext data length a z u
      have taken := takeData_of_next (p := p) isNext data length
      refine ⟨fun good => ?_, fun bad => ?_, fun start stop => congrArg s.blocksRead (edgeBlocks_of_aligned start stop)⟩
      · rw [exec_peerDataRx_of_underWay on fresh underWay receives, taken]
        exact congrArg Host.Outcome.next (if_pos good)
      · rw [exec_peerDataRx_of_underWay on fresh underWay receives, taken]
        exact congrArg Host.Outcome.next (if_neg (Bool.eq_false_iff.mp bad))
    · intro fresh new t
      exact ⟨exec_peerDataRx_of_refused on fresh new, exec_peerDataRx_of_first on fresh new,
        exec_peerGetRx_of_refused on fresh new, exec_peerGetRx_of_served on fresh new⟩
  case written =>
    intro s p x mine t underWay receives
    refine ⟨?_, fun a l => exec_peerAckTimer_of_accepted underWay receives, exec_peerAckTimer_of_none underWay⟩
    intro pending u
    refine ⟨fun more few => ?_, fun more eight => ?_, fun isLast get => ?_, fun isLast put => ⟨fun noFlag => ?_, fun flag => ?_⟩⟩
    · rw [exec_peerSegmentWritten_of_more underWay receives pending more, if_neg (Nat.not_le.mpr few)]
      rfl
    · rw [exec_peerSegmentWritten_of_more underWay receives pending more, if_pos eight]
      rfl
    · rw [exec_peerSegmentWritten_of_last underWay receives pending isLast]
      exact if_pos get
    · rw [exec_peerSegmentWritten_of_last underWay receives pending isLast, put]
      exact if_pos noFlag
    · rw [exec_peerSegmentWritten_of_last underWay receives pending isLast, put]
      exact if_neg flag
  case acks =>
    intro s p f t on underWay
    refine ⟨fun sends advances known => ⟨fun isLast => ?_, fun more => ?_⟩, exec_peerAbortRx_of_status on underWay⟩
    · rw [exec_peerAckRx_of_advance on underWay sends advances known, if_pos isLast]
      rfl
    · rw [exec_peerAckRx_of_advance on underWay sends advances known, if_neg more]
      rfl
  case resends =>
    intro s p x mine t underWay waits u v
    have isWaiting : t.waits = true ↔ waits := waits_iff t
    refine ⟨fun w => exec_peerResendTimer_of_eighth underWay (isWaiting.mpr w), fun w few sends => ?_,
      fun w few gets => ?_, fun idle => ?_⟩
    · rw [exec_peerResendTimer_of_resend underWay (isWaiting.mpr w) few]
      exact if_pos sends
    · rw [exec_peerResendTimer_of_resend underWay (isWaiting.mpr w) few]
      exact if_neg (by rw [gets]; decide)
    · exact exec_peerResendTimer_of_idle underWay (Bool.eq_false_iff.mpr (fun w => idle (isWaiting.mp w)))

end Sys2Proof.Machine
end

section
/-! The proof of O37: doorbell entries and submission entries. -/

namespace Sys2Proof.Machine

/-! ## Doorbell entries (R346) -/

section
variable {s : State} {d : Doorbell}

theorem ringCheck_of_open (pad : d.pad = 0) (names : d.queue ≤ 63) (enabled : s.num Obj.qEnable d.queue ≠ 0) :
    s.ringCheck d = 0 := by
  simp [State.ringCheck, pad, Nat.not_lt.mpr names, enabled]

theorem ringCheck_of_range (bad : d.pad ≠ 0 ∨ 63 < d.queue) : s.ringCheck d = St.range := by
  simp [State.ringCheck, bad]

theorem ringCheck_of_closed (pad : d.pad = 0) (names : d.queue ≤ 63) (closed : s.num Obj.qEnable d.queue = 0) :
    s.ringCheck d = St.stateConflict := by
  simp [State.ringCheck, pad, Nat.not_lt.mpr names, closed]

theorem sqCheck_of_ringCheck {c : Nat} (check : s.ringCheck d = c) (fails : c ≠ 0) : s.sqCheck d = c := by
  simp [State.sqCheck, check, fails]

theorem cqCheck_of_ringCheck {c : Nat} (check : s.ringCheck d = c) (fails : c ≠ 0) : s.cqCheck d = c := by
  simp [State.cqCheck, check, fails]

/-- The tail of a SQ_TAIL entry is neither past the ring nor behind the latched tail. -/
def State.tailOk (s : State) (d : Doorbell) : Prop :=
  sub32 d.value.toNat (s.num Obj.sqHead d.queue) ≤ s.num Obj.qDepth d.queue ∧
    sub32 (s.num Obj.sqTail d.queue) (s.num Obj.sqHead d.queue) ≤ sub32 d.value.toNat (s.num Obj.sqHead d.queue)

/-- The head of a CQ_HEAD entry neither moves back nor passes the last item posted. -/
def State.headOk (s : State) (d : Doorbell) : Prop :=
  sub32 d.value.toNat (s.num Obj.cqHead d.queue) ≤ s.num Obj.qLastPosted d.queue + 1 - s.num Obj.cqHead d.queue

theorem sqCheck_of_tailOk (isOpen : s.ringCheck d = 0) (ok : s.tailOk d) : s.sqCheck d = 0 := by
  simp [State.sqCheck, isOpen, Nat.not_lt.mpr ok.1, Nat.not_lt.mpr ok.2]

theorem sqCheck_of_not_tailOk (isOpen : s.ringCheck d = 0) (bad : ¬ s.tailOk d) : s.sqCheck d = St.range := by
  have fails : s.num Obj.qDepth d.queue < sub32 d.value.toNat (s.num Obj.sqHead d.queue) ∨
      sub32 d.value.toNat (s.num Obj.sqHead d.queue) < sub32 (s.num Obj.sqTail d.queue) (s.num Obj.sqHead d.queue) := by
    unfold State.tailOk at bad
    rwa [Decidable.not_and_iff_not_or_not, Nat.not_le, Nat.not_le] at bad
  simp [State.sqCheck, isOpen, fails]

theorem cqCheck_of_headOk (isOpen : s.ringCheck d = 0) (ok : s.headOk d) : s.cqCheck d = 0 := by
  simp [State.cqCheck, isOpen, Nat.not_lt.mpr ok]

theorem cqCheck_of_not_headOk (isOpen : s.ringCheck d = 0) (bad : ¬ s.headOk d) : s.cqCheck d = St.range := by
  simp [State.cqCheck, isOpen, Nat.not_le.mp bad]

theorem evtCheck_of_ok (pad : d.pad = 0) (low : s.num Obj.evtHead ≤ d.value.toNat)
    (high : d.value.toNat ≤ s.num Obj.evtTail + 1) : s.evtCheck d = 0 := by
  simp [State.evtCheck, pad, Nat.not_lt.mpr low, Nat.not_lt.mpr high]

theorem evtCheck_of_not_ok (pad : d.pad = 0)
    (bad : ¬ (s.num Obj.evtHead ≤ d.value.toNat ∧ d.value.toNat ≤ s.num Obj.evtTail + 1)) : s.evtCheck d = St.range := by
  rw [Decidable.not_and_iff_not_or_not, Nat.not_le, Nat.not_le] at bad
  simp [State.evtCheck, pad, bad]

theorem evtCheck_of_pad (pad : d.pad ≠ 0) : s.evtCheck d = St.range := by
  simp [State.evtCheck, pad]

/-- LOG_HEAD and TRACE_HEAD are checked for their padding alone. -/
theorem bellCheck_of_note {kind : Nat} (note : kind = 3 ∨ kind = 4) :
    s.bellCheck kind d = if d.pad = 0 then 0 else St.range := by
  rcases note with rfl | rfl <;> simp [State.bellCheck]

/-- The turn of a request changes no register. -/
theorem turned_num (s : State) (r : Req) : @State.num (s.turned r) = @State.num s := rfl

theorem bellCheck_turned_tail (r : Req) : (s.turned r).bellCheck 0 d = s.sqCheck d := by
  simp only [State.bellCheck, BEq.rfl, if_true]
  unfold State.sqCheck State.ringCheck
  rw [turned_num]

theorem bellCheck_turned_head (r : Req) : (s.turned r).bellCheck 1 d = s.cqCheck d := by
  simp only [State.bellCheck, Nat.reduceBEq, BEq.rfl, if_true, Bool.false_eq_true, if_false]
  unfold State.cqCheck State.ringCheck
  rw [turned_num]

variable {r : Req} {st : Nat} (turn : Turn s r)
include turn

theorem exec_sqTail (check : s.sqCheck d = st) : exec (.sqTail r d) s = .next (s.rung r 0 d st) :=
  congrArg Host.Outcome.next (bell_inTurn turn (.sqTail r d) 0 d st ((bellCheck_turned_tail r).trans check))

theorem exec_cqHead (check : s.cqCheck d = st) : exec (.cqHead r d) s = .next (s.rung r 1 d st) :=
  congrArg Host.Outcome.next (bell_inTurn turn (.cqHead r d) 1 d st ((bellCheck_turned_head r).trans check))

theorem exec_evtHead (check : s.evtCheck d = st) : exec (.evtHead r d) s = .next (s.rung r 2 d st) :=
  congrArg Host.Outcome.next (bell_inTurn turn (.evtHead r d) 2 d st check)

theorem exec_logHead (check : s.bellCheck 3 d = st) : exec (.logHead r d) s = .next (s.rung r 3 d st) :=
  congrArg Host.Outcome.next (bell_inTurn turn (.logHead r d) 3 d st check)

theorem exec_traceHead (check : s.bellCheck 4 d = st) : exec (.traceHead r d) s = .next (s.rung r 4 d st) :=
  congrArg Host.Outcome.next (bell_inTurn turn (.traceHead r d) 4 d st check)

end

/-! ## Submission entries (R243, R265) -/

/-- The address of the next entry of a submission ring whose first page is p. -/
def State.entryAt (s : State) (q p : Nat) : Nat := p * pageBytes + 64 * (s.num Obj.sqHead q % s.num Obj.qDepth q)

/-- The next entry of a submission ring is consumed. -/
def State.entryTaken (s : State) (q : Nat) : State :=
  (s.setNum Obj.sqHead q ((s.num Obj.sqHead q + 1) % 2 ^ 32)).noteChange (some q)

/-- What the checks of an entry b make of it, in their order. -/
def State.entryChecked (s : State) (q : Nat) (b : Bytes) : State :=
  let t := s.entryTaken q
  let h := s.num Obj.sqHead q
  if !fieldsOk b then t.refuse q h St.range (fld b 8 8)
  else if !s.rightsOk b then t.refuse q h St.pageRights (fld b 8 8)
  else if s.precond q (s.num Obj.qLastAccepted q + 1) b then t.modQueue q (fun x => { x with accepting := some (b, false) })
  else if (fld b 1 1).testBit 0 && !s.lostRefused b then t.modQueue q (fun x => { x with accepting := some (b, true) })
  else t.refuse q h St.stateConflict (fld b 8 8)

section
variable {s : State} {q : QueueId} {p k : Nat} (may : s.mayAccept q = true) (noFrame : s.frameHeld q = false)
  (entry : s.num Obj.sqHead q ≠ s.num Obj.sqTail q) (ring : (s.queue q).sqPages = some (p, k))
include may noFrame entry ring

theorem exec_submissionRead_of_lost (lost : s.blockLost (s.entryAt q p) = true) :
    exec (.submissionRead q) s = .next ((s.entryTaken q).refuse q (s.num Obj.sqHead q) St.unavailable 0) := by
  have isNew : (s.num Obj.sqHead q == s.num Obj.sqTail q) = false := by simpa using entry
  unfold State.entryAt at lost
  show execSubmissionRead q s = _
  simp only [execSubmissionRead, may, noFrame, isNew, ring, lost, Bool.not_true, Bool.or_self, Bool.false_eq_true, if_false,
    if_true]
  rfl

theorem exec_submissionRead_of_good (good : s.mem.badBlocks.contains (s.blockAt (s.entryAt q p)) = false) :
    exec (.submissionRead q) s = .next (s.entryChecked q (s.readBytes (s.entryAt q p) 64)) := by
  have isNew : (s.num Obj.sqHead q == s.num Obj.sqTail q) = false := by simpa using entry
  have found : s.blockLost (s.entryAt q p) = false := by
    rw [State.blockLost, good, Bool.false_and]
  unfold State.entryAt at found good
  show execSubmissionRead q s = _
  simp only [execSubmissionRead, may, noFrame, isNew, ring, good, found, Bool.not_true, Bool.or_self, Bool.false_eq_true,
    if_false]
  rfl

end

section
variable {s : State} (q : Nat) {b : Bytes}

theorem entryChecked_of_fields (fields : fieldsOk b = false) :
    s.entryChecked q b = (s.entryTaken q).refuse q (s.num Obj.sqHead q) St.range (fld b 8 8) := by
  simp only [State.entryChecked, fields, Bool.not_false, if_true]

variable (fields : fieldsOk b = true)
include fields

theorem entryChecked_of_rights (rights : s.rightsOk b = false) :
    s.entryChecked q b = (s.entryTaken q).refuse q (s.num Obj.sqHead q) St.pageRights (fld b 8 8) := by
  simp only [State.entryChecked, fields, rights, Bool.not_true, Bool.not_false, Bool.false_eq_true, if_false, if_true]

variable (rights : s.rightsOk b = true)
include rights

theorem entryChecked_of_holds (holds : s.precond q (s.num Obj.qLastAccepted q + 1) b = true) :
    s.entryChecked q b = (s.entryTaken q).modQueue q (fun x => { x with accepting := some (b, false) }) := by
  simp only [State.entryChecked, fields, rights, holds, Bool.not_true, Bool.false_eq_true, if_false, if_true]

variable (fails : s.precond q (s.num Obj.qLastAccepted q + 1) b = false)
include fails

theorem entryChecked_of_deferred (defer : (fld b 1 1).testBit 0 = true ∧ s.lostRefused b = false) :
    s.entryChecked q b = (s.entryTaken q).modQueue q (fun x => { x with accepting := some (b, true) }) := by
  simp only [State.entryChecked, fields, rights, fails, defer.1, defer.2, Bool.not_true, Bool.not_false, Bool.and_self,
    Bool.false_eq_true, if_false, if_true]

theorem entryChecked_of_conflict (refused : ¬ ((fld b 1 1).testBit 0 = true ∧ s.lostRefused b = false)) :
    s.entryChecked q b = (s.entryTaken q).refuse q (s.num Obj.sqHead q) St.stateConflict (fld b 8 8) := by
  have notDeferred : ((fld b 1 1).testBit 0 && !s.lostRefused b) = false := by
    simpa using refused
  simp only [State.entryChecked, fields, rights, fails, notDeferred, Bool.not_true, Bool.false_eq_true, if_false]

end

/-- Settles O37. That a command on a LOST context is refused although it carries DEFER, and that DOORBELL's response has
status OK, are the model's choices (notes/assumptions/23.md). -/
theorem ringEntries : Obligations.RingEntries := by
  refine ⟨?bells, ?entries⟩
  case bells =>
    intro s r d turn
    refine ⟨?_, ?_, fun bad => ?_, fun pad names closed => ?_, ?_, fun pad => ?_, fun pad => ?_⟩
    · intro h n ok
      exact ⟨fun pad names enabled holds => exec_sqTail turn (sqCheck_of_tailOk (ringCheck_of_open pad names enabled) holds),
        fun pad names enabled fails => exec_sqTail turn (sqCheck_of_not_tailOk (ringCheck_of_open pad names enabled) fails)⟩
    · intro ok
      exact ⟨fun pad names enabled holds => exec_cqHead turn (cqCheck_of_headOk (ringCheck_of_open pad names enabled) holds),
        fun pad names enabled fails => exec_cqHead turn (cqCheck_of_not_headOk (ringCheck_of_open pad names enabled) fails)⟩
    · exact ⟨exec_sqTail turn (sqCheck_of_ringCheck (ringCheck_of_range bad) (by decide)),
        exec_cqHead turn (cqCheck_of_ringCheck (ringCheck_of_range bad) (by decide))⟩
    · exact ⟨exec_sqTail turn (sqCheck_of_ringCheck (ringCheck_of_closed pad names closed) (by decide)),
        exec_cqHead turn (cqCheck_of_ringCheck (ringCheck_of_closed pad names closed) (by decide))⟩
    · intro ok
      exact ⟨fun pad holds => exec_evtHead turn (evtCheck_of_ok pad holds.1 holds.2),
        fun pad fails => exec_evtHead turn (evtCheck_of_not_ok pad fails)⟩
    · exact ⟨exec_logHead turn ((bellCheck_of_note (.inl rfl)).trans (if_pos pad)),
        exec_traceHead turn ((bellCheck_of_note (.inr rfl)).trans (if_pos pad))⟩
    · exact ⟨exec_evtHead turn (evtCheck_of_pad pad), exec_logHead turn ((bellCheck_of_note (.inl rfl)).trans (if_neg pad)),
        exec_traceHead turn ((bellCheck_of_note (.inr rfl)).trans (if_neg pad))⟩
  case entries =>
    intro s q p k may noFrame entry ring h a t b held defer
    refine ⟨exec_submissionRead_of_lost may noFrame entry ring, fun good => ?_⟩
    have checked := exec_submissionRead_of_good may noFrame entry ring good
    refine ⟨fun fields => ?_, fun fields rights => ?_, fun fields rights holds => ?_, fun fields rights fails may => ?_,
      fun fields rights fails may => ?_⟩
    · exact checked.trans (congrArg Host.Outcome.next (entryChecked_of_fields q fields))
    · exact checked.trans (congrArg Host.Outcome.next (entryChecked_of_rights q fields rights))
    · exact checked.trans (congrArg Host.Outcome.next (entryChecked_of_holds q fields rights holds))
    · exact checked.trans (congrArg Host.Outcome.next (entryChecked_of_deferred q fields rights fails may))
    · exact checked.trans (congrArg Host.Outcome.next (entryChecked_of_conflict q fields rights fails may))

end Sys2Proof.Machine
end

section
/-! The proof of O38: what acceptance gives an item, and stream jobs. -/

namespace Sys2Proof.Machine

/-! ## ITEM_ACCEPT (R244) -/

/-- The item that acceptance makes of the entry b of queue q. -/
def State.acceptedItem (s : State) (q : Nat) (b : Bytes) (d : Bool) : Item :=
  { Item.new (s.num Obj.qLastAccepted q + 1) (fld b 8 8) b (s.epochBefore s.clk.lode) s.clk.lode s.clk.now s.clk.now
      (s.num Obj.qPrio q) (if fld b 0 1 = 1 ∧ fld b 32 4 ≠ 0 then some (s.clk.now + fld b 32 4 * us) else none) with
    deferred := d }

section
variable {s : State} {q : QueueId} {b : Bytes} {d : Bool} (taken : (s.queue q).accepting = some (b, d))
  (accepts : s.accepts = true) (noFrame : s.frameHeld q = false) (free : s.slotFree q = true)
include taken accepts noFrame free

theorem exec_itemAccept : exec (.itemAccept q) s =
    let t := s.addItem q (s.acceptedItem q b d)
    .next ((if d then t.notice q (sub32 (s.num Obj.sqHead q) 1) St.deferred (fld b 8 8)
      else if fld b 0 1 = 2 then
        t.modCtx (fld b 2 2) (fun x => { x with state := .loading, byItem := some (q.val, s.num Obj.qLastAccepted q + 1) })
      else if fld b 0 1 = 3 then
        t.modCtx (fld b 2 2) (fun x => { x with state := .unloading, byItem := some (q.val, s.num Obj.qLastAccepted q + 1) })
      else t).thenNext q) := by
  show execItemAccept q s = _
  simp only [execItemAccept, taken, accepts, noFrame, free, Bool.not_true, Bool.or_self, Bool.false_eq_true, if_false,
    Bool.and_eq_true, beq_iff_eq, bne_iff_ne]
  rfl

end

/-! ## STREAM_JOB_ACCEPT (R24, R245, R246, R304) -/

section
variable {s : State} {n : StreamId} {f : Frame} {rest : List Frame} {q c g : Nat}
  (oldest : (s.stream n).complete = f :: rest) (attached : (s.stream n).attach = some (q, c, g)) (accepts : s.accepts = true)
include oldest attached accepts

/-- The oldest complete frame of stream n leaves its list. -/
def State.frameTaken (s : State) (n : Nat) (rest : List Frame) : State := s.modStream n (fun x => { x with complete := rest })

theorem exec_streamJobAccept_of_orphaned (orphaned : s.orphaned = true) :
    exec (.streamJobAccept n) s = .next (((s.frameTaken n rest).freeSet n f.set).count Obj.qDropped q) := by
  show execStreamJobAccept n s = _
  simp only [execStreamJobAccept, oldest, attached, accepts, orphaned, Bool.not_true, Bool.false_eq_true, if_false, if_true]
  rfl

variable (served : s.orphaned = false) (first : s.frameAhead q f = false)
  (turn : (s.queue q).accepting = none ∨ f.held = true)
include served first turn

theorem exec_streamJobAccept_of_turn : exec (.streamJobAccept n) s =
    if s.slotFree q then .next (((s.frameTaken n rest).acceptFrame n q c g f).buildGraph)
    else .next ((s.frameTaken n rest).dropFrame n f 4) := by
  have noWait : ((s.queue q).accepting.isSome && !f.held) = false := by
    rcases turn with e | e <;> simp [e]
  show execStreamJobAccept n s = _
  simp only [execStreamJobAccept, oldest, attached, accepts, served, first, noWait, Bool.not_true, Bool.or_self,
    Bool.false_eq_true, if_false]
  cases s.slotFree q <;> rfl

end

/-! ## What the frame that is taken leaves -/

section
variable (s : State) (n : Nat) (rest : List Frame)

theorem frameTaken_deadlineOf (m e : Nat) : (s.frameTaken n rest).deadlineOf m e = s.deadlineOf m e := rfl

theorem frameTaken_work : (s.frameTaken n rest).work = s.work := rfl

theorem frameTaken_num (r : ObjRow) (k : Nat) : (s.frameTaken n rest).num r k = s.num r k := rfl

end

/-- Settles O38. What Q_DROPPED counts is the model's reading (notes/assumptions/58.md). -/
theorem acceptances : Obligations.Acceptances := by
  refine ⟨?items, ?frames⟩
  case items =>
    intro s q b d taken accepts noFrame free n i t
    have accepted := exec_itemAccept taken accepts noFrame free
    refine ⟨fun deferred => ?_, fun now notLoad notUnload => ?_, fun now load => ?_, fun now unload => ?_⟩
    · rw [accepted]
      simp only [deferred, if_true]
      subst deferred
      rfl
    · rw [accepted]
      simp only [now, notLoad, notUnload, Bool.false_eq_true, if_false]
      subst now
      rfl
    · rw [accepted]
      simp only [now, load, Bool.false_eq_true, if_false, if_true]
      subst now
      rfl
    · rw [accepted]
      simp only [now, unload, Bool.false_eq_true, if_false, if_true]
      subst now
      rfl
  case frames =>
    intro s n f rest q c g oldest attached accepts t
    refine ⟨exec_streamJobAccept_of_orphaned oldest attached accepts, fun served first turn full => ?_,
      fun served first turn free => ⟨?_, ?_⟩⟩
    · rw [exec_streamJobAccept_of_turn oldest attached accepts served first turn, full]
      rfl
    · rw [exec_streamJobAccept_of_turn oldest attached accepts served first turn, free]
      rfl
    · have item := acceptFrame_item (s.frameTaken n rest) n q c g f
      rw [frameTaken_deadlineOf, frameTaken_work, frameTaken_num] at item
      exact item

end Sys2Proof.Machine
end

section
/-! The proof of O39: flag commands, waits and markers of a queue, and commands whose precondition no longer holds. -/

namespace Sys2Proof.Machine

/-! ## A command of a queue (R237, R265) -/

section
variable {s : State} {q op : Nat} {i : Item} {c : Instr} {body : State → Item → State}
  (isCommand : exec c s = done s (s.command q op body))
include isCommand

/-- A command that its queue takes up does t. -/
theorem exec_of_takesUp (up : TakesUp s q op i) {t : State} (does : body s i = t) :
    exec c s = .next (settle s (t.thenNext q)) := by
  rw [isCommand, command_takesUp up, does]
  rfl

end

/-- Instruction c executes a command of opcode op of queue q, whatever the command does. -/
def IsCommand (c : Instr) (q op : Nat) : Prop :=
  ∃ body, ∀ s : State, exec c s = done s (s.command q op body)

section
variable {s : State} {q op : Nat} {i : Item} {c : Instr} (isCommand : IsCommand c q op)
include isCommand

theorem exec_of_conflict (fails : s.holdsFor q i = false) (atOnce : i.deferred = false) (turn : s.itemFor q op = some i) :
    exec c s = .next (settle s ((s.finish q i.seq (Finish.plain St.stateConflict)).thenNext q)) := by
  obtain ⟨body, is⟩ := isCommand
  rw [is, command_conflict turn fails atOnce]
  rfl

theorem exec_of_deferred (fails : s.holdsFor q i = false) (deferred : i.deferred = true) (turn : s.itemFor q op = some i) :
    exec c s = .next (settle s (s.thenNext q)) := by
  obtain ⟨body, is⟩ := isCommand
  rw [is, command_held turn fails deferred]
  rfl

end

section
variable (q : QueueId)

theorem isCommand_unload : IsCommand (.unload q) q 3 := ⟨_, fun _ => rfl⟩
theorem isCommand_attach : IsCommand (.attach q) q 4 := ⟨_, fun _ => rfl⟩
theorem isCommand_detach : IsCommand (.detach q) q 5 := ⟨_, fun _ => rfl⟩
theorem isCommand_put : IsCommand (.put q) q 9 := ⟨_, fun _ => rfl⟩
theorem isCommand_get : IsCommand (.get q) q 10 := ⟨_, fun _ => rfl⟩
theorem isCommand_alloc : IsCommand (.alloc q) q 11 := ⟨_, fun _ => rfl⟩
theorem isCommand_free : IsCommand (.free q) q 12 := ⟨_, fun _ => rfl⟩
theorem isCommand_adopt : IsCommand (.adopt q) q 13 := ⟨_, fun _ => rfl⟩
theorem isCommand_load (k : Package) : IsCommand (.load q k) q 2 := ⟨_, fun _ => rfl⟩

end

/-! ## FLAG_WAIT (R258 to R260) -/

/-- What FLAG_WAIT does with its item. -/
def State.waitOn (s : State) (q : Nat) (i : Item) : State :=
  if s.flagOn i.flag then s.seenSet q i else if i.waitFrom.isSome then s else s.beginWait q i.seq

section
variable (s : State) (q : QueueId)

theorem exec_flagSet : exec (.flagSet q) s =
    done s (s.command q 6 (fun s i => (s.setFlag i.flag).finish q i.seq (Finish.plain St.ok))) := rfl

theorem exec_flagClr (setToo : Bool) : exec (.flagClr q setToo) s =
    done s (s.command q 7 (fun s i => (s.clearFlag i.flag setToo).finish q i.seq (Finish.plain St.ok))) := rfl

theorem exec_flagWait : exec (.flagWait q) s = done s (s.command q 8 (fun s i => s.waitOn q i)) := rfl

theorem exec_marker : exec (.marker q) s = done s (s.command q 14 (fun s i =>
    if s.earlierDone q i.seq then s.finish q i.seq (Finish.plain St.ok) else s)) := rfl

end

section
variable {s : State} {i : Item} (q : Nat)

theorem waitOn_of_set (set : i.flag ∈ s.work.flags) : s.waitOn q i = s.seenSet q i :=
  if_pos (List.contains_iff_mem.mpr set)

theorem waitOn_of_clear (clear : i.flag ∉ s.work.flags) (new : i.waitFrom = none) : s.waitOn q i = s.beginWait q i.seq := by
  have off : s.flagOn i.flag = false := by simpa [State.flagOn] using clear
  simp [State.waitOn, off, new]

theorem seenSet_of_keep (keeps : i.consumes = false) : s.seenSet q i = s.finish q i.seq (Finish.plain St.ok) := by
  simp [State.seenSet, keeps]

theorem seenSet_of_consume (consumes : i.consumes = true) :
    s.seenSet q i = (s.finish q i.seq (Finish.plain St.ok)).clearFlag i.flag false := by
  simp [State.seenSet, consumes]

end

/-- Settles O39. -/


theorem queueCommands : Obligations.QueueCommands := by
  intro s q i
  refine ⟨fun up => exec_of_takesUp (exec_flagSet s q) up rfl, fun up => ⟨exec_of_takesUp (exec_flagClr s q false) up rfl,
    exec_of_takesUp (exec_flagClr s q true) up rfl⟩,
    fun up => ⟨fun set keeps => ?_, fun set consumes => ?_, fun clear new => ?_⟩, fun up => ⟨fun earlier => ?_, fun later => ?_⟩,
    fun fails atOnce => ?_, fun fails deferred => ?_⟩
  · exact exec_of_takesUp (exec_flagWait s q) up ((waitOn_of_set q set).trans (seenSet_of_keep q keeps))
  · exact exec_of_takesUp (exec_flagWait s q) up ((waitOn_of_set q set).trans (seenSet_of_consume q consumes))
  · exact exec_of_takesUp (exec_flagWait s q) up (waitOn_of_clear q clear new)
  · exact exec_of_takesUp (exec_marker s q) up (if_pos earlier)
  · exact exec_of_takesUp (exec_marker s q) up (if_neg (Bool.eq_false_iff.mp later))
  · exact ⟨exec_of_conflict (isCommand_unload q) fails atOnce, exec_of_conflict (isCommand_attach q) fails atOnce,
      exec_of_conflict (isCommand_detach q) fails atOnce, exec_of_conflict (isCommand_put q) fails atOnce,
      exec_of_conflict (isCommand_get q) fails atOnce, exec_of_conflict (isCommand_alloc q) fails atOnce,
      exec_of_conflict (isCommand_free q) fails atOnce, exec_of_conflict (isCommand_adopt q) fails atOnce,
      fun k => exec_of_conflict (isCommand_load q k) fails atOnce⟩
  · exact ⟨exec_of_deferred (isCommand_unload q) fails deferred, exec_of_deferred (isCommand_attach q) fails deferred,
      exec_of_deferred (isCommand_detach q) fails deferred, exec_of_deferred (isCommand_put q) fails deferred,
      exec_of_deferred (isCommand_get q) fails deferred, exec_of_deferred (isCommand_alloc q) fails deferred,
      exec_of_deferred (isCommand_free q) fails deferred, exec_of_deferred (isCommand_adopt q) fails deferred,
      fun k => exec_of_deferred (isCommand_load q k) fails deferred⟩

end Sys2Proof.Machine
end

section
/-! The proof of O40: the commands of a queue that change pages, streams, peers and packages of a context. -/

namespace Sys2Proof.Machine

/-! ## ALLOC and FREE (R109, R212, R213) -/

section
variable {s : State} {q : QueueId} {i : Item}

/-- The pages that an ALLOC asks for: their number and the rights of their entries. -/
def Item.askedPages (i : Item) : Nat := fld i.entry 16 4
def Item.askedEntry (i : Item) : Entry :=
  ctxEntry i.context ((fld i.entry 20 1).testBit 0) ((fld i.entry 20 1).testBit 1) ((fld i.entry 20 1).testBit 2)
    ((fld i.entry 20 1).testBit 3)

section
variable (up : TakesUp s q 11 i)
include up

theorem exec_alloc_of_busy (busy : s.ctxStill i.context = false) : exec (.alloc q) s = .next (settle s (s.thenNext q)) := by
  show execAlloc q s = _
  rw [execAlloc, command_takesUp up]
  simp only [busy, Bool.not_false, if_true, done]

variable (still : s.ctxStill i.context = true)
include still

theorem exec_alloc_of_full (full : s.alloc i.askedPages i.askedEntry = none) :
    exec (.alloc q) s = .next (settle s ((s.finish q i.seq (Finish.plain St.resourceOverflow)).thenNext q)) := by
  unfold Item.askedPages Item.askedEntry at full
  show execAlloc q s = _
  rw [execAlloc, command_takesUp up]
  simp only [still, Bool.not_true, Bool.false_eq_true, if_false, full, done]

theorem exec_alloc_of_room {p : Nat} {t : State} (room : s.alloc i.askedPages i.askedEntry = some (p, t)) :
    exec (.alloc q) s = .next (settle s ((((t.modCtx i.context (fun x => { x with
      allocs := x.allocs ++ [(p, fld i.entry 16 4)] })).modItem q i.seq (fun j =>
        { j with digest := BitVec.ofNat 64 (p * pageBytes) })).finish q i.seq (Finish.plain St.ok)).thenNext q)) := by
  unfold Item.askedPages Item.askedEntry at room
  show execAlloc q s = _
  rw [execAlloc, command_takesUp up]
  simp only [still, Bool.not_true, Bool.false_eq_true, if_false, room, done]

end

section
variable (up : TakesUp s q 12 i)
include up

theorem exec_free_of_busy (busy : s.ctxStill i.context = false) : exec (.free q) s = .next (settle s (s.thenNext q)) := by
  show execFree q s = _
  rw [execFree, command_takesUp up]
  simp only [busy, Bool.not_false, if_true, done]

theorem exec_free_of_still (still : s.ctxStill i.context = true) : exec (.free q) s =
    .next (settle s ((((s.freePages (fld i.entry 24 8 / pageBytes) (fld i.entry 16 4)).modCtx i.context (fun x =>
      { x with allocs := cutRuns x.allocs (fld i.entry 24 8 / pageBytes) (fld i.entry 16 4) })).finish q i.seq
        (Finish.plain St.ok)).thenNext q)) := by
  show execFree q s = _
  rw [execFree, command_takesUp up]
  simp only [still, Bool.not_true, Bool.false_eq_true, if_false, done]

end

/-! ## ADOPT (R266) -/

section
variable (up : TakesUp s q 13 i)

/-- The key and the value of the weight set that an ADOPT brings. -/
def Item.weightSet (i : Item) : Nat := weightKey i.context (fld i.entry 20 1)
def State.weightVal (s : State) (i : Item) : Val := .blob (s.readBytes (fld i.entry 24 8) (fld i.entry 16 4))

include up

theorem exec_adopt_of_full (full : s.setFull i.weightSet = true) :
    exec (.adopt q) s = .next (settle s ((s.finish q i.seq (Finish.plain St.busy)).thenNext q)) := by
  unfold Item.weightSet at full
  show execAdopt q s = _
  rw [execAdopt, command_takesUp up]
  simp only [full, if_true, done]

theorem exec_adopt_of_closed (closed : s.work.openSet = none) : exec (.adopt q) s =
    .next (settle s (((s.commitEpoch [(i.weightSet, s.weightVal i)]).finish q i.seq (Finish.plain St.ok)).thenNext q)) := by
  have room : s.setFull (weightKey i.context (fld i.entry 20 1)) = false := by simp [State.setFull, closed]
  show execAdopt q s = _
  rw [execAdopt, command_takesUp up]
  simp only [room, closed, Bool.false_eq_true, if_false, done]
  rfl

theorem exec_adopt_of_open {l : List (Nat × Val)} (isOpen : s.work.openSet = some l) (room : s.setFull i.weightSet = false) :
    exec (.adopt q) s = .next (settle s ((({ s with work := { s.work with
      openSet := some (tput l i.weightSet (s.weightVal i)) } } : State).finish q i.seq (Finish.plain St.ok)).thenNext q)) := by
  unfold Item.weightSet at room
  show execAdopt q s = _
  rw [execAdopt, command_takesUp up]
  simp only [room, isOpen, Bool.false_eq_true, if_false, done]
  rfl

end

/-! ## ATTACH and DETACH (R301) -/

section
variable (up : TakesUp s q 4 i)
include up

theorem exec_attach_of_busy (busy : (s.stream (fld i.entry 16 1)).sets.isSome = true ∨ s.ctxStill i.context = false) :
    exec (.attach q) s = .next (settle s (s.thenNext q)) := by
  have waits : ((s.stream (fld i.entry 16 1)).sets.isSome || !s.ctxStill i.context) = true := by simpa using busy
  show execAttach q s = _
  rw [execAttach, command_takesUp up]
  simp only [waits, if_true, done]

variable (noSets : (s.stream (fld i.entry 16 1)).sets = none) (still : s.ctxStill i.context = true)
include noSets still

theorem exec_attach_of_full
    (full : s.takeSets (fld i.entry 16 1) i.context (s.num Obj.srcEnable (fld i.entry 16 1) == 1) = none) :
    exec (.attach q) s = .next (settle s ((s.finish q i.seq (Finish.plain St.resourceOverflow)).thenNext q)) := by
  show execAttach q s = _
  rw [execAttach, command_takesUp up]
  simp only [noSets, still, full, Option.isSome_none, Bool.not_true, Bool.or_self, Bool.false_eq_true, if_false, done]

theorem exec_attach_of_room {t : State}
    (room : s.takeSets (fld i.entry 16 1) i.context (s.num Obj.srcEnable (fld i.entry 16 1) == 1) = some t) :
    exec (.attach q) s = .next (settle s (((t.modStream (fld i.entry 16 1) (fun x => { x with
      attach := some (q.val, i.context, fld i.entry 18 2), lostFrom := none, reason := 2 })).finish q i.seq
        (Finish.plain St.ok)).thenNext q)) := by
  show execAttach q s = _
  rw [execAttach, command_takesUp up]
  simp only [noSets, still, room, Option.isSome_none, Bool.not_true, Bool.or_self, Bool.false_eq_true, if_false, done]

end

section
variable (up : TakesUp s q 5 i)
include up

theorem exec_detach_of_done (finished : (s.detachStream (fld i.entry 16 1)).streamDone (fld i.entry 16 1) = true) :
    exec (.detach q) s = .next (settle s (((s.detachStream (fld i.entry 16 1)).finish q i.seq
      (Finish.plain St.ok)).thenNext q)) := by
  show execDetach q s = _
  rw [execDetach, command_takesUp up]
  simp only [finished, if_true, done]

theorem exec_detach_of_running (running : (s.detachStream (fld i.entry 16 1)).streamDone (fld i.entry 16 1) = false) :
    exec (.detach q) s = .next (settle s (((s.detachStream (fld i.entry 16 1)).begin q i.seq).thenNext q)) := by
  show execDetach q s = _
  rw [execDetach, command_takesUp up]
  simp only [running, Bool.false_eq_true, if_false, done]

end

/-! ## PUT and GET (R228) -/

theorem exec_put (up : TakesUp s q 9 i) : exec (.put q) s = .next (settle s ((s.peerCommand q i false).thenNext q)) :=
  congrArg (done s) (command_takesUp up (fun s i => s.peerCommand q i false))

theorem exec_get (up : TakesUp s q 10 i) : exec (.get q) s = .next (settle s ((s.peerCommand q i true).thenNext q)) :=
  congrArg (done s) (command_takesUp up (fun s i => s.peerCommand q i true))

end

section
variable {s : State} (q : Nat) {i : Item} {get : Bool}

theorem peerCommand_of_noRights (rights : s.ctxRights i.context get (fld i.entry 24 8) (fld i.entry 40 4) = false) :
    s.peerCommand q i get = s.finish q i.seq (Finish.plain St.pageRights) := by
  simp [State.peerCommand, rights]

variable (rights : s.ctxRights i.context get (fld i.entry 24 8) (fld i.entry 40 4) = true)
include rights

theorem peerCommand_of_down (down : ¬ (s.peerOn (fld i.entry 16 1) = true ∧ s.num Obj.peerState (fld i.entry 16 1) ≠ 2)) :
    s.peerCommand q i get = s.finish q i.seq (Finish.plain St.unavailable) := by
  have noPeer : (!s.peerOn (fld i.entry 16 1) || s.num Obj.peerState (fld i.entry 16 1) == 2) = true := by
    simpa [Decidable.imp_iff_not_or] using down
  simp only [State.peerCommand, rights, noPeer, Bool.not_true, Bool.false_eq_true, if_false, if_true]

variable (up : s.peerOn (fld i.entry 16 1) = true ∧ s.num Obj.peerState (fld i.entry 16 1) ≠ 2)
include up

theorem peerCommand_of_full (full : ¬ ((s.peer (fld i.entry 16 1)).xfers.length < 16 ∧ s.inFlight < 64)) :
    s.peerCommand q i get = s := by
  have waits : (decide (16 ≤ (s.peer (fld i.entry 16 1)).xfers.length) || decide (64 ≤ s.inFlight)) = true := by
    rw [Bool.or_eq_true, decide_eq_true_eq, decide_eq_true_eq]
    omega
  have isUp : (!s.peerOn (fld i.entry 16 1) || s.num Obj.peerState (fld i.entry 16 1) == 2) = false := by simpa using up
  simp only [State.peerCommand, rights, isUp, waits, Bool.not_true, Bool.false_eq_true, if_false, if_true]

theorem peerCommand_of_room (room : (s.peer (fld i.entry 16 1)).xfers.length < 16 ∧ s.inFlight < 64) :
    s.peerCommand q i get = (s.begin q i.seq).beginXfer (fld i.entry 16 1) q i.seq (fld i.entry 24 8) (fld i.entry 32 8)
      (fld i.entry 40 4) get := by
  have goes : (decide (16 ≤ (s.peer (fld i.entry 16 1)).xfers.length) || decide (64 ≤ s.inFlight)) = false := by
    rw [Bool.or_eq_false_iff, decide_eq_false_iff_not, decide_eq_false_iff_not]
    omega
  have isUp : (!s.peerOn (fld i.entry 16 1) || s.num Obj.peerState (fld i.entry 16 1) == 2) = false := by simpa using up
  simp only [State.peerCommand, rights, isUp, goes, Bool.not_true, Bool.false_eq_true, if_false]

end

/-! ## LOAD and UNLOAD (R136, R137, R239) -/

section
variable {s : State} {q : QueueId} {i : Item} {k : Package}

theorem exec_load_of_rejected {code : Nat} {r : Reject} (up : TakesUp s q 2 i)
    (rejected : pkgVerify k i.context = some (code, r)) : exec (.load q k) s =
      .next (settle s ((((s.setBlob Obj.verifyLast 0 (s.rejectRecord i.context code r)).count Obj.verifyRejects).failLoad q
        i.seq i.context St.verifyReject (some (s.rejectRecord i.context code r))).thenNext q)) := by
  show execLoad q k s = _
  rw [execLoad, command_takesUp up]
  simp only [rejected, done]

theorem exec_load_of_verified (up : TakesUp s q 2 i) (verified : pkgVerify k i.context = none) :
    exec (.load q k) s = .next (settle s ((s.placePackage q i.seq i.context k).thenNext q)) := by
  show execLoad q k s = _
  rw [execLoad, command_takesUp up]
  simp only [verified, done]

theorem placePackage_of_full {c n : Nat} (full : s.alloc k.imagePages (ctxEntry c true true false false) = none) :
    s.placePackage q n c k = s.failLoad q n c St.resourceOverflow none := by
  simp only [State.placePackage, full]

theorem placePackage_of_room {c n a b : Nat} {t u : State}
    (image : s.alloc k.imagePages (ctxEntry c true true false false) = some (a, t))
    (pool : t.alloc (poolPages k) (ctxEntry c true true false false) = some (b, u)) :
    s.placePackage q n c k = (u.modCtx c (fun x => { x with
      state := .loading, byItem := some (q.val, n), pkg := some k, image := some (a, k.imagePages)
      poolAt := some (b, poolPages k) })).begin q n := by
  simp only [State.placePackage, image, pool]

theorem exec_unload (up : TakesUp s q 3 i) : exec (.unload q) s =
    let t := (s.ownedBy i.context).foldl (fun s p => s.freePage p) s
    .next (settle s (((((t.dropHistory i.context).modCtx i.context (fun x => { x with
      state := .unloading, byItem := some (q.val, i.seq), zeroing := x.zeroing ++ s.newZeroing t })).begin q i.seq).endUnload
        i.context).thenNext q)) := by
  show execUnload q s = _
  rw [execUnload, command_takesUp up]
  rfl

theorem endUnload_of_zeroed {d n : Nat} (unloading : (s.ctx d).state = .unloading)
    (byItem : (s.ctx d).byItem = some (q.val, n)) (item : s.item q n = some i) (begun : i.executing = true)
    (runs : s.runs P.scp = true) (zeroed : (s.ctx d).zeroing.any s.awaits = false) :
    s.endUnload d = (s.emptyCtx d).finish q n (Finish.plain St.ok) := by
  simp only [State.endUnload, unloading, byItem, item, begun, runs, zeroed, Bool.not_false, Bool.and_self, if_true]

variable {d : CtxId} {n : Nat} (loading : (s.ctx d).state = .loading) (byItem : (s.ctx d).byItem = some (q.val, n))
  (pkg : (s.ctx d).pkg = some k) (item : s.item q n = some i) (runs : s.runs P.scp = true)
include loading byItem pkg item runs

theorem exec_loadComplete_of_poisoned :
    exec (.loadComplete d .poisoned) s = .next (settle s (s.failLoad q n d St.unavailable none)) := by
  show execLoadComplete d .poisoned s = _
  simp only [execLoadComplete, loading, byItem, pkg, item, runs, Bool.not_true, Bool.false_eq_true, if_false, done]

/-- The context is READY with its pool. -/
def State.ctxReady (s : State) (d : Nat) (k : Package) : State :=
  (s.modCtx d (fun x => { x with state := .ready, byItem := none })).setNum Obj.ctxPool d k.pool

theorem exec_loadComplete_of_read : exec (.loadComplete d .ok) s =
    .next (settle s (((s.ctxReady d k).setBlob Obj.ctxDigest d (pad 64 (Config.sha512
      ((s.ctxReady d k).readBytes (fld i.entry 16 8) (fld i.entry 24 4))))).finish q n (Finish.plain St.ok))) := by
  show execLoadComplete d .ok s = _
  simp only [execLoadComplete, loading, byItem, pkg, item, runs, Bool.not_true, Bool.false_eq_true, if_false, done]
  rfl

end

/-- Settles O40. The structured package of LOAD (notes/assumptions/5.md), the wait of ATTACH for the sets of an earlier
attachment (19.md), the rights of the image's and the pool's pages (20.md) and the key of ADOPT's weight set (21.md) are the
model's choices. -/
theorem contextItems : Obligations.ContextItems := by
  refine ⟨?pages, ?packages⟩
  case pages =>
    intro s q i c ends
    refine ⟨?_, ?_, ?_, ?_, ?_, ?_⟩
    · exact fun up => ⟨exec_alloc_of_busy up, exec_alloc_of_full up, fun p t still => exec_alloc_of_room up still⟩
    · exact fun up => ⟨exec_free_of_busy up, exec_free_of_still up⟩
    · exact fun up => ⟨exec_adopt_of_full up, exec_adopt_of_closed up, fun l => exec_adopt_of_open up⟩
    · exact fun up => ⟨exec_attach_of_busy up, exec_attach_of_full up, fun t noSets still => exec_attach_of_room up noSets still⟩
    · exact fun up => ⟨exec_detach_of_done up, exec_detach_of_running up⟩
    · intro p a len room t up
      refine ⟨fun put => ⟨fun rights => ?_, fun rights down => ?_, fun rights up full => ?_, fun rights up room => ?_⟩,
        fun get => ⟨fun rights => ?_, fun rights down => ?_, fun rights up full => ?_, fun rights up room => ?_⟩⟩
      · rw [exec_put put, peerCommand_of_noRights q rights]
      · rw [exec_put put, peerCommand_of_down q rights down]
      · rw [exec_put put, peerCommand_of_full q rights up full]
      · rw [exec_put put, peerCommand_of_room q rights up room]
      · rw [exec_get get, peerCommand_of_noRights q rights]
      · rw [exec_get get, peerCommand_of_down q rights down]
      · rw [exec_get get, peerCommand_of_full q rights up full]
      · rw [exec_get get, peerCommand_of_room q rights up room]
  case packages =>
    intro s q i k c
    refine ⟨fun up => ⟨fun code r => exec_load_of_rejected up, fun verified full => ?_, fun a t b u verified image pool => ?_⟩,
      exec_unload, fun d n => endUnload_of_zeroed, fun d n loading byItem pkg item runs =>
        ⟨exec_loadComplete_of_poisoned loading byItem pkg item runs, exec_loadComplete_of_read loading byItem pkg item runs⟩⟩
    · rw [exec_load_of_verified up verified, placePackage_of_full full]
      rfl
    · rw [exec_load_of_verified up verified, placePackage_of_room image pool]

end Sys2Proof.Machine
end

section
/-! The proof of O41: readiness and dispatch of jobs, segment boundaries and ends. -/

namespace Sys2Proof.Machine

/-! ## RUN (R45, R237) -/

section
variable {s : State} {q : QueueId} {i : Item}

theorem exec_run_of_job (noRow : s.nextRow q = none) (up : TakesUp s q 1 i) (single : i.batched = false) :
    exec (.run q) s = .next (settle s ((s.modItem q i.seq (fun i => { i with ready := true })).thenNext q)) := by
  show execRun q s = _
  simp only [execRun, noRow]
  rw [command_takesUp up]
  simp only [single, Bool.false_eq_true, if_false, done]

theorem exec_run_of_row (row : s.nextRow q = some i) (runs : s.runs P.scp = true) (replayed : s.work.replayDone = true)
    (goes : (s.queue q).halted = false) (holds : s.holdsFor q i = true) :
    exec (.run q) s = .next (settle s (s.pendRow q i.seq i.context)) := by
  show execRun q s = _
  simp only [execRun, row, runs, replayed, goes, holds, Bool.not_true, Bool.and_false, Bool.or_self, Bool.false_eq_true, if_false,
    if_true, done]

end

/-! ## JOB_DISPATCH (R237, R248, R420) -/

theorem tryDispatch_of_best {n k : Nat} {l : List Cand} {s t : State} {c : Cand} (first : best l = some c)
    (buffer : s.dispatch n c = some t) : State.tryDispatch n (k + 1) l s = t := by
  simp only [State.tryDispatch, first, buffer]

section
variable {s : State} {n : SliceId} (serves : s.inService n = true) (free : (s.slice n).run = none)
include serves free

theorem exec_jobDispatch_of_best {c : Cand} {t : State} (first : best (s.candidates n) = some c)
    (buffer : (s.endDummy n).dispatch n c = some t) : exec (.jobDispatch n) s = .next (settle s t.buildGraph) := by
  show execJobDispatch n s = _
  simp only [execJobDispatch, serves, free, Option.isSome_none, Bool.not_true, Bool.or_self, Bool.false_eq_true, if_false]
  cases cands : s.candidates n with
  | nil =>
    rw [cands] at first
    cases first
  | cons d l =>
    rw [cands] at first
    simp only [List.isEmpty_cons, Bool.false_eq_true, if_false, List.length_cons, tryDispatch_of_best first buffer, done]

theorem exec_jobDispatch_of_none (none_ : s.candidates n = []) : exec (.jobDispatch n) s = .next (settle s s.buildGraph) := by
  show execJobDispatch n s = _
  simp only [execJobDispatch, serves, free, none_, Option.isSome_none, Bool.not_true, Bool.or_self, Bool.false_eq_true, if_false,
    List.isEmpty_nil, if_true, List.length_nil, State.tryDispatch, done]

end

/-! ## BE_SEGMENT_BOUNDARY (R238, R427) -/

section
variable {s : State} {n : SliceId} {r : Run} {i : Item} (running : (s.slice n).run = some r) (bestEffort : r.klass = 2)
  (halted : (s.slice n).seq.halted = true) (more : r.programs ≠ []) (runs : s.runs P.scp = true)
  (item : s.item r.queue r.seq = some i)
include running bestEffort halted more runs item

/-- A best-effort job on slice n makes way at a segment boundary. -/
def State.yields (s : State) (n : Nat) : Bool :=
  (s.readyFor n).any (fun c => decide (c.item.prio < 2)) || s.work.shedding || !s.work.idlePend.isEmpty

theorem exec_beSegmentBoundary : exec (.beSegmentBoundary n) s =
    if s.yields n then .next (settle s (r.items.foldl (fun t j => t.modItem j.1 j.2 (fun i => { i with
      slice := none, segment := segmentsDone r, left := some r.programs, bundles := (s.slice n).seq.issued }))
        (s.discard n .idle)))
    else .next (s.nextProgram n) := by
  have left : r.programs.isEmpty = false := by simpa using more
  show execBeSegmentBoundary n s = _
  simp only [execBeSegmentBoundary, running, bestEffort, halted, left, runs, item, bne_self_eq_false, Bool.not_true, Bool.or_self,
    Bool.false_eq_true, if_false, done]
  rfl

end

theorem yields_iff (s : State) (n : Nat) : s.yields n = true ↔
    (∃ c ∈ s.readyFor n, c.item.prio < 2) ∨ s.work.shedding = true ∨ s.work.idlePend ≠ [] := by
  simp [State.yields, or_assoc]

/-! ## JOB_END (R249, R283, R284, R400) -/

/-- The run r on slice n has reached its end. -/
def State.runEnded (s : State) (n : Nat) (r : Run) : Prop :=
  (s.slice n).seq.halted = true ∧ r.programs = [] ∧ s.tasksOver n = true ∧ (s.slice n).quiet = true ∧ s.runs P.scp = true

/-- The digests of a run stand in its result buffers, and its slice is free. -/
def State.runDelivered (s : State) (n : Nat) (r : Run) (seq : Nat) (o : JobOut) : State :=
  (r.items.foldl (fun t j => t.fillBuffer ((s.flush n).layersOf r.queue seq) j.1 j.2 o.len) (s.flush n)).discard n .idle

/-- The items of a run are DONE with its outcome and their share of its energy. -/
def State.runFinished (t : State) (r : Run) (o : JobOut) : State :=
  r.items.foldl (fun t j => t.modItem j.1 j.2 (fun x => { x with
    energy := min 0xFFFFFFFF (x.spent + o.energyUj / r.items.length) }))
    (r.items.foldl (fun t j => t.finish j.1 j.2 r.outcome) t)

/-- The statistics held with a run's job are dropped. -/
def State.statsDropped (t : State) (r : Run) : State :=
  { t with work := { t.work with heldStats := t.work.heldStats.filter (fun h => !(h.queue == r.queue && h.seq == r.seq)) } }

section
variable {s : State} {n : SliceId} {o : JobOut} {r : Run} (running : (s.slice n).run = some r)
include running

theorem exec_jobEnd_of_running (goesOn : ¬ s.runEnded n r) : exec (.jobEnd n o) s = .next s := by
  have notYet : (!(s.slice n).seq.halted || !r.programs.isEmpty || !s.tasksOver n || !(s.slice n).quiet || !s.runs P.scp)
      = true := by
    refine Bool.of_not_eq_false fun ended => goesOn ?_
    simp only [Bool.or_eq_false_iff, Bool.not_eq_false', List.isEmpty_iff, and_assoc] at ended
    exact ended
  show execJobEnd n o s = _
  simp only [execJobEnd, running, notYet, if_true]

variable {i : Item} (ended : s.runEnded n r) (item : s.item r.queue r.seq = some i)
include ended item

/-- What JOB_END makes of a run that has ended, before the counts of the disagreement policy. -/
theorem exec_jobEnd_of_ended : exec (.jobEnd n o) s =
    let t := (s.runDelivered n r i.seq o).runFinished r o
    let t := if r.fail.isSome then t.statsDropped r else t
    .next (settle s (match r.recompute, r.fail with
      | some (m, k), none => ((t.count Obj.transients m).mismatchEvent m r.stream 2 0 r.job n).strike m k 1
      | _, _ => t).buildGraph) := by
  obtain ⟨halted, programs, tasks, quiet, runs⟩ := ended
  show execJobEnd n o s = _
  simp only [execJobEnd, running, halted, programs, tasks, quiet, runs, item, List.isEmpty_nil, Bool.not_true, Bool.or_self,
    Bool.false_eq_true, if_false, done]
  rfl

theorem exec_jobEnd_of_plain (noFail : r.fail = none) (first : r.recompute = none) : exec (.jobEnd n o) s =
    .next (settle s ((s.runDelivered n r i.seq o).runFinished r o).buildGraph) := by
  rw [exec_jobEnd_of_ended running ended item]
  simp only [noFail, first, Option.isSome_none, Bool.false_eq_true, if_false]

theorem exec_jobEnd_of_failed (failed : r.fail.isSome = true) : exec (.jobEnd n o) s =
    .next (settle s (((s.runDelivered n r i.seq o).runFinished r o).statsDropped r).buildGraph) := by
  obtain ⟨f, fail⟩ := Option.isSome_iff_exists.mp failed
  rw [exec_jobEnd_of_ended running ended item]
  simp only [fail, Option.isSome_some, if_true]
  cases r.recompute <;> rfl

theorem exec_jobEnd_of_transient {m k : Nat} (noFail : r.fail = none) (again : r.recompute = some (m, k)) :
    exec (.jobEnd n o) s = .next (settle s (((((s.runDelivered n r i.seq o).runFinished r o).count Obj.transients
      m).mismatchEvent m r.stream 2 0 r.job n).strike m k 1).buildGraph) := by
  rw [exec_jobEnd_of_ended running ended item]
  simp only [noFail, again, Option.isSome_none, Bool.false_eq_true, if_false]

end

/-- Settles O41. That a best-effort job also yields to an IDLE change (notes/assumptions/22.md), that RUN makes its item ready
(23.md), and how a run's energy is divided among its rows (54.md) are the model's choices. -/
theorem jobsRun : Obligations.JobsRun := by
  refine ⟨⟨fun s q i => exec_run_of_job, fun s q i => exec_run_of_row, fun s n serves free =>
    ⟨fun c t => exec_jobDispatch_of_best serves free, exec_jobDispatch_of_none serves free⟩, best_min, ?boundary⟩, ?ends⟩
  case boundary =>
    intro s n r i running bestEffort halted more runs item yields
    have boundary := exec_beSegmentBoundary running bestEffort halted more runs item
    refine ⟨fun yes => ?_, fun no => ?_⟩
    · rw [boundary, if_pos ((yields_iff s n).mpr yes)]
    · rw [boundary, if_neg (fun y => no ((yields_iff s n).mp y))]
  case ends =>
    intro s n o r running ended
    refine ⟨exec_jobEnd_of_running running, fun i isEnd item => ?_⟩
    exact ⟨exec_jobEnd_of_plain running isEnd item, exec_jobEnd_of_failed running isEnd item,
      fun m k => exec_jobEnd_of_transient running isEnd item⟩

end Sys2Proof.Machine
end

section
/-! The proof of O42: completions are posted in order, and the journal is replayed. -/

namespace Sys2Proof.Machine

/-! ## Pages that are freed and taken leave the bytes of memory and the work (R212, R213, R301) -/

/-- Only pages have been freed or taken: the bytes of device memory, the work and QUEUE_LAST_POSTED are the same. -/
structure SameWork (s t : State) : Prop where
  bytes  : t.mem.bytes = s.mem.bytes
  work   : t.work = s.work
  posted : ∀ q, t.num Obj.qLastPosted q = s.num Obj.qLastPosted q

theorem SameWork.refl (s : State) : SameWork s s := ⟨rfl, rfl, fun _ => rfl⟩

theorem SameWork.trans {s t u : State} (a : SameWork s t) (b : SameWork t u) : SameWork s u :=
  ⟨b.bytes.trans a.bytes, b.work.trans a.work, fun q => (b.posted q).trans (a.posted q)⟩

theorem sameWork_of_parts {s t : State} (bytes : t.mem.bytes = s.mem.bytes) (work : t.work = s.work)
    (objs : t.objs = s.objs) : SameWork s t :=
  ⟨bytes, work, fun q => by simp only [State.num, State.val, objs]⟩

theorem sameWork_abandonMig (s : State) (n : Nat) : SameWork s (s.abandonMig n) := by
  have counted : ∀ t : State, SameWork t (t.count Obj.migAbandoned) := fun t =>
    ⟨rfl, rfl, fun q => State.count_num_other t _ _ _ _ _ (by simp [ObjRow.key, Obj.migAbandoned, Obj.qLastPosted]; omega)⟩
  unfold State.abandonMig
  split
  · exact SameWork.refl s
  · dsimp only
    split
    all_goals
      refine SameWork.trans ?_ (counted _)
      exact sameWork_of_parts rfl rfl rfl

theorem sameWork_freePage (s : State) (n : Nat) : SameWork s (s.freePage n) := by
  refine (sameWork_abandonMig s n).trans ?_
  unfold State.freePage
  dsimp only
  split <;> split <;> exact sameWork_of_parts rfl rfl rfl

theorem sameWork_freePages (k : Nat) : ∀ (s : State) (n : Nat), SameWork s (s.freePages n k) := by
  induction k with
  | zero => exact fun s n => SameWork.refl s
  | succ k ih => exact fun s n => (sameWork_freePage s n).trans (ih _ _)

theorem sameWork_placePage {s t : State} {n : Nat} {e : Entry} (placed : s.placePage n e = some t) : SameWork s t := by
  unfold State.placePage at placed
  split at placed
  · cases placed
  · dsimp only at placed
    split at placed
    · cases placed
      exact sameWork_of_parts rfl rfl rfl
    · split at placed
      · cases placed
      · cases placed
        exact sameWork_of_parts rfl rfl rfl

theorem sameWork_placePages (e : Entry) (k : Nat) : ∀ {s t : State} {n : Nat}, s.placePages e n k = some t → SameWork s t := by
  induction k with
  | zero =>
    intro s t n placed
    cases placed
    exact SameWork.refl s
  | succ k ih =>
    intro s t n placed
    unfold State.placePages at placed
    split at placed
    · cases placed
    · next first => exact (sameWork_placePage first).trans (ih placed)

theorem sameWork_alloc {s t : State} {n p : Nat} {e : Entry} (room : s.alloc n e = some (p, t)) : SameWork s t := by
  unfold State.alloc at room
  obtain ⟨-, room⟩ := Option.ite_none_left_eq_some.mp room
  split at room
  · cases room
  · simp only [Option.map_eq_some_iff, Prod.mk.injEq] at room
    obtain ⟨u, placed, -, rfl⟩ := room
    exact sameWork_placePages e _ placed

theorem sameWork_takeSets {s t : State} {n c : Nat} {src : Bool} (taken : s.takeSets n c src = some t) : SameWork s t := by
  unfold State.takeSets at taken
  dsimp only at taken
  split at taken
  · cases taken
  · next room =>
    cases taken
    exact (sameWork_alloc room).trans (sameWork_of_parts rfl rfl rfl)

theorem sameWork_dropSets (s : State) (n : Nat) : SameWork s (s.dropSets n) := by
  unfold State.dropSets
  split
  · exact (sameWork_freePages _ s _).trans (sameWork_of_parts rfl rfl rfl)
  · exact SameWork.refl s

theorem sameWork_reclaimSets (s : State) (n : Nat) : SameWork s (s.reclaimSets n) := by
  unfold State.reclaimSets
  dsimp only
  split
  · exact SameWork.refl s
  · split
    · exact SameWork.refl s
    · split
      · exact sameWork_dropSets s n
      · next c _ _ =>
        refine SameWork.trans (t := ((s.dropSets n).takeSets n c true).getD s) ?_ (sameWork_of_parts rfl rfl rfl)
        cases taken : (s.dropSets n).takeSets n c true with
        | none => exact SameWork.refl s
        | some t => exact (sameWork_dropSets s n).trans (sameWork_takeSets taken)

theorem sameWork_freeSet (s : State) (n : Nat) (set : Option Nat) : SameWork s (s.freeSet n set) := by
  unfold State.freeSet
  split
  · exact SameWork.refl s
  · refine SameWork.trans ?_ (sameWork_reclaimSets _ n)
    exact sameWork_of_parts rfl rfl rfl

/-! ## Writes of the journal (R254) -/

theorem writeBytes_shares (s : State) (c : Nat) (v : Bytes) (a b : Nat) : (s.writeBytes c v).shares a b ↔ s.shares a b := by
  unfold State.shares
  rw [State.writeBytes_places, State.writeBytes_entry]

theorem sealed_length {b : Bytes} (block : b.length = 60) : (sealed b).length = 64 := by
  unfold sealed
  rw [List.length_append, block, le_length]

theorem record_length (i : Item) (boot q : Nat) : (i.record boot q).length = 60 := by
  simp only [Item.record, List.length_append, le_length]

/-- Address x is not among the cells of the journal record of item n of queue q. -/
def State.clearOf (s : State) (q n x : Nat) : Prop := ∀ b, s.recordAt q n = some b → ∀ j < 64, ¬ s.shares x (b + j)

theorem readByte_writeBlock_other {s : State} {a x : Nat} {b : Bytes} (block : b.length = 64)
    (clear : ∀ j < 64, ¬ s.shares x (a + j)) : (s.writeBlock a b).readByte x = s.readByte x :=
  State.readByte_writeBytes_other b s x a (by rwa [block])

theorem readByte_journal_other {s : State} {q n x : Nat} {b : Bytes} (block : b.length = 60) (clear : s.clearOf q n x) :
    (s.journal q n b).readByte x = s.readByte x := by
  unfold State.journal
  split
  · next a at_ => exact readByte_writeBlock_other (sealed_length block) (clear a at_)
  · rfl

/-- The record of an item stands where it stood, whatever the items of its queue hold. -/
theorem itemSet_clearOf {s : State} {q n x : Nat} {f : Item → Item} (clear : s.clearOf q n x) :
    (s.itemSet q n f).clearOf q n x := by
  have same : (s.itemSet q n f).recordAt q n = s.recordAt q n := by
    unfold State.recordAt State.itemSet
    rw [State.modQueue_queue]
    rfl
  intro b at_ j small
  exact clear b (same ▸ at_) j small

theorem readByte_modItem_other {s : State} {q n x : Nat} {f : Item → Item} (clear : s.clearOf q n x) :
    (s.modItem q n f).readByte x = s.readByte x := by
  unfold State.modItem
  dsimp only
  split
  · rfl
  · split
    · rfl
    · exact (readByte_journal_other (record_length _ _ _) (itemSet_clearOf clear)).trans rfl

/-! ## COMPLETION_POST (R250, R251) -/

/-- Device address of the completion slot of item i in the pages from p on. -/
def State.slotAt (s : State) (q p : Nat) (i : Item) : Nat := p * pageBytes + 64 * ((i.seq - 1) % s.num Obj.qDepth q)

/-- The PHASE of item i's completion. -/
def State.phaseOf (s : State) (q : Nat) (i : Item) : Nat := 1 - (i.seq - 1) / s.num Obj.qDepth q % 2

/-- The completion of item i stands at its slot. -/
def State.completed (s : State) (q p : Nat) (i : Item) : State :=
  s.writeBytes (s.slotAt q p i) (i.completion (s.phaseOf q i))

/-- The item is POSTED in its queue and in its record. -/
def State.postedItem (s : State) (q : Nat) (i : Item) : State := s.modItem q i.seq (fun j => { j with state := .posted })

/-- The state after the post of item i. -/
def State.posted (s : State) (q p : Nat) (i : Item) : State := ((s.completed q p i).markPosted q i).noteChange (some q)

section
variable {s : State} {q : QueueId} {i : Item} {p k : Nat} (runs : s.runs P.scp = true) (replayed : s.work.replayDone = true)
  (oldest : (s.queue q).items.find? (fun i => i.state != .posted) = some i) (ring : (s.queue q).cqPages = some (p, k))
include runs replayed oldest ring

theorem exec_completionPost : exec (.completionPost q) s =
    .next (if i.state != .done then s else s.posted q p i) := by
  have slot : s.cqSlot q i.seq = some (s.slotAt q p i) := by
    simp only [State.cqSlot, ring, Option.map_some, State.slotAt]
  show execCompletionPost q s = _
  simp only [execCompletionPost, runs, replayed, Bool.not_true, Bool.or_self, Bool.false_eq_true, if_false, State.postHead, oldest,
    ring, slot]
  rfl

end

section
variable (s : State) (q p : Nat) (i : Item)

/-- Past the change of the item, its post frees an output set and counts statistics. -/
theorem markPosted_eq (t : State) : t.markPosted q i = (match i.stream with
    | some m => (((t.postedItem q i).setNum Obj.qLastPosted q (max i.seq ((t.postedItem q i).num Obj.qLastPosted q))).freeSet m
        i.set)
    | none => (t.postedItem q i).setNum Obj.qLastPosted q (max i.seq ((t.postedItem q i).num Obj.qLastPosted q))).countStats
      q i := rfl

/-- After the post all is as after the change of the item, but for pages freed or taken, statistics and the last item
posted. -/
theorem posted_parts : (s.posted q p i).mem.bytes = ((s.completed q p i).postedItem q i).mem.bytes ∧
    (s.posted q p i).queue q = ((s.completed q p i).postedItem q i).queue q ∧
    (s.posted q p i).num Obj.qLastPosted q = max i.seq (s.num Obj.qLastPosted q) := by
  have last : ((s.completed q p i).postedItem q i).num Obj.qLastPosted q = s.num Obj.qLastPosted q := by
    rw [State.postedItem, State.modItem_num, State.completed, State.writeBytes_num]
  generalize hu : (s.completed q p i).postedItem q i = u at last ⊢
  obtain ⟨v, same, post⟩ : ∃ v, SameWork (u.setNum Obj.qLastPosted q (max i.seq (s.num Obj.qLastPosted q))) v ∧
      s.posted q p i = (v.countStats q i).noteChange (some q) := by
    unfold State.posted
    rw [markPosted_eq, hu, last]
    cases i.stream with
    | none => exact ⟨_, SameWork.refl _, rfl⟩
    | some m => exact ⟨_, sameWork_freeSet _ m i.set, rfl⟩
  rw [post]
  refine ⟨same.bytes, ?_, ?_⟩
  · show v.queue q = u.queue q
    unfold State.queue
    rw [same.work]
    rfl
  · show v.num Obj.qLastPosted q = _
    rw [same.posted, State.setNum_num]

/-- A byte read from a page whose entry stays is that of the state after the change of the item. -/
theorem posted_readByte {x : Nat} (entry : (s.posted q p i).entry (x / pageBytes) = s.entry (x / pageBytes)) :
    (s.posted q p i).readByte x = ((s.completed q p i).postedItem q i).readByte x := by
  have entries : ((s.completed q p i).postedItem q i).entry (x / pageBytes) = s.entry (x / pageBytes) := by
    rw [State.postedItem, State.modItem_entry, State.completed, State.writeBytes_entry]
  unfold State.readByte
  rw [entry, entries, (posted_parts s q p i).1]

/-- The record of the item stands where it stood. -/
theorem completed_clearOf {x : Nat} (clear : s.clearOf q i.seq x) : (s.completed q p i).clearOf q i.seq x := by
  have same : (s.completed q p i).recordAt q i.seq = s.recordAt q i.seq := by
    unfold State.recordAt State.completed
    rw [State.writeBytes_work, State.writeBytes_queue, State.writeBytes_num]
  intro b at_ j small shared
  exact clear b (same ▸ at_) j small ((writeBytes_shares _ _ _ _ _).mp shared)

theorem posted_readByte_other {x : Nat} (slot : ∀ j < 64, ¬ s.shares x (s.slotAt q p i + j)) (clear : s.clearOf q i.seq x)
    (entry : (s.posted q p i).entry (x / pageBytes) = s.entry (x / pageBytes)) :
    (s.posted q p i).readByte x = s.readByte x := by
  rw [posted_readByte s q p i entry, State.postedItem, readByte_modItem_other (completed_clearOf s q p i clear)]
  exact State.readByte_writeBytes_other _ s x _ (by rwa [completion_length])

theorem posted_readBytes (wf : Memory.wf s.mem.bytes = true)
    (backed : ∀ j < 64, (s.entry ((s.slotAt q p i + j) / pageBytes)).backed = true)
    (clear : ∀ b, s.recordAt q i.seq = some b → ∀ k < 64, ∀ j < 64, ¬ s.shares (s.slotAt q p i + k) (b + j))
    (entries : ∀ j < 64, (s.posted q p i).entry ((s.slotAt q p i + j) / pageBytes) =
      s.entry ((s.slotAt q p i + j) / pageBytes)) :
    (s.posted q p i).readBytes (s.slotAt q p i) 64 = i.completion (s.phaseOf q i) := by
  have written := State.readBytes_writeBytes_same (i.completion (s.phaseOf q i)) s (s.slotAt q p i) wf
    (by rw [completion_length]; decide) (by rwa [completion_length])
  rw [completion_length] at written
  refine Eq.trans ?_ written
  refine List.map_congr_left (fun j mem => ?_)
  have small := List.mem_range.mp mem
  rw [posted_readByte s q p i (entries j small), State.postedItem,
    readByte_modItem_other (completed_clearOf s q p i (fun b at_ => clear b at_ j small))]
  rfl

theorem posted_state (j : Item) (mem : j ∈ ((s.posted q p i).queue q).items) (seq : j.seq = i.seq) : j.state = .posted := by
  rw [(posted_parts s q p i).2.1, State.postedItem, State.modItem_queue] at mem
  obtain ⟨k, -, rfl⟩ := List.mem_map.mp mem
  split
  · rfl
  · next other =>
    rw [if_neg other] at seq
    exact absurd (by simpa using seq) other

end

/-! ## The records of the journal (R256, R257) -/

section
variable (s : State) (q p r m : Nat) {i : Item}

theorem replayRec_of_posted (posted : i.state = .posted) : State.replayRec q (p, r, m, s) i = (p, r, m, s) := by
  simp only [State.replayRec, posted]

theorem replayRec_of_inRing (isDone : i.state = .done) (inRing : s.inRing q i = true) :
    State.replayRec q (p, r, m, s) i = (p, r, m + 1, s.markPosted q i) := by
  simp only [State.replayRec, isDone, inRing, if_true]

theorem replayRec_of_done (isDone : i.state = .done) (notYet : s.inRing q i = false) :
    State.replayRec q (p, r, m, s) i = (p + 1, r, m, s) := by
  simp only [State.replayRec, isDone, notYet, Bool.false_eq_true, if_false]

theorem replayRec_of_again (again : i.state = .accepted ∨ (i.state = .dispatched ∧ i.runs < 3)) :
    State.replayRec q (p, r, m, s) i = (p, r + 1, m, s.replayItem q i) := by
  have runsAgain : ¬ (i.state = .dispatched ∧ 3 ≤ i.runs) := by
    rintro ⟨dispatched, three⟩
    rcases again with accepted | ⟨-, few⟩
    · rw [dispatched] at accepted
      cases accepted
    · omega
  have notDone : (match (s.replayItem q i).item q i.seq with | some j => j.isDone | none => false) = false := by
    cases found : (s.replayItem q i).item q i.seq with
    | none => rfl
    | some j =>
      have seq : j.seq = i.seq := by simpa using List.find?_some found
      obtain ⟨accepted, -⟩ := replayItem_items s q i j runsAgain (List.mem_of_find?_eq_some found) seq
      simp [Item.isDone, accepted]
  rcases again with state | ⟨state, -⟩ <;>
  · simp only [State.replayRec, state]
    exact if_neg (Bool.eq_false_iff.mp notDone)

theorem replayItem_of_third (dispatched : i.state = .dispatched) (three : 3 ≤ i.runs) :
    s.replayItem q i = (s.unload i).finish q i.seq (Finish.plain St.unavailable) := by
  simp [State.replayItem, dispatched, three]

end

theorem exec_journalReplay {lost : List Nat} {s : State} (closed : s.work.replayDone = false) (runs : s.runs P.scp = true)
    (phase : s.rst.phase = .running ∨ s.rst.phase = .starting) :
    let a := s.queueNums.foldl (fun s q => s.readJournal lost q) s
    let r := a.queueNums.foldl (fun b q => ((b.2.2.2.queue q).items).foldl (State.replayRec q) b) (0, 0, 0, a)
    let t := r.2.2.2.openWork
    let u := t.queueNums.foldl (fun s q => State.postAll q (s.queue q).items.length s) t
    exec (.journalReplay lost) s = .next (settle s ((u.queueNums.foldl (fun s q => s.headWait q) u).postEvent 0x0005 0xFFFF
      (le 4 r.1 ++ le 4 r.2.1 ++ le 4 r.2.2.1))) := by
  have goes : (s.rst.phase == .running || s.rst.phase == .starting) = true := by simpa using phase
  show execJournalReplay lost s = _
  simp only [execJournalReplay, closed, runs, goes, Bool.not_true, Bool.or_self, Bool.false_eq_true, if_false, done]

/-- Settles O42. -/
theorem completionsAndReplays : Obligations.CompletionsAndReplays := by
  refine ⟨?posts, fun lost s closed runs phase => ⟨exec_journalReplay closed runs phase, rfl⟩, ?records⟩
  case posts =>
    intro s q i p k runs replayed oldest ring a ph t
    have post := exec_completionPost runs replayed oldest ring
    refine ⟨fun early => ?_, fun isDone => ?_, fun x slot clear entry => posted_readByte_other s q p i slot clear entry,
      fun wf backed clear entries => posted_readBytes s q p i wf backed clear entries, (posted_parts s q p i).2.2,
      posted_state s q p i⟩
    · rw [post, if_pos (bne_iff_ne.mpr early)]
    · rw [post, isDone]
      rfl
  case records =>
    intro s q p r m i
    refine ⟨replayRec_of_posted s q p r m, replayRec_of_inRing s q p r m, replayRec_of_done s q p r m,
      fun again => ⟨replayRec_of_again s q p r m again, fun j mem seq => ?_⟩, replayItem_of_third s q⟩
    refine replayItem_items s q i j ?_ mem seq
    rintro ⟨dispatched, three⟩
    rcases again with accepted | ⟨-, few⟩
    · rw [dispatched] at accepted
      cases accepted
    · omega

end Sys2Proof.Machine
end

section
/-! The proof of O43: how waits end by their limits, and the wait-for graph. -/

namespace Sys2Proof.Machine

/-! ## The limits of waits (R260) -/

theorem exec_waitTimeoutExpiry_head {s : State} {q : QueueId} {i : Item} (next : s.nextItem q = some i)
    (waits : i.waitFrom.isSome = true) (up : s.runs P.scp = true) (due : ¬ (i.deferred = true ∧ s.holdsFor q i = true)) :
    exec (.waitTimeoutExpiry (.head q)) s = .next (settle s
      (((s.advanceTo i.waitEnd).finish q i.seq { Finish.plain 0x0203 with cycle := 3 }).thenNext q)) := by
  have since : i.waitFrom.isNone = false := by rwa [← Option.not_isSome, Bool.not_eq_false']
  have held : (i.deferred && s.holdsFor q i) = false := by rwa [Bool.eq_false_iff, ne_eq, Bool.and_eq_true]
  refine congrArg (done s) (?_ : s.headTimeout q = _)
  simp only [State.headTimeout, next, since, up, held, Bool.not_true, Bool.or_self, Bool.false_eq_true, if_false]
  rfl

theorem exec_waitTimeoutExpiry_sequencer {s : State} {n : SliceId} {f e : Nat}
    (wait : (s.slice n).seq.waitFlag = some (f, e)) :
    exec (.waitTimeoutExpiry (.sequencer n)) s =
      .next (settle s (((s.advanceTo e).endJobFault n 0x0203 none .faulted 3).buildGraph)) := by
  refine congrArg (done s) (?_ : s.seqTimeout n = _)
  simp only [State.seqTimeout, wait]
  rfl

/-- What follows the limit of a thread's wait for flag f: its fault of cause 0x0A (R193). -/
def State.threadWaitFault (t : State) (h f : Nat) : State :=
  (t.sliverFault { hart := h, cause := 0x0A, status := 0x0203, detail := f, pc := (t.hart h).pc.toNat, cycle := 3 }).buildGraph

theorem exec_waitTimeoutExpiry_thread {s : State} {h : HartId} {f e : Nat} (wait : (s.hart h.num).wait = .flag f e) :
    exec (.waitTimeoutExpiry (.thread h)) s = .next (settle s ((s.advanceTo e).threadWaitFault h.num f)) := by
  refine congrArg (done s) (?_ : s.threadTimeout h.num = _)
  simp only [State.threadTimeout, wait]
  rfl

theorem exec_waitTimeoutExpiry_deferred {s : State} {k : Nat} {d : Deferred} (held : s.work.deferred[k]? = some d)
    (up : s.runs P.dxp = true) :
    exec (.waitTimeoutExpiry (.deferred k)) s =
      .next (settle s (((s.advanceTo d.due).dropDeferred k).deferDone d 0x0203)) := by
  refine congrArg (done s) (?_ : s.deferredTimeout k = _)
  simp only [State.deferredTimeout, held, up, Bool.not_true, Bool.false_eq_true, if_false]
  rfl

/-! ## The wait-for graph (R261, R262) -/

theorem exec_waitGraphBuild_of_blocked {s : State} {t : Nat}
    (blocked : minBy id (s.refreshBlocked.work.queues.filterMap (fun x => x.2.blockedSince)) = some t) :
    exec .waitGraphBuild s = .next (settle s (s.refreshBlocked.advanceTo (t + 50 * ms)).buildGraph) := by
  show execWaitGraphBuild s = _
  simp only [execWaitGraphBuild, blocked, done]

theorem haltCycle_known {s : State} {c : List Nat} (known : c ∈ s.work.cycles) : s.haltCycle c = s := by
  rw [State.haltCycle, if_pos (List.contains_iff_mem.mpr known)]

theorem haltCycle_halts {s : State} {c : List Nat} (new : c ∉ s.work.cycles) :
    (∀ m ∈ c, ((s.haltCycle c).queue m).halted = true) ∧ c ∈ (s.haltCycle c).work.cycles := by
  rw [State.haltCycle, if_neg (by rwa [List.contains_iff_mem])]
  exact ⟨(foldl_halt c _).2, List.mem_append_right _ (List.mem_singleton_self c)⟩

/-! ## Deferred commands (R265) -/

theorem exec_deferredExecute_item {s : State} {q : QueueId} {i : Item} (next : s.nextItem q = some i)
    (deferred : i.deferred = true) (up : s.runs P.scp = true) (holds : s.holdsFor q i = true) :
    exec (.deferredExecute q) s = .next (settle s (s.runItem q i)) := by
  show execDeferredExecute q s = _
  simp only [execDeferredExecute, q.isLt, dif_pos, State.runDeferredItem, next, deferred, up, holds, Bool.and_self, if_true,
    done]

theorem exec_deferredExecute_held {s : State} {q : QueueId} {i : Item} (next : s.nextItem q = some i)
    (held : s.holdsFor q i = false) : exec (.deferredExecute q) s = .next (settle s s) := by
  show execDeferredExecute q s = _
  simp only [execDeferredExecute, q.isLt, dif_pos, State.runDeferredItem, next, held, Bool.and_false, Bool.false_eq_true,
    if_false, done]

theorem exec_deferredExecute_write (s : State) (k : Nat) :
    exec (.deferredExecute (k + 64)) s = .next (settle s (s.runDeferred k)) := by
  show execDeferredExecute (k + 64) s = _
  simp only [execDeferredExecute, show ¬ k + 64 < 64 by omega, dif_neg, not_false_eq_true, Nat.add_sub_cancel, done]

section
variable {s : State} {k n : Nat} {d : Deferred} {r : ObjRow}
variable (held : s.work.deferred[k]? = some d) (found : findObj d.index d.sub = some (r, n)) (up : s.runs P.dxp = true)
include held found up

theorem runDeferred_still (waits : s.deferredReady r n (writeRule r n true d.value) d.value = none) :
    s.runDeferred k = s := by
  simp only [State.runDeferred, held, found, up, waits, Bool.not_true, Bool.false_eq_true, if_false]

theorem runDeferred_fails {st : Nat} (fails : st ≠ 0)
    (ends : s.deferredReady r n (writeRule r n true d.value) d.value = some st) :
    s.runDeferred k = (s.dropDeferred k).deferDone d st := by
  have bad : (st != St.ok) = true := bne_iff_ne.mpr fails
  simp only [State.runDeferred, held, found, up, ends, bad, Bool.not_true, Bool.false_eq_true, if_false, if_true]

theorem runDeferred_applies (ready : s.deferredReady r n (writeRule r n true d.value) d.value = some 0) :
    s.runDeferred k =
      let x := (s.dropDeferred k).applyDeferred r n (writeRule r n true d.value) d.value
      (x.2.deferDone d x.1).runDue := by
  simp only [State.runDeferred, held, found, up, ready, Bool.not_true, Bool.false_eq_true, if_false]
  rfl

end

/-- Settles O43. Numbers of DEFERRED_EXECUTE from 64 on name the held dictionary commands, and a held write that ends with
another failure is dropped with its status: notes/assumptions/44.md. -/
theorem waitsEnd : Obligations.WaitsEnd := by
  intro s
  refine ⟨?head, ?sequencer, ?thread, ?write, ?graph, ?cycle, ?item, ?object⟩
  case head => exact fun q i next waits up due => exec_waitTimeoutExpiry_head next waits up due
  case sequencer => exact fun n f e wait => exec_waitTimeoutExpiry_sequencer wait
  case thread => exact fun h f e wait => exec_waitTimeoutExpiry_thread wait
  case write => exact fun k d held up => exec_waitTimeoutExpiry_deferred held up
  case graph => exact fun t blocked => exec_waitGraphBuild_of_blocked blocked
  case cycle => exact fun c => ⟨haltCycle_known, haltCycle_halts⟩
  case item =>
    exact fun q i next => ⟨exec_deferredExecute_item next, exec_deferredExecute_held next⟩
  case object =>
    intro k d r n held found up w
    rw [exec_deferredExecute_write]
    refine ⟨?_, ?_, ?_⟩
    · exact fun waits => congrArg (done s) (runDeferred_still held found up waits)
    · exact fun st fails ends => congrArg (done s) (runDeferred_fails held found up fails ends)
    · exact fun ready => congrArg (done s) (runDeferred_applies held found up ready)

end Sys2Proof.Machine
end

section
/-! The proof of O44: decode batches, statistics windows, idle points and silent streams. -/

namespace Sys2Proof.Machine

theorem exec_statWindowEval_of_up {s : State} (up : s.runs P.scp = true) (replayed : s.work.replayDone = true) :
    exec .statWindowEval s =
      let t := s.advanceTo (s.clk.now + (s.work.statEnd - s.clk.lode))
      let u := t.work.pairs.foldl (fun s x => s.evalPair x) t
      .next { u with work := { u.work with statEnd := (max u.work.statEnd u.clk.lode / u.statLen + 1) * u.statLen } } := by
  show execStatWindowEval s = _
  simp only [execStatWindowEval, up, replayed, Bool.not_true, Bool.or_self, Bool.false_eq_true, if_false]

/-- A job is dispatched on one of the six slices. -/
def State.someJob (s : State) : Bool := (List.range 6).any (fun n => (s.slice n).run.isSome)

theorem someJob_iff (s : State) : s.someJob = true ↔ ∃ n < 6, (s.slice n).run ≠ none := by
  simp only [State.someJob, List.any_eq_true, List.mem_range, Option.isSome_iff_ne_none]

theorem exec_idlePoint_of_up {s : State} (up : s.runs P.scp = true) (replayed : s.work.replayDone = true) :
    exec .idlePoint s = if s.someJob then .next s
      else .next (s.work.idlePend.foldl (fun s x => s.applyIdle x) { s with work := { s.work with idlePend := [] } }) := by
  show execIdlePoint s = _
  simp only [execIdlePoint, up, replayed, Bool.not_true, Bool.false_or, State.someJob]

/-- The time from which the silence of a stream counts: its last start of frame, or the commit of epoch e (R519). -/
def State.silentFrom (s : State) (n : Nat) (e : Epoch) : Nat :=
  if (s.stream n).lastSof = 0 ∧ (s.stream n).lastSofMono = 0 then e.mono else (s.stream n).lastSofMono

theorem exec_epochStreamSilent_of_waiting {s : State} {n : StreamId} {e : Epoch}
    (waits : s.work.epochs.find? (fun e => e.waiting.contains n.val) = some e) :
    exec (.epochStreamSilent n) s = .next ((s.advanceTo (s.silentFrom n e + 1000 * ms)).epochForget n) := by
  show execEpochStreamSilent n s = _
  simp only [execEpochStreamSilent, waits, State.silentFrom, Bool.and_eq_true, beq_iff_eq]

/-- Settles O44. The target of a batch is the load time of the organisation of the package's weight tiles, and the operand
tells whether a row goes on with a sequence: notes/assumptions/54.md. -/
theorem batchesAndWindows : Obligations.BatchesAndWindows := by
  refine ⟨decodeClose, ?window, ?idle, ?silent⟩
  case window => exact fun s up replayed => exec_statWindowEval_of_up up replayed
  case idle =>
    intro s up replayed
    rw [exec_idlePoint_of_up up replayed]
    refine ⟨fun free => if_neg ?_, fun busy => if_pos ((someJob_iff s).mpr busy)⟩
    rw [someJob_iff]
    exact fun ⟨n, slice, busy⟩ => busy (free n slice)
  case silent =>
    intro s n e waits x t
    exact ⟨exec_epochStreamSilent_of_waiting waits, epochForget_waiting _ n⟩

end Sys2Proof.Machine
end

section
/-! The proof of O45: what a write of each command object does. -/

namespace Sys2Proof.Machine

theorem taken_num (s : State) (req : Req) (row r : ObjRow) (k j : Nat) : (s.taken req row k).num r j = s.num r j := rfl

theorem taken_rawOn (s : State) (req : Req) (row : ObjRow) (k n : Nat) : (s.taken req row k).rawOn n = s.rawOn n := rfl

theorem taken_srcOn (s : State) (req : Req) (row : ObjRow) (k n : Nat) : (s.taken req row k).srcOn n = s.srcOn n := rfl

theorem taken_work (s : State) (req : Req) (row : ObjRow) (k : Nat) : (s.taken req row k).work = s.work := rfl

theorem taken_queue (s : State) (req : Req) (row : ObjRow) (k q : Nat) : (s.taken req row k).queue q = s.queue q := rfl

theorem taken_qStateNow (s : State) (req : Req) (row : ObjRow) (k q : Nat) :
    (s.taken req row k).qStateNow q = s.qStateNow q := rfl

theorem taken_inactive (s : State) (req : Req) (row : ObjRow) (k : Nat) : (s.taken req row k).inactive = s.inactive := rfl

theorem taken_sakOf (s : State) (req : Req) (row : ObjRow) (k : Nat) (b : Bytes) :
    (s.taken req row k).sakOf b = s.sakOf b := rfl

theorem taken_admitted (s : State) (req : Req) (row : ObjRow) (k n : Nat) :
    (s.taken req row k).admitted n = s.admitted n := rfl

/-! ## Flags and epoch sets (R258, R266, R267) -/

section
variable {s : State} {w : CmdW} (turn : Turn s w.req)
include turn

theorem exec_flagSetCmd_wrote (meets : Writes s Obj.flagSetCmd 0 flagSetRule (.num w.value)) :
    exec (.flagSetCmd w) s = .next (settle s (s.wrote w.req Obj.flagSetCmd 0 (fun u => u.setFlag w.value))) :=
  congrArg (done s) (State.hostWrite_cmd turn ⟨by decide, by decide, by decide⟩ meets rfl _)

theorem exec_flagClrCmd_wrote {b : Bool} (meets : Writes s Obj.flagClrCmd 0 (flagClrRule b) (.num w.value)) :
    exec (.flagClrCmd w b) s = .next (settle s (s.wrote w.req Obj.flagClrCmd 0 (fun u => u.clearFlag w.value b))) :=
  congrArg (done s) (State.hostWrite_cmd turn ⟨by decide, by decide, by decide⟩ meets rfl _)

theorem exec_epochOpen_wrote (meets : Writes s Obj.epochOpen 0 epochOpenRule (.num w.value)) :
    exec (.epochOpen w) s = .next (s.wrote w.req Obj.epochOpen 0 (fun u => u.setOpen (some []))) :=
  congrArg Host.Outcome.next (State.hostWrite_cmd turn ⟨by decide, by decide, by decide⟩ meets rfl _)

theorem exec_epochCommit_wrote {l : List (Nat × Val)} (opened : s.work.openSet = some l)
    (meets : Writes s Obj.epochCommit 0 epochCommitRule (.num w.value)) :
    exec (.epochCommit w) s =
      .next (s.wrote w.req Obj.epochCommit 0 (fun u => (u.setOpen none).commitEpoch l)) := by
  refine congrArg Host.Outcome.next
    (State.hostWrite_wrote turn ⟨by decide, by decide, by decide⟩ (meets.taken w.req rfl rfl) ?_ rfl _)
  simp only [epochCommitRule, WriteRule.cmd, taken_work, opened]

theorem exec_epochDiscard_wrote (meets : Writes s Obj.epochDiscard 0 epochDiscardRule (.num w.value)) :
    exec (.epochDiscard w) s = .next (s.wrote w.req Obj.epochDiscard 0 (fun u => u.setOpen none)) :=
  congrArg Host.Outcome.next (State.hostWrite_cmd turn ⟨by decide, by decide, by decide⟩ meets rfl _)

/-! ## Queues (R245, R264, R269) -/

section
variable {q : QueueId} (meets : Writes (s.taken w.req Obj.qEnable q) Obj.qEnable q (qEnableRule q) (.num w.value))
include meets

theorem exec_qEnable_opens (one : w.value = 1) (off : s.num Obj.qEnable q = 0) :
    exec (.qEnable q w) s = .next (s.wrote w.req Obj.qEnable q (fun u => (u.openRings q).getD u)) := by
  refine congrArg Host.Outcome.next (State.hostWrite_wrote turn ⟨by decide, by decide, by decide⟩ meets ?_ rfl _)
  simp only [qEnableRule, WriteRule.cmd, taken_num, one, off, Nat.reduceBEq, Bool.false_eq_true, if_false, if_true]

theorem exec_qEnable_closes (zero : w.value = 0) (on : s.num Obj.qEnable q = 1) :
    exec (.qEnable q w) s = .next (s.wrote w.req Obj.qEnable q (fun u => u.closeRings q)) := by
  refine congrArg Host.Outcome.next (State.hostWrite_wrote turn ⟨by decide, by decide, by decide⟩ meets ?_ rfl _)
  simp only [qEnableRule, WriteRule.cmd, taken_num, zero, on, Nat.reduceBEq, Bool.false_eq_true, if_false]

theorem exec_qEnable_same (same : w.value = s.num Obj.qEnable q) :
    exec (.qEnable q w) s = .next (s.wrote w.req Obj.qEnable q id) := by
  refine congrArg Host.Outcome.next (State.hostWrite_wrote turn ⟨by decide, by decide, by decide⟩ meets ?_ rfl _)
  simp only [qEnableRule, WriteRule.cmd, taken_num, same, beq_self_eq_true, if_true, id]

end

theorem exec_qDepth_wrote {q : QueueId} (meets : Writes s Obj.qDepth q (qDepthRule q) (.num w.value)) :
    exec (.qDepth q w) s = .next (s.wrote w.req Obj.qDepth q (fun u => u.setNum Obj.qDepth q w.value)) :=
  congrArg Host.Outcome.next
    (State.hostWrite_wrote turn ⟨by decide, by decide, by decide⟩ (meets.taken w.req rfl rfl) rfl rfl _)

theorem exec_qAbortHead_wrote {i : Item} (head : (s.queue w.value).items.find? (fun i => !i.isDone) = some i)
    (meets : Writes s Obj.qAbortHead 0 qAbortRule (.num w.value)) :
    exec (.qAbortHead w) s = .next (settle s (s.wrote w.req Obj.qAbortHead 0 (fun u =>
      ((u.abortItem w.value i.seq 0x0205 2).headWait w.value).buildGraph))) := by
  have steady : qAbortRule.pre (s.taken w.req Obj.qAbortHead 0) (.num w.value) = qAbortRule.pre s (.num w.value) := by
    simp only [qAbortRule, WriteRule.cmd, taken_qStateNow]
    rfl
  refine congrArg (done s)
    (State.hostWrite_wrote turn ⟨by decide, by decide, by decide⟩ (meets.taken w.req rfl steady) ?_ rfl _)
  simp only [qAbortRule, WriteRule.cmd, taken_queue, head]
  rfl

/-! ## Streams, their sensors and ports (R289, R294, R295, R313) -/

section
variable {n : StreamId} (meets : Writes (s.taken w.req Obj.rawEnable n) Obj.rawEnable n (rawEnableRule n) (.num w.value))
include meets

theorem exec_rawEnable_starts (one : w.value = 1) (off : s.rawOn n = false) :
    exec (.rawEnable n w) s =
      .next (settle s (s.wrote w.req Obj.rawEnable n (fun u => (u.setNum Obj.rawEnable n 1).startRaw n))) := by
  refine congrArg (done s) (State.hostWrite_wrote turn ⟨by decide, by decide, by decide⟩ meets ?_ rfl _)
  simp only [rawEnableRule, taken_rawOn, one, off, Bool.false_eq_true, if_false]

theorem exec_rawEnable_stops (zero : w.value = 0) (on : s.rawOn n = true) :
    exec (.rawEnable n w) s = .next (settle s (s.wrote w.req Obj.rawEnable n (fun u => u.stopRaw n))) := by
  refine congrArg (done s) (State.hostWrite_wrote turn ⟨by decide, by decide, by decide⟩ meets ?_ rfl _)
  simp only [rawEnableRule, taken_rawOn, zero, on, if_true]

end

section
variable {n : StreamId} (meets : Writes (s.taken w.req Obj.srcEnable n) Obj.srcEnable n (srcEnableRule n) (.num w.value))
include meets

theorem exec_srcEnable_starts (one : w.value = 1) (off : s.srcOn n = false) :
    exec (.srcEnable n w) s =
      .next (settle s (s.wrote w.req Obj.srcEnable n (fun u => (u.setNum Obj.srcEnable n 1).startSrc n))) := by
  refine congrArg (done s) (State.hostWrite_wrote turn ⟨by decide, by decide, by decide⟩ meets ?_ rfl _)
  simp only [srcEnableRule, taken_srcOn, one, off, Bool.false_eq_true, if_false]

theorem exec_srcEnable_stops (zero : w.value = 0) (on : s.srcOn n = true) :
    exec (.srcEnable n w) s = .next (settle s (s.wrote w.req Obj.srcEnable n (fun u => u.stopSrc n))) := by
  refine congrArg (done s) (State.hostWrite_wrote turn ⟨by decide, by decide, by decide⟩ meets ?_ rfl _)
  simp only [srcEnableRule, taken_srcOn, zero, on, if_true]

end

theorem exec_expoReq_wrote {n : StreamId} (admitted : s.admitted n = true)
    (meets : Writes s Obj.expoReq n (expoReqRule n) (.num w.value)) :
    exec (.expoReq n w) s = .next (s.wrote w.req Obj.expoReq n (fun u =>
      u.requestExposure n (w.value % 2 ^ 32) (w.value / 2 ^ 32 % 2 ^ 16))) := by
  refine congrArg Host.Outcome.next
    (State.hostWrite_wrote turn ⟨by decide, by decide, by decide⟩ (meets.taken w.req rfl rfl) ?_ rfl _)
  simp only [expoReqRule, taken_admitted, admitted, if_true]

theorem exec_sensorRetry_wrote {n : StreamId} (meets : Writes s Obj.sensorRetry n (sensorRetryRule n) (.num w.value)) :
    exec (.sensorRetry n w) s = .next (s.wrote w.req Obj.sensorRetry n (fun u => u.modRaw n (fun r =>
      if r.sensorFault then { r with sensorFault := false, attempts := 0 } else r))) :=
  congrArg Host.Outcome.next (State.hostWrite_cmd turn ⟨by decide, by decide, by decide⟩ meets rfl _)

theorem exec_dpMode_wrote {p : DataPort} (meets : Writes s Obj.dpMode p (dpModeRule p) (.num w.value)) :
    exec (.dpMode p w) s = .next (s.wrote w.req Obj.dpMode p (fun u => u.setNum Obj.dpMode p w.value)) :=
  congrArg Host.Outcome.next
    (State.hostWrite_wrote turn ⟨by decide, by decide, by decide⟩ (meets.taken w.req rfl rfl) rfl rfl _)

/-! ## The lease's orphan policy and the forced safe state (R357, R391) -/

theorem exec_orphanResume_wrote (meets : Writes s Obj.orphanResume 0 orphanResumeRule (.num w.value)) :
    exec (.orphanResume w) s = .next (settle s (s.wrote w.req Obj.orphanResume 0 (fun u =>
      ({ u with link := { u.link with orphan := 0 } } : State).leaveCause 4))) :=
  congrArg (done s) (State.hostWrite_cmd turn ⟨by decide, by decide, by decide⟩ meets rfl _)

theorem exec_safeForceEnter_wrote (one : w.value = 1) (meets : Writes s Obj.safeForce 0 safeForceRule (.num w.value)) :
    exec (.safeForceEnter w) s = .next (settle s (s.wrote w.req Obj.safeForce 0 (fun u => u.enterCause 5))) := by
  refine congrArg (done s)
    (State.hostWrite_wrote turn ⟨by decide, by decide, by decide⟩ (meets.taken w.req rfl rfl) ?_ rfl _)
  simp only [safeForceRule, WriteRule.cmd, one, beq_self_eq_true, if_true]

theorem exec_safeForceEnd_wrote (two : w.value = 2) (meets : Writes s Obj.safeForce 0 safeForceRule (.num w.value)) :
    exec (.safeForceEnd w) s = .next (settle s (s.wrote w.req Obj.safeForce 0 (fun u => u.leaveCause 5))) := by
  refine congrArg (done s)
    (State.hostWrite_wrote turn ⟨by decide, by decide, by decide⟩ (meets.taken w.req rfl rfl) ?_ rfl _)
  simp only [safeForceRule, WriteRule.cmd, two, Nat.reduceBEq, Bool.false_eq_true, if_false]

end

/-! ## Command objects that take a BLOB (R325, R334, R448, R476, R478) -/

/-- The security association that a MACSEC_SAK of bytes b with the unwrapped key k installs (R334). -/
def saOfWrite (b k : Bytes) : Sa :=
  { an := fld b 0 1, suite := fld b 2 1, ssci := BitVec.ofNat 32 (ofBe (cut b 4 4)), salt := cut b 8 12
    key := if fld b 2 1 == 1 then k.take 16 else k }

/-- MACSEC_SAK of bytes b with the security association x: it is installed for the directions that b names. -/
def State.installSa (u : State) (b : Bytes) (x : Sa) : State :=
  { u with link := { u.link with
    rxSas := if (fld b 1 1).testBit 0 then addSa u.link.rxSas x else u.link.rxSas
    txSas := if (fld b 1 1).testBit 1 then addSa u.link.txSas x else u.link.txSas
    rxEver := u.link.rxEver || (fld b 1 1).testBit 0
    rxPn := if (fld b 1 1).testBit 0 then tput u.link.rxPn x.an 0 else u.link.rxPn } }

/-- A clip requested by bytes b begins on stream n (R325). -/
def State.beginClip (u : State) (n : Nat) (b : Bytes) : State :=
  u.modStream n (fun x => { x with clip := some { since := u.clk.now, req := b, frames := 0, used := 0, sof := 0, ending := none, core := (u.encCore n).getD 0 } })

/-- A snapshot requested by bytes b is due on stream n (R326). -/
def State.beginSnap (u : State) (n : Nat) (b : Bytes) : State :=
  { u with media := { u.media with snaps := u.media.snaps ++ [{ stream := n, since := u.clk.now, req := b, sof := none }] } }

/-- The staging asked for by bytes b begins in slot k, which is erased first (R448). -/
def State.beginStaging (u : State) (b : Bytes) (k : Nat) : State :=
  (({ u with fw := { u.fw with staging := some (b, k, u.clk.now) } } : State).eraseSlot k).setUpd 1 (u.num Obj.updStatus) k

/-- The report over nonce b is made, kept in ATT_REPORT and counted (R478). -/
def State.attest (u : State) (b : Bytes) : State :=
  ((u.report b).2.setBlob Obj.attReport 0 (u.report b).1).count Obj.attReports

theorem attNonceRule_apply (u : State) (b : Bytes) : attNonceRule.apply u (.blob b) = u.attest b := by
  simp only [attNonceRule, State.attest]

theorem attNonceRule_check (u : State) (v : Val) : attNonceRule.check u v = true := rfl

theorem attNonceRule_pre (u : State) (v : Val) : attNonceRule.pre u v = 0 := rfl

theorem attNonceRule_answer (u : State) (v : Val) : attNonceRule.answer u v = St.ok := rfl

section
variable {s : State} {w : BlobW} (turn : Turn s w.req)
include turn

theorem exec_macsecSak_wrote {k : Bytes} (unwraps : s.sakOf w.bytes = some k)
    (meets : Writes s Obj.macsecSak 0 macsecSakRule (.blob w.bytes)) :
    exec (.macsecSak w) s =
      .next (s.wrote w.req Obj.macsecSak 0 (fun u => u.installSa w.bytes (saOfWrite w.bytes k))) := by
  have check : macsecSakRule.check (s.taken w.req Obj.macsecSak 0) (.blob w.bytes)
      = macsecSakRule.check s (.blob w.bytes) := by simp only [macsecSakRule, taken_sakOf]
  refine congrArg Host.Outcome.next
    (State.hostBlob_wrote turn ⟨by decide, by decide, by decide⟩ (meets.taken w.req check rfl) ?_ rfl _)
  simp only [macsecSakRule, taken_sakOf, unwraps]
  rfl

theorem exec_encClip_wrote (clip : fld w.bytes 0 1 = 1) (meets : Writes s Obj.encReq 0 encRule (.blob w.bytes)) :
    exec (.encClip w) s =
      .next (s.wrote w.req Obj.encReq 0 (fun u => u.beginClip (encStream w.bytes) w.bytes)) := by
  refine congrArg Host.Outcome.next
    (State.hostBlob_wrote turn ⟨by decide, by decide, by decide⟩ (meets.taken w.req rfl rfl) ?_ rfl _)
  simp only [encRule, clip, beq_self_eq_true, if_true]
  rfl

theorem exec_encSnapshot_wrote (snap : fld w.bytes 0 1 ≠ 1) (meets : Writes s Obj.encReq 0 encRule (.blob w.bytes)) :
    exec (.encSnapshot w) s =
      .next (s.wrote w.req Obj.encReq 0 (fun u => u.beginSnap (encStream w.bytes) w.bytes)) := by
  have other : (fld w.bytes 0 1 == 1) = false := beq_eq_false_iff_ne.mpr snap
  refine congrArg Host.Outcome.next
    (State.hostBlob_wrote turn ⟨by decide, by decide, by decide⟩ (meets.taken w.req rfl rfl) ?_ rfl _)
  simp only [encRule, other, Bool.false_eq_true, if_false]
  rfl

theorem exec_updStage_wrote {k : Nat} (slot : s.inactive = some k)
    (meets : Writes s Obj.updStage 0 updStageRule (.blob w.bytes)) :
    exec (.updStage w) s = .next (s.wrote w.req Obj.updStage 0 (fun u => u.beginStaging w.bytes k)) := by
  refine congrArg Host.Outcome.next
    (State.hostBlob_wrote turn ⟨by decide, by decide, by decide⟩ (meets.taken w.req rfl rfl) ?_ rfl _)
  simp only [updStageRule, taken_inactive, slot]
  rfl

theorem exec_attNonce_wrote (meets : Writes s Obj.attNonce 0 attNonceRule (.blob w.bytes)) :
    exec (.attNonce w) s = .next (s.wrote w.req Obj.attNonce 0 (fun u => u.attest w.bytes)) :=
  congrArg Host.Outcome.next
    (State.hostBlob_wrote (f := fun u => u.attest w.bytes) turn ⟨by decide, by decide, by decide⟩
      (meets.taken w.req
        ((attNonceRule_check _ _).trans (attNonceRule_check _ _).symm) ((attNonceRule_pre _ _).trans (attNonceRule_pre _ _).symm))
      (attNonceRule_apply _ _) (attNonceRule_answer _ _) _)

theorem exec_keyRevoke_blown (meets : Writes s Obj.keyRevoke 0 (keyRevokeRule true) (.blob w.bytes)) :
    exec (.keyRevoke w true) s = .next (s.wrote w.req Obj.keyRevoke 0 (fun u => { u with trust := { u.trust with
      revoked := u.trust.revoked ||| BitVec.ofNat 4 (2 ^ fld w.bytes 0 1) } })) :=
  congrArg Host.Outcome.next
    (State.hostBlob_wrote turn ⟨by decide, by decide, by decide⟩ (meets.taken w.req rfl rfl) rfl rfl _)

theorem exec_keyRevoke_notBlown (meets : Writes s Obj.keyRevoke 0 (keyRevokeRule false) (.blob w.bytes)) :
    exec (.keyRevoke w false) s =
      .next (((s.turned w.req).touch (Obj.keyRevoke.key 0) true).respond w.req 0x11 0x0500 [] true) :=
  congrArg Host.Outcome.next
    (State.hostBlob_turn turn (meets.taken w.req rfl rfl) (by decide) (by decide) (by decide) _)

end

/-- Settles O45. KEY_REVOKE whose read-back fails leaves the fuse as it was: notes/assumptions/32.md. -/
theorem objectCommands : Obligations.ObjectCommands := by
  refine ⟨?numbers, ?blobs⟩
  case numbers =>
    intro s w turn
    exact ⟨exec_flagSetCmd_wrote turn, fun _ => exec_flagClrCmd_wrote turn, exec_epochOpen_wrote turn,
      fun _ => exec_epochCommit_wrote turn, exec_epochDiscard_wrote turn,
      fun _ meets => ⟨exec_qEnable_opens turn meets, exec_qEnable_closes turn meets, exec_qEnable_same turn meets⟩,
      fun _ => exec_qDepth_wrote turn, fun _ => exec_qAbortHead_wrote turn,
      fun _ meets => ⟨exec_rawEnable_starts turn meets, exec_rawEnable_stops turn meets⟩,
      fun _ meets => ⟨exec_srcEnable_starts turn meets, exec_srcEnable_stops turn meets⟩,
      fun _ => exec_expoReq_wrote turn, fun _ => exec_sensorRetry_wrote turn, fun _ => exec_dpMode_wrote turn,
      exec_orphanResume_wrote turn, exec_safeForceEnter_wrote turn, exec_safeForceEnd_wrote turn⟩
  case blobs =>
    intro s w turn b n
    exact ⟨fun _ unwraps meets => exec_macsecSak_wrote turn unwraps meets, exec_encClip_wrote turn,
      exec_encSnapshot_wrote turn, fun _ => exec_updStage_wrote turn, exec_attNonce_wrote turn, exec_keyRevoke_blown turn,
      exec_keyRevoke_notBlown turn⟩

end Sys2Proof.Machine
end

section
/-! The proof of O46: camera frames: reception, truncation, pipes and outputs. -/

namespace Sys2Proof.Machine

/-! ## Frame starts, lines and frame ends of a port (R287, R291, R305, R306) -/

section
variable {s : State} (cool : s.power.tripped = false)
include cool

section
variable {p : CsiPort} {vc : Nat}

theorem exec_csiFrameStart_of_vcx {fn : BitVec 16} (beyond : 3 < vc) :
    exec (.csiFrameStart p vc fn) s = .next (s.count Obj.csiBadPkt p) := by
  show execCsiFrameStart p vc fn s = _
  simp only [execCsiFrameStart, cool, beyond, Bool.false_eq_true, if_false, if_true, badPkt]

theorem exec_csiFrameEnd_of_vcx (beyond : 3 < vc) : exec (.csiFrameEnd p vc) s = .next (s.count Obj.csiBadPkt p) := by
  show execCsiFrameEnd p vc s = _
  simp only [execCsiFrameEnd, cool, beyond, Bool.false_eq_true, if_false, if_true, badPkt]

variable {n e : Nat} (channel : vc ≤ 3) (raw : s.rawStream p vc = some (n, e))
include channel raw

/-! ### Frame starts (R291, R305) -/

theorem exec_csiFrameStart_first {fn : BitVec 16} (first : e = 0) (idle : (s.stream n).raw.cur = none) :
    exec (.csiFrameStart p vc fn) s = .next (settle s (s.startFrame n fn.toNat)) := by
  show execCsiFrameStart p vc fn s = _
  subst first
  simp only [execCsiFrameStart, cool, Nat.not_lt.mpr channel, raw, idle, Bool.false_eq_true, if_false, done]

theorem exec_csiFrameStart_again {fn : BitVec 16} {f : Frame} (first : e = 0) (cur : (s.stream n).raw.cur = some f) :
    exec (.csiFrameStart p vc fn) s =
      .next (settle s ((s.truncate n (if f.ended.contains 0 then 0x0A else 5)).startFrame n fn.toNat)) := by
  show execCsiFrameStart p vc fn s = _
  subst first
  simp only [execCsiFrameStart, cool, Nat.not_lt.mpr channel, raw, cur, Bool.false_eq_true, if_false, done]

theorem exec_csiFrameStart_further {fn : BitVec 16} {f : Frame} (further : e ≠ 0) (cur : (s.stream n).raw.cur = some f)
    (new : f.lines.any (fun l => l.1 == e) = false) :
    exec (.csiFrameStart p vc fn) s =
      .next (s.modRaw n (fun r => { r with cur := some { f with lines := tput f.lines e 0 } })) := by
  obtain ⟨e, rfl⟩ := Nat.exists_eq_succ_of_ne_zero further
  show execCsiFrameStart p vc fn s = _
  simp only [execCsiFrameStart, cool, Nat.not_lt.mpr channel, raw, cur, new, Bool.false_eq_true, if_false]

/-! ### Frame ends (R287, R305) -/

section
variable {f : Frame} (cur : (s.stream n).raw.cur = some f) (begun : f.lines.any (fun l => l.1 == e) = true)
include cur begun

/-- What a frame end of exposure e makes of the frame in reception. -/
theorem exec_csiFrameEnd_of_begun :
    exec (.csiFrameEnd p vc) s = .next (settle s (
      if tget 0 f.lines e < s.num Obj.rawHeight n then s.truncate n 4
      else if (List.range (s.exposures n)).all (ins f.ended e).contains then s.endFrame n { f with ended := ins f.ended e }
      else s.modRaw n (fun r => { r with cur := some { f with ended := ins f.ended e } }))) := by
  show execCsiFrameEnd p vc s = _
  simp only [execCsiFrameEnd, cool, Nat.not_lt.mpr channel, raw, cur, begun, Bool.not_true, Bool.false_eq_true, if_false,
    done]

theorem exec_csiFrameEnd_short (short : tget 0 f.lines e < s.num Obj.rawHeight n) :
    exec (.csiFrameEnd p vc) s = .next (settle s (s.truncate n 4)) := by
  rw [exec_csiFrameEnd_of_begun cool channel raw cur begun, if_pos short]

theorem exec_csiFrameEnd_goesOn (full : s.num Obj.rawHeight n ≤ tget 0 f.lines e)
    (more : ∃ k, k < s.exposures n ∧ k ∉ ins f.ended e) :
    exec (.csiFrameEnd p vc) s =
      .next (settle s (s.modRaw n (fun r => { r with cur := some { f with ended := ins f.ended e } }))) := by
  rw [exec_csiFrameEnd_of_begun cool channel raw cur begun, if_neg (Nat.not_lt.mpr full), if_neg]
  intro all
  obtain ⟨k, exposure, missing⟩ := more
  exact missing (List.contains_iff_mem.mp (List.all_eq_true.mp all k (List.mem_range.mpr exposure)))

theorem exec_csiFrameEnd_ends (full : s.num Obj.rawHeight n ≤ tget 0 f.lines e)
    (all : ∀ k, k < s.exposures n → k ∈ ins f.ended e) :
    exec (.csiFrameEnd p vc) s = .next (settle s (s.endFrame n { f with ended := ins f.ended e })) := by
  rw [exec_csiFrameEnd_of_begun cool channel raw cur begun, if_neg (Nat.not_lt.mpr full), if_pos]
  exact List.all_eq_true.mpr fun k exposure => List.contains_iff_mem.mpr (all k (List.mem_range.mp exposure))

end

/-! ### Lines (R287, R306) -/

/-- The frame f after a line of exposure e: the line is counted, and digested where it is of exposure 0 (R297). -/
def Frame.withLine (f : Frame) (e S : Nat) (samples : List Nat) : Frame :=
  { f with lines := tput f.lines e (tget 0 f.lines e + 1)
           digest := if e = 0 then f.digest + lineDigest (tget 0 f.lines e) S samples else f.digest }

omit cool channel raw in
theorem takeLine_long {f : Frame} {samples : List Nat} (long : s.lineSamples n < samples.length) :
    s.takeLine n e f samples = s.truncate n 1 := by
  simp only [State.takeLine, long, if_true]

omit cool channel raw in
theorem takeLine_short {f : Frame} {samples : List Nat} (short : samples.length < s.lineSamples n) :
    s.takeLine n e f samples = s.truncate n 2 := by
  simp only [State.takeLine, Nat.not_lt.mpr (Nat.le_of_lt short), short, if_true, if_false]

omit cool channel raw in
theorem takeLine_beyond {f : Frame} {samples : List Nat} (whole : samples.length = s.lineSamples n)
    (beyond : s.num Obj.rawHeight n ≤ tget 0 f.lines e) : s.takeLine n e f samples = s.truncate n 3 := by
  simp only [State.takeLine, whole, Nat.lt_irrefl, beyond, if_true, if_false]

omit cool channel raw in
theorem takeLine_counts {f : Frame} {samples : List Nat} (whole : samples.length = s.lineSamples n)
    (within : tget 0 f.lines e < s.num Obj.rawHeight n)
    (near : ∀ k, k < s.exposures n → k ≠ 0 → tget 0 (f.withLine e (s.lineSamples n) samples).lines 0 ≤
      tget 0 (f.withLine e (s.lineSamples n) samples).lines k + 65) :
    s.takeLine n e f samples =
      s.modRaw n (fun r => { r with cur := some (f.withLine e (s.lineSamples n) samples) }) := by
  have kept : ¬ ((List.range (s.exposures n)).any (fun k => k != 0 &&
      decide (tget 0 (tput f.lines e (tget 0 f.lines e + 1)) k + 65 < tget 0 (tput f.lines e (tget 0 f.lines e + 1)) 0)) = true) := by
    simp only [List.any_eq_true, List.mem_range, Bool.and_eq_true, bne_iff_ne, decide_eq_true_eq, not_exists, not_and,
      Nat.not_lt]
    exact near
  simp only [State.takeLine, whole, Nat.lt_irrefl, Nat.not_le.mpr within, if_false, if_neg kept, Frame.withLine, beq_iff_eq]

/-- A long packet of exposure e while its frame is in reception (R286, R287, R305). -/
theorem exec_csiLinePacket_of_frame {f : Frame} {dt : Byte} (samples : List Nat) {chk : PktCheck}
    (cur : (s.stream n).raw.cur = some f) (data : 0x10 ≤ dt.toNat) (plain : chk ≠ .vcx) :
    exec (.csiLinePacket p vc dt samples chk) s = .next (
      if chk == .overflow then s.truncate n 6
      else if chk == .headerBad then s.truncate n 7
      else if dt.toNat == 0x12 then s
      else if dt.toNat != s.num Obj.rawDt n then s.count Obj.csiBadPkt p
      else if !f.lines.any (fun l => l.1 == e) then s.count Obj.csiBadPkt p
      else if chk == .checksumBad then s.truncate n 8
      else s.takeLine n e f samples) := by
  have good : (chk == .vcx || decide (3 < vc)) = false := by
    simp only [Nat.not_lt.mpr channel, decide_false, Bool.or_false, beq_eq_false_iff_ne]
    exact plain
  show execCsiLinePacket p vc dt samples chk s = _
  simp only [execCsiLinePacket, cool, good, Nat.not_lt.mpr data, raw, cur, Bool.false_eq_true, if_false, badPkt]

omit channel raw in
theorem exec_csiLinePacket_vcx (dt : Byte) (samples : List Nat) :
    exec (.csiLinePacket p vc dt samples .vcx) s = .next (s.count Obj.csiBadPkt p) := by
  show execCsiLinePacket p vc dt samples .vcx s = _
  simp only [execCsiLinePacket, cool, beq_self_eq_true, Bool.true_or, Bool.false_eq_true, if_false, if_true, badPkt]

section
variable {f : Frame} {dt : Byte} (samples : List Nat) (cur : (s.stream n).raw.cur = some f) (data : 0x10 ≤ dt.toNat)
include cur data

theorem exec_csiLinePacket_overflow :
    exec (.csiLinePacket p vc dt samples .overflow) s = .next (s.truncate n 6) := by
  rw [exec_csiLinePacket_of_frame cool channel raw samples cur data (by decide), if_pos (by decide)]

theorem exec_csiLinePacket_headerBad :
    exec (.csiLinePacket p vc dt samples .headerBad) s = .next (s.truncate n 7) := by
  rw [exec_csiLinePacket_of_frame cool channel raw samples cur data (by decide), if_neg (by decide), if_pos (by decide)]

theorem exec_csiLinePacket_otherType {chk : PktCheck} (read : chk = .clean ∨ chk = .headerCorrected)
    (embedded : dt.toNat ≠ 0x12) (other : dt.toNat ≠ s.num Obj.rawDt n) :
    exec (.csiLinePacket p vc dt samples chk) s = .next (s.count Obj.csiBadPkt p) := by
  rw [exec_csiLinePacket_of_frame cool channel raw samples cur data (by rcases read with rfl | rfl <;> decide),
    if_neg (by rcases read with rfl | rfl <;> decide), if_neg (by rcases read with rfl | rfl <;> decide),
    if_neg (by rwa [beq_iff_eq]), if_pos (bne_iff_ne.mpr other)]

variable (embedded : dt.toNat ≠ 0x12) (type : dt.toNat = s.num Obj.rawDt n)
variable (begun : f.lines.any (fun l => l.1 == e) = true)
include embedded type begun

theorem exec_csiLinePacket_checksumBad :
    exec (.csiLinePacket p vc dt samples .checksumBad) s = .next (s.truncate n 8) := by
  rw [exec_csiLinePacket_of_frame cool channel raw samples cur data (by decide), if_neg (by decide), if_neg (by decide),
    if_neg (by rwa [beq_iff_eq]), if_neg (by rw [type, bne_self_eq_false]; decide), if_neg (by rw [begun]; decide),
    if_pos (by decide)]

theorem exec_csiLinePacket_line {chk : PktCheck} (read : chk = .clean ∨ chk = .headerCorrected) :
    exec (.csiLinePacket p vc dt samples chk) s = .next (s.takeLine n e f samples) := by
  rw [exec_csiLinePacket_of_frame cool channel raw samples cur data (by rcases read with rfl | rfl <;> decide),
    if_neg (by rcases read with rfl | rfl <;> decide), if_neg (by rcases read with rfl | rfl <;> decide),
    if_neg (by rwa [beq_iff_eq]), if_neg (by rw [type, bne_self_eq_false]; decide), if_neg (by rw [begun]; decide),
    if_neg (by rcases read with rfl | rfl <;> decide)]

end

end

theorem exec_frameTimeout_of_frame {st : StreamId} {f : Frame} (cur : (s.stream st).raw.cur = some f) :
    exec (.frameTimeout st) s =
      .next ((s.advanceTo (f.sofMono + s.num Obj.frameTimeout st * ms)).truncate st 9) := by
  show execFrameTimeout st s = _
  simp only [execFrameTimeout, cool, cur, Bool.false_eq_true, if_false]

/-! ## The pipes (R298, R301, R303) -/

section
variable {pipe : Fin 2}

omit cool in
/-- The spilled frames that a pipe may take: those of the streams bound to it or to either pipe (R303). -/
def State.eligible (s : State) (pipe : Nat) : List (Nat × Frame) :=
  (List.range 48).flatMap (fun n =>
    if s.num Obj.ispPipe n == pipe || s.num Obj.ispPipe n == 0xFF then (s.stream n).raw.spill.map (fun f => (n, f)) else [])

theorem exec_spillStart_busy (busy : s.media.m2m.any (fun m => m.1 == pipe.val && m.2.2.spilled) = true) :
    exec (.spillStart pipe) s = .next s := by
  show execSpillStart pipe s = _
  simp only [execSpillStart, cool, busy, Bool.false_eq_true, if_false, if_true]

/-- The pipe takes spilled frame f of stream n (R303). -/
def State.takeSpilled (s : State) (pipe n : Nat) (f : Frame) : State :=
  let t := s.modRaw n (fun r => { r with spill := r.spill.filter (fun g => g.number != f.number) })
  { t with media := { t.media with m2m := t.media.m2m ++ [(pipe, n, f)] } }

theorem exec_spillStart_takes {n : Nat} {f : Frame}
    (free : s.media.m2m.any (fun m => m.1 == pipe.val && m.2.2.spilled) = false)
    (first : minBy (fun x => x.2.sofMono) (s.eligible pipe) = some (n, f)) :
    exec (.spillStart pipe) s = .next (s.takeSpilled pipe n f) := by
  unfold State.eligible at first
  show execSpillStart pipe s = _
  simp only [execSpillStart, cool, free, first, Bool.false_eq_true, if_false]
  rfl

section
variable {m : Nat × Nat × Frame} (front : s.media.m2m.find? (fun m => m.1 == pipe.val) = some m)
include front

omit cool in
/-- The state in which the pipe has let go of its frame m. -/
def State.lessM2m (s : State) (m : Nat × Nat × Frame) : State :=
  { s with media := { s.media with m2m := s.media.m2m.filter (fun x => x != m) } }

omit cool front in
/-- The record of the frame m that the pipe has ended. -/
def State.endRecord (t : State) (m : Nat × Nat × Frame) : Bytes := t.draw.2.statsRecord m.2.1 m.2.2 true t.draw.1

omit cool front in
/-- The record of the frame m stands in STATS_LAST. -/
def State.withRecord (t : State) (m : Nat × Nat × Frame) : State := t.draw.2.setBlob Obj.statsLast m.2.1 (t.endRecord m)

omit cool front in
/-- A frame m with its outputs w written completes for its attachment, or its set is free again (R301). -/
def State.frameOut (w : State) (m : Nat × Nat × Frame) : State :=
  if m.2.2.gen != 0 && m.2.2.set.isSome && (w.stream m.2.1).attach.isSome then
    w.modStream m.2.1 (fun x => { x with complete := x.complete ++ [{ m.2.2 with held := !w.accepts }] })
  else (if m.2.2.gen != 0 && (w.stream m.2.1).lostFrom.isSome then w.noteDrop m.2.1 else w).freeSet m.2.1 m.2.2.set

omit cool front in
/-- What the end of frame m in a pipe makes of the state t in which the pipe has let go of it (R298, R301). -/
def State.pipeEnd (t : State) (m : Nat × Nat × Frame) : State :=
  if !t.rawOn m.2.1 then (t.freeSet m.2.1 m.2.2.set).freeSpill m.2.1
  else
    let u := if m.2.2.dropped then t.withRecord m else (t.withRecord m).writeSet m.2.1 m.2.2 (t.endRecord m)
    let w := u.exposureLoop m.2.1 m.2.2 (t.endRecord m)
    if m.2.2.dropped then w else w.frameOut m

theorem exec_ispFrameDone_of_frame : exec (.ispFrameDone pipe) s = .next ((s.lessM2m m).pipeEnd m) := by
  show execIspFrameDone pipe s = _
  simp only [execIspFrameDone, cool, front, Bool.false_eq_true, if_false]
  rfl

end

omit cool in
theorem pipeEnd_off {t : State} {m : Nat × Nat × Frame} (off : t.rawOn m.2.1 = false) :
    t.pipeEnd m = (t.freeSet m.2.1 m.2.2.set).freeSpill m.2.1 := by
  rw [State.pipeEnd, off]
  rfl

omit cool in
theorem pipeEnd_dropped {t : State} {m : Nat × Nat × Frame} (on : t.rawOn m.2.1 = true) (dropped : m.2.2.dropped = true) :
    t.pipeEnd m = (t.withRecord m).exposureLoop m.2.1 m.2.2 (t.endRecord m) := by
  rw [State.pipeEnd, on, dropped]
  rfl

omit cool in
theorem pipeEnd_written {t : State} {m : Nat × Nat × Frame} (on : t.rawOn m.2.1 = true) (kept : m.2.2.dropped = false) :
    t.pipeEnd m =
      (((t.withRecord m).writeSet m.2.1 m.2.2 (t.endRecord m)).exposureLoop m.2.1 m.2.2 (t.endRecord m)).frameOut m := by
  rw [State.pipeEnd, on, kept]
  rfl

omit cool in
theorem frameOut_completes {w : State} {m : Nat × Nat × Frame}
    (attached : m.2.2.gen ≠ 0 ∧ m.2.2.set.isSome = true ∧ (w.stream m.2.1).attach.isSome = true) :
    w.frameOut m = w.modStream m.2.1 (fun x => { x with complete := x.complete ++ [{ m.2.2 with held := !w.accepts }] }) := by
  obtain ⟨warm, set, attach⟩ := attached
  rw [State.frameOut, if_pos (by rw [set, attach, bne_iff_ne.mpr warm]; rfl)]

omit cool in
theorem frameOut_frees {w : State} {m : Nat × Nat × Frame}
    (loose : ¬ (m.2.2.gen ≠ 0 ∧ m.2.2.set.isSome = true ∧ (w.stream m.2.1).attach.isSome = true)) :
    w.frameOut m =
      (if m.2.2.gen != 0 && (w.stream m.2.1).lostFrom.isSome then w.noteDrop m.2.1 else w).freeSet m.2.1 m.2.2.set := by
  rw [State.frameOut, if_neg (by rwa [Bool.and_eq_true, Bool.and_eq_true, bne_iff_ne, and_assoc])]

end

end

/-- Settles O46. A line of an accepted data type that is not the stream's counts in CSI_BAD_PKT (notes/assumptions/26.md),
and the frame of a lost context counts as dropped (notes/assumptions/58.md). -/
theorem cameraFrames : Obligations.CameraFrames := by
  refine ⟨fun s cool => ⟨?vcx, ?reception, ?timeout⟩, fun s pipe cool => ⟨⟨?busy, ?takes⟩, ?done⟩⟩
  case vcx =>
    exact fun p vc fn beyond => ⟨exec_csiFrameStart_of_vcx cool beyond, exec_csiFrameEnd_of_vcx cool beyond⟩
  case reception =>
    intro p vc n e channel raw r
    refine ⟨?first, ?again, ?further, ?line, ?ends⟩
    case first => exact fun fn => exec_csiFrameStart_first cool channel raw
    case again => exact fun fn f => exec_csiFrameStart_again cool channel raw
    case further => exact fun fn f => exec_csiFrameStart_further cool channel raw
    case ends =>
      intro f cur begun g
      exact ⟨exec_csiFrameEnd_short cool channel raw cur begun, exec_csiFrameEnd_goesOn cool channel raw cur begun,
        exec_csiFrameEnd_ends cool channel raw cur begun⟩
    case line =>
      intro f dt samples cur data line
      refine ⟨exec_csiLinePacket_vcx cool dt samples, exec_csiLinePacket_overflow cool channel raw samples cur data,
        exec_csiLinePacket_headerBad cool channel raw samples cur data, fun chk read embedded => ⟨?_, ?_⟩⟩
      · exact exec_csiLinePacket_otherType cool channel raw samples cur data read embedded
      · intro type begun y S g
        have taken : line chk = _ := exec_csiLinePacket_line cool channel raw samples cur data embedded type begun read
        exact ⟨exec_csiLinePacket_checksumBad cool channel raw samples cur data embedded type begun,
          fun long => taken.trans (congrArg Host.Outcome.next (takeLine_long long)),
          fun short => taken.trans (congrArg Host.Outcome.next (takeLine_short short)),
          fun whole beyond => taken.trans (congrArg Host.Outcome.next (takeLine_beyond whole beyond)),
          fun whole within near => taken.trans (congrArg Host.Outcome.next (takeLine_counts whole within near))⟩
  case timeout => exact fun st f => exec_frameTimeout_of_frame cool
  case busy => exact exec_spillStart_busy cool
  case takes =>
    intro n f free first t
    exact ⟨(minBy_mem _ _ _ first).1, (minBy_mem _ _ _ first).2, exec_spillStart_takes cool free first⟩
  case done =>
    intro m front n f t rec' u
    have ended : exec (.ispFrameDone pipe) s = .next (t.pipeEnd m) := exec_ispFrameDone_of_frame cool front
    refine ⟨fun off => ended.trans (congrArg Host.Outcome.next (pipeEnd_off off)),
      fun on dropped => ended.trans (congrArg Host.Outcome.next (pipeEnd_dropped on dropped)), fun on kept => ?_⟩
    intro w
    have out : exec (.ispFrameDone pipe) s = .next (w.frameOut m) :=
      ended.trans (congrArg Host.Outcome.next (pipeEnd_written on kept))
    exact ⟨fun attached => out.trans (congrArg Host.Outcome.next (frameOut_completes attached)),
      fun loose => out.trans (congrArg Host.Outcome.next (frameOut_frees loose))⟩

end Sys2Proof.Machine
end

section
/-! The proof of O47: generation writes, the I²C bus and frame sync. -/

namespace Sys2Proof.Machine

section
variable {s : State} (cool : s.power.tripped = false)
include cool

/-! ## Generation writes (R293) -/

theorem exec_generationWriteStart_late {st : StreamId} {est left : Nat} (late : left < est + 100) :
    exec (.generationWriteStart st est left) s = .next s := by
  show execGenerationWriteStart st est left s = _
  simp only [execGenerationWriteStart, cool, late, decide_true, Bool.or_true, Bool.false_eq_true, if_false, if_true]

/-- Stream n may start the writes of its next generation, apart from the time that is left (R292 to R294). -/
structure MayWrite (s : State) (n : Nat) : Prop where
  admitted : s.admitted n = true
  up       : s.runs P.mdp = true
  begun    : (s.stream n).raw.initLeft = 0
  idle     : (s.stream n).raw.writeLeft = 0
  sound    : (s.stream n).raw.sensorFault = false
  blanking : (s.stream n).raw.blanking = true
  whole    : (s.stream n).trunc = false
  fresh    : (s.stream n).raw.failedFs ≠ some (s.stream n).raw.lastFs
  delayed  : (s.stream n).raw.initAt ≤ s.clk.now

/-- The writes of generation g of stream n with profile b wait for their bus. -/
def State.queueGen (t : State) (n : Nat) (b : Bytes) (g : Gen) : State :=
  let u := t.modRaw n (fun r => { r with writing := some g, writeLeft := (genWrites b g).length })
  { u with media := { u.media with i2c := u.media.i2c ++ [(fld b 2 1, n)] } }

theorem exec_generationWriteStart_begins {st : StreamId} {est left : Nat} {g : Gen} {t : State} (may : MayWrite s st)
    (inTime : est + 100 ≤ left) (next : s.nextGen st = some (g, t)) :
    exec (.generationWriteStart st est left) s = .next (t.queueGen st (s.profile st) g) := by
  obtain ⟨admitted, up, begun, idle, sound, blanking, whole, fresh, delayed⟩ := may
  show execGenerationWriteStart st est left s = _
  simp only [execGenerationWriteStart, cool, admitted, up, begun, idle, sound, blanking, whole, beq_eq_false_iff_ne.mpr fresh,
    Nat.not_lt.mpr delayed, Nat.not_lt.mpr inTime, next, bne_self_eq_false, Bool.not_true, Bool.or_self, decide_false,
    Bool.false_eq_true, if_false]
  rfl

/-! ## The I²C bus (R294, R308) -/

omit cool in
/-- The failed transaction of stream n is counted, and the generation's writes leave the bus (R294). -/
def State.abandonWrites (s : State) (bus n : Nat) : State :=
  ((s.count Obj.i2cFail n).leaveBus bus n).modRaw n (fun x => { x with
    writeLeft := 0, attempts := (s.stream n).raw.attempts + 1, failedFs := some x.lastFs
    sensorFault := decide (3 ≤ (s.stream n).raw.attempts + 1) })

omit cool in
theorem failI2c_init {bus n : Nat} (init : (s.stream n).raw.initLeft ≠ 0) : s.failI2c bus n = s.count Obj.i2cFail n := by
  have left : ((s.stream n).raw.initLeft != 0) = true := bne_iff_ne.mpr init
  simp only [State.failI2c, State.count_stream, left, if_true]

omit cool in
theorem failI2c_generation {bus n : Nat} (begun : (s.stream n).raw.initLeft = 0) :
    s.failI2c bus n = if 3 ≤ (s.stream n).raw.attempts + 1 then
        (s.abandonWrites bus n).postEvent 0x0304 n (le 4 (((s.stream n).raw.writing.map (fun g => g.num)).getD 0) ++
          le 1 ((s.stream n).raw.attempts + 1))
      else s.abandonWrites bus n := by
  simp only [State.failI2c, State.count_stream, begun, bne_self_eq_false, Bool.false_eq_true, if_false, State.abandonWrites]
  rfl

omit cool in
/-- A write of the generation of stream n has left on the bus: register a takes the value v. -/
def State.wroteReg (s : State) (bus n a v : Nat) : State :=
  ({ s with media := { s.media with i2cTx := s.media.i2cTx ++ [(bus, fld (s.profile n) 3 1, a, v)] } } : State).modRaw n
    (fun r => { r with writeLeft := r.writeLeft - 1 })

omit cool in
theorem endI2c_generation {bus n a v : Nat} {g : Gen} (begun : (s.stream n).raw.initLeft = 0)
    (writing : (s.stream n).raw.writing = some g)
    (write : (genWrites (s.profile n) g)[(genWrites (s.profile n) g).length - (s.stream n).raw.writeLeft]? = some (a, v)) :
    s.endI2c bus n = if (s.stream n).raw.writeLeft ≠ 1 then s.wroteReg bus n a v
      else ((s.wroteReg bus n a v).leaveBus bus n).commitGen n := by
  simp only [State.endI2c, begun, writing, write, bne_self_eq_false, Bool.false_eq_true, if_false, bne_iff_ne, ne_eq,
    State.wroteReg]

/-- The first writer of a bus whose initialisation delay is over (R308). -/
def State.firstWriter (s : State) (bus : Nat) : Option (Nat × Nat) :=
  minBy (fun i => (s.stream i.2).lastSofMono * 64 + i.2) (s.media.i2c.filter (fun i => i.1 == bus &&
    ((s.stream i.2).raw.initLeft == 0 || decide ((s.stream i.2).raw.initAt ≤ s.clk.now))))

section
variable {bus : Fin 8} {b n stretch took : Nat} (up : s.runs P.mdp = true) (first : s.firstWriter bus = some (b, n))
include up first

theorem exec_i2cTransaction_fails {acked : Bool} (fails : acked = false ∨ 1000 < stretch ∨ 5000 < took) :
    exec (.i2cTransaction bus acked stretch took) s = .next (s.failI2c bus n) := by
  unfold State.firstWriter at first
  have bad : (!acked || decide (1000 < stretch) || decide (5000 < took)) = true := by
    simpa only [Bool.or_eq_true, Bool.not_eq_true', decide_eq_true_eq, or_assoc] using fails
  show execI2cTransaction bus acked stretch took s = _
  simp only [execI2cTransaction, cool, up, first, bad, Bool.not_true, Bool.false_eq_true, if_false, if_true]

theorem exec_i2cTransaction_ends (prompt : stretch ≤ 1000) (short : took ≤ 5000) :
    exec (.i2cTransaction bus true stretch took) s = .next (s.endI2c bus n) := by
  unfold State.firstWriter at first
  show execI2cTransaction bus true stretch took s = _
  simp only [execI2cTransaction, cool, up, first, Nat.not_lt.mpr prompt, Nat.not_lt.mpr short, decide_false, Bool.or_self,
    Bool.not_true, Bool.false_eq_true, if_false]

end

/-! ## Frame sync (R307) -/

omit cool in
/-- The time until the next pulse of FSYNC output k (R307). -/
def State.fsyncIn (s : State) (k : Nat) : Nat :=
  (s.num Obj.fsPhase k % s.num Obj.fsPeriod k + s.num Obj.fsPeriod k - s.clk.lode % s.num Obj.fsPeriod k) % s.num Obj.fsPeriod k

omit cool in
/-- A pulse of output k begins at the time of t, with the width and polarity of s. -/
def State.pulse (t s : State) (k : Nat) : State :=
  { t with pins := { t.pins with
    fsyncLast := tput t.pins.fsyncLast k t.clk.now
    fsyncPulses := tput t.pins.fsyncPulses k (t.clk.now + s.num Obj.fsWidth k * us)
    fsyncPols := tput t.pins.fsyncPols k (s.num Obj.fsPol k) } }

theorem exec_fsyncPulse_of_spaced {k : Fin 8} (on : s.num Obj.fsEnable k ≠ 0)
    (spaced : ∀ l, tfind s.pins.fsyncLast k = some l →
      s.num Obj.fsPeriod k ≤ 2 * (s.clk.now + s.fsyncIn k - l) ∧ l ≠ s.clk.now) :
    exec (.fsyncPulse k) s = .next ((s.advanceTo (s.clk.now + s.fsyncIn k)).pulse s k) := by
  have enabled : (s.num Obj.fsEnable k == 0) = false := beq_eq_false_iff_ne.mpr on
  have due : (s.fsyncIn k == 0 && tfind s.pins.fsyncLast k == some s.clk.now) = false := by
    rw [Bool.and_eq_false_iff]
    exact .inr (beq_eq_false_iff_ne.mpr fun last => (spaced _ last).2 rfl)
  have now : (s.advanceTo (s.clk.now + s.fsyncIn k)).clk.now = s.clk.now + s.fsyncIn k := by
    rw [State.advanceTo_now]
    omega
  show execFsyncPulse k s = _
  unfold State.fsyncIn at due now spaced ⊢
  cases last : tfind s.pins.fsyncLast k with
  | none =>
    rw [last] at due
    simp only [execFsyncPulse, cool, enabled, last, due, Bool.false_eq_true, if_false, State.pulse]
  | some l =>
    rw [last] at due
    have apart := (spaced l last).1
    simp only [execFsyncPulse, cool, enabled, last, due, now, Nat.not_lt.mpr apart, decide_false, Bool.false_eq_true,
      if_false, State.pulse]

end

/-- Settles O47. -/
theorem sensorWrites : Obligations.SensorWrites := by
  intro s cool
  refine ⟨?write, ?bus, ?sync⟩
  case write =>
    intro st est left r
    refine ⟨exec_generationWriteStart_late cool, ?_⟩
    intro g t admitted up begun idle sound blanking whole fresh delayed inTime next u
    exact exec_generationWriteStart_begins cool ⟨admitted, up, begun, idle, sound, blanking, whole, fresh, delayed⟩ inTime next
  case bus =>
    intro bus b n stretch took up first r p fails
    refine ⟨?fails, ?ends⟩
    case fails =>
      intro acked bad
      have failed := exec_i2cTransaction_fails cool up first bad
      refine ⟨fun init => failed.trans (congrArg Host.Outcome.next (failI2c_init init)), ?_⟩
      intro begun u
      have generation := failed.trans (congrArg Host.Outcome.next (failI2c_generation begun))
      exact ⟨fun few => generation.trans (congrArg Host.Outcome.next (if_neg (Nat.not_le.mpr (Nat.succ_lt_succ few)))),
        fun third => generation.trans (congrArg Host.Outcome.next (if_pos (Nat.succ_le_succ third)))⟩
    case ends =>
      intro g a v prompt short begun writing write u
      have ended := (exec_i2cTransaction_ends cool up first prompt short).trans
        (congrArg Host.Outcome.next (endI2c_generation begun writing write))
      exact ⟨fun more => ended.trans (congrArg Host.Outcome.next (if_pos more)),
        fun final => ended.trans (congrArg Host.Outcome.next (if_neg (not_not_intro final)))⟩
  case sync => exact fun k on spaced => exec_fsyncPulse_of_spaced cool on spaced

end Sys2Proof.Machine
end

section
/-! The proof of O48: ingest: packets, access units, decoding, clips and snapshots. -/

namespace Sys2Proof.Machine

/-! ## Frames on a data port (R230, R311, R312) -/

/-- A frame that passes the checks of a data port (R311). -/
structure SoundFrame (f : EthFrame) : Prop where
  size  : f.bytes ≤ 9216
  fcs   : f.fcsOk = true
  ip    : f.ipOk = true
  udp   : f.udpOk = true
  whole : f.fragment = false

theorem dpAnswer_own {s : State} {p t : Nat} {f : EthFrame} (own : f.onLink = true ∧ s.dpOwn p t = true) :
    s.dpAnswer p t f = s.dpReply p f.src :=
  if_pos (Bool.and_eq_true_iff.mpr own)

theorem dpAnswer_other {s : State} {p t : Nat} {f : EthFrame} (other : ¬ (f.onLink = true ∧ s.dpOwn p t = true)) :
    s.dpAnswer p t f = s.count Obj.dpRxDiscard p :=
  if_neg (by rwa [Bool.and_eq_true])

section
variable {s : State} {p : DataPort} {f : EthFrame}
variable (cool : s.power.tripped = false) (mode : s.num Obj.dpMode p ≠ 0) (link : s.num Obj.dpLink p ≠ 0)
include cool mode link

theorem exec_dpFrameRx_unsound
    (unsound : 9216 < f.bytes ∨ f.fcsOk = false ∨ f.ipOk = false ∨ f.udpOk = false ∨ f.fragment = true) :
    exec (.dpFrameRx p f) s = .next (s.count Obj.dpRxDiscard p) := by
  have bad : (decide (9216 < f.bytes) || !f.fcsOk || !f.ipOk || !f.udpOk || f.fragment) = true := by
    simpa only [Bool.or_eq_true, decide_eq_true_eq, Bool.not_eq_true', or_assoc] using unsound
  show execDpFrameRx p f s = _
  simp only [execDpFrameRx, cool, beq_eq_false_iff_ne.mpr mode, beq_eq_false_iff_ne.mpr link, bad, Bool.or_self,
    Bool.false_eq_true, if_false, if_true, discardDp]

variable (sound : SoundFrame f)
include sound

theorem exec_dpFrameRx_asked {t : Nat} (asks : f.payload = .arp t ∨ f.payload = .neighbour t ∨ f.payload = .echo t) :
    exec (.dpFrameRx p f) s = .next (s.dpAnswer p t f) := by
  obtain ⟨size, fcs, ip, udp, whole⟩ := sound
  show execDpFrameRx p f s = _
  rcases asks with payload | payload | payload <;>
    simp only [execDpFrameRx, cool, beq_eq_false_iff_ne.mpr mode, beq_eq_false_iff_ne.mpr link, Nat.not_lt.mpr size, fcs, ip,
      udp, whole, payload, Bool.not_true, decide_false, Bool.or_self, Bool.false_eq_true, if_false]

theorem exec_dpFrameRx_query (query : f.payload = .groupQuery) :
    exec (.dpFrameRx p f) s = .next (if f.onLink then s.dpReport p else s.count Obj.dpRxDiscard p) := by
  obtain ⟨size, fcs, ip, udp, whole⟩ := sound
  show execDpFrameRx p f s = _
  simp only [execDpFrameRx, cool, beq_eq_false_iff_ne.mpr mode, beq_eq_false_iff_ne.mpr link, Nat.not_lt.mpr size, fcs, ip,
    udp, whole, query, Bool.not_true, decide_false, Bool.or_self, Bool.false_eq_true, if_false, discardDp]

theorem exec_dpFrameRx_unmatched (other : f.payload = .gptp ∨ f.payload = .other) :
    exec (.dpFrameRx p f) s = .next (s.count Obj.dpRxDiscard p) := by
  obtain ⟨size, fcs, ip, udp, whole⟩ := sound
  show execDpFrameRx p f s = _
  rcases other with payload | payload <;>
    simp only [execDpFrameRx, cool, beq_eq_false_iff_ne.mpr mode, beq_eq_false_iff_ne.mpr link, Nat.not_lt.mpr size, fcs, ip,
      udp, whole, payload, Bool.not_true, decide_false, Bool.or_self, Bool.false_eq_true, if_false, discardDp]

section
variable {dst port : Nat} {body : Bytes} (datagram : f.payload = .udp dst port body)
include datagram

theorem exec_dpFrameRx_session {n : Nat} (session : s.sessionOf p dst port f.src.vlan = some n) :
    exec (.dpFrameRx p f) s = .next s := by
  obtain ⟨size, fcs, ip, udp, whole⟩ := sound
  show execDpFrameRx p f s = _
  simp only [execDpFrameRx, cool, beq_eq_false_iff_ne.mpr mode, beq_eq_false_iff_ne.mpr link, Nat.not_lt.mpr size, fcs, ip,
    udp, whole, datagram, session, Bool.not_true, decide_false, Bool.or_self, Bool.false_eq_true, if_false]

variable (loose : s.sessionOf p dst port f.src.vlan = none)
include loose

theorem exec_dpFrameRx_stranger (stranger : s.peerOf p port f.src = none) :
    exec (.dpFrameRx p f) s = .next (s.count Obj.dpRxDiscard p) := by
  obtain ⟨size, fcs, ip, udp, whole⟩ := sound
  show execDpFrameRx p f s = _
  simp only [execDpFrameRx, cool, beq_eq_false_iff_ne.mpr mode, beq_eq_false_iff_ne.mpr link, Nat.not_lt.mpr size, fcs, ip,
    udp, whole, datagram, loose, stranger, Bool.not_true, decide_false, Bool.or_self, Bool.false_eq_true, if_false, discardDp]

theorem exec_dpFrameRx_peer {k : PeerId} (peer : s.peerOf p port f.src = some k.val) :
    exec (.dpFrameRx p f) s = s.peerFrame p k body := by
  obtain ⟨size, fcs, ip, udp, whole⟩ := sound
  show execDpFrameRx p f s = _
  simp only [execDpFrameRx, cool, beq_eq_false_iff_ne.mpr mode, beq_eq_false_iff_ne.mpr link, Nat.not_lt.mpr size, fcs, ip,
    udp, whole, datagram, loose, peer, k.isLt, dif_pos, Bool.not_true, decide_false, Bool.or_self, Bool.false_eq_true,
    if_false]

end

end

/-! ### Datagrams of a peer (R230) -/

section
variable {s : State} {p : Nat} {k : PeerId} {body : Bytes}

theorem peerFrame_crcBad
    (bad : body.length < 36 ∨ ofBe (body.drop (body.length - 4)) ≠ crc32 (body.take (body.length - 4))) :
    s.peerFrame p k body = .next (s.count Obj.peerCrcFail k) :=
  if_pos (by rwa [Bool.or_eq_true, decide_eq_true_eq, bne_iff_ne])

variable (size : 36 ≤ body.length) (crc : ofBe (body.drop (body.length - 4)) = crc32 (body.take (body.length - 4)))
include size crc

/-- A peer's datagram whose CRC is right: its version, LENGTH and type decide (R230). -/
theorem peerFrame_crcGood :
    s.peerFrame p k body =
      if fld body 0 1 != 1 || ofBe (cut body 28 2) != (peerFields body).data.length then .next (s.count Obj.dpRxDiscard p)
      else match fld body 1 1 with
        | 1 => execPeerDataRx k (peerFields body) s
        | 2 => execPeerAckRx k (peerFields body) s
        | 3 => execPeerGetRx k (peerFields body) s
        | 4 => execPeerAbortRx k (peerFields body) s
        | _ => .next (s.count Obj.dpRxDiscard p) :=
  if_neg (by rw [Bool.or_eq_true, decide_eq_true_eq, bne_iff_ne, not_or, Decidable.not_not]; exact ⟨Nat.not_lt.mpr size, crc⟩)

theorem peerFrame_malformed (bad : fld body 0 1 ≠ 1 ∨ ofBe (cut body 28 2) ≠ (peerFields body).data.length) :
    s.peerFrame p k body = .next (s.count Obj.dpRxDiscard p) := by
  rw [peerFrame_crcGood size crc, if_pos]
  rwa [Bool.or_eq_true, bne_iff_ne, bne_iff_ne]

variable (version : fld body 0 1 = 1) (length : ofBe (cut body 28 2) = (peerFields body).data.length)
include version length

/-- A well-formed datagram of a peer has the effect of its type (R230). -/
theorem peerFrame_typed :
    s.peerFrame p k body = match fld body 1 1 with
        | 1 => execPeerDataRx k (peerFields body) s
        | 2 => execPeerAckRx k (peerFields body) s
        | 3 => execPeerGetRx k (peerFields body) s
        | 4 => execPeerAbortRx k (peerFields body) s
        | _ => .next (s.count Obj.dpRxDiscard p) := by
  rw [peerFrame_crcGood size crc, if_neg]
  rw [Bool.or_eq_true, bne_iff_ne, bne_iff_ne, not_or, Decidable.not_not, Decidable.not_not]
  exact ⟨version, length⟩

theorem peerFrame_data (type : fld body 1 1 = 1) : s.peerFrame p k body = exec (.peerDataRx k (peerFields body)) s := by
  rw [peerFrame_typed size crc version length, type]
  rfl

theorem peerFrame_ack (type : fld body 1 1 = 2) : s.peerFrame p k body = exec (.peerAckRx k (peerFields body)) s := by
  rw [peerFrame_typed size crc version length, type]
  rfl

theorem peerFrame_get (type : fld body 1 1 = 3) : s.peerFrame p k body = exec (.peerGetRx k (peerFields body)) s := by
  rw [peerFrame_typed size crc version length, type]
  rfl

theorem peerFrame_abort (type : fld body 1 1 = 4) : s.peerFrame p k body = exec (.peerAbortRx k (peerFields body)) s := by
  rw [peerFrame_typed size crc version length, type]
  rfl

theorem peerFrame_unknown (type : fld body 1 1 = 0 ∨ 4 < fld body 1 1) :
    s.peerFrame p k body = .next (s.count Obj.dpRxDiscard p) := by
  rw [peerFrame_typed size crc version length]
  split
  case h_1 is => omega
  case h_2 is => omega
  case h_3 is => omega
  case h_4 is => omega
  case h_5 => rfl

end

/-! ## RTP packets (R314, R318) -/

section
variable {s : State} {st : StreamId} {k : RtpPacket}
variable (cool : s.power.tripped = false) (on : s.srcOn st = true) (link : s.num Obj.dpLink (s.num Obj.srcPort st) ≠ 0)
include cool on link

theorem exec_rtpPacketRx_otherType (other : k.version ≠ 2 ∨ k.pt ≠ s.num Obj.srcPt st) :
    exec (.rtpPacketRx st k) s = .next (s.count Obj.rtpDiscard st) := by
  have bad : (k.version != 2 || k.pt != s.num Obj.srcPt st) = true := by rwa [Bool.or_eq_true, bne_iff_ne, bne_iff_ne]
  show execRtpPacketRx st k s = _
  simp only [execRtpPacketRx, cool, on, beq_eq_false_iff_ne.mpr link, bad, Bool.not_true, Bool.or_self, Bool.false_eq_true,
    if_false, if_true]

variable (version : k.version = 2) (type : k.pt = s.num Obj.srcPt st)
include version type

theorem exec_rtpPacketRx_otherSsrc {x : Word} (locked : (s.stream st).ing.ssrc = some x) (other : x ≠ k.ssrc) :
    exec (.rtpPacketRx st k) s = .next (s.count Obj.rtpDiscard st) := by
  show execRtpPacketRx st k s = _
  simp only [execRtpPacketRx, cool, on, beq_eq_false_iff_ne.mpr link, version, type, locked, bne_iff_ne.mpr other,
    bne_self_eq_false, Option.isNone_some, Bool.false_and, Bool.not_true, Bool.or_self, Bool.false_eq_true, if_false, if_true]

omit cool on link version type in
/-- The packet of the locked SSRC of stream n has come (R318). -/
def State.heard (s : State) (n : Nat) : State := s.modIng n (fun g => { g with lastPkt := s.clk.now })

omit cool on link version type in
/-- The packets up to extended sequence number e have been released (R314). -/
def Ingest.passed (g : Ingest) (e : Nat) : Bool := match g.released with | some r => decide (e ≤ r) | none => false

omit cool on link version type in
/-- A packet of extended sequence number e is held at its place (R314). -/
def State.holdPacket (t : State) (n : Nat) (k : RtpPacket) (e : Nat) : State :=
  t.modIng n (fun g => { g with
    maxSeq := some (max e (g.maxSeq.getD 0))
    held := insHeld g.held { ext := e, pkt := k, arrived := t.clk.now, lode := t.clk.lode, epoch := t.epochBefore t.clk.lode } })

section
variable (locked : (s.stream st).ing.ssrc = some k.ssrc)
include locked

theorem exec_rtpPacketRx_unsupported (unsupported : k.supported = false) :
    exec (.rtpPacketRx st k) s = .next ((s.heard st).count Obj.rtpDiscard st) := by
  show execRtpPacketRx st k s = _
  simp only [execRtpPacketRx, cool, on, beq_eq_false_iff_ne.mpr link, version, type, locked, unsupported, State.heard,
    bne_self_eq_false, Option.isNone_some, Bool.false_and, Bool.not_true, Bool.not_false, Bool.or_self, Bool.false_eq_true,
    if_false, if_true]

/-- A supported packet of the locked SSRC: a duplicate, late, or held (R314). -/
theorem exec_rtpPacketRx_supported (supported : k.supported = true) :
    exec (.rtpPacketRx st k) s = .next (
      let g := (s.stream st).ing
      let e := extSeq g.maxSeq k.seq
      if g.held.any (fun h => h.ext == e) || (g.passed e && decide (g.first ≤ e) && !g.lost.contains e) then
        (s.heard st).count Obj.rtpDup st
      else if g.passed e then (s.heard st).count Obj.rtpLate st
      else (s.heard st).holdPacket st k e) := by
  have ing : ((s.modIng st (fun g => { g with lastPkt := s.clk.now })).stream st).ing
      = { (s.stream st).ing with lastPkt := s.clk.now } := by rw [State.modIng_stream]
  show execRtpPacketRx st k s = _
  simp only [execRtpPacketRx, cool, on, beq_eq_false_iff_ne.mpr link, version, type, locked, supported, State.heard, ing,
    bne_self_eq_false, Option.isNone_some, Bool.false_and, Bool.not_true, Bool.or_self, Bool.false_eq_true, if_false]
  rfl

section
variable (supported : k.supported = true)
include supported

theorem exec_rtpPacketRx_heldDup
    (held : (s.stream st).ing.held.any (fun h => h.ext == extSeq (s.stream st).ing.maxSeq k.seq) = true) :
    exec (.rtpPacketRx st k) s = .next ((s.heard st).count Obj.rtpDup st) := by
  rw [exec_rtpPacketRx_supported cool on link version type locked supported]
  exact congrArg Host.Outcome.next (if_pos (by rw [held]; rfl))

variable (new : (s.stream st).ing.held.any (fun h => h.ext == extSeq (s.stream st).ing.maxSeq k.seq) = false)
include new

theorem exec_rtpPacketRx_releasedDup (passed : (s.stream st).ing.passed (extSeq (s.stream st).ing.maxSeq k.seq) = true)
    (seen : (s.stream st).ing.first ≤ extSeq (s.stream st).ing.maxSeq k.seq ∧
      extSeq (s.stream st).ing.maxSeq k.seq ∉ (s.stream st).ing.lost) :
    exec (.rtpPacketRx st k) s = .next ((s.heard st).count Obj.rtpDup st) := by
  have again : (decide ((s.stream st).ing.first ≤ extSeq (s.stream st).ing.maxSeq k.seq) &&
      !(s.stream st).ing.lost.contains (extSeq (s.stream st).ing.maxSeq k.seq)) = true := by
    rwa [Bool.and_eq_true, decide_eq_true_eq, Bool.not_eq_true', ← Bool.not_eq_true, List.contains_iff_mem]
  rw [exec_rtpPacketRx_supported cool on link version type locked supported]
  exact congrArg Host.Outcome.next (if_pos (by rw [new, passed, Bool.true_and, again]; rfl))

theorem exec_rtpPacketRx_late (passed : (s.stream st).ing.passed (extSeq (s.stream st).ing.maxSeq k.seq) = true)
    (missed : ¬ ((s.stream st).ing.first ≤ extSeq (s.stream st).ing.maxSeq k.seq ∧
      extSeq (s.stream st).ing.maxSeq k.seq ∉ (s.stream st).ing.lost)) :
    exec (.rtpPacketRx st k) s = .next ((s.heard st).count Obj.rtpLate st) := by
  have first : (decide ((s.stream st).ing.first ≤ extSeq (s.stream st).ing.maxSeq k.seq) &&
      !(s.stream st).ing.lost.contains (extSeq (s.stream st).ing.maxSeq k.seq)) = false := by
    rwa [← Bool.not_eq_true, Bool.and_eq_true, decide_eq_true_eq, Bool.not_eq_true', ← Bool.not_eq_true,
      List.contains_iff_mem]
  rw [exec_rtpPacketRx_supported cool on link version type locked supported]
  exact congrArg Host.Outcome.next ((if_neg (by rw [new, passed, Bool.true_and, first]; decide)).trans (if_pos passed))

theorem exec_rtpPacketRx_held (next : (s.stream st).ing.passed (extSeq (s.stream st).ing.maxSeq k.seq) = false) :
    exec (.rtpPacketRx st k) s = .next ((s.heard st).holdPacket st k (extSeq (s.stream st).ing.maxSeq k.seq)) := by
  rw [exec_rtpPacketRx_supported cool on link version type locked supported]
  exact congrArg Host.Outcome.next
    ((if_neg (by simp only [new, next, Bool.false_and, Bool.or_self, Bool.false_eq_true, not_false_eq_true])).trans
      (if_neg (by rw [next]; decide)))

end

end

end

theorem passed_of_released {g : Ingest} {r e : Nat} (released : g.released = some r) (upTo : e ≤ r) : g.passed e = true := by
  simp only [Ingest.passed, released, upTo, decide_true]

theorem passed_false_of_after {g : Ingest} {e : Nat} (after : ∀ r, g.released = some r → r < e) : g.passed e = false := by
  unfold Ingest.passed
  split
  · next r released => exact decide_eq_false (Nat.not_le.mpr (after r released))
  · rfl

theorem exec_rtpRelease_of_held {s : State} {st : StreamId} {h : Held} (cool : s.power.tripped = false)
    (on : s.srcOn st = true) (oldest : minBy (fun h => h.arrived) (s.stream st).ing.held = some h) :
    exec (.rtpRelease st) s = .next (settle s (((s.stream st).ing.held.filter (fun x => decide (x.ext ≤ h.ext))).foldl
      (fun s x => s.releasePacket st x)
      ((s.advanceTo (h.arrived + s.num Obj.srcJitter st * ms)).modIng st (fun g => { g with
        held := g.held.filter (fun x => decide (h.ext < x.ext)) })))) := by
  show execRtpRelease st s = _
  simp only [execRtpRelease, cool, on, oldest, Bool.not_true, Bool.false_eq_true, if_false, done]

theorem exec_ssrcTimeout_of_locked {s : State} {st : StreamId} {x : Word} (on : s.srcOn st = true)
    (any : s.num Obj.srcSsrc st = 0) (locked : (s.stream st).ing.ssrc = some x) :
    exec (.ssrcTimeout st) s = .next ((s.advanceTo ((s.stream st).ing.lastPkt + 2000 * ms)).modIng st (fun g => { g with
      ssrc := none, oldSsrc := g.ssrc })) := by
  show execSsrcTimeout st s = _
  simp only [execSsrcTimeout, on, any, locked, Bool.not_true, bne_self_eq_false, Option.isNone_some, Bool.or_self,
    Bool.false_eq_true, if_false]

theorem exec_streamStallTimeout_of_running {s : State} {st : StreamId} (on : s.srcOn st = true)
    (runs : (s.stream st).ing.stalled = false) :
    exec (.streamStallTimeout st) s = .next (settle s
      ((((s.advanceTo ((s.stream st).ing.lastAu + s.num Obj.srcTimeout st * ms)).modIng st
        (fun g => { g with stalled := true })).syncSrc st).postEvent 0x0307 st (le 8 (s.stream st).ing.lastAuLode))) := by
  show execStreamStallTimeout st s = _
  simp only [execStreamStallTimeout, on, runs, Bool.not_true, Bool.or_self, Bool.false_eq_true, if_false, done]

/-! ## Decoding (R316, R319 to R321, R323) -/

section
variable {s : State} (cool : s.power.tripped = false)
include cool

omit cool in
/-- The oldest complete units of the streams on a decoder core (R321). -/
def State.unitsOn (s : State) (core : Nat) : List (Nat × AccessUnit) :=
  (List.range 48).flatMap (fun n =>
    if s.srcOn n && s.num Obj.decCore n == core then ((s.stream n).ing.units.take 1).map (fun u => (n, u)) else [])

omit cool in
/-- Decoder core takes unit u of stream n (R321). -/
def State.takeUnit (s : State) (core n : Nat) (u : AccessUnit) : State :=
  let t := s.modIng n (fun g => { g with units := g.units.drop 1 })
  { t with media := { t.media with decoding := t.media.decoding ++ [(core, n, u)] } }

theorem exec_decodeStart_takes {core : Fin 4} {n : Nat} {u : AccessUnit}
    (free : s.media.decoding.any (fun d => d.1 == core.val) = false)
    (oldest : minBy (fun x => x.2.done) (s.unitsOn core) = some (n, u)) :
    exec (.decodeStart core) s = .next (s.takeUnit core n u) := by
  unfold State.unitsOn at oldest
  show execDecodeStart core s = _
  simp only [execDecodeStart, cool, free, oldest, Bool.false_eq_true, if_false]
  rfl

omit cool in
/-- The state in which a decoder core has let go of its unit. -/
def State.lessDecoding (s : State) (core : Nat) : State :=
  { s with media := { s.media with decoding := s.media.decoding.filter (fun x => x.1 != core) } }

omit cool in
/-- A decoded unit u of stream n that is beyond what the stream was admitted for (R320). -/
def State.beyondDecode (t : State) (n : Nat) (u : AccessUnit) (e : DecodeEnd) : State :=
  let t := (t.recorded n u { e with error := true }).dropUnit n u 0x11
  if (t.stream n).ing.fault then t else
  ((t.modIng n (fun g => { g with fault := true })).postEvent 0x0305 n (le 4 u.number)).syncSrc n

omit cool in
/-- A unit u of stream n whose decoding met an error (R316, R319). -/
def State.brokenDecode (t : State) (n : Nat) (u : AccessUnit) (e : DecodeEnd) : State :=
  let w := if u.lost == 0 then t.count Obj.auIncomplete n else t
  if w.num Obj.srcConceal n == 0 then ((w.recorded n u e).truncUnit n u).decodeFromIrap n (w.stream n).ing.waitIrap
  else (((if u.concealed then w else w.count Obj.auConcealed n).modIng n (fun g => { g with concealing := true })).recorded n
    { u with concealed := true } e).decoded n { u with concealed := true } e

omit cool in
/-- What the end of a decode of unit u of stream n makes of the state t in which its core has let go of it. -/
def State.decodeEnd (t : State) (n : Nat) (u : AccessUnit) (e : DecodeEnd) : State :=
  if !t.srcOn n then (t.freeSet n u.set).freeRefs n
  else if !e.conforms || decide (t.num Obj.srcWidth n < e.width) || decide (t.num Obj.srcHeight n < e.height) then
    t.beyondDecode n u e
  else if (t.stream n).ing.fault && !u.irap then (t.recorded n u e).dropUnit n u 0x11
  else
    let v := (t.modIng n (fun g => { g with fault := false })).syncSrc n
    if !e.error then (v.recorded n u e).decoded n u e else v.brokenDecode n u e

theorem exec_decodeDone_of_unit {core : Fin 4} {e : DecodeEnd} {d : Nat × Nat × AccessUnit}
    (front : s.media.decoding.find? (fun d => d.1 == core.val) = some d) :
    exec (.decodeDone core e) s = .next (settle s ((s.lessDecoding core).decodeEnd d.2.1 d.2.2 e)) := by
  show execDecodeDone core e s = _
  simp only [execDecodeDone, cool, front, Bool.false_eq_true, if_false, done]
  rfl

end

section
variable {t : State} {n : Nat} {u : AccessUnit} {e : DecodeEnd}

/-- The parameter sets of a unit lie within what stream n was admitted for (R320). -/
def State.fitsDecode (t : State) (n : Nat) (e : DecodeEnd) : Prop :=
  e.conforms = true ∧ e.width ≤ t.num Obj.srcWidth n ∧ e.height ≤ t.num Obj.srcHeight n

theorem decodeEnd_off (off : t.srcOn n = false) : t.decodeEnd n u e = (t.freeSet n u.set).freeRefs n := by
  rw [State.decodeEnd, off]
  rfl

theorem recorded_fault : ((t.recorded n u e).stream n).ing.fault = (t.stream n).ing.fault := by
  unfold State.recorded
  dsimp only
  split
  · rw [State.setBlob_stream]
  · rw [State.writeBytes_stream, State.setBlob_stream]

theorem decodeEnd_beyond (on : t.srcOn n = true) (beyond : ¬ t.fitsDecode n e) (sound : (t.stream n).ing.fault = false) :
    t.decodeEnd n u e = ((((t.recorded n u { e with error := true }).dropUnit n u 0x11).modIng n
      (fun g => { g with fault := true })).postEvent 0x0305 n (le 4 u.number)).syncSrc n := by
  have bad : (!e.conforms || decide (t.num Obj.srcWidth n < e.width) || decide (t.num Obj.srcHeight n < e.height)) = true := by
    refine Bool.of_not_eq_false fun fits => beyond ?_
    rw [Bool.or_eq_false_iff, Bool.or_eq_false_iff, Bool.not_eq_false', decide_eq_false_iff_not,
      decide_eq_false_iff_not, Nat.not_lt, Nat.not_lt, and_assoc] at fits
    exact fits
  have still : (((t.recorded n u { e with error := true }).dropUnit n u 0x11).stream n).ing.fault = false := by
    rw [dropUnit_fault, recorded_fault, sound]
  simp only [State.decodeEnd, on, bad, State.beyondDecode, still, Bool.not_true, Bool.false_eq_true, if_false, if_true]

section
variable (on : t.srcOn n = true) (fits : t.fitsDecode n e)
include on fits

theorem decodeEnd_fits :
    t.decodeEnd n u e = if (t.stream n).ing.fault && !u.irap then (t.recorded n u e).dropUnit n u 0x11
      else
        let v := (t.modIng n (fun g => { g with fault := false })).syncSrc n
        if !e.error then (v.recorded n u e).decoded n u e else v.brokenDecode n u e := by
  obtain ⟨conforms, width, height⟩ := fits
  simp only [State.decodeEnd, on, conforms, Nat.not_lt.mpr width, Nat.not_lt.mpr height, Bool.not_true, decide_false,
    Bool.or_self, Bool.false_eq_true, if_false]

theorem decodeEnd_inter (fault : (t.stream n).ing.fault = true) (inter : u.irap = false) :
    t.decodeEnd n u e = (t.recorded n u e).dropUnit n u 0x11 := by
  rw [decodeEnd_fits on fits, fault, inter]
  rfl

variable (goes : (t.stream n).ing.fault = false ∨ u.irap = true)
include goes

theorem decodeEnd_goes :
    t.decodeEnd n u e =
      let v := (t.modIng n (fun g => { g with fault := false })).syncSrc n
      if !e.error then (v.recorded n u e).decoded n u e else v.brokenDecode n u e := by
  have kept : ((t.stream n).ing.fault && !u.irap) = false := by
    rwa [Bool.and_eq_false_iff, Bool.not_eq_false']
  rw [decodeEnd_fits on fits, kept]
  rfl

theorem decodeEnd_clean (clean : e.error = false) :
    t.decodeEnd n u e =
      ((((t.modIng n (fun g => { g with fault := false })).syncSrc n).recorded n u e).decoded n u e) := by
  rw [decodeEnd_goes on fits goes, clean]
  rfl

theorem decodeEnd_broken (broken : e.error = true) :
    t.decodeEnd n u e = ((t.modIng n (fun g => { g with fault := false })).syncSrc n).brokenDecode n u e := by
  rw [decodeEnd_goes on fits goes, broken]
  rfl

end

/-- A unit without a missing packet whose decoding met an error is counted as incomplete (R316). -/
def State.countBroken (t : State) (n : Nat) (u : AccessUnit) : State :=
  if u.lost = 0 then t.count Obj.auIncomplete n else t

theorem brokenDecode_drops (drops : (t.countBroken n u).num Obj.srcConceal n = 0) :
    t.brokenDecode n u e = (((t.countBroken n u).recorded n u e).truncUnit n u).decodeFromIrap n
      ((t.countBroken n u).stream n).ing.waitIrap := by
  unfold State.countBroken at drops ⊢
  simp only [State.brokenDecode, beq_iff_eq]
  exact if_pos drops

theorem brokenDecode_conceals (conceals : (t.countBroken n u).num Obj.srcConceal n ≠ 0) :
    t.brokenDecode n u e =
      (((if u.concealed then t.countBroken n u else (t.countBroken n u).count Obj.auConcealed n).modIng n
        (fun g => { g with concealing := true })).recorded n { u with concealed := true } e).decoded n
          { u with concealed := true } e := by
  unfold State.countBroken at conceals ⊢
  simp only [State.brokenDecode, beq_iff_eq]
  exact if_neg conceals

end

/-! ## Conversions, clips and snapshots (R322, R325, R326) -/

/-- The outputs of unit u of stream n are written from address a with the free value d, by the epoch of its start (R322). -/
def State.convert (t : State) (d n a : Nat) (u : AccessUnit) (ps : Bytes) : State :=
  let x := Config.decodedSamples u.body u.width u.height d
  let y := if t.num Obj.srcCodec n == 2 && t.num Obj.srcProfile n == 2 then x.map roundTen else x
  (t.writeBytes (a + 64) (pictureBytes ps (t.num Obj.srcWidth n) (t.num Obj.srcHeight n) y d)).written n u.sof u.sofMono

/-- The frame that the converted unit u makes in state v. -/
def State.unitFrame (v : State) (u : AccessUnit) : Frame :=
  { number := u.number, csiFn := 0, sof := u.sof, sofMono := u.sofMono, epoch := u.epoch, gen := 0, lines := [], ended := []
    digest := 0, spilled := false, dropped := false, set := u.set, tcause := if u.concealed then 0x10 else 0
    feTime := v.clk.lode, feMono := v.clk.now, held := !v.accepts }

/-- The converted unit u of stream n completes for its attachment, or counts as dropped and frees its set. -/
def State.unitOut (v : State) (n : Nat) (u : AccessUnit) : State :=
  if (v.stream n).attach.isSome then v.modStream n (fun x => { x with complete := x.complete ++ [v.unitFrame u] })
  else (v.noteDrop n).freeSet n u.set

theorem exec_conversionDone_of_unit {s : State} {st : StreamId} {u : AccessUnit} {rest : List AccessUnit} {a : Nat}
    (cool : s.power.tripped = false) (due : (s.stream st).ing.converting = u :: rest) (scp : s.runs P.scp = true)
    (mdp : s.runs P.mdp = true) (replayed : s.work.replayDone = true) (set : s.setAddr st u.set = some a) :
    exec (.conversionDone st) s = .next (
      let t := s.modIng st (fun g => { g with converting := rest })
      let ps := (t.epochVal u.epoch (Obj.srcConvert.key st) Obj.srcConvert.dflt).bytes
      (t.draw.2.convert t.draw.1 st a u ps).unitOut st u) := by
  have place : (s.modIng st (fun g => { g with converting := rest })).setAddr st u.set = some a := by
    simpa only [State.setAddr, State.modIng_stream] using set
  show execConversionDone st s = _
  simp only [execConversionDone, cool, due, scp, mdp, replayed, place, Bool.not_true, Bool.or_self, Bool.false_eq_true,
    if_false]
  rfl

theorem exec_clipDone_of_ended {s : State} {st : StreamId} {c : Clip} {x : Nat} (cool : s.power.tripped = false)
    (clip : (s.stream st).clip = some c) (ended : c.ending = some x) :
    exec (.clipDone st) s = .next ((s.modStream st (fun x => { x with clip := none })).postEvent 0x0308 st
      (cut c.req 4 2 ++ le 2 x ++ le 4 c.frames ++ le 4 c.used ++ zeros 4 ++ le 8 c.sof)) := by
  show execClipDone st s = _
  simp only [execClipDone, cool, clip, ended, Bool.false_eq_true, if_false]

/-- The snapshot x of stream n, taken at sof, ends: the bytes b are written as far as they fit, and SNAP_DONE is posted (R326). -/
def State.snapOut (t : State) (n sof : Nat) (x : Snap) (b : Bytes) (status : Nat) : State :=
  (t.writeBytes (encDest x.req) (b.take (encLen x.req))).postEvent 0x0309 n
    (cut x.req 4 2 ++ le 2 status ++ le 4 b.length ++ zeros 4 ++ le 8 sof)

theorem exec_snapDone_of_due {s : State} {st : StreamId} {x : Snap} {rest : List Snap} {sof : Nat}
    (cool : s.power.tripped = false) (first : s.media.snaps = x :: rest) (taken : x.sof = some sof) (own : x.stream = st.val) :
    exec (.snapDone st) s = .next (
      let t := { s with media := { s.media with snaps := rest } }
      let b := Config.encode x.req t.draw.1
      t.draw.2.snapOut st sof x b (if b.length ≤ encLen x.req then St.ok else St.resourceOverflow)) := by
  show execSnapDone st s = _
  simp only [execSnapDone, cool, first, taken, own, bne_self_eq_false, Bool.false_eq_true, if_false, decide_eq_true_eq]
  rfl

/-- Settles O48. A request for another's address that a data port does not answer counts in DP_RX_DISCARD
(notes/assumptions/63.md), and the sequence number is extended by its nearest value (notes/assumptions/27.md). -/
theorem ingestStreams : Obligations.IngestStreams := by
  refine ⟨fun s => ⟨?port, ?packet, ?release, ?ssrc, ?stall⟩, fun s cool => ⟨?start, ?decode, ?convert, ?clip, ?snap⟩⟩
  case port =>
    intro p f cool mode link rx discard
    refine ⟨exec_dpFrameRx_unsound cool mode link, fun size fcs ip udp whole => ?_⟩
    have sound : SoundFrame f := ⟨size, fcs, ip, udp, whole⟩
    refine ⟨fun t asks => ?asked, fun query => ?query, fun dst port body datagram => ?datagram,
      exec_dpFrameRx_unmatched cool mode link sound⟩
    case asked =>
      have answer := exec_dpFrameRx_asked cool mode link sound asks
      exact ⟨fun own => answer.trans (congrArg Host.Outcome.next (dpAnswer_own own)),
        fun other => answer.trans (congrArg Host.Outcome.next (dpAnswer_other other))⟩
    case query =>
      have answer := exec_dpFrameRx_query cool mode link sound query
      exact ⟨fun here => answer.trans (congrArg Host.Outcome.next (if_pos here)),
        fun away => answer.trans (congrArg Host.Outcome.next (if_neg (by rw [away]; decide)))⟩
    case datagram =>
      refine ⟨fun n => exec_dpFrameRx_session cool mode link sound datagram,
        exec_dpFrameRx_stranger cool mode link sound datagram, ?_⟩
      intro k loose peer n g
      have taken : rx = s.peerFrame p k body := exec_dpFrameRx_peer cool mode link sound datagram loose peer
      refine ⟨fun bad => taken.trans (peerFrame_crcBad bad), fun size crc => ?_⟩
      refine ⟨fun bad => taken.trans (peerFrame_malformed size crc bad), fun version length => ?_⟩
      exact ⟨fun type => taken.trans (peerFrame_data size crc version length type),
        fun type => taken.trans (peerFrame_ack size crc version length type),
        fun type => taken.trans (peerFrame_get size crc version length type),
        fun type => taken.trans (peerFrame_abort size crc version length type),
        fun type => taken.trans (peerFrame_unknown size crc version length type)⟩
  case packet =>
    intro st k cool on link rx g drop
    refine ⟨exec_rtpPacketRx_otherType cool on link, fun version type => ⟨?other, fun locked => ?_⟩⟩
    case other => exact fun x => exec_rtpPacketRx_otherSsrc cool on link version type
    intro t e
    refine ⟨exec_rtpPacketRx_unsupported cool on link version type locked,
      exec_rtpPacketRx_heldDup cool on link version type locked, ?passed, ?next⟩
    case passed =>
      intro r supported new released upTo
      have passed := passed_of_released released upTo
      exact ⟨exec_rtpPacketRx_releasedDup cool on link version type locked supported new passed,
        exec_rtpPacketRx_late cool on link version type locked supported new passed⟩
    case next =>
      intro supported new after
      exact exec_rtpPacketRx_held cool on link version type locked supported new (passed_false_of_after after)
  case release =>
    intro st h cool on oldest held t
    exact ⟨(minBy_mem _ _ _ oldest).2, exec_rtpRelease_of_held cool on oldest⟩
  case ssrc => exact fun st x on any locked => exec_ssrcTimeout_of_locked on any locked
  case stall => exact fun st on runs => exec_streamStallTimeout_of_running on runs
  case start =>
    intro core n u free l oldest t
    exact ⟨(minBy_mem _ _ _ oldest).2, exec_decodeStart_takes cool free oldest⟩
  case decode =>
    intro core e d front n u ends t fits
    have ended : ends = .next (settle s (t.decodeEnd n u e)) := exec_decodeDone_of_unit cool front
    refine ⟨fun off => ended.trans (congrArg (done s) (decodeEnd_off off)),
      fun on beyond sound => ended.trans (congrArg (done s) (decodeEnd_beyond on beyond sound)),
      fun on fits fault inter => ended.trans (congrArg (done s) (decodeEnd_inter on fits fault inter)),
      fun on fits goes => ?_⟩
    intro v
    refine ⟨fun clean => ended.trans (congrArg (done s) (decodeEnd_clean on fits goes clean)), fun broken => ?_⟩
    intro w
    have met := ended.trans (congrArg (done s) (decodeEnd_broken on fits goes broken))
    exact ⟨fun drops => met.trans (congrArg (done s) (brokenDecode_drops drops)),
      fun conceals => met.trans (congrArg (done s) (brokenDecode_conceals conceals))⟩
  case convert =>
    intro st u rest a due scp mdp replayed set t ps x y v f
    have converted : exec (.conversionDone st) s = .next (v.unitOut st u) :=
      exec_conversionDone_of_unit cool due scp mdp replayed set
    exact ⟨fun attached => converted.trans (congrArg Host.Outcome.next (if_pos attached)),
      fun loose => converted.trans (congrArg Host.Outcome.next (if_neg (by rw [loose]; decide)))⟩
  case clip => exact fun st c x clip ended => exec_clipDone_of_ended cool clip ended
  case snap =>
    intro st x rest sof first taken own t b done'
    have out : exec (.snapDone st) s = .next (done' (if b.length ≤ encLen x.req then St.ok else St.resourceOverflow)) :=
      exec_snapDone_of_due cool first taken own
    exact ⟨fun fits => out.trans (by rw [if_pos fits]), fun long => out.trans (by rw [if_neg (Nat.not_le.mpr long)])⟩

end Sys2Proof.Machine
end

section
/-! The proof of O49: the order of a session's requests, and the lease. -/

namespace Sys2Proof.Machine

/-! ## Requests of the session (R338) -/

section
variable {s : State} {r : Req} (up : s.hostUp = true) (normal : s.recovering = false)
include up normal

theorem exec_renew_elsewhere (elsewhere : s.holder r = false) :
    exec (.renew r) s =
      .next (s.respond r 3 (if s.link.lease = .held then St.leaseHeld else St.leaseExpired) [] false) :=
  congrArg Host.Outcome.next (State.hostReq_elsewhere s r _ _ _ up normal elsewhere)

variable (type : Nat) (cmd : Instr) (body : State → Nat × Bytes × State) (holder : s.holder r = true) {e : Word}
variable (expected : s.link.expected = some e)
include holder expected

theorem hostReq_inTurn (turn : r.seq = e) :
    s.hostReq r type cmd body = (body (s.turned r)).2.2.respond r type (body (s.turned r)).1 (body (s.turned r)).2.1 true :=
  State.hostReq_turn ⟨up, normal, holder, by rw [expected, turn]; rfl⟩ type cmd body

variable (outOfTurn : r.seq ≠ e)
include outOfTurn

theorem hostReq_repeated {x : Resp} (stored : s.link.stored.find? (fun x => x.seq == r.seq) = some x) :
    s.hostReq r type cmd body = { s with link := { s.link with tx := s.link.tx ++ [{ x with sa := s.txSa }] } } := by
  rw [State.hostReq_outOfTurn s r type cmd body up normal holder e expected outOfTurn]
  simp only [stored]

theorem hostReq_ahead (fresh : s.link.stored.find? (fun x => x.seq == r.seq) = none) (near : (r.seq - e).toNat ≤ 64)
    (new : s.link.held.any (fun h => h.1 == r.seq) = false) :
    s.hostReq r type cmd body = { s with link := { s.link with held := s.link.held ++ [(r.seq, cmd, s.clk.now)] } } := by
  rw [State.hostReq_outOfTurn s r type cmd body up normal holder e expected outOfTurn]
  simp only [fresh, ahead, near, new, Bool.false_eq_true, if_true, if_false]

theorem hostReq_far (fresh : s.link.stored.find? (fun x => x.seq == r.seq) = none) (far : 64 < (r.seq - e).toNat) :
    s.hostReq r type cmd body = s.count Obj.hlSeqDiscard := by
  rw [State.hostReq_outOfTurn s r type cmd body up normal holder e expected outOfTurn]
  simp only [fresh, ahead, Nat.not_le.mpr far, if_false]

end

theorem exec_hlpHoldTimeout_of_held {s : State} {n : Word} {h : Word × Instr × Nat}
    (held : s.link.held.find? (fun h => h.1 == n) = some h) :
    exec (.hlpHoldTimeout n) s =
      let t := (s.advanceTo (h.2.2 + 20 * ms)).count Obj.hlSeqDiscard
      .next { t with link := { t.link with held := t.link.held.filter (fun x => x.1 != n) } } := by
  show execHlpHoldTimeout n s = _
  simp only [execHlpHoldTimeout, held]

/-! ## CLAIM (R354) -/

section
variable {s : State} {r : Req} {host : Bytes} {period : Nat} (up : s.hostUp = true)
include up

theorem exec_claim_of_other (leased : s.link.lease = .held) (other : host ≠ s.link.hostId) :
    exec (.claim r host period) s = .next (s.respond r 1 St.leaseHeld [] false) := by
  refine congrArg Host.Outcome.next (?_ : s.claim r host period = _)
  simp only [State.claim, up, leased, other, Bool.not_true, beq_self_eq_true, decide_true, ne_eq, not_false_eq_true,
    Bool.and_self, Bool.false_eq_true, if_false, if_true]

variable (free : s.link.lease ≠ .held ∨ host = s.link.hostId)
include free

omit up in
theorem claim_notRefused : (s.link.lease == .held && decide (host ≠ s.link.hostId)) = false := by
  rw [Bool.and_eq_false_iff]
  exact free.imp beq_eq_false_iff_ne.mpr (fun same => decide_eq_false (not_not_intro same))

theorem exec_claim_of_range (given : period ≠ 0) (bad : period < 100 ∨ 60000 < period) :
    exec (.claim r host period) s = .next (s.respond r 1 St.range [] false) := by
  have range : (period != 0 && (decide (period < 100) || decide (60000 < period))) = true := by
    rwa [bne_iff_ne.mpr given, Bool.true_and, Bool.or_eq_true, decide_eq_true_eq, decide_eq_true_eq]
  refine congrArg Host.Outcome.next (?_ : s.claim r host period = _)
  simp only [State.claim, up, claim_notRefused free, range, Bool.not_true, Bool.false_eq_true, if_false, if_true]

theorem exec_claim_grants (good : period = 0 ∨ (100 ≤ period ∧ period ≤ 60000)) :
    exec (.claim r host period) s =
      let n := if period = 0 then s.num Obj.leasePeriod else period
      let t := s.grant r host n
      .next (t.respond { r with session := t.link.session } 1 St.ok (be 4 n ++ be 8 s.work.bootEpoch) false) := by
  have range : (period != 0 && (decide (period < 100) || decide (60000 < period))) = false := by
    rcases good with rfl | ⟨low, high⟩
    · rfl
    · rw [decide_eq_false (Nat.not_lt.mpr low), decide_eq_false (Nat.not_lt.mpr high), Bool.or_self, Bool.and_false]
  refine congrArg Host.Outcome.next (?_ : s.claim r host period = _)
  simp only [State.claim, up, claim_notRefused free, range, Bool.not_true, Bool.false_eq_true, if_false, beq_iff_eq]

end

/-- The session of a new grant, picked with a free value (R354). -/
def State.newSession (s : State) : Word := BitVec.ofNat 32 (pickSession s.draw.1 s.link.session.toNat)

theorem newSession_toNat (s : State) : s.newSession.toNat = pickSession s.draw.1 s.link.session.toNat :=
  (BitVec.toNat_ofNat ..).trans (Nat.mod_eq_of_lt (pickSession_new _ _ s.link.session.isLt).1)

theorem newSession_ne_zero (s : State) : s.newSession ≠ 0 := fun zero =>
  (pickSession_new s.draw.1 _ s.link.session.isLt).2.1 ((newSession_toNat s).symm.trans (congrArg BitVec.toNat zero))

theorem newSession_ne_previous (s : State) : s.newSession ≠ s.link.session := fun same =>
  (pickSession_new s.draw.1 _ s.link.session.isLt).2.2 ((newSession_toNat s).symm.trans (congrArg BitVec.toNat same))

/-- A grant leaves the link as this says, but for the events that wait and the changes that an EVENT frame tells. -/
theorem grant_link (s : State) (r : Req) (host : Bytes) (n : Nat) : ∃ w d c k t, (s.grant r host n).link =
    { s.link with
      lease := .held, session := s.newSession, hostId := host, bound := r.src, periodMs := n, renewed := s.clk.now
      heldFor := none, expected := some (r.seq + 1), held := [], stored := [], lastEvent := s.clk.now, frames := 0
      evWait := w, evDropped := d, changed := c, changes := k, timer := t } := by
  obtain ⟨w, d, c, k, t, link⟩ := State.postEvent_link { s.draw.2 with link := { s.draw.2.link with
    lease := .held, session := s.newSession, hostId := host, bound := r.src, periodMs := n, renewed := s.clk.now
    heldFor := none, expected := some (r.seq + 1), held := [], stored := [], changed := [], changes := 0, timer := none
    lastEvent := s.clk.now, frames := 0 } } 0x0203 0xFFFF (le 4 s.newSession.toNat ++ host)
  exact ⟨w, d, c, k, t, link⟩

theorem grant_work (s : State) (r : Req) (host : Bytes) (n : Nat) : (s.grant r host n).work = s.work :=
  State.postEvent_work ..

theorem grant_media (s : State) (r : Req) (host : Bytes) (n : Nat) : (s.grant r host n).media = s.media :=
  State.postEvent_media ..

/-! ## RENEW, RELEASE and expiry (R355, R356) -/

theorem exec_leaseExpiry_of_held {s : State} (leased : s.link.lease = .held) (runs : s.link.heldFor = none) :
    exec .leaseExpiry s = .next (settle s ((s.advanceTo (s.link.renewed + s.link.periodMs * ms)).lapse 0)) := by
  show execLeaseExpiry s = _
  simp only [execLeaseExpiry, leased, runs, bne_self_eq_false, Option.isSome_none, Bool.or_self, Bool.false_eq_true, if_false,
    done]

/-- The lapse of the lease up to its event, with the policy applied (R356). -/
def State.ownerLost (s : State) (how : Nat) : State :=
  let t := ({ s with link := { s.link with lease := .lapsed } } : State).postEvent 0x0202 0xFFFF
    (le 4 s.link.session.toNat ++ le 1 (s.num Obj.orphanPolicy) ++ le 1 how)
  { t with link := { t.link with orphan := max t.link.orphan (s.num Obj.orphanPolicy), policyAtLapse := s.num Obj.orphanPolicy } }

theorem lapse_eq (s : State) (how : Nat) :
    s.lapse how = if s.num Obj.orphanPolicy == 2 then (s.ownerLost how).enterCause 4 else s.ownerLost how := rfl

theorem lapse_link (s : State) (how : Nat) : (s.lapse how).link = (s.ownerLost how).link := by
  rw [lapse_eq]
  split <;> rfl

theorem ownerLost_link (s : State) (how : Nat) : (s.ownerLost how).link.lease = .lapsed ∧
    (s.ownerLost how).link.session = s.link.session ∧
    (s.ownerLost how).link.orphan = max s.link.orphan (s.num Obj.orphanPolicy) := by
  obtain ⟨w, d, c, k, t, link⟩ := State.postEvent_link ({ s with link := { s.link with lease := .lapsed } } : State) 0x0202
    0xFFFF (le 4 s.link.session.toNat ++ le 1 (s.num Obj.orphanPolicy) ++ le 1 how)
  unfold State.ownerLost
  dsimp only
  rw [link]
  exact ⟨rfl, rfl, rfl⟩

theorem lapse_safety {s : State} (how : Nat) (keeps : s.num Obj.orphanPolicy ≠ 2) : (s.lapse how).safety = s.safety := by
  rw [lapse_eq, if_neg (by rwa [beq_iff_eq])]
  exact State.postEvent_safety ..

/-- Settles O49. A claim of another host is decided before the range of PERIOD_MS, the response carries the new session,
and of the policies of several lapses the largest is in force: notes/assumptions/38.md. -/
theorem sessionOrder : Obligations.SessionOrder := by
  refine ⟨⟨?request, ?elsewhere, ?hold⟩, ?claim, ?turn, ?expiry, ?lapse⟩
  case request =>
    intro s r type cmd body up normal a
    refine ⟨State.hostReq_elsewhere s r type cmd body up normal, fun holder e expected => ⟨?_, ?_, fun ne fresh => ?_⟩⟩
    · exact hostReq_inTurn up normal type cmd body holder expected
    · exact fun ne x stored => hostReq_repeated up normal type cmd body holder expected ne stored
    · exact ⟨hostReq_ahead up normal type cmd body holder expected ne fresh,
        hostReq_far up normal type cmd body holder expected ne fresh⟩
  case elsewhere => exact fun s r up normal elsewhere => exec_renew_elsewhere up normal elsewhere
  case hold => exact fun s n h held => exec_hlpHoldTimeout_of_held held
  case claim =>
    intro s r host period up
    refine ⟨exec_claim_of_other up, fun free => ⟨exec_claim_of_range up free, fun good => ?_⟩⟩
    intro n t
    obtain ⟨w, d, c, k, timer, link⟩ := grant_link s r host n
    refine ⟨exec_claim_grants up free good, ?_⟩
    rw [show t.link = _ from link]
    exact ⟨rfl, newSession_ne_zero s, newSession_ne_previous s, rfl, rfl, rfl, rfl, rfl, rfl, rfl, rfl,
      grant_work s r host n, grant_media s r host n⟩
  case turn =>
    intro s r turn
    exact ⟨congrArg Host.Outcome.next (State.hostReq_turn turn _ _ _), congrArg (done s) (State.hostReq_turn turn _ _ _)⟩
  case expiry => exact fun s leased runs => exec_leaseExpiry_of_held leased runs
  case lapse =>
    intro s how
    obtain ⟨lease, session, orphan⟩ := ownerLost_link s how
    rw [lapse_link]
    exact ⟨lease, session, orphan, lapse_safety how⟩

end Sys2Proof.Machine
end

section
/-! The proof of O50: device memory, result buffers and SYNC. -/

namespace Sys2Proof.Machine

/-- The response of a request in its turn whose body came to x: its status, its bytes, and the state it left. -/
def answered (r : Req) (type : Nat) (x : Nat × Bytes × State) : State := x.2.2.respond r type x.1 x.2.1 true

theorem answered_eq (r : Req) (type st : Nat) (b : Bytes) (u : State) :
    answered r type (st, b, u) = u.respond r type st b true := rfl

section
variable {s : State} {r : Req} (turn : Turn s r)
include turn

/-! ## Device memory (R341) -/

theorem exec_memRead_turn (a n : Nat) :
    exec (.memRead r a n) s = .next (settle s (answered r 0x20 (memReadBody a n (s.turned r)))) :=
  congrArg (done s) (State.hostReq_turn turn _ _ _)

theorem exec_memWrite_turn (a : Nat) (b : Bytes) :
    exec (.memWrite r a b) s = .next (settle s (answered r 0x21 (memWriteBody a b (s.turned r)))) :=
  congrArg (done s) (State.hostReq_turn turn _ _ _)

/-! ## Result buffers (R347, R348) -/

theorem exec_resultRead_turn (h : Word) (off n : Nat) :
    exec (.resultRead r h off n) s = .next (settle s (answered r 0x22 (resultReadBody h.toNat off n (s.turned r)))) :=
  congrArg (done s) (State.hostReq_turn turn _ _ _)

omit turn in
theorem resultReleaseBody_of_some {hs : List Word} (some : 1 ≤ hs.length) (few : hs.length ≤ 64) (t : State) :
    resultReleaseBody hs t = (St.ok, (State.releaseBufs hs t).1, (State.releaseBufs hs t).2) := by
  have nonempty : hs.isEmpty = false := by
    rw [← Bool.not_eq_true, List.isEmpty_iff_length_eq_zero]
    omega
  simp only [resultReleaseBody, nonempty, Nat.not_lt.mpr few, decide_false, Bool.or_self, Bool.false_eq_true, if_false]

theorem exec_resultRelease_of_some {hs : List Word} (some : 1 ≤ hs.length) (few : hs.length ≤ 64) :
    exec (.resultRelease r hs) s = .next ((State.releaseBufs hs (s.turned r)).2.respond r 0x23 St.ok
      (State.releaseBufs hs (s.turned r)).1 true) := by
  refine congrArg Host.Outcome.next ((State.hostReq_turn turn _ _ _).trans ?_)
  rw [resultReleaseBody_of_some some few]

omit turn in
theorem releaseBuf_pending {h : Nat} (pending : s.handleFinds h = 0) : s.releaseBuf h = (St.stateConflict, s) := by
  simp only [State.releaseBuf, pending]

omit turn in
theorem releaseBuf_ready {h : Nat} (ready : s.handleFinds h = 1) :
    s.releaseBuf h = (St.ok, s.modBuf h (fun b => { b with state := .released })) := by
  simp only [State.releaseBuf, ready]

omit turn in
theorem releaseBuf_released {h : Nat} (released : s.handleFinds h = 2) : s.releaseBuf h = (St.released, s) := by
  simp only [State.releaseBuf, released]

omit turn in
theorem releaseBuf_unknown {h : Nat} (unknown : s.handleFinds h = 3) : s.releaseBuf h = (St.range, s) := by
  simp only [State.releaseBuf, unknown]

/-! ## SYNC (R359) -/

omit turn in
theorem syncBody_of_down {t : State} (down : t.runs P.scp = false) : syncBody t = (St.busy, [], t) := by
  simp only [syncBody, down, Bool.not_false, if_true]

omit turn in
theorem syncBody_of_up {t : State} {p n : Nat} (up : t.runs P.scp = true) (region : t.link.syncAt = some (p, n)) :
    syncBody t = (St.ok, be 8 (p * pageBytes) ++ be 4 t.summary.1.length,
      t.summary.2.writeBytes (p * pageBytes) t.summary.1) := by
  simp only [syncBody, up, region, Bool.not_true, Bool.false_eq_true, if_false]

theorem exec_sync_turn : exec (.sync r) s = .next (answered r 0x40 (syncBody (s.turned r))) :=
  congrArg Host.Outcome.next (State.hostReq_turn turn _ _ _)

end

/-- Settles O50. -/
theorem hostMemory : Obligations.HostMemory := by
  intro s r turn t
  refine ⟨?read, ?write, ?result, fun hs some few => exec_resultRelease_of_some turn some few, fun h =>
    ⟨releaseBuf_pending, releaseBuf_released, releaseBuf_unknown, releaseBuf_ready⟩, ?down, ?summary⟩
  case read =>
    intro a n low high awake
    have response := fun x (body : memReadBody a n t = x) =>
      (exec_memRead_turn turn a n).trans (congrArg (fun y => done s (answered r 0x20 y)) body)
    exact ⟨fun locked => response _ (memRead_not s r a n low high awake locked),
      fun granted good => response _ (memRead_ok s r a n low high awake granted good)⟩
  case write =>
    intro a b low high awake
    have response := fun x (body : memWriteBody a b t = x) =>
      (exec_memWrite_turn turn a b).trans (congrArg (fun y => done s (answered r 0x21 y)) body)
    exact ⟨fun locked => response _ (memWrite_not s r a b low high awake locked),
      fun granted => response _ (memWrite_ok s r a b low high awake granted)⟩
  case result =>
    intro h off n low high awake x ends
    have response := fun y (body : resultReadBody h.toNat off n t = y) =>
      (exec_resultRead_turn turn h off n).trans (congrArg (fun y => done s (answered r 0x22 y)) body)
    have body := resultRead_st s r h.toNat off n low high awake
    refine ⟨fun unknown => ?_, fun released => ?_, fun pending => ?_, fun ready short => ?_, fun ready within => ?_⟩
    · exact response _ (body.trans (if_pos unknown))
    · exact response _ (body.trans ((if_neg (by omega)).trans (if_pos released)))
    · exact response _ (body.trans ((if_neg (by omega)).trans ((if_neg (by omega)).trans (if_pos pending))))
    · exact response _ (body.trans ((if_neg (by omega)).trans ((if_neg (by omega)).trans ((if_neg (by omega)).trans
        (if_pos short)))))
    · exact response _ (body.trans ((if_neg (by omega)).trans ((if_neg (by omega)).trans ((if_neg (by omega)).trans
        (if_neg (Nat.not_lt.mpr within))))))
  case down =>
    exact fun down => (exec_sync_turn turn).trans
      (congrArg (fun y => Host.Outcome.next (answered r 0x40 y)) (syncBody_of_down (t := t) down))
  case summary =>
    intro p n up region b
    rw [exec_sync_turn turn, syncBody_of_up (t := s.turned r) up region, answered_eq]

end Sys2Proof.Machine
end

section
/-! The proof of O51: dictionary reads and writes: checks, segments and apply classes. -/

namespace Sys2Proof.Machine

/-! ## DICT_READ (R340, R355, R370) -/

theorem exec_dictRead_turn {s : State} {r : Req} (i : BitVec 16) (j : Byte) (off len : Nat) (turn : Turn s r)
    (session : r.session ≠ 0) :
    exec (.dictRead r i j off len) s =
      let x := dictReadBody i.toNat j.toNat off len (s.turned r)
      .next (x.2.2.respond r 0x10 x.1 x.2.1 true) := by
  have own : (r.session == 0 && openObject i.toNat j.toNat) = false := by
    rw [beq_eq_false_iff_ne.mpr session, Bool.false_and]
  refine congrArg Host.Outcome.next (?_ : s.dictRead r _ _ _ off len = _)
  rw [State.dictRead, if_neg (by rw [own]; decide)]
  exact State.hostReq_turn turn _ _ _

theorem exec_dictRead_free {s : State} {r : Req} {i : BitVec 16} {j : Byte} (off len : Nat) (up : s.hostUp = true)
    (session : r.session = 0) (opened : openObject i.toNat j.toNat = true) :
    exec (.dictRead r i j off len) s =
      let x := dictReadBody i.toNat j.toNat off len s
      .next (x.2.2.respond r 0x10 x.1 x.2.1 false) := by
  refine congrArg Host.Outcome.next (?_ : s.dictRead r _ _ _ off len = _)
  simp only [State.dictRead, session, opened, beq_self_eq_true, Bool.and_self, if_true, State.freeReq, up, Bool.not_true,
    Bool.false_eq_true, if_false]

section
variable {s : State} {i j off len : Nat} (low : 1 ≤ len) (high : len ≤ 1024) (normal : s.recovering = false)
include low high normal

/-- The body of a DICT_READ of 1 to 1,024 bytes. -/
theorem dictReadBody_of_length : dictReadBody i j off len s = match s.lookup i j with
    | none => (St.unknownObject, [], s)
    | some f => if f.access == 3 then (St.access, [], s.touch (i * 256 + j) false)
      else (s.touch (i * 256 + j) false).readFound f (i * 256 + j) off len := by
  have size : (len == 0 || decide (1024 < len)) = false := by
    rw [Bool.or_eq_false_iff, beq_eq_false_iff_ne, decide_eq_false_iff_not]
    omega
  simp only [dictReadBody, normal, size, Bool.false_and, Bool.false_eq_true, if_false] <;> rfl

theorem dictReadBody_unknown (unknown : s.lookup i j = none) : dictReadBody i j off len s = (St.unknownObject, [], s) := by
  rw [dictReadBody_of_length low high normal, unknown]

variable {f : Found} (found : s.lookup i j = some f)
include found

theorem dictReadBody_writeOnly (writeOnly : f.access = 3) :
    dictReadBody i j off len s = (St.access, [], s.touch (i * 256 + j) false) := by
  rw [dictReadBody_of_length low high normal, found]
  exact if_pos (beq_iff_eq.mpr writeOnly)

theorem dictReadBody_readable (readable : f.access ≠ 3) :
    dictReadBody i j off len s = (s.touch (i * 256 + j) false).readFound f (i * 256 + j) off len := by
  rw [dictReadBody_of_length low high normal, found]
  exact if_neg (by rwa [beq_iff_eq])

end

theorem snapshotFor_start (t : State) (key : Nat) (b : Bytes) : t.snapshotFor key 0 b = b := by
  unfold State.snapshotFor
  split
  · rfl
  · rfl

theorem readFound_whole {t : State} {f : Found} {key len : Nat} (fits : f.bytes.length ≤ len) :
    t.readFound f key 0 len =
      (St.ok, le 1 f.otype ++ le 1 f.access ++ be 4 f.bytes.length ++ be 2 f.bytes.length ++ f.bytes,
        { t with link := { t.link with snapshot := some (key, f.bytes, t.clk.now) } }) := by
  have whole : cut f.bytes 0 len = f.bytes := by rw [cut, List.drop_zero, List.take_of_length_le fits]
  have nonempty : (f.bytes.length != 0 && decide (f.bytes.length ≤ 0)) = false := by
    rw [Bool.and_eq_false_iff, bne_eq_false_iff_eq, decide_eq_false_iff_not]
    omega
  simp only [State.readFound, snapshotFor_start, whole, nonempty, Nat.not_lt.mpr fits, bne_self_eq_false, decide_false,
    Bool.or_self, Bool.and_false, Bool.false_eq_true, if_false]

theorem readFound_beyond {t : State} {f : Found} {key off len : Nat} (some : t.snapshotFor key off f.bytes ≠ [])
    (beyond : (t.snapshotFor key off f.bytes).length ≤ off) :
    (t.readFound f key off len).1 = St.range ∧ (t.readFound f key off len).2.1 = [] := by
  have past : ((t.snapshotFor key off f.bytes).length != 0 && decide ((t.snapshotFor key off f.bytes).length ≤ off)) = true := by
    rw [Bool.and_eq_true, bne_iff_ne, decide_eq_true_eq]
    exact ⟨fun zero => some (List.eq_nil_of_length_eq_zero zero), beyond⟩
  simp only [State.readFound, past, if_true, ite_self, and_self]

/-! ## DICT_WRITE (R340, R369) -/

/-- What a DICT_WRITE of instance k of row r comes to in its turn, of whatever command. -/
theorem dictWrite_done {s : State} {w : DictW} {r : ObjRow} {k : Nat} (turn : Turn s w.req)
    (found : findObj w.index.toNat w.sub.toNat = some (r, k)) (cmd : Instr) :
    done s (s.dictWrite w cmd).runDue =
      let x := (s.taken w.req r k).writeFound r k w
      .next (settle s (x.2.respond w.req 0x11 x.1 [] true).runDue) := by
  rw [dictWrite_turn turn found]
  rfl

section
variable {t : State} {r : ObjRow} {k : Nat} {w : DictW}

theorem writeFound_readOnly (readOnly : r.access = 1) : t.writeFound r k w = (St.access, t) := by
  simp only [State.writeFound, readOnly, beq_self_eq_true, if_true]

variable (writable : r.access ≠ 1) (size : w.bytes.length ≤ 1024)
include writable size

theorem writeFound_split (scalar : r.otype ≤ 8) (more : w.last = false) :
    t.writeFound r k w = (St.range, t.setStaged none) := by
  simp only [State.writeFound, beq_eq_false_iff_ne.mpr writable, Nat.not_lt.mpr size, scalar, more, decide_true, Bool.not_false,
    Bool.and_self, Bool.false_eq_true, if_false, if_true]

/-- A segment that an object of its type may have: what it makes of the staged bytes decides. -/
theorem writeFound_segment (whole : 8 < r.otype ∨ w.last = true) :
    t.writeFound r k w = match t.segment (r.key k) w.offset w.last w.bytes with
      | .bad => (St.range, t.setStaged none)
      | .more x => (St.ok, t.setStaged (some (r.key k, x, t.clk.now)))
      | .complete x => match r.unwire x with
        | none => (St.range, t.setStaged none)
        | some v => (t.setStaged none).writeObj r k (writeRule r k w.flashOk v) v w.defer w.flashOk := by
  have fits : (decide (r.otype ≤ 8) && !w.last) = false := by
    rw [Bool.and_eq_false_iff, decide_eq_false_iff_not, Nat.not_le, Bool.not_eq_false']
    exact whole
  simp only [State.writeFound, beq_eq_false_iff_ne.mpr writable, Nat.not_lt.mpr size, fits, Bool.false_eq_true, if_false] <;> rfl

/-- The segment w runs on from the staged bytes v of the object at a key (R340). -/
def State.runsOn (t : State) (key : Nat) (w : DictW) (v : Bytes) : Prop :=
  (w.offset = 0 ∧ v = []) ∨
    (w.offset ≠ 0 ∧ ∃ t0, t.link.staged = some (key, v, t0) ∧ v.length = w.offset ∧ t.clk.now ≤ t0 + 1000 * ms)

theorem writeFound_breaks (whole : 8 < r.otype ∨ w.last = true) (breaks : ¬ ∃ v, t.runsOn (r.key k) w v) :
    t.writeFound r k w = (St.range, t.setStaged none) := by
  rw [writeFound_segment writable size whole, State.segment_breaks _ _ _ _ _ breaks]

theorem writeFound_stages {v : Bytes} (goes : t.runsOn (r.key k) w v) (blob : 8 < r.otype) (more : w.last = false) :
    t.writeFound r k w = (St.ok, t.setStaged (some (r.key k, v ++ w.bytes, t.clk.now))) := by
  rw [writeFound_segment writable size (.inl blob), State.segment_runsOn _ _ _ _ _ v goes, more]
  rfl

theorem writeFound_applies {v : Bytes} {y : Val} (goes : t.runsOn (r.key k) w v) (last : w.last = true)
    (value : r.unwire (v ++ w.bytes) = some y) :
    t.writeFound r k w = (t.setStaged none).writeObj r k (writeRule r k w.flashOk y) y w.defer w.flashOk := by
  rw [writeFound_segment writable size (.inr last), State.segment_runsOn _ _ _ _ _ v goes, last]
  simp only [if_true, value]

end

theorem exec_dictStageTimeout_of_staged {s : State} {k : Nat} {b : Bytes} {t0 : Nat}
    (staged : s.link.staged = some (k, b, t0)) :
    exec .dictStageTimeout s = .next ((s.advanceTo (t0 + 1000 * ms)).setStaged none) := by
  show execDictStageTimeout s = _
  simp only [execDictStageTimeout, staged]

/-! ## The checks of a complete value, in their order (R369) -/

section
variable {s : State} {r : ObjRow} {k : Nat} {w : WriteRule} {v : Val} {flashOk : Bool} (normal : s.recovering = false)
include normal

theorem writeObj_readOnly (readOnly : r.access = 1) (defer : Bool) : s.writeObj r k w v defer flashOk = (St.access, s) := by
  simp only [State.writeObj, normal, readOnly, Bool.false_and, beq_self_eq_true, Bool.false_eq_true, if_false, if_true]

variable (writable : r.access ≠ 1)
include writable

theorem writeObj_range (bad : ¬ (r.inRange v && w.check s v) = true) (defer : Bool) :
    s.writeObj r k w v defer flashOk = (St.range, s) := by
  rw [Bool.not_eq_true] at bad
  simp only [State.writeObj, normal, beq_eq_false_iff_ne.mpr writable, bad, Bool.false_and, Bool.not_false, Bool.false_eq_true,
    if_false, if_true]

variable (value : (r.inRange v && w.check s v) = true)
include value

theorem writeObj_waits (waits : ¬ s.work.deferred.any (fun d => d.key == r.key k) = false) (defer : Bool) :
    s.writeObj r k w v defer flashOk = (St.busy, s) := by
  rw [Bool.not_eq_false] at waits
  simp only [State.writeObj, normal, beq_eq_false_iff_ne.mpr writable, value, waits, Bool.false_and, Bool.not_true,
    Bool.false_eq_true, if_false, if_true]

variable (free : s.work.deferred.any (fun d => d.key == r.key k) = false)
include free

theorem writeObj_ownerDown (down : ¬ (s.runs r.owner = true ∧ (r.aclass % 8 < 4 ∨ s.runs P.btp = true))) (defer : Bool) :
    s.writeObj r k w v defer flashOk = if defer then s.hold r k v else (St.busy, s) := by
  have owner : (!s.runs r.owner || (decide (4 ≤ r.aclass % 8) && !s.runs P.btp)) = true := by
    refine Bool.of_not_eq_false fun runs => down ?_
    rw [Bool.or_eq_false_iff, Bool.not_eq_false', Bool.and_eq_false_iff, decide_eq_false_iff_not, Nat.not_le,
      Bool.not_eq_false'] at runs
    exact runs
  simp only [State.writeObj, normal, beq_eq_false_iff_ne.mpr writable, value, free, owner, Bool.false_and, Bool.not_true,
    Bool.false_eq_true, if_false, if_true]

variable (calm : r.access ≠ 4) (owner : s.runs r.owner = true ∧ (r.aclass % 8 < 4 ∨ s.runs P.btp = true))
include calm owner

theorem writeObj_conflict (conflict : w.pre s v = St.stateConflict) (defer : Bool) :
    s.writeObj r k w v defer flashOk = if defer then s.hold r k v else (St.stateConflict, s) := by
  rw [State.writeObj_passes s r k w v flashOk normal defer writable calm value free owner, conflict]
  cases defer <;> rfl

theorem writeObj_precondition (other : w.pre s v ≠ St.stateConflict) (fails : w.pre s v ≠ 0) (defer : Bool) :
    s.writeObj r k w v defer flashOk = (w.pre s v % 2 ^ 16, s) := by
  rw [State.writeObj_passes s r k w v flashOk normal defer writable calm value free owner,
    if_neg (by rw [beq_eq_false_iff_ne.mpr other, Bool.false_and]; decide), if_pos (bne_iff_ne.mpr fails)]

variable (holds : w.pre s v = 0) (room : ¬ (r.aclass % 4 = 1 ∧ s.setFull (r.key k) = true))
include holds room

/-- A write whose precondition holds is made at once, or committed to flash first where its row is persisted (R371, R381). -/
theorem writeObj_passed (defer : Bool) :
    s.writeObj r k w v defer flashOk =
      if 4 ≤ r.aclass % 8 then
        match s.commitRec { index := r.index k, sub := r.subAt k, otype := r.otype, wseq := 0, value := r.stored v } flashOk with
        | none => (St.unavailable, s.count Obj.persFail)
        | some t => (w.answer s v, t.moment r k w v)
      else (w.answer s v, s.moment r k w v) := by
  have full : ¬ (r.aclass % 4 == 1 && s.setFull (r.key k)) = true := by rwa [Bool.and_eq_true, beq_iff_eq]
  have pre : (w.pre s v == St.stateConflict && defer) = false := by
    rw [holds]
    rfl
  rw [State.writeObj_passes s r k w v flashOk normal defer writable calm value free owner, if_neg (by rw [pre]; decide),
    if_neg (by rw [bne_iff_ne]; exact not_not_intro holds), if_neg full] <;> rfl

theorem writeObj_plain (plain : r.aclass % 8 < 4) (defer : Bool) :
    s.writeObj r k w v defer flashOk = (w.answer s v, s.moment r k w v) := by
  rw [writeObj_passed normal writable value free calm owner holds room, if_neg (Nat.not_le.mpr plain)]

theorem writeObj_flashFails (persisted : 4 ≤ r.aclass % 8) (defer : Bool)
    (fails : s.commitRec { index := r.index k, sub := r.subAt k, otype := r.otype, wseq := 0, value := r.stored v } flashOk
      = none) :
    s.writeObj r k w v defer flashOk = (St.unavailable, s.count Obj.persFail) := by
  rw [writeObj_passed normal writable value free calm owner holds room, if_pos persisted, fails]

theorem writeObj_persists (persisted : 4 ≤ r.aclass % 8) (defer : Bool) {t : State}
    (commits : s.commitRec { index := r.index k, sub := r.subAt k, otype := r.otype, wseq := 0, value := r.stored v } flashOk
      = some t) :
    s.writeObj r k w v defer flashOk = (w.answer s v, t.moment r k w v) := by
  rw [writeObj_passed normal writable value free calm owner holds room, if_pos persisted, commits]

end

/-! ## The moments of effect (R265, R371) -/

section
variable {s : State} {r : ObjRow} {k : Nat} {w : WriteRule} {v : Val}

theorem moment_atOnce (atOnce : r.aclass % 4 = 0) : s.moment r k w v = w.apply s v := by
  simp only [State.moment, atOnce]

theorem moment_epoch (mer : r.aclass % 4 = 1) (closed : s.work.openSet = none) :
    s.moment r k w v = s.commitEpoch [(r.key k, v)] := by
  simp only [State.moment, mer, closed]

theorem moment_staged {l : List (Nat × Val)} (mer : r.aclass % 4 = 1) (opened : s.work.openSet = some l) :
    s.moment r k w v = { s with work := { s.work with openSet := some (tput l (r.key k) v) } } := by
  simp only [State.moment, mer, opened]

theorem moment_idle (idle : r.aclass % 4 = 2) : s.moment r k w v =
    { s with work := { s.work with idlePend := setPend s.work.idlePend (r.key k) (s.val r k) v } } := by
  simp only [State.moment, idle]

theorem moment_warm (warm : r.aclass % 4 = 3) : s.moment r k w v =
    { s with work := { s.work with warmPend := setPend s.work.warmPend (r.key k) (s.val r k) v } } := by
  simp only [State.moment, warm]

theorem hold_of_room (room : s.work.deferred.length < 16) :
    s.hold r k v = (St.deferred, { s with work := { s.work with deferred := s.work.deferred ++
      [{ key := r.key k, index := r.index k, sub := r.subAt k, value := v, due := s.clk.now + s.jobLimit }] } }) :=
  if_neg (Nat.not_le.mpr room)

theorem hold_of_full (full : 16 ≤ s.work.deferred.length) : s.hold r k v = (St.busy, s) := if_pos full

end

/-- Settles O51. A request for an unknown object leaves the snapshot and the staged bytes as they are
(notes/assumptions/40.md). -/
theorem dictionaryWrites : Obligations.DictionaryWrites := by
  refine ⟨⟨?read, ?write, fun s k b t0 => exec_dictStageTimeout_of_staged⟩, ?value⟩
  case read =>
    intro s r i j off len low high key read
    refine ⟨exec_dictRead_turn i j off len, exec_dictRead_free off len, fun normal => dictReadBody_unknown low high normal, ?_⟩
    intro f normal found t
    have readable := fun may => dictReadBody_readable (off := off) low high normal found may
    refine ⟨dictReadBody_writeOnly low high normal found, fun may start fits => ?_, fun may some beyond => ?_⟩
    · subst start
      exact (readable may).trans (readFound_whole fits)
    · show (dictReadBody i.toNat j.toNat off len s).1 = St.range ∧ (dictReadBody i.toNat j.toNat off len s).2.1 = []
      rw [readable may]
      exact readFound_beyond some beyond
  case write =>
    intro s w r k turn found t x ends runsOn
    refine ⟨dictWrite_done turn found _, dictWrite_done turn found _, dictWrite_done turn found _, writeFound_readOnly,
      fun writable size => ⟨writeFound_split writable size, writeFound_breaks writable size, fun v goes => ?_⟩⟩
    exact ⟨writeFound_stages writable size goes, fun y => writeFound_applies writable size goes⟩
  case value =>
    intro s r k w v flashOk normal write value free owner
    refine ⟨writeObj_readOnly normal, writeObj_range normal, writeObj_waits normal, ?down, ?checked, moment_atOnce,
      moment_epoch, fun l => moment_staged, moment_idle, moment_warm, hold_of_room, hold_of_full⟩
    case down =>
      intro writable good unheld down
      exact ⟨writeObj_ownerDown normal writable good unheld down false, writeObj_ownerDown normal writable good unheld down true⟩
    case checked =>
      intro writable calm good unheld up
      refine ⟨fun conflict => ⟨?_, ?_⟩, writeObj_precondition normal writable good unheld calm up, fun holds room => ⟨?_, ?_⟩⟩
      · exact writeObj_conflict normal writable good unheld calm up conflict false
      · exact writeObj_conflict normal writable good unheld calm up conflict true
      · exact writeObj_plain normal writable good unheld calm up holds room
      · intro persisted d x
        exact ⟨writeObj_flashFails normal writable good unheld calm up holds room persisted d,
          fun t => writeObj_persists normal writable good unheld calm up holds room persisted d⟩

end Sys2Proof.Machine
end

section
/-! The proof of O52: the mailbox and images in recovery mode. -/

namespace Sys2Proof.Machine

/-- The state in which a mailbox command runs: its request has taken its turn, and no segments are staged (R361). -/
def State.mbTurn (s : State) (r : Req) : State := (s.taken r Obj.mbCmd 0).setStaged none

/-- A mailbox command has ended with a status in state u: MB_STATUS is the status, MB_SEQ counts, and the write is
answered (R361). -/
def State.mbEnded (u : State) (r : Req) (status : Nat) : State :=
  ((u.setNum Obj.mbStatus 0 status).count Obj.mbSeq).respond r 0x11 St.ok [] true

/-- A write of MB_CMD is carried out: its request is the session's next, and no write of MB_CMD waits (R361, R369). -/
structure MbTurn (s : State) (r : Req) : Prop where
  up     : s.hostUp = true
  holder : s.holder r = true
  seq    : s.link.expected.getD r.seq = r.seq
  free   : s.work.deferred.any (fun d => d.key == Obj.mbCmd.key 0) = false

theorem mbRun_ident (t : State) : t.mbRun 1 = (St.ok, t.mbPut (Config.identLayout t.identity)) := rfl

section
variable {s : State} {r : Req} (turn : MbTurn s r)
include turn

theorem mbCommand_ends {code status : Nat} {u : State} (known : code ∈ mbCodes) (cmd : Instr)
    (runs : (s.mbTurn r).mbRun code = (status, u)) : s.dictWrite (mbWrite r code) cmd = u.mbEnded r status := by
  have written := mbWrite_turn turn.up turn.holder turn.seq turn.free code known cmd
  unfold State.mbTurn at runs
  rw [runs] at written
  exact written

variable {status : Nat} {u : State}

theorem exec_ident_ends (runs : (s.mbTurn r).mbRun 1 = (status, u)) : exec (.ident r) s = .next (u.mbEnded r status) :=
  congrArg Host.Outcome.next (mbCommand_ends turn (by decide) _ runs)

theorem exec_syncPart_ends (runs : (s.mbTurn r).mbRun 2 = (status, u)) :
    exec (.syncPart r) s = .next (u.mbEnded r status) :=
  congrArg Host.Outcome.next (mbCommand_ends turn (by decide) _ runs)

theorem exec_imageBegin_ends (runs : (s.mbTurn r).mbRun 0x10 = (status, u)) :
    exec (.imageBegin r) s = .next (u.mbEnded r status) :=
  congrArg Host.Outcome.next (mbCommand_ends turn (by decide) _ runs)

theorem exec_imageData_ends (runs : (s.mbTurn r).mbRun 0x11 = (status, u)) :
    exec (.imageData r) s = .next (u.mbEnded r status) :=
  congrArg Host.Outcome.next (mbCommand_ends turn (by decide) _ runs)

theorem exec_imageEnd_ends (runs : (s.mbTurn r).mbRun 0x12 = (status, u)) :
    exec (.imageEnd r) s = .next (u.mbEnded r status) :=
  congrArg Host.Outcome.next (mbCommand_ends turn (by decide) _ runs)

/-- A warm reset asked for through the mailbox begins once its write has been answered (R361). -/
theorem exec_mbWarmReset_begins (idle : s.fw.due = none) :
    exec (.mbWarmReset r) s = .next (settle s (((s.mbTurn r).mbEnded r St.ok).warmReset 3 none)) := by
  have written := mbWrite_turn turn.up turn.holder turn.seq turn.free 3 (by decide) (.mbWarmReset r)
  exact congrArg (done s) ((congrArg State.runDue written).trans (mbRun_due (s.mbTurn r) idle r))

end

/-- Settles O52. MB_STATUS holds the outcome when the write is answered (notes/assumptions/33.md), and the layout of the
identity objects is the model's choice (notes/assumptions/4.md). -/
theorem mailbox : Obligations.Mailbox := by
  intro s r up holder seq free t arg ends
  have turn : MbTurn s r := ⟨up, holder, seq, free⟩
  refine ⟨exec_ident_ends turn (mbRun_ident t), ?part, ?next, exec_mbWarmReset_begins turn, ?normal,
    fun recovering => ⟨?begin, fun k len next image => ⟨?data, ?gap, ?short, ?check⟩⟩⟩
  case part => exact fun start => exec_syncPart_ends turn (mbRun_part t start (summary_ne t))
  case next => exact fun later within => exec_syncPart_ends turn (mbRun_nextPart t later within)
  case normal =>
    exact fun normal => ⟨exec_imageBegin_ends turn (mbRun_begin_normal t normal),
      exec_imageData_ends turn (mbRun_data_normal t normal), exec_imageEnd_ends turn (mbRun_end_normal t normal)⟩
  case begin => exact fun slot low high => exec_imageBegin_ends turn (mbRun_begin t recovering slot low high)
  case data => exact fun runsOn => exec_imageData_ends turn (mbRun_data t recovering image runsOn)
  case gap => exact fun gap => exec_imageData_ends turn (mbRun_data_gap t recovering image gap)
  case short => exact fun short => exec_imageEnd_ends turn (mbRun_end_short t recovering image short)
  case check => exact fun whole => exec_imageEnd_ends turn (mbRun_end t recovering image whole)

end Sys2Proof.Machine
end

section
/-! The proof of O53: event frames, Lodestar time and the ports. -/

namespace Sys2Proof.Machine

section
variable {s : State}

/-! ## EVENT frames (R349, R350) -/

section
variable (up : s.hostUp = true) (leased : s.link.lease = .held)
include up leased

theorem exec_eventFrameSend_due {t0 : Nat} (timer : s.link.timer = some t0) :
    exec .eventFrameSend s = .next ((s.advanceTo (s.eventDueAt t0)).sendEvent false) := by
  show execEventFrameSend s = _
  simp only [execEventFrameSend, timer, up, leased, Bool.not_true, bne_self_eq_false, Bool.or_self, Bool.false_eq_true,
    if_false]

omit up leased in
theorem exec_eventFrameSend_idle (idle : s.link.timer = none) : exec .eventFrameSend s = .next s := by
  show execEventFrameSend s = _
  simp only [execEventFrameSend, idle]

theorem exec_evtHeartbeat_held :
    exec .evtHeartbeat s =
      .next ((s.advanceTo (s.link.lastEvent + s.num Obj.evtHeartbeatMs * ms)).sendEvent true) := by
  show execEvtHeartbeat s = _
  simp only [execEvtHeartbeat, up, leased, Bool.not_true, bne_self_eq_false, Bool.or_self, Bool.false_eq_true, if_false]

end

/-! ## Lodestar time (R351, R352) -/

/-- The offset of the grandmaster's time from Lodestar time. -/
def State.syncOffset (s : State) (time : Nat) : Int := (time : Int) - (s.clk.lode : Int)

/-- Lodestar time is locked with an offset. -/
def State.ltLocked (s : State) (off : Int) : State := (s.setNum Obj.ltState 0 1).setNum Obj.ltOffset 0 (satI32 off)

/-- Lodestar time steps to a time. -/
def State.ltStepped (t : State) (time : Nat) : State :=
  { t.count Obj.ltSteps with clk := { t.clk with lode := time, slew := 0, lastSync := t.clk.now } }

/-- Lodestar time slews by an offset. -/
def State.ltSlewed (t : State) (off : Int) : State := { t with clk := { t.clk with slew := off, lastSync := t.clk.now } }

section
variable {time : Nat} (up : s.link.up = true)
include up

theorem exec_gptpSyncRx_steps (far : s.num Obj.ltState = 0 ∨ s.num Obj.ltStepNs < (s.syncOffset time).natAbs) :
    exec (.gptpSyncRx time) s =
      .next (settle s (((s.ltLocked (s.syncOffset time)).ltStepped time).timeState (s.syncOffset time))) := by
  have steps : (s.num Obj.ltState == 0 || decide (s.num Obj.ltStepNs < (s.syncOffset time).natAbs)) = true := by
    rwa [Bool.or_eq_true, beq_iff_eq, decide_eq_true_eq]
  unfold State.syncOffset at steps
  show execGptpSyncRx time s = _
  simp only [execGptpSyncRx, up, steps, Bool.not_true, Bool.false_eq_true, if_false, if_true, done]
  rfl

section
variable (near : (s.syncOffset time).natAbs ≤ s.num Obj.ltStepNs)
include near

omit up in
theorem syncOffset_slews (known : s.num Obj.ltState ≠ 0) :
    (s.num Obj.ltState == 0 || decide (s.num Obj.ltStepNs < (s.syncOffset time).natAbs)) = false := by
  rw [Bool.or_eq_false_iff, beq_eq_false_iff_ne, decide_eq_false_iff_not, Nat.not_lt]
  exact ⟨known, near⟩

theorem exec_gptpSyncRx_slews (locked : s.num Obj.ltState = 1) :
    exec (.gptpSyncRx time) s = .next (settle s ((s.ltLocked (s.syncOffset time)).ltSlewed (s.syncOffset time))) := by
  have slews := syncOffset_slews near (by rw [locked]; decide)
  unfold State.syncOffset at slews
  rw [locked] at slews
  show execGptpSyncRx time s = _
  simp only [execGptpSyncRx, up, locked, slews, Bool.not_true, bne_self_eq_false, Bool.false_eq_true, if_false, done]
  rfl

theorem exec_gptpSyncRx_relocks (holdover : s.num Obj.ltState = 2) :
    exec (.gptpSyncRx time) s =
      .next (settle s (((s.ltLocked (s.syncOffset time)).ltSlewed (s.syncOffset time)).timeState 0)) := by
  have slews := syncOffset_slews near (by rw [holdover]; decide)
  unfold State.syncOffset at slews
  rw [holdover] at slews
  show execGptpSyncRx time s = _
  simp only [execGptpSyncRx, up, holdover, slews, Bool.not_true, Nat.reduceBNe, Bool.false_eq_true, if_false, if_true, done]
  rfl

end

theorem exec_peerDelayMeasurement_up :
    exec .peerDelayMeasurement s = .next { s with clk := { s.clk with pdelay := s.clk.pdelay + 1 } } := by
  show execPeerDelayMeasurement s = _
  simp only [execPeerDelayMeasurement, up, if_true]

end

theorem exec_gptpHoldover_of_locked (locked : s.num Obj.ltState = 1) :
    exec .gptpHoldover s =
      .next (settle s (((s.advanceTo (s.clk.lastSync + 3000 * ms)).setNum Obj.ltState 0 2).timeState 0)) := by
  show execGptpHoldover s = _
  simp only [execGptpHoldover, locked, bne_self_eq_false, Bool.false_eq_true, if_false, done]

/-! ## Links of the ports -/

theorem exec_portLinkChange_of_power (power : s.rst.phase ≠ .powerReset) (port : Fin 4) (up : Bool) :
    exec (.portLinkChange port up) s = .next (
      if port == 0 then { s with link := { s.link with up := up } }
      else if port == 1 then s.setNum Obj.spLink 0 (if up then 1 else 0)
      else s.setNum Obj.dpLink (port.val - 2) (if up then 1 else 0)) := by
  show execPortLinkChange port up s = _
  simp only [execPortLinkChange, beq_eq_false_iff_ne.mpr power, Bool.false_eq_true, if_false]

/-! ## Frames on the host port (R331 to R333, R335) -/

section
variable {f : EthFrame} (up : s.hostUp = true) (size : f.bytes ≤ 1554)
include up size

theorem exec_hlFrameRx_notOurs (other : f.fcsOk = false ∨ f.toUs = false) :
    exec (.hlFrameRx f) s = .next (s.count Obj.hlRxDiscard) := by
  have bad : (!f.fcsOk || !f.toUs) = true := by rwa [Bool.or_eq_true, Bool.not_eq_true', Bool.not_eq_true']
  show execHlFrameRx f s = _
  simp only [execHlFrameRx, up, Nat.not_lt.mpr size, bad, Bool.not_true, decide_false, Bool.or_self, Bool.false_eq_true,
    if_false, if_true]

variable (fcs : f.fcsOk = true) (ours : f.toUs = true)
include fcs ours

theorem exec_hlFrameRx_unsecured (unsecured : (s.macsecRx f).1 = false) :
    exec (.hlFrameRx f) s = .next (s.macsecRx f).2 := by
  show execHlFrameRx f s = _
  simp only [execHlFrameRx, up, Nat.not_lt.mpr size, fcs, ours, unsecured, Bool.not_true, Bool.not_false, decide_false,
    Bool.or_self, Bool.false_eq_true, if_false, if_true]

section
variable (secured : (s.macsecRx f).1 = true)
include secured

theorem exec_hlFrameRx_unsound
    (unsound : f.ipOk = false ∨ (carriesUdp f = true ∧ f.udpOk = false) ∨ f.fragment = true) :
    exec (.hlFrameRx f) s = .next ((s.macsecRx f).2.count Obj.hlRxDiscard) := by
  have bad : (!f.ipOk || (carriesUdp f && !f.udpOk) || f.fragment) = true := by
    rwa [Bool.or_eq_true, Bool.or_eq_true, Bool.and_eq_true, Bool.not_eq_true', Bool.not_eq_true', or_assoc]
  show execHlFrameRx f s = _
  simp only [execHlFrameRx, up, Nat.not_lt.mpr size, fcs, ours, secured, bad, Bool.not_true, decide_false, Bool.or_self,
    Bool.false_eq_true, if_false, if_true]

theorem exec_hlFrameRx_accepted (ip : f.ipOk = true) (udp : carriesUdp f = true → f.udpOk = true)
    (whole : f.fragment = false) : exec (.hlFrameRx f) s = .next (settle s ((s.macsecRx f).2.acceptHl f)) := by
  have good : (carriesUdp f && !f.udpOk) = false := by
    cases carries : carriesUdp f with
    | false => rfl
    | true => rw [udp carries]; rfl
  show execHlFrameRx f s = _
  simp only [execHlFrameRx, up, Nat.not_lt.mpr size, fcs, ours, secured, ip, good, whole, Bool.not_true, decide_false,
    Bool.or_self, Bool.false_eq_true, if_false, done]

end

end

section
variable {f : EthFrame} (clear : f.prot = .unprotected) (required : s.num Obj.macsecMode = 2)
include clear required

theorem macsecRx_excepted (excepted : s.excepted f = true) : s.macsecRx f = (true, s) := by
  simp only [State.macsecRx, clear, required, excepted, Bool.not_true, Bool.and_false, Bool.false_eq_true, if_false]

theorem macsecRx_unprotected (refused : s.excepted f = false) : s.macsecRx f = (false, s.count Obj.macsecUnprot) := by
  simp only [State.macsecRx, clear, required, refused, beq_self_eq_true, Bool.not_false, Bool.and_self, if_true]

end

/-! ## Frames on the safety port (R393) -/

/-- The safety port answers frame f: it asks for the port's own address. -/
def State.spAnswers (s : State) (f : EthFrame) : Bool :=
  match f.payload with
  | .arp t => s.isSpIp true t
  | .neighbour t => s.isSpIp false t
  | _ => false

theorem spAnswers_iff (s : State) (f : EthFrame) : s.spAnswers f = true ↔
    (∃ t, f.payload = .arp t ∧ s.isSpIp true t = true) ∨ (∃ t, f.payload = .neighbour t ∧ s.isSpIp false t = true) := by
  unfold State.spAnswers
  cases f.payload <;> simp

section
variable {f : EthFrame} (power : s.rst.phase ≠ .powerReset)
include power

theorem exec_spFrameRx_of_power :
    exec (.spFrameRx f) s = .next (if !f.fcsOk || !s.spAnswers f then s
      else { s with safety := { s.safety with replies := s.safety.replies ++ [f.src] } }) := by
  have on : (s.rst.phase == .powerReset) = false := beq_eq_false_iff_ne.mpr power
  show execSpFrameRx f s = _
  simp only [execSpFrameRx, on, Bool.false_or]
  rfl

theorem exec_spFrameRx_answers (fcs : f.fcsOk = true) (asks : s.spAnswers f = true) :
    exec (.spFrameRx f) s = .next { s with safety := { s.safety with replies := s.safety.replies ++ [f.src] } } := by
  rw [exec_spFrameRx_of_power power, fcs, asks]
  rfl

theorem exec_spFrameRx_silent (other : ¬ (f.fcsOk = true ∧ s.spAnswers f = true)) : exec (.spFrameRx f) s = .next s := by
  rw [exec_spFrameRx_of_power power, if_pos]
  rw [← Bool.not_and, Bool.not_eq_true', ← Bool.not_eq_true, Bool.and_eq_true]
  exact other

end

end

/-- Settles O53. A change of state with a step posts one TIME_STATE event, and the first lock counts as a step:
notes/assumptions/43.md. -/
theorem portsAndTime : Obligations.PortsAndTime := by
  intro s
  refine ⟨?event, ?sync, exec_gptpHoldover_of_locked, exec_peerDelayMeasurement_up, ?link, ?host, ?macsec, ?safety⟩
  case event =>
    exact fun up leased => ⟨fun t0 => exec_eventFrameSend_due up leased, exec_eventFrameSend_idle,
      exec_evtHeartbeat_held up leased⟩
  case sync =>
    intro time up off was t stepped slewed
    exact ⟨exec_gptpSyncRx_steps up, fun locked near => exec_gptpSyncRx_slews up near locked,
      fun holdover near => exec_gptpSyncRx_relocks up near holdover⟩
  case link =>
    intro up power
    exact ⟨exec_portLinkChange_of_power power 0 up, exec_portLinkChange_of_power power 1 up,
      exec_portLinkChange_of_power power 2 up, exec_portLinkChange_of_power power 3 up⟩
  case host =>
    intro f up size m
    exact ⟨exec_hlFrameRx_notOurs up size, fun fcs ours => ⟨exec_hlFrameRx_unsecured up size fcs ours,
      exec_hlFrameRx_unsound up size fcs ours, exec_hlFrameRx_accepted up size fcs ours⟩⟩
  case macsec => exact fun f clear required => ⟨macsecRx_excepted clear required, macsecRx_unprotected clear required⟩
  case safety =>
    intro f power mine
    exact ⟨fun fcs own => exec_spFrameRx_answers power fcs ((spAnswers_iff s f).mpr own),
      fun other => exec_spFrameRx_silent power fun ⟨fcs, asks⟩ => other ⟨fcs, (spAnswers_iff s f).mp asks⟩⟩

end Sys2Proof.Machine
end

section
/-! The proof of O54: validity, heartbeats, golden tests and device-level causes. -/

namespace Sys2Proof.Machine

section
variable {s : State}

/-! ## Timers of a stream's report (R388) -/

theorem exec_deadlineExpiry_of_undecided {st : StreamId} {mono sof dl ep : Nat}
    (first : minBy (fun u : Nat × Nat × Nat × Nat => u.2.2.1) (s.stream st).undecided = some (mono, sof, dl, ep)) :
    exec (.deadlineExpiry st) s =
      .next (settle s ((s.advanceTo dl).decideFrame st mono sof ep St.deadlineMissed 4)) := by
  show execDeadlineExpiry st s = _
  simp only [execDeadlineExpiry, first, done]

theorem exec_staleExpiry_of_valid {st : StreamId} {t : Nat} (valid : (s.stream st).validSof = some t)
    (reason : (s.stream st).reason = 0) :
    exec (.staleExpiry st) s =
      .next (settle s ((s.advanceTo (t + s.freshLimit st)).invalidate st (max 3 (s.standing st)))) := by
  show execStaleExpiry st s = _
  simp only [execStaleExpiry, valid, reason, bne_self_eq_false, Bool.false_eq_true, if_false, done]

/-! ## Device-level causes and heartbeats (R390 to R392, R395) -/

theorem exec_safetyHeartbeat_sends (power : s.rst.phase ≠ .powerReset) (sends : s.safetySends = true) :
    exec .safetyHeartbeat s = .next ((s.advanceTo (s.safety.lastSent + 10 * ms)).sendSafety 2 0xFF 0 0 0) := by
  show execSafetyHeartbeat s = _
  simp only [execSafetyHeartbeat, beq_eq_false_iff_ne.mpr power, sends, Bool.not_true, Bool.or_self, Bool.false_eq_true,
    if_false]

theorem startDone_iff (s : State) : s.startDone = true ↔ s.safety.causes.getLsbD 0 = true ∧ s.rst.phase = .starting ∧
    s.runs P.sfp = true ∧ s.runs P.scp = true ∧ s.work.replayDone = true ∧
    ∀ n ∈ s.slicesInService, (s.slice n).golden.completed = true := by
  simp only [State.startDone, Bool.and_eq_true, beq_iff_eq, List.all_eq_true, and_assoc]

/-- Start-up has ended: STARTUP_MS tells the time since t0, and cause 0 has ended (R392, R491). -/
def State.started (s : State) : State :=
  let t := s.setNum Obj.startupMs 0 ((s.clk.now - s.rst.t0) / ms)
  State.leaveCause { t with rst := { t.rst with phase := .running } } 0

theorem exec_cause0Release_of_startDone (ready : s.startDone = true) :
    exec .cause0Release s = .next (settle s (s.started.postEvent 0x0101 0xFFFF
      (le 1 (s.num Obj.resetCause) ++ zeros 3 ++ le 4 (min 0xFFFFFFFF ((s.clk.now - s.rst.t0) / us))))) := by
  show execCause0Release s = _
  simp only [execCause0Release, ready, Bool.not_true, Bool.false_eq_true, if_false, done]
  rfl

theorem exec_lockstepMismatch_up (up : s.runs P.sfp = true) :
    exec .lockstepMismatch s = .next (settle s ((s.postOpen 0 0x23).enterCause 2)) := by
  show execLockstepMismatch s = _
  simp only [execLockstepMismatch, up, Bool.not_true, Bool.false_eq_true, if_false, done]

/-! ## Golden tests (R404 to R406) -/

section
variable {sl : SliceId}

theorem exec_goldenTestDue_of_idle (service : s.inService sl = true) (up : s.runs P.scp = true)
    (idle : (s.slice sl).golden.due = none) (rests : (s.slice sl).golden.running = false) :
    exec (.goldenTestDue sl) s =
      let t := s.advanceTo ((s.slice sl).golden.lastEnd + s.num Obj.diagInterval * ms)
      .next (t.modGolden sl (fun g => { g with
        due := some t.clk.now, running := (s.slice sl).run.isNone && !s.work.shedding })) := by
  show execGoldenTestDue sl s = _
  simp only [execGoldenTestDue, service, up, idle, rests, Bool.not_true, Option.isSome_none, Bool.or_self,
    Bool.false_eq_true, if_false]

theorem exec_goldenTestOverdue_of_due {d : Nat} (due : (s.slice sl).golden.due = some d) (service : s.inService sl = true)
    (inTime : (s.slice sl).golden.overdue = false) :
    exec (.goldenTestOverdue sl) s =
      .next ((s.advanceTo (d + 500 * ms)).modGolden sl (fun g => { g with overdue := true })) := by
  show execGoldenTestOverdue sl s = _
  simp only [execGoldenTestOverdue, due, service, inTime, Bool.not_true, Bool.or_self, Bool.false_eq_true, if_false]

theorem exec_coverageLapse_of_untested (service : s.inService sl = true) (up : s.runs P.sfp = true)
    (covered : (s.slice sl).golden.lapsed = false) :
    exec (.coverageLapse sl) s =
      let t := ((s.advanceTo ((s.slice sl).golden.lastEnd + 1000 * ms)).modGolden sl
        (fun g => { g with lapsed := true })).count Obj.lapses sl
      .next (settle s (t.postEvent 0x0504 0xFFFF
        (le 1 sl ++ zeros 3 ++ le 4 ((t.clk.now - (s.slice sl).golden.lastEnd) / ms)))) := by
  show execCoverageLapse sl s = _
  simp only [execCoverageLapse, service, up, covered, Bool.not_true, Bool.or_self, Bool.false_eq_true, if_false, done]

section
variable (testing : s.testing sl = true)
include testing

theorem exec_goldenTestEnd_passes : exec (.goldenTestEnd sl true) s = .next (settle s (s.passTest sl)) := by
  show execGoldenTestEnd sl true s = _
  simp only [execGoldenTestEnd, testing, Bool.not_true, Bool.false_eq_true, if_false, if_true, done]

theorem exec_goldenTestEnd_fails : exec (.goldenTestEnd sl false) s = .next (settle s (s.failTest sl)) := by
  show execGoldenTestEnd sl false s = _
  simp only [execGoldenTestEnd, testing, Bool.not_true, Bool.false_eq_true, if_false, done]

end

/-- A passed golden test of slice n is counted: the lapse is cleared, and the variant turns (R405, R408). -/
def State.testPassed (s : State) (n : Nat) : State :=
  (s.count Obj.goldenPass n).modGolden n (fun g => { g with
    due := none, overdue := false, running := false, variant := (g.variant + 1) % 16, repeated := false
    lastEnd := s.clk.now, completed := true, lapsed := false })

theorem passTest_first (first : (s.slice sl).golden.repeated = false) :
    s.passTest sl = (if (s.slice sl).golden.lapsed then (s.testPassed sl).postEvent 0x0505 0xFFFF (le 1 sl)
      else s.testPassed sl).endReset sl := by
  simp only [State.passTest, first, Bool.false_eq_true, if_false]
  rfl

theorem failTest_resetting {t0 : Nat} (resetting : (s.slice sl).resetting = some t0) :
    s.failTest sl = (s.count Obj.goldenFail sl).retireSlice sl 3 := by
  simp only [State.failTest, State.count_slice, resetting, Option.isSome_some, if_true]

section
variable (settled : (s.slice sl).resetting = none)
include settled

theorem failTest_repeated (again : (s.slice sl).golden.repeated = true) :
    s.failTest sl = (s.count Obj.goldenFail sl).retireSlice sl 2 := by
  simp only [State.failTest, State.count_slice, settled, again, Option.isSome_none, Bool.true_or, Bool.false_eq_true, if_false,
    if_true]

theorem failTest_first (first : (s.slice sl).golden.repeated = false)
    (warm : (s.slice sl).golden.completed = true ∨ s.rst.phase ≠ .starting ∨ s.num Obj.resetCause ≠ 0) :
    s.failTest sl = (s.count Obj.goldenFail sl).modGolden sl (fun g => { g with
      due := some s.clk.now, overdue := true, running := true, repeated := true }) := by
  have cause : (s.count Obj.goldenFail sl).num Obj.resetCause = s.num Obj.resetCause :=
    State.count_num_other _ _ _ _ _ _ (by simp [ObjRow.key, Obj.goldenFail, Obj.resetCause]; omega)
  have kept : (!(s.slice sl).golden.completed && s.rst.phase == .starting && s.num Obj.resetCause == 0) = false := by
    rw [Bool.and_eq_false_iff, Bool.and_eq_false_iff, Bool.not_eq_false', beq_eq_false_iff_ne, beq_eq_false_iff_ne, or_assoc]
    exact warm
  simp only [State.failTest, State.count_slice, settled, first, cause, State.count_rst, kept, Option.isSome_none, Bool.or_self,
    Bool.false_eq_true, if_false, State.count_clk]

end

end

end

/-- Settles O54. -/
theorem safetyTimers : Obligations.SafetyTimers := by
  intro s
  refine ⟨fun st mono sof dl ep => exec_deadlineExpiry_of_undecided, fun st t => exec_staleExpiry_of_valid,
    exec_safetyHeartbeat_sends, fun ready => exec_cause0Release_of_startDone ((startDone_iff s).mpr ready), ?golden,
    exec_lockstepMismatch_up⟩
  intro sl g
  refine ⟨exec_goldenTestDue_of_idle, fun d => exec_goldenTestOverdue_of_due, fun testing => ?ends,
    exec_coverageLapse_of_untested⟩
  have passes := exec_goldenTestEnd_passes testing
  have fails := exec_goldenTestEnd_fails testing
  exact ⟨fun first => passes.trans (congrArg (done s) (passTest_first first)),
    fun settled first warm => fails.trans (congrArg (done s) (failTest_first settled first warm)),
    fun settled again => fails.trans (congrArg (done s) (failTest_repeated settled again)),
    fun t0 resetting => fails.trans (congrArg (done s) (failTest_resetting resetting))⟩

end Sys2Proof.Machine
end

section
/-! The proof of O55: firmware processors: restarts, logs and trace points. -/

namespace Sys2Proof.Machine

section
variable {s : State} {p : ProcId}

/-! ## Restarts (R399, R438 to R441) -/

section
variable (up : s.runs p = true)
include up

theorem exec_watchdogExpiry_up : exec (.watchdogExpiry p) s =
    .next (settle s (((s.count Obj.watchdogExpiries).postFault St.unavailable 4 p [5, 1]).beginRestart p 1)) := by
  show execWatchdogExpiry p s = _
  simp only [execWatchdogExpiry, up, Bool.not_true, Bool.false_eq_true, if_false, done]

theorem exec_fwMemoryError_up : exec (.fwMemoryError p) s = .next (settle s (s.beginRestart p 4)) := by
  show execFwMemoryError p s = _
  simp only [execFwMemoryError, up, Bool.not_true, Bool.false_eq_true, if_false, done]

end

/-- A restart that an answered write leaves due begins once the response has been sent. -/
theorem runDue_wrote_restart {r : Req} {row : ObjRow} {k c : Nat} (q : Nat) (idle : s.fw.due = none) :
    (s.wrote r row k (fun u => { u with fw := { u.fw with due := some (.restart q c) } })).runDue =
      (s.wrote r row k id).beginRestart q c :=
  State.runDue_due (s.taken r row k) idle r (.restart q c) St.ok

theorem exec_fwRestart_wrote {w : CmdW} (turn : Turn s w.req) (idle : s.fw.due = none)
    (meets : Writes s Obj.fwRestart p (fwRestartRule p) (.num w.value)) :
    exec (.fwRestart p w) s = .next (settle s ((s.wrote w.req Obj.fwRestart p id).beginRestart p 2)) := by
  have written := State.hostWrite_cmd turn ⟨by decide, by decide, by decide⟩ meets rfl (.fwRestart p w)
  exact congrArg (done s) ((congrArg State.runDue written).trans (runDue_wrote_restart p idle))

/-- Processor p has reported ready: its restart has ended, and a cause 3 that the SFP's restart held (R440). -/
def State.backUp (s : State) (p : Nat) : State :=
  let t := (s.setNum Obj.fwState p 0).endRestart p
  if p = P.sfp then t.leaveCause 3 else t

theorem exec_processorReady_ends (power : s.rst.phase ≠ .powerReset) (warm : s.rst.phase ≠ .warmHeld)
    (restarts : s.num Obj.fwState p = 1) (released : (s.proc p).waitBtp = false)
    (sound : s.recovering = true ∨ s.componentOk (s.proc p).slot p = true) :
    exec (.processorReady p) s = .next (settle s ((s.backUp p).goOn p)) := by
  have good : (s.recovering || s.componentOk (s.proc p).slot p) = true := by rwa [Bool.or_eq_true]
  show execProcessorReady p s = _
  simp only [execProcessorReady, beq_eq_false_iff_ne.mpr power, beq_eq_false_iff_ne.mpr warm, restarts, released, good,
    bne_self_eq_false, Bool.not_true, Bool.or_self, Bool.false_eq_true, if_false, done, State.backUp, beq_iff_eq]

section
variable (restarts : s.num Obj.fwState p = 1) (released : (s.proc p).waitBtp = false)
include restarts released

theorem exec_restartTimeout_again (again : (s.proc p).retry = true) :
    exec (.restartTimeout p) s =
      .next (settle s (((s.advanceTo ((s.proc p).start + 150 * ms)).postRestarted p 2).setNum Obj.fwState p 2)) := by
  show execRestartTimeout p s = _
  simp only [execRestartTimeout, restarts, released, again, bne_self_eq_false, Bool.or_self, Bool.false_eq_true, if_false,
    if_true, done]

section
variable (first : (s.proc p).retry = false)
include first

theorem exec_restartTimeout_plain (plain : (s.proc p).activating = false) :
    exec (.restartTimeout p) s =
      .next (settle s (((s.advanceTo ((s.proc p).start + 150 * ms)).postRestarted p 1).beginRestart p 5)) := by
  show execRestartTimeout p s = _
  simp only [execRestartTimeout, restarts, released, first, plain, bne_self_eq_false, Bool.or_self, Bool.false_eq_true,
    if_false, done]

theorem exec_restartTimeout_activating (activating : (s.proc p).activating = true) :
    exec (.restartTimeout p) s =
      .next (settle s (((((s.advanceTo ((s.proc p).start + 150 * ms)).postRestarted p 1).modProc p
        (fun x => { x with slot := x.prevSlot, activating := false })).postActivation p (s.proc p).slot
          St.imageInvalid).beginRestart p 5)) := by
  show execRestartTimeout p s = _
  simp only [execRestartTimeout, restarts, released, first, activating, bne_self_eq_false, Bool.or_self, Bool.false_eq_true,
    if_false, if_true, done]

end

end

/-! ## The log (R442, R443) -/

section
variable {level : Nat} (code : BitVec 16) (args : List Word) (up : s.runs p = true) (known : level ≤ 4)
include up known

theorem exec_logEntry_made : exec (.logEntry p level code args) s =
    .next (s.makeLog p level code.toNat (args.map (·.toNat))) := by
  show execLogEntry p level code args s = _
  simp only [execLogEntry, up, Nat.not_lt.mpr known, Bool.not_true, Bool.false_or, decide_false, Bool.false_eq_true, if_false]

theorem exec_logEntry_below (below : level < s.num Obj.logLevel) (plain : level ≠ 4) :
    exec (.logEntry p level code args) s = .next s := by
  have silent : (decide (level < s.num Obj.logLevel) && level != 4) = true := by
    rw [decide_eq_true below, bne_iff_ne.mpr plain, Bool.and_self]
  rw [exec_logEntry_made code args up known, State.makeLog, if_pos silent]

section
variable (told : s.num Obj.logLevel ≤ level ∨ level = 4) (noGap : s.fw.gapDue = 0)
include told noGap

omit up known noGap in
theorem makeLog_stages (n : Nat) (l : List Nat) : s.makeLog p level n l = s.stageLog p level n l := by
  refine if_neg ?_
  rw [Bool.and_eq_true, decide_eq_true_eq, bne_iff_ne]
  omega

theorem exec_logEntry_room (room : s.fw.buffer.length < 4096) :
    exec (.logEntry p level code args) s = .next { s with fw := { s.fw with
      buffer := s.fw.buffer ++ [.log (logBytes s.clk.lode p level code.toNat (args.map (·.toNat)))] } } := by
  have space : (s.fw.gapDue == 0 && decide (s.fw.buffer.length < stagingDepth)) = true := by
    rw [noGap, Bool.and_eq_true, decide_eq_true_eq]
    exact ⟨rfl, room⟩
  rw [exec_logEntry_made code args up known, makeLog_stages told]
  exact congrArg Host.Outcome.next (if_pos space)

theorem exec_logEntry_full (full : 4096 ≤ s.fw.buffer.length) :
    exec (.logEntry p level code args) s =
      .next { s.count Obj.logDropped with fw := { s.fw with gapDue := 1 } } := by
  have noSpace : ¬ (s.fw.gapDue == 0 && decide (s.fw.buffer.length < stagingDepth)) = true := by
    rw [Bool.and_eq_true, decide_eq_true_eq]
    exact fun both => absurd both.2 (Nat.not_lt.mpr full)
  have noPair : ¬ (s.fw.gapDue != 0 && decide (s.fw.buffer.length + 1 < stagingDepth)) = true := by
    rw [noGap, Bool.and_eq_true, bne_self_eq_false]
    exact fun both => Bool.false_ne_true both.1
  rw [exec_logEntry_made code args up known, makeLog_stages told]
  refine congrArg Host.Outcome.next ((if_neg noSpace).trans ((if_neg noPair).trans ?_))
  rw [noGap]

end

end

/-! ## Trace points (R446) -/

section
variable {point : Nat} (value : Word) (up : s.runs p = true) (within : point < 1024) (own : pointProc point = p.val)
include up within own

/-- Trace point n is in the mask. -/
def State.traced (s : State) (n : Nat) : Bool := (fld (s.blob Obj.traceMask) (n / 8) 1).testBit (n % 8)

theorem exec_traceHit_of_own : exec (.traceHit p point value) s =
    if !s.traced point then .next s
    else if 4096 ≤ s.fw.buffer.length then .next (s.count Obj.traceDropped)
    else .next { s with fw := { s.fw with buffer := s.fw.buffer ++
      [.trace (le 8 s.clk.lode ++ le 2 point ++ le 1 p ++ zeros 1 ++ le 4 value.toNat)] } } := by
  show execTraceHit p point value s = _
  simp only [execTraceHit, up, Nat.not_le.mpr within, own, bne_self_eq_false, Bool.not_true, Bool.false_or, decide_false]
  rfl

theorem exec_traceHit_off (off : s.traced point = false) : exec (.traceHit p point value) s = .next s := by
  rw [exec_traceHit_of_own value up within own, off]
  rfl

theorem exec_traceHit_full (on : s.traced point = true) (full : 4096 ≤ s.fw.buffer.length) :
    exec (.traceHit p point value) s = .next (s.count Obj.traceDropped) := by
  rw [exec_traceHit_of_own value up within own, on]
  exact if_pos full

theorem exec_traceHit_room (on : s.traced point = true) (room : s.fw.buffer.length < 4096) :
    exec (.traceHit p point value) s = .next { s with fw := { s.fw with buffer := s.fw.buffer ++
      [.trace (le 8 s.clk.lode ++ le 2 point ++ le 1 p ++ zeros 1 ++ le 4 value.toNat)] } } := by
  rw [exec_traceHit_of_own value up within own, on]
  exact if_neg (Nat.not_le.mpr room)

end

theorem exec_stagingBufferDrain_of_rings {a b : Nat × Nat} (awake : s.rst.memHeld = false)
    (log : s.fw.logBase = some a) (trace : s.fw.traceBase = some b) :
    exec .stagingBufferDrain s =
      let t := s.fw.buffer.foldl State.writeStaged s
      .next { t with fw := { t.fw with buffer := [] } } := by
  show execStagingBufferDrain s = _
  simp only [execStagingBufferDrain, awake, log, trace, Option.isNone_some, Bool.or_self, Bool.false_eq_true, if_false]

end

/-- Settles O55. -/
theorem processors : Obligations.Processors := by
  intro s p
  refine ⟨exec_watchdogExpiry_up, exec_fwMemoryError_up, fun w => exec_fwRestart_wrote, ⟨?ready, ?timeout⟩, ?log, ?trace,
    fun a b => exec_stagingBufferDrain_of_rings⟩
  case ready =>
    intro power warm restarts released sound t
    exact exec_processorReady_ends power warm restarts released sound
  case timeout =>
    intro restarts released t
    exact ⟨exec_restartTimeout_again restarts released, exec_restartTimeout_plain restarts released,
      exec_restartTimeout_activating restarts released⟩
  case log =>
    intro level code args up known entry
    exact ⟨exec_logEntry_below code args up known, fun told noGap => ⟨exec_logEntry_room code args up known told noGap,
      exec_logEntry_full code args up known told noGap⟩⟩
  case trace =>
    intro point value up within own on
    exact ⟨exec_traceHit_off value up within own, exec_traceHit_full value up within own,
      exec_traceHit_room value up within own⟩

end Sys2Proof.Machine
end

section
/-! The proof of O56: staging, activation, commit and the persistent area. -/

namespace Sys2Proof.Machine

section
variable {s : State}

/-! ## The end of a staging (R448, R449) -/

section
variable {ok : Bool} {b : Bytes} {k t0 : Nat} (staging : s.fw.staging = some (b, k, t0)) (up : s.runs P.btp = true)
include staging up

/-- No staging is in progress any more. -/
def State.noStaging (s : State) : State := { s with fw := { s.fw with staging := none } }

/-- The staging of request b, begun at t0, cannot be verified: it took 120 s, its region is bad, or the flash failed. -/
def State.stagingBad (s : State) (ok : Bool) (b : Bytes) (t0 : Nat) : Prop :=
  t0 + 120000 * ms ≤ s.clk.now ∨ s.regionBad (stageAddr b) (stageLen b) = true ∨ ok = false

/-- The region of request b stands in slot k, whose record tells what the verification found. -/
def State.installed (s : State) (b : Bytes) (k : Nat) : Nat × State :=
  ((s.noStaging.setUpd 2 (s.num Obj.updStatus) k).flashPut (slotBase k) (s.readBytes (stageAddr b) (stageLen b))).checkRecord k

theorem exec_stagingDone_bad (bad : s.stagingBad ok b t0) :
    exec (.stagingDone ok) s = .next (s.noStaging.rejectStaging k St.imageInvalid) := by
  have fails : (decide (t0 + 120000 * ms ≤ s.clk.now) || s.regionBad (stageAddr b) (stageLen b) || !ok) = true := by
    rwa [Bool.or_eq_true, Bool.or_eq_true, decide_eq_true_eq, Bool.not_eq_true', or_assoc]
  show execStagingDone ok s = _
  simp only [execStagingDone, staging, up, fails, Bool.not_true, Bool.false_eq_true, if_false, if_true]
  rfl

theorem exec_stagingDone_verified (good : ¬ s.stagingBad ok b t0) :
    exec (.stagingDone ok) s = .next (if (s.installed b k).1 == St.ok then (s.installed b k).2.setUpd 3 St.ok k
      else (s.installed b k).2.rejectStaging k (s.installed b k).1) := by
  have passes : ¬ (decide (t0 + 120000 * ms ≤ s.clk.now) || s.regionBad (stageAddr b) (stageLen b) || !ok) = true := by
    rwa [Bool.or_eq_true, Bool.or_eq_true, decide_eq_true_eq, Bool.not_eq_true', or_assoc]
  show execStagingDone ok s = _
  simp only [execStagingDone, staging, up, passes, Bool.not_true, Bool.false_eq_true, if_false]
  rfl

end

/-! ## UPD_CANCEL and UPD_ACTIVATE (R450 to R454) -/

theorem taken_emergency (s : State) (req : Req) (row : ObjRow) (k : Nat) : (s.taken req row k).emergency = s.emergency := rfl

/-- An activation that an answered write leaves due begins once the response has been sent. -/
theorem runDue_wrote_activation {r : Req} {row : ObjRow} {k : Nat} (target slot : Nat) (idle : s.fw.due = none) :
    (s.wrote r row k (fun u => { u with fw := { u.fw with due := some (.activate target slot) } })).runDue =
      (s.wrote r row k id).beginActivation target slot :=
  State.runDue_due (s.taken r row k) idle r (.activate target slot) St.ok

theorem runDue_of_none {t : State} (idle : t.fw.due = none) : t.runDue = t := by
  simp only [State.runDue, idle]

section
variable {w : CmdW} (turn : Turn s w.req)
include turn

section
variable (meets : Writes s Obj.updCancel 0 updCancelRule (.num w.value))
include meets

/-- What a write of UPD_CANCEL in its turn does to the taken state u. -/
def State.cancelStaging (u : State) : State :=
  if u.num Obj.updState == 3 then (u.eraseSlot (u.num Obj.updSlot)).setUpd 0 (u.num Obj.updStatus) (u.num Obj.updSlot)
  else if u.num Obj.updState == 0 then u else u.setUpd 0 (u.num Obj.updStatus) 0xFF

theorem exec_updCancel_wrote :
    exec (.updCancel w) s = .next (s.wrote w.req Obj.updCancel 0 (fun u => u.cancelStaging)) :=
  congrArg Host.Outcome.next (State.hostWrite_cmd turn ⟨by decide, by decide, by decide⟩ meets rfl _)

theorem exec_updCancel_sealed (sealed : s.num Obj.updState = 3) :
    exec (.updCancel w) s = .next (s.wrote w.req Obj.updCancel 0
      (fun u => (u.eraseSlot (s.num Obj.updSlot)).setUpd 0 (s.num Obj.updStatus) (s.num Obj.updSlot))) := by
  rw [exec_updCancel_wrote turn meets]
  simp only [State.wrote, State.cancelStaging, taken_num, sealed, beq_self_eq_true, if_true]

theorem exec_updCancel_idle (idle : s.num Obj.updState = 0) :
    exec (.updCancel w) s = .next (s.wrote w.req Obj.updCancel 0 id) := by
  rw [exec_updCancel_wrote turn meets]
  simp only [State.wrote, State.cancelStaging, taken_num, idle, Nat.reduceBEq, Bool.false_eq_true, if_false, if_true,
    beq_self_eq_true, id]

theorem exec_updCancel_other (open' : s.num Obj.updState ≠ 3) (busy : s.num Obj.updState ≠ 0) :
    exec (.updCancel w) s =
      .next (s.wrote w.req Obj.updCancel 0 (fun u => u.setUpd 0 (s.num Obj.updStatus) 0xFF)) := by
  rw [exec_updCancel_wrote turn meets]
  simp only [State.wrote, State.cancelStaging, taken_num, beq_eq_false_iff_ne.mpr open', beq_eq_false_iff_ne.mpr busy,
    Bool.false_eq_true, if_false]

end

section
variable (meets : Writes s Obj.updActivate 0 updActivateRule (.num w.value))
include meets

theorem hostWrite_updActivate_due (calm : s.emergency = false) (cmd : Instr) :
    s.hostWrite cmd w Obj.updActivate 0 updActivateRule = s.wrote w.req Obj.updActivate 0 (fun u =>
      { u with fw := { u.fw with due := some (.activate (actTarget w.value) (actSlot w.value)) } }) := by
  refine State.hostWrite_wrote turn ⟨by decide, by decide, by decide⟩ (meets.taken w.req rfl rfl) ?_ ?_ cmd
  · simp only [updActivateRule, taken_emergency, calm, Bool.false_eq_true, if_false]
  · simp only [updActivateRule, taken_emergency, calm, Bool.false_eq_true, if_false]

/-- The activation written with value n is put off while the emergency lasts (R453). -/
def State.putOff (t : State) (n : Nat) : State :=
  let u := State.setNum { t with fw := { t.fw with pending := some (actTarget n, actSlot n, t.clk.now, none) } } Obj.actPending 0
    (if actTarget n = 0xFF then 128 else 2 ^ actTarget n)
  u.postActivation (actTarget n) (actSlot n) St.activationDeferred

theorem hostWrite_updActivate_putOff (emergency : s.emergency = true) (cmd : Instr) :
    s.hostWrite cmd w Obj.updActivate 0 updActivateRule =
      ((s.taken w.req Obj.updActivate 0).putOff w.value).respond w.req 0x11 St.activationDeferred [] true := by
  rw [State.hostWrite_turn turn (meets.taken w.req rfl rfl) (by decide) (by decide) (by decide)]
  simp only [updActivateRule, taken_emergency, emergency, if_true, State.putOff, beq_iff_eq]

section
variable (idle : s.fw.due = none)
include idle

theorem runDue_updActivate_begins (calm : s.emergency = false) (cmd : Instr) :
    (s.hostWrite cmd w Obj.updActivate 0 updActivateRule).runDue =
      (s.wrote w.req Obj.updActivate 0 id).beginActivation (actTarget w.value) (actSlot w.value) := by
  rw [hostWrite_updActivate_due turn meets calm, runDue_wrote_activation _ _ idle]

theorem runDue_updActivate_putOff (emergency : s.emergency = true) (cmd : Instr) :
    (s.hostWrite cmd w Obj.updActivate 0 updActivateRule).runDue =
      ((s.taken w.req Obj.updActivate 0).putOff w.value).respond w.req 0x11 St.activationDeferred [] true := by
  rw [hostWrite_updActivate_putOff turn meets emergency]
  refine runDue_of_none ?_
  rw [State.respond_fw, State.putOff, State.postActivation, State.postEvent_fw, State.setNum_fw]
  exact idle

end

end

omit turn in
theorem beginActivation_bundle {t : State} {target k : Nat} (bundle : target = 0xFF) :
    t.beginActivation target k = t.warmReset 4 (some k) :=
  if_pos (beq_iff_eq.mpr bundle)

/-! ## UPD_COMMIT and PERS_ERASE (R382, R455, R460) -/

omit turn in
theorem taken_commitTo (s : State) (req : Req) (row : ObjRow) (k : Nat) : (s.taken req row k).commitTo = s.commitTo := rfl

omit turn in
theorem taken_commitPre (s : State) (req : Req) (row : ObjRow) (k m : Nat) (v : Val) :
    (updCommitRule m).pre (s.taken req row k) v = (updCommitRule m).pre s v := rfl

omit turn in
theorem updCommitRule_answer (t : State) (m : Nat) (v : Val) : (updCommitRule m).answer t v =
    if (t.raised m).floor < t.commitTo then St.unavailable else St.ok := by
  simp only [updCommitRule]

theorem exec_updCommit_wrote {m : Nat} (meets : Writes s Obj.updCommit 0 (updCommitRule m) (.num w.value)) :
    exec (.updCommit w m) s = .next (((s.taken w.req Obj.updCommit 0).raised m).respond w.req 0x11
      (if ((s.taken w.req Obj.updCommit 0).raised m).floor < s.commitTo then St.unavailable else St.ok) [] true) := by
  have written := State.hostWrite_turn turn (meets.taken w.req rfl (taken_commitPre s _ _ _ m _)) (by decide) (by decide)
    (by decide) (.updCommit w m)
  refine congrArg Host.Outcome.next (written.trans ?_)
  rw [updCommitRule_answer, taken_commitTo]
  rfl

/-- The record that erases the persistent area (R382). -/
def eraseRec : PersRec := { index := 0xFFFF, sub := 0, otype := 0, wseq := 0, value := [] }

theorem exec_persErase_turn {ok : Bool} (meets : Writes s Obj.persErase 0 (persEraseRule ok) (.num w.value)) :
    exec (.persErase w ok) s = .next (((persEraseRule ok).apply (s.taken w.req Obj.persErase 0) (.num w.value)).respond w.req
      0x11 (if ok then St.ok else St.unavailable) [] true) :=
  congrArg Host.Outcome.next (State.hostWrite_turn turn (meets.taken w.req rfl rfl) (by decide) (by decide) (by decide) _)

theorem exec_persErase_fails (meets : Writes s Obj.persErase 0 (persEraseRule false) (.num w.value)) :
    exec (.persErase w false) s =
      .next (((s.taken w.req Obj.persErase 0).count Obj.persFail).respond w.req 0x11 St.unavailable [] true) :=
  exec_persErase_turn turn meets

theorem exec_persErase_erases (meets : Writes s Obj.persErase 0 (persEraseRule true) (.num w.value)) :
    ∃ u, (s.taken w.req Obj.persErase 0).commitRec eraseRec true = some u ∧
      exec (.persErase w true) s = .next (u.respond w.req 0x11 St.ok [] true) := by
  obtain ⟨u, committed⟩ := commitRec_ok (s.taken w.req Obj.persErase 0) eraseRec
  have erased : (persEraseRule true).apply (s.taken w.req Obj.persErase 0) (.num w.value) = u := by
    unfold eraseRec at committed
    simp only [persEraseRule, committed]
  refine ⟨u, committed, (exec_persErase_turn turn meets).trans ?_⟩
  rw [erased]
  rfl

end

/-! ## Pending activations (R453) -/

section
variable {target k t0 : Nat}

theorem exec_activationSettle_begins {c : Nat} (pending : s.fw.pending = some (target, k, t0, some c))
    (calm : s.emergency = false) (free : s.activationHeld target = false) (inTime : c + 10000 * ms ≤ t0 + 60000 * ms) :
    exec .activationSettle s =
      .next (settle s (((s.advanceTo (c + 10000 * ms)).clearPending).beginActivation target k)) := by
  show execActivationSettle s = _
  simp only [execActivationSettle, pending, calm, free, Nat.not_lt.mpr inTime, decide_false, Bool.or_self, Bool.false_eq_true,
    if_false, done]

theorem exec_activationSettle_waits {c : Nat} (pending : s.fw.pending = some (target, k, t0, some c))
    (emergency : s.emergency = true) : exec .activationSettle s = .next s := by
  show execActivationSettle s = _
  simp only [execActivationSettle, pending, emergency, Bool.true_or, if_true]

theorem exec_activationAbandon_of_pending {c : Option Nat} (pending : s.fw.pending = some (target, k, t0, c)) :
    exec .activationAbandon s =
      .next (((s.advanceTo (t0 + 60000 * ms)).clearPending).postActivation target k St.activationAbandoned) := by
  show execActivationAbandon s = _
  simp only [execActivationAbandon, pending]

end

end

/-- Settles O56. An activation put off is told with DEFERRED at its write, and UPD_CANCEL leaves the state FAILED:
notes/assumptions/35.md. -/
theorem updates : Obligations.Updates := by
  intro s
  refine ⟨?staging, fun w turn => ⟨?cancel, ?activate, ?commit, ?erase⟩, ?settle, ?abandon⟩
  case staging =>
    intro ok b k t0 staging up t bad
    refine ⟨exec_stagingDone_bad staging up, fun good => ?_⟩
    have verified := exec_stagingDone_verified staging up good
    exact ⟨fun passes => verified.trans (congrArg Host.Outcome.next (if_pos (beq_iff_eq.mpr passes))),
      fun fails => verified.trans (congrArg Host.Outcome.next (if_neg (by rwa [beq_iff_eq])))⟩
  case cancel =>
    intro meets k
    exact ⟨exec_updCancel_sealed turn meets, exec_updCancel_idle turn meets, exec_updCancel_other turn meets⟩
  case activate =>
    intro idle meets k
    refine ⟨fun calm => ⟨fun _ => ?_, fun bundle => ?_⟩, fun emergency => ?_⟩
    · exact congrArg (done s) (runDue_updActivate_begins turn meets idle calm _)
    · exact congrArg (done s) ((runDue_updActivate_begins turn meets idle calm _).trans (beginActivation_bundle bundle))
    · exact ⟨fun _ => congrArg (done s) (runDue_updActivate_putOff turn meets idle emergency _),
        fun _ => congrArg (done s) (runDue_updActivate_putOff turn meets idle emergency _)⟩
  case commit => exact fun m => exec_updCommit_wrote turn
  case erase =>
    intro ok meets t x
    refine ⟨fun fails => ?_, fun good => ?_⟩
    · subst fails
      exact exec_persErase_fails turn meets
    · subst good
      exact exec_persErase_erases turn meets
  case settle =>
    exact fun target k t0 c pending => ⟨exec_activationSettle_begins pending, exec_activationSettle_waits pending⟩
  case abandon => exact fun target k t0 c => exec_activationAbandon_of_pending

end Sys2Proof.Machine
end

section
/-! The proof of O57: the power cap, the thermal loop, POWER_STATE and the ceilings. -/

namespace Sys2Proof.Machine

/-! ## The power cap (R415 to R417) -/

section
variable {s : State} {m : MeterRead}

theorem exec_powerCapEval_restarting (powered : s.rst.phase ≠ .powerReset) (down : s.runs P.pwp = false) :
    exec (.powerCapEval m) s = .next (s.metered m) := by
  show execPowerCapEval m s = _
  simp only [execPowerCapEval, beq_eq_false_iff_ne.mpr powered, down, Bool.not_false, Bool.false_eq_true, if_false, if_true]

theorem exec_powerCapEval_running (powered : s.rst.phase ≠ .powerReset) (up : s.runs P.pwp = true) :
    exec (.powerCapEval m) s = done s (((((s.metered m).noteChip m.milliW (m.milliW - s.num Obj.powerCap * 1000)
      (s.capCalm m.milliW))).capStep (s.capAbove m.milliW) (s.capCalm m.milliW)).refreshPower 1) := by
  show execPowerCapEval m s = _
  simp only [execPowerCapEval, beq_eq_false_iff_ne.mpr powered, up, Bool.not_true, Bool.false_eq_true, if_false]

theorem capAbove_false {milliW : Nat}
    (below : ¬ (s.num Obj.powerCap * 1000 < milliW ∨ s.power.regs.any (fun r => r.2.hot) = true)) :
    s.capAbove milliW = false :=
  Bool.eq_false_iff.mpr fun above => below ((capAbove_iff s milliW).1 above)

theorem capCalm_of_above {milliW : Nat} (above : s.capAbove milliW = true) : s.capCalm milliW = 0 := by
  simp only [State.capCalm, above, Bool.not_true, Bool.false_and, Bool.false_eq_true, if_false]

theorem capCalm_of_calm {milliW : Nat} (below : s.capAbove milliW = false)
    (calm : milliW + 1000 ≤ s.num Obj.powerCap * 1000) : s.capCalm milliW = s.power.calm + 1 := by
  simp only [State.capCalm, below, calm, Bool.not_false, decide_true, Bool.and_self, if_true]

theorem capCalm_of_close {milliW : Nat} (close : s.num Obj.powerCap * 1000 < milliW + 1000) : s.capCalm milliW = 0 := by
  simp only [State.capCalm, Nat.not_le.mpr close, decide_false, Bool.and_false, Bool.false_eq_true, if_false]

end

theorem capStep_above (s : State) (calm : Nat) :
    s.capStep true calm = s.slicesInService.foldl (fun v n => v.stepDown Obj.capCeil n) s := rfl

theorem capStep_calm (s : State) {calm : Nat} (long : 10 ≤ calm) :
    s.capStep false calm = s.slicesInService.foldl (fun v n => v.stepUp Obj.capCeil n) s := by
  simp only [State.capStep, long, Bool.false_eq_true, if_false, if_true]

theorem capStep_short (s : State) {calm : Nat} (short : calm < 10) : s.capStep false calm = s := by
  simp only [State.capStep, Nat.not_le.mpr short, Bool.false_eq_true, if_false]

/-- The outcome of an evaluation in terms of what it found: above the cap or not, and for how many evaluations calm. -/
theorem exec_powerCapEval_of {s : State} {m : MeterRead} {above : Bool} {calm : Nat} (powered : s.rst.phase ≠ .powerReset)
    (up : s.runs P.pwp = true) (found : s.capAbove m.milliW = above) (counted : s.capCalm m.milliW = calm) :
    exec (.powerCapEval m) s = done s ((((s.metered m).noteChip m.milliW (m.milliW - s.num Obj.powerCap * 1000) calm).capStep
      above calm).refreshPower 1) := by
  subst found counted
  exact exec_powerCapEval_running powered up

section
variable {s : State} {m : MeterRead} (powered : s.rst.phase ≠ .powerReset) (up : s.runs P.pwp = true)
include powered up

theorem exec_powerCapEval_above
    (high : s.num Obj.powerCap * 1000 < m.milliW ∨ s.power.regs.any (fun r => r.2.hot) = true) :
    exec (.powerCapEval m) s = done s (((((s.metered m).noteChip m.milliW (m.milliW - s.num Obj.powerCap * 1000)
      0).slicesInService.foldl (fun v n => v.stepDown Obj.capCeil n)
        ((s.metered m).noteChip m.milliW (m.milliW - s.num Obj.powerCap * 1000) 0))).refreshPower 1) := by
  have found := (capAbove_iff s m.milliW).2 high
  rw [exec_powerCapEval_of powered up found (capCalm_of_above found), capStep_above]

section
variable (low : ¬ (s.num Obj.powerCap * 1000 < m.milliW ∨ s.power.regs.any (fun r => r.2.hot) = true))
include low

theorem exec_powerCapEval_calm (room : m.milliW + 1000 ≤ s.num Obj.powerCap * 1000) (long : 9 ≤ s.power.calm) :
    exec (.powerCapEval m) s = done s (((((s.metered m).noteChip m.milliW (m.milliW - s.num Obj.powerCap * 1000)
      (s.power.calm + 1)).slicesInService.foldl (fun v n => v.stepUp Obj.capCeil n)
        ((s.metered m).noteChip m.milliW (m.milliW - s.num Obj.powerCap * 1000) (s.power.calm + 1)))).refreshPower 1) := by
  rw [exec_powerCapEval_of powered up (capAbove_false low) (capCalm_of_calm (capAbove_false low) room),
    capStep_calm _ (Nat.succ_le_succ long)]

theorem exec_powerCapEval_calming (room : m.milliW + 1000 ≤ s.num Obj.powerCap * 1000) (short : s.power.calm < 9) :
    exec (.powerCapEval m) s = done s (((s.metered m).noteChip m.milliW (m.milliW - s.num Obj.powerCap * 1000)
      (s.power.calm + 1)).refreshPower 1) := by
  rw [exec_powerCapEval_of powered up (capAbove_false low) (capCalm_of_calm (capAbove_false low) room),
    capStep_short _ (Nat.succ_lt_succ short)]

theorem exec_powerCapEval_close (close : s.num Obj.powerCap * 1000 < m.milliW + 1000) :
    exec (.powerCapEval m) s = done s (((s.metered m).noteChip m.milliW (m.milliW - s.num Obj.powerCap * 1000)
      0).refreshPower 1) := by
  rw [exec_powerCapEval_of powered up (capAbove_false low) (capCalm_of_close close), capStep_short _ (by decide)]

end
end

theorem noteChip_powerNow (s : State) (milliW excess calm : Nat) :
    (s.noteChip milliW excess calm).num Obj.powerNow = (milliF milliW).toNat :=
  State.setNum_num s Obj.powerNow 0 _

/-! ## The thermal loop (R423) -/

section
variable {s : State} {j : Int}

theorem exec_thermalLoopStep (up : s.runs P.pwp = true) :
    exec .thermalLoopStep s = done s ((s.thermTime.thermTj.riseEm).refreshPower 2) := by
  show execThermalLoopStep s = _
  simp only [execThermalLoopStep, up, Bool.not_true, Bool.false_eq_true, if_false]

theorem thermTj_none (silent : s.tj = none) : s.thermTj = s := by
  simp only [State.thermTj, silent]

theorem thermTj_some (read : s.tj = some j) : s.thermTj = s.thermStep j := by
  simp only [State.thermTj, read]

theorem thermStep_hot (hot : ((s.num Obj.throttleC * 1000 : Nat) : Int) < j) :
    s.thermStep j = (List.range 6).foldl (fun v n => v.stepDown Obj.thermCeil n)
      { s with power := { s.power with coolFrom := none } } := by
  simp only [State.thermStep, hot, if_true]

theorem thermStep_warm (near : ((s.num Obj.throttleC * 1000 : Nat) : Int) - 2000 ≤ j)
    (below : j ≤ ((s.num Obj.throttleC * 1000 : Nat) : Int)) :
    s.thermStep j = { s with power := { s.power with coolFrom := none } } := by
  simp only [State.thermStep, Int.not_lt.mpr below, near, if_false, if_true]

theorem thermStep_cool_first (cool : j < ((s.num Obj.throttleC * 1000 : Nat) : Int) - 2000)
    (first : s.power.coolFrom = none) :
    s.thermStep j = { s with power := { s.power with coolFrom := some s.clk.now } } := by
  have notHot : ¬ ((s.num Obj.throttleC * 1000 : Nat) : Int) < j := by omega
  simp only [State.thermStep, notHot, Int.not_le.mpr cool, first, if_false]

theorem thermStep_cool_long {c : Nat} (cool : j < ((s.num Obj.throttleC * 1000 : Nat) : Int) - 2000)
    (since : s.power.coolFrom = some c) (unclamped : s.power.clamp110 = false) (long : c + 100 * ms ≤ s.clk.now)
    (rested : s.power.lastRise + 10 * ms ≤ s.clk.now) :
    s.thermStep j = (List.range 6).foldl (fun v n => v.stepUp Obj.thermCeil n)
      { s with power := { s.power with lastRise := s.clk.now } } := by
  have notHot : ¬ ((s.num Obj.throttleC * 1000 : Nat) : Int) < j := by omega
  simp only [State.thermStep, notHot, Int.not_le.mpr cool, since, unclamped, Nat.not_lt.mpr long, Nat.not_lt.mpr rested,
    decide_false, Bool.or_self, Bool.false_eq_true, if_false]

theorem thermTime_coolFrom (s : State) : s.thermTime.power.coolFrom = s.power.coolFrom := by
  simp only [State.thermTime, State.advanceTo_power]

theorem thermTime_lastRise (s : State) : s.thermTime.power.lastRise = s.power.lastRise := by
  simp only [State.thermTime, State.advanceTo_power]

theorem thermTime_clamp110 (s : State) : s.thermTime.power.clamp110 = s.power.clamp110 := by
  simp only [State.thermTime, State.advanceTo_power]

/-- A step of the loop in which Tj is known, as the loop's reaction to it. -/
theorem exec_thermalLoopStep_at {t : State} (up : s.runs P.pwp = true) (read : s.tj = some j)
    (step : s.thermTime.thermStep j = t) : exec .thermalLoopStep s = .next (settle s ((t.riseEm).refreshPower 2)) := by
  rw [exec_thermalLoopStep up, thermTj_some ((thermTime_tj s).trans read), step]
  rfl

theorem exec_thermalLoopStep_unread (up : s.runs P.pwp = true) (silent : s.tj = none) :
    exec .thermalLoopStep s = .next (settle s ((s.thermTime.riseEm).refreshPower 2)) := by
  rw [exec_thermalLoopStep up, thermTj_none ((thermTime_tj s).trans silent)]
  rfl

end

/-! ## POWER_STATE (R427, R429) -/

section
variable {s : State} (up : s.runs P.pwp = true)

/-- The state with the shedding flag, the clocks and the wait of an activation brought up to the conditions in force. -/
def State.tracked (s : State) : State :=
  State.noteCalm (State.followAll { s with work := { s.work with shedding := s.power.powerEm || s.thermalEm || s.capShort } })
    s.powerStateNow

/-- POWER_STATE takes the value new, and a throttle is counted. -/
def State.powerStateSet (s : State) (new : Nat) : State :=
  if new = 2 then (s.setNum Obj.powerState 0 new).count Obj.throttleEvents else s.setNum Obj.powerState 0 new

include up in
theorem refreshPower_same (cause : Nat) (same : s.num Obj.powerState = s.powerStateNow) : s.refreshPower cause = s.tracked := by
  simp only [State.refreshPower, up, Bool.not_true, Bool.false_eq_true, if_false, beq_iff_eq, same, if_true]
  rfl

include up in
theorem refreshPower_changed (cause : Nat) (changed : s.num Obj.powerState ≠ s.powerStateNow) :
    s.refreshPower cause = (s.tracked.powerStateSet s.powerStateNow).postEvent 0x0601 0xFFFF
      (le 1 (s.num Obj.powerState) ++ le 1 s.powerStateNow ++ le 1 cause ++ zeros 1 ++
        le 4 (s.tracked.powerStateSet s.powerStateNow).tjBits ++
        le 4 ((s.tracked.powerStateSet s.powerStateNow).num Obj.powerNow)) := by
  simp only [State.refreshPower, up, Bool.not_true, Bool.false_eq_true, if_false, beq_iff_eq, changed]
  rfl

end

theorem powerStateNow_of_powerEm {s : State} (em : s.power.powerEm = true) : s.powerStateNow = 4 := by
  simp only [State.powerStateNow, em, if_true]

theorem powerStateNow_of_thermalEm {s : State} (calm : s.power.powerEm = false) (em : s.thermalEm = true) :
    s.powerStateNow = 3 := by
  simp only [State.powerStateNow, calm, em, Bool.false_eq_true, if_false, if_true]

/-! ## Ceilings and clocks (R413, R424, R428) -/

section
variable (s : State) (n : Nat)

theorem ceiling_le_softCeil : s.ceiling n ≤ s.softCeil n := by
  unfold State.ceiling
  dsimp only
  split <;> split <;> omega

theorem softCeil_le : s.softCeil n ≤ 1200 ∧ s.softCeil n ≤ s.num Obj.capCeil n ∧ s.softCeil n ≤ s.num Obj.thermCeil n := by
  unfold State.softCeil
  omega

theorem ceiling_clamped (clamped : s.power.clamp110 = true) : s.ceiling n ≤ 400 := by
  simp only [State.ceiling, clamped, if_true]
  split <;> omega

theorem ceiling_vrHot (hot : s.power.vrHot = true) : s.ceiling n ≤ s.num Obj.vrhotClock := by
  simp only [State.ceiling, hot, if_true]
  omega

/-- R413's rule for one slice's clock and voltage. -/
theorem followCeil_pslice : (s.followCeil n).pslice n =
    if s.ceiling n < (s.pslice n).mhz then { (s.pslice n).clocked (s.ceiling n) with
      mv := max (mvFor (s.ceiling n)) (min (s.pslice n).mv (mvFor (s.softCeil n))), settling := none }
    else if (s.pslice n).mhz < s.ceiling n then
      if ((s.pslice n).settling.map (·.1)) == some (s.ceiling n) then s.pslice n
      else { s.pslice n with mv := max (s.pslice n).mv (mvFor (s.ceiling n)), settling := some (s.ceiling n, s.clk.now) }
    else { s.pslice n with mv := min (s.pslice n).mv (mvFor (s.softCeil n)), settling := none } :=
  State.pslice_modPslice s n _

variable {s n}

theorem followCeil_pslice_down (lower : s.ceiling n < (s.pslice n).mhz) :
    (s.followCeil n).pslice n = { (s.pslice n).clocked (s.ceiling n) with
      mv := max (mvFor (s.ceiling n)) (min (s.pslice n).mv (mvFor (s.softCeil n))), settling := none } := by
  exact (followCeil_pslice s n).trans (if_pos lower)

theorem followCeil_pslice_up (higher : (s.pslice n).mhz < s.ceiling n) (idle : (s.pslice n).settling = none) :
    (s.followCeil n).pslice n = { s.pslice n with
      mv := max (s.pslice n).mv (mvFor (s.ceiling n)), settling := some (s.ceiling n, s.clk.now) } := by
  have unsettled : ((s.pslice n).settling.map (·.1) == some (s.ceiling n)) = false := by rw [idle]; rfl
  exact (followCeil_pslice s n).trans ((if_neg (by omega)).trans ((if_pos higher).trans (if_neg (by rw [unsettled]; decide))))

theorem followCeil_down (lower : s.ceiling n < (s.pslice n).mhz) :
    ((s.followCeil n).pslice n).mhz = s.ceiling n ∧ mvFor (s.ceiling n) ≤ ((s.followCeil n).pslice n).mv := by
  rw [followCeil_pslice_down lower]
  exact ⟨rfl, Nat.le_max_left _ _⟩

theorem followCeil_up (higher : (s.pslice n).mhz < s.ceiling n) (idle : (s.pslice n).settling = none) :
    ((s.followCeil n).pslice n).mhz = (s.pslice n).mhz ∧ mvFor (s.ceiling n) ≤ ((s.followCeil n).pslice n).mv ∧
      ((s.followCeil n).pslice n).settling = some (s.ceiling n, s.clk.now) := by
  rw [followCeil_pslice_up higher idle]
  exact ⟨rfl, Nat.le_max_right _ _, rfl⟩

end

/-- Settles O57: an evaluation and a step of the loop by the branches of their rules, POWER_STATE by `refreshPower_same` and
`refreshPower_changed`. That the cap ceilings rise at every further calm evaluation from the tenth on is the model's choice
(notes/assumptions/30.md). -/
theorem powerLoops : Obligations.PowerLoops := by
  intro s
  refine ⟨fun m powered => ⟨exec_powerCapEval_restarting powered, fun up => ?_, rfl,
      noteChip_powerNow (s.metered m) m.milliW⟩,
    fun up => ?_, fun cause up => ⟨refreshPower_same up cause, refreshPower_changed up cause⟩,
    powerStateNow_of_powerEm, powerStateNow_of_thermalEm, fun n => ?_⟩
  · intro cap above u
    exact ⟨exec_powerCapEval_above powered up, exec_powerCapEval_calm powered up, exec_powerCapEval_calming powered up,
      exec_powerCapEval_close powered up⟩
  · intro a t limit
    have atLimit : ((a.num Obj.throttleC * 1000 : Nat) : Int) = limit := by rw [thermTime_limit]
    refine ⟨exec_thermalLoopStep_unread up, fun j read => ⟨fun hot => ?_, fun near below => ?_, fun cool first => ?_,
      fun c cool since unclamped long rested => ?_⟩, rfl⟩
    · exact exec_thermalLoopStep_at up read (thermStep_hot (atLimit ▸ hot))
    · exact exec_thermalLoopStep_at up read (thermStep_warm (atLimit ▸ near) (atLimit ▸ below))
    · exact exec_thermalLoopStep_at up read (thermStep_cool_first (atLimit ▸ cool) ((thermTime_coolFrom s).trans first))
    · exact exec_thermalLoopStep_at up read (thermStep_cool_long (atLimit ▸ cool) ((thermTime_coolFrom s).trans since)
        ((thermTime_clamp110 s).trans unclamped) long (by rw [thermTime_lastRise]; exact rested))
  · obtain ⟨top, cap, therm⟩ := softCeil_le s n
    have soft := ceiling_le_softCeil s n
    exact ⟨Nat.le_trans soft top, Nat.le_trans soft cap, Nat.le_trans soft therm, ceiling_clamped s n, ceiling_vrHot s n, followCeil_down,
      followCeil_up⟩

end Sys2Proof.Machine
end

section
/-! The proof of O58: temperature sensors, the clamp and the trip. -/

namespace Sys2Proof.Machine

/-! ## Readings (R422) -/

theorem tget_of_tfind {α : Type} {m : List (Nat × α)} {n : Nat} {v : α} (found : tfind m n = some v) (d : α) :
    tget d m n = v := by
  rw [tget, found, Option.getD_some]

/-- The state with the junction temperature's last return below 105 °C. -/
def State.cooled (s : State) (since : Option Nat) : State := { s with power := { s.power with below105 := since } }

/-- The state after the sensors have given their readings rs. -/
def State.sensed (s : State) (rs : List TempRead) : State :=
  rs.foldl State.readSensor { s.advanceTo (s.power.lastRead + 100 * us) with
    power := { (s.advanceTo (s.power.lastRead + 100 * us)).power with
      lastRead := (s.advanceTo (s.power.lastRead + 100 * us)).clk.now } }

/-- The cause of POWER_EVENT: 5 where a sensor has failed, 2 otherwise. -/
def State.sensedCause (s t : State) : Nat := if s.num Obj.sensorFailed = t.num Obj.sensorFailed then 2 else 5

section
variable {s : State} {rs : List TempRead} (powered : s.rst.phase ≠ .powerReset)
include powered

theorem exec_sensorRead : exec (.sensorRead rs) s = done s (((s.sensed rs).cooled
    (if (match (s.sensed rs).tj with | some j => decide (j < 105000) | none => false)
      then some ((s.sensed rs).power.below105.getD (s.sensed rs).clk.now) else none)).refreshPower
        (s.sensedCause (s.sensed rs))) := by
  show execSensorRead rs s = _
  simp only [execSensorRead, beq_eq_false_iff_ne.mpr powered, Bool.false_eq_true, if_false, beq_iff_eq]
  rfl

theorem exec_sensorRead_cool {j : Int} (read : (s.sensed rs).tj = some j) (cool : j < 105000) :
    exec (.sensorRead rs) s = done s (((s.sensed rs).cooled
      (some ((s.sensed rs).power.below105.getD (s.sensed rs).clk.now))).refreshPower (s.sensedCause (s.sensed rs))) := by
  rw [exec_sensorRead powered, read]
  simp only [cool, decide_true, if_true]

theorem exec_sensorRead_warm {j : Int} (read : (s.sensed rs).tj = some j) (warm : 105000 ≤ j) :
    exec (.sensorRead rs) s = done s (((s.sensed rs).cooled none).refreshPower (s.sensedCause (s.sensed rs))) := by
  rw [exec_sensorRead powered, read]
  simp only [Int.not_lt.mpr warm, decide_false, Bool.false_eq_true, if_false]

theorem exec_sensorRead_unread (silent : (s.sensed rs).tj = none) :
    exec (.sensorRead rs) s = done s (((s.sensed rs).cooled none).refreshPower (s.sensedCause (s.sensed rs))) := by
  rw [exec_sensorRead powered, silent]
  simp only [Bool.false_eq_true, if_false]

end

/-- The state with x kept for sensor k. -/
def State.putTemp (s : State) (k : Nat) (x : Temp) : State :=
  { s with power := { s.power with temps := tput s.power.temps k x } }

section
variable {s : State} {k : Fin 24} {x : Temp} (found : tfind s.power.temps k = some x)
include found

theorem readSensor_failed (reading : Option Int) (failed : x.failed = true) :
    s.readSensor { sensor := k, milliC := reading } = s := by
  simp only [State.readSensor, tget_of_tfind found, failed, if_true]

variable (working : x.failed = false)
include working

theorem readSensor_value (c : Int) : s.readSensor { sensor := k, milliC := some c } =
    if c < -55000 ∨ 150000 < c then (s.putTemp k { x with milliC := c, updated := s.clk.now }).failSensor k
    else s.putTemp k { x with milliC := c, updated := s.clk.now } := by
  simp only [State.readSensor, tget_of_tfind found, working, Bool.false_eq_true, if_false, Bool.or_eq_true, decide_eq_true_eq]
  rfl

theorem readSensor_silent : s.readSensor { sensor := k, milliC := none } =
    if x.updated + ms ≤ s.clk.now then (s.putTemp k x).failSensor k else s.putTemp k x := by
  simp only [State.readSensor, tget_of_tfind found, working, Bool.false_eq_true, if_false]
  rfl

end

/-- Every sensor that has not failed reads at most Tj. -/
theorem tj_max {s : State} {k : Nat} {x : Temp} (kept : (k, x) ∈ s.power.temps) (working : x.failed = false) :
    ∃ j, s.tj = some j ∧ x.milliC ≤ j :=
  (max_of_fold (s.power.temps.filter (fun t => !t.2.failed)) none).2 (k, x)
    (List.mem_filter.mpr ⟨kept, by rw [working]; rfl⟩)

/-! ## The clamp and the trip (R424, R425) -/

section
variable {s : State}

theorem exec_thermalClamp {j : Int} (read : s.tj = some j) (hot : 110000 ≤ j) (unclamped : s.power.clamp110 = false) :
    exec .thermalClamp s = done s (State.refreshPower
      { (if s.thermalEm then s else s.count Obj.thermEmergencies) with
        power := { (if s.thermalEm then s else s.count Obj.thermEmergencies).power with clamp110 := true } } 2) := by
  show execThermalClamp s = _
  simp only [execThermalClamp, read, Int.not_lt.mpr hot, unclamped, decide_false, Bool.or_self, Bool.false_eq_true, if_false]

theorem exec_thermalEmergencyEnd {t0 : Nat} (clamped : s.power.clamp110 = true) (since : s.power.below105 = some t0) :
    exec .thermalEmergencyEnd s = done s (State.refreshPower ((List.range 6).foldl (fun u n => u.setNum Obj.thermCeil n 400)
      { s.advanceTo (t0 + 1000 * ms) with power := { (s.advanceTo (t0 + 1000 * ms)).power with
        clamp110 := false, lastRise := (s.advanceTo (t0 + 1000 * ms)).clk.now } }) 2) := by
  show execThermalEmergencyEnd s = _
  simp only [execThermalEmergencyEnd, clamped, since]

theorem exec_thermalTrip {k : Nat} {x : Temp} (first : s.power.tripped = false) (kept : (k, x) ∈ s.power.temps)
    (working : x.failed = false) (hot : 120000 ≤ x.milliC) :
    exec .thermalTrip s = done s (State.enterCause (State.postOpen { s.stopSlices with
      power := { s.stopSlices.power with tripped := true }, pins := { s.stopSlices.pins with thermTripN := false } } 0 0xFF) 1) := by
  have reached : s.power.temps.any (fun t => !t.2.failed && decide (120000 ≤ t.2.milliC)) = true :=
    List.any_eq_true.mpr ⟨(k, x), kept, by rw [working, decide_eq_true hot]; rfl⟩
  show execThermalTrip s = _
  simp only [execThermalTrip, first, reached, Bool.not_true, Bool.or_self, Bool.false_eq_true, if_false]

end

/-- Settles O58: the readings by `readSensor_value` and `readSensor_silent`, Tj as a maximum by `tj_max`, the clamp and the
trip by their commands' branches. What the stopped slices discard is the model's choice (notes/assumptions/29.md). -/
theorem temperatures : Obligations.Temperatures := by
  intro s
  refine ⟨fun rs powered => ⟨fun j => exec_sensorRead_cool powered, fun j => exec_sensorRead_warm powered,
      exec_sensorRead_unread powered⟩,
    fun k x found => ⟨readSensor_failed found, fun working => ⟨fun c => ⟨fun low high => ?_, fun outside => ?_⟩,
      fun recent => ?_, fun late => ?_⟩⟩,
    fun k x => tj_max, fun j read hot unclamped => ⟨fun em => ?_, fun calm => ?_⟩,
    fun t0 => exec_thermalEmergencyEnd, fun k x => exec_thermalTrip⟩
  · exact (readSensor_value found working c).trans (if_neg (by omega))
  · exact (readSensor_value found working c).trans (if_pos outside)
  · exact (readSensor_silent found working).trans (if_neg (Nat.not_le.mpr recent))
  · exact (readSensor_silent found working).trans (if_pos late)
  · rw [exec_thermalClamp read hot unclamped, em]
    rfl
  · rw [exec_thermalClamp read hot unclamped, calm]
    rfl

end Sys2Proof.Machine
end

section
/-! The proof of O59: the current governor, droop, voltages and domains. -/

namespace Sys2Proof.Machine

/-! ## The governor (R418 to R420) -/

section
variable (s : State) (k : Nat)

theorem advanceTo_floorUa : (s.advanceTo k).floorUa = s.floorUa := by
  unfold State.advanceTo
  split <;> rfl

theorem advanceTo_slewUa : (s.advanceTo k).slewUa = s.slewUa := by
  unfold State.advanceTo
  split <;> rfl

end

theorem endDummies_keeps (s : State) : s.endDummies.clk = s.clk ∧ s.endDummies.power = s.power := by
  unfold State.endDummies
  generalize List.range 6 = l
  induction l generalizing s with
  | nil => exact ⟨rfl, rfl⟩
  | cons n r ih =>
    rw [List.foldl_cons, (ih _).1, (ih _).2]
    split
    · split
      · exact ⟨rfl, rfl⟩
      · exact ⟨rfl, rfl⟩
    · exact ⟨rfl, rfl⟩

/-- The state with the slices' increases granted from what the estimate leaves for them. -/
def State.granted (s : State) (demand : List Nat) (other est : Nat) : State :=
  ((s.grantOrder.map (fun n => (n, demand.getD n 0))).foldl State.grantOne
    (est - (other + sumOf (fun n => min (demand.getD n 0) (s.pslice n).ua) (List.range 6)), s)).2

theorem granted_clk (s : State) (demand : List Nat) (other est : Nat) : (s.granted demand other est).clk = s.clk :=
  grant_keeps_power _ _

/-- The state with a new estimate and the fill that a demand of total leaves, dummy passes that are over having ended. -/
def State.estimated (s : State) (est total : Nat) : State :=
  State.endDummies { s with power := { s.power with estUa := est, fillUa := est - total } }

theorem estimated_clk (s : State) (est total : Nat) : (s.estimated est total).clk = s.clk :=
  (endDummies_keeps _).1

theorem estimated_estUa (s : State) (est total : Nat) : (s.estimated est total).power.estUa = est :=
  congrArg Power.estUa (endDummies_keeps { s with power := { s.power with estUa := est, fillUa := est - total } }).2

theorem estimated_fillUa (s : State) (est total : Nat) : (s.estimated est total).power.fillUa = est - total :=
  congrArg Power.fillUa (endDummies_keeps { s with power := { s.power with estUa := est, fillUa := est - total } }).2

theorem exec_governorStep {s a : State} {ds : List Nat} {other total : Nat} (powered : s.rst.phase ≠ .powerReset)
    (later : s.advanceTo (s.clk.now + 100) = a) (sum : other + sumOf (fun n => ds.getD n 0) (List.range 6) = total) :
    exec (.governorStep ds other) s = .next
      (if total < a.nextEstimate total && !((a.granted ds other (a.nextEstimate total)).estimated (a.nextEstimate total) total).noFill
        then ((a.granted ds other (a.nextEstimate total)).estimated (a.nextEstimate total) total).startTwilight
        else (a.granted ds other (a.nextEstimate total)).estimated (a.nextEstimate total) total) := by
  subst later sum
  show execGovernorStep ds other s = _
  simp only [execGovernorStep, beq_eq_false_iff_ne.mpr powered, Bool.false_eq_true, if_false]
  rfl

/-- The step's estimate, in terms of the state before the 0.1 µs passed. -/
theorem nextEstimate_advanceTo (s : State) (k total : Nat) :
    (s.advanceTo k).nextEstimate total ≤ s.power.estUa + s.slewUa ∧
    (s.power.clamp110 = false → s.power.vrHot = false → s.power.tripped = false →
      s.power.estUa ≤ (s.advanceTo k).nextEstimate total + s.slewUa) ∧
    (s.floorUa ≤ s.power.estUa + s.slewUa → s.floorUa ≤ (s.advanceTo k).nextEstimate total) := by
  have le := nextEstimate_le (s.advanceTo k) total
  have ge := nextEstimate_ge (s.advanceTo k) total
  have floor := nextEstimate_floor (s.advanceTo k) total
  rw [State.advanceTo_power, advanceTo_slewUa] at le ge
  rw [State.advanceTo_power, advanceTo_slewUa, advanceTo_floorUa] at floor
  exact ⟨le, ge, floor⟩

theorem governorStep_estimates {s : State} (ds : List Nat) (other : Nat) (powered : s.rst.phase ≠ .powerReset) :
    let total := other + sumOf (fun n => ds.getD n 0) (List.range 6)
    ∃ t, exec (.governorStep ds other) s = .next (if total < t.power.estUa && !t.noFill then t.startTwilight else t) ∧
      t.clk.now = s.clk.now + 100 ∧ t.power.estUa ≤ s.power.estUa + s.slewUa ∧
      (s.power.clamp110 = false → s.power.vrHot = false → s.power.tripped = false → s.power.estUa ≤ t.power.estUa + s.slewUa) ∧
      (s.floorUa ≤ s.power.estUa + s.slewUa → s.floorUa ≤ t.power.estUa) ∧
      t.power.fillUa = t.power.estUa - total := by
  intro total
  refine ⟨State.estimated ((s.advanceTo (s.clk.now + 100)).granted ds other ((s.advanceTo (s.clk.now + 100)).nextEstimate total))
    ((s.advanceTo (s.clk.now + 100)).nextEstimate total) total, ?_, ?_, ?_⟩
  · rw [estimated_estUa]
    exact exec_governorStep powered rfl rfl
  · rw [estimated_clk, granted_clk, State.advanceTo_now]
    exact Nat.max_eq_right (Nat.le_add_right _ _)
  · rw [estimated_estUa, estimated_fillUa]
    obtain ⟨le, ge, floor⟩ := nextEstimate_advanceTo s (s.clk.now + 100) total
    exact ⟨le, ge, floor, rfl⟩

/-! ## Voltages (R413) -/

theorem exec_voltageSettled {s : State} {sl : SliceId} {f t0 : Nat} (waiting : (s.pslice sl).settling = some (f, t0)) :
    exec (.voltageSettled sl) s = .next ((s.advanceTo (t0 + 200 * us)).modPslice sl (fun p => { p with
      mhz := f, sliver6 := 5 * f, settling := none })) := by
  show execVoltageSettled sl s = _
  simp only [execVoltageSettled, waiting]
  rfl

/-! ## Domains (R409, R410) -/

theorem retains_of_switched (d : Fin 219) (sw : switched d = true) : retains d = false := by
  simp only [switched, Bool.or_eq_true, Bool.and_eq_true, decide_eq_true_eq, beq_iff_eq] at sw
  rw [Bool.eq_false_iff, ne_eq, retains, Bool.and_eq_true, Bool.and_eq_true, decide_eq_true_eq, decide_eq_true_eq,
    decide_eq_true_eq]
  omega

/-- The state with domain d recorded as on. -/
def State.domainPut (s : State) (d : Nat) : State := { s with power := { s.power with domains := tput s.power.domains d true } }

/-- The state with domain d recorded as off, or at retention. -/
def State.domainDel (s : State) (d : Nat) : State := { s with power := { s.power with domains := tdel s.power.domains d } }

section
variable {s : State} {d : Fin 219}

theorem exec_domainWake (down : s.asleep d = true) (powered : s.rst.phase ≠ .powerReset)
    (started : s.rst.phase ≠ .recovery) (fed : d.val < 162 → s.slicePowered (d / 27) = true) :
    exec (.domainWake d) s = .next ((s.advanceTo (s.clk.now + wakeNs d)).domainPut d) := by
  have supplied : (decide (d.val < 162) && !s.slicePowered (d / 27)) = false := by
    rw [Bool.and_eq_false_iff, decide_eq_false_iff_not, Bool.not_eq_false']
    exact (Nat.lt_or_ge d.val 162).elim (fun slice => .inr (fed slice)) (fun other => .inl (Nat.not_lt.mpr other))
  show execDomainWake d s = _
  simp only [execDomainWake, down, beq_eq_false_iff_ne.mpr powered, beq_eq_false_iff_ne.mpr started, supplied,
    Bool.not_true, Bool.or_self, Bool.false_eq_true, if_false]
  rfl

theorem exec_domainOff (kind : (switched d || retains d) = true) (up : s.asleep d = false)
    (idle : s.domainBusy d = false) : exec (.domainOff d) s = .next (s.domainDel d) := by
  show execDomainOff d s = _
  simp only [execDomainOff, kind, up, idle, Bool.not_true, Bool.or_self, Bool.false_eq_true, if_false]
  rfl

theorem exec_domainOff_busy (busy : s.domainBusy d = true) : exec (.domainOff d) s = .next s := by
  show execDomainOff d s = _
  simp only [execDomainOff, busy, Bool.or_true, if_true]

theorem asleep_of_switched (sw : switched d = true) : s.asleep d = !s.domainOn d := by
  simp only [State.asleep, retains_of_switched d sw, sw, Bool.false_eq_true, if_false, Bool.true_and]

end

section
variable (s : State) (d k : Nat)

theorem domainPut_on (sw : switched d = true) (powered : s.rst.phase ≠ .powerReset)
    (fed : d < 162 → s.slicePowered (d / 27) = true) : ((s.advanceTo k).domainPut d).domainOn d = true := by
  refine domainOn_of _ d sw ?_ (tget_tput_same _ _ _ _) fun slice => ?_
  · exact (State.advanceTo_rst s k).symm ▸ powered
  · have same : ((s.advanceTo k).domainPut d).slicePowered (d / 27) = (s.advanceTo k).slicePowered (d / 27) := rfl
    rw [same, State.slicePowered, State.advanceTo_num, State.advanceTo_slice]
    exact fed slice

theorem domainPut_other {e : Nat} (other : e ≠ d) : ((s.advanceTo k).domainPut d).domainOn e = s.domainOn e := by
  refine domainOn_same s _ e (State.advanceTo_rst s k) (State.advanceTo_objs s k) (State.advanceTo_slices s k) ?_
  exact (tget_tput_other _ _ _ _ _ other).trans (by rw [State.advanceTo_power])

theorem domainDel_off (sw : switched d = true) : (s.domainDel d).domainOn d = false := by
  have gone : tget false (s.domainDel d).power.domains d = false := by
    rw [tget, State.domainDel, tfind_tdel_same]
    rfl
  simp only [State.domainOn, sw, gone, Bool.false_and, if_true, ite_self]

theorem domainDel_other {e : Nat} (other : e ≠ d) : (s.domainDel d).domainOn e = s.domainOn e :=
  domainOn_same s _ e rfl rfl rfl (tget_tdel_other _ _ _ _ other)

theorem domainPut_now : ((s.advanceTo (s.clk.now + k)).domainPut d).clk.now = s.clk.now + k := by
  rw [State.domainPut, State.advanceTo_now]
  exact Nat.max_eq_right (Nat.le_add_right _ _)

end

/-- Settles O59: the estimate by `nextEstimate_advanceTo`, the domains by what a record of one changes. One piece of
twilight work a step is the model's choice (notes/assumptions/58.md). -/
theorem governorAndDomains : Obligations.GovernorAndDomains := by
  intro s
  refine ⟨fun ds other => governorStep_estimates ds other, fun sl => ⟨rfl, rfl, fun f t0 => exec_voltageSettled⟩,
    fun d sw => ⟨fun off powered started fed => ?_, fun up idle => ?_, fun _ => exec_domainOff_busy⟩,
    fun d keeps => ⟨fun down powered started fed => exec_domainWake down powered started fun _ => fed,
      exec_domainOff (by rw [keeps, Bool.or_true]), fun _ => exec_domainOff_busy⟩, by decide⟩
  · exact ⟨_, exec_domainWake ((asleep_of_switched sw).trans (by rw [off]; rfl)) powered started fed,
      domainPut_on s d _ sw powered fed, domainPut_now s d _, fun e => domainPut_other s d _⟩
  · exact ⟨_, exec_domainOff (by rw [sw, Bool.true_or]) ((asleep_of_switched sw).trans (by rw [up]; rfl)) idle,
      domainDel_off s d sw, fun e => domainDel_other s d⟩

end Sys2Proof.Machine
end

section
/-! The proof of O60: the reads of the regulators and power emergencies. -/

namespace Sys2Proof.Machine

/-! ## The commands that have the regulators read (R426, R428) -/

/-- The state with VR_HOT_N high and its clamp ended. -/
def State.vrHotReleased (s : State) : State :=
  { s with pins := { s.pins with vrHotN := true }, power := { s.power with vrHot := false } }

section
variable {s : State} {rs : List RegRead}

theorem readRegs_running (cause : Nat) (up : s.runs P.pwp = true) :
    s.readRegs rs cause = ((rs.foldl State.readReg s).judgeRegs).refreshPower cause := by
  simp only [State.readRegs, up, Bool.not_true, Bool.false_eq_true, if_false]

theorem readRegs_restarting (cause : Nat) (down : s.runs P.pwp = false) : s.readRegs rs cause = s := by
  simp only [State.readRegs, down, Bool.not_false, if_true]

section
variable (powered : s.rst.phase ≠ .powerReset)
include powered

theorem exec_pmbAlertN : exec (.pmbAlertN rs) s = done s (s.readRegs rs 4) := by
  show execPmbAlertN rs s = _
  simp only [execPmbAlertN, beq_eq_false_iff_ne.mpr powered, Bool.false_eq_true, if_false]

theorem exec_pmbusPoll : exec (.pmbusPoll rs) s = done s (s.readRegs rs 4) := by
  show execPmbusPoll rs s = _
  simp only [execPmbusPoll, beq_eq_false_iff_ne.mpr powered, Bool.false_eq_true, if_false]

theorem exec_vrHotNAssert (high : s.pins.vrHotN = true) :
    exec (.vrHotNAssert rs) s = done s ((State.refreshPower (State.count { s with
      pins := { s.pins with vrHotN := false },
      power := { s.power with vrHot := true, powerClear := none } } Obj.vrhotAsserts) 3).readRegs rs 4) := by
  show execVrHotNAssert rs s = _
  simp only [execVrHotNAssert, beq_eq_false_iff_ne.mpr powered, high, Bool.not_true, Bool.or_self, Bool.false_eq_true,
    if_false]

variable (low : s.pins.vrHotN = false)
include low

theorem exec_vrHotNDeassert_running (up : s.runs P.pwp = true) :
    exec .vrHotNDeassert s = done s (s.vrHotReleased.judgeRegs.refreshPower 3) := by
  show execVrHotNDeassert s = _
  simp only [execVrHotNDeassert, beq_eq_false_iff_ne.mpr powered, low, up, Bool.or_self, Bool.false_eq_true, if_false,
    if_true]
  rfl

theorem exec_vrHotNDeassert_restarting (down : s.runs P.pwp = false) :
    exec .vrHotNDeassert s = done s (s.vrHotReleased.refreshPower 3) := by
  show execVrHotNDeassert s = _
  simp only [execVrHotNDeassert, beq_eq_false_iff_ne.mpr powered, low, down, Bool.or_self, Bool.false_eq_true, if_false]
  rfl

end
end

/-! ## One regulator (R426) -/

/-- The state with y kept for regulator k. -/
def State.putReg (s : State) (k : Nat) (y : Reg) : State :=
  { s with power := { s.power with regs := tput s.power.regs k y } }

section
variable {s : State} {r : RegRead} {addr : Nat} (known : s.trust.regAddrs[r.idx.val]? = some addr)
include known

theorem readReg_ok (ok : r.ok = true) : s.readReg r =
    s.putReg r.idx { fails := 0, highV := r.overCurrent, under := r.underVolt, hot := r.overTemp } := by
  simp only [State.readReg, known, ok, Bool.not_true, Bool.false_and, Bool.false_eq_true, if_false, if_true]
  rfl

variable (failed : r.ok = false)
include failed

theorem readReg_failed (early : (tget Reg.init s.power.regs r.idx).fails ≠ 2) : s.readReg r =
    s.putReg r.idx { tget Reg.init s.power.regs r.idx with fails := min 3 ((tget Reg.init s.power.regs r.idx).fails + 1) } := by
  simp only [State.readReg, known, failed, beq_eq_false_iff_ne.mpr early, Bool.and_false, Bool.false_eq_true, if_false]
  rfl

theorem readReg_third (third : (tget Reg.init s.power.regs r.idx).fails = 2) : s.readReg r =
    (s.putReg r.idx { tget Reg.init s.power.regs r.idx with fails := 3 }).postEvent 0x0603 0xFFFF
      (le 1 r.idx ++ le 1 addr) := by
  simp only [State.readReg, known, failed, third, beq_self_eq_true, Bool.not_false, Bool.and_self, Bool.false_eq_true,
    if_false, if_true]
  rfl

end

/-! ## The alarms (R428) -/

/-- A regulator reports an over-current or an under-voltage. -/
def State.alarmed (s : State) : Bool := s.power.regs.any (fun r => r.2.highV || r.2.under)

/-- No regulator reports anything and VR_HOT_N is high. -/
def State.alarmsClear (s : State) : Bool :=
  !s.power.regs.any (fun r => r.2.highV || r.2.under || r.2.hot) && s.pins.vrHotN

section
variable {s : State}

theorem judgeRegs_of_alarm (alarm : s.alarmed = true) (calm : s.power.powerEm = false) :
    s.judgeRegs = { State.count { s with power := { s.power with powerEm := true, emCeil := 400 } }
      Obj.powerEmergencies with power := { s.power with
        powerEm := true, emCeil := 400,
        powerClear := if s.alarmsClear then some (s.power.powerClear.getD s.clk.now) else none } } := by
  unfold State.alarmed at alarm
  simp only [State.judgeRegs, alarm, calm, Bool.not_false, Bool.and_self, if_true]
  rfl

theorem judgeRegs_alarm (alarm : s.alarmed = true) (calm : s.power.powerEm = false) :
    s.judgeRegs.power.powerEm = true ∧ s.judgeRegs.power.emCeil = 400 ∧
      s.judgeRegs.num Obj.powerEmergencies = (s.count Obj.powerEmergencies).num Obj.powerEmergencies := by
  rw [judgeRegs_of_alarm alarm calm]
  exact ⟨rfl, rfl, rfl⟩

theorem judgeRegs_quiet (quiet : s.alarmed = false ∨ s.power.powerEm = true) :
    s.judgeRegs = { s with power := { s.power with
      powerClear := if s.alarmsClear then some (s.power.powerClear.getD s.clk.now) else none } } := by
  have none_new : (s.alarmed && !s.power.powerEm) = false := by
    rwa [Bool.and_eq_false_iff, Bool.not_eq_false']
  unfold State.alarmed at none_new
  simp only [State.judgeRegs, none_new, Bool.false_eq_true, if_false]
  rfl

theorem judgeRegs_powerClear (s : State) : s.judgeRegs.power.powerClear =
    if s.alarmsClear then some (s.power.powerClear.getD s.clk.now) else none := by
  by_cases quiet : s.alarmed = false ∨ s.power.powerEm = true
  · rw [judgeRegs_quiet quiet]
  · rw [not_or, Bool.not_eq_false, Bool.not_eq_true] at quiet
    rw [judgeRegs_of_alarm quiet.1 quiet.2]

theorem alarmsClear_iff (s : State) : s.alarmsClear = true ↔
    (s.power.regs.any (fun r => r.2.highV || r.2.under || r.2.hot) = false ∧ s.pins.vrHotN = true) := by
  rw [State.alarmsClear, Bool.and_eq_true, Bool.not_eq_true']

theorem exec_powerEmergencyEnd {t0 : Nat} (emergency : s.power.powerEm = true) (since : s.power.powerClear = some t0)
    (up : s.runs P.pwp = true) : exec .powerEmergencyEnd s = done s (State.refreshPower { s.advanceTo (t0 + 1000 * ms) with
      power := { (s.advanceTo (t0 + 1000 * ms)).power with
        powerEm := false, emCeil := 400, emRise := (s.advanceTo (t0 + 1000 * ms)).clk.now } } 4) := by
  show execPowerEmergencyEnd s = _
  simp only [execPowerEmergencyEnd, emergency, since, up, Bool.not_true, Bool.false_eq_true, if_false]

end

/-- Settles O60: the reads by `readRegs_running`, one regulator's failures by `readReg_failed` and `readReg_third`, the
emergency by `judgeRegs_alarm` and `judgeRegs_quiet`. -/
theorem regulators : Obligations.Regulators := by
  intro s rs
  refine ⟨⟨fun powered up => ?_, fun powered down => ?_, exec_vrHotNAssert⟩,
    fun powered low => ⟨exec_vrHotNDeassert_running powered low, exec_vrHotNDeassert_restarting powered low⟩,
    fun r addr known => ⟨readReg_ok known, readReg_failed known, readReg_third known⟩,
    ⟨judgeRegs_alarm, fun quiet => ?_, fun clear => ?_, fun unclear => ?_⟩, fun t0 => exec_powerEmergencyEnd⟩
  · rw [exec_pmbAlertN powered, exec_pmbusPoll powered, readRegs_running 4 up]
    exact ⟨rfl, rfl⟩
  · rw [exec_pmbAlertN powered, exec_pmbusPoll powered, readRegs_restarting 4 down]
    exact ⟨rfl, rfl⟩
  · rw [judgeRegs_quiet quiet]
    exact ⟨rfl, rfl⟩
  · exact (judgeRegs_powerClear s).trans (if_pos ((alarmsClear_iff s).2 clear))
  · exact (judgeRegs_powerClear s).trans (if_neg (mt (alarmsClear_iff s).1 unclear))

end Sys2Proof.Machine
end
